-- ==== Sys2Proof/Word.lean ====
section
/-! DEFINITION. The word types of the Symus module (00 R8): bytes, 32-bit register words, and the unit
numbers software sees (00 R2, R3; 01 Table 1.3). -/

namespace Sys2Proof

/-- A byte of memory or of a frame. -/
abbrev Byte := BitVec 8

/-- A 32-bit word of the configuration space. -/
abbrev Word := BitVec 32

/-- A Gulane port (03 R57). -/
abbrev GPort := Fin 2

/-- A global logical pier, span × 16 + pier (00 R3). -/
abbrev PierNo := Fin 128

/-- An engine of a pier, in the order of Table 11.3. -/
abbrev EngNo := Fin 8

/-- A logical girder of a pier. -/
abbrev GirdNo := Fin 4

/-- A span, and the stack near it. -/
abbrev SpanNo := Fin 8

/-- A context (03 R73). -/
abbrev CtxNo := Fin 64

/-- A carousel node, and the RSE at it (00 Table 0.6). -/
abbrev NodeNo := Fin 80

/-- A port group (04 R91). -/
abbrev GroupNo := Fin 64

/-- A lane of a port group, or a port of it by its first lane. -/
abbrev LaneNo := Fin 8

/-- An external port slot 8g + p (05, 06). -/
abbrev SlotNo := Fin 512

end Sys2Proof
end

