-- ==== Sys2Proof/Syntax.lean ====
section
/-! DEFINITION. The commands of the module, one constructor per row of the spec's table of operations and events, with
what the outside brings to each: the port, the unit, the frame or packet, and the readings of sensors and lines. -/

namespace Sys2Proof

/-- A Gulane transaction as a frame carries it (03 Table 3.2), with its data. -/
structure Txn where
  op : Nat
  flags : Nat := 0
  tag : Nat := 0
  len : Nat
  ctx : Nat := 0xFF
  status : Nat := 0
  addr : Nat
  data : List Byte := []
  deriving DecidableEq, Repr

/-- Whose register access is ready at an arbiter: one port's, or both ports' in one core cycle (03 R67). -/
inductive Ready where
  | one (p : GPort)
  | both
  deriving DecidableEq, Repr

/-- What the background audit meets in the live areas (03 R84, R85): nothing, a word that its ECC corrects, a word that
it cannot correct, or a word that has changed unseen. -/
inductive AuditSeen where
  | clean
  | corrected (a : Nat)
  | uncorrectable (a : Nat)
  | upset (a : Nat) (w : Word)
  deriving DecidableEq, Repr

/-- The packet error code of a management bus transaction (19 R475): none, one that passes, one that fails. -/
inductive Pec where
  | none | good | bad
  deriving DecidableEq, Repr

/-- What an RSE knows of a collective that its packets do not carry: the 128 bytes of its descriptor, the RSE list of a
stream, the ranks below each down edge of its tree that is a link, and the tag of the command. -/
structure Known where
  desc : List Byte
  list : List Nat := []
  below : List (List Nat) := []
  tag : Nat := 0
  deriving DecidableEq, Repr

/-- What a unit's own checks find while it works on something: nothing, an SRAM word that its ECC corrects or cannot correct (18 R449,
R450), or a residue that does not match (18 R459). -/
inductive UnitErr where
  | none | corrected | sram | residue
  deriving DecidableEq, Repr

/-- What a sentinel vector showed (18 R460, R462): it passed; the result of one physical rivet position differed; or the unit's
result differed otherwise. -/
inductive VecResult where
  | pass
  | position (k : Fin 17)
  | whole
  deriving DecidableEq, Repr

/-- What a girder's own checks find while it runs a command: nothing, an SRAM word at a local address that its ECC corrects or cannot
correct (18 R449, R450), or a residue at a logical rivet that does not match (18 R459). -/
inductive PierErr where
  | none
  | corrected (a : BitVec 24)
  | sram (a : BitVec 24)
  | residue (rivet : Fin 16)
  deriving DecidableEq, Repr

/-- What the ECC of HBM finds while a command reads: nothing, a word that it corrects, or one that it cannot (15 R394). -/
inductive MemSeen where
  | none
  | corrected (a : Nat)
  | uncorrectable (a : Nat)
  deriving DecidableEq, Repr

/-- What the Ringmaster does for a service operation (14 R358, R359, R374): it takes the next request of queue j, goes on with the
request in progress at a place, or goes on with the sending of a shard. -/
inductive SvcStep where
  | take (j : Fin 8)
  | go (slot : Fin 16)
  | mirror (id : Nat)
  deriving DecidableEq, Repr

/-- The commands: the rows of the table of operations and events, in its order. -/
inductive Instr where
  /-- RESET_L held low for at least 1 µs starts a full reset that lasts while the pin stays low. (R431) -/
  | resetLAssert
  /-- Full reset sets every register to its Reset value, frees the Keystone, closes every Causeway pair, brings every function to OFF and discards the image and firmware. (R430) -/
  | fullReset
  /-- When the full reset ends, fuses load DK_DEVICE_ID, DK_UNIT_COUNTS and the unit map, and Viaduct lane training begins. (R431) -/
  | resetEnd
  /-- Viaduct lane training finishes, maps failing lanes onto spares and sets DK_VIADUCT_STATUS. (R19) -/
  | viaductTraining (f01 : Fin 1025) (f10 : Fin 1025)
  /-- The boot ROM runs self-test, the Viaduct check and HBM training, then waits in FW_WAIT or halts. (R432) -/
  | bootRom (selfTest : Bool) (failed : List (SpanNo × Fin 16))
  /-- The housekeeping supply starts once the input rises above 36 V and powers the sequencer, SMBus and pull-ups. (R474) -/
  | housekeepingStart
  /-- After the input and PWR_EN have held for 10 ms, the start sequencer begins raising the rails in order. (R426) -/
  | sequencerStart
  /-- A rail enters its window, and the sequencer starts the next rail at least 0.2 ms later. (R426) -/
  | railInWindow (k : Fin 18)
  /-- The root PLL locks after power-good and the power-up full reset ends. (R426) -/
  | pllLock
  /-- A rail misses its window in time or leaves it for more than 50 µs; the sequencer removes every rail, drives FAULT_L low and latches the rail index. (R427) -/
  | sequencerFault (k : Fin 18)
  /-- Deasserting PWR_EN removes the Causeway drive, then the rails in reverse order. (R428) -/
  | pwrEnDeassert
  /-- The input stays below 40.0 V or above 57.0 V for more than 20 µs and the rails are removed. (R428) -/
  | inputOutOfRange
  /-- A junction at or above 125 °C trips the power stages, drives FAULT_L low and latches cause 0xFF. (R429) -/
  | thermalTrip
  /-- After PWR_EN has been deasserted for 100 ms the sequencer fault latch clears. (R427) -/
  | seqLatchClear
  /-- A Viaduct flit arrives; a correctable one is corrected and counted, and an uncorrectable one raises a DEVF record. (R22) -/
  | viaductFlit (d : Fin 2) (corrected : Bool)
  /-- A frame taken whole on a Gulane port is checked, discarded and counted when bad, or passed to its transactions or to the time unit. (R57) -/
  | gulaneFrame (p : GPort) (frame : List Byte) (seen : MemSeen)
  /-- A READ transaction performs configuration-space or HBM reads and returns READ_RSP. (R59) -/
  | read (p : GPort) (t : Txn) (seen : MemSeen) (rival : Option Txn := none)
  /-- A WRITE transaction performs register or HBM writes under the Keystone and window rules and returns WRITE_RSP. (R60) -/
  | write (p : GPort) (t : Txn) (rival : Option Txn := none)
  /-- A DOORBELL is checked and adds COUNT to a work or service queue producer count, or is discarded on overrun. (R63) -/
  | doorbell (p : GPort) (t : Txn)
  /-- A write to a register without behaviour of its own acts on each field under its access code. (R484) -/
  | registerWrite (p : GPort) (a : BitVec 32) (w : Word) (rival : Option (BitVec 32 × Word) := none)
  /-- A read of an RC field returns the value and clears the field in the arbiter's cycle. (R11) -/
  | rcRead (r : Ready) (a : BitVec 32)
  /-- A read of the low word of a multi-word register such as DK_FT_TIME or DK_STEP latches the upper words. (R288) -/
  | latchedRead (p : GPort) (a : BitVec 32)
  /-- A read of KS_ACQUIRE grants the Keystone when free, or reports the holder, or waits for the hold-off. (R68) -/
  | ksAcquire (r : Ready)
  /-- RENEW with the right ticket restarts the Keystone lease. (R71) -/
  | renew (p : GPort) (ticket : BitVec 16)
  /-- RELEASE with the right ticket frees the Keystone and starts the hold-off. (R71) -/
  | release (p : GPort) (ticket : BitVec 16)
  /-- DEVICE_RESET with the right ticket schedules a full reset pulse after the WRITE_RSP. (R71) -/
  | deviceReset (p : GPort) (ticket : BitVec 16)
  /-- The Keystone lease ends and the Keystone releases itself. (R70) -/
  | leaseExpire
  /-- The 24-cycle hold-off ends and a waiting KS_ACQUIRE is performed. (R72) -/
  | holdOffEnd
  /-- The die-1 arbiter's holder record follows a die-0 change 12 core cycles later. (R72) -/
  | die1RecordUpdate
  /-- A holder's write to a shadow protection area changes the shadow, or is ignored while CHECKING. (R80) -/
  | shadowWrite (p : GPort) (x : CtxNo) (off : Fin 1280) (w : Word)
  /-- COMMIT to KS_PROT_CTRL starts the protection checks and sets STATE to CHECKING. (R77) -/
  | commit (p : GPort)
  /-- DISCARD copies every live area into its shadow and ends a CHECKING commit with LEASE. (R81) -/
  | discard (p : GPort)
  /-- The protection checks finish and the commit is rejected or becomes PENDING. (R77) -/
  | protCheckEnd
  /-- At the next protection epoch every checking point switches to the new live areas, KS_PROT_EPOCH rises and a journal entry is written. (R78) -/
  | protEpoch
  /-- The background audit re-digests the live areas and compares them with KS_PROT_LIVE. (R84) -/
  | auditPass (seen : AuditSeen) (cycles : Nat)
  /-- LOAD to DK_IMG_CTRL starts validation of the staged image. (R44) -/
  | imgLoad (p : GPort)
  /-- ABORT during validation stops the loader with LEASE. (R48) -/
  | imgAbort (p : GPort)
  /-- DISARM while ARMED discards the armed partial image and returns STATE to ACTIVE. (R53) -/
  | imgDisarm (p : GPort)
  /-- Validation ends: the image is rejected, armed as a partial image, or committed as a full image. (R46) -/
  | validationEnd (cycles : Nat)
  /-- The full-image commit completes and sets the serial, digest and STATE ACTIVE. (R49) -/
  | commitEnd
  /-- FLIP inverts CUR, sets OLD_LIVE, applies any armed partial image and opens new tree records, or is refused. (R134) -/
  | flip (p : GPort)
  /-- RETIRE clears OLD_LIVE, drops cached old rank entries and copies the sections and program store in force into the retired version. (R135) -/
  | retire (p : GPort)
  /-- A Balnov packet received whole at a port is checked, resolved, routed or delivered, and placed in the buffer with push-out if needed. (R109) -/
  | packetArrive (k : Fin 608) (bytes : List Byte) (unc : List LaneNo) (sram : Bool)
  /-- The resequencer passes a packet to its egress queue once all its cells and earlier cells have arrived. (R146) -/
  | resequencerRelease (n : NodeNo) (i : NodeNo) (cls : Fin 8)
  /-- The egress scheduler starts a ready packet on a port and charges its shaping buckets. (R157) -/
  | egressStart (k : Fin 528)
  /-- A MIRROR or BULK packet that has waited AGE_US without credit is dropped. (R128) -/
  | ageDrop (k : SlotNo) (bulk : Bool)
  /-- Every INTERVAL × 64 cycles each egress queue adds one sample to its depth and delay histograms. (R160) -/
  | sampleTick
  /-- Every WINDOW_NS each output and class throttle level is raised or lowered from the egress depth. (R132) -/
  | throttleWindow
  /-- A CREDIT link packet updates the sender's available credit per channel. (R113) -/
  | credit (k : SlotNo) (bytes : List Byte)
  /-- A port sends a CREDIT link packet at least every 1 µs and soon after freeing 16 cells. (R113) -/
  | linkPacketSend (k : SlotNo)
  /-- An arriving PUT data packet passes the stream check and lands at its STANDING receive. (R308) -/
  | put (p : PierNo)
  /-- An arriving SEND data packet is matched to the oldest armed ONESHOT receive and lands. (R308) -/
  | sendPacket (p : PierNo)
  /-- A responder checks a GET_REQ against its EXPOSE receive and sends GET_RSP packets. (R309) -/
  | getReq (p : PierNo)
  /-- An arriving GET_RSP lands in the RSP receive and the packet with LAST completes the GET. (R309) -/
  | getRsp (p : PierNo)
  /-- An ACK in range releases copies and advances TX_UNA. (R124) -/
  | ack (u : Fin 129)
  /-- A NACK starts a resend from its SEQ, at once or after RTO by reason. (R124) -/
  | nack (u : Fin 129)
  /-- An EVICT_NOTICE at the source starts a resend from its SEQ. (R124) -/
  | evictNotice (u : Fin 129)
  /-- The 2 µs acknowledgement timer expires and the destination sends the pending ACK. (R123) -/
  | ackTimer (r : BitVec 22)
  /-- No advance of TX_UNA for RTO raises TRIES and resends, or puts the stream in ERROR. (R124) -/
  | retransmitTimeout (r : BitVec 22)
  /-- A lane passes a training phase, and after DESKEW its port comes UP. (R94) -/
  | trainingPhasePass (g : GroupNo) (l : LaneNo) (inverted : Bool) (peerMode : Fin 4) (peerBreakout : Fin 4) (peerLane : LaneNo) (skew : Nat)
  /-- A lane not trained 100 ms after starting restarts from DETECT and counts a training. (R94) -/
  | laneTrainTimeout (g : GroupNo) (l : LaneNo)
  /-- A lane loses alignment while ON, its port goes down and retrains. (R96) -/
  | alignmentLost (g : GroupNo) (l : LaneNo)
  /-- A lane that corrects more than 65,536 symbols in 1 ms raises FEC_DEGRADE. (R99) -/
  | fecDegrade (g : GroupNo) (l : LaneNo) (symbols : Nat)
  /-- A write of CWY_CTRL.OPEN starts or reverses the motion of a pair, or is refused. (R102) -/
  | cwyCtrlOpen (p : GPort) (j : SpanNo) (o : Bool)
  /-- A moving pair reaches OPEN or CLOSED. (R102) -/
  | cwyMotionEnd (j : SpanNo)
  /-- The drive monitor finds a fault, removes the drive from all pairs and sets FAULT. (R104) -/
  | driveFault
  /-- A write of BPM_META_BASE[1] while MODE is NONE builds the free lists and sets MODE LIST, or is refused. (R165) -/
  | bpmMetaBaseWrite (p : GPort) (w : Word)
  /-- TO_RING while MODE is LIST starts the switch to RING form. (R167) -/
  | toRing (p : GPort)
  /-- TO_LIST while MODE is RING starts the switch to LIST form. (R167) -/
  | toList (p : GPort)
  /-- A switch of form completes, held returns are applied and MODE changes. (R167) -/
  | bpmSwitchEnd
  /-- A buffer request is served from the smallest fitting pool or waits on quota or free buffers. (R169) -/
  | bpmRequest (x : CtxNo) (c : Fin 7) (n : Nat)
  /-- A waiting buffer request is served in arrival order once quota and a buffer are free. (R169) -/
  | bpmWaitingServed (k : Fin 5)
  /-- A returned handle is checked and, if it passes, freed and uncharged. (R168) -/
  | bpmReturn (x : CtxNo) (c : Fin 7) (h : BitVec 64)
  /-- Writing CLEAR to CTX_NAN_CTRL clears HIT, the record and the count. (R203) -/
  | nanClear (x : CtxNo)
  /-- A first-hop RSE converts a NATIVE partial's elements to anchored elements and adds them. (R210) -/
  | native (n : NodeNo) (k : Known) (x : UnitErr)
  /-- An RSE adds an ANCHORED partial's blocks exactly to its held sums. (R216) -/
  | anchored (n : NodeNo) (k : Known) (x : UnitErr)
  /-- An RSE pairs a FAST canonical-tree node with its sibling in FP32. (R225) -/
  | fast (n : NodeNo) (k : Known) (x : UnitErr)
  /-- An RSE takes the maximum of pre-pass exponent bytes per anchor block. (R214) -/
  | exponent (u : Fin 208) (up : Bool) (k : Known)
  /-- An RSE adds a received scan offset to earlier child totals and sends offsets down. (R228) -/
  | scanOffset (n : NodeNo) (k : Known) (x : UnitErr)
  /-- A RESULT packet lands in the member's landing buffer and the collective completes when all blocks have landed. (R263) -/
  | result (u : Fin 208) (k : Known)
  /-- An IN stream packet is checked and its records run through a streaming stage or are held for a gathered stage. (R243) -/
  | inPkt (n : NodeNo) (k : Known) (stepwise : Bool)
  /-- A home RSE takes a PART packet's records for stage 1. (R247) -/
  | part (n : NodeNo) (k : Known) (stepwise : Bool)
  /-- A member's RXE writes an OUT packet's entries, bodies or table words into its landing buffer. (R248) -/
  | outPkt (u : PierNo) (entries : List Nat)
  /-- An END packet tells a receiver the sender's packet count for the operation. (R238) -/
  | endPkt (u : Fin 208) (k : Known)
  /-- Once every sender's packets are held, a gathered stage runs over its records in canonical order. (R243) -/
  | gatheredStage (n : NodeNo) (stepwise sram : Bool)
  /-- Stream instruction that does nothing. (R243) -/
  | nop (n : NodeNo)
  /-- Stream instruction Fd := Fa + Fb. (R244) -/
  | add (n : NodeNo)
  /-- Stream instruction Fd := minimum(Fa, Fb). (R244) -/
  | min (n : NodeNo)
  /-- Stream instruction Fd := maximum(Fa, Fb). (R244) -/
  | max (n : NodeNo)
  /-- Stream instruction Fd := Fa × Fb. (R244) -/
  | mul (n : NodeNo)
  /-- Stream instruction Fd := Fa + IMM. (R244) -/
  | addi (n : NodeNo)
  /-- Stream instruction Fd := Fa × IMM. (R244) -/
  | muli (n : NodeNo)
  /-- Stream instruction Fd := IMM. (R243) -/
  | movi (n : NodeNo)
  /-- Stream instruction Fd := PARAM[IMM]. (R243) -/
  | movp (n : NodeNo)
  /-- Stream instruction Fd := RANK or IDX of the record. (R243) -/
  | getid (n : NodeNo)
  /-- Stream instruction Pd := Fa cond Fb. (R244) -/
  | cmp (n : NodeNo)
  /-- Stream instruction Pd := Fa cond IMM. (R244) -/
  | cmpi (n : NodeNo)
  /-- Stream instruction combining two predicates. (R243) -/
  | plog (n : NodeNo)
  /-- Stream instruction selecting Fa or Fb by a predicate. (R243) -/
  | sel (n : NodeNo)
  /-- Stream instruction converting Fa between TYPEs. (R244) -/
  | cvt (n : NodeNo)
  /-- Stream instruction Fd := T[Fa]. (R251) -/
  | gather (n : NodeNo)
  /-- Stream instruction combining Fb into T[Fa] in current order. (R251) -/
  | scatter (n : NodeNo)
  /-- Stream instruction returning T[Fa] and adding IMM to it. (R251) -/
  | fetchadd (n : NodeNo)
  /-- Stream instruction counting records into a clamped table bin. (R251) -/
  | hist (n : NodeNo)
  /-- Stream instruction adding the number of guarded records to T[IMM]. (R243) -/
  | count (n : NodeNo)
  /-- Stream instruction taking Fa of the preceding record in current order. (R243) -/
  | prev (n : NodeNo)
  /-- Stream instruction reordering records by key, then rank, then index. (R245) -/
  | sort (n : NodeNo)
  /-- Stream instruction keeping the best IMM records, optionally per segment. (R246) -/
  | topk (n : NodeNo)
  /-- Stream instruction removing records whose predicate is 0. (R243) -/
  | filter (n : NodeNo)
  /-- Stream instruction removing and counting records whose predicate is 1. (R250) -/
  | drop (n : NodeNo)
  /-- Stream instruction sending a table to a member's landing buffer. (R249) -/
  | temit (n : NodeNo)
  /-- Stream instruction sending each record to its home RSE in PART packets. (R247) -/
  | hpart (n : NodeNo)
  /-- Stream instruction sending each guarded record to a member's landing entry. (R248) -/
  | emit (n : NodeNo)
  /-- LOAD to RSE_PLOAD starts checking the staged program for a slot. (R255) -/
  | progLoad (p : GPort) (slot : Fin 64)
  /-- CLEAR to RSE_PLOAD starts emptying a slot of the retired version. (R255) -/
  | progClear (p : GPort) (slot : Fin 64)
  /-- The slot check finishes and writes the slot or rejects the load. (R255) -/
  | progLoadEnd (cycles : Nat)
  /-- The TXE checks a collective descriptor, arms the landing and launches the collective. (R310) -/
  | coll (p : PierNo) (x : MemSeen) (sram : Option (BitVec 24))
  /-- A collective not complete within 2^WD µs completes TIMEOUT and disarms its landing. (R286) -/
  | collWatchdog (p : PierNo) (t : Fin 4096) (c : BitVec 16)
  /-- Collective state at an RSE not complete after 2^RWD µs is freed with its slots. (R274) -/
  | rseWatchdog (n : NodeNo) (t : Fin 4096) (c : BitVec 16)
  /-- An ARRIVE barrier record is counted; complete modules send ARRIVE up, and the root sends RELEASE. (R280) -/
  | barrierArrive (k : Known)
  /-- A RELEASE record arms START, is answered with RELEASE_ACK and forwarded down. (R281) -/
  | barrierRelease (u : Fin 129)
  /-- A RELEASE_ACK stops the resends of RELEASE on its edge. (R280) -/
  | barrierReleaseAck
  /-- Every 4 µs unanswered ARRIVE and RELEASE records are sent again. (R280) -/
  | barrierResend
  /-- Fabric time reaches START and the barrier fires, completing its members' barrier commands. (R281) -/
  | barrierFire
  /-- The 4 MiB copy of a retired pier finishes and its queues resume on the new slot. (R28) -/
  | pierCopyEnd (p : PierNo)
  /-- A rivet retirement sets the skip field when the girder is between macro-operations. (R28) -/
  | rivetRetireApply (p : PierNo) (g : GirdNo)
  /-- Every 16 µs a module sends a TIMESTAMP REQ to its time parent. (R278) -/
  | timestampTimer
  /-- A parent answers a TIMESTAMP REQ with an RSP. (R278) -/
  | timestampReq (k : SlotNo) (bytes : List Byte)
  /-- A TIMESTAMP RSP gives the offset, and the module steps or slews its time. (R278) -/
  | timestampRsp (k : SlotNo) (bytes : List Byte)
  /-- A time-source module takes coarse time from an IEEE 1588 message on its PTP port. (R279) -/
  | ptpMessage (p : GPort) (bytes : List Byte)
  /-- A HINT packet is forwarded on other tree edges and delivered to members, and may set the cap. (R287) -/
  | hint (u : Fin 129)
  /-- The span scheduler takes a work-queue entry and splits it into grants. (R293) -/
  | wqEntry (x : CtxNo) (i : SpanNo)
  /-- When every task of an entry has ended, its completion word is written and CONS advances. (R293) -/
  | wqEntryComplete (x : CtxNo) (i : SpanNo)
  /-- A grant starts task code on a pier's control core with its initial registers. (R295) -/
  | taskStart (p : PierNo)
  /-- A task ends by ecall with a7 = 0, or by a trap. (R295) -/
  | taskEnd (p : PierNo) (sram : Bool)
  /-- A store of byte 0x3F pushes the staged command to the engine queue when it has room. (R296) -/
  | queuePush (p : PierNo)
  /-- An engine dequeues its head command when free and its flag wait is satisfied. (R298) -/
  | commandDequeue (p : PierNo) (e : Fin 8)
  /-- A command completes: status set, completion word written and flag signalled. (R299) -/
  | commandComplete (p : PierNo) (e : Fin 8)
  /-- Command that only waits, signals and fences. (R301) -/
  | sync (p : PierNo) (e : Fin 8)
  /-- Command computing C = A·B or C += A·B in chunks over the logical tiling. (R302) -/
  | matmul (p : PierNo) (g : GirdNo) (x : PierErr)
  /-- MATMUL with a fused collective launch sending each output block as it is made. (R303) -/
  | matmulSend (p : PierNo) (g : GirdNo) (x : PierErr)
  /-- Command converting N elements between formats. (R304) -/
  | convert (p : PierNo) (g : GirdNo) (sram : Option (BitVec 24))
  /-- Command applying an element operation EOP to N elements. (R304) -/
  | elemwise (p : PierNo) (g : GirdNo) (sram : Option (BitVec 24))
  /-- Command computing a lane-ordered softmax per row. (R304) -/
  | softmax (p : PierNo) (g : GirdNo) (sram : Option (BitVec 24))
  /-- Command computing RMS or layer normalisation per row. (R304) -/
  | norm (p : PierNo) (g : GirdNo) (sram : Option (BitVec 24))
  /-- Command combining NIN inputs element by element in ascending order. (R304) -/
  | lreduce (p : PierNo) (g : GirdNo) (sram : Option (BitVec 24))
  /-- DMI command moving rows into a local store. (R305) -/
  | load (p : PierNo) (x : MemSeen) (sram : Option (BitVec 24))
  /-- LOAD that scores rows and copies the selected ones, writing the row list. (R348) -/
  | loadRowSelection (p : PierNo) (x : MemSeen) (sram : Option (BitVec 24))
  /-- LOAD that copies the rows named by a row list. (R349) -/
  | loadListin (p : PierNo) (x : MemSeen) (sram : Option (BitVec 24))
  /-- DMO command moving rows from a local store. (R305) -/
  | store (p : PierNo) (x : MemSeen) (sram : Option (BitVec 24))
  /-- TXE command sending LEN bytes on a FWD or BULK stream as PUT or SEND packets. (R307) -/
  | send (p : PierNo) (x : MemSeen) (sram : Option (BitVec 24))
  /-- TXE command checking the landing and sending a GET_REQ. (R309) -/
  | get (p : PierNo)
  /-- A GET whose LAST packet has not landed after 2^GWD µs completes TIMEOUT. (R309) -/
  | getWatchdog (p : PierNo) (tag : BitVec 32)
  /-- TXE command opening a stream record. (R306) -/
  | srOpen (p : PierNo)
  /-- TXE command draining and freeing a stream record. (R306) -/
  | srClose (p : PierNo)
  /-- RXE command arming a ONESHOT receive. (R308) -/
  | recvOneshot (p : PierNo)
  /-- RXE command arming a STANDING receive. (R308) -/
  | recvStanding (p : PierNo)
  /-- RXE command exposing a range as the source of GETs. (R308) -/
  | recvExpose (p : PierNo)
  /-- RXE command completing every receive of a record with CANCELLED. (R308) -/
  | recvCancel (p : PierNo)
  /-- Girder command running an image microprogram on its streams. (R314) -/
  | microprogram (p : PierNo) (g : GirdNo)
  /-- Access-stream word setting an address register. (R314) -/
  | setx (p : PierNo) (g : GirdNo)
  /-- Access-stream word adding to an address register. (R314) -/
  | addx (p : PierNo) (g : GirdNo)
  /-- Access-stream word pushing 64 bytes to queue A. (R314) -/
  | lda (p : PierNo) (g : GirdNo) (sram : Option (BitVec 24))
  /-- Access-stream word pushing 320 bytes to queue B. (R314) -/
  | ldb (p : PierNo) (g : GirdNo) (sram : Option (BitVec 24))
  /-- Access-stream word popping C, converting and storing 16 values. (R314) -/
  | stc (p : PierNo) (g : GirdNo)
  /-- Execute-stream word computing one chunk into accumulator tiles. (R314) -/
  | mac (p : PierNo) (g : GirdNo) (stall : Nat) (bad : Option (Fin 16))
  /-- Execute-stream word reading an accumulator tile into a vector register. (R313) -/
  | rdacc (p : PierNo) (g : GirdNo) (stall : Nat)
  /-- Execute-stream word applying an element operation lane by lane. (R314) -/
  | vop (p : PierNo) (g : GirdNo) (stall : Nat)
  /-- Execute-stream word popping A into a vector register. (R314) -/
  | vpopa (p : PierNo) (g : GirdNo) (stall : Nat)
  /-- Execute-stream word pushing a vector register to C. (R314) -/
  | vpush (p : PierNo) (g : GirdNo) (stall : Nat)
  /-- Execute-stream word setting every lane to IMM. (R314) -/
  | vset (p : PierNo) (g : GirdNo) (stall : Nat)
  /-- Execute-stream word zeroing accumulator tiles. (R314) -/
  | zacc (p : PierNo) (g : GirdNo) (stall : Nat)
  /-- Stream word repeating the following words. (R314) -/
  | loop (p : PierNo) (g : GirdNo) (exe : Bool) (stall : Nat)
  /-- Last word of a stream; the command completes when both streams end with empty queues. (R316) -/
  | uprogEnd (p : PierNo) (g : GirdNo) (exe : Bool)
  /-- A keystone write to SPN_GROUP changing CTX or CTX_VALID starts a resident-context switch. (R317) -/
  | residentSwitchStart (p : GPort) (i : SpanNo) (k : Fin 4) (w : Word)
  /-- Every pier of the group finishes save and restore, SWITCHING clears and CTX_SWITCH is raised. (R317) -/
  | ctxSwitch (i : SpanNo) (k : Fin 4) (cycles : Nat)
  /-- A keystone write to PIER_FLAG sets a counter's count before the signals of its cycle. (R325) -/
  | pierFlagWrite (p : GPort) (q : PierNo) (k : Fin 256) (w : Word)
  /-- A pier stuck for 2^WEXP cycles fires the monitor and raises a CTXF record. (R331) -/
  | tightrope (q : PierNo)
  /-- RESUME clears BROKEN and dequeues the head that broke. (R334) -/
  | breakResume (p : GPort) (q : PierNo)
  /-- STEP resumes for one dequeue and breaks again with CAUSE STEP. (R334) -/
  | breakStep (p : GPort) (q : PierNo)
  /-- Writing EN as 1 to a trace session resets WPTR and DROPPED and starts recording. (R335) -/
  | traceEnable (p : GPort) (i : Fin 16) (w : Word)
  /-- A trace record is written under the telemetry turnstile or dropped. (R336) -/
  | traceRecordWrite (i : Fin 16) (cycles : Nat)
  /-- Service request updating a shard's state and output weights, with optional collectives and mirror. (R369) -/
  | optStep (x : CtxNo) (w : SvcStep) (cycles : Nat)
  /-- Service request adding a gradient into plane A. (R369) -/
  | optAccum (x : CtxNo) (w : SvcStep)
  /-- Service request creating a key-value store and clearing its index. (R375) -/
  | kvOpen (x : CtxNo) (w : SvcStep)
  /-- Service request closing a store after its earlier requests end. (R381) -/
  | kvClose (x : CtxNo) (w : SvcStep)
  /-- Service request storing pages under keys, evicting by policy. (R377) -/
  | kvPut (x : CtxNo) (w : SvcStep)
  /-- Service request delivering pages locally or remotely. (R377) -/
  | kvGet (x : CtxNo) (w : SvcStep)
  /-- Service request deleting keys and freeing their slots. (R377) -/
  | kvDrop (x : CtxNo) (w : SvcStep)
  /-- Service request setting or clearing the PIN of keys. (R377) -/
  | kvPin (x : CtxNo) (w : SvcStep)
  /-- Service request launching a stream dispatch and listing the dropped records. (R382) -/
  | dispatch (x : CtxNo) (w : SvcStep)
  /-- Service request launching a combine and forming gate-weighted sums per token. (R383) -/
  | combine (x : CtxNo) (w : SvcStep)
  /-- Agent request sending a shard's state to a rank by the mirror protocol. (R385) -/
  | agtSendState (x : CtxNo) (w : SvcStep) (cycles : Nat)
  /-- Agent request writing the SHA3-512 of a memory range. (R384) -/
  | agtDigest (x : CtxNo) (w : SvcStep) (cycles : Nat)
  /-- Agent request stopping the taking of a context's queues 0–6. (R384) -/
  | agtQuiesce (x : CtxNo) (w : SvcStep)
  /-- Agent request clearing QUIESCED and resuming taking. (R384) -/
  | agtResume (x : CtxNo) (w : SvcStep)
  /-- Agent request completing untaken entries of quiesced queues with CANCELLED. (R384) -/
  | agtCancel (x : CtxNo) (w : SvcStep)
  /-- A service request ends: status set, completion record written and CHAIN applied. (R360) -/
  | svcRequestComplete (x : CtxNo) (j : Fin 8)
  /-- A per-bank refresh command runs under the refresh turnstile. (R396) -/
  | refresh (st : SpanNo) (cycles : Nat)
  /-- Patrol scrub reads one code word, correcting and counting what it finds. (R397) -/
  | scrub (st : SpanNo) (x : MemSeen) (cycles : Nat)
  /-- RETRAIN to MEM_CTRL starts a channel retrain. (R398) -/
  | retrain (p : GPort) (st : SpanNo) (pch : Fin 32)
  /-- A channel retrain finishes, is retried on failure, or marks the channel FAILED. (R398) -/
  | retrainEnd (st : SpanNo) (ok : Bool) (cycles : Nat)
  /-- Every 100 µs the controller reads the stack temperature and sets BWSTEP. (R400) -/
  | stackTempRead (st : SpanNo) (t : BitVec 8)
  /-- A 1 ms window of readings raises or lowers BWSTEP by one. (R400) -/
  | bwstepWindow (st : SpanNo)
  /-- REPAIR to MEM_CTRL takes a spare extent and starts a dual-write copy, or is refused. (R399) -/
  | repair (p : GPort) (st : SpanNo) (pch : Fin 32) (ext : Fin 128)
  /-- CANCEL while PENDING ends the repair and frees the spare extent. (R399) -/
  | memCancel (p : GPort) (st : SpanNo)
  /-- The repair copy finishes and the extent awaits the next flip. (R399) -/
  | repairCopyEnd (st : SpanNo) (cycles : Nat)
  /-- Writing MEM_TG EN as 1 starts the traffic generator and checker. (R402) -/
  | tgStart (p : GPort) (st : SpanNo) (k : Fin 32) (ctl : BitVec 9)
  /-- The traffic generator run completes and sets DONE. (R402) -/
  | tgDone (st : SpanNo) (k : Fin 32) (errs : List Nat) (cycles : Nat)
  /-- The reference is lost and the PLL enters holdover. (R406) -/
  | referenceLost
  /-- The reference returns and the PLL begins to slew towards lock. (R406) -/
  | referenceReturn
  /-- The PLL relocks, clears HOLDOVER and raises CLK_REF_OK. (R406) -/
  | relockEnd
  /-- Every 10 µs every rail is sampled and the excursion and divergence limits are checked. (R408) -/
  | railSample (rails : List (BitVec 16 × BitVec 16)) (act : List Nat)
  /-- Every 10 µs the cap controller updates estimates and sets every span's target step. (R414) -/
  | controlPeriod
  /-- A VARITH ramp arrives and the divider switches to the new step. (R410) -/
  | rampEnd (i : SpanNo)
  /-- A 1 ms force ends and normal allocation resumes. (R417) -/
  | forceEnd
  /-- Every 10 µs each die's junction temperature is read and thermal limits applied. (R419) -/
  | dieTempSample (t0 : BitVec 16) (t1 : BitVec 16)
  /-- CLEAR_CONS to PWR_CTRL leaves conservative mode. (R418) -/
  | clearCons (p : GPort)
  /-- SEND_HINT sends a CRITICAL_PATH hint on a tree and applies it locally. (R416) -/
  | sendHint (p : GPort)
  /-- A hint's hold ends and the cap returns to CAP_W. (R416) -/
  | hintHoldEnd
  /-- A turnstile period begins and every activity's count is reset. (R422) -/
  | turnstilePeriod
  /-- LOAD_FW in FW_WAIT starts checking the staged firmware bundle. (R434) -/
  | loadFw (p : GPort)
  /-- The bundle check finishes and the firmware starts or is rejected. (R434) -/
  | fwCheckEnd
  /-- ENROLL starts verification of an enrollment record. (R435) -/
  | enroll (p : GPort)
  /-- The enrollment record is verified and a slot fused or revoked, or rejected. (R435) -/
  | enrollEnd
  /-- Setting GO snapshots the report fields in one cycle and starts signing. (R438) -/
  | attestationGo (p : GPort) (n : GPort)
  /-- The signed report is written, GO clears and DONE sets. (R438) -/
  | attestationDone (n : GPort)
  /-- ENABLE moves a function from OFF to START, sets ENABLE_PENDING in DRAIN, or is refused. (R439) -/
  | enable (p : GPort) (f : BitVec 9)
  /-- DISABLE moves a function from ON or START to DRAIN. (R439) -/
  | disable (p : GPort) (f : BitVec 9)
  /-- A function's START work completes and it enters ON. (R440) -/
  | funcStartEnd (f : Fin 354)
  /-- A function's DRAIN work completes and it enters OFF, or START if enable is pending. (R440) -/
  | funcDrainEnd (f : Fin 354)
  /-- A START or DRAIN overrunning its limit leaves the function WEDGED. (R440) -/
  | limitOverrun (f : Fin 354)
  /-- A Gulane port whose START ended for lack of light is enabled again 1 s later. (R440) -/
  | gulaneReenable (n : GPort)
  /-- STANDBY moves a spare from NONE to STANDBY_EMPTY. (R443) -/
  | standby (p : GPort)
  /-- BEGIN_LOAD starts a spare's load and its watchdog and copies the job to watch. (R443) -/
  | beginLoad (p : GPort)
  /-- LOADED moves a spare from LOADING to READY. (R443) -/
  | loaded (p : GPort)
  /-- ARM moves a spare to ARMED and sets FLIP_AT_STEP. (R443) -/
  | arm (p : GPort)
  /-- ABORT returns a spare to STANDBY_EMPTY. (R443) -/
  | abort (p : GPort)
  /-- RELEASE returns a spare to NONE. (R443) -/
  | spareRelease (p : GPort)
  /-- No partner packet for LOAD_WD ms aborts a LOADING spare with CAUSE SILENT. (R444) -/
  | spareLoadWatchdog
  /-- A span or RSE runs one sentinel vector in a period and compares its CRC. (R461) -/
  | sentinelVector (d : Fin 88) (r : VecResult)
  /-- A failed vector is rerun in the next period; a second failure is a sentinel failure. (R462) -/
  | sentinelRetest (d : Fin 88) (r : VecResult)
  /-- REQUEST to SNT_RETIRE adds a retirement request to the list. (R463) -/
  | retireRequest (p : GPort) (kind : Fin 4) (span : SpanNo) (pier : Fin 16) (g : GirdNo) (r : Fin 16)
  /-- KICK from the Ringmaster restarts the firmware watchdog. (R458) -/
  | kick
  /-- 100 ms without a KICK raises a DEVF record and stops the services. (R458) -/
  | fwWatchdog
  /-- RESUME to CTX_FLT_CTRL clears STOPPED and the context continues. (R456) -/
  | ctxResume (p : GPort) (x : CtxNo)
  /-- SMBus command returning the management interface version. (R476) -/
  | mgmtId (pec : Pec)
  /-- SMBus command returning the sequencer fault latch. (R476) -/
  | seqFault (pec : Pec)
  /-- SMBus command returning the sequencer state. (R476) -/
  | seqState (pec : Pec)
  /-- SMBus command returning the input voltage. (R476) -/
  | vin (pec : Pec) (sample : BitVec 16)
  /-- SMBus command returning the current of pair A. (R476) -/
  | iinA (pec : Pec) (sample : BitVec 16)
  /-- SMBus command returning the current of pair B. (R476) -/
  | iinB (pec : Pec) (sample : BitVec 16)
  /-- SMBus command returning the upper half of DK_DEVICE_ID while POWER_GOOD. (R476) -/
  | deviceId (pec : Pec)
  /-- SMBus Block Read returning the fused module serial. (R476) -/
  | moduleSn (pec : Pec)
  /-- JTAG instruction selecting the bypass register. (R477) -/
  | bypass
  /-- JTAG instruction returning DK_DEVICE_ID with bit 0 set. (R477) -/
  | idcode
  /-- JTAG instruction sampling and preloading boundary-scan cells. (R477) -/
  | samplePreload (pins : List Bool) (load : List Bool)
  /-- JTAG instruction driving pins while held in reset, otherwise acting as SAMPLE/PRELOAD. (R477) -/
  | extest (pins : List Bool) (load : List Bool)
  /-- When the input falls below 36 V the housekeeping supply stops: no pin is driven, FAULT_L and THERM_L go high-impedance and SMBus stops answering. (R474) -/
  | housekeepingSupplyOff
  /-- RTO after a NACK with reason NORECV or NOBUF, the source resends from the NACK's SEQ. (R124) -/
  | resendAfterRto (r : BitVec 22)
  /-- The last cell of a packet being sent leaves the output, its cells are freed from their account and the port is free to start another packet. (R157) -/
  | egressPacketEnd (k : Fin 528)
  deriving DecidableEq, Repr

end Sys2Proof
end

