-- ==== Sys2Proof/Decode.lean ====
section
/-! DEFINITION. The commands that words spell by the table's bits: the spec's table gives no row any bits, so no word
spells a command. -/

namespace Sys2Proof

/-- The command that a word spells by the table's bits: none, for every word. -/
def decodeTableWord (_nbits _w : Nat) : Option Instr := none

end Sys2Proof
end

