-- ==== Sys2Proof/Machine/Bits.lean ====
section
/-! DEFINITION. Bit fields, little- and big-endian bytes (00 R8), and the sparse maps that hold memory,
registers and units: sorted lists of (key, value), in which a key that is not listed reads as the default. -/

namespace Sys2Proof.Machine

/-- Bits [hi:lo] of a number. -/
def bits (v hi lo : Nat) : Nat := v / 2 ^ lo % 2 ^ (hi + 1 - lo)

/-- Bit k of a number. -/
def bit (v k : Nat) : Bool := v / 2 ^ k % 2 == 1

/-- A Bool as a bit. -/
def b2n (b : Bool) : Nat := if b then 1 else 0

/-- Field [hi:lo] of a register word. -/
def fget (w : Word) (hi lo : Nat) : Nat := bits w.toNat hi lo

/-- A register word with its field [hi:lo] replaced. -/
def fset (w : Word) (hi lo v : Nat) : Word :=
  BitVec.ofNat 32 (w.toNat - bits w.toNat hi lo * 2 ^ lo + v % 2 ^ (hi + 1 - lo) * 2 ^ lo)

/-- The n low bytes of v, least significant first. -/
def leBytes : Nat → Nat → List Byte
  | 0, _ => []
  | n + 1, v => BitVec.ofNat 8 v :: leBytes n (v / 256)

/-- The n low bytes of v, most significant first (Balnov headers, 05 R108). -/
def beBytes (n v : Nat) : List Byte := (leBytes n v).reverse

/-- The number that bytes spell, least significant first. -/
def ofLe : List Byte → Nat
  | [] => 0
  | b :: r => b.toNat + 256 * ofLe r

/-- The number that bytes spell, most significant first. -/
def ofBe (l : List Byte) : Nat := ofLe l.reverse

/-- n bytes of a list from offset o; bytes past its end are 0. -/
def slice (l : List Byte) (o n : Nat) : List Byte :=
  let t := (l.drop o).take n
  t ++ List.replicate (n - t.length) 0

/-- The little-endian number of n bytes at offset o. -/
def le (l : List Byte) (o n : Nat) : Nat := ofLe (slice l o n)

/-- The big-endian number of n bytes at offset o. -/
def be (l : List Byte) (o n : Nat) : Nat := ofBe (slice l o n)

/-- A list with the bytes from offset o replaced. -/
def patch (l : List Byte) (o : Nat) (bs : List Byte) : List Byte :=
  l.take o ++ bs ++ l.drop (o + bs.length)

/-- Cuts bytes into 32-bit words, little-endian; a last short word is filled with zeros. -/
def toWords (l : List Byte) : List Word :=
  (List.range ((l.length + 3) / 4)).map fun i => BitVec.ofNat 32 (le l (4 * i) 4)

/-- All bytes are zero. -/
def allZero (l : List Byte) : Bool := l.all (· == 0)

/-- A rounded up to a multiple of n. -/
def roundUp (a n : Nat) : Nat := n * ((a + n - 1) / n)

/-- Two's complement: the integer that the low w bits of v spell. -/
def toInt (w v : Nat) : Int := if v % 2 ^ w < 2 ^ (w - 1) then (v % 2 ^ w : Nat) else (v % 2 ^ w : Nat) - (2 ^ w : Nat)

/-- Two's complement: the low w bits of an integer. -/
def ofInt (w : Nat) (i : Int) : Nat := (i % (2 ^ w : Nat)).toNat

/-- A count that saturates at max. -/
def satAdd (max a b : Nat) : Nat := min max (a + b)

/-- Puts an element before the first of a sorted list that it does not come after. -/
def insertBy {α : Type} (le : α → α → Bool) (x : α) : List α → List α
  | [] => [x]
  | y :: r => if le x y then x :: y :: r else y :: insertBy le x r

/-- A list in ascending order; elements that compare equal keep their order. -/
def sortBy {α : Type} (le : α → α → Bool) : List α → List α
  | [] => []
  | x :: r => insertBy le x (sortBy le r)

/-- Offset o where c holds. -/
def faultAt (c : Bool) (o : Nat) : List Nat := if c then [o] else []

/-- A limit on a sum of fields, as offsets and values in ascending offset, names the field at which the running sum, t so far, first
exceeds it (00 R486). -/
def sumFault (limit : Nat) : List (Nat × Nat) → Nat → List Nat
  | [], _ => []
  | (o, v) :: r, t => if limit < t + v then [o] else sumFault limit r (t + v)

/-! ### Sparse maps -/

/-- The value at key a of a sparse map whose unlisted keys read d. -/
def smGet {β : Type} (d : β) : List (Nat × β) → Nat → β
  | [], _ => d
  | (k, v) :: r, a => if a < k then d else if a = k then v else smGet d r a

/-- A sparse map with key a set to x; writing the default d removes the entry. -/
def smPut {β : Type} [DecidableEq β] (d : β) : List (Nat × β) → Nat → β → List (Nat × β)
  | [], a, x => if x = d then [] else [(a, x)]
  | (k, v) :: r, a, x =>
    if a < k then (if x = d then (k, v) :: r else (a, x) :: (k, v) :: r)
    else if a = k then (if x = d then r else (a, x) :: r)
    else (k, v) :: smPut d r a x

/-- The canonical form: keys strictly rising, and no entry equal to what its key reads unlisted. -/
abbrev SmWf {β : Type} (dflt : Nat → β) (m : List (Nat × β)) : Prop :=
  m.Pairwise (fun p q => p.1 < q.1) ∧ ∀ p ∈ m, p.2 ≠ dflt p.1

/-- Sets consecutive keys from a, stride by stride. -/
def smPutAll {β : Type} [DecidableEq β] (dflt : Nat → β) (m : List (Nat × β)) (a stride : Nat) :
    List β → List (Nat × β)
  | [] => m
  | x :: r => smPutAll dflt (smPut (dflt a) m a x) (a + stride) stride r

/-- n values from key a, stride by stride. -/
def smGetAll {β : Type} (dflt : Nat → β) (m : List (Nat × β)) (a stride : Nat) : Nat → List β
  | 0 => []
  | n + 1 => smGet (dflt a) m a :: smGetAll dflt m (a + stride) stride n

end Sys2Proof.Machine
end

