-- ==== Sys2Proof/Machine/Hash.lean ====
section
/-! DEFINITION. The digests and checks that the spec names: SHA3-512 (FIPS 202; 02 R31, 03 R76), CRC-64 (05 R110) and
CRC-32C (05 R118, 14 R376). -/

namespace Sys2Proof.Machine
open Sys2Proof

/-! ### SHA3-512 -/

/-- A lane of the Keccak state. -/
abbrev Lane := BitVec 64

/-- The lane of column x and row y, both modulo 5; a state lists its 25 lanes row by row. -/
def laneAt (a : List Lane) (x y : Nat) : Lane := a.getD (x % 5 + 5 * (y % 5)) 0

/-- A state from its lanes' formula. -/
def lanes (f : Nat → Nat → Lane) : List Lane := (List.range 25).map fun i => f (i % 5) (i / 5)

/-- Theta: a lane takes the parities of the columns at its two sides. -/
def theta (a : List Lane) : List Lane :=
  let col := (List.range 5).map fun x => (List.range 5).foldl (fun p y => p ^^^ laneAt a x y) 0
  lanes fun x y => laneAt a x y ^^^ laneAt col (x + 4) 0 ^^^ (laneAt col (x + 1) 0).rotateLeft 1

/-- Rho and pi in one walk of n steps from (x, y), of which t have been made: the lane there, rotated by the next triangular number,
goes to (y, 2x + 3y). Lane (0, 0) is not on the walk. -/
def rhoPi (a : List Lane) : Nat → Nat → Nat → Nat → List Lane → List Lane
  | 0, _, _, _, b => b
  | n + 1, t, x, y, b =>
    let v := (2 * x + 3 * y) % 5
    rhoPi a n (t + 1) y v (b.set (y + 5 * v) ((laneAt a x y).rotateLeft ((t + 1) * (t + 2) / 2 % 64)))

/-- Chi: a lane meets the next two of its row. -/
def chi (b : List Lane) : List Lane := lanes fun x y => laneAt b x y ^^^ (~~~ laneAt b (x + 1) y &&& laneAt b (x + 2) y)

/-- One step of the register that the round constants come from: x^8 + x^6 + x^5 + x^4 + 1. -/
def roundBit (r : Nat) : Nat := if r < 128 then 2 * r else (2 * r) ^^^ 0x171

/-- Iota takes seven bits of that register, for bit positions 2^j - 1 of lane (0, 0): the state and the register after it. -/
def iota (a : List Lane) (r : Nat) : List Lane × Nat :=
  (List.range 7).foldl (fun p j => (p.1.set 0 (laneAt p.1 0 0 ^^^ BitVec.ofNat 64 (p.2 % 2 * 2 ^ (2 ^ j - 1))), roundBit p.2)) (a, r)

/-- Keccak-f[1600]: 24 rounds. -/
def keccakF (a : List Lane) : List Lane :=
  ((List.range 24).foldl (fun p _ => let a := theta p.1; iota (chi (rhoPi a 24 0 1 0 a)) p.2) (a, 1)).1

/-- Xors a 72-byte block into the state. -/
def absorb (a : List Lane) (blk : List Byte) : List Lane :=
  lanes fun x y =>
    let i := x + 5 * y
    if i < 9 then laneAt a x y ^^^ BitVec.ofNat 64 (le blk (8 * i) 8) else laneAt a x y

/-- Absorbs a whole message block by block; n bounds the number of blocks. -/
def sponge : Nat → List Lane → List Byte → List Lane
  | 0, a, _ => a
  | n + 1, a, m =>
    if m.length < 72 then
      keccakF (absorb a (patch (slice (m ++ [0x06]) 0 72) 71 [BitVec.ofNat 8 (le (slice (m ++ [0x06]) 0 72) 71 1 ||| 0x80)]))
    else sponge n (keccakF (absorb a (m.take 72))) (m.drop 72)

/-- SHA3-512 of a message: 64 bytes. -/
def sha3 (m : List Byte) : List Byte :=
  ((sponge (m.length / 72 + 1) (List.replicate 25 0) m).take 8).flatMap fun l => leBytes 8 l.toNat

/-! ### CRC -/

/-- One bit step of the CRC-64 register. -/
def crc64Bit (r : BitVec 64) : BitVec 64 :=
  if r.msb then (r <<< 1) ^^^ 0x42F0E1EBA9EA3693#64 else r <<< 1

/-- CRC-64 of a message (05 R110): most significant bit first, initial value and final XOR all ones. -/
def crc64 (m : List Byte) : Nat :=
  let r := m.foldl (fun (r : BitVec 64) (b : Byte) =>
    (List.range 8).foldl (fun r _ => crc64Bit r) (r ^^^ (b.setWidth 64 <<< 56))) (BitVec.allOnes 64)
  (r ^^^ BitVec.allOnes 64).toNat

/-- One bit step of the CRC-32C register. -/
def crc32cBit (r : BitVec 32) : BitVec 32 :=
  if r.getLsbD 0 then (r >>> 1) ^^^ 0x82F63B78#32 else r >>> 1

/-- CRC-32C (Castagnoli) of a message. -/
def crc32c (m : List Byte) : Nat :=
  let r := m.foldl (fun (r : BitVec 32) (b : Byte) =>
    (List.range 8).foldl (fun r _ => crc32cBit r) (r ^^^ b.setWidth 32)) (BitVec.allOnes 32)
  (r ^^^ BitVec.allOnes 32).toNat

end Sys2Proof.Machine
end

