-- ==== Sys2Proof/Config.lean ====
section
/-! DEFINITION. What an implementation fixes and what the spec leaves open. The opaque constants have no body:
no proof can see a value of them, so a claim about them holds for every value (DESIGN CHOICE: log entries 2, 3 and 4). -/

namespace Sys2Proof

/-- The grades of 00 Table 0.2. -/
inductive Grade where
  | fys8192 | fys7168 | fys6144
  deriving DecidableEq, Repr

/-- An unconstrained number, the n-th one the machine takes: a value that the spec leaves open (DESIGN CHOICE: log entry 2). -/
opaque Config.freeValue : (n : Nat) → Nat

/-- The contents of HBM after the n-th full reset, which 17 R430 leaves undefined (DESIGN CHOICE: log entry 3). -/
opaque Config.freeHbm : Nat → List (Nat × Byte)

/-- ML-DSA-87 verification of 02 R35 (FIPS 204, named and not laid down by the spec): public key, message, context
string, signature (DESIGN CHOICE: log entry 4). -/
opaque Config.mlDsaVerify : (key msg ctx sig : List Byte) → Bool

/-- ML-DSA-87 signing with the fused identity key of serial sn (17 R436, R438): message and context string
(DESIGN CHOICE: log entry 4). -/
opaque Config.mlDsaSign : (sn : Nat) → (msg ctx : List Byte) → List Byte

/-- The exponent byte M of an anchor block in a pre-pass over a ring, for which the spec gives no rounds: job, CSEQ, anchor block (DESIGN CHOICE: log entry 24). -/
opaque Config.ringAnchor : (job cseq ab : Nat) → Nat

end Sys2Proof
end

