-- ==== Sys2Proof/Machine/FabState.lean ====
section
/-! DEFINITION. The state of the fabric side: lanes and ports (04), packets and streams (05), the packet buffer, shaping,
Sideshow and the buffer pool manager (06). A packet stands as its bytes in wire order. -/

namespace Sys2Proof.Machine
open Sys2Proof

/-- Where a held packet stands: before its resequencer has released it, in its egress queue, or being sent. -/
inductive CopyStage where
  | crossing | queued | sending
  deriving DecidableEq, Repr

/-- A packet in the packet buffer (06 R149): its bytes; its source (port slot 0-527, 528 + n for what node n originates, 608
for a mirror copy); its credit channel at its arrival; the dedicated or internal cells and the shared cells it takes; the
fabric time, ns, at which it was placed; its egress queue 64 n + q, or 5,120 + n for the RSE at node n; where it stands; that
its hop crosses a dateline (05 R119); the pier it is for on a span port; the fabric time, ns, since which it has waited
without its channel gaining credit (05 R128); the sequence numbers of its cells that have entered stage one, and how many of
these have reached their output (06 R146); the multicast that it is a copy of, 0 for none (06 R149); and its number, which tells it
from others that are alike. -/
structure Held where
  bytes : List Byte
  src : Nat
  chan : Nat
  ded : Nat
  shared : Nat
  since : Nat
  dst : Nat
  stage : CopyStage
  dl : Bool := false
  pier : Nat := 0
  waited : Nat := 0
  seqs : List Nat := []
  come : Nat := 0
  group : Nat := 0
  num : Nat := 0
  deriving DecidableEq, Repr

/-- A switch cell past stage one (06 R140, R146): its input and output nodes (80 + n: the RSE at node n), its class and its
sequence number, and the intermediate node that it stands at or flies to. -/
structure Cell where
  inp : Nat
  out : Nat
  cls : Nat
  seq : Nat
  mid : Nat
  deriving DecidableEq, Repr

/-- A cell between the dies: the core cycles that it still takes, and that it flies in stage two (06 R145). -/
structure Flight where
  cell : Cell
  left : Nat
  two : Bool
  deriving DecidableEq, Repr

/-- A packet that a source of the module has ready: its source (700 + p for pier p, 528 + n for node n), the port slot it is
sent on, or 1,000 + p for pier p, where it is not resolved by its header, and its bytes; the context whose own send it is (05
R116), the rank of the member that a tree edge leads to (05 R137), the multicast that it is a copy of, 0 for none (06 R149), and the kind that a pier's TXE serves it
as: 1 a GET response, 2 a fused send, 3 a packet of a command that it has dequeued, 0 none of these (11 R311). -/
structure Inject where
  src : Nat
  dest : Option Nat := none
  bytes : List Byte
  ctx : Option Nat := none
  member : Option Nat := none
  group : Nat := 0
  kind : Nat := 0
  deriving DecidableEq, Repr

/-- A retransmit copy: its stream record, its SEQ, the requester and the handle of its buffer, its source, destination,
member and kind as in Inject, and its bytes (05 R122). -/
structure Retx where
  rcd : Nat
  seq : Nat
  req : Nat
  handle : Nat
  src : Nat
  dest : Option Nat := none
  bytes : List Byte
  member : Option Nat := none
  kind : Nat := 0
  deriving DecidableEq, Repr

/-- A packet that waits for its stream's window or for a retransmit buffer: its record, the requester 7x + c that its copy
is charged to, its source, destination, member, multicast and kind as in Inject, and its bytes without SEQ (05 R122). -/
structure TxWait where
  rcd : Nat
  req : Nat
  src : Nat
  dest : Option Nat := none
  bytes : List Byte
  member : Option Nat := none
  group : Nat := 0
  kind : Nat := 0
  deriving DecidableEq, Repr

/-- Who answers for a stream record: the source of its ACKs, the port they leave on and the member as in Inject, and their
SRC_RANK. -/
structure AckFrom where
  src : Nat
  dest : Option Nat := none
  rank : Nat
  member : Option Nat := none
  deriving DecidableEq, Repr

/-- A packet that has reached a unit that consumes it: the unit (a pier's RXE 0-127, or 128 for the module's tree logic),
the slot it came in on (as Inject names sources for the module's own), and its bytes. -/
structure Arrived where
  at_ : Nat
  src : Nat
  bytes : List Byte
  deriving DecidableEq, Repr

/-- Events due when a stream has had everything up to a SEQ acknowledged, or fails first (14 R374). -/
structure StreamWatch where
  rcd : Nat
  seq : Nat
  ctx : Nat
  unit : Nat
  okCode : Nat
  failCode : Nat
  detail : Nat
  deriving DecidableEq, Repr

/-- A request that waits at the buffer pool manager: requester 7x + c and bytes, the stream record where it is for the retransmit
copy of that record's next packet (05 R122), and the place of the service request of x that it is for (14 R365). -/
structure BpmWait where
  req : Nat
  size : Nat
  rcd : Option Nat := none
  place : Option Nat := none
  deriving DecidableEq, Repr

/-- The buffer pool manager (06 R164-R169): heads of the free lists, ring read positions and counts, handle caches,
waiting requests, returns held during a switch of form, and those whose engines wait because the return buffer is full. -/
structure Bpm where
  head : List (Nat × Nat)
  ringPos : List (Nat × Nat)
  ringCount : List (Nat × Nat)
  cache : List (Nat × List Nat)
  waiting : List BpmWait
  returns : List (Nat × Nat)
  stalled : List (Nat × Nat)
  deriving DecidableEq, Repr

/-- The fabric side. -/
structure Fab where
  /-- Training phase of a lane, by 8 g + l: 0 not training, 1 DETECT to 6 DESKEW (04 Table 4.4). -/
  phase : List (Nat × Nat)
  /-- Fabric time, ns, of a lane's last FEC_DEGRADE (04 R99). -/
  fecAt : List (Nat × Option Nat)
  /-- The pair moves to CLOSED because of a write (04 Table 4.7). -/
  cwyWrite : List (Nat × Bool)
  /-- Cells consumed on a channel since the port came UP, cells freed here, and FREED of the peer, modulo 2^16, by
  9 k + c (05 R112-R114). -/
  used : List (Nat × Nat)
  freed : List (Nat × Nat)
  peer : List (Nat × Nat)
  held : List Held
  /-- Packets that the buffer has taken since the full reset: it numbers them, so that packets that are alike stay apart (the model's own
  field, DESIGN CHOICE: log entry 75). -/
  taken : Nat
  inject : List Inject
  /-- The kind that the TXE of a source serves next, less 1 (11 R311). -/
  txTurn : List (Nat × Nat)
  retx : List Retx
  txWait : List TxWait
  /-- Records whose acknowledgement timer runs, with who answers (05 R123). -/
  ackTimer : List (Nat × Option AckFrom)
  /-- The RX_EXP and the fabric time, ns, of a record's last NACK with reason GAP. -/
  gapAt : List (Nat × Option (Nat × Nat))
  /-- SEQ from which a record resends after RTO (05 Table 5.9a). -/
  rtoFrom : List (Nat × Option Nat)
  /-- SEQ from which a record's last resend started (05 R125). -/
  resendAt : List (Nat × Option Nat)
  /-- Packets that have reached the unit that consumes them (01 R15). -/
  inbox : List Arrived
  watch : List StreamWatch
  /-- Bucket levels in 1/4,096 byte, by 2 (64 n + q) + b: 0 committed, 1 peak (06 R158). -/
  bucket : List (Nat × Int)
  /-- Throttle levels by 3 n + g: 0 REQ, 1 FWD, 2 BULK (05 R132). -/
  throttle : List (Nat × Nat)
  /-- Matching packets and copies of a Sideshow session since EN was written 1 (06 R161). -/
  ssMatch : List (Nat × Nat)
  ssCopy : List (Nat × Nat)
  /-- Fabric time, ns, of the last ROUTE_ERR and STALE_EPOCH. -/
  routeErrAt : Option Nat
  staleAt : Option Nat
  /-- Trees that did not fit, as 4,096 v + t (10 R270). -/
  noFit : List Nat
  /-- Port slots that a rank entry of KIND 0 of a version now retired has named (05 R120). -/
  kind0 : List Nat
  /-- The rotation counter T, modulo 80 (06 R140). -/
  turn : Nat
  /-- Cells at the intermediate nodes, oldest first (06 R144), and cells between the dies. -/
  fifo : List Cell
  flying : List Flight
  /-- The next sequence number of an input, output and class, by 8 (160 i + o) + c (06 R146). -/
  cellSeq : List (Nat × Nat)
  /-- The RSE at a node has the next cycle in which both it and the external input have a cell ready (06 R142). -/
  rseTurn : List (Nat × Bool)
  /-- Multicasts that the RSEs have emitted (06 R149). -/
  groups : Nat
  bpm : Bpm
  deriving DecidableEq, Repr

/-- The pool manager after a full reset. -/
def Bpm.reset : Bpm :=
  { head := [], ringPos := [], ringCount := [], cache := [], waiting := [], returns := [], stalled := [] }

/-- The fabric side after a full reset: no lane trained, no packet held, every count and level zero. -/
def Fab.reset : Fab :=
  { phase := [], fecAt := [], cwyWrite := [], used := [], freed := [], peer := [], held := [], taken := 0, inject := [], txTurn := [],
    retx := [], txWait := [], ackTimer := [], gapAt := [], rtoFrom := [], resendAt := [], inbox := [], watch := [], bucket := [], throttle := [],
    ssMatch := [], ssCopy := [], routeErrAt := none, staleAt := none, noFit := [], kind0 := [], turn := 0, fifo := [], flying := [],
    cellSeq := [], rseTurn := [], groups := 0, bpm := Bpm.reset }

end Sys2Proof.Machine
end

