-- ==== Sys2Proof/Machine/RegMap.lean ====
section
/-! DEFINITION. The configuration space (03 R66, Table 3.7): every register of the spec's register tables with its
address, its index ranges and the access code and reset value of each field (00 R9, R10). A field whose reset is
"fuse" or "image" stands here with 0 and is loaded by State.reset or by the image. A register without fields is
reserved: it reads 0 and ignores writes (00 R9). -/

namespace Sys2Proof.Machine

/-- Access codes of 00 Table 0.7. -/
inductive Acc where
  | rw | ro | wo | w1c | w1s | rc | kl
  deriving DecidableEq, Repr

/-- The registers of the configuration space, one name for each register table entry. -/
inductive RegName where
  | dkDeviceId | dkUnitCounts | dkViaductStatus | dkViaductCorr | dkSpanSlots | dkPierMap | dkImgCtrl 
  | dkImgLen | dkImgStatus | dkImgDetail | dkImgSerial | dkImgMinSerial | dkImgDigest | dkFtCfg | dkFtStatus 
  | dkFtTime | dkStep | dkStepCtrl | dkCollPriv | dkBootCtrl | dkBootStatus | dkFuncCtrl | dkSpareCtrl 
  | dkSpareCfg | dkSpareStep | dkSpareStatus | dkSpareJob | dkFltSeq | dkFltStatus | dkFltCtrl | dkFltCnt 
  | dkFuncState | dkAttCtrl | dkAttNonce | ksAcquire | ksStatus | ksLease | ksCtrl | ksProtCtrl 
  | ksProtStatus | ksProtEpoch | ksProtDigest | ksProtLive | ksJrnlHead | ksJournal | clkStatus | clkSpan 
  | pwrStatus | pwrCtrl | pwrHintTree | pwrHintHold | pwrRail | pwrVf | pwrDieTemp | tstPeriod | tstBudget 
  | tstDefer | trcEn | trcSelect | trcKinds | trcBase | trcWptr | trcDropped | trcRsvdA | trcRsvdB | sntCfg 
  | sntStatus | sntRetire | sntPending | sntResidCnt | ctxShadow | ctxLive | ctxDb | ctxDbHi | ctxNanCtrl 
  | ctxNanStatus | ctxNanTag | ctxNanUnit | ctxNanIdx | ctxNanCount | ctxSrSeed | ctxSched | ctxSaveBase 
  | ctxWqBase | ctxWqCfg | ctxWqCons | ctxActCfg | ctxActAthr | ctxActCnt | ctxActWin | ctxSvcBase 
  | ctxSvcCfg | ctxSvcCons | ctxSvcCtl | ctxSvcStatus | ctxPwrCfg | ctxFltCfg | ctxFltStatus | ctxFltCtrl 
  | rtSwitchId | rtCfg | rtEpochCtrl | rtEpochStatus | rtSrBase | rtCnt | rtOldSeen | rtRankBase 
  | rtRankCount | rtRankJob | rtRankRsvd | rtTreeBase | rtJob | rtRouteLo | rtRouteHi | swRsqPeak | swAcct 
  | swBuf | swSampleCfg | swCnt | swSsEn | swSsSrc | swSsDst | swSsTrunc | swSsEvery | swSsJob | swSsSrcr 
  | swSsDstr | bpmCtrl | bpmStatus | bpmMetaBase | bpmFree | bpmUse | shpQ | shpHist | pgCfg | pgPortStatus 
  | pgRxDiscard | pgLaneStatus | pgFecCorr | pgFecUnc | pgLat | rsePstage | rsePload | rsePstatus | rsePvalid 
  | rsePdigest | rseStrmCnt | rseStrmStatus | rseAncCfg | rseAncCnt | memStatus | memCtrl | memRepairStatus 
  | memEccCnt | memEccLast | memScrubPass | memChStatus | tgCtl | tgStart | tgLen | tgSeed | tgErrors 
  | tgFirstErr | tgStatus | tgRsvd | pierStatus | pierQstat | pierDone | pierLastTag | pierFlag | pierTrCfg 
  | pierTrStatus | pierTrTag | pierTrFlag | pierBrkCfg | pierBrkTag | pierBrkCount | pierBrkCtrl 
  | pierBrkStatus | pierBrkDeq | spnGroup | gulCfg | gulRxErr | cwyCtrl | cwyStatus | evtLog | gulEvtSeq 
  | identKey | identSig | enrollArea | moduleSn | attReport | fltLog 
  deriving DecidableEq, Repr

/-- A field [hi:lo] of a register, its access code and its reset value. -/
structure RegField where
  hi : Nat
  lo : Nat
  acc : Acc
  rst : Nat
  deriving DecidableEq, Repr

/-- A register or an array of registers: its first address, its index ranges (count, stride; the outermost first),
and its fields. -/
structure RegDesc where
  name : RegName
  base : Nat
  dims : List (Nat × Nat)
  fields : List RegField
  deriving DecidableEq, Repr

/-- Registers of the DK, KS, CLK, PWR, TST, DBG and SNT windows. -/
def regsDk : List RegDesc := [
  ⟨.dkDeviceId, 0, [], [⟨31, 24, .ro, 0x46⟩, ⟨23, 16, .ro, 1⟩, ⟨15, 12, .ro, 0⟩, ⟨11, 8, .ro, 0⟩, ⟨7, 4, .ro, 0⟩]⟩,
  ⟨.dkUnitCounts, 4, [], [⟨29, 28, .ro, 2⟩, ⟨27, 24, .ro, 8⟩, ⟨22, 16, .ro, 0x50⟩, ⟨15, 8, .ro, 0⟩, ⟨7, 0, .ro, 0⟩]⟩,
  ⟨.dkViaductStatus, 0x40, [], [⟨21, 16, .ro, 0⟩, ⟨13, 8, .ro, 0⟩, ⟨1, 1, .ro, 0⟩, ⟨0, 0, .ro, 0⟩]⟩,
  ⟨.dkViaductCorr, 0x44, [], [⟨31, 0, .rc, 0⟩]⟩,
  ⟨.dkSpanSlots, 0x80, [(8, 4)], [⟨28, 24, .ro, 0⟩, ⟨16, 0, .ro, 0⟩]⟩,
  ⟨.dkPierMap, 0x100, [(8, 0x40), (16, 4)], [⟨31, 31, .ro, 0⟩, ⟨28, 24, .ro, 0⟩, ⟨19, 15, .ro, 0⟩, ⟨14, 10, .ro, 0⟩, ⟨9, 5, .ro, 0⟩, ⟨4, 0, .ro, 0⟩]⟩,
  ⟨.dkImgCtrl, 0x400, [], [⟨3, 0, .kl, 0⟩]⟩,
  ⟨.dkImgLen, 0x404, [], [⟨28, 0, .kl, 0⟩]⟩,
  ⟨.dkImgStatus, 0x408, [], [⟨25, 24, .ro, 0⟩, ⟨21, 16, .ro, 0⟩, ⟨15, 8, .ro, 0⟩, ⟨4, 4, .ro, 0⟩, ⟨3, 0, .ro, 0⟩]⟩,
  ⟨.dkImgDetail, 0x40C, [], [⟨31, 0, .ro, 0⟩]⟩,
  ⟨.dkImgSerial, 0x410, [(2, 4)], [⟨31, 0, .ro, 0⟩]⟩,
  ⟨.dkImgMinSerial, 0x418, [(2, 4)], [⟨31, 0, .kl, 0⟩]⟩,
  ⟨.dkImgDigest, 0x440, [(16, 4)], [⟨31, 0, .ro, 0⟩]⟩,
  ⟨.dkFtCfg, 0x800, [], [⟨31, 31, .kl, 0⟩, ⟨30, 30, .kl, 0⟩, ⟨29, 29, .kl, 0⟩, ⟨25, 16, .kl, 0⟩, ⟨15, 8, .kl, 0⟩]⟩,
  ⟨.dkFtStatus, 0x804, [], [⟨31, 30, .ro, 0⟩, ⟨15, 0, .ro, 0⟩]⟩,
  ⟨.dkFtTime, 0x808, [(3, 4)], [⟨31, 0, .ro, 0⟩]⟩,
  ⟨.dkStep, 0x820, [(2, 4)], [⟨31, 0, .ro, 0⟩]⟩,
  ⟨.dkStepCtrl, 0x828, [], [⟨0, 0, .kl, 0⟩]⟩,
  ⟨.dkCollPriv, 0x830, [(2, 4)], [⟨31, 0, .kl, 0⟩]⟩,
  ⟨.dkBootCtrl, 0xC00, [], [⟨3, 0, .kl, 0⟩]⟩,
  ⟨.dkBootStatus, 0xC04, [], [⟨31, 24, .ro, 0⟩, ⟨15, 8, .ro, 0⟩, ⟨3, 0, .ro, 0⟩]⟩,
  ⟨.dkFuncCtrl, 0xC10, [], [⟨31, 28, .kl, 0⟩, ⟨8, 0, .kl, 0⟩]⟩,
  ⟨.dkSpareCtrl, 0xC20, [], [⟨3, 0, .kl, 0⟩]⟩,
  ⟨.dkSpareCfg, 0xC24, [], [⟨31, 24, .kl, 0x14⟩, ⟨23, 0, .kl, 0⟩]⟩,
  ⟨.dkSpareStep, 0xC28, [(2, 4)], [⟨31, 0, .kl, 0⟩]⟩,
  ⟨.dkSpareStatus, 0xC30, [], [⟨31, 28, .ro, 0⟩, ⟨27, 24, .ro, 0⟩, ⟨15, 0, .ro, 0⟩]⟩,
  ⟨.dkSpareJob, 0xC34, [], [⟨15, 0, .kl, 0⟩]⟩,
  ⟨.dkFltSeq, 0xC40, [], [⟨31, 0, .ro, 0⟩]⟩,
  ⟨.dkFltStatus, 0xC44, [], [⟨31, 31, .ro, 0⟩, ⟨15, 0, .ro, 0⟩]⟩,
  ⟨.dkFltCtrl, 0xC48, [], [⟨3, 0, .wo, 0⟩]⟩,
  ⟨.dkFltCnt, 0xC50, [(4, 4)], [⟨31, 0, .rc, 0⟩]⟩,
  ⟨.dkFuncState, 0x1000, [(354, 4)], [⟨3, 3, .ro, 0⟩, ⟨2, 0, .ro, 0⟩]⟩,
  ⟨.dkAttCtrl, 0x2000, [(2, 0x100)], [⟨1, 1, .ro, 0⟩, ⟨0, 0, .w1s, 0⟩]⟩,
  ⟨.dkAttNonce, 0x2040, [(2, 0x100), (16, 4)], [⟨31, 0, .rw, 0⟩]⟩,
  ⟨.ksAcquire, 0x10000, [], [⟨31, 31, .ro, 0⟩, ⟨30, 30, .ro, 0⟩, ⟨16, 16, .ro, 0⟩, ⟨15, 0, .ro, 0⟩]⟩,
  ⟨.ksStatus, 0x10004, [], [⟨31, 31, .ro, 0⟩, ⟨18, 18, .ro, 0⟩, ⟨17, 17, .ro, 0⟩, ⟨16, 16, .ro, 0⟩, ⟨15, 0, .ro, 0⟩]⟩,
  ⟨.ksLease, 0x10008, [], [⟨13, 0, .kl, 0x3E8⟩]⟩,
  ⟨.ksCtrl, 0x1000C, [], [⟨31, 16, .kl, 0⟩, ⟨3, 0, .kl, 0⟩]⟩,
  ⟨.ksProtCtrl, 0x10100, [], [⟨3, 0, .kl, 0⟩]⟩,
  ⟨.ksProtStatus, 0x10104, [], [⟨22, 16, .ro, 0⟩, ⟨11, 8, .ro, 0⟩, ⟨3, 0, .ro, 0⟩]⟩,
  ⟨.ksProtEpoch, 0x10108, [], [⟨31, 0, .ro, 0⟩]⟩,
  ⟨.ksProtDigest, 0x10140, [(16, 4)], [⟨31, 0, .kl, 0⟩]⟩,
  ⟨.ksProtLive, 0x10180, [(16, 4)], [⟨31, 0, .ro, 0⟩]⟩,
  ⟨.ksJrnlHead, 0x10200, [], [⟨31, 0, .ro, 1⟩]⟩,
  ⟨.ksJournal, 0x18000, [(8192, 4)], [⟨31, 0, .ro, 0⟩]⟩,
  ⟨.clkStatus, 0x20000, [], [⟨31, 31, .ro, 0⟩, ⟨30, 30, .ro, 0⟩, ⟨29, 29, .ro, 0⟩, ⟨28, 28, .ro, 0⟩]⟩,
  ⟨.clkSpan, 0x20100, [(8, 4)], [⟨31, 31, .ro, 0⟩, ⟨30, 28, .ro, 3⟩, ⟨26, 24, .ro, 3⟩, ⟨23, 16, .ro, 0x40⟩, ⟨15, 0, .ro, 0⟩]⟩,
  ⟨.pwrStatus, 0x21000, [], [⟨31, 31, .ro, 0⟩, ⟨30, 30, .ro, 0⟩, ⟨29, 29, .ro, 0⟩, ⟨28, 27, .ro, 0⟩, ⟨26, 26, .ro, 0⟩, ⟨11, 0, .ro, 0⟩]⟩,
  ⟨.pwrCtrl, 0x21004, [], [⟨3, 0, .kl, 0⟩]⟩,
  ⟨.pwrHintTree, 0x21010, [], [⟨27, 16, .kl, 0⟩, ⟨15, 0, .kl, 0⟩]⟩,
  ⟨.pwrHintHold, 0x21014, [], [⟨16, 0, .kl, 0⟩]⟩,
  ⟨.pwrRail, 0x21100, [(18, 4)], [⟨31, 16, .ro, 0⟩, ⟨15, 0, .ro, 0⟩]⟩,
  ⟨.pwrVf, 0x21200, [(5, 4)], [⟨31, 16, .ro, 0⟩, ⟨15, 0, .ro, 0⟩]⟩,
  ⟨.pwrDieTemp, 0x21220, [(2, 4)], [⟨15, 0, .ro, 0⟩]⟩,
  ⟨.tstPeriod, 0x40000, [], [⟨31, 0, .ro, 8⟩]⟩,
  ⟨.tstBudget, 0x40100, [(9, 4)], [⟨31, 0, .ro, 0⟩]⟩,
  ⟨.tstDefer, 0x40200, [(9, 4)], [⟨31, 0, .rc, 0⟩]⟩,
  ⟨.trcEn, 0x50000, [(16, 0x40)], [⟨12, 8, .kl, 0⟩, ⟨2, 2, .ro, 0⟩, ⟨1, 1, .kl, 0⟩, ⟨0, 0, .kl, 0⟩]⟩,
  ⟨.trcSelect, 0x50004, [(16, 0x40)], [⟨23, 23, .kl, 0⟩, ⟨21, 16, .kl, 0⟩, ⟨15, 15, .kl, 0⟩, ⟨10, 8, .kl, 0⟩, ⟨6, 0, .kl, 0⟩]⟩,
  ⟨.trcKinds, 0x50008, [(16, 0x40)], [⟨31, 0, .kl, 0⟩]⟩,
  ⟨.trcBase, 0x50010, [(16, 0x40), (2, 4)], [⟨31, 0, .kl, 0⟩]⟩,
  ⟨.trcWptr, 0x50018, [(16, 0x40), (2, 4)], [⟨31, 0, .ro, 0⟩]⟩,
  ⟨.trcDropped, 0x50020, [(16, 0x40)], [⟨31, 0, .rc, 0⟩]⟩,
  ⟨.trcRsvdA, 0x5000C, [(16, 0x40)], []⟩,
  ⟨.trcRsvdB, 0x50024, [(16, 0x40), (7, 4)], []⟩,
  ⟨.sntCfg, 0x60000, [], [⟨31, 31, .kl, 0⟩, ⟨30, 30, .kl, 0⟩]⟩,
  ⟨.sntStatus, 0x60004, [], [⟨31, 16, .ro, 0⟩, ⟨15, 8, .ro, 0⟩, ⟨7, 0, .ro, 0⟩]⟩,
  ⟨.sntRetire, 0x60010, [], [⟨31, 28, .kl, 0⟩, ⟨17, 16, .kl, 0⟩, ⟨14, 12, .kl, 0⟩, ⟨11, 8, .kl, 0⟩, ⟨5, 4, .kl, 0⟩, ⟨3, 0, .kl, 0⟩]⟩,
  ⟨.sntPending, 0x60014, [], [⟨5, 0, .ro, 0⟩]⟩,
  ⟨.sntResidCnt, 0x60018, [], [⟨31, 0, .rc, 0⟩]⟩]

/-- Registers of the CTX window. -/
def regsCtx : List RegDesc := [
  ⟨.ctxShadow, 0x100000, [(64, 0x4000), (1280, 4)], [⟨31, 0, .kl, 0⟩]⟩,
  ⟨.ctxLive, 0x101400, [(64, 0x4000), (1280, 4)], [⟨31, 0, .ro, 0⟩]⟩,
  ⟨.ctxDb, 0x102800, [(64, 0x4000), (16, 8)], [⟨31, 0, .ro, 0⟩]⟩,
  ⟨.ctxDbHi, 0x102804, [(64, 0x4000), (16, 8)], []⟩,
  ⟨.ctxNanCtrl, 0x102900, [(64, 0x4000)], [⟨2, 2, .wo, 0⟩, ⟨1, 1, .rw, 0⟩, ⟨0, 0, .rw, 0⟩]⟩,
  ⟨.ctxNanStatus, 0x102904, [(64, 0x4000)], [⟨31, 31, .ro, 0⟩, ⟨18, 16, .ro, 0⟩, ⟨2, 0, .ro, 0⟩]⟩,
  ⟨.ctxNanTag, 0x102908, [(64, 0x4000)], [⟨31, 0, .ro, 0⟩]⟩,
  ⟨.ctxNanUnit, 0x10290C, [(64, 0x4000)], [⟨31, 0, .ro, 0⟩]⟩,
  ⟨.ctxNanIdx, 0x102910, [(64, 0x4000), (2, 4)], [⟨31, 0, .ro, 0⟩]⟩,
  ⟨.ctxNanCount, 0x102918, [(64, 0x4000)], [⟨31, 0, .ro, 0⟩]⟩,
  ⟨.ctxSrSeed, 0x10291C, [(64, 0x4000)], [⟨31, 0, .rw, 0⟩]⟩,
  ⟨.ctxSched, 0x102A00, [(64, 0x4000)], [⟨0, 0, .kl, 0⟩]⟩,
  ⟨.ctxSaveBase, 0x102A08, [(64, 0x4000), (2, 4)], [⟨31, 0, .kl, 0⟩]⟩,
  ⟨.ctxWqBase, 0x102A40, [(64, 0x4000), (8, 0x10), (2, 4)], [⟨31, 0, .kl, 0⟩]⟩,
  ⟨.ctxWqCfg, 0x102A48, [(64, 0x4000), (8, 0x10)], [⟨31, 31, .kl, 0⟩, ⟨4, 0, .kl, 6⟩]⟩,
  ⟨.ctxWqCons, 0x102A4C, [(64, 0x4000), (8, 0x10)], [⟨31, 0, .ro, 0⟩]⟩,
  ⟨.ctxActCfg, 0x102B00, [(64, 0x4000)], [⟨31, 31, .rw, 0⟩, ⟨28, 24, .rw, 0xA⟩, ⟨23, 20, .rw, 8⟩, ⟨15, 0, .rw, 0x28F⟩]⟩,
  ⟨.ctxActAthr, 0x102B04, [(64, 0x4000)], [⟨31, 0, .rw, 0⟩]⟩,
  ⟨.ctxActCnt, 0x102B10, [(64, 0x4000), (3, 4)], [⟨31, 0, .rc, 0⟩]⟩,
  ⟨.ctxActWin, 0x102B20, [(64, 0x4000), (3, 4)], [⟨31, 0, .ro, 0⟩]⟩,
  ⟨.ctxSvcBase, 0x102C00, [(64, 0x4000), (8, 0x10), (2, 4)], [⟨31, 0, .kl, 0⟩]⟩,
  ⟨.ctxSvcCfg, 0x102C08, [(64, 0x4000), (8, 0x10)], [⟨31, 31, .kl, 0⟩, ⟨4, 0, .kl, 6⟩]⟩,
  ⟨.ctxSvcCons, 0x102C0C, [(64, 0x4000), (8, 0x10)], [⟨31, 0, .ro, 0⟩]⟩,
  ⟨.ctxSvcCtl, 0x102C80, [(64, 0x4000)], [⟨0, 0, .kl, 0⟩]⟩,
  ⟨.ctxSvcStatus, 0x102C84, [(64, 0x4000)], [⟨31, 31, .ro, 0⟩, ⟨30, 30, .ro, 0⟩, ⟨19, 16, .ro, 0⟩, ⟨4, 0, .ro, 0⟩]⟩,
  ⟨.ctxPwrCfg, 0x102D00, [(64, 0x4000)], [⟨0, 0, .rw, 0⟩]⟩,
  ⟨.ctxFltCfg, 0x102E00, [(64, 0x4000)], [⟨0, 0, .rw, 0⟩]⟩,
  ⟨.ctxFltStatus, 0x102E04, [(64, 0x4000)], [⟨31, 31, .ro, 0⟩, ⟨15, 0, .ro, 0⟩]⟩,
  ⟨.ctxFltCtrl, 0x102E08, [(64, 0x4000)], [⟨0, 0, .wo, 0⟩]⟩]

/-- Registers of the RT, SW, BPM and SHP windows. -/
def regsFab : List RegDesc := [
  ⟨.rtSwitchId, 0x200000, [], [⟨31, 31, .kl, 0⟩, ⟨15, 0, .kl, 0⟩]⟩,
  ⟨.rtCfg, 0x200004, [], [⟨29, 24, .kl, 0x10⟩, ⟨23, 16, .kl, 8⟩, ⟨15, 12, .kl, 8⟩, ⟨11, 0, .kl, 0x40⟩]⟩,
  ⟨.rtEpochCtrl, 0x200008, [], [⟨3, 0, .kl, 0⟩]⟩,
  ⟨.rtEpochStatus, 0x20000C, [], [⟨31, 12, .ro, 0⟩, ⟨1, 1, .ro, 0⟩, ⟨0, 0, .ro, 1⟩]⟩,
  ⟨.rtSrBase, 0x200010, [(2, 4)], [⟨31, 0, .kl, 0⟩]⟩,
  ⟨.rtCnt, 0x200020, [(5, 4)], [⟨31, 0, .rc, 0⟩]⟩,
  ⟨.rtOldSeen, 0x200034, [], [⟨31, 0, .ro, 0⟩]⟩,
  ⟨.rtRankBase, 0x208000, [(1024, 0x20), (2, 8), (2, 4)], [⟨31, 0, .kl, 0⟩]⟩,
  ⟨.rtRankCount, 0x208010, [(1024, 0x20), (2, 4)], [⟨31, 0, .kl, 0⟩]⟩,
  ⟨.rtRankJob, 0x208018, [(1024, 0x20)], [⟨16, 16, .kl, 0⟩, ⟨15, 0, .kl, 0⟩]⟩,
  ⟨.rtRankRsvd, 0x20801C, [(1024, 0x20)], []⟩,
  ⟨.rtTreeBase, 0x210000, [(2, 8), (2, 4)], [⟨31, 0, .kl, 0⟩]⟩,
  ⟨.rtJob, 0x220000, [(65536, 4)], [⟨31, 31, .kl, 0⟩, ⟨9, 0, .kl, 0⟩]⟩,
  ⟨.rtRouteLo, 0x300000, [(2, 0x80000), (65536, 8)], [⟨31, 0, .kl, 0⟩]⟩,
  ⟨.rtRouteHi, 0x300004, [(2, 0x80000), (65536, 8)], [⟨31, 31, .kl, 0⟩, ⟨15, 0, .kl, 0⟩]⟩,
  ⟨.swRsqPeak, 0x400000, [(80, 4)], [⟨14, 0, .rc, 0⟩]⟩,
  ⟨.swAcct, 0x410000, [(528, 0x40), (9, 4)], [⟨15, 0, .ro, 0⟩]⟩,
  ⟨.swBuf, 0x4C0000, [(3, 4)], [⟨20, 0, .ro, 0⟩]⟩,
  ⟨.swSampleCfg, 0x4C0010, [], [⟨15, 0, .rw, 0⟩]⟩,
  ⟨.swCnt, 0x4C0020, [(7, 4)], [⟨31, 0, .rc, 0⟩]⟩,
  ⟨.swSsEn, 0x4C0100, [(8, 0x20)], [⟨2, 0, .kl, 0⟩]⟩,
  ⟨.swSsSrc, 0x4C0104, [(8, 0x20)], [⟨9, 0, .kl, 0⟩]⟩,
  ⟨.swSsDst, 0x4C0108, [(8, 0x20)], [⟨9, 0, .kl, 0⟩]⟩,
  ⟨.swSsTrunc, 0x4C010C, [(8, 0x20)], [⟨31, 0, .kl, 0⟩]⟩,
  ⟨.swSsEvery, 0x4C0110, [(8, 0x20)], [⟨23, 0, .kl, 0⟩]⟩,
  ⟨.swSsJob, 0x4C0114, [(8, 0x20)], [⟨31, 31, .kl, 0⟩, ⟨15, 0, .kl, 0⟩]⟩,
  ⟨.swSsSrcr, 0x4C0118, [(8, 0x20)], [⟨31, 31, .kl, 0⟩, ⟨23, 0, .kl, 0⟩]⟩,
  ⟨.swSsDstr, 0x4C011C, [(8, 0x20)], [⟨31, 31, .kl, 0⟩, ⟨30, 30, .kl, 0⟩, ⟨26, 24, .kl, 0⟩, ⟨23, 0, .kl, 0⟩]⟩,
  ⟨.bpmCtrl, 0x500000, [], [⟨3, 0, .kl, 0⟩]⟩,
  ⟨.bpmStatus, 0x500004, [], [⟨2, 2, .ro, 0⟩, ⟨1, 0, .ro, 0⟩]⟩,
  ⟨.bpmMetaBase, 0x500008, [(2, 4)], [⟨31, 0, .kl, 0⟩]⟩,
  ⟨.bpmFree, 0x500010, [(5, 4)], [⟨31, 0, .ro, 0⟩]⟩,
  ⟨.bpmUse, 0x501000, [(64, 0x1C), (7, 4)], [⟨31, 0, .ro, 0⟩]⟩,
  ⟨.shpQ, 0x600000, [(80, 0x4000), (64, 0x20), (8, 4)], [⟨31, 0, .ro, 0⟩]⟩,
  ⟨.shpHist, 0x602000, [(80, 0x4000), (64, 0x80), (2, 0x40), (16, 4)], [⟨31, 0, .rc, 0⟩]⟩]

/-- Registers of the PG, RSE, MEM, SPN, PIER, GUL, CWY and management windows. -/
def regsUnit : List RegDesc := [
  ⟨.pgCfg, 0x800000, [(64, 0x10000)], [⟨31, 16, .ro, 0⟩, ⟨10, 8, .ro, 0⟩, ⟨5, 4, .ro, 0⟩, ⟨1, 0, .ro, 0⟩]⟩,
  ⟨.pgPortStatus, 0x800004, [(64, 0x10000)], [⟨7, 0, .ro, 0⟩]⟩,
  ⟨.pgRxDiscard, 0x800008, [(64, 0x10000)], [⟨31, 0, .rc, 0⟩]⟩,
  ⟨.pgLaneStatus, 0x800100, [(64, 0x10000), (8, 4)], [⟨31, 16, .ro, 0⟩, ⟨10, 8, .ro, 0⟩, ⟨4, 4, .ro, 0⟩, ⟨3, 3, .ro, 0⟩, ⟨2, 2, .ro, 0⟩, ⟨1, 1, .ro, 0⟩, ⟨0, 0, .ro, 0⟩]⟩,
  ⟨.pgFecCorr, 0x800200, [(64, 0x10000), (8, 4)], [⟨31, 0, .rc, 0⟩]⟩,
  ⟨.pgFecUnc, 0x800240, [(64, 0x10000), (8, 4)], [⟨31, 0, .rc, 0⟩]⟩,
  ⟨.pgLat, 0x800300, [(64, 0x10000), (8, 4)], [⟨31, 31, .ro, 0⟩, ⟨19, 0, .ro, 0⟩]⟩,
  ⟨.rsePstage, 0xC07000, [(144, 4)], [⟨31, 0, .kl, 0⟩]⟩,
  ⟨.rsePload, 0xC07400, [], [⟨13, 8, .kl, 0⟩, ⟨3, 0, .kl, 0⟩]⟩,
  ⟨.rsePstatus, 0xC07404, [], [⟨22, 16, .ro, 0⟩, ⟨11, 8, .ro, 0⟩, ⟨0, 0, .ro, 0⟩]⟩,
  ⟨.rsePvalid, 0xC07408, [(2, 8), (2, 4)], [⟨31, 0, .ro, 0⟩]⟩,
  ⟨.rsePdigest, 0xC07440, [(2, 0x40), (16, 4)], [⟨31, 0, .ro, 0⟩]⟩,
  ⟨.rseStrmCnt, 0xC07E00, [(80, 0x8000), (8, 4)], [⟨31, 0, .rc, 0⟩]⟩,
  ⟨.rseStrmStatus, 0xC07E40, [(80, 0x8000)], [⟨31, 8, .ro, 0⟩, ⟨4, 0, .ro, 0⟩]⟩,
  ⟨.rseAncCfg, 0xC07F00, [(80, 0x8000)], [⟨0, 0, .rw, 0⟩]⟩,
  ⟨.rseAncCnt, 0xC07F10, [(80, 0x8000), (7, 4)], [⟨31, 0, .rc, 0⟩]⟩,
  ⟨.memStatus, 0x1000000, [(8, 0x100000)], [⟨31, 24, .ro, 0⟩, ⟨18, 16, .ro, 0⟩, ⟨14, 8, .ro, 0x40⟩, ⟨2, 0, .ro, 0⟩]⟩,
  ⟨.memCtrl, 0x1000010, [(8, 0x100000)], [⟨22, 16, .kl, 0⟩, ⟨12, 8, .kl, 0⟩, ⟨3, 0, .kl, 0⟩]⟩,
  ⟨.memRepairStatus, 0x1000014, [(8, 0x100000)], [⟨31, 31, .ro, 0⟩, ⟨22, 16, .ro, 0⟩, ⟨12, 8, .ro, 0⟩, ⟨7, 6, .ro, 0⟩, ⟨5, 0, .ro, 0⟩]⟩,
  ⟨.memEccCnt, 0x1000020, [(8, 0x100000), (4, 4)], [⟨31, 0, .rc, 0⟩]⟩,
  ⟨.memEccLast, 0x1000030, [(8, 0x100000), (2, 4)], [⟨31, 0, .ro, 0⟩]⟩,
  ⟨.memScrubPass, 0x1000038, [(8, 0x100000)], [⟨31, 0, .ro, 0⟩]⟩,
  ⟨.memChStatus, 0x1000100, [(8, 0x100000), (16, 4)], [⟨31, 24, .ro, 0⟩, ⟨2, 2, .ro, 0⟩, ⟨1, 1, .ro, 0⟩, ⟨0, 0, .ro, 0⟩]⟩,
  ⟨.tgCtl, 0x1001000, [(8, 0x100000), (32, 0x20)], [⟨9, 8, .kl, 0⟩, ⟨6, 4, .kl, 0⟩, ⟨1, 1, .kl, 0⟩, ⟨0, 0, .kl, 0⟩]⟩,
  ⟨.tgStart, 0x1001004, [(8, 0x100000), (32, 0x20)], [⟨31, 0, .kl, 0⟩]⟩,
  ⟨.tgLen, 0x1001008, [(8, 0x100000), (32, 0x20)], [⟨31, 0, .kl, 0⟩]⟩,
  ⟨.tgSeed, 0x100100C, [(8, 0x100000), (32, 0x20)], [⟨31, 0, .kl, 0⟩]⟩,
  ⟨.tgErrors, 0x1001010, [(8, 0x100000), (32, 0x20)], [⟨31, 0, .rc, 0⟩]⟩,
  ⟨.tgFirstErr, 0x1001014, [(8, 0x100000), (32, 0x20)], [⟨31, 0, .ro, 0⟩]⟩,
  ⟨.tgStatus, 0x1001018, [(8, 0x100000), (32, 0x20)], [⟨1, 1, .ro, 0⟩, ⟨0, 0, .ro, 0⟩]⟩,
  ⟨.tgRsvd, 0x100101C, [(8, 0x100000), (32, 0x20)], []⟩,
  ⟨.pierStatus, 0x2000000, [(8, 0x400000), (16, 0x40000)], [⟨31, 31, .ro, 0⟩, ⟨30, 30, .ro, 0⟩, ⟨21, 16, .ro, 0⟩, ⟨15, 15, .ro, 0⟩, ⟨2, 0, .ro, 0⟩]⟩,
  ⟨.pierQstat, 0x2000040, [(8, 0x400000), (16, 0x40000), (8, 4)], [⟨31, 31, .ro, 0⟩, ⟨30, 30, .ro, 0⟩, ⟨21, 16, .ro, 0⟩, ⟨8, 0, .ro, 0⟩]⟩,
  ⟨.pierDone, 0x2000080, [(8, 0x400000), (16, 0x40000), (8, 4)], [⟨31, 0, .ro, 0⟩]⟩,
  ⟨.pierLastTag, 0x20000C0, [(8, 0x400000), (16, 0x40000), (8, 4)], [⟨31, 0, .ro, 0⟩]⟩,
  ⟨.pierFlag, 0x2000400, [(8, 0x400000), (16, 0x40000), (256, 4)], [⟨15, 8, .ro, 0⟩, ⟨7, 0, .kl, 0⟩]⟩,
  ⟨.pierTrCfg, 0x2000800, [(8, 0x400000), (16, 0x40000)], [⟨31, 31, .kl, 1⟩, ⟨4, 0, .kl, 0x14⟩]⟩,
  ⟨.pierTrStatus, 0x2000804, [(8, 0x400000), (16, 0x40000)], [⟨31, 31, .w1c, 0⟩, ⟨21, 16, .ro, 0⟩, ⟨7, 0, .ro, 0⟩]⟩,
  ⟨.pierTrTag, 0x2000840, [(8, 0x400000), (16, 0x40000), (8, 4)], [⟨31, 0, .ro, 0⟩]⟩,
  ⟨.pierTrFlag, 0x2000860, [(8, 0x400000), (16, 0x40000), (8, 4)], [⟨23, 16, .ro, 0⟩, ⟨13, 8, .ro, 0⟩]⟩,
  ⟨.pierBrkCfg, 0x2000900, [(8, 0x400000), (16, 0x40000)], [⟨31, 31, .kl, 0⟩, ⟨30, 30, .kl, 0⟩, ⟨21, 16, .kl, 0⟩, ⟨7, 0, .kl, 0⟩]⟩,
  ⟨.pierBrkTag, 0x2000904, [(8, 0x400000), (16, 0x40000)], [⟨31, 0, .kl, 0⟩]⟩,
  ⟨.pierBrkCount, 0x2000908, [(8, 0x400000), (16, 0x40000)], [⟨31, 0, .kl, 0⟩]⟩,
  ⟨.pierBrkCtrl, 0x200090C, [(8, 0x400000), (16, 0x40000)], [⟨3, 0, .kl, 0⟩]⟩,
  ⟨.pierBrkStatus, 0x2000910, [(8, 0x400000), (16, 0x40000)], [⟨31, 31, .ro, 0⟩, ⟨10, 8, .ro, 0⟩, ⟨1, 0, .ro, 0⟩]⟩,
  ⟨.pierBrkDeq, 0x2000914, [(8, 0x400000), (16, 0x40000)], [⟨31, 0, .ro, 0⟩]⟩,
  ⟨.spnGroup, 0x203C000, [(8, 0x400000), (4, 4)], [⟨31, 31, .kl, 0⟩, ⟨28, 24, .kl, 0⟩, ⟨23, 23, .kl, 0⟩, ⟨16, 16, .ro, 0⟩, ⟨12, 8, .ro, 0⟩, ⟨4, 0, .ro, 0⟩]⟩,
  ⟨.gulCfg, 0x4000000, [(2, 0x10000)], [⟨16, 16, .rw, 1⟩, ⟨15, 0, .kl, 0x88B5⟩]⟩,
  ⟨.gulRxErr, 0x4000004, [(2, 0x10000)], [⟨31, 0, .rc, 0⟩]⟩,
  ⟨.cwyCtrl, 0x4020000, [(8, 4)], [⟨0, 0, .kl, 0⟩]⟩,
  ⟨.cwyStatus, 0x4020040, [(8, 4)], [⟨4, 4, .w1c, 0⟩, ⟨3, 3, .ro, 0⟩, ⟨2, 2, .ro, 0⟩, ⟨1, 0, .ro, 0⟩]⟩,
  ⟨.evtLog, 0x4030000, [(2048, 4)], [⟨31, 0, .ro, 0⟩]⟩,
  ⟨.gulEvtSeq, 0x4032000, [], [⟨31, 0, .ro, 0⟩]⟩,
  ⟨.identKey, 0x4034000, [(648, 4)], [⟨31, 0, .ro, 0⟩]⟩,
  ⟨.identSig, 0x4034C00, [(1157, 4)], [⟨31, 0, .ro, 0⟩]⟩,
  ⟨.enrollArea, 0x4036000, [(1832, 4)], [⟨31, 0, .kl, 0⟩]⟩,
  ⟨.moduleSn, 0x4037FF8, [(2, 4)], [⟨31, 0, .ro, 0⟩]⟩,
  ⟨.attReport, 0x4038000, [(4096, 4)], [⟨31, 0, .ro, 0⟩]⟩,
  ⟨.fltLog, 0x403C000, [(4096, 4)], [⟨31, 0, .ro, 0⟩]⟩]

/-- The index of an address offset in the index ranges of a register, none where it names no register. -/
def dimIdx : List (Nat × Nat) → Nat → Option (List Nat)
  | [], off => if off = 0 then some [] else none
  | (c, st) :: r, off => if off / st < c then (dimIdx r (off % st)).map (off / st :: ·) else none

/-- The register descriptor and index that sit at an address, among a list of registers. -/
def findIn : List RegDesc → Nat → Option (RegDesc × List Nat)
  | [], _ => none
  | d :: r, a =>
    if d.base ≤ a then
      match dimIdx d.dims (a - d.base) with
      | some ix => some (d, ix)
      | none => findIn r a
    else findIn r a

/-- The register at a word address of the configuration space, with its index (03 R66). -/
def findReg (a : Nat) : Option (RegDesc × List Nat) :=
  if a % 4 ≠ 0 then none
  else if a < 0x100000 then findIn regsDk a
  else if a < 0x200000 then findIn regsCtx a
  else if a < 0x800000 then findIn regsFab a
  else findIn regsUnit a

/-- The reset word of a register, by its fields' reset values (00 R10). -/
def RegDesc.resetWord (d : RegDesc) : Word :=
  BitVec.ofNat 32 (d.fields.foldl (fun n f => n + f.rst * 2 ^ f.lo) 0)

/-- What a configuration word that nothing has written reads as: its reset value; 0 where no register sits. -/
def regReset (a : Nat) : Word :=
  match findReg a with
  | some (d, _) => d.resetWord
  | none => 0

/-- A window of Table 3.7 below the HBM aperture: its first and last address. -/
def windows : List (Nat × Nat) := [
  (0x0, 0xFFFF), (0x10000, 0x1FFFF), (0x20000, 0x3FFFF), (0x40000, 0x4FFFF), (0x50000, 0x5FFFF),
  (0x60000, 0x6FFFF), (0x100000, 0x1FFFFF), (0x200000, 0x3FFFFF), (0x400000, 0x4FFFFF),
  (0x500000, 0x5FFFFF), (0x600000, 0x7FFFFF), (0x800000, 0xBFFFFF), (0xC00000, 0xE7FFFF),
  (0x1000000, 0x17FFFFF), (0x2000000, 0x3FFFFFF), (0x4000000, 0x401FFFF), (0x4020000, 0x402FFFF),
  (0x4030000, 0x403FFFF)]

/-- The window that holds an address. -/
def windowOf (a : Nat) : Option (Nat × Nat) := windows.find? fun w => w.1 ≤ a && a ≤ w.2

/-- The UNIT of a record about a configuration address: its unit's register block where the window has one per unit
(PG, RSE, MEM, SPN and PIER, GUL, CTX), else the base of its window; 0 for the HBM aperture (03 Table 3.5). -/
def unitOf (a : Nat) : Nat :=
  if 0x100000 ≤ a ∧ a < 0x200000 then 0x4000 * (a / 0x4000)
  else if 0x800000 ≤ a ∧ a < 0xC00000 then 0x10000 * (a / 0x10000)
  else if 0xC00000 ≤ a ∧ a < 0xE80000 then 0xC00000 + 0x8000 * ((a - 0xC00000) / 0x8000)
  else if 0x1000000 ≤ a ∧ a < 0x1800000 then 0x100000 * (a / 0x100000)
  else if 0x2000000 ≤ a ∧ a < 0x4000000 then
    if 0x3C000 ≤ a % 0x400000 ∧ a % 0x400000 < 0x40000 then 0x400000 * (a / 0x400000) + 0x3C000
    else 0x40000 * (a / 0x40000)
  else if 0x4000000 ≤ a ∧ a < 0x4020000 then 0x10000 * (a / 0x10000)
  else match windowOf a with
    | some w => w.1
    | none => 0

/-- The die of the arbiter that performs an access at a configuration address (03 Table 3.7, 01 Table 1.4). -/
def dieOf (a : Nat) : Nat :=
  if 0x400000 ≤ a ∧ a < 0x400140 then
    let n := (a - 0x400000) / 4
    if (32 ≤ n ∧ n < 64) ∨ 72 ≤ n then 1 else 0
  else if 0x600000 ≤ a ∧ a < 0x800000 then
    let n := (a - 0x600000) / 0x4000
    if (32 ≤ n ∧ n < 64) ∨ 72 ≤ n then 1 else 0
  else if 0x800000 ≤ a ∧ a < 0xC00000 then (a - 0x800000) / 0x10000 / 32
  else if 0xC00000 ≤ a ∧ a < 0xE80000 then
    let n := (a - 0xC00000) / 0x8000
    if (32 ≤ n ∧ n < 64) ∨ 72 ≤ n then 1 else 0
  else if 0x1000000 ≤ a ∧ a < 0x1800000 then (a - 0x1000000) / 0x100000 / 4
  else if 0x2000000 ≤ a ∧ a < 0x4000000 then (a - 0x2000000) / 0x400000 / 4
  else if 0x4000000 ≤ a ∧ a < 0x4020000 then (a - 0x4000000) / 0x10000
  else if 0x4020000 ≤ a ∧ a < 0x4030000 then 1
  else 0

/-! ### Addresses of the registers, by name and index -/

namespace A
/-- Address of dkDeviceId. -/
def dkDeviceId : Nat := 0
/-- Address of dkUnitCounts. -/
def dkUnitCounts : Nat := 4
/-- Address of dkViaductStatus. -/
def dkViaductStatus : Nat := 0x40
/-- Address of dkViaductCorr. -/
def dkViaductCorr : Nat := 0x44
/-- Address of dkSpanSlots. -/
def dkSpanSlots (s : Nat) : Nat := 0x80 + 4 * s
/-- Address of dkPierMap. -/
def dkPierMap (pier : Nat) : Nat := 0x100 + 4 * pier
/-- Address of dkImgCtrl. -/
def dkImgCtrl : Nat := 0x400
/-- Address of dkImgLen. -/
def dkImgLen : Nat := 0x404
/-- Address of dkImgStatus. -/
def dkImgStatus : Nat := 0x408
/-- Address of dkImgDetail. -/
def dkImgDetail : Nat := 0x40C
/-- Address of dkImgSerial. -/
def dkImgSerial (i : Nat) : Nat := 0x410 + 4 * i
/-- Address of dkImgMinSerial. -/
def dkImgMinSerial (i : Nat) : Nat := 0x418 + 4 * i
/-- Address of dkImgDigest. -/
def dkImgDigest (i : Nat) : Nat := 0x440 + 4 * i
/-- Address of dkFtCfg. -/
def dkFtCfg : Nat := 0x800
/-- Address of dkFtStatus. -/
def dkFtStatus : Nat := 0x804
/-- Address of dkFtTime. -/
def dkFtTime (i : Nat) : Nat := 0x808 + 4 * i
/-- Address of dkStep. -/
def dkStep (i : Nat) : Nat := 0x820 + 4 * i
/-- Address of dkStepCtrl. -/
def dkStepCtrl : Nat := 0x828
/-- Address of dkCollPriv. -/
def dkCollPriv (i : Nat) : Nat := 0x830 + 4 * i
/-- Address of dkBootCtrl. -/
def dkBootCtrl : Nat := 0xC00
/-- Address of dkBootStatus. -/
def dkBootStatus : Nat := 0xC04
/-- Address of dkFuncCtrl. -/
def dkFuncCtrl : Nat := 0xC10
/-- Address of dkSpareCtrl. -/
def dkSpareCtrl : Nat := 0xC20
/-- Address of dkSpareCfg. -/
def dkSpareCfg : Nat := 0xC24
/-- Address of dkSpareStep. -/
def dkSpareStep (i : Nat) : Nat := 0xC28 + 4 * i
/-- Address of dkSpareStatus. -/
def dkSpareStatus : Nat := 0xC30
/-- Address of dkSpareJob. -/
def dkSpareJob : Nat := 0xC34
/-- Address of dkFltSeq. -/
def dkFltSeq : Nat := 0xC40
/-- Address of dkFltStatus. -/
def dkFltStatus : Nat := 0xC44
/-- Address of dkFltCtrl. -/
def dkFltCtrl : Nat := 0xC48
/-- Address of dkFltCnt. -/
def dkFltCnt (c : Nat) : Nat := 0xC50 + 4 * c
/-- Address of dkFuncState. -/
def dkFuncState (f : Nat) : Nat := 0x1000 + 4 * f
/-- Address of dkAttCtrl. -/
def dkAttCtrl (n : Nat) : Nat := 0x2000 + 0x100 * n
/-- Address of dkAttNonce. -/
def dkAttNonce (n i : Nat) : Nat := 0x2040 + 0x100 * n + 4 * i
/-- Address of ksAcquire. -/
def ksAcquire : Nat := 0x10000
/-- Address of ksStatus. -/
def ksStatus : Nat := 0x10004
/-- Address of ksLease. -/
def ksLease : Nat := 0x10008
/-- Address of ksCtrl. -/
def ksCtrl : Nat := 0x1000C
/-- Address of ksProtCtrl. -/
def ksProtCtrl : Nat := 0x10100
/-- Address of ksProtStatus. -/
def ksProtStatus : Nat := 0x10104
/-- Address of ksProtEpoch. -/
def ksProtEpoch : Nat := 0x10108
/-- Address of ksProtDigest. -/
def ksProtDigest (i : Nat) : Nat := 0x10140 + 4 * i
/-- Address of ksProtLive. -/
def ksProtLive (i : Nat) : Nat := 0x10180 + 4 * i
/-- Address of ksJrnlHead. -/
def ksJrnlHead : Nat := 0x10200
/-- Address of ksJournal. -/
def ksJournal (w : Nat) : Nat := 0x18000 + 4 * w
/-- Address of clkStatus. -/
def clkStatus : Nat := 0x20000
/-- Address of clkSpan. -/
def clkSpan (s : Nat) : Nat := 0x20100 + 4 * s
/-- Address of pwrStatus. -/
def pwrStatus : Nat := 0x21000
/-- Address of pwrCtrl. -/
def pwrCtrl : Nat := 0x21004
/-- Address of pwrHintTree. -/
def pwrHintTree : Nat := 0x21010
/-- Address of pwrHintHold. -/
def pwrHintHold : Nat := 0x21014
/-- Address of pwrRail. -/
def pwrRail (k : Nat) : Nat := 0x21100 + 4 * k
/-- Address of pwrVf. -/
def pwrVf (j : Nat) : Nat := 0x21200 + 4 * j
/-- Address of pwrDieTemp. -/
def pwrDieTemp (d : Nat) : Nat := 0x21220 + 4 * d
/-- Address of tstPeriod. -/
def tstPeriod : Nat := 0x40000
/-- Address of tstBudget. -/
def tstBudget (a : Nat) : Nat := 0x40100 + 4 * a
/-- Address of tstDefer. -/
def tstDefer (a : Nat) : Nat := 0x40200 + 4 * a
/-- Address of trcEn. -/
def trcEn (i : Nat) : Nat := 0x50000 + 0x40 * i
/-- Address of trcSelect. -/
def trcSelect (i : Nat) : Nat := 0x50004 + 0x40 * i
/-- Address of trcKinds. -/
def trcKinds (i : Nat) : Nat := 0x50008 + 0x40 * i
/-- Address of trcBase. -/
def trcBase (i h : Nat) : Nat := 0x50010 + 0x40 * i + 4 * h
/-- Address of trcWptr. -/
def trcWptr (i h : Nat) : Nat := 0x50018 + 0x40 * i + 4 * h
/-- Address of trcDropped. -/
def trcDropped (i : Nat) : Nat := 0x50020 + 0x40 * i
/-- Address of trcRsvdA. -/
def trcRsvdA (i : Nat) : Nat := 0x5000C + 0x40 * i
/-- Address of trcRsvdB. -/
def trcRsvdB (i w : Nat) : Nat := 0x50024 + 0x40 * i + 4 * w
/-- Address of sntCfg. -/
def sntCfg : Nat := 0x60000
/-- Address of sntStatus. -/
def sntStatus : Nat := 0x60004
/-- Address of sntRetire. -/
def sntRetire : Nat := 0x60010
/-- Address of sntPending. -/
def sntPending : Nat := 0x60014
/-- Address of sntResidCnt. -/
def sntResidCnt : Nat := 0x60018
/-- Address of ctxShadow. -/
def ctxShadow (x w : Nat) : Nat := 0x100000 + 0x4000 * x + 4 * w
/-- Address of ctxLive. -/
def ctxLive (x w : Nat) : Nat := 0x101400 + 0x4000 * x + 4 * w
/-- Address of ctxDb. -/
def ctxDb (x q : Nat) : Nat := 0x102800 + 0x4000 * x + 8 * q
/-- Address of ctxDbHi. -/
def ctxDbHi (x q : Nat) : Nat := 0x102804 + 0x4000 * x + 8 * q
/-- Address of ctxNanCtrl. -/
def ctxNanCtrl (x : Nat) : Nat := 0x102900 + 0x4000 * x
/-- Address of ctxNanStatus. -/
def ctxNanStatus (x : Nat) : Nat := 0x102904 + 0x4000 * x
/-- Address of ctxNanTag. -/
def ctxNanTag (x : Nat) : Nat := 0x102908 + 0x4000 * x
/-- Address of ctxNanUnit. -/
def ctxNanUnit (x : Nat) : Nat := 0x10290C + 0x4000 * x
/-- Address of ctxNanIdx. -/
def ctxNanIdx (x i : Nat) : Nat := 0x102910 + 0x4000 * x + 4 * i
/-- Address of ctxNanCount. -/
def ctxNanCount (x : Nat) : Nat := 0x102918 + 0x4000 * x
/-- Address of ctxSrSeed. -/
def ctxSrSeed (x : Nat) : Nat := 0x10291C + 0x4000 * x
/-- Address of ctxSched. -/
def ctxSched (x : Nat) : Nat := 0x102A00 + 0x4000 * x
/-- Address of ctxSaveBase. -/
def ctxSaveBase (x i : Nat) : Nat := 0x102A08 + 0x4000 * x + 4 * i
/-- Address of ctxWqBase. -/
def ctxWqBase (x s i : Nat) : Nat := 0x102A40 + 0x4000 * x + 0x10 * s + 4 * i
/-- Address of ctxWqCfg. -/
def ctxWqCfg (x s : Nat) : Nat := 0x102A48 + 0x4000 * x + 0x10 * s
/-- Address of ctxWqCons. -/
def ctxWqCons (x s : Nat) : Nat := 0x102A4C + 0x4000 * x + 0x10 * s
/-- Address of ctxActCfg. -/
def ctxActCfg (x : Nat) : Nat := 0x102B00 + 0x4000 * x
/-- Address of ctxActAthr. -/
def ctxActAthr (x : Nat) : Nat := 0x102B04 + 0x4000 * x
/-- Address of ctxActCnt. -/
def ctxActCnt (x k : Nat) : Nat := 0x102B10 + 0x4000 * x + 4 * k
/-- Address of ctxActWin. -/
def ctxActWin (x k : Nat) : Nat := 0x102B20 + 0x4000 * x + 4 * k
/-- Address of ctxSvcBase. -/
def ctxSvcBase (x j i : Nat) : Nat := 0x102C00 + 0x4000 * x + 0x10 * j + 4 * i
/-- Address of ctxSvcCfg. -/
def ctxSvcCfg (x j : Nat) : Nat := 0x102C08 + 0x4000 * x + 0x10 * j
/-- Address of ctxSvcCons. -/
def ctxSvcCons (x j : Nat) : Nat := 0x102C0C + 0x4000 * x + 0x10 * j
/-- Address of ctxSvcCtl. -/
def ctxSvcCtl (x : Nat) : Nat := 0x102C80 + 0x4000 * x
/-- Address of ctxSvcStatus. -/
def ctxSvcStatus (x : Nat) : Nat := 0x102C84 + 0x4000 * x
/-- Address of ctxPwrCfg. -/
def ctxPwrCfg (x : Nat) : Nat := 0x102D00 + 0x4000 * x
/-- Address of ctxFltCfg. -/
def ctxFltCfg (x : Nat) : Nat := 0x102E00 + 0x4000 * x
/-- Address of ctxFltStatus. -/
def ctxFltStatus (x : Nat) : Nat := 0x102E04 + 0x4000 * x
/-- Address of ctxFltCtrl. -/
def ctxFltCtrl (x : Nat) : Nat := 0x102E08 + 0x4000 * x
/-- Address of rtSwitchId. -/
def rtSwitchId : Nat := 0x200000
/-- Address of rtCfg. -/
def rtCfg : Nat := 0x200004
/-- Address of rtEpochCtrl. -/
def rtEpochCtrl : Nat := 0x200008
/-- Address of rtEpochStatus. -/
def rtEpochStatus : Nat := 0x20000C
/-- Address of rtSrBase. -/
def rtSrBase (i : Nat) : Nat := 0x200010 + 4 * i
/-- Address of rtCnt. -/
def rtCnt (k : Nat) : Nat := 0x200020 + 4 * k
/-- Address of rtOldSeen. -/
def rtOldSeen : Nat := 0x200034
/-- Address of rtRankBase. -/
def rtRankBase (t v i : Nat) : Nat := 0x208000 + 0x20 * t + 8 * v + 4 * i
/-- Address of rtRankCount. -/
def rtRankCount (t v : Nat) : Nat := 0x208010 + 0x20 * t + 4 * v
/-- Address of rtRankJob. -/
def rtRankJob (t : Nat) : Nat := 0x208018 + 0x20 * t
/-- Address of rtRankRsvd. -/
def rtRankRsvd (t : Nat) : Nat := 0x20801C + 0x20 * t
/-- Address of rtTreeBase. -/
def rtTreeBase (v i : Nat) : Nat := 0x210000 + 8 * v + 4 * i
/-- Address of rtJob. -/
def rtJob (j : Nat) : Nat := 0x220000 + 4 * j
/-- Address of rtRouteLo. -/
def rtRouteLo (v d : Nat) : Nat := 0x300000 + 0x80000 * v + 8 * d
/-- Address of rtRouteHi. -/
def rtRouteHi (v d : Nat) : Nat := 0x300004 + 0x80000 * v + 8 * d
/-- Address of swRsqPeak. -/
def swRsqPeak (n : Nat) : Nat := 0x400000 + 4 * n
/-- Address of swAcct. -/
def swAcct (k c : Nat) : Nat := 0x410000 + 0x40 * k + 4 * c
/-- Address of swBuf. -/
def swBuf (i : Nat) : Nat := 0x4C0000 + 4 * i
/-- Address of swSampleCfg. -/
def swSampleCfg : Nat := 0x4C0010
/-- Address of swCnt. -/
def swCnt (k : Nat) : Nat := 0x4C0020 + 4 * k
/-- Address of swSsEn. -/
def swSsEn (j : Nat) : Nat := 0x4C0100 + 0x20 * j
/-- Address of swSsSrc. -/
def swSsSrc (j : Nat) : Nat := 0x4C0104 + 0x20 * j
/-- Address of swSsDst. -/
def swSsDst (j : Nat) : Nat := 0x4C0108 + 0x20 * j
/-- Address of swSsTrunc. -/
def swSsTrunc (j : Nat) : Nat := 0x4C010C + 0x20 * j
/-- Address of swSsEvery. -/
def swSsEvery (j : Nat) : Nat := 0x4C0110 + 0x20 * j
/-- Address of swSsJob. -/
def swSsJob (j : Nat) : Nat := 0x4C0114 + 0x20 * j
/-- Address of swSsSrcr. -/
def swSsSrcr (j : Nat) : Nat := 0x4C0118 + 0x20 * j
/-- Address of swSsDstr. -/
def swSsDstr (j : Nat) : Nat := 0x4C011C + 0x20 * j
/-- Address of bpmCtrl. -/
def bpmCtrl : Nat := 0x500000
/-- Address of bpmStatus. -/
def bpmStatus : Nat := 0x500004
/-- Address of bpmMetaBase. -/
def bpmMetaBase (i : Nat) : Nat := 0x500008 + 4 * i
/-- Address of bpmFree. -/
def bpmFree (k : Nat) : Nat := 0x500010 + 4 * k
/-- Address of bpmUse. -/
def bpmUse (x c : Nat) : Nat := 0x501000 + 0x1C * x + 4 * c
/-- Address of shpQ. -/
def shpQ (n q w : Nat) : Nat := 0x600000 + 0x4000 * n + 0x20 * q + 4 * w
/-- Address of shpHist. -/
def shpHist (n q h b : Nat) : Nat := 0x602000 + 0x4000 * n + 0x80 * q + 0x40 * h + 4 * b
/-- Address of pgCfg. -/
def pgCfg (g : Nat) : Nat := 0x800000 + 0x10000 * g
/-- Address of pgPortStatus. -/
def pgPortStatus (g : Nat) : Nat := 0x800004 + 0x10000 * g
/-- Address of pgRxDiscard. -/
def pgRxDiscard (g : Nat) : Nat := 0x800008 + 0x10000 * g
/-- Address of pgLaneStatus. -/
def pgLaneStatus (g l : Nat) : Nat := 0x800100 + 0x10000 * g + 4 * l
/-- Address of pgFecCorr. -/
def pgFecCorr (g l : Nat) : Nat := 0x800200 + 0x10000 * g + 4 * l
/-- Address of pgFecUnc. -/
def pgFecUnc (g l : Nat) : Nat := 0x800240 + 0x10000 * g + 4 * l
/-- Address of pgLat. -/
def pgLat (g p : Nat) : Nat := 0x800300 + 0x10000 * g + 4 * p
/-- Address of rsePstage. -/
def rsePstage (i : Nat) : Nat := 0xC07000 + 4 * i
/-- Address of rsePload. -/
def rsePload : Nat := 0xC07400
/-- Address of rsePstatus. -/
def rsePstatus : Nat := 0xC07404
/-- Address of rsePvalid. -/
def rsePvalid (v i : Nat) : Nat := 0xC07408 + 8 * v + 4 * i
/-- Address of rsePdigest. -/
def rsePdigest (v i : Nat) : Nat := 0xC07440 + 0x40 * v + 4 * i
/-- Address of rseStrmCnt. -/
def rseStrmCnt (n k : Nat) : Nat := 0xC07E00 + 0x8000 * n + 4 * k
/-- Address of rseStrmStatus. -/
def rseStrmStatus (n : Nat) : Nat := 0xC07E40 + 0x8000 * n
/-- Address of rseAncCfg. -/
def rseAncCfg (n : Nat) : Nat := 0xC07F00 + 0x8000 * n
/-- Address of rseAncCnt. -/
def rseAncCnt (n k : Nat) : Nat := 0xC07F10 + 0x8000 * n + 4 * k
/-- Address of memStatus. -/
def memStatus (s : Nat) : Nat := 0x1000000 + 0x100000 * s
/-- Address of memCtrl. -/
def memCtrl (s : Nat) : Nat := 0x1000010 + 0x100000 * s
/-- Address of memRepairStatus. -/
def memRepairStatus (s : Nat) : Nat := 0x1000014 + 0x100000 * s
/-- Address of memEccCnt. -/
def memEccCnt (s k : Nat) : Nat := 0x1000020 + 0x100000 * s + 4 * k
/-- Address of memEccLast. -/
def memEccLast (s i : Nat) : Nat := 0x1000030 + 0x100000 * s + 4 * i
/-- Address of memScrubPass. -/
def memScrubPass (s : Nat) : Nat := 0x1000038 + 0x100000 * s
/-- Address of memChStatus. -/
def memChStatus (s c : Nat) : Nat := 0x1000100 + 0x100000 * s + 4 * c
/-- Address of tgCtl. -/
def tgCtl (s p : Nat) : Nat := 0x1001000 + 0x100000 * s + 0x20 * p
/-- Address of tgStart. -/
def tgStart (s p : Nat) : Nat := 0x1001004 + 0x100000 * s + 0x20 * p
/-- Address of tgLen. -/
def tgLen (s p : Nat) : Nat := 0x1001008 + 0x100000 * s + 0x20 * p
/-- Address of tgSeed. -/
def tgSeed (s p : Nat) : Nat := 0x100100C + 0x100000 * s + 0x20 * p
/-- Address of tgErrors. -/
def tgErrors (s p : Nat) : Nat := 0x1001010 + 0x100000 * s + 0x20 * p
/-- Address of tgFirstErr. -/
def tgFirstErr (s p : Nat) : Nat := 0x1001014 + 0x100000 * s + 0x20 * p
/-- Address of tgStatus. -/
def tgStatus (s p : Nat) : Nat := 0x1001018 + 0x100000 * s + 0x20 * p
/-- Address of tgRsvd. -/
def tgRsvd (s p : Nat) : Nat := 0x100101C + 0x100000 * s + 0x20 * p
/-- Address of pierStatus. -/
def pierStatus (pier : Nat) : Nat := 0x2000000 + 0x40000 * pier
/-- Address of pierQstat. -/
def pierQstat (pier e : Nat) : Nat := 0x2000040 + 0x40000 * pier + 4 * e
/-- Address of pierDone. -/
def pierDone (pier e : Nat) : Nat := 0x2000080 + 0x40000 * pier + 4 * e
/-- Address of pierLastTag. -/
def pierLastTag (pier e : Nat) : Nat := 0x20000C0 + 0x40000 * pier + 4 * e
/-- Address of pierFlag. -/
def pierFlag (pier k : Nat) : Nat := 0x2000400 + 0x40000 * pier + 4 * k
/-- Address of pierTrCfg. -/
def pierTrCfg (pier : Nat) : Nat := 0x2000800 + 0x40000 * pier
/-- Address of pierTrStatus. -/
def pierTrStatus (pier : Nat) : Nat := 0x2000804 + 0x40000 * pier
/-- Address of pierTrTag. -/
def pierTrTag (pier e : Nat) : Nat := 0x2000840 + 0x40000 * pier + 4 * e
/-- Address of pierTrFlag. -/
def pierTrFlag (pier e : Nat) : Nat := 0x2000860 + 0x40000 * pier + 4 * e
/-- Address of pierBrkCfg. -/
def pierBrkCfg (pier : Nat) : Nat := 0x2000900 + 0x40000 * pier
/-- Address of pierBrkTag. -/
def pierBrkTag (pier : Nat) : Nat := 0x2000904 + 0x40000 * pier
/-- Address of pierBrkCount. -/
def pierBrkCount (pier : Nat) : Nat := 0x2000908 + 0x40000 * pier
/-- Address of pierBrkCtrl. -/
def pierBrkCtrl (pier : Nat) : Nat := 0x200090C + 0x40000 * pier
/-- Address of pierBrkStatus. -/
def pierBrkStatus (pier : Nat) : Nat := 0x2000910 + 0x40000 * pier
/-- Address of pierBrkDeq. -/
def pierBrkDeq (pier : Nat) : Nat := 0x2000914 + 0x40000 * pier
/-- Address of spnGroup. -/
def spnGroup (s k : Nat) : Nat := 0x203C000 + 0x400000 * s + 4 * k
/-- Address of gulCfg. -/
def gulCfg (n : Nat) : Nat := 0x4000000 + 0x10000 * n
/-- Address of gulRxErr. -/
def gulRxErr (n : Nat) : Nat := 0x4000004 + 0x10000 * n
/-- Address of cwyCtrl. -/
def cwyCtrl (j : Nat) : Nat := 0x4020000 + 4 * j
/-- Address of cwyStatus. -/
def cwyStatus (j : Nat) : Nat := 0x4020040 + 4 * j
/-- Address of evtLog. -/
def evtLog (w : Nat) : Nat := 0x4030000 + 4 * w
/-- Address of gulEvtSeq. -/
def gulEvtSeq : Nat := 0x4032000
/-- Address of identKey. -/
def identKey (w : Nat) : Nat := 0x4034000 + 4 * w
/-- Address of identSig. -/
def identSig (w : Nat) : Nat := 0x4034C00 + 4 * w
/-- Address of enrollArea. -/
def enrollArea (w : Nat) : Nat := 0x4036000 + 4 * w
/-- Address of moduleSn. -/
def moduleSn (w : Nat) : Nat := 0x4037FF8 + 4 * w
/-- Address of attReport. -/
def attReport (w : Nat) : Nat := 0x4038000 + 4 * w
/-- Address of fltLog. -/
def fltLog (w : Nat) : Nat := 0x403C000 + 4 * w
end A

end Sys2Proof.Machine
end

