-- ==== Sys2Proof/Machine/Fuses.lean ====
section
/-! DEFINITION. The fuses, and the register words that they load (00 R7, R10; 01 R24-R26; 16 R409; 17 R436). -/

namespace Sys2Proof.Machine
open Sys2Proof

/-- What the fuses of this module hold and no command changes. -/
structure Fuses where
  grade : Grade
  /-- Stepping letter and digit (00 Table 0.4). -/
  stepMj : Nat
  stepMn : Nat
  /-- SLOT_GOOD of the eight spans as fused. -/
  slotGood : List Nat
  /-- Rivet skip fields other than 16 of the girders of physical slots, keyed by 4 × (32 × span + slot) + girder. -/
  rskip : List (Nat × Nat)
  moduleSn : Nat
  /-- K[j] and VMIN[j] of 16 Table 16.13. -/
  kFactor : List Nat
  vmin : List Nat
  /-- LOSS of 16 R414 in 1/1,024. -/
  loss : Nat
  vendorDigest : List Byte
  identKey : List Byte
  identSig : List Byte
  /-- Ethernet addresses of the port slots 0-511, and of Gulane port n at 512 + n; unlisted zero. -/
  portMac : List (Nat × List Byte)
  deriving DecidableEq, Repr

/-- The fused Ethernet address of a port (03 R57, 04 R90). -/
def Fuses.portAddr (f : Fuses) (k : Nat) : List Byte := slice (smGet [] f.portMac k) 0 6

/-- A signer slot of 02 R35 and 17 R435: the enrolled digest and its two fuses. -/
structure SignerSlot where
  digest : List Byte
  enrolled : Bool
  revoked : Bool
  deriving DecidableEq, Repr

/-- Fuses that commands burn; they survive every reset (17 R435, 02 Table 2.18). -/
structure Otp where
  slots : List SignerSlot
  imgFloor : Nat
  fwFloor : Nat
  deriving DecidableEq, Repr

/-- GRADE of DK_DEVICE_ID (00 Table 0.4). -/
def gradeCode : Grade → Nat
  | .fys8192 => 0
  | .fys7168 => 1
  | .fys6144 => 2

/-- Piers per span of a grade (00 Table 0.2). -/
def piersPerSpan : Grade → Nat
  | .fys8192 => 16
  | .fys7168 => 14
  | .fys6144 => 12

/-- Port groups of a grade (00 Table 0.2). -/
def gradeGroups : Grade → Nat
  | .fys6144 => 48
  | _ => 64

/-- The good physical slots of a span's SLOT_GOOD, ascending. -/
def goodSlots (g : Nat) : List Nat := (List.range 17).filter (bit g)

/-- Number of set bits of the low 17 bits. -/
def goodCount (g : Nat) : Nat := (goodSlots g).length

/-- RSKIP3 to RSKIP0 of a physical slot as fused. -/
def fuseSkips (f : Fuses) (span slot : Nat) : Nat :=
  let sk := fun g => smGet 16 f.rskip (4 * (32 * span + slot) + g)
  2 ^ 15 * sk 3 + 2 ^ 10 * sk 2 + sk 1 * 2 ^ 5 + sk 0

/-- The fused word of DK_PIER_MAP for a pier: its slot in ascending order and its girders' skip fields (01 R24). -/
def fusePierMap (f : Fuses) (pier : Nat) : Nat :=
  if pier % 16 < piersPerSpan f.grade then
    let slot := (goodSlots (f.slotGood.getD (pier / 16) 0)).getD (pier % 16) 0
    2 ^ 31 + 2 ^ 24 * slot + fuseSkips f (pier / 16) slot
  else 0

/-- The fused word of DK_SPAN_SLOTS for a span: the good slots, and those left over as spares. -/
def fuseSpanSlots (f : Fuses) (s : Nat) : Nat :=
  let g := f.slotGood.getD s 0
  2 ^ 24 * (goodCount g - piersPerSpan f.grade) + g % 2 ^ 17

/-- DK_DEVICE_ID (00 Table 0.4). -/
def fuseDeviceId (f : Fuses) : Nat :=
  0x46 * 2 ^ 24 + 0x01 * 2 ^ 16 + 2 ^ 12 * gradeCode f.grade + 2 ^ 8 * f.stepMj + f.stepMn * 2 ^ 4

/-- DK_UNIT_COUNTS (00 Table 0.5). -/
def fuseUnitCounts (f : Fuses) : Nat :=
  2 * 2 ^ 28 + 8 * 2 ^ 24 + 0x50 * 2 ^ 16 + 2 ^ 8 * gradeGroups f.grade + 8 * piersPerSpan f.grade

/-- The words that fuses load, by address. -/
def fuseWords (f : Fuses) (o : Otp) : List (Nat × Nat) :=
  [(A.dkDeviceId, fuseDeviceId f), (A.dkUnitCounts, fuseUnitCounts f)] ++
  (List.range 8).map (fun s => (A.dkSpanSlots s, fuseSpanSlots f s)) ++
  (List.range 128).map (fun p => (A.dkPierMap p, fusePierMap f p)) ++
  [(A.dkImgMinSerial 0, o.imgFloor % 2 ^ 32), (A.dkImgMinSerial 1, o.imgFloor / 2 ^ 32)] ++
  (List.range 5).map (fun j => (A.pwrVf j, 2 ^ 16 * f.kFactor.getD j 0 + f.vmin.getD j 0)) ++
  (toWords f.identKey).zipIdx.map (fun w => (A.identKey w.2, w.1.toNat)) ++
  (toWords f.identSig).zipIdx.map (fun w => (A.identSig w.2, w.1.toNat)) ++
  [(A.moduleSn 0, f.moduleSn % 2 ^ 32), (A.moduleSn 1, f.moduleSn / 2 ^ 32)]

/-- The configuration words right after the fuses have been loaded into reset registers. -/
def fuseRegs (f : Fuses) (o : Otp) : List (Nat × Word) :=
  (fuseWords f o).foldl (fun m w => smPut (regReset w.1) m w.1 (BitVec.ofNat 32 w.2)) []

/-- The fuses of the modelled module: an FYS-8192 of stepping A0 with every slot good (DESIGN CHOICE: log entry 6). -/
def modelFuses : Fuses :=
  { grade := .fys8192, stepMj := 0xA, stepMn := 0, slotGood := List.replicate 8 0x1FFFF, rskip := [],
    moduleSn := 1, kFactor := [107, 154, 196, 256, 352], vmin := [600, 640, 680, 760, 840], loss := 1085,
    vendorDigest := List.replicate 64 0, identKey := [], identSig := [], portMac := [] }

/-- The burnable fuses of the modelled module: only the vendor's slot 0 is in use (DESIGN CHOICE: log entry 6). -/
def modelOtp : Otp :=
  { slots := [⟨List.replicate 64 0, true, false⟩, ⟨[], false, false⟩, ⟨[], false, false⟩, ⟨[], false, false⟩],
    imgFloor := 0, fwFloor := 0 }

end Sys2Proof.Machine
end

