-- ==== Sys2Proof/Machine/MemState.lean ====
section
/-! DEFINITION. The state of the stacks' controllers (15): words with bad check bits, repairs, scrub, retraining, temperature. -/

namespace Sys2Proof.Machine
open Sys2Proof

/-- A repair in force (15 R399): its stack, pseudo-channel and extent, its spare extent, that it awaits its FLIP, and that its
copy has ended. -/
structure Repair where
  stack : Nat
  pch : Nat
  extent : Nat
  spare : Nat
  pending : Bool
  copied : Bool
  deriving DecidableEq, Repr

/-- The stacks' controllers. -/
structure Mem where
  /-- Code words whose check bits are bad, by 2^29 stack + stack-local address ÷ 64, those of the spare region among them (15 R394). -/
  bad : List Nat
  /-- The bytes of storage that no aperture address reaches, by 2^35 stack + stack-local address, canonical as the aperture's
  (15 R388, R390). -/
  hidden : List (Nat × Byte)
  repairs : List Repair
  /-- Next code word of patrol scrub, by stack: stack-local words, then the spare region (15 R397). -/
  scrub : List (Nat × Nat)
  /-- Corrected errors of an extent in this scrub pass, by 2^12 stack + 2^7 pseudo-channel + extent, and those advised. -/
  corrs : List (Nat × Nat)
  advised : List Nat
  /-- Temperature at a channel's last training, and failed tries of the retrain under way, by 16 stack + channel. -/
  trained : List (Nat × Option Nat)
  tries : List (Nat × Nat)
  /-- Channels that await a retrain, and the fabric times, ns, of a channel's corrected errors, newest first (15 R398). -/
  due : List Nat
  errs : List (Nat × List Nat)
  /-- Readings in a row at or above 95 °C, below 92 °C and below 100 °C, by stack (15 R400). -/
  hot : List (Nat × Nat)
  cold : List (Nat × Nat)
  cool : List (Nat × Nat)
  deriving DecidableEq, Repr

def Mem.reset : Mem :=
  { bad := [], hidden := [], repairs := [], scrub := [], corrs := [], advised := [], trained := [], tries := [], due := [], errs := [], hot := [], cold := [], cool := [] }

end Sys2Proof.Machine
end

