-- ==== Sys2Proof/Machine/MgmtState.lean ====
section
/-! DEFINITION. The state of sentinel tests and retirement (18 R459-R463), and of what the boot ROM, the attestation units, the
Gulane ports and the register arbiters have under way (17 R434-R440, 18 R485). -/

namespace Sys2Proof.Machine
open Sys2Proof

/-- A unit that sentinel vectors test: a girder of a physical slot of a span, or an RSE. -/
inductive TestUnit where
  | girder (span slot girder : Nat)
  | rse (n : Nat)
  deriving DecidableEq, Repr

/-- A vector that failed and is to run again: its unit and its number; it is due from the period after the failure. -/
structure Retest where
  unit : TestUnit
  vec : Nat
  due : Bool
  deriving DecidableEq, Repr

/-- A request of the retirement list, resolved to a physical unit: KIND (0 pier, 1 girder, 2 rivet, 3 spare slot), span, slot,
girder and physical rivet position, and the RETIRE entry that names it (02 Table 2.6). -/
structure Retire where
  kind : Nat
  span : Nat
  slot : Nat
  girder : Nat
  pos : Nat
  entry : Nat
  deriving DecidableEq, Repr

/-- A pier retirement whose copy is under way (01 R28): its request, the pier, and the slot that it moves to. -/
structure Move where
  req : Retire
  pier : Nat
  slot : Nat
  deriving DecidableEq, Repr

/-- Sentinel tests and retirement. -/
structure Sentinel where
  /-- Where this pass stands: of a span the next vector, as (slot × 4 + girder) × 32 + vector; of RSE n, by 8 + n, the next vector. -/
  ran : List (Nat × Nat)
  /-- Spans, and RSEs as 8 + n, that have run a vector in this turnstile period. -/
  period : List Nat
  retest : List Retest
  /-- Units that a residue mismatch puts ahead of their turn, with the vectors that have run there. -/
  ahead : List (TestUnit × Nat)
  /-- Girders whose position 16 has had a sentinel failure, as (span × 32 + slot) × 4 + girder. -/
  idleBad : List Nat
  /-- Physical rivets with a residue mismatch in this pass, as 32 × girder + position. -/
  resid : List Nat
  list : List Retire
  /-- Rivet retirements that wait for their girder to be between macro-operations (01 R28). -/
  rivetDue : List Retire
  /-- Pier retirements whose stores are being copied to the new slot; the maps change when the copy ends (01 R28). -/
  copying : List Move
  deriving DecidableEq, Repr

def Sentinel.reset : Sentinel :=
  { ran := [], period := [], retest := [], ahead := [], idleBad := [], resid := [], list := [], rivetDue := [], copying := [] }

/-- Management under way: the port of the last LOAD_FW; an enrollment, with its port and its record; the snapshot of each
attestation unit that signs, empty where it does not; Gulane ports due to be enabled again (R440); the last value written to a
lower word whose pair changes at the write of its upper word, by its address; the upper words that a read of a low word has
latched, by address (10 R288); and the source address of the last transaction frame that each port accepted (03 Table 3.1). -/
structure Mgmt where
  fwPort : Nat
  enroll : Option (Nat × List Byte)
  att : List (Nat × List Byte)
  gulDue : List Nat
  low : List (Nat × Option Nat)
  lat : List (Nat × Nat)
  peer : List (Nat × List Byte)
  deriving DecidableEq, Repr

def Mgmt.reset : Mgmt := { fwPort := 0xFF, enroll := none, att := [], gulDue := [], low := [], lat := [], peer := [] }

end Sys2Proof.Machine
end

