-- ==== Sys2Proof/Machine/PierState.lean ====
section
/-! DEFINITION. The state of the piers: engine queues, dequeued commands, receives and collective landings, girder streams, the
control core's task, work queues, and the state of a switch of the resident context (11, 12). -/

namespace Sys2Proof.Machine
open Sys2Proof

/-- A command in a queue: its 64 bytes and its push sequence (12 R324). -/
structure QCmd where
  bytes : List Byte
  seq : Nat
  deriving DecidableEq, Repr

/-- A dequeued command: its context, the physical counter that SIGF names where SIG_EN is 1, the seed of stochastic rounding
and the version in force at its dequeue, and its status and DETAIL once it has one (11 R298, R299; 12 R321). -/
structure RunCmd where
  bytes : List Byte
  seq : Nat
  ctx : Nat
  sig : Option Nat
  seed : Nat
  ver : Nat
  status : Option Nat := none
  detail : Nat := 0
  /-- The collective descriptor read at the dequeue, and the physical counter of its FLAG (11 R303, 12 R321). -/
  desc : List Byte := []
  cflag : Option Nat := none
  deriving DecidableEq, Repr

/-- What a command that the TXE tracks waits for: the acknowledgement of a record up to a SEQ; for a GET, whose request took a SEQ
of a record, the landing of the packet with LAST that ends at an offset of an RSP record; or the end of a collective. -/
inductive Awaits where
  | acked (rcd seq : Nat)
  | got (rcd seq rsr stop : Nat)
  | coll (id : Nat)
  deriving DecidableEq, Repr

/-- A tracked command. -/
structure Tracked where
  run : RunCmd
  awaits : Awaits
  deriving DecidableEq, Repr

/-- An engine: its queue, oldest first, the command it runs, those it tracks, its port's staging (11 R296), and the push sequence
of the head that has begun to wait. -/
structure Eng where
  queue : List QCmd
  waits : Option Nat
  running : Option RunCmd
  track : List Tracked
  staging : List Byte
  deriving DecidableEq, Repr

/-- An armed receive (11 R308): its record, its command, MODE (0 ONESHOT, 1 STANDING, 2 EXPOSE), landing and length, and the
collective whose landing armed it (R310). -/
structure Recv where
  rcd : Nat
  run : RunCmd
  mode : Nat
  dst : Nat
  len : Nat
  coll : Option Nat := none
  deriving DecidableEq, Repr

/-- The armed landing of a collective (10 R262, R263). -/
structure Landing where
  id : Nat
  /-- The COLL command, or the MATMUL_SEND that fused it. -/
  run : RunCmd
  fused : Bool
  desc : List Byte
  /-- STREAM: the RSE list. ALLTOALL: RX_SR of each position, then TX_SR of each. A ring: the words of its descriptor. -/
  list : List Nat
  /-- The physical counter of FLAG. -/
  flag : Nat
  /-- The member's rank; 2^24 where no rank of the collective names the pier. -/
  rank : Nat
  /-- OR of the STATUS bits that have landed. -/
  status : Nat
  /-- First elements of the blocks that have landed. -/
  got : List Nat
  /-- STREAM: COUNT of each RSE's END, packets of each RSE, and entries written, as 2^32 b + entry. -/
  ends : List (Nat × Nat)
  cnts : List (Nat × Nat)
  wrote : List Nat
  /-- Table words received, by 2 × RSE + b. -/
  tabs : List (Nat × Nat)
  dropped : Nat
  /-- Exponent bytes M of a pre-pass by anchor block (08 R214). -/
  exps : List (Nat × Nat)
  /-- ALLTOALL: records whose LAST has landed. A ring: rounds whose data has landed. A tree barrier: that its RELEASE has come. -/
  lasts : List Nat
  /-- A ring: rounds whose flag is set, with the place of each among those that have landed, and whose next send has not been
  triggered (10 R276). -/
  due : List (Nat × Nat)
  /-- Blocks that the member has sent. -/
  next : Nat
  /-- The member has sent its contribution. -/
  sent : Bool
  /-- A barrier has been released here; a ring has run its rounds. -/
  released : Bool
  deriving DecidableEq, Repr

/-- A loop of a girder stream: the first word of its body, the word after it, and the passes left. -/
structure LoopFrame where
  first : Nat
  stop : Nat
  left : Nat
  deriving DecidableEq, Repr

/-- One stream of a microprogram: its words, the next one, its loops, innermost first, and that it has reached END. -/
structure GStream where
  words : List Nat
  pc : Nat
  loops : List LoopFrame
  ended : Bool
  deriving DecidableEq, Repr

/-- A girder (11 R312-R314): the context and push sequence of the command whose microprogram it runs, its streams, registers,
tiles, queues, the arithmetic cycles that its execute stream has issued, and values stored by the command. -/
structure Girder where
  cmd : Option (Nat × Nat)
  acc : GStream
  exe : GStream
  /-- The number of the free value that registers and tiles hold until the microprogram writes them. -/
  base : Nat
  x : List (Nat × Option Nat)
  v : List (Nat × Option (List Nat))
  /-- Accumulator tiles by 8 × rivet + tile: 16 patterns, row-major. -/
  tiles : List (Nat × Option (List Nat))
  /-- Ready cycles of the tiles. -/
  ready : List (Nat × Nat)
  /-- Landing cycles of writes that are under way, by tile. -/
  writes : List (Nat × List Nat)
  qa : List (List Byte)
  qb : List (List Byte)
  qc : List (List Nat)
  cycle : Nat
  stored : Nat
  deriving DecidableEq, Repr

/-- A grant of a work-queue entry (11 R293): its context, the entry's number in the queue, first tile and tiles. -/
structure Grant where
  ctx : Nat
  entry : Nat
  num : Nat
  first : Nat
  count : Nat
  deriving DecidableEq, Repr

/-- The control core: pc, integer registers, and a load reservation: its address and the bytes that were read (11 R295). -/
structure RvCore where
  pc : Nat
  x : List (Nat × Nat)
  resv : Option (Nat × List Byte)
  deriving DecidableEq, Repr

/-- A pier. -/
structure Pier where
  engs : List (Nat × Eng)
  girders : List (Nat × Girder)
  pushSeq : Nat
  recvs : List Recv
  lands : List Landing
  /-- Collectives whose watchdog has expired here, by TREE and CSEQ: their data is discarded (10 R286). -/
  expired : List (Nat × Nat)
  nextId : Nat
  /-- Sum of the END IDX values of stream collectives that services launched and that have ended, by push sequence (14 R382). -/
  endIdx : List (Nat × Nat)
  task : Option Grant
  grant : Option Grant
  core : RvCore
  /-- The task is stalled on a push to a full queue of an engine, with the push that waits. -/
  stalled : Option (Nat × List Byte)
  resident : Option Nat
  switching : Bool
  /-- The head that broke, by engine, is dequeued without a test (12 R334); STEP breaks again before the next dequeue. -/
  untested : Option Nat
  stepBreak : Bool
  /-- A service grant is next where one and a work-queue grant are both due (14 R362). -/
  svcTurn : Bool
  deriving DecidableEq, Repr

/-- A work-queue entry that the scheduler has taken (11 R293): its number, its bytes, the version of SPANS in force when its first
grant was handed out (02 R52), its grants; of these, all below next have been handed out, and those ahead of it; those below it
that a switch has handed back; tasks ended, its status, and that it has completed. -/
structure WqEntry where
  num : Nat
  bytes : List Byte
  spans : Option Nat
  total : Nat
  next : Nat
  ahead : List Nat
  back : List Nat
  ended : Nat
  status : Nat
  complete : Bool
  deriving DecidableEq, Repr

/-- The pier side. -/
structure Piers where
  piers : List (Nat × Pier)
  /-- Local stores by 2^24 × pier + local address; an unlisted byte is 0. -/
  store : List (Nat × Byte)
  /-- Work-queue entries taken and not yet passed, by 8 x + s. -/
  wqs : List (Nat × List WqEntry)
  /-- Next entry to take, by 8 x + s. -/
  wqNext : List (Nat × Nat)
  /-- A context holds a save for a pier in its save area, by 128 x + pier (11 R317, R318). -/
  saved : List (Nat × Bool)
  deriving DecidableEq, Repr

def Eng.reset : Eng := { queue := [], waits := none, running := none, track := [], staging := [] }

def GStream.reset : GStream := { words := [], pc := 0, loops := [], ended := true }

def Girder.reset : Girder :=
  { cmd := none, acc := GStream.reset, exe := GStream.reset, base := 0, x := [], v := [], tiles := [], ready := [], writes := [], qa := [], qb := [],
    qc := [], cycle := 0, stored := 0 }

def Pier.reset : Pier :=
  { engs := [], girders := [], pushSeq := 0, recvs := [], lands := [], expired := [], nextId := 0, endIdx := [], task := none,
    grant := none, core := { pc := 0, x := [], resv := none }, stalled := none, resident := none, switching := false,
    untested := none, stepBreak := false, svcTurn := false }

/-- The piers after a full reset. -/
def Piers.reset : Piers := { piers := [], store := [], wqs := [], wqNext := [], saved := [] }

end Sys2Proof.Machine
end

