-- ==== Sys2Proof/Machine/Num.lean ====
section
/-! DEFINITION. Number formats, rounding, conversions and element operations (07 R171-R198), by exact arithmetic on dyadic
numbers. -/

namespace Sys2Proof.Machine

/-! ### Exact values -/

/-- What an element stands for: NaN, an infinity, or the number (−1)^neg × m × 2^e; a zero keeps its sign. -/
inductive Val where
  | nan
  | inf (neg : Bool)
  | num (neg : Bool) (m : Nat) (e : Int)
  deriving DecidableEq, Repr

def Val.isNan : Val → Bool
  | .nan => true
  | _ => false

def Val.isInf : Val → Bool
  | .inf _ => true
  | _ => false

def Val.isZero : Val → Bool
  | .num _ 0 _ => true
  | _ => false

/-- The sign of a value that is not NaN. -/
def Val.neg : Val → Bool
  | .nan => false
  | .inf s => s
  | .num s _ _ => s

/-- The value with its sign inverted. -/
def Val.flip : Val → Val
  | .nan => .nan
  | .inf s => .inf (!s)
  | .num s m e => .num (!s) m e

/-- The value without its sign. -/
def Val.abs : Val → Val
  | .nan => .nan
  | .inf _ => .inf false
  | .num _ m e => .num false m e

/-- An integer as a value. -/
def Val.ofInt (i : Int) : Val := .num (decide (i < 0)) i.natAbs 0

/-- m × 2^k for an integer k, truncated towards zero. -/
def scaleNat (m : Nat) (k : Int) : Nat := if 0 ≤ k then m * 2 ^ k.toNat else m / 2 ^ (-k).toNat

/-- The signed integer of a number in units of 2^e0, for e0 at most its exponent. -/
def Val.units (e0 : Int) : Val → Int
  | .num s m e => if s then -(scaleNat m (e - e0) : Int) else scaleNat m (e - e0)
  | _ => 0

/-! ### Formats (07 Table 7.1) -/

/-- A floating-point format: exponent and mantissa bits, bias, the pattern of the largest finite magnitude, and the patterns
of infinity and of the canonical NaN. -/
structure Fmt where
  ebits : Nat
  mbits : Nat
  bias : Nat
  maxPat : Nat
  infPat : Option Nat
  nanPat : Option Nat
  deriving DecidableEq, Repr

def fmtFp32 : Fmt := ⟨8, 23, 127, 0x7F7FFFFF, some 0x7F800000, some 0x7FC00000⟩
def fmtBf16 : Fmt := ⟨8, 7, 127, 0x7F7F, some 0x7F80, some 0x7FC0⟩
def fmtFp16 : Fmt := ⟨5, 10, 15, 0x7BFF, some 0x7C00, some 0x7E00⟩
def fmtE4m3 : Fmt := ⟨4, 3, 7, 0x7E, none, some 0x7F⟩
def fmtE5m2 : Fmt := ⟨5, 2, 15, 0x7B, some 0x7C, some 0x7E⟩
def fmtE2m1 : Fmt := ⟨2, 1, 1, 7, none, none⟩
def fmtE3m2 : Fmt := ⟨3, 2, 3, 0x1F, none, none⟩
def fmtE2m3 : Fmt := ⟨2, 3, 1, 0x1F, none, none⟩

/-! Format codes. -/

def fcFp32 : Nat := 0x00
def fcBf16 : Nat := 0x01
def fcFp16 : Nat := 0x02
def fcE4m3 : Nat := 0x03
def fcE5m2 : Nat := 0x04
def fcE2m1 : Nat := 0x05
def fcMx8e4m3 : Nat := 0x08
def fcMx8e5m2 : Nat := 0x09
def fcMx6e3m2 : Nat := 0x0A
def fcMx6e2m3 : Nat := 0x0B
def fcMxFp4 : Nat := 0x0C
def fcMxInt8 : Nat := 0x0D
def fcS8 : Nat := 0x10
def fcU8 : Nat := 0x11
def fcS4 : Nat := 0x12
def fcU4 : Nat := 0x13
def fcS32 : Nat := 0x14

/-- The code is listed in Table 7.1 (07 R171). -/
def fmtKnown (c : Nat) : Bool := c ≤ 5 || (8 ≤ c && c ≤ 0xD) || (0x10 ≤ c && c ≤ 0x14)

/-- An MX format, and an integer format. -/
def isMx (c : Nat) : Bool := 8 ≤ c && c ≤ 0xD
def isInt (c : Nat) : Bool := 0x10 ≤ c && c ≤ 0x14

/-- Bits of an element. -/
def fmtBits (c : Nat) : Nat :=
  [32, 16, 16, 8, 8, 4, 0, 0, 8, 8, 6, 6, 4, 8, 0, 0, 8, 8, 4, 4, 32].getD c 0

/-- Bytes that n elements take in the element plane, and in the scale plane (07 R175, R176). -/
def elemBytes (c n : Nat) : Nat := (n * fmtBits c + 7) / 8
def scaleBytes (c n : Nat) : Nat := if isMx c then (n + 31) / 32 else 0

/-- The floating-point layout of a code's elements, none for integers and MXINT8. -/
def fmtOf (c : Nat) : Option Fmt :=
  if c = fcFp32 then some fmtFp32 else if c = fcBf16 then some fmtBf16 else if c = fcFp16 then some fmtFp16
  else if c = fcE4m3 ∨ c = fcMx8e4m3 then some fmtE4m3
  else if c = fcE5m2 ∨ c = fcMx8e5m2 then some fmtE5m2
  else if c = fcE2m1 ∨ c = fcMxFp4 then some fmtE2m1
  else if c = fcMx6e3m2 then some fmtE3m2 else if c = fcMx6e2m3 then some fmtE2m3
  else none

/-- Decodes a pattern of a floating-point format (07 R172, R173). -/
def decodeFp (f : Fmt) (p : Nat) : Val :=
  let mag := p % 2 ^ (f.ebits + f.mbits)
  let neg := bit p (f.ebits + f.mbits)
  let e := mag / 2 ^ f.mbits
  let m := mag % 2 ^ f.mbits
  if f.maxPat < mag then (if f.infPat = some mag then .inf neg else .nan)
  else if e = 0 then .num neg m (1 - f.bias - f.mbits)
  else .num neg (m + 2 ^ f.mbits) (e - f.bias - f.mbits)

/-- An element's value without its block scale (07 Table 7.1). -/
def decodeElem (c p : Nat) : Val :=
  match fmtOf c with
  | some f => decodeFp f p
  | none =>
    if c = fcU8 then .num false (p % 2 ^ 8) 0
    else if c = fcU4 then .num false (p % 2 ^ 4) 0
    else
      let w := if c = fcS4 then 4 else if c = fcS32 then 32 else 8
      match Val.ofInt (toInt w p) with
      | .num s m _ => .num s m (if c = fcMxInt8 then -6 else 0)
      | v => v

/-- A value times 2^k. -/
def Val.shift (k : Int) : Val → Val
  | .num s m e => .num s m (e + k)
  | v => v

/-- An element of a block with scale byte x (07 R177). -/
def scaledElem (c p x : Nat) : Val := if x = 0xFF then .nan else (decodeElem c p).shift ((x : Int) - 127)

/-! ### Rounding (07 R187-R189) -/

/-- How a conversion rounds: to nearest even, or stochastically with 32 drawn bits. -/
inductive Rnd where
  | rne
  | sr (r : Nat)
  deriving DecidableEq, Repr

/-- Rounds m × 2^e, plus something below 2^e where sticky, to a multiple of 2^q; q is above e by two bits where sticky. -/
def roundAt (q : Int) (m : Nat) (e : Int) (sticky : Bool) (r : Rnd) : Nat :=
  if q ≤ e then m * 2 ^ (e - q).toNat
  else
    let d := (q - e).toNat
    let k := m / 2 ^ d
    let rem := m % 2 ^ d
    match r with
    | .rne => if 2 ^ d < 2 * rem ∨ (2 * rem = 2 ^ d ∧ (sticky ∨ k % 2 = 1)) then k + 1 else k
    | .sr b => if 2 ^ 32 ≤ (2 ^ 32 * rem) / 2 ^ d + b then k + 1 else k

/-- The magnitude pattern of a format nearest to m × 2^e, with the exponent range unbounded above. -/
def roundMag (f : Fmt) (m : Nat) (e : Int) (sticky : Bool) (r : Rnd) : Nat :=
  if m = 0 then 0
  else
    let lg : Int := m.log2 + e
    let q := max (1 - (f.bias : Int) - f.mbits) (lg - f.mbits)
    let k := roundAt q m e sticky r
    if k < 2 ^ f.mbits then k
    else
      let x : Int := q + k.log2 + f.bias
      x.toNat * 2 ^ f.mbits + (scaleNat k ((f.mbits : Int) - k.log2) - 2 ^ f.mbits)

/-- Sign bit of a format's pattern. -/
def signBit (f : Fmt) (neg : Bool) : Nat := b2n neg * 2 ^ (f.ebits + f.mbits)

/-- The FP32 pattern nearest to a number, with overflow to infinity (07 R183, R187). -/
def toFp32 (neg : Bool) (m : Nat) (e : Int) (sticky : Bool) : Nat :=
  signBit fmtFp32 neg + min (roundMag fmtFp32 m e sticky .rne) 0x7F800000

/-- The canonical FP32 NaN. -/
def nan32 : Nat := 0x7FC00000

/-- The FP32 pattern of a value. -/
def fp32Of : Val → Nat
  | .nan => nan32
  | .inf s => signBit fmtFp32 s + 0x7F800000
  | .num s m e => toFp32 s m e false

/-- The value of an FP32 pattern. -/
def val32 (p : Nat) : Val := decodeFp fmtFp32 p

/-! ### Stochastic rounding's bits (07 R188) -/

def mix64 (z : BitVec 64) : BitVec 64 :=
  let z := (z ^^^ (z >>> 30)) * 0xBF58476D1CE4E5B9#64
  let z := (z ^^^ (z >>> 27)) * 0x94D049BB133111EB#64
  z ^^^ (z >>> 31)

def srBits (job tid idx seed : Nat) : Nat :=
  let a := BitVec.ofNat 64 (2 ^ 32 * (seed % 2 ^ 32) + 2 ^ 16 * (job % 2 ^ 16) + tid / 2 ^ 16 % 2 ^ 16)
  let b := BitVec.ofNat 64 (2 ^ 48 * (tid % 2 ^ 16) + idx % 2 ^ 48)
  (mix64 (mix64 (a ^^^ 0x9E3779B97F4A7C15#64) ^^^ b)).toNat / 2 ^ 32

/-! ### Conversion (07 R191-R193) -/

/-- Causes of NaN productions (07 Table 7.11). -/
def cInvalid : Nat := 1
def cOverflow : Nat := 2
def cLost : Nat := 3
def cMxBlock : Nat := 4

/-- Range of an integer format. -/
def intRange (c : Nat) : Int × Int :=
  if c = fcS8 ∨ c = fcMxInt8 then (-128, 127) else if c = fcU8 then (0, 255) else if c = fcS4 then (-8, 7)
  else if c = fcU4 then (0, 15) else (-2147483648, 2147483647)

/-- An integer held to a range. -/
def clampInt (lo hi i : Int) : Int := if i < lo then lo else if hi < i then hi else i

/-- A value converted to an integer format: its pattern, and a NaN lost. -/
def convertInt (c : Nat) (v : Val) (r : Rnd) : Nat × Option Nat :=
  let rg := intRange c
  let w := fmtBits c
  match v with
  | .nan => (0, some cLost)
  | .inf s => (ofInt w (if s then rg.1 else rg.2), none)
  | .num s m e =>
    let k : Int := roundAt 0 m e false r
    (ofInt w (clampInt rg.1 rg.2 (if s then -k else k)), none)

/-- A value converted to a floating-point format that is not an MX element: its pattern, and the cause of a NaN produced
(07 Tables 7.7, 7.11). Conversions to FP32 round to nearest even (R192). -/
def convertFp (c : Nat) (f : Fmt) (v : Val) (r : Rnd) (ovf : Bool) : Nat × Option Nat :=
  match v with
  | .nan =>
    match f.nanPat with
    | some p => (p, none)
    | none => (0, some cLost)
  | .inf s =>
    match f.infPat, f.nanPat with
    | some p, _ => (signBit f s + p, none)
    | none, some p => (p, some cOverflow)
    | none, none => (signBit f s + f.maxPat, none)
  | .num s m e =>
    let p := roundMag f m e false (if c = fcFp32 then .rne else r)
    if p ≤ f.maxPat then (signBit f s + p, none)
    else if c = fcE4m3 ∨ c = fcE5m2 then
      if ovf then (f.nanPat.getD 0, some cOverflow) else (signBit f s + f.maxPat, none)
    else match f.infPat with
      | some q => (signBit f s + q, none)
      | none => (signBit f s + f.maxPat, none)

/-- A value converted to a plain format. -/
def convert (c : Nat) (v : Val) (r : Rnd) (ovf : Bool) : Nat × Option Nat :=
  match fmtOf c with
  | some f => convertFp c f v r ovf
  | none => convertInt c v r

/-! ### MX blocks (07 R178) -/

/-- Exponent of the largest normal number of an MX format's elements (07 Table 7.2). -/
def mxEmax (c : Nat) : Int :=
  if c = fcMx8e4m3 then 8 else if c = fcMx8e5m2 then 15 else if c = fcMx6e3m2 then 4
  else if c = fcMx6e2m3 ∨ c = fcMxFp4 then 2 else 0

/-- A value converted to an MX element, saturating. -/
def convertMxElem (c : Nat) (v : Val) (r : Rnd) : Nat :=
  match fmtOf c with
  | some f =>
    match v with
    | .num s m e => signBit f s + min (roundMag f m e false r) f.maxPat
    | _ => 0
  | none => (convertInt fcMxInt8 (v.shift 6) r).1

/-- ⌊log2⌋ of a nonzero number. -/
def Val.log2 : Val → Int
  | .num _ m e => m.log2 + e
  | _ => 0

/-- Quantizes a block of values (07 R178): scale byte, element patterns, and the index of the infinite input that produces a
NaN (R201). rnd gives each element's rounding. -/
def mxQuantize (c : Nat) (v : List Val) (rnd : Nat → Rnd) : Nat × List Nat × Option Nat :=
  if v.any fun x => x.isNan || x.isInf then
    (0xFF, v.map fun _ => 0, if v.any Val.isNan then none else v.findIdx? Val.isInf)
  else
    let nz := v.filter fun x => !x.isZero
    let x : Int := match nz with
      | [] => 0
      | a :: r => r.foldl (fun k y => max k (Val.log2 y)) (Val.log2 a) - mxEmax c
    let x := clampInt (-127) 127 x
    ((x + 127).toNat, v.zipIdx.map fun y => convertMxElem c (y.1.shift (-x)) (rnd y.2), none)

/-! ### Sums and products (07 R182, R183) -/

/-- An exact product; 0 × ∞ is NaN. -/
def mulVal : Val → Val → Val
  | .nan, _ => .nan
  | _, .nan => .nan
  | .inf s, .inf t => .inf (s != t)
  | .inf s, .num t m _ => if m = 0 then .nan else .inf (s != t)
  | .num t m _, .inf s => if m = 0 then .nan else .inf (s != t)
  | .num s m e, .num t n f => .num (s != t) (m * n) (e + f)

/-- The exponent of a number, for a common unit. -/
def Val.exp : Val → Int
  | .num _ _ e => e
  | _ => 0

/-- The exact sum of terms, its specials and its sign settled (07 R183): no terms give +0. -/
def sumVals (ts : List Val) : Val :=
  if ts.any Val.isNan || (ts.any (· == .inf false) && ts.any (· == .inf true)) then .nan
  else if ts.any Val.isInf then (if ts.any (· == .inf true) then .inf true else .inf false)
  else
    let e0 := ts.foldl (fun a t => min a t.exp) 0
    let i := (ts.map (Val.units e0)).sum
    if i = 0 then .num (!ts.isEmpty && ts.all Val.neg) 0 0
    else .num (decide (i < 0)) i.natAbs e0

/-- A NaN result without a NaN among the inputs is a production with CAUSE 1 (07 R201). -/
def invalidOf (ins : List Val) (out : Val) : Option Nat := if out.isNan && !ins.any Val.isNan then some cInvalid else none

/-! ### FP32 element operations (07 R194, Table 7.8); arguments and results are patterns -/

def fpAdd (a b : Nat) : Nat := fp32Of (sumVals [val32 a, val32 b])
def fpSub (a b : Nat) : Nat := fp32Of (sumVals [val32 a, (val32 b).flip])
def fpMul (a b : Nat) : Nat := fp32Of (mulVal (val32 a) (val32 b))
def fpFma (a b c : Nat) : Nat := fp32Of (sumVals [mulVal (val32 a) (val32 b), val32 c])

/-- a ÷ b, correctly rounded. -/
def fpDiv (a b : Nat) : Nat :=
  match val32 a, val32 b with
  | .nan, _ => nan32
  | _, .nan => nan32
  | .inf _, .inf _ => nan32
  | .inf s, .num t _ _ => fp32Of (.inf (s != t))
  | .num s _ _, .inf t => fp32Of (.num (s != t) 0 0)
  | .num s m e, .num t n f =>
    if n = 0 then (if m = 0 then nan32 else fp32Of (.inf (s != t)))
    else
      let q := (2 ^ 64 * m) / n
      toFp32 (s != t) q (e - f - 64) ((2 ^ 64 * m) % n != 0)

/-- ⌊√n⌋, found bit by bit from bit k down. -/
def isqrtFrom (n : Nat) : Nat → Nat → Nat
  | 0, r => if (r + 1) * (r + 1) ≤ n then r + 1 else r
  | k + 1, r => isqrtFrom n k (if (r + 2 ^ (k + 1)) * (r + 2 ^ (k + 1)) ≤ n then r + 2 ^ (k + 1) else r)

/-- ⌊√n⌋. -/
def isqrt (n : Nat) : Nat := isqrtFrom n (n.log2 / 2 + 1) 0

/-- √a, correctly rounded. -/
def fpSqrt (a : Nat) : Nat :=
  match val32 a with
  | .nan => nan32
  | .inf s => if s then nan32 else a
  | .num s m e =>
    if m = 0 then a
    else if s then nan32
    else
      let m' := if e % 2 = 0 then m else 2 * m
      let e' := if e % 2 = 0 then e else e - 1
      let r := isqrt (2 ^ 64 * m')
      toFp32 false r (e' / 2 - 32) (r * r != 2 ^ 64 * m')

/-- 1 ÷ a, correctly rounded. -/
def fpRcp (a : Nat) : Nat :=
  match val32 a with
  | .num s 0 _ => fp32Of (.inf s)
  | _ => fpDiv 0x3F800000 a

/-- 1 ÷ √a, correctly rounded. -/
def fpRsqrt (a : Nat) : Nat :=
  match val32 a with
  | .nan => nan32
  | .inf s => if s then nan32 else 0
  | .num s m e =>
    if m = 0 then fp32Of (.inf s)
    else if s then nan32
    else
      let m' := if e % 2 = 0 then m else 2 * m
      let e' := if e % 2 = 0 then e else e - 1
      let n := 2 ^ 160
      let r := isqrt (n / m')
      toFp32 false r (-(e' / 2) - 80) (r * r * m' != n)

/-! exp2 and log2 work in fixed point far finer than any FP32 argument's result comes to a rounding boundary. -/

/-- Fraction bits of the fixed point. -/
def fxBits : Nat := 256

/-- The product of acc with the roots 2^(2^−i) that the top bits of the fraction p of k bits name, i from 1 on; root is
2^(2^−(i−1)). -/
def exp2Frac (p : Nat) : Nat → Nat → Nat → Nat
  | 0, _, acc => acc
  | k + 1, root, acc =>
    let root := isqrt (root * 2 ^ fxBits)
    exp2Frac p k root (if bit p k then acc * root / 2 ^ fxBits else acc)

/-- 2^a, correctly rounded. -/
def fpExp2 (a : Nat) : Nat :=
  match val32 a with
  | .nan => nan32
  | .inf s => if s then 0 else a
  | .num s m e =>
    if m = 0 then 0x3F800000
    else if 8 ≤ m.log2 + e then (if s then 0 else 0x7F800000)
    else if 0 ≤ e then
      let n : Int := scaleNat m e
      toFp32 false 1 (if s then -n else n) false
    else
      let k := (-e).toNat
      let x : Int := if s then -(m : Int) else m
      let n := x / (2 ^ k : Nat)
      let p := (x % (2 ^ k : Nat)).toNat
      if p = 0 then toFp32 false 1 n false
      else toFp32 false (exp2Frac p k (2 * 2 ^ fxBits) (2 ^ fxBits)) (n - fxBits) true

/-- Bits of the fraction of log2 of a fixed-point number y in [1, 2). -/
def log2Frac : Nat → Nat → Nat → Nat
  | 0, _, acc => acc
  | k + 1, y, acc =>
    let y := y * y / 2 ^ 512
    if 2 * 2 ^ 512 ≤ y then log2Frac k (y / 2) (2 * acc + 1) else log2Frac k y (2 * acc)

/-- log2 a, correctly rounded. -/
def fpLog2 (a : Nat) : Nat :=
  match val32 a with
  | .nan => nan32
  | .inf s => if s then nan32 else a
  | .num s m e =>
    if m = 0 then fp32Of (.inf true)
    else if s then nan32
    else
      let n : Int := m.log2 + e
      if m = 2 ^ m.log2 then fp32Of (Val.ofInt n)
      else
        let f : Int := log2Frac 160 ((2 ^ 512 * m) / 2 ^ m.log2) 0
        let v := n * (2 ^ 160 : Nat) + f
        if 0 ≤ v then toFp32 false v.toNat (-160) true else toFp32 true (-v - 1).toNat (-160) true

/-! ### Order (07 R196, R197) -/

/-- a < b for values that are not NaN; −0 and +0 are equal. -/
def ltVal (a b : Val) : Bool :=
  match a, b with
  | .inf s, .inf t => s && !t
  | .inf s, .num _ _ _ => s
  | .num _ _ _, .inf t => !t
  | a, b => let e0 := min a.exp b.exp
            decide (a.units e0 < b.units e0)

/-- maximum and minimum of IEEE 754-2019 (07 R196). -/
def maxVal (a b : Val) : Val :=
  if a.isNan || b.isNan then .nan
  else if ltVal a b then b else if ltVal b a then a
  else if a.neg then b else a

def minVal (a b : Val) : Val :=
  if a.isNan || b.isNan then .nan
  else if ltVal a b then a else if ltVal b a then b
  else if a.neg then a else b

def fpMax (a b : Nat) : Nat := fp32Of (maxVal (val32 a) (val32 b))
def fpMin (a b : Nat) : Nat := fp32Of (minVal (val32 a) (val32 b))

/-- Conditions of a comparison: 0 EQ, 1 NE, 2 LT, 3 LE, 4 GT, 5 GE, 6 UNORD (09 R244). -/
def condOf (c : Nat) (lt eq unord : Bool) : Bool :=
  if c = 0 then eq && !unord else if c = 1 then !eq || unord else if c = 2 then lt && !unord
  else if c = 3 then (lt || eq) && !unord else if c = 4 then !lt && !eq && !unord
  else if c = 5 then !lt && !unord else unord

/-- A quiet FP32 comparison. -/
def fpCmp (c a b : Nat) : Bool :=
  let x := val32 a
  let y := val32 b
  let un := x.isNan || y.isNan
  condOf c (!un && ltVal x y) (!un && !ltVal x y && !ltVal y x) un

/-- totalOrder as an unsigned key (07 R197). -/
def orderKey (k w : Nat) : Nat :=
  let k := k % 2 ^ w
  if bit k (w - 1) then 2 ^ w - 1 - k else k + 2 ^ (w - 1)

/-! ### Packing (07 R175) -/

/-- The pattern of element i. -/
def elemAt (c : Nat) (bs : List Byte) (i : Nat) : Nat :=
  let w := fmtBits c
  let o := i * w / 8
  le bs o ((w + 7) / 8 + 1) / 2 ^ (i * w % 8) % 2 ^ w

/-- The number whose bits are patterns of w bits, the first lowest. -/
def packNat (w : Nat) : List Nat → Nat
  | [] => 0
  | p :: r => p % 2 ^ w + 2 ^ w * packNat w r

/-- Patterns packed into bytes; unused bits of the last byte are 0. -/
def packElems (c : Nat) (ps : List Nat) : List Byte := leBytes (elemBytes c ps.length) (packNat (fmtBits c) ps)

/-- n elements from the start of bytes, as patterns. -/
def unpackElems (c : Nat) (bs : List Byte) (n : Nat) : List Nat :=
  let whole := ofLe (bs.take (elemBytes c n))
  (List.range n).map fun i => whole / 2 ^ (fmtBits c * i) % 2 ^ fmtBits c

/-- The values of n elements given the bytes of their element and scale planes. -/
def decodeVals (c : Nat) (elems scales : List Byte) (n : Nat) : List Val :=
  (unpackElems c elems n).zipIdx.map fun p =>
    if isMx c then scaledElem c p.1 (le scales (p.2 / 32) 1) else decodeElem c p.1

end Sys2Proof.Machine
end

