-- ==== Sys2Proof/Machine/RseState.lean ====
section
/-! DEFINITION. The state of the in-network side: reductions (08), stream operations and the program store (09), the step
barrier and fabric time (10). -/

namespace Sys2Proof.Machine
open Sys2Proof

/-! ### Reductions -/

/-- An anchored element (08 Table 8.3): V in units of 2^(A−96), and its flags. -/
structure Anch where
  v : Int
  nan : Bool := false
  pinf : Bool := false
  ninf : Bool := false
  nz : Bool := false
  deriving DecidableEq, Repr

/-- A pending node of the canonical tree of fast mode (08 R224), for one block of 32 elements: the OR of the STATUS of its
contributions, and FP32 patterns. -/
structure FastNode where
  level : Nat
  node : Nat
  status : Nat
  vals : List Nat
  deriving DecidableEq, Repr

/-- A block of 32 elements at an RSE: its number, the OR of its contributions' STATUS, what each down edge has contributed
(anchored elements, or the exact values of MAX and MIN), the pending nodes of fast mode, the nodes that have come (edge, level,
node), and that a scan has sent it up and waits for its offset. -/
structure RBlock where
  blk : Nat
  status : Nat
  parts : List (Nat × List Anch)
  best : List (Nat × List Val)
  nodes : List FastNode
  cover : List (Nat × Nat × Nat)
  up : Bool
  deriving DecidableEq, Repr

/-- An anchor block of a pre-pass: its number, the OR of its contributions' STATUS, the exponent byte of each edge that has sent
one, and that M has been sent. -/
structure ExpBlock where
  ab : Nat
  status : Nat
  bytes : List (Nat × Nat)
  sent : Bool
  deriving DecidableEq, Repr

/-- A collective without a stream program at an RSE (10 R271-R274). -/
structure RseOp where
  node : Nat
  tree : Nat
  cseq : Nat
  ver : Nat
  ctx : Nat
  /-- The command's tag, the collective's descriptor, and the ranks below each down edge, as the RSE knows them. -/
  tag : Nat
  desc : List Byte
  below : List (List Nat)
  /-- The member list of fast mode as the first packet finds it (08 R224). -/
  members : List Nat
  /-- Malformed (R273): every packet is acknowledged and discarded. -/
  bad : Bool
  /-- A flip has fenced a member of it since its first packet (08 R223). -/
  changed : Bool
  /-- ANC_RANGE has been raised. -/
  ranged : Bool
  /-- Kept anchors by anchor block, the anchor blocks with a mismatch, and those that partial data has reached (08 R215, R221). -/
  anchors : List (Nat × Int)
  mism : List Nat
  had : List Nat
  exps : List ExpBlock
  blocks : List RBlock
  /-- Slices that hold slots, with how many; blocks sent, by slice; blocks of results passed on. -/
  slots : List (Nat × Nat)
  sent : List (Nat × Nat)
  passed : Nat
  deriving DecidableEq, Repr

/-! ### Stream operations -/

/-- A record (09 R234): its identity, fields F0-F7, predicates P0-P3, and the number of its body in the operation. -/
structure Rec where
  rank : Nat
  idx : Nat
  f : List Nat
  p : List Bool
  body : Option Nat
  deriving DecidableEq, Repr

/-- A body that records of an operation share: its number, its pool buffer where it has one, and its bytes. -/
structure Body where
  num : Nat
  req : Nat
  handle : Nat
  bytes : List Byte
  deriving DecidableEq, Repr

/-- What an RSE holds of a stage: records gathered, identities seen, and of each sender its END's COUNT and the packets
received; that the stage has run, and that it has overflowed. -/
structure Stage where
  recs : List Rec
  ids : List (Nat × Nat)
  ends : List (Nat × Nat)
  cnts : List (Nat × Nat)
  queued : Bool
  ran : Bool
  overflow : Bool
  deriving DecidableEq, Repr

/-- A stream operation at an RSE (09 R231-R256). -/
structure StrmOp where
  node : Nat
  tree : Nat
  cseq : Nat
  ver : Nat
  ctx : Nat
  tag : Nat
  desc : List Byte
  list : List Nat
  /-- The program, and its version. -/
  prog : List Byte
  pver : Nat
  /-- Its descriptor names an empty slot, or it is malformed otherwise (10 R273). -/
  bad : Bool
  mixed : Bool
  changed : Bool
  /-- STREAM_LANDING has been raised. -/
  landing : Bool
  bodies : List Body
  nextBody : Nat
  /-- Pool buffers of spilled records. -/
  spills : List Nat
  /-- The four tables, empty where not in use. -/
  tables : List (List Nat)
  s0 : Stage
  s1 : Stage
  /-- Records dropped by rank; packets sent, by rank to members and by list entry to homes. -/
  drops : List (Nat × Nat)
  outs : List (Nat × Nat)
  homes : List (Nat × Nat)
  deriving DecidableEq, Repr

/-- A stage that is ready at a lane array or running there: its operation, its number, the next instruction, its records in
current order, and that they are there: those of a gathered stage come when the stage starts. -/
structure LaneJob where
  node : Nat
  tree : Nat
  cseq : Nat
  stage : Nat
  pc : Nat
  recs : List Rec
  /-- The body of the packet that a streaming stage runs on. -/
  body : Option Nat
  started : Bool
  deriving DecidableEq, Repr

/-! ### Barriers (10 R280-R282) -/

/-- A barrier on this module: the edges that have arrived (down edges by number), that ARRIVE is being sent up, its release
(STEP, START in ns and fraction), the edges that have answered it, and that it has fired. -/
structure Barrier where
  tree : Nat
  cseq : Nat
  ver : Nat
  arrived : List Nat
  upSent : Bool
  release : Option (Nat × Nat × Nat)
  acked : List Nat
  fired : Bool
  deriving DecidableEq, Repr

/-! ### Fabric time (10 R277-R279) -/

/-- The lock to the parent: TSEQ of the next REQ, the T_TX of the REQ that waits for its RSP, consecutive offsets below
0.25 ns, consecutive missed RSPs, and the slew under way: its total in 1/64 ns, the core cycles that it takes, and those that
have passed. -/
structure FtLock where
  tseq : Nat
  req : Option Nat
  good : Nat
  missed : Nat
  slew : Int
  slewLen : Nat
  slewAt : Nat
  deriving DecidableEq, Repr

/-- The IEEE 1588 clock (10 R279), its times in 1/64 ns: a two-step Sync that waits for its Follow_Up (port identity of its source,
number, receive time, correction); the source, send and receive time of the last Sync; number and send time of the Delay_Req that
waits for its answer; and the number of the next one. -/
structure Ptp where
  sync : Option (List Byte × Nat × Nat × Int)
  times : Option (List Byte × Int × Nat)
  req : Option (Nat × Nat)
  seq : Nat
  deriving DecidableEq, Repr

/-- The in-network side. -/
structure Net where
  ops : List RseOp
  strm : List StrmOp
  /-- Stages at the lane arrays, in the order in which they became ready, and records of streaming stages whose tables do not fit
  yet (09 R232, R233). -/
  lane : List LaneJob
  waits : List LaneJob
  /-- Landing entries of OUT packets under way: TREE, CSEQ, source RSE, member's rank, and the packet's place among those
  that the RSE sends to the member (DESIGN CHOICE: log entry 16). -/
  entries : List (List Nat × List Nat)
  /-- The program store by 64 v + slot; an empty slot is not listed (09 R253). -/
  progs : List (Nat × List Byte)
  /-- A load of the program store under way: SLOT, its bytes (empty for CLEAR), and that its version cannot be written: it was live at the LOAD, or a FLIP
  has taken effect since (09 R255). -/
  progLoad : Option (Nat × List Byte × Bool)
  barriers : List Barrier
  lock : FtLock
  ptp : Ptp
  deriving DecidableEq, Repr

/-- The in-network side after a full reset. -/
def Net.reset : Net :=
  { ops := [], strm := [], lane := [], waits := [], entries := [], progs := [], progLoad := none, barriers := [],
    lock := { tseq := 0, req := none, good := 0, missed := 0, slew := 0, slewLen := 0, slewAt := 0 },
    ptp := { sync := none, times := none, req := none, seq := 0 } }

end Sys2Proof.Machine
end

