-- ==== Sys2Proof/Machine/SvcState.lean ====
section
/-! DEFINITION. The state of the resident services: requests, mirrors and key-value stores (14). -/

namespace Sys2Proof.Machine
open Sys2Proof

/-- A request that has been taken (14 R358-R360): its context, its queue, its number in the ring, its 128 bytes, its place among
the context's requests in progress, how far it has come, its status once it has ended, its RESULT where the spec gives one, that it
has completed, and its staging buffer (R365). -/
structure SvcReq where
  ctx : Nat
  queue : Nat
  num : Nat
  bytes : List Byte
  slot : Nat
  stage : Nat
  status : Option Nat
  result : Option Nat
  complete : Bool
  /-- The pier of group position 0, and the descriptor that the request has read, with the version in force then. -/
  pier : Nat
  desc : List Byte
  ver : Nat
  /-- Push sequence of the command that it awaits. -/
  seq : Nat
  /-- KV_GET REMOTE: pages to send, as key number and slot, and bytes of the first that have been sent. -/
  todo : List (Nat × Nat)
  pos : Nat
  buf : Option Nat
  deriving DecidableEq, Repr

/-- A shard that is being sent to a rank (14 R373, R374, R385): the request's context, tag, span, pier and descriptor address; the
record, the peer and the receive offset; the planes and the step; the next piece, that its SEND is under way, that a request
waits for the end, and the status once it has ended. -/
structure Mirror where
  id : Nat
  ctx : Nat
  tag : Nat
  span : Nat
  pier : Nat
  shard : Nat
  rcd : Nat
  peer : Nat
  off : Nat
  base : Nat
  pcount : Nat
  step : Nat
  piece : Nat
  sending : Bool
  waited : Option (Nat × Nat)
  result : Option Nat
  deriving DecidableEq, Repr

/-- An open key-value store (14 R375): STORE, and the fields of its KV_OPEN, and its stamp counter (R379). -/
structure KvStore where
  ctx : Nat
  store : Nat
  recomp : Nat
  policy : Nat
  psize : Nat
  slots : Nat
  pbase : Nat
  ibase : Nat
  stamp : Nat
  deriving DecidableEq, Repr

/-- The services: requests taken and not yet passed, in order of taking; the next entry to take of queue j of context x, by
8x + j; shards that are being sent; open stores; contexts that AGT_QUIESCE has stopped; and the queue, as 8x + j, at which the round
stands (R358). -/
structure Services where
  reqs : List SvcReq
  next : List (Nat × Nat)
  mirrors : List Mirror
  stores : List KvStore
  quiet : List Nat
  round : Nat
  deriving DecidableEq, Repr

def Services.reset : Services := { reqs := [], next := [], mirrors := [], stores := [], quiet := [], round := 0 }

end Sys2Proof.Machine
end

