-- ==== Sys2Proof/Machine/State.lean ====
section
/-! DEFINITION. The state of the module: every register, memory, queue, counter, mode and pin that the spec gives it,
as plain data, the queue of waiting commands, and the state at a full reset (17 R430). -/

namespace Sys2Proof.Machine
open Sys2Proof

/-- A fault of the model: there is none. Every fault that the spec describes is an effect on the state (records, events,
completion words); safe. -/
inductive Fault where
  deriving DecidableEq, Repr

/-- A refusal of the model. -/
inductive Refusal where
  /-- Raised by exec for a command that has no meaning; every command has one, so nothing raises it; safe. -/
  | notModelled (mnemonic : String)
  deriving DecidableEq, Repr

/-! ### Power path and pins -/

/-- SEQ_STATE of 19 Table 19.3. -/
inductive SeqState where
  | off | qualify | ramping | powerGood | poweringDown | fault
  deriving DecidableEq, Repr

/-- The power stages, their start sequencer, and the sideband pins (17 R426-R431, 19 R473-R476). -/
structure PowerPath where
  housekeeping : Bool
  seq : SeqState
  /-- Telemetry indices of the rails that are inside their windows. -/
  railsUp : List Nat
  latched : Bool
  cause : Nat
  pwrEn : Bool
  /-- RESET_L is held low. -/
  resetLow : Bool
  /-- A full reset is under way. -/
  inReset : Bool
  /-- A full reset is due: of DEVICE_RESET, or of RESET_L (17 R431). -/
  resetDue : Bool
  /-- The drive supply of the Causeway is on (04 R101). -/
  cwyDrive : Bool
  vin : Nat
  iinA : Nat
  iinB : Nat
  deriving DecidableEq, Repr

/-- The instructions of the JTAG port (19 R477). -/
inductive JtagIr where
  | bypass | idcode | samplePreload | extest
  deriving DecidableEq, Repr

/-- The JTAG port: its instruction, the boundary cells' preloaded values, and whether they drive the pins. -/
structure Jtag where
  ir : JtagIr
  cells : List Bool
  driving : Bool
  deriving DecidableEq, Repr

/-! ### Keystone and protection (03) -/

/-- An access of a port: a read or a write of a register that came alone, or a transaction. -/
inductive Access where
  | read (a : Nat)
  | write (a : Nat) (w : Word)
  | txn (t : Txn)
  deriving DecidableEq, Repr

/-- The Keystone at the two register arbiters (03 R67-R72). -/
structure Keystone where
  holder : Option GPort
  /-- The HOLDER bit that KS_STATUS shows while nothing is held. -/
  holderBit : Nat
  ticket : Nat
  /-- LEASE_MS read at the grant or the last renewal. -/
  lease : Nat
  turn0 : Bool
  turn1 : Bool
  holdOff : Bool
  /-- Accesses that wait for the end of the hold-off, in arrival order: reads of KS_ACQUIRE, and what the same port has sent after
  one (R61, R68). -/
  waiting : List (GPort × Access)
  /-- The holder in the die-1 arbiter's record. -/
  die1 : Option GPort
  deriving DecidableEq, Repr

/-- Protection commit, journal and audit (03 R75-R85). -/
structure Prot where
  committer : Nat
  ticket : Nat
  digest : List Byte
  /-- The shadow words that the checks passed, to become live at the protection epoch. -/
  staged : List (Nat × Word)
  /-- A holder change or a DISCARD while PENDING: the copy is made in the switch cycle (R81). -/
  copyDue : Bool
  /-- SEQ of the newest journal entry. -/
  jrnlSeq : Nat
  /-- A commit has taken effect since the full reset (R84). -/
  committed : Bool
  /-- The audit has failed: every access made for a context is denied (R85). -/
  auditFail : Bool
  deriving DecidableEq, Repr

/-! ### The image loader (02) -/

/-- A load under way: the port of the LOAD, the state before it, and the module's state at the LOAD that the checks use
(02 R487). -/
structure ImgLoad where
  port : Nat
  prior : Nat
  quiescent : Bool
  oldLive : Bool
  floor : Nat
  digest : List Byte
  serial : Nat
  pierMap : List Nat
  spanSlots : List Nat
  otp : Otp
  repairs : List Repair
  deriving DecidableEq, Repr

/-- An armed partial image: its digest, its serial, the types it carries and the port of its LOAD (02 R51). -/
structure Armed where
  digest : List Byte
  serial : Nat
  types : List Nat
  deriving DecidableEq, Repr

/-! ### Power controller (16) -/

/-- The cap controller, the rail and temperature limits (16 R405-R419). Powers are in 10 µW, the unit of 1 mV × 10 mA. -/
structure PowerCtl where
  /-- The POWER section in use; a flip's version comes into use with a turnstile period (02 Table 2.12). -/
  section_ : List Byte
  /-- Demand estimates in 1/16 W, keyed by 128 s + 16 c + p; unlisted 65 W. -/
  est : List (Nat × Nat)
  /-- Class and phase of each span as 16 c + p. -/
  kind : List (Nat × Nat)
  /-- The span changed its class, phase or step in this control period. -/
  moved : List (Nat × Bool)
  /-- Consecutive divergent samples of each span. -/
  diverge : List (Nat × Nat)
  /-- Input power of the samples of the last 10 ms, newest first. -/
  samples : List Nat
  /-- Consecutive samples above the cap in force. -/
  overCap : Nat
  /-- M_s and A_s of the last sample. -/
  measured : List (Nat × Nat)
  activity : List (Nat × Nat)
  /-- Die d is limited to step 1, or forced (Table 16.6). -/
  limit : List (Nat × Bool)
  hot : List (Nat × Bool)
  /-- The PLL slews towards a returned reference (R406). -/
  slewing : Bool
  deriving DecidableEq, Repr

/-! ### Outputs -/

/-- What the module sends or answers, in order. -/
inductive Out where
  /-- A transaction in a frame sent on a Gulane port, with the frame's source and destination address (03 Table 3.1). -/
  | gulane (p : GPort) (src dst : List Byte) (t : Txn)
  /-- An IEEE 1588 frame sent on a Gulane port (10 R279). -/
  | ptp (p : GPort) (frame : List Byte)
  /-- What one register access returned to a port: its data and its status (03 Table 3.4). -/
  | access (p : GPort) (addr : Nat) (data : Word) (status : Nat)
  /-- An answer of the management bus, none where the module does not answer. -/
  | smbus (data : Option (List Byte))
  /-- What TDO shows of the selected register. -/
  | tdo (value : List Bool)
  /-- What an external port sends: a Balnov packet or link packet in mode 1, an Ethernet frame in modes 2 and 3. -/
  | lane (slot : Nat) (bytes : List Byte)
  /-- A buffer handle granted to requester 7x + c (06 R169). -/
  | buffer (req : Nat) (handle : Nat)
  deriving DecidableEq, Repr

/-! ### The state -/

/-- The module. -/
structure State where
  /-- Commands that wait, first in, first out. -/
  pending : List Instr
  fuses : Fuses
  otp : Otp
  pwr : PowerPath
  jtag : Jtag
  /-- Configuration words, keyed by address; a word not listed reads its reset value (regReset). -/
  regs : List (Nat × Word)
  /-- The HBM aperture; a byte not listed reads 0 (DESIGN CHOICE: log entry 5). -/
  hbm : List Host.Cell
  ks : Keystone
  prot : Prot
  img : ImgLoad
  armed : Option Armed
  /-- Section bodies of the image by 2 × TYPE + version, empty where none; a section with one version has version 0. -/
  sect : List (Nat × List Byte)
  pc : PowerCtl
  /-- Core cycles that each activity has held each domain's unit in this period, keyed by 32 a + i: i is a stack 0-7, a
  span's 8 + s, or 16 for CTRL (16 R420). -/
  tst : List (Nat × Nat)
  fab : Fab
  net : Net
  pr : Piers
  svc : Services
  snt : Sentinel
  mem : Mem
  mg : Mgmt
  /-- Fabric time in 1/64 ns, modulo 2^70, and the ninths of 1/64 ns that the core clock has run beyond it. -/
  ft : Nat
  ftRem : Nat
  /-- DK_STEP (10 R282). -/
  step : Nat
  /-- CORR records: time of the last one written and repeats since, by UNIT × 65,536 + CODE (18 R454). -/
  corr : List (Nat × Option (Nat × Nat))
  /-- The firmware digest, empty before RUNNING, and whether the firmware watchdog has expired (17 R434, 18 R458). -/
  fwDigest : List Byte
  fwDead : Bool
  /-- Free values taken so far (DESIGN CHOICE: log entry 2). -/
  free : Nat
  /-- Full resets so far; it numbers the undefined contents of HBM. -/
  resets : Nat
  /-- Trace records that wait to be written, oldest first: their session and their bytes (12 R336). -/
  trc : List (Nat × List Byte)
  out : List Out
  deriving DecidableEq, Repr

/-- The power path at the start of a power-up: the housekeeping supply has started, nothing else is powered, and the
power-up full reset is under way (17 R426, R430; 19 Table 19.3). -/
def PowerPath.reset : PowerPath :=
  { housekeeping := true, seq := .off, railsUp := [], latched := false, cause := 0, pwrEn := false, resetLow := false,
    inReset := true, resetDue := false, cwyDrive := false, vin := 0, iinA := 0, iinB := 0 }

/-- The Keystone after a full reset: free, ticket 0, both TURN bits 0 (03 R67, R69). -/
def Keystone.reset : Keystone :=
  { holder := none, holderBit := 0, ticket := 0, lease := 0, turn0 := false, turn1 := false, holdOff := false,
    waiting := [], die1 := none }

/-- Protection after a full reset; the journal holds its START entry (03 R75, R83). -/
def Prot.reset : Prot :=
  { committer := 0xFF, ticket := 0, digest := [], staged := [], copyDue := false, jrnlSeq := 1,
    committed := false, auditFail := false }

/-- No load under way. -/
def ImgLoad.reset : ImgLoad :=
  { port := 0xFF, prior := 0, quiescent := false, oldLive := false, floor := 0, digest := [], serial := 0,
    pierMap := [], spanSlots := [], otp := { slots := [], imgFloor := 0, fwFloor := 0 }, repairs := [] }

/-- The power controller after a full reset. -/
def PowerCtl.reset : PowerCtl :=
  { section_ := [], est := [], kind := [], moved := [], diverge := [], samples := [], overCap := 0, measured := [],
    activity := [], limit := [], hot := [], slewing := false }

/-- The module as a full reset leaves it, with the fuses of a module. -/
def State.ofFuses (f : Fuses) (o : Otp) : State :=
  { pending := [], fuses := f, otp := o, pwr := PowerPath.reset, jtag := { ir := .idcode, cells := [], driving := false },
    regs := fuseRegs f o, hbm := [], ks := Keystone.reset, prot := Prot.reset, img := ImgLoad.reset,
    armed := none, sect := [], pc := PowerCtl.reset, tst := [],
    fab := Fab.reset, net := Net.reset, pr := Piers.reset, svc := Services.reset, snt := Sentinel.reset, mem := Mem.reset,
    mg := Mgmt.reset,
    ft := 0, ftRem := 0, step := 0, corr := [], fwDigest := [], fwDead := false,
    free := 0, resets := 0, trc := [], out := [] }

/-- The module right after reset: every register at its reset value, fuse values loaded, memory with nothing listed. -/
def State.reset : State := State.ofFuses modelFuses modelOtp

end Sys2Proof.Machine
end

