-- ==== Sys2Proof/Machine/Ops.lean ====
section
/-! DEFINITION. The named operations over registers, memory and records that the meanings share: register words and
fields, HBM bytes, free values, function states, the window check (03 R74), event records (03 R64, R65) and fault
records (18 R452-R457). -/

namespace Sys2Proof.Machine
open Sys2Proof

/-! ### Registers -/

/-- The word at a configuration address. -/
def rd (s : State) (a : Nat) : Word := smGet (regReset a) s.regs a

/-- Sets the word at a configuration address. -/
def wr (a : Nat) (w : Word) (s : State) : State := { s with regs := smPut (regReset a) s.regs a w }

/-- The word at a configuration address as a number. -/
def rn (s : State) (a : Nat) : Nat := (rd s a).toNat

/-- Sets the word at a configuration address to a number. -/
def wn (a v : Nat) (s : State) : State := wr a (BitVec.ofNat 32 v) s

/-- A word without its reserved bits (00 R9). -/
def fieldsOnly (a : Nat) (w : Word) : Word :=
  match findReg a with
  | some (d, _) => BitVec.ofNat 32 ((d.fields.map fun f => fget w f.hi f.lo * 2 ^ f.lo).sum)
  | none => 0

/-- Field [hi:lo] of the word at a configuration address. -/
def rf (s : State) (a hi lo : Nat) : Nat := fget (rd s a) hi lo

/-- Sets field [hi:lo] of the word at a configuration address. -/
def wf (a hi lo v : Nat) (s : State) : State := wr a (fset (rd s a) hi lo v) s

/-- Bit k of the word at a configuration address. -/
def rbit (s : State) (a k : Nat) : Bool := rf s a k k == 1

/-- The 64-bit value of a register pair, the low word first. -/
def rn64 (s : State) (a : Nat) : Nat := rn s a + 2 ^ 32 * rn s (a + 4)

/-- Sets a register pair, the low word first. -/
def wn64 (a v : Nat) (s : State) : State := wn (a + 4) (v / 2 ^ 32) (wn a v s)

/-- Stores the lower word of a pair whose value changes at the write of its upper word (00 R485). -/
def putLow (a : Nat) (w : Word) (s : State) : State := { s with mg := { s.mg with low := smPut none s.mg.low a (some w.toNat) } }

/-- The value that a write of the upper word gives a pair: with the last value written to the lower word (00 R485). -/
def pairValue (s : State) (a : Nat) (w : Word) : Nat := (smGet none s.mg.low a).getD (rn s a) + 2 ^ 32 * w.toNat

/-- Adds to a 32-bit counter that saturates. -/
def bump (a n : Nat) (s : State) : State := wn a (satAdd 0xFFFFFFFF (rn s a) n) s

/-- n bytes of a register area from a word address. -/
def cfgBytes (s : State) (a n : Nat) : List Byte :=
  (smGetAll regReset s.regs a 4 ((n + 3) / 4)).flatMap (fun w => leBytes 4 w.toNat) |>.take n

/-- Writes bytes to a register area from a word address; a last short word is filled with zeros. -/
def putCfg (a : Nat) (bs : List Byte) (s : State) : State :=
  { s with regs := smPutAll regReset s.regs a 4 (toWords bs) }

/-! ### HBM -/

/-- What a byte of HBM that nothing has written reads as (DESIGN CHOICE: log entry 5). -/
def hbmUnlisted : Nat → Byte := fun _ => 0

/-- The canonical form of the memory list: addresses strictly rising and no entry equal to what an unlisted address
reads as. -/
abbrev Memory.wf (m : List Host.Cell) : Prop := SmWf hbmUnlisted m

/-- One byte of the HBM aperture. -/
def hbmByte (s : State) (a : Nat) : Byte := smGet (hbmUnlisted a) s.hbm a

/-- n bytes of the HBM aperture. -/
def hbmRd (s : State) (a n : Nat) : List Byte := smGetAll hbmUnlisted s.hbm a 1 n

/-- The little-endian number of n bytes of HBM. -/
def hbmLe (s : State) (a n : Nat) : Nat := ofLe (hbmRd s a n)

/-- Memory with given cells, in its canonical form. -/
def memOf (cells : List Host.Cell) : List Host.Cell :=
  cells.foldl (fun m c => smPut (hbmUnlisted c.1) m c.1 c.2) []

/-- First and one past the last byte of the aperture, and the end of its data range (15 R389). -/
def hbmBase : Nat := 0x1000000000
def hbmEnd : Nat := 0x4000000000
def hbmDataEnd : Nat := 0x3F40000000

/-! ### Free values -/

/-- A fresh unconstrained number of w bits (DESIGN CHOICE: log entry 2). -/
def freeBits (w : Nat) (s : State) : Nat := Config.freeValue s.free % 2 ^ w

/-- The state after a free value has been taken. -/
def tookFree (s : State) : State := { s with free := s.free + 1 }

/-! ### Grade and functions -/

/-- The grade has this logical pier. -/
def pierPresent (s : State) (p : Nat) : Bool := p < 128 && p % 16 < piersPerSpan s.fuses.grade

/-- The pier's stores are being copied to a new slot, and its queues are held (01 R28). -/
def beingCopied (s : State) (p : Nat) : Bool := s.snt.copying.any fun m => m.pier == p

/-- The grade has this port group. -/
def groupPresent (s : State) (g : Nat) : Bool := g < gradeGroups s.fuses.grade

/-- The register at a word address on a module of a grade: the PG windows of groups that it lacks hold none (04 R107). -/
def regIn (g : Grade) (a : Nat) : Option (RegDesc × List Nat) :=
  if 0x800000 ≤ a ∧ a < 0xC00000 ∧ gradeGroups g ≤ (a - 0x800000) / 0x10000 then none else findReg a

/-- The register at a word address of this module. -/
def regAt (s : State) (a : Nat) : Option (RegDesc × List Nat) := regIn s.fuses.grade a

/-! Function numbers of 17 Table 17.6. -/

def fnGroup (g : Nat) : Nat := g
def fnSpan (s : Nat) : Nat := 64 + s
def fnPier (p : Nat) : Nat := 72 + p
def fnRse (n : Nat) : Nat := 200 + n
def fnStack (s : Nat) : Nat := 280 + s
def fnGul (n : Nat) : Nat := 288 + n
def fnCtx (x : Nat) : Nat := 290 + x

/-- The function exists in this grade. -/
def fnPresent (s : State) (f : Nat) : Bool :=
  if f < 64 then groupPresent s f
  else if 72 ≤ f ∧ f < 200 then pierPresent s (f - 72)
  else f < 354

/-- FSTATE codes of 17 Table 17.13. -/
def fsOff : Nat := 0
def fsStart : Nat := 1
def fsOn : Nat := 2
def fsDrain : Nat := 3
def fsWedged : Nat := 4

/-- FSTATE of a function. -/
def fstate (s : State) (f : Nat) : Nat := rf s (A.dkFuncState f) 2 0

/-- The function is ON. -/
def isOn (s : State) (f : Nat) : Bool := fstate s f == fsOn

/-- STAGE of DK_BOOT_STATUS (17 Table 17.12). -/
def stage (s : State) : Nat := rf s A.dkBootStatus 3 0
def stRom : Nat := 1
def stHbm : Nat := 2
def stFwWait : Nat := 3
def stFwCheck : Nat := 4
def stRunning : Nat := 5
def stHalted : Nat := 0xF

/-- STATE of DK_IMG_STATUS (02 Table 2.15). -/
def imgState (s : State) : Nat := rf s A.dkImgStatus 3 0
def imNone : Nat := 0
def imValidating : Nat := 1
def imCommitting : Nat := 2
def imActive : Nat := 3
def imArmed : Nat := 4

/-- CUR of RT_EPOCH_STATUS: 0 is A, 1 is B (05 Table 5.15). -/
def curEpoch (s : State) : Nat := rf s A.rtEpochStatus 0 0

/-- The version that is not in force. -/
def otherEpoch (s : State) : Nat := 1 - curEpoch s

/-! ### Transactions' status codes (03 Table 3.4) -/

def stOk : Nat := 0
def stBadOp : Nat := 1
def stBadAddr : Nat := 2
def stBadLen : Nat := 3
def stIgnored : Nat := 4
def stDenied : Nat := 5
def stStalled : Nat := 6
def stEcc : Nat := 7
def stDbOverrun : Nat := 8

/-- Appends to what the module sends or answers. -/
def emit (o : Out) (s : State) : State := { s with out := s.out ++ [o] }

/-! ### Fabric time -/

/-- Fabric time in whole nanoseconds, 64 bits. -/
def ftNs (s : State) : Nat := s.ft / 64 % 2 ^ 64

/-! ### Events (03 R64, R65) -/

/-- What names an event: its code, the port that caused it and the context concerned (0xFF for none), the unit, and the
code's detail (03 Table 3.5). -/
structure EventId where
  code : Nat
  port : Nat := 0xFF
  ctx : Nat := 0xFF
  unit : Nat := 0
  detail : Nat := 0
  deriving DecidableEq, Repr

/-- The 32-byte record of an event (03 Table 3.5). -/
def eventBytes (time seq : Nat) (e : EventId) : List Byte :=
  leBytes 8 time ++ leBytes 2 e.code ++ leBytes 1 e.port ++ leBytes 1 e.ctx ++ leBytes 4 e.unit ++
    leBytes 8 e.detail ++ leBytes 4 seq ++ leBytes 4 0

/-- The EVENT transaction that carries a record: ADDR 0 and TAG SEQ[15:0]. -/
def eventTxn (seq : Nat) (ev : List Byte) : Txn :=
  { op := 0x90, tag := seq % 2 ^ 16, len := 32, addr := 0, data := ev }

/-- Sends a transaction on a port: from the fused port address, to the source of the last transaction frame that the port
accepted (Table 3.1). -/
def gulSend (p : GPort) (t : Txn) (s : State) : State := emit (.gulane p (s.fuses.portAddr (512 + p)) (smGet [] s.mg.peer p) t) s

/-- Sends a record on a port that is ON and has EVT_EN. -/
def sendEvent (seq : Nat) (ev : List Byte) (p : GPort) (s : State) : State :=
  if isOn s (fnGul p) && rbit s (A.gulCfg p) 16 then gulSend p (eventTxn seq ev) s else s

/-- Raises an event: sends its record, writes it to the event log, and then sets GUL_EVT_SEQ. -/
def raiseEvent (e : EventId) (s : State) : State :=
  let seq := (rn s A.gulEvtSeq + 1) % 2 ^ 32
  let ev := eventBytes (ftNs s) seq e
  let s := sendEvent seq ev 1 (sendEvent seq ev 0 s)
  wn A.gulEvtSeq seq (putCfg (A.evtLog 0 + 32 * (seq % 256)) ev s)

/-! ### Trace (12 R335, R336) -/

/-- What a trace record says (12 Table 12.4). -/
structure TraceId where
  kind : Nat
  engine : Nat
  pier : Nat
  ctx : Nat
  tag : Nat := 0
  seq : Nat := 0
  flag : Nat := 0
  counter : Nat := 0
  count : Nat := 0
  status : Nat := 0
  detail : Nat := 0
  deriving DecidableEq, Repr

/-- The 32 bytes of a trace record. -/
def traceBytes (time : Nat) (t : TraceId) : List Byte :=
  leBytes 8 time ++ leBytes 1 t.kind ++ leBytes 1 t.engine ++ leBytes 1 t.pier ++ leBytes 1 t.ctx ++ leBytes 4 t.tag ++
    leBytes 4 t.seq ++ leBytes 1 t.flag ++ leBytes 1 t.counter ++ leBytes 1 t.count ++ leBytes 1 t.status ++ leBytes 8 t.detail

/-- Session i traces a record: it runs, and selects the pier, the context and the kind (12 Table 12.8). -/
def traceWants (s : State) (t : TraceId) (i : Nat) : Bool :=
  let sel := rn s (A.trcSelect i)
  rbit s (A.trcEn i) 0 && bit (rn s (A.trcKinds i)) t.kind &&
    (if bit sel 15 then bits sel 10 8 == t.pier / 16 else bits sel 6 0 == t.pier) && (bit sel 23 || bits sel 21 16 == t.ctx)

/-- An event that trace sessions record: each session's record waits to be written. -/
def traced (t : TraceId) (s : State) : State :=
  { s with trc := s.trc ++ ((List.range 16).filter (traceWants s t)).map fun i => (i, traceBytes (ftNs s) t) }

/-- Drops a record of session i, which counts it. -/
def traceDrop (i : Nat) (s : State) : State := bump (A.trcDropped i) 1 s

/-- Drops every record that has waited to the end of its turnstile period. -/
def traceDropAll (s : State) : State := s.trc.foldl (fun s r => traceDrop r.1 s) { s with trc := [] }

/-! ### Faults (18 R451-R457) -/

/-- Fault classes of 18 Table 18.2. -/
inductive FaultClass where
  | corr | rcvd | ctxf | devf
  deriving DecidableEq, Repr

/-- CLASS of a fault record. -/
def FaultClass.code : FaultClass → Nat
  | .corr => 0
  | .rcvd => 1
  | .ctxf => 2
  | .devf => 3

/-- What names a fault (18 Table 18.3). -/
structure FaultId where
  code : Nat
  cls : FaultClass
  ctx : Nat := 0xFF
  unit : Nat := 0
  tag : Nat := 0
  detail : Nat := 0
  sub : Nat := 0
  engine : Nat := 0xFF
  /-- The port whose access caused the fault, which its event names (03 Table 3.5, R65). -/
  port : Nat := 0xFF
  deriving DecidableEq, Repr

/-- The 64-byte fault record (18 Table 18.3). -/
def faultBytes (time fseq rep step : Nat) (f : FaultId) : List Byte :=
  leBytes 8 time ++ leBytes 4 fseq ++ leBytes 2 f.code ++ leBytes 1 (FaultClass.code f.cls) ++ leBytes 1 f.ctx ++
    leBytes 4 f.unit ++ leBytes 4 f.tag ++ leBytes 8 f.detail ++ leBytes 1 f.sub ++ leBytes 1 f.engine ++
    leBytes 2 rep ++ leBytes 4 0 ++ leBytes 8 step ++ leBytes 16 0

/-- Key of the merging of CORR records. -/
def corrKey (f : FaultId) : Nat := 2 ^ 16 * f.unit + f.code

/-- A context is stopped (18 R455). -/
def ctxStopped (s : State) (x : Nat) : Bool := rbit s (A.ctxFltStatus x) 31

/-- Code of NAN_TRAP (18 Table 18.7). -/
def cNanTrap : Nat := 0x1208

/-- Stops a context at a CTXF fault (18 R455): only NAN_TRAP or STOP 1 stops it, and only once. -/
def stopCtx (x code : Nat) (s : State) : State :=
  if x < 64 ∧ ¬ctxStopped s x ∧ (code = cNanTrap ∨ rbit s (A.ctxFltCfg x) 0) then
    raiseEvent { code := 0x120E, ctx := x, unit := 0x100000 + 0x4000 * x, detail := code }
      (wn (A.ctxFltStatus x) (2 ^ 31 + code) s)
  else s

/-- The lasting effect of a fault's class (18 Table 18.2): CTXF may stop its context, DEVF sets DK_FLT_STATUS (which
drives FAULT_L low, R457). -/
def faultEffect (f : FaultId) (s : State) : State :=
  match f.cls with
  | .ctxf => stopCtx f.ctx f.code s
  | .devf =>
    if rbit s A.dkFltStatus 31 then s else wn A.dkFltStatus (2 ^ 31 + f.code % 2 ^ 16) s
  | _ => s

/-- Raises a fault (18 R453): the record in the fault log, DK_FLT_SEQ, the event, then the class's effect. A CORR record of a
UNIT and CODE written less than 1 ms earlier is merged instead (R454); DK_FLT_CNT counts it all the same. -/
def raiseFault (f : FaultId) (s : State) : State :=
  let s := bump (A.dkFltCnt (FaultClass.code f.cls)) 1 s
  let last := smGet none s.corr (corrKey f)
  let merged := match f.cls, last with
    | .corr, some (t, _) => decide ((ftNs s + 2 ^ 64 - t) % 2 ^ 64 < 1000000)
    | _, _ => false
  if merged then
    { s with corr := smPut none s.corr (corrKey f) (last.map fun p => (p.1, satAdd 0xFFFF p.2 1)) }
  else
    let rep := match f.cls, last with
      | .corr, some (_, r) => r
      | _, _ => 0
    let fseq := (rn s A.dkFltSeq + 1) % 2 ^ 32
    let s := putCfg (A.fltLog 0 + 64 * (fseq % 256)) (faultBytes (ftNs s) fseq rep s.step f) s
    let s := wn A.dkFltSeq fseq s
    let s := if f.cls = .corr then { s with corr := smPut none s.corr (corrKey f) (some (ftNs s, 0)) } else s
    let s := if f.engine ≤ 8 then
        traced { kind := 8, engine := f.engine, pier := (f.unit - 0x2000000) / 0x40000, ctx := f.ctx, tag := f.tag,
                 status := f.code % 256, detail := f.detail } s
      else s
    faultEffect f (raiseEvent { code := f.code, port := f.port, ctx := f.ctx, unit := f.unit, detail := f.detail } s)

/-- FAULT_L is driven low: by a DEVF (18 R457) or a sequencer latch (17 R427); never without the housekeeping supply
(19 R474). -/
def faultLow (s : State) : Bool := s.pwr.housekeeping && (rbit s A.dkFltStatus 31 || s.pwr.latched)

/-- THERM_L is driven low while a die is at 110 °C or above (16 Table 16.6). -/
def thermLow (s : State) : Bool := s.pwr.housekeeping && (smGet false s.pc.hot 0 || smGet false s.pc.hot 1)

/-! ### Units of records -/

/-- CTX block of a context. -/
def ctxUnit (x : Nat) : Nat := 0x100000 + 0x4000 * x
/-- PIER block of a global logical pier. -/
def pierUnit (p : Nat) : Nat := 0x2000000 + 0x40000 * p
/-- Span register block. -/
def spanUnit (s : Nat) : Nat := 0x2000000 + 0x400000 * s + 0x3C000
/-- PG block of a port group. -/
def pgUnit (g : Nat) : Nat := 0x800000 + 0x10000 * g
/-- RSE block. -/
def rseUnit (n : Nat) : Nat := 0xC00000 + 0x8000 * n
/-- MEM block of a stack. -/
def memUnit (s : Nat) : Nat := 0x1000000 + 0x100000 * s

/-! ### The address map (15 R387-R391) -/

/-- REGION[r] of the INTERLEAVE section in force; before an image every region is ALL with a granule of 4 KiB (DESIGN CHOICE: log entry 18). -/
def regionWord (s : State) (r : Nat) : Nat :=
  match smGet [] s.sect 18 with
  | [] => 0x11
  | b => le b (4 * r) 4

/-- Stacks of an interleave domain, in order (15 Table 15.1). -/
def domainStacks (d : Nat) : List Nat :=
  if d = 1 then List.range 8 else if d = 2 then [0, 1, 2, 3] else if d = 3 then [4, 5, 6, 7]
  else if 4 ≤ d ∧ d ≤ 11 then [d - 4] else []

/-- Bytes of a region on one of its stacks. -/
def domainShare (d : Nat) : Nat := 2 ^ 30 / (domainStacks d).length

/-- The granule in bytes of a GRAN code. -/
def granule (g : Nat) : Nat := if g = 0 then 256 else if g = 1 then 4096 else 65536

/-- The region of an aperture address. -/
def regionOf (a : Nat) : Nat := (a - hbmBase) / 2 ^ 30

/-- The region of an address is mapped to stacks. -/
def mapped (s : State) (a : Nat) : Bool := hbmBase ≤ a && a < hbmDataEnd && regionWord s (regionOf a) % 16 != 0

/-- Where a stack's share of the regions below r ends. -/
def shareBase (s : State) (r stack : Nat) : Nat :=
  ((List.range r).map fun i =>
    let d := regionWord s i % 16
    if (domainStacks d).contains stack then domainShare d else 0).sum

/-- Stack and stack-local address of a mapped address (15 R390). -/
def stackAddr (s : State) (a : Nat) : Nat × Nat :=
  let r := regionOf a
  let w := regionWord s r
  let off := (a - hbmBase) % 2 ^ 30
  let gr := granule (w / 16 % 4)
  let l := domainStacks (w % 16)
  let g := off / gr
  let st := l.getD (g % l.length) 0
  (st, shareBase s r st + g / l.length * gr + off % gr)

/-- Pseudo-channel and pseudo-channel address of a stack-local address. -/
def placeOf (sl : Nat) : Nat × Nat := (sl / 256 % 32, 256 * (sl / 2 ^ 13) + sl % 256)

/-- Stack-local address of a pseudo-channel address. -/
def stackLocal (pch pa : Nat) : Nat := 2 ^ 13 * (pa / 256) + 256 * pch + pa % 256

/-- Stack-local bytes of a stack that data take, and of the whole stack: its spare region lies above its data (15 R388). -/
def stackData : Nat := 24192 * 2 ^ 20
def stackAll : Nat := 24576 * 2 ^ 20

/-- Bytes of an extent. -/
def extentBytes : Nat := 0x600000

/-- Stack-local address of byte off of spare extent e of a stack: extent 126 + (e mod 2) of pseudo-channel e ÷ 2 (15 R388). -/
def spareSl (e off : Nat) : Nat := stackLocal (e / 2) ((126 + e % 2) * extentBytes + off)

/-- The spare extent that a stack-local address of the spare region belongs to. -/
def spareOf (sl : Nat) : Nat := 2 * (placeOf sl).1 + ((placeOf sl).2 / extentBytes - 126)

/-- The aperture address that maps to a stack-local address (15 R390). -/
def apertureOf (s : State) (st sl : Nat) : Option Nat :=
  (List.range 189).findSome? fun r =>
    let w := regionWord s r
    let l := domainStacks (w % 16)
    let base := shareBase s r st
    match l.findIdx? (· == st) with
    | some i =>
      if base ≤ sl ∧ sl < base + domainShare (w % 16) then
        let g := granule (w / 16 % 4)
        let off := sl - base
        some (hbmBase + 2 ^ 30 * r + (off / g * l.length + i) * g + off % g)
      else none
    | none => none

/-- The repair of a stack-local address, in force or awaiting its FLIP (15 R399). -/
def repairOf (s : State) (st sl : Nat) (pending : Bool) : Option Repair :=
  s.mem.repairs.find? fun q => q.stack == st && q.pch == (placeOf sl).1 && q.extent == (placeOf sl).2 / extentBytes && q.pending == pending

/-- The stack-local address, in the spare extent of a repair, of the byte that a stack-local address names. -/
def spareByte (q : Repair) (sl : Nat) : Nat := spareSl q.spare ((placeOf sl).2 % extentBytes)

/-- The stack and the stack-local address of the storage that serves an address: that of its spare extent where a repair is in force,
or its own (15 R390, R399). -/
def servedAt (s : State) (a : Nat) : Nat × Nat :=
  let (st, sl) := stackAddr s a
  (st, ((repairOf s st sl false).map (spareByte · sl)).getD sl)

/-- The spare storage that also takes every write of an address, while its repair awaits a FLIP (15 R399). -/
def twinOf (s : State) (a : Nat) : Option (Nat × Nat) :=
  let (st, sl) := stackAddr s a
  (repairOf s st sl true).map fun q => (st, spareByte q sl)

/-- The channel of a stack that holds a stack-local address has FAILED (15 R398). -/
def storageFailed (s : State) (st sl : Nat) : Bool := rbit s (A.memChStatus st ((placeOf sl).1 / 2)) 2

/-- The channel that serves an address has FAILED. -/
def channelFailed (s : State) (a : Nat) : Bool := storageFailed s (servedAt s a).1 (servedAt s a).2

/-- Some channel has FAILED. -/
def anyFailed (s : State) : Bool := (List.range 128).any fun k => rbit s (A.memChStatus (k / 16) (k % 16)) 2

/-- Key of the code word of a stack that holds a stack-local address. -/
def wordKey (st sl : Nat) : Nat := 2 ^ 29 * st + sl / 64

/-- The aperture address of a code word, by its key: of the words that serve reads, or of those that take writes, spare extents of
pending repairs among them (15 R399). -/
def wordServes (s : State) (writes : Bool) (k : Nat) : Option Nat :=
  let st := k / 2 ^ 29
  let sl := 64 * (k % 2 ^ 29)
  if sl < stackData then if (repairOf s st sl false).isSome then none else apertureOf s st sl
  else match s.mem.repairs.find? fun q => q.stack == st && q.spare == spareOf sl && (writes || !q.pending) with
    | some q => apertureOf s st (stackLocal q.pch (q.extent * extentBytes + (placeOf sl).2 % extentBytes))
    | none => none

/-- First code word of n bytes at a that cannot be corrected: its check bits are bad, or its channel has FAILED. -/
def badWord (s : State) (a n : Nat) : Option Nat :=
  let marked := (s.mem.bad.filterMap (wordServes s false)).filter fun w => a < w + 64 && w < a + n
  let failed := if anyFailed s then
      (((List.range ((a + n + 63) / 64 - a / 64)).map fun i => 64 * (a / 64 + i)).find? (channelFailed s)).toList
    else []
  (marked ++ failed).min?

/-! ### Writes of HBM -/

/-- A write of a byte is lost: its channel has FAILED, and no spare storage takes it as well (15 R398, R399). -/
def lostAt (s : State) (a : Nat) : Bool :=
  channelFailed s a && (twinOf s a).all fun t => storageFailed s t.1 t.2

/-- What n bytes written at a leave there: a byte whose write is lost stays. -/
def landed (s : State) (a : Nat) (bs : List Byte) : List Byte :=
  if anyFailed s then bs.zipIdx.map fun y => if lostAt s (a + y.2) then hbmByte s (a + y.2) else y.1 else bs

/-- A write of n bytes at a replaces the whole code word at w: a word keeps bad check bits until one does (15 R394). -/
def wholeWord (a n w : Nat) : Bool := a ≤ w && w + 64 ≤ a + n

/-- The words with bad check bits after a write of n bytes at a. -/
def mended (s : State) (a n : Nat) : List Nat :=
  s.mem.bad.filter fun k => !((wordServes s true k).any fun w => wholeWord a n w)

/-- Writes bytes to the HBM aperture. -/
def hbmWr (a : Nat) (bs : List Byte) (s : State) : State :=
  { s with hbm := smPutAll hbmUnlisted s.hbm a 1 (landed s a bs), mem := { s.mem with bad := mended s a bs.length } }

/-- The address belongs to a table that the device itself reads: rank tables, tree tables, stream records, pool metadata, the
image store (15 R394). -/
def deviceTable (s : State) (a : Nat) : Bool :=
  let in_ := fun (base len : Nat) => base != 0 && decide (base ≤ a) && decide (a < base + len)
  in_ hbmBase 0x20000000 || in_ (rn64 s (A.rtSrBase 0)) 0x10000000 || in_ (rn64 s (A.bpmMetaBase 0)) 0x1000000 ||
    (List.range 2).any (fun v => in_ (rn64 s (A.rtTreeBase v 0)) 0x400000 ||
      (List.range 1024).any fun t => in_ (rn64 s (A.rtRankBase t v 0)) (4 * rn s (A.rtRankCount t v)))

/-- An uncorrectable word of a table that the device reads (15 R394). -/
def systemUe (a : Nat) (s : State) (port : Nat := 0xFF) : State :=
  raiseFault { code := 0x0F02, cls := .devf, detail := a, port := port } s

/-- Counts an uncorrectable read of a word and latches its address (15 Table 15.8): of a repaired extent, that of the spare word that
was read (DEDUCED: log entry 82); one of a device table raises MEM_UE_SYSTEM. -/
def countUe (k a : Nat) (s : State) (port : Nat := 0xFF) : State :=
  let (st, sl) := servedAt s a
  let s := wn (A.memEccLast st 1) (sl / 2 ^ 32) (wn (A.memEccLast st 0) (sl % 2 ^ 32) (bump (A.memEccCnt st k) 1 s))
  if deviceTable s a then systemUe a s port else s

/-- n bytes at a that the device itself reads: an uncorrectable word delivers no data, and stands for a free value (15 R394; DESIGN
CHOICE: log entry 73). -/
def deviceRd (s : State) (a n : Nat) : List Byte :=
  if (badWord s a n).isNone then hbmRd s a n
  else (hbmRd s a n).zipIdx.map fun y =>
    if (badWord s (64 * ((a + y.2) / 64)) 64).isSome then BitVec.ofNat 8 (Config.freeValue s.free / 2 ^ (8 * y.2)) else y.1

/-- What a read of n bytes at a by the device raises: MEM_UE_SYSTEM where a word cannot be corrected. -/
def deviceUe (a n : Nat) (s : State) : State := match badWord s a n with
  | some u => countUe 1 u (tookFree s)
  | none => s

/-! ### Storage out of service (15 R388, R390, R399) -/

/-- Key of the byte of storage that serves an address. -/
def storageKey (s : State) (a : Nat) : Nat := 2 ^ 35 * (servedAt s a).1 + (servedAt s a).2

/-- The aperture address that a byte of storage serves, by its key. -/
def byteServes (s : State) (k : Nat) : Option Nat :=
  (wordServes s false (wordKey (k / 2 ^ 35) (k % 2 ^ 35))).map (· + k % 64)

/-- The storage as it stands in s, under the address map and the repairs of t: each byte of storage keeps its value. -/
def rekey (s t : State) : State :=
  let all := s.mem.hidden ++ ((s.hbm.filter fun c => mapped s c.1).map fun c => (storageKey s c.1, c.2))
  { t with hbm := memOf (all.filterMap fun c => (byteServes t c.1).map fun a => (a, c.2))
           mem := { t.mem with hidden := memOf (all.filter fun c => (byteServes t c.1).isNone) } }

/-- A key of storage lies in a spare extent of a stack. -/
def inSpare (st e k : Nat) : Bool := k / 2 ^ 35 == st && stackData ≤ k % 2 ^ 35 && k % 2 ^ 35 < stackAll && spareOf (k % 2 ^ 35) == e

/-- The contents of the spare regions after the n-th full reset, which 17 R430 leaves undefined (DESIGN CHOICE: log entry 3). -/
def spareContents (n : Nat) : List Host.Cell :=
  memOf ((Config.freeHbm (2 ^ 32 + n)).filter fun c => c.1 < 2 ^ 38 && stackData ≤ c.1 % 2 ^ 35 && c.1 % 2 ^ 35 < stackAll)

/-! ### Windows (03 R73, R74) -/

/-- A word of the live protection area of a context, by its offset. -/
def liveWord (s : State) (x off : Nat) : Nat := rn s (A.ctxLive x 0 + off)

/-- The permission bits of a window entry (03 Table 3.11). -/
inductive Perm where
  | rd | w | c | gr | gw
  deriving DecidableEq, Repr

/-- Bit of a permission in a window entry's first word. -/
def Perm.bit : Perm → Nat
  | .rd => 1
  | .w => 2
  | .c => 3
  | .gr => 4
  | .gw => 5

/-- WIN_COUNT of a context's live area. -/
def winCount (s : State) (x : Nat) : Nat := liveWord s x 0x1000 / 2 ^ 16

/-- Window i of context x allows n bytes at a with a permission. -/
def winAllows (s : State) (x i a n : Nat) (p : Perm) : Bool :=
  let b := liveWord s x (16 * i)
  let base := 2 ^ 12 * (b / 2 ^ 12) + 2 ^ 32 * liveWord s x (16 * i + 4)
  let lim := 2 ^ 12 * (liveWord s x (16 * i + 8) / 2 ^ 12) + 2 ^ 32 * liveWord s x (16 * i + 12)
  bit b 0 && bit b (Perm.bit p) && base ≤ a && a + n ≤ lim

/-- The window check of 03 R74 for one piece (n bytes at a, no 4 KiB boundary inside). A failed audit denies every access made
for a context (R85); the top of the aperture has no storage (15 R389), and an UNMAPPED region has none (R390). -/
def winOk (s : State) (x a n : Nat) (p : Perm) : Bool :=
  !s.prot.auditFail && a + n ≤ hbmDataEnd && mapped s a &&
    (List.range (min 256 (winCount s x))).any fun i => winAllows s x i a n p

/-- Splits n bytes at a into the pieces that 4 KiB boundaries make, in ascending order. -/
def pieces : Nat → Nat → Nat → List (Nat × Nat)
  | 0, _, _ => []
  | _ + 1, _, 0 => []
  | k + 1, a, n + 1 =>
    let m := min (n + 1) (4096 - a % 4096)
    (a, m) :: pieces k (a + m) (n + 1 - m)

/-- The pieces of an access. -/
def piecesOf (a n : Nat) : List (Nat × Nat) := pieces (n / 4096 + 2) a n

/-- The first piece of an access that the window check denies. -/
def firstDenied (s : State) (x a n : Nat) (p : Perm) : Option Nat :=
  ((piecesOf a n).find? fun q => !winOk s x q.1 q.2 p).map Prod.fst

/-- Raises WINDOW_DENIED for context x at address a, for an engine's pier or RSE block (03 Table 3.6). -/
def windowDenied (x a unit tag sub engine : Nat) (s : State) : State :=
  raiseFault { code := 0x030A, cls := .ctxf, ctx := x, unit := unit, tag := tag, detail := a, sub := sub, engine := engine } s

end Sys2Proof.Machine
end

