-- ==== Sys2Proof/Machine/Load.lean ====
section
/-! DEFINITION. What the image loader's state and the sections in force give the other families: sections, pools,
turnstile budgets, and the end of a load with a rejection (02; 16 R420-R424). -/

namespace Sys2Proof.Machine
open Sys2Proof

/-! ### Sections (02 Table 2.5) -/

def secRetire : Nat := 1
def secPorts : Nat := 2
def secCarousel : Nat := 3
def secPools : Nat := 4
def secClasses : Nat := 5
def secRseprog : Nat := 6
def secGirderprog : Nat := 7
def secSpans : Nat := 8
def secInterleave : Nat := 9
def secPower : Nat := 0xA
def secTurnstile : Nat := 0xB
def secRegs : Nat := 0xC

/-- The section has two versions: the types that a partial image may carry (02 Table 2.5). -/
def doubleVersioned (t : Nat) : Bool := t == 5 || t == 6 || t == 7 || t == 8 || t == 0xA || t == 0xB

/-- The body of a section in a version; a section with one version ignores the version. -/
def sectV (s : State) (t v : Nat) : List Byte := smGet [] s.sect (2 * t + if doubleVersioned t then v else 0)

/-- The body of a section in the version in force. -/
def sect (s : State) (t : Nat) : List Byte := sectV s t (curEpoch s)

/-- Writes a section's version. -/
def putSect (t v : Nat) (b : List Byte) (s : State) : State := { s with sect := smPut [] s.sect (2 * t + v) b }

/-! ### Pools (02 R39-R41) -/

/-- Buffer size of pool k. -/
def poolSize (k : Nat) : Nat := [256, 2048, 16448, 131072, 1048576].getD k 0

/-- COUNT[k] of a POOLS section. -/
def poolCount (b : List Byte) (k : Nat) : Nat := le b (4 * k) 4

/-- BASE of a POOLS section. -/
def poolBase (b : List Byte) : Nat := le b 0x18 8

/-- MAX_REQ[c] of a POOLS section. -/
def poolMaxReq (b : List Byte) (c : Nat) : Nat := le b (0x20 + 4 * c) 4

/-- QUOTA[x][c] of a POOLS section, by index 7x + c. -/
def poolQuota (b : List Byte) (i : Nat) : Nat := le b (0x40 + 4 * i) 4

/-- Bytes of pool k's block in the region, rounded up to 1 MiB. -/
def poolBlock (b : List Byte) (k : Nat) : Nat := roundUp (poolCount b k * poolSize k) 0x100000

/-- The length of the pool region. -/
def poolRegionLen (b : List Byte) : Nat := ((List.range 5).map (poolBlock b)).sum

/-- First address of pool k's block: the enabled pools stand in descending buffer size. -/
def poolStart (b : List Byte) (k : Nat) : Nat :=
  poolBase b + (((List.range 5).filter (k < ·)).map (poolBlock b)).sum

/-- The smallest enabled pool whose buffers hold n bytes (02 R40). -/
def poolFor (b : List Byte) (n : Nat) : Option Nat :=
  (List.range 5).find? fun k => poolCount b k ≠ 0 && n ≤ poolSize k

/-- The charge of a request of n bytes. -/
def poolCharge (b : List Byte) (n : Nat) : Nat :=
  match poolFor b n with
  | some k => poolSize k
  | none => 0

/-- An address range meets the pool region of a POOLS section. -/
def meetsPools (b : List Byte) (lo hi : Nat) : Bool :=
  poolRegionLen b ≠ 0 && lo < poolBase b + poolRegionLen b && poolBase b < hi

/-- End of the image store, and of its staging half (02 R43). -/
def storeEnd : Nat := hbmBase + 0x20000000
def stagingEnd : Nat := hbmBase + 0x10000000

/-- An address range meets the image store. -/
def meetsStore (lo hi : Nat) : Bool := lo < storeEnd && hbmBase < hi

/-! ### Turnstiles (16 R420-R424) -/

def actRefresh : Nat := 0
def actScrub : Nat := 1
def actSentinel : Nat := 2
def actTelemetry : Nat := 3
def actAudit : Nat := 4
def actReconfig : Nat := 5
def actMirror : Nat := 6
def actMgmtDma : Nat := 7
def actCtxSave : Nat := 8

/-- Default budgets of 16 Table 16.7; in force until the first image is committed (DEDUCED: log entry 7). -/
def defaultBudget (a : Nat) : Nat := [80, 16, 8, 16, 32, 128, 896, 64, 96].getD a 0

/-- The budget of an activity in 1/1,024 of a period. -/
def budget (s : State) (a : Nat) : Nat :=
  if sect s secTurnstile = [] then defaultBudget a else rn s (A.tstBudget a)

/-- The device's own REFRESH budget: 80 below 95 °C, 160 at or above (16 Table 16.7); the TURNSTILE section cannot lower
it (R423). -/
def refreshBudget (s : State) (stack : Nat) : Nat :=
  max (if 95 ≤ rf s (A.memStatus stack) 31 24 then 160 else 80) (budget s actRefresh)

/-- The budget of an activity in an instance of a domain. -/
def budgetIn (s : State) (a i : Nat) : Nat := if a = actRefresh then refreshBudget s i else budget s a

/-- The core cycles of a turnstile period. -/
def periodCycles (s : State) : Nat := 1800 * rn s A.tstPeriod

/-- The cycles an activity has held an instance in this period. -/
def tstCount (s : State) (a i : Nat) : Nat := smGet 0 s.tst (32 * a + i)

/-- The activity's count has reached its budget in the instance: it defers (R422). -/
def tstSpent (s : State) (a i : Nat) : Bool := budgetIn s a i * periodCycles s ≤ 1024 * tstCount s a i

/-- Charges cycles to an activity; TST_DEFER rises when its count reaches the budget (R422, R423). -/
def tstCharge (a i cycles : Nat) (s : State) : State :=
  let s' := { s with tst := smPut 0 s.tst (32 * a + i) (tstCount s a i + cycles) }
  if !tstSpent s a i && tstSpent s' a i then bump (A.tstDefer a) 1 s' else s'

/-! ### The image loader -/

/-- Raises IMG_REJECT (02 Table 2.20). -/
def imgRejectEvent (port code section_ detail : Nat) (s : State) : State :=
  raiseEvent { code := 0x0201, port := port,
               detail := 2 ^ 40 * code + 2 ^ 32 * (section_ % 64) + detail % 2 ^ 32 } s

/-- A load ends in a rejection: STATE returns to what it was before the LOAD; CODE, SECTION and DETAIL report it
(02 R45, R487). -/
def imgReject (code section_ detail : Nat) (s : State) : State :=
  let s := wf A.dkImgStatus 15 8 code (wf A.dkImgStatus 21 16 section_ (wf A.dkImgStatus 3 0 s.img.prior s))
  imgRejectEvent s.img.port code section_ detail (wn A.dkImgDetail detail s)

/-- The Keystone is no longer held while an image is VALIDATING: the loader stops with LEASE (02 R48; DEDUCED: log entry 8). -/
def imgLostLease (s : State) : State := if imgState s = imValidating then imgReject 0x1A (rf s A.dkImgStatus 21 16) 0 s else s

/-- The configuration digest (02 Table 2.19). -/
def imgDigest (s : State) : List Byte := cfgBytes s (A.dkImgDigest 0) 64

end Sys2Proof.Machine
end

