-- ==== Sys2Proof/Machine/Keystone.lean ====
section
/-! DEFINITION. The Keystone (03 R67-R72), the shadow and live protection areas and their commits (R75-R81), the journal
(R82, R83) and the background audit (R84, R85). -/

namespace Sys2Proof.Machine
open Sys2Proof

/-! ### Protection areas -/

/-- UNIT of the KS window. -/
def ksUnit : Nat := 0x10000

/-- The address lies in a shadow protection area. -/
def isShadow (a : Nat) : Bool := 0x100000 ≤ a && a < 0x200000 && a % 0x4000 < 0x1400

/-- The address lies in a live protection area. -/
def isLive (a : Nat) : Bool := 0x100000 ≤ a && a < 0x200000 && 0x1400 ≤ a % 0x4000 && a % 0x4000 < 0x2800

/-- The nonzero words of the shadow areas. -/
def shadowWords (s : State) : List (Nat × Word) := s.regs.filter fun p => isShadow p.1

/-- The nonzero words of the live areas, at the addresses of the shadow. -/
def liveWords (s : State) : List (Nat × Word) :=
  (s.regs.filter fun p => isLive p.1).map fun p => (p.1 - 0x1400, p.2)

/-- Replaces every live area. -/
def setLive (ws : List (Nat × Word)) (s : State) : State :=
  let kept := s.regs.filter fun p => !isLive p.1
  { s with regs := ws.foldl (fun m p => smPut (regReset (p.1 + 0x1400)) m (p.1 + 0x1400) p.2) kept }

/-- Copies every live area into its shadow (R81). -/
def liveToShadow (s : State) : State :=
  let kept := s.regs.filter fun p => !isShadow p.1
  { s with regs := (liveWords s).foldl (fun m p => smPut (regReset p.1) m p.1 p.2) kept }

/-- The 5,120 bytes of a context's shadow area. -/
def shadowArea (s : State) (x : Nat) : List Byte := cfgBytes s (A.ctxShadow x 0) 5120

/-- The 5,120 bytes of a context's live area. -/
def liveArea (s : State) (x : Nat) : List Byte := cfgBytes s (A.ctxLive x 0) 5120

/-- D over the shadow areas, in ascending context order (R76). -/
def shadowDigest (s : State) : List Byte := sha3 ((List.range 64).flatMap (shadowArea s))

/-- D over the live areas (R84). -/
def liveDigest (s : State) : List Byte := sha3 ((List.range 64).flatMap (liveArea s))

/-! ### Journal (R82, R83) -/

/-- The first 0x60 bytes of a journal entry (Table 3.13). -/
def journalHead (seq time port kind ticket pepoch mask : Nat) (digest : List Byte) : List Byte :=
  leBytes 8 seq ++ leBytes 8 time ++ leBytes 1 port ++ leBytes 1 kind ++ leBytes 2 ticket ++ leBytes 4 pepoch ++
    leBytes 8 mask ++ slice digest 0 64

/-- CHAIN of the journal entry with a SEQ. -/
def journalChain (s : State) (seq : Nat) : List Byte := cfgBytes s (A.ksJournal 0 + 256 * (seq % 128) + 0x60) 64

/-- Writes an entry completely, then sets KS_JRNL_HEAD to its SEQ; prev is the CHAIN of the entry before. -/
def writeJournal (seq : Nat) (prev : List Byte) (port kind ticket mask : Nat) (digest : List Byte) (s : State) : State :=
  let h := journalHead seq (ftNs s) port kind ticket (rn s A.ksProtEpoch) mask digest
  let s := putCfg (A.ksJournal 0 + 256 * (seq % 128)) (h ++ sha3 (prev ++ h) ++ List.replicate 96 0) s
  wn A.ksJrnlHead seq { s with prot := { s.prot with jrnlSeq := seq } }

/-- Adds the next journal entry. -/
def addJournal (port kind ticket mask : Nat) (digest : List Byte) (s : State) : State :=
  writeJournal (s.prot.jrnlSeq + 1) (journalChain s s.prot.jrnlSeq) port kind ticket mask digest s

/-- The START entry of a full reset, with SEQ 1 and 64 zero bytes as its predecessor's CHAIN (R83). -/
def startJournal (s : State) : State := writeJournal 1 (List.replicate 64 0) 0xFF 2 0 0 [] s

/-! ### Commits -/

/-- STATE of KS_PROT_STATUS (Table 3.19). -/
def protState (s : State) : Nat := rf s A.ksProtStatus 3 0
def psIdle : Nat := 0
def psChecking : Nat := 1
def psPending : Nat := 2

/-- A commit is rejected: RESULT and CTX are set, STATE returns to IDLE and PROT_REJECT is raised (R77). -/
def protReject (result ctx : Nat) (s : State) : State :=
  let w := 2 ^ 16 * ctx + 2 ^ 8 * result
  raiseEvent { code := 0x0307, port := s.prot.committer, ctx := if ctx < 64 then ctx else 0xFF, unit := ksUnit,
               detail := w } (wn A.ksProtStatus w s)

/-- A change of holder or a DISCARD (R81): every shadow takes its live area, at once or, while a commit is PENDING, in the
switch cycle; a CHECKING commit ends with LEASE. -/
def dropStaged (s : State) : State :=
  if protState s = psPending then { s with prot := { s.prot with copyDue := true } }
  else
    let s := liveToShadow s
    if protState s = psChecking then protReject 6 0x7F s else s

/-! ### Holding the Keystone -/

/-- The register arbiter of a die records port p as holder (R72). -/
def holds (s : State) (p : GPort) (die : Nat) : Bool :=
  if die = 0 then s.ks.holder == some p else s.ks.die1 == some p

/-- Raises KL_DENIED for a write by port p at an address (Table 3.6). -/
def klDenied (p : GPort) (a : Nat) (s : State) : State :=
  raiseEvent { code := 0x0301, port := p, unit := if a < hbmBase then unitOf a else 0, detail := a } s

/-- The ticket after t (R69). -/
def nextTicket (t : Nat) : Nat := if t = 0xFFFF then 1 else t + 1

/-- Grants the Keystone to port p: a new ticket, the lease, KS_GRANT (R68-R70). -/
def ksGrant (p : GPort) (s : State) : State :=
  let t := nextTicket s.ks.ticket
  let s := dropStaged s
  raiseEvent { code := 0x0302, port := p, unit := ksUnit, detail := t }
    { s with ks := { s.ks with holder := some p, holderBit := p, ticket := t, lease := rf s A.ksLease 13 0 } }

/-- The Keystone comes free and the hold-off starts (R70, R72); an image under validation loses its lease (02 R48). The
HOLDER bit, which is valid only while the Keystone is held, becomes a free value (DESIGN CHOICE: log entry 2). -/
def ksFree (s : State) : State :=
  let s := imgLostLease (dropStaged s)
  tookFree { s with ks := { s.ks with holder := none, holderBit := freeBits 1 s, holdOff := true } }

/-- The word that a read of KS_ACQUIRE by port p returns once the Keystone is held (Table 3.14). -/
def acquireWord (s : State) (p : GPort) : Nat :=
  match s.ks.holder with
  | some h => 2 ^ 31 * b2n (h == p) + 2 ^ 30 + 2 ^ 16 * h.val + s.ks.ticket
  | none => 0

/-- A port's accesses reach the arbiters: the port is ON. -/
def portOn (s : State) (p : GPort) : Bool := isOn s (fnGul p)

/-- A read of KS_ACQUIRE waits: the Keystone is free and a hold-off runs. -/
def acquireWaits (s : State) : Bool := s.ks.holder.isNone && s.ks.holdOff

/-- A read of KS_ACQUIRE performed at the die-0 arbiter (R68): what it returns. A free Keystone is granted outside a hold-off; a
port that has left ON is granted nothing (DEDUCED: log entry 51). -/
def acquired (p : GPort) (s : State) : State × Word :=
  let s := if s.ks.holder.isNone && !s.ks.holdOff && portOn s p then ksGrant p s else s
  (s, BitVec.ofNat 32 (acquireWord s p))

/-- A read of KS_ACQUIRE by port p waits, and whatever the port has sent after it (R61). -/
def portWaits (s : State) (p : GPort) : Bool := s.ks.waiting.any fun q => q.1 == p

/-- An access of port p takes effect at once: the port is ON and nothing of it waits. -/
def portReady (s : State) (p : GPort) : Bool := portOn s p && !portWaits s p

/-- Holds an access. -/
def waitFor (p : GPort) (x : Access) (s : State) : State := { s with ks := { s.ks with waiting := s.ks.waiting ++ [(p, x)] } }

/-- An access to KS_ACQUIRE by port p (R68). -/
def acquire (p : GPort) (s : State) : State :=
  if acquireWaits s then waitFor p (.read A.ksAcquire) s
  else
    let r := acquired p s
    emit (.access p A.ksAcquire r.2 stOk) r.1

/-- The word of KS_STATUS (Table 3.15). -/
def ksStatusWord (s : State) : Nat :=
  2 ^ 31 * b2n s.ks.holder.isSome + 2 ^ 18 * b2n s.ks.turn1 + 2 ^ 17 * b2n s.ks.turn0 + 2 ^ 16 * s.ks.holderBit +
    s.ks.ticket

/-- The two ports in the order that the alternation rule gives them at the die-0 arbiter, and TURN inverted (R67). -/
def alternate0 (s : State) : GPort × GPort × State :=
  let f : GPort := if s.ks.turn0 then 1 else 0
  (f, 1 - f, { s with ks := { s.ks with turn0 := !s.ks.turn0 } })

/-- The same at the die-1 arbiter. -/
def alternate1 (s : State) : GPort × GPort × State :=
  let f : GPort := if s.ks.turn1 then 1 else 0
  (f, 1 - f, { s with ks := { s.ks with turn1 := !s.ks.turn1 } })

/-- The two ports in the order of the alternation rule at the arbiter of an address (R67). -/
def alternate (a : Nat) (s : State) : GPort × GPort × State := if dieOf a = 0 then alternate0 s else alternate1 s

/-- An access f of port p to address a and one g of the other port to b, ready in one core cycle: at one arbiter they are performed
in the order of the alternation rule, and two arbiters each perform their own (R67). -/
def contend (p : GPort) (a b : Nat) (f g : State → State) (s : State) : State :=
  if dieOf a = dieOf b then
    let r := alternate a s
    if r.1 = p then g (f r.2.2) else f (g r.2.2)
  else g (f s)

/-- Runs an access of one port where the port is ON; behind an access of the port that waits, it waits too (R61). -/
def byPort (p : GPort) (x : Access) (f : State → State) (s : State) : State :=
  if portReady s p then f s else if portOn s p then waitFor p x s else s

/-- KS_ACQUIRE: the read of one port, or of both in the order of the alternation rule (R67, R68). In a hold-off both wait, and contend
when it ends. -/
def execKsAcquire (r : Ready) (s : State) : Host.Outcome State Fault Refusal :=
  let one := fun (p : GPort) => byPort p (.read A.ksAcquire) (acquire p)
  match r with
  | .one p => .next (one p s)
  | .both =>
    if portReady s 0 && portReady s 1 && !acquireWaits s then
      .next (contend 0 A.ksAcquire A.ksAcquire (acquire 0) (acquire 1) s)
    else .next (one 1 (one 0 s))

/-- The release of the Keystone with KS_RELEASE; left is 1 when the holder's port left ON (R70, R71). -/
def ksRelease (left : Bool) (s : State) : State :=
  match s.ks.holder with
  | some h => ksFree (raiseEvent { code := 0x0303, port := h, unit := ksUnit,
                                   detail := 2 ^ 16 * b2n left + s.ks.ticket } s)
  | none => s

/-- The Keystone's holder leaves ON with its port (R70). -/
def ksPortLeft (p : Nat) (s : State) : State :=
  match s.ks.holder with
  | some h => if h.val = p then ksRelease true s else s
  | none => s

/-- A pair of the Causeway without its drive: it moves to CLOSED unless it is there, which raises no event (04 R101, Table 4.7). -/
def closePair (j : Nat) (s : State) : State :=
  let s := wf (A.cwyCtrl j) 0 0 0 s
  if rf s (A.cwyStatus j) 1 0 = 0 then s
  else wf (A.cwyStatus j) 1 0 3 { s with fab := { s.fab with cwyWrite := smPut false s.fab.cwyWrite j false } }

/-- The drive leaves every pair of the Causeway (04 R101). -/
def dropDrive (s : State) : State :=
  (List.range 8).foldl (fun s j => closePair j s) { s with pwr := { s.pwr with cwyDrive := false } }

/-- A write of KS_CTRL by port p (R71): its state, and its status. -/
def writeKsCtrl (p : GPort) (w : Word) (s : State) : State × Nat :=
  if !holds s p 0 then (klDenied p A.ksCtrl s, stIgnored)
  else
    let t := fget w 31 16
    let op := fget w 3 0
    if t ≠ s.ks.ticket then
      (raiseEvent { code := 0x0305, port := p, unit := ksUnit, detail := 2 ^ 16 * t + s.ks.ticket } s, stIgnored)
    else
      let k := wn A.ksCtrl (2 ^ 16 * t + op) s
      if op = 1 then ({ k with ks := { k.ks with lease := rf s A.ksLease 13 0 } }, stOk)
      else if op = 2 then (ksRelease false k, stOk)
      else if op = 0xD then (dropDrive { k with pwr := { k.pwr with resetDue := true } }, stOk)
      else (s, stIgnored)

/-- The access that a register write is: its effect, and what it returned to the port. -/
def wrAccess (p : GPort) (a : Nat) (f : State → State × Nat) (s : State) : State :=
  let r := f s
  emit (.access p a 0 r.2) r.1

/-- A row by which port p writes w to the register at a with the effect f. -/
def wrRow (p : GPort) (a : Nat) (w : Word) (f : Word → State → State × Nat) (s : State) : State :=
  byPort p (.write a w) (wrAccess p a (f w)) s

/-- RENEW: KS_CTRL written with OP 1. -/
def execRenew (p : GPort) (ticket : BitVec 16) (s : State) : Host.Outcome State Fault Refusal :=
  .next (wrRow p A.ksCtrl (BitVec.ofNat 32 (2 ^ 16 * ticket.toNat + 1)) (writeKsCtrl p) s)

/-- RELEASE: KS_CTRL written with OP 2. -/
def execRelease (p : GPort) (ticket : BitVec 16) (s : State) : Host.Outcome State Fault Refusal :=
  .next (wrRow p A.ksCtrl (BitVec.ofNat 32 (2 ^ 16 * ticket.toNat + 2)) (writeKsCtrl p) s)

/-- DEVICE_RESET: KS_CTRL written with OP 0xD; the reset pulse is then due (17 R431), and the Causeway's drive goes (04 R101). -/
def execDeviceReset (p : GPort) (ticket : BitVec 16) (s : State) : Host.Outcome State Fault Refusal :=
  .next (wrRow p A.ksCtrl (BitVec.ofNat 32 (2 ^ 16 * ticket.toNat + 0xD)) (writeKsCtrl p) s)

/-- LEASE_EXPIRE: the lease of the holder ends; the Keystone releases itself (R70). -/
def execLeaseExpire (s : State) : Host.Outcome State Fault Refusal :=
  match s.ks.holder with
  | some h => .next (ksFree (raiseEvent { code := 0x0304, port := h, unit := ksUnit, detail := s.ks.ticket } s))
  | none => .next s

/-- DIE1_RECORD_UPDATE: the die-1 arbiter's record follows die 0 (R72). -/
def execDie1RecordUpdate (s : State) : Host.Outcome State Fault Refusal :=
  .next { s with ks := { s.ks with die1 := s.ks.holder } }

/-! ### Shadow writes, COMMIT and DISCARD -/

/-- A write to a shadow area (R75, R80): KL; ignored with PROT_WRITE while a commit is CHECKING. -/
def writeShadow (p : GPort) (a : Nat) (w : Word) (s : State) : State × Nat :=
  if !holds s p 0 then (klDenied p a s, stIgnored)
  else if protState s = psChecking then
    (raiseEvent { code := 0x0308, port := p, ctx := (a - 0x100000) / 0x4000, unit := unitOf a, detail := a } s, stIgnored)
  else (wr a w s, stOk)

/-- SHADOW_WRITE: one word of a context's shadow area. -/
def execShadowWrite (p : GPort) (x : CtxNo) (off : Fin 1280) (w : Word) (s : State) : Host.Outcome State Fault Refusal :=
  .next (wrRow p (A.ctxShadow x off) w (writeShadow p (A.ctxShadow x off)) s)

/-- A write of KS_PROT_CTRL (R77, R80, R81). -/
def writeProtCtrl (p : GPort) (w : Word) (s : State) : State × Nat :=
  if !holds s p 0 then (klDenied p A.ksProtCtrl s, stIgnored)
  else
    let op := fget w 3 0
    if op = 1 then
      if protState s = psIdle then
        (wf A.ksProtStatus 3 0 psChecking (wn A.ksProtCtrl op
          { s with prot := { s.prot with committer := p, ticket := s.ks.ticket } }), stOk)
      else (s, stIgnored)
    else if op = 2 then (dropStaged (wn A.ksProtCtrl op s), stOk)
    else (s, stIgnored)

/-- COMMIT: KS_PROT_CTRL written with OP 1. -/
def execCommit (p : GPort) (s : State) : Host.Outcome State Fault Refusal :=
  .next (wrRow p A.ksProtCtrl 1 (writeProtCtrl p) s)

/-- DISCARD: KS_PROT_CTRL written with OP 2. -/
def execDiscard (p : GPort) (s : State) : Host.Outcome State Fault Refusal :=
  .next (wrRow p A.ksProtCtrl 2 (writeProtCtrl p) s)

/-! ### The checks of Table 3.12 -/

/-- Fields of a protection area (Table 3.10). -/
def paWinCount (b : List Byte) : Nat := le b 0x1002 2
def paJob (b : List Byte) : Nat := le b 0x1000 2
def paClass (b : List Byte) : Nat := le b 0x1004 1
def paRankTbl (b : List Byte) : Nat := le b 0x1006 2
def paRankCount (b : List Byte) : Nat := le b 0x1008 4
def paSrBase (b : List Byte) : Nat := le b 0x100C 4
def paSrCount (b : List Byte) : Nat := le b 0x1010 4
def paFlag (b : List Byte) (f : Nat) : Nat := le b (0x1040 + 2 * f) 2

/-- A reserved field or bit of a protection area is not 0 (check 0x2). -/
def paReserved (b : List Byte) : Bool :=
  le b 0x1005 1 ≠ 0 || !allZero (slice b 0x1014 44) || !allZero (slice b 0x10C0 832) ||
    ((List.range 64).any fun f => bits (paFlag b f) 14 8 ≠ 0) ||
    (List.range 256).any fun i => bits (le b (16 * i) 4) 11 6 ≠ 0 || bits (le b (16 * i + 8) 4) 11 0 ≠ 0

/-- Window i of an area, where it is valid, breaks check 0x3. -/
def paWindowBad (pools : List Byte) (b : List Byte) (i : Nat) : Bool :=
  let base := 4096 * (le b (16 * i) 8 / 4096)
  let lim := 4096 * (le b (16 * i + 8) 8 / 4096)
  bit (le b (16 * i) 1) 0 &&
    (lim ≤ base || base < hbmBase || hbmDataEnd < lim || meetsStore base lim || meetsPools pools base lim)

/-- The area breaks check 0x3 (WINDOW). -/
def paWindows (pools : List Byte) (b : List Byte) : Bool :=
  256 < paWinCount b || (List.range (min 256 (paWinCount b))).any (paWindowBad pools b)

/-- The physical counters that an area's valid FLAGMAP entries name. -/
def paCounters (b : List Byte) : List Nat :=
  ((List.range 64).filter fun f => bit (paFlag b f) 15).map fun f => paFlag b f % 256

/-- RANK_TBL of an area names a valid descriptor of its own JOB. -/
def rankTblOk (s : State) (tbl job : Nat) : Bool :=
  tbl < 1024 && rbit s (A.rtRankJob tbl) 16 && rf s (A.rtRankJob tbl) 15 0 == job

/-- The area breaks check 0x5 (NAMES) on its own. -/
def paNames (s : State) (b : List Byte) : Bool :=
  !rankTblOk s (paRankTbl b) (paJob b) || paRankCount b = 0 || 2 ^ 24 < paRankCount b || 7 < paClass b ||
    2 ^ 22 < paSrBase b + paSrCount b

/-- The stream-record ranges of two areas overlap. -/
def srOverlap (a b : List Byte) : Bool :=
  paSrCount a != 0 && paSrCount b != 0 && paSrBase a < paSrBase b + paSrCount b && paSrBase b < paSrBase a + paSrCount a

/-- The first failing check of Table 3.12 over the 64 areas, with its context (0x7F for none). -/
def protFailure (s : State) (areas : List (List Byte)) (d given : List Byte) : Option (Nat × Nat) :=
  let at' := fun x => areas.getD x []
  let first := fun (f : Nat → Bool) => (List.range 64).find? f
  let isSet := fun x => !allZero (at' x)
  let pools := sect s secPools
  let all := areas.flatMap paCounters
  if d ≠ given then some (1, 0x7F)
  else match first fun x => paReserved (at' x) with
  | some x => some (2, x)
  | none => match first fun x => isSet x && paWindows pools (at' x) with
  | some x => some (3, x)
  | none => match first fun x => isSet x && (paCounters (at' x)).any fun k => 2 ≤ all.count k with
  | some x => some (4, x)
  | none => match first fun x => isSet x && (paNames s (at' x) ||
      (List.range 64).any fun y => y ≠ x && isSet y && srOverlap (at' x) (at' y)) with
  | some x => some (5, x)
  | none => none

/-- The end of a check: the commit is rejected, or becomes PENDING with the digest and the words it checked (R77). -/
def protVerdict (f : Option (Nat × Nat)) (d : List Byte) (s : State) : State :=
  match f with
  | some (r, x) => protReject r x s
  | none => wf A.ksProtStatus 3 0 psPending
      { s with prot := { s.prot with digest := d, staged := shadowWords s, copyDue := false } }

/-- PROT_CHECK_END: the checks over the shadow finish; the commit is rejected or becomes PENDING (R77). -/
def execProtCheckEnd (s : State) : Host.Outcome State Fault Refusal :=
  if protState s = psChecking then
    let d := shadowDigest s
    .next (protVerdict (protFailure s ((List.range 64).map (shadowArea s)) d (cfgBytes s (A.ksProtDigest 0) 64)) d s)
  else .next s

/-- Bit x is set for each context whose live area changes (Table 3.13). -/
def changedMask (old new : List (Nat × Word)) : Nat :=
  ((List.range 64).map fun x =>
    let of := fun (ws : List (Nat × Word)) => ws.filter fun p => (p.1 - 0x100000) / 0x4000 == x
    if of old == of new then 0 else 2 ^ x).sum

/-- PROT_EPOCH: a PENDING commit takes effect (R78): the new live areas, KS_PROT_EPOCH, KS_PROT_LIVE, the journal entry,
PROT_COMMIT and IDLE; a copy due since a change of holder or a DISCARD follows (R81). -/
def execProtEpoch (s : State) : Host.Outcome State Fault Refusal :=
  if protState s = psPending then
    let mask := changedMask (liveWords s) s.prot.staged
    let s := setLive s.prot.staged s
    let pe := (rn s A.ksProtEpoch + 1) % 2 ^ 32
    let s := putCfg (A.ksProtLive 0) s.prot.digest (wn A.ksProtEpoch pe s)
    let s := addJournal s.prot.committer 0 s.prot.ticket mask s.prot.digest s
    let s := raiseEvent { code := 0x0306, port := s.prot.committer, unit := ksUnit, detail := pe } s
    let s := wf A.ksProtStatus 3 0 psIdle (wf A.ksProtStatus 11 8 0 s)
    let s := if s.prot.copyDue then liveToShadow s else s
    .next { s with prot := { s.prot with copyDue := false, staged := [], committed := true } }
  else .next s

/-! ### Background audit (R84, R85) -/

/-- The audit fails: PROT_AUDIT, an AUDIT_FAIL entry, and every access made for a context is denied from then on (R85). -/
def auditFailure (s : State) : State :=
  let s := raiseFault { code := 0x120A, cls := .devf, unit := ksUnit, detail := s.prot.jrnlSeq + 1 } s
  let s := addJournal 0xFF 1 0 0 (liveDigest s) s
  { s with prot := { s.prot with auditFail := true } }

/-- The live areas agree with KS_PROT_LIVE; before the first commit they are all zero (R84). -/
def auditAgrees (s : State) : Bool :=
  if s.prot.committed then liveDigest s == cfgBytes s (A.ksProtLive 0) 64 else (liveWords s).isEmpty

/-- AUDIT_PASS: one pass of the audit over the live areas ends, with what it has met there. It has held the CTRL instance for some
core cycles of this period, and defers where its turnstile is spent (R84; 16 R422). Each later pass of a failed audit fails anew
(DESIGN CHOICE: log entry 72). -/
def execAuditPass (seen : AuditSeen) (cycles : Nat) (s : State) : Host.Outcome State Fault Refusal :=
  if tstSpent s actAudit 16 then .next s
  else
  let s := tstCharge actAudit 16 cycles s
  match seen with
  | .clean => .next (if auditAgrees s then s else auditFailure s)
  | .corrected a =>
    let s := raiseFault { code := 0x120B, cls := .corr, unit := unitOf a, detail := a } s
    .next (if auditAgrees s then s else auditFailure s)
  | .uncorrectable _ => .next (auditFailure s)
  | .upset a w =>
    let s := if isLive a && a % 4 == 0 then wr a w s else s
    .next (if auditAgrees s then s else auditFailure s)

end Sys2Proof.Machine
end

