-- ==== Sys2Proof/Machine/Packet.lean ====
section
/-! DEFINITION. Balnov packets as bytes in wire order (05 R108-R111), Ethernet frames that carry them (04 R90), link packets
(05 R113), credit channels, and the packets held in the buffer (06 R149). -/

namespace Sys2Proof.Machine
open Sys2Proof

/-! ### Header fields (05 Table 5.2) -/

def pkVer (b : List Byte) : Nat := be b 0 1 / 16
def pkEpoch (b : List Byte) : Nat := be b 0 1 / 8 % 2
def pkClass (b : List Byte) : Nat := be b 0 1 % 8
def pkOp (b : List Byte) : Nat := be b 1 1
def pkFlags (b : List Byte) : Nat := be b 2 2
def pkDst (b : List Byte) : Nat := be b 4 3
def pkHops (b : List Byte) : Nat := be b 7 1
def pkSrc (b : List Byte) : Nat := be b 8 3
def pkJob (b : List Byte) : Nat := be b 12 2
def pkLen (b : List Byte) : Nat := be b 14 2
def pkSeq (b : List Byte) : Nat := be b 16 4
def pkSr (b : List Byte) : Nat := be b 20 4 % 2 ^ 22
def pkArg (b : List Byte) : Nat := be b 24 8
def pkRsr (b : List Byte) : Nat := pkArg b / 2 ^ 42
def pkOparg (b : List Byte) : Nat := pkArg b % 2 ^ 40
def pkPayload (b : List Byte) : List Byte := (b.drop 32).take (pkLen b)

/-! Bits of FLAGS (05 Table 5.3). -/

def flEvict : Nat := 0
def flComp : Nat := 1
def flMcast : Nat := 2
def flSubch : Nat := 3
def flLast : Nat := 4
def flResend : Nat := 5
def flTrunc : Nat := 6

/-- A flag of a packet. -/
def pkFlag (b : List Byte) (k : Nat) : Bool := bit (pkFlags b) k

/-! Flow classes (05 Table 5.9) and opcodes (05 Table 5.4). -/

def clReq : Nat := 0
def clRsp : Nat := 1
def clFwd : Nat := 2
def clCollUp : Nat := 3
def clCollDn : Nat := 4
def clCtrl : Nat := 5
def clMirror : Nat := 6
def clBulk : Nat := 7

def opPut : Nat := 0x01
def opSend : Nat := 0x02
def opGetReq : Nat := 0x03
def opGetRsp : Nat := 0x04
def opColl : Nat := 0x08
def opAck : Nat := 0x10
def opNack : Nat := 0x11
def opEvict : Nat := 0x12
def opHint : Nat := 0x13
def opBarrier : Nat := 0x14
def opMirror : Nat := 0x18

/-- The opcode is in Table 5.4 and legal in the class. -/
def opLegal (op cls : Nat) : Bool :=
  if op = opPut ∨ op = opSend then cls == clFwd || cls == clBulk
  else if op = opGetReq then cls == clReq
  else if op = opGetRsp then cls == clRsp
  else if op = opColl then cls == clCollUp || cls == clCollDn
  else if op = opAck ∨ op = opNack ∨ op = opEvict ∨ op = opHint ∨ op = opBarrier then cls == clCtrl
  else op == opMirror && cls == clMirror

/-- The credit channel of a class and SUBCH (05 Table 5.9). -/
def chanOf (cls subch : Nat) : Nat :=
  if cls < 2 then cls else if cls = clFwd then 2 + subch else cls + 1

/-- The credit channel of a packet as its SUBCH stands. -/
def pkChan (b : List Byte) : Nat := chanOf (pkClass b) (b2n (pkFlag b flSubch))

/-- Switch cells of a packet (05 R112, 06 R141). -/
def pkCells (b : List Byte) : Nat := (40 + pkLen b + 255) / 256

/-! ### Building and checking -/

/-- The fields of a header to build; a packet is injected with HOPS and SUBCH 0. -/
structure Hdr where
  epoch : Nat
  cls : Nat
  op : Nat
  flags : Nat := 0
  dst : Nat := 0
  src : Nat := 0
  job : Nat := 0
  seq : Nat := 0
  sr : Nat := 0
  rsr : Nat := 0
  oparg : Nat := 0
  deriving DecidableEq, Repr

/-- Header bytes with HOPS and FLAGS.SUBCH taken as 0, which the check leaves out (05 R110). -/
def checkedHeader (b : List Byte) : List Byte :=
  let h := slice b 0 32
  patch (patch h 7 [0]) 2 (beBytes 2 (pkFlags b - b2n (pkFlag b flSubch) * 2 ^ flSubch))

/-- The check of a packet (05 R110). -/
def pkCheck (b : List Byte) : Nat := crc64 (checkedHeader b ++ pkPayload b)

/-- A packet with its check made anew. -/
def withCheck (b : List Byte) : List Byte :=
  let body := slice b 0 (32 + pkLen b)
  body ++ beBytes 8 (pkCheck body)

/-- The packet of a header and a payload. -/
def mkPacket (h : Hdr) (payload : List Byte) : List Byte :=
  withCheck (beBytes 1 (0x10 + h.epoch * 8 + h.cls) ++ beBytes 1 h.op ++ beBytes 2 h.flags ++ beBytes 3 h.dst ++
    beBytes 1 0 ++ beBytes 3 h.src ++ beBytes 1 0 ++ beBytes 2 h.job ++ beBytes 2 payload.length ++
    beBytes 4 h.seq ++ beBytes 4 h.sr ++ beBytes 8 (2 ^ 42 * h.rsr + h.oparg % 2 ^ 40) ++ payload)

/-- No reserved bit of the header is 1. -/
def pkReservedOk (b : List Byte) : Bool :=
  pkFlags b / 2 ^ 7 == 0 && be b 11 1 == 0 && be b 20 4 / 2 ^ 22 == 0 && pkArg b / 2 ^ 40 % 4 == 0

/-- The check passes, and no reserved bit is 1 (05 R123). -/
def pkCheckOk (b : List Byte) : Bool := pkReservedOk b && be b (32 + pkLen b) 8 == pkCheck b

/-- A packet with a SEQ. -/
def withSeq (seq : Nat) (b : List Byte) : List Byte := patch b 16 (beBytes 4 seq)

/-- A packet with an EPOCH. -/
def withEpoch (e : Nat) (b : List Byte) : List Byte := patch b 0 (beBytes 1 (be b 0 1 - pkEpoch b * 8 + e * 8))

/-- What a switch changes of a packet that leaves it on a lane: HOPS, and SUBCH of a FWD packet whose hop crosses a dateline
(R109, R119). -/
def leaving (dl : Bool) (b : List Byte) : List Byte :=
  let f := pkFlags b
  let f := if dl && pkClass b == clFwd && !bit f flSubch then f + 2 ^ flSubch else f
  patch (patch b 7 (beBytes 1 (pkHops b + 1))) 2 (beBytes 2 f)

/-! ### Ports -/

/-- Lane mode and breakout of a port group. -/
def pgMode (s : State) (g : Nat) : Nat := rf s (A.pgCfg g) 1 0
def pgBreakout (s : State) (g : Nat) : Nat := rf s (A.pgCfg g) 5 4

/-- Lanes of a port, and ports, of a group (04 R91). -/
def pgWidth (s : State) (g : Nat) : Nat := 8 / 2 ^ pgBreakout s g
def pgPorts (s : State) (g : Nat) : Nat := if pgMode s g = 0 then 0 else 2 ^ pgBreakout s g

/-- The port slot is an existing port: of a group, or a span port (06 R149, R156). -/
def slotExists (s : State) (k : Nat) : Bool :=
  if k < 512 then groupPresent s (k / 8) && k % 8 < pgPorts s (k / 8) else k < 528

/-- An external port is UP. -/
def portUp (s : State) (k : Nat) : Bool := k < 512 && rbit s (A.pgPortStatus (k / 8)) (k % 8)

/-! ### Ethernet frames (04 R90) -/

/-- One bit step of the CRC-32 register of IEEE 802.3. -/
def crc32Bit (r : BitVec 32) : BitVec 32 := if r.getLsbD 0 then (r >>> 1) ^^^ 0xEDB88320#32 else r >>> 1

/-- The frame check sequence of IEEE 802.3, in transmission order (PRESUMED: log entry 9). -/
def ethFcs (m : List Byte) : List Byte :=
  let r := m.foldl (fun (r : BitVec 32) (b : Byte) =>
    (List.range 8).foldl (fun r _ => crc32Bit r) (r ^^^ b.setWidth 32)) (BitVec.allOnes 32)
  leBytes 4 (r ^^^ BitVec.allOnes 32).toNat

/-- The PEER address that a group's PORTS entry gives (04 Table 4.3). -/
def pgPeer (s : State) (g : Nat) : List Byte := slice (sect s secPorts) (16 * g + 8) 6

/-- The frame that carries a packet on a slot, padded to 64 bytes (05 R111). -/
def ethFrame (s : State) (k : Nat) (b : List Byte) : List Byte :=
  let m := pgPeer s (k / 8) ++ s.fuses.portAddr k ++ beBytes 2 (rf s (A.pgCfg (k / 8)) 31 16) ++ b
  let m := m ++ List.replicate (60 - m.length) 0
  m ++ ethFcs m

/-- The packet that a received frame carries, none where the frame is discarded: another EtherType (a VLAN tag is one), a bad
FCS, or a length that disagrees with the header (04 R90, 05 R111). -/
def ethPacket (s : State) (g : Nat) (f : List Byte) : Option (List Byte) :=
  let n := f.length
  let b := (f.take (n - 4)).drop 14
  let need := 14 + 40 + pkLen b + 4
  let need := if pkVer b = 0xF then 64 else if need < 64 then 64 else need
  if n ≤ 16442 ∧ n = need ∧ ethFcs (f.take (n - 4)) = f.drop (n - 4) ∧
      be f 12 2 = rf s (A.pgCfg g) 31 16 then
    some (b.take (if pkVer b = 0xF then 40 else 40 + pkLen b))
  else none

/-- Sends bytes on an external port in the form of its lane mode. -/
def sendLane (k : Nat) (b : List Byte) (s : State) : State :=
  emit (.lane k (if pgMode s (k / 8) = 1 then b else ethFrame s k b)) s

/-! ### Link packets (05 R113) -/

/-- A link packet: 32 bytes and the CRC-64 over them. -/
def mkLink (body : List Byte) : List Byte :=
  let b := slice body 0 32
  b ++ beBytes 8 (crc64 b)

/-- The check of a link packet passes. -/
def linkOk (b : List Byte) : Bool := pkVer b == 0xF && be b 32 8 == crc64 (slice b 0 32)

/-! ### Packets held in the buffer -/

/-- Updates the fabric side. -/
def onFab (f : Fab → Fab) (s : State) : State := { s with fab := f s.fab }

/-- Counts cells that an account of a port frees (05 R114). -/
def countFreed (h : Held) (f : Fab) : Fab :=
  if h.src < 512 then
    let k := 9 * h.src + h.chan
    { f with freed := smPut 0 f.freed k ((smGet 0 f.freed k + pkCells h.bytes) % 2 ^ 16) }
  else f

/-- Output node of a held packet, or 80 + n for the RSE at node n. -/
def outOf (dst : Nat) : Nat := if dst < 5120 then dst / 64 else 80 + (dst - 5120)

/-- The carousel node of a source. -/
def nodeOf (src : Nat) : Nat := if src < 512 then src / 8 else if src < 528 then 64 + (src - 512) else src - 528

/-- A cell is one of a held packet's. -/
def ownsCell (h : Held) (c : Cell) : Bool :=
  h.stage == .crossing && nodeOf h.src == c.inp && outOf h.dst == c.out && pkClass h.bytes == c.cls && h.seqs.contains c.seq

/-- Every cell of a held packet has reached its output, or the RSE that it is for. -/
def allCome (h : Held) : Bool := h.come == pkCells h.bytes

/-- Takes the packets that a test names out of the buffer, with their cells; they are freed (06 R149). -/
def removeHeld (p : Held → Bool) (f : Fab) : Fab :=
  let gone := f.held.filter p
  gone.foldl (fun f h => countFreed h f) { f with
    held := f.held.filter fun h => !p h
    fifo := f.fifo.filter fun c => !gone.any (ownsCell · c)
    flying := f.flying.filter fun x => !gone.any (ownsCell · x.cell) }

/-- Egress queue of a port slot and class (06 R157). -/
def queueOf (k cls : Nat) : Nat := if k < 512 then 64 * (k / 8) + 8 * (k % 8) + cls else 64 * (64 + (k - 512)) + cls

/-- Port slot of an egress queue. -/
def slotOf (q : Nat) : Nat := if q < 4096 then 8 * (q / 64) + q % 64 / 8 else 512 + (q / 64 - 64)

/-- A held packet is for an egress queue of a port slot. -/
def heldOn (k : Nat) (h : Held) : Bool := h.dst < 5120 && slotOf h.dst == k

end Sys2Proof.Machine
end

