-- ==== Sys2Proof/Machine/Bpm.lean ====
section
/-! DEFINITION. The buffer pool manager (06 R164-R169): its metadata region, its free lists and rings, requests and returns.
A requester is the number 7 x + c of a context and an engine class (02 R39). -/

namespace Sys2Proof.Machine
open Sys2Proof

def bpmUnit : Nat := 0x500000

/-! MODE of BPM_STATUS. -/

def bmNone : Nat := 0
def bmList : Nat := 1
def bmRing : Nat := 2

def bpmMode (s : State) : Nat := rf s A.bpmStatus 1 0
def bpmSwitching (s : State) : Bool := rbit s A.bpmStatus 2

/-- The POOLS section in force. -/
def pools (s : State) : List Byte := sect s secPools

/-- Updates the pool manager. -/
def onBpm (f : Bpm → Bpm) (s : State) : State := onFab (fun b => { b with bpm := f b.bpm }) s

/-! ### The metadata region (06 R164) -/

/-- Bytes of the owner table and of the ring of pool k: 0 for a disabled pool. -/
def ownerLen (s : State) (k : Nat) : Nat := roundUp (2 * poolCount (pools s) k) 4096
def ringLen (s : State) (k : Nat) : Nat := roundUp (8 * poolCount (pools s) k) 4096

/-- Length of the metadata region. -/
def metaLen (s : State) : Nat := ((List.range 5).map fun k => ownerLen s k + ringLen s k).sum

/-- Address of the owner word of buffer i of pool k. -/
def ownerAt (s : State) (k i : Nat) : Nat := rn64 s (A.bpmMetaBase 0) + ((List.range k).map (ownerLen s)).sum + 2 * i

/-- Address of entry i of the ring of pool k. -/
def ringAt (s : State) (k i : Nat) : Nat :=
  rn64 s (A.bpmMetaBase 0) + ((List.range 5).map (ownerLen s)).sum + ((List.range k).map (ringLen s)).sum + 8 * i

/-- The handle of the buffer of pool k at an address. -/
def handleOf (k a : Nat) : Nat := 0xB * 2 ^ 60 + 2 ^ 57 * k + a

/-- Address of the buffer that a handle names, its pool, and its number in the pool's block. -/
def handleAddr (h : Nat) : Nat := h % 2 ^ 48
def handlePool (h : Nat) : Nat := h / 2 ^ 57 % 8
def handleIdx (s : State) (h : Nat) : Nat := (handleAddr h - poolStart (pools s) (handlePool h)) / poolSize (handlePool h)

/-- A field of the metadata; an uncorrectable word delivers a free value (15 R394). -/
def metaLe (s : State) (a n : Nat) : Nat := le (deviceRd s a n) 0 n

/-- Owner word of the buffer that a handle names. -/
def ownerWord (s : State) (h : Nat) : Nat := metaLe s (ownerAt s (handlePool h) (handleIdx s h)) 2

/-- Reads the owner word of a buffer: one that cannot be corrected raises MEM_UE_SYSTEM (15 R394). -/
def ownerRead (h : Nat) (s : State) : State := deviceUe (ownerAt s (handlePool h) (handleIdx s h)) 2 s

/-- Writes the owner word of the buffer that a handle names. -/
def putOwner (h w : Nat) (s : State) : State := hbmWr (ownerAt s (handlePool h) (handleIdx s h)) (leBytes 2 w) s

/-! ### Free lists and rings (06 R166) -/

def selfMask : Nat := 0xA5A5A5A5A5A5A5A5

/-- Pushes a buffer onto the head of its pool's free list. -/
def listPush (h : Nat) (s : State) : State :=
  let k := handlePool h
  let s := hbmWr (handleAddr h) (leBytes 8 (smGet 0 s.fab.bpm.head k) ++ leBytes 8 (h ^^^ selfMask)) s
  onBpm (fun b => { b with head := smPut 0 b.head k h }) s

/-- Pops the head of a free list; a buffer whose bytes 8-15 are wrong raises BPM_LIST_CORRUPT and is not handed out. -/
def listPop (k : Nat) (s : State) : Option Nat × State :=
  let h := smGet 0 s.fab.bpm.head k
  if h = 0 then (none, s)
  else
    let next := metaLe s (handleAddr h) 8
    let own := metaLe s (handleAddr h + 8) 8
    let s := deviceUe (handleAddr h) 16 s
    if own ≠ h ^^^ selfMask then (none, raiseFault { code := 0x1207, cls := .devf, unit := bpmUnit, detail := h } s)
    else (some h, onBpm (fun b => { b with head := smPut 0 b.head k next }) s)

/-- Appends a handle to the ring of pool k. -/
def ringPut (k h : Nat) (s : State) : State :=
  let i := (smGet 0 s.fab.bpm.ringPos k + smGet 0 s.fab.bpm.ringCount k) % poolCount (pools s) k
  onBpm (fun b => { b with ringCount := smPut 0 b.ringCount k (smGet 0 b.ringCount k + 1) })
    (hbmWr (ringAt s k i) (leBytes 8 h) s)

/-- Takes the oldest handle from the ring of pool k. -/
def ringTake (k : Nat) (s : State) : Option Nat × State :=
  let n := smGet 0 s.fab.bpm.ringCount k
  let i := smGet 0 s.fab.bpm.ringPos k
  if n = 0 then (none, s)
  else (some (metaLe s (ringAt s k i) 8),
    onBpm (fun b => { b with ringCount := smPut 0 b.ringCount k (n - 1)
                             ringPos := smPut 0 b.ringPos k ((i + 1) % poolCount (pools s) k) }) (deviceUe (ringAt s k i) 8 s))

/-- Moves handles from the ring to the cache until the cache holds n or the ring is empty; fuel bounds the moves. -/
def cacheFill (k n : Nat) : Nat → State → State
  | 0, s => s
  | m + 1, s =>
    if (smGet [] s.fab.bpm.cache k).length < n then
      match ringTake k s with
      | (some h, s) => cacheFill k n m (onBpm (fun b => { b with cache := smPut [] b.cache k (smGet [] b.cache k ++ [h]) }) s)
      | (none, s) => s
    else s

/-- Moves handles from the cache to the ring until the cache holds n. -/
def cacheSpill (k n : Nat) (s : State) : State :=
  let c := smGet [] s.fab.bpm.cache k
  let s := (c.drop n).foldl (fun s h => ringPut k h s) s
  onBpm (fun b => { b with cache := smPut [] b.cache k (c.take n) }) s

/-- Takes a free buffer of pool k in the form in use. -/
def takeFree (k : Nat) (s : State) : Option Nat × State :=
  if bpmMode s = bmList then listPop k s
  else
    match smGet [] s.fab.bpm.cache k with
    | h :: c => (some h, cacheFill k 128 128 (onBpm (fun b => { b with cache := smPut [] b.cache k c }) s))
    | [] => ringTake k s

/-- Puts a freed buffer back in the form in use. -/
def putFree (h : Nat) (s : State) : State :=
  let k := handlePool h
  let s := wn (A.bpmFree k) (rn s (A.bpmFree k) + 1) s
  if bpmMode s = bmList then listPush h s
  else cacheSpill k 448 (onBpm (fun b => { b with cache := smPut [] b.cache k (h :: smGet [] b.cache k) }) s)

/-! ### Requests (06 R169) -/

/-- Address of BPM_USE of a requester. -/
def useAt (req : Nat) : Nat := A.bpmUse (req / 7) (req % 7)

/-- The request fits its quota, and its pool has a free buffer. -/
def bpmCan (s : State) (req k : Nat) : Bool :=
  (bpmMode s == bmList || bpmMode s == bmRing) && !bpmSwitching s &&
    rn s (useAt req) + poolSize k ≤ poolQuota (pools s) req && rn s (A.bpmFree k) ≠ 0

/-- Serves a request from pool k: the handle, owned and charged; none where no buffer could be taken. -/
def bpmServe (req k : Nat) (s : State) : Option Nat × State :=
  match takeFree k s with
  | (none, s) => (none, s)
  | (some h, s) =>
    let s := wn (useAt req) (rn s (useAt req) + poolSize k) (wn (A.bpmFree k) (rn s (A.bpmFree k) - 1) s)
    (some h, putOwner h (0x8000 + req) s)

/-- A request of n bytes by an engine of the module: a handle, or none where it must wait. -/
def bpmAlloc (req n : Nat) (s : State) : Option Nat × State :=
  match poolFor (pools s) n with
  | none => (none, s)
  | some k =>
    if bpmCan s req k && !s.fab.bpm.waiting.any (fun w => poolFor (pools s) w.size == some k) then bpmServe req k s else (none, s)

/-- A request of a requester: served at once, or it waits in arrival order. -/
def bpmRequest (req n : Nat) (s : State) : State :=
  match bpmAlloc req n s with
  | (some h, s) => emit (.buffer req h) s
  | (none, s) => onBpm (fun b => { b with waiting := b.waiting ++ [{ req := req, size := n }] }) s

/-- BPM_REQUEST: a requester asks for a buffer of n bytes, at most its class's largest legal request (02 R40, 06 R169). -/
def execBpmRequest (x : CtxNo) (c : Fin 7) (n : Nat) (s : State) : Host.Outcome State Fault Refusal :=
  if 0 < n ∧ n ≤ poolMaxReq (pools s) c ∨ bpmMode s = bmNone then .next (bpmRequest (7 * x + c) n s) else .next s

/-! ### Returns (06 R168) -/

/-- The first check of Table 6.7 that a returned handle fails. -/
def returnFails (s : State) (req h : Nat) : Option Nat :=
  let k := handlePool h
  let b := pools s
  if h / 2 ^ 60 ≠ 0xB ∨ h / 2 ^ 48 % 2 ^ 9 ≠ 0 ∨ 5 ≤ k ∨ poolCount b k = 0 then some 1
  else if handleAddr h < poolStart b k ∨ poolStart b k + poolCount b k * poolSize k ≤ handleAddr h then some 2
  else if (handleAddr h - poolStart b k) % poolSize k ≠ 0 then some 3
  else if bpmMode s == bmNone || !bit (ownerWord s h) 15 || s.fab.bpm.returns.any (fun r => r.2 == h) then some 4
  else if ownerWord s h % 2 ^ 9 ≠ req then some 5
  else none

/-- A return that passed its checks: OWNED is cleared, the charge released, the buffer freed. -/
def applyReturn (req h : Nat) (s : State) : State :=
  putFree h (wn (useAt req) (rn s (useAt req) - poolSize (handlePool h)) (putOwner h req s))

/-- Returns held during a switch of form (06 R167). -/
def returnBuffer : Nat := 512

/-- Returns a handle: refused with BPM_BADPTR, held during a switch of form, or applied; an engine that finds the return buffer full
waits with it. Before the metadata region exists nothing is owned, and a return fails as a double free. -/
def bpmReturn (req h : Nat) (s : State) : State :=
  if bpmSwitching s && decide (returnBuffer ≤ s.fab.bpm.returns.length) then
    onBpm (fun b => { b with stalled := b.stalled ++ [(req, h)] }) s
  else match returnFails s req h with
  | some r =>
    let s := if 4 ≤ r ∧ bpmMode s ≠ bmNone then ownerRead h s else s
    raiseFault { code := 0x1206, cls := .ctxf, ctx := req / 7, unit := bpmUnit, detail := h, sub := r } s
  | none =>
    let s := ownerRead h s
    if bpmSwitching s then onBpm (fun b => { b with returns := b.returns ++ [(req, h)] }) s else applyReturn req h s

/-- BPM_RETURN: a requester returns a handle. -/
def execBpmReturn (x : CtxNo) (c : Fin 7) (h : BitVec 64) (s : State) : Host.Outcome State Fault Refusal :=
  .next (bpmReturn (7 * x + c) h.toNat s)

/-! ### Forming and switching (06 R165, R167) -/

/-- The metadata region may stand where BPM_META_BASE names (06 R165). -/
def metaOk (s : State) (base : Nat) : Bool :=
  base % 4096 == 0 && hbmBase ≤ base && base + metaLen s ≤ hbmDataEnd && !meetsStore base (base + metaLen s) &&
    !meetsPools (pools s) base (base + metaLen s)

/-- Frees every buffer of pool k onto its list in ascending address order. -/
def threadPool (k : Nat) (s : State) : State :=
  let n := poolCount (pools s) k
  let s := wn (A.bpmFree k) n s
  (List.range n).reverse.foldl (fun s i => listPush (handleOf k (poolStart (pools s) k + i * poolSize k)) s) s

/-- Clears the owner tables, threads every pool and sets MODE to LIST. -/
def bpmForm (s : State) : State :=
  let s := (List.range 5).foldl (fun s k =>
    hbmWr (ownerAt s k 0) (List.replicate (2 * poolCount (pools s) k) 0) s) s
  let s := (List.range 5).foldl (fun s k => threadPool k s) s
  wf A.bpmStatus 1 0 bmList s

/-- A write of BPM_META_BASE[i] (06 R165). -/
def writeMetaBase (p : GPort) (i : Nat) (w : Word) (s : State) : State × Nat :=
  let a := A.bpmMetaBase 0
  let v := pairValue s a w
  if !holds s p 0 then (klDenied p (A.bpmMetaBase i) s, stIgnored)
  else if bpmMode s ≠ bmNone then (s, stIgnored)
  else if i = 0 then (putLow a w s, stOk)
  else if sect s secPools ≠ [] ∧ metaOk s v then (bpmForm (wn64 a v s), stOk)
  else (raiseEvent { code := 0x0603, port := p, unit := bpmUnit, detail := A.bpmMetaBase i } s, stIgnored)

/-- BPM_META_BASE_WRITE: a port writes BPM_META_BASE[1]. -/
def execBpmMetaBaseWrite (p : GPort) (w : Word) (s : State) : Host.Outcome State Fault Refusal :=
  .next (wrRow p (A.bpmMetaBase 1) w (writeMetaBase p 1) s)

/-- A write of BPM_CTRL: a switch of form starts, or the OP is ignored (06 R167). -/
def writeBpmCtrl (p : GPort) (w : Word) (s : State) : State × Nat :=
  if !holds s p 0 then (klDenied p A.bpmCtrl s, stIgnored)
  else
    let op := fget w 3 0
    let go := !bpmSwitching s && ((op == 1 && bpmMode s == bmList) || (op == 2 && bpmMode s == bmRing))
    let s := wn A.bpmCtrl op s
    if go then (wf A.bpmStatus 2 2 1 s, stOk) else (s, stIgnored)

/-- TO_RING: BPM_CTRL written with OP 1. -/
def execToRing (p : GPort) (s : State) : Host.Outcome State Fault Refusal :=
  .next (wrRow p A.bpmCtrl 1 (writeBpmCtrl p) s)

/-- TO_LIST: BPM_CTRL written with OP 2. -/
def execToList (p : GPort) (s : State) : Host.Outcome State Fault Refusal :=
  .next (wrRow p A.bpmCtrl 2 (writeBpmCtrl p) s)

/-- The handles of a free list in list order, and the state after its links have been read; fuel bounds the walk. -/
def listWalk : Nat → Nat → State → List Nat × State
  | 0, _, s => ([], s)
  | n + 1, h, s =>
    if h = 0 then ([], s)
    else
      let r := listWalk n (metaLe s (handleAddr h) 8) (deviceUe (handleAddr h) 8 s)
      (h :: r.1, r.2)

/-- Copies the free list of pool k into its ring and fills the cache. -/
def poolToRing (k : Nat) (s : State) : State :=
  let (hs, s) := listWalk (poolCount (pools s) k) (smGet 0 s.fab.bpm.head k) s
  let s := onBpm (fun b => { b with head := smPut 0 b.head k 0
                                    ringPos := smPut 0 b.ringPos k 0
                                    ringCount := smPut 0 b.ringCount k 0 }) s
  cacheFill k 448 448 (hs.foldl (fun s h => ringPut k h s) s)

/-- Takes n handles from the ring of pool k, oldest first. -/
def ringWalk (k : Nat) : Nat → State → List Nat × State
  | 0, s => ([], s)
  | n + 1, s =>
    let q := ringTake k s
    let r := ringWalk k n q.2
    (q.1.toList ++ r.1, r.2)

/-- Spills the cache of pool k and threads its ring's handles onto the free list in ring order. -/
def poolToList (k : Nat) (s : State) : State :=
  let s := cacheSpill k 0 s
  let (hs, s) := ringWalk k (smGet 0 s.fab.bpm.ringCount k) s
  hs.reverse.foldl (fun s h => listPush h s) s

/-- BPM_SWITCH_END: the switch of form completes, the held returns are applied, MODE changes, and the engines that waited with a
return go on (06 R167). -/
def execBpmSwitchEnd (s : State) : Host.Outcome State Fault Refusal :=
  if bpmSwitching s then
    let toRing := bpmMode s == bmList
    let s := (List.range 5).foldl (fun s k =>
      if poolCount (pools s) k = 0 then s else if toRing then poolToRing k s else poolToList k s) s
    let s := wf A.bpmStatus 1 0 (if toRing then bmRing else bmList) s
    let held := s.fab.bpm.returns
    let s := held.foldl (fun s r => applyReturn r.1 r.2 s) (onBpm (fun b => { b with returns := [] }) s)
    let s := wf A.bpmStatus 2 2 0 s
    let s := raiseEvent { code := 0x0602, unit := bpmUnit, detail := bpmMode s } s
    let waiting := s.fab.bpm.stalled
    .next (waiting.foldl (fun s r => bpmReturn r.1 r.2 s) (onBpm (fun b => { b with stalled := [] }) s))
  else .next s

end Sys2Proof.Machine
end

