-- ==== Sys2Proof/Machine/Tables.lean ====
section
/-! DEFINITION. Routing and rank tables (05 R116-R120, Tables 5.7 and 5.16) and tree tables (10 R264-R268). -/

namespace Sys2Proof.Machine
open Sys2Proof

def rtUnit : Nat := 0x200000

/-- OLD_LIVE of RT_EPOCH_STATUS. -/
def oldLive (s : State) : Bool := rbit s A.rtEpochStatus 1

/-- A version serves packets: it is in force, or old (05, before R133). -/
def versionLive (s : State) (v : Nat) : Bool := v == curEpoch s || oldLive s

/-- SWITCH of this module, none while VALID is 0. -/
def ownSwitch (s : State) : Option Nat := if rbit s A.rtSwitchId 31 then some (rf s A.rtSwitchId 15 0) else none

/-! ### Rank tables -/

/-- COUNT of a descriptor's version. -/
def rankCount (s : State) (t v : Nat) : Nat := rn s (A.rtRankCount t v)

/-- The descriptor is valid. -/
def rankDescValid (s : State) (t : Nat) : Bool := rbit s (A.rtRankJob t) 16

/-- JOB of a descriptor. -/
def rankDescJob (s : State) (t : Nat) : Nat := rf s (A.rtRankJob t) 15 0

/-- Entry of a rank, as it stands in HBM. -/
def rankWord (s : State) (t v r : Nat) : Nat := hbmLe s (rn64 s (A.rtRankBase t v 0) + 4 * r) 4

/-! Fields of an entry (05 Table 5.7). -/

def reValid (w : Nat) : Bool := bit w 31
def reFenced (w : Nat) : Bool := bit w 30
def reKind (w : Nat) : Nat := bits w 29 28
def reSwitch (w : Nat) : Nat := bits w 27 12
def reSlot (w : Nat) : Nat := 8 * bits w 11 6 + bits w 5 3
def rePier (w : Nat) : Nat := bits w 11 5

/-- The entry of a rank in a descriptor's version; none where it is out of range, not VALID or of an invalid KIND. -/
def rankEntry (s : State) (t v r : Nat) : Option Nat :=
  if r < rankCount s t v then
    let w := rankWord s t v r
    if reValid w && reKind w ≤ 1 then some w else none
  else none

/-- The descriptor that serves a job (05 R117). -/
def jobTable (s : State) (job : Nat) : Option Nat :=
  if rbit s (A.rtJob job) 31 then
    let t := rf s (A.rtJob job) 9 0
    if rankDescValid s t && rankDescJob s t == job then some t else none
  else none

/-- Resolution of a rank of a job in a version (05 R116, R117). -/
def resolveRank (s : State) (job v r : Nat) : Option Nat := (jobTable s job).bind fun t => rankEntry s t v r

/-- The rank table, job and rank count of a context (03 Table 3.10). -/
def ctxRankTbl (s : State) (x : Nat) : Nat := liveWord s x 0x1004 / 2 ^ 16
def ctxJob (s : State) (x : Nat) : Nat := liveWord s x 0x1000 % 2 ^ 16
def ctxRankCount (s : State) (x : Nat) : Nat := liveWord s x 0x1008

/-- Resolution of a rank for a context's own sends, in a version (05 R116). -/
def ctxEntry (s : State) (x v r : Nat) : Option Nat :=
  let t := ctxRankTbl s x
  if rankDescValid s t && rankDescJob s t == ctxJob s x then rankEntry s t v r else none

/-- Resolution of a rank for a context's own sends, in the version in force. -/
def ctxResolve (s : State) (x r : Nat) : Option Nat := ctxEntry s x (curEpoch s) r

/-- The rank of a pier in a context's rank table: the lowest whose entry in force names the pier (DESIGN CHOICE: log entry 10). -/
def ownRank (s : State) (x pier : Nat) : Option Nat :=
  (List.range (min (ctxRankCount s x) (rankCount s (ctxRankTbl s x) (curEpoch s)))).find? fun r =>
    match ctxResolve s x r with
    | some w => reKind w == 1 && ownSwitch s == some (reSwitch w) && rePier w == pier
    | none => false

/-- The valid descriptors, from the registers that are not at their reset value of 0. -/
def validDescs (s : State) : List Nat :=
  s.regs.filterMap fun p =>
    if A.rtRankJob 0 ≤ p.1 ∧ p.1 < A.rtRankJob 1024 ∧ (p.1 - A.rtRankJob 0) % 0x20 = 0 ∧ fget p.2 16 16 = 1 then
      some ((p.1 - A.rtRankJob 0) / 0x20)
    else none

/-- The ports of this module that rank entries of KIND 0 of a version name. -/
def kind0Slots (s : State) (v : Nat) : List Nat :=
  (validDescs s).flatMap fun t => (List.range (rankCount s t v)).filterMap fun r =>
    match rankEntry s t v r with
    | some w => if reKind w == 0 && ownSwitch s == some (reSwitch w) then some (reSlot w) else none
    | none => none

/-- Some rank entry of a live version names the port of this module, or one of a retired version did: it is a port of KIND 0 (05
R120; DEDUCED: log entry 11). -/
def isKind0Port (s : State) (k : Nat) : Bool :=
  s.fab.kind0.contains k || [0, 1].any fun v => versionLive s v && (kind0Slots s v).contains k

/-! ### Routes (05 R118) -/

/-- A next hop: its port slot, and whether it crosses a dateline. -/
structure Hop where
  slot : Nat
  dl : Bool
  deriving DecidableEq, Repr

/-- The next hops of an entry that are eligible for a packet, in ascending index order. -/
def eligibleHops (s : State) (v d : Nat) (b : List Byte) : List Hop :=
  if rbit s (A.rtRouteHi v d) 31 then
    let w := rn64 s (A.rtRouteLo v d)
    (List.range 4).filterMap fun i =>
      let h := w / 2 ^ (12 * i) % 2 ^ 12
      let ok := bit h 11 && portUp s (h % 512) && (pkClass b == clFwd || !bit h 10) &&
        !(pkClass b == clFwd && pkFlag b flSubch && bit h 9)
      if ok then some { slot := h % 512, dl := bit h 9 } else none
  else []

/-- The flow hash of a packet (05 R118). -/
def flowHash (b : List Byte) : Nat :=
  crc32c (beBytes 2 (pkJob b) ++ beBytes 3 (pkSrc b) ++ beBytes 3 (pkDst b) ++ beBytes 1 (pkClass b))

/-- The next hop that a packet routed on a switch takes. -/
def routeHop (s : State) (v d : Nat) (b : List Byte) : Option Hop :=
  let hs := eligibleHops s v d b
  if hs = [] then none else hs[flowHash b % hs.length]?

/-! ### Trees (10 Tables 10.3, 10.4) -/

/-- A tree edge. -/
structure Edge where
  v : Bool
  member : Bool
  slot : Nat
  rank : Nat
  esr : Nat
  pesr : Nat
  deriving DecidableEq, Repr

/-- The edge that 16 bytes describe. -/
def edgeOf (b : List Byte) : Edge :=
  { v := bit (le b 0 1) 0, member := bit (le b 0 1) 1, slot := le b 2 2, rank := le b 4 4, esr := le b 8 4,
    pesr := le b 12 4 }

/-- The fields of an edge are in their ranges. -/
def edgeOk (b : List Byte) : Bool :=
  let e := edgeOf b
  le b 0 1 < 4 && le b 1 1 == 0 && e.esr < 2 ^ 22 && e.pesr < 2 ^ 22 &&
    (if e.member then e.slot == 0 && decide (e.rank < 2 ^ 24) else decide (e.slot < 512) && e.rank == 0)

/-- A tree entry. -/
structure Tree where
  num : Nat
  ver : Nat
  nrse : Nat
  job : Nat
  ctx : Nat
  ordered : Bool
  rwd : Nat
  nfirst : Nat
  rbuf : Nat
  subn : Nat
  rses : List Nat
  up : Edge
  down : List Edge
  deriving DecidableEq, Repr

/-- The bytes of a tree entry, none where the version has no tree table. -/
def treeBytes (s : State) (v t : Nat) : Option (List Byte) :=
  let base := rn64 s (A.rtTreeBase v 0)
  if base = 0 then none else some (hbmRd s (base + 1024 * t) 1024)

/-- The fields of an entry are in the ranges of Tables 10.3 and 10.4 (10 R264). -/
def treeFieldsOk (b : List Byte) : Bool :=
  let n := le b 1 1
  let d := le b 5 1
  le b 0 1 == 1 && 1 ≤ n && n ≤ 16 && le b 4 1 < 64 && d ≤ 61 && le b 6 1 < 2 && 4 ≤ le b 7 1 && le b 7 1 ≤ 24 &&
    68 ≤ le b 0xA 2 && le b 0xA 2 ≤ 1024 &&
    (List.range 16).all (fun i => if i < n then le b (0x10 + i) 1 < 80 else le b (0x10 + i) 1 == 0) &&
    edgeOk (slice b 0x20 16) &&
    (List.range 61).all (fun e => let x := slice b (0x30 + 16 * e) 16; if e < d then edgeOk x else allZero x)

/-- The tree that entry bytes describe. -/
def treeOf (v t : Nat) (b : List Byte) : Tree :=
  { num := t, ver := v, nrse := le b 1 1, job := le b 2 2, ctx := le b 4 1, ordered := bit (le b 6 1) 0,
    rwd := le b 7 1, nfirst := le b 8 2, rbuf := le b 0xA 2, subn := le b 0xC 4,
    rses := (List.range (le b 1 1)).map fun i => le b (0x10 + i) 1,
    up := edgeOf (slice b 0x20 16),
    down := (List.range (le b 5 1)).map fun e => edgeOf (slice b (0x30 + 16 * e) 16) }

/-- A tree of a version whose entry is VALID with fields in their ranges, whether or not it fits. -/
def treeEntry (s : State) (v t : Nat) : Option Tree :=
  match treeBytes s v t with
  | some b => if treeFieldsOk b then some (treeOf v t b) else none
  | none => none

/-- A tree of a version that handles packets: it also has its reservation (10 R264, R270). -/
def treeAt (s : State) (v t : Nat) : Option Tree := if s.fab.noFit.contains (4096 * v + t) then none else treeEntry s v t

/-- TREE, CSEQ and RSEDST of a packet's OPARG (10 R268). -/
def opTree (b : List Byte) : Nat := bits (pkOparg b) 39 28
def opCseq (b : List Byte) : Nat := bits (pkOparg b) 27 12
def opRseDst (b : List Byte) : Bool := bit (pkOparg b) 11

/-- The tree that handles a packet: the entry of its TREE in the version of its EPOCH, of its JOB (10 R264). -/
def packetTree (s : State) (b : List Byte) : Option Tree :=
  match treeAt s (pkEpoch b) (opTree b) with
  | some t => if t.job = pkJob b then some t else none
  | none => none

/-- A member edge's entry in a version says that its member is not fenced; a link edge is always live (10 R272, 05 R138). -/
def edgeIn (s : State) (t : Tree) (v : Nat) (e : Edge) : Bool :=
  e.v && (!e.member || match resolveRank s t.job v e.rank with
    | some w => !reFenced w
    | none => false)

/-- An edge is live in the version in force. -/
def edgeLive (s : State) (t : Tree) (e : Edge) : Bool := edgeIn s t (curEpoch s) e

/-- SRC_RANK of a packet sent by an RSE (10 R268). -/
def rseRank (s : State) (n : Nat) : Nat := 2 ^ 8 * rf s A.rtSwitchId 15 0 + n

end Sys2Proof.Machine
end

