-- ==== Sys2Proof/Machine/Streams.lean ====
section
/-! DEFINITION. Stream records, sequence numbers, acknowledgement and resend (05 R121-R127). -/

namespace Sys2Proof.Machine
open Sys2Proof

/-! ### Records (05 Table 5.8) -/

/-- Address of a record's field; the table stands at RT_SR_BASE. -/
def srAt (s : State) (r off : Nat) : Nat := rn64 s (A.rtSrBase 0) + 64 * r + off

/-- A field of a record; without a table every field reads 0. An uncorrectable word delivers free values (15 R394). -/
def srGet (s : State) (r off n : Nat) : Nat := if rn64 s (A.rtSrBase 0) = 0 then 0 else le (deviceRd s (srAt s r off) n) 0 n

/-- Reads a record: one whose word cannot be corrected raises MEM_UE_SYSTEM (15 R394; DESIGN CHOICE: log entry 73, that each use
reads it). -/
def srRead (r : Nat) (s : State) : State := if rn64 s (A.rtSrBase 0) = 0 then s else deviceUe (srAt s r 0) 64 s

/-- Sets a field of a record. -/
def srPut (r off n v : Nat) (s : State) : State := if rn64 s (A.rtSrBase 0) = 0 then s else hbmWr (srAt s r off) (leBytes n v) s

def srFree : Nat := 0
def srOpen : Nat := 1
def srFenced : Nat := 2
def srError : Nat := 3

def srState (s : State) (r : Nat) : Nat := srGet s r 0x00 1
def srClass (s : State) (r : Nat) : Nat := srGet s r 0x01 1
def srCtx (s : State) (r : Nat) : Nat := srGet s r 0x02 1
def srPeerRank (s : State) (r : Nat) : Nat := srGet s r 0x04 4 % 2 ^ 24
def srPeerSr (s : State) (r : Nat) : Nat := srGet s r 0x08 4 % 2 ^ 22
def srJob (s : State) (r : Nat) : Nat := srGet s r 0x0C 2
def srWindow (s : State) (r : Nat) : Nat := srGet s r 0x0E 2
def srTxNext (s : State) (r : Nat) : Nat := srGet s r 0x10 4
def srTxUna (s : State) (r : Nat) : Nat := srGet s r 0x14 4
def srRxExp (s : State) (r : Nat) : Nat := srGet s r 0x18 4
def srRxAcked (s : State) (r : Nat) : Nat := srGet s r 0x1C 4
def srRto (s : State) (r : Nat) : Nat := srGet s r 0x20 4
def srTries (s : State) (r : Nat) : Nat := srGet s r 0x24 1

/-- Fields of RT_CFG (05 Table 5.14). -/
def cfgHopLimit (s : State) : Nat := rf s A.rtCfg 29 24
def cfgAckEvery (s : State) : Nat := rf s A.rtCfg 23 16
def cfgMaxTries (s : State) : Nat := rf s A.rtCfg 15 12
def cfgRto (s : State) : Nat := rf s A.rtCfg 11 0

/-- Writes a record as it is opened: OPEN, its owner and peer, every count zero (05 Table 5.8; 10 R266, 11 R306). -/
def srWrite (r cls ctx peerRank peerSr job window : Nat) (s : State) : State :=
  if rn64 s (A.rtSrBase 0) = 0 then s
  else hbmWr (srAt s r 0) (leBytes 1 srOpen ++ leBytes 1 cls ++ leBytes 1 ctx ++ leBytes 1 0 ++ leBytes 4 peerRank ++
    leBytes 4 peerSr ++ leBytes 2 job ++ leBytes 2 window ++ leBytes 16 0 ++ leBytes 4 (cfgRto s) ++ leBytes 28 0) s

/-- (a − b) modulo 2^32 (05 R122). -/
def seqSub (a b : Nat) : Nat := (a % 2 ^ 32 + 2 ^ 32 - b % 2 ^ 32) % 2 ^ 32

/-! ### Sources (05 R124-R127) -/

/-- The port slot that a source of the module stands at. -/
def srcSlot (src : Nat) : Nat := if 700 ≤ src then 512 + 2 * ((src - 700) / 16) + (src - 700) % 2 else src

/-- UNIT of the engine behind a source. -/
def srcUnit (src : Nat) : Nat :=
  if 700 ≤ src then pierUnit (src - 700) else if 528 ≤ src then rseUnit (src - 528) else rtUnit

/-- Puts a packet at the end of what its source has ready. -/
def inject (i : Inject) (s : State) : State := onFab (fun f => { f with inject := f.inject ++ [i] }) s

/-- RETX names the buffer of the oldest copy held, 0 where none is. -/
def setRetxHead (r : Nat) (s : State) : State :=
  srPut r 0x28 8 (match s.fab.retx.find? fun c => c.rcd == r with
    | some c => c.handle
    | none => 0) s

/-- Releases the copies of a record that a test names: their buffers return to the pool manager. -/
def releaseCopies (r : Nat) (p : Retx → Bool) (s : State) : State :=
  let gone := s.fab.retx.filter fun c => c.rcd == r && p c
  let s := onFab (fun f => { f with retx := f.retx.filter fun c => !(c.rcd == r && p c) }) s
  setRetxHead r (gone.foldl (fun s c => bpmReturn c.req c.handle s) s)

/-- The packet belongs to the send side of a record. -/
def isOfRecord (r : Nat) (i : Inject) : Bool := pkClass i.bytes != clCtrl && pkRsr i.bytes == r

/-- Events due for a stream that has failed (14 R374). -/
def streamFailed (r : Nat) (s : State) : State :=
  let ws := s.fab.watch.filter fun w => w.rcd == r
  let s := onFab (fun f => { f with watch := f.watch.filter fun w => w.rcd != r }) s
  ws.foldl (fun s w => if w.failCode = 0 then s
    else raiseEvent { code := w.failCode, ctx := w.ctx, unit := w.unit, detail := w.detail } s) s

/-- A stream ends: its STATE, its copies and everything that it still had to send go (R124, R127). -/
def endStream (r state : Nat) (s : State) : State :=
  let s := srPut r 0 1 state s
  let s := onFab (fun f => { f with inject := f.inject.filter fun i => !isOfRecord r i
                                    txWait := f.txWait.filter fun w => w.rcd != r
                                    rtoFrom := smPut none f.rtoFrom r none
                                    bpm := { f.bpm with waiting := f.bpm.waiting.filter fun w => w.rcd != some r } }) s
  streamFailed r (releaseCopies r (fun _ => true) s)

/-- The TXE resolved the destination FENCED in the version in force (R127). -/
def fenceStream (r src : Nat) (s : State) : State :=
  raiseEvent { code := 0x0501, ctx := srCtx s r, unit := srcUnit src, detail := r } (endStream r srFenced s)

/-- The destination of a record is FENCED in the version in force; a record sent on a given port, or on a tree edge (10 R268), is
not resolved. -/
def recordFenced (s : State) (r : Nat) (dest : Option Nat) : Bool :=
  dest.isNone && srClass s r != clCollUp && srClass s r != clCollDn && match ctxResolve s (srCtx s r) (srPeerRank s r) with
    | some w => reFenced w
    | none => false

/-- The context whose own send a packet of a source is (05 R116): a pier sends for its record's context. -/
def sendCtx (s : State) (r src : Nat) : Option Nat := if 700 ≤ src then some (srCtx s r) else none

/-- The packet that waits on a record is sent, its copy in the buffer of a handle: it takes TX_NEXT, the version in force and a
check (R122). -/
def sendCopy (r : Nat) (w : TxWait) (h : Nat) (s : State) : State :=
  let q := srTxNext s r
  let b := withCheck (withEpoch (curEpoch s) (withSeq q w.bytes))
  let s := onFab (fun f => { f with txWait := f.txWait.erase w
                                    retx := f.retx ++ [{ rcd := r, seq := q, req := w.req, handle := h, src := w.src,
                                                         dest := w.dest, bytes := b, member := w.member, kind := w.kind }] }) s
  setRetxHead r (inject { src := w.src, dest := w.dest, bytes := b, ctx := sendCtx s r w.src, member := w.member, group := w.group,
                          kind := w.kind }
    (srPut r 0x10 4 (q + 1) s))

/-- A request for the copy of a record's next packet waits at the pool manager. -/
def copyWaits (s : State) (r : Nat) : Bool := s.fab.bpm.waiting.any fun w => w.rcd == some r

/-- Bytes of a packet's retransmit copy: 40 + LEN + 24 (R122, 02 R39). -/
def copyBytes (b : List Byte) : Nat := pkLen b + 64

/-- The first packet that waits on a record is sent, with its retransmit copy: whether it has left or its stream has ended, and
the state. It stays while the window is full; where its copy finds no buffer, the request waits at the pool manager (06 R169). -/
def sendOne (r : Nat) (w : TxWait) (s : State) : Bool × State :=
  if srState s r ≠ srOpen ∨ srWindow s r ≤ seqSub (srTxNext s r) (srTxUna s r) ∨ copyWaits s r then (false, s)
  else if recordFenced s r w.dest then (true, fenceStream r w.src s)
  else match bpmAlloc w.req (copyBytes w.bytes) s with
    | (some h, s) => (true, sendCopy r w h s)
    | (none, s) => (false, onBpm (fun b => { b with waiting := b.waiting ++ [{ req := w.req, size := copyBytes w.bytes, rcd := some r }] }) s)

/-- Sends what a record has waiting, as far as its window and its quota go; fuel bounds the packets. -/
def pump (r : Nat) : Nat → State → State
  | 0, s => s
  | n + 1, s =>
    match s.fab.txWait.find? fun w => w.rcd == r with
    | none => s
    | some w => match sendOne r w s with
      | (true, s) => pump r n s
      | (false, s) => s

/-- Sends what a record has waiting. -/
def pumpAll (r : Nat) (s : State) : State := pump r (s.fab.txWait.length + 1) s

/-- Hands a data packet to its stream. -/
def streamSend (w : TxWait) (s : State) : State := pumpAll w.rcd (onFab (fun f => { f with txWait := f.txWait ++ [w] }) s)

/-- The copy of a packet that goes out in a resend (R124). -/
def resendBytes (s : State) (b : List Byte) : List Byte :=
  let f := pkFlags b
  let b := patch b 2 (beBytes 2 (if bit f flResend then f else f + 2 ^ flResend))
  withCheck (withEpoch (curEpoch s) b)

/-- A resend of a record is under way that started at or below q (R125). -/
def resendCovers (s : State) (r q : Nat) : Bool :=
  (s.fab.inject.any fun i => isOfRecord r i && pkFlag i.bytes flResend) &&
    match smGet none s.fab.resendAt r with
    | some p => decide (seqSub q p < 2 ^ 31)
    | none => false

/-- Resends from q, or from TX_UNA where q lies behind it (R124, R125): a trigger at or above the start of a resend still under way
is absorbed; otherwise every held copy from there goes out again, in ascending SEQ order. -/
def resend (r q : Nat) (s : State) : State :=
  let una := srTxUna s r
  let q := if seqSub q una < 2 ^ 31 then q else una
  let cs := s.fab.retx.filter fun c => c.rcd == r && seqSub q una ≤ seqSub c.seq una
  match cs with
  | [] => s
  | c0 :: _ =>
    if resendCovers s r q then s
    else if recordFenced s r c0.dest then fenceStream r c0.src s
    else
      let s := onFab (fun f => { f with inject := f.inject.filter fun i => !(isOfRecord r i)
                                        resendAt := smPut none f.resendAt r (some q) }) s
      cs.foldl (fun s c => inject { src := c.src, dest := c.dest, bytes := resendBytes s c.bytes, ctx := sendCtx s r c.src,
                                    member := c.member, kind := c.kind } s) s

/-- Events due for a stream that has had everything up to their SEQ acknowledged (14 R374). -/
def streamAdvanced (r una : Nat) (s : State) : State :=
  let done := fun (w : StreamWatch) => w.rcd == r && seqSub una w.seq != 0 && decide (seqSub una w.seq < 2 ^ 31)
  let ws := s.fab.watch.filter done
  let s := onFab (fun f => { f with watch := f.watch.filter fun w => !done w }) s
  ws.foldl (fun s w => if w.okCode = 0 then s
    else raiseEvent { code := w.okCode, ctx := w.ctx, unit := w.unit, detail := w.detail } s) s

/-- An ACK n at the source (Table 5.9a). -/
def onAck (r n : Nat) (s : State) : State :=
  let una := srTxUna s r
  if srState s r = srOpen ∧ seqSub n una < seqSub (srTxNext s r) una then
    let covered := fun q => decide (seqSub q una ≤ seqSub n una)
    let s := onFab (fun f => { f with inject := f.inject.filter fun i => !(isOfRecord r i && covered (pkSeq i.bytes)) }) s
    let s := releaseCopies r (fun c => covered c.seq) s
    let s := srPut r 0x20 4 (cfgRto s) (srPut r 0x24 1 0 (srPut r 0x14 4 (n + 1) s))
    pumpAll r (streamAdvanced r ((n + 1) % 2 ^ 32) s)
  else s

/-- A NACK e at the source (Table 5.9a): CHECK and GAP resend at once, NORECV and NOBUF after RTO. -/
def onNack (r e reason : Nat) (s : State) : State :=
  if srState s r ≠ srOpen then s
  else if reason = 1 ∨ reason = 2 then resend r e s
  else if reason = 3 ∨ reason = 4 then
    let una := srTxUna s r
    let q := match smGet none s.fab.rtoFrom r with
      | some q => if seqSub q una ≤ seqSub e una then q else e
      | none => e
    onFab (fun f => { f with rtoFrom := smPut none f.rtoFrom r (some q) }) s
  else s

/-- No advance of TX_UNA for RTO (Table 5.9a). -/
def onTimeout (r src : Nat) (s : State) : State :=
  let t := srTries s r + 1
  let s := srPut r 0x24 1 t s
  if cfgMaxTries s ≤ t then
    raiseFault { code := 0x1205, cls := .ctxf, ctx := srCtx s r, unit := srcUnit src, detail := r } (endStream r srError s)
  else resend r (srTxUna s r) (srPut r 0x20 4 (2 * srRto s r) s)

/-- RETRANSMIT_TIMEOUT: a record's RTO passes without an advance of TX_UNA while packets are unacknowledged. -/
def execRetransmitTimeout (r : BitVec 22) (s : State) : Host.Outcome State Fault Refusal :=
  let r := r.toNat
  match s.fab.retx.find? fun c => c.rcd == r with
  | some c => if srState s r = srOpen then .next (onTimeout r c.src s) else .next s
  | none => .next s

/-- RESEND_AFTER_RTO: RTO after a NACK with reason NORECV or NOBUF, the source resends from its SEQ. -/
def execResendAfterRto (r : BitVec 22) (s : State) : Host.Outcome State Fault Refusal :=
  let r := r.toNat
  match smGet none s.fab.rtoFrom r with
  | some q => .next (resend r q (onFab (fun f => { f with rtoFrom := smPut none f.rtoFrom r none }) s))
  | none => .next s

/-! ### Waiting requests (06 R169) -/

/-- The service request in progress of context x at place k. -/
def reqAtPlace (s : State) (x k : Nat) : Option SvcReq := s.svc.reqs.find? fun r => r.ctx == x && r.slot == k && !r.complete

/-- A service request is given its staging buffer (14 R365). -/
def giveBuffer (r : SvcReq) (h : Nat) (s : State) : State :=
  { s with svc := { s.svc with reqs := s.svc.reqs.map fun q => if q = r then { r with buf := some h } else q } }

/-- A waiting request is granted a buffer: a retransmit copy's packet leaves, a service request in progress holds its buffer, and any
other requester gets the handle. -/
def grantBuffer (w : BpmWait) (h : Nat) (s : State) : State :=
  match w.rcd, w.place with
  | none, none => emit (.buffer w.req h) s
  | none, some k => match reqAtPlace s (w.req / 7) k with
    | some r => if r.status.isNone && r.buf.isNone then giveBuffer r h s else bpmReturn w.req h s
    | none => bpmReturn w.req h s
  | some r, _ => match s.fab.txWait.find? fun x => x.rcd == r with
    | some x => pumpAll r (sendCopy r x h s)
    | none => bpmReturn w.req h s

/-- BPM_WAITING_SERVED: the oldest request that waits for pool k is served once its quota and a buffer are free (R169). -/
def execBpmWaitingServed (k : Fin 5) (s : State) : Host.Outcome State Fault Refusal :=
  match s.fab.bpm.waiting.find? fun w => poolFor (pools s) w.size == some k.val with
  | none => .next s
  | some w =>
    if bpmCan s w.req k then
      match bpmServe w.req k s with
      | (some h, s) => .next (grantBuffer w h (onBpm (fun b => { b with waiting := b.waiting.erase w }) s))
      | (none, s) => .next s
    else .next s

/-! ### Destinations (05 R123) -/

/-- Sends an ACK or NACK for a record: one that has not left yet is replaced. -/
def sendCtrl (a : AckFrom) (r op oparg : Nat) (s : State) : State :=
  let b := mkPacket { epoch := curEpoch s, cls := clCtrl, op := op, dst := srPeerRank s r, src := a.rank, job := srJob s r,
                      sr := srPeerSr s r, rsr := r, oparg := oparg } []
  let held := fun (i : Inject) => (pkOp i.bytes == opAck || pkOp i.bytes == opNack) && pkRsr i.bytes == r && i.src == a.src
  inject { src := a.src, dest := a.dest, bytes := b, member := a.member } (onFab (fun f => { f with inject := f.inject.filter fun i => !held i }) s)

/-- Acknowledges everything received in order; RX_ACKED is set and the timer stops. -/
def sendAck (a : AckFrom) (r n : Nat) (s : State) : State :=
  let s := sendCtrl a r opAck (n % 2 ^ 32) s
  srPut r 0x1C 4 n (onFab (fun f => { f with ackTimer := smPut none f.ackTimer r none }) s)

/-- Refuses with a reason: 1 CHECK, 2 GAP, 3 NORECV, 4 NOBUF. -/
def sendNack (a : AckFrom) (r reason : Nat) (s : State) : State := sendCtrl a r opNack (2 ^ 32 * reason + srRxExp s r) s

/-- A packet ahead of RX_EXP: one NACK per RX_EXP per 2 µs. -/
def nackGap (a : AckFrom) (r : Nat) (s : State) : State :=
  let e := srRxExp s r
  let recent : Bool := match smGet none s.fab.gapAt r with
    | some (q, t) => q == e && decide ((ftNs s + 2 ^ 64 - t) % 2 ^ 64 < 2000)
    | none => false
  if recent then s
  else sendNack a r 2 (onFab (fun f => { f with gapAt := smPut none f.gapAt r (some (e, ftNs s)) }) s)

/-- What the stream check says of an arriving data packet: whether it is to be delivered, and the state after the answer that
a packet not delivered gets. landing is the reason for which its landing is not ready. -/
def rxCheck (a : AckFrom) (b : List Byte) (landing : Option Nat) (s : State) : Bool × State :=
  let r := pkSr b
  let s := srRead r s
  if !pkCheckOk b then
    let s := bump (A.rtCnt 4) 1 s
    (false, if srState s r = srOpen ∧ srPeerRank s r = pkSrc b ∧ srJob s r = pkJob b then sendNack a r 1 s else s)
  else if srState s r ≠ srOpen then (false, s)
  else
    let d := seqSub (pkSeq b) (srRxExp s r)
    if 2 ^ 31 ≤ d then (false, sendAck a r (srRxExp s r + 2 ^ 32 - 1) s)
    else if d ≠ 0 then (false, nackGap a r s)
    else match landing with
      | some reason => (false, sendNack a r reason s)
      | none => (true, s)

/-- After delivery: RX_EXP rises, and the packet is acknowledged at once or by the timer. -/
def rxAccept (a : AckFrom) (b : List Byte) (s : State) : State :=
  let r := pkSr b
  let e := (srRxExp s r + 1) % 2 ^ 32
  let s := srPut r 0x18 4 e s
  if pkFlag b flLast || cfgAckEvery s ≤ seqSub e (srRxAcked s r) then sendAck a r (e + 2 ^ 32 - 1) s
  else if (smGet none s.fab.ackTimer r).isSome then s
  else onFab (fun f => { f with ackTimer := smPut none f.ackTimer r (some a) }) s

/-- ACK_TIMER: the timer of a record expires 2 µs after it started, and the pending ACK is sent. -/
def execAckTimer (r : BitVec 22) (s : State) : Host.Outcome State Fault Refusal :=
  let r := r.toNat
  match smGet none s.fab.ackTimer r with
  | some a => .next (sendAck a r (srRxExp s r + 2 ^ 32 - 1) s)
  | none => .next s

/-! ### CTRL packets that reach their unit -/

/-- The first packet at a unit that a test names. -/
def arrivedAt (s : State) (u : Nat) (p : List Byte → Bool) : Option Arrived := s.fab.inbox.find? fun a => a.at_ == u && p a.bytes

/-- Takes an arrived packet. -/
def takeArrived (a : Arrived) (s : State) : State := onFab (fun f => { f with inbox := f.inbox.erase a }) s

/-- Acts on the first packet of an opcode at a unit: a packet that fails its check is discarded and counted. -/
def onCtrl (u op : Nat) (f : List Byte → State → State) (s : State) : State :=
  match arrivedAt s u (fun b => pkOp b == op) with
  | none => s
  | some a => if pkCheckOk a.bytes then f a.bytes (takeArrived a s) else bump (A.rtCnt 4) 1 (takeArrived a s)

/-- Acts on the record that a CTRL packet names, where the record is of the packet's job; Table 5.9a names no such condition
(DESIGN CHOICE: log entry 75). -/
def forRecord (b : List Byte) (f : Nat → State → State) (s : State) : State :=
  let s := srRead (pkSr b) s
  if srJob s (pkSr b) = pkJob b then f (pkSr b) s else s

/-- ACK: the first ACK at a unit. -/
def execAck (u : Fin 129) (s : State) : Host.Outcome State Fault Refusal :=
  .next (onCtrl u opAck (fun b => forRecord b fun r => onAck r (pkOparg b % 2 ^ 32)) s)

/-- NACK: the first NACK at a unit. -/
def execNack (u : Fin 129) (s : State) : Host.Outcome State Fault Refusal :=
  .next (onCtrl u opNack (fun b => forRecord b fun r => onNack r (pkOparg b % 2 ^ 32) (pkOparg b / 2 ^ 32)) s)

/-- EVICT_NOTICE: the first EVICT_NOTICE at a unit; the source resends from its SEQ. -/
def execEvictNotice (u : Fin 129) (s : State) : Host.Outcome State Fault Refusal :=
  .next (onCtrl u opEvict (fun b => forRecord b fun r s =>
    if srState s r = srOpen then resend r (pkOparg b % 2 ^ 32) s else s) s)

end Sys2Proof.Machine
end

