-- ==== Sys2Proof/Machine/Desc.lean ====
section
/-! DEFINITION. The collective descriptor (10 Table 10.2, R259-R261; 08 R206, R207), its fields and its checks. -/

namespace Sys2Proof.Machine
open Sys2Proof

/-! ### Fields -/

def cdMagic (d : List Byte) : Nat := le d 0x00 2
def cdKind (d : List Byte) : Nat := le d 0x02 1
def cdCarrier (d : List Byte) : Nat := le d 0x03 1
def cdTree (d : List Byte) : Nat := le d 0x04 2
def cdCseq (d : List Byte) : Nat := le d 0x06 2
def cdRop (d : List Byte) : Nat := le d 0x08 1
def cdRmode (d : List Byte) : Nat := le d 0x09 1
def cdAmode (d : List Byte) : Nat := le d 0x0A 1
def cdSrc (d : List Byte) : Nat := le d 0x0B 1
def cdDst (d : List Byte) : Nat := le d 0x0C 1
def cdNumctl (d : List Byte) : Nat := le d 0x0D 1
def cdAnchor (d : List Byte) : Int := toInt 16 (le d 0x0E 2)
def cdCount (d : List Byte) : Nat := le d 0x10 4
def cdNmem (d : List Byte) : Nat := le d 0x14 4
def cdRbase (d : List Byte) : Nat := le d 0x18 4
def cdRoot (d : List Byte) : Nat := le d 0x1C 4
def cdAnchorPtr (d : List Byte) : Nat := le d 0x20 8
def cdSbuf (d : List Byte) : Nat := le d 0x28 8
def cdLbuf (d : List Byte) (b : Nat) : Nat := le d (0x30 + 8 * b) 8
def cdAux (d : List Byte) : Nat := le d 0x40 8
def cdParam (d : List Byte) (k : Nat) : Nat := le d (0x48 + 4 * k) 4
def cdLcount (d : List Byte) (b : Nat) : Nat := le d (0x58 + 4 * b) 4
def cdBstride (d : List Byte) (b : Nat) : Nat := le d (0x60 + 4 * b) 4
def cdSlot (d : List Byte) : Nat := le d 0x68 1
def cdNlist (d : List Byte) : Nat := le d 0x69 1
def cdWd (d : List Byte) : Nat := le d 0x6A 1
def cdFlag (d : List Byte) : Nat := le d 0x6B 1
def cdLead (d : List Byte) : Nat := le d 0x6C 4
def cdStep (d : List Byte) : Nat := le d 0x70 8

/-- NUMCTL.OVF. -/
def cdOvf (d : List Byte) : Bool := bit (cdNumctl d) 3

/-! Kinds (10 Table 10.1) and operations (08 Table 8.1). -/

def kAllreduce : Nat := 1
def kReduce : Nat := 2
def kReduceScatter : Nat := 3
def kAllgather : Nat := 4
def kBroadcast : Nat := 5
def kAlltoall : Nat := 6
def kAlltoallv : Nat := 7
def kBarrier : Nat := 8
def kScan : Nat := 9
def kStream : Nat := 0xA
def ropSum : Nat := 0
def ropMax : Nat := 1
def ropMin : Nat := 2
def ropScanIncl : Nat := 3
def ropScanExcl : Nat := 4

/-- The kind reduces. -/
def reduces (d : List Byte) : Bool := cdKind d == kAllreduce || cdKind d == kReduce || cdKind d == kReduceScatter || cdKind d == kScan

/-- The reduction is a sum or scan of integers (08 R488). -/
def intSum (d : List Byte) : Bool := isInt (cdSrc d) && cdRop d != ropMax && cdRop d != ropMin

/-- The reduction is MAX or MIN. -/
def isMaxMin (d : List Byte) : Bool := reduces d && (cdRop d == ropMax || cdRop d == ropMin)

/-- The reduction adds nodes of the canonical tree (08 R224); an integer sum is carried as EXACT (R488). -/
def isFast (d : List Byte) : Bool := reduces d && cdRmode d == 1 && cdRop d == ropSum && !isInt (cdSrc d)

/-- The reduction is a floating-point sum or scan in exact mode, to which anchors apply. -/
def hasAnchor (d : List Byte) : Bool := reduces d && !isMaxMin d && !isFast d && !isInt (cdSrc d)

/-- It runs a pre-pass (08 R214). -/
def hasPrepass (d : List Byte) : Bool := hasAnchor d && cdAmode d == 2

/-- Elements of an anchor block; 2^32 stands for all of them (08 R213). -/
def anchorBlockLen (d : List Byte) : Nat :=
  if !hasAnchor d || cdAmode d = 0 then 2 ^ 32 else if cdAmode d = 1 then 4096 else 256

/-- Elements from one member's first element to the next one's in the packets of an ALLGATHER: COUNT, in whole blocks (DESIGN CHOICE: log entry
20). -/
def gatherStride (d : List Byte) : Nat := roundUp (cdCount d) 32

/-- Elements of the whole reduction, or of the gathered result as its packets number it. -/
def cdElems (d : List Byte) : Nat := if cdKind d = kAllgather then cdNmem d * gatherStride d else cdCount d

/-- Bytes that n elements of a format take in a buffer, with the scale plane of an MX format after them (07 R175, R176). -/
def bufBytes (c n : Nat) : Nat := elemBytes c n + scaleBytes c n

/-! ### Checks (R261, R207, R229) -/

/-- Formats with an exact floating-point sum. -/
def sumSrc (c : Nat) : Bool := c ≤ 5 || isMx c
def fastSrc (c : Nat) : Bool := c ≤ 4
def floatDst (c : Nat) : Bool := c ≤ 4

/-- The field of the reduction fields that breaks R207, by its offset: the first in offset order. -/
def reductionFault (d : List Byte) : Option Nat :=
  let rop := cdRop d
  let scan : Bool := rop = ropScanIncl ∨ rop = ropScanExcl
  let mm : Bool := rop = ropMax ∨ rop = ropMin
  let src := cdSrc d
  let int := isInt src
  let fast : Bool := cdRmode d = 1
  let anch := !mm && !int
  if 4 < rop then some 0x08
  else if 1 < cdRmode d ∨ (fast ∧ scan) ∨ (fast ∧ cdCarrier d = 1) then some 0x09
  else if anch ∧ !fast ∧ 2 < cdAmode d then some 0x0A
  else if !(if mm then fmtKnown src else int || (if fast then fastSrc src else sumSrc src)) then some 0x0B
  else if !(if int then cdDst d == fcS32 else floatDst (cdDst d)) then some 0x0C
  else if cdNumctl d / 16 ≠ 0 ∨ cdNumctl d % 8 ≠ 0 then some 0x0D
  else if anch ∧ !fast ∧ cdAmode d = 0 ∧ (cdAnchor d < -224 ∨ 160 < cdAnchor d) then some 0x0E
  else none

/-- ROP does not suit KIND. -/
def ropUnsuited (d : List Byte) : Bool :=
  let k := cdKind d
  if k = kScan then cdRop d != 3 && cdRop d != 4
  else if reduces d then 2 < cdRop d
  else cdRop d != 0

/-- CARRIER is listed for KIND. -/
def carrierOk (d : List Byte) : Bool :=
  let k := cdKind d
  cdCarrier d == 0 ||
    (cdCarrier d == 1 && (k == kAllreduce || k == kReduceScatter || k == kAllgather || k == kBroadcast || k == kBarrier))

/-- The context may run rings and step barriers. -/
def collPriv (s : State) (x : Nat) : Bool := bit (rn64 s (A.dkCollPriv 0)) x

/-- FLAG's counter in every pier, where the context's FLAGMAP entry is VALID (12 R320, R321; 03 Table 3.10). -/
def flagMap (s : State) (x f : Nat) : Option Nat :=
  let w := liveWord s x (0x1040 + f / 2 * 4) / 2 ^ (16 * (f % 2)) % 2 ^ 16
  if bit w 15 then some (w % 256) else none

/-- Offsets of the fields that the broken rules name (R261, R486), for a descriptor whose FLAG, as translated when its command was
dequeued, is a counter or none (12 R321). -/
def descFaults (s : State) (x : Nat) (flag : Option Nat) (d : List Byte) : List Nat :=
  let k := cdKind d
  let root : Bool := k = kReduce ∨ k = kBroadcast
  (if cdMagic d = 0x4344 then [] else [0x00]) ++
  (if 1 ≤ k ∧ k ≤ 0xA then [] else [0x02]) ++
  (if carrierOk d && (cdCarrier d = 0 || collPriv s x) then [] else [0x03]) ++
  (if ropUnsuited d then [0x08] else []) ++
  (if reduces d then (reductionFault d).toList
   else (if fmtKnown (cdSrc d) then [] else [0x0B]) ++
     (if (k = kAllgather ∨ k = kBroadcast) ∧ cdSrc d ≠ cdDst d ∨ !fmtKnown (cdDst d) then [0x0C] else []) ++
     (if 1 < cdRmode d ∨ (cdRmode d = 1 ∧ cdCarrier d = 1) then [0x09] else []) ++
     (if cdNumctl d / 16 ≠ 0 ∨ cdNumctl d % 8 ≠ 0 then [0x0D] else [])) ++
  (if k ≠ kBarrier ∧ cdCount d = 0 then [0x10] else []) ++
  (if k = kReduceScatter ∧ ¬(32 * cdNmem d ∣ cdCount d) then [0x14] else []) ++
  (if ctxRankCount s x < cdNmem d then [0x14] else []) ++
  (if 2 ^ 24 ≤ cdRbase d ∨ (cdNmem d ≤ ctxRankCount s x ∧ ctxRankCount s x < cdRbase d + cdNmem d) then [0x18] else []) ++
  (if root && !(cdRbase d ≤ cdRoot d && cdRoot d < cdRbase d + cdNmem d) then [0x1C] else []) ++
  (if k = kStream ∧ cdNlist d = 0 then [0x69] else []) ++
  (if 4 ≤ cdWd d ∧ cdWd d ≤ 24 then [] else [0x6A]) ++
  (if cdFlag d < 64 ∧ flag.isSome then [] else [0x6B]) ++
  (if cdLead d = 0 ∨ (k = kBarrier ∧ 2000 ≤ cdLead d ∧ cdLead d ≤ 1000000) then [] else [0x6C]) ++
  (if allZero (slice d 0x78 8) then [] else [0x78])

/-- The first faulty field of a descriptor. -/
def descFault (s : State) (x : Nat) (flag : Option Nat) (d : List Byte) : Option Nat :=
  (sortBy Nat.ble (descFaults s x flag d)).head?

/-! ### What an RSE knows of a collective -/

/-- The landings of a collective on this module. -/
def launchedHere (s : State) (tree cseq : Nat) : List Landing :=
  (s.pr.piers.flatMap fun p => p.2.lands).filter fun l =>
    cdCarrier l.desc == 0 && cdTree l.desc == tree && cdCseq l.desc == cseq

/-- What an RSE of this module knows of a collective: a launch on this module, or what it is told (DESIGN CHOICE: log entry 13). -/
def knownHere (s : State) (tree cseq : Nat) (k : Known) : Known :=
  match launchedHere s tree cseq with
  | l :: _ => { k with desc := l.desc, list := l.list, tag := le l.run.bytes 4 4 }
  | [] => { k with desc := slice k.desc 0 128 }

/-- DETAIL of COLL_MALFORMED, STEP_WATCHDOG and COLL_ABANDON. -/
def collDetail (tree cseq low : Nat) : Nat := 2 ^ 52 * (tree % 2 ^ 12) + 2 ^ 36 * (cseq % 2 ^ 16) + low

end Sys2Proof.Machine
end

