-- ==== Sys2Proof/Machine/Power.lean ====
section
/-! DEFINITION. Clocks, the cap controller, its limits, and the turnstile periods (16). -/

namespace Sys2Proof.Machine
open Sys2Proof

/-! ### Clock tree (R404-R406) -/

/-- REFERENCE_LOST: the reference, which was present, is lost: a locked PLL is in holdover and CLK_REF_LOST is raised (R406). -/
def execReferenceLost (s : State) : Host.Outcome State Fault Refusal :=
  let t := wf A.clkStatus 30 30 0 { s with pc := { s.pc with slewing := false } }
  if rbit s A.clkStatus 31 && rbit s A.clkStatus 30 then
    .next (raiseEvent { code := 0x1001, unit := 0x20000 } (wf A.clkStatus 29 29 1 t))
  else .next t

/-- REFERENCE_RETURN: the PLL in holdover begins to slew towards lock (R406). -/
def execReferenceReturn (s : State) : Host.Outcome State Fault Refusal :=
  .next (wf A.clkStatus 30 30 1 { s with pc := { s.pc with slewing := rbit s A.clkStatus 29 } })

/-- RELOCK_END: a slewing PLL relocks, clears HOLDOVER and raises CLK_REF_OK (R406). -/
def execRelockEnd (s : State) : Host.Outcome State Fault Refusal :=
  if s.pc.slewing then
    .next (raiseEvent { code := 0x1002, unit := 0x20000 }
      (wf A.clkStatus 29 29 0 { s with pc := { s.pc with slewing := false } }))
  else .next s

/-! ### The POWER section in use (Table 16.4) -/

def capW (s : State) : Nat := le s.pc.section_ 0 2
def capHi (s : State) : Nat := le s.pc.section_ 2 2
def capLo (s : State) : Nat := le s.pc.section_ 4 2

/-- FIXED: fixed-frequency mode (R415). -/
def fixedMode (s : State) : Bool := bit (le s.pc.section_ 6 1) 0

/-- Class and phase of a span, as 16 c + p (R411). -/
def spanKind (s : State) (i : Nat) : Nat := smGet 0 s.pc.kind i

/-- Field k of the entry of a span's class and phase: 0 PRIO, 1 MINSTEP, 2 MAXSTEP, 3 ADMITMIN. -/
def entField (s : State) (i k : Nat) : Nat := le s.pc.section_ (0x10 + 4 * spanKind s i + k) 1

/-- The demand estimate of a span's class and phase, in 1/16 W (R413). -/
def estimate (s : State) (i : Nat) : Nat := smGet 1040 s.pc.est (128 * i + spanKind s i)

/-- K[j] and VMIN[j] (Table 16.2, R409). -/
def kOf (s : State) (j : Nat) : Nat := s.fuses.kFactor.getD j 0
def vminOf (s : State) (j : Nat) : Nat := s.fuses.vmin.getD j 0

/-- Conservative mode (R418). -/
def conservative (s : State) : Bool := rbit s A.pwrStatus 31

/-- Every span is forced (R417). -/
def forced (s : State) : Bool := rbit s A.pwrStatus 30

/-- A span of a hot die is forced (Table 16.6). -/
def dieHot (s : State) (i : Nat) : Bool := smGet false s.pc.hot (i / 4)

/-- The GE command dequeued in a span sets its class and phase (R411). -/
def noteKind (i cls phase : Nat) (s : State) : State :=
  let k := 16 * (cls % 8) + phase % 16
  if spanKind s i = k then s
  else { s with pc := { s.pc with kind := smPut 0 s.pc.kind i k, moved := smPut false s.pc.moved i true } }

/-- CAP in force and FIXED, as PWR_STATUS shows them (Table 16.11). -/
def showCap (s : State) : State :=
  let cap := match rf s A.pwrStatus 28 27 with
    | 1 => capHi s
    | 2 => capLo s
    | _ => capW s
  wf A.pwrStatus 29 29 (b2n (fixedMode s)) (wf A.pwrStatus 11 0 cap s)

/-! ### Step changes (R410) -/

/-- A span's class, phase or step has not held throughout the control period, or it was forced in it (R413). -/
def noteMoved (i : Nat) (s : State) : State := { s with pc := { s.pc with moved := smPut false s.pc.moved i true } }

/-- The divider of a span switches to a step. -/
def switchStep (i j : Nat) (s : State) : State :=
  if rf s (A.clkSpan i) 30 28 = j then s else wf (A.clkSpan i) 30 28 j (noteMoved i s)

/-- Gives a span a target step: a raise ramps the voltage first and switches at RAMP_END; a lower, and a raise whose voltage the rail
already has, switches the divider first. -/
def setTarget (i j : Nat) (s : State) : State :=
  let a := A.clkSpan i
  let v := vminOf s j + 60
  let here := rf s a 15 0 = v ∧ ¬rbit s a 31
  let lower := j < rf s a 30 28
  let s := wf a 26 24 j s
  let s := if lower ∨ here then switchStep i j s else s
  if rf s a 15 0 = v then s else wf a 31 31 1 (wf a 15 0 v s)

/-- Forces a span: step 0 at once, or admission level 8 in fixed-frequency mode (R417). -/
def forceSpan (i : Nat) (s : State) : State :=
  if fixedMode s then wf (A.clkSpan i) 23 16 8 s else setTarget i 0 (wf (A.clkSpan i) 31 31 0 s)

/-- RAMP_END: a ramp arrives and the divider switches to the span's target (R410). -/
def execRampEnd (i : SpanNo) (s : State) : Host.Outcome State Fault Refusal :=
  let a := A.clkSpan i
  if rbit s a 31 then .next (wf a 31 31 0 (switchStep i (rf s a 26 24) s)) else .next s

/-- Forces every span and raises PWR_EXCURSION: why is 0 for the 2,900 W limit, 1 for the 1 ms limit (R417). -/
def excursion (why : Nat) (s : State) : State :=
  raiseEvent { code := 0x1004, unit := 0x20000, detail := why }
    ((List.range 8).foldl (fun s i => forceSpan i s) (wf A.pwrStatus 30 30 1 s))

/-- FORCE_END: the 1 ms force ends and allocation resumes (R417); nothing is learned of the period in which it ends (R413). -/
def execForceEnd (s : State) : Host.Outcome State Fault Refusal :=
  .next (wf A.pwrStatus 30 30 0 (if forced s then (List.range 8).foldl (fun s i => noteMoved i s) s else s))

/-! ### Samples (R408, R417, R418) -/

/-- Power of a rail sample, in 10 µW. -/
def samplePower (q : BitVec 16 × BitVec 16) : Nat := q.1.toNat * q.2.toNat

/-- A sample of a span is divergent: M_s exceeds 5 W and |A_s − M_s| > 0.15 × M_s. -/
def divergent (a m : Nat) : Bool := 500000 < m && 15 * m < 100 * ((a : Int) - m).natAbs

/-- The divergence count of one span after a sample; at 100 the controller enters conservative mode (R418). -/
def divergeSample (i : Nat) (s : State) : State :=
  let d := divergent (smGet 0 s.pc.activity i) (smGet 0 s.pc.measured i)
  let n := if d then smGet 0 s.pc.diverge i + 1 else 0
  let s := { s with pc := { s.pc with diverge := smPut 0 s.pc.diverge i (n % 100) } }
  if n = 100 ∧ !conservative s then raiseEvent { code := 0x1003, unit := 0x20000, detail := i } (wf A.pwrStatus 31 31 1 s) else s

/-- RAIL_SAMPLE: the voltage (mV) and current (10 mA) of every rail, in the order of Table 16.3, and the activity
estimates A_s of the spans (10 µW). It writes PWR_RAIL, and checks the excursion and divergence limits. -/
def execRailSample (rails : List (BitVec 16 × BitVec 16)) (act : List Nat) (s : State) : Host.Outcome State Fault Refusal :=
  let rail := fun k => rails.getD k (0, 0)
  let s := (List.range 18).foldl (fun s k =>
    wn (A.pwrRail k) (2 ^ 16 * (rail k).2.toNat + (rail k).1.toNat) s) s
  let pin := samplePower (rail 16)
  let cap := rf s A.pwrStatus 11 0
  let above := s.pc.section_ ≠ [] && 100000 * cap < pin
  let run := if above then s.pc.overCap + 1 else 0
  let s := { s with pc := { s.pc with
    samples := (pin :: s.pc.samples).take 1000
    overCap := run % 100
    measured := (List.range 8).foldl (fun m i => smPut 0 m i (samplePower (rail i))) s.pc.measured
    activity := (List.range 8).foldl (fun m i => smPut 0 m i (act.getD i 0)) s.pc.activity } }
  let s := if 290000000 < pin then excursion 0 s else if run = 100 then excursion 1 s else s
  .next ((List.range 8).foldl (fun s i => divergeSample i s) s)

/-! ### The control period (R413-R415) -/

/-- The controller's update of a span's estimate: E + (p × 256 ÷ K[j] − E) ÷ 8, truncated to 1/16 W. -/
def learn (e p k : Nat) : Nat := (100000 * (7 * e * k) + 256 * (p * 16)) / (100000 * (8 * k))

/-- Learning of one span at the end of a control period: it kept one class, phase and step and was not forced. -/
def learnSpan (i : Nat) (s : State) : State :=
  if smGet false s.pc.moved i || forced s || dieHot s i then s
  else
    let a := smGet 0 s.pc.activity i
    let p := if conservative s then max a (smGet 0 s.pc.measured i) else a
    let k := kOf s (rf s (A.clkSpan i) 30 28)
    { s with pc := { s.pc with est := smPut 1040 s.pc.est (128 * i + spanKind s i) (learn (estimate s i) p k) } }

/-- The largest step of a span, under its entry, the die's limit and conservative mode. -/
def maxStep (s : State) (i : Nat) : Nat :=
  let m := entField s i 2
  let m := if smGet false s.pc.limit (i / 4) then min m 1 else m
  if conservative s then min m 3 else m

/-- The range of levels that allocation gives a span: steps, or admission levels in eighths in fixed-frequency mode. -/
def levelRange (s : State) (i : Nat) : Nat × Nat :=
  if fixedMode s then (entField s i 3 / 8, 8) else (min (entField s i 1) (maxStep s i), maxStep s i)

/-- The prediction of a span at a level, in 1/4,096 W: E × K[j] ÷ 256, or E × a ÷ 64 (R413). -/
def predict (s : State) (i t : Nat) : Nat :=
  if fixedMode s then estimate s i * t * 32 else estimate s i * kOf s t

/-- One choice of the loop of R414: the candidate with highest PRIO, then lowest level, then lowest span. -/
def pickSpan (s : State) (t : List Nat) (cost : Nat → Int) (b : Int) : Option Nat :=
  let cand := (List.range 8).filter fun i => t.getD i 0 < (levelRange s i).2 && cost i ≤ b
  cand.foldl (fun best i => match best with
    | none => some i
    | some j =>
      if entField s j 0 < entField s i 0 ∨ (entField s j 0 = entField s i 0 ∧ t.getD i 0 < t.getD j 0)
      then some i else some j) none

/-- The loop of R414; unit is the scale of the budget in 1/4,096 W. -/
def raiseLevels (s : State) (unit_ : Int) : Nat → List Nat → Int → List Nat
  | 0, t, _ => t
  | n + 1, t, b =>
    let cost := fun i => ((predict s i (t.getD i 0 + 1) : Int) - predict s i (t.getD i 0)) * unit_
    match pickSpan s t cost b with
    | some i => raiseLevels s unit_ n (t.set i (t.getD i 0 + 1)) (b - cost i)
    | none => t

/-- The levels that R414 gives the spans. All powers are scaled by 100,000 × 1,024 × 4,096 × n per watt, n the number
of samples in the mean. -/
def allocate (s : State) : List Nat :=
  let n : Int := max 1 s.pc.samples.length
  let u : Int := 1024 * 4096 * n
  let capw : Int := rf s A.pwrStatus 11 0
  let pin : Int := s.pc.samples.headD 0
  let spans : Int := ((List.range 8).map fun i => smGet 0 s.pc.measured i).sum
  let fixed := pin * u - s.fuses.loss * spans * (4096 * n)
  let excess := max 0 ((s.pc.samples.sum : Int) * (1024 * 4096) - (100000 * capw) * u)
  let t := (List.range 8).map fun i => (levelRange s i).1
  let base : Int := ((List.range 8).map fun i => predict s i (t.getD i 0)).sum
  let b := (100000 * capw) * u - fixed - excess - base * (100000 * 1024 * n)
  raiseLevels s (100000 * 1024 * n) 64 t b

/-- Applies a span's level: its target step with every window open, or its admission level at step 3 in fixed-frequency mode. -/
def applyLevel (t : List Nat) (i : Nat) (s : State) : State :=
  if forced s || dieHot s i then s
  else if fixedMode s then setTarget i 3 (wf (A.clkSpan i) 23 16 (8 * t.getD i 0) s)
  else setTarget i (t.getD i 0) (wf (A.clkSpan i) 23 16 64 s)

/-- CONTROL_PERIOD: the estimates are updated and every span's target is set (R413, R414). Without a POWER section the
spans stay at their reset step. -/
def execControlPeriod (s : State) : Host.Outcome State Fault Refusal :=
  if s.pc.section_ = [] then .next s
  else
    let s := (List.range 8).foldl (fun s i => learnSpan i s) s
    let s := { s with pc := { s.pc with moved := [] } }
    let t := allocate s
    .next ((List.range 8).foldl (fun s i => applyLevel t i s) s)

/-! ### Temperature (R419) -/

/-- One die's reading: limits enter at their thresholds and leave 5 °C below them (Table 16.6). -/
def dieSample (d : Nat) (temp : BitVec 16) (s : State) : State :=
  let t := temp.toInt
  let s := wn (A.pwrDieTemp d) temp.toNat s
  let was := smGet false s.pc.limit d
  let limit := 1600 ≤ t ∨ (was ∧ 1520 < t)
  let hot := 1760 ≤ t ∨ (smGet false s.pc.hot d ∧ 1680 < t)
  let s := if smGet false s.pc.hot d then (List.range 4).foldl (fun s i => noteMoved (4 * d + i) s) s else s
  let s := { s with pc := { s.pc with limit := smPut false s.pc.limit d (decide limit)
                                      hot := smPut false s.pc.hot d (decide hot) } }
  let s := wf A.pwrStatus 26 26 (b2n (smGet false s.pc.hot 0 || smGet false s.pc.hot 1)) s
  let s := if decide limit && !was then
      raiseEvent { code := 0x1005, unit := 0x20000, detail := 2 ^ 8 * d + (t / 16).toNat % 256 } s else s
  if hot then (List.range 4).foldl (fun s i => forceSpan (4 * d + i) s) s else s

/-- DIE_TEMP_SAMPLE: the junction temperatures of both dies, in 1/16 °C. -/
def execDieTempSample (t0 t1 : BitVec 16) (s : State) : Host.Outcome State Fault Refusal :=
  .next (dieSample 1 t1 (dieSample 0 t0 s))

/-! ### Hints, PWR_CTRL, turnstile periods -/

/-- A module that receives or sends a CRITICAL_PATH hint changes its cap: CAP_HI when it is named, else CAP_LO (R416). -/
def applyHint (sw : Nat) (s : State) : State :=
  showCap (wf A.pwrStatus 28 27 (if sw = rf s A.rtSwitchId 15 0 then 1 else 2) s)

/-- HINT_HOLD_END: the hold ends and the cap returns to CAP_W (R416). -/
def execHintHoldEnd (s : State) : Host.Outcome State Fault Refusal := .next (showCap (wf A.pwrStatus 28 27 0 s))

/-- CLEAR_CONS written to PWR_CTRL: conservative mode ends, and the counts of divergent samples start again (R418). -/
def clearCons (s : State) : State :=
  wf A.pwrStatus 31 31 0 (wn A.pwrCtrl 1 { s with pc := { s.pc with diverge := [] } })

/-- CLEAR_CONS: PWR_CTRL written with OP 1; KL. -/
def execClearCons (p : GPort) (s : State) : Host.Outcome State Fault Refusal :=
  .next (wrRow p A.pwrCtrl 1 (fun _ s => if holds s p 0 then (clearCons s, stOk) else (klDenied p A.pwrCtrl s, stIgnored)) s)

/-- Brings the TURNSTILE and POWER versions in force into use (02 Table 2.12; 16 R424). -/
def useSections (s : State) : State :=
  let b := sect s secTurnstile
  let s := if b = [] then s else
    (List.range 9).foldl (fun s a => wn (A.tstBudget a) (le b (4 + 2 * a) 2) s) (wn A.tstPeriod (le b 0 2) s)
  if sect s secPower = [] then s else showCap { s with pc := { s.pc with section_ := sect s secPower } }

/-- A count at the start of a period: only the excess over its budget stays, charged to the new period (R422, R423). -/
def carryOver (s : State) (k n : Nat) : Nat := n - budgetIn s (k / 32) (k % 32) * periodCycles s / 1024

/-- A turnstile period begins: each instance may run a sentinel vector, and vectors that failed are due again (18 R461, R462). -/
def sentinelPeriod (s : State) : State :=
  { s with snt := { s.snt with period := [], retest := s.snt.retest.map fun y => { y with due := true } } }

/-- TURNSTILE_PERIOD: a period begins on every unit (R420); trace records of the last one that were not written are dropped (12
R336). -/
def execTurnstilePeriod (s : State) : Host.Outcome State Fault Refusal :=
  let t := s.tst.foldl (fun m p => smPut 0 m p.1 (carryOver s p.1 p.2)) []
  .next (sentinelPeriod (traceDropAll (useSections { s with tst := t })))

end Sys2Proof.Machine
end

