-- ==== Sys2Proof/Machine/Pier.lean ====
section
/-! DEFINITION. What the meanings of the pier side share: local addresses and stores (11 R289), the windows and memory faults of
engine accesses (03 R74, 15 R394), commands and their fields (R297), status and completion (R299), flag counters (12
R320-R326). -/

namespace Sys2Proof.Machine
open Sys2Proof

/-! ### State access -/

def getPier (s : State) (p : Nat) : Pier := smGet Pier.reset s.pr.piers p

/-- Updates a pier. -/
def onPier (p : Nat) (f : Pier → Pier) (s : State) : State :=
  { s with pr := { s.pr with piers := smPut Pier.reset s.pr.piers p (f (getPier s p)) } }

def getEng (s : State) (p e : Nat) : Eng := smGet Eng.reset (getPier s p).engs e

/-- Updates an engine of a pier. -/
def onEng (p e : Nat) (f : Eng → Eng) (s : State) : State :=
  onPier p (fun q => { q with engs := smPut Eng.reset q.engs e (f (smGet Eng.reset q.engs e)) }) s

/-! Engine numbers (11 Table 11.3). -/

def eDmi : Nat := 4
def eDmo : Nat := 5
def eTxe : Nat := 6
def eRxe : Nat := 7
def eCore : Nat := 8

/-- SUB of a pier's records: its girder, 4 for its other engines. -/
def subOf (e : Nat) : Nat := min e 4

/-! ### Fields of a command (11 Table 11.4) -/

def cmOp (b : List Byte) : Nat := le b 0 1
def cmFlags (b : List Byte) : Nat := le b 1 1
def cmFence (b : List Byte) : Bool := bit (cmFlags b) 0
def cmWaitEn (b : List Byte) : Bool := bit (cmFlags b) 1
def cmSigEn (b : List Byte) : Bool := bit (cmFlags b) 2
def cmCstatEn (b : List Byte) : Bool := bit (cmFlags b) 3
def cmWaitf (b : List Byte) : Nat := le b 2 1
def cmSigf (b : List Byte) : Nat := le b 3 1
def cmTag (b : List Byte) : Nat := le b 4 4
def cmNumctl (b : List Byte) : Nat := le b 8 1
def cmFa (b : List Byte) : Nat := le b 9 1
def cmFb (b : List Byte) : Nat := le b 10 1
def cmFc (b : List Byte) : Nat := le b 11 1
def cmCstat (b : List Byte) : Nat := le b 12 4

/-! Status codes (11 Table 11.7). -/

def csOk : Nat := 0
def csMalformed : Nat := 1
def csTimeout : Nat := 2
def csFenced : Nat := 3
def csFaulted : Nat := 4
def csCancelled : Nat := 5

/-! ### Local stores (11 R289, Table 11.1) -/

/-- First byte and length of the store that holds a local address. -/
def storeOf (a : Nat) : Option (Nat × Nat) :=
  if a < 0x200000 then some (0, 0x200000)
  else if a < 0x400000 then some (0x80000 * (a / 0x80000), 0x80000)
  else none

/-- n bytes at a local address lie in one store that an engine reaches. -/
def localOk (e a n : Nat) : Bool :=
  match storeOf a with
  | some (b, l) => decide (a + n ≤ b + l) && (b == 0 || 4 ≤ e || b == 0x200000 + 0x80000 * e)
  | none => false

/-- The u64 address is local. -/
def isLocal (a : Nat) : Bool := bit a 63

/-- A u64 address is an HBM address, or a local one in a store that the engine reaches. -/
def addrOk (e a : Nat) : Bool := !isLocal a || (a % 2 ^ 63 < 2 ^ 24 && localOk e (a % 2 ^ 24) 0)

/-- n bytes at a local address. -/
def locRd (s : State) (p a n : Nat) : List Byte := smGetAll (fun _ => 0) s.pr.store (2 ^ 24 * p + a) 1 n

/-- Writes bytes at a local address. -/
def locWr (p a : Nat) (bs : List Byte) (s : State) : State :=
  { s with pr := { s.pr with store := smPutAll (fun _ => 0) s.pr.store (2 ^ 24 * p + a) 1 bs } }

/-- Save area of pier p for context x (11 R318); none where CTX_SAVE_BASE is not VALID. -/
def saveArea (s : State) (x p : Nat) : Option Nat :=
  let b := rn64 s (A.ctxSaveBase x 0)
  if bit b 0 then some (b - 1 + 0x480000 * p) else none

/-- The context is resident on the pier. -/
def residentOn (s : State) (x p : Nat) : Bool := (getPier s p).resident == some x

/-- Bytes at a local address of context x: while x is saved they stand in its save area (11 R318). -/
def ctxLocRd (s : State) (x p a n : Nat) : List Byte :=
  if residentOn s x p then locRd s p a n
  else match saveArea s x p with
    | some b => hbmRd s (b + a) n
    | none => List.replicate n 0

/-- Writes bytes at a local address of context x. -/
def ctxLocWr (x p a : Nat) (bs : List Byte) (s : State) : State :=
  if residentOn s x p then locWr p a bs s
  else match saveArea s x p with
    | some b => hbmWr (b + a) bs s
    | none => s

/-! ### Engine accesses (03 R74, 15 R394) -/

/-- Who makes an access: its context, pier, tag and engine. -/
structure By where
  ctx : Nat
  pier : Nat
  tag : Nat
  engine : Nat
  deriving DecidableEq, Repr

/-- The access of a command. -/
def RunCmd.by_ (r : RunCmd) (p e : Nat) : By := { ctx := r.ctx, pier := p, tag := cmTag r.bytes, engine := e }

/-- Raises a CTXF fault of a pier's engine. -/
def byFault (w : By) (code detail : Nat) (s : State) : State :=
  raiseFault { code := code, cls := .ctxf, ctx := w.ctx, unit := pierUnit w.pier, tag := w.tag, detail := detail,
               sub := subOf w.engine, engine := w.engine } s

/-- A denied piece (03 R74). -/
def byDenied (w : By) (a : Nat) (s : State) : State := byFault w 0x030A a s

/-- The uncorrectable word that an access for a context meets (15 R394). -/
def byMemUe (w : By) (a : Nat) (s : State) : State := byFault w 0x0F01 (2 ^ 32 * w.tag + a % 2 ^ 32) (countUe 1 a s)

/-- The pieces of a read, in order: the first that is denied or cannot be corrected stops it. -/
def readPieces (w : By) (perm : Perm) : List (Nat × Nat) → State → Bool × State
  | [], s => (true, s)
  | q :: qs, s =>
    if !winOk s w.ctx q.1 q.2 perm then (false, byDenied w q.1 s)
    else match badWord s q.1 q.2 with
      | some a => (false, byMemUe w a s)
      | none => readPieces w perm qs s

/-- n bytes at a u64 address, none where a piece was denied or could not be corrected. -/
def fetch (w : By) (perm : Perm) (a n : Nat) (s : State) : Option (List Byte) × State :=
  if isLocal a then (some (ctxLocRd s w.ctx w.pier (a % 2 ^ 24) n), s)
  else
    let r := readPieces w perm (piecesOf a n) s
    (if r.1 then some (hbmRd s a n) else none, r.2)

/-- The pieces of a write, in order; those before a denied piece stay performed. A write to a FAILED channel is lost (15 R398). -/
def writePieces (w : By) : List (Nat × Nat) → List Byte → State → Bool × State
  | [], _, s => (true, s)
  | q :: qs, bs, s =>
    if !winOk s w.ctx q.1 q.2 .w then (false, byDenied w q.1 s)
    else writePieces w qs (bs.drop q.2) (hbmWr q.1 (bs.take q.2) s)

/-- Writes bytes at a u64 address; false where a piece was denied. -/
def store (w : By) (a : Nat) (bs : List Byte) (s : State) : Bool × State :=
  if isLocal a then (true, ctxLocWr w.ctx w.pier (a % 2 ^ 24) bs s)
  else writePieces w (piecesOf a bs.length) bs s

/-! ### Flag counters (12 R320-R326) -/

/-- The count of counter k of a pier. -/
def flagCount (s : State) (p k : Nat) : Nat := rf s (A.pierFlag p k) 7 0

/-- A signal of engine e on counter k, for flag f of a command: lost at 255 (12 R325, R326). -/
def signal (w : By) (f k : Nat) (s : State) : State :=
  let n := flagCount s w.pier k
  if n = 255 then byFault w 0x0C01 (2 ^ 32 * w.tag + 2 ^ 16 * w.engine + 2 ^ 8 * f + k) s
  else traced { kind := 3, engine := w.engine, pier := w.pier, ctx := w.ctx, tag := w.tag, flag := f, counter := k,
                count := n + 1 } (wf (A.pierFlag w.pier k) 7 0 (n + 1) s)

/-! ### Status and completion (11 R299) -/

/-- The command that engine e runs, where it has OP and no status yet. -/
def runningOp (s : State) (p e op : Nat) : Option RunCmd :=
  match (getEng s p e).running with
  | some r => if r.status.isNone && cmOp r.bytes == op then some r else none
  | none => none

/-- Gives the running command of an engine its status and DETAIL. -/
def finish (p e status detail : Nat) (s : State) : State :=
  onEng p e (fun g => { g with running := g.running.map fun r => { r with status := some status, detail := detail } }) s

/-- A malformed command: nothing is sent or written (11 R300). -/
def malformed (p e off : Nat) (r : RunCmd) (s : State) : State :=
  finish p e csMalformed 0 (byFault (r.by_ p e) 0x0B01 (2 ^ 32 * cmTag r.bytes + off) s)

/-- The completion word of a command (11 R299). -/
def completionWord (tag status detail : Nat) : Nat := 2 ^ 32 * tag + 2 ^ 24 * status + detail % 2 ^ 24

/-- Writes a completed command's completion word, counts it, and signals SIGF where the status is OK and SIG_EN is 1. A malformed
CSTAT takes no word. -/
def completeCmd (p e : Nat) (r : RunCmd) (status detail : Nat) (s : State) : State :=
  let b := r.bytes
  let w := completionWord (cmTag b) status detail
  let s := if cmCstatEn b && cmCstat b % 8 == 0 && cmCstat b < 0x200000 then
      ctxLocWr r.ctx p (cmCstat b) (leBytes 8 w) s
    else s
  let s := wn (A.pierDone p e) ((rn s (A.pierDone p e) + 1) % 2 ^ 32) s
  let s := traced { kind := 2, engine := e, pier := p, ctx := r.ctx, tag := cmTag b, seq := r.seq, status := status, detail := w } s
  match status, cmSigEn b, r.sig with
  | 0, true, some k => signal (r.by_ p e) (cmSigf b) k s
  | _, _, _ => s

/-- Takes the running command off an engine and completes it. -/
def completeRunning (p e : Nat) (r : RunCmd) (status detail : Nat) (s : State) : State :=
  completeCmd p e r status detail (onEng p e (fun g => { g with running := none }) s)

/-- Leaves the running command to the engine's tracked ones. -/
def track (p e : Nat) (r : RunCmd) (a : Awaits) (s : State) : State :=
  onEng p e (fun g => { g with running := none, track := g.track ++ [{ run := r, awaits := a }] }) s

/-! ### Field checks (11 R300) -/

/-- Offset o where a field breaks its rule. -/
def breaks (c : Bool) (o : Nat) : List Nat := if c then [o] else []

/-- A reserved area of n bytes at offset o. -/
def mustBeZero (b : List Byte) (o n : Nat) : List Nat := breaks (!allZero (slice b o n)) o

/-- A local u32 field at offset o whose n bytes the engine uses; the offset of the last field that gives the range is rel. -/
def localField (e : Nat) (b : List Byte) (o n rel : Nat) : List Nat :=
  breaks (!localOk e (le b o 4) 0) o ++ breaks (localOk e (le b o 4) 0 && !localOk e (le b o 4) n) rel

/-- A u64 address field at offset o whose n bytes the engine uses. -/
def addrField (e : Nat) (b : List Byte) (o n rel : Nat) : List Nat :=
  breaks (!addrOk e (le b o 8)) o ++
    breaks (addrOk e (le b o 8) && isLocal (le b o 8) && !localOk e (le b o 8 % 2 ^ 24) n) rel

/-- NUMCTL of a command that converts or multiplies: reserved bits and PASS 3, and PASS for operands that are not all FP32, the last
of whose formats stands at offset o (07 R185, R200; 00 R486). -/
def numctlFault (b : List Byte) (o : Nat) : List Nat :=
  let c := cmNumctl b
  breaks (c / 16 != 0 || c % 4 == 3) 8 ++ breaks (c % 4 != 0 && (cmFa b != 0 || (cmFb b != 0 && o == 10))) o

/-- Header bytes that a command without formats and numbers must leave 0. -/
def noNumbers (b : List Byte) : List Nat := (List.range 4).flatMap fun i => mustBeZero b (8 + i) 1

/-- CSTAT where it is used. -/
def cstatFault (b : List Byte) : List Nat := breaks (cmCstatEn b && !(cmCstat b % 8 == 0 && cmCstat b < 0x200000)) 12

/-- The first faulty field. -/
def firstFault (l : List Nat) : Option Nat := (sortBy Nat.ble l).head?

/-- Runs the command of an engine and an OP: malformed where a field is, otherwise f. -/
def runOp (p e op : Nat) (faults : State → RunCmd → List Nat) (f : RunCmd → State → State) (s : State) : State :=
  match runningOp s p e op with
  | none => s
  | some r =>
    match firstFault (cstatFault r.bytes ++ faults s r) with
    | some o => malformed p e o r s
    | none => f r s

end Sys2Proof.Machine
end

