-- ==== Sys2Proof/Machine/Retire.lean ====
section
/-! DEFINITION. The unit map, sentinel tests and retirements (01 R24-R29; 18 R458-R463). -/

namespace Sys2Proof.Machine
open Sys2Proof

/-! ### The unit map (01 R24-R26) -/

/-- The pier has a slot. -/
def mapValid (s : State) (p : Nat) : Bool := rbit s (A.dkPierMap p) 31

/-- Physical slot of a pier. -/
def mapSlot (s : State) (p : Nat) : Nat := rf s (A.dkPierMap p) 28 24

/-- Skip field of girder g of a pier. -/
def rskip (s : State) (p g : Nat) : Nat := rf s (A.dkPierMap p) (5 * g + 4) (5 * g)

/-- Physical position of logical rivet r (01 R25). -/
def physRivet (s : State) (p g r : Nat) : Nat := if r < rskip s p g then r else r + 1

/-- The logical pier in a slot of a span. -/
def pierAt (s : State) (span slot : Nat) : Option Nat :=
  ((List.range 16).map (16 * span + ·)).find? fun p => mapValid s p && mapSlot s p == slot

/-- The slot is good. -/
def slotGood (s : State) (span slot : Nat) : Bool := slot < 17 && rbit s (A.dkSpanSlots span) slot

/-- The logical pier that a slot holds once the copies under way have ended. -/
def pierDue (s : State) (span slot : Nat) : Option Nat :=
  match s.snt.copying.find? fun m => m.pier / 16 == span && m.slot == slot with
  | some m => some m.pier
  | none => (pierAt s span slot).filter fun p => !beingCopied s p

/-- The lowest spare slot of a span that no copy under way has taken. -/
def spareSlot (s : State) (span : Nat) : Option Nat :=
  (List.range 17).find? fun t => slotGood s span t && (pierAt s span t).isNone && (pierDue s span t).isNone

/-- Clears the good bit of a slot. -/
def clearGood (span slot : Nat) (s : State) : State := wf (A.dkSpanSlots span) slot slot 0 s

/-- SPARES_FREE of a span falls by 1. -/
def spendSpare (span : Nat) (s : State) : State :=
  wf (A.dkSpanSlots span) 28 24 (rf s (A.dkSpanSlots span) 28 24 - 1) s

def onSnt (f : Sentinel → Sentinel) (s : State) : State := { s with snt := f s.snt }

/-! ### The retirement list (R463) -/

/-- A RETIRE entry (02 Table 2.6). -/
def retireEntry (kind span pier girder rivet : Nat) : Nat :=
  kind + 2 ^ 8 * span + 2 ^ 16 * pier + 2 ^ 24 * girder + 2 ^ 32 * rivet

/-- Request q names the unit of r, or a pier or girder that contains it. -/
def coversUnit (q r : Retire) : Bool :=
  q.span == r.span && q.slot == r.slot &&
    (q.kind == 0 || q.kind == 3 || (q.kind == 1 && (r.kind == 1 || r.kind == 2) && q.girder == r.girder) ||
      (q.kind == 2 && r.kind == 2 && q.girder == r.girder && q.pos == r.pos))

/-- Requests pending: on the list, those that wait for their girder, and those whose copy is under way. -/
def pendingRetires (s : State) : List Retire := s.snt.list ++ s.snt.rivetDue ++ s.snt.copying.map Move.req

/-- Adds a request, unless the list holds one for the unit, or has no room. -/
def addRetire (r : Retire) (s : State) : State :=
  if (pendingRetires s).any (coversUnit · r) || decide (32 ≤ (pendingRetires s).length) then s
  else onSnt (fun t => { t with list := t.list ++ [r] }) s

/-- RETIRE_REQUEST's register SNT_RETIRE, written by port p (R463): its state, and its status. -/
def writeRetire (p : GPort) (w : Word) (s : State) : State × Nat :=
  let kind := fget w 17 16
  let span := fget w 14 12
  let pier := 16 * span + fget w 11 8
  let g := fget w 5 4
  let r := fget w 3 0
  if !holds s p (dieOf A.sntRetire) then (klDenied p A.sntRetire s, stIgnored)
  else if fget w 31 28 ≠ 1 ∨ 16 ≤ (pendingRetires s).length ∨ kind = 3 ∨ !mapValid s pier then (s, stIgnored)
  else
    let q : Retire := { kind := kind, span := span, slot := mapSlot s pier, girder := if kind = 0 then 0 else g,
                        pos := if kind = 2 then physRivet s pier g r else 0,
                        entry := retireEntry kind span (pier % 16) (if kind = 0 then 0 else g) (if kind = 2 then r else 0) }
    (addRetire q (wr A.sntRetire (fieldsOnly A.sntRetire w) s), stOk)

/-- RETIRE_REQUEST: port p writes SNT_RETIRE with OP REQUEST. -/
def execRetireRequest (p : GPort) (kind : Fin 4) (span : SpanNo) (pier : Fin 16) (g : GirdNo) (r : Fin 16) (s : State) :
    Host.Outcome State Fault Refusal :=
  let w := 2 ^ 28 + 2 ^ 16 * kind.val + 2 ^ 12 * span.val + 2 ^ 8 * pier.val + g.val * 2 ^ 4 + r.val
  .next (wrRow p A.sntRetire (BitVec.ofNat 32 w) (writeRetire p) s)

/-! ### Retirements carried out at a step boundary (01 R27, R28) -/

/-- Raises RETIRED. -/
def retired (unit entry : Nat) (s : State) : State := raiseEvent { code := 0x1203, unit := unit, detail := entry } s

/-- Pier p retires: its stores begin to be copied to the lowest spare slot of its span, and its queues are held until the copy
ends. A rivet retirement that waits for a girder of the old slot has no effect any more (R463). -/
def retirePier (p : Nat) (r : Retire) (s : State) : State :=
  let span := p / 16
  match spareSlot s span with
  | none => raiseFault { code := 0x1204, cls := .devf, unit := pierUnit p, detail := span } s
  | some t =>
    onSnt (fun x => { x with copying := x.copying ++ [{ req := r, pier := p, slot := t }]
                             rivetDue := x.rivetDue.filter fun q => q.span != span || q.slot != mapSlot s p }) s

/-- A pier's copy has ended: the maps name its new slot (01 R28, steps 3 and 4 of the worked example). -/
def moveMaps (p t : Nat) (s : State) : State :=
  spendSpare (p / 16) (clearGood (p / 16) (mapSlot s p) (wn (A.dkPierMap p) (2 ^ 31 + 2 ^ 24 * t + fuseSkips s.fuses (p / 16) t) s))

/-- The number that identifies a girder of a slot. -/
def girderKey (span slot g : Nat) : Nat := 4 * (32 * span + slot) + g

/-- Carries out a request. One whose unit has already left service has no effect. Neither has the removal of a spare slot that a
pier has been given at the same boundary (DESIGN CHOICE: log entry 71). -/
def carryOut (s : State) (r : Retire) : State :=
  match pierDue s r.span r.slot with
  | none => if r.kind = 3 ∧ slotGood s r.span r.slot ∧ (pierAt s r.span r.slot).isNone then
      spendSpare r.span (clearGood r.span r.slot s) else s
  | some p =>
    if r.kind = 3 then s
    else if r.kind = 2 ∧ rskip s p r.girder = 16 ∧ !s.snt.idleBad.contains (girderKey r.span r.slot r.girder) ∧
        !s.snt.rivetDue.any (fun q => q.span == r.span && q.slot == r.slot && q.girder == r.girder) then
      onSnt (fun x => { x with rivetDue := x.rivetDue ++ [r] }) s
    else retirePier p r s

/-- Place of a request in the order of R27: its pier, pier and girder retirements before rivets; spare slots last, for which R27
gives no place (DESIGN CHOICE: log entry 71). -/
def retireOrder (s : State) (r : Retire) : Nat :=
  match pierAt s r.span r.slot with
  | some p => 2 * p + b2n (r.kind == 2)
  | none => 256

/-- The retirements that are due at a step boundary. -/
def carryOutRetires (s : State) : State :=
  let due := sortBy (fun a b => Nat.ble (retireOrder s a) (retireOrder s b)) s.snt.list
  due.foldl carryOut (onSnt (fun x => { x with list := [] }) s)

/-- PIER_COPY_END: a retired pier's stores stand in its new slot: the maps name it, the retirement has been carried out, and the
pier's queues go on. -/
def execPierCopyEnd (p : PierNo) (s : State) : Host.Outcome State Fault Refusal :=
  match s.snt.copying.find? fun m => m.pier == p.val with
  | none => .next s
  | some m =>
    .next (retired (pierUnit p.val) m.req.entry (onSnt (fun x => { x with copying := x.copying.erase m }) (moveMaps p.val m.slot s)))

/-- RIVET_RETIRE_APPLY: girder g of pier p is between macro-operations, and the rivet retirement that waits for it takes effect
(R28). -/
def execRivetRetireApply (p : PierNo) (g : GirdNo) (s : State) : Host.Outcome State Fault Refusal :=
  match s.snt.rivetDue.find? fun q => q.span == p.val / 16 && q.slot == mapSlot s p.val && q.girder == g.val with
  | none => .next s
  | some q =>
    if (getEng s p.val g.val).running.isSome || !mapValid s p.val || beingCopied s p.val then .next s
    else
      let s := onSnt (fun x => { x with rivetDue := x.rivetDue.erase q }) s
      .next (retired (pierUnit p.val) q.entry (wf (A.dkPierMap p.val) (5 * g.val + 4) (5 * g.val) q.pos s))

/-! ### Sentinel failures (R462) -/

def sntAuto (s : State) : Bool := rbit s A.sntCfg 30

/-- Raises SENTINEL_FAIL. -/
def sntFault (unit : Nat) (cls : FaultClass) (sub detail : Nat) (s : State) : State :=
  raiseFault { code := 0x1202, cls := cls, unit := unit, sub := sub, detail := detail }
    (wf A.sntStatus 15 8 (satAdd 255 (rf s A.sntStatus 15 8) 1) s)

/-- The deck lists a cure where AUTO_RETIRE is 1. -/
def listCure (r : Retire) (s : State) : State := if sntAuto s then addRetire r s else s

/-- Rivet code of a position for a logical pier's girder whose skip field is k. -/
def rivetCode (k : Nat) : Option Nat → Nat
  | none => 0x1F
  | some pos => if pos = 16 ∧ k = 16 then 0x10 else if pos < k then pos else pos - 1

/-- A sentinel failure of a girder, or of its rivet at one position (Table 18.4). -/
def girderFail (span slot g : Nat) (pos : Option Nat) (vec : Nat) (s : State) : State :=
  match pierAt s span slot with
  | none =>
    let d := 2 ^ 23 + 2 ^ 16 * slot + 2 ^ 8 * (vec % 256) + g * 2 ^ 5 + pos.getD 0x1F
    listCure { kind := 3, span := span, slot := slot, girder := g, pos := 0, entry := 0 } (sntFault (spanUnit span) .rcvd g d s)
  | some p =>
    let k := rskip s p g
    let code := rivetCode k pos
    let s := sntFault (pierUnit p) .rcvd g (2 ^ 8 * (vec % 256) + g * 2 ^ 5 + code) s
    if pos = some 16 ∧ k = 16 then onSnt (fun x => { x with idleBad := x.idleBad ++ [girderKey span slot g] }) s
    else if pos.isSome ∧ k = 16 ∧ !s.snt.idleBad.contains (girderKey span slot g) then
      listCure { kind := 2, span := span, slot := slot, girder := g, pos := pos.getD 0,
                 entry := retireEntry 2 span (p % 16) g code } s
    else listCure { kind := 0, span := span, slot := slot, girder := 0, pos := 0, entry := retireEntry 0 span (p % 16) 0 0 } s

/-- A sentinel failure. -/
def sentinelFail (u : TestUnit) (pos : Option Nat) (vec : Nat) (s : State) : State :=
  match u with
  | .girder span slot g => girderFail span slot g pos vec s
  | .rse n => sntFault (rseUnit n) .devf 0 (2 ^ 8 * (vec % 256) + 0x1F) s

/-- A residue mismatch at logical rivet r of girder g of a pier puts the girder ahead of its turn (R459); a second one on a
physical rivet within a pass is a sentinel failure of that rivet, whose record's vector is a free value. -/
def rivetMismatch (p g r : Nat) (s : State) : State :=
  let span := p / 16
  let slot := mapSlot s p
  let pos := physRivet s p g r
  let key := 32 * girderKey span slot g + pos
  let s := onSnt (fun x => { x with ahead := x.ahead ++ [(.girder span slot g, 0)] }) (bump A.sntResidCnt 1 s)
  if s.snt.resid.contains key then sentinelFail (.girder span slot g) (some pos) (freeBits 8 s) (tookFree s)
  else onSnt (fun x => { x with resid := x.resid ++ [key] }) s

/-! ### Sentinel vectors (R460-R462) -/

/-- Instance of a unit: its span, or 8 + n for RSE n. -/
def TestUnit.domain : TestUnit → Nat
  | .girder span _ _ => span
  | .rse n => 8 + n

/-- The unit is in service, or in a spare slot. -/
def unitGood (s : State) : TestUnit → Bool
  | .girder span slot _ => slotGood s span slot
  | .rse _ => true

/-- The unit can run a vector: a girder is between macro-operations, and its pier is not being copied. -/
def unitFree (s : State) : TestUnit → Bool
  | .girder span slot g => match pierAt s span slot with
    | some p => (getEng s p g).running.isNone && !beingCopied s p
    | none => true
  | .rse _ => true

/-- Vectors of a unit of an instance. -/
def vectorsOf (d : Nat) : Nat := if d < 8 then 32 else 16

/-- Where a pass ends in an instance. -/
def passEnd (d : Nat) : Nat := if d < 8 then 17 * 4 * 32 else 16

/-- Next place of the schedule of a span from place k: slots that are not good are passed over. -/
def skipBad (s : State) (d : Nat) : Nat → Nat → Nat
  | 0, k => k
  | f + 1, k => if 8 ≤ d ∨ 2176 ≤ k ∨ slotGood s d (k / 128) then k else skipBad s d f (128 * (k / 128 + 1))

/-- Where the pass stands in an instance. -/
def passAt (s : State) (d : Nat) : Nat := skipBad s d 18 (smGet 0 s.snt.ran d)

/-- The unit and the vector at a place of the schedule. -/
def schedUnit (d k : Nat) : TestUnit × Nat :=
  if d < 8 then (.girder d (k / 128) (k / 32 % 4), k % 32) else (.rse (d - 8), k)

/-- The next vector of an instance: of a unit ahead of its turn, or the schedule's. -/
def nextVector (s : State) (d : Nat) : Option (TestUnit × Nat) :=
  match s.snt.ahead.find? fun y => y.1.domain == d with
  | some y => some y
  | none => if passAt s d < passEnd d then some (schedUnit d (passAt s d)) else none

/-- The place of the vector that has run is passed. -/
def passVector (d : Nat) (s : State) : State :=
  match s.snt.ahead.find? fun y => y.1.domain == d with
  | some y =>
    let step := fun (z : TestUnit × Nat) => if z = y then (z.1, z.2 + 1) else z
    let a := if y.2 + 1 < vectorsOf d then s.snt.ahead.map step else s.snt.ahead.erase y
    onSnt (fun x => { x with ahead := a }) s
  | none => onSnt (fun x => { x with ran := smPut 0 x.ran d (passAt s d + 1) }) s

/-- Ends the pass where every good slot and every RSE has run every vector. -/
def endPass (s : State) : State :=
  if (List.range 88).all (fun d => decide (passEnd d ≤ passAt s d)) then
    onSnt (fun x => { x with ran := [], resid := [] }) (wf A.sntStatus 31 16 ((rf s A.sntStatus 31 16 + 1) % 2 ^ 16) s)
  else s

/-- What a vector showed: it passed, one position differed, or the unit's result differed otherwise. -/
def resultPos : VecResult → Option (Option Nat)
  | .pass => none
  | .position k => some (some k.val)
  | .whole => some none

/-- The vector fails: a position that a skip field below 16 takes out of service is not compared. -/
def vecFails (s : State) (u : TestUnit) (r : VecResult) : Bool :=
  match u, r with
  | _, .pass => false
  | .girder span slot g, .position k => match pierAt s span slot with
    | some p => k.val != rskip s p g || k.val == 16
    | none => true
  | _, _ => true

/-- An instance may run a vector in this period. -/
def mayTest (s : State) (d : Nat) : Bool :=
  rbit s A.sntCfg 31 && !s.snt.period.contains d && (8 ≤ d || !tstSpent s actSentinel (8 + d))

/-- Charges a vector to its instance. -/
def chargeVector (d : Nat) (s : State) : State :=
  let s := onSnt (fun x => { x with period := x.period ++ [d] }) s
  if d < 8 then tstCharge actSentinel (8 + d) 96 s else s

/-- SENTINEL_VECTOR: span d, or RSE d - 8, runs its next vector. -/
def execSentinelVector (d : Fin 88) (r : VecResult) (s : State) : Host.Outcome State Fault Refusal :=
  let d := d.val
  if !mayTest s d || s.snt.retest.any (fun y => y.due && y.unit.domain == d) then .next s
  else match nextVector s d with
    | none => .next s
    | some (u, v) =>
      if !unitGood s u then .next (onSnt (fun x => { x with ahead := x.ahead.filter fun y => y.1 != u }) s)
      else if !unitFree s u then .next s
      else
        let s := passVector d (chargeVector d s)
        .next (endPass (if vecFails s u r then onSnt (fun x => { x with retest := x.retest ++ [{ unit := u, vec := v, due := false }] }) s
          else s))

/-- SENTINEL_RETEST: the vector that failed in an earlier period runs again on its unit. -/
def execSentinelRetest (d : Fin 88) (r : VecResult) (s : State) : Host.Outcome State Fault Refusal :=
  let d := d.val
  match s.snt.retest.find? fun y => y.due && y.unit.domain == d with
  | none => .next s
  | some y =>
    let drop := onSnt fun x => { x with retest := x.retest.erase y }
    if !unitGood s y.unit then .next (drop s)
    else if !mayTest s d || !unitFree s y.unit then .next s
    else
      let s := drop (chargeVector d s)
      if vecFails s y.unit r then .next (sentinelFail y.unit ((resultPos r).getD none) y.vec s)
      else .next (wf A.sntStatus 7 0 (satAdd 255 (rf s A.sntStatus 7 0) 1) s)

/-! ### Firmware watchdog, and stopped contexts -/

/-- KICK: the Ringmaster writes KICK to DK_FLT_CTRL (R458). -/
def execKick (s : State) : Host.Outcome State Fault Refusal :=
  .next (if stage s = stRunning then wf A.dkFltCtrl 3 0 1 s else s)

/-- FW_WATCHDOG: 100 ms have passed without a KICK; the services take no further request (R458). -/
def execFwWatchdog (s : State) : Host.Outcome State Fault Refusal :=
  .next (if stage s = stRunning ∧ !s.fwDead then
    { raiseFault { code := 0x120D, cls := .devf, unit := 0x0 } s with fwDead := true } else s)

/-- RESUME of CTX_FLT_CTRL[x] (R456). -/
def resumeCtx (x : Nat) (s : State) : State := wf (A.ctxFltStatus x) 31 31 0 s

/-- CTX_RESUME: port p writes RESUME to CTX_FLT_CTRL of context x. -/
def execCtxResume (p : GPort) (x : CtxNo) (s : State) : Host.Outcome State Fault Refusal :=
  .next (wrRow p (A.ctxFltCtrl x.val) 1 (fun _ s => (resumeCtx x.val s, stOk)) s)

end Sys2Proof.Machine
end

