-- ==== Sys2Proof/Machine/Anchor.lean ====
section
/-! DEFINITION. Anchored elements: conversion, addition, blocks on the wire and the rounding at the root (08 R206-R222, R488). -/

namespace Sys2Proof.Machine
open Sys2Proof

/-- The zero that padding and an empty sum stand for: +0. -/
def Anch.zero : Anch := { v := 0 }

/-- Rounds m × 2^e to an integer, ties to even. -/
def roundHalfEven (m : Nat) (e : Int) : Nat := roundAt 0 m e false .rne

/-- |x| is at least 2^a. -/
def atLeastPow (a : Int) : Val → Bool
  | .num _ m e => m != 0 && decide (a ≤ m.log2 + e)
  | _ => false

/-- to_anchored of R210: the element, and that it is a RANGE element. out says that the block's anchor lies outside −224 to 160
(R213). -/
def toAnchored (a : Int) (out : Bool) (x : Val) : Anch × Bool :=
  match x with
  | .nan => ({ v := 0, nan := true }, false)
  | .inf s => ({ v := 0, pinf := !s, ninf := s }, false)
  | .num s m e =>
    if m = 0 then ({ v := 0, nz := s }, false)
    else if out || atLeastPow a x then ({ v := 0, nan := true }, true)
    else
      let n := roundHalfEven m (e + 96 - a)
      ({ v := if s then -(n : Int) else n }, false)

/-- An integer element under the fixed anchor 96 (R488). -/
def intAnchored (v : Int) : Anch := { v := v }

/-- add of R216. -/
def Anch.add (x y : Anch) : Anch :=
  { v := x.v + y.v, nan := x.nan || y.nan, pinf := x.pinf || y.pinf, ninf := x.ninf || y.ninf, nz := x.nz && y.nz }

/-- The sum of contributions; an empty sum is +0 (R227). -/
def Anch.sum : List Anch → Anch
  | [] => Anch.zero
  | x :: r => r.foldl Anch.add x

/-- Sums of 32 elements each, element by element. -/
def sumBlocks (bs : List (List Anch)) : List Anch :=
  (List.range 32).map fun i => Anch.sum (bs.map fun b => b.getD i Anch.zero)

/-- The value that an anchored element stands for, in its own zero sign, before a conversion. -/
def Anch.val (a : Int) (x : Anch) : Val :=
  if x.nan || (x.pinf && x.ninf) then .nan
  else if x.pinf then .inf false
  else if x.ninf then .inf true
  else if x.v = 0 then .num x.nz 0 0
  else .num (decide (x.v < 0)) x.v.natAbs (a - 96)

/-- root_round of R222: the pattern, and the cause of a NaN produced. -/
def rootRound (a : Int) (d : Nat) (ovf : Bool) (x : Anch) : Nat × Option Nat :=
  let r := convert d (x.val a) .rne ovf
  if x.nan then (r.1, none) else if x.pinf && x.ninf then (r.1, some cInvalid) else r

/-- The root's delivery of an integer sum: V modulo 2^32 (R488). -/
def rootInt (x : Anch) : Nat := ofInt 32 x.v

/-! ### Blocks on the wire (R219-R221) -/

/-- Flags of an element in the order of the flag plane. -/
def Anch.flags (x : Anch) : Nat := b2n x.nan * 8 + b2n x.pinf * 4 + b2n x.ninf * 2 + b2n x.nz

/-- Trailing zero bits of a nonzero number, at most k. -/
def trailing (v : Nat) : Nat → Nat
  | 0 => 0
  | k + 1 => if v % 2 = 0 then trailing (v / 2) k + 1 else 0

/-- Fields of w bits each, the first most significant. -/
def packFields (w : Nat) (fs : List Nat) : Nat := fs.foldl (fun a f => a * 2 ^ w + f % 2 ^ w) 0

/-- The bytes of a block: header, element fields, flag plane. -/
def blockBytes (code shift w : Nat) (xs : List Anch) : List Byte :=
  let spec := xs.any fun x => x.flags != 0
  beBytes 2 (2 ^ 13 * code + 2 ^ 7 * shift + 2 ^ 6 * b2n spec) ++
    beBytes (4 * w) (packFields w (xs.map fun x => ofInt w (x.v / (2 ^ shift : Nat)))) ++
    (if spec then beBytes 16 (packFields 4 (xs.map Anch.flags)) else [])

/-- encode_block of R220: the width code used, and the bytes; raw is FORCE_RAW. -/
def encodeBlock (raw : Bool) (xs : List Anch) : Nat × List Byte :=
  if xs.all fun x => x.v == 0 then (5, blockBytes 5 0 0 xs)
  else if raw then (7, blockBytes 7 0 128 xs)
  else
    let s := (xs.filter fun x => x.v != 0).foldl (fun k x => min k (trailing x.v.natAbs 63)) 63
    let fits := fun (w : Nat) => xs.all fun x =>
      let q := x.v / (2 ^ s : Nat)
      decide (-(2 ^ (w - 1) : Int) ≤ q) && decide (q < (2 ^ (w - 1) : Int))
    match [(0, 32), (1, 48), (2, 64), (3, 96)].find? fun c => fits c.2 with
    | some c => (c.1, blockBytes c.1 s c.2 xs)
    | none => (7, blockBytes 7 0 128 xs)

/-- Bits of an element field by width code. -/
def widthOf (code : Nat) : Nat := [32, 48, 64, 96, 128, 0, 0, 128].getD code 0

/-- Reads a block from the front of bytes: its elements and the rest; none where it breaks R219 or runs out. -/
def decodeBlock (b : List Byte) : Option (List Anch × List Byte) :=
  let h := be b 0 2
  let code := h / 2 ^ 13
  let shift := h / 2 ^ 7 % 64
  let spec := bit h 6
  let w := widthOf code
  let n := 2 + 4 * w + (if spec then 16 else 0)
  if b.length < n ∨ code = 6 ∨ h % 64 ≠ 0 ∨ (shift ≠ 0 ∧ (code = 5 ∨ code = 7)) then none
  else
    let whole := be b 2 (4 * w)
    let plane := if spec then be b (2 + 4 * w) 16 else 0
    some ((List.range 32).map fun i =>
      let f := plane / 2 ^ (4 * (31 - i)) % 16
      let v : Int := if w = 0 then 0 else toInt w (whole / 2 ^ (w * (31 - i))) * (2 ^ shift : Nat)
      { v := v, nan := bit f 3, pinf := bit f 2, ninf := bit f 1, nz := bit f 0 }, b.drop n)

/-- Reads n blocks that fill the bytes exactly. -/
def decodeBlocks : Nat → List Byte → Option (List (List Anch))
  | 0, b => if b = [] then some [] else none
  | n + 1, b =>
    match decodeBlock b with
    | some (x, r) => (decodeBlocks n r).map (x :: ·)
    | none => none

/-! ### Partial prefix (08 Table 8.5) -/

def fmNative : Nat := 0x01
def fmAnchored : Nat := 0x02
def fmFast : Nat := 0x03
def fmExponent : Nat := 0x04
def fmScan : Nat := 0x05
def fmResult : Nat := 0x06

/-- The fields of a partial prefix. -/
structure PHead where
  form : Nat
  nblk : Nat
  anchor : Int := 0
  elem : Nat
  level : Nat := 0
  status : Nat := 0
  node : Nat := 0
  deriving DecidableEq, Repr

/-- The 16 bytes of a prefix. -/
def PHead.bytes (p : PHead) : List Byte :=
  beBytes 1 p.form ++ beBytes 1 p.nblk ++ beBytes 2 (ofInt 16 p.anchor) ++ beBytes 4 p.elem ++ beBytes 1 p.level ++
    beBytes 1 p.status ++ beBytes 2 0 ++ beBytes 4 p.node

/-- The prefix at the start of a payload. -/
def pheadOf (b : List Byte) : PHead :=
  { form := be b 0 1, nblk := be b 1 1, anchor := toInt 16 (be b 2 2), elem := be b 4 4, level := be b 8 1,
    status := be b 9 1, node := be b 12 4 }

/-- The fields of a prefix that Table 8.5 fixes (R221). -/
def pheadOk (b : List Byte) : Bool :=
  let p := pheadOf b
  let a := p.form = fmNative ∨ p.form = fmAnchored ∨ p.form = fmScan
  16 ≤ b.length && 1 ≤ p.nblk && (decide a || p.anchor == 0) && p.elem % (if p.form = fmExponent then 256 else 32) == 0 &&
    (p.form == fmFast || (p.level == 0 && p.node == 0)) && p.status / 8 == 0 && be b 10 2 == 0

end Sys2Proof.Machine
end

