-- ==== Sys2Proof/Machine/Carousel.lean ====
section
/-! DEFINITION. The packet buffer with its accounts and push-out (06 R149-R153), the Sideshow (R161-R163), resolution of
packets (05 R109, R116-R120, R135, R137; 10 R267, R268), and the arrival of a packet at a port. -/

namespace Sys2Proof.Machine
open Sys2Proof

def swUnit : Nat := 0x400000

/-! ### The CAROUSEL section (06 Table 6.3) -/

def car (s : State) : List Byte := sect s secCarousel
def rxBacked (s : State) (k c : Nat) : Nat := le (car s) (8 * (9 * k + c)) 4
def rxLoose (s : State) (k c : Nat) : Nat := le (car s) (8 * (9 * k + c) + 4) 4
def txBacked (s : State) (k c : Nat) : Nat := le (car s) (0x9480 + 8 * (9 * k + c)) 4
def txLoose (s : State) (k c : Nat) : Nat := le (car s) (0x9480 + 8 * (9 * k + c) + 4) 4
def intCells (s : State) (n : Nat) : Nat := le (car s) (0x12900 + 4 * n) 4

/-- Dedicated cells of an account: the first 65 BACKED cells of channels 0-6 (06 R150). -/
def dedicated (s : State) (k c : Nat) : Nat := if c ≤ 6 then min 65 (rxBacked s k c) else 0

/-- Sum of the dedicated cells of n receive accounts of a section's list, the first of channel c. -/
def dedSum : Nat → Nat → List Byte → Nat
  | 0, _, _ => 0
  | n + 1, c, l => (if c ≤ 6 then min 65 (le l 0 4) else 0) + dedSum n ((c + 1) % 9) (l.drop 8)

/-- Sum of n words of a list. -/
def wordSum : Nat → List Byte → Nat
  | 0, _ => 0
  | n + 1, l => le l 0 4 + wordSum n (l.drop 4)

/-- Dedicated and internal cells of all accounts. -/
def reservedCells (s : State) : Nat :=
  if car s = [] then 0 else dedSum 4752 0 (car s) + wordSum 80 ((car s).drop 0x12900)

/-- Cells of the shared region (06 R150); 0 before a CAROUSEL section is in force, as SW_BUF resets (R170). -/
def sharedTotal (s : State) : Nat := if car s = [] then 0 else 1048576 - reservedCells s

/-- Free shared cells. -/
def sharedFree (s : State) : Nat := sharedTotal s - (s.fab.held.map Held.shared).sum

/-- Dedicated cells in use in an account, and cells that the account holds in all. -/
def dedUsed (s : State) (src c : Nat) : Nat := ((s.fab.held.filter fun h => h.src == src && h.chan == c).map Held.ded).sum
def acctHeld (s : State) (k c : Nat) : Nat :=
  ((s.fab.held.filter fun h => h.src == k && h.chan == c).map fun h => pkCells h.bytes).sum

/-- Internal cells that held packets take; the copies of one multicast take them once (06 R149). -/
def groupCells : List Nat → List Held → Nat
  | _, [] => 0
  | seen, h :: hs => if seen.contains h.group then groupCells seen hs
    else h.ded + groupCells (if h.group = 0 then seen else h.group :: seen) hs

/-- Free cells of the internal account of node n. -/
def intFree (s : State) (n : Nat) : Nat := intCells s n - groupCells [] (s.fab.held.filter fun h => h.src == 528 + n)

/-! ### Push-out (06 R152) -/

/-- Push-out rank of a packet. -/
def pushRank (b : List Byte) : Nat :=
  if pkClass b = clMirror then 0 else if pkClass b = clFwd && pkFlag b flEvict then 1 else 2

/-- The shared cells that a packet of n cells would take, and the dedicated ones (06 R150). -/
def cellSplit (s : State) (src chan : Nat) (b : List Byte) : Nat × Nat :=
  let n := pkCells b
  if pushRank b < 2 ∨ 528 ≤ src then (n, 0)
  else
    let d := min n (dedicated s src chan - dedUsed s src chan)
    (n - d, d)

/-- No cell of a held packet is in stage one or stage two, and it is not being sent. -/
def outsideStages (h : Held) : Bool := h.stage == .queued || (h.stage == .crossing && h.seqs.length == h.come)

/-- A held packet may be evicted for a packet of rank r (06 R152): a lower rank, and outside stages one and two. -/
def evictable (r : Nat) (h : Held) : Bool := pushRank h.bytes < r && outsideStages h

/-- Depth of an egress queue, in cells. -/
def queueDepth (s : State) (q : Nat) : Nat :=
  ((s.fab.held.filter fun h => h.dst == q && h.stage == .queued).map fun h => pkCells h.bytes).sum

/-- Cells held for an output port and class, of packets that are not being sent: a queue in the sense of R152 (DESIGN CHOICE: log
entry 75). -/
def pairDepth (s : State) (q : Nat) : Nat :=
  ((s.fab.held.filter fun h => h.dst == q && h.stage != .sending).map fun h => pkCells h.bytes).sum

/-- The victim for a packet of rank r (06 R152): lowest rank, longest queue, lower output port slot, newest packet. -/
def victim (s : State) (r : Nat) : Option Held :=
  let vs := s.fab.held.filter (evictable r)
  let low := vs.filter fun h => vs.all fun g => pushRank h.bytes ≤ pushRank g.bytes
  let longest := low.filter fun h => low.all fun g => pairDepth s g.dst ≤ pairDepth s h.dst
  let first := longest.filter fun h => longest.all fun g => slotOf h.dst ≤ slotOf g.dst
  first.getLast?

/-! ### Resolution -/

/-- What becomes of a packet: discarded under R117, discarded with ROUTE_ERR under R118, fenced under R137, placed for a
destination (queue, dateline, pier), or consumed by the module's tree logic. -/
inductive Verdict where
  | discard
  | noHop
  | fenced
  | place (dst : Nat) (dl : Bool) (pier : Nat)
  | tree
  deriving DecidableEq, Repr

/-- Placed for a port slot, or for a pier on its span port (01 R15). -/
def toSlot (b : List Byte) (k : Nat) (dl : Bool) : Verdict := .place (queueOf k (pkClass b)) dl 0
def toPier (b : List Byte) (p : Nat) : Verdict := .place (queueOf (512 + 2 * (p / 16) + p % 2) (pkClass b)) false p

/-- Routed on a switch (05 R118). -/
def onSwitch (s : State) (b : List Byte) (d : Nat) : Verdict :=
  match routeHop s (pkEpoch b) d b with
  | some h => toSlot b h.slot h.dl
  | none => .noHop

/-- The fields of a rank entry that name a fabric address. -/
def fabricAddr (w : Nat) : Nat := w % 2 ^ 30

/-- A copy of version v for rank r of a job, whose entry in v is w, is fenced at its last switch (05 R137); so is one whose rank has
no VALID entry in the version in force, of which the rule says nothing (DESIGN CHOICE: log entry 75). -/
def rankFenced (s : State) (job v r w : Nat) : Bool :=
  match resolveRank s job (curEpoch s) r with
  | some w' => reFenced w' || (v != curEpoch s && fabricAddr w' != fabricAddr w)
  | none => true

/-- A copy for its DST_RANK is fenced. -/
def isFenced (s : State) (b : List Byte) (w : Nat) : Bool := rankFenced s (pkJob b) (pkEpoch b) (pkDst b) w

/-- A copy of version v for a member at the end of a tree edge is fenced. -/
def memberOut (s : State) (job v r : Nat) : Bool :=
  match resolveRank s job v r with
  | some w => rankFenced s job v r w
  | none => true

/-- The entry of a packet's DST_RANK: of RANK_TBL for a context's own send, else of RT_JOB's table (05 R116). -/
def dstEntry (s : State) (ctx : Option Nat) (b : List Byte) : Option Nat :=
  match ctx with
  | some x => ctxEntry s x (pkEpoch b) (pkDst b)
  | none => resolveRank s (pkJob b) (pkEpoch b) (pkDst b)

/-- Resolved by rank (05 R116, R117). -/
def byRank (s : State) (sw : Nat) (ctx : Option Nat) (b : List Byte) : Verdict :=
  match dstEntry s ctx b with
  | none => .discard
  | some w =>
    if reSwitch w ≠ sw then onSwitch s b (reSwitch w)
    else if isFenced s b w then .fenced
    else if reKind w = 0 then toSlot b (reSlot w) false
    else toPier b (rePier w)

/-- Position, in its tree, of a COLL_DATA packet that goes to an RSE: by its slice, or by its member's rank for a stream
(10 R267). -/
def treePos (t : Tree) (b : List Byte) : Nat :=
  if be b 32 1 < 0x10 then be b 36 4 / 4096 % t.nrse else pkSrc b % t.nrse

/-- The RSE of a tree that a COLL_DATA packet goes to on this module. -/
def toTreeRse (s : State) (b : List Byte) : Verdict :=
  match packetTree s b with
  | some t => .place (5120 + t.rses.getD (treePos t b) 0) false 0
  | none => .discard

/-- A CTRL packet for a tree record of this module: its SR names a record of class COLL_UP or COLL_DN whose peer is its RSR
(10 R266; DEDUCED: log entry 12). -/
def forTreeRecord (s : State) (b : List Byte) : Bool :=
  let r := pkSr b
  (pkOp b == opAck || pkOp b == opNack || pkOp b == opEvict) && srState s r != srFree &&
    (srClass s r == clCollUp || srClass s r == clCollDn) && srPeerSr s r == pkRsr b && srJob s r == pkJob b

/-- COLL_DATA: to an RSE by RSEDST, on its tree, or to a member's rank (10 R267, R268). -/
def resolveColl (s : State) (sw : Nat) (b : List Byte) : Verdict :=
  if opRseDst b then
    if pkDst b / 2 ^ 8 ≠ sw then onSwitch s b (pkDst b / 2 ^ 8)
    else if (packetTree s b).isNone ∨ 80 ≤ pkDst b % 2 ^ 7 then .discard
    else .place (5120 + pkDst b % 2 ^ 7) false 0
  else if pkClass b = clCollUp ∨ pkFlag b flMcast ∨ be b 32 1 = 0x05 then toTreeRse s b
  else byRank s sw none b

/-- What becomes of a packet (05 R116-R118, R137, R139; 10 R264, R268): without a switch number it is discarded. -/
def resolve (s : State) (dest : Option Nat) (b : List Byte) (ctx : Option Nat := none) (member : Option Nat := none) : Verdict :=
  match dest, ownSwitch s with
  | _, none => .discard
  | some d, some _ => if member.any (memberOut s (pkJob b) (pkEpoch b)) then .fenced else if 1000 ≤ d then toPier b (d - 1000) else toSlot b d false
  | none, some sw =>
    if forTreeRecord s b then .tree
    else if pkOp b = opBarrier ∨ pkOp b = opHint then (if (packetTree s b).isSome then .tree else .discard)
    else if pkOp b = opColl then resolveColl s sw b
    else byRank s sw ctx b

/-! ### Placing -/

/-- A packet placed in the buffer. -/
def placeHeld (src chan : Nat) (b : List Byte) (split : Nat × Nat) (dst : Nat) (dl : Bool) (pier : Nat) (s : State)
    (group : Nat := 0) : State :=
  onFab (fun f => { f with taken := f.taken + 1
                           held := f.held ++ [{ bytes := b, src := src, chan := chan, shared := split.1, ded := split.2,
                                                since := ftNs s, dst := dst, stage := .crossing, dl := dl, pier := pier,
                                                waited := ftNs s, group := group, num := f.taken }] }) s

/-- The cells of a packet that leaves without a place in the buffer are freed to its port's peer (05 R114). -/
def freeArrived (src : Nat) (b : List Byte) (s : State) : State :=
  if src < 512 then
    let c := 9 * src + pkChan b
    onFab (fun f => { f with freed := smPut 0 f.freed c ((smGet 0 f.freed c + pkCells b) % 2 ^ 16) }) s
  else s

/-- ROUTE_ERR, at most once per ms (05 Table 5.13); the discarded packet is counted all the same. -/
def routeErr (b : List Byte) (ev : Bool) (s : State) : State :=
  let s := bump (A.rtCnt 3) 1 s
  let recent : Bool := match s.fab.routeErrAt with
    | some t => decide ((ftNs s + 2 ^ 64 - t) % 2 ^ 64 < 1000000)
    | none => false
  if ev && !recent then
    raiseEvent { code := 0x0505, unit := rtUnit, detail := be b 0 8 } (onFab (fun f => { f with routeErrAt := some (ftNs s) }) s)
  else s

/-- Sends the EVICT_NOTICE of a packet from the internal account of node n, if it has room (06 R153, 05 R126). -/
def evictNotice (n : Nat) (v : List Byte) (s : State) : State :=
  let b := mkPacket { epoch := pkEpoch v, cls := clCtrl, op := opEvict, dst := pkSrc v, src := pkDst v, job := pkJob v,
                      sr := pkRsr v, oparg := pkSeq v } []
  if intFree s n < pkCells b then bump (A.swCnt 4) 1 s
  else match resolve s none b with
    | .place dst dl pier => placeHeld (528 + n) 6 b (0, pkCells b) dst dl pier s
    | .tree => onFab (fun f => { f with inbox := f.inbox ++ [{ at_ := 128, src := 528 + n, bytes := b }] }) s
    | .fenced => bump (A.rtCnt 0) 1 s
    | .discard => routeErr b false s
    | .noHop => routeErr b true s

/-- The node that holds a victim (06 R153): its input while no cell of it has entered stage one, else its output (DESIGN CHOICE:
log entry 75). -/
def victimNode (h : Held) : Nat := if h.stage = .crossing ∧ h.seqs = [] then nodeOf h.src else h.dst / 64

/-- Evicts a held packet. -/
def evict (h : Held) (s : State) : State :=
  let s := onFab (removeHeld (· == h)) s
  if pushRank h.bytes = 0 then bump (A.swCnt 3) 1 s
  else evictNotice (victimNode h) h.bytes (bump (A.swCnt 0) 1 s)

/-- Evicts packets for one of rank r until n shared cells are free; fuel bounds the victims. -/
def makeRoom (r n : Nat) : Nat → State → State
  | 0, s => s
  | m + 1, s =>
    if n ≤ sharedFree s then s
    else match victim s r with
      | some v => makeRoom r n m (evict v s)
      | none => s

/-- A packet that cannot be placed (06 R152 step 3): the notice of one evicted on arrival is its input node's (DESIGN CHOICE: log
entry 75). -/
def cannotPlace (src chan : Nat) (b : List Byte) (s : State) : State :=
  let s := freeArrived src b s
  if pushRank b = 0 then bump (A.swCnt 3) 1 s
  else if pushRank b = 1 then evictNotice (nodeOf src) b (bump (A.swCnt 1) 1 s)
  else raiseEvent { code := 0x0601, unit := swUnit, detail := src * 2 ^ 4 + chan } (bump (A.swCnt 5) 1 s)

/-- Places an arriving packet, by push-out where it must (06 R152). -/
def placeArrival (src : Nat) (b : List Byte) (dst : Nat) (dl : Bool) (pier : Nat) (s : State) : State :=
  let chan := pkChan b
  let split := cellSplit s src chan b
  let r := pushRank b
  let evictables := ((s.fab.held.filter (evictable r)).map Held.shared).sum
  if sharedFree s + evictables < split.1 then cannotPlace src chan b s
  else placeHeld src chan b split dst dl pier (makeRoom r split.1 s.fab.held.length s)

/-! ### The Sideshow (06 R161-R163) -/

/-- A session is enabled, of a KIND. -/
def ssOn (s : State) (j kind : Nat) : Bool := rbit s (A.swSsEn j) 0 && rf s (A.swSsEn j) 2 1 == kind

/-- A flow session matches a packet. -/
def ssFlow (s : State) (j : Nat) (b : List Byte) : Bool :=
  (rbit s (A.swSsJob j) 31 || rf s (A.swSsJob j) 15 0 == pkJob b) &&
  (rbit s (A.swSsSrcr j) 31 || rf s (A.swSsSrcr j) 23 0 == pkSrc b) &&
  (rbit s (A.swSsDstr j) 31 || rf s (A.swSsDstr j) 23 0 == pkDst b) &&
  (rbit s (A.swSsDstr j) 30 || rf s (A.swSsDstr j) 26 24 == pkClass b)

/-- The copy that a session makes of a packet seen on a slot (06 R162). -/
def ssPacket (s : State) (j slot dir : Nat) (b : List Byte) : List Byte :=
  let whole := slice b 0 (40 + pkLen b)
  let t := rf s (A.swSsTrunc j) 13 0
  let t := if t = 0 then 16368 else t
  let cut := whole.take t
  mkPacket { epoch := curEpoch s, cls := clMirror, op := opMirror,
             flags := if t < whole.length then 2 ^ flTrunc else 0, src := rf s A.rtSwitchId 15 0,
             seq := smGet 0 s.fab.ssCopy j, oparg := 2 ^ 32 * j }
    (beBytes 8 (ftNs s) ++ beBytes 2 slot ++ beBytes 1 dir ++ beBytes 1 j ++ beBytes 2 whole.length ++ beBytes 2 0 ++ cut)

/-- Makes the copy of a session: straight into the MIRROR queue of its DST slot. -/
def ssCopyTo (j slot dir : Nat) (b : List Byte) (s : State) : State :=
  let m := ssPacket s j slot dir b
  let d := rf s (A.swSsDst j) 9 0
  if portUp s d ∧ pkCells m ≤ sharedFree s then
    onFab (fun f => { f with taken := f.taken + 1
                             ssCopy := smPut 0 f.ssCopy j ((smGet 0 f.ssCopy j + 1) % 2 ^ 32)
                             held := f.held ++ [{ bytes := m, src := 608, chan := 7, ded := 0, shared := pkCells m,
                                                  since := ftNs s, dst := queueOf d clMirror, stage := .queued,
                                                  waited := ftNs s, num := f.taken }] }) s
  else bump (A.swCnt 3) 1 s

/-- A session meets a matching packet: it copies the 1st, and every EVERY-th after it. -/
def ssMeet (j slot dir : Nat) (b : List Byte) (s : State) : State :=
  let n := smGet 0 s.fab.ssMatch j
  let s := onFab (fun f => { f with ssMatch := smPut 0 f.ssMatch j (n + 1) }) s
  if n % rf s (A.swSsEvery j) 23 0 = 0 then ssCopyTo j slot dir b s else s

/-- The sessions examine a packet received on a slot (dir 0) or started on it (dir 1). -/
def sideshow (slot dir : Nat) (b : List Byte) (s : State) : State :=
  if pkClass b = clMirror then s
  else (List.range 8).foldl (fun s j =>
    if (ssOn s j dir && rf s (A.swSsSrc j) 9 0 == slot) || (dir == 0 && ssOn s j 2 && ssFlow s j b) then
      ssMeet j slot dir b s
    else s) s

/-! ### Arrival -/

/-- The packet is of a version that is not in force, and how it is taken: stale, or counted as old (05 R135). -/
def epochStale (s : State) (b : List Byte) : Bool := pkEpoch b != curEpoch s && !oldLive s

/-- Counts and reports a packet of a retired version (05 R135). -/
def staleEpoch (b : List Byte) (s : State) : State :=
  let s := bump (A.rtCnt 1) 1 s
  let recent : Bool := match s.fab.staleAt with
    | some t => decide ((ftNs s + 2 ^ 64 - t) % 2 ^ 64 < 1000000)
    | none => false
  if recent then s
  else raiseEvent { code := 0x0506, unit := rtUnit, detail := be b 0 8 } (onFab (fun f => { f with staleAt := some (ftNs s) }) s)

/-- A port of KIND 0 discards the packet (05 R120). -/
def srcDiscard (s : State) (k : Nat) (b : List Byte) : Bool :=
  isKind0Port s k &&
    ((match resolveRank s (pkJob b) (pkEpoch b) (pkSrc b) with
      | some w => !(reKind w == 0 && ownSwitch s == some (reSwitch w) && reSlot w == k)
      | none => true) ||
     (match resolveRank s (pkJob b) (curEpoch s) (pkSrc b) with
      | some w => reFenced w
      | none => false))

/-- Header checks of a switch (05 R109), and that the module routes at all. -/
def headerBad (s : State) (b : List Byte) : Bool :=
  pkVer b != 1 || 16384 < pkLen b || !opLegal (pkOp b) (pkClass b) || pkHops b == cfgHopLimit s || !rbit s A.rtSwitchId 31

/-- Acts on the verdict for a packet from a slot. -/
def onVerdict (src : Nat) (b : List Byte) (v : Verdict) (s : State) : State :=
  match v with
  | .discard => routeErr b false (freeArrived src b s)
  | .noHop => routeErr b true (freeArrived src b s)
  | .fenced => bump (A.rtCnt 0) 1 (freeArrived src b s)
  | .place dst dl pier => placeArrival src b dst dl pier s
  | .tree => onFab (fun f => { f with inbox := f.inbox ++ [{ at_ := 128, src := src, bytes := b }] }) (freeArrived src b s)

/-- Address of the table word that resolves a packet: its tree's entry, or its destination's rank entry. -/
def tableWord (s : State) (b : List Byte) : Option (Nat × Nat) :=
  let v := pkEpoch b
  if pkOp b = opColl ∨ pkOp b = opBarrier ∨ pkOp b = opHint then
    if rn64 s (A.rtTreeBase v 0) = 0 then none else some (rn64 s (A.rtTreeBase v 0) + 1024 * opTree b, 1024)
  else (jobTable s (pkJob b)).map fun t => (rn64 s (A.rtRankBase t v 0) + 4 * pkDst b, 4)

/-- The first uncorrectable word that resolving a packet meets (15 R394). -/
def tableUe (s : State) (b : List Byte) : Option Nat := (tableWord s b).bind fun w => badWord s w.1 w.2

/-- A Balnov packet has been received whole on an external port. -/
def arriveExternal (k : Nat) (b : List Byte) (sram : Bool) (s : State) : State :=
  let s := sideshow k 0 b s
  if headerBad s b then routeErr b false (freeArrived k b s)
  else
    if epochStale s b then staleEpoch b (freeArrived k b s)
    else
      let s := if pkEpoch b = curEpoch s then s else bump A.rtOldSeen 1 s
      if srcDiscard s k b then bump (A.rtCnt 2) 1 (freeArrived k b s)
      else if sram then bump (A.swCnt 6) 1 (freeArrived k b s)
      else match tableUe s b with
        | some a => onVerdict k b .discard (countUe 1 a s)
        | none => onVerdict k b (resolve s none b) s

/-- A link packet: a CREDIT gives the peer's counts (05 R113, R114); a channel that gains credit restarts the age of what
waits on it (R128). -/
def takeCredit (k : Nat) (b : List Byte) (s : State) : State :=
  if linkOk b ∧ be b 1 1 = 1 ∧ portUp s k then
    (List.range 9).foldl (fun s c =>
      let v := be b (4 + 2 * c) 2
      if smGet 0 s.fab.peer (9 * k + c) = v then s
      else onFab (fun f => { f with
        peer := smPut 0 f.peer (9 * k + c) v
        held := f.held.map fun h =>
          if heldOn k h && pkChan h.bytes == c then { h with waited := ftNs s } else h }) s) s
  else s

/-- What a port receives in the form of its lane mode, as Balnov bytes; none where the frame is discarded. -/
def unframe (s : State) (k : Nat) (bytes : List Byte) : Option (List Byte) :=
  if pgMode s (k / 8) = 1 then some bytes else ethPacket s (k / 8) bytes

/-- A packet of the module's own sources resolved as it enters: what becomes of it, and where it is placed. -/
def ownVerdict (k : Nat) (i : Inject) (s : State) : State :=
  let b := i.bytes
  let v := resolve s i.dest b i.ctx i.member
  if 528 ≤ k then
    match v with
    | .place dst dl pier => placeHeld k (pkChan b) b (0, pkCells b) dst dl pier s i.group
    | v => onVerdict k b v s
  else onVerdict k b v s

/-- The packet that the sources at a slot send next: the oldest, or, where a pier's TXE has it ready, of the kinds that it has
ready the next in rotation, the packets of one record in their order (11 R311). -/
def ownNext (f : Fab) (k : Nat) : Option Inject :=
  match f.inject.find? fun i => srcSlot i.src == k with
  | none => none
  | some i =>
    if i.kind = 0 then some i
    else
      let is := f.inject.filter fun j => j.src == i.src && j.kind != 0
      let firsts := is.filter fun j => is.find? (fun g => pkRsr g.bytes == pkRsr j.bytes) == some j
      (List.range 3).findSome? fun d => firsts.find? fun j => j.kind == (smGet 0 f.txTurn i.src + d) % 3 + 1

/-- The TXE has served a packet: the next kind has its turn. -/
def served (i : Inject) (f : Fab) : Fab := if i.kind = 0 then f else { f with txTurn := smPut 0 f.txTurn i.src (i.kind % 3) }

/-- The next packet of the sources at a slot of the module enters the carousel, with the other copies of its multicast; it waits
while its account has no room (05 R114, R151; 06 R149). -/
def arriveOwn (k : Nat) (sram : Bool) (s : State) : State :=
  match ownNext s.fab k with
  | none => s
  | some i =>
    let b := i.bytes
    let chan := pkChan b
    let room : Bool :=
      if 528 ≤ k then decide (pkCells b ≤ intFree s (k - 528))
      else
        let loose := if chan = 2 ∨ chan = 3 then (if pkFlag b flEvict then rxLoose s k chan else 0) else rxLoose s k chan
        decide (acctHeld s k chan + pkCells b ≤ rxBacked s k chan + loose)
    if !room then s
    else
      let same := fun (j : Inject) => i.group != 0 && j.group == i.group && srcSlot j.src == k
      let is := i :: (s.fab.inject.erase i).filter same
      let s := onFab (fun f => served i { f with inject := (f.inject.erase i).filter fun j => !same j }) s
      let s := if k < 528 then sideshow k 0 b s else s
      if sram then bump (A.swCnt 6) 1 s else is.foldl (fun s j => ownVerdict k j s) s

/-- PACKET_ARRIVE: a packet received whole at a slot. On an external port it comes with the codewords that the decoder could
not correct, by lane: they are counted, and the packet is dropped (04 R99) and its cells freed (05 R114). On a span port or from an RSE it is the next
that the module's own sources have ready. sram says that a buffer word of the packet is uncorrectable (18 R450). -/
def execPacketArrive (k : Fin 608) (bytes : List Byte) (unc : List LaneNo) (sram : Bool) (s : State) :
    Host.Outcome State Fault Refusal :=
  let k := k.val
  if 512 ≤ k then .next (arriveOwn k sram s)
  else if !portUp s k then .next s
  else
    let s := unc.foldl (fun s (l : LaneNo) => bump (A.pgFecUnc (k / 8) l) 1 s) s
    match unframe s k bytes with
    | none => .next (if unc ≠ [] then s else bump (A.pgRxDiscard (k / 8)) 1 s)
    | some b =>
      if unc ≠ [] then .next (if pkVer b = 0xF then s else freeArrived k b s)
      else if pkVer b = 0xF then .next (takeCredit k b s) else .next (arriveExternal k b sram s)

/-- CREDIT: a CREDIT link packet received on an external port. -/
def execCredit (k : SlotNo) (bytes : List Byte) (s : State) : Host.Outcome State Fault Refusal :=
  match unframe s k bytes with
  | none => .next (if portUp s k then bump (A.pgRxDiscard (k / 8)) 1 s else s)
  | some b => .next (takeCredit k b s)

/-- LINK_PACKET_SEND: an UP port sends its CREDIT link packet (05 R113). -/
def execLinkPacketSend (k : SlotNo) (s : State) : Host.Outcome State Fault Refusal :=
  if portUp s k then
    let counts := (List.range 9).flatMap fun c => beBytes 2 (smGet 0 s.fab.freed (9 * k + c))
    .next (sendLane k (mkLink ([0xF0, 0x01, 0, 0] ++ counts)) s)
  else .next s

end Sys2Proof.Machine
end

