-- ==== Sys2Proof/Machine/Nan.lean ====
section
/-! DEFINITION. The first-NaN trap (07 R201-R205). -/

namespace Sys2Proof.Machine
open Sys2Proof

/-- Where a NaN was produced: the context that owns the work, its tag, the unit and sub-unit, the cause and the element. -/
structure NanAt where
  ctx : Nat
  tag : Nat
  unit : Nat
  sub : Nat
  cause : Nat
  idx : Nat
  deriving DecidableEq, Repr

/-- A NaN production (R202, R204). -/
def nanProduced (n : NanAt) (s : State) : State :=
  if !rbit s (A.ctxNanCtrl n.ctx) 0 then s
  else if rbit s (A.ctxNanStatus n.ctx) 31 then bump (A.ctxNanCount n.ctx) 1 s
  else
    let s := wn (A.ctxNanTag n.ctx) n.tag (wn (A.ctxNanUnit n.ctx) n.unit s)
    let s := wn (A.ctxNanIdx n.ctx 0) (n.idx % 2 ^ 32) (wn (A.ctxNanIdx n.ctx 1) (n.idx / 2 ^ 32 % 2 ^ 16) s)
    let s := wn (A.ctxNanStatus n.ctx) (2 ^ 31 + 2 ^ 16 * (n.sub % 8) + n.cause % 8) s
    let s := raiseEvent { code := 0x0701, ctx := n.ctx, unit := n.unit, detail := 2 ^ 32 * n.tag + n.cause } s
    if rbit s (A.ctxNanCtrl n.ctx) 1 then
      raiseFault { code := cNanTrap, cls := .ctxf, ctx := n.ctx, unit := n.unit, tag := n.tag,
                   detail := 2 ^ 32 * n.tag + n.cause, sub := n.sub } s
    else s

/-- Productions of one step, in ascending element order. -/
def nansProduced (ns : List NanAt) (s : State) : State := ns.foldl (fun s n => nanProduced n s) s

/-- Clears HIT, the record and the count (R203). -/
def nanClear (x : Nat) (s : State) : State :=
  [A.ctxNanStatus x, A.ctxNanTag x, A.ctxNanUnit x, A.ctxNanIdx x 0, A.ctxNanIdx x 1, A.ctxNanCount x].foldl
    (fun s a => wn a 0 s) s

/-- NAN_CLEAR: a write of 1 to CTX_NAN_CTRL.CLEAR. -/
def execNanClear (x : CtxNo) (s : State) : Host.Outcome State Fault Refusal := .next (nanClear x s)

end Sys2Proof.Machine
end

