-- ==== Sys2Proof/Machine/Rse.lean ====
section
/-! DEFINITION. Reductions at an RSE: what it holds of a collective, completion of blocks, and what it sends up and down the tree
(08 R206-R228, R488; 10 R266-R274). -/

namespace Sys2Proof.Machine
open Sys2Proof

/-! ### Operations held -/

/-- Updates the in-network side. -/
def onNet (f : Net → Net) (s : State) : State := { s with net := f s.net }

/-- The operation has this key. -/
def isOp (n t c : Nat) (o : RseOp) : Bool := o.node == n && o.tree == t && o.cseq == c

/-- A collective at an RSE. -/
def findOp (s : State) (n t c : Nat) : Option RseOp := s.net.ops.find? (isOp n t c)

/-- Replaces or adds an operation. -/
def putOp (o : RseOp) (s : State) : State :=
  onNet (fun m => { m with
    ops := if m.ops.any (isOp o.node o.tree o.cseq) then
        m.ops.map fun x => if isOp o.node o.tree o.cseq x then o else x
      else m.ops ++ [o] }) s

/-- Frees an operation, with its slots. -/
def dropOp (n t c : Nat) (s : State) : State := onNet (fun m => { m with ops := m.ops.filter fun x => !isOp n t c x }) s

/-- A member's entry in a version is not fenced. -/
def rankLiveIn (s : State) (job v r : Nat) : Bool :=
  match resolveRank s job v r with
  | some w => !reFenced w
  | none => false

/-- Ranks of a collective. -/
def cdRanks (d : List Byte) : List Nat := (List.range (cdNmem d)).map (cdRbase d + ·)

/-- A new operation, from its first packet; the member list of fast mode is that of the packet's version (08 R224). -/
def newOp (s : State) (n : Nat) (t : Tree) (c : Nat) (k : Known) : RseOp :=
  let k := knownHere s t.num c k
  { members := if isFast k.desc then (cdRanks k.desc).filter (rankLiveIn s t.job t.ver) else [], had := [], passed := 0,
    node := n, tree := t.num, cseq := c, ver := t.ver, ctx := t.ctx, tag := k.tag, desc := k.desc, below := k.below, bad := false,
    changed := false, ranged := false, anchors := [], mism := [], exps := [], blocks := [], slots := [], sent := [] }

/-! ### Edges -/

/-- Ranks in the subtree of a down edge. -/
def edgeRanks (o : RseOp) (t : Tree) (e : Nat) : List Nat :=
  match t.down[e]? with
  | some x => if x.member then [x.rank] else o.below.getD e []
  | none => []

/-- Numbers of the live down edges (R272). -/
def liveDowns (s : State) (t : Tree) : List Nat :=
  (List.range t.down.length).filter fun e => match t.down[e]? with
    | some x => edgeLive s t x
    | none => false

/-- Where a packet on an edge goes: the link's port, or the member's port or pier (R268). -/
def edgeDest (s : State) (t : Tree) (x : Edge) : Option Nat :=
  if !x.v then none
  else if !x.member then some x.slot
  else match resolveRank s t.job (curEpoch s) x.rank with
    | some w => if ownSwitch s = some (reSwitch w) then some (if reKind w = 0 then reSlot w else 1000 + rePier w) else none
    | none => none

/-- The member that an edge leads to. -/
def edgeMember (x : Edge) : Option Nat := if x.member then some x.rank else none

/-- Who answers for the records of an edge at an RSE. -/
def edgeAnswers (s : State) (n : Nat) (t : Tree) (x : Edge) : AckFrom :=
  { src := 528 + n, dest := edgeDest s t x, rank := rseRank s n, member := edgeMember x }

/-- OPARG of a COLL_DATA packet (R268). -/
def collArg (tree cseq : Nat) : Nat := 2 ^ 28 * tree + 2 ^ 12 * cseq

/-- Sends a payload on an edge, on its record of class cls for position pos; group names the multicast it is a copy of. -/
def sendEdge (n : Nat) (t : Tree) (cseq pos : Nat) (x : Edge) (cls flags : Nat) (payload : List Byte) (s : State)
    (group : Nat := 0) : State :=
  match edgeDest s t x with
  | none => s
  | some d =>
    let k := 2 * pos + (if cls = clCollDn then 1 else 0)
    let b := mkPacket { epoch := curEpoch s, cls := cls, op := opColl, flags := flags, src := rseRank s n, job := t.job,
                        sr := x.pesr + k, rsr := x.esr + k, oparg := collArg t.num cseq } payload
    streamSend { rcd := x.esr + k, req := 7 * t.ctx + 5, src := 528 + n, dest := some d, bytes := b, member := edgeMember x,
                 group := group } s

/-- Sends a payload up. -/
def sendUp (n : Nat) (t : Tree) (cseq pos flags : Nat) (payload : List Byte) (s : State) : State :=
  sendEdge n t cseq pos t.up clCollUp flags payload s

/-- Numbers of the down edges for which replication makes a copy of a packet of version v: its members that are neither FENCED nor
invalid in that version (05 R138). -/
def downsIn (s : State) (t : Tree) (v : Nat) : List Nat :=
  (List.range t.down.length).filter fun e => match t.down[e]? with
    | some x => edgeIn s t v x
    | none => false

/-- A copy goes down an edge, or is discarded as fenced and counted (05 R137). -/
def copyDown (n : Nat) (t : Tree) (cseq pos v flags group : Nat) (payload : List Byte) (x : Edge) (s : State) : State :=
  if x.member && memberOut s t.job v x.rank then bump (A.rtCnt 0) 1 s
  else sendEdge n t cseq pos x clCollDn flags payload s group

/-- Sends a payload of version v down on the edges that a test names (R272); the copies of a multicast are stored once (06 R149). -/
def sendDown (v n : Nat) (t : Tree) (cseq pos flags : Nat) (need : Nat → Bool) (payload : List Byte) (s : State) : State :=
  let group := if bit flags flMcast then s.fab.groups + 1 else 0
  let s := if bit flags flMcast then onFab (fun f => { f with groups := group }) s else s
  ((downsIn s t v).filter need).foldl (fun s e => match t.down[e]? with
    | some x => copyDown n t cseq pos v flags group payload x s
    | none => s) s

/-- The module holds the root of the tree. -/
def isRoot (t : Tree) : Bool := !t.up.v

/-- The down edge whose COLL_UP record of a position a packet names. -/
def downEdgeOf (t : Tree) (pos : Nat) (b : List Byte) : Option Nat :=
  (List.range t.down.length).find? fun e => match t.down[e]? with
    | some x => x.v && x.esr + 2 * pos == pkSr b
    | none => false

/-- The packet names a COLL_UP record of another position of some edge: NRSE differs across it (R273). -/
def nrseDiffers (t : Tree) (b : List Byte) : Option Nat :=
  (List.range t.down.length).find? fun e => match t.down[e]? with
    | some x => x.v && x.esr ≤ pkSr b && pkSr b < x.esr + 32 && (pkSr b - x.esr) % 2 == 0
    | none => false

/-! ### Members -/

/-- The rank is not fenced in the version in force. -/
def rankLive (s : State) (job r : Nat) : Bool := rankLiveIn s job (curEpoch s) r

/-- Position of a member in the member list of fast mode (08 R224). -/
def memberPlace (o : RseOp) (r : Nat) : Nat := (o.members.findIdx? fun x => x == r).getD o.members.length

/-! ### Slots (R271) -/

/-- ⌈log2 n⌉. -/
def clog2 (n : Nat) : Nat := if n ≤ 1 then 0 else (n - 1).log2 + 1

/-- Slots that a slice of the collective takes. -/
def slotsOf (t : Tree) (d : List Byte) : Nat :=
  if cdKind d = kAllgather ∨ cdKind d = kBroadcast then 0
  else if isFast d then max 1 (min 6 ((clog2 t.subn + 3) / 4))
  else 1

/-- Slots in use of a tree's reservation at an RSE. -/
def slotsUsed (s : State) (n t : Nat) : Nat :=
  ((s.net.ops.filter fun o => o.node == n && o.tree == t).map fun o => (o.slots.map Prod.snd).sum).sum

/-- Slices that the elements of a packet lie in. -/
def slicesOf (p : PHead) : List Nat :=
  let a := p.elem / 4096
  (List.range ((p.elem + 32 * p.nblk - 1) / 4096 + 1 - a)).map (a + ·)

/-- The slices of a packet have slots, or there are free ones for them. -/
def slotsFree (s : State) (t : Tree) (o : RseOp) (p : PHead) : Bool :=
  let new := (slicesOf p).filter fun x => !o.slots.any fun y => y.1 == x
  new.length * slotsOf t o.desc + slotsUsed s o.node o.tree ≤ t.rbuf / 68 || slotsOf t o.desc == 0

/-- Takes the slots of a packet's slices. -/
def takeSlots (t : Tree) (p : PHead) (o : RseOp) : RseOp :=
  let k := slotsOf t o.desc
  if k = 0 then o
  else { o with slots := o.slots ++ ((slicesOf p).filter fun x => !o.slots.any fun y => y.1 == x).map fun x => (x, k) }

/-! ### Anchors and faults -/

/-- Anchor block of an element. -/
def anchorBlock (o : RseOp) (elem : Nat) : Nat := elem / anchorBlockLen o.desc

/-- The anchor that the RSE keeps for an element's anchor block; 96 for integers (08 R215, R488). -/
def keptAnchor (o : RseOp) (elem : Nat) : Int :=
  if intSum o.desc then 96 else ((o.anchors.find? fun x => x.1 == anchorBlock o elem).map Prod.snd).getD 0

/-- A NaN production at an RSE. -/
def rseNan (o : RseOp) (cause idx : Nat) : NanAt :=
  { ctx := o.ctx, tag := o.tag, unit := rseUnit o.node, sub := 0, cause := cause, idx := idx }

/-- A CTXF fault of an operation at its RSE. -/
def rseFault (o : RseOp) (code detail : Nat) (s : State) : State :=
  raiseFault { code := code, cls := .ctxf, ctx := o.ctx, unit := rseUnit o.node, tag := o.tag, detail := detail } s

/-- The collective is malformed at the RSE (R273). -/
def rseMalformed (o : RseOp) (s : State) : State :=
  rseFault o 0x0A01 (collDetail o.tree o.cseq 0xFFFF) (putOp { o with bad := true, blocks := [] } s)

/-- Meets the anchor of a packet for an anchor block: kept, or a mismatch (08 R215). -/
def meetAnchor (a : Int) (elem : Nat) (o : RseOp) (s : State) : RseOp × State :=
  let ab := anchorBlock o elem
  let o := { o with had := if o.had.contains ab then o.had else o.had ++ [ab] }
  match o.anchors.find? fun x => x.1 == ab with
  | none => ({ o with anchors := o.anchors ++ [(ab, a)] }, s)
  | some (_, k) =>
    if k = a then (o, s)
    else
      let s := bump (A.rseAncCnt o.node 1) 1 s
      let s := nanProduced (rseNan o cInvalid (ab * anchorBlockLen o.desc)) s
      ({ o with mism := if o.mism.contains ab then o.mism else o.mism ++ [ab] },
       rseFault o 0x0802 (2 ^ 48 * ofInt 16 k + 2 ^ 32 * ofInt 16 a + ab % 2 ^ 32) s)

/-- STATUS of what the RSE sends for a block (08 R211, R215, R223). -/
def blockStatus (o : RseOp) (b : RBlock) : Nat :=
  let st := b.status
  let st := if o.mism.contains (anchorBlock o (32 * b.blk)) && !bit st 1 then st + 2 else st
  if o.changed && !bit st 2 then st + 4 else st

/-- Elements with NAN set where their anchor block has a mismatch. -/
def spoil (o : RseOp) (blk : Nat) (xs : List Anch) : List Anch :=
  if o.mism.contains (anchorBlock o (32 * blk)) then xs.map fun x => { x with nan := true } else xs

/-! ### Sending a block -/

/-- Counts an encoded block (08 Table 8.12). -/
def countBlock (n code : Nat) (s : State) : State :=
  bump (A.rseAncCnt n (if code = 7 then 3 else if code = 5 then 5 else 4)) 1 s

/-- Payload of an ANCHORED or SCAN_OFFSET packet of one block, with its count. -/
def anchoredPayload (form : Nat) (o : RseOp) (b : RBlock) (xs : List Anch) (s : State) : List Byte × State :=
  let (code, bytes) := encodeBlock (rbit s (A.rseAncCfg o.node) 0) xs
  (PHead.bytes { form := form, nblk := 1, anchor := keptAnchor o (32 * b.blk), elem := 32 * b.blk, status := blockStatus o b } ++ bytes,
   countBlock o.node code s)

/-- Payload of a RESULT packet of one block, from the elements' patterns. -/
def resultPayload (o : RseOp) (b : RBlock) (ps : List Nat) : List Byte :=
  PHead.bytes { form := fmResult, nblk := 1, elem := 32 * b.blk, status := blockStatus o b } ++ packElems (cdDst o.desc) ps

/-- Counts a result with MEMBER_CHANGED. -/
def countChanged (o : RseOp) (b : RBlock) (s : State) : State :=
  if bit (blockStatus o b) 2 then bump (A.rseAncCnt o.node 6) 1 s else s

/-- Rounds the elements of a block into DST: their patterns, and the NaNs produced (08 R222, R488). -/
def roundBlock (o : RseOp) (blk : Nat) (xs : List Anch) : List Nat × List NanAt :=
  let r := xs.zipIdx.map fun y =>
    if intSum o.desc then (rootInt y.1, none)
    else rootRound (keptAnchor o (32 * blk)) (cdDst o.desc) (cdOvf o.desc) y.1
  (r.map Prod.fst, (r.zipIdx.filterMap fun y => match y.1.2 with
    | some c => if 32 * blk + y.2 < cdCount o.desc then some (rseNan o c (32 * blk + y.2)) else none
    | none => none))

/-- A down edge's subtree needs a result of the kind (R272). -/
def needsResult (o : RseOp) (t : Tree) (elem : Nat) (e : Nat) : Bool :=
  let d := o.desc
  if cdKind d = kReduce then (edgeRanks o t e).contains (cdRoot d)
  else if cdKind d = kReduceScatter then (edgeRanks o t e).contains (cdRbase d + elem / (cdCount d / cdNmem d))
  else true

/-- STATUS of a packet from above as it goes on from an RSE: MEMBER_CHANGED is added where it is due (08 R223). -/
def markDown (o : RseOp) (pl : List Byte) : List Byte :=
  if o.changed then patch pl 9 [BitVec.ofNat 8 (be pl 9 1 ||| 4)] else pl

/-- The root sends a result block down. -/
def sendResult (o : RseOp) (t : Tree) (pos : Nat) (b : RBlock) (ps : List Nat) (s : State) : State :=
  sendDown (curEpoch s) o.node t o.cseq pos (2 ^ flMcast) (needsResult o t (32 * b.blk)) (resultPayload o b ps) (countChanged o b s)

/-- Blocks of a slice. -/
def sliceBlocks (d : List Byte) (sl : Nat) : Nat := (min 4096 (cdElems d - 4096 * sl) + 31) / 32

/-- Blocks that the RSE at a position handles. -/
def posBlocks (t : Tree) (d : List Byte) (pos : Nat) : Nat :=
  (((List.range ((cdElems d + 4095) / 4096)).filter fun sl => sl % t.nrse == pos).map (sliceBlocks d)).sum

/-- Blocks of results from above that the RSE at a position passes on: those that some edge below needs; a scan's offsets are none. -/
def passBlocks (o : RseOp) (t : Tree) (pos : Nat) : Nat :=
  if isRoot t || cdKind o.desc == kScan then 0
  else ((List.range ((cdElems o.desc + 31) / 32)).filter fun b =>
    b / 128 % t.nrse == pos && (List.range t.down.length).any (needsResult o t (32 * b))).length

/-- The operation ends at the RSE once its last block has been sent, and the last result passed on (08 R223, R272). -/
def settleOp (t : Tree) (pos : Nat) (o : RseOp) (s : State) : State :=
  if (o.sent.map Prod.snd).sum = posBlocks t o.desc pos ∧ passBlocks o t pos ≤ o.passed then dropOp o.node o.tree o.cseq s
  else putOp o s

/-- A block has been sent: its slice's slots are freed after the last one (R271, R272). -/
def blockSent (t : Tree) (pos blk : Nat) (o : RseOp) (s : State) : State :=
  let sl := blk / 128
  let k := smGet 0 o.sent sl + 1
  settleOp t pos { o with blocks := o.blocks.filter (fun b => b.blk != blk), sent := smPut 0 o.sent sl k,
                          slots := if k = sliceBlocks o.desc sl then o.slots.filter fun y => y.1 != sl else o.slots } s

/-! ### Completion of a block -/

/-- Offsets of a scan for each live edge, in rank order: the offset and the totals of the children before it (08 R228). -/
def scanOffsets (parts : List (Nat × List Anch)) : List Anch → List Nat → List (Nat × List Anch)
  | _, [] => []
  | off, e :: r =>
    (e, off) :: scanOffsets parts (match parts.find? fun p => p.1 == e with
      | some p => sumBlocks [off, p.2]
      | none => off) r

/-- What a member of a scan receives: the offset, with its own contribution for SCAN_INCL; +0 for the first of SCAN_EXCL. -/
def scanMember (o : RseOp) (own : Option (List Anch)) (off : List Anch) : List Anch :=
  match own with
  | some x => if cdRop o.desc = ropScanIncl then sumBlocks [off, x] else off
  | none => off

/-- An offset reaches a block of a scan: offsets go to the child modules, results to the members (08 R228). -/
def scanDown (t : Tree) (pos : Nat) (off : List Anch) (b : RBlock) (o : RseOp) (s : State) : State :=
  let s := (scanOffsets b.parts off (liveDowns s t)).foldl (fun s p =>
    match t.down[p.1]? with
    | none => s
    | some x =>
      if x.member then
        let (ps, nans) := roundBlock o b.blk (spoil o b.blk (scanMember o ((b.parts.find? fun q => q.1 == p.1).map Prod.snd) p.2))
        sendEdge o.node t o.cseq pos x clCollDn 0 (resultPayload o b ps) (countChanged o b (nansProduced nans s))
      else
        let (pl, s) := anchoredPayload fmScan o b (spoil o b.blk p.2) s
        sendEdge o.node t o.cseq pos x clCollDn (2 ^ flComp) pl s) s
  blockSent t pos b.blk o s

/-- A complete block of an exact sum or scan. -/
def sumDone (t : Tree) (pos : Nat) (b : RBlock) (o : RseOp) (s : State) : State :=
  let xs := spoil o b.blk (sumBlocks (b.parts.map Prod.snd))
  if isRoot t then
    if cdKind o.desc = kScan then scanDown t pos (List.replicate 32 Anch.zero) b o s
    else
      let (ps, nans) := roundBlock o b.blk xs
      blockSent t pos b.blk o (sendResult o t pos b ps (nansProduced nans s))
  else
    let (pl, s) := anchoredPayload fmAnchored o b xs s
    let s := sendUp o.node t o.cseq pos (2 ^ flComp) pl s
    if cdKind o.desc = kScan then
      putOp { o with blocks := o.blocks.map fun x => if x.blk = b.blk then { x with up := true } else x } s
    else blockSent t pos b.blk o s

/-- The 32-bit word that carries an exact value of MAX or MIN between RSEs (DESIGN CHOICE: log entry 14): an integer; an FP32
pattern; or, for a magnitude of 2^128 and above, which only an MX element has, the pattern of a signalling NaN whose payload is the
magnitude in units of 2^121. -/
def maxMinWord (d : List Byte) (v : Val) : Nat :=
  if isInt (cdSrc d) then ofInt 32 (v.units 0)
  else if atLeastPow 128 v then signBit fmtFp32 v.neg + 0x7F800000 + ((v.abs.shift (-121)).units 0).toNat % 2 ^ 22
  else fp32Of v

/-- The exact value that a word of MAX or MIN carries. -/
def maxMinVal (d : List Byte) (w : Nat) : Val :=
  if isInt (cdSrc d) then Val.ofInt (toInt 32 w)
  else if w / 2 ^ 22 % 2 ^ 9 = 0x1FE ∧ w % 2 ^ 22 ≠ 0 then .num (bit w 31) (w % 2 ^ 22) 121
  else val32 w

/-- The winners of a block, element by element (07 R196). -/
def winners (d : List Byte) (bs : List (List Val)) : List Val :=
  let pick := if cdRop d = ropMax then maxVal else minVal
  match bs with
  | [] => []
  | x :: r => r.foldl (fun a y => List.zipWith pick a y) x

/-- A complete block of MAX or MIN (08 R208). -/
def maxMinDone (t : Tree) (pos : Nat) (b : RBlock) (o : RseOp) (s : State) : State :=
  let vs := winners o.desc (b.best.map Prod.snd)
  if isRoot t then
    let r := vs.map fun v => convert (cdDst o.desc) v .rne (cdOvf o.desc)
    let nans := r.zipIdx.filterMap fun y => match y.1.2 with
      | some c => if 32 * b.blk + y.2 < cdCount o.desc then some (rseNan o c (32 * b.blk + y.2)) else none
      | none => none
    blockSent t pos b.blk o (sendResult o t pos b (r.map Prod.fst) (nansProduced nans s))
  else
    let pl := PHead.bytes { form := fmFast, nblk := 1, elem := 32 * b.blk, status := blockStatus o b } ++
      vs.flatMap fun v => leBytes 4 (maxMinWord o.desc v)
    blockSent t pos b.blk o (sendUp o.node t o.cseq pos 0 pl s)

/-- Adds a left and a right node of the canonical tree: the parent, and the NaNs produced (08 R224). -/
def joinNodes (o : RseOp) (blk : Nat) (a b : FastNode) : FastNode × List NanAt :=
  let vs := List.zipWith (fun x y => (fpAdd x y, (val32 x).isNan || (val32 y).isNan)) a.vals b.vals
  ({ level := a.level + 1, node := a.node / 2, status := a.status ||| b.status, vals := vs.map Prod.fst },
   vs.zipIdx.filterMap fun y =>
     if (val32 y.1.1).isNan && !y.1.2 && 32 * blk + y.2 < cdCount o.desc then some (rseNan o cInvalid (32 * blk + y.2)) else none)

/-- The parent that a node passes up to, without a sibling. -/
def passUp (a : FastNode) (ns : List FastNode) : List FastNode :=
  ns.map fun x => if x = a then { a with level := a.level + 1, node := a.node / 2 } else x

/-- One pairing, or one passing-up of a node without a right sibling; at the root also of one whose sibling's members are fenced
and have brought nothing. None where nothing is left to do. -/
def pairStep (o : RseOp) (blk : Nat) (root : Bool) (ns : List FastNode) : Option (List FastNode × List NanAt) :=
  let n := o.members.length
  match ns.find? fun a => a.node % 2 == 0 && ns.any fun b => b.level == a.level && b.node == a.node + 1 with
  | some a =>
    match ns.find? fun b => b.level == a.level && b.node == a.node + 1 with
    | some b => let (p, nans) := joinNodes o blk a b
                some ((ns.filter fun x => x != a && x != b) ++ [p], nans)
    | none => none
  | none =>
    match ns.find? fun a => decide (a.level < clog2 n) && ((a.node % 2 == 0 && decide (n ≤ (a.node + 1) * 2 ^ a.level)) ||
        (root && ns.all fun b => decide (a.level ≤ b.level))) with
    | some a => some (passUp a ns, [])
    | none => none

/-- Pairs nodes as far as they go; fuel bounds the steps. -/
def pairNodes (o : RseOp) (blk : Nat) (root : Bool) : Nat → List FastNode → List FastNode × List NanAt
  | 0, ns => (ns, [])
  | k + 1, ns =>
    match pairStep o blk root ns with
    | some (ns, a) => let (r, b) := pairNodes o blk root k ns
                      (r, a ++ b)
    | none => (ns, [])

/-- A complete block of fast mode: the root converts node (L, 0); another RSE sends every node whose parent it cannot complete
(08 R224, R225). -/
def fastDone (t : Tree) (pos : Nat) (b : RBlock) (o : RseOp) (s : State) : State :=
  let root := isRoot t
  let (ns, nans) := pairNodes o b.blk root (64 + 32 * b.nodes.length) b.nodes
  let s := nansProduced nans s
  if root then
    let vs := match ns with
      | x :: _ => x.vals
      | [] => []
    let r := vs.map fun v => convert (cdDst o.desc) (val32 v) .rne (cdOvf o.desc)
    let nans := r.zipIdx.filterMap fun y => match y.1.2 with
      | some c => if 32 * b.blk + y.2 < cdCount o.desc then some (rseNan o c (32 * b.blk + y.2)) else none
      | none => none
    blockSent t pos b.blk o (sendResult o t pos b (r.map Prod.fst) (nansProduced nans s))
  else
    let s := ns.foldl (fun s x => sendUp o.node t o.cseq pos 0
      (PHead.bytes { form := fmFast, nblk := 1, elem := 32 * b.blk, level := x.level,
                     status := blockStatus o { b with status := x.status }, node := x.node } ++ x.vals.flatMap (leBytes 4)) s) s
    blockSent t pos b.blk o s

/-- Members below an edge that no node of a block covers and that are not fenced (08 R225, 05 R138). -/
def uncovered (s : State) (t : Tree) (o : RseOp) (b : RBlock) (e : Nat) : List Nat :=
  (edgeRanks o t e).filter fun r => o.members.contains r && rankLive s t.job r &&
    !b.cover.any fun c => c.1 == e && memberPlace o r / 2 ^ c.2.1 == c.2.2

/-- Every live down edge has contributed its part of a block (R272). -/
def blockComplete (s : State) (t : Tree) (o : RseOp) (b : RBlock) : Bool :=
  !b.up && (liveDowns s t).all fun e =>
    if isFast o.desc then b.cover.any (fun c => c.1 == e) && (uncovered s t o b e).isEmpty
    else if isMaxMin o.desc then b.best.any fun p => p.1 == e
    else b.parts.any fun p => p.1 == e

/-- Sends a block that is complete. -/
def advanceBlock (t : Tree) (pos n c blk : Nat) (s : State) : State :=
  match findOp s n t.num c with
  | none => s
  | some o =>
    match o.blocks.find? fun b => b.blk == blk with
    | none => s
    | some b =>
      if !blockComplete s t o b then s
      else if isFast o.desc then fastDone t pos b o s
      else if isMaxMin o.desc then maxMinDone t pos b o s
      else sumDone t pos b o s

/-! ### Pre-pass (08 R214) -/

/-- An anchor block's exponent bytes are complete: M goes up, or from the root down, which sets the anchor. -/
def advanceExp (t : Tree) (pos n c ab : Nat) (s : State) : State :=
  match findOp s n t.num c with
  | none => s
  | some o =>
    match o.exps.find? fun x => x.ab == ab with
    | none => s
    | some x =>
      if x.sent || !(liveDowns s t).all fun e => x.bytes.any fun p => p.1 == e then s
      else
        let m := (x.bytes.map Prod.snd).foldl max 0
        let pl := PHead.bytes { form := fmExponent, nblk := 1, elem := 256 * ab,
                                status := if o.changed then x.status ||| 4 else x.status } ++ beBytes 1 m
        let o := { o with exps := o.exps.map fun y => if y.ab = ab then { y with sent := true } else y }
        if isRoot t then
          sendDown (curEpoch s) n t c pos (2 ^ flMcast) (fun _ => true) pl (putOp { o with anchors := o.anchors ++ [(ab, (m : Int) - 127)] } s)
        else sendUp n t c pos 0 pl (putOp o s)

/-- Sends every block and exponent of an operation that is complete. -/
def advanceOp (t : Tree) (o : RseOp) (s : State) : State :=
  let posOf := fun (blk : Nat) => blk / 128 % t.nrse
  let s := o.exps.foldl (fun s x => advanceExp t (posOf (8 * x.ab)) o.node o.cseq x.ab s) s
  o.blocks.foldl (fun s b => advanceBlock t (posOf b.blk) o.node o.cseq b.blk s) s

/-- Looks again at every collective, after a flip has changed which edges are live. -/
def advanceAll (s : State) : State :=
  s.net.ops.foldl (fun s o => match treeAt s o.ver o.tree with
    | some t => advanceOp t o s
    | none => s) s

end Sys2Proof.Machine
end

