-- ==== Sys2Proof/Machine/Hints.lean ====
section
/-! DEFINITION. CTRL packets on the edges of a tree, and hints (10 R287; 15 R401; 16 R416). -/

namespace Sys2Proof.Machine
open Sys2Proof

/-! ### CTRL packets on tree edges (10 R268, R280) -/

/-- The trees of a version that handle packets. -/
def validTrees (s : State) (v : Nat) : List Tree :=
  let base := rn64 s (A.rtTreeBase v 0)
  if base = 0 then [] else ((List.range 4096).filter fun t => hbmByte s (base + 1024 * t) == 1).filterMap (treeAt s v)

/-- The module's tree logic sends from the RSE of position 0. -/
def treeNode (t : Tree) : Nat := t.rses.getD 0 0

/-- Sends a CTRL packet with a record on an edge. -/
def ctrlOnEdge (t : Tree) (x : Edge) (op cseq : Nat) (record : List Byte) (s : State) : State :=
  match edgeDest s t x with
  | none => s
  | some d =>
    inject { src := 528 + treeNode t, dest := some d, member := edgeMember x,
             bytes := mkPacket { epoch := curEpoch s, cls := clCtrl, op := op, src := rseRank s (treeNode t), job := t.job,
                                 oparg := collArg t.num cseq } record } s

/-- A packet that reached the tree logic came in on an edge: its link's port, or its member's rank. -/
def fromEdge (a : Arrived) (x : Edge) : Bool := x.v && (if x.member then x.rank == pkSrc a.bytes else x.slot == a.src)

/-! ### Hints -/

/-- SLOW_MEMBER record; the delay that is expected is a free value (DESIGN CHOICE: log entry 2). -/
def slowRecord (rank delay cause : Nat) : List Byte :=
  beBytes 1 1 ++ beBytes 3 0 ++ beBytes 4 rank ++ beBytes 4 delay ++ beBytes 1 cause ++ beBytes 19 0

/-- CRITICAL_PATH record (16 R416). -/
def criticalRecord (sw hold : Nat) : List Byte := beBytes 1 2 ++ beBytes 3 0 ++ beBytes 4 sw ++ beBytes 4 hold ++ beBytes 20 0

/-- Sends a hint record on every edge of a tree that a test names. -/
def hintOnTree (t : Tree) (cseq : Nat) (p : Edge → Bool) (record : List Byte) (s : State) : State :=
  ((t.up :: t.down).filter fun x => x.v && p x).foldl (fun s x => ctrlOnEdge t x opHint cseq record s) s

/-- Sends SLOW_MEMBER hints on each tree of the version in force, for the lowest rank among its member edges (15 R401). -/
def slowHints (cause : Nat) (s : State) : State :=
  (validTrees s (curEpoch s)).foldl (fun s t =>
    match ((t.down.filter fun x => x.v && x.member).map Edge.rank).min? with
    | none => s
    | some r => hintOnTree t 0 (fun _ => true) (slowRecord r (freeBits 32 s) cause) (tookFree s)) s

/-- A CRITICAL_PATH record acts on the cap (16 R416). -/
def useHint (record : List Byte) (s : State) : State := if be record 0 1 = 2 then applyHint (be record 4 4 % 2 ^ 16) s else s

/-- A hint at the tree logic: forwarded, with its CSEQ, on every edge but the one it arrived on. -/
def takeHint (a : Arrived) (s : State) : State :=
  let b := a.bytes
  let s := takeArrived a s
  if !pkCheckOk b then bump (A.rtCnt 4) 1 s
  else match packetTree s b with
    | none => routeErr b false s
    | some t =>
      let r := pkPayload b
      let s := hintOnTree t (opCseq b) (fun x => !fromEdge a x) r s
      useHint r (raiseEvent { code := 0x0A07, ctx := t.ctx, unit := rtUnit, detail := be r 0 8 } s)

/-- HINT: the first hint at a unit. A member's pier takes no action on one. -/
def execHint (u : Fin 129) (s : State) : Host.Outcome State Fault Refusal :=
  match arrivedAt s u.val fun b => pkOp b == opHint with
  | none => .next s
  | some a => .next (if u.val = 128 then takeHint a s else takeArrived a s)

/-- SEND_HINT of PWR_CTRL: a CRITICAL_PATH hint on PWR_HINT_TX's tree, applied here as well. -/
def sendHint (s : State) : State :=
  let sw := rf s A.pwrHintTree 15 0
  let hold := rf s A.pwrHintHold 16 0
  let s := match treeAt s (curEpoch s) (rf s A.pwrHintTree 27 16) with
    | some t => hintOnTree t 0 (fun _ => true) (criticalRecord sw hold) s
    | none => s
  applyHint sw s

/-- Port p writes PWR_CTRL (16 Table 16.11): its state, and its status. -/
def writePwrCtrl (p : GPort) (w : Word) (s : State) : State × Nat :=
  if !holds s p (dieOf A.pwrCtrl) then (klDenied p A.pwrCtrl s, stIgnored)
  else if fget w 3 0 = 1 then (clearCons s, stOk)
  else if fget w 3 0 = 2 ∧ 1 ≤ rf s A.pwrHintHold 16 0 ∧ rf s A.pwrHintHold 16 0 ≤ 100000 then (sendHint (wn A.pwrCtrl 2 s), stOk)
  else (s, stIgnored)

/-- SEND_HINT: port p writes PWR_CTRL with OP 2. -/
def execSendHint (p : GPort) (s : State) : Host.Outcome State Fault Refusal :=
  .next (wrRow p A.pwrCtrl 2 (writePwrCtrl p) s)

end Sys2Proof.Machine
end

