-- ==== Sys2Proof/Machine/Hbm.lean ====
section
/-! DEFINITION. The HBM3E stacks: error correction, refresh, scrub, retraining, repair, temperature, and the traffic generator
(15 R393-R403). -/

namespace Sys2Proof.Machine
open Sys2Proof

def onMem (f : Mem → Mem) (s : State) : State := { s with mem := f s.mem }

/-! ### Error correction (R394, R395) -/

/-- Key of an extent of a stack, and its place in MEM_REPAIR_ADVISED's DETAIL (Table 15.5). -/
def extentKey (st pch ext : Nat) : Nat := 2 ^ 12 * st + 2 ^ 7 * pch + ext
def extentDetail (st pch ext : Nat) : Nat := 2 ^ 16 * pch + 2 ^ 8 * st + ext

/-- A corrected error counts for its extent; the 16th in a scrub pass advises a repair. -/
def countExtent (st sl : Nat) (s : State) : State :=
  let (pch, pa) := placeOf sl
  let ext := pa / extentBytes
  let k := extentKey st pch ext
  let n := smGet 0 s.mem.corrs k + 1
  let s := onMem (fun m => { m with corrs := smPut 0 m.corrs k n }) s
  if 16 ≤ n ∧ !s.mem.advised.contains k then
    raiseEvent { code := 0x0F04, unit := memUnit st, detail := extentDetail st pch ext }
      (onMem (fun m => { m with advised := m.advised ++ [k] }) s)
  else s

/-! ### Retraining (R398) -/

/-- The channel of a stack that retrains. -/
def retraining (s : State) (st : Nat) : Option Nat := (List.range 16).find? fun c => rbit s (A.memChStatus st c) 1

/-- A channel starts to retrain: RETRAINING, RETRAINS, and SLOW_MEMBER hints. -/
def startRetrain (st c : Nat) (s : State) : State :=
  let a := A.memChStatus st c
  let s := onMem (fun m => { m with due := m.due.erase (16 * st + c), tries := smPut 0 m.tries (16 * st + c) 0 }) s
  slowHints 4 (wf a 31 24 (satAdd 255 (rf s a 31 24) 1) (wf a 1 1 1 s))

/-- The first channel that is due retrains, where none of its stack does. -/
def nextRetrain (st : Nat) (s : State) : State :=
  match retraining s st, s.mem.due.find? fun k => k / 16 == st with
  | none, some k => startRetrain st (k % 16) s
  | _, _ => s

/-- A channel is due to retrain. -/
def dueRetrain (st c : Nat) (s : State) : State :=
  let k := 16 * st + c
  if s.mem.due.contains k || retraining s st == some c || rbit s (A.memChStatus st c) 2 then s
  else nextRetrain st (onMem (fun m => { m with due := m.due ++ [k] }) s)

/-- A corrected error counts for its channel: 1,024 within 1 s make it retrain. -/
def countChannel (st c : Nat) (s : State) : State :=
  let k := 16 * st + c
  let t := ftNs s
  let l := t :: (smGet [] s.mem.errs k).filter fun u => (t + 2 ^ 64 - u) % 2 ^ 64 < 1000000000
  if 1024 ≤ l.length then dueRetrain st c (onMem (fun m => { m with errs := smPut [] m.errs k [] }) s)
  else onMem (fun m => { m with errs := smPut [] m.errs k l }) s

/-- A word whose error was corrected, and counted in MEM_ECC_CNT k: the record names an aperture address, or the stack's block and
a stack-local address. -/
def corrected (k st sl : Nat) (a : Option Nat) (s : State) : State :=
  let s := bump (A.memEccCnt st k) 1 s
  let s := match a with
    | some a => raiseFault { code := 0x120B, cls := .corr, detail := a } s
    | none => raiseFault { code := 0x120B, cls := .corr, unit := memUnit st, detail := sl } s
  countChannel st ((placeOf sl).1 / 2) (countExtent st sl s)

/-- The code word of a stack at a stack-local address has bad check bits until a write replaces it whole. -/
def markBad (st sl : Nat) (s : State) : State :=
  if s.mem.bad.contains (wordKey st sl) then s else onMem (fun m => { m with bad := m.bad ++ [wordKey st sl] }) s

/-- What the ECC finds in the n bytes at a that an access reads: a word outside them is none of it. -/
def meetEcc (x : MemSeen) (a n : Nat) (s : State) : State :=
  let inside := fun (w : Nat) => mapped s w && decide (a < 64 * (w / 64) + 64) && decide (64 * (w / 64) < a + n)
  match x with
  | .none => s
  | .corrected w =>
    if inside w && (badWord s (64 * (w / 64)) 64).isNone then
      corrected 0 (servedAt s w).1 (servedAt s w).2 (some (64 * (w / 64))) s
    else s
  | .uncorrectable w => if inside w then markBad (servedAt s w).1 (servedAt s w).2 s else s

/-! ### Refresh and scrub (R396, R397) -/

/-- BWSTEP of a stack. -/
def bwStep (s : State) (st : Nat) : Nat := rf s (A.memStatus st) 18 16

/-- REFRESH: a stack runs a per-bank refresh command, which holds it for some core cycles; refresh alone runs with its budget
spent (16 R423). -/
def execRefresh (st : SpanNo) (cycles : Nat) (s : State) : Host.Outcome State Fault Refusal :=
  .next (if s.pwr.inReset then s else tstCharge actRefresh st.val cycles s)

/-- The scrub of a stack moves to its next word; past the spare region a pass ends. -/
def scrubNext (st w : Nat) (s : State) : State :=
  if w + 1 < stackAll / 64 then onMem (fun m => { m with scrub := smPut 0 m.scrub st (w + 1) }) s
  else
    let other := fun (k : Nat) => k / 2 ^ 12 != st
    onMem (fun m => { m with scrub := smPut 0 m.scrub st 0, corrs := m.corrs.filter fun y => other y.1,
                             advised := m.advised.filter other })
      (wn (A.memScrubPass st) ((rn s (A.memScrubPass st) + 1) % 2 ^ 32) s)

/-- Scrub finds word w of a stack uncorrectable: the word keeps its bad check bits, wherever it lies. -/
def scrubUe (st w : Nat) (s : State) : State :=
  let s := markBad st (64 * w) s
  let s := match wordServes s false (2 ^ 29 * st + w) with
    | some a => countUe 3 a s
    | none => wn (A.memEccLast st 1) (64 * w / 2 ^ 32) (wn (A.memEccLast st 0) (64 * w % 2 ^ 32) (bump (A.memEccCnt st 3) 1 s))
  raiseEvent { code := 0x0F03, unit := memUnit st, detail := 2 ^ 32 * st + w % 2 ^ 32 } s

/-- What scrub of a stack finds in its word w, by the error there. -/
def scrubWord (st w : Nat) (x : MemSeen) (s : State) : State :=
  match x, s.mem.bad.contains (2 ^ 29 * st + w) || storageFailed s st (64 * w) with
  | .none, false => s
  | .corrected _, false => corrected 2 st (64 * w) (wordServes s false (2 ^ 29 * st + w)) s
  | _, _ => scrubUe st w s

/-- SCRUB: patrol scrub of a stack reads its next word; x is what it finds there, of which the address does not matter. -/
def execScrub (st : SpanNo) (x : MemSeen) (cycles : Nat) (s : State) : Host.Outcome State Fault Refusal :=
  let st := st.val
  if s.pwr.inReset || tstSpent s actScrub st || bwStep s st == 4 then .next s
  else
    let w := smGet 0 s.mem.scrub st
    .next (scrubNext st w (scrubWord st w x (tstCharge actScrub st cycles s)))

/-- RETRAIN_END: the channel of a stack that retrains has finished a try; after the third that fails it is FAILED. The refreshes of the
channel just before its retrain and at once after it have held the stack for some core cycles of this period (DESIGN CHOICE: charged when
the retrain ends, DESIGN CHOICE: log entry 73). -/
def execRetrainEnd (st : SpanNo) (ok : Bool) (cycles : Nat) (s : State) : Host.Outcome State Fault Refusal :=
  let st := st.val
  match retraining s st with
  | none => .next s
  | some c =>
    let a := A.memChStatus st c
    let k := 16 * st + c
    let s := if ok || 2 ≤ smGet 0 s.mem.tries k then tstCharge actRefresh st cycles s else s
    if ok then
      let s := onMem (fun m => { m with trained := smPut none m.trained k (some (rf s (A.memStatus st) 31 24)) }) s
      .next (nextRetrain st (wf a 1 0 1 s))
    else
      let n := smGet 0 s.mem.tries k + 1
      if n < 3 then
        .next (wf a 31 24 (satAdd 255 (rf s a 31 24) 1) (onMem (fun m => { m with tries := smPut 0 m.tries k n }) s))
      else
        let s := raiseEvent { code := 0x0F07, unit := memUnit st, detail := 2 ^ 8 * st + c } (wf a 2 0 4 s)
        .next (nextRetrain st s)

/-! ### Temperature (R400, R401) -/

/-- Enters a bandwidth step: above 0 it raises MEM_HOT and sends hints. -/
def enterStep (st n : Nat) (s : State) : State :=
  let s := wf (A.memStatus st) 18 16 n s
  if n = 0 then s else slowHints 1 (raiseEvent { code := 0x0F08, unit := memUnit st, detail := 2 ^ 8 * st + n } s)

/-- A reading counts towards the 1 ms runs at or above 95 °C, below 92 °C, and below 100 °C. -/
def countReading (st t : Nat) (m : Mem) : Mem :=
  { m with hot := smPut 0 m.hot st (if 95 ≤ t then smGet 0 m.hot st + 1 else 0)
           cold := smPut 0 m.cold st (if t < 92 then smGet 0 m.cold st + 1 else 0)
           cool := smPut 0 m.cool st (if t < 100 then smGet 0 m.cool st + 1 else 0) }

/-- A channel that has moved 10 °C from its last training is due to retrain; a first reading stands for the training at boot. -/
def checkDrift (st t c : Nat) (s : State) : State :=
  let k := 16 * st + c
  if !rbit s (A.memChStatus st c) 0 then s
  else match smGet none s.mem.trained k with
    | none => onMem (fun m => { m with trained := smPut none m.trained k (some t) }) s
    | some u => if u + 10 ≤ t ∨ t + 10 ≤ u then dueRetrain st c s else s

/-- STACK_TEMP_READ: the controller of a stack reads its sensor. -/
def execStackTempRead (st : SpanNo) (t : BitVec 8) (s : State) : Host.Outcome State Fault Refusal :=
  if s.pwr.inReset then .next s
  else
    let st := st.val
    let t := t.toNat
    let s := onMem (countReading st t) (wf (A.memStatus st) 31 24 t s)
    let b := bwStep s st
    let s := if 105 ≤ t then (if b = 4 then s else enterStep st 4 s)
      else if 95 ≤ t ∧ b = 0 then enterStep st 1 (onMem (fun m => { m with hot := smPut 0 m.hot st 0 }) s)
      else s
    .next ((List.range 16).foldl (fun s c => checkDrift st t c s) (nextRetrain st s))

/-- BWSTEP_WINDOW: 1 ms, ten readings, has passed: BWSTEP rises or falls by one, or holds and its hint is sent again. -/
def execBwstepWindow (st : SpanNo) (s : State) : Host.Outcome State Fault Refusal :=
  let st := st.val
  let b := bwStep s st
  let m := s.mem
  if b = 4 then
    .next (if 10 ≤ smGet 0 m.cool st then enterStep st 3 (onMem (fun m => { m with hot := smPut 0 m.hot st 0, cold := smPut 0 m.cold st 0 }) s)
      else slowHints 1 s)
  else if 1 ≤ b ∧ b < 3 ∧ 10 ≤ smGet 0 m.hot st then .next (enterStep st (b + 1) (onMem (fun m => { m with hot := smPut 0 m.hot st 0 }) s))
  else if 1 ≤ b ∧ 10 ≤ smGet 0 m.cold st then .next (enterStep st (b - 1) (onMem (fun m => { m with cold := smPut 0 m.cold st 0 }) s))
  else .next (if b = 0 then s else slowHints 1 s)

/-! ### Repair (R399) -/

/-- Spare extents of a stack that no repair holds. -/
def freeSpares (s : State) (st : Nat) : List Nat :=
  (List.range 64).filter fun e => !s.mem.repairs.any fun q => q.stack == st && q.spare == e

/-- The spare extent that a repair of a pseudo-channel takes: the lowest free one of another channel. -/
def spareFor (s : State) (st pch : Nat) : Option Nat := (freeSpares s st).find? fun e => e / 4 != pch / 2

/-- An extent's repair is in force, or pending. -/
def repaired (s : State) (st pch ext : Nat) : Bool :=
  s.mem.repairs.any fun q => q.stack == st && q.pch == pch && q.extent == ext

/-- The fields of MEM_REPAIR_STATUS for a request. -/
def repairStatus (pending : Bool) (ext pch result spare : Nat) : Nat :=
  2 ^ 31 * b2n pending + 2 ^ 16 * ext + 2 ^ 8 * pch + 2 ^ 6 * result + spare

/-- REPAIR of an extent: a spare is taken and a copy begins, or it is refused. -/
def repairExtent (st pch ext : Nat) (s : State) : State :=
  let pending := s.mem.repairs.any fun q => q.stack == st && q.pending
  let fail := fun (r : Nat) =>
    raiseEvent { code := 0x0F06, unit := memUnit st, detail := 2 ^ 8 * st + r }
      (wn (A.memRepairStatus st) (repairStatus pending ext pch r 0) s)
  match spareFor s st pch with
  | none => fail 1
  | some e =>
    if pending then fail 2
    else if repaired s st pch ext then fail 3
    else
      let q : Repair := { stack := st, pch := pch, extent := ext, spare := e, pending := true, copied := false }
      wn (A.memRepairStatus st) (repairStatus true ext pch 0 e) (onMem (fun m =>
        { m with repairs := m.repairs ++ [q], hidden := m.hidden.filter fun c => !inSpare st e c.1 }) s)

/-- The pending repair of a stack. -/
def pendingOn (s : State) (st : Nat) : Option Repair := s.mem.repairs.find? fun q => q.stack == st && q.pending

/-- An aperture address lies in the extent of a repair. -/
def inExtent (s : State) (q : Repair) (a : Nat) : Bool :=
  let (st, sl) := stackAddr s a
  mapped s a && st == q.stack && (placeOf sl).1 == q.pch && (placeOf sl).2 / extentBytes == q.extent

/-- What the spare extent of a repair holds when it is cancelled: the extent's bytes once the copy has ended, and free values before
(DESIGN CHOICE: log entry 73). -/
def spareLeft (s : State) (q : Repair) : List Host.Cell :=
  if q.copied then
    (s.hbm.filter fun c => inExtent s q c.1).map fun c => (2 ^ 35 * q.stack + spareByte q (stackAddr s c.1).2, c.2)
  else (Config.freeHbm (2 ^ 33 + s.free)).filter fun c => inSpare q.stack q.spare c.1

/-- CANCEL: a pending repair ends, and its spare is free. -/
def cancelRepair (st : Nat) (s : State) : State :=
  match pendingOn s st with
  | some q =>
    let s' := if q.copied then s else tookFree s
    wf (A.memRepairStatus st) 31 31 0 (onMem (fun m =>
      { m with repairs := m.repairs.filter fun q => !(q.stack == st && q.pending), hidden := memOf (m.hidden ++ spareLeft s q) }) s')
  | none => s

/-- Port p writes MEM_CTRL of a stack (Table 15.7): its state, and its status. -/
def writeMemCtrl (p : GPort) (st : Nat) (w : Word) (s : State) : State × Nat :=
  let a := A.memCtrl st
  let op := fget w 3 0
  let pch := fget w 12 8
  let ext := fget w 22 16
  if !holds s p (dieOf a) then (klDenied p a s, stIgnored)
  else if 125 < ext ∨ op = 0 ∨ 3 < op then (s, stIgnored)
  else
    let s := wn a (2 ^ 16 * ext + 2 ^ 8 * pch + op) s
    (if op = 1 then dueRetrain st (pch / 2) s else if op = 2 then repairExtent st pch ext s else cancelRepair st s, stOk)

/-- A write of MEM_CTRL by its fields. -/
def memCtrlRow (p : GPort) (st : SpanNo) (op pch ext : Nat) (s : State) : State :=
  wrRow p (A.memCtrl st.val) (BitVec.ofNat 32 (2 ^ 16 * ext + 2 ^ 8 * pch + op)) (writeMemCtrl p st.val) s

/-- RETRAIN: MEM_CTRL written with OP RETRAIN. -/
def execRetrain (p : GPort) (st : SpanNo) (pch : Fin 32) (s : State) : Host.Outcome State Fault Refusal :=
  .next (memCtrlRow p st 1 pch.val 0 s)

/-- REPAIR: MEM_CTRL written with OP REPAIR. -/
def execRepair (p : GPort) (st : SpanNo) (pch : Fin 32) (ext : Fin 128) (s : State) : Host.Outcome State Fault Refusal :=
  .next (memCtrlRow p st 2 pch.val ext.val s)

/-- MEM_CANCEL: MEM_CTRL written with OP CANCEL. -/
def execMemCancel (p : GPort) (st : SpanNo) (s : State) : Host.Outcome State Fault Refusal := .next (memCtrlRow p st 3 0 0 s)

/-- The offsets in the extent of a repair of the words that its copy meets uncorrectable. -/
def badOffsets (s : State) (q : Repair) : List Nat :=
  if storageFailed s q.stack (stackLocal q.pch 0) then (List.range (extentBytes / 64)).map (64 * ·)
  else s.mem.bad.filterMap fun k =>
    let (pch, pa) := placeOf (64 * (k % 2 ^ 29))
    if k / 2 ^ 29 = q.stack ∧ pch = q.pch ∧ pa / extentBytes = q.extent then some (pa % extentBytes) else none

/-- The words with bad check bits once a repair's copy has ended: the spare extent has those of the extent (15 R399). -/
def copiedMarks (s : State) (q : Repair) : List Nat :=
  (s.mem.bad.filter fun k => !inSpare q.stack q.spare (2 ^ 35 * (k / 2 ^ 29) + 64 * (k % 2 ^ 29))) ++
    (badOffsets s q).map fun o => wordKey q.stack (spareSl q.spare o)

/-- REPAIR_COPY_END: the copy of a stack's pending repair has ended, whose last words held the stack for some core cycles of this
period; the extent awaits the next FLIP. The copy defers while the scrub turnstile is spent (15 R399; 16 R422, R424). -/
def execRepairCopyEnd (st : SpanNo) (cycles : Nat) (s : State) : Host.Outcome State Fault Refusal :=
  match pendingOn s st.val with
  | some q =>
    if q.copied || tstSpent s actScrub st.val then .next s
    else .next (onMem (fun m => { m with
      bad := copiedMarks s q, repairs := m.repairs.map fun x => if x = q then { q with copied := true } else x })
        (tstCharge actScrub st.val cycles s))
  | none => .next s

/-- At a FLIP, a repair whose copy has ended takes effect. -/
def completeRepairs (s : State) : State :=
  (s.mem.repairs.filter fun q => q.pending && q.copied).foldl (fun s q =>
    let s := onMem (fun m => { m with repairs := m.repairs.map fun x => if x = q then { q with pending := false } else x }) s
    let s := wf (A.memStatus q.stack) 14 8 (rf s (A.memStatus q.stack) 14 8 - 1) (wf (A.memRepairStatus q.stack) 31 31 0 s)
    raiseEvent { code := 0x0F05, unit := memUnit q.stack, detail := extentDetail q.stack q.pch q.extent } s) s

/-! ### Traffic generator and checker (R402) -/

/-- The generator of a pseudo-channel may start. -/
def tgMay (s : State) (st k : Nat) (w : Word) : Bool :=
  (fstate s (fnStack st) == fsStart || fget w 1 1 == 1) && rn s (A.tgLen st k) != 0 && fget w 31 10 == 0 && fget w 7 7 == 0 &&
    fget w 3 2 == 0 && fget w 6 4 ≤ 4 && fget w 9 8 ≤ 2

/-- Port p writes CTL of MEM_TG (Table 15.9): its state, and its status. -/
def writeTgCtl (p : GPort) (st k : Nat) (w : Word) (s : State) : State × Nat :=
  let a := A.tgCtl st k
  if !holds s p (dieOf a) then (klDenied p a s, stIgnored)
  else if fget w 0 0 = 0 then (wr a (fieldsOnly a w) s, stOk)
  else if !tgMay s st k w then (s, stIgnored)
  else (wn (A.tgStatus st k) 1 (wn (A.tgFirstErr st k) 0 (wr a (fieldsOnly a w) s)), stOk)

/-- TG_START: CTL of MEM_TG written with EN 1. -/
def execTgStart (p : GPort) (st : SpanNo) (k : Fin 32) (ctl : BitVec 9) (s : State) : Host.Outcome State Fault Refusal :=
  .next (wrRow p (A.tgCtl st.val k.val) (BitVec.ofNat 32 (2 * ctl.toNat + 1)) (writeTgCtl p st.val k.val) s)

/-- Writes a whole code word of a stack's storage: what it serves in the aperture, or storage out of service; a FAILED channel loses
it. The spare of a pending repair keeps what that repair gives it. -/
def storageWr (st sl : Nat) (bs : List Byte) (s : State) : State :=
  if storageFailed s st sl then s
  else match wordServes s false (wordKey st sl), wordServes s true (wordKey st sl) with
    | some a, _ => hbmWr a bs s
    | none, some _ => s
    | none, none => onMem (fun m => { m with
        bad := m.bad.filter (· != wordKey st sl), hidden := smPutAll hbmUnlisted m.hidden (2 ^ 35 * st + sl) 1 bs }) s

/-- The generator's run covers a word of its pseudo-channel: with SPARE_ONLY, a word of a free spare extent (R402). -/
def tgCovers (s : State) (st k : Nat) (spare : Bool) (w : Nat) : Bool :=
  64 * w < 0x30000000 &&
    (!spare || (126 * extentBytes ≤ 64 * w && (freeSpares s st).contains (spareOf (stackLocal k (64 * w)))))

/-- What the generator writes: each word that its run covers takes a free value (DESIGN CHOICE: log entry 2). -/
def tgWords (st k : Nat) (spare : Bool) (start : Nat) : Nat → State → State
  | 0, s => s
  | n + 1, s =>
    let s := if tgCovers s st k spare start then storageWr st (stackLocal k (64 * start)) (leBytes 64 (freeBits 512 s)) (tookFree s) else s
    tgWords st k spare (start + 1) n s

/-- TG_DONE: the run of a generator completes; errs are the words that did not match. -/
def execTgDone (st : SpanNo) (k : Fin 32) (errs : List Nat) (cycles : Nat) (s : State) : Host.Outcome State Fault Refusal :=
  let st := st.val
  let k := k.val
  if !rbit s (A.tgStatus st k) 0 then .next s
  else
    let ctl := A.tgCtl st k
    let start := rn s (A.tgStart st k)
    let len := rn s (A.tgLen st k)
    let es := errs.filter fun e => start ≤ e && e < start + len && rf s ctl 9 8 != 0
    let s := if rbit s ctl 1 then tstCharge actSentinel st cycles s else s
    let s := if rf s ctl 9 8 = 1 then s else tgWords st k (rbit s ctl 1) start len s
    let s := wn (A.tgFirstErr st k) (es.getD 0 0) (bump (A.tgErrors st k) es.length s)
    .next (wn (A.tgStatus st k) 2 (wf ctl 0 0 0 s))

end Sys2Proof.Machine
end

