-- ==== Sys2Proof/Machine/GirdProg.lean ====
section
/-! DEFINITION. Girder microprograms as data: their words, loops, and the checks that the image loader makes on them (11
R312-R315). -/

namespace Sys2Proof.Machine
open Sys2Proof

/-! ### Words (11 R314) -/

/-- A word of a girder stream. -/
structure GWord where
  op : Nat
  fa : Nat
  fb : Nat
  fc : Nat
  fd : Nat
  imm : Nat
  deriving DecidableEq, Repr

/-- The fields of a word. -/
def gWord (w : Nat) : GWord :=
  { op := bits w 63 58, fa := bits w 57 52, fb := bits w 51 46, fc := bits w 45 40, fd := bits w 39 32, imm := bits w 31 0 }

/-! Operations (11 Table 11.9). -/

def goSetx : Nat := 0x01
def goAddx : Nat := 0x02
def goLda : Nat := 0x03
def goLdb : Nat := 0x04
def goStc : Nat := 0x05
def goMac : Nat := 0x11
def goRdacc : Nat := 0x12
def goVop : Nat := 0x13
def goVpopa : Nat := 0x14
def goVpush : Nat := 0x15
def goVset : Nat := 0x16
def goZacc : Nat := 0x17
def goLoop : Nat := 0x3E
def goEnd : Nat := 0x3F

/-- Fields of a word that its operation does not use are 0, given which it uses. -/
def gUnused (w : GWord) (a b c d i : Bool) : Bool :=
  (a || w.fa == 0) && (b || w.fb == 0) && (c || w.fc == 0) && (d || w.fd == 0) && (i || w.imm == 0)

/-- A word of the access stream (exe false) or of the execute stream is encoded as R314 lays down, its register, tile, rivet
and ARG indices in range. -/
def gWordOk (exe : Bool) (w : GWord) : Bool :=
  match exe, w.op with
  | false, 0x01 => gUnused w true false false true true && w.fa < 16 && w.fd < 2 && (w.fd == 0 || w.imm < 12)
  | false, 0x02 => gUnused w true true false false true && w.fa < 16 && w.fb < 16
  | false, 0x03 => gUnused w true false false false true && w.fa < 16
  | false, 0x04 => gUnused w true false false false true && w.fa < 16
  | false, 0x05 => gUnused w true false false false true && w.fa < 16
  | true, 0x11 => gUnused w true false false false true && w.fa < 8 && w.imm < 2 ^ 17
  | true, 0x12 => gUnused w true true true false false && w.fa < 8 && w.fb < 32 && w.fc < 16
  | true, 0x13 => gUnused w true true true true false && w.fa < 32 && w.fb < 32 && w.fc < 32 && w.fd < 12
  | true, 0x14 => gUnused w true false false false false && w.fa < 32
  | true, 0x15 => gUnused w true false false false false && w.fa < 32
  | true, 0x16 => gUnused w true false false false true && w.fa < 32
  | true, 0x17 => gUnused w true false false false true && w.fa < 8 && w.imm < 2 ^ 16
  | _, 0x3E => gUnused w false true false true true && w.fb < 63 && w.fd < 2 &&
      (if w.fd = 0 then w.imm < 2 ^ 16 else w.imm / 2 ^ 4 % 2 ^ 12 == 0 && w.imm % 2 ^ 4 < 12)
  | _, 0x3F => gUnused w false false false false false
  | _, _ => false

/-! ### Programs (11 R314) -/

def gpAcount (p : List Byte) : Nat := le p 0x02 2
def gpXcount (p : List Byte) : Nat := le p 0x04 2

/-- n words at offset o of a program. -/
def gpWords (p : List Byte) (o n : Nat) : List Nat := (List.range n).map fun i => le p (o + 8 * i) 8

/-- The words of the access stream, and of the execute stream. -/
def gpAccess (p : List Byte) : List Nat := gpWords p 0x40 (gpAcount p)
def gpExecute (p : List Byte) : List Nat := gpWords p (0x40 + 8 * gpAcount p) (gpXcount p)

/-- The header is as R314 lays down. -/
def gpHeadOk (p : List Byte) : Bool :=
  le p 0 2 == 0x4750 && 1 ≤ gpAcount p && gpAcount p ≤ 1024 && 1 ≤ gpXcount p && gpXcount p ≤ 1024 && allZero (slice p 6 26)

/-! ### Loops -/

/-- Word i of a stream. -/
def gAt (ws : List Nat) (i : Nat) : GWord := gWord (ws.getD i 0)

/-- Places of the LOOP words of a stream. -/
def gLoops (ws : List Nat) : List Nat := (List.range ws.length).filter fun i => (gAt ws i).op == goLoop

/-- The word after the body of the loop at place i. -/
def gStop (ws : List Nat) (i : Nat) : Nat := i + 2 + (gAt ws i).fb

/-- Loops whose bodies hold place j. -/
def gAround (ws : List Nat) (j : Nat) : List Nat := (gLoops ws).filter fun i => decide (i < j ∧ j < gStop ws i)

/-- Every body lies inside its stream and crosses no other loop's end, and loops nest at most 4 deep. -/
def gLoopsOk (ws : List Nat) : Bool :=
  (gLoops ws).all fun j =>
    gStop ws j ≤ ws.length && (gAround ws j).length ≤ 3 && (gAround ws j).all fun i => gStop ws j ≤ gStop ws i

/-- Where a stream goes after the word before place n, and the loops that it is still in: a body that has ended runs again or is
left. -/
def afterWord : List LoopFrame → Nat → Nat × List LoopFrame
  | [], n => (n, [])
  | l :: ls, n =>
    if l.stop = n then if 1 < l.left then (l.first, { l with left := l.left - 1 } :: ls) else afterWord ls n
    else (n, l :: ls)

/-- A LOOP word at place pc with a count: its body runs, or is skipped. -/
def enterLoop (loops : List LoopFrame) (pc body count : Nat) : Nat × List LoopFrame :=
  if count = 0 then afterWord loops (pc + 1 + body)
  else (pc + 1, { first := pc + 1, stop := pc + 1 + body, left := count } :: loops)

/-! ### Tiles and their timing (11 R312, R313) -/

/-- Rivets of a mask. -/
def rivetsOf (mask : Nat) : List Nat := (List.range 16).filter (bit mask)

/-- Tiles that a word reads before they may change, as 8 × rivet + tile. -/
def tilesRead (w : GWord) : List Nat :=
  if w.op = goMac ∧ bit w.imm 16 then (rivetsOf w.imm).map fun r => 8 * r + w.fa
  else if w.op = goRdacc then [8 * w.fc + w.fa] else []

/-- Tiles that a word writes. -/
def tilesWritten (w : GWord) : List Nat :=
  if w.op = goMac ∨ w.op = goZacc then (rivetsOf w.imm).map fun r => 8 * r + w.fa else []

/-- Latency of a word's write: 1 of ZACC, else that of the command's pair. -/
def writeLatency (w : GWord) (l : Nat) : Nat := if w.op = goZacc then 1 else l

/-- The ready cycles of tiles, and the landing cycles of the writes that have not landed. -/
structure TileTimes where
  ready : List (Nat × Nat)
  writes : List (Nat × List Nat)
  deriving DecidableEq, Repr

/-- The first tile that a word reads before its ready cycle, with the deficit. -/
def earlyTile (t : TileTimes) (w : GWord) (cycle : Nat) : Option (Nat × Nat) :=
  ((tilesRead w).find? fun k => decide (cycle < smGet 0 t.ready k)).map fun k => (k, smGet 0 t.ready k - cycle)

/-- The first tile on which a word's write lands with another. -/
def wawTile (t : TileTimes) (w : GWord) (cycle l : Nat) : Option Nat :=
  (tilesWritten w).find? fun k => (smGet [] t.writes k).contains (cycle + writeLatency w l)

/-- A word issues in a cycle: its writes are under way. -/
def issueWord (t : TileTimes) (w : GWord) (cycle l : Nat) : TileTimes :=
  let land_ := cycle + writeLatency w l
  (tilesWritten w).foldl (fun (t : TileTimes) k =>
    { ready := smPut 0 t.ready k (max (smGet 0 t.ready k) land_)
      writes := smPut [] t.writes k (land_ :: (smGet [] t.writes k).filter fun c => decide (cycle < c)) }) t

/-- The execute stream runs from place pc, one word a cycle without stalls, and meets no early read and no two writes that land
together: count gives the count of the loop at a place, l the latency of a MAC. Fuel bounds the words. -/
def scheduleOk (ws : List Nat) (count : Nat → Nat) (l : Nat) : Nat → Nat → List LoopFrame → TileTimes → Nat → Bool
  | 0, _, _, _, _ => false
  | f + 1, pc, loops, t, cycle =>
    let w := gAt ws pc
    if w.op = goEnd then true
    else if w.op = goLoop then
      let n := enterLoop loops pc (w.fb + 1) (count pc)
      scheduleOk ws count l f n.1 n.2 t (cycle + 1)
    else if (earlyTile t w cycle).isSome || (wawTile t w cycle l).isSome then false
    else
      let n := afterWord loops (pc + 1)
      scheduleOk ws count l f n.1 n.2 (issueWord t w cycle l) (cycle + 1)

/-- Words that a stream of 1,024 words can issue, with 4 loops of at most 65,536 passes around each. -/
def scheduleFuel : Nat := 1024 * 2 ^ 64 + 1

/-- Every subset of a list of places. -/
def subsets : List Nat → List (List Nat)
  | [] => [[]]
  | a :: r => (subsets r).flatMap fun l => [l, a :: l]

/-- The count of the loop at place i: its own, or its MINC, or MINC + 1 where more holds the place. -/
def loopCount (ws : List Nat) (more : List Nat) (i : Nat) : Nat :=
  let w := gAt ws i
  if w.fd = 0 then w.imm % 2 ^ 16 else w.imm / 2 ^ 16 + b2n (more.contains i)

/-- The schedule passes at every latency, with each loop whose count is an argument at its MINC and at MINC + 1 (DESIGN CHOICE: log entry 36). -/
def gpScheduleOk (ws : List Nat) : Bool :=
  let args := (gLoops ws).filter fun i => (gAt ws i).fd == 1
  [6, 8].all fun l => (subsets args).all fun more =>
    scheduleOk ws (loopCount ws more) l scheduleFuel 0 [] { ready := [], writes := [] } 0

/-- A stream's words are encoded for it, its loops are as R315 asks, and END is its last word and stands nowhere else. -/
def gStreamOk (exe : Bool) (ws : List Nat) : Bool :=
  ws.zipIdx.all (fun y => gWordOk exe (gWord y.1) && (((gWord y.1).op == goEnd) == (y.2 + 1 == ws.length))) && gLoopsOk ws

/-- A microprogram that the device accepts (R315). -/
def gpValid (p : List Byte) : Bool :=
  gpHeadOk p && gStreamOk false (gpAccess p) && gStreamOk true (gpExecute p) && gpScheduleOk (gpExecute p)

/-! ### The GIRDERPROG section (11 R315) -/

def gdOffset (b : List Byte) (j : Nat) : Nat := le b (16 * j) 4
def gdLength (b : List Byte) (j : Nat) : Nat := le b (16 * j + 4) 4

/-- The microprogram of a slot; none where the slot is empty. -/
def gdProgram (b : List Byte) (j : Nat) : Option (List Byte) :=
  if gdLength b j = 0 then none else some (slice b (gdOffset b j) (gdLength b j))

/-- The slot is empty, or its program lies within the section after the directory. -/
def gdInside (b : List Byte) (j : Nat) : Bool :=
  gdLength b j == 0 || (1024 ≤ gdOffset b j && gdOffset b j + gdLength b j ≤ b.length)

/-- The length that a section's directory gives it. -/
def gdNeeds (b : List Byte) : Nat :=
  (List.range 64).foldl (fun m j => if gdLength b j = 0 then m else max m (gdOffset b j + gdLength b j)) 1024

/-- A byte of the section lies in a program. -/
def gdHolds (b : List Byte) (i : Nat) : Bool :=
  (List.range 64).any fun j => gdLength b j ≠ 0 && gdOffset b j ≤ i && i < gdOffset b j + gdLength b j

/-- Programs of two slots overlap. -/
def gdOverlap (b : List Byte) (i j : Nat) : Bool :=
  gdLength b i ≠ 0 && gdLength b j ≠ 0 && gdOffset b i < gdOffset b j + gdLength b j && gdOffset b j < gdOffset b i + gdLength b i

/-- A program inside the section that the device does not accept: a program fault. -/
def gdProgramFault (b : List Byte) : Bool :=
  (List.range 64).any fun j => gdInside b j && match gdProgram b j with
    | some p => !gpValid p
    | none => false

/-- Offsets at which the directory or the bytes outside it break R315. -/
def gdFaults (b : List Byte) : List Nat :=
  (List.range 64).flatMap (fun j =>
    let o := gdOffset b j
    let l := gdLength b j
    faultAt (o % 64 != 0 || (l != 0 && o < 1024)) (16 * j) ++
    (if l = 0 then [] else sumFault b.length [(16 * j, o), (16 * j + 4, l)] 0) ++
    faultAt ((List.range j).any fun i => gdOverlap b i j) (16 * j + 4) ++ faultAt (!allZero (slice b (16 * j + 8) 8)) (16 * j + 8) ++
    (match gdProgram b j with
     | some p => faultAt (l != 64 + 8 * (gpAcount p + gpXcount p)) (o + 4)
     | none => [])) ++
  (b.zipIdx.filter fun y => 1024 ≤ y.2 && y.1 != 0 && !gdHolds b y.2).map Prod.snd ++
  faultAt (b.length != gdNeeds b) (min b.length (gdNeeds b))

end Sys2Proof.Machine
end

