-- ==== Sys2Proof/Machine/Prog.lean ====
section
/-! DEFINITION. Stream programs: their layout and their validity (09 R242, R243, R247, R252). -/

namespace Sys2Proof.Machine
open Sys2Proof

/-! ### Header (09 Table 9.5) -/

def pgLen (p : List Byte) : Nat := le p 0x02 1
def pgStage0 (p : List Byte) : Nat := le p 0x03 1
def pgWin (p : List Byte) : Nat := le p 0x04 1
def pgWmid (p : List Byte) : Nat := le p 0x05 1
def pgWout (p : List Byte) (b : Nat) : Nat := le p (0x06 + b) 1
def pgBody (p : List Byte) : Bool := bit (le p 0x08 1) 0
def pgTinit (p : List Byte) (t : Nat) : Nat := le p (0x14 + t) 1
def pgBig (p : List Byte) (t : Nat) : Bool := bit (pgTinit p t) 7

/-- Size of table t; 0 where it is not used. -/
def pgTsize (p : List Byte) (t : Nat) : Nat := if pgBig p t then 65536 else le p (0x0C + 2 * t) 2

/-- The program has a stage 1. -/
def pgTwo (p : List Byte) : Bool := pgStage0 p < pgLen p

/-! ### Instruction words (09 Table 9.6) -/

/-- The fields of an instruction word. -/
structure SIns where
  op : Nat
  ty : Nat
  d : Nat
  a : Nat
  b : Nat
  pd : Nat
  pg : Nat
  sub : Nat
  imm : Nat
  deriving DecidableEq, Repr

/-- The instruction that a word spells. -/
def insOf (w : Nat) : SIns :=
  { op := bits w 63 58, ty := bits w 57 55, d := bits w 54 52, a := bits w 51 49, b := bits w 48 46, pd := bits w 45 44,
    pg := bits w 43 42, sub := bits w 41 32, imm := bits w 31 0 }

/-- Instruction i of a program. -/
def pgIns (p : List Byte) (i : Nat) : SIns := insOf (le p (0x40 + 8 * i) 8)

/-- Instructions of a stage. -/
def stageIns (p : List Byte) (st : Nat) : List SIns :=
  if st = 0 then (List.range (pgStage0 p)).map (pgIns p)
  else (List.range (pgLen p - pgStage0 p)).map fun i => pgIns p (pgStage0 p + i)

/-- Ordered instructions (09 R243, Table 9.8). -/
def isOrdered (op : Nat) : Bool := (0x11 ≤ op && op ≤ 0x15) || op == 0x20 || op == 0x21 || op == 0x24

/-- A gathered stage holds an ordered instruction. -/
def gathered (p : List Byte) (st : Nat) : Bool := (stageIns p st).any fun i => isOrdered i.op

/-! ### Validity (09 R252) -/

/-- What an opcode allows: the highest TYPE from 0, or one TYPE alone; the fields that it uses; the SUB bits that it uses; and that
PG must be 0. -/
structure OpRule where
  tyLo : Nat
  tyHi : Nat
  d : Bool
  a : Bool
  b : Bool
  pd : Bool
  sub : Nat
  imm : Bool
  pg0 : Bool
  deriving DecidableEq, Repr

/-- The rule of each opcode of Table 9.8. -/
def opRule (op : Nat) : Option OpRule :=
  match op with
  | 0x00 => some ⟨0, 0, false, false, false, false, 0, false, false⟩
  | 0x01 => some ⟨0, 2, true, true, true, false, 0, false, false⟩
  | 0x02 => some ⟨0, 2, true, true, true, false, 0, false, false⟩
  | 0x03 => some ⟨0, 2, true, true, true, false, 0, false, false⟩
  | 0x04 => some ⟨0, 2, true, true, true, false, 0, false, false⟩
  | 0x05 => some ⟨0, 2, true, true, false, false, 0, true, false⟩
  | 0x06 => some ⟨0, 2, true, true, false, false, 0, true, false⟩
  | 0x07 => some ⟨0, 0, true, false, false, false, 0, true, false⟩
  | 0x08 => some ⟨0, 0, true, false, false, false, 0, true, false⟩
  | 0x09 => some ⟨0, 0, true, false, false, false, 1, false, false⟩
  | 0x0A => some ⟨0, 2, false, true, true, true, 7, false, false⟩
  | 0x0B => some ⟨0, 2, false, true, false, true, 7, true, false⟩
  | 0x0C => some ⟨0, 0, false, true, true, true, 3, false, false⟩
  | 0x0D => some ⟨0, 0, true, true, true, false, 3, false, false⟩
  | 0x0E => some ⟨0, 6, true, true, false, false, 7, false, false⟩
  | 0x10 => some ⟨0, 0, true, true, false, false, 3, false, false⟩
  | 0x11 => some ⟨0, 2, false, true, true, false, 0xF, false, false⟩
  | 0x12 => some ⟨2, 2, true, true, false, false, 3, true, false⟩
  | 0x13 => some ⟨2, 2, false, true, false, false, 3, true, false⟩
  | 0x14 => some ⟨0, 0, false, false, false, false, 3, true, false⟩
  | 0x15 => some ⟨0, 0, true, true, false, false, 0, true, false⟩
  | 0x20 => some ⟨0, 4, false, true, false, false, 1, false, true⟩
  | 0x21 => some ⟨0, 4, false, true, true, false, 3, true, true⟩
  | 0x22 => some ⟨0, 0, false, false, false, false, 3, false, true⟩
  | 0x23 => some ⟨0, 0, false, false, false, false, 3, false, true⟩
  | 0x24 => some ⟨0, 0, false, false, false, false, 7, true, true⟩
  | 0x30 => some ⟨0, 0, false, true, false, false, 1, false, true⟩
  | 0x31 => some ⟨0, 0, false, true, true, false, 0x1F, false, false⟩
  | _ => none

/-- A number has no bit outside a mask. -/
def within (mask v : Nat) : Bool := v &&& mask == v

/-- The instruction names a table. -/
def namesTable (op : Nat) : Bool := (0x10 ≤ op && op ≤ 0x14) || op == 0x24

/-- Instruction i of a program meets R252. -/
def insOk (p : List Byte) (i : Nat) : Bool :=
  let x := pgIns p i
  let tsz := pgTsize p (x.sub % 4)
  match opRule x.op with
  | none => false
  | some r =>
    r.tyLo ≤ x.ty && x.ty ≤ r.tyHi && (r.d || x.d == 0) && (r.a || x.a == 0) && (r.b || x.b == 0) && (r.pd || x.pd == 0) &&
    within r.sub x.sub && (r.imm || x.imm == 0) && (!r.pg0 || x.pg == 0) &&
    (x.op != 0x08 || x.imm < 4) && (x.op != 0x0C || (x.a < 4 && x.b < 4)) && (x.op != 0x0E || x.sub < 7) &&
    (x.op != 0x13 || x.imm < 32) && (x.op != 0x14 || x.imm < tsz) &&
    (x.op != 0x21 || (1 ≤ x.imm && x.imm ≤ 64 && (bit x.sub 1 || x.b == 0))) && (x.op != 0x24 || x.imm < 4) &&
    (!namesTable x.op || 0 < tsz) &&
    (x.op != 0x31 || (0 < pgWout p (x.sub % 2) && x.sub / 4 + pgWout p (x.sub % 2) ≤ 8)) &&
    (x.op != 0x24 || 0 < pgWout p (x.sub / 4)) &&
    (if pgTwo p && i < pgStage0 p then x.op != 0x31 && x.op != 0x24 && ((x.op == 0x30) == (i + 1 == pgStage0 p))
     else x.op != 0x30)

/-- The header meets R252. -/
def headOk (p : List Byte) : Bool :=
  le p 0 2 == 0x5053 && 1 ≤ pgLen p && pgLen p ≤ 64 && 1 ≤ pgStage0 p && pgStage0 p ≤ pgLen p &&
  1 ≤ pgWin p && pgWin p ≤ 8 && (if pgTwo p then 1 ≤ pgWmid p && pgWmid p ≤ 8 else pgWmid p == 0) &&
  pgWout p 0 ≤ 8 && pgWout p 1 ≤ 8 && le p 8 1 < 2 && allZero (slice p 9 3) && allZero (slice p 0x18 8) &&
  (List.range 4).all (fun t => pgTinit p t % 8 ≤ 4 && pgTinit p t / 8 % 16 == 0 && (!pgBig p t || le p (0x0C + 2 * t) 2 == 0)) &&
  ((List.range 4).map (pgTsize p)).sum ≤ 65536

/-- The first instruction slot of a program that breaks R252. -/
def firstBadIns (p : List Byte) : Option Nat :=
  (List.range 64).find? fun i => if i < pgLen p then !insOk p i else !allZero (slice p (0x40 + 8 * i) 8)

/-- RESULT and INDEX of a program that is not valid (09 Table 9.9). -/
def progFault (p : List Byte) : Option (Nat × Nat) :=
  if !headOk p then some (3, 0x7F) else (firstBadIns p).map fun i => (4, i)

/-- A program is valid. -/
def progValid (p : List Byte) : Bool := (progFault p).isNone

end Sys2Proof.Machine
end

