-- ==== Sys2Proof/Machine/ImgCheck.lean ====
section
/-! DEFINITION. The checks that the image loader makes on an image (02 R31-R46, Table 2.11), with the rules of its sections that
the other chapters lay down. An image is its bytes. A check answers SECTION and DETAIL of a rejection. -/

namespace Sys2Proof.Machine
open Sys2Proof

/-! ### Header and manifest (02 Tables 2.2-2.4) -/

def imKind (b : List Byte) : Nat := le b 0x06 1
def imSections (b : List Byte) : Nat := le b 0x0A 2
def imSerial (b : List Byte) : Nat := le b 0x10 8
def imLen (b : List Byte) : Nat := le b 0x18 8
def imBase (b : List Byte) : List Byte := slice b 0x40 64

/-- Entry i of the manifest. -/
def imEntry (b : List Byte) (i : Nat) : List Byte := slice b (128 + 96 * i) 96

def meType (e : List Byte) : Nat := le e 0x00 2
def meFlags (e : List Byte) : Nat := le e 0x02 2
def meVersion (e : List Byte) : Nat := le e 0x04 2
def meOffset (e : List Byte) : Nat := le e 0x08 8
def meLength (e : List Byte) : Nat := le e 0x10 8
def meDigest (e : List Byte) : List Byte := slice e 0x20 64

/-- Body of the section of entry i. -/
def imBody (b : List Byte) (i : Nat) : List Byte := slice b (meOffset (imEntry b i)) (meLength (imEntry b i))

/-- First byte, and the end, of the signature block. -/
def sigAt (b : List Byte) : Nat := 128 + 96 * imSections b
def sigEnd (b : List Byte) : Nat := sigAt b + 7232

def sgSlot (b : List Byte) : Nat := le b (sigAt b + 4) 1
def sgKey (b : List Byte) : List Byte := slice b (sigAt b + 8) 2592
def sgSig (b : List Byte) : List Byte := slice b (sigAt b + 2600) 4627

/-- The digest D of an image (02 R34). -/
def imDigestOf (b : List Byte) : List Byte := sha3 (slice b 0 (sigAt b))

/-- The manifest index of a section type. -/
def imFind (b : List Byte) (t : Nat) : Option Nat := (List.range (imSections b)).find? fun i => meType (imEntry b i) == t

/-- The body of the section of a type; empty where the image has none. -/
def imSect (b : List Byte) (t : Nat) : List Byte :=
  match imFind b t with
  | some i => imBody b i
  | none => []

/-- The lowest offset among the fields that broken rules name (00 R486). -/
def lowest (l : List Nat) : Option Nat := l.min?

/-- A length that is wrong names the smaller of the two lengths (00 R486). -/
def lengthFault (b : List Byte) (n : Nat) : List Nat := faultAt (b.length != n) (min b.length n)

/-- A reserved area. -/
def zeroFault (b : List Byte) (o n : Nat) : List Nat := faultAt (!allZero (slice b o n)) o

/-- The header's faulty fields, of an image, or of a firmware bundle (17 R433). -/
def headFaults (fw : Bool) (b : List Byte) : List Nat :=
  faultAt (le b 0 4 != if fw then 0x57464D49 else 0x47444D49) 0 ++ faultAt (le b 4 2 != 1) 4 ++
  faultAt ((if fw then 0 else 1) < imKind b) 6 ++ zeroFault b 7 1 ++
  faultAt (8 ≤ le b 8 1) 8 ++ faultAt (4 ≤ le b 9 1) 9 ++ faultAt (imSections b == 0 || 64 < imSections b) 0x0A ++
  zeroFault b 0x0C 4 ++ zeroFault b 0x28 24 ++ faultAt (imKind b == 0 && !allZero (imBase b)) 0x40

/-- The module's grade and stepping are among those that the image names. -/
def targetOk (f : Fuses) (b : List Byte) : Bool :=
  bit (le b 8 1) (gradeCode f.grade) && bit (le b 9 1) (if f.stepMj = 0xA then 0 else 1)

/-- The signer of a signature block (02 R35): its slot holds an enrolled digest that is not revoked, of its key. -/
def signerOk (o : Otp) (b : List Byte) : Bool :=
  le b (sigAt b) 4 == 0x53474D49 && match o.slots[sgSlot b]? with
    | some d => d.enrolled && !d.revoked && d.digest == sha3 (sgKey b)
    | none => false

/-- Bytes from a to the next 64-byte boundary are 0. -/
def padOk (b : List Byte) (a : Nat) : Bool := allZero (slice b a (roundUp a 64 - a))

/-- End of the section of entry i; of the signature block before the first. -/
def endOf (b : List Byte) (i : Nat) : Nat :=
  if i = 0 then sigEnd b else meOffset (imEntry b (i - 1)) + meLength (imEntry b (i - 1))

/-- Entry i and the padding behind its section are as R33 lays down. -/
def entryOk (b : List Byte) (i : Nat) : Bool :=
  let e := imEntry b i
  let stop := meOffset e + meLength e
  meFlags e < 2 && allZero (slice e 6 2) && allZero (slice e 0x18 8) && meOffset e == roundUp (endOf b i) 64 &&
    decide (stop ≤ imLen b) && (i == 0 || meType (imEntry b (i - 1)) < meType e) && padOk b stop &&
    (i + 1 != imSections b || imLen b == roundUp stop 64)

/-- DETAIL of a LAYOUT rejection (DEDUCED: log entry 37). -/
def layoutFault (b : List Byte) : Option Nat :=
  if !allZero (slice b (sigAt b + 5) 3) || !allZero (slice b (sigAt b + 7227) 5) || !padOk b (sigEnd b) then some 0xFFFFFFFF
  else (List.range (imSections b)).find? fun i => !entryOk b i

/-! ### Retirement lists (02 R37) -/

/-- A unit map under construction: the words of DK_PIER_MAP and of DK_SPAN_SLOTS. -/
structure UMap where
  map : List Nat
  slots : List Nat
  deriving DecidableEq, Repr

/-- The fuse map of 01 R24. -/
def fuseMap (f : Fuses) : UMap := { map := (List.range 128).map (fusePierMap f), slots := (List.range 8).map (fuseSpanSlots f) }

def umWord (m : UMap) (p : Nat) : Nat := m.map.getD p 0
def umSlot (m : UMap) (p : Nat) : Nat := bits (umWord m p) 28 24
def umSkip (m : UMap) (p g : Nat) : Nat := bits (umWord m p) (5 * g + 4) (5 * g)

/-- The lowest spare slot of a span. -/
def umSpare (m : UMap) (span : Nat) : Option Nat :=
  (List.range 17).find? fun t => bit (m.slots.getD span 0) t &&
    !(List.range 16).any fun q => bit (umWord m (16 * span + q)) 31 && umSlot m (16 * span + q) == t

/-- Pier p moves to slot t. -/
def umMove (f : Fuses) (p t : Nat) (m : UMap) : UMap :=
  let w := m.slots.getD (p / 16) 0
  { map := m.map.set p (2 ^ 31 + 2 ^ 24 * t + fuseSkips f (p / 16) t)
    slots := m.slots.set (p / 16) (w - 2 ^ umSlot m p - 2 ^ 24) }

/-- Entries of a RETIRE section. -/
def rtCount (b : List Byte) : Nat := le b 0 4
def rtEntry (b : List Byte) (i : Nat) : List Byte := slice b (4 + 8 * i) 8
def enKind (e : List Byte) : Nat := le e 0 1
def enPier (e : List Byte) : Nat := 16 * le e 1 1 + le e 2 1
def enGirder (e : List Byte) : Nat := le e 3 1
def enRivet (e : List Byte) : Nat := le e 4 1

/-- An entry passes the check that precedes the application (02 R37). -/
def enOk (f : Fuses) (e : List Byte) : Bool :=
  enKind e ≤ 2 && allZero (slice e 5 3) && (enKind e != 0 || enGirder e == 0) && (enKind e == 2 || enRivet e == 0) &&
    decide (le e 1 1 < 8 ∧ le e 2 1 < piersPerSpan f.grade ∧ enGirder e < 4 ∧ enRivet e < 16)

/-- The order of application: ascending pier, and piers and girders before rivets (01 R27). -/
def enOrder (b : List Byte) (i : Nat) : Nat := 2 * enPier (rtEntry b i) + b2n (enKind (rtEntry b i) == 2)

/-- Applies an entry, resolved against the fuse map; a unit that has already left service is passed over. None where a pier
finds no spare slot (DEDUCED: log entry 38). -/
def enApply (f : Fuses) (e : List Byte) (m : UMap) : Option UMap :=
  let p := enPier e
  let g := enGirder e
  let m0 := fuseMap f
  let pos := if enRivet e < umSkip m0 p g then enRivet e else enRivet e + 1
  if umSlot m p ≠ umSlot m0 p ∨ (enKind e = 2 ∧ umSkip m p g = pos) then some m
  else if enKind e = 2 ∧ umSkip m p g = 16 then
    some { m with map := m.map.set p (umWord m p - 16 * 2 ^ (5 * g) + pos * 2 ^ (5 * g)) }
  else (umSpare m (p / 16)).map fun t => umMove f p t m

/-- Applies entries in order: the map, or the first entry that finds no spare slot. -/
def enApplyAll (f : Fuses) (b : List Byte) : List Nat → UMap → Except Nat UMap
  | [], m => .ok m
  | i :: r, m => match enApply f (rtEntry b i) m with
    | some m => enApplyAll f b r m
    | none => .error i

/-- The unit map that a RETIRE section leaves, or DETAIL of its rejection. -/
def retireMap (f : Fuses) (b : List Byte) : Except Nat UMap :=
  if b.length < 4 ∨ b.length ≠ 4 + 8 * rtCount b then .error 0xFFFFFFFF
  else match (List.range (rtCount b)).find? fun i => !enOk f (rtEntry b i) with
    | some i => .error i
    | none => enApplyAll f b (sortBy (fun i j => Nat.ble (enOrder b i) (enOrder b j)) (List.range (rtCount b))) (fuseMap f)

/-! ### POOLS (02 R39-R42) -/

/-- The largest enabled buffer size. -/
def largestPool (b : List Byte) : Nat := (List.range 5).foldl (fun m k => if poolCount b k = 0 then m else max m (poolSize k)) 0

/-- CODE and DETAIL of the first check 0x10 to 0x14 that a POOLS section fails. -/
def poolsFault (b : List Byte) : Option (Nat × Nat) :=
  let top := largestPool b
  let reqBad := fun (c : Nat) => poolMaxReq b c < 256 || top < poolMaxReq b c || (3 ≤ c && c ≤ 5 && poolMaxReq b c < 16448)
  let total := ((List.range 5).map fun k => poolCount b k * poolSize k).sum
  let stop := poolBase b + poolRegionLen b
  if top < 16448 then some (0x10, 0)
  else match (List.range 7).find? reqBad with
  | some c => some (0x11, c)
  | none => match (List.range 448).find? fun i => decide (poolQuota b i < poolCharge b (poolMaxReq b (i % 7))) with
  | some i => some (0x12, i)
  | none =>
    if total < 67108864 then some (0x13, 0)
    else if poolBase b % 0x100000 ≠ 0 ∨ poolBase b < hbmBase ∨ hbmDataEnd < stop ∨ meetsStore (poolBase b) stop then some (0x14, 0)
    else none

/-! ### PORTS (04 R91, R92) -/

def poMode (b : List Byte) (g : Nat) : Nat := le b (16 * g) 1
def poBreak (b : List Byte) (g : Nat) : Nat := le b (16 * g + 1) 1
def poEtype (b : List Byte) (g : Nat) : Nat := le b (16 * g + 2) 2
def poPreset (b : List Byte) (g : Nat) : Nat := le b (16 * g + 4) 1

/-- A mode and a breakout are a combination of 04 Table 4.2; mode 0 takes breakout 0 and preset 0. -/
def portComboOk (b : List Byte) (g : Nat) : Bool :=
  match poMode b g with
  | 0 => poBreak b g == 0 && poPreset b g == 0
  | 3 => poBreak b g ≤ 3 && poBreak b g != 2
  | m => m ≤ 3 && poBreak b g ≤ 3

/-- The first group whose entry fails check 0x15. -/
def portFault (f : Fuses) (b : List Byte) : Option Nat :=
  (List.range 64).find? fun g => !portComboOk b g || (poMode b g != 0 && gradeGroups f.grade ≤ g)

/-- ETYPE's rule of 04 Table 4.3. -/
def etypeOk (b : List Byte) (g : Nat) : Bool :=
  if 2 ≤ poMode b g then 0x600 ≤ poEtype b g && !([0x8100, 0x88A8, 0x9100, 0x8808].contains (poEtype b g)) else poEtype b g == 0

/-- Faulty fields of a PORTS section. -/
def portsFaults (b : List Byte) : List Nat :=
  lengthFault b 1024 ++ (List.range 64).flatMap fun g =>
    let o := 16 * g
    faultAt (!etypeOk b g) (o + 2) ++ faultAt (7 < poPreset b g) (o + 4) ++ zeroFault b (o + 5) 3 ++
      faultAt (poMode b g < 2 && !allZero (slice b (o + 8) 6)) (o + 8) ++ zeroFault b (o + 14) 2

/-- The port of slot k exists: those of a group as its PORTS entry gives them, and the span ports. -/
def portExists (b : List Byte) (k : Nat) : Bool :=
  if k < 512 then poMode b (k / 8) ≠ 0 && k % 8 < 2 ^ poBreak b (k / 8) else k < 528

/-! ### CAROUSEL (06 R154-R156) -/

/-- Faulty fields of an account whose port exists, at offset o and channel c. -/
def accountFaults (b : List Byte) (o c : Nat) : List Nat :=
  let bk := le b o 4
  let lo := le b (o + 4) 4
  faultAt ((c ≤ 6 && bk < 65) || (c == 7 && bk != 0) || 32768 < bk) o ++
    faultAt ((lo != 0 && !(c == 2 || c == 3 || c == 7)) || (bk ≤ 32768 && 32768 < bk + lo)) (o + 4)

/-- Faulty fields of a CAROUSEL section beside a PORTS section. -/
def carouselFaults (ports b : List Byte) : List Nat :=
  let acc := fun (base : Nat) (live : Nat → Bool) => (List.range 528).flatMap fun k => (List.range 9).flatMap fun c =>
    let o := base + 8 * (9 * k + c)
    if live k then accountFaults b o c else zeroFault b o 4 ++ zeroFault b (o + 4) 4
  lengthFault b 76352 ++ acc 0 (portExists ports) ++ acc 0x9480 (fun k => k < 512 && portExists ports k) ++
    (List.range 80).flatMap (fun n => faultAt (le b (0x12900 + 4 * n) 4 < 65) (0x12900 + 4 * n)) ++
    sumFault 1048576 (((List.range 4752).map (8 * ·) ++ (List.range 80).map (0x12900 + 4 * ·)).map fun o => (o, le b o 4)) 0

/-! ### CLASSES (05 R131, 06 R159) -/

/-- Faulty fields of the throttle block. -/
def throttleFaults (b : List Byte) : List Nat :=
  let t := fun (g k : Nat) => le b (4 * (4 * g + k)) 4
  (List.range 3).flatMap (fun g => (List.range 4).flatMap fun k =>
    faultAt (1048576 < t g k || (k != 0 && t g k ≤ t g (k - 1))) (4 * (4 * g + k))) ++
  faultAt ((List.range 3).any fun g => t g 0 ≤ le b 0x30 4) 0x30 ++
  faultAt (le b 0x34 2 < 100 || 10000 < le b 0x34 2) 0x34 ++ faultAt (le b 0x36 2 < 1 || 1000 < le b 0x36 2) 0x36 ++
  zeroFault b 0x38 8

/-- Faulty fields of the shaping entry at offset o. -/
def shapeFaults (b : List Byte) (o : Nat) : List Nat :=
  let w := fun (i : Nat) => le b (o + 4 * i) 4
  let rate := fun (i : Nat) => w i % 2 ^ 24
  faultAt ((bit (w 0) 31 && rate 0 == 0) || bits (w 0) 30 24 != 0) o ++ faultAt (bits (w 1) 31 24 != 0) (o + 4) ++
  faultAt ((bit (w 2) 31 && (rate 2 == 0 || (bit (w 0) 31 && rate 2 < rate 0))) || bits (w 2) 30 24 != 0) (o + 8) ++
  faultAt (63 < toInt 8 (bits (w 3) 31 24) || toInt 8 (bits (w 3) 31 24) < -64) (o + 12)

/-- Queue q of node n exists (06 R157). -/
def queueExists (ports : List Byte) (n q : Nat) : Bool := if n < 64 then portExists ports (8 * n + q / 8) else q < 8

/-- Faulty fields of a CLASSES section beside a PORTS section. -/
def classesFaults (ports b : List Byte) : List Nat :=
  lengthFault b 81984 ++ throttleFaults b ++ (List.range 5120).flatMap fun i =>
    let o := 0x40 + 16 * i
    if queueExists ports (i / 64) (i % 64) then shapeFaults b o else (List.range 4).flatMap fun j => zeroFault b (o + 4 * j) 4

/-! ### RSEPROG (09 R252, R253) -/

/-- A slot of an RSEPROG section holds a program that is not valid. -/
def rseprogFault (b : List Byte) : Bool :=
  (List.range 64).any fun j => !allZero (slice b (576 * j) 576) && !progValid (slice b (576 * j) 576)

/-! ### SPANS (11 R290) -/

def gpFirst (b : List Byte) (i : Nat) : Nat := le b (8 * i) 1
def gpCount (b : List Byte) (i : Nat) : Nat := le b (8 * i + 1) 1
def gpPolicy (b : List Byte) (i : Nat) : Nat := le b (8 * i + 2) 1

/-- A group meets an earlier one of its span. -/
def groupOverlap (b : List Byte) (i : Nat) : Bool :=
  (List.range (i % 4)).any fun k =>
    let j := i / 4 * 4 + k
    gpCount b i ≠ 0 && gpCount b j ≠ 0 && gpFirst b i < gpFirst b j + gpCount b j && gpFirst b j < gpFirst b i + gpCount b i

/-- Faulty fields of a SPANS section. -/
def spansFaults (f : Fuses) (b : List Byte) : List Nat :=
  lengthFault b 256 ++ (List.range 32).flatMap fun i =>
    faultAt (16 < gpCount b i || groupOverlap b i) (8 * i + 1) ++
    (if gpCount b i = 0 then [] else sumFault (piersPerSpan f.grade) [(8 * i, gpFirst b i), (8 * i + 1, gpCount b i)] 0) ++
    faultAt (1 < gpPolicy b i) (8 * i + 2) ++ zeroFault b (8 * i + 3) 5

/-- A SPANS section changes the groupings of another. -/
def regroups (old new : List Byte) : Bool :=
  (List.range 32).any fun i => gpFirst old i != gpFirst new i || gpCount old i != gpCount new i

/-! ### INTERLEAVE (15 R391) -/

def ilNrep (b : List Byte) : Nat := le b 0x300 4
def ilStack (b : List Byte) (i : Nat) : Nat := le b (0x304 + 4 * i) 1
def ilPch (b : List Byte) (i : Nat) : Nat := le b (0x305 + 4 * i) 1
def ilExtent (b : List Byte) (i : Nat) : Nat := le b (0x306 + 4 * i) 1

/-- Bytes that the regions below r take on a stack. -/
def ilShare (b : List Byte) (r stack : Nat) : Nat :=
  ((List.range r).map fun i =>
    let d := le b (4 * i) 4 % 16
    if (domainStacks d).contains stack then domainShare d else 0).sum

/-- The shares first exceed 24,192 MiB on a stack with region r. -/
def shareOver (b : List Byte) (r : Nat) : Bool :=
  (List.range 8).any fun st => ilShare b r st ≤ 24192 * 2 ^ 20 && 24192 * 2 ^ 20 < ilShare b (r + 1) st

/-- The lowest free spare extent of another channel, given the repairs in force (15 R399). -/
def spareAmong (rs : List Repair) (st pch : Nat) : Option Nat :=
  (List.range 64).find? fun e => e / 4 != pch / 2 && !rs.any fun q => q.stack == st && q.spare == e

/-- The repairs that entries of an INTERLEAVE section add, in entry order, and the entries that find no spare extent. -/
def addRepairs (b : List Byte) : List Nat → List Repair → List Repair × List Nat
  | [], rs => (rs, [])
  | i :: r, rs =>
    if rs.any fun q => q.stack == ilStack b i && q.pch == ilPch b i && q.extent == ilExtent b i then addRepairs b r rs
    else match spareAmong rs (ilStack b i) (ilPch b i) with
      | some e => addRepairs b r (rs ++ [{ stack := ilStack b i, pch := ilPch b i, extent := ilExtent b i, spare := e,
                                           pending := false, copied := true }])
      | none =>
        let x := addRepairs b r rs
        (x.1, i :: x.2)

/-- Faulty fields of an INTERLEAVE section, beside the repairs in force. An entry that finds no spare names EXTENT, the last field of
the relation (00 R486). -/
def interleaveFaults (rs : List Repair) (b : List Byte) : List Nat :=
  let n := min 512 (ilNrep b)
  lengthFault b (772 + 4 * ilNrep b) ++ faultAt (512 < ilNrep b) 0x300 ++
  (List.range 192).flatMap (fun r =>
    let w := le b (4 * r) 4
    faultAt (11 < w % 16 || 2 < bits w 5 4 || w / 64 != 0 || (189 ≤ r && w != 0) || (r == 0 && w != 0x11) || shareOver b r) (4 * r)) ++
  (List.range n).flatMap (fun i =>
    let o := 0x304 + 4 * i
    let same := (List.range i).any fun j => ilStack b j == ilStack b i && ilPch b j == ilPch b i && ilExtent b j == ilExtent b i
    faultAt (7 < ilStack b i) o ++ faultAt (31 < ilPch b i) (o + 1) ++ faultAt (125 < ilExtent b i || same) (o + 2) ++
      zeroFault b (o + 3) 1) ++
  (addRepairs b (List.range n) rs).2.map (0x306 + 4 * ·)

/-! ### POWER and TURNSTILE (16 R412, R421, R424) -/

/-- A cap of a POWER section exceeds 2,400 W. -/
def powerBudget (b : List Byte) : Bool := 2400 < le b 0 2 || 2400 < le b 2 2 || 2400 < le b 4 2

/-- Faulty fields of a POWER section. -/
def powerFaults (b : List Byte) : List Nat :=
  let cw := le b 0 2
  lengthFault b 528 ++ faultAt (le b 2 2 < cw) 2 ++ faultAt (le b 4 2 < 600 || cw < le b 4 2) 4 ++ faultAt (3 < le b 6 1) 6 ++
  zeroFault b 7 9 ++ (List.range 128).flatMap fun i =>
    let o := 0x10 + 4 * i
    let lo := le b (o + 1) 1
    let hi := le b (o + 2) 1
    let ad := le b (o + 3) 1
    faultAt (7 < le b o 1) o ++ faultAt (4 < lo) (o + 1) ++
      faultAt (4 < hi || hi < lo || (hi == 4 && !bit (le b 6 1) 1)) (o + 2) ++ faultAt (ad % 8 != 0 || ad < 8 || 64 < ad) (o + 3)

/-- BUDGET of an activity as the sum of 16 R421 counts it. -/
def tsBudget (b : List Byte) (a : Nat) : Nat := if a = actRefresh then max 160 (le b 4 2) else le b (4 + 2 * a) 2

/-- The budgets of a domain exceed the period. -/
def turnstileOver (b : List Byte) : Bool :=
  [[0, 1, 2], [2, 3, 6, 8], [4, 5, 7]].any fun d => 1024 < ((d.map (tsBudget b)).sum : Nat)

/-- Faulty fields of a TURNSTILE section. -/
def turnstileFaults (b : List Byte) : List Nat :=
  lengthFault b 24 ++ faultAt (le b 0 2 < 1 || 64 < le b 0 2) 0 ++ zeroFault b 2 2 ++
  (List.range 9).flatMap (fun a => faultAt (1024 < le b (4 + 2 * a) 2) (4 + 2 * a)) ++ zeroFault b 0x16 2

/-! ### REGS (02 R38) -/

/-- DETAIL of a REGS rejection. Every field whose reset is the image's stands in a section that a full image must carry, so no bit
may stand under a MASK (DEDUCED: log entry 39). -/
def regsFault (f : Fuses) (b : List Byte) : Option Nat :=
  let n := le b 0 4
  let whole := min n ((b.length - 4) / 12)
  match (List.range whole).find? fun i =>
      le b (4 + 12 * i + 4) 4 != 0 || (regIn f.grade (le b (4 + 12 * i) 4)).isNone with
  | some i => some i
  | none => if b.length < 4 ∨ b.length ≠ 4 + 12 * n then some whole else none

/-! ### The checks in order (02 Table 2.11) -/

/-- CODE, SECTION and DETAIL of a rejection. -/
structure Reject where
  code : Nat
  section_ : Nat := 0
  detail : Nat := 0
  deriving DecidableEq, Repr

/-- What the checks use of the module, as it stood at the LOAD (02 R487). -/
structure ImgEnv where
  fuses : Fuses
  otp : Otp
  load : ImgLoad
  /-- The PORTS and SPANS sections in force, and the repairs. -/
  ports : List Byte
  spans : List Byte
  repairs : List Repair

/-- A section type of 02 Table 2.5; one that a full image must carry; one that a partial image may carry. -/
def listedType (t : Nat) : Bool := 1 ≤ t && t ≤ 0xC
def requiredTypes : List Nat := [2, 3, 4, 5, 8, 9, 0xA, 0xB]
def partialType (t : Nat) : Bool := doubleVersioned t

/-- The first entry of the manifest that meets a condition on its type and body. -/
def firstEntry (b : List Byte) (bad : Nat → List Byte → Bool) : Option Nat :=
  (List.range (imSections b)).find? fun i => bad (meType (imEntry b i)) (imBody b i)

/-- Bytes of ASCII characters. -/
def ascii (x : String) : List Byte := x.toList.map fun c => BitVec.ofNat 8 c.toNat

/-- A section type of a firmware bundle (17 R433). -/
def bundleType (t : Nat) : Bool := t == 0x101 || t == 0x102

/-- The checks that precede the sections, 0x01 to 0x0D, on an image, or on a firmware bundle, to which those on the module's
images do not apply (17 R433, R434). -/
def headCheck (fw : Bool) (v : ImgEnv) (len : Nat) (b : List Byte) : Option Reject :=
  let part := !fw && imKind b == 1
  let floor := if fw then v.otp.fwFloor else v.load.floor
  let digestBad := (List.range (imSections b)).find? fun i => sha3 (imBody b i) != meDigest (imEntry b i)
  let unknown := (List.range (imSections b)).find? fun i =>
    let e := imEntry b i
    (!(if fw then bundleType (meType e) else listedType (meType e)) && bit (meFlags e) 0) || meVersion e != 1
  let required := if fw then [0x101] else if part then [] else requiredTypes
  if len = 0 ∨ len % 64 ≠ 0 ∨ 0x10000000 < len ∨ len ≠ imLen b then some { code := 0x01 }
  else match lowest (headFaults fw b) with
  | some o => some { code := 0x02, detail := o }
  | none =>
    if !targetOk v.fuses b then some { code := 0x03 }
    else if part ∧ (v.load.prior = imArmed ∨ v.load.oldLive) then some { code := 0x04 }
    else if !fw ∧ !part ∧ !v.load.quiescent then some { code := 0x05 }
    else if imSerial b < floor ∨ (part ∧ imSerial b ≤ v.load.serial) then some { code := 0x06 }
    else if !signerOk v.otp b ∨ (fw ∧ sgSlot b ≠ 0) then some { code := 0x07, detail := sgSlot b }
    else if !Config.mlDsaVerify (sgKey b) (imDigestOf b) (ascii (if fw then "IMDOR-FW" else "IMDOR-IMG")) (sgSig b) then
      some { code := 0x08 }
    else match layoutFault b with
    | some i => some { code := 0x09, section_ := if i < 64 then i else 0, detail := i }
    | none => match digestBad with
    | some i => some { code := 0x0A, section_ := i, detail := i }
    | none => match unknown with
    | some i => some { code := 0x0B, section_ := i, detail := i }
    | none => match required.find? fun t => (imFind b t).isNone with
    | some t => some { code := 0x0C, detail := t }
    | none =>
      if part ∧ (v.load.prior = imNone ∨ imBase b ≠ v.load.digest) then some { code := 0x0D } else none

/-- Faulty fields of a section under its own chapter, for check 0x19. -/
def sectionFaults (v : ImgEnv) (b : List Byte) (t : Nat) (x : List Byte) : List Nat :=
  let ports := if imKind b = 0 then imSect b secPorts else v.ports
  if t = secPorts then portsFaults x
  else if t = secCarousel then carouselFaults ports x
  else if t = secPools then lengthFault x 1856 ++ zeroFault x 0x14 4 ++ zeroFault x 0x3C 4
  else if t = secClasses then classesFaults ports x
  else if t = secRseprog then lengthFault x 36864
  else if t = secGirderprog then gdFaults x
  else if t = secSpans then spansFaults v.fuses x
  else if t = secInterleave then interleaveFaults v.repairs x
  else if t = secPower then powerFaults x
  else if t = secTurnstile then turnstileFaults x
  else []

/-- The checks on sections: 0x0E to 0x19. -/
def bodyCheck (v : ImgEnv) (b : List Byte) : Option Reject :=
  let at_ := fun (t : Nat) => (imFind b t).getD 0
  let notPart := firstEntry b fun t x => listedType t && (!partialType t || (t == secSpans && regroups v.spans x))
  let retire := (imFind b secRetire).bind fun i => match retireMap v.fuses (imBody b i) with
    | .error d => some (i, d)
    | .ok _ => none
  let program := firstEntry b fun t x => (t == secRseprog && rseprogFault x) || (t == secGirderprog && gdProgramFault x)
  let excess := firstEntry b fun t x => (t == secPower && powerBudget x) || (t == secTurnstile && turnstileOver x)
  let sect_ := (List.range (imSections b)).findSome? fun i =>
    (lowest (sectionFaults v b (meType (imEntry b i)) (imBody b i))).map fun o => (i, o)
  match (if imKind b = 1 then notPart else none) with
  | some i => some { code := 0x0E, section_ := i, detail := i }
  | none => match retire with
  | some (i, d) => some { code := 0x0F, section_ := i, detail := d }
  | none => match (imFind b secPools).bind fun i => poolsFault (imBody b i) with
  | some (c, d) => some { code := c, section_ := at_ secPools, detail := d }
  | none => match (imFind b secPorts).bind fun i => portFault v.fuses (imBody b i) with
  | some g => some { code := 0x15, section_ := at_ secPorts, detail := g }
  | none => match program with
  | some i => some { code := 0x16, section_ := i, detail := i }
  | none => match excess with
  | some i => some { code := 0x17, section_ := i, detail := i }
  | none => match (imFind b secRegs).bind fun i => regsFault v.fuses (imBody b i) with
  | some d => some { code := 0x18, section_ := at_ secRegs, detail := d }
  | none => sect_.map fun y => { code := 0x19, section_ := y.1, detail := y.2 }

/-- Every check of 02 Table 2.11 in its order, on a staged image of len bytes. -/
def imageCheck (v : ImgEnv) (len : Nat) (b : List Byte) : Option Reject :=
  match headCheck false v len b with
  | some r => some r
  | none => bodyCheck v b

end Sys2Proof.Machine
end

