-- ==== Sys2Proof/Machine/Reduce.lean ====
section
/-! DEFINITION. The reduction packets that reach an RSE: NATIVE, ANCHORED, FAST, EXPONENT and SCAN_OFFSET (08 R210-R228; 10
R264-R274). -/

namespace Sys2Proof.Machine
open Sys2Proof

/-! ### Intake -/

/-- A stream packet of a kind that an RSE takes from a member, or from another RSE (09 Table 9.4). -/
def isStrmPkt (b : List Byte) : Bool :=
  let k := be b 32 1
  pkClass b == clCollUp && (if opRseDst b then k == 0x11 || k == 0x13 else k == 0x10 || k == 0x13)

/-- The form in whose row a packet at an RSE is met: its own, or NATIVE for one that Table 8.6 does not list (08 R221). -/
def rowForm (b : List Byte) : Nat :=
  let f := be b 32 1
  if (1 ≤ f && f ≤ 6) || isStrmPkt b then f else fmNative

/-- The first packet of a class that has reached RSE n whole and is met in the row of a form (06 R142). -/
def rseHeld (s : State) (n form cls : Nat) : Option Held :=
  s.fab.held.find? fun h =>
    h.dst == 5120 + n && allCome h && pkOp h.bytes == opColl && pkClass h.bytes == cls && rowForm h.bytes == form

/-- Takes a packet out of the buffer. -/
def takeHeld (h : Held) (s : State) : State := onFab (removeHeld (· == h)) s

/-- A packet from below meets its stream's check and is handed on with its tree, position, edge and operation. A packet of a
malformed collective is acknowledged and discarded (R273); one whose slice finds no slot is refused (R271). -/
def intakeUp (n form : Nat) (k : Known) (slot : Bool) (f : Tree → Nat → Nat → List Byte → RseOp → State → State) (s : State) :
    State :=
  match rseHeld s n form clCollUp with
  | none => s
  | some h =>
    let b := h.bytes
    let s := takeHeld h s
    match packetTree s b with
    | none => routeErr b false s
    | some t =>
      let pos := treePos t b
      let o := (findOp s n t.num (opCseq b)).getD (newOp s n t (opCseq b) k)
      match downEdgeOf t pos b, nrseDiffers t b with
      | some e, _ =>
        let a := edgeAnswers s n t (t.down.getD e t.up)
        let full := slot && !o.bad && !slotsFree s t o (pheadOf (pkPayload b))
        let r := rxCheck a b (if full then some 4 else none) s
        if !r.1 then r.2
        else if o.bad then rxAccept a b r.2
        else if cdKind o.desc = kScan ∧ !t.ordered then rxAccept a b (rseMalformed o r.2)
        else rxAccept a b (f t pos e b o r.2)
      | none, some e =>
        let a := edgeAnswers s n t (t.down.getD e t.up)
        let r := rxCheck a b none s
        if !r.1 then r.2 else if o.bad then rxAccept a b r.2 else rxAccept a b (rseMalformed o r.2)
      | none, none => s

/-- A packet from above meets its stream's check and is handed on with its tree, position and operation. On a record of another
position, NRSE differs across the edge: the collective is malformed (R273). -/
def intakeDown (n form : Nat) (k : Known) (f : Tree → Nat → List Byte → RseOp → State → State) (s : State) : State :=
  match rseHeld s n form clCollDn with
  | none => s
  | some h =>
    let b := h.bytes
    let s := takeHeld h s
    match packetTree s b with
    | none => routeErr b false s
    | some t =>
      let pos := treePos t b
      if t.up.v ∧ t.up.esr ≤ pkSr b ∧ pkSr b < t.up.esr + 32 ∧ (pkSr b - t.up.esr) % 2 = 1 then
        let a := edgeAnswers s n t t.up
        let o := (findOp s n t.num (opCseq b)).getD (newOp s n t (opCseq b) k)
        let r := rxCheck a b none s
        if !r.1 then r.2
        else rxAccept a b (if o.bad then r.2
          else if pkSr b ≠ t.up.esr + 2 * pos + 1 then rseMalformed o r.2
          else f t pos b o r.2)
      else s

/-- A partial is malformed (08 R221): it is not added. -/
def partialMalformed (o : RseOp) (b : List Byte) (s : State) : State :=
  rseFault o 0x0803 (be (pkPayload b) 0 8) (bump (A.rseAncCnt o.node 2) 1 s)

/-- A packet whose form Table 8.6 lists for the other class is malformed (08 R221). -/
def wrongClass (n form cls : Nat) (k : Known) (s : State) : State :=
  if cls = clCollUp then intakeUp n form k false (fun _ _ _ b o s => partialMalformed o b (putOp o s)) s
  else intakeDown n form k (fun _ _ b o s => partialMalformed o b (putOp o s)) s

/-- The collective is abandoned at its RSE (10 R274). -/
def abandonOp (o : RseOp) (s : State) : State :=
  raiseEvent { code := 0x0A03, ctx := o.ctx, unit := rseUnit o.node, detail := collDetail o.tree o.cseq o.node }
    (dropOp o.node o.tree o.cseq s)

/-- The slice of an element is abandoned after a residue mismatch, and the RSE is tested next (18 R459). -/
def abandonSlice (elem : Nat) (o : RseOp) (s : State) : State :=
  let sl := elem / 4096
  let s := match findOp s o.node o.tree o.cseq with
    | some o => putOp { o with blocks := o.blocks.filter fun b => b.blk / 128 != sl
                               slots := o.slots.filter fun y => y.1 != sl } s
    | none => s
  let s := raiseEvent { code := 0x0A03, ctx := o.ctx, unit := rseUnit o.node, detail := collDetail o.tree o.cseq o.node } s
  let s := rseFault o 0x1201 (2 ^ 32 * o.tag + 0xF * 2 ^ 8 + o.node) (bump A.sntResidCnt 1 s)
  { s with snt := { s.snt with ahead := s.snt.ahead ++ [(.rse o.node, 0)] } }

/-- The work f on a partial, under the RSE's own checks: a corrected word is recorded, and what cannot be corrected, or a residue that
does not match, stops the work before anything leaves (18 R449, R450, R459). -/
def unitChecked (x : UnitErr) (elem : Nat) (o : RseOp) (f : State → State) (s : State) : State :=
  match x with
  | .none => f s
  | .corrected => f (raiseFault { code := 0x120B, cls := .corr, ctx := o.ctx, unit := rseUnit o.node, detail := rseUnit o.node } s)
  | .sram => rseFault o 0x120C (rseUnit o.node) (abandonOp o s)
  | .residue => abandonSlice elem o (putOp o s)

/-! ### Adding contributions -/

/-- Updates the block of an operation, which it starts where it does not exist. -/
def onBlock (blk : Nat) (f : RBlock → RBlock) (o : RseOp) : RseOp :=
  if o.blocks.any fun b => b.blk == blk then { o with blocks := o.blocks.map fun b => if b.blk = blk then f b else b }
  else { o with blocks := o.blocks ++ [f { blk := blk, status := 0, parts := [], best := [], nodes := [], cover := [], up := false }] }

/-- OR of STATUS bits. -/
def orStatus (a b : Nat) : Nat := a ||| b

/-- Adds the anchored elements of an edge to a block; a second contribution of an edge is added to its first (10 R274). -/
def addAnchored (blk e st : Nat) (xs : List Anch) : RseOp → RseOp :=
  onBlock blk fun b => { b with
    status := orStatus b.status st
    parts := if b.parts.any fun p => p.1 == e then b.parts.map fun p => if p.1 = e then (e, sumBlocks [p.2, xs]) else p
      else b.parts ++ [(e, xs)] }

/-- Adds the exact values of an edge to a block of MAX or MIN. -/
def addBest (blk e st : Nat) (vs : List Val) : RseOp → RseOp :=
  onBlock blk fun b => { b with status := orStatus b.status st, best := b.best ++ [(e, vs)] }

/-- Adds a node of the canonical tree to a block. -/
def addNode (blk e st : Nat) (x : FastNode) : RseOp → RseOp :=
  onBlock blk fun b => { b with status := orStatus b.status st, nodes := b.nodes ++ [x],
                                cover := b.cover ++ [(e, x.level, x.node)] }

/-- Chops a list into blocks of 32. -/
def blocks32 {α : Type} (l : List α) : Nat → List (List α)
  | 0 => []
  | n + 1 => l.take 32 :: blocks32 (l.drop 32) n

/-- The packet's elements stay within COUNT and within one anchor block (08 R218, R221). -/
def spanOk (o : RseOp) (p : PHead) : Bool :=
  let n := roundUp (cdElems o.desc) 32
  p.elem + 32 * p.nblk ≤ n && anchorBlock o p.elem == anchorBlock o (p.elem + 32 * p.nblk - 1)

/-- Values of the elements after a NATIVE prefix. -/
def nativeVals (d : List Byte) (p : PHead) (body : List Byte) : List Val :=
  let n := 32 * p.nblk
  decodeVals (cdSrc d) (body.take (elemBytes (cdSrc d) n)) (body.drop (elemBytes (cdSrc d) n)) n

/-- An element of SRC as an anchored element, with its RANGE mark; padding is +0 (08 R210, R217, R488). -/
def nativeAnch (o : RseOp) (a : Int) (v : Val) (elem : Nat) : Anch × Bool :=
  if cdCount o.desc ≤ elem then (Anch.zero, false)
  else if intSum o.desc then (intAnchored (v.units 0), false)
  else toAnchored a (a < -224 || 160 < a) v

/-- Counts and reports the RANGE elements of a packet (08 R211). -/
def rangeElems (a : Int) (hits : List Nat) (o : RseOp) (s : State) : RseOp × State :=
  match hits with
  | [] => (o, s)
  | i :: _ =>
    let s := bump (A.rseAncCnt o.node 0) hits.length s
    let s := nansProduced (hits.map (rseNan o cOverflow)) s
    (({ o with ranged := true } : RseOp),
     if o.ranged then s
     else raiseEvent { code := 0x0801, ctx := o.ctx, unit := rseUnit o.node, detail := 2 ^ 32 * (i % 2 ^ 32) + ofInt 32 a } s)

/-- A NATIVE partial of a sum or scan is converted and added. -/
def nativeSum (t : Tree) (pos e : Nat) (p : PHead) (vs : List Val) (o : RseOp) (s : State) : State :=
  let (o, s) := if intSum o.desc then (o, s) else meetAnchor p.anchor p.elem o s
  let xs := vs.zipIdx.map fun y => nativeAnch o p.anchor y.1 (p.elem + y.2)
  let hits := xs.zipIdx.filterMap fun y => if y.1.2 then some (p.elem + y.2) else none
  let (o, s) := rangeElems p.anchor hits o s
  let o := takeSlots t p o
  let o := (blocks32 (xs.zipIdx) p.nblk).zipIdx.foldl (fun o y =>
    let st := if y.1.any fun z => z.1.2 then orStatus p.status 1 else p.status
    addAnchored (p.elem / 32 + y.2) e st (y.1.map fun z => z.1.1) o) o
  (List.range p.nblk).foldl (fun s j => advanceBlock t pos o.node o.cseq (p.elem / 32 + j) s) (putOp o s)

/-- A NATIVE partial of MAX or MIN. -/
def nativeMaxMin (t : Tree) (pos e : Nat) (p : PHead) (vs : List Val) (o : RseOp) (s : State) : State :=
  let o := (blocks32 vs p.nblk).zipIdx.foldl (fun o y => addBest (p.elem / 32 + y.2) e p.status y.1 o) (takeSlots t p o)
  (List.range p.nblk).foldl (fun s j => advanceBlock t pos o.node o.cseq (p.elem / 32 + j) s) (putOp o s)

/-- A NATIVE partial of fast mode: leaves of the canonical tree (08 R224). -/
def nativeFast (t : Tree) (pos e : Nat) (p : PHead) (vs : List Val) (o : RseOp) (s : State) : State :=
  let r := (t.down.getD e t.up).rank
  let j := memberPlace o r
  let vs := vs.zipIdx.map fun y => if cdCount o.desc ≤ p.elem + y.2 then 0 else fp32Of y.1
  let o := (blocks32 vs p.nblk).zipIdx.foldl (fun o y =>
    addNode (p.elem / 32 + y.2) e p.status { level := 0, node := j, status := p.status, vals := y.1 } o) (takeSlots t p o)
  (List.range p.nblk).foldl (fun s j => advanceBlock t pos o.node o.cseq (p.elem / 32 + j) s) (putOp o s)

/-- A NATIVE packet of an ALLGATHER or BROADCAST is passed up unchanged, and from the root down as RESULT (10 R259, R271). -/
def passNative (t : Tree) (pos : Nat) (b : List Byte) (o : RseOp) (s : State) : State :=
  let pl := pkPayload b
  if isRoot t then sendDown (curEpoch s) o.node t o.cseq pos (2 ^ flMcast) (fun _ => true) (patch pl 0 [BitVec.ofNat 8 fmResult]) s
  else sendUp o.node t o.cseq pos 0 pl s

/-- NATIVE: the first NATIVE partial at RSE n, or the first packet there whose FORM no table lists. -/
def execNative (n : NodeNo) (k : Known) (x : UnitErr) (s : State) : Host.Outcome State Fault Refusal :=
  .next (if (rseHeld s n fmNative clCollUp).isNone then wrongClass n fmNative clCollDn k s else intakeUp n fmNative k true (fun t pos e b o s =>
    let pl := pkPayload b
    let p := pheadOf pl
    let d := o.desc
    let member := (t.down.getD e t.up).member
    let gather : Bool := cdKind d = kAllgather ∨ cdKind d = kBroadcast
    let lenOk : Bool := pl.length = 16 + bufBytes (cdSrc d) (32 * p.nblk)
    if !(pheadOk pl && p.form == fmNative && p.status == 0 && lenOk && spanOk o p && (gather || (reduces d && member))) then partialMalformed o b (putOp o s)
    else if gather then passNative t pos b o s
    else
      let vs := nativeVals d p (pl.drop 16)
      unitChecked x p.elem o (fun s => if isFast d then nativeFast t pos e p vs o s
        else if isMaxMin d then nativeMaxMin t pos e p vs o s
        else nativeSum t pos e p vs o s) s) s)

/-- ANCHORED: the first ANCHORED partial at RSE n; in class COLL_DN it is malformed. -/
def execAnchored (n : NodeNo) (k : Known) (x : UnitErr) (s : State) : Host.Outcome State Fault Refusal :=
  .next (if (rseHeld s n fmAnchored clCollUp).isNone then wrongClass n fmAnchored clCollDn k s else intakeUp n fmAnchored k true (fun t pos e b o s =>
    let pl := pkPayload b
    let p := pheadOf pl
    let d := o.desc
    let good := pheadOk pl && spanOk o p && !(t.down.getD e t.up).member && reduces d && !isFast d && !isMaxMin d
    match good, decodeBlocks p.nblk (pl.drop 16) with
    | true, some bs =>
      let (o, s) := if intSum d then (o, s) else meetAnchor p.anchor p.elem o s
      let o := takeSlots t p o
      unitChecked x p.elem o (fun s =>
        let o := bs.zipIdx.foldl (fun o y => addAnchored (p.elem / 32 + y.2) e p.status y.1 o) o
        (List.range p.nblk).foldl (fun s j => advanceBlock t pos o.node o.cseq (p.elem / 32 + j) s) (putOp o s)) s
    | _, _ => partialMalformed o b (putOp o s)) s)

/-- FAST: the first FAST partial at RSE n: a canonical-tree node, or the winners below a child module (DESIGN CHOICE: log entry 14). -/
def execFast (n : NodeNo) (k : Known) (x : UnitErr) (s : State) : Host.Outcome State Fault Refusal :=
  .next (if (rseHeld s n fmFast clCollUp).isNone then wrongClass n fmFast clCollDn k s else intakeUp n fmFast k true (fun t pos e b o s =>
    let pl := pkPayload b
    let p := pheadOf pl
    let d := o.desc
    let mm := isMaxMin d
    let good := pheadOk pl && spanOk o p && !(t.down.getD e t.up).member && (isFast d || (mm && p.level == 0 && p.node == 0)) &&
      pl.length == 16 + 128 * p.nblk
    if !good then partialMalformed o b (putOp o s)
    else
      let ws := unpackElems fcS32 (pl.drop 16) (32 * p.nblk)
      let o := takeSlots t p o
      unitChecked (if x = .residue then .none else x) p.elem o (fun s =>
        let o := (blocks32 ws p.nblk).zipIdx.foldl (fun o y =>
          if mm then addBest (p.elem / 32 + y.2) e p.status (y.1.map (maxMinVal d)) o
          else addNode (p.elem / 32 + y.2) e p.status { level := p.level, node := p.node, status := p.status, vals := y.1 } o) o
        (List.range p.nblk).foldl (fun s j => advanceBlock t pos o.node o.cseq (p.elem / 32 + j) s) (putOp o s)) s) s)

/-- Adds the exponent byte of an edge for an anchor block, and its packet's STATUS. -/
def addExp (ab e st m : Nat) (o : RseOp) : RseOp :=
  if o.exps.any fun x => x.ab == ab then
    { o with exps := o.exps.map fun x => if x.ab = ab then
        { x with status := orStatus x.status st, bytes := if x.bytes.any fun p => p.1 == e then x.bytes.map fun p => if p.1 = e then (e, max p.2 m) else p
                   else x.bytes ++ [(e, m)] } else x }
  else { o with exps := o.exps ++ [{ ab := ab, status := st, bytes := [(e, m)], sent := false }] }

/-- Some element of an anchor block has already arrived as a partial. -/
def hasPartial (o : RseOp) (ab : Nat) : Bool := o.had.contains ab

/-- The exponent bytes of a packet are those of a pre-pass (08 R218, R221). -/
def expOk (o : RseOp) (pl : List Byte) : Bool :=
  let p := pheadOf pl
  hasPrepass o.desc && pheadOk pl && pl.length == 16 + p.nblk && p.elem / 256 + p.nblk ≤ (cdCount o.desc + 255) / 256 &&
    (List.range p.nblk).all fun j => !hasPartial o (p.elem / 256 + j)

/-- The first EXPONENT packet at RSE n, from below or from above (08 R214). -/
def exponentAtRse (n : Nat) (up : Bool) (k : Known) (s : State) : State :=
  if up then
    intakeUp n fmExponent k false (fun t pos e b o s =>
      let pl := pkPayload b
      let p := pheadOf pl
      let abs := (List.range p.nblk).map (p.elem / 256 + ·)
      if !(expOk o pl && (p.status == 0 || !(t.down.getD e t.up).member)) then partialMalformed o b (putOp o s)
      else
        let o := abs.zipIdx.foldl (fun o y => addExp y.1 e p.status (be pl (16 + y.2) 1) o) o
        abs.foldl (fun s ab => advanceExp t pos o.node o.cseq ab s) (putOp o s)) s
  else
    intakeDown n fmExponent k (fun t pos b o s =>
      let pl := pkPayload b
      let p := pheadOf pl
      if !expOk o pl then partialMalformed o b s
      else
        let new := (List.range p.nblk).filterMap fun j =>
          let ab := p.elem / 256 + j
          if o.anchors.any fun x => x.1 == ab then none else some (ab, (be pl (16 + j) 1 : Int) - 127)
        sendDown (pkEpoch b) n t o.cseq pos (2 ^ flMcast) (fun _ => true) (markDown o pl) (putOp { o with anchors := o.anchors ++ new } s)) s

/-- SCAN_OFFSET: the first SCAN_OFFSET packet at RSE n (08 R228); in class COLL_UP it is malformed. -/
def execScanOffset (n : NodeNo) (k : Known) (x : UnitErr) (s : State) : Host.Outcome State Fault Refusal :=
  .next (if (rseHeld s n fmScan clCollDn).isNone then wrongClass n fmScan clCollUp k s else intakeDown n fmScan k (fun t pos b o s =>
    let pl := pkPayload b
    let p := pheadOf pl
    if !t.ordered then rseMalformed o s
    else
      match cdKind o.desc == kScan && pheadOk pl && spanOk o p, decodeBlocks p.nblk (pl.drop 16) with
      | true, some bs =>
        let (o, s) := if intSum o.desc then (o, s) else meetAnchor p.anchor p.elem o s
        unitChecked x p.elem o (fun s => bs.zipIdx.foldl (fun s y =>
          match findOp s o.node o.tree o.cseq with
          | none => s
          | some o => match o.blocks.find? fun z => z.blk == p.elem / 32 + y.2 && z.up with
            | some z => scanDown t pos y.1 { z with status := orStatus z.status p.status } o s
            | none => s) (if (findOp s o.node o.tree o.cseq).isSome then putOp o s else s)) s
      | _, _ => partialMalformed o b s) s)

end Sys2Proof.Machine
end

