-- ==== Sys2Proof/Machine/Stream.lean ====
section
/-! DEFINITION. Stream programs on the lane array of an RSE: what each instruction does to the records of a stage, and what a
stage sends (09 R231-R251, R256). -/

namespace Sys2Proof.Machine
open Sys2Proof

/-! ### Operations held -/

def isStrm (n t c : Nat) (o : StrmOp) : Bool := o.node == n && o.tree == t && o.cseq == c

/-- A stream operation at an RSE. -/
def findStrm (s : State) (n t c : Nat) : Option StrmOp := s.net.strm.find? (isStrm n t c)

/-- Replaces or adds a stream operation. -/
def putStrm (o : StrmOp) (s : State) : State :=
  onNet (fun m => { m with
    strm := if m.strm.any (isStrm o.node o.tree o.cseq) then
        m.strm.map fun x => if isStrm o.node o.tree o.cseq x then o else x
      else m.strm ++ [o] }) s

/-- The requester of the RSE class of a context. -/
def rseReq (ctx : Nat) : Nat := 7 * ctx + 5

/-- A job of the lane array is of an operation. -/
def jobOf (o : StrmOp) (j : LaneJob) : Bool := j.node == o.node && j.tree == o.tree && j.cseq == o.cseq

/-- Frees a stream operation: its body and spill buffers, its tables and what its stages had left at the lane array. -/
def dropStrm (o : StrmOp) (s : State) : State :=
  let s := (o.bodies.map (fun b => b.handle) ++ o.spills).foldl (fun s h => bpmReturn (rseReq o.ctx) h s) s
  onNet (fun m => { m with
    strm := m.strm.filter fun x => !isStrm o.node o.tree o.cseq x
    lane := m.lane.filter fun j => !jobOf o j
    waits := m.waits.filter fun j => !jobOf o j }) s

/-- The stage of an operation. -/
def stageOf (o : StrmOp) (st : Nat) : Stage := if st = 0 then o.s0 else o.s1

/-- Replaces the stage of an operation. -/
def setStage (st : Nat) (g : Stage) (o : StrmOp) : StrmOp := if st = 0 then { o with s0 := g } else { o with s1 := g }

/-- A CTXF fault of a stream operation at its RSE. -/
def strmFault (o : StrmOp) (code detail : Nat) (s : State) : State :=
  raiseFault { code := code, cls := .ctxf, ctx := o.ctx, unit := rseUnit o.node, tag := o.tag, detail := detail } s

/-- The final stage of a program. -/
def lastStage (o : StrmOp) : Nat := if pgTwo o.prog then 1 else 0

/-! ### Tables -/

/-- Entries of all tables of a program. -/
def tableWords (p : List Byte) : Nat := ((List.range 4).map (pgTsize p)).sum

/-- Table memory in use at an RSE. -/
def tablesUsed (s : State) (n : Nat) : Nat :=
  ((s.net.strm.filter fun o => o.node == n).map fun o => (o.tables.map List.length).sum).sum

/-- The tables as a stage finds them at first (09 Table 9.5). -/
def freshTables (o : StrmOp) : List (List Nat) :=
  (List.range 4).map fun t =>
    let i := pgTinit o.prog t % 8
    List.replicate (pgTsize o.prog t) (if i = 0 then 0 else cdParam o.desc (i - 1))

/-- The operation with its tables; none while they do not fit (R232). -/
def withTables (s : State) (o : StrmOp) : Option StrmOp :=
  if o.tables ≠ [] then some o
  else if tablesUsed s o.node + tableWords o.prog ≤ 65536 then some { o with tables := freshTables o }
  else none

def tableGet (o : StrmOp) (t i : Nat) : Nat := (o.tables.getD t []).getD i 0
def tableSet (t i v : Nat) (o : StrmOp) : StrmOp := { o with tables := o.tables.modify t fun l => l.set i (v % 2 ^ 32) }

/-! ### Instructions -/

/-- What an instruction works on: its operation, the stage, the records in current order, and the state. -/
structure Work where
  o : StrmOp
  stage : Nat
  recs : List Rec
  s : State

/-- A field, and a predicate: P0 reads 1. -/
def fld (r : Rec) (i : Nat) : Nat := r.f.getD i 0
def prd (r : Rec) (i : Nat) : Bool := i == 0 || r.p.getD i false

def setFld (i v : Nat) (r : Rec) : Rec := { r with f := r.f.set i (v % 2 ^ 32) }
def setPrd (i : Nat) (v : Bool) (r : Rec) : Rec := if i = 0 then r else { r with p := r.p.set i v }

/-- A NaN that a stream instruction produces (R244). -/
def strmNan (o : StrmOp) (cause idx : Nat) : NanAt :=
  { ctx := o.ctx, tag := o.tag, unit := rseUnit o.node, sub := 0, cause := cause, idx := idx }

/-- Cuts a list into runs of at most n; fuel bounds the runs. -/
def chunks {α : Type} (n : Nat) : Nat → List α → List (List α)
  | 0, _ => []
  | _, [] => []
  | k + 1, l => l.take n :: chunks n k (l.drop n)

/-- NaN productions of an instruction, by record: of the records that its lanes do in one core cycle, the lowest index comes first (07 R203;
09 Table 9.2: 128 element operations, or 32 table accesses, a core cycle). -/
def laneNans (o : StrmOp) (per : Nat) (ns : List (Option Nat × Nat)) (s : State) : State :=
  (chunks per ns.length ns).foldl (fun s c =>
    nansProduced (sortBy (fun a b => Nat.ble a.idx b.idx) (c.filterMap fun p => p.1.map fun k => strmNan o k p.2)) s) s

/-- Applies a function to the guarded records; it gives the record and the cause of a NaN produced. -/
def mapGuard (x : SIns) (f : Rec → Rec × Option Nat) (l : Work) : Work :=
  let rs := l.recs.map fun r => if prd r x.pg then f r else (r, none)
  { l with recs := rs.map Prod.fst, s := laneNans l.o 128 (rs.map fun p => (p.2, p.1.idx)) l.s }

/-- The cause of a NaN that an FP32 operation gives from inputs without one. -/
def nanCause (ins : List Nat) (out : Nat) : Option Nat :=
  if (val32 out).isNan && !ins.any fun a => (val32 a).isNan then some cInvalid else none

/-- A two-operand operation by TYPE: FP32, S32, U32 (R244). -/
def arith (ty : Nat) (fp : Nat → Nat → Nat) (si : Int → Int → Int) (a b : Nat) : Nat × Option Nat :=
  if ty = 0 then let v := fp a b
                 (v, nanCause [a, b] v)
  else if ty = 1 then (ofInt 32 (si (toInt 32 a) (toInt 32 b)), none)
  else (ofInt 32 (si a b), none)

/-- Fd := Fa op Fb, or Fa op IMM. -/
def binary (x : SIns) (imm : Bool) (fp : Nat → Nat → Nat) (si : Int → Int → Int) (l : Work) : Work :=
  mapGuard x (fun r => let (v, c) := arith x.ty fp si (fld r x.a) (if imm then x.imm else fld r x.b)
                       (setFld x.d v r, c)) l

def doNop (_ : SIns) (l : Work) : Work := l
def doAdd (x : SIns) : Work → Work := binary x false fpAdd (· + ·)
def doMin (x : SIns) : Work → Work := binary x false fpMin min
def doMax (x : SIns) : Work → Work := binary x false fpMax max
def doMul (x : SIns) : Work → Work := binary x false fpMul (· * ·)
def doAddi (x : SIns) : Work → Work := binary x true fpAdd (· + ·)
def doMuli (x : SIns) : Work → Work := binary x true fpMul (· * ·)
def doMovi (x : SIns) : Work → Work := mapGuard x fun r => (setFld x.d x.imm r, none)
def doMovp (x : SIns) (l : Work) : Work := mapGuard x (fun r => (setFld x.d (cdParam l.o.desc (x.imm % 4)) r, none)) l
def doGetid (x : SIns) : Work → Work := mapGuard x fun r => (setFld x.d (if x.sub = 0 then r.rank else r.idx) r, none)

/-- A comparison by TYPE; a condition that Table 9.8 does not name has a free value (DESIGN CHOICE: log entry 2). -/
def cmpBit (s : State) (ty c a b : Nat) : Bool :=
  if 7 ≤ c then freeBits 1 s == 1
  else if ty = 0 then fpCmp c a b
  else if ty = 1 then condOf c (decide (toInt 32 a < toInt 32 b)) (a == b) false
  else condOf c (decide (a < b)) (a == b) false

/-- Pd := Fa cond Fb, or Fa cond IMM. -/
def compare (x : SIns) (imm : Bool) (l : Work) : Work :=
  let c := x.sub % 8
  let l' : Work := mapGuard x
    (fun r => (setPrd x.pd (cmpBit l.s x.ty c (fld r x.a) (if imm then x.imm else fld r x.b)) r, none)) l
  if 7 ≤ c then { l' with s := tookFree l'.s } else l'

def doCmp (x : SIns) : Work → Work := compare x false
def doCmpi (x : SIns) : Work → Work := compare x true

/-- Operations of PLOG: 0 AND, 1 OR, 2 AND NOT, 3 XOR. -/
def plog (k : Nat) (a b : Bool) : Bool := if k = 0 then a && b else if k = 1 then a || b else if k = 2 then a && !b else a != b

def doPlog (x : SIns) : Work → Work :=
  mapGuard x fun r => (setPrd x.pd (plog (x.sub % 4) (prd r (x.a % 4)) (prd r (x.b % 4))) r, none)

def doSel (x : SIns) : Work → Work :=
  mapGuard x fun r => (setFld x.d (if prd r (x.sub % 4) then fld r x.a else fld r x.b) r, none)

/-- Format code of a TYPE other than U32. -/
def tyFmt (ty : Nat) : Nat := [fcFp32, fcS32, fcS32, fcFp16, fcBf16, fcE4m3, fcE5m2].getD ty fcFp32

/-- The value of a field by TYPE. -/
def tyVal (ty v : Nat) : Val := if ty = 2 then Val.ofInt v else decodeElem (tyFmt ty) (v % 2 ^ fmtBits (tyFmt ty))

/-- A value converted to a TYPE, to nearest even: its pattern and the cause of a NaN produced (R244, 07 R191, R192). -/
def toTy (ty : Nat) (v : Val) (ovf : Bool) : Nat × Option Nat :=
  if ty = 2 then
    match v with
    | .nan => (0, some cLost)
    | .inf s => (if s then 0 else 2 ^ 32 - 1, none)
    | .num s m e => ((clampInt 0 (2 ^ 32 - 1) (if s then -(roundHalfEven m e : Int) else roundHalfEven m e)).toNat, none)
  else convert (tyFmt ty) v .rne ovf

def doCvt (x : SIns) (l : Work) : Work :=
  mapGuard x (fun r => let (v, c) := toTy (x.sub % 8) (tyVal x.ty (fld r x.a)) (cdOvf l.o.desc)
                       (setFld x.d v r, c)) l

/-- Counts records whose table index is out of range (R251). -/
def tableOob (x : SIns) (l : Work) : Work :=
  let n := (l.recs.filter fun r => prd r x.pg && pgTsize l.o.prog (x.sub % 4) ≤ fld r x.a).length
  if n = 0 then l else { l with s := bump (A.rseStrmCnt l.o.node 3) n l.s }

def doGather (x : SIns) (l : Work) : Work :=
  mapGuard x (fun r => (setFld x.d (tableGet l.o (x.sub % 4) (fld r x.a)) r, none)) (tableOob x l)

/-- Runs an ordered table instruction, record by record in current order. -/
def eachInOrder (x : SIns) (f : Rec → StrmOp → Rec × StrmOp × Option Nat) (l : Work) : Work :=
  let (rs, o, nans) := l.recs.foldl (fun (acc : List Rec × StrmOp × List (Option Nat × Nat)) r =>
    if prd r x.pg then
      let (r', o, c) := f r acc.2.1
      (acc.1 ++ [r'], o, acc.2.2 ++ [(c, r.idx)])
    else (acc.1 ++ [r], acc.2.1, acc.2.2 ++ [(none, r.idx)])) ([], l.o, [])
  { l with recs := rs, o := o, s := laneNans l.o 32 nans l.s }

/-- The value that SCATTER stores. -/
def scatterVal (x : SIns) (old b : Nat) : Nat × Option Nat :=
  let k := x.sub / 4 % 4
  if k = 0 then (b, none)
  else if k = 1 then arith x.ty fpAdd (· + ·) old b
  else if k = 2 then arith x.ty fpMin min old b
  else arith x.ty fpMax max old b

def doScatter (x : SIns) (l : Work) : Work :=
  let t := x.sub % 4
  eachInOrder x (fun r o =>
    if fld r x.a < pgTsize o.prog t then
      let (v, c) := scatterVal x (tableGet o t (fld r x.a)) (fld r x.b)
      (r, tableSet t (fld r x.a) v o, c)
    else (r, o, none)) (tableOob x l)

def doFetchadd (x : SIns) (l : Work) : Work :=
  let t := x.sub % 4
  eachInOrder x (fun r o =>
    if fld r x.a < pgTsize o.prog t then
      let v := tableGet o t (fld r x.a)
      (setFld x.d v r, tableSet t (fld r x.a) (v + x.imm) o, none)
    else (setFld x.d 0xFFFFFFFF r, o, none)) (tableOob x l)

def doHist (x : SIns) (l : Work) : Work :=
  let t := x.sub % 4
  eachInOrder x (fun r o =>
    let i := min (fld r x.a / 2 ^ (x.imm % 32)) (pgTsize o.prog t - 1)
    (r, tableSet t i (tableGet o t i + 1) o, none)) l

def doCount (x : SIns) (l : Work) : Work :=
  let t := x.sub % 4
  let n := (l.recs.filter fun r => prd r x.pg).length
  { l with o := tableSet t x.imm (tableGet l.o t x.imm + n) l.o }

/-- Field a of each record's predecessor, IMM for the first. -/
def prevVals (x : SIns) : Nat → List Rec → List Nat
  | _, [] => []
  | v, r :: rs => v :: prevVals x (fld r x.a) rs

def doPrev (x : SIns) (l : Work) : Work :=
  { l with recs := List.zipWith (fun r v => if prd r x.pg then setFld x.d v r else r) l.recs (prevVals x x.imm l.recs) }

/-- A sort key by TYPE as an unsigned number (R245, 07 R197). -/
def sortKey (ty v : Nat) : Nat :=
  if ty = 0 then orderKey v 32 else if ty = 1 then (v + 2 ^ 31) % 2 ^ 32 else if ty = 2 then v % 2 ^ 32 else orderKey v 16

/-- Ascending RANK, then ascending IDX (R236). -/
def idLe (a b : Rec) : Bool := a.rank < b.rank || (a.rank == b.rank && a.idx ≤ b.idx)

/-- Orders by key, ascending or descending, ties by identity. -/
def keyLe (ty a : Nat) (desc : Bool) (r q : Rec) : Bool :=
  let i := sortKey ty (fld r a)
  let j := sortKey ty (fld q a)
  (if desc then decide (j < i) else decide (i < j)) || (i == j && idLe r q)

def doSort (x : SIns) (l : Work) : Work := { l with recs := sortBy (keyLe x.ty x.a (bit x.sub 0)) l.recs }

/-- Keeps the first k records of each group; a group follows another where its value differs. -/
def keepFirst (k : Nat) (grp : Rec → Nat) : Nat → Option Nat → List Rec → List Rec
  | _, _, [] => []
  | n, g, r :: rs =>
    let n := if g = some (grp r) then n else 0
    if n < k then r :: keepFirst k grp (n + 1) (some (grp r)) rs else keepFirst k grp n (some (grp r)) rs

def doTopk (x : SIns) (l : Work) : Work :=
  let grp := fun (r : Rec) => if bit x.sub 1 then fld r x.b else 0
  let le := fun (r q : Rec) => decide (grp r < grp q) || (grp r == grp q && keyLe x.ty x.a (!bit x.sub 0) r q)
  { l with recs := keepFirst x.imm grp 0 none (sortBy le l.recs) }

def doFilter (x : SIns) (l : Work) : Work := { l with recs := l.recs.filter fun r => prd r (x.sub % 4) }

def doDrop (x : SIns) (l : Work) : Work :=
  let gone := l.recs.filter fun r => prd r (x.sub % 4)
  { l with recs := l.recs.filter (fun r => !prd r (x.sub % 4)),
           o := { l.o with drops := gone.foldl (fun d r => smPut 0 d r.rank (smGet 0 d r.rank + 1)) l.o.drops },
           s := if gone = [] then l.s else bump (A.rseStrmCnt l.o.node 2) gone.length l.s }

/-! ### Packets that a stage sends (R237, R247-R250) -/

/-- Fields of a stream prefix (09 Table 9.3). -/
structure SHead where
  kind : Nat
  body : Bool := false
  w : Nat := 0
  nrec : Nat := 0
  idx : Nat := 0
  status : Nat := 0
  lbuf : Nat := 0
  blen : Nat := 0
  count : Nat := 0
  deriving DecidableEq, Repr

/-- The 16 bytes of a stream prefix. -/
def SHead.bytes (h : SHead) : List Byte :=
  beBytes 1 h.kind ++ beBytes 1 (128 * b2n h.body + h.w) ++ beBytes 2 h.nrec ++ beBytes 4 h.idx ++ beBytes 1 h.status ++
    beBytes 1 h.lbuf ++ beBytes 2 h.blen ++ beBytes 4 h.count

/-- The prefix at the start of a payload. -/
def sheadOf (b : List Byte) : SHead :=
  { kind := be b 0 1, body := bit (be b 1 1) 7, w := be b 1 1 % 16, nrec := be b 2 2, idx := be b 4 4, status := be b 8 1,
    lbuf := be b 9 1, blen := be b 10 2, count := be b 12 4 }

/-- STATUS of what an RSE sends for an operation (R239, R256). -/
def strmStatus (o : StrmOp) : Nat := b2n o.changed + b2n o.mixed * 2 + o.pver * 4

/-- Sends a packet of an operation beyond one edge: to an RSE, or to a member's rank (10 R268; DESIGN CHOICE: log entry 17). -/
def sendBeyond (o : StrmOp) (cls dst : Nat) (toRse : Bool) (payload : List Byte) (s : State) : State :=
  let job := match treeEntry s o.ver o.tree with
    | some t => t.job
    | none => 0
  let b := mkPacket { epoch := curEpoch s, cls := cls, op := opColl, dst := dst, src := rseRank s o.node, job := job,
                      oparg := collArg o.tree o.cseq + (if toRse then 2 ^ 11 else 0) } payload
  inject { src := 528 + o.node, bytes := b } s

/-- Identity and words of a record, from field i for w words. -/
def recBytes (i w : Nat) (r : Rec) : List Byte :=
  leBytes 8 (2 ^ 32 * (r.rank % 2 ^ 24) + r.idx % 2 ^ 32) ++ (List.range w).flatMap fun k => leBytes 4 (fld r (i + k))

/-- The body of a record. -/
def bodyOf (o : StrmOp) (r : Rec) : Option (List Byte) :=
  r.body.bind fun k => (o.bodies.find? fun b => b.num == k).map (·.bytes)

/-- Groups records that go together: the same body, or none, in current order; each group with its body. -/
def byBody (o : StrmOp) (rs : List Rec) : List (Option (List Byte) × List Rec) :=
  (rs.map fun r => r.body).eraseDups.map fun b => ((rs.find? fun r => r.body == b).bind (bodyOf o), rs.filter fun r => r.body == b)

/-- Packets of records that share a body: each as many records as fit (R237). -/
def recPackets (kind : Nat) (o : StrmOp) (i w lbuf : Nat) (nobody : Bool) (rs : List Rec) : List (List Rec × List Byte) :=
  (byBody o (if nobody then rs.map fun r => { r with body := none } else rs)).flatMap fun g =>
    let bl := match g.1 with
      | some b => b
      | none => []
    (chunks (max 1 ((16368 - bl.length) / (8 + 4 * w))) g.2.length g.2).map fun c =>
      (c, SHead.bytes { kind := kind, body := g.1.isSome, w := w, nrec := c.length, status := strmStatus o, lbuf := lbuf,
                        blen := bl.length } ++ c.flatMap (recBytes i w) ++ bl)

/-- The RSE list entry of a home: its DST_RANK. -/
def homeDst (e : Nat) : Nat := 2 ^ 8 * bits e 23 8 + e % 2 ^ 7

/-- Home of a record by HPART: the index in the list. -/
def homeOf (x : SIns) (o : StrmOp) (r : Rec) : Nat :=
  let h := if bit x.sub 0 then fld r x.a else crc32c (leBytes 4 (fld r x.a))
  h % o.list.length

def doHpart (x : SIns) (l : Work) : Work :=
  (List.range l.o.list.length).foldl (fun (l : Work) k =>
    let rs := l.recs.filter fun r => homeOf x l.o r == k
    (recPackets 0x11 l.o 0 (pgWmid l.o.prog) 0 false rs).foldl (fun (l : Work) p =>
      { l with o := { l.o with homes := smPut 0 l.o.homes k (smGet 0 l.o.homes k + 1) },
               s := sendBeyond l.o clCollUp (homeDst (l.o.list.getD k 0)) true p.2 l.s }) l) l

/-- A rank of the operation's job (R248). -/
def rankOfJob (o : StrmOp) (s : State) (r : Nat) : Bool :=
  match treeEntry s o.ver o.tree with
  | some t => r < 2 ^ 24 && (resolveRank s t.job o.ver r).isSome
  | none => false

/-- The record lands at its member (R248). -/
def landsOk (x : SIns) (l : Work) (r : Rec) : Bool :=
  let b := x.sub % 2
  rankOfJob l.o l.s (fld r x.a) && fld r x.b < cdLcount l.o.desc b &&
    (bit x.sub 1 || ((bodyOf l.o r).map List.length).getD 0 ≤ cdBstride l.o.desc b)

/-- Remembers the landing entries of an OUT packet under way (DESIGN CHOICE: log entry 16). -/
def noteEntries (o : StrmOp) (rank k : Nat) (es : List Nat) (s : State) : State :=
  onNet (fun m => { m with entries := m.entries ++ [([o.tree, o.cseq, rseRank s o.node, rank, k], es)] }) s

/-- Sends an OUT packet to a member and counts it. -/
def sendOut (rank : Nat) (es : List Nat) (pl : List Byte) (l : Work) : Work :=
  let k := smGet 0 l.o.outs rank
  { l with o := { l.o with outs := smPut 0 l.o.outs rank (k + 1) },
           s := sendBeyond l.o clCollDn rank false pl (noteEntries l.o rank k es l.s) }

def doEmit (x : SIns) (l : Work) : Work :=
  let b := x.sub % 2
  let rs := l.recs.filter fun r => prd r x.pg
  let bad := rs.filter fun r => !landsOk x l r
  let l : Work := match bad with
    | [] => l
    | r :: _ =>
      let s := bump (A.rseStrmCnt l.o.node 4) bad.length l.s
      let d := 2 ^ 56 * b + 2 ^ 32 * (fld r x.a % 2 ^ 24) + fld r x.b
      { l with o := { l.o with landing := true }, s := if l.o.landing then s else strmFault l.o 0x0906 d s }
  let rs := rs.filter (landsOk x l)
  let l : Work := if rs = [] then l else { l with s := bump (A.rseStrmCnt l.o.node 1) rs.length l.s }
  (rs.map fun r => fld r x.a).eraseDups.foldl (fun (l : Work) rank =>
    (recPackets 0x12 l.o (x.sub / 4 % 8) (pgWout l.o.prog b) b (bit x.sub 1) (rs.filter fun r => fld r x.a == rank)).foldl
      (fun (l : Work) p => sendOut rank (p.1.map fun r => fld r x.b) p.2 l) l) l

def doTemit (x : SIns) (l : Work) : Work :=
  let ws := l.o.tables.getD (x.sub % 4) []
  (chunks 4092 ws.length ws).foldl (fun (l : Work) c =>
    sendOut (cdParam l.o.desc (x.imm % 4) % 2 ^ 24) []
      (SHead.bytes { kind := 0x12, status := strmStatus l.o, lbuf := x.sub / 4 % 2 } ++ c.flatMap (leBytes 4)) l) l

/-- What an instruction does. -/
def doIns (x : SIns) (l : Work) : Work :=
  match x.op with
  | 0x00 => doNop x l
  | 0x01 => doAdd x l
  | 0x02 => doMin x l
  | 0x03 => doMax x l
  | 0x04 => doMul x l
  | 0x05 => doAddi x l
  | 0x06 => doMuli x l
  | 0x07 => doMovi x l
  | 0x08 => doMovp x l
  | 0x09 => doGetid x l
  | 0x0A => doCmp x l
  | 0x0B => doCmpi x l
  | 0x0C => doPlog x l
  | 0x0D => doSel x l
  | 0x0E => doCvt x l
  | 0x10 => doGather x l
  | 0x11 => doScatter x l
  | 0x12 => doFetchadd x l
  | 0x13 => doHist x l
  | 0x14 => doCount x l
  | 0x15 => doPrev x l
  | 0x20 => doSort x l
  | 0x21 => doTopk x l
  | 0x22 => doFilter x l
  | 0x23 => doDrop x l
  | 0x24 => doTemit x l
  | 0x30 => doHpart x l
  | 0x31 => doEmit x l
  | _ => l

/-! ### Ends (R238, R247, R250) -/

/-- Sends an END with its packet count. -/
def sendEnd (o : StrmOp) (cls dst : Nat) (toRse : Bool) (count dropped : Nat) (s : State) : State :=
  sendBeyond o cls dst toRse (SHead.bytes { kind := 0x13, idx := dropped, status := strmStatus o, count := count }) s

/-- ENDs to every home, or to every member from a final stage. -/
def sendEnds (st : Nat) (o : StrmOp) (s : State) : State :=
  if st < lastStage o then
    (List.range o.list.length).foldl (fun s k =>
      sendEnd o clCollUp (homeDst (o.list.getD k 0)) true (smGet 0 o.homes k) 0 s) s
  else
    (List.range (cdNmem o.desc)).foldl (fun s i =>
      let r := cdRbase o.desc + i
      sendEnd o clCollDn r false (smGet 0 o.outs r) (smGet 0 o.drops r) s) s

/-- Members of this module that the descriptor assigns to the RSE (R238, 10 R267). -/
def assigned (s : State) (o : StrmOp) : List Nat :=
  match treeEntry s o.ver o.tree with
  | some t => t.down.filterMap fun x =>
      if x.v && x.member && t.rses[x.rank % t.nrse]? == some o.node && cdRbase o.desc ≤ x.rank &&
        x.rank < cdRbase o.desc + cdNmem o.desc then some x.rank else none
  | none => []

/-- The sender's END is held, and its packets are (R238). -/
def senderDone (g : Stage) (k : Nat) : Bool :=
  match g.ends.find? fun e => e.1 == k with
  | some e => e.2 ≤ smGet 0 g.cnts k
  | none => false

/-- A member of an operation is live in the version in force. -/
def strmLive (s : State) (o : StrmOp) (r : Nat) : Bool :=
  match treeEntry s o.ver o.tree with
  | some t => rankLive s t.job r
  | none => false

/-- Every sender's packets of a stage are held (R238, R239). -/
def stageAll (s : State) (o : StrmOp) (st : Nat) : Bool :=
  let g := stageOf o st
  if st = 0 then (assigned s o).all fun r => senderDone g r || (!strmLive s o r && !g.ends.any fun e => e.1 == r)
  else match treeEntry s o.ver o.tree with
    | some t => t.nfirst ≤ g.ends.length && g.ends.all fun e => senderDone g e.1
    | none => false

/-- The RSE is a home of the operation. -/
def isHome (s : State) (o : StrmOp) : Bool := o.list.any fun e => homeDst e == rseRank s o.node

/-- The RSE is a first-hop RSE of the operation that has not run its stage 0. -/
def firstHopDue (s : State) (o : StrmOp) : Bool := !o.s0.ran && (assigned s o).any (strmLive s o)

/-- An operation has overflowed: its records are discarded (R232). -/
def overflowed (o : StrmOp) : Bool := o.s0.overflow || o.s1.overflow

/-- A gathered stage is ready: every sender's packets are held, and its tables fit (R232, R243). -/
def stageReady (s : State) (o : StrmOp) (st : Nat) : Bool :=
  let g := stageOf o st
  !o.bad && gathered o.prog st && !g.ran && !g.queued && !overflowed o && stageAll s o st && (withTables s o).isSome &&
    (if st = 0 then assigned s o != [] else pgTwo o.prog && isHome s o)

/-- A gathered stage that is ready takes its tables and its place at the lane array. -/
def queueStage (n t c st : Nat) (s : State) : State :=
  match findStrm s n t c with
  | none => s
  | some o =>
    if !stageReady s o st then s
    else
      let o := setStage st { stageOf o st with queued := true } ((withTables s o).getD o)
      onNet (fun m => { m with lane := m.lane ++ [{ node := n, tree := t, cseq := c, stage := st, pc := 0, recs := [], body := none,
                                                    started := false }] }) (putStrm o s)

/-- Records of a streaming stage that waited for its tables go to the lane array once these fit. -/
def admitJob (j : LaneJob) (s : State) : State :=
  match findStrm s j.node j.tree j.cseq with
  | none => s
  | some o => match withTables s o with
    | none => s
    | some o => onNet (fun m => { m with waits := m.waits.erase j, lane := m.lane ++ [j] }) (putStrm o s)

/-- What has become ready at RSE n goes to its lane array, in the order in which it does (R233): records that waited, then gathered stages. -/
def noteReady (n : Nat) (s : State) : State :=
  let s := (s.net.waits.filter fun j => j.node == n).foldl (fun s j => admitJob j s) s
  (s.net.strm.filter fun o => o.node == n).foldl (fun s o => queueStage n o.tree o.cseq 1 (queueStage n o.tree o.cseq 0 s)) s

/-- A stage has run: its ENDs go out, and the operation ends at the RSE after the last stage that it has there. -/
def stageRan (st : Nat) (o : StrmOp) (s : State) : State :=
  let s := sendEnds st o s
  let o := setStage st { stageOf o st with ran := true, queued := false, recs := [] } o
  let done := if pgTwo o.prog then (o.s1.ran || !isHome s o) && !firstHopDue s o else o.s0.ran
  noteReady o.node (if done then dropStrm o s else putStrm o s)

/-- Some records of the stage are still at the lane array, or wait for it. -/
def atLane (s : State) (o : StrmOp) (st : Nat) : Bool :=
  (s.net.lane ++ s.net.waits).any fun j => jobOf o j && j.stage == st

/-- A streaming stage ends once every sender's packets have run through it (R238, R243). -/
def endStreaming (n t c st : Nat) (s : State) : State :=
  match findStrm s n t c with
  | some o =>
    if !o.bad && !gathered o.prog st && !(stageOf o st).ran && stageAll s o st && !atLane s o st then stageRan st o s else s
  | none => s

/-! ### The lane array -/

/-- A body that no record needs any longer: its buffer returns. -/
def freeBody (k : Option Nat) (o : StrmOp) (s : State) : State :=
  match o.bodies.find? fun b => some b.num == k with
  | some b => putStrm { o with bodies := o.bodies.erase b } (bpmReturn (rseReq o.ctx) b.handle s)
  | none => s

/-- A job at the lane array of RSE n has done an instruction: it meets its next one, or leaves the array after its last, and its
stage ends there. -/
def laneMove (n : Nat) (j : LaneJob) (l : Work) : State :=
  let s := putStrm l.o l.s
  if j.pc + 1 < (stageIns l.o.prog j.stage).length then
    onNet (fun m => { m with lane := m.lane.map fun i => if i = j then { j with pc := j.pc + 1, recs := l.recs } else i }) s
  else
    let s := freeBody j.body l.o (onNet (fun m => { m with lane := m.lane.erase j }) s)
    if gathered l.o.prog j.stage then stageRan j.stage l.o s else endStreaming n j.tree j.cseq j.stage s

/-- One instruction of the first stage at the lane array of RSE n, where it has started and a test names the instruction. -/
def laneStep (n : Nat) (p : SIns → Bool) (s : State) : State :=
  match s.net.lane.find? fun j => j.node == n with
  | none => s
  | some j =>
    if !j.started then s
    else match findStrm s n j.tree j.cseq with
    | none => onNet (fun m => { m with lane := m.lane.erase j }) s
    | some o => match (stageIns o.prog j.stage)[j.pc]? with
      | none => s
      | some x => if p x then laneMove n j (doIns x { o := o, stage := j.stage, recs := j.recs, s := s }) else s

/-- Runs the first stage at the lane array to its end; fuel bounds the instructions. -/
def laneRun (n : Nat) (j : LaneJob) : Nat → State → State
  | 0, s => s
  | k + 1, s =>
    match s.net.lane.find? fun i => i.node == n with
    | some i => if i.tree = j.tree ∧ i.cseq = j.cseq ∧ i.stage = j.stage then laneRun n j k (laneStep n (fun _ => true) s) else s
    | none => s

/-- A stage becomes ready at the lane array. In a row that takes the stage as one step, it runs at once (DESIGN CHOICE: log entry 15). -/
def laneReady (j : LaneJob) (stepwise : Bool) (s : State) : State :=
  let free := !s.net.lane.any fun i => i.node == j.node
  let s := onNet (fun m => { m with lane := m.lane ++ [j] }) s
  if stepwise || !free then s else laneRun j.node j 64 s

end Sys2Proof.Machine
end

