-- ==== Sys2Proof/Machine/StreamRows.lean ====
section
/-! DEFINITION. The stream packets that reach an RSE, the stages that its lane array runs, its watchdog, and loads of the program
store (09 R231-R256; 10 R273, R274). -/

namespace Sys2Proof.Machine
open Sys2Proof

/-! ### Packets of a stream -/

def Stage.empty : Stage := { recs := [], ids := [], ends := [], cnts := [], queued := false, ran := false, overflow := false }

/-- A program of the store. -/
def progAt (s : State) (v slot : Nat) : List Byte := smGet [] s.net.progs (64 * v + slot)

/-- A rank is fenced in the version in force, and was not in the other one. -/
def newlyFenced (s : State) (job r : Nat) : Bool :=
  !rankLive s job r && rankLiveIn s job (otherEpoch s) r

/-- The collective was launched before the flip to the version in force: its packet shows the old version, or a launch on this module
took it. -/
def launchedBefore (s : State) (t : Tree) (c : Nat) : Bool :=
  t.ver != curEpoch s || (launchedHere s t.num c).any fun l => l.run.ver != curEpoch s

/-- A new stream operation, whose version is that which its first packet shows (R256). Where a member that it assigns to this RSE
has been fenced since the launch, it says so (R239). -/
def newStrm (s : State) (n : Nat) (t : Tree) (c v : Nat) (k : Known) : StrmOp :=
  let k := knownHere s t.num c k
  let o : StrmOp := {
    node := n, tree := t.num, cseq := c, ver := t.ver, ctx := t.ctx, tag := k.tag, desc := k.desc, list := k.list,
    prog := progAt s v (cdSlot k.desc), pver := v, bad := false, mixed := false, changed := false, landing := false,
    bodies := [], nextBody := 0, spills := [], tables := [], s0 := Stage.empty, s1 := Stage.empty, drops := [], outs := [],
    homes := [] }
  { o with changed := launchedBefore s t c && (assigned s o).any (newlyFenced s t.job) }

/-- The operation of a packet, with what its version says; a new one that names an empty slot is malformed (R256, 10 R273). -/
def meetStrm (n : Nat) (t : Tree) (c v : Nat) (k : Known) (s : State) : StrmOp × State :=
  match findStrm s n t.num c with
  | some o => (if o.pver = v then o else { o with mixed := true }, s)
  | none =>
    let o := newStrm s n t c v k
    if o.prog = [] then ({ o with bad := true }, strmFault o 0x0A01 (collDetail t.num c 0xFFFF) s) else (o, s)

/-- Words of a record in a stage's packets. -/
def stageWords (o : StrmOp) (st : Nat) : Nat := if st = 0 then pgWin o.prog else pgWmid o.prog

/-- Bytes of one record in a stage's packets. -/
def recLen (o : StrmOp) (st : Nat) : Nat := 4 * stageWords o st + (if st = 0 then 0 else 8)

/-- The packet of records is well formed (R241). -/
def recsOk (o : StrmOp) (st : Nat) (pl : List Byte) : Bool :=
  let h := sheadOf pl
  16 ≤ pl.length && be pl 1 1 / 16 % 8 == 0 && h.status / 8 == 0 && h.lbuf == 0 && h.count == 0 && h.w == stageWords o st &&
    (!h.body || pgBody o.prog) && (if h.body then 4 ≤ h.blen && h.blen ≤ 16320 && h.blen % 4 == 0 else h.blen == 0) &&
    (if st = 0 then h.idx + h.nrec ≤ 2 ^ 32 && h.status == 0 else h.idx == 0) &&
    pl.length == 16 + h.nrec * recLen o st + h.blen &&
    (st == 0 || (List.range h.nrec).all fun i => le pl (16 + i * recLen o st + 7) 1 == 0)

/-- Records of a packet, all with one body. -/
def recsOf (o : StrmOp) (st rank : Nat) (body : Option Nat) (pl : List Byte) : List Rec :=
  let h := sheadOf pl
  (List.range h.nrec).map fun i =>
    let a := 16 + i * recLen o st
    let ws := if st = 0 then a else a + 8
    { rank := if st = 0 then rank else le pl (a + 4) 3, idx := if st = 0 then h.idx + i else le pl a 4,
      f := (List.range 8).map fun j => if j < stageWords o st then le pl (ws + 4 * j) 4 else 0,
      p := [true, false, false, false], body := body }

/-- Splits records into those whose identity is new and those that repeat one (R235). -/
def splitDup : List (Nat × Nat) → List Rec → List Rec × List Rec
  | _, [] => ([], [])
  | ids, r :: rs =>
    if ids.contains (r.rank, r.idx) then let (a, b) := splitDup ids rs
                                         (a, r :: b)
    else let (a, b) := splitDup ((r.rank, r.idx) :: ids) rs
         (r :: a, b)

/-- Of n new records, those that a gathered stage holds beyond 16,384 resident ones, within its 2^20 (R232). -/
def spillOf (o : StrmOp) (st n : Nat) : Nat :=
  let k := (stageOf o st).recs.length
  let n := min n (2 ^ 20 - k)
  if gathered o.prog st then min n (k + n - 16384) else 0

/-- Sizes of the requests that k spilled records take: 48 bytes each, as in the workspace, in requests of at most MAX_REQ (R232, 02
R40; DEDUCED: log entry 79). -/
def spillSizes (s : State) (k : Nat) : List Nat :=
  let per := max 1 (poolMaxReq (pools s) 5 / 48)
  (List.range ((k + per - 1) / per)).map fun i => 48 * min per (k - per * i)

/-- Buffers of several sizes for a requester: all of them, or none. -/
def bpmMany (req : Nat) : List Nat → State → Option (List Nat) × State
  | [], s => (some [], s)
  | n :: r, s =>
    match bpmAlloc req n s with
    | (none, _) => (none, s)
    | (some h, t) => match bpmMany req r t with
      | (some hs, t) => (some (h :: hs), t)
      | (none, _) => (none, s)

/-- The records of a packet that are new at a stage, and its body's buffer and those of its spilled records; none where one cannot be
had (R240). -/
def strmBuffers (o : StrmOp) (st key : Nat) (pl : List Byte) (s : State) : Option (List Nat) × State :=
  let h := sheadOf pl
  let new := (splitDup (stageOf o st).ids (recsOf o st key none pl)).1
  bpmMany (rseReq o.ctx) ((if h.body then [h.blen] else []) ++ spillSizes s (spillOf o st new.length)) s

/-- The RSE holds 16 operations, and this one is not among them (R240). -/
def strmFull (s : State) (o : StrmOp) : Bool :=
  (findStrm s o.node o.tree o.cseq).isNone && decide (16 ≤ (s.net.strm.filter fun x => x.node == o.node).length)

/-- The RSE cannot store the packet of records (R240): it holds 16 operations, or has no buffer for the body or the spill. -/
def strmNoRoom (s : State) (o : StrmOp) (st key : Nat) (pl : List Byte) : Bool :=
  strmFull s o || (!o.bad && !overflowed o && recsOk o st pl && (strmBuffers o st key pl s).1.isNone)

/-- Reports records with a repeated identity. -/
def dupFaults (o : StrmOp) (rs : List Rec) (s : State) : State :=
  rs.foldl (fun s r => strmFault o 0x0904 (2 ^ 32 * r.rank + r.idx) (bump (A.rseStrmCnt o.node 5) 1 s)) s

/-- Holds records for a gathered stage, at most 2^20 (R232). -/
def holdRecs (o : StrmOp) (st : Nat) (rs : List Rec) (s : State) : State :=
  let g := stageOf o st
  let k := 2 ^ 20 - g.recs.length
  let g' := { g with recs := g.recs ++ rs.take k, overflow := decide (k < rs.length) }
  let s := putStrm (setStage st g' o) s
  if k < rs.length then strmFault o 0x0905 (2 ^ 20) s else s

/-- Records of a streaming stage go to the lane array, or wait for the operation's tables (R232). -/
def streamJob (j : LaneJob) (stepwise : Bool) (o : StrmOp) (s : State) : State :=
  match withTables s o with
  | some o => laneReady j stepwise (putStrm o s)
  | none => onNet (fun m => { m with waits := m.waits ++ [j] }) (putStrm o s)

/-- A well-formed packet of records is stored: its body, its new records, and its spill. -/
def storeRecs (st key : Nat) (stepwise : Bool) (pl : List Byte) (o : StrmOp) (s : State) : State :=
  let h := sheadOf pl
  let (hs, s) := strmBuffers o st key pl s
  let hs := hs.getD []
  let body := if h.body then some o.nextBody else none
  let o := if h.body then
      { o with bodies := o.bodies ++ [{ num := o.nextBody, req := rseReq o.ctx, handle := hs.headD 0,
                                        bytes := pl.drop (pl.length - h.blen) }]
               nextBody := o.nextBody + 1, spills := o.spills ++ hs.drop 1 }
    else { o with spills := o.spills ++ hs }
  let g := stageOf o st
  let (new, dup) := splitDup g.ids (recsOf o st key body pl)
  let k := spillOf o st new.length
  let o := setStage st { g with ids := g.ids ++ new.map fun r => (r.rank, r.idx) } o
  let s := bump (A.rseStrmCnt o.node 0) (new.length + dup.length) (dupFaults o dup s)
  let s := if k = 0 then s else bump (A.rseStrmCnt o.node 7) k s
  if gathered o.prog st then holdRecs o st new s
  else
    endStreaming o.node o.tree o.cseq st
      (streamJob { node := o.node, tree := o.tree, cseq := o.cseq, stage := st, pc := 0, recs := new, body := body, started := true }
        stepwise o s)

/-- A packet of records that its RSE takes for a stage. -/
def takeRecs (st key : Nat) (stepwise : Bool) (pl : List Byte) (o : StrmOp) (s : State) : State :=
  let g := stageOf o st
  let o := setStage st { g with cnts := smPut 0 g.cnts key (smGet 0 g.cnts key + 1) } o
  noteReady o.node (if o.bad || overflowed o then putStrm o s
    else if !recsOk o st pl then strmFault o 0x0903 (be pl 0 8) (bump (A.rseStrmCnt o.node 6) 1 (putStrm o s))
    else storeRecs st key stepwise pl o s)

/-- A packet of a member meets its stream's check at its first-hop RSE; f takes it. -/
def strmIntake (n kind : Nat) (k : Known) (f : Tree → List Byte → StrmOp → State → State) (s : State) : State :=
  match s.fab.held.find? fun h => h.dst == 5120 + n && allCome h && pkOp h.bytes == opColl && pkClass h.bytes == clCollUp &&
      !opRseDst h.bytes && be h.bytes 32 1 == kind with
  | none => s
  | some h =>
    let b := h.bytes
    match packetTree s b with
    | none => routeErr b false (takeHeld h s)
    | some t =>
      match downEdgeOf t (treePos t b) b, nrseDiffers t b with
      | none, none => takeHeld h s
      | none, some e =>
        let a := edgeAnswers s n t (t.down.getD e t.up)
        let r := rxCheck a b none (takeHeld h s)
        if !r.1 then r.2
        else
          let (o, s) := meetStrm n t (opCseq b) (pkEpoch b) k r.2
          rxAccept a b (if o.bad then putStrm o s
            else putStrm { o with bad := true } (strmFault o 0x0A01 (collDetail t.num (opCseq b) 0xFFFF) s))
      | some e, _ =>
        let a := edgeAnswers s n t (t.down.getD e t.up)
        let s := takeHeld h s
        let o := (findStrm s n t.num (opCseq b)).getD (newStrm s n t (opCseq b) (pkEpoch b) k)
        let full := if kind = 0x10 then strmNoRoom s o 0 (pkSrc b) (pkPayload b) else strmFull s o
        let r := rxCheck a b (if full then some 4 else none) s
        if !r.1 then r.2
        else
          let (o, s) := meetStrm n t (opCseq b) (pkEpoch b) k r.2
          rxAccept a b (f t b o s)

/-- IN: the first IN packet at RSE n. stepwise leaves the instructions of a streaming stage to their own rows (DESIGN CHOICE: log entry 15). -/
def execInPkt (n : NodeNo) (k : Known) (stepwise : Bool) (s : State) : Host.Outcome State Fault Refusal :=
  .next (strmIntake n 0x10 k (fun _ b o s => takeRecs 0 (pkSrc b) stepwise (pkPayload b) o s) s)

/-- The first packet of a kind from another RSE that waits at RSE n, with its tree. -/
def fromRse (s : State) (n kind : Nat) : Option (Held × Option Tree) :=
  (s.fab.held.find? fun h => h.dst == 5120 + n && allCome h && pkOp h.bytes == opColl && pkClass h.bytes == clCollUp &&
      opRseDst h.bytes && be h.bytes 32 1 == kind).map fun h => (h, packetTree s h.bytes)

/-- Program version that a packet of an RSE shows, and what its STATUS carries on (R239, R256). -/
def carryStatus (st : Nat) (o : StrmOp) : StrmOp := { o with changed := o.changed || bit st 0 }

/-- A packet that an RSE cannot store is refused (R240): it leaves the buffer, and its source sends it again; such a packet has no stream
record that a NACK could name (DESIGN CHOICE: log entry 17). -/
def refuseBeyond (h : Held) (s : State) : State :=
  let b := h.bytes
  let s := takeHeld h s
  if pkSrc b / 2 ^ 8 = rf s A.rtSwitchId 15 0 then inject { src := 528 + pkSrc b % 2 ^ 7, bytes := b } s else s

/-- A packet of another RSE meets its check at home RSE n, and is taken, or refused where full says so. -/
def homeIntake (n kind : Nat) (k : Known) (full : StrmOp → List Byte → State → Bool) (f : List Byte → StrmOp → State → State)
    (s : State) : State :=
  match fromRse s n kind with
  | none => s
  | some (h, none) => routeErr h.bytes false (takeHeld h s)
  | some (h, some t) =>
    let b := h.bytes
    let v := b2n (bit (be b 40 1) 2)
    let o := (findStrm s n t.num (opCseq b)).getD (newStrm s n t (opCseq b) v k)
    if !pkCheckOk b then bump (A.rtCnt 4) 1 (takeHeld h s)
    else if full o b s then refuseBeyond h s
    else
      let (o, s) := meetStrm n t (opCseq b) v k (takeHeld h s)
      f b (carryStatus (be b 40 1) o) s

/-- PART: the first PART packet at home RSE n. -/
def execPart (n : NodeNo) (k : Known) (stepwise : Bool) (s : State) : Host.Outcome State Fault Refusal :=
  .next (homeIntake n 0x11 k (fun o b s => strmNoRoom s o 1 (pkSrc b) (pkPayload b))
    (fun b o s => takeRecs 1 (pkSrc b) stepwise (pkPayload b) o s) s)

/-- An END at an RSE is well formed (R241): a member's STATUS is 0, and IDX, which only an END to a member uses, is 0 (DEDUCED: log
entry 79). -/
def endOk (st : Nat) (pl : List Byte) : Bool :=
  let h := sheadOf pl
  pl.length == 16 && be pl 1 1 == 0 && h.nrec == 0 && h.idx == 0 && h.lbuf == 0 && h.blen == 0 &&
    (if st = 0 then h.status == 0 else h.status / 8 == 0)

/-- A sender's END reaches a stage (R238). -/
def takeEnd (st key : Nat) (pl : List Byte) (o : StrmOp) (s : State) : State :=
  if o.bad then putStrm o s
  else if !endOk st pl then strmFault o 0x0903 (be pl 0 8) (bump (A.rseStrmCnt o.node 6) 1 (putStrm o s))
  else
    let g := stageOf o st
    let o := if g.ends.any fun e => e.1 == key then o
      else setStage st { g with ends := g.ends ++ [(key, (sheadOf pl).count)] } o
    noteReady o.node (endStreaming o.node o.tree o.cseq st (putStrm o s))

/-- The first END packet at RSE n: of a member, or of a stage-0 RSE. -/
def endAtRse (n : Nat) (k : Known) (s : State) : State :=
  if (fromRse s n 0x13).isSome then
    homeIntake n 0x13 k (fun o _ s => strmFull s o) (fun b o s => takeEnd 1 (pkSrc b) (pkPayload b) o s) s
  else strmIntake n 0x13 k (fun _ b o s => takeEnd 0 (pkSrc b) (pkPayload b) o s) s

/-! ### Gathered stages (R236, R243) -/

/-- A stream collective is abandoned at its RSE (10 R274). -/
def abandonStrm (o : StrmOp) (s : State) : State :=
  raiseEvent { code := 0x0A03, ctx := o.ctx, unit := rseUnit o.node, detail := collDetail o.tree o.cseq o.node }
    (noteReady o.node (dropStrm o s))

/-- GATHERED_STAGE: the first stage at the lane array of RSE n starts, over its records in canonical order, where it is a gathered one
that has not. sram says that a word of the records or tables of the stage there cannot be corrected: its operation is abandoned (18
R450). -/
def execGatheredStage (n : NodeNo) (stepwise sram : Bool) (s : State) : Host.Outcome State Fault Refusal :=
  match s.net.lane.find? fun j => j.node == n.val with
  | none => .next s
  | some j => match findStrm s n j.tree j.cseq with
    | none => .next s
    | some o =>
      if sram then .next (strmFault o 0x120C (rseUnit n) (abandonStrm o s))
      else if j.started then .next s
      else
        let j' := { j with started := true, recs := sortBy idLe (stageOf o j.stage).recs }
        let s := onNet (fun m => { m with lane := m.lane.map fun i => if i = j then j' else i }) s
        .next (if stepwise then s else laneRun n j' 64 s)

/-! ### Instructions one at a time: each acts on the stage at the lane array of RSE n where it is the next (DESIGN CHOICE: log entry 15) -/

/-- The next instruction has this opcode. -/
def laneOp (op : Nat) (n : NodeNo) (s : State) : Host.Outcome State Fault Refusal := .next (laneStep n (fun x => x.op == op) s)

def execNop (n : NodeNo) (s : State) : Host.Outcome State Fault Refusal := laneOp 0x00 n s
def execAdd (n : NodeNo) (s : State) : Host.Outcome State Fault Refusal := laneOp 0x01 n s
def execMin (n : NodeNo) (s : State) : Host.Outcome State Fault Refusal := laneOp 0x02 n s
def execMax (n : NodeNo) (s : State) : Host.Outcome State Fault Refusal := laneOp 0x03 n s
def execMul (n : NodeNo) (s : State) : Host.Outcome State Fault Refusal := laneOp 0x04 n s
def execAddi (n : NodeNo) (s : State) : Host.Outcome State Fault Refusal := laneOp 0x05 n s
def execMuli (n : NodeNo) (s : State) : Host.Outcome State Fault Refusal := laneOp 0x06 n s
def execMovi (n : NodeNo) (s : State) : Host.Outcome State Fault Refusal := laneOp 0x07 n s
def execMovp (n : NodeNo) (s : State) : Host.Outcome State Fault Refusal := laneOp 0x08 n s
def execGetid (n : NodeNo) (s : State) : Host.Outcome State Fault Refusal := laneOp 0x09 n s
def execCmp (n : NodeNo) (s : State) : Host.Outcome State Fault Refusal := laneOp 0x0A n s
def execCmpi (n : NodeNo) (s : State) : Host.Outcome State Fault Refusal := laneOp 0x0B n s
def execPlog (n : NodeNo) (s : State) : Host.Outcome State Fault Refusal := laneOp 0x0C n s
def execSel (n : NodeNo) (s : State) : Host.Outcome State Fault Refusal := laneOp 0x0D n s
def execCvt (n : NodeNo) (s : State) : Host.Outcome State Fault Refusal := laneOp 0x0E n s
def execGather (n : NodeNo) (s : State) : Host.Outcome State Fault Refusal := laneOp 0x10 n s
def execScatter (n : NodeNo) (s : State) : Host.Outcome State Fault Refusal := laneOp 0x11 n s
def execFetchadd (n : NodeNo) (s : State) : Host.Outcome State Fault Refusal := laneOp 0x12 n s
def execHist (n : NodeNo) (s : State) : Host.Outcome State Fault Refusal := laneOp 0x13 n s
def execCount (n : NodeNo) (s : State) : Host.Outcome State Fault Refusal := laneOp 0x14 n s
def execPrev (n : NodeNo) (s : State) : Host.Outcome State Fault Refusal := laneOp 0x15 n s
def execSort (n : NodeNo) (s : State) : Host.Outcome State Fault Refusal := laneOp 0x20 n s
def execTopk (n : NodeNo) (s : State) : Host.Outcome State Fault Refusal := laneOp 0x21 n s
def execFilter (n : NodeNo) (s : State) : Host.Outcome State Fault Refusal := laneOp 0x22 n s
def execDrop (n : NodeNo) (s : State) : Host.Outcome State Fault Refusal := laneOp 0x23 n s
def execTemit (n : NodeNo) (s : State) : Host.Outcome State Fault Refusal := laneOp 0x24 n s
def execHpart (n : NodeNo) (s : State) : Host.Outcome State Fault Refusal := laneOp 0x30 n s
def execEmit (n : NodeNo) (s : State) : Host.Outcome State Fault Refusal := laneOp 0x31 n s

/-! ### The RSE watchdog (10 R274) -/

/-- RSE_WATCHDOG: 2^RWD µs after its first packet, a collective that has not completed is freed, and COLL_ABANDON raised. -/
def execRseWatchdog (n : NodeNo) (t : Fin 4096) (c : BitVec 16) (s : State) : Host.Outcome State Fault Refusal :=
  match findOp s n t c.toNat, findStrm s n t c.toNat with
  | some o, _ => .next (abandonOp o s)
  | none, some o => .next (abandonStrm o s)
  | none, none => .next s

/-! ### The program store (R253-R255) -/

/-- The 64 slots of a version in the layout of an RSEPROG section. -/
def progSection (s : State) (v : Nat) : List Byte := (List.range 64).flatMap fun j => slice (progAt s v j) 0 576

/-- Updates RSE_PVALID and RSE_PDIGEST of a version. -/
def progRegs (v : Nat) (s : State) : State :=
  let mask := ((List.range 64).map fun j => if progAt s v j = [] then 0 else 2 ^ j).sum
  putCfg (A.rsePdigest v 0) (sha3 (progSection s v)) (wn64 (A.rsePvalid v 0) mask s)

/-- Writes a slot of a version; a slot that is all zero is empty. -/
def putProg (v slot : Nat) (b : List Byte) (s : State) : State :=
  onNet (fun m => { m with progs := smPut [] m.progs (64 * v + slot) (if allZero b then [] else b) }) s

/-- A LOAD or CLEAR written to RSE_PLOAD; while BUSY it is ignored (R255). -/
def writePload (p : GPort) (w : Word) (s : State) : State × Nat :=
  if !holds s p (dieOf A.rsePload) then (klDenied p A.rsePload s, stIgnored)
  else
    let op := fget w 3 0
    let slot := fget w 13 8
    let s := wn A.rsePload (2 ^ 8 * slot + op) s
    if (op = 1 ∨ op = 2) ∧ !rbit s A.rsePstatus 0 then
      let b := if op = 1 then cfgBytes s (A.rsePstage 0) 576 else []
      (onNet (fun m => { m with progLoad := some (slot, b, oldLive s) }) (wf A.rsePstatus 0 0 1 s), stOk)
    else (s, stIgnored)

/-- PROG_LOAD: a port writes LOAD to RSE_PLOAD. -/
def execProgLoad (p : GPort) (slot : Fin 64) (s : State) : Host.Outcome State Fault Refusal :=
  .next (wrRow p A.rsePload (BitVec.ofNat 32 (2 ^ 8 * slot + 1)) (writePload p) s)

/-- PROG_CLEAR: a port writes CLEAR to RSE_PLOAD. -/
def execProgClear (p : GPort) (slot : Fin 64) (s : State) : Host.Outcome State Fault Refusal :=
  .next (wrRow p A.rsePload (BitVec.ofNat 32 (2 ^ 8 * slot + 2)) (writePload p) s)

/-- RESULT and INDEX of a load that is checked now (09 Table 9.9); flipped says that the old version was live at the LOAD, or that a FLIP
has taken effect since. -/
def loadFault (s : State) (b : List Byte) (flipped : Bool) : Option (Nat × Nat) :=
  if imgState s = imValidating ∨ imgState s = imCommitting ∨ imgState s = imArmed then some (1, 0x7F)
  else if flipped then some (2, 0x7F)
  else if b = [] then none
  else progFault b

/-- A LOAD or CLEAR that is under way misses its version at a FLIP (R255). -/
def flipLoads (s : State) : State := onNet (fun m => { m with progLoad := m.progLoad.map fun q => (q.1, q.2.1, true) }) s

/-- PROG_LOAD_END: the check finishes, within 10 µs of the LOAD or CLEAR. Writing the slot holds the CTRL instance for some core cycles
of this period, and defers where the reconfiguration turnstile is spent (16 R422). -/
def execProgLoadEnd (cycles : Nat) (s : State) : Host.Outcome State Fault Refusal :=
  match s.net.progLoad with
  | none => .next s
  | some (slot, b, flipped) =>
    let done := onNet (fun m => { m with progLoad := none }) s
    match loadFault s b flipped with
    | some (r, i) =>
      .next (raiseEvent { code := 0x0902, unit := rseUnit 0, detail := 2 ^ 8 * i + r } (wn A.rsePstatus (2 ^ 16 * i + 2 ^ 8 * r) done))
    | none =>
      if tstSpent s actReconfig 16 then .next s else
      let v := otherEpoch s
      let s := progRegs v (putProg v slot b (tstCharge actReconfig 16 cycles done))
      .next (raiseEvent { code := 0x0901, unit := rseUnit 0, detail := 2 ^ 8 * slot + v } (wn A.rsePstatus (0x7F * 2 ^ 16) s))

end Sys2Proof.Machine
end

