-- ==== Sys2Proof/Machine/Image.lean ====
section
/-! DEFINITION. The image loader: LOAD, ABORT and DISARM, the end of validation, the commit of a full image, and what a flip and a
retirement do with the double-versioned sections (02 R44-R56). -/

namespace Sys2Proof.Machine
open Sys2Proof

/-! ### The registers of the loader (02 Tables 2.13-2.15) -/

/-- Every function other than a Gulane port is OFF. -/
def quiescent (s : State) : Bool :=
  (List.range 354).all fun f => f == 288 || f == 289 || !fnPresent s f || fstate s f == fsOff

/-- The load that a LOAD by port p starts, with the state that the checks use (02 R487). -/
def startLoad (p : GPort) (s : State) : ImgLoad :=
  { port := p, prior := imgState s, quiescent := quiescent s, oldLive := oldLive s, floor := rn64 s (A.dkImgMinSerial 0),
    digest := imgDigest s, serial := rn64 s (A.dkImgSerial 0), pierMap := (List.range 128).map fun q => rn s (A.dkPierMap q),
    spanSlots := (List.range 8).map fun i => rn s (A.dkSpanSlots i), otp := s.otp, repairs := s.mem.repairs }

/-- A load is VALIDATING or COMMITTING. -/
def loading (s : State) : Bool := imgState s == imValidating || imgState s == imCommitting

/-- The image whose load is under way is a full one. -/
def loadingFull (s : State) : Bool := loading s && le (hbmRd s (hbmBase + 6) 1) 0 1 == 0

/-- The inactive version takes a section of the version in force (02 R52; 09 R254). -/
def copySection (t : Nat) (s : State) : State :=
  if t = secRseprog then
    progRegs (otherEpoch s) ((List.range 64).foldl (fun s j => putProg (otherEpoch s) j (progAt s (curEpoch s) j) s) s)
  else putSect t (otherEpoch s) (sect s t) s

/-- The double-versioned section types (02 Table 2.5). -/
def doubleTypes : List Nat := [5, 6, 7, 8, 0xA, 0xB]

/-- Discards an armed partial image. -/
def disarm (s : State) : State :=
  match s.armed with
  | some a => wf A.dkImgStatus 3 0 imActive { a.types.foldl (fun s t => copySection t s) s with armed := none }
  | none => s

/-- A write of DK_IMG_CTRL by port p (02 Table 2.13, R44, R48, R53, R487; 17 R434). -/
def writeImgCtrl (p : GPort) (w : Word) (s : State) : State × Nat :=
  let op := fget w 3 0
  let took := wn A.dkImgCtrl op
  if !holds s p 0 then (klDenied p A.dkImgCtrl s, stIgnored)
  else if op = 1 then
    if stage s ≠ stRunning then (s, stIgnored)
    else if loading s then (imgRejectEvent p 4 0 0 s, stIgnored)
    else (wf A.dkImgStatus 21 16 0 (wf A.dkImgStatus 3 0 imValidating (took { s with img := startLoad p s })), stOk)
  else if op = 2 then
    if imgState s = imArmed then (disarm (took s), stOk) else (s, stIgnored)
  else if op = 3 then
    (if imgState s = imValidating then imgReject 0x1A (rf s A.dkImgStatus 21 16) 0 (took s) else took s, stOk)
  else (s, stIgnored)

/-- IMG_LOAD: port p writes LOAD to DK_IMG_CTRL. -/
def execImgLoad (p : GPort) (s : State) : Host.Outcome State Fault Refusal :=
  .next (wrRow p A.dkImgCtrl 1 (writeImgCtrl p) s)

/-- IMG_DISARM: port p writes DISARM to DK_IMG_CTRL. -/
def execImgDisarm (p : GPort) (s : State) : Host.Outcome State Fault Refusal :=
  .next (wrRow p A.dkImgCtrl 2 (writeImgCtrl p) s)

/-- IMG_ABORT: port p writes ABORT to DK_IMG_CTRL. -/
def execImgAbort (p : GPort) (s : State) : Host.Outcome State Fault Refusal :=
  .next (wrRow p A.dkImgCtrl 3 (writeImgCtrl p) s)

/-! ### The staged image -/

/-- The staged image, as the device reads it. -/
def staged (s : State) : List Byte := deviceRd s hbmBase (rn s A.dkImgLen)

/-- The device has read the staged image (15 R394). -/
def stagedRead (s : State) : State := deviceUe hbmBase (rn s A.dkImgLen) s

/-- What the checks use: the module as it stood at the LOAD (R487). -/
def imgEnv (s : State) : ImgEnv :=
  { fuses := s.fuses, otp := s.img.otp, load := s.img, ports := sect s secPorts, spans := sect s secSpans, repairs := s.img.repairs }

/-! ### Sections taken into the module -/

/-- Writes a double-versioned section of an image into version v. An RSEPROG section is the program store's 64 slots. -/
def takeSection (t v : Nat) (x : List Byte) (s : State) : State :=
  if t = secRseprog then
    progRegs v ((List.range 64).foldl (fun s j => putProg v j (slice x (576 * j) 576) s) s)
  else putSect t v x s

/-- SPN_GROUP shows the groups of the SPANS section in force (11 Table 11.15). -/
def showGroups (s : State) : State :=
  let b := sect s secSpans
  (List.range 32).foldl (fun s i =>
    let a := A.spnGroup (i / 4) (i % 4)
    wf a 16 16 (gpPolicy b i) (wf a 12 8 (gpCount b i) (wf a 4 0 (gpFirst b i) s))) s

/-- PG_CFG shows the PORTS section (04 Table 4.8). -/
def showPorts (s : State) : State :=
  let b := sect s secPorts
  (List.range 64).foldl (fun s g =>
    wn (A.pgCfg g) (2 ^ 16 * poEtype b g + 2 ^ 8 * poPreset b g + poBreak b g * 2 ^ 4 + poMode b g) s) s

/-- The unit map that a RETIRE section leaves (02 R37). -/
def takeRetire (x : List Byte) (s : State) : State :=
  match retireMap s.fuses x with
  | .ok m =>
    let s := (List.range 128).foldl (fun s p => wn (A.dkPierMap p) (umWord m p) s) s
    (List.range 8).foldl (fun s i => wn (A.dkSpanSlots i) (m.slots.getD i 0) s) s
  | .error _ => s

/-- The pool manager after a commit: MODE NONE, nothing granted (06 R165). -/
def resetPools (s : State) : State :=
  let s := (List.range 5).foldl (fun s k => wn (A.bpmFree k) 0 s) (wn A.bpmStatus 0 s)
  (List.range 448).foldl (fun s i => wn (useAt i) 0 s) (onBpm (fun _ => Bpm.reset) s)

/-- Whole repairs in force on a stack, which MEM_STATUS SPARE_FREE counts down (15 Table 15.6). -/
def showSpares (s : State) : State :=
  (List.range 8).foldl (fun s st =>
    wf (A.memStatus st) 14 8 (64 - (s.mem.repairs.filter fun q => q.stack == st && !q.pending).length) s) s

/-- INTERLEAVE: the map, and its repairs in entry order with no copy: a repaired extent reads what its spare extent holds, and each
byte of storage keeps its value under the new map (15 R390, R391). -/
def takeInterleave (x : List Byte) (s : State) : State :=
  let words := fun (b : List Byte) => (List.range 192).map fun r => if b = [] then 0x11 else le b (4 * r) 4
  let rs := (addRepairs x (List.range (min 512 (ilNrep x))) s.mem.repairs).1
  let t := showSpares (putSect secInterleave 0 x { s with mem := { s.mem with repairs := rs } })
  if words (sect s secInterleave) = words x ∧ rs = s.mem.repairs then t else rekey s t

/-- A full image's sections, in manifest order (02 R49). A section that it may leave out leaves nothing. Buckets start at zero (06
R158), every demand estimate at 65 W, class and phase at 0 (16 R411, R413), and the turnstile periods restart (16 R420). -/
def takeImage (b : List Byte) (s : State) : State :=
  let x := imSect b
  let both := fun (t : Nat) (s : State) => takeSection t 1 (x t) (takeSection t 0 (x t) s)
  let s := if (imFind b secRetire).isSome then takeRetire (x secRetire) s else s
  let s := showPorts (putSect secPorts 0 (x secPorts) s)
  let s := resetPools (putSect secPools 0 (x secPools) (putSect secCarousel 0 (x secCarousel) s))
  let s := onFab (fun f => { f with bucket := [] }) (both secClasses s)
  let s := showGroups (both secSpans (both secGirderprog (both secRseprog s)))
  let s := both secTurnstile (both secPower (takeInterleave (x secInterleave) s))
  let s := { s with pc := { s.pc with est := [], kind := [], moved := [] }, tst := [] }
  sentinelPeriod (traceDropAll (useSections s))

/-! ### The end of validation, and of a commit -/

/-- Sections that a partial image carries into the inactive version. -/
def partialTypes (b : List Byte) : List Nat := ((List.range (imSections b)).map fun i => meType (imEntry b i)).filter partialType

/-- The fields of DK_IMG_STATUS that an accepted image sets. -/
def acceptedImage (b : List Byte) (s : State) : State :=
  wf A.dkImgStatus 25 24 (sgSlot b) (wf A.dkImgStatus 15 8 0 (wf A.dkImgStatus 4 4 (imKind b) s))

/-- A partial image is armed: its sections stand in the inactive version (02 R51). -/
def armPartial (b : List Byte) (s : State) : State :=
  let s := (partialTypes b).foldl (fun s t => takeSection t (otherEpoch s) (imSect b t) s) s
  wf A.dkImgStatus 3 0 imArmed { s with armed := some { digest := imDigestOf b, serial := imSerial b, types := partialTypes b } }

/-- VALIDATION_END: the checks of 02 Table 2.11 finish: the image is rejected; or, of a partial image, its sections are written
into the inactive version and STATE is ARMED; or, of a full image, the commit begins (02 R46, R49, R51). Writing a partial image holds
the CTRL instance for some core cycles of this period, and defers where the reconfiguration turnstile is spent (16 R422). -/
def execValidationEnd (cycles : Nat) (s : State) : Host.Outcome State Fault Refusal :=
  if imgState s = imValidating then
    let b := staged s
    match imageCheck (imgEnv s) (rn s A.dkImgLen) b with
    | some r => .next (imgReject r.code r.section_ r.detail (stagedRead s))
    | none =>
      if imKind b = 0 then .next (wf A.dkImgStatus 3 0 imCommitting (acceptedImage b (stagedRead s)))
      else if tstSpent s actReconfig 16 then .next s
      else .next (armPartial b (acceptedImage b (tstCharge actReconfig 16 cycles (stagedRead s))))
  else .next s

/-- The configuration in force: its serial and digest, STATE ACTIVE, and IMG_ACTIVE for a port. -/
def imgActive (port serial : Nat) (digest : List Byte) (s : State) : State :=
  raiseEvent { code := 0x0202, port := port, detail := serial }
    (wf A.dkImgStatus 3 0 imActive (putCfg (A.dkImgDigest 0) digest (wn64 (A.dkImgSerial 0) serial { s with armed := none })))

/-- COMMIT_END: the commit of a full image completes (02 R49). -/
def execCommitEnd (s : State) : Host.Outcome State Fault Refusal :=
  if imgState s = imCommitting then
    let b := staged s
    .next (imgActive s.img.port (imSerial b) (imDigestOf b) (takeImage b (stagedRead s)))
  else .next s

/-! ### Flips and retirements -/

/-- At a flip an armed partial image becomes current (02 R51); CUR has been inverted. -/
def applyArmed (s : State) : State :=
  match s.armed with
  | some a => showGroups (imgActive 0xFF a.serial (sha3 (imgDigest s ++ a.digest)) s)
  | none => s

/-- When the old version is retired, it takes every double-versioned section of the version in force, the program store's
slots among them (02 R52, 09 R254). -/
def copySections (s : State) : State := doubleTypes.foldl (fun s t => copySection t s) s

end Sys2Proof.Machine
end

