-- ==== Sys2Proof/Machine/Boot.lean ====
section
/-! DEFINITION. Firmware bundles (17 R433, R434), operator signers (R435), and identity and attestation (R436-R438). -/

namespace Sys2Proof.Machine
open Sys2Proof

def onMg (f : Mgmt → Mgmt) (s : State) : State := { s with mg := f s.mg }

/-- STAGE of DK_BOOT_STATUS takes a value. -/
def bootStage (st : Nat) (s : State) : State := wf A.dkBootStatus 3 0 st s

/-! ### Enrollment records (17 Table 17.4) -/

def erOp (b : List Byte) : Nat := le b 4 1
def erSlot (b : List Byte) : Nat := le b 5 1
def erSn (b : List Byte) : Nat := le b 8 8
def erDigest (b : List Byte) : List Byte := slice b 0x10 64
def erBody (b : List Byte) : List Byte := slice b 0 0x60
def erKey (b : List Byte) : List Byte := slice b 0x60 2592
def erSig (b : List Byte) : List Byte := slice b 0xA80 4627

/-- The record is laid out as Table 17.4 says. -/
def erFormat (b : List Byte) : Bool :=
  le b 0 4 == 0x524E4549 && (erOp b == 1 || erOp b == 2) && 1 ≤ erSlot b && erSlot b ≤ 3 && allZero (slice b 6 2) &&
    allZero (slice b 0x50 16) && allZero (slice b 0x1C93 13) && (erOp b == 1 || allZero (erDigest b))

/-- A signer slot. -/
def slotAt (o : Otp) (k : Nat) : SignerSlot := o.slots.getD k ⟨[], false, false⟩

/-- SIGNATURE is the vendor's over BODY, under slot 0 (R435, 02 R35). -/
def erSigned (o : Otp) (b : List Byte) : Bool :=
  let v := slotAt o 0
  v.enrolled && !v.revoked && v.digest == sha3 (erKey b) &&
    Config.mlDsaVerify (erKey b) (sha3 (erBody b)) (ascii "IMDOR-ENR") (erSig b)

/-- ECODE of a record: the first of FORMAT, SIGNATURE, SERIAL, and the slot's state that it breaks (DESIGN CHOICE: log entry 50). -/
def erCode (f : Fuses) (o : Otp) (b : List Byte) : Nat :=
  let k := slotAt o (erSlot b)
  if !erFormat b then 6
  else if !erSigned o b then 1
  else if erSn b ≠ f.moduleSn then 2
  else if erOp b = 1 then (if k.enrolled || k.revoked then 3 else 0)
  else if k.revoked then 3 else if !k.enrolled then 4 else 0

/-- The fuses after a record that is good. -/
def erFuse (b : List Byte) (o : Otp) : Otp :=
  let k := slotAt o (erSlot b)
  let k := if erOp b = 1 then { k with digest := erDigest b, enrolled := true } else { k with revoked := true }
  { o with slots := o.slots.set (erSlot b) k }

/-- An enrollment ends without a change of the fuses. -/
def enrollReject (port code : Nat) (s : State) : State :=
  raiseEvent { code := 0x1105, port := port, detail := code } (wf A.dkBootStatus 31 24 code s)

/-- The boot ROM, or the firmware that it has started, serves DK_BOOT_CTRL. -/
def bootServes (s : State) : Bool := stage s == stFwWait || stage s == stFwCheck || stage s == stRunning

/-- A write of DK_BOOT_CTRL by port p (17 Table 17.12). -/
def writeBootCtrl (p : GPort) (w : Word) (s : State) : State × Nat :=
  let op := fget w 3 0
  let took := wn A.dkBootCtrl op s
  if !holds s p 0 then (klDenied p A.dkBootCtrl s, stIgnored)
  else if op = 1 then
    if stage s = stFwWait then (onMg (fun m => { m with fwPort := p }) (bootStage stFwCheck took), stOk) else (s, stIgnored)
  else if op = 2 then
    if !bootServes s then (s, stIgnored)
    else if s.mg.enroll.isSome then (enrollReject p 5 took, stOk)
    else (onMg (fun m => { m with enroll := some (p.val, cfgBytes s (A.enrollArea 0) 7328) }) took, stOk)
  else (s, stIgnored)

/-- LOAD_FW: port p writes LOAD_FW to DK_BOOT_CTRL. -/
def execLoadFw (p : GPort) (s : State) : Host.Outcome State Fault Refusal :=
  .next (wrRow p A.dkBootCtrl 1 (writeBootCtrl p) s)

/-- What the checks of a firmware bundle use. -/
def fwEnv (s : State) : ImgEnv := { imgEnv s with otp := s.otp }

/-- FW_CHECK_END: the check of the staged bundle finishes: the firmware starts, or the bundle is rejected (R434). -/
def execFwCheckEnd (s : State) : Host.Outcome State Fault Refusal :=
  if stage s = stFwCheck then
    let b := staged s
    match headCheck true (fwEnv s) (rn s A.dkImgLen) b with
    | some r =>
      .next (raiseEvent { code := 0x1103, port := s.mg.fwPort, detail := r.code }
        (wf A.dkBootStatus 15 8 r.code (bootStage stFwWait (stagedRead s))))
    | none =>
      .next (raiseEvent { code := 0x1102, port := s.mg.fwPort, detail := imSerial b }
        { bootStage stRunning (stagedRead s) with fwDigest := imDigestOf b })
  else .next s

/-- ENROLL: port p writes ENROLL to DK_BOOT_CTRL. -/
def execEnroll (p : GPort) (s : State) : Host.Outcome State Fault Refusal :=
  .next (wrRow p A.dkBootCtrl 2 (writeBootCtrl p) s)

/-- ENROLL_END: the record has been verified: a slot is fused or revoked, or the record is rejected (R435). -/
def execEnrollEnd (s : State) : Host.Outcome State Fault Refusal :=
  match s.mg.enroll with
  | none => .next s
  | some (port, b) =>
    let s := onMg (fun m => { m with enroll := none }) s
    let c := erCode s.fuses s.otp b
    if c = 0 then
      .next (raiseEvent { code := 0x1104, port := port, detail := 2 ^ 8 * erSlot b + (erOp b - 1) }
        (wf A.dkBootStatus 31 24 0 { s with otp := erFuse b s.otp }))
    else .next (enrollReject port c s)

/-! ### Attestation (17 R438, Table 17.5) -/

/-- SLOT_STATE: bit 2k slot k is enrolled, bit 2k + 1 it is revoked. -/
def slotStates (o : Otp) : Nat :=
  ((List.range 4).map fun k => (b2n (slotAt o k).enrolled + 2 * b2n (slotAt o k).revoked) * 4 ^ k).sum

/-- Bytes 0x000-0x2FF of the report of port n. -/
def attFields (n : Nat) (s : State) : List Byte :=
  leBytes 4 0x54414D49 ++ leBytes 2 1 ++ leBytes 1 n ++ leBytes 1 (stage s) ++ leBytes 4 (rn s A.dkDeviceId) ++
    leBytes 4 (rn s A.dkUnitCounts) ++ leBytes 8 s.fuses.moduleSn ++ leBytes 8 (ftNs s) ++ cfgBytes s (A.dkAttNonce n 0) 64 ++
    slice s.fwDigest 0 64 ++ imgDigest s ++ leBytes 8 (rn64 s (A.dkImgSerial 0)) ++ leBytes 4 (rn s A.ksProtEpoch) ++
    leBytes 1 (imgState s) ++ leBytes 1 (rf s A.dkImgStatus 25 24) ++ leBytes 1 (slotStates s.otp) ++ leBytes 1 0 ++
    leBytes 8 s.prot.jrnlSeq ++ leBytes 8 s.step ++ cfgBytes s (A.ksProtLive 0) 64 ++ journalChain s s.prot.jrnlSeq ++
    cfgBytes s (A.rsePdigest 0 0) 64 ++ cfgBytes s (A.rsePdigest 1 0) 64 ++
    (List.range 4).flatMap fun k => slice (slotAt s.otp k).digest 0 64

/-- A write of DK_ATT_CTRL[n] by port p (17 Table 17.15). -/
def writeAttCtrl (p : GPort) (n : Nat) (w : Word) (s : State) : State × Nat :=
  if p.val ≠ n then (s, stIgnored)
  else if fget w 0 0 = 1 ∧ ¬rbit s (A.dkAttCtrl n) 0 then
    (onMg (fun m => { m with att := smPut [] m.att n (attFields n s) }) (wn (A.dkAttCtrl n) 1 s), stOk)
  else (s, stOk)

/-- ATTESTATION_GO: port p writes GO to the attestation unit n. -/
def execAttestationGo (p n : GPort) (s : State) : Host.Outcome State Fault Refusal :=
  .next (wrRow p (A.dkAttCtrl n) 1 (writeAttCtrl p n) s)

/-- ATTESTATION_DONE: unit n has signed its report and writes it. -/
def execAttestationDone (n : GPort) (s : State) : Host.Outcome State Fault Refusal :=
  match smGet [] s.mg.att n with
  | [] => .next s
  | b =>
    let sig := Config.mlDsaSign s.fuses.moduleSn (sha3 b) (ascii "IMDOR-ATT")
    .next (wn (A.dkAttCtrl n) 2 (putCfg (A.attReport (0x800 * n)) (b ++ slice sig 0 4627 ++ List.replicate 45 0)
      (onMg (fun m => { m with att := smPut [] m.att n.val [] }) s)))

end Sys2Proof.Machine
end

