-- ==== Sys2Proof/Machine/Queues.lean ====
section
/-! DEFINITION. Engine queues: pushes, dequeues with flag waits and breaks, completion (11 R296-R301; 12 R321-R334). -/

namespace Sys2Proof.Machine
open Sys2Proof

/-! ### Pushes (11 R296) -/

/-- Appends a command to the queue of engine e with the next push sequence (12 R324). -/
def pushCmd (p e : Nat) (b : List Byte) (s : State) : State :=
  let q := (getPier s p).pushSeq
  let s := onEng p e (fun g => { g with queue := g.queue ++ [{ bytes := b, seq := q }] }) s
  let s := onPier p (fun x => { x with pushSeq := (q + 1) % 2 ^ 32 }) s
  match (getPier s p).resident with
  | some x => traced { kind := 0, engine := eCore, pier := p, ctx := x, tag := cmTag b, seq := q } s
  | none => s

/-- Pushes the staging of a port, or stalls the core while the queue holds 256 commands. -/
def pushStaged (p e : Nat) (s : State) : State :=
  let b := slice (getEng s p e).staging 0 64
  if 256 ≤ (getEng s p e).queue.length then onPier p (fun x => { x with stalled := some (e, b) }) s
  else pushCmd p e b s

/-- Free slots of an engine's queue, as a load from its port returns them. -/
def freeSlots (s : State) (p e : Nat) : Nat := 256 - (getEng s p e).queue.length

/-- A store of the core fills the staging of an engine's port from an offset on. -/
def stagePort (p e off : Nat) (bs : List Byte) (s : State) : State :=
  onEng p e (fun g => { g with staging := patch (slice g.staging 0 64) off bs }) s

/-- A slot of a queue has freed: a push that waited for it is performed. -/
def unstall (p e : Nat) (s : State) : State :=
  match (getPier s p).stalled with
  | some (f, b) => if f = e then pushCmd p e b (onPier p (fun x => { x with stalled := none }) s) else s
  | none => s

/-! ### Free engines and waiters (11 R298, 12 R324) -/

/-- The packet is one that a dequeued TXE command has still to send. -/
def ofCommand (p src kind : Nat) (b : List Byte) : Bool := src == 700 + p && kind == 3 && !pkFlag b flResend

/-- Every packet of the TXE's dequeued commands has left. -/
def txeIdle (s : State) (p : Nat) : Bool :=
  !(s.fab.txWait.any fun w => ofCommand p w.src w.kind w.bytes) && !(s.fab.inject.any fun i => ofCommand p i.src i.kind i.bytes)

/-- Receives that are armed on a pier, landings among them. -/
def armedCount (s : State) (p : Nat) : Nat := (getPier s p).recvs.length + (getPier s p).lands.length

/-- A record has had everything up to a SEQ acknowledged (05 R122). -/
def ackedTo (s : State) (r q : Nat) : Bool := seqSub (srTxUna s r) q != 0 && decide (seqSub (srTxUna s r) q < 2 ^ 31)

/-- The records on which a collective that no tree carries sends: those of its ring, or of an ALLTOALL's table. -/
def Landing.txRecords (l : Landing) : List Nat :=
  if cdCarrier l.desc = 1 then [l.list.getD 2 0] else l.list.drop (cdNmem l.desc)

/-- A packet that pier p sent for a landing's command: on its tree, or on one of its records. -/
def ofLanding (p : Nat) (l : Landing) (src kind rcd : Nat) (b : List Byte) : Bool :=
  src == 700 + p && kind == 3 &&
    (if pkOp b = opColl then cdCarrier l.desc == 0 && cdTree l.desc == opTree b && cdCseq l.desc == opCseq b
     else l.txRecords.contains rcd)

/-- Packets of a tracked command await acknowledgement. -/
def awaitsAck (s : State) (p : Nat) (t : Tracked) : Bool :=
  match t.awaits with
  | .acked r q => srState s r == srOpen && !ackedTo s r q
  | .got r q _ _ => srState s r == srOpen && !ackedTo s r q
  | .coll id => (getPier s p).lands.any fun l => l.id == id &&
      ((s.fab.retx.any fun c => ofLanding p l c.src c.kind c.rcd c.bytes) || s.fab.txWait.any fun w => ofLanding p l w.src w.kind w.rcd w.bytes)

/-- Engine e is free to take a command: the TXE tracks at most 64 whose packets await acknowledgement. -/
def engineFree (s : State) (p e : Nat) (b : List Byte) : Bool :=
  let g := getEng s p e
  g.running.isNone &&
    (if e = eTxe then txeIdle s p && decide ((g.track.filter (awaitsAck s p)).length < 64)
     else if e = eRxe then cmOp b != 0x38 || le b 0x20 1 == 3 || decide (armedCount s p < 256)
     else true)

/-- The pier's engines may dequeue for context x: its function and its context's are ON, no switch has stopped them, no stop, no
copy of its stores, no break. -/
def mayDequeue (s : State) (p x : Nat) : Bool :=
  let q := getPier s p
  isOn s (fnPier p) && isOn s (fnSpan (p / 16)) && isOn s (fnCtx x) && (!q.switching || q.task.isSome) && !ctxStopped s x &&
    !beingCopied s p && !rbit s (A.pierBrkStatus p) 31

/-- The head of an engine's queue. -/
def headOf (s : State) (p e : Nat) : Option QCmd := (getEng s p e).queue.head?

/-- The counter on which the head of engine e waits. -/
def waitsOn (s : State) (p x e : Nat) : Option Nat :=
  match headOf s p e with
  | some h => if cmWaitEn h.bytes && engineFree s p e h.bytes && cmWaitf h.bytes < 64 then flagMap s x (cmWaitf h.bytes) else none
  | none => none

/-- Age of a push: smaller is older, modulo 2^32. -/
def pushAge (s : State) (p : Nat) (h : QCmd) : Nat := (h.seq + 2 ^ 32 - (getPier s p).pushSeq) % 2 ^ 32

/-- No waiter on counter k is older than that of engine e. -/
def oldestWaiter (s : State) (p x e k : Nat) : Bool :=
  match headOf s p e with
  | none => false
  | some h => (List.range 8).all fun f => match headOf s p f with
    | some g => f == e || waitsOn s p x f != some k || decide (pushAge s p h ≤ pushAge s p g)
    | none => true

/-! ### Breaks (12 R333) -/

/-- CAUSE for which the break unit stops the head of engine e. -/
def breakCause (s : State) (p x e : Nat) (b : List Byte) : Option Nat :=
  let c := rn s (A.pierBrkCfg p)
  let inMask := bit c e
  if bits c 21 16 ≠ x ∨ (getPier s p).untested = some e then none
  else if (getPier s p).stepBreak then some 3
  else if bit c 31 ∧ inMask ∧ cmTag b = rn s (A.pierBrkTag p) then some 1
  else if bit c 30 ∧ inMask ∧ rn s (A.pierBrkCount p) < rn s (A.pierBrkDeq p) + 1 then some 2
  else none

/-- The head of engine e breaks: nothing is dequeued or consumed. -/
def breakHead (p x e cause : Nat) (h : QCmd) (s : State) : State :=
  let tag := cmTag h.bytes
  let s := onPier p (fun q => { q with stepBreak := false }) (wn (A.pierBrkStatus p) (2 ^ 31 + 2 ^ 8 * e + cause) s)
  let s := traced { kind := 9, engine := e, pier := p, ctx := x, tag := tag, seq := h.seq } s
  raiseEvent { code := 0x0C03, ctx := x, unit := pierUnit p, detail := 2 ^ 32 * tag + 2 ^ 8 * e + cause } s

/-! ### Dequeue -/

/-- OP is listed for the engine (11 Table 11.5). -/
def opListed (e op : Nat) : Bool :=
  op == 1 || (if e < 4 then (0x10 ≤ op && op ≤ 0x16) || (0x40 ≤ op && op ≤ 0x7F)
    else if e = eDmi then op == 0x20 else if e = eDmo then op == 0x21
    else if e = eTxe then 0x30 ≤ op && op ≤ 0x34 else op == 0x38)

/-- Faults of the first four bytes: OP, CFLAGS, and the flags that the command names. -/
def headerFaults (s : State) (x e : Nat) (b : List Byte) : List Nat :=
  let bad := fun (en : Bool) (f : Nat) => f / 64 != 0 || (en && (flagMap s x f).isNone)
  breaks (!opListed e (cmOp b)) 0 ++ breaks (cmFlags b / 16 != 0) 1 ++ breaks (bad (cmWaitEn b) (cmWaitf b)) 2 ++
    breaks (bad (cmSigEn b) (cmSigf b)) 3

/-- Reads the collective descriptor that a COLL or MATMUL_SEND names, and translates its FLAG (11 R303, 12 R321). -/
def readDesc (p e : Nat) (r : RunCmd) (s : State) : State :=
  let op := cmOp r.bytes
  let a := if op = 0x32 then le r.bytes 0x10 8 else le r.bytes 0x38 8
  if ¬(op = 0x32 ∨ op = 0x11) ∨ !addrOk e a ∨ (isLocal a ∧ !localOk e (a % 2 ^ 24) 128) then s
  else
    match fetch (r.by_ p e) .rd a 128 s with
    | (some d, s) => onEng p e (fun g => { g with running := g.running.map fun r =>
        { r with desc := d, cflag := flagMap s r.ctx (cdFlag d) } }) s
    | (none, s) => finish p e csFaulted 0 s

/-- Engine e takes its head for context x, after the flag unit k has been consumed. -/
def takeHead (p x e : Nat) (h : QCmd) (s : State) : State :=
  let b := h.bytes
  let s := traced { kind := 1, engine := e, pier := p, ctx := x, tag := cmTag b, seq := h.seq } (wn (A.pierLastTag p e) (cmTag b) s)
  let s := if bits (rn s (A.pierBrkCfg p)) 21 16 = x ∧ bit (rn s (A.pierBrkCfg p)) e then
      wn (A.pierBrkDeq p) ((rn s (A.pierBrkDeq p) + 1) % 2 ^ 32) s
    else s
  let s := onPier p (fun q => { q with untested := if q.untested = some e then none else q.untested }) s
  let r : RunCmd := { bytes := b, seq := h.seq, ctx := x, sig := if cmSigEn b then flagMap s x (cmSigf b) else none,
                      seed := rn s (A.ctxSrSeed x), ver := curEpoch s, status := none }
  let s := onEng p e (fun g => { g with queue := g.queue.drop 1, waits := none, running := some r }) s
  let s := unstall p e s
  let s := if e < 4 then
      noteKind (p / 16) (liveWord s x 0x1004 % 256) (if rbit s (A.ctxPwrCfg x) 0 then cmTag b / 2 ^ 28 else 0) s
    else s
  match firstFault (headerFaults s x e b) with
  | some o => malformed p e o r s
  | none => readDesc p e r s

/-- Engine e tests its head, and takes it where the wait is satisfied and no break stops it. -/
def dequeueHead (p x e : Nat) (h : QCmd) (s : State) : State :=
  let b := h.bytes
  let f := cmWaitf b
  match waitsOn s p x e with
  | none => match breakCause s p x e b with
    | some c => breakHead p x e c h s
    | none => takeHead p x e h s
  | some k =>
    let s := if (getEng s p e).waits = some h.seq then s
      else traced { kind := 4, engine := e, pier := p, ctx := x, tag := cmTag b, seq := h.seq, flag := f, counter := k }
        (onEng p e (fun g => { g with waits := some h.seq }) s)
    let n := flagCount s p k
    if n = 0 ∨ !oldestWaiter s p x e k then s
    else match breakCause s p x e b with
      | some c => breakHead p x e c h s
      | none =>
        let s := wf (A.pierFlag p k) 7 0 (n - 1) s
        takeHead p x e h (traced { kind := 5, engine := e, pier := p, ctx := x, tag := cmTag b, seq := h.seq, flag := f,
                                   counter := k, count := n - 1 } s)

/-- Dequeues at an engine where its head may be taken. -/
def tryDequeue (p e : Nat) (s : State) : State :=
  match (getPier s p).resident, headOf s p e with
  | some x, some h => if mayDequeue s p x && engineFree s p e h.bytes then dequeueHead p x e h s else s
  | _, _ => s

/-- COMMAND_DEQUEUE: engine e of pier p meets its head command. -/
def execCommandDequeue (p : PierNo) (e : Fin 8) (s : State) : Host.Outcome State Fault Refusal := .next (tryDequeue p.val e.val s)

/-! ### Completion -/

/-- Status of a tracked command, once a stream has settled it: a send, or a GET whose request could not be delivered (11 R307; 05
R124, R127). -/
def sendStatus (s : State) (t : Tracked) : Option Nat :=
  match t.awaits with
  | .acked r q =>
    let st := srState s r
    if ackedTo s r q then some csOk
    else if st = srFenced then some csFenced else if st = srError then some csFaulted else none
  | .got r q _ _ =>
    let st := srState s r
    if ackedTo s r q then none
    else if st = srFenced then some csFenced else if st = srError then some csFaulted else none
  | .coll _ => none

/-- The first tracked command of a list that has settled. -/
def firstSettled (s : State) : List Tracked → Option (Tracked × Nat)
  | [] => none
  | t :: r => match sendStatus s t with
    | some x => some (t, x)
    | none => firstSettled s r

/-- COMMAND_COMPLETE: the command that an engine has finished completes, or the first tracked one that has settled. -/
def execCommandComplete (p : PierNo) (e : Fin 8) (s : State) : Host.Outcome State Fault Refusal :=
  let p := p.val
  let e := e.val
  match (getEng s p e).running with
  | some r => match r.status with
    | some st => .next (completeRunning p e r st r.detail s)
    | none => match firstSettled s (getEng s p e).track with
      | some (t, st) => .next (completeCmd p e t.run st 0 (onEng p e (fun g => { g with track := g.track.erase t }) s))
      | none => .next s
  | none => match firstSettled s (getEng s p e).track with
    | some (t, st) => .next (completeCmd p e t.run st 0 (onEng p e (fun g => { g with track := g.track.erase t }) s))
    | none => .next s

/-- SYNC: it does nothing but wait, signal and fence (11 R301). -/
def execSync (p : PierNo) (e : Fin 8) (s : State) : Host.Outcome State Fault Refusal :=
  .next (runOp p.val e.val 0x01 (fun _ r => noNumbers r.bytes ++ mustBeZero r.bytes 0x10 48) (fun _ s => finish p.val e.val csOk 0 s) s)

end Sys2Proof.Machine
end

