-- ==== Sys2Proof/Machine/Debug.lean ====
section
/-! DEFINITION. Flag writes, the Tightrope monitor, breaks and traces (12 R325, R330-R336). -/

namespace Sys2Proof.Machine
open Sys2Proof

/-! ### Flag writes (12 R325, Table 12.6) -/

/-- A write of PIER_FLAG of counter k of pier q by port p. -/
def writePierFlag (p : GPort) (q k : Nat) (w : Word) (s : State) : State × Nat :=
  let a := A.pierFlag q k
  if !holds s p (dieOf a) then (klDenied p a s, stIgnored) else (wf a 7 0 (fget w 7 0) s, stOk)

/-- PIER_FLAG_WRITE: port p writes counter k of pier q. -/
def execPierFlagWrite (p : GPort) (q : PierNo) (k : Fin 256) (w : Word) (s : State) : Host.Outcome State Fault Refusal :=
  .next (wrRow p (A.pierFlag q.val k.val) w (writePierFlag p q.val k.val) s)

/-! ### Tightrope (12 R330-R332) -/

/-- The head of engine e, where there is one, is a waiter on a counter whose count is 0. -/
def headBlocked (s : State) (p x e : Nat) : Bool :=
  match waitsOn s p x e with
  | some k => flagCount s p k == 0
  | none => false

/-- Engines whose heads wait. -/
def blockedEngines (s : State) (p x : Nat) : List Nat := (List.range 8).filter (headBlocked s p x)

/-- The pier is stuck for its resident context (R330); a stopped context's piers count as broken (18 R455). -/
def pierStuck (s : State) (p x : Nat) : Bool :=
  let q := getPier s p
  let blocked := blockedEngines s p x
  blocked != [] && (List.range 8).all (fun e => (headOf s p e).isNone || blocked.contains e) &&
    (List.range 8).all (fun e => (getEng s p e).running.isNone) && (getEng s p eTxe).track == [] && armedCount s p == 0 &&
    (q.task.isNone || q.stalled.isSome) && q.grant.isNone && !q.switching && !rbit s (A.pierBrkStatus p) 31 && !ctxStopped s x

/-- What PIER_TR_TAG and PIER_TR_FLAG latch of engine e. -/
def latchHead (p x : Nat) (s : State) (e : Nat) : State :=
  match headOf s p e, waitsOn s p x e with
  | some h, some k =>
    wn (A.pierTrTag p e) (cmTag h.bytes) (wn (A.pierTrFlag p e) (2 ^ 16 * k + 2 ^ 8 * cmWaitf h.bytes) s)
  | _, _ => wn (A.pierTrTag p e) 0 (wn (A.pierTrFlag p e) 0 s)

/-- The monitor fires for pier p of context x. -/
def fireTightrope (p x : Nat) (s : State) : State :=
  let mask := (blockedEngines s p x).foldl (fun m e => m + 2 ^ e) 0
  let s := (List.range 8).foldl (latchHead p x) s
  let s := wn (A.pierTrStatus p) (2 ^ 31 + 2 ^ 16 * x + mask) s
  let s := traced { kind := 10, engine := eCore, pier := p, ctx := x, detail := mask } s
  raiseFault { code := 0x0C02, cls := .ctxf, ctx := x, unit := pierUnit p, detail := mask } s

/-- TIGHTROPE: pier q has been stuck for 2^WEXP core cycles. -/
def execTightrope (q : PierNo) (s : State) : Host.Outcome State Fault Refusal :=
  match (getPier s q.val).resident with
  | none => .next s
  | some x =>
    .next (if rbit s (A.pierTrCfg q.val) 31 && !rbit s (A.pierTrStatus q.val) 31 && pierStuck s q.val x then
      fireTightrope q.val x s else s)

/-! ### Breaks (12 R334) -/

/-- The pier goes on after a break: its head that broke is dequeued untested. -/
def resumePier (q : Nat) (again : Bool) (s : State) : State :=
  let e := rf s (A.pierBrkStatus q) 10 8
  let s := onPier q (fun x => { x with untested := some e, stepBreak := again }) (wf (A.pierBrkStatus q) 31 31 0 s)
  tryDequeue q e s

/-- A write of PIER_BRK_CTRL of pier q by port p. -/
def writeBrkCtrl (p : GPort) (q : Nat) (w : Word) (s : State) : State × Nat :=
  let a := A.pierBrkCtrl q
  let op := fget w 3 0
  if !holds s p (dieOf a) then (klDenied p a s, stIgnored)
  else if !rbit s (A.pierBrkStatus q) 31 || (op != 1 && op != 2) then (s, stIgnored)
  else (resumePier q (op == 2) (wf a 3 0 op s), stOk)

/-- BREAK_RESUME: port p writes RESUME to PIER_BRK_CTRL of pier q. -/
def execBreakResume (p : GPort) (q : PierNo) (s : State) : Host.Outcome State Fault Refusal :=
  .next (wrRow p (A.pierBrkCtrl q.val) 1 (writeBrkCtrl p q.val) s)

/-- BREAK_STEP: port p writes STEP to PIER_BRK_CTRL of pier q. -/
def execBreakStep (p : GPort) (q : PierNo) (s : State) : Host.Outcome State Fault Refusal :=
  .next (wrRow p (A.pierBrkCtrl q.val) 2 (writeBrkCtrl p q.val) s)

/-! ### Traces (12 R335, R336) -/

/-- The session starts: WPTR, DROPPED and FULL clear, and no earlier record waits. -/
def startTrace (i : Nat) (s : State) : State :=
  let s := wn (A.trcDropped i) 0 (wn64 (A.trcWptr i 0) 0 (wf (A.trcEn i) 2 2 0 s))
  { s with trc := s.trc.filter fun r => r.1 != i }

/-- A write of the first word of DBG_TRC[i] by port p. -/
def writeTrcEn (p : GPort) (i : Nat) (w : Word) (s : State) : State × Nat :=
  let a := A.trcEn i
  let on := fget w 0 0 = 1
  let size := fget w 12 8
  if !holds s p (dieOf a) then (klDenied p a s, stIgnored)
  else if on ∧ (size < 8 ∨ 26 < size) then (s, stIgnored)
  else
    let s := wf a 12 8 size (wf a 1 0 (fget w 1 0) s)
    (if on then startTrace i s else s, stOk)

/-- TRACE_ENABLE: port p writes DBG_TRC[i].EN. -/
def execTraceEnable (p : GPort) (i : Fin 16) (w : Word) (s : State) : Host.Outcome State Fault Refusal :=
  .next (wrRow p (A.trcEn i.val) w (writeTrcEn p i.val) s)

/-- Writes a record to the ring of session i, which stops where it is full and does not wrap. -/
def writeTrace (i : Nat) (b : List Byte) (s : State) : State :=
  let n := rn64 s (A.trcWptr i 0)
  let size := 2 ^ rf s (A.trcEn i) 12 8
  let s := wn64 (A.trcWptr i 0) ((n + 1) % 2 ^ 64) (hbmWr (rn64 s (A.trcBase i 0) + 32 * (n % size)) b s)
  if rbit s (A.trcEn i) 1 || n + 1 != size then s
  else raiseEvent { code := 0x0C04, detail := i } (wf (A.trcEn i) 2 2 1 (wf (A.trcEn i) 0 0 0 s))

/-- TRACE_RECORD_WRITE: the oldest record that waits for session i is written, holding its span's crossbar for cycles core
cycles, or is dropped where the session has stopped or the telemetry budget of its pier's span is spent. -/
def execTraceRecordWrite (i : Fin 16) (cycles : Nat) (s : State) : Host.Outcome State Fault Refusal :=
  match s.trc.find? fun r => r.1 == i.val with
  | none => .next s
  | some r =>
    let d := 8 + le r.2 0x0A 1 / 16
    let s := { s with trc := s.trc.erase r }
    if !rbit s (A.trcEn i.val) 0 || tstSpent s actTelemetry d then .next (traceDrop i.val s)
    else .next (writeTrace i.val r.2 (tstCharge actTelemetry d cycles s))

end Sys2Proof.Machine
end

