-- ==== Sys2Proof/Machine/Zrun.lean ====
section
/-! DEFINITION. Zero-run form (13 R338-R343). -/

namespace Sys2Proof.Machine
open Sys2Proof

/-- Cuts a list into pieces of n; fuel bounds the pieces. -/
def chop {α : Type} (n : Nat) : Nat → List α → List (List α)
  | 0, _ => []
  | _ + 1, [] => []
  | k + 1, l => l.take n :: chop n k (l.drop n)

/-- ZR of a FMT byte, its format code, and that bits [6:5] are 0. -/
def zrBit (f : Nat) : Bool := bit f 7
def zrCode (f : Nat) : Nat := f % 32
def fmtByteOk (f : Nat) : Bool := bits f 6 5 == 0 && fmtKnown (zrCode f)

/-- Length of a block of len elements: dense, or with nent entries (13 Table 13.2). -/
def zrLen (c len nent : Nat) (dense : Bool) : Nat :=
  roundUp (4 + if dense then elemBytes c len else (nent + 1) / 2 + elemBytes c nent) 4

/-- Lengths of the blocks of a row of n elements. -/
def zrBlocks (n : Nat) : List Nat := (List.range ((n + 255) / 256)).map fun b => min 256 (n - 256 * b)

/-- Bytes that the region of a row of n elements must hold (13 R340). -/
def zrCapacity (c n : Nat) : Nat := ((zrBlocks n).map fun l => zrLen c l 0 true).sum

/-- Places entries: none where one passes the end of the block (13 R341). -/
def zrPlace (len : Nat) : List (Nat × Nat) → Nat → Option (List (Nat × Nat))
  | [], _ => some []
  | (k, v) :: r, p => if len ≤ p + k then none else (zrPlace len r (p + k + 1)).map ((p + k, v) :: ·)

/-- A block of len elements at the start of bytes: each element's pattern where it is present, and the block's length; none where
it fails a check (13 R339-R343). -/
def zrDecode (c len : Nat) (b : List Byte) : Option (List (Option Nat) × Nat) :=
  let h := le b 0 4
  let dense := bit h 31
  let nent := bits h 24 16
  let n := bits h 15 0
  if bits h 30 25 ≠ 0 ∨ len < nent ∨ (dense ∧ nent ≠ 0) ∨ n ≠ zrLen c len nent dense ∨ b.length < n then none
  else if dense then some ((unpackElems c (b.drop 4) len).map some, n)
  else
    let ks := unpackElems fcU4 (b.drop 4) nent
    let vs := unpackElems c (b.drop (4 + (nent + 1) / 2)) nent
    match zrPlace len (ks.zip vs) 0 with
    | none => none
    | some es => some ((List.range len).map fun p => (es.find? fun e => e.1 == p).map Prod.snd, n)

/-- The blocks of a row in its region: their elements, or the first block that fails. -/
def zrRow (c : Nat) : List Nat → Nat → List Byte → Except Nat (List (Option Nat))
  | [], _, _ => .ok []
  | len :: r, k, b =>
    match zrDecode c len b with
    | none => .error k
    | some (xs, n) => match zrRow c r (k + 1) (b.drop n) with
      | .ok ys => .ok (xs ++ ys)
      | .error j => .error j

/-- Entries of a block: counts and patterns, given what must be stored (13 R342). -/
def zrEntries : List (Nat × Bool) → Nat → List (Nat × Nat)
  | [], _ => []
  | (x, must) :: r, run => if !must && decide (run < 15) then zrEntries r (run + 1) else (run, x) :: zrEntries r 0

/-- Drops what follows the last element that must be stored. -/
def zrTrim (l : List (Nat × Bool)) : List (Nat × Bool) := (l.reverse.dropWhile fun e => !e.2).reverse

/-- The canonical block of elements; those marked are stored whatever their pattern (13 R342). -/
def zrEncode (c : Nat) (xs : List (Nat × Bool)) : List Byte :=
  let es := zrEntries (zrTrim (xs.map fun x => (x.1, x.2 || x.1 != 0))) 0
  let len := xs.length
  let enc := zrLen c len es.length false
  let dns := zrLen c len 0 true
  if dns ≤ enc then slice (leBytes 4 (2 ^ 31 + dns) ++ packElems c (xs.map Prod.fst)) 0 dns
  else slice (leBytes 4 (2 ^ 16 * es.length + enc) ++ packElems fcU4 (es.map Prod.fst) ++ packElems c (es.map Prod.snd)) 0 enc

/-- The zero-run form of a row; the elements of an MX block of scale 0xFF are all stored. -/
def zrWrite (c : Nat) (xs scales : List Nat) : List Byte :=
  (chop 256 (xs.length / 256 + 1) (xs.zipIdx.map fun y => (y.1, scales.getD (y.2 / 32) 0 == 0xFF))).flatMap (zrEncode c)

end Sys2Proof.Machine
end

