-- ==== Sys2Proof/Machine/Matrix.lean ====
section
/-! DEFINITION. Matrix products on a girder (07 R175-R201; 11 R302; 13 R338-R344; 18 R450, R459). -/

namespace Sys2Proof.Machine
open Sys2Proof

/-! ### Operand pairs (07 Table 7.4) -/

/-- Chunk width of a pair of formats that a rivet accepts, and that it accumulates in S32. -/
def pairOf (a b : Nat) : Option (Nat × Bool) :=
  let both := fun (l : List Nat) => l.contains a && l.contains b
  if both [fcBf16, fcFp16] then some (2, false)
  else if both [fcFp32] then some (2, false)
  else if both [fcE4m3, fcE5m2] then some (4, false)
  else if both [fcMx8e4m3, fcMx8e5m2, fcMx6e3m2, fcMx6e2m3] then some (4, false)
  else if both [fcMxInt8] then some (4, false)
  else if both [fcE2m1] then some (8, false)
  else if both [fcMxFp4] then some (8, false)
  else if both [fcS8, fcU8] then some (4, true)
  else if both [fcS4, fcU4] then some (8, true)
  else none

/-! ### Fields of MATMUL (11 Table 11.6) -/

def mmA (b : List Byte) : Nat := le b 0x10 4
def mmB (b : List Byte) : Nat := le b 0x14 4
def mmC (b : List Byte) : Nat := le b 0x18 4
def mmSa (b : List Byte) : Nat := le b 0x1C 4
def mmSb (b : List Byte) : Nat := le b 0x20 4
def mmM (b : List Byte) : Nat := le b 0x24 2
def mmN (b : List Byte) : Nat := le b 0x26 2
def mmK (b : List Byte) : Nat := le b 0x28 2
def mmLda (b : List Byte) : Nat := 16 * le b 0x2A 2
def mmLdb (b : List Byte) : Nat := 16 * le b 0x2C 2
def mmLdc (b : List Byte) : Nat := 16 * le b 0x2E 2
def mmAccum (b : List Byte) : Bool := bit (le b 0x30 2) 0
def mmBt (b : List Byte) : Bool := bit (le b 0x30 2) 1
def mmNostore (b : List Byte) : Bool := bit (le b 0x30 2) 2
def mmTid (b : List Byte) : Nat := le b 0x34 4

/-- Bytes of a row of n elements: its zero-run region, or its packed elements. -/
def rowBytes (f n : Nat) : Nat := if zrBit f then zrCapacity (zrCode f) n else elemBytes (zrCode f) n

/-- Bytes of a row of C; scale bytes of an MX format follow its elements (DESIGN CHOICE: log entry 19). -/
def rowBytesC (f n : Nat) : Nat := rowBytes f n + scaleBytes (zrCode f) n

/-- Bytes from the first row's start to the last row's end. -/
def spanBytes (rows stride row : Nat) : Nat := (rows - 1) * stride + row

/-- The command reads or writes C. -/
def mmUsesC (b : List Byte) : Bool := mmAccum b || !mmNostore b

/-- Faulty format bytes: of a MATMUL, or of a MATMUL_SEND, whose C takes no zero-run form (13 Table 13.1). -/
def mmFormats (send : Bool) (b : List Byte) : List Nat :=
  let fa := cmFa b
  let fb := cmFb b
  let fc := cmFc b
  let ok := fmtByteOk fa && fmtByteOk fb
  let pair := pairOf (zrCode fa) (zrCode fb)
  let fp32 : Bool := zrCode fa = fcFp32 ∧ zrCode fb = fcFp32
  breaks (!fmtByteOk fa || (zrBit fa && fp32)) 9 ++
  breaks (!fmtByteOk fb || (zrBit fb && (fp32 || zrBit fa || !mmBt b)) || (ok && pair.isNone)) 10 ++
  breaks (!fmtByteOk fc || (zrBit fc && (send || mmAccum b || fp32)) ||
    (match pair with | some (_, true) => zrCode fc != fcS32 | _ => false)) 11

/-- Faulty fields of a MATMUL body and its formats. -/
def mmFaults (g : Nat) (send : Bool) (b : List Byte) : List Nat :=
  let fa := cmFa b
  let fb := cmFb b
  let fc := cmFc b
  let ca := zrCode fa
  let cb := zrCode fb
  let m := mmM b
  let n := mmN b
  let k := mmK b
  let kc := match pairOf ca cb with
    | some (w, _) => if isMx ca then 32 else w
    | none => 1
  let kb := (k + 31) / 32
  let bn := if mmBt b then n else k
  let bRow := rowBytes fb (if mmBt b then k else n)
  numctlFault b 10 ++ mmFormats send b ++
  localField g b 0x10 (spanBytes m (mmLda b) (rowBytes fa k)) 0x2A ++
  localField g b 0x14 (spanBytes bn (mmLdb b) bRow) 0x2C ++
  (if mmUsesC b then localField g b 0x18 (spanBytes m (mmLdc b) (rowBytesC fc n)) 0x2E else []) ++
  (if isMx ca then localField g b 0x1C (m * kb) 0x28 else []) ++
  (if isMx cb then localField g b 0x20 (n * kb) 0x28 else []) ++
  breaks (m = 0) 0x24 ++ breaks (n = 0) 0x26 ++ breaks (k = 0 || k % kc != 0) 0x28 ++
  breaks (zrBit fa && mmLda b < rowBytes fa k) 0x2A ++ breaks (zrBit fb && mmLdb b < rowBytes fb k) 0x2C ++
  breaks (zrBit fc && mmLdc b < rowBytes fc n) 0x2E ++
  breaks (le b 0x30 2 / 8 != 0) 0x30 ++ mustBeZero b 0x32 2 ++ (if send then [] else mustBeZero b 0x38 8)

/-! ### Operands -/

/-- Elements of an operand row: none where absent. -/
abbrev OpRow := List (Option Val)

/-- The value of a pattern, with the scale byte of its block for an MX format. -/
def scaledVal (c p x : Nat) : Val := if isMx c then scaledElem c p x else decodeElem c p

/-- A row of n elements along the summation axis, or the zero-run block that fails. -/
def sumRow (f n : Nat) (bytes : List Byte) (scale : Nat → Nat) : Except Nat OpRow :=
  let c := zrCode f
  let pats := if zrBit f then zrRow c (zrBlocks n) 0 bytes else .ok ((unpackElems c bytes n).map some)
  match pats with
  | .ok ps => .ok (ps.zipIdx.map fun y => y.1.map fun v => scaledVal c v (scale (y.2 / 32)))
  | .error j => .error j

/-- Scale byte of a local address. -/
def scaleAt (s : State) (x p a : Nat) : Nat := ofLe (ctxLocRd s x p a 1)

/-- Row i of A. -/
def rowA (s : State) (x p : Nat) (b : List Byte) (i : Nat) : Except Nat OpRow :=
  let f := cmFa b
  let kb := (mmK b + 31) / 32
  let n := if zrBit f then mmLda b else elemBytes (zrCode f) (mmK b)
  sumRow f (mmK b) (ctxLocRd s x p (mmA b + mmLda b * i) n) fun j => scaleAt s x p (mmSa b + i * kb + j)

/-- Column j of B. -/
def colB (s : State) (x p : Nat) (b : List Byte) (j : Nat) : Except Nat OpRow :=
  let f := cmFb b
  let c := zrCode f
  let kb := (mmK b + 31) / 32
  if mmBt b then
    let n := if zrBit f then mmLdb b else elemBytes c (mmK b)
    sumRow f (mmK b) (ctxLocRd s x p (mmB b + mmLdb b * j) n) fun i => scaleAt s x p (mmSb b + j * kb + i)
  else
    .ok ((List.range (mmK b)).map fun k =>
      let row := ctxLocRd s x p (mmB b + mmLdb b * k) (elemBytes c (mmN b))
      some (scaledVal c (elemAt c row j) (scaleAt s x p (mmSb b + k / 32 * mmN b + j))))

/-! ### Products (07 R182-R185) -/

/-- hi and lo of an FP32 value (07 R184); lo is none where x is infinite or NaN. -/
def split32 (x : Val) : Val × Option Val :=
  match x with
  | .num _ _ _ =>
    let hi := decodeFp fmtFp32 (2 ^ 16 * (fp32Of x / 2 ^ 16))
    let lo := match sumVals [x, hi.flip] with
      | .num s m e => decodeFp fmtBf16 (signBit fmtBf16 s + roundMag fmtBf16 m e false .rne)
      | v => v
    (hi, some lo)
  | v => (v, none)

/-- The terms of one k (07 Table 7.5, R185). -/
def termsOf (fp32 : Bool) (pass : Nat) (a b : Val) : List Val :=
  if !fp32 then [mulVal a b]
  else
    let x := split32 a
    let y := split32 b
    match x.2, y.2 with
    | some la, some lb =>
      mulVal x.1 y.1 :: ((if 1 ≤ pass then [mulVal x.1 lb] else []) ++ (if 2 ≤ pass then [mulVal la y.1] else []))
    | _, _ => [mulVal x.1 y.1]

/-- Adds a chunk to an accumulator (07 R180, R182, R183): FP32 patterns, or S32 modulo 2^32. -/
def addChunk (int : Bool) (acc : Option Nat) (ts : List Val) : Option Nat :=
  if ts = [] then acc
  else if int then some (ofInt 32 ((acc.getD 0 : Nat) + (ts.map (Val.units 0)).sum))
  else some (fp32Of (sumVals (ts ++ (acc.map val32).toList)))

/-- The chunks of two rows in ascending k; elements that are absent make no term (13 R344). -/
def dotRow (int fp32 : Bool) (pass kc : Nat) (acc : Option Nat) (a b : OpRow) : Option Nat :=
  (chop kc (a.length + 1) (a.zip b)).foldl (fun acc ks =>
    addChunk int acc (ks.flatMap fun y => match y.1, y.2 with
      | some u, some v => termsOf fp32 pass u v
      | _, _ => [])) acc

/-- Some input of an element is a NaN. -/
def dotNan (a b : OpRow) : Bool :=
  (a.zip b).any fun y => match y.1, y.2 with
    | some u, some v => u.isNan || v.isNan
    | _, _ => false

/-! ### Conversion of a row (07 R186-R193, R201) -/

/-- How an element of a command rounds (07 R188). -/
def rndOf (numctl job tid seed idx : Nat) : Rnd := if bit numctl 2 then .sr (srBits job tid idx seed) else .rne

/-- A row of values converted to a format: patterns, scale bytes, and the productions of its elements, the first of which has the
linear index idx. -/
def convertRow (c numctl job tid seed idx : Nat) (vs : List Val) : List Nat × List Nat × List (Nat × Nat) :=
  let rnd := fun i => rndOf numctl job tid seed i
  if isMx c then
    let bs := (chop 32 (vs.length / 32 + 1) vs).zipIdx.map fun y =>
      let k := y.1.length
      let q := mxQuantize c (y.1 ++ List.replicate (32 - k) (Val.ofInt 0)) fun i => rnd (idx + 32 * y.2 + i)
      (q.2.1.take k, q.1, (q.2.2.map fun i => (idx + 32 * y.2 + i, cMxBlock)).toList)
    (bs.flatMap fun y => y.1, bs.map fun y => y.2.1, bs.flatMap fun y => y.2.2)
  else
    let xs := vs.zipIdx.map fun y => convert c y.1 (rnd (idx + y.2)) (bit numctl 3)
    (xs.map Prod.fst, [], xs.zipIdx.filterMap fun y => y.1.2.map fun cause => (idx + y.2, cause))

/-- One production for each element, the conversion's before the arithmetic's. -/
def mergeProds (arith conv : List (Nat × Nat)) : List (Nat × Nat) :=
  sortBy (fun a b => Nat.ble a.1 b.1) (conv ++ arith.filter fun y => !conv.any fun z => z.1 == y.1)

/-- Raises productions of a girder's command. -/
def girderNans (p g : Nat) (r : RunCmd) (ps : List (Nat × Nat)) (s : State) : State :=
  nansProduced (ps.map fun y => { ctx := r.ctx, tag := cmTag r.bytes, unit := pierUnit p, sub := g, cause := y.2, idx := y.1 }) s

/-- The element bytes of a converted row. -/
def rowOut (f : Nat) (pats scales : List Nat) : List Byte :=
  if zrBit f then zrWrite (zrCode f) pats scales else packElems (zrCode f) pats

/-- Writes a converted row at a local address: its elements, and its scale bytes past the room of its elements (DESIGN CHOICE: log entry 19). -/
def putRow (x p a f : Nat) (pats scales : List Nat) (s : State) : State :=
  let s := ctxLocWr x p a (rowOut f pats scales) s
  if scales = [] then s else ctxLocWr x p (a + rowBytes f pats.length) (scales.map (BitVec.ofNat 8)) s

/-! ### The product -/

/-- A finished row of C: patterns, scale bytes, productions. -/
structure MmRow where
  pats : List Nat
  scales : List Nat
  prods : List (Nat × Nat)

/-- Row i of C from its rows of operands. -/
def mmRow (s : State) (p : Nat) (r : RunCmd) (cols : List OpRow) (i : Nat) (a : OpRow) : MmRow :=
  let b := r.bytes
  let c := zrCode (cmFc b)
  let n := mmN b
  let (kc, int) := (pairOf (zrCode (cmFa b)) (zrCode (cmFb b))).getD (1, false)
  let fp32 : Bool := zrCode (cmFa b) = fcFp32
  let bytes := if mmAccum b then ctxLocRd s r.ctx p (mmC b + mmLdc b * i) (rowBytesC (cmFc b) n) else []
  let init := if mmAccum b then
      (decodeVals c bytes (bytes.drop (elemBytes c n)) n).map fun v => some (if int then ofInt 32 (v.units 0) else fp32Of v)
    else List.replicate n none
  let accs := (cols.zip init).map fun y => dotRow int fp32 (cmNumctl b % 4) kc y.2 a y.1
  let vs := accs.map fun x => if int then Val.ofInt (toInt 32 (x.getD 0)) else val32 (x.getD 0)
  let inval := ((cols.zip init).zip accs).zipIdx.filterMap fun y =>
    let acc := y.1.2
    let nanIn := dotNan a y.1.1.1 || (match y.1.1.2 with | some v => !int && (val32 v).isNan | none => false)
    if !int && (val32 (acc.getD 0)).isNan && !nanIn then some (i * n + y.2, cInvalid) else none
  let q := convertRow c (cmNumctl b) (ctxJob s r.ctx) (mmTid b) r.seed (i * n) vs
  { pats := q.1, scales := q.2.1, prods := mergeProds inval q.2.2 }

/-- Productions in the order of the logical tiling, output blocks of 32 rows and 64 columns (11 R302), for a product of n columns. -/
def tiled (n : Nat) (ps : List (Nat × Nat)) : List (Nat × Nat) :=
  let key := fun (y : Nat × Nat) => 2 ^ 32 * (y.1 / n / 32 * ((n + 63) / 64) + y.1 % n / 64) + y.1
  sortBy (fun a b => Nat.ble (key a) (key b)) ps

/-- The first row and block that fail, in row order. -/
def firstBad {α : Type} : List (Except Nat α) → Nat → Option (Nat × Nat)
  | [], _ => none
  | .error j :: _, i => some (i, j)
  | .ok _ :: r, i => firstBad r (i + 1)

/-- The rows that were read. -/
def okRows {α : Type} (l : List (Except Nat α)) : List α := l.filterMap fun x => match x with
  | .ok a => some a
  | .error _ => none

/-- Writes rows of C that are undefined: free bytes. -/
def freeRows (p : Nat) (r : RunCmd) (rows : List Nat) (s : State) : State :=
  let b := r.bytes
  if mmNostore b then s
  else rows.foldl (fun s i =>
    let n := rowBytesC (cmFc b) (mmN b)
    ctxLocWr r.ctx p (mmC b + mmLdc b * i) (leBytes n (freeBits (8 * n) s)) (tookFree s)) s

/-- Writes finished rows of C from row 0. -/
def putRows (p : Nat) (r : RunCmd) (rows : List MmRow) (s : State) : State :=
  let b := r.bytes
  if mmNostore b then s
  else rows.zipIdx.foldl (fun (s : State) (y : MmRow × Nat) =>
    putRow r.ctx p (mmC b + mmLdc b * y.2) (cmFc b) y.1.pats y.1.scales s) s

/-- What a girder's own checks find faults its command (18 R450, R459). -/
def errFaults : PierErr → Bool
  | .none => false
  | .corrected _ => false
  | .sram _ => true
  | .residue _ => true

/-- The CORR record of a word of a pier's or girder's store that was corrected and written back (18 R449). -/
def pierCorr (p g : Nat) (r : RunCmd) (x : PierErr) (s : State) : State :=
  match x with
  | .corrected a =>
    raiseFault { code := 0x120B, cls := .corr, ctx := r.ctx, unit := pierUnit p, tag := cmTag r.bytes, detail := a.toNat, sub := subOf g,
                 engine := g } s
  | _ => s

/-- A girder's own checks fault its command (18 R450, R459). -/
def checkFault (p g : Nat) (r : RunCmd) (x : PierErr) (s : State) : State :=
  match x with
  | .none => s
  | .corrected _ => s
  | .sram a => byFault (r.by_ p g) 0x120C a.toNat s
  | .residue v => byFault (r.by_ p g) 0x1201 (2 ^ 32 * cmTag r.bytes + 2 ^ 8 * v.val) (rivetMismatch p g v.val s)

/-- A matrix command that a girder's own checks fault: FAULTED, with its output rows undefined. -/
def girderErr (p g : Nat) (r : RunCmd) (x : PierErr) (s : State) : State :=
  finish p g csFaulted 0 (checkFault p g r x (freeRows p r (List.range (mmM r.bytes)) s))

/-- The matrix product: the finished rows, and whether it completed; a zero-run block that fails stops it at the output block row
that needs it (13 R343). -/
def matProduct (p g : Nat) (r : RunCmd) (s : State) : List MmRow × Bool × State :=
  let b := r.bytes
  let as_ := (List.range (mmM b)).map (rowA s r.ctx p b)
  let bs := (List.range (mmN b)).map (colB s r.ctx p b)
  let bad := match firstBad bs 0, firstBad as_ 0 with
    | some y, _ => some (y, 0)
    | none, some y => some (y, y.1 / 32)
    | none, none => none
  let good := match bad with
    | some (_, br) => 32 * br
    | none => mmM b
  let cols := okRows bs
  let rows := ((okRows as_).take good).zipIdx.map fun y => mmRow s p r cols y.2 y.1
  let s := girderNans p g r (tiled (mmN b) (rows.flatMap MmRow.prods)) (putRows p r rows s)
  match bad with
  | none => (rows, true, finish p g csOk 0 s)
  | some ((row, blk), br) =>
    let s := freeRows p r ((List.range (mmM b)).filter fun i => i / 32 == br) s
    (rows, false, finish p g csFaulted 0 (byFault (r.by_ p g) 0x0D02 (2 ^ 32 * cmTag b + 2 ^ 16 * row + blk) s))

/-- MATMUL: GEg computes C = A·B or C += A·B. x is what the girder's own checks find. -/
def execMatmul (p : PierNo) (g : GirdNo) (x : PierErr) (s : State) : Host.Outcome State Fault Refusal :=
  .next (runOp p.val g.val 0x10 (fun _ r => mmFaults g.val false r.bytes) (fun r s =>
    if errFaults x then girderErr p.val g.val r x s else (matProduct p.val g.val r (pierCorr p.val g.val r x s)).2.2) s)

end Sys2Proof.Machine
end

