-- ==== Sys2Proof/Machine/Vector.lean ====
section
/-! DEFINITION. The element operations of a girder's vector unit: CONVERT, ELEMWISE, SOFTMAX, NORM, LREDUCE (07 R194-R196; 11
R304; 13 R338-R342). Values are FP32 patterns. -/

namespace Sys2Proof.Machine
open Sys2Proof

/-! ### Arrays -/

/-- Bytes of an array of n elements: its element plane, or zero-run row, and its scale plane (DESIGN CHOICE: log entry 19). -/
def arrayBytes (f n : Nat) : Nat := rowBytesC f n

/-- n elements at a local address, converted to FP32 patterns. -/
def readArray (s : State) (x p a f n : Nat) : List Nat :=
  let c := zrCode f
  let bytes := ctxLocRd s x p a (arrayBytes f n)
  (decodeVals c bytes (bytes.drop (elemBytes c n)) n).map fp32Of

/-- FP32 words at a local address. -/
def readWords (s : State) (x p a n : Nat) : List Nat := readArray s x p a fcFp32 n

/-- What an operation computes for each element of its destination: the result, and that an input of it was a NaN. -/
structure Elem where
  val : Nat
  nanIn : Bool
  deriving DecidableEq, Repr

def isNan32 (v : Nat) : Bool := (val32 v).isNan

/-- An element of given inputs. -/
def elemOf (v : Nat) (ins : List Nat) : Elem := { val := v, nanIn := ins.any isNan32 }

/-- Converts an operation's elements to FMT_C, writes them at a local address, and raises their productions. -/
def writeArray (p g : Nat) (r : RunCmd) (a tid : Nat) (es : List Elem) (s : State) : State :=
  let b := r.bytes
  let q := convertRow (zrCode (cmFc b)) (cmNumctl b) (ctxJob s r.ctx) tid r.seed 0 (es.map fun e => val32 e.val)
  let arith := es.zipIdx.filterMap fun y => if isNan32 y.1.val && !y.1.nanIn then some (y.2, cInvalid) else none
  girderNans p g r (mergeProds arith q.2.2) (putRow r.ctx p a (cmFc b) q.1 q.2.1 s)

/-- Runs a vector command: the elements that f gives stand at D, the field at offset d; an SRAM word that cannot be corrected
faults it, and its n elements of destination are free (18 R450). -/
def vecOp (p g op : Nat) (sram : Option (BitVec 24)) (faults : List Byte → List Nat) (d n tid : List Byte → Nat)
    (f : State → RunCmd → List Elem) (s : State) : State :=
  runOp p g op (fun _ r => faults r.bytes) (fun r s =>
    let b := r.bytes
    match sram with
    | some a =>
      let k := arrayBytes (cmFc b) (n b)
      let s := tookFree (ctxLocWr r.ctx p (d b) (leBytes k (freeBits (8 * k) s)) s)
      finish p g csFaulted 0 (byFault (r.by_ p g) 0x120C a.toNat s)
    | none => finish p g csOk 0 (writeArray p g r (d b) (tid b) (f s r) s)) s

/-! ### Fields (11 Table 11.6) -/

/-- Faulty format bytes of a vector command; zr is whether FMT_C may take zero-run form (13 Table 13.1). -/
def vecFormats (zr : Bool) (b : List Byte) : List Nat :=
  numctlFault b 9 ++ breaks (!fmtByteOk (cmFa b) || zrBit (cmFa b)) 9 ++ breaks (cmFb b != 0) 10 ++
    breaks (!fmtByteOk (cmFc b) || (zrBit (cmFc b) && !zr)) 11

/-- A destination field at offset o of n elements: a zero-run row's room is D's to hold (13 R340). -/
def destField (g : Nat) (b : List Byte) (o n rel : Nat) : List Nat :=
  localField g b o (arrayBytes (cmFc b) n) (if zrBit (cmFc b) then o else rel)

def cvN (b : List Byte) : Nat := le b 0x18 4

/-- Faulty fields of a CONVERT. -/
def convertFaults (g : Nat) (b : List Byte) : List Nat :=
  vecFormats true b ++ localField g b 0x10 (arrayBytes (cmFa b) (cvN b)) 0x18 ++ destField g b 0x14 (cvN b) 0x18 ++ mustBeZero b 0x20 32

/-- CONVERT: N elements at X in FMT_A, converted to FMT_C at D. -/
def execConvert (p : PierNo) (g : GirdNo) (sram : Option (BitVec 24)) (s : State) : Host.Outcome State Fault Refusal :=
  .next (vecOp p.val g.val 0x12 sram (convertFaults g.val) (fun b => le b 0x14 4) cvN (fun b => le b 0x1C 4)
    (fun s r => (readArray s r.ctx p.val (le r.bytes 0x10 4) (cmFa r.bytes) (cvN r.bytes)).map fun v => elemOf v [v]) s)

/-! ### ELEMWISE -/

def ewN (b : List Byte) : Nat := le b 0x20 4
def ewOp (b : List Byte) : Nat := le b 0x24 1

/-- Operands of an EOP: how many of X, Y, Z it reads. -/
def eopArity (e : Nat) : Nat := if e = 3 then 3 else if 5 ≤ e ∧ e ≤ 9 then 1 else 2

/-- An element operation (11 R304). -/
def eopApply (e x y z : Nat) : Nat :=
  if e = 0 then fpAdd x y else if e = 1 then fpSub x y else if e = 2 then fpMul x y else if e = 3 then fpFma x y z
  else if e = 4 then fpDiv x y else if e = 5 then fpSqrt x else if e = 6 then fpRcp x else if e = 7 then fpRsqrt x
  else if e = 8 then fpExp2 x else if e = 9 then fpLog2 x else if e = 10 then fpMax x y else fpMin x y

/-- The element that an operation gives, with the inputs that it reads. -/
def eopElem (e x y z : Nat) : Elem := elemOf (eopApply e x y z) ([x, y, z].take (eopArity e))

/-- Faulty fields of an ELEMWISE. -/
def elemwiseFaults (g : Nat) (b : List Byte) : List Nat :=
  let n := arrayBytes (cmFa b) (ewN b)
  let k := eopArity (ewOp b)
  let fl := le b 0x25 1
  vecFormats true b ++ localField g b 0x10 n 0x20 ++
  (if 2 ≤ k ∧ !bit fl 0 then localField g b 0x14 n 0x20 else []) ++
  (if 3 ≤ k ∧ !bit fl 1 then localField g b 0x18 n 0x20 else []) ++
  destField g b 0x1C (ewN b) 0x20 ++ breaks (11 < ewOp b) 0x24 ++ breaks (fl / 4 != 0) 0x25 ++ mustBeZero b 0x26 2 ++
  mustBeZero b 0x34 12

/-- An operand of ELEMWISE: an array, or its scalar. -/
def ewOperand (s : State) (p : Nat) (r : RunCmd) (o flag scalar : Nat) : List Nat :=
  let b := r.bytes
  if bit (le b 0x25 1) flag then List.replicate (ewN b) (le b scalar 4)
  else readArray s r.ctx p (le b o 4) (cmFa b) (ewN b)

/-- The elements of an ELEMWISE. -/
def elemwiseElems (p : Nat) (s : State) (r : RunCmd) : List Elem :=
  let b := r.bytes
  let e := ewOp b
  let xs := readArray s r.ctx p (le b 0x10 4) (cmFa b) (ewN b)
  let ys := if 2 ≤ eopArity e then ewOperand s p r 0x14 0 0x28 else xs
  let zs := if 3 ≤ eopArity e then ewOperand s p r 0x18 1 0x2C else xs
  ((xs.zip ys).zip zs).map fun y => eopElem e y.1.1 y.1.2 y.2

/-- ELEMWISE: EOP applied to each element. -/
def execElemwise (p : PierNo) (g : GirdNo) (sram : Option (BitVec 24)) (s : State) : Host.Outcome State Fault Refusal :=
  .next (vecOp p.val g.val 0x13 sram (elemwiseFaults g.val) (fun b => le b 0x1C 4) ewN (fun b => le b 0x30 4)
    (elemwiseElems p.val) s)

/-! ### SOFTMAX and NORM -/

def rwRows (b : List Byte) : Nat := le b 0x20 4
def rwL (b : List Byte) : Nat := le b 0x24 4
def rwN (b : List Byte) : Nat := rwRows b * rwL b
def rwS (b : List Byte) : Nat := le b 0x28 4
def rwMode (b : List Byte) : Nat := le b 0x2C 1

/-- The pairwise tree of lane sums; fuel bounds its levels. -/
def pairTree : Nat → List Nat → List Nat
  | 0, l => l
  | _ + 1, [] => []
  | _ + 1, [a] => [a]
  | k + 1, l => pairTree k ((chop 2 (l.length / 2 + 1) l).filterMap fun q => match q with
    | [a, b] => some (fpAdd a b)
    | a :: _ => some a
    | [] => none)

/-- The sum of the values of lane l, in ascending order from the first. -/
def laneSum (vs : List Nat) (l : Nat) : Option Nat :=
  match (vs.zipIdx.filter fun y => y.2 % 16 == l).map Prod.fst with
  | [] => none
  | a :: r => some (r.foldl fpAdd a)

/-- A lane-ordered sum (R304). -/
def laneOrdered (vs : List Nat) : Nat := ((pairTree 5 ((List.range 16).filterMap (laneSum vs))).head?).getD 0

/-- Faulty fields of a SOFTMAX or a NORM. -/
def rowsFaults (norm : Bool) (g : Nat) (b : List Byte) : List Nat :=
  let n := rwN b
  vecFormats false b ++ localField g b 0x10 (arrayBytes (cmFa b) n) 0x24 ++ localField g b 0x14 (arrayBytes (cmFc b) n) 0x24 ++
  (if norm then localField g b 0x18 (4 * rwL b) 0x24 ++ localField g b 0x1C (4 * rwL b) 0x24 ++ breaks (1 < rwMode b) 0x2C
   else breaks (rwL b = 0 || 65536 < rwL b) 0x24) ++
  mustBeZero b 0x2D 3 ++ mustBeZero b 0x34 12

/-- A row of SOFTMAX. -/
def softmaxRow (sc : Nat) (xs : List Nat) : List Elem :=
  match xs with
  | [] => []
  | a :: r =>
    let m := r.foldl fpMax a
    let ys := xs.map fun x => fpExp2 (fpMul (fpSub x m) sc)
    let t := laneOrdered ys
    let nan := (sc :: xs).any isNan32
    ys.map fun y => { val := fpDiv y t, nanIn := nan }

/-- A row of NORM. -/
def normRow (mode sc : Nat) (gs hs xs : List Nat) : List Elem :=
  let l := fp32Of (Val.ofInt xs.length)
  let vs := if mode = 1 then
      let mu := fpDiv (laneOrdered xs) l
      xs.map fun x => fpSub x mu
    else xs
  let q := laneOrdered (vs.map fun v => fpMul v v)
  let r := fpRsqrt (fpAdd (fpDiv q l) sc)
  let nan := (sc :: xs).any isNan32
  ((vs.zip gs).zip hs).map fun y =>
    { val := fpAdd (fpMul (fpMul y.1.1 r) y.1.2) y.2, nanIn := nan || isNan32 y.1.2 || isNan32 y.2 }

/-- The rows at X. -/
def rowsOf (p : Nat) (s : State) (r : RunCmd) : List (List Nat) :=
  chop (rwL r.bytes) (rwRows r.bytes) (readArray s r.ctx p (le r.bytes 0x10 4) (cmFa r.bytes) (rwN r.bytes))

/-- SOFTMAX of each row. -/
def execSoftmax (p : PierNo) (g : GirdNo) (sram : Option (BitVec 24)) (s : State) : Host.Outcome State Fault Refusal :=
  .next (vecOp p.val g.val 0x14 sram (rowsFaults false g.val) (fun b => le b 0x14 4) rwN (fun b => le b 0x30 4)
    (fun s r => (rowsOf p.val s r).flatMap (softmaxRow (rwS r.bytes))) s)

/-- NORM of each row. -/
def execNorm (p : PierNo) (g : GirdNo) (sram : Option (BitVec 24)) (s : State) : Host.Outcome State Fault Refusal :=
  .next (vecOp p.val g.val 0x15 sram (rowsFaults true g.val) (fun b => le b 0x14 4) rwN (fun b => le b 0x30 4)
    (fun s r =>
      let b := r.bytes
      let gs := readWords s r.ctx p.val (le b 0x18 4) (rwL b)
      let hs := readWords s r.ctx p.val (le b 0x1C 4) (rwL b)
      (rowsOf p.val s r).flatMap (normRow (rwMode b) (rwS b) gs hs)) s)

/-! ### LREDUCE -/

def lrN (b : List Byte) : Nat := le b 0x1C 4
def lrNin (b : List Byte) : Nat := le b 0x20 1
def lrLop (b : List Byte) : Nat := le b 0x21 1

/-- Faulty fields of an LREDUCE. -/
def lreduceFaults (g : Nat) (b : List Byte) : List Nat :=
  vecFormats false b ++ localField g b 0x10 ((lrNin b - 1) * le b 0x14 4 + arrayBytes (cmFa b) (lrN b)) 0x20 ++
  localField g b 0x18 (arrayBytes (cmFc b) (lrN b)) 0x1C ++ breaks (lrNin b < 2 || 8 < lrNin b) 0x20 ++
  breaks (2 < lrLop b) 0x21 ++ mustBeZero b 0x22 2 ++ mustBeZero b 0x28 24

/-- Combines two elements of LREDUCE. -/
def lopApply (l a b : Nat) : Nat := if l = 0 then fpAdd a b else if l = 1 then fpMax a b else fpMin a b

/-- The elements of an LREDUCE. -/
def lreduceElems (p : Nat) (s : State) (r : RunCmd) : List Elem :=
  let b := r.bytes
  let ins := (List.range (lrNin b)).map fun n => readArray s r.ctx p (le b 0x10 4 + n * le b 0x14 4) (cmFa b) (lrN b)
  (List.range (lrN b)).map fun j =>
    let vs := ins.map fun l => l.getD j 0
    match vs with
    | [] => elemOf 0 []
    | a :: t => elemOf (t.foldl (lopApply (lrLop b)) a) vs

/-- LREDUCE: NIN inputs combined element by element. -/
def execLreduce (p : PierNo) (g : GirdNo) (sram : Option (BitVec 24)) (s : State) : Host.Outcome State Fault Refusal :=
  .next (vecOp p.val g.val 0x16 sram (lreduceFaults g.val) (fun b => le b 0x18 4) lrN (fun b => le b 0x24 4)
    (lreduceElems p.val) s)

end Sys2Proof.Machine
end

