-- ==== Sys2Proof/Machine/Dma.lean ====
section
/-! DEFINITION. LOAD, in its three forms, and STORE (11 R305; 13 R347-R354). -/

namespace Sys2Proof.Machine
open Sys2Proof

/-! ### Fields -/

def dmSrc (b : List Byte) : Nat := le b 0x10 8
def dmDst (b : List Byte) : Nat := le b 0x18 8
def dmRows (b : List Byte) : Nat := le b 0x20 4
def dmRbytes (b : List Byte) : Nat := le b 0x24 4
def dmSstride (b : List Byte) : Nat := le b 0x28 4
def dmDstride (b : List Byte) : Nat := le b 0x2C 4
def dmSel (b : List Byte) : Nat := le b 0x30 4
def dmThresh (b : List Byte) : Nat := le b 0x34 4
def dmList (b : List Byte) : Nat := le b 0x38 4
def dmStok (b : List Byte) : Nat := le b 0x3C 1
def dmLsel (b : List Byte) : Nat := le b 0x3D 1
def dmNonzero (b : List Byte) : Bool := bit (dmLsel b) 0
def dmAudit (b : List Byte) : Bool := bit (dmLsel b) 1
def dmListin (b : List Byte) : Bool := bit (dmLsel b) 2

/-- Bytes from the first row's start to the last row's end. -/
def dmSpan (b : List Byte) (stride : Nat) : Nat :=
  if dmRows b = 0 ∨ dmRbytes b = 0 then 0 else spanBytes (dmRows b) stride (dmRbytes b)

/-- Faulty fields that LOAD and STORE share. -/
def moveFaults (e : Nat) (b : List Byte) : List Nat :=
  noNumbers b ++ addrField e b 0x10 (dmSpan b (dmSstride b)) 0x28 ++ addrField e b 0x18 (dmSpan b (dmDstride b)) 0x2C ++
    breaks (dmRbytes b % 4 != 0) 0x24

/-- Faulty fields of a plain LOAD. -/
def loadFaults (b : List Byte) : List Nat :=
  moveFaults eDmi b ++ breaks (!isLocal (dmDst b)) 0x18 ++ mustBeZero b 0x30 4 ++ mustBeZero b 0x34 4 ++ mustBeZero b 0x38 4 ++
    mustBeZero b 0x3C 1 ++ mustBeZero b 0x3D 1 ++ mustBeZero b 0x3E 2

/-- Faulty fields of a STORE. -/
def storeFaults (b : List Byte) : List Nat :=
  moveFaults eDmo b ++ breaks (!isLocal (dmSrc b)) 0x10 ++ (List.range 4).flatMap fun i => mustBeZero b (0x30 + 4 * i) 4

/-- Faulty fields that the two forms of row selection share. -/
def selectShared (b : List Byte) : List Nat :=
  moveFaults eDmi b ++ breaks (!isLocal (dmDst b)) 0x18 ++ localField eDmi b 0x38 (4 * dmRows b + 4) 0x38 ++
    breaks (dmList b % 4 != 0) 0x38 ++ breaks (dmLsel b / 8 != 0) 0x3D ++ mustBeZero b 0x3E 2

/-- Faulty fields of a LOAD that scores rows (13 R350). -/
def selectFaults (b : List Byte) : List Nat :=
  selectShared b ++ breaks (dmSel b % 4 != 0) 0x30 ++ localField eDmi b 0x30 (4 * dmStok b * dmRows b) 0x3C ++
    (if dmAudit b then localField eDmi b 0x30 (4 * dmStok b * dmRows b + 4 * dmRows b) 0x3D else []) ++
    breaks (dmNonzero b && dmThresh b != 0) 0x34

/-- Faulty fields of a LOAD with LISTIN (13 R349, R350). -/
def listinFaults (b : List Byte) : List Nat :=
  selectShared b ++ mustBeZero b 0x30 4 ++ mustBeZero b 0x34 4 ++ mustBeZero b 0x3C 1 ++ breaks (dmNonzero b || dmAudit b) 0x3D

/-! ### Copying -/

/-- Copies n bytes from each source to its destination, in order; what is denied or cannot be corrected stops it. -/
def copyRows (w : By) (n : Nat) : List (Nat × Nat) → State → Bool × State
  | [], s => (true, s)
  | (a, d) :: r, s =>
    match fetch w .rd a n s with
    | (none, s) => (false, s)
    | (some bs, s) =>
      let q := store w d bs s
      if q.1 then copyRows w n r q.2 else (false, q.2)

/-- Source and destination of the j-th row that is copied, which is row r. -/
def rowPair (b : List Byte) (r j : Nat) : Nat × Nat := (dmSrc b + r * dmSstride b, dmDst b + j * dmDstride b)

/-- The two ranges overlap; the contents of the destination are then undefined (11 R305). -/
def overlaps (b : List Byte) : Bool :=
  let n := dmSpan b (dmSstride b)
  let m := dmSpan b (dmDstride b)
  isLocal (dmSrc b) == isLocal (dmDst b) && dmSrc b < dmDst b + m && dmDst b < dmSrc b + n

/-- Gives destination rows free contents. -/
def freeDest (w : By) (n : Nat) (ds : List Nat) (s : State) : State :=
  ds.foldl (fun s d => tookFree (store w d (leBytes n (freeBits (8 * n) s)) s).2) s

/-- Copies listed rows of a command, the j-th of them to the j-th row of the destination. -/
def copyListed (w : By) (b : List Byte) (rows : List Nat) (s : State) : Bool × State :=
  let ps := rows.zipIdx.map fun y => rowPair b y.1 y.2
  let r := copyRows w (dmRbytes b) ps s
  if r.1 && overlaps b then (true, freeDest w (dmRbytes b) (ps.map Prod.snd) r.2) else r

/-- What the checks of memory and stores find while a command reads: HBM's ECC, and a local word that cannot be corrected. -/
def meetReads (w : By) (b : List Byte) (x : MemSeen) (sram : Option (BitVec 24)) (s : State) : Bool × State :=
  let s := if isLocal (dmSrc b) then s else meetEcc x (dmSrc b) (dmSpan b (dmSstride b)) s
  match sram with
  | some a => (false, byFault w 0x120C a.toNat s)
  | none => (true, s)

/-- Runs a transfer of an engine: FAULTED where it could not be made whole. -/
def transfer (p e op : Nat) (mine : List Byte → Bool) (faults : List Byte → List Nat) (x : MemSeen) (sram : Option (BitVec 24))
    (f : By → RunCmd → State → Bool × State) (s : State) : State :=
  match runningOp s p e op with
  | none => s
  | some r =>
    if !mine r.bytes then s
    else runOp p e op (fun _ r => faults r.bytes) (fun r s =>
      let w := r.by_ p e
      let m := meetReads w r.bytes x sram s
      if !m.1 then finish p e csFaulted 0 m.2
      else
        let q := f w r m.2
        finish p e (if q.1 then csOk else csFaulted) 0 q.2) s

/-- LOAD: the plain form. -/
def execLoad (p : PierNo) (x : MemSeen) (sram : Option (BitVec 24)) (s : State) : Host.Outcome State Fault Refusal :=
  .next (transfer p.val eDmi 0x20 (fun b => dmStok b == 0 && !dmListin b) loadFaults x sram
    (fun w r s => copyListed w r.bytes (List.range (dmRows r.bytes)) s) s)

/-- STORE. -/
def execStore (p : PierNo) (x : MemSeen) (sram : Option (BitVec 24)) (s : State) : Host.Outcome State Fault Refusal :=
  .next (transfer p.val eDmo 0x21 (fun _ => true) storeFaults x sram
    (fun w r s => copyListed w r.bytes (List.range (dmRows r.bytes)) s) s)

/-! ### Row selection (13 R348) -/

/-- A score selects its row. -/
def scoreSelects (b : List Byte) (v : Nat) : Bool :=
  if dmNonzero b then !(val32 v).isZero else isNan32 v || fpCmp 5 v (dmThresh b)

/-- The rows that scores select, given token after token. -/
def selectedRows (b : List Byte) (scores : List Nat) : List Nat :=
  (List.range (dmRows b)).filter fun r =>
    (List.range (dmStok b)).any fun t => scoreSelects b (scores.getD (t * dmRows b + r) 0)

/-- Writes a row list: its count, then the rows. -/
def writeList (x p a : Nat) (rows : List Nat) (s : State) : State :=
  ctxLocWr x p a (leBytes 4 rows.length ++ rows.flatMap (leBytes 4)) s

/-- An activity entry is active (13 R353): at ATHR +0, every entry that is not a zero. -/
def isActive (athr v : Nat) : Bool :=
  isNan32 v || (if athr = 0 then !(val32 v).isZero else fpCmp 5 (v % 2 ^ 31) athr)

/-- Counts an audit of a context: active rows and misses; the audit that completes a window is compared with LIMIT (13 R353, R354). -/
def countAudit (x act miss : Nat) (s : State) : State :=
  let cfg := A.ctxActCfg x
  if !rbit s cfg 31 then s
  else
    let s := bump (A.ctxActCnt x 2) miss (bump (A.ctxActCnt x 1) act (bump (A.ctxActCnt x 0) 1 s))
    let n := rn s (A.ctxActWin x 0) + 1
    let a := rn s (A.ctxActWin x 1) + act
    let m := rn s (A.ctxActWin x 2) + miss
    if n < 2 ^ rf s cfg 28 24 then wn (A.ctxActWin x 0) n (wn (A.ctxActWin x 1) a (wn (A.ctxActWin x 2) m s))
    else
      let s := if rf s cfg 15 0 * a < 65536 * m then
          raiseEvent { code := 0x0D01, ctx := x, unit := ctxUnit x, detail := 2 ^ 32 * m + a } s
        else s
      wn (A.ctxActWin x 0) 0 (wn (A.ctxActWin x 1) 0 (wn (A.ctxActWin x 2) 0 s))

/-- The audit of a LOAD that has completed with OK. -/
def auditLoad (p : Nat) (r : RunCmd) (rows : List Nat) (s : State) : State :=
  let b := r.bytes
  if !dmAudit b then s
  else
    let es := readWords s r.ctx p (dmSel b + 4 * dmStok b * dmRows b) (dmRows b)
    let act := (List.range (dmRows b)).filter fun i => isActive (rn s (A.ctxActAthr r.ctx)) (es.getD i 0)
    countAudit r.ctx act.length (act.filter fun i => !rows.contains i).length s

/-- LOAD_ROW_SELECTION: a LOAD that scores rows, copies the selected ones, and writes the row list. -/
def execLoadRowSelection (p : PierNo) (x : MemSeen) (sram : Option (BitVec 24)) (s : State) : Host.Outcome State Fault Refusal :=
  .next (transfer p.val eDmi 0x20 (fun b => dmStok b != 0 && !dmListin b) selectFaults x sram
    (fun w r s =>
      let b := r.bytes
      let rows := selectedRows b (readWords s r.ctx p.val (dmSel b) (dmStok b * dmRows b))
      let q := copyListed w b rows s
      if q.1 then (true, auditLoad p.val r rows (writeList r.ctx p.val (dmList b) rows q.2)) else q) s)

/-- Index of the first bad word of a row list of n rows (13 R349). -/
def badList (rows : Nat) (l : List Nat) : Option Nat :=
  (List.range l.length).findSome? fun i =>
    let v := l.getD i 0
    if rows ≤ v ∨ (0 < i ∧ v ≤ l.getD (i - 1) 0) then some (i + 1) else none

/-- LOAD_LISTIN: a LOAD that copies the rows of a row list. -/
def execLoadListin (p : PierNo) (x : MemSeen) (sram : Option (BitVec 24)) (s : State) : Host.Outcome State Fault Refusal :=
  .next (transfer p.val eDmi 0x20 dmListin listinFaults x sram
    (fun w r s =>
      let b := r.bytes
      let word := fun (i : Nat) => ofLe (ctxLocRd s r.ctx p.val (dmList b + 4 * i) 4)
      let n := word 0
      let bad := fun (i : Nat) => (false, byFault w 0x0D03 (2 ^ 32 * cmTag b + i) s)
      if dmRows b < n then bad 0
      else
        let l := (List.range n).map fun i => word (i + 1)
        match badList (dmRows b) l with
        | some i => bad i
        | none => copyListed w b l s) s)

end Sys2Proof.Machine
end

