-- ==== Sys2Proof/Machine/TxRx.lean ====
section
/-! DEFINITION. Streams of a pier: SR_OPEN, SR_CLOSE, SEND, RECV and GET, and the packets that land under them (11 R306-R309; 05
R121-R127; 13 R346). -/

namespace Sys2Proof.Machine
open Sys2Proof

/-! ### Records of a context -/

/-- The record lies in the context's range (03 Table 3.10). -/
def inSrRange (s : State) (x r : Nat) : Bool := liveWord s x 0x100C ≤ r && r < liveWord s x 0x100C + liveWord s x 0x1010

/-- The record is an OPEN one of the context, of a class that a test names. -/
def ownOpen (s : State) (x r : Nat) (p : Nat → Bool) : Bool := inSrRange s x r && srState s r == srOpen && p (srClass s r)

/-- FWD or BULK. -/
def isData (c : Nat) : Bool := c == clFwd || c == clBulk

/-- Who answers on a pier for the records of a context. -/
def pierAnswers (s : State) (x p : Nat) : AckFrom := { src := 700 + p, rank := (ownRank s x p).getD 0 }

/-- Packets that wait on a record. -/
def waitingOn (s : State) (r : Nat) : Nat := (s.fab.txWait.filter fun w => w.rcd == r).length

/-- SEQ of the last packet that a record has taken or has waiting. -/
def lastSeq (s : State) (r : Nat) : Nat := (srTxNext s r + waitingOn s r + 2 ^ 32 - 1) % 2 ^ 32

/-! ### Sending (R307) -/

/-- A transfer on a stream: who sends it, its record, class, opcode and flags, where its bytes are, OPARG of its first byte, its
length, that its last packet carries LAST, and its DST_RANK where that is not the PEER_RANK of its record. -/
structure Sending where
  w : By
  rcd : Nat
  cls : Nat
  op : Nat
  flags : Nat
  src : Nat
  off : Nat
  len : Nat
  last : Bool
  dst : Option Nat := none
  deriving DecidableEq, Repr

/-- Hands a packet of a transfer to its stream; a record that is not OPEN takes none. -/
def sendPayload (x : Sending) (o : Nat) (data : List Byte) (s : State) : State :=
  if srState s x.rcd ≠ srOpen then s
  else
    let fl := x.flags + (if x.last && o + data.length == x.len then 2 ^ flLast else 0)
    let b := mkPacket { epoch := curEpoch s, cls := x.cls, op := x.op, flags := fl, dst := x.dst.getD (srPeerRank s x.rcd),
                        src := (ownRank s x.w.ctx x.w.pier).getD 0, job := srJob s x.rcd, sr := srPeerSr s x.rcd, rsr := x.rcd,
                        oparg := x.off + o } data
    streamSend { rcd := x.rcd, req := 7 * x.w.ctx + 3, src := 700 + x.w.pier, bytes := b,
                 kind := if x.op = opGetRsp then 1 else 3 } s

/-- Offsets and lengths of the packets of n bytes: up to 16,384 each, and one empty packet for none. -/
def packetCuts (n : Nat) : List (Nat × Nat) :=
  (List.range (max 1 ((n + 16383) / 16384))).map fun i => (16384 * i, min 16384 (n - 16384 * i))

/-- Reads and sends packets in order; a read that is denied or cannot be corrected stops it. -/
def sendCuts (x : Sending) : List (Nat × Nat) → State → Bool × State
  | [], s => (true, s)
  | (o, n) :: r, s =>
    match fetch x.w .rd (x.src + o) n s with
    | (none, s) => (false, s)
    | (some d, s) => sendCuts x r (sendPayload x o d s)

/-- Sends a transfer. -/
def sendData (x : Sending) (s : State) : Bool × State := sendCuts x (packetCuts x.len) s

def snSrc (b : List Byte) : Nat := le b 0x10 8
def snRoff (b : List Byte) : Nat := le b 0x18 8
def snLen (b : List Byte) : Nat := le b 0x20 4
def snSr (b : List Byte) : Nat := le b 0x24 4
def snFlags (b : List Byte) : Nat := le b 0x28 1

/-- Faulty fields of a SEND. -/
def sendFaults (s : State) (r : RunCmd) : List Nat :=
  let b := r.bytes
  noNumbers b ++ addrField eTxe b 0x10 (snLen b) 0x20 ++ breaks (2 ^ 40 ≤ snRoff b) 0x18 ++
    breaks (!ownOpen s r.ctx (snSr b) isData) 0x24 ++ breaks (snFlags b / 16 != 0) 0x28 ++ mustBeZero b 0x29 23

/-- The transfer of a SEND. -/
def sendOf (s : State) (p : Nat) (r : RunCmd) : Sending :=
  let b := r.bytes
  let f := snFlags b
  { w := r.by_ p eTxe, rcd := snSr b, cls := srClass s (snSr b), op := if bit f 0 then opSend else opPut,
    flags := b2n (bit f 1) * 2 ^ flEvict + b2n (bit f 3) * 2 ^ flComp, src := snSrc b, off := snRoff b, len := snLen b,
    last := bit f 2 }

/-- SEND: the TXE of pier p sends LEN bytes on a stream. x and sram are what the checks of memory and stores find. -/
def execSend (p : PierNo) (x : MemSeen) (sram : Option (BitVec 24)) (s : State) : Host.Outcome State Fault Refusal :=
  .next (runOp p.val eTxe 0x30 sendFaults (fun r s =>
    let b := r.bytes
    let s := if isLocal (snSrc b) then s else meetEcc x (snSrc b) (snLen b) s
    match sram with
    | some a => finish p.val eTxe csFaulted 0 (byFault (r.by_ p.val eTxe) 0x120C a.toNat s)
    | none =>
      let q := sendData (sendOf s p.val r) s
      if q.1 then track p.val eTxe r (.acked (snSr b) (lastSeq q.2 (snSr b))) q.2 else finish p.val eTxe csFaulted 0 q.2) s)

/-! ### Records (R306) -/

/-- Faulty fields of an SR_OPEN. -/
def srOpenFaults (s : State) (r : RunCmd) : List Nat :=
  let b := r.bytes
  let c := le b 0x1C 1
  noNumbers b ++ breaks (!inSrRange s r.ctx (le b 0x10 4) || srState s (le b 0x10 4) != srFree) 0x10 ++
    breaks (2 ^ 24 ≤ le b 0x14 4) 0x14 ++ breaks (2 ^ 22 ≤ le b 0x18 4) 0x18 ++ breaks (c != 0 && c != 2 && c != 7) 0x1C ++
    mustBeZero b 0x1D 1 ++ breaks (le b 0x1E 2 == 0 || 4096 < le b 0x1E 2) 0x1E ++ mustBeZero b 0x20 32

/-- SR_OPEN. -/
def execSrOpen (p : PierNo) (s : State) : Host.Outcome State Fault Refusal :=
  .next (runOp p.val eTxe 0x33 srOpenFaults (fun r s =>
    let b := r.bytes
    finish p.val eTxe csOk 0
      (srWrite (le b 0x10 4) (le b 0x1C 1) r.ctx (le b 0x14 4) (le b 0x18 4) (ctxJob s r.ctx) (le b 0x1E 2) s)) s)

/-- Disarms receives of a pier that a test names; a ONESHOT receive, whose command has not completed, completes with CANCELLED. -/
def cancelRecvs (p : Nat) (t : Recv → Bool) (s : State) : State :=
  let gone := (getPier s p).recvs.filter t
  let s := onPier p (fun q => { q with recvs := q.recvs.filter fun v => !t v }) s
  gone.foldl (fun s v => if v.mode = 0 then completeCmd p eRxe v.run csCancelled 0 s else s) s

/-- Disarms every receive of a record. -/
def cancelRecord (r : Nat) (s : State) : State := s.pr.piers.foldl (fun s q => cancelRecvs q.1 (fun v => v.rcd == r) s) s

/-- Faulty fields of an SR_CLOSE. -/
def srCloseFaults (s : State) (r : RunCmd) : List Nat :=
  noNumbers r.bytes ++ breaks (!ownOpen s r.ctx (le r.bytes 0x10 4) fun _ => true) 0x10 ++
    mustBeZero r.bytes 0x14 44

/-- SR_CLOSE: it waits until everything sent has been acknowledged. -/
def execSrClose (p : PierNo) (s : State) : Host.Outcome State Fault Refusal :=
  .next (runOp p.val eTxe 0x34 srCloseFaults (fun r s =>
    let k := le r.bytes 0x10 4
    if srTxUna s k ≠ srTxNext s k ∨ waitingOn s k ≠ 0 then s
    else
      let s := onFab (fun f => { f with ackTimer := smPut none f.ackTimer k none
                                        gapAt := smPut none f.gapAt k none
                                        rtoFrom := smPut none f.rtoFrom k none }) (cancelRecord k s)
      finish p.val eTxe csOk 0 (srPut k 0 1 srFree s)) s)

/-! ### Receives (R308) -/

def rvDst (b : List Byte) : Nat := le b 0x10 8
def rvLen (b : List Byte) : Nat := le b 0x18 4
def rvSr (b : List Byte) : Nat := le b 0x1C 4
def rvMode (b : List Byte) : Nat := le b 0x20 1

/-- The receive of a record in a MODE that has been armed first. -/
def recvOf (s : State) (p r mode : Nat) : Option Recv := (getPier s p).recvs.find? fun v => v.rcd == r && v.mode == mode

/-- Some pier has armed a receive of a record in a MODE. -/
def recvAnywhere (s : State) (r mode : Nat) : Bool := s.pr.piers.any fun q => q.2.recvs.any fun v => v.rcd == r && v.mode == mode

/-- Faulty fields of a RECV: a record holds at most one STANDING and one EXPOSE receive. -/
def recvFaults (s : State) (r : RunCmd) : List Nat :=
  let b := r.bytes
  let m := rvMode b
  noNumbers b ++ (if m = 3 then [] else addrField eRxe b 0x10 (rvLen b) 0x18) ++ breaks (!inSrRange s r.ctx (rvSr b)) 0x1C ++
    breaks (3 < m || ((m == 1 || m == 2) && recvAnywhere s (rvSr b) m)) 0x20 ++ mustBeZero b 0x21 31

/-- Arms a receive. -/
def arm (p : Nat) (v : Recv) (s : State) : State := onPier p (fun q => { q with recvs := q.recvs ++ [v] }) s

/-- The receive of a RECV command. -/
def recvOfCmd (r : RunCmd) : Recv := { rcd := rvSr r.bytes, run := r, mode := rvMode r.bytes, dst := rvDst r.bytes, len := rvLen r.bytes }

/-- Runs a RECV whose MODE a test names. -/
def recvOp (p : Nat) (mine : Nat → Bool) (f : RunCmd → State → State) (s : State) : State :=
  match runningOp s p eRxe 0x38 with
  | some r => if mine (rvMode r.bytes) then runOp p eRxe 0x38 recvFaults f s else s
  | none => s

/-- RECV_ONESHOT: the receive is armed, and its command completes when a message has landed. A MODE that does not exist is met
here. -/
def execRecvOneshot (p : PierNo) (s : State) : Host.Outcome State Fault Refusal :=
  .next (recvOp p.val (fun m => m == 0 || 3 < m) (fun r s =>
    onEng p.val eRxe (fun g => { g with running := none }) (arm p.val (recvOfCmd r) s)) s)

/-- RECV_STANDING: the command completes at arming, without its signal. -/
def execRecvStanding (p : PierNo) (s : State) : Host.Outcome State Fault Refusal :=
  .next (recvOp p.val (· == 1) (fun r s =>
    finish p.val eRxe csOk 0 (onEng p.val eRxe (fun g => { g with running := g.running.map fun q => { q with sig := none } })
      (arm p.val (recvOfCmd r) s))) s)

/-- RECV_EXPOSE: the range serves GETs, and the command completes at arming. -/
def execRecvExpose (p : PierNo) (s : State) : Host.Outcome State Fault Refusal :=
  .next (recvOp p.val (· == 2) (fun r s => finish p.val eRxe csOk 0 (arm p.val (recvOfCmd r) s)) s)

/-- RECV_CANCEL: every receive of the record is disarmed. -/
def execRecvCancel (p : PierNo) (s : State) : Host.Outcome State Fault Refusal :=
  .next (recvOp p.val (· == 3) (fun r s =>
    finish p.val eRxe csOk 0 (cancelRecord (rvSr r.bytes) s)) s)

/-! ### Landing -/

/-- The access of a receive. -/
def Recv.by_ (v : Recv) (p : Nat) : By := v.run.by_ p eRxe

/-- Writes a packet's payload at its OPARG in a receive; one that runs past the receive is discarded. Whether it landed. -/
def landIn (p : Nat) (v : Recv) (b : List Byte) (s : State) : Bool × State :=
  if v.len < pkOparg b + pkLen b then (false, byFault (v.by_ p) 0x0B06 (be b 0x10 8) s)
  else store (v.by_ p) (v.dst + pkOparg b) (pkPayload b) s

/-- A data packet of an opcode meets its stream's check on pier p, with the receive that find gives; f acts on what is delivered. -/
def onData (p op : Nat) (find : State → List Byte → Option Recv) (f : Recv → List Byte → State → State) (s : State) : State :=
  match arrivedAt s p (fun b => pkOp b == op) with
  | none => s
  | some a =>
    let b := a.bytes
    let v := find s b
    let w := pierAnswers s (srCtx s (pkSr b)) p
    let r := rxCheck w b (if v.isNone then some 3 else none) (takeArrived a s)
    match r.1, v with
    | true, some v => rxAccept w b (f v b r.2)
    | _, _ => r.2

/-- SEND_PACKET: the first SEND packet at pier p lands in the oldest ONESHOT receive of its record. -/
def execSendPacket (p : PierNo) (s : State) : Host.Outcome State Fault Refusal :=
  .next (onData p.val opSend (fun s b => recvOf s p.val (pkSr b) 0) (fun v b s =>
    let q := landIn p.val v b s
    if q.1 && pkFlag b flLast then
      completeCmd p.val eRxe v.run csOk 0 (onPier p.val (fun x => { x with recvs := x.recvs.erase v }) q.2)
    else q.2) s)

/-! ### GET (R309) -/

def gtSoff (b : List Byte) : Nat := le b 0x10 8
def gtSr (b : List Byte) : Nat := le b 0x18 4
def gtRsr (b : List Byte) : Nat := le b 0x1C 4
def gtLen (b : List Byte) : Nat := le b 0x20 4
def gtLoff (b : List Byte) : Nat := le b 0x24 4
def gtGwd (b : List Byte) : Nat := le b 0x28 1

/-- The receive in which GET responses on a record land: STANDING, or the oldest ONESHOT (DEDUCED: log entry 21). -/
def rspRecv (s : State) (p r : Nat) : Option Recv := (recvOf s p r 1).orElse fun _ => recvOf s p r 0

/-- The RSP receive covers the landing. -/
def rspCovers (s : State) (p : Nat) (b : List Byte) : Bool :=
  match rspRecv s p (gtRsr b) with
  | some v => gtLoff b + gtLen b ≤ v.len
  | none => false

/-- Length of the RSP receive; 2^32 where there is none. -/
def rspLen (s : State) (p r : Nat) : Nat := ((rspRecv s p r).map Recv.len).getD (2 ^ 32)

/-- Faulty fields of a GET. SR_OPEN opens no record of class RSP, so RSR may also be of class REQ (DEDUCED: log entry 21). -/
def getFaults (p : Nat) (s : State) (r : RunCmd) : List Nat :=
  let b := r.bytes
  noNumbers b ++ breaks (2 ^ 40 ≤ gtSoff b) 0x10 ++ breaks (!ownOpen s r.ctx (gtSr b) (· == clReq)) 0x18 ++
    breaks (!ownOpen s r.ctx (gtRsr b) (· ≤ clRsp)) 0x1C ++ breaks (gtLen b == 0 || 2 ^ 24 < gtLen b) 0x20 ++
    breaks (!rspCovers s p b) (if rspLen s p (gtRsr b) < gtLen b then 0x20 else 0x24) ++ breaks (gtGwd b < 4 || 24 < gtGwd b) 0x28 ++ mustBeZero b 0x29 23

/-- GET: the TXE sends the request, once the landing is there. -/
def execGet (p : PierNo) (s : State) : Host.Outcome State Fault Refusal :=
  .next (runOp p.val eTxe 0x31 (getFaults p.val) (fun r s =>
    let b := r.bytes
    let pl := beBytes 4 (gtLen b) ++ beBytes 4 (srPeerSr s (gtRsr b)) ++ beBytes 4 (gtLoff b) ++ beBytes 4 0
    let x : Sending := { w := r.by_ p.val eTxe, rcd := gtSr b, cls := clReq, op := opGetReq, flags := 0, src := 0,
                         off := gtSoff b, len := 16, last := true }
    let s := sendPayload x 0 pl s
    track p.val eTxe r (.got (gtSr b) (lastSeq s (gtSr b)) (gtRsr b) (gtLoff b + gtLen b)) s) s)

/-- GET_REQ: the first GET_REQ packet at pier p is checked against the EXPOSE receive of its record, and answered. -/
def execGetReq (p : PierNo) (s : State) : Host.Outcome State Fault Refusal :=
  .next (onData p.val opGetReq (fun s b => recvOf s p.val (pkSr b) 2) (fun v b s =>
    let pl := pkPayload b
    let n := be pl 0 4
    let r := be pl 4 4 % 2 ^ 22
    if v.len < pkOparg b + n then byFault (v.by_ p.val) 0x0B07 (be b 0x10 8) s
    else if !ownOpen s v.run.ctx r (· ≤ clRsp) then s
    else
      (sendData { w := { v.by_ p.val with engine := eTxe }, rcd := r, cls := clRsp, op := opGetRsp, flags := 0,
                  src := v.dst + pkOparg b, off := be pl 8 4, len := n, last := true } s).2) s)

/-- The oldest GET that ends with a packet on an RSP record at an offset. -/
def getOf (s : State) (p r stop : Nat) : Option Tracked :=
  (getEng s p eTxe).track.find? fun t => match t.awaits with
    | .got _ _ rsr e => rsr == r && e == stop
    | _ => false

/-- Takes a tracked command off the TXE and completes it. -/
def completeTracked (p : Nat) (t : Tracked) (status : Nat) (s : State) : State :=
  completeCmd p eTxe t.run status 0 (onEng p eTxe (fun g => { g with track := g.track.erase t }) s)

/-- GET_RSP: the first GET_RSP packet at pier p lands in the RSP receive; the packet with LAST completes its GET. -/
def execGetRsp (p : PierNo) (s : State) : Host.Outcome State Fault Refusal :=
  .next (onData p.val opGetRsp (fun s b => rspRecv s p.val (pkSr b)) (fun v b s =>
    let q := landIn p.val v b s
    if q.1 && pkFlag b flLast then
      let s := if v.mode = 0 then completeCmd p.val eRxe v.run csOk 0 (onPier p.val (fun x => { x with recvs := x.recvs.erase v }) q.2)
        else q.2
      match getOf s p.val (pkSr b) (pkOparg b + pkLen b) with
      | some t => completeTracked p.val t csOk s
      | none => s
    else q.2) s)

/-- GET_WATCHDOG: 2^GWD µs after its dequeue, the oldest GET of a TAG that has not completed ends with TIMEOUT. -/
def execGetWatchdog (p : PierNo) (tag : BitVec 32) (s : State) : Host.Outcome State Fault Refusal :=
  match (getEng s p.val eTxe).track.find? fun t => cmOp t.run.bytes == 0x31 && cmTag t.run.bytes == tag.toNat with
  | some t => .next (completeTracked p.val t csTimeout s)
  | none => .next s

end Sys2Proof.Machine
end

