-- ==== Sys2Proof/Machine/Launch.lean ====
section
/-! DEFINITION. Collectives at a member: launch, contributions, landings and completion (10 R259-R263, R286; 11 R303, R310; 08
R213, R214; 09 R237, R248-R250). -/

namespace Sys2Proof.Machine
open Sys2Proof

/-! ### Landings -/

/-- A collective's landing on a pier. -/
def landById (s : State) (p id : Nat) : Option Landing := (getPier s p).lands.find? fun l => l.id == id

/-- The landing on a pier for a packet of a tree. -/
def landOf (s : State) (p : Nat) (b : List Byte) : Option Landing :=
  (getPier s p).lands.find? fun l => cdCarrier l.desc == 0 && cdTree l.desc == opTree b && cdCseq l.desc == opCseq b

/-- The packet is of a collective whose watchdog has expired on the pier. -/
def isExpired (s : State) (p : Nat) (b : List Byte) : Bool := (getPier s p).expired.contains (opTree b, opCseq b)

/-- Replaces a landing. -/
def putLand (p : Nat) (l : Landing) (s : State) : State :=
  onPier p (fun q => { q with lands := q.lands.map fun m => if m.id = l.id then l else m }) s

/-- Who acts for a landing: an engine for its context. -/
def Landing.by_ (l : Landing) (p e : Nat) : By := { ctx := l.run.ctx, pier := p, tag := cmTag l.run.bytes, engine := e }

/-- The lowest rank of a collective that names the pier in the context's table; 2^24 where none does. -/
def memberRank (s : State) (x p : Nat) (d : List Byte) : Nat :=
  (((List.range (cdNmem d)).map (cdRbase d + ·)).find? fun r => match ctxResolve s x r with
    | some w => reKind w == 1 && ownSwitch s == some (reSwitch w) && rePier w == p
    | none => false).getD (2 ^ 24)

/-- A member's tree in force and the edge that names it. -/
def memberEdge (s : State) (l : Landing) : Option (Tree × Edge) :=
  match treeAt s (curEpoch s) (cdTree l.desc) with
  | none => none
  | some t => if t.job ≠ ctxJob s l.run.ctx then none
    else (t.down.find? fun x => x.v && x.member && x.rank == l.rank).map fun x => (t, x)

/-- Sends a payload up the member's edge, to the position that pos gives. -/
def sendMember (p : Nat) (l : Landing) (pos : Tree → Nat) (payload : List Byte) (s : State) : State :=
  match memberEdge s l with
  | none => s
  | some (t, x) =>
    let k := 2 * pos t
    let b := mkPacket { epoch := curEpoch s, cls := clCollUp, op := opColl, src := l.rank, job := t.job, sr := x.esr + k,
                        rsr := x.pesr + k, oparg := collArg t.num (cdCseq l.desc) } payload
    streamSend { rcd := x.pesr + k, req := 7 * l.run.ctx + 3, src := 700 + p, bytes := b, kind := if l.fused then 2 else 3 } s

/-! ### Ending a collective -/

/-- Position of a rank. -/
def memberPos (l : Landing) : Nat := l.rank - cdRbase l.desc

/-- The command of a landing leaves the TXE with a status; a fused launch has no command there. -/
def endCommand (p : Nat) (l : Landing) (status : Nat) (s : State) : State :=
  if l.fused then s
  else
    let g := getEng s p eTxe
    match g.track.find? fun t => t.awaits == .coll l.id with
    | some t => completeCmd p eTxe t.run status l.status (onEng p eTxe (fun g => { g with track := g.track.erase t }) s)
    | none => match g.running with
      | some r => if r.seq = l.run.seq ∧ r.status = none then completeRunning p eTxe r status l.status s else s
      | none => s

/-- The landing is of a stream collective whose command a service has pushed: its completion word stands in the service area (14
R364, R365). -/
def ofService (s : State) (l : Landing) : Bool :=
  cdKind l.desc == kStream && rbit s (A.ctxSvcCtl l.run.ctx) 0 && cmCstatEn l.run.bytes && decide (cmCstat l.run.bytes < 0x40000)

/-- A landing is disarmed with its receives, and its command ends. -/
def endColl (p : Nat) (l : Landing) (status : Nat) (s : State) : State :=
  let s := if ofService s l then onPier p (fun q => { q with endIdx := smPut 0 q.endIdx l.run.seq l.dropped }) s else s
  let s := cancelRecvs p (fun v => v.coll == some l.id) (onPier p (fun q => { q with lands := q.lands.filter fun m => m.id != l.id }) s)
  let s := endCommand p l status s
  if status = csOk then signal (l.by_ p eRxe) (cdFlag l.desc) l.flag s else s

/-- Blocks of n elements. -/
def blocksOf (n : Nat) : Nat := (n + 31) / 32

/-- Every block of n elements from element e, of a count, has landed. -/
def landedAll (l : Landing) (e n : Nat) : Bool := (List.range (blocksOf n)).all fun i => l.got.contains (e + 32 * i)

/-- RSEs that run the final stage of a stream operation, as the member counts them (09 R238; DEDUCED: log entry 22). -/
def finalRses (s : State) (l : Landing) : Nat :=
  if pgTwo (progAt s l.run.ver (cdSlot l.desc)) then (l.list.map homeDst).eraseDups.length
  else match memberEdge s l with
    | some (t, _) => t.nfirst
    | none => 0

/-- The member holds an END of enough RSEs, and every packet that they count. -/
def streamDone (s : State) (l : Landing) : Bool :=
  0 < finalRses s l && decide (finalRses s l ≤ l.ends.length) && l.ends.all fun e => e.2 ≤ smGet 0 l.cnts e.1

/-- The collective is complete at the member (10 R259, R263). -/
def collDone (s : State) (l : Landing) : Bool :=
  let d := l.desc
  let k := cdKind d
  if cdCarrier d = 1 ∨ k = kBarrier then l.released
  else if k = kAlltoall ∨ k = kAlltoallv then
    (List.range (cdNmem d)).all fun i => i == memberPos l || !rankLive s (ctxJob s l.run.ctx) (cdRbase d + i) ||
      l.lasts.contains (l.list.getD i 0)
  else if k = kStream then streamDone s l
  else if k = kAllgather then
    (List.range (cdNmem d)).all fun i => !rankLive s (ctxJob s l.run.ctx) (cdRbase d + i) || landedAll l (i * gatherStride d) (cdCount d)
  else if k = kReduceScatter then
    let c := cdCount d / cdNmem d
    landedAll l (memberPos l * c) c
  else if k = kReduce ∧ l.rank ≠ cdRoot d then l.sent
  else if k = kBroadcast ∧ !rankLive s (ctxJob s l.run.ctx) (cdRoot d) then true
  else landedAll l 0 (cdCount d)

/-- Completes a collective that is complete. -/
def testColl (p id : Nat) (s : State) : State :=
  match landById s p id with
  | some l => if collDone s l then endColl p l csOk s else s
  | none => s

/-- COLL_WATCHDOG: 2^WD µs after its start, a collective that has not completed on pier p is disarmed, and its command ends with
TIMEOUT; what lands afterwards is discarded (10 R286). The watchdog of a context that is not resident there pauses (R284). -/
def execCollWatchdog (p : PierNo) (t : Fin 4096) (c : BitVec 16) (s : State) : Host.Outcome State Fault Refusal :=
  match (getPier s p.val).lands.find? fun l => cdTree l.desc == t.val && cdCseq l.desc == c.toNat with
  | none => .next s
  | some l =>
    if !residentOn s l.run.ctx p then .next s else
    let s := onPier p.val (fun q => { q with expired := q.expired.erase (t.val, c.toNat) ++ [(t.val, c.toNat)] }) s
    .next (byFault (l.by_ p.val eTxe) 0x0A02 (collDetail t.val c.toNat 0) (endColl p.val l csTimeout s))

/-! ### Contributions (08 R210, R213, R214; 10 R262) -/

/-- First block of the member's contribution, and its blocks. -/
def firstBlock (l : Landing) : Nat := if cdKind l.desc = kAllgather then memberPos l * (gatherStride l.desc / 32) else 0

/-- The member sends elements. -/
def contributes (l : Landing) : Bool :=
  let k := cdKind l.desc
  reduces l.desc || k == kAllgather || (k == kBroadcast && l.rank == cdRoot l.desc)

/-- Patterns and scale bytes of n blocks of SBUF from block b of the member, with zeros past COUNT. -/
def readBlocks (w : By) (d : List Byte) (b n : Nat) (s : State) : Option (List Nat × List Nat) × State :=
  let c := cdSrc d
  let m := min (32 * n) (cdCount d - 32 * b)
  match fetch w .rd (cdSbuf d + elemBytes c (32 * b)) (elemBytes c m) s with
  | (none, s) => (none, s)
  | (some bs, s) =>
    let ps := unpackElems c bs m
    let ps := ps ++ List.replicate (32 * n - ps.length) 0
    if !isMx c then (some (ps, []), s)
    else match fetch w .rd (cdSbuf d + elemBytes c (cdCount d) + b) n s with
      | (none, s) => (none, s)
      | (some sc, s) => (some (ps, sc.map BitVec.toNat), s)

/-- Values of patterns and scale bytes. -/
def blockVals (c : Nat) (ps sc : List Nat) : List Val :=
  decodeVals c (packElems c ps) (sc.map (BitVec.ofNat 8)) ps.length

/-- The exponent byte of a value (R214). -/
def exponentByte (v : Val) : Nat :=
  match v with
  | .num _ m _ => if m = 0 then 0 else (clampInt 1 255 (v.log2 + 128)).toNat
  | _ => 0

/-- The anchor of a block, none while the pre-pass has not given it (R213, R214). -/
def anchorOf (w : By) (l : Landing) (blk : Nat) (s : State) : Option (Option Int) × State :=
  let d := l.desc
  if intSum d then (some (some 96), s)
  else if !hasAnchor d then (some (some 0), s)
  else if cdAmode d = 0 then (some (some (cdAnchor d)), s)
  else if cdAmode d = 1 then
    match fetch w .rd (cdAnchorPtr d + 2 * (blk / 128)) 2 s with
    | (some bs, s) => (some (some (toInt 16 (ofLe bs))), s)
    | (none, s) => (none, s)
  else
    match l.exps.find? fun e => e.1 == blk / 8 with
    | some e => (some (some ((e.2 : Int) - 127)), s)
    | none => (some none, s)

/-- Payload of a NATIVE packet. -/
def nativePayload (d : List Byte) (a : Int) (blk n : Nat) (ps sc : List Nat) : List Byte :=
  PHead.bytes { form := fmNative, nblk := n, anchor := a, elem := 32 * blk } ++ packElems (cdSrc d) ps ++ sc.map (BitVec.ofNat 8)

/-- Blocks of the packet that starts at a block, of those before stop: as many as fit in 16,384 bytes, a slice and, with a
pre-pass, an anchor block. -/
def packetBlocks (d : List Byte) (blk stop : Nat) : Nat :=
  let size := bufBytes (cdSrc d) 32
  let step := min 255 (16368 / size)
  let al := if hasPrepass d then 8 else 128
  min (min step (stop - blk)) (al - blk % al)

/-- The contribution has been sent: the TXE is free for its next command. -/
def contributed (p : Nat) (l : Landing) (s : State) : State :=
  let s := putLand p { l with sent := true } s
  match (getEng s p eTxe).running with
  | some r => if !l.fused && r.seq == l.run.seq then testColl p l.id (track p eTxe r (.coll l.id) s) else testColl p l.id s
  | none => testColl p l.id s

/-- Sends the member's blocks in ascending order, as far as their anchors are known; fuel bounds the packets. -/
def sendBlocks (p id : Nat) : Nat → State → State
  | 0, s => s
  | k + 1, s =>
    match landById s p id with
    | none => s
    | some l =>
      let d := l.desc
      let b0 := firstBlock l
      let stop := b0 + blocksOf (cdCount d)
      let blk := b0 + l.next
      if !contributes l || stop ≤ blk then contributed p l s
      else
        let n := packetBlocks d blk stop
        let w := l.by_ p eTxe
        match anchorOf w l blk s with
        | (none, s) => endColl p l csFaulted s
        | (some none, s) => s
        | (some (some a), s) =>
          match readBlocks w d l.next n s with
          | (none, s) => endColl p l csFaulted s
          | (some (ps, sc), s) =>
            sendBlocks p id k (putLand p { l with next := l.next + n }
              (sendMember p l (fun t => blk / 128 % t.nrse) (nativePayload d a blk n ps sc) s))

/-- Packets that a contribution takes, at most. -/
def blockFuel (l : Landing) : Nat := blocksOf (cdCount l.desc) + 1

/-- Sends the exponent bytes of slices, the anchor blocks of a slice in one packet (R214); fuel bounds the slices. -/
def sendExponents (p : Nat) (l : Landing) : Nat → Nat → State → State
  | 0, _, s => s
  | k + 1, sl, s =>
    let d := l.desc
    if blocksOf (cdCount d) ≤ 128 * sl then s
    else
      let n := min 128 (blocksOf (cdCount d) - 128 * sl)
      match readBlocks (l.by_ p eTxe) d (128 * sl) n s with
      | (none, s) => endColl p l csFaulted s
      | (some (ps, sc), s) =>
        let vs := blockVals (cdSrc d) ps sc
        let es := (List.range ((n + 7) / 8)).map fun i => (((vs.drop (256 * i)).take 256).map exponentByte).foldl max 0
        sendExponents p l k (sl + 1)
          (sendMember p l (fun t => sl % t.nrse)
            (PHead.bytes { form := fmExponent, nblk := es.length, elem := 4096 * sl } ++ es.map (BitVec.ofNat 8)) s)

/-- Sends the member's records and its END to its first-hop RSE (09 R234, R237, R238; DEDUCED: log entry 23). -/
def sendRecords (p : Nat) (l : Landing) (s : State) : State :=
  let d := l.desc
  let w := pgWin (progAt s (curEpoch s) (cdSlot d))
  match fetch (l.by_ p eTxe) .rd (cdSbuf d) (4 * w * cdCount d) s with
  | (none, s) => endColl p l csFaulted s
  | (some bs, s) =>
    let per := if w = 0 then 1 else 16368 / (4 * w)
    let packets := if w = 0 then 0 else (cdCount d + per - 1) / per
    let pos := fun (t : Tree) => l.rank % t.nrse
    let s := (List.range packets).foldl (fun s i =>
      let n := min per (cdCount d - per * i)
      sendMember p l pos (SHead.bytes { kind := 0x10, w := w, nrec := n, idx := per * i } ++ slice bs (4 * w * per * i) (4 * w * n)) s) s
    contributed p l (sendMember p l pos (SHead.bytes { kind := 0x13, count := packets }) s)

/-! ### ALLTOALL and ALLTOALLV (11 R310) -/

/-- An entry of the AUX table, with the counts and offsets that ALLTOALL takes. -/
structure A2aEntry where
  tx : Nat
  rx : Nat
  scount : Nat
  soff : Nat
  rcount : Nat
  roff : Nat
  good : Bool
  deriving DecidableEq, Repr

/-- Entry i of the table. -/
def a2aEntry (d aux : List Byte) (i : Nat) : A2aEntry :=
  let e := slice aux (32 * i) 32
  let v := cdKind d = kAlltoallv
  { tx := le e 0 4, rx := le e 4 4, scount := if v then le e 8 4 else cdCount d, soff := if v then le e 12 4 else i * cdCount d,
    rcount := if v then le e 16 4 else cdCount d, roff := if v then le e 20 4 else i * cdCount d,
    good := allZero (slice e 24 8) && (v || allZero (slice e 8 16)) }

/-- The table is good for a member of a position: every record an OPEN FWD record of the context, and those that it receives on
different ones without a STANDING receive (11 R308, R310). -/
def a2aOk (s : State) (x pos : Nat) (d aux : List Byte) : Bool :=
  (List.range (cdNmem d)).all fun i =>
    let e := a2aEntry d aux i
    e.good && (if i = pos then e.tx == 0 && e.rx == 0
      else ownOpen s x e.tx (· == clFwd) && ownOpen s x e.rx (· == clFwd) && !recvAnywhere s e.rx 1 &&
        !(List.range i).any fun j => j != pos && (a2aEntry d aux j).rx == e.rx)

/-- Byte offset of an element, and bytes of elements, in a buffer of SRC. -/
def srcBytes (d : List Byte) (n : Nat) : Nat := elemBytes (cdSrc d) n

/-- Arms the receive of a position and sends its row, or copies the member's own row. -/
def a2aRow (p : Nat) (l : Landing) (aux : List Byte) (i : Nat) (s : State) : State :=
  let d := l.desc
  let e := a2aEntry d aux i
  let w := l.by_ p eTxe
  let n := srcBytes d e.scount
  let src := cdSbuf d + srcBytes d e.soff
  let dst := cdLbuf d 0 + srcBytes d e.roff
  if (landById s p l.id).isNone then s
  else if i = memberPos l then
    match fetch w .rd src n s with
    | (none, s) => endColl p l csFaulted s
    | (some bs, s) => (store (l.by_ p eRxe) dst bs s).2
  else
    let s := arm p { rcd := e.rx, run := l.run, mode := 1, dst := dst, len := srcBytes d e.rcount, coll := some l.id } s
    if !rankLive s (ctxJob s l.run.ctx) (cdRbase d + i) then s
    else
      let q := sendData { w := w, rcd := e.tx, cls := clFwd, op := opPut, flags := 0, src := src, off := 0, len := n, last := true } s
      if q.1 then q.2 else endColl p l csFaulted q.2

/-- Launches an ALLTOALL or ALLTOALLV: the member's entry first, then each position in ascending order. -/
def launchA2a (p : Nat) (l : Landing) (aux : List Byte) (s : State) : State :=
  let s := (List.range (cdNmem l.desc)).foldl (fun s i => a2aRow p l aux i s) s
  match landById s p l.id with
  | some l => contributed p l s
  | none => s

/-! ### Rings (10 R275, R276; 08 R229) -/

def rgN (l : Landing) : Nat := max 1 (l.list.getD 0 0)
def rgPos (l : Landing) : Nat := l.list.getD 1 0 % rgN l
def rgTx (l : Landing) : Nat := l.list.getD 2 0
def rgRx (l : Landing) : Nat := l.list.getD 3 0
def rgLand (l : Landing) : Nat := l.list.getD 5 0
def rgNext (l : Landing) : Nat := l.list.getD 6 0

/-- Elements of a chunk: the kinds that do not split data pass COUNT elements. -/
def rgChunk (l : Landing) : Nat :=
  if cdKind l.desc = kAllgather ∨ cdKind l.desc = kBroadcast then cdCount l.desc else l.list.getD 4 0

/-- The words of a ring descriptor: NRING, POS, TXSR, RXSR, CHUNK, LAND, NEXT. -/
def ringList (aux : List Byte) : List Nat :=
  [le aux 0 4, le aux 4 4, le aux 0x0C 4 % 2 ^ 22, le aux 0x10 4 % 2 ^ 22, le aux 0x14 4, le aux 0x18 8, le aux 8 4 % 2 ^ 24]

/-- Bytes of the landing area of a round. -/
def rgRound (l : Landing) : Nat := 17 * rgChunk l

/-- Rounds that a ring has, and the first one. -/
def rgFirst (l : Landing) : Nat := if reduces l.desc then 0 else rgN l - 1
def rgLast (l : Landing) : Nat := if cdKind l.desc = kReduceScatter then rgN l - 2 else 2 * rgN l - 3

/-- (a − b) modulo NRING. -/
def rgSub (l : Landing) (a b : Nat) : Nat := (a + rgN l - b % rgN l) % rgN l

/-- Chunk that the member receives in a round. -/
def rgRecvChunk (l : Landing) (k : Nat) : Nat :=
  if k < rgN l - 1 then rgSub l (rgPos l) (k + 1) else rgSub l (rgPos l) (k - (rgN l - 1))

/-- Sends the payloads of a round to NEXT: they land one after the other in the round's part of LAND. -/
def sendRound (p : Nat) (l : Landing) (k : Nat) (pls : List (List Byte)) (s : State) : State :=
  let total := (pls.map List.length).sum
  let x : Sending := { w := l.by_ p eTxe, rcd := rgTx l, cls := srClass s (rgTx l), op := opPut, flags := 0, src := 0,
                       off := k * rgRound l, len := total, last := true, dst := some (rgNext l) }
  (pls.foldl (fun (acc : Nat × State) pl => (acc.1 + pl.length, sendPayload x acc.1 pl acc.2)) (0, s)).2

/-- A block's part of a round: anchored elements, or exact values for MAX and MIN. -/
structure RingBlk where
  blk : Nat
  anchor : Int
  status : Nat
  xs : List Anch
  vs : List Val
  deriving DecidableEq, Repr

/-- A NaN production of a ring's arithmetic on a pier. -/
def ringNan (p : Nat) (l : Landing) (cause idx : Nat) : NanAt :=
  { ctx := l.run.ctx, tag := cmTag l.run.bytes, unit := pierUnit p, sub := subOf eTxe, cause := cause, idx := idx }

/-- The largest exponent byte of the member's own elements in an anchor block of a pre-pass (08 R214). -/
def ownExponent (w : By) (d : List Byte) (ab : Nat) (s : State) : Option Nat × State :=
  match readBlocks w d (8 * ab) (min 8 (blocksOf (cdCount d) - 8 * ab)) s with
  | (none, s) => (none, s)
  | (some (ps, sc), s) => (some (((blockVals (cdSrc d) ps sc).map exponentByte).foldl max 0), s)

/-- The anchor of a block in a ring. M of a pre-pass, for which a ring has no rounds, is at least the member's own largest exponent
byte; what the other members bring to it is a free value (DESIGN CHOICE: log entry 24). -/
def ringAnchor (w : By) (l : Landing) (blk : Nat) (s : State) : Option Int × State :=
  match anchorOf w l blk s with
  | (some (some a), s) => (some a, s)
  | (some none, s) => match ownExponent w l.desc (blk / 8) s with
    | (some m, s) => (some ((max m (Config.ringAnchor (ctxJob s l.run.ctx) (cdCseq l.desc) (blk / 8) % 256) : Nat) - 127), s)
    | (none, s) => (none, s)
  | (none, s) => (none, s)

/-- The member's own contribution to a block. -/
def ringOwn (p : Nat) (l : Landing) (blk : Nat) (s : State) : Option RingBlk × State :=
  let d := l.desc
  let w := l.by_ p eTxe
  match ringAnchor w l blk s with
  | (none, s) => (none, s)
  | (some a, s) =>
    match readBlocks w d blk 1 s with
    | (none, s) => (none, s)
    | (some (ps, sc), s) =>
      let vs := blockVals (cdSrc d) ps sc
      let ys := vs.zipIdx.map fun y =>
        if cdCount d ≤ 32 * blk + y.2 then (Anch.zero, false)
        else if intSum d then (intAnchored (y.1.units 0), false) else toAnchored a (a < -224 || 160 < a) y.1
      let hits := ys.zipIdx.filterMap fun y => if y.1.2 then some (ringNan p l cOverflow (32 * blk + y.2)) else none
      (some { blk := blk, anchor := a, status := if hits = [] then 0 else 1, xs := ys.map Prod.fst, vs := vs },
       if isMaxMin d then s else nansProduced hits s)

/-- The member's own contributions to blocks. -/
def ringOwns (p : Nat) (l : Landing) : List Nat → State → Option (List RingBlk) × State
  | [], s => (some [], s)
  | b :: r, s =>
    match ringOwn p l b s with
    | (none, s) => (none, s)
    | (some x, s) => match ringOwns p l r s with
      | (some xs, s) => (some (x :: xs), s)
      | (none, s) => (none, s)

/-- Blocks that go in one packet: consecutive ones of one group of eight. -/
def ringGroups : List RingBlk → List (List RingBlk)
  | [] => []
  | x :: r => match ringGroups r with
    | (y :: g) :: gs => if x.blk / 8 = y.blk / 8 then (x :: y :: g) :: gs else [x] :: (y :: g) :: gs
    | gs => [x] :: gs

/-- Payload of a group of blocks: form ANCHORED, or the words of MAX and MIN in form FAST (DESIGN CHOICE: log entry 14). -/
def ringPayload (d : List Byte) (g : List RingBlk) : List Byte :=
  match g with
  | [] => []
  | x :: _ =>
    let h : PHead := { form := if isMaxMin d then fmFast else fmAnchored, nblk := g.length,
                       anchor := if isMaxMin d then 0 else x.anchor, elem := 32 * x.blk,
                       status := (g.map RingBlk.status).foldl orStatus 0 }
    h.bytes ++ if isMaxMin d then g.flatMap fun x => x.vs.flatMap fun v => leBytes 4 (maxMinWord d v)
      else g.flatMap fun x => (encodeBlock false x.xs).2

/-- Payloads of blocks. -/
def ringPayloads (d : List Byte) (xs : List RingBlk) : List (List Byte) := (ringGroups xs).map (ringPayload d)

/-- n blocks after a prefix, and the bytes past them; none where they are malformed. -/
def ringBody (d : List Byte) (h : PHead) : Nat → Nat → List Byte → Option (List RingBlk × List Byte)
  | 0, _, b => some ([], b)
  | n + 1, k, b =>
    if isMaxMin d then
      let ws := unpackElems fcS32 (b.take 128) 32
      let vs := ws.map (maxMinVal d)
      (ringBody d h n (k + 1) (b.drop 128)).map fun r =>
        ({ blk := h.elem / 32 + k, anchor := 0, status := h.status, xs := [], vs := vs } :: r.1, r.2)
    else match decodeBlock b with
      | none => none
      | some (xs, rest) => (ringBody d h n (k + 1) rest).map fun r =>
        ({ blk := h.elem / 32 + k, anchor := h.anchor, status := h.status, xs := xs, vs := [] } :: r.1, r.2)

/-- The n blocks of a round that has landed; fuel bounds the packets. -/
def ringParts (d : List Byte) : Nat → Nat → List Byte → Option (List RingBlk)
  | _, 0, _ => some []
  | 0, _, _ => none
  | k + 1, n, b =>
    let h := pheadOf b
    let m := max 1 (min h.nblk n)
    match ringBody d h m 0 (b.drop 16) with
    | none => none
    | some (xs, rest) => (ringParts d k (n - m) rest).map (xs ++ ·)

/-- Adds the member's contribution to a received block (08 R215, R216; 07 R196). -/
def ringAdd (d : List Byte) (a b : RingBlk) : RingBlk :=
  let mism := hasAnchor d && a.anchor != b.anchor
  let pick := if cdRop d = ropMax then maxVal else minVal
  { a with status := orStatus (orStatus a.status b.status) (if mism then 2 else 0),
           xs := (sumBlocks [a.xs, b.xs]).map fun x => if mism then { x with nan := true } else x,
           vs := List.zipWith pick a.vs b.vs }

/-- Patterns of a complete block in DST, with the NaNs produced (08 R222). -/
def ringRound (p : Nat) (l : Landing) (x : RingBlk) : List Nat × List NanAt :=
  let d := l.desc
  let r := if isMaxMin d then x.vs.map fun v => convert (cdDst d) v .rne (cdOvf d)
    else x.xs.map fun y => if intSum d then (rootInt y, none) else rootRound x.anchor (cdDst d) (cdOvf d) y
  (r.map Prod.fst, r.zipIdx.filterMap fun y => match y.1.2 with
    | some c => if 32 * x.blk + y.2 < cdCount d then some (ringNan p l c (32 * x.blk + y.2)) else none
    | none => none)

/-- Blocks of a chunk. -/
def chunkBlocks (l : Landing) (c : Nat) : List Nat := (List.range (rgChunk l / 32)).map (c * (rgChunk l / 32) + ·)

/-- Bytes of a chunk of DST. -/
def dstBytes (l : Landing) : Nat := bufBytes (cdDst l.desc) (rgChunk l)

/-- Cuts bytes into payloads of at most 16,384. -/
def payloadsOf (bs : List Byte) : List (List Byte) := (packetCuts bs.length).map fun q => slice bs q.1 q.2

/-- Place of a chunk among those that LBUF0 holds: REDUCE_SCATTER and BROADCAST deliver one chunk; ALLGATHER's chunk of the member at
place q of the ring is chunk q + 1, and stands at the member's position (R259). -/
def chunkPlace (l : Landing) (c : Nat) : Nat :=
  if cdKind l.desc = kReduceScatter ∨ cdKind l.desc = kBroadcast then 0
  else if cdKind l.desc = kAllgather then rgSub l (memberPos l + c) (rgPos l + 1)
  else c

/-- Writes a finished chunk to LBUF0: its elements, and the scale plane of an MX format past all elements. -/
def landChunk (p : Nat) (l : Landing) (c : Nat) (bs : List Byte) (s : State) : State :=
  let f := cdDst l.desc
  let n := rgChunk l
  let at_ := chunkPlace l c
  let s := (store (l.by_ p eRxe) (cdLbuf l.desc 0 + at_ * elemBytes f n) (bs.take (elemBytes f n)) s).2
  if isMx f then
    let all := if cdKind l.desc = kAllgather then rgN l * n else if cdKind l.desc = kReduceScatter then n else cdCount l.desc
    (store (l.by_ p eRxe) (cdLbuf l.desc 0 + elemBytes f all + at_ * blocksOf n) (bs.drop (elemBytes f n)) s).2
  else s

/-- The ring has run its rounds at the member. -/
def ringEnd (p : Nat) (l : Landing) (s : State) : State := testColl p l.id (putLand p { l with released := true } s)

/-- A round's data is sent where there is another round; otherwise the ring ends. -/
def ringPass (p : Nat) (l : Landing) (k : Nat) (pls : List (List Byte)) (s : State) : State :=
  if k ≤ rgLast l then sendRound p l k pls s else s

/-- A complete chunk has been summed: it is rounded once, delivered, and passed on. -/
def ringComplete (p : Nat) (l : Landing) (k c : Nat) (xs : List RingBlk) (s : State) : State :=
  let rs := xs.map (ringRound p l)
  let s := nansProduced (rs.flatMap Prod.snd) s
  let bs := packElems (cdDst l.desc) (rs.flatMap Prod.fst)
  let l := { l with status := (xs.map RingBlk.status).foldl orStatus l.status }
  let s := landChunk p l c bs (putLand p l s)
  if k = rgLast l then ringEnd p l s else ringPass p l (k + 1) (payloadsOf bs) s

/-- Round k has landed at a member of a ring that carries data. -/
def ringData (p : Nat) (l : Landing) (k : Nat) (s : State) : State :=
  let d := l.desc
  let w := l.by_ p eTxe
  let c := rgRecvChunk l k
  if reduces d ∧ k < rgN l - 1 then
    match fetch w .rd (rgLand l + k * rgRound l) (rgRound l + 16) s with
    | (none, s) => endColl p l csFaulted s
    | (some bs, s) =>
      match ringParts d (rgChunk l / 32) (rgChunk l / 32) bs, ringOwns p l (chunkBlocks l c) s with
      | none, _ => s
      | some _, (none, s) => endColl p l csFaulted s
      | some xs, (some ys, s) =>
        let zs := List.zipWith (ringAdd d) ys xs
        if k = rgN l - 2 then ringComplete p l k c zs s
        else ringPass p l (k + 1) (ringPayloads d zs) s
  else
    match fetch w .rd (rgLand l + k * rgRound l) (dstBytes l) s with
    | (none, s) => endColl p l csFaulted s
    | (some bs, s) =>
      let s := ringPass p l (k + 1) (payloadsOf bs) (landChunk p l c bs s)
      if k = rgLast l ∨ cdKind d = kBroadcast then ringEnd p l s else s

/-- The n-th token of a ring barrier: the first round gathers, the second releases (R276; DEDUCED: log entry 25). -/
def ringToken (p : Nat) (l : Landing) (n : Nat) (s : State) : State :=
  let s := if n = 1 ∨ (n = 2 ∧ rgPos l + 1 < rgN l) then sendRound p l 0 [[]] s else s
  if (rgPos l = 0 ∧ n = 1) ∨ n = 2 then ringEnd p l s else s

/-- The TXE takes what the flag of a round has triggered: the work on its data, and the next send (R276). -/
def fireRound (p id : Nat) (k : Nat × Nat) (s : State) : State :=
  match landById s p id with
  | none => s
  | some l =>
    let l := { l with due := l.due.erase k }
    let s := putLand p l s
    if cdKind l.desc = kBarrier then ringToken p l k.2 s else ringData p l k.1 s

/-- Triggered ring sends of a context run on its pier while it is resident and no switch is under way; others stay queued (R284). -/
def fireRings (p : Nat) (s : State) : State :=
  let ready := fun (l : Landing) => residentOn s l.run.ctx p && !(getPier s p).switching
  (((getPier s p).lands.filter ready).flatMap fun l => l.due.map fun k => (l.id, k)).foldl (fun s q => fireRound p q.1 q.2 s) s

/-- Data with LAST has landed in the LAND of a ring: the flag of its round is set. -/
def ringLanded (p : Nat) (l : Landing) (oparg : Nat) (s : State) : State :=
  let k := if cdKind l.desc = kBroadcast then oparg / max 1 (rgRound l) else rgFirst l + l.lasts.length
  let l := { l with lasts := l.lasts ++ [k] }
  fireRings p (putLand p { l with due := l.due ++ [(k, l.lasts.length)] } s)

/-- Launches a ring: its landing is armed, and the member sends its first round. -/
def launchRing (p : Nat) (l : Landing) (s : State) : State :=
  let d := l.desc
  let w := l.by_ p eTxe
  let s := arm p { rcd := rgRx l, run := l.run, mode := 1, dst := rgLand l, len := 2 * (rgN l - 1) * rgRound l, coll := some l.id } s
  let s := contributed p l s
  if cdKind d = kBarrier then (if rgPos l = 0 then sendRound p l 0 [[]] s else s)
  else if reduces d then
    match ringOwns p l (chunkBlocks l (rgPos l)) s with
    | (none, s) => endColl p l csFaulted s
    | (some xs, s) => sendRound p l 0 (ringPayloads d xs) s
  else if cdKind d = kAllgather ∨ l.rank = cdRoot d then
    match fetch w .rd (cdSbuf d) (bufBytes (cdSrc d) (cdCount d)) s with
    | (none, s) => endColl p l csFaulted s
    | (some bs, s) =>
      let c := if cdKind d = kAllgather then (rgPos l + 1) % rgN l else 0
      let s := sendRound p l (rgN l - 1) (payloadsOf bs) (landChunk p l c bs s)
      if cdKind d = kBroadcast then ringEnd p l s else s
  else s

/-! ### Launch (10 R261, R262; 11 R310) -/

/-- Barrier record (10 Table 10.7). -/
def barrierRecord (kind step start frac : Nat) : List Byte :=
  beBytes 1 kind ++ beBytes 7 0 ++ beBytes 8 step ++ beBytes 8 start ++ beBytes 1 frac ++ beBytes 7 0

/-- A member sends ARRIVE up its edge (10 R280), as a packet of its command or again later. -/
def sendArrive (p : Nat) (l : Landing) (kind : Nat) (s : State) : State :=
  match memberEdge s l with
  | none => s
  | some (t, _) =>
    inject { src := 700 + p, kind := kind,
             bytes := mkPacket { epoch := curEpoch s, cls := clCtrl, op := opBarrier, src := l.rank, job := t.job,
                                 oparg := collArg t.num (cdCseq l.desc) } (barrierRecord 1 0 0 0) } s

/-- Bytes that AUX points to. -/
def auxBytes (d : List Byte) : Nat :=
  if cdCarrier d = 1 then 64
  else if cdKind d = kAlltoall ∨ cdKind d = kAlltoallv then 32 * cdNmem d
  else if cdKind d = kStream then 4 * cdNlist d
  else 0

/-- LIST of a landing. -/
def auxList (d aux : List Byte) : List Nat :=
  if cdCarrier d = 1 then ringList aux
  else if cdKind d = kStream then (List.range (cdNlist d)).map fun i => le aux (4 * i) 4
  else if cdKind d = kAlltoall ∨ cdKind d = kAlltoallv then
    ((List.range (cdNmem d)).map fun i => le aux (32 * i + 4) 4) ++ (List.range (cdNmem d)).map fun i => le aux (32 * i) 4
  else []

/-- A landing as it is armed. -/
def newLanding (id : Nat) (r : RunCmd) (fused : Bool) (list : List Nat) (flag rank : Nat) : Landing :=
  { id := id, run := r, fused := fused, desc := r.desc, list := list, flag := flag, rank := rank, status := 0, got := [], ends := [],
    cnts := [], wrote := [], tabs := [], dropped := 0, exps := [], lasts := [], due := [], next := 0, sent := false, released := false }

/-- Arms a landing (10 R262). -/
def armLanding (p : Nat) (l : Landing) (s : State) : State :=
  onPier p (fun q => { q with lands := q.lands ++ [l], nextId := l.id + 1
                              expired := q.expired.erase (cdTree l.desc, cdCseq l.desc) }) s

/-- Words of the table area that a program sends to a landing buffer of a member (09 R249). -/
def tableArea (prog d : List Byte) (b : Nat) : Nat :=
  cdNlist d * ((List.range (pgLen prog)).map fun i =>
    let x := pgIns prog i
    if x.op = 0x24 ∧ x.sub / 4 % 2 = b then pgTsize prog (x.sub % 4) else 0).foldl max 0

/-- Bytes of landing buffer b that a collective may write at a member of a rank. -/
def landingBytes (prog d : List Byte) (rank b : Nat) : Nat :=
  let k := cdKind d
  let f := cdDst d
  let c := cdCount d
  if k = kStream then cdLcount d b * (8 + 4 * pgWout prog b + cdBstride d b) + 4 * tableArea prog d b
  else if b = 1 ∨ k = kBarrier ∨ k = kAlltoall ∨ k = kAlltoallv ∨ (k = kReduce ∧ rank ≠ cdRoot d) then 0
  else if k = kAllgather then elemBytes f (cdNmem d * c) + if isMx f then cdNmem d * blocksOf c else 0
  else bufBytes f (if k = kReduceScatter then c / cdNmem d else c)

/-- The ranges of memory and stores that a descriptor gives a member of a rank, its AUX apart (11 R289, R300). -/
def descRanges (prog d aux : List Byte) (rank : Nat) (fused : Bool) : List (Nat × Nat) :=
  let k := cdKind d
  let a2a : Bool := k = kAlltoall ∨ k = kAlltoallv
  let es := if a2a then (List.range (cdNmem d)).map (a2aEntry d aux) else []
  (if fused then []
   else if k = kStream then [(cdSbuf d, 4 * pgWin prog * cdCount d)]
   else if a2a then es.map fun e => (cdSbuf d, srcBytes d e.soff + srcBytes d e.scount)
   else if reduces d ∨ k = kAllgather ∨ (k = kBroadcast ∧ rank = cdRoot d) then [(cdSbuf d, bufBytes (cdSrc d) (cdCount d))]
   else []) ++
  (if a2a then es.map fun e => (cdLbuf d 0, srcBytes d e.roff + srcBytes d e.rcount)
   else ((List.range 2).map fun b => (cdLbuf d b, landingBytes prog d rank b)).filter fun q => q.2 != 0) ++
  (if hasAnchor d && cdAmode d == 1 then [(cdAnchorPtr d, 2 * ((cdCount d + 4095) / 4096))] else []) ++
  if cdCarrier d = 1 ∧ k ≠ kBarrier then
    let l := newLanding 0 { bytes := [], seq := 0, ctx := 0, sig := none, seed := 0, ver := 0, status := none, desc := d } fused
      (auxList d aux) 0 rank
    [(rgLand l, 2 * (rgN l - 1) * rgRound l)]
  else []

/-- A range starts or ends outside the stores and memory that a pier reaches. -/
def rangeBad (q : Nat × Nat) : Bool := !addrOk eTxe q.1 || (isLocal q.1 && !localOk eTxe (q.1 % 2 ^ 24) q.2)

/-- A malformed descriptor (R261). -/
def collBad (p e : Nat) (r : RunCmd) (detail : Nat) (s : State) : State :=
  finish p e csMalformed 0 (byFault (r.by_ p e) 0x0A01 detail s)

/-- What a member does when its landing is armed. -/
def launched (p : Nat) (l : Landing) (aux : List Byte) (s : State) : State :=
  let d := l.desc
  if cdCarrier d = 1 then launchRing p l s
  else if cdKind d = kBarrier then contributed p l (sendArrive p l 3 s)
  else if cdKind d = kAlltoall ∨ cdKind d = kAlltoallv then launchA2a p l aux s
  else if cdKind d = kStream then sendRecords p l s
  else
    let s := if hasPrepass d && contributes l then sendExponents p l (blockFuel l) 0 s else s
    sendBlocks p l.id (blockFuel l) s

/-- Faulty fields of a COLL command. -/
def collFaults (r : RunCmd) : List Nat := noNumbers r.bytes ++ addrField eTxe r.bytes 0x10 128 0x10 ++ mustBeZero r.bytes 0x18 40

/-- Checks the descriptor of a COLL command and launches it. -/
def launchColl (p : Nat) (r : RunCmd) (s : State) : State :=
  let d := r.desc
  if le r.bytes 0x10 8 % 64 ≠ 0 then collBad p eTxe r 0 s
  else match descFault s r.ctx r.cflag d with
    | some o => collBad p eTxe r (collDetail (cdTree d) (cdCseq d) o) s
    | none =>
      let k := r.cflag.getD 0
      if rangeBad (cdAux d, auxBytes d) && auxBytes d != 0 then malformed p eTxe 0x10 r s
      else if 256 ≤ armedCount s p then s
      else match fetch (r.by_ p eTxe) .rd (cdAux d) (auxBytes d) s with
        | (none, s) => finish p eTxe csFaulted 0 s
        | (some aux, s) =>
          let rank := memberRank s r.ctx p d
          if ((cdKind d = kAlltoall ∨ cdKind d = kAlltoallv) ∧ !a2aOk s r.ctx (rank - cdRbase d) d aux) ∨
              (descRanges (progAt s (curEpoch s) (cdSlot d)) d aux rank false).any rangeBad then malformed p eTxe 0x10 r s
          else
            let l := newLanding (getPier s p).nextId r false (auxList d aux) k rank
            launched p l aux (armLanding p l s)

/-- COLL: the TXE of pier p checks a descriptor, arms the landing and launches the collective. x and sram are what the checks of
memory and stores find as it reads SBUF. -/
def execColl (p : PierNo) (x : MemSeen) (sram : Option (BitVec 24)) (s : State) : Host.Outcome State Fault Refusal :=
  .next (runOp p.val eTxe 0x32 (fun _ r => collFaults r) (fun r s =>
    let d := r.desc
    let s := if isLocal (cdSbuf d) then s else meetEcc x (cdSbuf d) (bufBytes (cdSrc d) (cdCount d)) s
    match sram with
    | some a => finish p.val eTxe csFaulted 0 (byFault (r.by_ p.val eTxe) 0x120C a.toNat s)
    | none => launchColl p.val r s) s)

/-! ### Fused launch (11 R303) -/

/-- The descriptor does not suit the product. -/
def fusedUnsuited (r : RunCmd) : Bool :=
  let d := r.desc
  let k := cdKind d
  !(k == kAllreduce || k == kReduce || k == kReduceScatter || k == kAllgather) || cdSrc d != zrCode (cmFc r.bytes) ||
    cdCount d != mmM r.bytes * mmN r.bytes || cdAmode d == 2

/-- Faulty fields of a MATMUL_SEND. -/
def matmulSendFaults (g : Nat) (r : RunCmd) : List Nat :=
  mmFaults g true r.bytes ++ breaks (mmN r.bytes % 64 != 0) 0x26 ++ addrField g r.bytes 0x38 128 0x38

/-- Row segments of 64 elements of finished rows, by row and first column, in the logical tiling order (11 R302, R303). -/
def tileSegments (n rows : Nat) : List (Nat × Nat) :=
  (List.range ((rows + 31) / 32)).flatMap fun bi => (List.range (n / 64)).flatMap fun bj =>
    (List.range (min 32 (rows - 32 * bi))).map fun i => (32 * bi + i, 64 * bj)

/-- Sends row segments, until the read of an anchor is denied. -/
def sendSegments (p : Nat) (l : Landing) (n : Nat) (rows : List MmRow) : List (Nat × Nat) → State → Bool × State
  | [], s => (true, s)
  | (i, j) :: r, s =>
    let blk := firstBlock l + (i * n + j) / 32
    match rows[i]?, anchorOf (l.by_ p eTxe) l blk s with
    | some row, (some (some a), s) =>
      sendSegments p l n rows r (sendMember p l (fun t => blk / 128 % t.nrse)
        (nativePayload l.desc a blk 2 ((row.pats.drop j).take 64) ((row.scales.drop (j / 32)).take 2)) s)
    | _, (_, s) => (false, s)

/-- A fused product has been worked: the blocks of its finished rows are sent; where an anchor is denied, the landing is disarmed
and the command ends FAULTED (03 R74). -/
def sendProduct (p g : Nat) (l : Landing) (n : Nat) (rows : List MmRow) (done : Bool) (s : State) : State :=
  match sendSegments p l n rows (tileSegments n rows.length) s with
  | (false, s) => finish p g csFaulted 0 (endColl p l csFaulted s)
  | (true, s) => if done then contributed p l s else s

/-- MATMUL_SEND: GEg computes a matrix product and sends its blocks as contributions of a collective. -/
def execMatmulSend (p : PierNo) (g : GirdNo) (x : PierErr) (s : State) : Host.Outcome State Fault Refusal :=
  .next (runOp p.val g.val 0x11 (fun _ r => matmulSendFaults g.val r) (fun r s =>
    let p := p.val
    let d := r.desc
    let ring := cdCarrier d = 1
    if le r.bytes 0x38 8 % 64 ≠ 0 then collBad p g.val r 0 s
    else match descFault s r.ctx r.cflag d with
      | some o => collBad p g.val r (collDetail (cdTree d) (cdCseq d) o) s
      | none =>
        let k := r.cflag.getD 0
        let rank := memberRank s r.ctx p d
        if fusedUnsuited r ∨ ring ∨ (descRanges [] d [] rank true).any rangeBad then malformed p g.val 0x38 r s
        else if errFaults x then girderErr p g.val r x s
        else if 256 ≤ armedCount s p then s
        else
          let l := newLanding (getPier s p).nextId r true [] k rank
          let q := matProduct p g.val r (armLanding p l (pierCorr p g.val r x s))
          sendProduct p g.val l (mmN r.bytes) q.1 q.2.1 q.2.2) s)

/-! ### Landings (08 Table 8.6; 10 R259, R263) -/

/-- Writes patterns of a format as elements from e of a buffer of all elements; elements that share a byte with others are merged
into it (07 R175). -/
def putElems (w : By) (buf f e all : Nat) (ps : List Nat) (s : State) : Bool × State :=
  let k := fmtBits f
  let lo := e * k
  let hi := lo + ps.length * k
  if lo % 8 = 0 ∧ (hi % 8 = 0 ∨ e + ps.length = all) then store w (buf + lo / 8) (packElems f ps) s
  else
    let a := buf + lo / 8
    let n := (hi + 7) / 8 - lo / 8
    let old := ofLe (if isLocal a then ctxLocRd s w.ctx w.pier (a % 2 ^ 24) n else hbmRd s a n)
    let o := lo % 8
    let m := hi - lo
    store w a (leBytes n (old % 2 ^ o + packNat k ps * 2 ^ o + old / 2 ^ (o + m) * 2 ^ (o + m))) s

/-- Where a RESULT packet's elements land: the element of LBUF0, the elements that count, all elements of the buffer, and the
first scale byte. -/
def landPlace (l : Landing) (e n : Nat) : Option (Nat × Nat × Nat × Nat) :=
  let d := l.desc
  let c := cdCount d
  if cdKind d = kAllgather then
    let g := gatherStride d
    if e % g < c ∧ e / g < cdNmem d then
      some (e / g * c + e % g, min n (c - e % g), cdNmem d * c, e / g * blocksOf c + e % g / 32)
    else none
  else if cdKind d = kReduceScatter then
    let q := c / cdNmem d
    let b := memberPos l * q
    if b ≤ e ∧ e < b + q then some (e - b, min n (b + q - e), q, (e - b) / 32) else none
  else if e < c then some (e, min n (c - e), c, e / 32)
  else none

/-- A RESULT packet lands (R263). -/
def landResult (p : Nat) (l : Landing) (pl : List Byte) (s : State) : State :=
  let h := pheadOf pl
  let f := cdDst l.desc
  let n := 32 * h.nblk
  let w := l.by_ p eRxe
  match landPlace l h.elem n with
  | none => s
  | some (e, m, all, sc) =>
    let body := pl.drop 16
    let q := putElems w (cdLbuf l.desc 0) f e all ((unpackElems f body n).take m) s
    let q := if isMx f && q.1 then
        store w (cdLbuf l.desc 0 + elemBytes f all + sc) (slice body (elemBytes f n) (blocksOf m)) q.2
      else q
    if !q.1 then q.2
    else
      let new := ((List.range (blocksOf m)).map fun i => h.elem + 32 * i).filter fun x => !l.got.contains x
      testColl p l.id (putLand p { l with got := l.got ++ new, status := orStatus l.status h.status } q.2)

/-- The M bytes of a pre-pass reach a member, which sends the blocks whose anchors it now knows (08 R214). -/
def landExponents (p : Nat) (l : Landing) (pl : List Byte) (s : State) : State :=
  let h := pheadOf pl
  let new := (List.range h.nblk).filterMap fun i =>
    let ab := h.elem / 256 + i
    if l.exps.any fun e => e.1 == ab then none else some (ab, be pl (16 + i) 1)
  sendBlocks p l.id (blockFuel l) (putLand p { l with exps := l.exps ++ new, status := orStatus l.status h.status } s)

/-- The first COLL_DN packet of a FORM at pier p meets its stream's check: it lands, or is discarded after an expiry. -/
def memberIntake (p form : Nat) (f : Landing → List Byte → State → State) (s : State) : State :=
  match arrivedAt s p fun b => pkOp b == opColl && pkClass b == clCollDn && be b 32 1 == form with
  | none => s
  | some a =>
    let b := a.bytes
    let w := pierAnswers s (srCtx s (pkSr b)) p
    let l := landOf s p b
    let r := rxCheck w b (if l.isNone && !isExpired s p b then some 3 else none) (takeArrived a s)
    match r.1, l with
    | true, some l => rxAccept w b (f l (pkPayload b) r.2)
    | true, none => rxAccept w b r.2
    | false, _ => r.2

/-- A RESULT packet at an RSE is well formed (08 R218, R221). -/
def resultOk (o : RseOp) (pl : List Byte) : Bool :=
  let p := pheadOf pl
  let d := o.desc
  pheadOk pl && spanOk o p && (reduces d || cdKind d == kAllgather || cdKind d == kBroadcast) &&
    pl.length == 16 + bufBytes (cdDst d) (32 * p.nblk)

/-- A RESULT goes down on the edges that need it (10 R272), and the operation ends at the RSE with its last one. -/
def passResult (v : Nat) (t : Tree) (pos : Nat) (pl : List Byte) (o : RseOp) (s : State) : State :=
  let p := pheadOf pl
  let s := sendDown v o.node t o.cseq pos (2 ^ flMcast) (needsResult o t p.elem) (markDown o pl) s
  match findOp s o.node o.tree o.cseq with
  | some o => settleOp t pos { o with passed := o.passed + p.nblk } s
  | none => s

/-- A RESULT packet at RSE n: from above on its edge, or beyond one edge to the RSE that it names (10 R268, R272). -/
def resultAtRse (n : Nat) (k : Known) (s : State) : State :=
  let take := fun (t : Tree) (pos : Nat) (b : List Byte) (o : RseOp) (s : State) =>
    if resultOk o (pkPayload b) then passResult (pkEpoch b) t pos (pkPayload b) o s else partialMalformed o b s
  match rseHeld s n fmResult clCollDn with
  | none => wrongClass n fmResult clCollUp k s
  | some h =>
    let b := h.bytes
    if !opRseDst b then intakeDown n fmResult k take s
    else
      let s := takeHeld h s
      if !pkCheckOk b then bump (A.rtCnt 4) 1 s
      else match packetTree s b with
        | none => routeErr b false s
        | some t =>
          let o := (findOp s n t.num (opCseq b)).getD (newOp s n t (opCseq b) k)
          if o.bad then s else take t (treePos t b) b o s

/-- RESULT: the first RESULT packet at pier u, or at RSE u − 128. -/
def execResult (u : Fin 208) (k : Known) (s : State) : Host.Outcome State Fault Refusal :=
  if u.val < 128 then .next (memberIntake u.val fmResult (landResult u.val) s) else .next (resultAtRse (u.val - 128) k s)

/-- EXPONENT: the first EXPONENT packet at pier u, or at RSE u − 128, there from below or from above (08 R214). -/
def execExponent (u : Fin 208) (up : Bool) (k : Known) (s : State) : Host.Outcome State Fault Refusal :=
  if u.val < 128 then .next (memberIntake u.val fmExponent (landExponents u.val) s) else .next (exponentAtRse (u.val - 128) up k s)

/-! ### Stream landings (09 R248-R250) -/

/-- The first packet of a stream kind at pier p, with its landing; one of an expired collective is discarded, and one that fails its
check too. It waits while no landing is armed (DESIGN CHOICE: log entry 17). -/
def strmArrived (p kind : Nat) (f : Landing → List Byte → State → State) (s : State) : State :=
  match arrivedAt s p fun b => pkOp b == opColl && pkClass b == clCollDn && be b 32 1 == kind with
  | none => s
  | some a =>
    let b := a.bytes
    if !pkCheckOk b then bump (A.rtCnt 4) 1 (takeArrived a s)
    else if isExpired s p b then takeArrived a s
    else match landOf s p b with
      | some l => f l b (takeArrived a s)
      | none => s

/-- The landing entries of an OUT packet: those that its RSE noted, or those that come with it (DESIGN CHOICE: log entry 16). -/
def entriesOf (l : Landing) (b : List Byte) (given : List Nat) (s : State) : List Nat × State :=
  let key := [opTree b, opCseq b, pkSrc b, l.rank, smGet 0 l.cnts (pkSrc b)]
  match s.net.entries.find? fun e => e.1 == key with
  | some e => (e.2, onNet (fun m => { m with entries := m.entries.erase e }) s)
  | none => (given, s)

/-- Writes a record and its body at entry en of a landing buffer; the first one stays (R248). -/
def landRecord (p bb w : Nat) (rec_ body : List Byte) (hasBody : Bool) (en : Nat) (l : Landing) (s : State) : Landing × State :=
  let d := l.desc
  if cdLcount d bb ≤ en then (l, s)
  else if l.wrote.contains (2 ^ 32 * bb + en) then
    (l, byFault (l.by_ p eRxe) 0x0907 (2 ^ 56 * bb + 2 ^ 32 * (l.rank % 2 ^ 24) + en) s)
  else
    let s := (store (l.by_ p eRxe) (cdLbuf d bb + en * (8 + 4 * w)) rec_ s).2
    let s := if hasBody then
        (store (l.by_ p eRxe) (cdLbuf d bb + cdLcount d bb * (8 + 4 * w) + en * cdBstride d bb) body s).2
      else s
    ({ l with wrote := l.wrote ++ [2 ^ 32 * bb + en] }, s)

/-- The tables that a program sends to a landing buffer of a rank, in the order in which it sends them. -/
def emittedTables (prog d : List Byte) (bb rank : Nat) : List Nat :=
  (List.range (pgLen prog)).filterMap fun i =>
    let x := pgIns prog i
    if x.op = 0x24 ∧ x.sub / 4 % 2 = bb ∧ cdParam d (x.imm % 4) % 2 ^ 24 = rank then some (x.sub % 4) else none

/-- The table of the n-th word that an RSE sends to a landing buffer, and its entry there. -/
def tableSpot (prog : List Byte) : List Nat → Nat → Nat × Nat
  | [], n => (0, n)
  | t :: r, n => if n < pgTsize prog t then (t, n) else tableSpot prog r (n - pgTsize prog t)

/-- Writes table words: an RSE sends its tables one after the other, each of them from word LPOS × TSIZE of the table area (R249). -/
def landTable (p bb : Nat) (b : List Byte) (l : Landing) (s : State) : Landing × State :=
  let d := l.desc
  let pl := pkPayload b
  let prog := progAt s (b2n (bit (sheadOf pl).status 2)) (cdSlot d)
  let pos := (l.list.findIdx? fun e => homeDst e == pkSrc b).getD 0
  let n := smGet 0 l.tabs (2 * pos + bb)
  let (t, o) := tableSpot prog (emittedTables prog d bb l.rank) n
  let ws := pl.drop 16
  let area := cdLbuf d bb + cdLcount d bb * (8 + 4 * pgWout prog bb) + cdLcount d bb * cdBstride d bb
  let s := (store (l.by_ p eRxe) (area + 4 * (pos * pgTsize prog t + o)) ws s).2
  ({ l with tabs := smPut 0 l.tabs (2 * pos + bb) (n + ws.length / 4) }, s)

/-- OUT: the first OUT packet at pier u lands (R248, R249). -/
def execOutPkt (u : PierNo) (entries : List Nat) (s : State) : Host.Outcome State Fault Refusal :=
  .next (strmArrived u.val 0x12 (fun l b s =>
    let pl := pkPayload b
    let h := sheadOf pl
    let bb := h.lbuf % 2
    let (es, s) := entriesOf l b entries s
    let l := { l with status := orStatus l.status h.status, cnts := smPut 0 l.cnts (pkSrc b) (smGet 0 l.cnts (pkSrc b) + 1) }
    let q := if h.w = 0 then landTable u.val bb b l s
      else
        let n := 8 + 4 * h.w
        (List.range h.nrec).foldl (fun (acc : Landing × State) i =>
          landRecord u.val bb h.w (slice pl (16 + n * i) n) (slice pl (16 + n * h.nrec) h.blen) h.body (es.getD i (2 ^ 32)) acc.1 acc.2)
          (l, s)
    testColl u.val l.id (putLand u.val q.1 q.2)) s)

/-- An END reaches a member (R238, R250). -/
def endAtMember (p : Nat) (s : State) : State :=
  strmArrived p 0x13 (fun l b s =>
    let h := sheadOf (pkPayload b)
    if l.ends.any fun e => e.1 == pkSrc b then s
    else testColl p l.id (putLand p { l with ends := l.ends ++ [(pkSrc b, h.count)], dropped := (l.dropped + h.idx) % 2 ^ 32
                                             status := orStatus l.status h.status } s)) s

/-- END: the first END packet at pier u, or at RSE u − 128. -/
def execEndPkt (u : Fin 208) (k : Known) (s : State) : Host.Outcome State Fault Refusal :=
  if u.val < 128 then .next (endAtMember u.val s) else .next (endAtRse (u.val - 128) k s)

/-! ### PUT (11 R308, R310) -/

/-- A packet with LAST has landed in a STANDING receive. -/
def standingLast (p : Nat) (v : Recv) (b : List Byte) (s : State) : State :=
  match v.coll with
  | none => match cmSigEn v.run.bytes, v.run.sig with
    | true, some k => signal (v.by_ p) (cmSigf v.run.bytes) k s
    | _, _ => s
  | some id => match landById s p id with
    | none => s
    | some l =>
      if cdCarrier l.desc = 1 then ringLanded p l (pkOparg b) s
      else testColl p id (putLand p { l with lasts := l.lasts ++ [v.rcd] } s)

/-- PUT: the first PUT packet at pier p lands in the STANDING receive of its record. -/
def execPut (p : PierNo) (s : State) : Host.Outcome State Fault Refusal :=
  .next (onData p.val opPut (fun s b => recvOf s p.val (pkSr b) 1) (fun v b s =>
    let q := landIn p.val v b s
    if q.1 && pkFlag b flLast then standingLast p.val v b q.2 else q.2) s)

end Sys2Proof.Machine
end

