-- ==== Sys2Proof/Machine/Spare.lean ====
section
/-! DEFINITION. Spare admission (17 R443-R448). -/

namespace Sys2Proof.Machine
open Sys2Proof

/-! STATE of DK_SPARE_STATUS (17 Table 17.14). -/

def spNone : Nat := 0
def spStandby : Nat := 1
def spLoading : Nat := 2
def spReady : Nat := 3
def spArmed : Nat := 4
def spAdmitted : Nat := 5

def spareState (s : State) : Nat := rf s A.dkSpareStatus 31 28
def setSpare (st : Nat) (s : State) : State := wf A.dkSpareStatus 31 28 st s

/-- An abort with a CAUSE: 1 RUNTIME, 2 FENCED, 3 SILENT (R443, R444). -/
def spareAbort (cause : Nat) (s : State) : State :=
  raiseEvent { code := 0x110A, detail := cause } (wf A.dkSpareStatus 27 24 cause (setSpare spStandby s))

/-- The partner's entry in the version in force is fenced or invalid. -/
def partnerGone (s : State) : Bool :=
  match resolveRank s (rf s A.dkSpareStatus 15 0) (curEpoch s) (rf s A.dkSpareCfg 23 0) with
  | some w => reFenced w
  | none => true

/-- A LOADING spare whose partner is gone aborts with FENCED (R444). -/
def checkPartner (s : State) : State := if spareState s = spLoading ∧ partnerGone s then spareAbort 2 s else s

/-- Port p writes DK_SPARE_CTRL (Table 17.9): its state, and its status. -/
def writeSpareCtrl (p : GPort) (w : Word) (s : State) : State × Nat :=
  let op := fget w 3 0
  let st := spareState s
  let took := wn A.dkSpareCtrl op s
  if !holds s p 0 then (klDenied p A.dkSpareCtrl s, stIgnored)
  else if op = 1 ∧ st = spNone ∧ imgState s = imActive then (setSpare spStandby took, stOk)
  else if op = 2 ∧ st = spStandby then
    (checkPartner (setSpare spLoading (wf A.dkSpareStatus 15 0 (rf s A.dkSpareJob 15 0) took)), stOk)
  else if op = 3 ∧ st = spLoading then (setSpare spReady took, stOk)
  else if op = 4 ∧ st = spReady then (wn A.dkStepCtrl 1 (setSpare spArmed took), stOk)
  else if op = 5 ∧ st = spLoading then (spareAbort 1 took, stOk)
  else if op = 5 ∧ (st = spReady ∨ st = spArmed) then (spareAbort 1 (wn A.dkStepCtrl 0 took), stOk)
  else if op = 6 ∧ (st = spStandby ∨ st = spAdmitted) then (setSpare spNone took, stOk)
  else (s, stIgnored)

/-- An operation written by a port. -/
def spareOp (p : GPort) (op : Nat) (s : State) : State := wrRow p A.dkSpareCtrl (BitVec.ofNat 32 op) (writeSpareCtrl p) s

/-- STANDBY: NONE becomes STANDBY_EMPTY, with the image ACTIVE. -/
def execStandby (p : GPort) (s : State) : Host.Outcome State Fault Refusal := .next (spareOp p 1 s)

/-- BEGIN_LOAD: STANDBY_EMPTY becomes LOADING, and the job to watch is copied. -/
def execBeginLoad (p : GPort) (s : State) : Host.Outcome State Fault Refusal := .next (spareOp p 2 s)

/-- LOADED: LOADING becomes READY. -/
def execLoaded (p : GPort) (s : State) : Host.Outcome State Fault Refusal := .next (spareOp p 3 s)

/-- ARM: READY becomes ARMED, with FLIP_AT_STEP set. -/
def execArm (p : GPort) (s : State) : Host.Outcome State Fault Refusal := .next (spareOp p 4 s)

/-- ABORT: LOADING, READY or ARMED becomes STANDBY_EMPTY. -/
def execAbort (p : GPort) (s : State) : Host.Outcome State Fault Refusal := .next (spareOp p 5 s)

/-- SPARE_RELEASE: STANDBY_EMPTY or ADMITTED becomes NONE. -/
def execSpareRelease (p : GPort) (s : State) : Host.Outcome State Fault Refusal := .next (spareOp p 6 s)

/-- SPARE_LOAD_WATCHDOG: no packet of the partner has been delivered for LOAD_WD ms: a LOADING spare aborts with SILENT. -/
def execSpareLoadWatchdog (s : State) : Host.Outcome State Fault Refusal :=
  .next (if spareState s = spLoading then spareAbort 3 s else s)

/-- A step boundary at an ARMED spare, once DK_STEP has its value; flipped is whether the FLIP was performed. -/
def spareBoundary (flipped : Bool) (s : State) : State :=
  let due := rn64 s (A.dkSpareStep 0)
  if spareState s ≠ spArmed then s
  else if s.step = due ∧ flipped then raiseEvent { code := 0x1109, detail := s.step } (setSpare spAdmitted s)
  else if due ≤ s.step then raiseEvent { code := 0x110B, detail := s.step } (setSpare spReady s)
  else s

end Sys2Proof.Machine
end

