-- ==== Sys2Proof/Machine/Epoch.lean ====
section
/-! DEFINITION. Flips and retirements of the epoch: routing versions, armed images, tree records, reservations, repairs (05
R133-R138; 10 R266, R270; 15 R399), and tree barriers with the step boundary (10 R280-R283). -/

namespace Sys2Proof.Machine
open Sys2Proof

/-! ### Tree records (10 R266) -/

/-- A record that a tree entry names at this module: its number, its class, and the other end's. -/
structure TreeRec where
  sr : Nat
  cls : Nat
  ctx : Nat
  job : Nat
  rank : Nat
  peer : Nat
  deriving DecidableEq, Repr

/-- The member of an edge is a pier of this module, whose records stand in the same table. -/
def pierMember (s : State) (t : Tree) (x : Edge) : Bool :=
  x.member && match resolveRank s t.job t.ver x.rank with
    | some w => reKind w == 1 && ownSwitch s == some (reSwitch w)
    | none => false

/-- The records of an edge. -/
def edgeRecs (s : State) (t : Tree) (x : Edge) : List TreeRec :=
  if !x.v then []
  else (List.range t.nrse).flatMap fun i => [0, 1].flatMap fun c =>
    let cls := if c = 0 then clCollUp else clCollDn
    let rank := if x.member then x.rank else 0
    let near := x.esr + 2 * i + c
    let far := x.pesr + 2 * i + c
    { sr := near, cls := cls, ctx := t.ctx, job := t.job, rank := rank, peer := far } ::
      (if pierMember s t x then [{ sr := far, cls := cls, ctx := t.ctx, job := t.job, rank := rank, peer := near }] else [])

/-- The entries of a version that are VALID with fields in their ranges, whether or not they fit. -/
def treeEntries (s : State) (v : Nat) : List Tree :=
  let base := rn64 s (A.rtTreeBase v 0)
  if base = 0 then [] else ((List.range 4096).filter fun t => hbmByte s (base + 1024 * t) == 1).filterMap (treeEntry s v)

/-- The records that the entries of a version name; a tree that does not fit opens none (R264, R270). -/
def treeRecs (s : State) (v : Nat) : List TreeRec := (validTrees s v).flatMap fun t => (t.up :: t.down).flatMap (edgeRecs s t)

/-- A flip opens the records that only the new version names. -/
def openRecs (new old : List TreeRec) (s : State) : State :=
  (new.filter fun r => !old.any fun q => q.sr == r.sr).foldl (fun s r => srWrite r.sr r.cls r.ctx r.rank r.peer r.job 64 s) s

/-- A retirement frees the records that only the retired version names. -/
def freeRecs (gone kept : List TreeRec) (s : State) : State :=
  (gone.filter fun r => !kept.any fun q => q.sr == r.sr).foldl (fun s r => endStream r.sr srFree s) s

/-! ### Reservations (10 R270) -/

/-- KiB that a tree takes at RSE n. -/
def treeRbuf (t : Tree) (n : Nat) : Nat := if t.rses.contains n then t.rbuf else 0

/-- KiB reserved at each RSE by trees of a version that fit. -/
def reservedAt (ts : List Tree) (n : Nat) : Nat := (ts.map fun t => treeRbuf t n).sum

/-- The reservation of a number by the version going out of force. -/
def heldBy (old : List Tree) (t n : Nat) : Nat := match old.find? fun q => q.num == t with
  | some q => treeRbuf q n
  | none => 0

/-- Fits trees one after the other around what is reserved: the first RSE, in the entry's order, at which a tree does not fit. -/
def fitTrees (old : List Tree) : List Tree → List (Nat × Nat) → List (Nat × Nat)
  | [], _ => []
  | t :: ts, used =>
    let more := fun (n : Nat) => treeRbuf t n - heldBy old t.num n
    match t.rses.find? fun n => decide (1024 < smGet 0 used n + more n) with
    | some n => (t.num, n) :: fitTrees old ts used
    | none => fitTrees old ts (t.rses.eraseDups.foldl (fun u n => smPut 0 u n (smGet 0 u n + more n)) used)

/-- The trees of version v that do not fit as it comes into force, beside the old version's that do. -/
def newNoFit (s : State) (v : Nat) : List (Nat × Nat) :=
  let old := validTrees s (1 - v)
  let new := treeEntries s v
  let both := fun (t : Tree) => old.any fun q => q.num == t.num
  let used := (List.range 80).foldl (fun u n => smPut 0 u n (reservedAt old n)) []
  fitTrees old (new.filter both ++ new.filter fun t => !both t) used

/-- Reserves for the version that has come into force. -/
def reserveTrees (v : Nat) (s : State) : State :=
  let bad := newNoFit s v
  let s := onFab (fun f => { f with noFit := f.noFit.filter (fun k => k / 4096 != v) ++ bad.map fun q => 4096 * v + q.1 }) s
  bad.foldl (fun s q => raiseEvent { code := 0x0A04, unit := rseUnit q.2, detail := 2 ^ 40 * q.2 + q.1 } s) s

/-! ### What a change of membership does to collectives under way (05 R138; 08 R223) -/

/-- From state s to state s', a member of a job has been marked FENCED that was not before. -/
def fencedSince (s s' : State) (job r : Nat) : Bool := rankLiveIn s job (curEpoch s) r && !rankLive s' job r

/-- A collective at an RSE has members that have been fenced. -/
def opFenced (s s' : State) (o : RseOp) : Bool :=
  match treeEntry s o.ver o.tree with
  | some t => (cdRanks o.desc).any (fencedSince s s' t.job)
  | none => false

/-- A member that a stream operation still waits for at its first-hop RSE has been fenced before its END came (09 R239). -/
def strmFenced (s s' : State) (o : StrmOp) : Bool :=
  match treeEntry s o.ver o.tree with
  | some t => (assigned s o).any fun r => fencedSince s s' t.job r && !o.s0.ends.any fun e => e.1 == r
  | none => false

/-- Collectives at the RSEs whose membership a flip has changed say so from now on; the flip of a step boundary changes no reduction (08
R223). -/
def markChanged (step : Bool) (s s' : State) : State :=
  onNet (fun m => { m with ops := m.ops.map fun o => if !step && opFenced s s' o then { o with changed := true } else o
                           strm := m.strm.map fun o => if strmFenced s s' o then { o with changed := true } else o }) s'

/-- Completion counts are tested again: blocks at the RSEs, streaming stages, landings. -/
def recount (s : State) : State :=
  let s := advanceAll s
  let s := s.net.strm.foldl (fun s o => noteReady o.node
    (endStreaming o.node o.tree o.cseq 1 (endStreaming o.node o.tree o.cseq 0 s))) s
  s.pr.piers.foldl (fun s q => q.2.lands.foldl (fun s l => testColl q.1 l.id s) s) s

/-! ### FLIP and RETIRE (05 R134, R135) -/

/-- A FLIP is refused. -/
def flipRefused (s : State) : Bool :=
  oldLive s || loading s || (rn64 s (A.rtTreeBase (otherEpoch s) 0) != 0 && rn64 s (A.rtSrBase 0) == 0)

/-- What the module's own sources have not injected yet will carry the new CUR (05 R134), as do the copies kept of it. -/
def restamp (s : State) : State :=
  let v := curEpoch s
  let new := fun (b : List Byte) => withCheck (withEpoch v b)
  onFab (fun f => { f with
    inject := f.inject.map fun i => { i with bytes := new i.bytes }
    retx := f.retx.map fun c =>
      if f.inject.any fun i => isOfRecord c.rcd i && pkSeq i.bytes == c.seq && !pkFlag i.bytes flResend then
        { c with bytes := new c.bytes } else c }) s

/-- Performs a FLIP for a port, 0xFF at a step boundary. -/
def doFlip (port : Nat) (s : State) : State :=
  let old := curEpoch s
  let v := otherEpoch s
  let s1 := wn A.rtOldSeen 0 (wf A.rtEpochStatus 1 1 1 (wf A.rtEpochStatus 0 0 v s))
  let s1 := reserveTrees v (applyArmed s1)
  let s1 := openRecs (treeRecs s1 v) (treeRecs s1 old) s1
  let s1 := flipLoads (completeRepairs s1)
  let s1 := raiseEvent { code := 0x0502, port := port, unit := rtUnit, detail := v } s1
  checkPartner (recount (markChanged (decide (port = 0xFF)) s (restamp s1)))

/-- Packets of the old version that the module holds: in buffers, at the units that consume them, in engine queues and retransmit
lists (05 Table 5.15). -/
def oldInflight (s : State) : Nat :=
  let old := fun (b : List Byte) => pkEpoch b == otherEpoch s
  (s.fab.held.filter fun h => old h.bytes).length + (s.fab.inbox.filter fun a => old a.bytes).length +
    (s.fab.inject.filter fun i => old i.bytes).length + (s.fab.retx.filter fun c => old c.bytes).length

/-- Performs a RETIRE. -/
def doRetire (port : Nat) (s : State) : State :=
  let v := otherEpoch s
  let gone := treeRecs s v
  let kept := treeRecs s (curEpoch s)
  let s := onFab (fun f => { f with kind0 := (f.kind0 ++ kind0Slots s v).eraseDups }) s
  let s := copySections (freeRecs gone kept (wf A.rtEpochStatus 1 1 0 s))
  raiseEvent { code := 0x0503, port := port, unit := rtUnit, detail := v } s

/-- A write under R133-R135 is refused. -/
def rtRefused (p : GPort) (a : Nat) (s : State) : State := raiseEvent { code := 0x0504, port := p, unit := rtUnit, detail := a } s

/-- Port p writes RT_EPOCH_CTRL (05 Table 5.15): its state, and its status. -/
def writeEpochCtrl (p : GPort) (w : Word) (s : State) : State × Nat :=
  let op := fget w 3 0
  if !holds s p (dieOf A.rtEpochCtrl) then (klDenied p A.rtEpochCtrl s, stIgnored)
  else if op = 1 then
    if flipRefused s then (rtRefused p A.rtEpochCtrl s, stIgnored) else (doFlip p (wn A.rtEpochCtrl 1 s), stOk)
  else if op = 2 then
    if !oldLive s || oldInflight s ≠ 0 then (rtRefused p A.rtEpochCtrl s, stIgnored)
    else (doRetire p (wn A.rtEpochCtrl 2 s), stOk)
  else (s, stIgnored)

/-- FLIP: port p writes FLIP to RT_EPOCH_CTRL. -/
def execFlip (p : GPort) (s : State) : Host.Outcome State Fault Refusal :=
  .next (wrRow p A.rtEpochCtrl 1 (writeEpochCtrl p) s)

/-- RETIRE: port p writes RETIRE to RT_EPOCH_CTRL. -/
def execRetire (p : GPort) (s : State) : Host.Outcome State Fault Refusal :=
  .next (wrRow p A.rtEpochCtrl 2 (writeEpochCtrl p) s)

/-! ### Barriers at the tree logic (10 R280, R281) -/

/-- A barrier on this module. -/
def findBar (s : State) (t c : Nat) : Option Barrier := s.net.barriers.find? fun b => b.tree == t && b.cseq == c

/-- Replaces or adds a barrier. -/
def putBar (b : Barrier) (s : State) : State :=
  onNet (fun m => { m with
    barriers := if m.barriers.any (fun x => x.tree == b.tree && x.cseq == b.cseq) then
        m.barriers.map fun x => if x.tree = b.tree ∧ x.cseq = b.cseq then b else x
      else m.barriers ++ [b] }) s

/-- A barrier that nothing has reached yet. -/
def newBar (t : Tree) (c : Nat) : Barrier :=
  { tree := t.num, cseq := c, ver := t.ver, arrived := [], upSent := false, release := none, acked := [], fired := false }

/-- Fields of a barrier record (Table 10.7). -/
def brKind (r : List Byte) : Nat := be r 0 1
def brStep (r : List Byte) : Nat := be r 8 8
def brStart (r : List Byte) : Nat := be r 0x10 8
def brFrac (r : List Byte) : Nat := be r 0x18 1 % 64

/-- Sends RELEASE on the live down edges that have not answered it. -/
def sendReleases (t : Tree) (b : Barrier) (s : State) : State :=
  match b.release with
  | none => s
  | some (step, start, frac) =>
    ((liveDowns s t).filter fun e => !b.acked.contains e).foldl (fun s e => match t.down[e]? with
      | some x => ctrlOnEdge t x opBarrier b.cseq (barrierRecord 2 step start frac) s
      | none => s) s

/-- Landings of a barrier on this module: their piers, and they. -/
def barLands (s : State) (t c : Nat) : List (Nat × Landing) :=
  s.pr.piers.flatMap fun q => (q.2.lands.filter fun l =>
    cdCarrier l.desc == 0 && cdKind l.desc == kBarrier && cdTree l.desc == t && cdCseq l.desc == c).map fun l => (q.1, l)

/-- The barrier is a step barrier: LEAD_NS is above 0, as its START or its members' descriptors here show, and the tree's
context may launch it (DEDUCED: log entry 41). -/
def stepBarrier (s : State) (b : Barrier) : Bool :=
  let ctx := match treeEntry s b.ver b.tree with
    | some t => t.ctx
    | none => 64
  collPriv s ctx && match b.release with
    | some (_, start, frac) => start != 0 || frac != 0 || (barLands s b.tree b.cseq).any fun q => cdLead q.2.desc != 0
    | none => false

/-- What a step boundary does in its core cycle (R282): the flip, DK_STEP, retirements that are due, and spare admission. -/
def stepBoundary (step : Nat) (s : State) : State :=
  let want := rbit s A.dkStepCtrl 0
  let flipped := want && !flipRefused s
  let s := if flipped then doFlip 0xFF (wn A.rtEpochCtrl 1 s) else s
  let s := wn A.dkStepCtrl 0 s
  spareBoundary flipped (carryOutRetires { s with step := step })

/-- The barrier fires on this module: a step boundary where it is a step barrier, and its members' commands complete (R281,
R282). -/
def fireBar (b : Barrier) (s : State) : State :=
  match b.release with
  | none => s
  | some (step, _, _) =>
    let s := if stepBarrier s b then stepBoundary step s else s
    let s := putBar { b with fired := true } s
    (barLands s b.tree b.cseq).foldl (fun s q => testColl q.1 q.2.id (putLand q.1 { q.2 with released := true } s)) s

/-- START of a release, in 1/64 ns. -/
def startAt (start frac : Nat) : Nat := 64 * start + frac

/-- Time past a start, in 1/64 ns; none while it lies ahead (modulo 2^70). -/
def pastStart (s : State) (t : Nat) : Option Nat :=
  let d := (s.ft + 2 ^ 70 - t % 2 ^ 70) % 2 ^ 70
  if d < 2 ^ 69 then some d else none

/-- A barrier has a release: it goes down, and fires at once where START is 0 or has passed. -/
def released (t : Tree) (b : Barrier) (s : State) : State :=
  let s := sendReleases t b (putBar b s)
  match b.release with
  | none => s
  | some (_, start, frac) =>
    if start = 0 ∧ frac = 0 then fireBar b s
    else match pastStart s (startAt start frac) with
      | some 0 => fireBar b s
      | some d => fireBar b (raiseEvent { code := 0x0A05, unit := rtUnit, detail := d / 64 } s)
      | none => s

/-- Every live down edge has arrived: ARRIVE goes up, or the root sets START and releases (R280, R281). STEP and LEAD_NS are
those of a member of this module, or of what the command says that the module knows (DESIGN CHOICE: log entry 13). -/
def advanceBar (t : Tree) (b : Barrier) (desc : List Byte) (s : State) : State :=
  if !(liveDowns s t).all (fun e => b.arrived.contains e) || b.release.isSome then putBar b s
  else if isRoot t then
    let lead := cdLead desc
    let start := if lead = 0 then (0, 0) else ((s.ft / 64 + lead) % 2 ^ 64, s.ft % 64)
    released t { b with release := some (cdStep desc, start.1, start.2) } s
  else if b.upSent then putBar b s
  else ctrlOnEdge t t.up opBarrier b.cseq (barrierRecord 1 0 0 0) (putBar { b with upSent := true } s)

/-- A BARRIER packet of a KIND at the tree logic. -/
def barrierAt (s : State) (kind : Nat) : Option Arrived :=
  arrivedAt s 128 fun b => pkOp b == opBarrier && brKind (pkPayload b) == kind

/-- The down edge that a packet came in on. -/
def downEdge (t : Tree) (a : Arrived) : Option Nat :=
  (List.range t.down.length).find? fun e => match t.down[e]? with
    | some x => fromEdge a x
    | none => false

/-- Takes a barrier packet and runs f on it, where its check passes and its tree is VALID. -/
def onBarrier (a : Arrived) (f : Tree → State → State) (s : State) : State :=
  let s := takeArrived a s
  if !pkCheckOk a.bytes then bump (A.rtCnt 4) 1 s
  else match packetTree s a.bytes with
    | none => routeErr a.bytes false s
    | some t => f t s

/-- BARRIER_ARRIVE: the first ARRIVE at the tree logic is counted; a duplicate is ignored. One on an edge that has answered the
release of a barrier that has fired begins a new barrier of the same CSEQ (DEDUCED: log entry 42). -/
def execBarrierArrive (k : Known) (s : State) : Host.Outcome State Fault Refusal :=
  match barrierAt s 1 with
  | none => .next s
  | some a => .next (onBarrier a (fun t s =>
      let c := opCseq a.bytes
      match downEdge t a with
      | none => s
      | some e =>
        let b := (findBar s t.num c).getD (newBar t c)
        let b := if b.fired && b.acked.contains e then newBar t c else b
        if b.arrived.contains e then putBar b s
        else advanceBar t { b with arrived := b.arrived ++ [e] } (knownHere s t.num c k).desc s) s)

/-- The member of a tree that a pier of this module is. -/
def pierRank (s : State) (t : Tree) (p : Nat) : Nat :=
  match t.down.find? fun x => x.v && x.member && edgeDest s t x == some (1000 + p) with
  | some x => x.rank
  | none => 0

/-- A RELEASE at a pier of the module: its member sends ARRIVE no more, and its TXE answers on its edge; the barrier fires with its
module. -/
def pierRelease (p : Nat) (a : Arrived) (s : State) : State :=
  onBarrier a (fun t s =>
    let c := opCseq a.bytes
    let s := (barLands s t.num c).foldl (fun s q => if q.1 = p then putLand p { q.2 with lasts := [1] } s else s) s
    inject { src := 700 + p,
             bytes := mkPacket { epoch := curEpoch s, cls := clCtrl, op := opBarrier, src := pierRank s t p, job := t.job,
                                 oparg := collArg t.num c } (barrierRecord 3 0 0 0) } s) s

/-- BARRIER_RELEASE: the first RELEASE at unit u: a pier answers it; the tree logic answers, arms START and forwards it down (R280,
R281). -/
def execBarrierRelease (u : Fin 129) (s : State) : Host.Outcome State Fault Refusal :=
  match arrivedAt s u.val fun b => pkOp b == opBarrier && brKind (pkPayload b) == 2 with
  | none => .next s
  | some a =>
    if u.val < 128 then .next (pierRelease u.val a s)
    else .next (onBarrier a (fun t s =>
      let c := opCseq a.bytes
      let r := pkPayload a.bytes
      let s := ctrlOnEdge t t.up opBarrier c (barrierRecord 3 0 0 0) s
      let b := (findBar s t.num c).getD (newBar t c)
      if b.release.isSome then s else released t { b with release := some (brStep r, brStart r, brFrac r) } s) s)

/-- BARRIER_RELEASE_ACK: the first RELEASE_ACK at the tree logic stops the resends on its edge; a barrier that has fired and been
answered everywhere stays known, so that duplicates are ignored. -/
def execBarrierReleaseAck (s : State) : Host.Outcome State Fault Refusal :=
  match barrierAt s 3 with
  | none => .next s
  | some a => .next (onBarrier a (fun t s =>
      match findBar s t.num (opCseq a.bytes), downEdge t a with
      | some b, some e => if b.acked.contains e then s else putBar { b with acked := b.acked ++ [e] } s
      | _, _ => s) s)

/-- Sends again what a barrier of this module has not had answered. -/
def resendBar (b : Barrier) (s : State) : State :=
  match treeAt s b.ver b.tree with
  | none => s
  | some t =>
    if b.release.isSome then sendReleases t b s
    else if b.upSent then ctrlOnEdge t t.up opBarrier b.cseq (barrierRecord 1 0 0 0) s
    else s

/-- BARRIER_RESEND: 4 µs have passed: every ARRIVE of the module, and of its members, that has not received RELEASE, and every RELEASE without
an answer is sent again; a fenced member's edge is no longer waited for. -/
def execBarrierResend (s : State) : Host.Outcome State Fault Refusal :=
  let s := s.net.barriers.foldl (fun s b => match treeAt s b.ver b.tree with
    | some t => if b.release.isNone && !b.upSent then
        advanceBar t b (knownHere s b.tree b.cseq { desc := [] }).desc s else resendBar b s
    | none => s) s
  .next (s.pr.piers.foldl (fun s q => q.2.lands.foldl (fun s l =>
    if cdCarrier l.desc = 0 ∧ cdKind l.desc = kBarrier ∧ !l.released ∧ l.lasts = [] then sendArrive q.1 l 0 s else s) s) s)

/-- BARRIER_FIRE: fabric time has reached START of the barriers that are armed; they fire in the order of their STARTs. -/
def execBarrierFire (s : State) : Host.Outcome State Fault Refusal :=
  let start := fun (b : Barrier) => match b.release with
    | some (_, t, f) => startAt t f
    | none => 0
  let due := s.net.barriers.filter fun b => b.release.isSome && !b.fired && (pastStart s (start b)).isSome
  .next ((sortBy (fun a b => Nat.ble (start a) (start b)) due).foldl (fun s b => fireBar b s) s)

end Sys2Proof.Machine
end

