-- ==== Sys2Proof/Machine/Lanes.lean ====
section
/-! DEFINITION. Fabric lanes: training, ports coming up and going down, FEC counters (04 R94-R99); and the Causeway
(04 R100-R104). -/

namespace Sys2Proof.Machine
open Sys2Proof

/-! ### Training -/

def phDetect : Nat := 1
def phLock : Nat := 2
def phEqualise : Nat := 3
def phAlign : Nat := 4
def phIdentify : Nat := 5
def phDeskew : Nat := 6

/-- Phase of a lane (04 Table 4.4). -/
def phaseOf (s : State) (g l : Nat) : Nat := smGet 0 s.fab.phase (8 * g + l)

/-- Sets the phase of a lane. -/
def setPhase (g l ph : Nat) (s : State) : State := onFab (fun f => { f with phase := smPut 0 f.phase (8 * g + l) ph }) s

/-- A lane starts a training: TRAINS rises, and the lane stands in DETECT with every other bit 0 (04 R94). -/
def startLane (g l : Nat) (s : State) : State :=
  setPhase g l phDetect (wn (A.pgLaneStatus g l) (2 ^ 16 * satAdd 0xFFFF (rf s (A.pgLaneStatus g l) 31 16) 1) s)

/-- Every lane of a group starts a training, as the group enters START. -/
def startGroupLanes (g : Nat) (s : State) : State := (List.range 8).foldl (fun s l => startLane g l s) s

/-- Fixed receive latency and largest deskew of a lane mode, in 1/64 ns (04 Table 4.5). -/
def rxLatency (mode : Nat) : Nat := 64 * [0, 96, 168, 190].getD mode 0
def maxDeskew (mode : Nat) : Nat := 64 * [0, 40, 60, 60].getD mode 0

/-- The lanes of the port that lane l belongs to. -/
def portLanes (s : State) (g l : Nat) : List Nat :=
  let w := pgWidth s g
  (List.range 8).filter fun m => m / w = l / w

/-- The counts of both ends of a link start at 0 as the port comes UP (05 R114). -/
def zeroCredits (k : Nat) (s : State) : State :=
  onFab (fun f => (List.range 9).foldl (fun f c =>
    { f with used := smPut 0 f.used (9 * k + c) 0
             freed := smPut 0 f.freed (9 * k + c) 0
             peer := smPut 0 f.peer (9 * k + c) 0 }) f) s

/-- A port comes UP with its total receive latency (04 R94, R98). -/
def portComesUp (g p lat : Nat) (s : State) : State :=
  let s := wn (A.pgLat g p) (2 ^ 31 + lat) (wf (A.pgPortStatus g) p p 1 s)
  raiseEvent { code := 0x0402, unit := pgUnit g, detail := p } (zeroCredits (8 * g + p) s)

/-- What a lane finds in the phase it is in: the receive polarity; the mode, breakout and lane number that the peer reports;
the port's measured skew in 1/64 ns. -/
def passPhase (g l : Nat) (inverted : Bool) (peerMode peerBreakout : Nat) (peerLane : LaneNo) (skew : Nat) (s : State) : State :=
  let ph := phaseOf s g l
  let st := A.pgLaneStatus g l
  let mode := pgMode s g
  if ph = phDetect then setPhase g l phLock s
  else if ph = phLock then setPhase g l phEqualise (wf st 3 3 (b2n inverted) (wf st 1 1 1 s))
  else if ph = phEqualise then setPhase g l phAlign s
  else if ph = phAlign then setPhase g l (if mode = 1 then phIdentify else phDeskew) (wf st 2 2 1 s)
  else if ph = phIdentify then
    let s' := wf st 10 8 peerLane s
    if peerMode = mode ∧ peerBreakout = pgBreakout s g ∧ peerLane.val = l then
      setPhase g l phDeskew (wf st 4 4 0 s')
    else if rbit s st 4 then s'
    else raiseEvent { code := 0x0403, unit := pgUnit g, detail := l } (wf st 4 4 1 s')
  else if ph = phDeskew then
    let ls := portLanes s g l
    if ls.all (fun m => phaseOf s g m == phDeskew || rbit s (A.pgLaneStatus g m) 0) ∧ skew ≤ maxDeskew mode then
      let s := setPhase g l 0 (wf st 0 0 1 s)
      if ls.all fun m => rbit s (A.pgLaneStatus g m) 0 then
        portComesUp g (l / pgWidth s g) (rxLatency mode + skew) s
      else s
    else s
  else s

/-- Lanes train only in START and while the group is ON. -/
def pgActive (s : State) (g : Nat) : Bool := fstate s (fnGroup g) == fsStart || isOn s (fnGroup g)

/-! STATE of a pair of the Causeway (04 Table 4.14). -/

def cwClosed : Nat := 0
def cwOpening : Nat := 1
def cwOpen : Nat := 2
def cwClosing : Nat := 3

/-- STATE of a pair (04 Table 4.14). -/
def cwyState (s : State) (j : Nat) : Nat := rf s (A.cwyStatus j) 1 0

/-- A group's fibres reach the device: those of a pair do while it is OPEN (04 R100; while its elements move the light is taken as
interrupted, DESIGN CHOICE: log entry 74). -/
def pgLit (s : State) (g : Nat) : Bool := pgActive s g && (g < 48 || cwyState s ((g - 48) / 2) == cwOpen)

/-- TRAINING_PHASE_PASS: a lane passes the phase it is in (04 R94, R95, R98). -/
def execTrainingPhasePass (g : GroupNo) (l : LaneNo) (inverted : Bool) (peerMode peerBreakout : Fin 4) (peerLane : LaneNo)
    (skew : Nat) (s : State) : Host.Outcome State Fault Refusal :=
  if pgLit s g then .next (passPhase g l inverted peerMode peerBreakout peerLane skew s) else .next s

/-- LANE_TRAIN_TIMEOUT: a lane that has not trained starts again from DETECT (04 R94). -/
def execLaneTrainTimeout (g : GroupNo) (l : LaneNo) (s : State) : Host.Outcome State Fault Refusal :=
  if pgActive s g ∧ phaseOf s g l ≠ 0 then .next (startLane g l s) else .next s

/-- A port goes down: LANE_DOWN, and the packet being sent on it is lost at this hop (04 R96). -/
def portGoesDown (g p : Nat) (s : State) : State :=
  if rbit s (A.pgPortStatus g) p then
    let s := wf (A.pgLat g p) 31 31 0 (wf (A.pgPortStatus g) p p 0 s)
    raiseEvent { code := 0x0401, unit := pgUnit g, detail := p }
      (onFab (removeHeld fun h => heldOn (8 * g + p) h && h.stage == .sending) s)
  else s

/-- A lane loses alignment: its port goes down, the lane trains, and the port's other trained lanes wait in DESKEW. -/
def loseLane (g l : Nat) (s : State) : State :=
  let s := portGoesDown g (l / pgWidth s g) s
  let s := (portLanes s g l).foldl (fun s m =>
    if rbit s (A.pgLaneStatus g m) 0 then setPhase g m phDeskew (wf (A.pgLaneStatus g m) 0 0 0 s) else s) s
  startLane g l s

/-- ALIGNMENT_LOST: a lane loses alignment while its group is ON (04 R94, R96). -/
def execAlignmentLost (g : GroupNo) (l : LaneNo) (s : State) : Host.Outcome State Fault Refusal :=
  if isOn s (fnGroup g) ∧ rbit s (A.pgLaneStatus g l) 2 then .next (loseLane g l s) else .next s

/-- The lanes of a group go dark: its ports go down and no lane trains. -/
def darkGroup (g : Nat) (s : State) : State :=
  let s := (List.range 8).foldl (fun s p => portGoesDown g p s) s
  (List.range 8).foldl (fun s l =>
    setPhase g l 0 (wn (A.pgLaneStatus g l) (2 ^ 16 * rf s (A.pgLaneStatus g l) 31 16) s)) s

/-- A lane corrects symbols; more than 65,536 in 1 ms raise FEC_DEGRADE, at most once per second per lane (04 R99), a second of fabric
time (DESIGN CHOICE: log entry 85). -/
def fecMillisecond (g l symbols : Nat) (s : State) : State :=
  let s := bump (A.pgFecCorr g l) symbols s
  let recent : Bool := match smGet none s.fab.fecAt (8 * g + l) with
    | some t => decide ((ftNs s + 2 ^ 64 - t) % 2 ^ 64 < 1000000000)
    | none => false
  if 65536 < symbols && !recent then
    raiseEvent { code := 0x0404, unit := pgUnit g, detail := l }
      (onFab (fun f => { f with fecAt := smPut none f.fecAt (8 * g + l) (some (ftNs s)) }) s)
  else s

/-- FEC_DEGRADE: a lane's decoder has corrected a number of symbols in 1 ms (04 R99). -/
def execFecDegrade (g : GroupNo) (l : LaneNo) (symbols : Nat) (s : State) : Host.Outcome State Fault Refusal :=
  if pgLit s g then .next (fecMillisecond g l symbols s) else .next s

/-! ### The Causeway -/

def cwyUnit : Nat := 0x4020000

/-- A refused OPEN write or enable sets REFUSED and raises CWY_REFUSED (04 R102, R103). -/
def cwyRefuse (p j : Nat) (s : State) : State :=
  raiseEvent { code := 0x0408, port := p, unit := cwyUnit, detail := j } (wf (A.cwyStatus j) 4 4 1 s)

/-- A write of CWY_CTRL[j] (04 R102). -/
def writeCwy (p : GPort) (j : Nat) (w : Word) (s : State) : State × Nat :=
  let o := fget w 0 0
  let idle := fstate s (fnGroup (48 + 2 * j)) == fsOff && fstate s (fnGroup (49 + 2 * j)) == fsOff
  if !holds s p 1 then (klDenied p (A.cwyCtrl j) s, stIgnored)
  else if (o = 1 ∧ (s.fuses.grade = .fys6144 ∨ rbit s (A.cwyStatus j) 3)) ∨ (o = 0 ∧ ¬idle) then (cwyRefuse p j s, stIgnored)
  else if o = rf s (A.cwyCtrl j) 0 0 then (s, stOk)
  else
    let s := wf (A.cwyStatus j) 1 0 (if o = 1 then cwOpening else cwClosing) (wf (A.cwyCtrl j) 0 0 o s)
    (onFab (fun f => { f with cwyWrite := smPut false f.cwyWrite j (o == 0) }) s, stOk)

/-- CWY_CTRL_OPEN: a port writes CWY_CTRL[j].OPEN. -/
def execCwyCtrlOpen (p : GPort) (j : SpanNo) (o : Bool) (s : State) : Host.Outcome State Fault Refusal :=
  .next (wrRow p (A.cwyCtrl j) (BitVec.ofNat 32 (b2n o)) (writeCwy p j) s)

/-- CWY_MOTION_END: a moving pair reaches the end that it moves to (04 R102); CWY_CLOSED is raised for a write only. -/
def execCwyMotionEnd (j : SpanNo) (s : State) : Host.Outcome State Fault Refusal :=
  if cwyState s j = cwOpening then
    .next (raiseEvent { code := 0x0405, unit := cwyUnit, detail := j } (wf (A.cwyStatus j) 1 0 cwOpen s))
  else if cwyState s j = cwClosing then
    let t := wf (A.cwyStatus j) 1 0 cwClosed s
    .next (if smGet false s.fab.cwyWrite j then raiseEvent { code := 0x0406, unit := cwyUnit, detail := j } t else t)
  else .next s

/-- The drive monitor's fault at a pair: FAULT, the pair moves to CLOSED, and the lanes of its groups go down (04 R101, R104). -/
def pairLosesDrive (j : Nat) (s : State) : State :=
  let still := cwyState s j == cwClosed || cwyState s j == cwClosing
  let s := closePair j (wf (A.cwyStatus j) 3 3 1 s)
  if still then s
  else [48 + 2 * j, 49 + 2 * j].foldl (fun s g =>
      if pgActive s g then (List.range 8).foldl (fun s l => loseLane g l s) s else s) s

/-- DRIVE_FAULT: the drive monitor finds a fault; once, the drive leaves all pairs (04 R104). -/
def execDriveFault (s : State) : Host.Outcome State Fault Refusal :=
  if rbit s (A.cwyStatus 0) 3 then .next s
  else
    let s := { s with pwr := { s.pwr with cwyDrive := false } }
    let s := (List.range 8).foldl (fun s j => pairLosesDrive j s) s
    .next (raiseFault { code := 0x0407, cls := .rcvd, unit := cwyUnit } s)

end Sys2Proof.Machine
end

