-- ==== Sys2Proof/Machine/Sched.lean ====
section
/-! DEFINITION. Pier groups, work queues, the ends of tasks, and switches of the resident context (11 R290-R295, R317,
R318). -/

namespace Sys2Proof.Machine
open Sys2Proof

/-! ### Pier groups (11 R290, R291) -/

/-- First logical pier of group k of a span, and its piers. -/
def groupFirst (s : State) (i k : Nat) : Nat := 16 * i + rf s (A.spnGroup i k) 4 0
def groupCount (s : State) (i k : Nat) : Nat := rf s (A.spnGroup i k) 12 8
def groupPiers (s : State) (i k : Nat) : List Nat := (List.range (groupCount s i k)).map (groupFirst s i k + ·)

/-- Context that a word of SPN_GROUP names. -/
def groupCtxOf (w : Word) : Option Nat := if bit w.toNat 31 then some (fget w 28 24 + 32 * fget w 23 23) else none

/-- The context that SPN_GROUP names for group k of a span. -/
def groupCtx (s : State) (i k : Nat) : Option Nat := groupCtxOf (rd s (A.spnGroup i k))

/-- A pier of the group is switching. -/
def groupSwitching (s : State) (i k : Nat) : Bool := (groupPiers s i k).any fun p => (getPier s p).switching

/-- The group of a span in which a context is resident. -/
def groupWith (s : State) (x i : Nat) : Option Nat :=
  (List.range 4).find? fun k => groupCount s i k != 0 && groupCtx s i k == some x && !groupSwitching s i k

/-! ### Work-queue entries (11 Table 11.2) -/

def wqKind (b : List Byte) : Nat := le b 0 1
def wqOrdered (b : List Byte) : Bool := bit (le b 1 1) 0
def wqGrant (b : List Byte) : Nat := le b 2 2
def wqTag (b : List Byte) : Nat := le b 4 4
def wqPc (b : List Byte) : Nat := le b 8 8
def wqArg (b : List Byte) : Nat := le b 0x10 8
def wqFtile (b : List Byte) : Nat := le b 0x18 4
def wqTcount (b : List Byte) : Nat := le b 0x1C 4
def wqDone (b : List Byte) : Nat := le b 0x20 8

/-- The entry may run (R293). -/
def wqValid (b : List Byte) : Bool :=
  wqKind b == 1 && le b 1 1 / 2 == 0 && 1 ≤ wqGrant b && wqGrant b ≤ 4096 && 1 ≤ wqTcount b && wqTcount b ≤ 2 ^ 24 &&
    allZero (slice b 0x28 24)

/-- Grants of an entry. -/
def wqTotal (b : List Byte) : Nat := if wqValid b then (wqTcount b + wqGrant b - 1) / wqGrant b else 0

/-- Entries that the scheduler has taken from the queue of (x, span). -/
def wqAt (s : State) (x i : Nat) : List WqEntry := smGet [] s.pr.wqs (8 * x + i)

def putWq (x i : Nat) (l : List WqEntry) (s : State) : State :=
  { s with pr := { s.pr with wqs := smPut [] s.pr.wqs (8 * x + i) l } }

/-- Updates the entry with a number. -/
def onEntry (x i num : Nat) (f : WqEntry → WqEntry) (s : State) : State :=
  putWq x i ((wqAt s x i).map fun e => if e.num = num then f e else e) s

/-- Next entry to take, and the producer count. -/
def wqNextOf (s : State) (x i : Nat) : Nat := smGet 0 s.pr.wqNext (8 * x + i)
def wqProd (s : State) (x i : Nat) : Nat := rn s (A.ctxDb x i)

/-! ### Grants (11 R293) -/

/-- The scheduler may hand grants of context x out in a span, and to a pier of it. -/
def mayGrant (s : State) (x i : Nat) : Bool :=
  rbit s (A.ctxWqCfg x i) 31 && isOn s (fnCtx x) && isOn s (fnSpan i) && !ctxStopped s x
def pierReady (s : State) (p : Nat) : Bool :=
  isOn s (fnPier p) && !(getPier s p).switching && !beingCopied s p

/-- The grants of an entry may start: an ORDERED one waits for every earlier entry of its queue. -/
def entryOpen (earlier : List WqEntry) (e : WqEntry) : Bool :=
  !wqOrdered e.bytes || earlier.all fun f => f.complete

/-- POLICY of group k of a span in a version of SPANS: DYNAMIC (R290). -/
def spanPolicy (s : State) (v i k : Nat) : Bool := le (sectV s secSpans v) (8 * (4 * i + k) + 2) 1 == 1

/-- An entry is served as DYNAMIC by group k: by the version of SPANS under which it is handed out (02 R52), and not while BITSTABLE
is 1 (R293). -/
def entryDyn (s : State) (x i k : Nat) (e : WqEntry) : Bool :=
  !rbit s (A.ctxSched x) 0 && spanPolicy s (e.spans.getD (curEpoch s)) i k

/-- The first grant from g on, in steps of d, that has not been handed out; fuel bounds the steps. -/
def freeFrom (e : WqEntry) (d : Nat) : Nat → Nat → Option Nat
  | 0, _ => none
  | n + 1, g => if e.total ≤ g then none else if e.ahead.contains g then freeFrom e d n (g + d) else some g

/-- The next grant of an entry, ascending, of those for group position j of count under STATIC, or of all under DYNAMIC. -/
def firstFree (e : WqEntry) (dyn : Bool) (count j : Nat) : Option Nat :=
  let d := if dyn then 1 else count
  let r := if dyn then 0 else j
  match sortBy Nat.ble (e.back.filter fun g => g % d == r) with
  | g :: _ => some g
  | [] => freeFrom e d (e.ahead.length + 1) (e.next + (r + d - e.next % d) % d)

/-- The next grant of an entry for the pier at group position j of count; idle is that no task runs on it. -/
def nextGrant (e : WqEntry) (dyn : Bool) (count j : Nat) (idle : Bool) : Option Nat :=
  if dyn && !idle then none else firstFree e dyn count j

/-- Moves next past the grants ahead of it that have been handed out; fuel bounds the moves. -/
def settle : Nat → WqEntry → WqEntry
  | 0, e => e
  | n + 1, e => if e.ahead.contains e.next then settle n { e with next := e.next + 1, ahead := e.ahead.erase e.next } else e

/-- The entry after grant g has been handed out, under version v of SPANS if it is its first. -/
def granted (v g : Nat) (e : WqEntry) : WqEntry :=
  let e := { e with spans := some (e.spans.getD v) }
  if e.back.contains g then { e with back := e.back.erase g }
  else settle (e.ahead.length + 1) { e with ahead := e.ahead ++ [g] }

/-- The entry after grant g comes back. -/
def returned (g : Nat) (e : WqEntry) : WqEntry :=
  if g < e.next then { e with back := g :: e.back } else { e with ahead := e.ahead.erase g }

/-- The first grant, in ring order, that a queue holds for the pier at position j of count; dyn says how an entry is served. -/
def findGrant (dyn : WqEntry → Bool) (count j : Nat) (idle : Bool) : List WqEntry → List WqEntry → Option (WqEntry × Nat)
  | _, [] => none
  | earlier, e :: r =>
    match if entryOpen earlier e then nextGrant e (dyn e) count j idle else none with
    | some g => some (e, g)
    | none => findGrant dyn count j idle (e :: earlier) r

/-- The grant g of an entry. -/
def grantOf (x : Nat) (e : WqEntry) (g : Nat) : Grant :=
  { ctx := x, entry := e.num, num := g, first := wqFtile e.bytes + g * wqGrant e.bytes,
    count := min (wqGrant e.bytes) (wqTcount e.bytes - g * wqGrant e.bytes) }

/-- Hands the pier at position j of a group its next grant, where it has none waiting. -/
def handPier (x i k j : Nat) (s : State) : State :=
  let p := groupFirst s i k + j
  let q := getPier s p
  if q.grant.isSome || !pierReady s p then s
  else match findGrant (entryDyn s x i k) (groupCount s i k) j q.task.isNone [] (wqAt s x i) with
    | none => s
    | some (e, g) => onPier p (fun q => { q with grant := some (grantOf x e g) }) (onEntry x i e.num (granted (curEpoch s) g) s)

/-- Hands out the grants of context x's queue of a span, to the group's piers by position. -/
def handOut (x i : Nat) (s : State) : State :=
  match groupWith s x i with
  | none => s
  | some k =>
    if mayGrant s x i then (List.range (groupCount s i k)).foldl (fun s j => handPier x i k j s) s else s

/-! ### The scheduler's accesses -/

/-- Raises WINDOW_DENIED for a span scheduler. -/
def spanDenied (x i tag a : Nat) (s : State) : State := windowDenied x a (spanUnit i) tag 0 0xFF s

/-- A write of a span scheduler for context x; a local address is one of the first pier of its group. -/
def spanWrite (x i k tag a : Nat) (bs : List Byte) (s : State) : State :=
  if isLocal a then
    if a % 2 ^ 63 < 2 ^ 24 ∧ localOk eCore (a % 2 ^ 24) bs.length then ctxLocWr x (groupFirst s i k) (a % 2 ^ 24) bs s else s
  else match firstDenied s x a bs.length .w with
    | some d => spanDenied x i tag d (hbmWr a (bs.take (d - a)) s)
    | none => hbmWr a bs s

/-- Entry n of the queue of (x, span), none where it cannot be read (R292). -/
def readEntry (x i n : Nat) (s : State) : Option (List Byte) × State :=
  let a := rn64 s (A.ctxWqBase x i 0) + 64 * (n % 2 ^ rf s (A.ctxWqCfg x i) 4 0)
  if !winOk s x a 64 .c then (none, spanDenied x i 0 a s)
  else match badWord s a 64 with
    | some u => (none, raiseFault { code := 0x0F01, cls := .ctxf, ctx := x, unit := spanUnit i, detail := u % 2 ^ 32 } (countUe 1 u s))
    | none => (some (hbmRd s a 64), s)

/-- An entry as the scheduler takes it. -/
def takenEntry (n : Nat) (b : List Byte) (status : Nat) : WqEntry :=
  { num := n, bytes := b, spans := none, total := wqTotal b, next := 0, ahead := [], back := [], ended := 0, status := status,
    complete := false }

/-- WQ_ENTRY: the scheduler of span i takes the next entry of context x's queue and hands its grants out. -/
def execWqEntry (x : CtxNo) (i : SpanNo) (s : State) : Host.Outcome State Fault Refusal :=
  let x := x.val
  let i := i.val
  let n := wqNextOf s x i
  match groupWith s x i with
  | none => .next s
  | some _ =>
    if !mayGrant s x i || wqProd s x i == n then .next s
    else
      let r := readEntry x i n s
      let e := match r.1 with
        | none => takenEntry n (List.replicate 64 0) csFaulted
        | some b => takenEntry n b (if wqValid b then csOk else csMalformed)
      let s := r.2
      let s := if e.status = csMalformed then
          raiseFault { code := 0x0B08, cls := .ctxf, ctx := x, unit := spanUnit i, tag := wqTag e.bytes,
                       detail := 2 ^ 32 * wqTag e.bytes + i } s
        else s
      let s := { s with pr := { s.pr with wqNext := smPut 0 s.pr.wqNext (8 * x + i) ((n + 1) % 2 ^ 32) } }
      .next (handOut x i (putWq x i (wqAt s x i ++ [e]) s))

/-- Every task of the entry's grants has ended. -/
def entryEnded (e : WqEntry) : Bool := !e.complete && e.ended == e.total

/-- CONS passes the entries at the front that have completed. -/
def passEntries (x i : Nat) (s : State) : State :=
  let l := wqAt s x i
  let n := (l.takeWhile fun e => e.complete).length
  let c := A.ctxWqCons x i
  putWq x i (l.drop n) (wn c ((rn s c + n) % 2 ^ 32) s)

/-- WQ_ENTRY_COMPLETE: the first entry of a queue whose tasks have all ended completes. -/
def execWqEntryComplete (x : CtxNo) (i : SpanNo) (s : State) : Host.Outcome State Fault Refusal :=
  let x := x.val
  let i := i.val
  match (wqAt s x i).find? entryEnded with
  | none => .next s
  | some e =>
    let w := completionWord (wqTag e.bytes) e.status 0
    let s := if wqDone e.bytes = 0 then s
      else spanWrite x i ((groupWith s x i).getD 0) (wqTag e.bytes) (wqDone e.bytes) (leBytes 8 w) s
    let s := passEntries x i (onEntry x i e.num (fun e => { e with complete := true }) s)
    .next (handOut x i s)

/-! ### Tasks (11 R295) -/

/-- The entry of a grant. -/
def entryOf (s : State) (p : Nat) (g : Grant) : Option WqEntry := (wqAt s g.ctx (p / 16)).find? fun e => e.num == g.entry

/-- Position of a pier in its group. -/
def positionOf (s : State) (p : Nat) : Nat :=
  match (List.range 4).find? fun k => (groupPiers s (p / 16) k).contains p with
  | some k => p - groupFirst s (p / 16) k
  | none => 0

/-- Integer registers at the start of a task. -/
def taskRegs (b : List Byte) (g : Grant) (p pos : Nat) : List (Nat × Nat) :=
  [(2, 2 ^ 63 + 0x200000), (10, wqArg b), (11, g.first), (12, g.count), (13, p), (14, pos), (15, wqTag b)].filter
    fun y => y.2 != 0

/-- The task of a pier has ended; its entry is FAULTED where it ended in a trap. -/
def endTask (p : Nat) (g : Grant) (bad : Bool) (s : State) : State :=
  let tag := ((entryOf s p g).map fun e => wqTag e.bytes).getD 0
  let s := traced { kind := 7, engine := eCore, pier := p, ctx := g.ctx, tag := tag } (onPier p (fun q => { q with task := none }) s)
  let s := onEntry g.ctx (p / 16) g.entry (fun e =>
    { e with ended := e.ended + 1, status := if bad then csFaulted else e.status }) s
  handOut g.ctx (p / 16) s

/-! ### Switching the resident context (11 R317, R318) -/

/-- A waiting grant goes back to the scheduler. -/
def handBack (p : Nat) (s : State) : State :=
  match (getPier s p).grant with
  | none => s
  | some g =>
    onPier p (fun q => { q with grant := none }) (onEntry g.ctx (p / 16) g.entry (returned g.num) s)

/-- A pier of the group begins to switch. -/
def beginSwitch (s : State) (p : Nat) : State := onPier p (fun q => { q with switching := true }) (handBack p s)

/-- Another group of the span has the context. -/
def ctxElsewhere (s : State) (i k : Nat) : Option Nat → Bool
  | none => false
  | some x => (List.range 4).any fun j => j != k && groupCtx s i j == some x

/-- A write of SPN_GROUP of group k of span i by port p (R291, R317). -/
def writeSpnGroup (p : GPort) (i k : Nat) (w : Word) (s : State) : State × Nat :=
  let a := A.spnGroup i k
  let old := groupCtx s i k
  let put := fun (s : State) => wf a 31 31 (fget w 31 31) (wf a 28 23 (fget w 28 23) s)
  let same : Bool := rf s a 31 31 = fget w 31 31 ∧ rf s a 28 23 = fget w 28 23
  let kept : Bool := match old with
    | some x => bit (rn64 s (A.ctxSaveBase x 0)) 0
    | none => true
  if !holds s p (dieOf a) then (klDenied p a s, stIgnored)
  else if groupSwitching s i k then (s, stIgnored)
  else if same then (s, stOk)
  else if !kept || ctxElsewhere s i k (groupCtxOf w) then (s, stIgnored)
  else ((groupPiers s i k).foldl beginSwitch (put s), stOk)

/-- RESIDENT_SWITCH_START: port p writes SPN_GROUP. -/
def execResidentSwitchStart (p : GPort) (i : SpanNo) (k : Fin 4) (w : Word) (s : State) : Host.Outcome State Fault Refusal :=
  .next (wrRow p (A.spnGroup i.val k.val) w (writeSpnGroup p i.val k.val) s)

/-- The pier has come to the save step of its switch: its task has ended, its dequeued commands of GE, DMI and DMO have
completed, and those of the TXE have sent their last packets. -/
def switchReady (s : State) (p : Nat) : Bool :=
  let q := getPier s p
  q.switching && q.task.isNone && (List.range 8).all (fun e => (getEng s p e).running.isNone) && txeIdle s p

/-- Copies n bytes from key a of a sparse map to key b of another: what is listed is written, the rest is 0. -/
def copyCells (src dst : List (Nat × Byte)) (a b n : Nat) : List (Nat × Byte) :=
  let clear := dst.filter fun y => !(b ≤ y.1 && y.1 < b + n)
  (src.filter fun y => a ≤ y.1 && y.1 < a + n).foldl (fun (m : List (Nat × Byte)) y => smPut 0 m (y.1 - a + b) y.2) clear

/-- Bytes of the local stores. -/
def storesBytes : Nat := 0x400000

/-- HBM once the stores of pier p have been copied to b: a byte whose write is lost stays (15 R398). -/
def storesLand (s : State) (p b : Nat) : List Host.Cell :=
  let m := copyCells s.pr.store s.hbm (2 ^ 24 * p) b storesBytes
  if anyFailed s then
    let lost := fun (c : Host.Cell) => b ≤ c.1 && c.1 < b + storesBytes && lostAt s c.1
    memOf ((m.filter fun c => !lost c) ++ s.hbm.filter lost)
  else m

/-- Length of the queue state, whose layout the spec leaves open (DESIGN CHOICE: log entry 77). -/
def queueStateLen : Nat := 0x2020

/-- The queue state of a pier: the push sequence, the lengths of the queues, and the push sequence of each command (11 R318, 12
R324). -/
def queueState (qs : Nat → List QCmd) (seq : Nat) : List Byte :=
  leBytes 4 seq ++ (List.range 8).flatMap (fun e => leBytes 2 (qs e).length) ++ List.replicate 12 0 ++
    (List.range 8).flatMap fun e => slice ((qs e).flatMap fun c => leBytes 4 c.seq) 0 1024

/-- Saves the stores, queues and queue state of pier p for a context, in the save area at b. -/
def saveAt (x p b : Nat) (s : State) : State :=
  let s := { s with hbm := storesLand s p b, mem := { s.mem with bad := mended s b storesBytes } }
  let s := (List.range 8).foldl (fun (s : State) e =>
    hbmWr (b + 0x400000 + 0x4000 * e) ((getEng s p e).queue.flatMap fun c => slice c.bytes 0 64) s) s
  let s := hbmWr (b + 0x420000) (queueState (fun e => (getEng s p e).queue) (getPier s p).pushSeq) s
  { s with pr := { s.pr with saved := smPut false s.pr.saved (128 * x + p) true } }

/-- Saves pier p for context x, where it has a save area. -/
def saveCtx (x p : Nat) (s : State) : State := (saveArea s x p).elim s fun b => saveAt x p b s

/-- Gives pier p queues and a push sequence. -/
def setQueues (p : Nat) (qs : Nat → List QCmd) (seq : Nat) (s : State) : State :=
  let s := (List.range 8).foldl (fun (s : State) e =>
    onEng p e (fun g => { g with queue := qs e, waits := none, staging := [] }) s) s
  onPier p (fun q => { q with pushSeq := seq, untested := none, stepBreak := false }) s

/-- Local stores of pier p are zero. -/
def zeroStores (p : Nat) (s : State) : State :=
  { s with pr := { s.pr with store := copyCells [] s.pr.store 0 (2 ^ 24 * p) storesBytes } }

/-- Context x holds a save for pier p. -/
def hasSave (s : State) (x p : Nat) : Bool := smGet false s.pr.saved (128 * x + p)

/-- A queue as the save area at b holds it. -/
def savedQueue (s : State) (b e : Nat) : List QCmd :=
  (List.range (min 256 (hbmLe s (b + 0x420004 + 2 * e) 2))).map fun i =>
    { bytes := hbmRd s (b + 0x400000 + 0x4000 * e + 64 * i) 64, seq := hbmLe s (b + 0x420020 + 0x400 * e + 4 * i) 4 }

/-- Restores context x to pier p. -/
def restoreCtx (x p : Nat) (s : State) : State :=
  match hasSave s x p, saveArea s x p with
  | true, some b =>
    let s := { s with pr := { s.pr with store := copyCells s.hbm s.pr.store b (2 ^ 24 * p) storesBytes
                                        saved := smPut false s.pr.saved (128 * x + p) false } }
    setQueues p (savedQueue s b) (hbmLe s (b + 0x420000) 4) s
  | _, _ => setQueues p (fun _ => []) 0 (zeroStores p s)

/-- The pier saves its outgoing context and restores the one that SPN_GROUP names. -/
def switchPier (dest : Option Nat) (s : State) (p : Nat) : State :=
  let s := match (getPier s p).resident with
    | some x => saveCtx x p s
    | none => s
  let s := match dest with
    | some x => restoreCtx x p s
    | none => setQueues p (fun _ => []) 0 s
  fireRings p (onPier p (fun q => { q with resident := dest, switching := false }) s)

/-- CTX_SWITCH: the piers of group k of span i save and restore, the switch has ended. The save and restore hold the span's
crossbar for cycles core cycles of the context-save turnstile. -/
def execCtxSwitch (i : SpanNo) (k : Fin 4) (cycles : Nat) (s : State) : Host.Outcome State Fault Refusal :=
  let i := i.val
  let k := k.val
  let ps := groupPiers s i k
  if ps = [] ∨ !ps.all (switchReady s) ∨ tstSpent s actCtxSave (8 + i) then .next s
  else
    let dest := groupCtx s i k
    let s := ps.foldl (switchPier dest) (tstCharge actCtxSave (8 + i) cycles s)
    let s := raiseEvent { code := 0x0B09, ctx := dest.getD 0xFF, unit := spanUnit i, detail := i * 2 ^ 4 + k } s
    .next (match dest with
      | some x => handOut x i s
      | none => s)

end Sys2Proof.Machine
end

