-- ==== Sys2Proof/Machine/Svc.lean ====
section
/-! DEFINITION. The resident services: taking requests, running them, completing them (14 R356-R366). -/

namespace Sys2Proof.Machine
open Sys2Proof

def onSvc (f : Services → Services) (s : State) : State := { s with svc := f s.svc }

/-! ### Requests (14 Table 14.1) -/

def rqOp (b : List Byte) : Nat := le b 0 1
def rqOrdered (b : List Byte) : Bool := bit (le b 1 1) 0
def rqChain (b : List Byte) : Bool := bit (le b 1 1) 1
def rqSpan (b : List Byte) : Nat := le b 2 1
def rqChspan (b : List Byte) : Nat := le b 3 1
def rqTag (b : List Byte) : Nat := le b 4 4
def rqDone (b : List Byte) : Nat := le b 8 8
def rqChcount (b : List Byte) : Nat := le b 0x10 4

/-! Operations (14 Table 14.2). -/

def soOptStep : Nat := 0x10
def soOptAccum : Nat := 0x11
def soKvOpen : Nat := 0x20
def soKvClose : Nat := 0x21
def soKvPut : Nat := 0x22
def soKvGet : Nat := 0x23
def soKvDrop : Nat := 0x24
def soKvPin : Nat := 0x25
def soDispatch : Nat := 0x30
def soCombine : Nat := 0x31
def soSendState : Nat := 0x40
def soDigest : Nat := 0x41
def soQuiesce : Nat := 0x42
def soResume : Nat := 0x43
def soCancel : Nat := 0x44

/-- Status PARTIAL (14 Table 14.4). -/
def csPartial : Nat := 0x10

def isOptOp (op : Nat) : Bool := op == soOptStep || op == soOptAccum
def isKvOp (op : Nat) : Bool := decide (soKvOpen ≤ op ∧ op ≤ soKvPin)
def isAgentOp (op : Nat) : Bool := decide (soSendState ≤ op ∧ op ≤ soCancel)
def isSvcOp (op : Nat) : Bool := isOptOp op || isKvOp op || op == soDispatch || op == soCombine || isAgentOp op

/-- The operation uses a group of the context (R363): every one but those of the agent that start no work on piers. -/
def usesGroup (op : Nat) : Bool := !isAgentOp op || op == soSendState

/-- The context's bit of DK_COLL_PRIV. -/
def agentCtx (s : State) (x : Nat) : Bool := bit (rn64 s (A.dkCollPriv 0)) x

/-- Faulty fields of a header of context x in queue j (R357, R361). -/
def reqFaults (s : State) (x j : Nat) (b : List Byte) : List Nat :=
  let op := rqOp b
  breaks (!isSvcOp op || (isAgentOp op != (j == 7)) || (j == 7 && !agentCtx s x)) 0 ++ breaks (le b 1 1 / 4 != 0) 1 ++
    breaks (7 < rqSpan b) 2 ++ breaks (7 < rqChspan b || (!rqChain b && rqChspan b != 0)) 3 ++ breaks (rqDone b % 16 != 0) 8 ++
    breaks (!rqChain b && rqChcount b != 0) 0x10 ++ mustBeZero b 0x14 12

/-! ### Taking (14 R356, R358) -/

/-- Next entry of queue j of context x, and its producer count. -/
def svcNext (s : State) (x j : Nat) : Nat := smGet 0 s.svc.next (8 * x + j)
def svcProd (s : State) (x j : Nat) : Nat := rn s (A.ctxDb x (8 + j))

/-- Address of entry n. -/
def svcEntry (s : State) (x j n : Nat) : Nat := rn64 s (A.ctxSvcBase x j 0) + 128 * (n % 2 ^ rf s (A.ctxSvcCfg x j) 4 0)

/-- Requests of a context in progress. -/
def inProgress (s : State) (x : Nat) : List SvcReq := s.svc.reqs.filter fun r => r.ctx == x && !r.complete

/-- Entry n of a queue, as it can be read. -/
def peekEntry (s : State) (x j n : Nat) : Option (List Byte) :=
  let a := svcEntry s x j n
  if winOk s x a 128 .c && (badWord s a 128).isNone then some (hbmRd s a 128) else none

/-- Every earlier entry of the queue has completed. -/
def earlierDone (s : State) (x j : Nat) : Bool := !s.svc.reqs.any fun r => r.ctx == x && r.queue == j && !r.complete

/-- Queue j of context x is served, and the Ringmaster may take its next entry (R358; 17 R434; 18 R455, R458). -/
def mayTake (s : State) (x j : Nat) : Bool :=
  rbit s (A.ctxSvcCfg x j) 31 && rbit s (A.ctxSvcCtl x) 0 && isOn s (fnCtx x) && stage s == stRunning && !s.fwDead &&
    svcProd s x j != svcNext s x j && (inProgress s x).length < 16 && (j == 7 || (!ctxStopped s x && !s.svc.quiet.contains x)) &&
    (match peekEntry s x j (svcNext s x j) with
     | some b => earlierDone s x j || (j != 7 && !rqOrdered b)
     | none => true)

/-- The queue, as 8 x + j, from which the Ringmaster takes next: it goes through the contexts and queues in ascending order from where
its round stands, and then begins a new round (R358; where a round stands while nothing can be taken is a DESIGN CHOICE: log entry
80). -/
def nextTake (s : State) : Option Nat :=
  ((List.range 512).map fun k => (s.svc.round + k) % 512).find? fun k => mayTake s (k / 8) (k % 8)

/-- Queue j of context x is the one from which the Ringmaster takes next. -/
def takesFrom (s : State) (x j : Nat) : Bool := mayTake s x j && nextTake s == some (8 * x + j)

/-- The lowest place among the requests in progress. -/
def freeSlot (s : State) (x : Nat) : Nat :=
  ((List.range 16).find? fun k => !(inProgress s x).any fun r => r.slot == k).getD 0

/-- RESULT before any of the work is done, for the operations that give one (R371, R377, R382). -/
def firstResult (op : Nat) : Option Nat :=
  if isOptOp op || op == soDispatch || (isKvOp op && op != soKvOpen && op != soKvClose) then some 0 else none

/-- Takes the next entry of a queue, with its status where it ends at once. -/
def takeReq (x j : Nat) (b : List Byte) (st : Option Nat) (s : State) : SvcReq × State :=
  let n := svcNext s x j
  let r : SvcReq := { ctx := x, queue := j, num := n, bytes := b, slot := freeSlot s x, stage := 0, status := st, result := firstResult (rqOp b),
                      complete := false, pier := 0, desc := [], ver := curEpoch s, seq := 0, todo := [], pos := 0, buf := none }
  (r, onSvc (fun v => { v with reqs := v.reqs ++ [r], next := smPut 0 v.next (8 * x + j) ((n + 1) % 2 ^ 32) }) s)

/-- The request is another state of one that has been taken. -/
def sameReq (a b : SvcReq) : Bool := a.ctx == b.ctx && a.queue == b.queue && a.num == b.num

/-- Stores a request. -/
def putReq (r : SvcReq) (s : State) : State :=
  onSvc (fun v => { v with reqs := v.reqs.map fun q => if sameReq q r then r else q }) s

/-- The round goes on after queue j of context x. -/
def roundPast (x j : Nat) (s : State) : State := onSvc (fun v => { v with round := (8 * x + j + 1) % 512 }) s

/-- The requester of a service's staging buffers (R365). -/
def svcRequester (x : Nat) : Nat := 7 * x + 6

/-- Ends a request with a status; its staging buffer goes back. -/
def endReq (r : SvcReq) (st : Nat) (s : State) : State :=
  let s := putReq { r with status := some st, buf := none } s
  match r.buf with
  | some h => bpmReturn (svcRequester r.ctx) h s
  | none => s

/-- A malformed request (R361). -/
def malformedReq (r : SvcReq) (off : Nat) (s : State) : State :=
  endReq r csMalformed (raiseFault { code := 0x0E01, cls := .ctxf, ctx := r.ctx, tag := rqTag r.bytes,
                                     detail := 2 ^ 32 * rqTag r.bytes + 2 ^ 8 * r.queue + off } s)

/-- Raises SVC_FAULT (R366). -/
def svcFault (r : SvcReq) (s : State) : State :=
  raiseFault { code := 0x0E02, cls := .ctxf, ctx := r.ctx, tag := rqTag r.bytes, detail := 2 ^ 32 * rqTag r.bytes + rqOp r.bytes } s

/-- A service command or access has failed (R366). -/
def failReq (r : SvcReq) (s : State) : State := endReq r csFaulted (svcFault r s)

/-! ### Objects and residency (14 R359, R363) -/

/-- The service object of a request. -/
inductive SvcObj where
  | shard (a : Nat)
  | store (x k : Nat)
  deriving DecidableEq, Repr

def objOf (r : SvcReq) : Option SvcObj :=
  let op := rqOp r.bytes
  if isOptOp op || op == soSendState then some (.shard (le r.bytes 0x20 8))
  else if isKvOp op then some (.store r.ctx (le r.bytes 0x20 1))
  else none

/-- An earlier request, or the sending of the shard for another, holds the request's object. -/
def objBusy (s : State) (r : SvcReq) : Bool :=
  match objOf r with
  | none => false
  | some o =>
    (s.svc.reqs.takeWhile fun q => !sameReq q r).any (fun q => q.status.isNone && objOf q == some o) ||
      s.svc.mirrors.any fun m => m.result.isNone && o == .shard m.shard

/-- The pier of position 0 of the context's group in a span, where its service grants run. -/
def grantPier (s : State) (x i : Nat) : Option Nat :=
  match groupWith s x i with
  | none => none
  | some k =>
    if isOn s (fnCtx x) && isOn s (fnSpan i) && pierReady s (groupFirst s i k) then some (groupFirst s i k) else none

/-- The first pier of the group of a request's context in a span, where the request may go on. -/
def svcPier (s : State) (r : SvcReq) (i : Nat) : Option Nat :=
  if r.queue == 7 || !ctxStopped s r.ctx then grantPier s r.ctx i else none

/-- The piers of the context's group in a span. -/
def svcPiers (s : State) (x i : Nat) : List Nat := ((groupWith s x i).map (groupPiers s i)).getD []

/-- The spans of a shard descriptor (Table 14.5, SPANMASK). -/
def shSpans (d : List Byte) : List Nat := (List.range 8).filter (bit (le d 4 1))

/-- Every span of the shard that an optimizer request has read has the context resident, and its group may run service grants. -/
def shResident (s : State) (r : SvcReq) : Bool := !isOptOp (rqOp r.bytes) || (shSpans r.desc).all fun i => (svcPier s r i).isSome

/-- The piers over which a shard's chunks are dealt. -/
def shPiers (s : State) (r : SvcReq) : List Nat := (shSpans r.desc).flatMap (svcPiers s r.ctx)

/-- The stage in which an optimizer request updates its shard. -/
def optUpdating : Nat := 3

/-- The piers on which a request's next step runs, with the one of position 0 in its span. -/
def stepPiers (s : State) (r : SvcReq) (p : Nat) : List Nat :=
  if isOptOp (rqOp r.bytes) && r.stage == optUpdating then shPiers s r else [p]

/-- A service grant may run on pier p: no task runs there, and of a grant of the work queue and one of a service that are both due, the
service's is next (R362; when a service grant is due is a DESIGN CHOICE: log entry 80). -/
def svcFree (s : State) (p : Nat) : Bool :=
  let q := getPier s p
  q.task.isNone && (q.grant.isNone || q.svcTurn)

/-- Service grants run on piers: each pier's next grant is the work queue's where both are due. -/
def svcTook (ps : List Nat) (s : State) : State := ps.foldl (fun s p => onPier p (fun q => { q with svcTurn := false }) s) s

/-- Address in the service area of the completion word of a place. -/
def svcCstat (k : Nat) : Nat := 8 * k % 0x8000

/-- Status and DETAIL of a service command, once its completion word stands in the service area. -/
def svcAnswer (s : State) (x p k : Nat) : Option (Nat × Nat) :=
  let w := ofLe (ctxLocRd s x p (svcCstat k) 8)
  if w = 2 ^ 64 - 1 then none else some (w / 2 ^ 24 % 2 ^ 8, w % 2 ^ 24)

/-- The request awaits the completion of a command. -/
def awaitsCmd (r : SvcReq) : Bool :=
  let op := rqOp r.bytes
  r.stage == 2 && (isOptOp op || op == soKvGet || op == soDispatch || op == soCombine) || r.stage == 5 && isOptOp op

/-- The request awaits the end of a mirror. -/
def awaitsMirror (r : SvcReq) : Bool :=
  r.stage == 6 && isOptOp (rqOp r.bytes) || r.stage == 1 && rqOp r.bytes == soSendState

/-- The pier on which a request goes on, none while it waits: for its object, for residency, or for the end of a command, whose
completion word stands on the pier where it was pushed (R363). -/
def reqPier (s : State) (r : SvcReq) : Option Nat :=
  if (r.stage = 0 ∧ objBusy s r) ∨ !shResident s r ∨ (awaitsCmd r ∧ (svcAnswer s r.ctx r.pier r.slot).isNone) then none
  else (svcPier s r (rqSpan r.bytes)).map fun p => if awaitsCmd r then r.pier else p

/-- Runs one step of a request, as service grants where its work runs on piers. -/
def runReq (run : SvcReq → State → State) (r : SvcReq) (s : State) : State :=
  if !usesGroup (rqOp r.bytes) || awaitsMirror r then run r s
  else match reqPier s r with
    | none => s
    | some p =>
      let ps := stepPiers s r p
      if ps.all (svcFree s) then run { r with pier := p } (svcTook ps s) else s

/-- Faulty fields of a request: of its header, and of its body by faults. -/
def reqFaulty (faults : State → SvcReq → List Nat) (r : SvcReq) (s : State) : Option Nat :=
  firstFault (reqFaults s r.ctx r.queue r.bytes ++ faults s r)

/-- A step of a request: once its object is free it is checked (R361), and its work begins; later it goes on. -/
def stepReq (faults : State → SvcReq → List Nat) (run : SvcReq → State → State) (r : SvcReq) (s : State) : State :=
  if r.stage ≠ 0 then runReq run r s
  else if objBusy s r then s
  else match reqFaulty faults r s with
    | some o => malformedReq r o s
    | none => runReq run r s

/-- A request that has been taken begins; those of a spare that has not been admitted end, CANCELLED where they are not malformed (17
R445). -/
def beginReq (faults : State → SvcReq → List Nat) (run : SvcReq → State → State) (r : SvcReq) (s : State) : State :=
  if r.queue ≠ 7 ∧ spareState s ≠ spNone ∧ spareState s ≠ spAdmitted then
    match reqFaulty faults r s with
    | some o => malformedReq r o s
    | none => endReq r csCancelled s
  else stepReq faults run r s

/-- A row of a service operation: it takes a request of its OP and begins it, or goes on with one. faults gives the faulty fields
of the body, run one step of the work. -/
def svcRow (op x : Nat) (w : SvcStep) (faults : State → SvcReq → List Nat) (run : SvcReq → State → State) (s : State) : State :=
  match w with
  | .take j =>
    let j := j.val
    if !takesFrom s x j then s
    else match peekEntry s x j (svcNext s x j) with
      | none => s
      | some b =>
        if rqOp b ≠ op then s
        else
          let q := takeReq x j b none (roundPast x j s)
          beginReq faults run q.1 q.2
  | .go k =>
    match (inProgress s x).find? fun r => r.slot == k.val && r.status.isNone && rqOp r.bytes == op with
    | some r => stepReq faults run r s
    | none => s
  | .mirror _ => s

/-! ### Accesses of a service (14 R366; 03 R74) -/

/-- Who makes an access for a service: its context, its tag and the block of the pier, or of the Ringmaster, that makes it. -/
structure SvcBy where
  ctx : Nat
  tag : Nat
  unit : Nat
  deriving DecidableEq, Repr

def svcBy (r : SvcReq) : SvcBy :=
  { ctx := r.ctx, tag := rqTag r.bytes, unit := if usesGroup (rqOp r.bytes) then pierUnit r.pier else 0 }

/-- Checks the pieces of a read. -/
def svcPiecesOk (w : SvcBy) : List (Nat × Nat) → State → Bool × State
  | [], s => (true, s)
  | q :: qs, s =>
    if !winOk s w.ctx q.1 q.2 .rd then (false, windowDenied w.ctx q.1 w.unit w.tag 0 eCore s)
    else match badWord s q.1 q.2 with
      | some u => (false, raiseFault { code := 0x0F01, cls := .ctxf, ctx := w.ctx, unit := w.unit, tag := w.tag,
                                       detail := 2 ^ 32 * w.tag + u % 2 ^ 32, engine := eCore } (countUe 1 u s))
      | none => svcPiecesOk w qs s

/-- n bytes at an HBM address. -/
def svcRead (w : SvcBy) (a n : Nat) (s : State) : Option (List Byte) × State :=
  let r := svcPiecesOk w (piecesOf a n) s
  (if r.1 then some (hbmRd s a n) else none, r.2)

/-- n bytes at an HBM address as svcRead would give them, none where it would fail. -/
def svcPeek (s : State) (x a n : Nat) : Option (List Byte) :=
  if (piecesOf a n).all fun q => winOk s x q.1 q.2 .rd && (badWord s q.1 q.2).isNone then some (hbmRd s a n) else none

/-- Writes bytes at an HBM address; the pieces before a denied one stay written. -/
def svcWrite (w : SvcBy) (a : Nat) (bs : List Byte) (s : State) : Bool × State :=
  match firstDenied s w.ctx a bs.length .w with
  | some d => (false, windowDenied w.ctx d w.unit w.tag 0 eCore (hbmWr a (bs.take (d - a)) s))
  | none => (true, hbmWr a bs s)

/-! ### Commands of a service (14 R365) -/

/-- The header of a service command: OP, CSTAT_EN, TAG, CSTAT. -/
def svcHead (op tag k : Nat) : List Byte :=
  leBytes 1 op ++ leBytes 1 8 ++ leBytes 2 0 ++ leBytes 4 tag ++ leBytes 4 0 ++ leBytes 4 (svcCstat k)

/-- A COLL command. -/
def svcColl (tag k desc : Nat) : List Byte := svcHead 0x32 tag k ++ leBytes 8 desc ++ leBytes 40 0

/-- A SEND command. -/
def svcSend (tag k src off len rcd : Nat) (last : Bool) : List Byte :=
  svcHead 0x30 tag k ++ leBytes 8 src ++ leBytes 8 off ++ leBytes 4 len ++ leBytes 4 rcd ++ leBytes 1 (b2n last * 4) ++ leBytes 23 0

/-- Pushes a command to the TXE of pier p for context x, its completion word's place marked; false where the queue is full. -/
def svcPush (x p k : Nat) (cmd : List Byte) (s : State) : Bool × State :=
  if 256 ≤ (getEng s p eTxe).queue.length then (false, s)
  else (true, pushCmd p eTxe cmd (ctxLocWr x p (svcCstat k) (List.replicate 8 0xFF) s))

/-- The request pushes a COLL command for the descriptor at an address, and goes to its next stage. -/
def launchReq (r : SvcReq) (desc : Nat) (s : State) : State :=
  let q := svcPush r.ctx r.pier r.slot (svcColl (rqTag r.bytes) r.slot desc) s
  if q.1 then putReq { r with stage := r.stage + 1, seq := (getPier s r.pier).pushSeq } q.2 else putReq r q.2

/-! ### Completion (14 R360) -/

/-- Adds a count to the producer count of doorbell q of context x (03 R63): the status. -/
def addDoorbell (port x q count : Nat) (s : State) : State × Nat :=
  let prod := rn s (A.ctxDb x q)
  let cons := if q < 8 then rn s (A.ctxWqCons x q) else rn s (A.ctxSvcCons x (q - 8))
  let size := 2 ^ (if q < 8 then rf s (A.ctxWqCfg x q) 4 0 else rf s (A.ctxSvcCfg x (q - 8)) 4 0)
  if count = 0 then (s, stOk)
  else if size < (prod + 2 ^ 32 - cons) % 2 ^ 32 + count then
    (raiseFault { code := 0x0309, cls := .ctxf, ctx := x, unit := ctxUnit x, detail := 2 ^ 32 * count + q, port := port } s, stDbOverrun)
  else (wn (A.ctxDb x q) ((prod + count) % 2 ^ 32) s, stOk)

/-- The completion record (Table 14.3). -/
def svcRecord (b : List Byte) (status result : Nat) : List Byte :=
  leBytes 4 (rqTag b) ++ leBytes 1 status ++ leBytes 1 (rqOp b) ++ leBytes 2 0 ++ leBytes 8 result

/-- CONS passes the requests at the front of a queue that have completed. -/
def passReqs (x j : Nat) (s : State) : State :=
  let mine := fun (r : SvcReq) => r.ctx == x && r.queue == j
  let l := s.svc.reqs.filter mine
  let gone := l.takeWhile fun r => r.complete
  let c := A.ctxSvcCons x j
  let s := wn c ((rn s c + gone.length) % 2 ^ 32) s
  onSvc (fun v => { v with reqs := v.reqs.filter fun r => !(gone.any fun g => sameReq g r) }) s

/-- Writes a request's completion record: its status, FAULTED where the write is denied (R366). -/
def writeDone (r : SvcReq) (st res : Nat) (s : State) : Nat × State :=
  if rqDone r.bytes = 0 then (st, s)
  else match svcWrite (svcBy r) (rqDone r.bytes) (svcRecord r.bytes st res) s with
    | (true, s) => (st, s)
    | (false, s) => (csFaulted, svcFault r s)

/-- Completes a request that has ended. -/
def completeReq (r : SvcReq) (st : Nat) (s : State) : State :=
  let b := r.bytes
  let (res, s) := match r.result with
    | some v => (v, s)
    | none => (freeBits 64 s, tookFree s)
  let (st, s) := writeDone r st res s
  let s := if st = csOk ∧ rqChain b ∧ isOn s (fnCtx r.ctx) then (addDoorbell 0xFF r.ctx (rqChspan b) (rqChcount b) s).1 else s
  passReqs r.ctx r.queue (putReq { r with complete := true } s)

/-- An entry that cannot be read, or whose OP is none of Table 14.2, is taken and ends at once. The WINDOW_DENIED or memory record of
the read has UNIT 0, as neither a pier nor an RSE reads it (DESIGN CHOICE: log entry 72). -/
def takeOther (x j : Nat) (s : State) : State :=
  if !takesFrom s x j then s
  else match peekEntry s x j (svcNext s x j) with
    | none =>
      let a := svcEntry s x j (svcNext s x j)
      let u := (badWord s a 128).getD a
      let s := if !winOk s x a 128 .c then windowDenied x a 0 0 0 0xFF s
        else raiseFault { code := 0x0F01, cls := .ctxf, ctx := x, detail := u % 2 ^ 32 } (countUe 1 u s)
      let q := takeReq x j (List.replicate 128 0) none (roundPast x j s)
      failReq q.1 q.2
    | some b =>
      if isSvcOp (rqOp b) then s
      else
        let q := takeReq x j b none (roundPast x j s)
        malformedReq q.1 0 q.2

/-- SVC_REQUEST_COMPLETE: the first request of queue j of context x that has ended completes; where none has, an entry that no
operation takes ends. -/
def execSvcRequestComplete (x : CtxNo) (j : Fin 8) (s : State) : Host.Outcome State Fault Refusal :=
  match s.svc.reqs.find? fun r => r.ctx == x.val && r.queue == j.val && !r.complete && r.status.isSome with
  | some r => .next (completeReq r (r.status.getD 0) s)
  | none => .next (takeOther x.val j.val s)

end Sys2Proof.Machine
end

