-- ==== Sys2Proof/Machine/SvcOpt.lean ====
section
/-! DEFINITION. The optimizer step, and the sending of a shard to a rank (14 R367-R374, R385). -/

namespace Sys2Proof.Machine
open Sys2Proof

/-! ### Shard descriptors (14 Table 14.5) -/

def shAlgo (d : List Byte) : Nat := le d 2 1
def shOutfmt (d : List Byte) : Nat := le d 3 1
def shSpanmask (d : List Byte) : Nat := le d 4 1
def shPcount (d : List Byte) : Nat := le d 8 8
def shState (d : List Byte) : Nat := le d 0x10 8
def shPindex (d : List Byte) : Nat := le d 0x18 8
def shTid (d : List Byte) : Nat := le d 0x20 4
def shPartner (d : List Byte) : Nat := le d 0x24 4
def shMsr (d : List Byte) : Nat := le d 0x28 4
def shMoff (d : List Byte) : Nat := le d 0x30 8

/-- A descriptor as Table 14.5 lays it down. -/
def shOk (d : List Byte) : Bool :=
  le d 0 2 == 0x4F53 && shAlgo d ≤ 1 && 1 ≤ shOutfmt d && shOutfmt d ≤ 4 && shSpanmask d != 0 && allZero (slice d 5 3) &&
    1 ≤ shPcount d && shPcount d ≤ 2 ^ 34 && shState d % 64 == 0 && shPindex d + shPcount d ≤ 2 ^ 48 &&
    bits (shPartner d) 30 24 == 0 && shMsr d < 2 ^ 22 && le d 0x2C 4 == 0 && shMoff d < 2 ^ 40 && allZero (slice d 0x38 8)

/-- Plane k of a shard. -/
def shPlane (d : List Byte) (k : Nat) : Nat := shState d + 4 * shPcount d * k

/-! ### Requests (14 Table 14.6, R361, R372) -/

def opDesc (b : List Byte) : Nat := le b 0x20 8
def opG (b : List Byte) : Nat := le b 0x28 8
def opOut (b : List Byte) : Nat := le b 0x30 8
def opRs (b : List Byte) : Nat := le b 0x38 8
def opAg (b : List Byte) : Nat := le b 0x40 8
/-- LR, B1, B2, EPS, WD, C1, C2, GS. -/
def opF (b : List Byte) (k : Nat) : Nat := le b (0x48 + 4 * k) 4
def opGfmt (b : List Byte) : Nat := le b 0x68 1
def opNumctl (b : List Byte) : Nat := le b 0x69 1
def opUseAcc (b : List Byte) : Bool := bit (le b 0x6A 1) 0
def opMirrorOn (b : List Byte) : Bool := bit (le b 0x6A 1) 1
def opMsync (b : List Byte) : Bool := bit (le b 0x6A 1) 2
def opStepNo (b : List Byte) : Nat := le b 0x70 8

/-- Faulty fields of a body that need no descriptor. -/
def optBodyFaults (b : List Byte) : List Nat :=
  let acc := rqOp b == soOptAccum
  breaks (opDesc b % 64 != 0) 0x20 ++ breaks (2 < opGfmt b || opG b % (fmtBits (opGfmt b) / 8) != 0) 0x68 ++ breaks (opNumctl b / 16 != 0 || opNumctl b % 4 != 0) 0x69 ++ breaks (le b 0x6A 1 / 8 != 0) 0x6A ++
    mustBeZero b 0x6B 5 ++ mustBeZero b 0x78 8 ++
    (if acc then mustBeZero b 0x30 8 ++ mustBeZero b 0x40 8 ++ ((List.range 8).flatMap fun k => mustBeZero b (0x48 + 4 * k) 4) ++
      mustBeZero b 0x69 1 ++ mustBeZero b 0x6A 1 ++ mustBeZero b 0x70 8 else [])

/-- RS_DESC names a descriptor that the request may launch, its DST aside. -/
def rsOk (b d c : List Byte) : Bool :=
  cdKind c == kReduceScatter && cdLbuf c 0 == opG b && cdNmem c != 0 && cdCount c == cdNmem c * shPcount d

/-- AG_DESC names a descriptor that the request may launch. -/
def agOk (b d c : List Byte) : Bool :=
  cdKind c == kAllgather && cdSbuf c == opOut b && cdCount c == shPcount d && cdSrc c == shOutfmt d

/-- Faulty fields of a request with its shard descriptor and the collective descriptors that it names, as far as they can be read
(00 R486). -/
def optDescFaults (b d : List Byte) (rs ag : Option (List Byte)) : List Nat :=
  breaks (!shOk d) 0x20 ++ breaks (rqOp b == soOptStep && opOut b % (fmtBits (shOutfmt d) / 8) != 0) 0x30 ++
    breaks (opRs b != 0 && rs.any fun c => !rsOk b d c) 0x38 ++ breaks (opRs b != 0 && rs.any fun c => cdDst c != opGfmt b) 0x68 ++
    breaks (opAg b != 0 && ag.any fun c => !agOk b d c) 0x40 ++ breaks (opMirrorOn b && !bit (shPartner d) 31) 0x6A

/-- Faulty fields of an optimizer request (R361, R372). -/
def optFaults (s : State) (r : SvcReq) : List Nat :=
  let b := r.bytes
  optBodyFaults b ++ match svcPeek s r.ctx (opDesc b) 64 with
    | none => []
    | some d => optDescFaults b d (svcPeek s r.ctx (opRs b) 128) (svcPeek s r.ctx (opAg b) 128)

/-! ### The update (14 R369) -/

/-- What one operation on an element gives, and the productions of the operations so far. -/
structure OptVals where
  w : Nat
  m : Nat
  v : Nat
  a : Nat
  out : Nat
  prods : List Nat
  deriving DecidableEq, Repr

/-- INVALID where an operation makes a NaN of inputs that are none. -/
def optProd (v : Nat) (ins : List Nat) : List Nat := if isNan32 v && !ins.any isNan32 then [cInvalid] else []

/-- One FP32, with the sign changed. -/
def fpNeg (a : Nat) : Nat := fp32Of (val32 a).flip
def fpOne : Nat := 0x3F800000

/-- opt_element of a request b for a shard d: stochastic rounding of the output takes rnd. -/
def optElement (b d : List Byte) (rnd : Rnd) (g0 w m v a : Nat) : OptVals :=
  let lr := opF b 0
  let b1 := opF b 1
  let b2 := opF b 2
  let eps := opF b 3
  let wd := opF b 4
  let c1 := opF b 5
  let c2 := opF b 6
  let gs := opF b 7
  let ob1 := fpSub fpOne b1
  let ob2 := fpSub fpOne b2
  let gi := if opUseAcc b then fpAdd a g0 else g0
  let p0 := if opUseAcc b then optProd gi [a, g0] else []
  let a' := if opUseAcc b then 0 else a
  let g := fpMul gi gs
  let p0 := p0 ++ optProd g [gi, gs]
  let q : Nat × Nat × Nat × List Nat :=
    if shAlgo d = 0 then
      let t := fpMul ob1 g
      let m' := fpFma b1 m t
      let t2 := fpMul g g
      let t3 := fpMul ob2 t2
      let v' := fpFma b2 v t3
      let mh := fpMul m' c1
      let vh := fpMul v' c2
      let r := fpSqrt vh
      let e := fpAdd r eps
      let u := fpDiv mh e
      (m', v', u, optProd t [ob1, g] ++ optProd m' [b1, m, t] ++ optProd t2 [g] ++ optProd t3 [ob2, t2] ++ optProd v' [b2, v, t3] ++
        optProd mh [m', c1] ++ optProd vh [v', c2] ++ optProd r [vh] ++ optProd e [r, eps] ++ optProd u [mh, e])
    else
      let m' := fpFma b1 m g
      (m', v, m', optProd m' [b1, m, g])
  let u := fpFma wd w q.2.2.1
  let nlr := fpNeg lr
  let w' := fpFma nlr u w
  let o := convert (shOutfmt d) (val32 w') rnd (bit (opNumctl b) 3)
  { w := w', m := q.1, v := q.2.1, a := a', out := o.1,
    prods := p0 ++ q.2.2.2 ++ optProd u [wd, w, q.2.2.1] ++ optProd w' [nlr, u, w] ++ o.2.toList }

/-- FP32 words of n elements. -/
def words32 (bs : List Byte) (n : Nat) : List Nat := unpackElems fcFp32 bs n

/-- Reads several areas in order. -/
def svcReads (w : SvcBy) : List (Nat × Nat) → State → Option (List (List Byte)) × State
  | [], s => (some [], s)
  | q :: qs, s => match svcRead w q.1 q.2 s with
    | (none, s) => (none, s)
    | (some b, s) => match svcReads w qs s with
      | (none, s) => (none, s)
      | (some bs, s) => (some (b :: bs), s)

/-- Writes several areas in order; a denied piece stops them. -/
def svcWrites (w : SvcBy) : List (Nat × List Byte) → State → Bool × State
  | [], s => (true, s)
  | q :: qs, s => match svcWrite w q.1 q.2 s with
    | (false, s) => (false, s)
    | (true, s) => svcWrites w qs s

/-- Raises the productions of elements from index e; the girder that made them is a free value. -/
def svcNans (w : SvcBy) (e : Nat) (prods : List (List Nat)) (s : State) : State :=
  if prods.all fun l => l == [] then s
  else
    let sub := freeBits 2 s
    nansProduced (prods.zipIdx.flatMap fun y => y.1.map fun c =>
      { ctx := w.ctx, tag := w.tag, unit := w.unit, sub := sub, cause := c, idx := (e + y.2) % 2 ^ 48 }) (tookFree s)

/-- Updates parameters i to i + n - 1. -/
def optChunk (r : SvcReq) (w : SvcBy) (i n : Nat) (s : State) : Bool × State :=
  let b := r.bytes
  let d := r.desc
  let gb := fmtBits (opGfmt b) / 8
  let ob := fmtBits (shOutfmt d) / 8
  let at_ := fun k => shPlane d k + 4 * i
  let acc := rqOp b == soOptAccum
  let reads := if acc then [(opG b + gb * i, gb * n), (at_ 3, 4 * n)]
    else [(opG b + gb * i, gb * n), (at_ 0, 4 * n), (at_ 1, 4 * n)] ++ (if shAlgo d = 0 then [(at_ 2, 4 * n)] else []) ++
      (if opUseAcc b then [(at_ 3, 4 * n)] else [])
  match svcReads w reads s with
  | (none, s) => (false, s)
  | (some l, s) =>
    let gs := (unpackElems (opGfmt b) (l.getD 0 []) n).map fun p => fp32Of (decodeElem (opGfmt b) p)
    if acc then
      let as_ := words32 (l.getD 1 []) n
      let out := (as_.zip gs).map fun y => fpAdd y.1 y.2
      let s := svcNans w (shPindex d + i) ((out.zip (as_.zip gs)).map fun y => optProd y.1 [y.2.1, y.2.2]) s
      svcWrites w [(at_ 3, packElems fcFp32 out)] s
    else
      let ws := words32 (l.getD 1 []) n
      let ms := words32 (l.getD 2 []) n
      let vs := if shAlgo d = 0 then words32 (l.getD 3 []) n else List.replicate n 0
      let as_ := if opUseAcc b then words32 (l.getD (if shAlgo d = 0 then 4 else 3) []) n else List.replicate n 0
      let es := (List.range n).map fun k =>
        let rnd := rndOf (opNumctl b) (ctxJob s r.ctx) (shTid d) (rn s (A.ctxSrSeed r.ctx)) (shPindex d + i + k)
        optElement b d rnd (gs.getD k 0) (ws.getD k 0) (ms.getD k 0) (vs.getD k 0) (as_.getD k 0)
      let s := svcNans w (shPindex d + i) (es.map fun e => e.prods) s
      svcWrites w ([(at_ 0, packElems fcFp32 (es.map fun e => e.w)), (at_ 1, packElems fcFp32 (es.map fun e => e.m))] ++
        (if shAlgo d = 0 then [(at_ 2, packElems fcFp32 (es.map fun e => e.v))] else []) ++
        (if opUseAcc b then [(at_ 3, packElems fcFp32 (es.map fun e => e.a))] else []) ++
        [(opOut b + ob * i, packElems (shOutfmt d) (es.map fun e => e.out))]) s

/-- Updates the chunks of 2,048 parameters from chunk c on, dealt over piers; fuel counts the chunks. -/
def optChunks (r : SvcReq) (piers : List Nat) : Nat → Nat → State → Bool × State
  | 0, _, s => (true, s)
  | f + 1, c, s =>
    let w : SvcBy := { svcBy r with unit := pierUnit (piers.getD (c % piers.length) r.pier) }
    match optChunk r w (2048 * c) (min 2048 (shPcount r.desc - 2048 * c)) s with
    | (true, s) => optChunks r piers f (c + 1) s
    | (false, s) => (false, s)

/-! ### Sending a shard (14 R373, R374) -/

def onMirrors (f : List Mirror → List Mirror) (s : State) : State := onSvc (fun v => { v with mirrors := f v.mirrors }) s

/-- The lowest number that no mirror has. -/
def freeMirror (s : State) : Nat :=
  ((List.range (s.svc.mirrors.length + 1)).find? fun k => !s.svc.mirrors.any fun m => m.id == k).getD 0

/-- Begins to send the shard of a request. -/
def startMirror (r : SvcReq) (rcd peer off step : Nat) (wait : Bool) (s : State) : State :=
  let d := r.desc
  let m : Mirror := { id := freeMirror s, ctx := r.ctx, tag := rqTag r.bytes, span := rqSpan r.bytes, pier := r.pier,
                      shard := opDesc r.bytes, rcd := rcd, peer := peer, off := off, base := shState d, pcount := shPcount d,
                      step := step, piece := 0, sending := false, waited := if wait then some (r.ctx, r.slot) else none,
                      result := none }
  onMirrors (fun l => l ++ [m]) s

/-- The mirror header (Table 14.7). -/
def mirrorHead (m : Mirror) (state : Nat) : List Byte :=
  leBytes 2 0x4D53 ++ leBytes 1 state ++ leBytes 5 0 ++ leBytes 8 m.step ++ leBytes 8 m.pcount ++ leBytes 40 0

/-- Bytes of the planes, and the SENDs that carry them. -/
def mirrorBytes (m : Mirror) : Nat := 16 * m.pcount
def mirrorSends (m : Mirror) : Nat := (mirrorBytes m + 2 ^ 24 - 1) / 2 ^ 24

/-- Place of a mirror's completion words, and of its header in the service area. -/
def mirrorPlace (m : Mirror) : Nat := 16 + m.id
def mirrorStage (m : Mirror) : Nat := 0x8000 + 64 * m.id % 0x8000

/-- The record may carry the mirror: OPEN, of class FWD, peered with the rank. -/
def mirrorOpen (s : State) (m : Mirror) : Bool :=
  ownOpen s m.ctx m.rcd (fun c => c == clFwd) && srPeerRank s m.rcd == m.peer

/-- The mirror ends with a status: the request that waits for it sees it, and otherwise an event is raised. -/
def endMirror (m : Mirror) (st : Nat) (s : State) : State :=
  match m.waited with
  | some _ => onMirrors (fun l => l.map fun q => if q.id = m.id then { m with result := some st } else q) s
  | none =>
    let e : EventId := if st = csOk then { code := 0x0E03, ctx := m.ctx, detail := m.step }
      else { code := 0x0E04, ctx := m.ctx, detail := 2 ^ 32 * m.tag + m.rcd }
    raiseEvent e (onMirrors (fun l => l.filter fun q => q.id != m.id) s)

/-- The command that sends the next piece: a header, a part of the planes, or the header that ends the copy. -/
def mirrorPush (m : Mirror) (s : State) : Bool × State :=
  let k := mirrorPlace m
  let head := fun (state : Nat) (last : Bool) (s : State) =>
    svcPush m.ctx m.pier k (svcSend m.tag k (2 ^ 63 + mirrorStage m) m.off 64 m.rcd last)
      (ctxLocWr m.ctx m.pier (mirrorStage m) (mirrorHead m state) s)
  if m.piece = 0 then head 1 false s
  else if m.piece ≤ mirrorSends m then
    let o := 2 ^ 24 * (m.piece - 1)
    svcPush m.ctx m.pier k (svcSend m.tag k (m.base + o) (m.off + 64 + o) (min (2 ^ 24) (mirrorBytes m - o)) m.rcd false) s
  else head 2 true s

/-- Goes on with a mirror: pushes its next SEND under the mirror turnstile, or sees that the last one has completed. -/
def stepMirror (m : Mirror) (cycles : Nat) (s : State) : State :=
  let put := fun (q : Mirror) (s : State) => onMirrors (fun l => l.map fun x => if x.id = q.id then q else x) s
  if m.result.isSome then s
  else if m.sending then
    match svcAnswer s m.ctx m.pier (mirrorPlace m) with
    | none => s
    | some (st, _) =>
      if st ≠ csOk then endMirror m (if st = csFenced then csFenced else csFaulted) s
      else if m.piece = mirrorSends m + 1 then endMirror m csOk s
      else put { m with piece := m.piece + 1, sending := false } s
  else match grantPier s m.ctx m.span with
    | none => s
    | some p =>
      if !mirrorOpen s m then endMirror m csFaulted s
      else if !svcFree s p ∨ tstSpent s actMirror (8 + m.span) then s
      else
        let q := mirrorPush { m with pier := p } (tstCharge actMirror (8 + m.span) cycles (svcTook [p] s))
        if q.1 then put { m with pier := p, sending := true } q.2 else svcTook [p] s

/-- Goes on with the mirror of a number that a context's requests have started. -/
def mirrorRow (x id cycles : Nat) (s : State) : State :=
  match s.svc.mirrors.find? fun m => m.id == id && m.ctx == x with
  | some m => stepMirror m cycles s
  | none => s

/-- Status of the mirror that a request waits for, which is then forgotten. -/
def mirrorOf (s : State) (r : SvcReq) : Option Mirror := s.svc.mirrors.find? fun m => m.waited == some (r.ctx, r.slot)

/-- A request's service grants are due on pier p. -/
def reqDueOn (s : State) (p : Nat) (r : SvcReq) : Bool :=
  !r.complete && r.status.isNone && usesGroup (rqOp r.bytes) && !awaitsMirror r &&
    (reqPier s r).any fun q => (stepPiers s r q).contains p

/-- The next SEND of a mirror is due on pier p. -/
def mirrorDueOn (s : State) (p : Nat) (m : Mirror) : Bool :=
  m.result.isNone && !m.sending && grantPier s m.ctx m.span == some p && !tstSpent s actMirror (8 + m.span)

/-- A service grant of context x is due on pier p (R362). -/
def svcDue (s : State) (x p : Nat) : Bool :=
  s.svc.reqs.any (fun r => r.ctx == x && reqDueOn s p r) || s.svc.mirrors.any fun m => m.ctx == x && mirrorDueOn s p m

/-! ### Stages of an optimizer request -/

/-- Adds bits to RESULT. -/
def addResult (r : SvcReq) (v : Nat) : SvcReq := { r with result := some (r.result.getD 0 ||| v) }

/-- Reads a descriptor of n bytes at an address; none is needed at 0. -/
def descAt (w : SvcBy) (a n : Nat) (s : State) : Option (List Byte) × State := if a = 0 then (some [], s) else svcRead w a n s

/-- The request, which optFaults has checked, reads its descriptors. -/
def optStart (r : SvcReq) (s : State) : State :=
  let b := r.bytes
  match svcReads (svcBy r) ([(opDesc b, 64)] ++ (if opRs b = 0 then [] else [(opRs b, 128)]) ++
      (if opAg b = 0 then [] else [(opAg b, 128)])) s with
  | (none, s) => failReq r s
  | (some l, s) => putReq { r with desc := l.getD 0 [], stage := if opRs b = 0 then optUpdating else 1 } s

/-- The update itself, and the mirror that follows it. -/
def optUpdate (r : SvcReq) (s : State) : State :=
  let b := r.bytes
  match optChunks r (shPiers s r) ((shPcount r.desc + 2047) / 2048) 0 s with
  | (false, s) => failReq r s
  | (true, s) =>
    if rqOp b = soOptAccum then endReq r csOk s
    else
      let s := if opMirrorOn b then
          startMirror r (shMsr r.desc) (shPartner r.desc % 2 ^ 24) (shMoff r.desc) (opStepNo b) (opMsync b) s
        else s
      putReq (addResult { r with stage := if opAg b = 0 then 6 else 4 } 1) s

/-- A collective of the request has ended: it goes on, or ends with the collective's status. -/
def optColl (r : SvcReq) (next sent pending : Nat) (s : State) : State :=
  match svcAnswer s r.ctx r.pier r.slot with
  | none => s
  | some (st, d) =>
    let r := if rqOp r.bytes = soOptStep then addResult r (2 ^ 8 * (d % 2 ^ 8)) else r
    if st = csOk then putReq (addResult { r with stage := next } sent) s
    else
      let s := onMirrors (fun l => l.map fun m => if m.waited = some (r.ctx, r.slot) then { m with waited := none } else m) s
      endReq (addResult r pending) st s

/-- The mirror of a request that has sent its weights. -/
def optMirror (r : SvcReq) (s : State) : State :=
  let b := r.bytes
  if !opMirrorOn b then endReq r csOk s
  else if !opMsync b then endReq (addResult r 8) csOk s
  else match mirrorOf s r with
    | none => s
    | some m => match m.result with
      | none => s
      | some st =>
        let s := onMirrors (fun l => l.filter fun q => q.id != m.id) s
        endReq (if st = csOk then addResult r 4 else r) st s

/-- A step of an optimizer request. -/
def optRun (r : SvcReq) (s : State) : State :=
  if r.stage = 0 then optStart r s
  else if r.stage = 1 then launchReq r (opRs r.bytes) s
  else if r.stage = 2 then optColl r optUpdating 0 0 s
  else if r.stage = optUpdating then optUpdate r s
  else if r.stage = 4 then launchReq r (opAg r.bytes) s
  else if r.stage = 5 then optColl r 6 2 (if opMirrorOn r.bytes then 8 else 0) s
  else optMirror r s

/-- OPT_STEP: context x's services take, or go on with, an optimizer step, or go on with a mirror, whose packets hold the span's
crossbar for cycles core cycles. -/
def execOptStep (x : CtxNo) (w : SvcStep) (cycles : Nat) (s : State) : Host.Outcome State Fault Refusal :=
  match w with
  | .mirror id => .next (mirrorRow x.val id cycles s)
  | w => .next (svcRow soOptStep x.val w optFaults optRun s)

/-- OPT_ACCUM: a gradient is added into plane A. -/
def execOptAccum (x : CtxNo) (w : SvcStep) (s : State) : Host.Outcome State Fault Refusal :=
  .next (svcRow soOptAccum x.val w optFaults optRun s)

/-! ### AGT_SEND_STATE (14 R384, R385) -/

def asTrank (b : List Byte) : Nat := le b 0x28 4
def asTsr (b : List Byte) : Nat := le b 0x2C 4
def asToff (b : List Byte) : Nat := le b 0x30 8
def asStep (b : List Byte) : Nat := le b 0x38 8

/-- Faulty fields of the body. -/
def sendStateFaults (s : State) (r : SvcReq) : List Nat :=
  let b := r.bytes
  breaks (opDesc b % 64 != 0 || (svcPeek s r.ctx (opDesc b) 64).any fun d => !shOk d) 0x20 ++ breaks (2 ^ 24 ≤ asTrank b) 0x28 ++ breaks (2 ^ 22 ≤ asTsr b) 0x2C ++
    breaks (2 ^ 40 ≤ asToff b) 0x30 ++ mustBeZero b 0x40 64

/-- A step of a send of state. -/
def sendStateRun (r : SvcReq) (s : State) : State :=
  let b := r.bytes
  if r.stage = 0 then
    match svcRead (svcBy r) (opDesc b) 64 s with
    | (none, s) => failReq r s
    | (some d, s) =>
      let r := { r with desc := d, stage := 1 }
      putReq r (startMirror r (asTsr b) (asTrank b) (asToff b) (asStep b) true s)
  else match mirrorOf s r with
    | none => s
    | some m => match m.result with
      | none => s
      | some st => endReq r st (onMirrors (fun l => l.filter fun q => q.id != m.id) s)

/-- AGT_SEND_STATE: a shard's state goes to a rank by the protocol of R373. -/
def execAgtSendState (x : CtxNo) (w : SvcStep) (cycles : Nat) (s : State) : Host.Outcome State Fault Refusal :=
  match w with
  | .mirror id => .next (mirrorRow x.val id cycles s)
  | w => .next (svcRow soSendState x.val w sendStateFaults sendStateRun s)

end Sys2Proof.Machine
end

