-- ==== Sys2Proof/Machine/SvcDisp.lean ====
section
/-! DEFINITION. Expert dispatch and combine (14 R382, R383), and the fault-tolerance agent (14 R384). -/

namespace Sys2Proof.Machine
open Sys2Proof

/-! ### Launching a stream collective -/

def xDesc (b : List Byte) : Nat := le b 0x20 8

/-- DESC names a descriptor of another kind than STREAM (R382). -/
def notStream (s : State) (r : SvcReq) : Bool := (svcPeek s r.ctx (xDesc r.bytes) 128).any fun d => cdKind d != kStream

/-- The request reads its descriptor, and goes on with f. -/
def streamStart (r : SvcReq) (f : SvcReq → State → State) (s : State) : State :=
  match svcRead (svcBy r) (xDesc r.bytes) 128 s with
  | (none, s) => failReq r s
  | (some d, s) => f { r with desc := d, ver := curEpoch s } s

/-- Bytes of an entry of landing buffer k, and where its body area begins. -/
def landEntry (s : State) (r : SvcReq) (k : Nat) : Nat := 8 + 4 * pgWout (progAt s r.ver (cdSlot r.desc)) k
def landBodies (s : State) (r : SvcReq) (k : Nat) : Nat := cdLbuf r.desc k + cdLcount r.desc k * landEntry s r k

/-- The sum of the END IDX values that the member has received (09 R250). -/
def endSum (s : State) (r : SvcReq) : Nat := smGet 0 (getPier s r.pier).endIdx r.seq % 2 ^ 32

/-- The COLL command of the request has ended, its sum of END IDX values taken: with OK it goes on with f, otherwise it has failed. -/
def streamEnded (r : SvcReq) (f : SvcReq → State → State) (s : State) : State :=
  match svcAnswer s r.ctx r.pier r.slot with
  | none => s
  | some (st, _) =>
    let r := { r with result := r.result.map fun _ => endSum s r }
    let s := onPier r.pier (fun q => { q with endIdx := smPut 0 q.endIdx r.seq 0 }) s
    if st = csOk then f r s else failReq r s

/-! ### DISPATCH (14 R382, Table 14.12) -/

def xDrops (b : List Byte) : Nat := le b 0x28 8
def xDmax (b : List Byte) : Nat := le b 0x30 4
def xRbuf (b : List Byte) : Nat := le b 0x34 1
def xRword (b : List Byte) : Nat := le b 0x35 1

/-- Faulty fields of a DISPATCH. -/
def dispatchFaults (s : State) (r : SvcReq) : List Nat :=
  let b := r.bytes
  breaks (notStream s r) 0x20 ++ breaks (1 < xRbuf b) 0x34 ++ breaks (7 < xRword b) 0x35 ++
    [(0x36, 2), (0x38, 8), (0x40, 4), (0x44, 4), (0x48, 8), (0x50, 48)].flatMap fun (y : Nat × Nat) => mustBeZero b y.1 y.2

/-- The landing buffer is written all-ones. -/
def dispatchClear (r : SvcReq) (s : State) : State :=
  let k := xRbuf r.bytes
  match svcWrite (svcBy r) (cdLbuf r.desc k) (List.replicate (cdLcount r.desc k * landEntry s r k) 0xFF) s with
  | (false, s) => failReq r s
  | (true, s) => putReq { r with stage := 1 } s

/-- An entry of the report buffer reports a drop: identity bits [63:56] are 0, and its word is all-ones. -/
def reportsDrop (e : List Byte) (word : Nat) : Bool := le e 7 1 == 0 && le e (8 + 4 * word) 4 == 0xFFFFFFFF

/-- The scan of the landing buffer, the drop list, and RESULT; a scan whose read fails has found no drop (DESIGN CHOICE: log entry
80). -/
def dispatchScan (r : SvcReq) (s : State) : State :=
  let b := r.bytes
  let k := xRbuf b
  let n := landEntry s r k
  match svcRead (svcBy r) (cdLbuf r.desc k) (cdLcount r.desc k * n) s with
  | (none, s) => failReq r s
  | (some bs, s) =>
    let found := (chop n (cdLcount r.desc k) bs).filter fun e => reportsDrop e (xRword b)
    let list := if xDrops b = 0 then [] else (found.take (xDmax b)).flatMap fun e => slice e 0 4
    let r := { r with result := r.result.map (· + 2 ^ 32 * (found.length % 2 ^ 32)) }
    match svcWrite (svcBy r) (xDrops b) list s with
    | (false, s) => failReq r s
    | (true, s) => endReq r csOk s

/-- A step of a DISPATCH. -/
def dispatchRun (r : SvcReq) (s : State) : State :=
  if r.stage = 0 then streamStart r dispatchClear s
  else if r.stage = 1 then launchReq r (xDesc r.bytes) s
  else streamEnded r dispatchScan s

/-- DISPATCH. -/
def execDispatch (x : CtxNo) (w : SvcStep) (s : State) : Host.Outcome State Fault Refusal :=
  .next (svcRow soDispatch x.val w dispatchFaults dispatchRun s)

/-! ### COMBINE (14 R383, Table 14.12) -/

def cbGates (b : List Byte) : Nat := le b 0x28 8
def cbOut (b : List Byte) : Nat := le b 0x30 8
def cbNtok (b : List Byte) : Nat := le b 0x38 4
def cbKact (b : List Byte) : Nat := le b 0x3C 1
def cbHfmt (b : List Byte) : Nat := le b 0x3D 1
def cbOfmt (b : List Byte) : Nat := le b 0x3E 1
def cbNumctl (b : List Byte) : Nat := le b 0x3F 1
def cbH (b : List Byte) : Nat := le b 0x40 4
def cbTid (b : List Byte) : Nat := le b 0x44 4
def cbReport (b : List Byte) : Nat := le b 0x48 8
def cbRword (b : List Byte) : Nat := le b 0x50 1

/-- Faulty fields of a COMBINE. -/
def combineFaults (s : State) (r : SvcReq) : List Nat :=
  let b := r.bytes
  breaks (notStream s r) 0x20 ++ breaks (cbKact b == 0 || 64 < cbKact b) 0x3C ++ breaks (2 < cbHfmt b) 0x3D ++ breaks (2 < cbOfmt b) 0x3E ++
    breaks (cbNumctl b / 16 != 0 || cbNumctl b % 4 != 0) 0x3F ++ breaks (7 < cbRword b) 0x50 ++ mustBeZero b 0x51 47

/-- An expert output that enters a token's sum: its gate and its H elements as FP32 patterns. -/
structure Gated where
  gate : Nat
  ys : List Nat
  deriving DecidableEq, Repr

/-- Reads the outputs of entries e to e + n - 1 that were not dropped, in order (n is the fuel). -/
def readGated (r : SvcReq) : Nat → Nat → State → Option (List Gated) × State
  | 0, _, s => (some [], s)
  | n + 1, e, s =>
    let b := r.bytes
    let w := svcBy r
    let rep := 8 + 4 * (cbRword b + 1)
    match svcRead w (cbReport b + e * rep + 8 + 4 * cbRword b) 4 s with
    | (none, s) => (none, s)
    | (some word, s) =>
      if ofLe word = 0xFFFFFFFF then readGated r n (e + 1) s
      else
        let y := landBodies s r 0 + e * cdBstride r.desc 0
        match svcReads w [(cbGates b + 4 * e, 4), (y, fmtBits (cbHfmt b) / 8 * cbH b)] s with
        | (none, s) => (none, s)
        | (some l, s) =>
          let ys := (unpackElems (cbHfmt b) (l.getD 1 []) (cbH b)).map fun p => fp32Of (decodeElem (cbHfmt b) p)
          match readGated r n (e + 1) s with
          | (none, s) => (none, s)
          | (some gs, s) => (some ({ gate := ofLe (l.getD 0 []), ys := ys } :: gs), s)

/-- Element h of a token: the sum of its gated outputs in order, with the productions of its operations. -/
def combineElem (gs : List Gated) (h : Nat) : Nat × List Nat :=
  gs.foldl (fun (acc : Nat × List Nat) g =>
    let y := g.ys.getD h 0
    let v := fpFma g.gate y acc.1
    (v, acc.2 ++ optProd v [g.gate, y, acc.1])) (0, [])

/-- The tokens from t on, in order (n is the fuel). -/
def combineTokens (r : SvcReq) : Nat → Nat → State → Bool × State
  | 0, _, s => (true, s)
  | n + 1, t, s =>
    let b := r.bytes
    match readGated r (cbKact b) (cbKact b * t) s with
    | (none, s) => (false, s)
    | (some gs, s) =>
      let hs := (List.range (cbH b)).map fun h =>
        let q := combineElem gs h
        let rnd := rndOf (cbNumctl b) (ctxJob s r.ctx) (cbTid b) (rn s (A.ctxSrSeed r.ctx)) (t * cbH b + h)
        let o := convert (cbOfmt b) (val32 q.1) rnd (bit (cbNumctl b) 3)
        (o.1, q.2 ++ o.2.toList)
      let s := svcNans (svcBy r) (t * cbH b) (hs.map Prod.snd) s
      match svcWrite (svcBy r) (cbOut b + fmtBits (cbOfmt b) / 8 * (t * cbH b)) (packElems (cbOfmt b) (hs.map Prod.fst)) s with
      | (false, s) => (false, s)
      | (true, s) => combineTokens r n (t + 1) s

/-- The sums of a COMBINE. -/
def combineSums (r : SvcReq) (s : State) : State :=
  match combineTokens r (cbNtok r.bytes) 0 s with
  | (false, s) => failReq r s
  | (true, s) => endReq r csOk s

/-- A step of a COMBINE. -/
def combineRun (r : SvcReq) (s : State) : State :=
  if r.stage = 0 then streamStart r (fun r s => putReq { r with stage := 1 } s) s
  else if r.stage = 1 then launchReq r (xDesc r.bytes) s
  else streamEnded r combineSums s

/-- COMBINE. -/
def execCombine (x : CtxNo) (w : SvcStep) (s : State) : Host.Outcome State Fault Refusal :=
  .next (svcRow soCombine x.val w combineFaults combineRun s)

/-! ### The agent (14 R384, Table 14.13) -/

def agAddr (b : List Byte) : Nat := le b 0x20 8
def agLen (b : List Byte) : Nat := le b 0x28 8
def agOutd (b : List Byte) : Nat := le b 0x30 8
def agCtx (b : List Byte) : Nat := le b 0x20 1
def agQmask (b : List Byte) : Nat := le b 0x21 1

/-- The context that a request names is none of the agent's job. -/
def agStranger (s : State) (r : SvcReq) : Bool := 64 ≤ agCtx r.bytes || ctxJob s (agCtx r.bytes) != ctxJob s r.ctx

/-- An AGT_DIGEST, under the management-DMA turnstile. -/
def digestRun (cycles : Nat) (r : SvcReq) (s : State) : State :=
  let b := r.bytes
  if tstSpent s actMgmtDma 16 then s
  else match svcRead (svcBy r) (agAddr b) (agLen b) (tstCharge actMgmtDma 16 cycles s) with
    | (none, s) => failReq r s
    | (some m, s) => match svcWrite (svcBy r) (agOutd b) (sha3 m) s with
      | (false, s) => failReq r s
      | (true, s) => endReq r csOk s

/-- AGT_DIGEST: the SHA3-512 of a range; it holds the DMA engine for cycles core cycles. -/
def execAgtDigest (x : CtxNo) (w : SvcStep) (cycles : Nat) (s : State) : Host.Outcome State Fault Refusal :=
  .next (svcRow soDigest x.val w (fun _ r => breaks (agLen r.bytes % 64 != 0) 0x28 ++ mustBeZero r.bytes 0x38 72) (digestRun cycles) s)

/-- Faulty fields of an AGT_QUIESCE or AGT_RESUME. -/
def quiesceFaults (s : State) (r : SvcReq) : List Nat := breaks (agStranger s r) 0x20 ++ mustBeZero r.bytes 0x21 95

/-- An AGT_QUIESCE: queues 0–6 are taken from no more; once no other request of the context is in progress, QUIESCED is set. -/
def quiesceRun (r : SvcReq) (s : State) : State :=
  let c := agCtx r.bytes
  let s := onSvc (fun v => { v with quiet := if v.quiet.contains c then v.quiet else v.quiet ++ [c] }) s
  if (inProgress s c).any fun q => !sameReq q r then putReq { r with stage := 1 } s
  else endReq r csOk (raiseEvent { code := 0x0E05, ctx := c, detail := c } (wf (A.ctxSvcStatus c) 31 31 1 s))

/-- AGT_QUIESCE. -/
def execAgtQuiesce (x : CtxNo) (w : SvcStep) (s : State) : Host.Outcome State Fault Refusal :=
  .next (svcRow soQuiesce x.val w quiesceFaults quiesceRun s)

/-- An AGT_RESUME. -/
def resumeRun (r : SvcReq) (s : State) : State :=
  let c := agCtx r.bytes
  endReq r csOk (onSvc (fun v => { v with quiet := v.quiet.erase c }) (wf (A.ctxSvcStatus c) 31 31 0 s))

/-- AGT_RESUME. -/
def execAgtResume (x : CtxNo) (w : SvcStep) (s : State) : Host.Outcome State Fault Refusal :=
  .next (svcRow soResume x.val w quiesceFaults resumeRun s)

/-- Completes the untaken entries of a queue of a context with CANCELLED, without CHAIN (n is the fuel). -/
def cancelEntries (c j : Nat) : Nat → State → State
  | 0, s => s
  | n + 1, s =>
    if svcProd s c j = svcNext s c j then s
    else
      let b := (peekEntry s c j (svcNext s c j)).getD (List.replicate 128 0)
      let q := takeReq c j b (some csCancelled) s
      cancelEntries c j n (completeReq q.1 csCancelled q.2)

/-- Faulty fields of an AGT_CANCEL. -/
def cancelFaults (s : State) (r : SvcReq) : List Nat :=
  breaks (agStranger s r || !rbit s (A.ctxSvcStatus (agCtx r.bytes)) 31) 0x20 ++ breaks (127 < agQmask r.bytes) 0x21 ++
    mustBeZero r.bytes 0x22 94

/-- An AGT_CANCEL. -/
def cancelRun (r : SvcReq) (s : State) : State :=
  endReq r csOk (((List.range 7).filter (bit (agQmask r.bytes))).foldl (fun s j => cancelEntries (agCtx r.bytes) j (2 ^ 16) s) s)

/-- AGT_CANCEL. -/
def execAgtCancel (x : CtxNo) (w : SvcStep) (s : State) : Host.Outcome State Fault Refusal :=
  .next (svcRow soCancel x.val w cancelFaults cancelRun s)

end Sys2Proof.Machine
end

