-- ==== Sys2Proof/Machine/Func.lean ====
section
/-! DEFINITION. Function states: ENABLE and DISABLE, the work of START and DRAIN, and their limits (17 R439-R442; 04 R103). -/

namespace Sys2Proof.Machine
open Sys2Proof

/-! ### Functions (17 Table 17.6) -/

/-- What a function number names. -/
inductive Func where
  | group (g : Nat)
  | span (i : Nat)
  | pier (p : Nat)
  | rse (n : Nat)
  | stack (i : Nat)
  | gul (n : Nat)
  | ctx (x : Nat)
  | none
  deriving DecidableEq, Repr

/-- The function of a number. -/
def funcOf (f : Nat) : Func :=
  if f < 64 then .group f else if f < 72 then .span (f - 64) else if f < 200 then .pier (f - 72)
  else if f < 280 then .rse (f - 200) else if f < 288 then .stack (f - 280) else if f < 290 then .gul (f - 288)
  else if f < 354 then .ctx (f - 290) else .none

/-- UNIT of a function's records: the base of its register block. -/
def funcUnit : Func → Nat
  | .group g => pgUnit g
  | .span i => spanUnit i
  | .pier p => pierUnit p
  | .rse n => rseUnit n
  | .stack i => memUnit i
  | .gul n => 0x4000000 + 0x10000 * n
  | .ctx x => ctxUnit x
  | .none => 0

/-- FSTATE of a function takes a value. -/
def setFstate (f st : Nat) (s : State) : State := wf (A.dkFuncState f) 2 0 st s

/-- ENABLE_PENDING of a function. -/
def funcPending (s : State) (f : Nat) : Bool := rbit s (A.dkFuncState f) 3
def setPending (f : Nat) (b : Bool) (s : State) : State := wf (A.dkFuncState f) 3 3 (b2n b) s

/-- A function enters ON or OFF: FUNC_STATE (R439). -/
def enterState (f st : Nat) (s : State) : State :=
  raiseEvent { code := 0x1108, unit := funcUnit (funcOf f), detail := f + 2 ^ 16 * st } (setFstate f st s)

/-! ### Conditions (17 Table 17.8) -/

/-- STATE by which a condition on the image is judged: while a partial image is under way, the state before the LOAD (R441). -/
def imgJudged (s : State) : Nat := if loading s && !loadingFull s then s.img.prior else imgState s

/-- The image is ACTIVE or ARMED. -/
def imgHeld (s : State) : Bool := imgJudged s == imActive || imgJudged s == imArmed

/-- The live area of a context is unset (03 R77), or its rank table does not name a valid descriptor of its JOB. -/
def ctxUnready (s : State) (x : Nat) : Bool :=
  let b := liveArea s x
  allZero b || !rankTblOk s (paRankTbl b) (paJob b)

/-- The pair of a port group. -/
def cwyPair (g : Nat) : Nat := (g - 48) / 2

/-- ENABLE through port p breaks a condition other than that on a pair. -/
def enableBad (p : GPort) (s : State) : Func → Bool
  | .gul n => p.val == n
  | .group g => loadingFull s || !imgHeld s || poMode (sect s secPorts) g == 0
  | .span _ => loadingFull s || !imgHeld s
  | .rse _ => loadingFull s || !imgHeld s
  | .pier q => loadingFull s || !isOn s (fnSpan (q / 16))
  | .stack _ => loadingFull s || stage s != stRunning
  | .ctx x => loadingFull s || !imgHeld s || ctxUnready s x || (List.range 8).any fun i => !isOn s (fnStack i)
  | .none => true

/-- A group of a pair that is not OPEN. -/
def pairShut (s : State) : Func → Bool
  | .group g => 48 ≤ g && cwyState s (cwyPair g) != cwOpen
  | _ => false

/-- The group of a pier has a resident context. -/
def pierResident (s : State) (q : Nat) : Bool :=
  (getPier s q).resident.isSome ||
    (List.range 4).any fun k => (groupPiers s (q / 16) k).contains q && (groupCtx s (q / 16) k).isSome

/-- DISABLE through port p breaks a condition. -/
def disableBad (p : GPort) (s : State) : Func → Bool
  | .gul n => p.val == n
  | .span i => (List.range 16).any fun j => fstate s (fnPier (16 * i + j)) != fsOff
  | .pier q => pierResident s q
  | .stack _ => (List.range 64).any fun x => fstate s (fnCtx x) != fsOff
  | _ => false

/-! ### Contexts in DRAIN (17 Table 17.7) -/

/-- A command that has not been dequeued, as it completes. -/
def undequeued (x : Nat) (c : QCmd) : RunCmd := { bytes := c.bytes, seq := c.seq, ctx := x, sig := none, seed := 0, ver := 0 }

/-- The commands of an engine's queue complete with CANCELLED; a push that waits for room goes in. -/
def cancelQueue (x p e : Nat) (s : State) : State :=
  let l := (getEng s p e).queue
  let s := onEng p e (fun g => { g with queue := [], waits := none }) s
  unstall p e (l.foldl (fun s c => completeCmd p e (undequeued x c) csCancelled 0 s) s)

/-- The saved queues of a context for a pier complete with CANCELLED. -/
def cancelSaved (x p : Nat) (s : State) : State :=
  match hasSave s x p, saveArea s x p with
  | true, some b =>
    let s := (List.range 8).foldl (fun (s : State) e =>
      (savedQueue s b e).foldl (fun s c => completeCmd p e (undequeued x c) csCancelled 0 s) s) s
    hbmWr (b + 0x420004) (List.replicate 16 0) s
  | _, _ => s

/-- The undequeued commands and armed receives of a context complete with CANCELLED on a pier. -/
def cancelOn (x : Nat) (s : State) (p : Nat) : State :=
  let s := if (getPier s p).resident = some x then (List.range 8).foldl (fun s e => cancelQueue x p e s) s else s
  cancelRecvs p (fun v => v.run.ctx == x && v.coll.isNone) (cancelSaved x p s)

def cancelCtx (x : Nat) (s : State) : State := (List.range 128).foldl (cancelOn x) s

/-- A context closes its key-value stores (14 R381). -/
def closeStores (x : Nat) (s : State) : State := onSvc (fun v => { v with stores := v.stores.filter fun u => u.ctx != x }) s

/-- A pier has neither a task nor a dequeued command of a context that has not completed. -/
def pierDone (s : State) (x p : Nat) : Bool :=
  let q := getPier s p
  !(q.task.any fun g => g.ctx == x) && (List.range 8).all fun e =>
    !((getEng s p e).running.any fun r => r.ctx == x) && (getEng s p e).track.all fun t => t.run.ctx != x

/-- The dequeued commands and tasks of a context have finished. -/
def ctxDone (s : State) (x : Nat) : Bool := (List.range 128).all (pierDone s x)

/-- The residency of a context on a pier ends without a save. -/
def endResidency (x : Nat) (s : State) (p : Nat) : State :=
  let s := { s with pr := { s.pr with saved := smPut false s.pr.saved (128 * x + p) false } }
  if (getPier s p).resident = some x then
    onPier p (fun q => { q with resident := none }) (setQueues p (fun _ => []) (getPier s p).pushSeq (handBack p s))
  else s

/-- SPN_GROUP names a context no longer. -/
def clearGroups (x : Nat) (s : State) : State :=
  (List.range 32).foldl (fun s i =>
    if groupCtx s (i / 4) (i % 4) = some x then wf (A.spnGroup (i / 4) (i % 4)) 31 31 0 s else s) s

/-! ### START and DRAIN (17 Table 17.7) -/

/-- Discards what is held for the outputs of a port group. -/
def discardHeld (g : Nat) (s : State) : State :=
  onFab (removeHeld fun h => h.dst < 5120 && slotOf h.dst / 8 == g) s

/-- The ports of a group that is OFF are no ports of KIND 0 for what retired versions named (DEDUCED: log entry 11). -/
def forgetPorts (g : Nat) (s : State) : State := onFab (fun f => { f with kind0 := f.kind0.filter fun k => k / 8 != g }) s

/-- What begins when a function enters START. -/
def beginStart : Func → State → State
  | .group g, s => startGroupLanes g s
  | _, s => s

/-- A function enters START. -/
def enterStart (f : Nat) (s : State) : State := beginStart (funcOf f) (setFstate f fsStart s)

/-- What begins when a function enters DRAIN; on is that it was ON. -/
def beginDrain (on : Bool) : Func → State → State
  | .group g, s => discardHeld g (darkGroup g s)
  | .gul n, s => if on then ksPortLeft n s else s
  | .ctx x, s => cancelCtx x (if on then closeStores x s else s)
  | _, s => s

/-- A span's schedulers forget the entries that they have taken and not finished. -/
def resetScheduler (i : Nat) (s : State) : State :=
  (List.range 64).foldl (fun (s : State) x =>
    { s with pr := { s.pr with wqs := smPut [] s.pr.wqs (8 * x + i) []
                               wqNext := smPut 0 s.pr.wqNext (8 * x + i) (rn s (A.ctxWqCons x i)) } }) s

/-- Every counter that a context's FLAGMAP names reads 0 on every pier. -/
def zeroFlags (x : Nat) (s : State) : State :=
  (paCounters (liveArea s x)).foldl (fun s k => (List.range 128).foldl (fun s p => wf (A.pierFlag p k) 7 0 0 s) s) s

/-- An RSE's partial store and table memory are clear. -/
def clearRse (n : Nat) (s : State) : State :=
  onNet (fun m => { m with ops := m.ops.filter fun o => o.node != n
                           strm := m.strm.filter fun o => o.node != n
                           lane := m.lane.filter fun j => j.node != n }) s

/-- The work of START. -/
def startWork : Func → State → State
  | .span i, s => resetScheduler i s
  | .pier p, s => zeroStores p s
  | .rse n, s => clearRse n s
  | .ctx x, s => nanClear x (zeroFlags x s)
  | _, s => s

/-- An RSE frees its collective and stream state, with COLL_ABANDON for each collective. -/
def freeRse (n : Nat) (s : State) : State :=
  let s := (s.net.ops.filter fun o => o.node == n).foldl (fun s o => abandonOp o s) s
  (s.net.strm.filter fun o => o.node == n).foldl (fun s o => abandonStrm o s) s

/-- The work of DRAIN that ends it. -/
def drainWork : Func → State → State
  | .group g, s => forgetPorts g (discardHeld g s)
  | .rse n, s => freeRse n s
  | .ctx x, s =>
    let s := clearGroups x ((List.range 128).foldl (endResidency x) (cancelCtx x s))
    wf (A.ctxFltStatus x) 31 31 0 s
  | _, s => s

/-- DRAIN can end. -/
def drainReady (s : State) : Func → Bool
  | .ctx x => ctxDone s x
  | .gul n => !s.ks.waiting.any fun q => q.1.val == n
  | _ => true

/-! ### DK_FUNC_CTRL (17 Table 17.13) -/

/-- An operation is refused (R441). -/
def funcRefuse (p : GPort) (f op : Nat) (s : State) : State × Nat :=
  (raiseEvent { code := 0x1107, port := p, unit := funcUnit (funcOf f), detail := f + 2 ^ 28 * op } s, stIgnored)

/-- ENABLE of a function by port p. -/
def enableFunc (p : GPort) (f : Nat) (s : State) : State × Nat :=
  let st := fstate s f
  if st ≠ fsOff ∧ st ≠ fsDrain then (s, stIgnored)
  else if pairShut s (funcOf f) then (cwyRefuse p (cwyPair f) s, stIgnored)
  else if enableBad p s (funcOf f) then funcRefuse p f 1 s
  else
    let s := onMg (fun m => { m with gulDue := m.gulDue.filter (· != f) }) (wn A.dkFuncCtrl (f + 2 ^ 28) s)
    if st = fsOff then (enterStart f s, stOk) else (setPending f true s, stOk)

/-- DISABLE of a function by port p. -/
def disableFunc (p : GPort) (f : Nat) (s : State) : State × Nat :=
  let st := fstate s f
  let took := wn A.dkFuncCtrl (f + 2 * 2 ^ 28) s
  if st = fsDrain then (setPending f false took, stOk)
  else if st ≠ fsOn ∧ st ≠ fsStart then (s, stIgnored)
  else if disableBad p s (funcOf f) then funcRefuse p f 2 s
  else (beginDrain (st == fsOn) (funcOf f) (setFstate f fsDrain took), stOk)

/-- A write of DK_FUNC_CTRL by port p. -/
def writeFuncCtrl (p : GPort) (w : Word) (s : State) : State × Nat :=
  let f := fget w 8 0
  let op := fget w 31 28
  if !holds s p 0 then (klDenied p A.dkFuncCtrl s, stIgnored)
  else if op ≠ 1 ∧ op ≠ 2 then (s, stIgnored)
  else if !fnPresent s f || fstate s f == fsWedged then funcRefuse p f op s
  else if op = 1 then enableFunc p f s
  else disableFunc p f s

/-- An operation on a function written by a port. -/
def funcOp (p : GPort) (f : BitVec 9) (op : Nat) (s : State) : State :=
  wrRow p A.dkFuncCtrl (BitVec.ofNat 32 (f.toNat + 2 ^ 28 * op)) (writeFuncCtrl p) s

/-- ENABLE: port p writes ENABLE of a function to DK_FUNC_CTRL. -/
def execEnable (p : GPort) (f : BitVec 9) (s : State) : Host.Outcome State Fault Refusal := .next (funcOp p f 1 s)

/-- DISABLE: port p writes DISABLE of a function to DK_FUNC_CTRL. -/
def execDisable (p : GPort) (f : BitVec 9) (s : State) : Host.Outcome State Fault Refusal := .next (funcOp p f 2 s)

/-! ### The ends of START and DRAIN -/

/-- START can end: of a stack, none of its generators runs. -/
def startReady (s : State) : Func → Bool
  | .stack i => (List.range 32).all fun k => !rbit s (A.tgStatus i k) 0
  | _ => true

/-- FUNC_START_END: the work of START completes and the function enters ON (R439). -/
def execFuncStartEnd (f : Fin 354) (s : State) : Host.Outcome State Fault Refusal :=
  if fstate s f = fsStart ∧ startReady s (funcOf f) then .next (enterState f fsOn (startWork (funcOf f) s)) else .next s

/-- An enable that was pending takes effect as OFF is reached; a group of a pair that is not OPEN stays OFF, and CWY_REFUSED is raised
(R439; 04 R103; the event names no port, DESIGN CHOICE: log entry 74). -/
def enableAgain (f : Nat) (s : State) : State :=
  if pairShut s (funcOf f) then cwyRefuse 0xFF (cwyPair f) s else enterStart f s

/-- FUNC_DRAIN_END: the work of DRAIN completes: the function enters OFF, and START at once where ENABLE_PENDING is set (R439). -/
def execFuncDrainEnd (f : Fin 354) (s : State) : Host.Outcome State Fault Refusal :=
  if fstate s f = fsDrain ∧ drainReady s (funcOf f) then
    let again := funcPending s f
    let s := enterState f fsOff (setPending f false (drainWork (funcOf f) s))
    .next (if again then enableAgain f s else s)
  else .next s

/-- A Gulane port whose START ends without light goes back to OFF; the device will enable it again (R440). -/
def noLight (f : Nat) (s : State) : State := onMg (fun m => { m with gulDue := m.gulDue ++ [f] }) (enterState f fsOff s)

/-- The function is WEDGED (R440). -/
def wedge (f st : Nat) (s : State) : State :=
  raiseFault { code := 0x1106, cls := .devf, unit := funcUnit (funcOf f), detail := f + 2 ^ 16 * st }
    (setPending f false (setFstate f fsWedged s))

/-- LIMIT_OVERRUN: a START or a DRAIN overruns its limit. -/
def execLimitOverrun (f : Fin 354) (s : State) : Host.Outcome State Fault Refusal :=
  let st := fstate s f
  if st = fsStart ∨ st = fsDrain then
    match funcOf f with
    | .gul _ => .next (if st = fsStart then noLight f s else wedge f st s)
    | _ => .next (wedge f st s)
  else .next s

/-- GULANE_REENABLE: 1 s after a START without light the device enables the port again (R440). -/
def execGulaneReenable (n : GPort) (s : State) : Host.Outcome State Fault Refusal :=
  let f := fnGul n
  if s.mg.gulDue.contains f then
    let s := onMg (fun m => { m with gulDue := m.gulDue.filter (· != f) }) s
    .next (if fstate s f = fsOff then enterStart f s else s)
  else .next s

end Sys2Proof.Machine
end

