-- ==== Sys2Proof/Machine/Girder.lean ====
section
/-! DEFINITION. Microprograms on a girder: the command, and the words of its access and execute streams (11 R312-R316). Each row
of a word is the issue of the next word of its stream; a word whose queue is not ready leaves the machine as it is. -/

namespace Sys2Proof.Machine
open Sys2Proof

def getGird (s : State) (p g : Nat) : Girder := smGet Girder.reset (getPier s p).girders g

/-- Updates a girder of a pier. -/
def onGird (p g : Nat) (f : Girder → Girder) (s : State) : State :=
  onPier p (fun q => { q with girders := smPut Girder.reset q.girders g (f (smGet Girder.reset q.girders g)) }) s

/-! ### The command -/

/-- Slot of a microprogram's OP. -/
def progSlot (b : List Byte) : Nat := cmOp b - 0x40

/-- The command that girder g runs, where it is a microprogram without a status yet. -/
def progCmd (s : State) (p g : Nat) : Option RunCmd :=
  match (getEng s p g).running with
  | some r => if r.status.isNone && decide (0x40 ≤ cmOp r.bytes ∧ cmOp r.bytes ≤ 0x7F) then some r else none
  | none => none

/-- The streams of a microprogram hold an operation. -/
def progHas (ws : List Nat) (op : Nat) : Bool := ws.any fun w => (gWord w).op == op

/-- Faulty fields of a microprogram's command: its formats (07 R171, 13 R338), and the pair that its MAC words use (11 R314). -/
def progFaults (exe : List Nat) (b : List Byte) : List Nat :=
  let a := cmFa b
  let fb := cmFb b
  let fp32 := fun (f : Nat) => zrCode f == fcFp32
  let mac := progHas exe goMac
  numctlFault b 10 ++
  breaks (!fmtByteOk a || zrBit a || (mac && fp32 a)) 9 ++
  breaks (!fmtByteOk fb || zrBit fb || (mac && (fp32 fb || (fmtByteOk a && (pairOf (zrCode a) (zrCode fb)).isNone)))) 10 ++
  breaks (!fmtByteOk (cmFc b) || zrBit (cmFc b)) 11

/-- A stream before its first word. -/
def streamOf (ws : List Nat) : GStream := { words := ws, pc := 0, loops := [], ended := false }

/-- MICROPROGRAM: GEg begins the program of its OP's slot, of the version in force at the dequeue. -/
def execMicroprogram (p : PierNo) (g : GirdNo) (s : State) : Host.Outcome State Fault Refusal :=
  let p := p.val
  let g := g.val
  match progCmd s p g with
  | none => .next s
  | some r =>
    if (getGird s p g).cmd = some (r.ctx, r.seq) then .next s
    else match gdProgram (sectV s secGirderprog r.ver) (progSlot r.bytes) with
      | none => .next (malformed p g 0 r s)
      | some b =>
        match firstFault (cstatFault r.bytes ++ progFaults (gpExecute b) r.bytes) with
        | some o => .next (malformed p g o r s)
        | none => .next (tookFree (onGird p g (fun _ => { Girder.reset with
            cmd := some (r.ctx, r.seq), acc := streamOf (gpAccess b), exe := streamOf (gpExecute b), base := s.free }) s))

/-! ### Streams -/

/-- Stream of a girder: the execute stream, or the access stream. -/
def Girder.stream (q : Girder) (exe : Bool) : GStream := if exe then q.exe else q.acc

/-- Updates a stream. -/
def onStream (p g : Nat) (exe : Bool) (f : GStream → GStream) (s : State) : State :=
  onGird p g (fun q => if exe then { q with exe := f q.exe } else { q with acc := f q.acc }) s

/-- The command and the next word of a stream of a running microprogram, where the word's operation is op. -/
def nextWord (s : State) (p g : Nat) (exe : Bool) (op : Nat) : Option (RunCmd × GWord) :=
  match progCmd s p g with
  | none => none
  | some r =>
    let q := getGird s p g
    let t := q.stream exe
    let w := gAt t.words t.pc
    if q.cmd = some (r.ctx, r.seq) ∧ t.pc < t.words.length ∧ !t.ended ∧ w.op = op then some (r, w) else none

/-- The stream goes on to its next word. -/
def advanceStream (p g : Nat) (exe : Bool) (s : State) : State :=
  onStream p g exe (fun t =>
    let n := afterWord t.loops (t.pc + 1)
    { t with pc := n.1, loops := n.2 }) s

/-- The microprogram stops: its command has a status. -/
def stopProg (p g status : Nat) (s : State) : State := onGird p g (fun _ => Girder.reset) (finish p g status 0 s)

/-- A fault of a microprogram: its command completes with FAULTED. -/
def stopFault (p g : Nat) (r : RunCmd) (code detail : Nat) (s : State) : State :=
  stopProg p g csFaulted (byFault (r.by_ p g) code (2 ^ 32 * cmTag r.bytes + detail) s)

/-- A local address that the girder does not reach makes the command malformed (11 Table 11.1); no field is at fault, and the
offset in DETAIL is a free value. -/
def progBadAddr (p g : Nat) (r : RunCmd) (s : State) : State :=
  onGird p g (fun _ => Girder.reset) (malformed p g (freeBits 32 s) r (tookFree s))

/-- Queues (11 R316). -/
def gqA : Nat := 0
def gqB : Nat := 1
def gqC : Nat := 2

/-- A stream waits on a queue: the girder stops where the queue's other stream has reached END. -/
def queueWait (p g : Nat) (r : RunCmd) (queue : Nat) (ended : Bool) (s : State) : State :=
  if ended then stopFault p g r 0x0B05 queue s else s

/-! ### Registers and tiles -/

/-- A word of the free value that a girder's registers hold before they are written: n bits at bit o. -/
def gFree (q : Girder) (o n : Nat) : Nat := Config.freeValue q.base / 2 ^ o % 2 ^ n

def getX (q : Girder) (i : Nat) : Nat := (smGet none q.x i).getD (gFree q (24 * i) 24)
def setX (i v : Nat) (q : Girder) : Girder := { q with x := smPut none q.x i (some (v % 2 ^ 24)) }

/-- Sixteen free lanes, the k-th group of a girder. -/
def freeLanes (q : Girder) (k : Nat) : List Nat := (List.range 16).map fun l => gFree q (384 + 32 * (16 * k + l)) 32

def getV (q : Girder) (i : Nat) : List Nat := (smGet none q.v i).getD (freeLanes q i)
def setV (i : Nat) (v : List Nat) (q : Girder) : Girder := { q with v := smPut none q.v i (some v) }

def getTile (q : Girder) (k : Nat) : List Nat := (smGet none q.tiles k).getD (freeLanes q (32 + k))
def setTile (k : Nat) (v : List Nat) (q : Girder) : Girder := { q with tiles := smPut none q.tiles k (some v) }

/-- A write to a tile that lands in a cycle: of the writes under way, which no word may read before they have all landed (R313), the
one that lands last stands. -/
def writeTile (k cycle : Nat) (v : List Nat) (q : Girder) : Girder := if smGet 0 q.ready k < cycle then setTile k v q else q

/-- ARG n of a command: a word of its body. -/
def progArg (r : RunCmd) (n : Nat) : Nat := le r.bytes (0x10 + 4 * n) 4

/-! ### Words of the access stream -/

/-- SETX: X[FA] is IMM, or ARG[IMM]. -/
def execSetx (p : PierNo) (g : GirdNo) (s : State) : Host.Outcome State Fault Refusal :=
  let p := p.val
  let g := g.val
  match nextWord s p g false goSetx with
  | none => .next s
  | some (r, w) =>
    .next (advanceStream p g false (onGird p g (setX w.fa (if w.fd = 0 then w.imm else progArg r w.imm)) s))

/-- ADDX: X[FA] is X[FB] + IMM. -/
def execAddx (p : PierNo) (g : GirdNo) (s : State) : Host.Outcome State Fault Refusal :=
  let p := p.val
  let g := g.val
  match nextWord s p g false goAddx with
  | none => .next s
  | some (_, w) => .next (advanceStream p g false (onGird p g (fun q => setX w.fa (getX q w.fb + w.imm) q) s))

/-- X[FA] rises by IMM, and the access stream goes on. -/
def stepX (p g : Nat) (w : GWord) (s : State) : State :=
  advanceStream p g false (onGird p g (fun q => setX w.fa (getX q w.fa + w.imm) q) s)

/-- LDA or LDB: n bytes at X[FA] go to a queue, full at 32 entries. -/
def loadWord (p g op n queue : Nat) (len : Girder → Nat) (push : List Byte → Girder → Girder) (sram : Option (BitVec 24))
    (s : State) : State :=
  match nextWord s p g false op with
  | none => s
  | some (r, w) =>
    let q := getGird s p g
    let a := getX q w.fa
    if 32 ≤ len q then queueWait p g r queue q.exe.ended s
    else if !localOk g a n then progBadAddr p g r s
    else match sram with
      | some u => stopProg p g csFaulted (byFault (r.by_ p g) 0x120C u.toNat s)
      | none => stepX p g w (onGird p g (push (ctxLocRd s r.ctx p a n)) s)

/-- LDA. -/
def execLda (p : PierNo) (g : GirdNo) (sram : Option (BitVec 24)) (s : State) : Host.Outcome State Fault Refusal :=
  .next (loadWord p.val g.val goLda 64 gqA (fun q => q.qa.length) (fun b q => { q with qa := q.qa ++ [b] }) sram s)

/-- LDB. -/
def execLdb (p : PierNo) (g : GirdNo) (sram : Option (BitVec 24)) (s : State) : Host.Outcome State Fault Refusal :=
  .next (loadWord p.val g.val goLdb 320 gqB (fun q => q.qb.length) (fun b q => { q with qb := q.qb ++ [b] }) sram s)

/-- STC: the 16 values at the head of C stand at X[FA] in FMT_C. -/
def execStc (p : PierNo) (g : GirdNo) (s : State) : Host.Outcome State Fault Refusal :=
  let p := p.val
  let g := g.val
  match nextWord s p g false goStc with
  | none => .next s
  | some (r, w) =>
    let q := getGird s p g
    let b := r.bytes
    let a := getX q w.fa
    match q.qc with
    | [] => .next (queueWait p g r gqC q.exe.ended s)
    | v :: rest =>
      if !localOk g a (rowBytesC (cmFc b) 16) then .next (progBadAddr p g r s)
      else
        let c := convertRow (zrCode (cmFc b)) (cmNumctl b) (ctxJob s r.ctx) (progArg r 11) r.seed q.stored (v.map val32)
        let s := girderNans p g r c.2.2 (putRow r.ctx p a (cmFc b) c.1 c.2.1 s)
        .next (stepX p g w (onGird p g (fun q => { q with qc := rest, stored := q.stored + 16 }) s))

/-! ### Words of the execute stream -/

/-- Latency of the pair of a command (Table 11.8). -/
def pairLatency (b : List Byte) : Nat := if zrCode (cmFa b) = fcBf16 ∨ zrCode (cmFa b) = fcFp16 then 8 else 6

/-- DETAIL of a timing fault, below the tag: pc, rivet, tile and deficit. -/
def timingDetail (pc k deficit : Nat) : Nat := 2 ^ 16 * pc + 2 ^ 12 * (k / 8) + 2 ^ 8 * (k % 8) + deficit % 2 ^ 8

/-- The timing fault of a word at its issue: a tile read before its ready cycle, or two writes that land together (R313). -/
def timingFault (q : Girder) (b : List Byte) (w : GWord) (cycle : Nat) : Option (Nat × Nat) :=
  let t : TileTimes := { ready := q.ready, writes := q.writes }
  match earlyTile t w cycle, wawTile t w cycle (pairLatency b) with
  | some (k, d), _ => some (0x0B03, timingDetail q.exe.pc k d)
  | none, some k => some (0x0B04, timingDetail q.exe.pc k 0)
  | none, none => none

/-- The word has issued in a cycle: its writes are under way, and the next issues a cycle later at the earliest. -/
def wordIssued (b : List Byte) (w : GWord) (cycle : Nat) (q : Girder) : Girder :=
  let t := issueWord { ready := q.ready, writes := q.writes } w cycle (pairLatency b)
  { q with ready := t.ready, writes := t.writes, cycle := cycle + 1 }

/-- Issues the next word of the execute stream after stall cycles of waiting: f gives its effect from the girder at the issue. -/
def issueExe (p g op stall : Nat) (f : RunCmd → GWord → Girder → State → State) (s : State) : State :=
  match nextWord s p g true op with
  | none => s
  | some (r, w) =>
    let q := getGird s p g
    let cycle := q.cycle + stall
    match timingFault q r.bytes w cycle with
    | some (code, d) => stopFault p g r code d s
    | none => advanceStream p g true (onGird p g (wordIssued r.bytes w cycle) (f r w { q with cycle := cycle } s))

/-- Elements of a chunk in 4 bytes, with the scale byte of their block. -/
def chunkOf (c kc x : Nat) (b : List Byte) : List Val := (unpackElems c b kc).map fun v => scaledVal c v x

/-- Element (i, c) of a rivet's tile after a MAC: its pattern, and that it is a NaN which no input of it was. -/
def macElem (b : List Byte) (accum : Bool) (qa qb : List Byte) (rivet i c old : Nat) : Nat × Bool :=
  let fa := zrCode (cmFa b)
  let fb := zrCode (cmFb b)
  let (kc, int) := (pairOf fa fb).getD (1, false)
  let xs := chunkOf fa kc (le qa (16 + i) 1) (slice qa (4 * i) 4)
  let ys := chunkOf fb kc (le qb (256 + 4 * rivet + c) 1) (slice qb (16 * rivet + 4 * c) 4)
  let acc := if accum then some old else none
  let v := (addChunk int acc ((xs.zip ys).map fun y => mulVal y.1 y.2)).getD 0
  let nanIn := (xs ++ ys).any Val.isNan || (accum && isNan32 old)
  (v, !int && isNan32 v && !nanIn)

/-- A rivet's tile after a MAC. -/
def macTile (b : List Byte) (w : GWord) (qa qb : List Byte) (q : Girder) (rivet : Nat) : List (Nat × Bool) :=
  (getTile q (8 * rivet + w.fa)).zipIdx.map fun y => macElem b (bit w.imm 16) qa qb rivet (y.2 / 4) (y.2 % 4) y.1

/-- Raises n productions of INVALID of a word whose destination is no stored element: the index of the first is a free value. -/
def wordNans (p g : Nat) (r : RunCmd) (n : Nat) (s : State) : State :=
  if n = 0 then s
  else girderNans p g r (List.replicate n (cInvalid, freeBits 48 s) |>.map fun y => (y.2, y.1)) (tookFree s)

/-- Each rivet of the mask takes one chunk from the heads of A and B. -/
def macWord (p g : Nat) (r : RunCmd) (w : GWord) (q : Girder) (s : State) : State :=
  match q.qa, q.qb with
  | a :: ra, b :: rb =>
    let tiles := (rivetsOf w.imm).map fun v => (v, macTile r.bytes w a b q v)
    let lands := q.cycle + pairLatency r.bytes
    let put := fun (q : Girder) (y : Nat × List (Nat × Bool)) => writeTile (8 * y.1 + w.fa) lands (y.2.map Prod.fst) q
    let s := onGird p g (fun q => tiles.foldl put { q with qa := ra, qb := rb }) s
    wordNans p g r ((tiles.flatMap fun y => y.2).filter fun e => e.2).length s
  | _, _ => s

/-- MAC; bad is a rivet whose residue does not match (18 R459). -/
def execMac (p : PierNo) (g : GirdNo) (stall : Nat) (bad : Option (Fin 16)) (s : State) : Host.Outcome State Fault Refusal :=
  let p := p.val
  let g := g.val
  match nextWord s p g true goMac with
  | none => .next s
  | some (r, w) =>
    let q := getGird s p g
    if q.qa = [] then .next (queueWait p g r gqA q.acc.ended s)
    else if q.qb = [] then .next (queueWait p g r gqB q.acc.ended s)
    else match bad, timingFault q r.bytes w (q.cycle + stall) with
      | some v, none =>
        .next (if (rivetsOf w.imm).contains v.val then stopProg p g csFaulted (checkFault p g r (.residue v) s) else s)
      | _, _ => .next (issueExe p g goMac stall (macWord p g) s)

/-- RDACC: V[FB] is tile FA of rivet FC; an S32 tile reads as FP32 values. -/
def execRdacc (p : PierNo) (g : GirdNo) (stall : Nat) (s : State) : Host.Outcome State Fault Refusal :=
  .next (issueExe p.val g.val goRdacc stall (fun r w q s =>
    let int := ((pairOf (zrCode (cmFa r.bytes)) (zrCode (cmFb r.bytes))).getD (1, false)).2
    let t := getTile q (8 * w.fc + w.fa)
    onGird p.val g.val (setV w.fb (if int then t.map fun v => fp32Of (Val.ofInt (toInt 32 v)) else t)) s) s)

/-- The lanes of a VOP; the third operand of fma, which no field names, is z lane by lane. -/
def vopLanes (e : Nat) (x y z : List Nat) : List Elem := ((x.zip y).zip z).map fun v => eopElem e v.1.1 v.1.2 v.2

/-- VOP: V[FA] is EOP FD of V[FB] and V[FC]. -/
def execVop (p : PierNo) (g : GirdNo) (stall : Nat) (s : State) : Host.Outcome State Fault Refusal :=
  let p := p.val
  let g := g.val
  .next (issueExe p g goVop stall (fun r w q s =>
    let z := (List.range 16).map fun l => freeBits 512 s / 2 ^ (32 * l) % 2 ^ 32
    let es := vopLanes w.fd (getV q w.fb) (getV q w.fc) z
    let s := if w.fd = 3 then tookFree s else s
    wordNans p g r (es.filter fun e => isNan32 e.val && !e.nanIn).length
      (onGird p g (setV w.fa (es.map fun e => e.val)) s)) s)

/-- VPOPA: V[FA] is the head of A. -/
def execVpopa (p : PierNo) (g : GirdNo) (stall : Nat) (s : State) : Host.Outcome State Fault Refusal :=
  let p := p.val
  let g := g.val
  match nextWord s p g true goVpopa with
  | none => .next s
  | some (r, _) =>
    let q := getGird s p g
    match q.qa with
    | [] => .next (queueWait p g r gqA q.acc.ended s)
    | a :: rest =>
      .next (issueExe p g goVpopa stall (fun _ w _ s =>
        onGird p g (fun q => setV w.fa (unpackElems fcFp32 a 16) { q with qa := rest }) s) s)

/-- VPUSH: V[FA] goes to C, full at 32 entries. -/
def execVpush (p : PierNo) (g : GirdNo) (stall : Nat) (s : State) : Host.Outcome State Fault Refusal :=
  let p := p.val
  let g := g.val
  match nextWord s p g true goVpush with
  | none => .next s
  | some (r, _) =>
    let q := getGird s p g
    if 32 ≤ q.qc.length then .next (queueWait p g r gqC q.acc.ended s)
    else .next (issueExe p g goVpush stall (fun _ w q s => onGird p g (fun x => { x with qc := x.qc ++ [getV q w.fa] }) s) s)

/-- VSET: every lane of V[FA] is IMM. -/
def execVset (p : PierNo) (g : GirdNo) (stall : Nat) (s : State) : Host.Outcome State Fault Refusal :=
  .next (issueExe p.val g.val goVset stall (fun _ w _ s => onGird p.val g.val (setV w.fa (List.replicate 16 w.imm)) s) s)

/-- ZACC: tile FA of the rivets of the mask is 0. -/
def execZacc (p : PierNo) (g : GirdNo) (stall : Nat) (s : State) : Host.Outcome State Fault Refusal :=
  .next (issueExe p.val g.val goZacc stall (fun _ w q s =>
    onGird p.val g.val (fun x => (rivetsOf w.imm).foldl (fun (x : Girder) v =>
      writeTile (8 * v + w.fa) (q.cycle + 1) (List.replicate 16 0) x) x) s) s)

/-! ### LOOP and END -/

/-- Count of a LOOP word. -/
def loopTimes (r : RunCmd) (w : GWord) : Nat := if w.fd = 0 then w.imm % 2 ^ 16 else progArg r (w.imm % 2 ^ 4)

/-- LOOP: the stream enters the body, or passes over it. -/
def execLoop (p : PierNo) (g : GirdNo) (exe : Bool) (stall : Nat) (s : State) : Host.Outcome State Fault Refusal :=
  let p := p.val
  let g := g.val
  match nextWord s p g exe goLoop with
  | none => .next s
  | some (r, w) =>
    let s := onStream p g exe (fun t =>
      let n := enterLoop t.loops t.pc (w.fb + 1) (loopTimes r w)
      { t with pc := n.1, loops := n.2 }) s
    .next (if exe then onGird p g (fun q => { q with cycle := q.cycle + stall + 1 }) s else s)

/-- The queue, lowest first, that a stream pushes to and that is not empty. -/
def leftQueue (q : Girder) (exe : Bool) : Option Nat :=
  if exe then (if q.qc = [] then none else some gqC)
  else if q.qa ≠ [] then some gqA
  else if q.qb ≠ [] then some gqB
  else none

/-- UPROG_END: a stream reaches END; the command completes where both have, and every queue is empty. -/
def execUprogEnd (p : PierNo) (g : GirdNo) (exe : Bool) (s : State) : Host.Outcome State Fault Refusal :=
  let p := p.val
  let g := g.val
  match nextWord s p g exe goEnd with
  | none => .next s
  | some (r, _) =>
    match leftQueue (getGird s p g) exe with
    | some k => .next (stopFault p g r 0x0B05 k s)
    | none =>
      let s := onStream p g exe (fun t => { t with ended := true }) s
      let q := getGird s p g
      .next (if q.acc.ended && q.exe.ended && q.qa == [] && q.qb == [] && q.qc == [] then stopProg p g csOk s else s)

end Sys2Proof.Machine
end

