-- ==== Sys2Proof/Machine/Egress.lean ====
section
/-! DEFINITION. Egress and shaping (R157, R158), dropping on age (05 R128), sampling (06 R160) and
injection throttling (05 R132). -/

namespace Sys2Proof.Machine
open Sys2Proof

/-! ### Shaping (06 R158, R159) -/

/-- The shaping entry of a queue in a version of CLASSES. -/
def shapeEntry (s : State) (v q : Nat) : List Byte := slice (sectV s secClasses v) (0x40 + 16 * q) 16

def shCen (e : List Byte) : Bool := bit (le e 0 4) 31
def shCir (e : List Byte) : Nat := le e 0 4 % 2 ^ 24
def shCbs (e : List Byte) : Nat := le e 4 4 % 2 ^ 24
def shPen (e : List Byte) : Bool := bit (le e 8 4) 31
def shPir (e : List Byte) : Nat := le e 8 4 % 2 ^ 24
def shPbs (e : List Byte) : Nat := le e 12 4 % 2 ^ 24
def shOvh (e : List Byte) : Int := toInt 8 (le e 15 1)

/-- The head packet of an egress queue. -/
def queueHead (s : State) (q : Nat) : Option Held := s.fab.held.find? fun h => h.dst == q && h.stage == .queued

/-- The version that shapes a queue: the epoch of its head packet, or the one in force. -/
def headVersion (s : State) (q : Nat) : Nat :=
  match queueHead s q with
  | some h => pkEpoch h.bytes
  | none => curEpoch s

/-- Level of a bucket: b is 0 for the committed one, 1 for the peak one. -/
def bucketLevel (s : State) (q b : Nat) : Int := smGet 0 s.fab.bucket (2 * q + b)

/-- Sets a bucket's level. -/
def putBucket (q b : Nat) (l : Int) (s : State) : State := onFab (fun f => { f with bucket := smPut 0 f.bucket (2 * q + b) l }) s

/-- One core cycle of an enabled bucket. -/
def tickBucket (q b rate burst : Nat) (s : State) : State :=
  let l := bucketLevel s q b + rate
  let cap : Int := if (queueHead s q).isNone then 0 else 4096 * burst
  putBucket q b (if cap < l then cap else l) s

/-- One core cycle of the buckets of a queue. -/
def tickQueue (e : List Byte) (q : Nat) (s : State) : State :=
  let s := if shCen e then tickBucket q 0 (shCir e) (shCbs e) s else s
  if shPen e then tickBucket q 1 (shPir e) (shPbs e) s else s

/-- One core cycle of every queue, given the shaping entries of both versions from queue q on. -/
def tickQueues : Nat → Nat → List Byte → List Byte → State → State
  | 0, _, _, _, s => s
  | n + 1, q, la, lb, s =>
    tickQueues n (q + 1) (la.drop 16) (lb.drop 16) (tickQueue (slice (if headVersion s q = 0 then la else lb) 0 16) q s)

/-- One core cycle of the shaping buckets; without a CLASSES section none is enabled. -/
def tickBuckets (s : State) : State :=
  if sectV s secClasses 0 = [] ∧ sectV s secClasses 1 = [] then s
  else tickQueues 5120 0 ((sectV s secClasses 0).drop 0x40) ((sectV s secClasses 1).drop 0x40) s

/-- A packet of a queue starts: its counted length is charged to the enabled buckets. -/
def chargeBuckets (q : Nat) (e b : List Byte) (s : State) : State :=
  let n : Int := 40 + pkLen b + shOvh e
  let n : Int := if n < 0 then 0 else n
  let s := if shCen e then putBucket q 0 (bucketLevel s q 0 - 4096 * n) s else s
  if shPen e then putBucket q 1 (bucketLevel s q 1 - 4096 * n) s else s

/-! ### Egress (06 R157) -/

/-- Credit available on a channel of an external port (05 R114). -/
def available (s : State) (k c : Nat) : Nat :=
  (txBacked s k c + txLoose s k c + smGet 0 s.fab.peer (9 * k + c) + 2 ^ 16 - smGet 0 s.fab.used (9 * k + c)) % 2 ^ 16

/-- The channel has credit for the whole packet; FWD without EVICT leaves the LOOSE credit alone (05 R112, 06 R151). -/
def hasCredit (s : State) (k : Nat) (b : List Byte) : Bool :=
  let c := pkChan b
  let keep := if pkClass b = clFwd && !pkFlag b flEvict then txLoose s k c else 0
  pkCells b + keep ≤ available s k c

/-- No packet of the port is being sent. -/
def portFree (s : State) (k : Nat) : Bool := !s.fab.held.any fun h => heldOn k h && h.stage == .sending

/-- The class order of 06 Table 6.1. -/
def classOrder : List Nat := [clCtrl, clRsp, clCollDn, clCollUp, clReq, clFwd, clBulk, clMirror]

/-- What a queue's head would leave as. -/
def leaves (k : Nat) (h : Held) : List Byte := if k < 512 then leaving h.dl h.bytes else h.bytes

/-- The head of a class's queue of a port, where it is ready. -/
def readyHead (s : State) (k c : Nat) : Option Held :=
  match queueHead s (queueOf k c) with
  | some h =>
    let e := shapeEntry s (pkEpoch h.bytes) h.dst
    if (512 ≤ k || hasCredit s k (leaves k h)) && (!shPen e || 0 ≤ bucketLevel s h.dst 1) then some h else none
  | none => none

/-- The packet that the scheduler starts: committed queues first, then the others, in class order. -/
def pickStart (s : State) (k : Nat) : Option Held :=
  let rs := classOrder.filterMap (readyHead s k)
  match rs.find? fun h => shCen (shapeEntry s (pkEpoch h.bytes) h.dst) && 0 ≤ bucketLevel s h.dst 0 with
  | some h => some h
  | none => rs.head?

/-- EGRESS_START: the scheduler of a port starts a ready packet (06 R157, R158; 05 R112, R119). -/
def execEgressStart (k : Fin 528) (s : State) : Host.Outcome State Fault Refusal :=
  let k := k.val
  if (512 ≤ k || portUp s k) && portFree s k then
    match pickStart s k with
    | none => .next s
    | some h =>
      let b := leaves k h
      let s := chargeBuckets h.dst (shapeEntry s (pkEpoch h.bytes) h.dst) h.bytes s
      let s := onFab (fun f => { f with
        held := f.held.map (fun g => if g = h then { h with bytes := b, stage := .sending } else g)
        used := if k < 512 then
            let c := 9 * k + pkChan b
            smPut 0 f.used c ((smGet 0 f.used c + pkCells b) % 2 ^ 16)
          else f.used }) s
      .next (sideshow k 1 b s)
  else .next s

/-- EGRESS_PACKET_END: the last cell of the packet being sent leaves: on the lanes, or to the pier's RXE (06 R157, R149). -/
def execEgressPacketEnd (k : Fin 528) (s : State) : Host.Outcome State Fault Refusal :=
  let k := k.val
  match s.fab.held.find? fun h => heldOn k h && h.stage == .sending with
  | none => .next s
  | some h =>
    let s := onFab (removeHeld (· == h)) s
    if k < 512 then .next (sendLane k h.bytes s)
    else .next (onFab (fun f => { f with inbox := f.inbox ++ [{ at_ := h.pier, src := k, bytes := h.bytes }] }) s)

/-- Fields of the throttle block in force, and AGE_US of a version (05 Table 5.10). -/
def throttleT (s : State) (g k : Nat) : Nat := le (sect s secClasses) (4 * (4 * g + k)) 4
def throttleHyst (s : State) : Nat := le (sect s secClasses) 0x30 4
def ageUs (s : State) (v : Nat) : Nat := le (sectV s secClasses v) 0x36 2

/-- AGE_DROP: the MIRROR or BULK packet at the head of a port's queue has waited AGE_US, of the version that its
epoch names (02 R52), without credit (05 R128). -/
def execAgeDrop (k : SlotNo) (bulk : Bool) (s : State) : Host.Outcome State Fault Refusal :=
  match queueHead s (queueOf k (if bulk then clBulk else clMirror)) with
  | none => .next s
  | some h =>
    if 1000 * ageUs s (pkEpoch h.bytes) ≤ (ftNs s + 2 ^ 64 - h.waited) % 2 ^ 64 then
      .next (bump (A.swCnt 2) 1 (onFab (removeHeld (· == h)) s))
    else .next s

/-! ### Sampling (06 R160) -/

/-- ⌊log2 n⌋ for n ≥ 1. -/
def ilog2 (n : Nat) : Nat := n.log2

/-- Depth bin and delay bin. -/
def depthBin (d : Nat) : Nat := if d = 0 then 0 else min 15 (1 + ilog2 d)
def delayBin (a : Nat) : Nat := if a < 16 then 0 else min 15 (1 + ilog2 (a / 16))

/-- Nanoseconds that the head packet of a queue has been held in this module. -/
def headAge (s : State) (q : Nat) : Nat :=
  match queueHead s q with
  | some h => (ftNs s + 2 ^ 64 - h.since) % 2 ^ 64
  | none => 0

/-- Samples one egress queue. -/
def sampleQueue (q : Nat) (s : State) : State :=
  let s' := bump (A.shpHist (q / 64) (q % 64) 0 (depthBin (queueDepth s q))) 1 s
  if (queueHead s q).isSome then bump (A.shpHist (q / 64) (q % 64) 1 (delayBin (headAge s q))) 1 s' else s'

/-- The egress queues that exist: of every port of a group, and queues 0-7 of every span port. -/
def existingQueues (s : State) : List Nat :=
  (List.range 5120).filter fun q => if q < 4096 then slotExists s (slotOf q) else q % 64 < 8

/-- SAMPLE_TICK: every existing egress queue is sampled in one core cycle, unless INTERVAL is 0. -/
def execSampleTick (s : State) : Host.Outcome State Fault Refusal :=
  if rf s A.swSampleCfg 15 0 = 0 then .next s
  else .next ((existingQueues s).foldl (fun s q => sampleQueue q s) s)

/-! ### Throttling (05 R131, R132) -/

/-- The class of a throttle group: 0 REQ, 1 FWD, 2 BULK. -/
def groupClass (g : Nat) : Nat := [clReq, clFwd, clBulk].getD g 0

/-- Depth of the egress queues of a node and class on this module. -/
def nodeDepth (s : State) (n c : Nat) : Nat := ((List.range 8).map fun p => queueDepth s (64 * n + 8 * p + c)).sum

/-- Level after one evaluation. -/
def nextLevel (s : State) (g l d : Nat) : Nat :=
  let up := ([1, 2, 3, 4].filter fun k => throttleT s g (k - 1) ≤ d).foldl max 0
  if l < up then up
  else if l ≠ 0 ∧ d + throttleHyst s < throttleT s g (l - 1) then l - 1
  else l

/-- THROTTLE_WINDOW: every output and class re-evaluates its level. -/
def execThrottleWindow (s : State) : Host.Outcome State Fault Refusal :=
  if sect s secClasses = [] then .next s
  else .next ((List.range 240).foldl (fun s i =>
    onFab (fun f => { f with throttle := smPut 0 f.throttle i (nextLevel s (i % 3) (smGet 0 f.throttle i)
      (nodeDepth s (i / 3) (groupClass (i % 3)))) }) s) s)

end Sys2Proof.Machine
end

