-- ==== Sys2Proof/Machine/Time.lean ====
section
/-! DEFINITION. Fabric time (10 R277-R279): the core clock's tick, TIMESTAMP link packets, and IEEE 1588 time at the source. -/

namespace Sys2Proof.Machine
open Sys2Proof

/-! ### The clock -/

/-- Adds to fabric time, modulo 2^70 in 1/64 ns. -/
def shiftTime (d : Int) (s : State) : State := { s with ft := (((s.ft : Int) + d) % 2 ^ 70).toNat }

def onLock (f : FtLock → FtLock) (s : State) : State := onNet (fun m => { m with lock := f m.lock }) s

/-- What a slew adds in the first n of its core cycles. -/
def slewPart (l : FtLock) (n : Nat) : Int := if l.slewLen = 0 then 0 else l.slew * n / l.slewLen

/-- One core cycle of the slew under way. -/
def slewTick (s : State) : State :=
  let l := s.net.lock
  if l.slewLen ≤ l.slewAt then s
  else onLock (fun l => { l with slewAt := l.slewAt + 1 }) (shiftTime (slewPart l (l.slewAt + 1) - slewPart l l.slewAt) s)

/-- One core cycle of 5/9 ns: fabric time advances by 320/9 of 1/64 ns, and slews (16 R404, 10 R277). -/
def tickTime (s : State) : State :=
  let n := s.ftRem + 320
  slewTick (shiftTime (n / 9 : Nat) { s with ftRem := n % 9 })

/-! ### The lock -/

def ftGm (s : State) : Bool := rbit s A.dkFtCfg 31
def ftPtp (s : State) : Bool := rbit s A.dkFtCfg 30
def ftParent (s : State) : Nat := rf s A.dkFtCfg 25 16

/-! STATE of DK_FT_STATUS. -/

def ftFree : Nat := 0
def ftAcquire : Nat := 1
def ftLocked : Nat := 2

/-- STATE; a source with PTP_EN 0 reads LOCKED. -/
def ftState (s : State) : Nat := if ftGm s && !ftPtp s then ftLocked else rf s A.dkFtStatus 31 30

/-- Sets STATE; a change raises FT_STATE. -/
def setFt (st : Nat) (s : State) : State :=
  if rf s A.dkFtStatus 31 30 = st then s else raiseEvent { code := 0x0A06, detail := st } (wf A.dkFtStatus 31 30 st s)

/-- An offset as OFFSET shows it: s16, saturating. -/
def showOffset (o : Int) (s : State) : State := wf A.dkFtStatus 15 0 (ofInt 16 (max (-32768) (min 32767 o))) s

/-- Steps time by an offset: STATE becomes ACQUIRE. -/
def stepTime (o : Int) (s : State) : State :=
  setFt ftAcquire (onLock (fun l => { l with good := 0, slew := 0, slewLen := 0, slewAt := 0 }) (shiftTime o s))

/-- Counts an offset towards LOCKED: 16 in a row below 0.25 ns. -/
def countOffset (o : Int) (s : State) : State :=
  let n := if o.natAbs < 16 then s.net.lock.good + 1 else 0
  let s := onLock (fun l => { l with good := min n 16 }) s
  if 16 ≤ n then setFt ftLocked s else s

/-- Slews by an amount over a number of core cycles. -/
def startSlew (o : Int) (n : Nat) (s : State) : State := onLock (fun l => { l with slew := o, slewLen := n, slewAt := 0 }) s

/-- An offset measured with the parent: above 1 µs it is stepped, else an eighth of it is slewed over 16 µs (R278). -/
def useOffset (o : Int) (s : State) : State :=
  let s := showOffset o s
  if 64000 < o.natAbs then stepTime o s else countOffset o (startSlew (Int.tdiv o 8) 28800 s)

/-! ### TIMESTAMP link packets (Table 10.6) -/

/-- A TIMESTAMP packet. -/
def stampPacket (kind tseq tx echo rx : Nat) : List Byte :=
  mkLink ([0xF0, 0x02] ++ beBytes 1 kind ++ beBytes 1 tseq ++ beBytes 8 tx ++ beBytes 8 echo ++ beBytes 8 rx)

/-- Fabric time in 1/64 ns, modulo 2^64. -/
def stampNow (s : State) : Nat := s.ft % 2 ^ 64

/-- Receive time of a packet on a port: now, less the port's latency (R278, 04 R98). -/
def stampRx (s : State) (k : Nat) : Nat := (stampNow s + 2 ^ 64 - rf s (A.pgLat (k / 8) (k % 8)) 19 0) % 2 ^ 64

/-- A TIMESTAMP packet of a KIND received on a port. -/
def stampIn (s : State) (k kind : Nat) (bytes : List Byte) : Option (List Byte) :=
  if !portUp s k then none
  else match unframe s k bytes with
    | some b => if linkOk b ∧ be b 1 1 = 2 ∧ be b 2 1 = kind then some b else none
    | none => none

/-- TIMESTAMP_TIMER: 16 µs have passed: a module that is not the source sends a REQ to its parent; the fourth RSP missed in a row
ends LOCKED (R278). -/
def execTimestampTimer (s : State) : Host.Outcome State Fault Refusal :=
  if ftGm s then .next s
  else
    let l := s.net.lock
    let k := ftParent s
    let missed := if l.req.isSome then l.missed + 1 else l.missed
    let s := if missed = 4 ∧ rf s A.dkFtStatus 31 30 = ftLocked then setFt ftAcquire (onLock (fun l => { l with good := 0 }) s) else s
    let s := onLock (fun l => { l with tseq := (l.tseq + 1) % 256, req := some (stampNow s), missed := min missed 4 }) s
    .next (if k < 512 ∧ portUp s k then sendLane k (stampPacket 0 l.tseq (stampNow s) 0 0) s else s)

/-- TIMESTAMP_REQ: a REQ received on port k is answered with an RSP. -/
def execTimestampReq (k : SlotNo) (bytes : List Byte) (s : State) : Host.Outcome State Fault Refusal :=
  match stampIn s k 0 bytes with
  | none => .next s
  | some b => .next (sendLane k (stampPacket 1 (be b 3 1) (stampNow s) (be b 4 8) (stampRx s k)) s)

/-- TIMESTAMP_RSP: the RSP of the REQ that waits for it, on the parent's port, gives the offset. -/
def execTimestampRsp (k : SlotNo) (bytes : List Byte) (s : State) : Host.Outcome State Fault Refusal :=
  match stampIn s k 1 bytes with
  | none => .next s
  | some b =>
    let l := s.net.lock
    if ftGm s ∨ ftParent s ≠ k ∨ l.req ≠ some (be b 0x0C 8) ∨ (be b 3 1 + 1) % 256 ≠ l.tseq then .next s
    else
      let t := (be b 0x14 8 : Int) - be b 0x0C 8 - (stampRx s k - be b 4 8)
      .next (useOffset (Int.tdiv (toInt 64 (ofInt 64 t)) 2) (onLock (fun l => { l with req := none, missed := 0 }) s))

/-! ### IEEE 1588 at the source (R279; the layout of messages is PRESUMED: log entry 43) -/

def onPtp (f : Ptp → Ptp) (s : State) : State := onNet (fun m => { m with ptp := f m.ptp }) s

/-! Fields of a message. -/

def ptpType (b : List Byte) : Nat := be b 0 1 % 16
def ptpDomain (b : List Byte) : Nat := be b 4 1
def ptpTwoStep (b : List Byte) : Bool := bit (be b 6 1) 1
def ptpCorr (b : List Byte) : Int := toInt 64 (be b 8 8) / 1024
def ptpSource (b : List Byte) : List Byte := slice b 20 10
def ptpSeq (b : List Byte) : Nat := be b 30 2
def ptpStamp (b : List Byte) : Nat := 64 * (10 ^ 9 * be b 34 6 + be b 40 4)

/-- The module's port identity on a Gulane port: its clock identity from the port's address, and port number 1. -/
def ptpSelf (s : State) (p : GPort) : List Byte :=
  let m := s.fuses.portAddr (512 + p)
  slice m 0 3 ++ beBytes 2 0xFFFE ++ slice m 3 3 ++ beBytes 2 1

/-- The frame of a Delay_Req. -/
def delayReq (s : State) (p : GPort) (n : Nat) : List Byte :=
  let m := beBytes 6 0x011B19000000 ++ slice (s.fuses.portAddr (512 + p)) 0 6 ++ beBytes 2 0x88F7 ++
    ([0x01, 0x02] ++ beBytes 2 44 ++ beBytes 1 (rf s A.dkFtCfg 15 8) ++ List.replicate 15 0 ++ ptpSelf s p ++ beBytes 2 n ++ [0x01, 0x7F] ++
      beBytes 10 0)
  let m := m ++ List.replicate (60 - m.length) 0
  m ++ ethFcs m

/-- Send and receive time of a Sync are known: a Delay_Req is sent for the way back. -/
def syncKnown (p : GPort) (src : List Byte) (t1 : Int) (t2 : Nat) (s : State) : State :=
  let n := s.net.ptp.seq
  emit (.ptp p (delayReq s p n))
    (onPtp (fun q => { q with sync := none, times := some (src, t1, t2), req := some (n, s.ft), seq := (n + 1) % 2 ^ 16 }) s)

/-- The offset to the master's time, in 1/64 ns: time steps by it while STATE is not LOCKED, and otherwise slews at most 10 ppm. -/
def coarseTime (o : Int) (s : State) : State :=
  let s := showOffset o s
  countOffset o (if rf s A.dkFtStatus 31 30 = ftLocked then startSlew o (2813 * o.natAbs) s else setFt ftAcquire (shiftTime o s))

/-- A Delay_Resp at the fourth of the times t1 to t4: half of what the two ways differ by is the offset, as a residue modulo 2^70. -/
def delayOffset (t1 : Int) (t2 t3 : Nat) (t4 : Int) : Int := Int.tdiv (toInt 70 (ofInt 70 (t1 - t2 + (t4 - t3)))) 2

/-- A message of the domain at the clock: Sync in one or two steps, Follow_Up, and Delay_Resp to its Delay_Req. -/
def ptpMeet (p : GPort) (b : List Byte) (s : State) : State :=
  let q := s.net.ptp
  if ptpType b = 0 then
    if ptpTwoStep b then onPtp (fun q => { q with sync := some (ptpSource b, ptpSeq b, s.ft, ptpCorr b) }) s
    else syncKnown p (ptpSource b) (ptpStamp b + ptpCorr b) s.ft s
  else if ptpType b = 8 then
    match q.sync with
    | some (src, n, t2, c) =>
      if src = ptpSource b ∧ n = ptpSeq b then syncKnown p src (ptpStamp b + c + ptpCorr b) t2 s else s
    | none => s
  else if ptpType b = 9 then
    match q.req, q.times with
    | some (n, t3), some (src, t1, t2) =>
      if src = ptpSource b ∧ n = ptpSeq b ∧ slice b 44 10 = ptpSelf s p then
        coarseTime (delayOffset t1 t2 t3 (ptpStamp b - ptpCorr b)) (onPtp (fun q => { q with req := none }) s)
      else s
    | _, _ => s
  else s

/-- A message of 1588 version 2 received on Gulane port p: a source with PTP_EN, and that port and domain, takes it (R279). -/
def ptpTake (p : GPort) (b : List Byte) (s : State) : State :=
  if !ftGm s || !ftPtp s || !isOn s (fnGul p) || rf s A.dkFtCfg 29 29 != p.val || rf s A.dkFtCfg 15 8 != ptpDomain b ||
      be b 1 1 % 16 != 2 || decide (b.length < if ptpType b = 9 then 54 else 44) then s
  else ptpMeet p b s

/-- PTP_MESSAGE: Gulane port p receives an IEEE 1588 message. -/
def execPtpMessage (p : GPort) (bytes : List Byte) (s : State) : Host.Outcome State Fault Refusal := .next (ptpTake p bytes s)

end Sys2Proof.Machine
end

