-- ==== Sys2Proof/Machine/RegRead.lean ====
section
/-! DEFINITION. Reads of registers (00 Table 0.7): stored fields, fields that show the state of a unit, RC fields (00 R11) and latched
upper words (10 R288). -/

namespace Sys2Proof.Machine
open Sys2Proof

/-! ### Fields that show the state of a unit -/

/-- PIER_STATUS (11 Table 11.12). -/
def pierStatusWord (s : State) (p : Nat) : Nat :=
  let q := getPier s p
  2 ^ 31 * b2n q.task.isSome + 2 ^ 30 * b2n q.switching + 2 ^ 16 * q.resident.getD 0 + 2 ^ 15 * b2n q.resident.isSome +
    fstate s (fnPier p)

/-- The head of engine e waits on a flag: its logical number. -/
def waitFlag (s : State) (p e : Nat) : Option Nat :=
  match (getPier s p).resident, headOf s p e with
  | some x, some h => (waitsOn s p x e).map fun _ => cmWaitf h.bytes
  | _, _ => none

/-- PIER_QSTAT (11 Table 11.13). -/
def pierQstatWord (s : State) (p e : Nat) : Nat :=
  let g := getEng s p e
  let f := waitFlag s p e
  2 ^ 31 * b2n g.running.isSome + 2 ^ 30 * b2n f.isSome + 2 ^ 16 * f.getD 0 + g.queue.length

/-- WAITERS of PIER_FLAG (12 Table 12.6). -/
def waitersOn (s : State) (p k : Nat) : Nat :=
  match (getPier s p).resident with
  | some x => ((List.range 8).map fun e => b2n (waitsOn s p x e == some k) * 2 ^ e).sum
  | none => 0

/-- A request in progress waits for its context to be resident (14 R363). -/
def waitsRes (s : State) (r : SvcReq) : Bool :=
  usesGroup (rqOp r.bytes) && r.status.isNone &&
    ((groupWith s r.ctx (rqSpan r.bytes)).isNone ||
      (isOptOp (rqOp r.bytes) && (shSpans r.desc).any fun i => (groupWith s r.ctx i).isNone))

/-- STORES of CTX_SVC_STATUS. -/
def storesMask (s : State) (x : Nat) : Nat :=
  ((List.range 4).map fun k => b2n (s.svc.stores.any fun u => u.ctx == x && u.store == k) * 2 ^ k).sum

/-- CTX_SVC_STATUS (14 Table 14.16). -/
def svcStatusWord (s : State) (x : Nat) : Nat :=
  2 ^ 31 * b2n (rbit s (A.ctxSvcStatus x) 31) + 2 ^ 30 * b2n ((inProgress s x).any (waitsRes s)) + 2 ^ 16 * storesMask s x +
    (inProgress s x).length

/-- RT_EPOCH_STATUS (05 Table 5.15). -/
def epochStatusWord (s : State) : Nat := 2 ^ 12 * min 0xFFFFF (oldInflight s) + rf s A.rtEpochStatus 1 0

/-- SW_BUF (06 Table 6.11). -/
def swBufWord (s : State) (i : Nat) : Nat :=
  if i = 0 then sharedFree s
  else if i = 1 then ((s.fab.held.filter fun h => pushRank h.bytes < 2).map Held.shared).sum
  else reservedCells s - (s.fab.held.map Held.ded).sum

/-- A bucket's level in whole bytes, rounded toward minus infinity (06 Table 6.16). -/
def levelWord (s : State) (q b : Nat) : Nat := ofInt 32 (bucketLevel s q b / 4096)

/-- Word i of SHP_Q of queue q (06 Table 6.16). -/
def shpWord (s : State) (q i : Nat) : Nat :=
  if i = 0 then queueDepth s q
  else if i = 1 then levelWord s q 0
  else if i = 2 then levelWord s q 1
  else if i = 3 then headAge s q
  else 0

/-- RSE_STRM_STATUS (09 Table 9.14). -/
def strmStatusWord (s : State) (n : Nat) : Nat :=
  let l := s.net.strm.filter fun o => o.node == n
  2 ^ 8 * min 0xFFFFFF ((l.map fun o => o.s0.recs.length + o.s1.recs.length).sum) + l.length

/-- What a read of word i of the register d shows, before WO fields read 0. -/
def regView (s : State) (d : RegDesc) (ix : List Nat) (a : Nat) : Nat :=
  let i := ix.getD 0 0
  let j := ix.getD 1 0
  let k := ix.getD 2 0
  let q := 16 * i + j
  match d.name with
  | .ksStatus => ksStatusWord s
  | .dkFtStatus => 2 ^ 30 * ftState s + rf s a 29 0
  | .dkFtTime => if i = 0 then ftNs s % 2 ^ 32 else smGet 0 s.mg.lat a
  | .dkStep => if i = 0 then s.step % 2 ^ 32 else smGet 0 s.mg.lat a
  | .memEccLast => if j = 0 then rn s a else smGet 0 s.mg.lat a
  | .sntPending => (pendingRetires s).length
  | .ctxSvcStatus => svcStatusWord s i
  | .rtEpochStatus => epochStatusWord s
  | .swAcct => acctHeld s i j
  | .swBuf => swBufWord s i
  | .shpQ => shpWord s (64 * i + j) k
  | .rseStrmStatus => strmStatusWord s i
  | .memStatus => fstate s (fnStack i) + rf s a 31 3 * 2 ^ 3
  | .pierStatus => pierStatusWord s q
  | .pierQstat => pierQstatWord s q k
  | .pierFlag => 2 ^ 8 * waitersOn s q k + rf s a 7 0
  | .cwyStatus => b2n s.pwr.cwyDrive * 2 ^ 2 + rf s a 4 3 * 2 ^ 3 + rf s a 1 0
  | _ => rn s a

/-! ### What a read does -/

/-- The fields of a word that have, or have not, an access code. -/
def fieldSum (d : RegDesc) (keep : Acc → Bool) (w : Word) : Word :=
  BitVec.ofNat 32 (((d.fields.filter fun f => keep f.acc).map fun f => fget w f.hi f.lo * 2 ^ f.lo).sum)

/-- The register has a field with an access code. -/
def hasAcc (d : RegDesc) (c : Acc) : Bool := d.fields.any fun f => f.acc == c

/-- A read clears RC fields (00 Table 0.7, R11). -/
def clearRc (d : RegDesc) (a : Nat) (s : State) : State := if hasAcc d .rc then wr a (fieldSum d (· != .rc) (rd s a)) s else s

/-- Latches an upper word. -/
def latch (a v : Nat) (s : State) : State := onMg (fun m => { m with lat := smPut 0 m.lat a v }) s

/-- A read of a low word latches the upper words (10 R288; 15 Table 15.8). -/
def latchUpper (d : RegDesc) (ix : List Nat) (a : Nat) (s : State) : State :=
  match d.name with
  | .dkFtTime => if ix.getD 0 0 = 0 then latch (a + 8) (s.ft % 64) (latch (a + 4) (ftNs s / 2 ^ 32) s) else s
  | .dkStep => if ix.getD 0 0 = 0 then latch (a + 4) (s.step / 2 ^ 32 % 2 ^ 32) s else s
  | .memEccLast => if ix.getD 1 0 = 0 then latch (a + 4) (rn s (a + 4)) s else s
  | _ => s

/-- A read of the word at a configuration address by port p, where it does not wait: the state after it, the word and the
status (03 Table 3.4). -/
def readReg (p : GPort) (a : Nat) (s : State) : State × Word × Nat :=
  match regAt s a with
  | none => (s, 0, stBadAddr)
  | some (d, ix) =>
    if d.name = .ksAcquire then
      let r := acquired p s
      (r.1, r.2, stOk)
    else (clearRc d a (latchUpper d ix a s), fieldSum d (· != .wo) (BitVec.ofNat 32 (regView s d ix a)), stOk)

/-- The access that a register read is: its effect, and what it returned to the port. -/
def rdAccess (p : GPort) (a : Nat) (s : State) : State :=
  let r := readReg p a s
  emit (.access p a r.2.1 r.2.2) r.1

/-- The register at an address, where a condition on it holds. -/
def regIf (c : RegDesc → List Nat → Bool) (a : Nat) (s : State) : Bool :=
  match regAt s a with
  | some (d, ix) => c d ix
  | none => false

/-- RC_READ: a register with an RC field is read by one port, or by both in the order of the alternation rule (00 R11). -/
def execRcRead (r : Ready) (a : BitVec 32) (s : State) : Host.Outcome State Fault Refusal :=
  let a := a.toNat
  if !regIf (fun d _ => hasAcc d .rc) a s then .next s
  else match r with
  | .one p => .next (byPort p (.read a) (rdAccess p a) s)
  | .both =>
    if portReady s 0 && portReady s 1 then .next (contend 0 a a (rdAccess 0 a) (rdAccess 1 a) s)
    else .next (byPort 1 (.read a) (rdAccess 1 a) (byPort 0 (.read a) (rdAccess 0 a) s))

/-- The word is a low word whose read latches upper words. -/
def latches (d : RegDesc) (ix : List Nat) : Bool :=
  match d.name with
  | .dkFtTime => ix.getD 0 0 == 0
  | .dkStep => ix.getD 0 0 == 0
  | .memEccLast => ix.getD 1 0 == 0
  | _ => false

/-- LATCHED_READ: port p reads a low word whose read latches the upper words (10 R288). -/
def execLatchedRead (p : GPort) (a : BitVec 32) (s : State) : Host.Outcome State Fault Refusal :=
  .next (if regIf latches a.toNat s then byPort p (.read a.toNat) (rdAccess p a.toNat) s else s)

end Sys2Proof.Machine
end

