-- ==== Sys2Proof/Machine/RegWrite.lean ====
section
/-! DEFINITION. Writes of registers: each field under its access code (00 Table 0.7, R484), and the registers whose tables lay
down more (DEDUCED: log entry 53). -/

namespace Sys2Proof.Machine
open Sys2Proof

/-! ### Access codes -/

/-- What a field holds after a write of a word; held is that the writer holds the Keystone (00 Table 0.7). -/
def fieldAfter (held : Bool) (old w : Word) (f : RegField) : Nat :=
  let o := fget old f.hi f.lo
  let v := fget w f.hi f.lo
  match f.acc with
  | .rw => v
  | .kl => if held then v else o
  | .w1c => o - (o &&& v)
  | .w1s => o ||| v
  | .ro => o
  | .wo => o
  | .rc => o

/-- The word of a register after a write. -/
def wordAfter (held : Bool) (d : RegDesc) (old w : Word) : Word :=
  BitVec.ofNat 32 ((d.fields.map fun f => fieldAfter held old w f * 2 ^ f.lo).sum)

/-- A write to a register without behaviour of its own (00 R484). -/
def writeFields (p : GPort) (d : RegDesc) (a : Nat) (w : Word) (s : State) : State × Nat :=
  let held := holds s p (dieOf a)
  let t := wr a (wordAfter held d (rd s a) w) s
  if hasAcc d .kl && !held then (klDenied p a t, stIgnored) else (t, stOk)

/-- A write that only the holder of the Keystone may make. -/
def klWrite (p : GPort) (a : Nat) (f : State → State × Nat) (s : State) : State × Nat :=
  if holds s p (dieOf a) then f s else (klDenied p a s, stIgnored)

/-- A write of a whole word, which is ignored where a condition does not hold. -/
def putIf (ok : Bool) (a : Nat) (w : Word) (s : State) : State × Nat :=
  if ok then (wr a (fieldsOnly a w) s, stOk) else (s, stIgnored)

/-- A write that is refused with RT_REFUSED where a condition does not hold (05 R133). -/
def orRefused (p : GPort) (ok : Bool) (a : Nat) (f : State → State × Nat) (s : State) : State × Nat :=
  if ok then f s else (rtRefused p a s, stIgnored)

/-- A write of word i of a pair at a whose value changes at the write of the upper word (00 R485); ok is what the value must
meet. -/
def pairWrite (ok : Nat → Bool) (a i : Nat) (w : Word) (s : State) : State × Nat :=
  if i = 0 then (putLow a w s, stOk)
  else if ok (pairValue s a w) then (wn64 a (pairValue s a w) s, stOk)
  else (s, stIgnored)

/-- The low bits of a number are 0. -/
def aligned (n v : Nat) : Bool := v % n == 0

/-! ### Registers of DK -/

/-- DK_FT_CFG (10 Table 10.10): a module that becomes the time source without PTP is LOCKED, and one that ceases to be is FREE. -/
def writeFtCfg (w : Word) (s : State) : State × Nat :=
  if 511 < fget w 25 16 then (s, stIgnored)
  else
    let was := ftGm s && !ftPtp s
    let t := wr A.dkFtCfg (fieldsOnly A.dkFtCfg w) s
    let now := ftGm t && !ftPtp t
    (if was == now then t else setFt (if now then ftLocked else ftFree) t, stOk)

/-! ### Registers of CTX -/

/-- CTX_NAN_CTRL (07 Table 7.12): EN and HALT take the value, and CLEAR acts. -/
def writeNanCtrl (x : Nat) (w : Word) (s : State) : State × Nat :=
  let t := wn (A.ctxNanCtrl x) (fget w 1 0) s
  (if fget w 2 2 = 1 then nanClear x t else t, stOk)

/-- CTX_ACT_CFG (13 Table 13.7): WEXP is 4-20; EN from 0 to 1 clears the window counts. -/
def writeActCfg (x : Nat) (w : Word) (s : State) : State × Nat :=
  let a := A.ctxActCfg x
  if fget w 28 24 < 4 ∨ 20 < fget w 28 24 then (s, stIgnored)
  else
    let rises := !rbit s a 31 && fget w 31 31 == 1
    let t := wr a (fieldsOnly a w) s
    (if rises then (List.range 3).foldl (fun s i => wn (A.ctxActWin x i) 0 s) t else t, stOk)

/-- A ring of a context is in use: ENABLE is 1, or the producer count differs from CONS (11 Table 11.17, 14 Table 14.15). -/
def ringBusy (s : State) (cfg cons x q : Nat) : Bool := rbit s cfg 31 || rn s (A.ctxDb x q) != rn s cons

/-- The configuration word of a ring: ENABLE acts; a SIZE that differs is ignored while the ring is in use, and outside 6-16. -/
def writeRingCfg (busy : Bool) (a : Nat) (w : Word) (s : State) : State × Nat :=
  let size := fget w 4 0
  let t := wf a 31 31 (fget w 31 31) s
  if size = rf s a 4 0 then (t, stOk)
  else if busy ∨ size < 6 ∨ 16 < size then (t, stIgnored)
  else (wf a 4 0 size t, stOk)

/-- A context is resident somewhere, or saved on a pier. -/
def residentOrSaved (s : State) (x : Nat) : Bool :=
  (List.range 32).any (fun i => groupCtx s (i / 4) (i % 4) == some x) ||
    (List.range 128).any fun p => (getPier s p).resident == some x || hasSave s x p

/-- CTX_SVC_CTL (14 Table 14.16). -/
def writeSvcCtl (x : Nat) (w : Word) (s : State) : State × Nat :=
  putIf (fget w 0 0 == 1 || (inProgress s x == [] && storesMask s x == 0)) (A.ctxSvcCtl x) w s

/-! ### Registers of RT and SW -/

/-- RT_SWITCH_ID may change: every port group and span is OFF (05 Table 5.14). -/
def groupsOff (s : State) : Bool := (List.range 72).all fun f => !fnPresent s f || fstate s f == fsOff

/-- RT_SWITCH_ID. -/
def writeSwitchId (p : GPort) (w : Word) (s : State) : State × Nat :=
  let v := fieldsOnly A.rtSwitchId w
  orRefused p (v == rd s A.rtSwitchId || groupsOff s) A.rtSwitchId (putIf true A.rtSwitchId w) s

/-- The fields of RT_CFG are in their ranges. -/
def rtCfgOk (w : Word) : Bool :=
  decide (1 ≤ fget w 29 24) && decide (1 ≤ fget w 23 16) && decide (1 ≤ fget w 15 12) && decide (4 ≤ fget w 11 0)

/-- No context that is ON uses a rank table. -/
def tableFree (s : State) (t : Nat) : Bool := !(List.range 64).any fun x => isOn s (fnCtx x) && liveWord s x 0x1004 / 2 ^ 16 == t

/-- No context is ON. -/
def ctxsOff (s : State) : Bool := !(List.range 64).any fun x => isOn s (fnCtx x)

/-- EN of a Sideshow session (06 Table 6.14): written 1, the session counts anew. -/
def writeSsEn (j : Nat) (w : Word) (s : State) : State × Nat :=
  let a := A.swSsEn j
  if fget w 0 0 = 0 then putIf true a w s
  else if rf s (A.swSsEvery j) 23 0 = 0 then (s, stIgnored)
  else
    (onFab (fun f => { f with ssMatch := smPut 0 f.ssMatch j 0, ssCopy := smPut 0 f.ssCopy j 0 }) (wr a (fieldsOnly a w) s), stOk)

/-- TRUNC of a session: a multiple of 16 from 16 to 16,368, or 0. -/
def truncOk (w : Word) : Bool := decide (w.toNat ≤ 16368) && aligned 16 w.toNat

/-! ### Registers of a pier and of DBG -/

/-- PIER_TR_CFG (12 Table 12.6): EN acts; a WEXP outside 10-30 is ignored. -/
def writeTrCfg (q : Nat) (w : Word) (s : State) : State × Nat :=
  let a := A.pierTrCfg q
  let t := wf a 31 31 (fget w 31 31) s
  if 10 ≤ fget w 4 0 ∧ fget w 4 0 ≤ 30 then (wf a 4 0 (fget w 4 0) t, stOk) else (t, stIgnored)

/-- PIER_BRK_CFG (12 Table 12.7): EN_COUNT from 0 to 1 sets PIER_BRK_DEQ to 0. -/
def writeBrkCfg (q : Nat) (w : Word) (s : State) : State × Nat :=
  let a := A.pierBrkCfg q
  let t := wr a (fieldsOnly a w) s
  (if !rbit s a 30 && fget w 30 30 == 1 then wn (A.pierBrkDeq q) 0 t else t, stOk)

/-! ### Every register -/

/-- A write of a word of the register d at an address by port p. -/
def writeNamed (p : GPort) (d : RegDesc) (ix : List Nat) (a : Nat) (w : Word) (s : State) : State × Nat :=
  let i := ix.getD 0 0
  let j := ix.getD 1 0
  let k := ix.getD 2 0
  let q := 16 * i + j
  match d.name with
  | .ctxDb => (s, stBadOp)
  | .ctxDbHi => (s, stBadOp)
  | .ksCtrl => writeKsCtrl p w s
  | .ctxShadow => writeShadow p a w s
  | .ksProtCtrl => writeProtCtrl p w s
  | .sntRetire => writeRetire p w s
  | .pwrCtrl => writePwrCtrl p w s
  | .memCtrl => writeMemCtrl p i w s
  | .tgCtl => writeTgCtl p i j w s
  | .dkImgCtrl => writeImgCtrl p w s
  | .rtEpochCtrl => writeEpochCtrl p w s
  | .dkSpareCtrl => writeSpareCtrl p w s
  | .cwyCtrl => writeCwy p i w s
  | .bpmMetaBase => writeMetaBase p i w s
  | .bpmCtrl => writeBpmCtrl p w s
  | .rsePload => writePload p w s
  | .spnGroup => writeSpnGroup p i j w s
  | .pierFlag => writePierFlag p q k w s
  | .pierBrkCtrl => writeBrkCtrl p q w s
  | .trcEn => writeTrcEn p i w s
  | .dkBootCtrl => writeBootCtrl p w s
  | .dkFuncCtrl => writeFuncCtrl p w s
  | .dkAttCtrl => writeAttCtrl p i w s
  | .dkFltCtrl => (s, stIgnored)
  | .dkAttNonce => putIf (p.val == i) a w s
  | .dkImgLen => klWrite p a (putIf (!loading s) a w) s
  | .dkImgMinSerial => klWrite p a (pairWrite (rn64 s (A.dkImgMinSerial 0) ≤ ·) (A.dkImgMinSerial 0) i w) s
  | .dkFtCfg => klWrite p a (writeFtCfg w) s
  | .dkSpareCfg => klWrite p a (putIf (spareState s != spLoading && fget w 31 24 != 0) a w) s
  | .dkSpareJob => klWrite p a (putIf (spareState s != spLoading) a w) s
  | .ksLease => klWrite p a (putIf (decide (1 ≤ fget w 13 0) && decide (fget w 13 0 ≤ 10000)) a w) s
  | .ctxNanCtrl => writeNanCtrl i w s
  | .ctxFltCtrl => (if fget w 0 0 = 1 then resumeCtx i s else s, stOk)
  | .ctxActCfg => writeActCfg i w s
  | .ctxSaveBase =>
    klWrite p a (fun s => if residentOrSaved s i then (s, stIgnored)
      else pairWrite (fun v => bits v 19 1 == 0) (A.ctxSaveBase i 0) j w s) s
  | .ctxWqBase =>
    klWrite p a (fun s => if ringBusy s (A.ctxWqCfg i j) (A.ctxWqCons i j) i j then (s, stIgnored)
      else pairWrite (aligned 4096) (A.ctxWqBase i j 0) k w s) s
  | .ctxWqCfg => klWrite p a (writeRingCfg (ringBusy s a (A.ctxWqCons i j) i j) a w) s
  | .ctxSvcBase =>
    klWrite p a (fun s => if ringBusy s (A.ctxSvcCfg i j) (A.ctxSvcCons i j) i (8 + j) then (s, stIgnored)
      else pairWrite (aligned 4096) (A.ctxSvcBase i j 0) k w s) s
  | .ctxSvcCfg => klWrite p a (writeRingCfg (ringBusy s a (A.ctxSvcCons i j) i (8 + j)) a w) s
  | .ctxSvcCtl => klWrite p a (writeSvcCtl i w) s
  | .rtSwitchId => klWrite p a (writeSwitchId p w) s
  | .rtCfg => klWrite p a (putIf (rtCfgOk w) a w) s
  | .rtSrBase => klWrite p a (orRefused p (ctxsOff s) a (pairWrite (aligned (2 ^ 28)) (A.rtSrBase 0) i w)) s
  | .rtRankBase => klWrite p a (orRefused p (!versionLive s j) a (putIf (k != 0 || aligned 4 w.toNat) a w)) s
  | .rtRankCount => klWrite p a (orRefused p (!versionLive s j) a (putIf (decide (w.toNat ≤ 2 ^ 24)) a w)) s
  | .rtRankJob => klWrite p a (orRefused p (tableFree s i) a (putIf true a w)) s
  | .rtTreeBase => klWrite p a (orRefused p (!versionLive s i) a (pairWrite (aligned 4096) (A.rtTreeBase i 0) j w)) s
  | .rtRouteLo => klWrite p a (orRefused p (!versionLive s i) a (putIf true a w)) s
  | .rtRouteHi => klWrite p a (orRefused p (!versionLive s i) a (putIf true a w)) s
  | .swSsEn => klWrite p a (writeSsEn i w) s
  | .swSsDst => klWrite p a (putIf (decide (fget w 9 0 < 512)) a w) s
  | .swSsTrunc => klWrite p a (putIf (truncOk w) a w) s
  | .swSsEvery => klWrite p a (putIf (fget w 23 0 != 0) a w) s
  | .trcBase => klWrite p a (putIf (!rbit s (A.trcEn i) 0 && (j != 0 || aligned 4096 w.toNat)) a w) s
  | .pierTrCfg => klWrite p a (writeTrCfg q w) s
  | .pierBrkCfg => klWrite p a (writeBrkCfg q w) s
  | _ => writeFields p d a w s

/-- A write of the word at a configuration address by port p: the state after it and the status (03 Table 3.4). -/
def writeReg (p : GPort) (a : Nat) (w : Word) (s : State) : State × Nat :=
  match regAt s a with
  | none => (s, stBadAddr)
  | some (d, ix) =>
    let r := writeNamed p d ix a w s
    (checkPartner r.1, r.2)

/-- A write of a register by port p, performed. -/
def regWrite (p : GPort) (a : Nat) (w : Word) (s : State) : State := wrAccess p a (writeReg p a w) s

/-- REGISTER_WRITE: port p writes a word to a register; where the other port's write is ready in the same core cycle, the two contend
(03 R67). -/
def execRegisterWrite (p : GPort) (a : BitVec 32) (w : Word) (rival : Option (BitVec 32 × Word)) (s : State) :
    Host.Outcome State Fault Refusal :=
  let row := fun (p : GPort) (a : Nat) (w : Word) => byPort p (.write a w) (regWrite p a w)
  match rival with
  | none => .next (row p a.toNat w s)
  | some (b, v) =>
    if portReady s p && portReady s (1 - p) then
      .next (contend p a.toNat b.toNat (regWrite p a.toNat w) (regWrite (1 - p) b.toNat v) s)
    else .next (row (1 - p) b.toNat v (row p a.toNat w s))

end Sys2Proof.Machine
end

