-- ==== Sys2Proof/Machine/Gulane.lean ====
section
/-! DEFINITION. The Gulane ports: frames and transactions (03 R57-R63), and the end of a hold-off, which performs what has waited for
it (R68, R72). A frame's transactions are performed in one step (DESIGN CHOICE: log entry 52). -/

namespace Sys2Proof.Machine
open Sys2Proof

/-! ### Responses (03 Tables 3.2-3.4) -/

def opRead : Nat := 1
def opWrite : Nat := 2
def opDoorbell : Nat := 3

/-- An operation to the device. -/
def opToDevice (op : Nat) : Bool := op == opRead || op == opWrite || op == opDoorbell

/-- The device answers: always a READ, a WRITE unless it is POSTED and succeeds, and otherwise only what fails. A POSTED WRITE that
ends IGNORED is answered (DESIGN CHOICE: log entry 72). -/
def answers (t : Txn) (st : Nat) : Bool := st != stOk || t.op == opRead || (t.op == opWrite && !bit t.flags 0)

/-- The response to a transaction: a READ_RSP carries LEN bytes, zero where the access failed. -/
def response (t : Txn) (st : Nat) (data : List Byte) : Txn :=
  { op := t.op % 128 + 128, tag := t.tag, len := if t.op = opRead then t.len else 0, ctx := t.ctx, status := st,
    addr := t.addr, data := if t.op = opRead then slice data 0 t.len else [] }

/-- Answers a transaction of port p. -/
def respond (p : GPort) (t : Txn) (st : Nat) (data : List Byte) (s : State) : State :=
  if answers t st then gulSend p (response t st data) s else s

/-! ### The configuration space (R59) -/

/-- Reads n words in ascending order; the first that fails ends it. -/
def cfgReads (p : GPort) : Nat → Nat → List Byte → State → State × Nat × List Byte
  | 0, _, got, s => (s, stOk, got)
  | n + 1, a, got, s =>
    let r := readReg p a s
    if r.2.2 = stOk then cfgReads p n (a + 4) (got ++ leBytes 4 r.2.1.toNat) r.1 else (r.1, r.2.2, got)

/-- Writes words in ascending order; IGNORED goes on, and the first that fails ends it. -/
def cfgWrites (p : GPort) : List Word → Nat → Bool → State → State × Nat
  | [], _, ign, s => (s, if ign then stIgnored else stOk)
  | w :: r, a, ign, s =>
    let q := writeReg p a w s
    if q.2 = stOk ∨ q.2 = stIgnored then cfgWrites p r (a + 4) (ign || q.2 == stIgnored) q.1 else q

/-- The status of a configuration-space transaction that is not performed. One that names a context is DENIED even outside every
window (DESIGN CHOICE: log entry 72). -/
def cfgRefused (t : Txn) : Option Nat :=
  if t.ctx ≠ 0xFF then some stDenied
  else match windowOf t.addr with
    | none => some stBadAddr
    | some w => if t.len % 4 ≠ 0 ∨ t.len < 4 ∨ 256 < t.len ∨ w.2 + 1 < t.addr + t.len then some stBadLen else none

/-- A READ or WRITE of the configuration space. -/
def cfgTxn (p : GPort) (t : Txn) (s : State) : State :=
  match cfgRefused t with
  | some st => respond p t st [] s
  | none =>
    if t.op = opRead then
      let r := cfgReads p (t.len / 4) t.addr [] s
      respond p t r.2.1 r.2.2 r.1
    else
      let r := cfgWrites p (toWords (slice t.data 0 t.len)) t.addr false s
      respond p t r.2 [] r.1

/-! ### HBM (R60) -/

/-- The status of an HBM transaction that its fields or its place refuse (R60; 15 R389, R390). Where several of its checks fail, the
first in this order gives the status (DESIGN CHOICE: log entry 72). -/
def hbmRefused (s : State) (t : Txn) : Option Nat :=
  if t.len % 4 ≠ 0 ∨ t.len < 4 ∨ 4096 < t.len then some stBadLen
  else if t.addr % 4 ≠ 0 then some stBadAddr
  else if 4096 < t.addr % 4096 + t.len then some stBadLen
  else if !mapped s t.addr then some stBadAddr
  else if t.ctx = 0xFF then none
  else if t.ctx < 64 ∧ isOn s (fnCtx t.ctx) ∧ winOk s t.ctx t.addr t.len (if t.op = opRead then .gr else .gw) then none
  else some stDenied

/-- A stack that the bytes stand on is QUIESCED (15 R400, R401). -/
def quiesced (s : State) (a n : Nat) : Bool :=
  (List.range ((a % 256 + n + 255) / 256)).any fun i => bwStep s (stackAddr s (256 * (a / 256 + i))).1 == 4

/-- An uncorrectable word that a Gulane READ meets: a table that the device reads has raised MEM_UE_SYSTEM, and any other word
raises MEM_UE (15 R394). -/
def gulaneUe (p : GPort) (t : Txn) (a : Nat) (s : State) : State :=
  let r := countUe 1 a s p
  if deviceTable s a then r
  else raiseFault { code := 0x0F01, cls := .ctxf, ctx := t.ctx, unit := memUnit (stackAddr s a).1, tag := t.tag,
                    detail := 2 ^ 32 * t.tag + a % 2 ^ 32, port := p } r

/-- A READ of HBM. -/
def hbmReadTxn (p : GPort) (t : Txn) (seen : MemSeen) (s : State) : State :=
  if quiesced s t.addr t.len then respond p t stStalled [] s
  else
    let s := meetEcc seen t.addr t.len s
    match badWord s t.addr t.len with
    | some a => respond p t stEcc [] (gulaneUe p t a s)
    | none => respond p t stOk (hbmRd s t.addr t.len) s

/-- The address lies in the image store: in its upper half, or in its staging area during a load (02 R43). -/
def storeClosed (s : State) (a : Nat) : Bool := decide (a < hbmBase + 0x20000000) && (decide (hbmBase + 0x10000000 ≤ a) || loading s)

/-- A WRITE of HBM: a device-level one needs the Keystone, by the record of the port's own die. -/
def hbmWriteTxn (p : GPort) (t : Txn) (s : State) : State :=
  if t.ctx = 0xFF ∧ !holds s p p.val then respond p t stIgnored [] (klDenied p t.addr s)
  else if t.ctx = 0xFF ∧ storeClosed s t.addr then
    respond p t stIgnored [] (raiseEvent { code := 0x0203, port := p, detail := t.addr } s)
  else if quiesced s t.addr t.len then respond p t stStalled [] s
  else respond p t stOk [] (hbmWr t.addr (slice t.data 0 t.len) s)

/-- A READ or WRITE of HBM. -/
def hbmTxn (p : GPort) (t : Txn) (seen : MemSeen) (s : State) : State :=
  match hbmRefused s t with
  | some st => respond p t st [] s
  | none => if t.op = opRead then hbmReadTxn p t seen s else hbmWriteTxn p t s

/-! ### Doorbells (R63) -/

/-- The doorbell at an address: its context and number. -/
def doorbellAt (a : Nat) : Option (Nat × Nat) :=
  match findReg a with
  | some (d, ix) => if d.name = .ctxDb then some (ix.getD 0 0, ix.getD 1 0) else none
  | none => none

/-- A DOORBELL, with its checks in order. -/
def doorbellTxn (p : GPort) (t : Txn) (s : State) : State :=
  match doorbellAt t.addr with
  | none => respond p t stBadAddr [] s
  | some (x, q) =>
    if t.ctx ≠ 0xFF then respond p t stDenied [] s
    else if t.len ≠ 8 then respond p t stBadLen [] s
    else if le t.data 4 4 ≠ 0 then respond p t stBadOp [] s
    else if !isOn s (fnCtx x) then respond p t stDenied [] s
    else
      let r := addDoorbell p x q (le t.data 0 4) s
      respond p t r.2 [] r.1

/-! ### Transactions -/

/-- A legal header: a listed OP, no STATUS, and no FLAGS but POSTED on a WRITE (Tables 3.2, 3.4). It is checked before anything else,
the checks of R63 among it (DESIGN CHOICE: log entry 72). -/
def txnLegal (t : Txn) : Bool := opToDevice t.op && t.status == 0 && (t.flags == 0 || (t.op == opWrite && t.flags == 1))

/-- Performs a transaction of port p. -/
def performTxn (p : GPort) (t : Txn) (seen : MemSeen) (s : State) : State :=
  if !txnLegal t then respond p t stBadOp [] s
  else if t.op = opDoorbell then doorbellTxn p t s
  else if hbmEnd ≤ t.addr then respond p t stBadAddr [] s
  else if hbmBase ≤ t.addr then hbmTxn p t seen s
  else cfgTxn p t s

/-- A READ that reads KS_ACQUIRE, which is the first word of its window. -/
def readsAcquire (t : Txn) : Bool := txnLegal t && t.op == opRead && t.addr == A.ksAcquire && (cfgRefused t).isNone

/-- Takes a transaction of port p. It waits where it reads KS_ACQUIRE in a hold-off, or comes after what waits (R61, R68). -/
def takeTxn (p : GPort) (seen : MemSeen) (s : State) (t : Txn) : State :=
  if portWaits s p || (readsAcquire t && acquireWaits s) then waitFor p (.txn t) s else performTxn p t seen s

/-! ### Transactions of both ports at once (R67) -/

/-- A READ or WRITE that is carried out by accesses at the arbiters. -/
def atArbiters (t : Txn) : Bool := txnLegal t && t.op != opDoorbell && decide (t.addr < hbmBase) && (cfgRefused t).isNone

/-- How far a port's transaction has come: its next address, the words left, the bytes read, the words to write, and its status. -/
structure Cursor where
  port : GPort
  txn : Txn
  addr : Nat
  left : Nat
  got : List Byte
  words : List Word
  status : Nat

def Cursor.start (p : GPort) (t : Txn) : Cursor :=
  { port := p, txn := t, addr := t.addr, left := t.len / 4, got := [], words := toWords (slice t.data 0 t.len), status := stOk }

/-- The transaction has accesses left: none has failed (R59). -/
def Cursor.live (c : Cursor) : Bool := decide (0 < c.left) && (c.status == stOk || c.status == stIgnored)

/-- Its next access. -/
def Cursor.next (c : Cursor) (s : State) : Cursor × State :=
  if c.txn.op = opRead then
    let r := readReg c.port c.addr s
    ({ c with addr := c.addr + 4, left := c.left - 1, status := r.2.2,
              got := if r.2.2 = stOk then c.got ++ leBytes 4 r.2.1.toNat else c.got }, r.1)
  else
    let r := writeReg c.port c.addr (c.words.headD 0) s
    ({ c with addr := c.addr + 4, left := c.left - 1, words := c.words.tail, status := if r.2 = stOk then c.status else r.2 }, r.1)

/-- The first word of each is ready in the same cycle, and then the next of each; n bounds the accesses. -/
def runPair : Nat → Cursor → Cursor → State → Cursor × Cursor × State
  | 0, c, d, s => (c, d, s)
  | n + 1, c, d, s =>
    if c.live && d.live then
      let x := if dieOf c.addr = dieOf d.addr then
          let r := alternate c.addr s
          (decide (r.1 = c.port), r.2.2)
        else (true, s)
      if x.1 then
        let y := c.next x.2
        let z := d.next y.2
        runPair n y.1 z.1 z.2
      else
        let z := d.next x.2
        let y := c.next z.2
        runPair n y.1 z.1 y.2
    else if c.live then
      let y := c.next s
      runPair n y.1 d y.2
    else if d.live then
      let z := d.next s
      runPair n c z.1 z.2
    else (c, d, s)

/-- Both ports' transactions are ready in one core cycle: those at the arbiters contend word by word (one that acquires the Keystone,
as a whole), and any others are taken one after the other (R61 gives them no order). -/
def takePair (p : GPort) (seen : MemSeen) (t u : Txn) (s : State) : State :=
  let acquires := readsAcquire t || readsAcquire u
  if portReady s p && portReady s (1 - p) && atArbiters t && atArbiters u && !(acquires && acquireWaits s) then
    if acquires then contend p t.addr u.addr (fun s => takeTxn p seen s t) (fun s => takeTxn (1 - p) .none s u) s
    else
    let r := runPair 128 (Cursor.start p t) (Cursor.start (1 - p) u) s
    respond (1 - p) u r.2.1.status r.2.1.got (respond p t r.1.status r.1.got r.2.2)
  else
    byPort (1 - p) (.txn u) (fun s => takeTxn (1 - p) .none s u) (byPort p (.txn t) (fun s => takeTxn p seen s t) s)

/-- A transaction of port p, beside one of the other port where there is one. -/
def txnRow (p : GPort) (seen : MemSeen) (t : Txn) (rival : Option Txn) (s : State) : State :=
  match rival with
  | none => byPort p (.txn t) (fun s => takeTxn p seen s t) s
  | some u => takePair p seen t u s

/-- READ: a READ transaction of port p. -/
def execRead (p : GPort) (t : Txn) (seen : MemSeen) (rival : Option Txn) (s : State) : Host.Outcome State Fault Refusal :=
  .next (txnRow p seen { t with op := opRead } rival s)

/-- WRITE: a WRITE transaction of port p. -/
def execWrite (p : GPort) (t : Txn) (rival : Option Txn) (s : State) : Host.Outcome State Fault Refusal :=
  .next (txnRow p .none { t with op := opWrite } rival s)

/-- DOORBELL: a DOORBELL transaction of port p. -/
def execDoorbell (p : GPort) (t : Txn) (s : State) : Host.Outcome State Fault Refusal :=
  .next (txnRow p .none { t with op := opDoorbell } none s)

/-! ### Frames (R57, R58) -/

/-- A transaction's header (Table 3.2). -/
def txnHead (b : List Byte) : Txn :=
  { op := le b 0 1, flags := le b 1 1, tag := le b 2 2, len := le b 4 2, ctx := le b 6 1, status := le b 7 1, addr := le b 8 8 }

/-- The transactions of a payload; fuel bounds them. -/
def payloadTxns : Nat → List Byte → List Txn
  | 0, _ => []
  | n + 1, b =>
    let t := txnHead b
    if b.length < 16 ∨ t.op = 0 then []
    else if !opToDevice t.op then [t]
    else if t.op = opRead then t :: payloadTxns n (b.drop 16)
    else if b.length < 16 + t.len then []
    else { t with data := slice b 16 t.len } :: payloadTxns n (b.drop (16 + roundUp t.len 8))

/-- The frame is within its lengths, whole, and untagged (Table 3.1; PRESUMED: log entry 9). -/
def frameGood (b : List Byte) : Bool :=
  let n := b.length
  decide (64 ≤ n) && decide (n ≤ 9216) && b.drop (n - 4) == ethFcs (b.take (n - 4)) && be b 12 2 != 0x8100 && be b 12 2 != 0x88A8

/-- The transactions that a frame carries. -/
def frameTxns (b : List Byte) : List Txn := payloadTxns (b.length / 16) ((b.take (b.length - 4)).drop 14)

/-- A frame on port p. A PAUSE or PFC frame, which the port ignores, counts as one of another EtherType (DESIGN CHOICE: log entry
72). -/
def takeFrame (p : GPort) (b : List Byte) (seen : MemSeen) (s : State) : State :=
  if !frameGood b then bump (A.gulRxErr p) 1 s
  else if be b 12 2 = 0x88F7 then ptpTake p ((b.take (b.length - 4)).drop 14) s
  else if be b 12 2 ≠ rf s (A.gulCfg p) 15 0 then bump (A.gulRxErr p) 1 s
  else (frameTxns b).foldl (takeTxn p seen) (onMg (fun m => { m with peer := smPut [] m.peer p (slice b 6 6) }) s)

/-- GULANE_FRAME: port p takes a frame; an IEEE 1588 message goes to the fabric time unit. -/
def execGulaneFrame (p : GPort) (frame : List Byte) (seen : MemSeen) (s : State) : Host.Outcome State Fault Refusal :=
  .next (if portOn s p then takeFrame p frame seen s else s)

/-! ### The end of a hold-off (R68, R72) -/

/-- Performs what has waited. -/
def serveWaiting (s : State) (q : GPort × Access) : State :=
  match q.2 with
  | .read a => if a = A.ksAcquire then acquire q.1 s else rdAccess q.1 a s
  | .write a w => regWrite q.1 a w s
  | .txn t => takeTxn q.1 .none s t

/-- The order in which what has waited is performed, and the state after the contention of two ports (R67). -/
def waitingOrder (w : List (GPort × Access)) (s : State) : List (GPort × Access) × State :=
  match w.find? (·.1 == 0), w.find? (·.1 == 1) with
  | some a, some b =>
    let (f, _, s) := alternate0 s
    let rest := (w.erase a).erase b
    (if f = 0 then a :: b :: rest else b :: a :: rest, s)
  | _, _ => (w, s)

/-- HOLD_OFF_END: the hold-off ends, and the reads of KS_ACQUIRE that wait are performed, and what came after them. The die-1
record has followed the release in the first 12 of its 24 core cycles, so the dies never name two ports (DEDUCED: log entry 54). -/
def execHoldOffEnd (s : State) : Host.Outcome State Fault Refusal :=
  if s.ks.holdOff then
    let r := waitingOrder s.ks.waiting { s with ks := { s.ks with holdOff := false, waiting := [], die1 := none } }
    .next (r.1.foldl serveWaiting r.2)
  else .next s

end Sys2Proof.Machine
end

