-- ==== Sys2Proof/Machine/PowerPath.lean ====
section
/-! DEFINITION. Power-up and power-down (17 R426-R429), full reset (R430, R431), Viaduct training and flits (01 R19, R22),
the boot ROM (17 R432), the management bus and the test port (19 R474-R477). -/

namespace Sys2Proof.Machine
open Sys2Proof

/-! ### Full reset -/

/-- A full reset (17 R430): every register at its reset value, the Keystone free, every pair closed, every function OFF,
the image and the firmware discarded, HBM undefined. Fuses, the power path and the root PLL's live status stay, and so do
the management bus's and the test port's own state, which no full reset reaches. -/
def fullReset (s : State) : State :=
  let r := State.ofFuses s.fuses s.otp
  let r := { r with pending := s.pending, jtag := s.jtag, free := s.free, out := s.out, resets := s.resets + 1
                    hbm := memOf (Config.freeHbm s.resets)
                    mem := { Mem.reset with hidden := spareContents s.resets }
                    pwr := { s.pwr with inReset := true, resetDue := false, cwyDrive := false } }
  wr A.clkStatus (rd s A.clkStatus) r

/-- RESET_L_ASSERT: RESET_L is held low; a full reset is under way while it stays low, the Causeway drive goes, and a selected EXTEST
drives the pins (17 R431, 04 R101, 19 R477). -/
def execResetLAssert (s : State) : Host.Outcome State Fault Refusal :=
  .next (dropDrive { s with pwr := { s.pwr with resetLow := true, inReset := true, resetDue := true }
                            jtag := { s.jtag with driving := s.jtag.ir == .extest } })

/-- FULL_RESET: what a full reset does, at power-up, under RESET_L or after DEVICE_RESET. -/
def execFullReset (s : State) : Host.Outcome State Fault Refusal := .next (fullReset s)

/-- The controller's first VARITH setting, VMIN[3] + 60 mV (17 Table 17.1). -/
def firstVoltage (s : State) : State :=
  (List.range 8).foldl (fun s i => wf (A.clkSpan i) 15 0 (vminOf s 3 + 60) s) s

/-- RESET_END: after the full reset, RESET_L is high and the PLL is locked: the fuses load their registers and the unit map, the journal's START entry
is written, the first turnstile period starts, and Viaduct training begins (17 R431 Table 17.2, 03 R83, 16 R420). -/
def execResetEnd (s : State) : Host.Outcome State Fault Refusal :=
  if s.pwr.inReset && !s.pwr.resetDue && rbit s A.clkStatus 31 then
    let s := { s with pwr := { s.pwr with inReset := false, resetLow := false, cwyDrive := true }
                      tst := []
                      jtag := { s.jtag with driving := false } }
    let s := (fuseWords s.fuses s.otp).foldl (fun s w => wn w.1 w.2 s) s
    .next (startJournal (firstVoltage s))
  else .next s

/-! ### The start sequencer -/

/-- The rails in the order in which the sequencer starts them, by telemetry index (17 Table 17.1, 16 Table 16.3). -/
def railOrder : List (List Nat) := [[17], [13], [11], [9], [8, 10], [0, 1, 2, 3, 4, 5, 6, 7], [12], [15], [14]]

/-- The rails that have started and are not yet in their windows: the first group that is not wholly up. -/
def railsStarted (up : List Nat) : List Nat :=
  match railOrder.find? fun g => !g.all fun k => up.contains k with
  | some g => g.filter fun k => !up.contains k
  | none => []

/-- Every sequenced rail is in its window. -/
def allRailsUp (up : List Nat) : Bool := railOrder.all fun g => g.all fun k => up.contains k

/-- The module without power: nothing is saved (17 R428). The Causeway drive has gone first, then the rails in reverse
order; at the next power-up the module is in its power-up full reset. -/
def powerOff (sq : SeqState) (s : State) : State :=
  let s := wr A.clkStatus 0 (fullReset s)
  { s with pwr := { s.pwr with seq := sq, railsUp := [], cwyDrive := false, inReset := true } }

/-- HOUSEKEEPING_START: the input rises above 36 V (19 R474); the management registers take their reset values. -/
def execHousekeepingStart (s : State) : Host.Outcome State Fault Refusal :=
  if s.pwr.housekeeping then .next s
  else .next { s with pwr := { PowerPath.reset with pwrEn := s.pwr.pwrEn, resetLow := s.pwr.resetLow } }

/-- HOUSEKEEPING_SUPPLY_OFF: the input falls below 36 V; no pin is driven and SMBus does not answer (19 R474, R475). -/
def execHousekeepingSupplyOff (s : State) : Host.Outcome State Fault Refusal :=
  let s := powerOff .off s
  .next { s with pwr := { s.pwr with housekeeping := false, latched := false, cause := 0, vin := 0, iinA := 0, iinB := 0 } }

/-- SEQUENCER_START: the input at or above 41.0 V on both pairs and PWR_EN have held together for 10 ms (17 R426, 19 R471);
a latch keeps the sequencer from starting (17 R427). -/
def execSequencerStart (s : State) : Host.Outcome State Fault Refusal :=
  if s.pwr.housekeeping && (s.pwr.seq == .off || s.pwr.seq == .qualify) && !s.pwr.latched then
    .next { s with pwr := { s.pwr with seq := .ramping, pwrEn := true, railsUp := [] } }
  else .next s

/-- RAIL_IN_WINDOW: a started rail enters its window; with the last one the module's power-good rises (17 R426). -/
def execRailInWindow (k : Fin 18) (s : State) : Host.Outcome State Fault Refusal :=
  if s.pwr.seq == .ramping && (railsStarted s.pwr.railsUp).contains k.val then
    let up := s.pwr.railsUp ++ [k.val]
    .next { s with pwr := { s.pwr with railsUp := up, seq := if allRailsUp up then .powerGood else .ramping } }
  else .next s

/-- PLL_LOCK: after power-good the root PLL locks to the reference and die 1 receives the forwarded clock; the power-up full
reset can then end (17 R426, 16 Table 16.9). -/
def execPllLock (s : State) : Host.Outcome State Fault Refusal :=
  if s.pwr.seq == .powerGood then .next (wn A.clkStatus 0xD0000000 s) else .next s

/-- SEQUENCER_FAULT: rail k misses its window; the rails are removed, FAULT_L goes low and k is latched (17 R427). -/
def execSequencerFault (k : Fin 18) (s : State) : Host.Outcome State Fault Refusal :=
  if s.pwr.seq == .ramping || s.pwr.seq == .powerGood then
    let s := powerOff .fault s
    .next { s with pwr := { s.pwr with latched := true, cause := k } }
  else .next s

/-- PWR_EN_DEASSERT: the Causeway drive goes, then the rails in reverse order (17 R428). A latched fault keeps its state. -/
def execPwrEnDeassert (s : State) : Host.Outcome State Fault Refusal :=
  let s := powerOff (if s.pwr.latched then .fault else .off) s
  .next { s with pwr := { s.pwr with pwrEn := false } }

/-- INPUT_OUT_OF_RANGE: the input has been below 40.0 V or above 57.0 V for more than 20 µs: the rails go (17 R428). -/
def execInputOutOfRange (s : State) : Host.Outcome State Fault Refusal :=
  .next (powerOff (if s.pwr.latched then .fault else .off) s)

/-- THERMAL_TRIP: a junction at or above 125 °C trips the power stages; cause 0xFF is latched (17 R429). -/
def execThermalTrip (s : State) : Host.Outcome State Fault Refusal :=
  let s := powerOff .fault s
  .next { s with pwr := { s.pwr with latched := true, cause := 0xFF } }

/-- SEQ_LATCH_CLEAR: PWR_EN has been deasserted for 100 ms: the latch clears (17 R427). -/
def execSeqLatchClear (s : State) : Host.Outcome State Fault Refusal :=
  if s.pwr.pwrEn then .next s
  else .next { s with pwr := { s.pwr with latched := false, cause := 0
                                          seq := if s.pwr.seq == .fault then .off else s.pwr.seq } }

/-! ### Viaduct and boot ROM -/

/-- VIADUCT_TRAINING: training finds failing data lanes, from die 0 to die 1 and back, and replaces them with spares
(01 R19); more than 32 in a direction leave UP at 0. -/
def execViaductTraining (f01 f10 : Fin 1025) (s : State) : Host.Outcome State Fault Refusal :=
  if s.pwr.inReset || stage s ≠ 0 then .next s
  else
    let a := min f01.val 32
    let b := min f10.val 32
    let up := f01.val ≤ 32 && f10.val ≤ 32
    .next (wn A.dkViaductStatus (2 ^ 16 * b + 2 ^ 8 * a + b2n (28 < a || 28 < b) * 2 + b2n up) s)

/-- VIADUCT_FLIT: a flit in direction d with a symbol error, corrected and counted, or uncorrectable (01 R22). -/
def execViaductFlit (d : Fin 2) (corrected : Bool) (s : State) : Host.Outcome State Fault Refusal :=
  if corrected then .next (bump A.dkViaductCorr 1 s)
  else .next (raiseFault { code := 0x1209, cls := .devf, detail := d } s)

/-- A boot ROM step fails: STAGE HALTED with its code, and BOOT_HALT (17 R432). -/
def bootHalt (code : Nat) (s : State) : State :=
  raiseFault { code := 0x1101, cls := .devf, detail := code } (wf A.dkBootStatus 15 8 code (wf A.dkBootStatus 3 0 stHalted s))

/-- Trains channel c of a stack: UP, or FAILED. -/
def trainChannel (failed : List (SpanNo × Fin 16)) (st c : Nat) (s : State) : State :=
  let bad := failed.any fun q => q.1.val == st && q.2.val == c
  wf (A.memChStatus st c) 2 0 (if bad then 4 else 1) s

/-- Trains every channel of every stack. -/
def trainAll (failed : List (SpanNo × Fin 16)) (s : State) : State :=
  (List.range 8).foldl (fun s st => (List.range 16).foldl (fun s c => trainChannel failed st c s) s) s

/-- BOOT_ROM: the steps of 17 Table 17.3: self-test of the SRAM (the reading selfTest) while the Gulane ports enter START,
the Viaduct check, and HBM training, with the channels that fail it. -/
def execBootRom (selfTest : Bool) (failed : List (SpanNo × Fin 16)) (s : State) : Host.Outcome State Fault Refusal :=
  if s.pwr.inReset || stage s ≠ 0 then .next s
  else
    let s := wf A.dkBootStatus 3 0 stRom s
    let s := wf (A.dkFuncState (fnGul 0)) 2 0 fsStart (wf (A.dkFuncState (fnGul 1)) 2 0 fsStart s)
    if !selfTest then .next (bootHalt 0x83 s)
    else if !rbit s A.dkViaductStatus 0 then .next (bootHalt 0x81 s)
    else
      let s := trainAll failed (wf A.dkBootStatus 3 0 stHbm s)
      if !failed.isEmpty then .next (bootHalt 0x82 s) else .next (wf A.dkBootStatus 3 0 stFwWait s)

/-! ### Management bus (19 R475, R476) -/

/-- What the module answers to a read over SMBus: nothing while the housekeeping supply is off or when the PEC that a
transaction carries fails its check. -/
def smbusRead (pec : Pec) (bytes : List Byte) (s : State) : State :=
  emit (.smbus (if s.pwr.housekeeping && pec ≠ .bad then some bytes else none)) s

/-- Code of SEQ_STATE (19 Table 19.3). -/
def SeqState.code : SeqState → Nat
  | .off => 0
  | .qualify => 1
  | .ramping => 2
  | .powerGood => 3
  | .poweringDown => 4
  | .fault => 5

/-- MGMT_ID. -/
def execMgmtId (pec : Pec) (s : State) : Host.Outcome State Fault Refusal := .next (smbusRead pec (leBytes 2 0x5301) s)

/-- SEQ_FAULT: the sequencer's latch (19 Table 19.4). -/
def execSeqFault (pec : Pec) (s : State) : Host.Outcome State Fault Refusal :=
  .next (smbusRead pec (leBytes 2 (2 ^ 15 * b2n s.pwr.latched + s.pwr.cause)) s)

/-- SEQ_STATE. -/
def execSeqState (pec : Pec) (s : State) : Host.Outcome State Fault Refusal :=
  .next (smbusRead pec (leBytes 2 (SeqState.code s.pwr.seq)) s)

/-- VIN, with the housekeeping sample of the last 1 ms in 10 mV. -/
def execVin (pec : Pec) (sample : BitVec 16) (s : State) : Host.Outcome State Fault Refusal :=
  let s := if s.pwr.housekeeping then { s with pwr := { s.pwr with vin := sample.toNat } } else s
  .next (smbusRead pec (leBytes 2 s.pwr.vin) s)

/-- IIN_A, with the housekeeping sample of pair A in 10 mA. -/
def execIinA (pec : Pec) (sample : BitVec 16) (s : State) : Host.Outcome State Fault Refusal :=
  let s := if s.pwr.housekeeping then { s with pwr := { s.pwr with iinA := sample.toNat } } else s
  .next (smbusRead pec (leBytes 2 s.pwr.iinA) s)

/-- IIN_B, with the housekeeping sample of pair B in 10 mA. -/
def execIinB (pec : Pec) (sample : BitVec 16) (s : State) : Host.Outcome State Fault Refusal :=
  let s := if s.pwr.housekeeping then { s with pwr := { s.pwr with iinB := sample.toNat } } else s
  .next (smbusRead pec (leBytes 2 s.pwr.iinB) s)

/-- DEVICE_ID: DK_DEVICE_ID [31:16] while SEQ_STATE is POWER_GOOD, otherwise 0. -/
def execDeviceId (pec : Pec) (s : State) : Host.Outcome State Fault Refusal :=
  .next (smbusRead pec (leBytes 2 (if s.pwr.seq == .powerGood then rf s A.dkDeviceId 31 16 else 0)) s)

/-- MODULE_SN: the fused serial as a Block Read of 8 bytes, after the block's byte count. -/
def execModuleSn (pec : Pec) (s : State) : Host.Outcome State Fault Refusal :=
  .next (smbusRead pec (8 :: leBytes 8 s.fuses.moduleSn) s)

/-! ### Test port (19 R477) -/

/-- The bits of a number, least significant first, as they shift out of TDO. -/
def bitsOut (n v : Nat) : List Bool := (List.range n).map (bit v)

/-- BYPASS: the one-bit bypass register, which captures 0, is selected. -/
def execBypass (s : State) : Host.Outcome State Fault Refusal :=
  .next (emit (.tdo [false]) { s with jtag := { s.jtag with ir := .bypass, driving := false } })

/-- IDCODE: DK_DEVICE_ID with bit 0 set. -/
def execIdcode (s : State) : Host.Outcome State Fault Refusal :=
  .next (emit (.tdo (bitsOut 32 (rn s A.dkDeviceId ||| 1)))
    { s with jtag := { s.jtag with ir := .idcode, driving := false } })

/-- SAMPLE/PRELOAD: the boundary cells show the sampled pins and take the preloaded values. -/
def execSamplePreload (pins load : List Bool) (s : State) : Host.Outcome State Fault Refusal :=
  .next (emit (.tdo pins) { s with jtag := { ir := .samplePreload, cells := load, driving := false } })

/-- EXTEST: drives the pins from the cells only while RESET_L holds the module in full reset; at any other time it acts as
SAMPLE/PRELOAD. -/
def execExtest (pins load : List Bool) (s : State) : Host.Outcome State Fault Refusal :=
  .next (emit (.tdo pins) { s with jtag := { ir := .extest, cells := load, driving := s.pwr.resetLow && s.pwr.inReset } })

end Sys2Proof.Machine
end

