-- ==== Sys2Proof/Machine/Stages.lean ====
section
/-! DEFINITION. The two stages of the carousel and the resequencers (06 R140-R147): what a core cycle does to the cells of the
packets that cross. -/

namespace Sys2Proof.Machine
open Sys2Proof

/-! ### Where cells stand -/

/-- A node stands on die 1 (01 Table 1.4). -/
def onDie1 (n : Nat) : Bool := (32 ≤ n && n < 64) || 72 ≤ n

/-- The node at which an output stands: its own, or that of its RSE. -/
def outNode (o : Nat) : Nat := o % 80

/-- Cells of an output and class that are in stage one or past it and that its resequencer has not released (06 R143). -/
def admitted (f : Fab) (o c : Nat) : Nat :=
  ((f.held.filter fun h => h.stage == .crossing && outOf h.dst == o && pkClass h.bytes == c).map fun h => h.seqs.length).sum

/-- Cells that an output's resequencer holds (06 R146). -/
def reseqHeld (f : Fab) (o : Nat) : Nat :=
  ((f.held.filter fun h => h.stage == .crossing && outOf h.dst == o).map Held.come).sum

/-- A cell has reached its output, or the RSE that consumes it. -/
def cellArrives (c : Cell) (f : Fab) : Fab :=
  { f with held := f.held.map fun h => if ownsCell h c then { h with come := h.come + 1 } else h }

/-- A cell joins the FIFO for its output at its intermediate node (06 R144). -/
def cellWaits (c : Cell) (f : Fab) : Fab := { f with fifo := f.fifo ++ [c] }

/-- A cell has made its move of stage one, or of stage two: an RSE consumes it at the end of stage one (06 R142). -/
def cellLands (c : Cell) (two : Bool) (f : Fab) : Fab := if two || 80 ≤ c.out then cellArrives c f else cellWaits c f

/-- A cell moves between two nodes: at once on one die, in 12 core cycles between the dies (06 R145). -/
def cellMoves (c : Cell) (two : Bool) (n m : Nat) (f : Fab) : Fab :=
  if onDie1 n = onDie1 m then cellLands c two f else { f with flying := f.flying ++ [{ cell := c, left := 12, two := two }] }

/-- One core cycle of the cells between the dies. -/
def flightsFly (f : Fab) : Fab :=
  let fs := f.flying.map fun x => { x with left := x.left - 1 }
  (fs.filter fun x => x.left == 0).foldl (fun f x => cellLands x.cell x.two f) { f with flying := fs.filter fun x => x.left != 0 }

/-! ### Stage two (06 R140, R144) -/

/-- The output that an intermediate node is connected to. -/
def twoOut (t m : Nat) : Nat := (m + t) % 80

/-- Intermediate node m sends the oldest cell of the FIFO for the output it is connected to, of those that stood there before
this cycle. -/
def stageTwo (old : List Cell) (m : Nat) (f : Fab) : Fab :=
  match old.find? fun c => c.mid == m && c.out == twoOut f.turn m && f.fifo.contains c with
  | none => f
  | some c => cellMoves c true m c.out { f with fifo := f.fifo.erase c }

/-! ### Stage one (06 R140, R142, R143) -/

/-- The intermediate node that an input is connected to. -/
def oneMid (t i : Nat) : Nat := (i + t) % 80

/-- A packet of an input's own sources, or of what it has received. -/
def isOwn (h : Held) : Bool := 528 ≤ h.src

/-- A packet has a cell that may enter stage one at input i, which is connected to node m: a cell for an RSE only at the RSE's
own node, any other within its admission window. -/
def cellReady (f : Fab) (i m : Nat) (own : Bool) (h : Held) : Bool :=
  h.stage == .crossing && nodeOf h.src == i && isOwn h == own && decide (h.seqs.length < pkCells h.bytes) &&
    (if 5120 ≤ h.dst then h.dst == 5120 + m else decide (admitted f (outOf h.dst) (pkClass h.bytes) < 2048))

/-- The packet whose cell an input sends: the first class of Table 6.1 with a cell ready, and in it the packet that arrived
first. -/
def pickCell (f : Fab) (i m : Nat) (own : Bool) : Option Held :=
  let hs := f.held.filter (cellReady f i m own)
  classOrder.findSome? fun c => hs.find? fun h => pkClass h.bytes == c

/-- The packet whose cell enters stage one, and which of the two has the next cycle that both want: the external input and the
RSE take alternate cycles when both have a cell ready (06 R142). -/
def pickOne (f : Fab) (i m : Nat) : Option Held × Bool :=
  let turn := smGet false f.rseTurn i
  match pickCell f i m false, pickCell f i m true with
  | some x, some r => if turn then (some r, false) else (some x, true)
  | some x, none => (some x, turn)
  | none, r => (r, turn)

/-- Key of the sequence numbers of an input, output and class. -/
def seqKey (i o c : Nat) : Nat := 8 * (160 * i + o) + c

/-- The next cell of a packet enters stage one towards node m: it takes the next of its 12-bit sequence numbers (06 R146). -/
def sendCell (i m : Nat) (h : Held) (f : Fab) : Fab :=
  let k := seqKey i (outOf h.dst) (pkClass h.bytes)
  let q := smGet 0 f.cellSeq k
  let f := { f with held := f.held.map (fun g => if g = h then { h with seqs := h.seqs ++ [q] } else g)
                    cellSeq := smPut 0 f.cellSeq k ((q + 1) % 2 ^ 12) }
  cellMoves { inp := i, out := outOf h.dst, cls := pkClass h.bytes, seq := q, mid := m } false i m f

/-- Input i sends at most one cell. -/
def stageOne (i : Nat) (f : Fab) : Fab :=
  let m := oneMid f.turn i
  let p := pickOne f i m
  let f := { f with rseTurn := smPut false f.rseTurn i p.2 }
  match p.1 with
  | none => f
  | some h => sendCell i m h f

/-! ### A core cycle -/

/-- Some cell is at an intermediate node, between the dies, or still at its input. -/
def cellsMove (f : Fab) : Bool :=
  f.fifo != [] || f.flying != [] || f.held.any fun h => h.stage == .crossing && decide (h.seqs.length < pkCells h.bytes)

/-- The moves of one core cycle: cells land, stage two sends what stood in the FIFOs before, and stage one follows. -/
def moveCells (f : Fab) : Fab :=
  let old := f.fifo
  let f := flightsFly f
  let f := (List.range 80).foldl (fun f m => stageTwo old m f) f
  (List.range 80).foldl (fun f i => stageOne i f) f

/-- One core cycle of the carousel: the cells move, and the rotation counter counts (06 R140). -/
def tickFab (f : Fab) : Fab :=
  let f := if cellsMove f then moveCells f else f
  { f with turn := (f.turn + 1) % 80 }

/-- SW_RSQ_PEAK follows the cells that each output's resequencer holds (06 R170). -/
def notePeaks (s : State) : State :=
  (List.range 80).foldl (fun s n =>
    let k := reseqHeld s.fab n
    if rn s (A.swRsqPeak n) < k then wn (A.swRsqPeak n) k s else s) s

/-- One core cycle of the carousel, with the peaks of its resequencers. -/
def tickCarousel (s : State) : State :=
  let s' := { s with fab := tickFab s.fab }
  if cellsMove s.fab then notePeaks s' else s'

/-! ### The resequencer (06 R146, R147) -/

/-- The oldest packet of an input and class that output n has not released. -/
def nextRelease (f : Fab) (n i c : Nat) : Option Held :=
  f.held.find? fun h => h.stage == .crossing && h.dst < 5120 && outOf h.dst == n && nodeOf h.src == i && pkClass h.bytes == c

/-- RESEQUENCER_RELEASE: output n passes the oldest packet of an input and class to its egress queue, once every cell of it and
every earlier cell has arrived (06 R146). -/
def execResequencerRelease (n i : NodeNo) (cls : Fin 8) (s : State) : Host.Outcome State Fault Refusal :=
  match nextRelease s.fab n i cls with
  | none => .next s
  | some h =>
    if allCome h then
      .next (onFab (fun f => { f with held := f.held.erase h ++ [{ h with stage := .queued, waited := ftNs s, seqs := [], come := 0 }] }) s)
    else .next s

end Sys2Proof.Machine
end

