-- ==== Sys2Proof/Machine/SvcKv.lean ====
section
/-! DEFINITION. Key-value pages (14 R375-R381). -/

namespace Sys2Proof.Machine
open Sys2Proof

/-! ### Stores (14 R375, Table 14.9) -/

def kvStoreNo (b : List Byte) : Nat := le b 0x20 1
def koRecomp (b : List Byte) : Nat := le b 0x21 1
def koPolicy (b : List Byte) : Nat := le b 0x22 1
def koPsize (b : List Byte) : Nat := le b 0x24 4
def koSlots (b : List Byte) : Nat := le b 0x28 4
def koPbase (b : List Byte) : Nat := le b 0x30 8
def koIbase (b : List Byte) : Nat := le b 0x38 8

/-- The open store of a context. -/
def kvOf (s : State) (x k : Nat) : Option KvStore := s.svc.stores.find? fun v => v.ctx == x && v.store == k

def putStore (v : KvStore) (s : State) : State :=
  onSvc (fun q => { q with stores := q.stores.map fun u => if u.ctx = v.ctx ∧ u.store = v.store then v else u }) s

/-- Meaningful bytes of a page as it is stored, and the bytes of its slot. -/
def kvHeld (v : KvStore) : Nat := if v.recomp = 0 then v.psize else v.psize / 2 + v.psize / 64
def kvSsize (v : KvStore) : Nat := if v.recomp = 0 then v.psize else roundUp (v.psize / 2 + v.psize / 64) 64

/-- The smallest power of two at or above n, from 2^k; fuel bounds k. -/
def powAbove (n : Nat) : Nat → Nat → Nat
  | 0, k => 2 ^ k
  | f + 1, k => if n ≤ 2 ^ k then 2 ^ k else powAbove n f (k + 1)

/-- Buckets of the index. -/
def kvNb (v : KvStore) : Nat := powAbove (2 * v.slots) 32 0

/-- Faulty fields of a KV_OPEN. -/
def kvOpenFaults (s : State) (r : SvcReq) : List Nat :=
  let b := r.bytes
  breaks (3 < kvStoreNo b || (kvOf s r.ctx (kvStoreNo b)).isSome) 0x20 ++ breaks (2 < koRecomp b) 0x21 ++ breaks (2 < koPolicy b) 0x22 ++ mustBeZero b 0x23 1 ++
    breaks (koPsize b % 64 != 0 || koPsize b < 64 || 1048576 < koPsize b) 0x24 ++ breaks (koSlots b == 0 || 2 ^ 24 < koSlots b) 0x28 ++
    mustBeZero b 0x2C 4 ++ breaks (koPbase b % 64 != 0) 0x30 ++ breaks (koIbase b % 4096 != 0) 0x38 ++ mustBeZero b 0x40 32 ++ mustBeZero b 0x60 32

/-- A KV_OPEN: the index is written to zero, and the store is open. -/
def kvOpenRun (r : SvcReq) (s : State) : State :=
  let b := r.bytes
  let v : KvStore := { ctx := r.ctx, store := kvStoreNo b, recomp := koRecomp b, policy := koPolicy b, psize := koPsize b,
                       slots := koSlots b, pbase := koPbase b, ibase := koIbase b, stamp := 0 }
  match svcWrite (svcBy r) v.ibase (List.replicate (32 * kvNb v) 0) s with
  | (false, s) => failReq r s
  | (true, s) => endReq r csOk (onSvc (fun q => { q with stores := q.stores ++ [v] }) s)

/-- KV_OPEN. -/
def execKvOpen (x : CtxNo) (w : SvcStep) (s : State) : Host.Outcome State Fault Refusal :=
  .next (svcRow soKvOpen x.val w kvOpenFaults kvOpenRun s)

/-- Faulty fields of a KV_CLOSE. -/
def kvCloseFaults (s : State) (r : SvcReq) : List Nat :=
  breaks (3 < kvStoreNo r.bytes || (kvOf s r.ctx (kvStoreNo r.bytes)).isNone) 0x20 ++ mustBeZero r.bytes 0x21 95

/-- A KV_CLOSE: the store is open no more. -/
def kvCloseRun (r : SvcReq) (s : State) : State :=
  let k := kvStoreNo r.bytes
  endReq r csOk (onSvc (fun q => { q with stores := q.stores.filter fun u => !(u.ctx == r.ctx && u.store == k) }) s)

/-- KV_CLOSE. -/
def execKvClose (x : CtxNo) (w : SvcStep) (s : State) : Host.Outcome State Fault Refusal :=
  .next (svcRow soKvClose x.val w kvCloseFaults kvCloseRun s)

/-! ### The index (14 R376, Table 14.10) -/

/-- An entry: its key, slot, stamp, state (0 EMPTY, 1 USED, 2 DELETED) and PIN. -/
structure KvEntry where
  key : List Byte
  slot : Nat
  stamp : Nat
  state : Nat
  pin : Bool
  deriving DecidableEq, Repr

def kvDecode (b : List Byte) : KvEntry :=
  { key := slice b 0 16, slot := le b 0x10 4, stamp := le b 0x14 4, state := le b 0x18 1, pin := bit (le b 0x19 1) 0 }

def kvEncode (e : KvEntry) : List Byte :=
  slice e.key 0 16 ++ leBytes 4 e.slot ++ leBytes 4 e.stamp ++ leBytes 1 e.state ++ leBytes 1 (b2n e.pin) ++ leBytes 6 0

/-- The entry of a bucket. -/
def kvEntry (s : State) (v : KvStore) (i : Nat) : KvEntry := kvDecode (hbmRd s (v.ibase + 32 * i) 32)

/-- A key's home bucket. -/
def kvHome (v : KvStore) (key : List Byte) : Nat := crc32c key % kvNb v

/-- The bucket of a USED entry with the key: the probe stops at the first EMPTY one. -/
def kvFind (s : State) (v : KvStore) (key : List Byte) : Nat → Nat → Option Nat
  | 0, _ => none
  | f + 1, i =>
    let e := kvEntry s v i
    if e.state = 0 then none
    else if e.state = 1 ∧ e.key = key then some i
    else kvFind s v key f ((i + 1) % kvNb v)

def kvLookup (s : State) (v : KvStore) (key : List Byte) : Option Nat := kvFind s v key (kvNb v) (kvHome v key)

/-- The first bucket of the probe path that is not USED. -/
def kvVacant (s : State) (v : KvStore) : Nat → Nat → Option Nat
  | 0, _ => none
  | f + 1, i => if (kvEntry s v i).state ≠ 1 then some i else kvVacant s v f ((i + 1) % kvNb v)

/-- Buckets that a lookup of a key reads: its probe path up to where it stops. -/
def kvPath (s : State) (v : KvStore) (key : List Byte) : Nat → Nat → List Nat
  | 0, _ => []
  | f + 1, i =>
    let e := kvEntry s v i
    if e.state = 0 ∨ (e.state = 1 ∧ e.key = key) then [i] else i :: kvPath s v key f ((i + 1) % kvNb v)

/-- Reads the buckets of a key's probe path as the service does: whether none is denied or uncorrectable (R366). -/
def kvProbe (w : SvcBy) (v : KvStore) (key : List Byte) (s : State) : Bool × State :=
  svcPiecesOk w ((kvPath s v key (kvNb v) (kvHome v key)).map fun i => (v.ibase + 32 * i, 32)) s

/-- Reads the whole index, as the choice of a free slot or of the page to evict does (which entries they read is a DESIGN CHOICE: log
entry 80). -/
def kvScan (w : SvcBy) (v : KvStore) (s : State) : Bool × State := svcPiecesOk w (piecesOf v.ibase (32 * kvNb v)) s

/-- USED entries with their buckets. -/
def kvUsed (s : State) (v : KvStore) : List (Nat × KvEntry) :=
  ((List.range (kvNb v)).map fun i => (i, kvEntry s v i)).filter fun y => y.2.state == 1

/-- The lowest free slot. -/
def kvFreeSlot (s : State) (v : KvStore) : Option Nat :=
  let used := (kvUsed s v).map fun y => y.2.slot
  (List.range v.slots).find? fun t => !used.contains t

/-- Age of an entry. -/
def kvAge (v : KvStore) (e : KvEntry) : Nat := (v.stamp + 2 ^ 32 - e.stamp % 2 ^ 32) % 2 ^ 32

/-- The first of two candidates for eviction. -/
def kvOlder (v : KvStore) (a b : Nat × KvEntry) : Nat × KvEntry :=
  if kvAge v a.2 < kvAge v b.2 ∨ (kvAge v a.2 = kvAge v b.2 ∧ b.2.slot < a.2.slot) then b else a

/-- The entry that a new page evicts (R379). -/
def kvVictim (s : State) (v : KvStore) : Option (Nat × KvEntry) :=
  if v.policy = 0 then none
  else match (kvUsed s v).filter fun y => !y.2.pin with
    | [] => none
    | y :: r => some (r.foldl (kvOlder v) y)

/-- Writes the entry of a bucket. -/
def kvPutEntry (w : SvcBy) (v : KvStore) (i : Nat) (e : KvEntry) (s : State) : Bool × State :=
  svcWrite w (v.ibase + 32 * i) (kvEncode e) s

/-! ### Pages (14 R378) -/

/-- The element format of a converted page. -/
def kvFmt (v : KvStore) : Nat := if v.recomp = 1 then fcBf16 else fcFp16

/-- A page as it is stored, and its productions by element. -/
def kvStored (v : KvStore) (page : List Byte) : List Byte × List (Nat × Nat) :=
  if v.recomp = 0 then (page, [])
  else
    let vs := (unpackElems (kvFmt v) page (v.psize / 2)).map (decodeElem (kvFmt v))
    let q := convertRow fcMx8e4m3 0 0 0 0 0 vs
    (packElems fcMx8e4m3 q.1 ++ q.2.1.map (BitVec.ofNat 8), q.2.2)

/-- A page from its stored form. -/
def kvDecomp (v : KvStore) (held : List Byte) : List Byte :=
  let n := v.psize / 2
  packElems (kvFmt v) (((decodeVals fcMx8e4m3 held (held.drop n) n)).map fun x => (convert (kvFmt v) x .rne false).1)

/-- Bytes that a KV_GET delivers of a page. -/
def kvLen (v : KvStore) (decomp : Bool) : Nat := if v.recomp ≠ 0 ∧ !decomp then kvSsize v else v.psize

/-- The page in a slot as a KV_GET delivers it. -/
def kvPage (w : SvcBy) (v : KvStore) (decomp : Bool) (slot : Nat) (s : State) : Option (List Byte) × State :=
  match svcRead w (v.pbase + slot * kvSsize v) (kvSsize v) s with
  | (none, s) => (none, s)
  | (some b, s) => (some (if v.recomp ≠ 0 ∧ decomp then kvDecomp v (b.take (kvHeld v)) else b.take (kvLen v decomp)), s)

/-! ### Batches (14 R377, Table 14.11) -/

def kbDecomp (b : List Byte) : Bool := bit (le b 0x21 1) 0
def kbRemote (b : List Byte) : Bool := bit (le b 0x21 1) 1
def kbPin (b : List Byte) : Bool := bit (le b 0x21 1) 2
def kbN (b : List Byte) : Nat := le b 0x24 4
def kbKeys (b : List Byte) : Nat := le b 0x28 8
def kbData (b : List Byte) : Nat := le b 0x30 8
def kbStride (b : List Byte) : Nat := le b 0x38 4
def kbSr (b : List Byte) : Nat := le b 0x3C 4
def kbRes (b : List Byte) : Nat := le b 0x40 8

/-- KFLAGS bits that an operation has. -/
def kbMask (op : Nat) : Nat := if op = soKvGet then 3 else if op = soKvPut ∨ op = soKvPin then 4 else 0

/-- Faulty fields of a batch that need no store. -/
def kvBodyFaults (b : List Byte) : List Nat :=
  let op := rqOp b
  let pages := op == soKvPut || op == soKvGet
  breaks (3 < kvStoreNo b) 0x20 ++ breaks (le b 0x21 1 &&& (255 - kbMask op) != 0) 0x21 ++ mustBeZero b 0x22 2 ++
    breaks (kbN b == 0 || 65536 < kbN b) 0x24 ++ breaks ((!pages && kbData b != 0) || (kbRemote b && 2 ^ 40 ≤ kbData b)) 0x30 ++
    breaks (if pages then kbStride b % 64 != 0 else kbStride b != 0) 0x38 ++
    breaks (if kbRemote b then 2 ^ 22 ≤ kbSr b else kbSr b != 0) 0x3C ++ mustBeZero b 0x48 24 ++ mustBeZero b 0x60 32

/-- Faulty fields of a batch (R361, R377, R380, R381). -/
def kvBatchFaults (s : State) (r : SvcReq) : List Nat :=
  let b := r.bytes
  kvBodyFaults b ++ match kvOf s r.ctx (kvStoreNo b) with
  | none => [0x20]
  | some v =>
    let pages := rqOp b == soKvPut || rqOp b == soKvGet
    let need := if rqOp b = soKvPut then v.psize else kvLen v (kbDecomp b)
    breaks (pages && kbStride b < need) 0x38 ++ breaks (kbRemote b && !ownOpen s r.ctx (kbSr b) isData) 0x3C

/-- How a key of a batch ends: status 0 OK, 1 NOT_FOUND, 2 NO_SPACE, or 3 where an access for it failed first; pages evicted; the
slot of its page; and that an access failed, which ends the batch. -/
structure KvDone where
  status : Nat
  evicted : Nat
  slot : Nat
  failed : Bool
  deriving DecidableEq, Repr

/-- The key is not in the store, or has no space. -/
def kvNo (status : Nat) : KvDone := { status := status, evicted := 0, slot := 0, failed := false }

/-- An access for the key failed, after so many pages were evicted. -/
def kvFailed (evicted : Nat) : KvDone := { status := 3, evicted := evicted, slot := 0, failed := true }

/-- The key is OK. -/
def kvOk (evicted slot : Nat) : KvDone := { status := 0, evicted := evicted, slot := slot, failed := false }

/-- Sets an entry's stamp where the policy asks for it, and the counter rises. -/
def kvStamped (v : KvStore) (on : Bool) (e : KvEntry) : KvEntry × KvStore :=
  if on then ({ e with stamp := v.stamp }, { v with stamp := (v.stamp + 1) % 2 ^ 32 }) else (e, v)

/-- Writes a page and its entry at a bucket. -/
def kvWritePage (w : SvcBy) (v : KvStore) (i : Nat) (e : KvEntry) (page : List Byte) (stampIt : Bool) (s : State) : Bool × State :=
  let q := kvStored v page
  let s := nansProduced (q.2.map fun y => { ctx := w.ctx, tag := w.tag, unit := w.unit, sub := freeBits 2 s, cause := y.2, idx := y.1 })
    (if q.2 = [] then s else tookFree s)
  match svcWrite w (v.pbase + e.slot * kvSsize v) q.1 s with
  | (false, s) => (false, s)
  | (true, s) =>
    let z := kvStamped v stampIt e
    match kvPutEntry w v i z.1 s with
    | (false, s) => (false, s)
    | (true, s) => (true, putStore z.2 s)

/-- Stores a new page in a slot: its entry takes the first vacant bucket of its probe path. -/
def kvInsert (w : SvcBy) (v : KvStore) (key : List Byte) (pin : Bool) (slot evicted : Nat) (page : List Byte) (s : State) :
    KvDone × State :=
  match kvVacant s v (kvNb v) (kvHome v key) with
  | none => ({ kvNo 2 with evicted := evicted }, s)
  | some i =>
    let e : KvEntry := { key := key, slot := slot, stamp := 0, state := 1, pin := pin }
    match kvWritePage w v i e page (v.policy != 0) s with
    | (false, s) => (kvFailed evicted, s)
    | (true, s) => (kvOk evicted slot, s)

/-- A new page takes the lowest free slot, or that of the page that it evicts (R379). -/
def kvNewPage (w : SvcBy) (v : KvStore) (key : List Byte) (pin : Bool) (page : List Byte) (s : State) : KvDone × State :=
  match kvScan w v s with
  | (false, s) => (kvFailed 0, s)
  | (true, s) => match kvFreeSlot s v with
    | some t => kvInsert w v key pin t 0 page s
    | none => match kvVictim s v with
      | none => (kvNo 2, s)
      | some (i, e) => match kvPutEntry w v i { e with state := 2 } s with
        | (false, s) => (kvFailed 0, s)
        | (true, s) => kvInsert w v key pin e.slot 1 page s

/-- Looks a key up: not OK where an access fails, and its bucket. -/
def kvSeek (w : SvcBy) (v : KvStore) (key : List Byte) (s : State) : Bool × Option Nat × State :=
  match kvProbe w v key s with
  | (false, s) => (false, none, s)
  | (true, s) => (true, kvLookup s v key, s)

/-- KV_PUT of a key. -/
def kvPutKey (r : SvcReq) (v : KvStore) (k : Nat) (key : List Byte) (s : State) : KvDone × State :=
  let b := r.bytes
  let w := svcBy r
  match svcRead w (kbData b + k * kbStride b) v.psize s with
  | (none, s) => (kvFailed 0, s)
  | (some page, s) => match kvSeek w v key s with
    | (false, _, s) => (kvFailed 0, s)
    | (true, some i, s) =>
      let e := kvEntry s v i
      match kvWritePage w v i { e with pin := e.pin || kbPin b } page (v.policy == 1) s with
      | (false, s) => (kvFailed 0, s)
      | (true, s) => (kvOk 0 e.slot, s)
    | (true, none, s) => kvNewPage w v key (kbPin b) page s

/-- KV_GET of a key; a remote one only notes the page. -/
def kvGetKey (r : SvcReq) (v : KvStore) (k : Nat) (key : List Byte) (s : State) : KvDone × State :=
  let b := r.bytes
  let w := svcBy r
  match kvSeek w v key s with
  | (false, _, s) => (kvFailed 0, s)
  | (true, none, s) => (kvNo 1, s)
  | (true, some i, s) =>
    let e := kvEntry s v i
    let z := kvStamped v (v.policy == 1) e
    match if z.1 = e then (true, s) else kvPutEntry w v i z.1 s with
    | (false, s) => (kvFailed 0, s)
    | (true, s) =>
      let s := putStore z.2 s
      if kbRemote b then (kvOk 0 e.slot, s)
      else match kvPage w v (kbDecomp b) e.slot s with
        | (none, s) => (kvFailed 0, s)
        | (some page, s) => match svcWrite w (kbData b + k * kbStride b) page s with
          | (false, s) => (kvFailed 0, s)
          | (true, s) => (kvOk 0 e.slot, s)

/-- KV_DROP or KV_PIN of a key: its entry is DELETED, or its PIN follows KFLAGS. -/
def kvMarkKey (r : SvcReq) (v : KvStore) (key : List Byte) (s : State) : KvDone × State :=
  match kvSeek (svcBy r) v key s with
  | (false, _, s) => (kvFailed 0, s)
  | (true, none, s) => (kvNo 1, s)
  | (true, some i, s) =>
    let e := kvEntry s v i
    let e' := if rqOp r.bytes = soKvDrop then { e with state := 2 } else { e with pin := kbPin r.bytes }
    match kvPutEntry (svcBy r) v i e' s with
    | (false, s) => (kvFailed 0, s)
    | (true, s) => (kvOk 0 e.slot, s)

/-- What a batch does with key k. -/
def kvKeyOf (r : SvcReq) (v : KvStore) (k : Nat) (key : List Byte) (s : State) : KvDone × State :=
  if rqOp r.bytes = soKvPut then kvPutKey r v k key s
  else if rqOp r.bytes = soKvGet then kvGetKey r v k key s
  else kvMarkKey r v key s

/-- Writes the status byte of key k. -/
def kvReport (r : SvcReq) (k : Nat) (d : KvDone) (s : State) : KvDone × State :=
  if d.failed || kbRes r.bytes == 0 then (d, s)
  else match svcWrite (svcBy r) (kbRes r.bytes + k) (leBytes 1 d.status) s with
    | (false, s) => ({ d with failed := true }, s)
    | (true, s) => (d, s)

/-- Handles key k of a batch, and writes its status byte. -/
def kvKey (r : SvcReq) (k : Nat) (s : State) : KvDone × State :=
  match kvOf s r.ctx (kvStoreNo r.bytes), svcRead (svcBy r) (kbKeys r.bytes + 16 * k) 16 s with
  | some v, (some key, s) =>
    let q := kvKeyOf r v k key s
    kvReport r k q.1 q.2
  | _, (_, s) => (kvFailed 0, s)

/-- Handles n keys from key k on, in order, up to one for which an access fails. -/
def kvKeys (r : SvcReq) : Nat → Nat → State → List KvDone × State
  | 0, _, s => ([], s)
  | n + 1, k, s =>
    let q := kvKey r k s
    if q.1.failed then ([q.1], q.2)
    else
      let z := kvKeys r n (k + 1) q.2
      (q.1 :: z.1, z.2)

/-- RESULT of a batch. -/
def kvResult (l : List KvDone) : Nat :=
  (l.filter fun d => d.status == 0).length + 2 ^ 32 * (l.map fun d => d.evicted).sum

/-- Status of a batch. -/
def kvStatus (l : List KvDone) : Nat := if l.all fun d => d.status == 0 then csOk else csPartial

/-- Handles a batch; a remote KV_GET goes on to send its pages. -/
def kvBatch (r : SvcReq) (s : State) : State :=
  let q := kvKeys r (kbN r.bytes) 0 s
  let l := q.1
  let r := { r with result := some (kvResult l) }
  let todo := (l.zipIdx.filter fun y => y.1.status == 0).map fun y => (y.2, y.1.slot)
  if l.any KvDone.failed then failReq r q.2
  else if kbRemote r.bytes ∧ todo ≠ [] then putReq { r with stage := 1, todo := todo, pos := kvStatus l } q.2
  else endReq r (kvStatus l) q.2

/-- KV_PUT. -/
def execKvPut (x : CtxNo) (w : SvcStep) (s : State) : Host.Outcome State Fault Refusal :=
  .next (svcRow soKvPut x.val w kvBatchFaults kvBatch s)

/-- KV_DROP. -/
def execKvDrop (x : CtxNo) (w : SvcStep) (s : State) : Host.Outcome State Fault Refusal :=
  .next (svcRow soKvDrop x.val w kvBatchFaults kvBatch s)

/-- KV_PIN. -/
def execKvPin (x : CtxNo) (w : SvcStep) (s : State) : Host.Outcome State Fault Refusal :=
  .next (svcRow soKvPin x.val w kvBatchFaults kvBatch s)

/-! ### Remote pages (14 R380) -/

/-- Bytes of a page that is converted for sending in one command: at most the class's largest legal request (02 R40; DESIGN CHOICE: log
entry 80), and where they stand in the service area. -/
def kvPieceMax : Nat := 0x2000
def kvPiece (s : State) : Nat := min kvPieceMax (poolMaxReq (pools s) 6)
def kvStage (r : SvcReq) : Nat := 0x20000 + kvPieceMax * r.slot

/-- The page is converted for sending. -/
def kvConverts (r : SvcReq) (v : KvStore) : Bool := v.recomp != 0 && kbDecomp r.bytes

/-- The request's staging buffer is being waited for. -/
def kvBufWaits (s : State) (r : SvcReq) : Bool :=
  s.fab.bpm.waiting.any fun w => w.req == svcRequester r.ctx && w.place == some r.slot

/-- The request takes its staging buffer, or waits for it in arrival order (R365, 06 R169). -/
def kvTakeBuf (r : SvcReq) (s : State) : SvcReq × State :=
  if r.buf.isSome || kvBufWaits s r then (r, s)
  else match bpmAlloc (svcRequester r.ctx) (kvPiece s) s with
    | (some h, s) => ({ r with buf := some h }, s)
    | (none, s) =>
      (r, onBpm (fun b => { b with waiting := b.waiting ++ [{ req := svcRequester r.ctx, size := kvPiece s, place := some r.slot }] }) s)

/-- The staging buffer goes back. -/
def kvDropBuf (r : SvcReq) (s : State) : SvcReq × State :=
  match r.buf with
  | none => (r, s)
  | some h => ({ r with buf := none }, bpmReturn (svcRequester r.ctx) h s)

/-- The source in u64 form and the length of the next piece of a page, from its byte o on: a converted one is staged in the request's
buffer and in the service area. -/
def kvNextPiece (r : SvcReq) (v : KvStore) (slot o : Nat) (s : State) : Option (Nat × Nat) × State :=
  if kvConverts r v then
    match kvPage (svcBy r) v true slot s with
    | (none, s) => (none, s)
    | (some page, s) =>
      let part := slice page o (min (kvPiece s) (v.psize - o))
      let s := r.buf.elim s fun h => hbmWr (handleAddr h) part s
      (some (2 ^ 63 + kvStage r, part.length), ctxLocWr r.ctx r.pier (kvStage r) part s)
  else (some (v.pbase + slot * kvSsize v, kvLen v (kbDecomp r.bytes)), s)

/-- Pushes the SEND of the next piece of the first page that is left; seq is then the offset in the page past the piece. -/
def kvSendNext (r : SvcReq) (v : KvStore) (s : State) : State :=
  match r.todo with
  | [] => s
  | (k, slot) :: rest =>
    let t := if kvConverts r v then kvTakeBuf r s else (r, s)
    let r := t.1
    if (kvConverts r v && r.buf.isNone) || 256 ≤ (getEng t.2 r.pier eTxe).queue.length then putReq r t.2
    else match kvNextPiece r v slot r.seq t.2 with
      | (none, s) => failReq r s
      | (some (src, n), s) =>
        let last := rest == [] && r.seq + n == kvLen v (kbDecomp r.bytes)
        let cmd := svcSend (rqTag r.bytes) r.slot src (kbData r.bytes + k * kbStride r.bytes + r.seq) n (kbSr r.bytes) last
        putReq { r with stage := 2, seq := r.seq + n } (svcPush r.ctx r.pier r.slot cmd s).2

/-- A piece has been acknowledged: the request goes on to the next, or ends; a stream that fails ends it. -/
def kvSent (r : SvcReq) (v : KvStore) (s : State) : State :=
  match svcAnswer s r.ctx r.pier r.slot with
  | none => s
  | some (st, _) =>
    if st = csFenced ∨ st = csFaulted then endReq r st s
    else if st ≠ csOk then failReq r s
    else
      let (r, s) := kvDropBuf r s
      if r.seq < kvLen v (kbDecomp r.bytes) then putReq { r with stage := 1 } s
      else match r.todo with
        | _ :: y :: rest => putReq { r with stage := 1, seq := 0, todo := y :: rest } s
        | _ => endReq r r.pos s

/-- A step of a KV_GET; its seq is the offset in the page that is being sent, its pos the status of the batch. -/
def kvGetRun (r : SvcReq) (s : State) : State :=
  if r.stage = 0 then kvBatch r s
  else match kvOf s r.ctx (kvStoreNo r.bytes) with
    | none => failReq r s
    | some v => if r.stage = 1 then kvSendNext r v s else kvSent r v s

/-- KV_GET. -/
def execKvGet (x : CtxNo) (w : SvcStep) (s : State) : Host.Outcome State Fault Refusal :=
  .next (svcRow soKvGet x.val w kvBatchFaults kvGetRun s)

end Sys2Proof.Machine
end

