-- ==== Sys2Proof/Machine/Rv.lean ====
section
/-! DEFINITION. The instructions of the control cores (11 R295): RV64IMAC, whose instruction set the spec names and does not
repeat (PRESUMED: log entry 76, from the RISC-V unprivileged specification). A word is read as its fields; a 16-bit instruction
is read as the 32-bit one that it stands for. -/

namespace Sys2Proof.Machine
open Sys2Proof

/-! ### Fields -/

/-- An n-bit number sign-extended to 64 bits. -/
def rvSx (n v : Nat) : Nat := ofInt 64 (toInt n (v % 2 ^ n))

def rvOp (w : Nat) : Nat := w % 2 ^ 7
def rvRd (w : Nat) : Nat := bits w 11 7
def rvF3 (w : Nat) : Nat := bits w 14 12
def rvRs1 (w : Nat) : Nat := bits w 19 15
def rvRs2 (w : Nat) : Nat := bits w 24 20
def rvF7 (w : Nat) : Nat := bits w 31 25

/-- Immediates of the five formats, sign-extended. -/
def rvImmI (w : Nat) : Nat := rvSx 12 (bits w 31 20)
def rvImmS (w : Nat) : Nat := rvSx 12 (2 ^ 5 * rvF7 w + rvRd w)
def rvImmB (w : Nat) : Nat := rvSx 13 (2 ^ 12 * bits w 31 31 + 2 ^ 11 * bits w 7 7 + 2 ^ 5 * bits w 30 25 + 2 * bits w 11 8)
def rvImmU (w : Nat) : Nat := rvSx 32 (2 ^ 12 * bits w 31 12)
def rvImmJ (w : Nat) : Nat := rvSx 21 (2 ^ 20 * bits w 31 31 + 2 ^ 12 * bits w 19 12 + 2 ^ 11 * bits w 20 20 + 2 * bits w 30 21)

/-! Opcodes of the base formats. -/

def opLoad : Nat := 0x03
def opFence : Nat := 0x0F
def opImm : Nat := 0x13
def opAuipc : Nat := 0x17
def opImm32 : Nat := 0x1B
def opStore : Nat := 0x23
def opAmo : Nat := 0x2F
def opReg : Nat := 0x33
def opLui : Nat := 0x37
def opReg32 : Nat := 0x3B
def opBranch : Nat := 0x63
def opJalr : Nat := 0x67
def opJal : Nat := 0x6F

/-! ### Words from fields -/

def rvR (op f7 f3 rd rs1 rs2 : Nat) : Nat := 2 ^ 25 * f7 + 2 ^ 20 * rs2 + 2 ^ 15 * rs1 + 2 ^ 12 * f3 + 2 ^ 7 * rd + op
def rvI (op f3 rd rs1 imm : Nat) : Nat := 2 ^ 20 * (imm % 2 ^ 12) + 2 ^ 15 * rs1 + 2 ^ 12 * f3 + 2 ^ 7 * rd + op
def rvS (f3 rs1 rs2 imm : Nat) : Nat :=
  2 ^ 25 * bits imm 11 5 + 2 ^ 20 * rs2 + 2 ^ 15 * rs1 + 2 ^ 12 * f3 + 2 ^ 7 * bits imm 4 0 + opStore
def rvB (f3 rs1 imm : Nat) : Nat :=
  2 ^ 31 * bits imm 12 12 + 2 ^ 25 * bits imm 10 5 + 2 ^ 15 * rs1 + 2 ^ 12 * f3 + 2 ^ 8 * bits imm 4 1 + 2 ^ 7 * bits imm 11 11 + opBranch
def rvJ (imm : Nat) : Nat :=
  2 ^ 31 * bits imm 20 20 + 2 ^ 21 * bits imm 10 1 + 2 ^ 20 * bits imm 11 11 + 2 ^ 12 * bits imm 19 12 + opJal

/-! ### 16-bit instructions -/

/-- The three-bit register fields. -/
def rcLo (h : Nat) : Nat := 8 + bits h 4 2
def rcHi (h : Nat) : Nat := 8 + bits h 9 7

/-- The six-bit immediate of most forms, sign-extended. -/
def rcImm (h : Nat) : Nat := rvSx 6 (2 ^ 5 * bits h 12 12 + bits h 6 2)
def rcShamt (h : Nat) : Nat := 2 ^ 5 * bits h 12 12 + bits h 6 2

/-- Offsets of word and doubleword loads and stores by register, and by the stack pointer. -/
def rcOffW (h : Nat) : Nat := 8 * bits h 12 10 + 4 * bits h 6 6 + 64 * bits h 5 5
def rcOffD (h : Nat) : Nat := 8 * bits h 12 10 + 64 * bits h 6 5
def rcSpW (h : Nat) : Nat := 32 * bits h 12 12 + 4 * bits h 6 4 + 64 * bits h 3 2
def rcSpD (h : Nat) : Nat := 32 * bits h 12 12 + 8 * bits h 6 5 + 64 * bits h 4 2
def rcSpWs (h : Nat) : Nat := 4 * bits h 12 9 + 64 * bits h 8 7
def rcSpDs (h : Nat) : Nat := 8 * bits h 12 10 + 64 * bits h 9 7

/-- Quadrant 0: loads and stores by register. -/
def rcQ0 (h : Nat) : Option Nat :=
  match bits h 15 13 with
  | 0 =>
    let imm := 16 * bits h 12 11 + 64 * bits h 10 7 + 4 * bits h 6 6 + 8 * bits h 5 5
    if imm = 0 then none else some (rvI opImm 0 (rcLo h) 2 imm)
  | 2 => some (rvI opLoad 2 (rcLo h) (rcHi h) (rcOffW h))
  | 3 => some (rvI opLoad 3 (rcLo h) (rcHi h) (rcOffD h))
  | 6 => some (rvS 2 (rcHi h) (rcLo h) (rcOffW h))
  | 7 => some (rvS 3 (rcHi h) (rcLo h) (rcOffD h))
  | _ => none

/-- The arithmetic forms on the three-bit registers. -/
def rcArith (h : Nat) : Option Nat :=
  let d := rcHi h
  let r := rcLo h
  match bits h 11 10 with
  | 0 => some (rvI opImm 5 d d (rcShamt h))
  | 1 => some (rvI opImm 5 d d (0x400 + rcShamt h))
  | 2 => some (rvI opImm 7 d d (rcImm h))
  | _ => match 4 * bits h 12 12 + bits h 6 5 with
    | 0 => some (rvR opReg 0x20 0 d d r)
    | 1 => some (rvR opReg 0 4 d d r)
    | 2 => some (rvR opReg 0 6 d d r)
    | 3 => some (rvR opReg 0 7 d d r)
    | 4 => some (rvR opReg32 0x20 0 d d r)
    | 5 => some (rvR opReg32 0 0 d d r)
    | _ => none

/-- Quadrant 1: immediates, arithmetic, jumps and branches. -/
def rcQ1 (h : Nat) : Option Nat :=
  let d := bits h 11 7
  let jmp := rvSx 12 (2 ^ 11 * bits h 12 12 + 2 ^ 4 * bits h 11 11 + 2 ^ 8 * bits h 10 9 + 2 ^ 10 * bits h 8 8 +
    2 ^ 6 * bits h 7 7 + 2 ^ 7 * bits h 6 6 + 2 * bits h 5 3 + 2 ^ 5 * bits h 2 2)
  let br := rvSx 9 (2 ^ 8 * bits h 12 12 + 2 ^ 3 * bits h 11 10 + 2 ^ 6 * bits h 6 5 + 2 * bits h 4 3 + 2 ^ 5 * bits h 2 2)
  match bits h 15 13 with
  | 0 => some (rvI opImm 0 d d (rcImm h))
  | 1 => if d = 0 then none else some (rvI opImm32 0 d d (rcImm h))
  | 2 => some (rvI opImm 0 d 0 (rcImm h))
  | 3 =>
    if d = 2 then
      let imm := rvSx 10 (2 ^ 9 * bits h 12 12 + 2 ^ 4 * bits h 6 6 + 2 ^ 6 * bits h 5 5 + 2 ^ 7 * bits h 4 3 + 2 ^ 5 * bits h 2 2)
      if imm = 0 then none else some (rvI opImm 0 2 2 imm)
    else if rcShamt h = 0 then none
    else some (2 ^ 12 * (rcImm h % 2 ^ 20) + 2 ^ 7 * d + opLui)
  | 4 => rcArith h
  | 5 => some (rvJ jmp)
  | 6 => some (rvB 0 (rcHi h) br)
  | _ => some (rvB 1 (rcHi h) br)

/-- Quadrant 2: shifts, loads and stores by the stack pointer, moves and register jumps. -/
def rcQ2 (h : Nat) : Option Nat :=
  let d := bits h 11 7
  let r := bits h 6 2
  match bits h 15 13 with
  | 0 => some (rvI opImm 1 d d (rcShamt h))
  | 2 => if d = 0 then none else some (rvI opLoad 2 d 2 (rcSpW h))
  | 3 => if d = 0 then none else some (rvI opLoad 3 d 2 (rcSpD h))
  | 4 =>
    if bits h 12 12 = 0 then
      if r = 0 then if d = 0 then none else some (rvI opJalr 0 0 d 0)
      else some (rvR opReg 0 0 d 0 r)
    else if r = 0 then some (if d = 0 then 0x00100073 else rvI opJalr 0 1 d 0)
    else some (rvR opReg 0 0 d d r)
  | 6 => some (rvS 2 2 r (rcSpWs h))
  | 7 => some (rvS 3 2 r (rcSpDs h))
  | _ => none

/-- The 32-bit instruction that a 16-bit one stands for; none where it is illegal. -/
def rvExpand (h : Nat) : Option Nat := if h % 4 = 0 then rcQ0 h else if h % 4 = 1 then rcQ1 h else rcQ2 h

/-! ### Arithmetic -/

def rvSigned (v : Nat) : Int := toInt 64 v

/-- The base operations by funct3, and SUB and SRA where alt is 1. -/
def rvAlu (alt : Bool) (f3 a b : Nat) : Nat :=
  match f3 with
  | 0 => if alt then (a + 2 ^ 64 - b % 2 ^ 64) % 2 ^ 64 else (a + b) % 2 ^ 64
  | 1 => a * 2 ^ (b % 64) % 2 ^ 64
  | 2 => if rvSigned a < rvSigned b then 1 else 0
  | 3 => if a < b then 1 else 0
  | 4 => a ^^^ b
  | 5 => if alt then ofInt 64 (rvSigned a / 2 ^ (b % 64)) else a / 2 ^ (b % 64)
  | 6 => a ||| b
  | _ => a &&& b

/-- Quotient and remainder, with the results that RISC-V gives a division by zero; n is the width. -/
def rvDiv (n : Nat) (a b : Int) : Nat := if b = 0 then 2 ^ n - 1 else ofInt n (Int.tdiv a b)
def rvRem (n : Nat) (a b : Int) : Nat := ofInt n (if b = 0 then a else Int.tmod a b)

/-- Multiplication and division by funct3. -/
def rvMul (f3 a b : Nat) : Nat :=
  match f3 with
  | 0 => a * b % 2 ^ 64
  | 1 => ofInt 64 (rvSigned a * rvSigned b / 2 ^ 64)
  | 2 => ofInt 64 (rvSigned a * b / 2 ^ 64)
  | 3 => a * b / 2 ^ 64
  | 4 => rvDiv 64 (rvSigned a) (rvSigned b)
  | 5 => rvDiv 64 a b
  | 6 => rvRem 64 (rvSigned a) (rvSigned b)
  | _ => rvRem 64 a b

/-- The operations on 32-bit words, their result sign-extended; none where funct3 names none. -/
def rvAluW (alt : Bool) (f3 a b : Nat) : Option Nat :=
  let a := a % 2 ^ 32
  match f3 with
  | 0 => some (rvSx 32 (if alt then a + 2 ^ 32 - b % 2 ^ 32 else a + b))
  | 1 => some (rvSx 32 (a * 2 ^ (b % 32)))
  | 5 => some (if alt then ofInt 64 (toInt 32 a / 2 ^ (b % 32)) else rvSx 32 (a / 2 ^ (b % 32)))
  | _ => none

def rvMulW (f3 a b : Nat) : Option Nat :=
  let a := a % 2 ^ 32
  let b := b % 2 ^ 32
  match f3 with
  | 0 => some (rvSx 32 (a * b))
  | 4 => some (rvSx 32 (rvDiv 32 (toInt 32 a) (toInt 32 b)))
  | 5 => some (rvSx 32 (rvDiv 32 a b))
  | 6 => some (rvSx 32 (rvRem 32 (toInt 32 a) (toInt 32 b)))
  | 7 => some (rvSx 32 (rvRem 32 a b))
  | _ => none

/-- A branch is taken, by funct3. -/
def rvTaken (f3 a b : Nat) : Option Bool :=
  match f3 with
  | 0 => some (a == b)
  | 1 => some (a != b)
  | 4 => some (decide (rvSigned a < rvSigned b))
  | 5 => some (decide (rvSigned b ≤ rvSigned a))
  | 6 => some (decide (a < b))
  | 7 => some (decide (b ≤ a))
  | _ => none

/-- What an atomic operation stores, of n bytes, by funct5. -/
def rvAmo (f5 n old v : Nat) : Option Nat :=
  let old := old % 2 ^ (8 * n)
  let v := v % 2 ^ (8 * n)
  let less : Bool := toInt (8 * n) old < toInt (8 * n) v
  match f5 with
  | 0 => some ((old + v) % 2 ^ (8 * n))
  | 1 => some v
  | 4 => some (old ^^^ v)
  | 8 => some (old ||| v)
  | 0xC => some (old &&& v)
  | 0x10 => some (if less then old else v)
  | 0x14 => some (if less then v else old)
  | 0x18 => some (min old v)
  | 0x1C => some (max old v)
  | _ => none

/-! ### What an instruction does -/

/-- An instruction with its operands read: rd and what it writes there; a jump or a branch with what it links; a load, a store, LR,
SC or an atomic operation with its address; ecall and ebreak; none of RV64IMAC. -/
inductive RvIns where
  | write (rd v : Nat)
  | jump (rd target : Nat)
  | branch (taken : Bool) (target : Nat)
  | load (rd a n : Nat) (signed : Bool)
  | store (a n v : Nat)
  | lr (rd a n : Nat)
  | sc (rd a n v : Nat)
  | amo (rd a n f5 v : Nat)
  | fence
  | ecall
  | ebreak
  | illegal
  deriving DecidableEq, Repr

/-- A write of rd, or an illegal instruction. -/
def rvWrite (rd : Nat) : Option Nat → RvIns
  | some v => .write rd v
  | none => .illegal

/-- The instructions on registers and immediates. -/
def rvCompute (op w a b : Nat) : RvIns :=
  let rd := rvRd w
  let f3 := rvF3 w
  let f7 := rvF7 w
  let i := rvImmI w
  if op = opImm then
    if f3 = 1 then if f7 / 2 = 0 then .write rd (rvAlu false 1 a i) else .illegal
    else if f3 = 5 then
      if f7 / 2 = 0 then .write rd (rvAlu false 5 a i) else if f7 / 2 = 0x10 then .write rd (rvAlu true 5 a i) else .illegal
    else .write rd (rvAlu false f3 a i)
  else if op = opImm32 then
    if f3 = 0 then rvWrite rd (rvAluW false 0 a i)
    else if f7 = 0 then rvWrite rd (rvAluW false f3 a (rvRs2 w))
    else if f7 = 0x20 ∧ f3 = 5 then rvWrite rd (rvAluW true 5 a (rvRs2 w))
    else .illegal
  else if op = opReg then
    if f7 = 0 then .write rd (rvAlu false f3 a b)
    else if f7 = 1 then .write rd (rvMul f3 a b)
    else if f7 = 0x20 ∧ (f3 = 0 ∨ f3 = 5) then .write rd (rvAlu true f3 a b)
    else .illegal
  else if f7 = 0 then rvWrite rd (rvAluW false f3 a b)
  else if f7 = 1 then rvWrite rd (rvMulW f3 a b)
  else if f7 = 0x20 ∧ (f3 = 0 ∨ f3 = 5) then rvWrite rd (rvAluW true f3 a b)
  else .illegal

/-- LR, SC and the atomic operations. -/
def rvAtomic (w a b : Nat) : RvIns :=
  let n := 2 ^ rvF3 w
  let f5 := bits w 31 27
  if rvF3 w ≠ 2 ∧ rvF3 w ≠ 3 then .illegal
  else if f5 = 2 then if rvRs2 w = 0 then .lr (rvRd w) a n else .illegal
  else if f5 = 3 then .sc (rvRd w) a n b
  else if (rvAmo f5 n 0 0).isSome then .amo (rvRd w) a n f5 b
  else .illegal

/-- A 32-bit instruction at pc, read with the registers x. -/
def rvDecode (x : Nat → Nat) (pc w : Nat) : RvIns :=
  let op := rvOp w
  let rd := rvRd w
  let f3 := rvF3 w
  let a := x (rvRs1 w)
  let b := x (rvRs2 w)
  let at_ := fun (i : Nat) => (a + i) % 2 ^ 64
  if op = opLui then .write rd (rvImmU w)
  else if op = opAuipc then .write rd ((pc + rvImmU w) % 2 ^ 64)
  else if op = opJal then .jump rd ((pc + rvImmJ w) % 2 ^ 64)
  else if op = opJalr then if f3 = 0 then .jump rd (at_ (rvImmI w) / 2 * 2) else .illegal
  else if op = opBranch then
    match rvTaken f3 a b with
    | some t => .branch t ((pc + rvImmB w) % 2 ^ 64)
    | none => .illegal
  else if op = opLoad then if f3 = 7 then .illegal else .load rd (at_ (rvImmI w)) (2 ^ (f3 % 4)) (f3 < 4)
  else if op = opStore then if f3 < 4 then .store (at_ (rvImmS w)) (2 ^ f3) b else .illegal
  else if op = opImm ∨ op = opImm32 ∨ op = opReg ∨ op = opReg32 then rvCompute op w a b
  else if op = opAmo then rvAtomic w a b
  else if op = opFence then if f3 = 0 then .fence else .illegal
  else if w = 0x00000073 then .ecall
  else if w = 0x00100073 then .ebreak
  else .illegal

end Sys2Proof.Machine
end

