-- ==== Sys2Proof/Machine/Task.lean ====
section
/-! DEFINITION. Tasks on the control cores (11 R295, R296): how one starts, what its instructions do, and how it ends. A core cycle
carries out one instruction of every task; one that pushes a command, or that ends the task, is carried out by QUEUE_PUSH and
TASK_END (DESIGN CHOICE: log entry 84). -/

namespace Sys2Proof.Machine
open Sys2Proof

/-! ### Accesses of the core -/

/-- Why a trap ends a task: an access that the windows deny, a control-core word or an HBM word that its ECC cannot correct, or
anything else (11 R295; 18 R450; 15 R394). -/
inductive TrapWhy where
  | plain | denied | sram | ecc
  deriving DecidableEq, Repr

/-- A trap: why, its RISC-V cause and its address. -/
structure CoreTrap where
  why : TrapWhy
  cause : Nat
  addr : Nat
  deriving DecidableEq, Repr

/-! RISC-V causes. -/

def causeFetch : Nat := 1
def causeIllegal : Nat := 2
def causeBreak : Nat := 3
def causeLoadAlign : Nat := 4
def causeLoad : Nat := 5
def causeStoreAlign : Nat := 6
def causeStore : Nat := 7
def causeEcall : Nat := 8

/-- A u64 address lies in a queue port (11 Table 11.1): the engine and the offset. -/
def portOf (a : Nat) : Option (Nat × Nat) :=
  let l := a % 2 ^ 63
  if isLocal a && decide (0x800000 ≤ l) && decide (l < 0x800200) then some ((l - 0x800000) / 64, (l - 0x800000) % 64) else none

/-- n bytes at a u64 address are local ones that the core reaches. -/
def coreLocal (a n : Nat) : Bool := isLocal a && a % 2 ^ 63 < 2 ^ 24 && localOk eCore (a % 2 ^ 24) n

/-- What forbids an access of n bytes, aligned: an access outside Table 11.1, a window, or an HBM word that a read cannot
correct. -/
def accessTrap (s : State) (x a n : Nat) (perm : Perm) (reads : Bool) (cause : Nat) : Option CoreTrap :=
  if isLocal a then if coreLocal a n || (perm != .c && (portOf a).isSome) then none else some ⟨.plain, cause, a⟩
  else if !winOk s x a n perm then some ⟨.denied, cause, a⟩
  else if reads then (badWord s a n).map fun u => ⟨.ecc, cause, u⟩
  else none

/-- Bytes at a u64 address as the core reads them; a port reads as the free slots of its queue (R296). -/
def coreRd (s : State) (p a n : Nat) : List Byte :=
  match portOf a with
  | some (e, _) => leBytes n (freeSlots s p e)
  | none => if isLocal a then locRd s p (a % 2 ^ 24) n else hbmRd s a n

/-! ### One instruction -/

/-- What an instruction does when it completes: what it writes to rd, the next pc, the reservation, and what it stores. -/
structure CoreDo where
  rd : Nat := 0
  v : Nat := 0
  pc : Nat
  resv : Option (Nat × List Byte)
  wr : Option (Nat × List Byte) := none
  deriving DecidableEq, Repr

/-- What the core's next instruction does: it completes, it ends the task, or it traps. -/
inductive CoreNext where
  | does (d : CoreDo)
  | ecall
  | traps (t : CoreTrap)
  deriving DecidableEq, Repr

/-- A register of a core: x0 reads 0. -/
def coreReg (c : RvCore) (i : Nat) : Nat := if i = 0 then 0 else smGet 0 c.x i

/-- A parcel of code at pc: 16 bits, or the trap of its fetch. -/
def parcelAt (s : State) (p x pc : Nat) : Except CoreTrap Nat :=
  match accessTrap s x pc 2 .c true causeFetch with
  | some t => .error t
  | none => .ok (le (coreRd s p pc 2) 0 2)

/-- The instruction at pc as a 32-bit word, with its length; the word 0 is illegal. -/
def codeAt (s : State) (p x pc : Nat) : Except CoreTrap (Nat × Nat) :=
  if pc % 2 = 1 then .error ⟨.plain, 0, pc⟩
  else match parcelAt s p x pc with
    | .error t => .error t
    | .ok h =>
      if h % 4 ≠ 3 then .ok ((rvExpand h).getD 0, 2)
      else match parcelAt s p x ((pc + 2) % 2 ^ 64) with
        | .error t => .error t
        | .ok g => .ok (h + 2 ^ 16 * g, 4)

/-- A load, or the read of LR. -/
def coreLoad (s : State) (p x a n : Nat) (k : List Byte → CoreDo) : CoreNext :=
  if a % n ≠ 0 then .traps ⟨.plain, causeLoadAlign, a⟩
  else match accessTrap s x a n .rd true causeLoad with
    | some t => .traps t
    | none => .does (k (coreRd s p a n))

/-- A store. -/
def coreStore (s : State) (x a n : Nat) (d : CoreDo) : CoreNext :=
  if a % n ≠ 0 then .traps ⟨.plain, causeStoreAlign, a⟩
  else match accessTrap s x a n .w false causeStore with
    | some t => .traps t
    | none => .does d

/-- SC or an atomic operation: both a read and a write, of no port. -/
def coreAtomic (s : State) (p x a n : Nat) (k : List Byte → CoreDo) : CoreNext :=
  if a % n ≠ 0 then .traps ⟨.plain, causeStoreAlign, a⟩
  else if (portOf a).isSome then .traps ⟨.plain, causeStore, a⟩
  else match accessTrap s x a n .rd true causeStore, accessTrap s x a n .w false causeStore with
    | some t, _ => .traps t
    | none, some t => .traps t
    | none, none => .does (k (coreRd s p a n))

/-- What an instruction of length len does for a core. -/
def coreIns (s : State) (p x len : Nat) (c : RvCore) (i : RvIns) : CoreNext :=
  let next := (c.pc + len) % 2 ^ 64
  let on : CoreDo := { pc := next, resv := c.resv }
  match i with
  | .write rd v => .does { on with rd := rd, v := v }
  | .jump rd t => .does { on with rd := rd, v := next, pc := t }
  | .branch t a => .does { on with pc := if t then a else next }
  | .load rd a n sg => coreLoad s p x a n fun b => { on with rd := rd, v := if sg then rvSx (8 * n) (le b 0 n) else le b 0 n }
  | .store a n v => coreStore s x a n { on with wr := some (a, leBytes n v) }
  | .lr rd a n => coreLoad s p x a n fun b => { on with rd := rd, v := rvSx (8 * n) (le b 0 n), resv := some (a, b) }
  | .sc rd a n v => coreAtomic s p x a n fun b =>
      if c.resv = some (a, b) then { on with rd := rd, v := 0, resv := none, wr := some (a, leBytes n v) }
      else { on with rd := rd, v := 1, resv := none }
  | .amo rd a n f5 v => coreAtomic s p x a n fun b =>
      { on with rd := rd, v := rvSx (8 * n) (le b 0 n), wr := some (a, leBytes n ((rvAmo f5 n (le b 0 n) v).getD 0)) }
  | .fence => .does on
  | .ecall => if coreReg c 17 = 0 then .ecall else .traps ⟨.plain, causeEcall, 0⟩
  | .ebreak => .traps ⟨.plain, causeBreak, c.pc⟩
  | .illegal => .traps ⟨.plain, causeIllegal, 0⟩

/-- What the next instruction of pier p's core does for context x. -/
def coreNext (s : State) (p x : Nat) : CoreNext :=
  let c := (getPier s p).core
  match codeAt s p x c.pc with
  | .error t => .traps t
  | .ok (w, len) => coreIns s p x len c (rvDecode (coreReg c) c.pc w)

/-- The queue port whose byte 0x3F an instruction writes: it pushes a command (R296). -/
def pushesTo (d : CoreDo) : Option Nat :=
  match d.wr with
  | some (a, b) => match portOf a with
    | some (e, off) => if off + b.length = 64 then some e else none
    | none => none
  | none => none

/-- Stores of the core: to a port's staging, a local store, or HBM. -/
def coreWr (p : Nat) (wr : Option (Nat × List Byte)) (s : State) : State :=
  match wr with
  | none => s
  | some (a, b) => match portOf a with
    | some (e, off) => stagePort p e off b s
    | none => if isLocal a then locWr p (a % 2 ^ 24) b s else hbmWr a b s

/-- An instruction completes. -/
def coreDoes (p : Nat) (d : CoreDo) (s : State) : State :=
  let s := onPier p (fun q => { q with core := { pc := d.pc, resv := d.resv,
                                                 x := if d.rd = 0 then q.core.x else smPut 0 q.core.x d.rd d.v } }) s
  coreWr p d.wr s

/-- The task that runs on a pier, its context's, where the core is not stalled and its stores are not being copied (R296; 01
R28). -/
def runningTask (s : State) (p : Nat) : Option Grant :=
  let q := getPier s p
  if q.stalled.isNone && isOn s (fnPier p) && !beingCopied s p then q.task else none

/-- One core cycle of a pier's control core. -/
def tickCore (s : State) (p : Nat) : State :=
  match runningTask s p with
  | none => s
  | some g => match coreNext s p g.ctx with
    | .does d => if (pushesTo d).isSome then s else coreDoes p d s
    | _ => s

/-- One core cycle of every control core that runs a task. -/
def tickCores (s : State) : State := ((s.pr.piers.filter fun q => q.2.task.isSome).map Prod.fst).foldl tickCore s

/-! ### Tasks -/

/-- Who makes the accesses of a task. -/
def taskBy (s : State) (p : Nat) (g : Grant) : By :=
  { ctx := g.ctx, pier := p, tag := ((entryOf s p g).map fun e => wqTag e.bytes).getD 0, engine := eCore }

/-- A task ends by a trap: the record of what caused it, CORE_TRAP, and its entry is FAULTED (R295). -/
def trapTask (p : Nat) (g : Grant) (t : CoreTrap) (s : State) : State :=
  let w := taskBy s p g
  let pc := (getPier s p).core.pc
  let s := match t.why with
    | .plain => s
    | .denied => byDenied w t.addr s
    | .sram => byFault w 0x120C (t.addr % 2 ^ 24) s
    | .ecc => byMemUe w t.addr s
  endTask p g true (byFault w 0x0B02 (2 ^ 32 * (pc % 2 ^ 32) + t.cause % 2 ^ 16) s)

/-- The next grant of pier p is a service grant of context x, which is due (14 R362). -/
def serviceFirst (s : State) (x p : Nat) : Bool := (getPier s p).svcTurn && svcDue s x p

/-- TASK_START: the waiting grant of pier p starts task code on its control core. -/
def execTaskStart (p : PierNo) (s : State) : Host.Outcome State Fault Refusal :=
  let p := p.val
  let q := getPier s p
  match q.grant with
  | none => .next s
  | some g =>
    if q.task.isSome || !pierReady s p || !mayGrant s g.ctx (p / 16) || serviceFirst s g.ctx p then .next s
    else
      let b := ((entryOf s p g).map fun e => e.bytes).getD []
      let c : RvCore := { pc := wqPc b, x := taskRegs b g p (positionOf s p), resv := none }
      let s := onPier p (fun q => { q with grant := none, task := some g, core := c, svcTurn := true }) s
      .next (handOut g.ctx (p / 16) (traced { kind := 6, engine := eCore, pier := p, ctx := g.ctx, tag := wqTag b } s))

/-- An SRAM word that an instruction fetches or reads cannot be corrected (18 R450): the trap, at a load's address or at pc. -/
def sramTrap (s : State) (p x : Nat) : CoreTrap :=
  let c := (getPier s p).core
  match codeAt s p x c.pc with
  | .ok (w, _) => match rvDecode (coreReg c) c.pc w with
    | .load _ a _ _ => ⟨.sram, causeLoad, a⟩
    | .lr _ a _ => ⟨.sram, causeLoad, a⟩
    | .amo _ a _ _ _ => ⟨.sram, causeStore, a⟩
    | _ => ⟨.sram, causeFetch, c.pc⟩
  | _ => ⟨.sram, causeFetch, c.pc⟩

/-- TASK_END: the next instruction of pier p's task ends it: an ecall with a7 = 0, or a trap; sram says that a word that it reads
cannot be corrected. -/
def execTaskEnd (p : PierNo) (sram : Bool) (s : State) : Host.Outcome State Fault Refusal :=
  let p := p.val
  match runningTask s p with
  | none => .next s
  | some g =>
    if sram then .next (trapTask p g (sramTrap s p g.ctx) s)
    else match coreNext s p g.ctx with
      | .does _ => .next s
      | .ecall => .next (endTask p g false s)
      | .traps t => .next (trapTask p g t s)

/-- QUEUE_PUSH: the next instruction of pier p's task stores byte 0x3F of a queue port: the staged command is pushed, or the core
stalls while the queue holds 256. -/
def execQueuePush (p : PierNo) (s : State) : Host.Outcome State Fault Refusal :=
  let p := p.val
  match runningTask s p with
  | none => .next s
  | some g => match coreNext s p g.ctx with
    | .does d => match pushesTo d with
      | some e => .next (pushStaged p e (coreDoes p d s))
      | none => .next s
    | _ => .next s

end Sys2Proof.Machine
end

