-- ==== Sys2Proof/Machine/Dispatch.lean ====
section
/-! DEFINITION. The meaning of every command: one direct call of its own definition. -/

namespace Sys2Proof.Machine
open Sys2Proof

def exec (i : Instr) (s : State) : Host.Outcome State Fault Refusal :=
  match i with
  | .resetLAssert => Sys2Proof.Machine.execResetLAssert s
  | .fullReset => Sys2Proof.Machine.execFullReset s
  | .resetEnd => Sys2Proof.Machine.execResetEnd s
  | .viaductTraining f01 f10 => Sys2Proof.Machine.execViaductTraining f01 f10 s
  | .bootRom selfTest failed => Sys2Proof.Machine.execBootRom selfTest failed s
  | .housekeepingStart => Sys2Proof.Machine.execHousekeepingStart s
  | .sequencerStart => Sys2Proof.Machine.execSequencerStart s
  | .railInWindow k => Sys2Proof.Machine.execRailInWindow k s
  | .pllLock => Sys2Proof.Machine.execPllLock s
  | .sequencerFault k => Sys2Proof.Machine.execSequencerFault k s
  | .pwrEnDeassert => Sys2Proof.Machine.execPwrEnDeassert s
  | .inputOutOfRange => Sys2Proof.Machine.execInputOutOfRange s
  | .thermalTrip => Sys2Proof.Machine.execThermalTrip s
  | .seqLatchClear => Sys2Proof.Machine.execSeqLatchClear s
  | .viaductFlit d corrected => Sys2Proof.Machine.execViaductFlit d corrected s
  | .gulaneFrame p frame seen => Sys2Proof.Machine.execGulaneFrame p frame seen s
  | .read p t seen rival => Sys2Proof.Machine.execRead p t seen rival s
  | .write p t rival => Sys2Proof.Machine.execWrite p t rival s
  | .doorbell p t => Sys2Proof.Machine.execDoorbell p t s
  | .registerWrite p a w rival => Sys2Proof.Machine.execRegisterWrite p a w rival s
  | .rcRead r a => Sys2Proof.Machine.execRcRead r a s
  | .latchedRead p a => Sys2Proof.Machine.execLatchedRead p a s
  | .ksAcquire r => Sys2Proof.Machine.execKsAcquire r s
  | .renew p ticket => Sys2Proof.Machine.execRenew p ticket s
  | .release p ticket => Sys2Proof.Machine.execRelease p ticket s
  | .deviceReset p ticket => Sys2Proof.Machine.execDeviceReset p ticket s
  | .leaseExpire => Sys2Proof.Machine.execLeaseExpire s
  | .holdOffEnd => Sys2Proof.Machine.execHoldOffEnd s
  | .die1RecordUpdate => Sys2Proof.Machine.execDie1RecordUpdate s
  | .shadowWrite p x off w => Sys2Proof.Machine.execShadowWrite p x off w s
  | .commit p => Sys2Proof.Machine.execCommit p s
  | .discard p => Sys2Proof.Machine.execDiscard p s
  | .protCheckEnd => Sys2Proof.Machine.execProtCheckEnd s
  | .protEpoch => Sys2Proof.Machine.execProtEpoch s
  | .auditPass seen cycles => Sys2Proof.Machine.execAuditPass seen cycles s
  | .imgLoad p => Sys2Proof.Machine.execImgLoad p s
  | .imgAbort p => Sys2Proof.Machine.execImgAbort p s
  | .imgDisarm p => Sys2Proof.Machine.execImgDisarm p s
  | .validationEnd cycles => Sys2Proof.Machine.execValidationEnd cycles s
  | .commitEnd => Sys2Proof.Machine.execCommitEnd s
  | .flip p => Sys2Proof.Machine.execFlip p s
  | .retire p => Sys2Proof.Machine.execRetire p s
  | .packetArrive k bytes unc sram => Sys2Proof.Machine.execPacketArrive k bytes unc sram s
  | .resequencerRelease n j cls => Sys2Proof.Machine.execResequencerRelease n j cls s
  | .egressStart k => Sys2Proof.Machine.execEgressStart k s
  | .ageDrop k bulk => Sys2Proof.Machine.execAgeDrop k bulk s
  | .sampleTick => Sys2Proof.Machine.execSampleTick s
  | .throttleWindow => Sys2Proof.Machine.execThrottleWindow s
  | .credit k bytes => Sys2Proof.Machine.execCredit k bytes s
  | .linkPacketSend k => Sys2Proof.Machine.execLinkPacketSend k s
  | .put p => Sys2Proof.Machine.execPut p s
  | .sendPacket p => Sys2Proof.Machine.execSendPacket p s
  | .getReq p => Sys2Proof.Machine.execGetReq p s
  | .getRsp p => Sys2Proof.Machine.execGetRsp p s
  | .ack u => Sys2Proof.Machine.execAck u s
  | .nack u => Sys2Proof.Machine.execNack u s
  | .evictNotice u => Sys2Proof.Machine.execEvictNotice u s
  | .ackTimer r => Sys2Proof.Machine.execAckTimer r s
  | .retransmitTimeout r => Sys2Proof.Machine.execRetransmitTimeout r s
  | .trainingPhasePass g l inverted peerMode peerBreakout peerLane skew => Sys2Proof.Machine.execTrainingPhasePass g l inverted peerMode peerBreakout peerLane skew s
  | .laneTrainTimeout g l => Sys2Proof.Machine.execLaneTrainTimeout g l s
  | .alignmentLost g l => Sys2Proof.Machine.execAlignmentLost g l s
  | .fecDegrade g l symbols => Sys2Proof.Machine.execFecDegrade g l symbols s
  | .cwyCtrlOpen p j o => Sys2Proof.Machine.execCwyCtrlOpen p j o s
  | .cwyMotionEnd j => Sys2Proof.Machine.execCwyMotionEnd j s
  | .driveFault => Sys2Proof.Machine.execDriveFault s
  | .bpmMetaBaseWrite p w => Sys2Proof.Machine.execBpmMetaBaseWrite p w s
  | .toRing p => Sys2Proof.Machine.execToRing p s
  | .toList p => Sys2Proof.Machine.execToList p s
  | .bpmSwitchEnd => Sys2Proof.Machine.execBpmSwitchEnd s
  | .bpmRequest x c n => Sys2Proof.Machine.execBpmRequest x c n s
  | .bpmWaitingServed k => Sys2Proof.Machine.execBpmWaitingServed k s
  | .bpmReturn x c h => Sys2Proof.Machine.execBpmReturn x c h s
  | .nanClear x => Sys2Proof.Machine.execNanClear x s
  | .native n k x => Sys2Proof.Machine.execNative n k x s
  | .anchored n k x => Sys2Proof.Machine.execAnchored n k x s
  | .fast n k x => Sys2Proof.Machine.execFast n k x s
  | .exponent u up k => Sys2Proof.Machine.execExponent u up k s
  | .scanOffset n k x => Sys2Proof.Machine.execScanOffset n k x s
  | .result u k => Sys2Proof.Machine.execResult u k s
  | .inPkt n k stepwise => Sys2Proof.Machine.execInPkt n k stepwise s
  | .part n k stepwise => Sys2Proof.Machine.execPart n k stepwise s
  | .outPkt u entries => Sys2Proof.Machine.execOutPkt u entries s
  | .endPkt u k => Sys2Proof.Machine.execEndPkt u k s
  | .gatheredStage n stepwise sram => Sys2Proof.Machine.execGatheredStage n stepwise sram s
  | .nop n => Sys2Proof.Machine.execNop n s
  | .add n => Sys2Proof.Machine.execAdd n s
  | .min n => Sys2Proof.Machine.execMin n s
  | .max n => Sys2Proof.Machine.execMax n s
  | .mul n => Sys2Proof.Machine.execMul n s
  | .addi n => Sys2Proof.Machine.execAddi n s
  | .muli n => Sys2Proof.Machine.execMuli n s
  | .movi n => Sys2Proof.Machine.execMovi n s
  | .movp n => Sys2Proof.Machine.execMovp n s
  | .getid n => Sys2Proof.Machine.execGetid n s
  | .cmp n => Sys2Proof.Machine.execCmp n s
  | .cmpi n => Sys2Proof.Machine.execCmpi n s
  | .plog n => Sys2Proof.Machine.execPlog n s
  | .sel n => Sys2Proof.Machine.execSel n s
  | .cvt n => Sys2Proof.Machine.execCvt n s
  | .gather n => Sys2Proof.Machine.execGather n s
  | .scatter n => Sys2Proof.Machine.execScatter n s
  | .fetchadd n => Sys2Proof.Machine.execFetchadd n s
  | .hist n => Sys2Proof.Machine.execHist n s
  | .count n => Sys2Proof.Machine.execCount n s
  | .prev n => Sys2Proof.Machine.execPrev n s
  | .sort n => Sys2Proof.Machine.execSort n s
  | .topk n => Sys2Proof.Machine.execTopk n s
  | .filter n => Sys2Proof.Machine.execFilter n s
  | .drop n => Sys2Proof.Machine.execDrop n s
  | .temit n => Sys2Proof.Machine.execTemit n s
  | .hpart n => Sys2Proof.Machine.execHpart n s
  | .emit n => Sys2Proof.Machine.execEmit n s
  | .progLoad p slot => Sys2Proof.Machine.execProgLoad p slot s
  | .progClear p slot => Sys2Proof.Machine.execProgClear p slot s
  | .progLoadEnd cycles => Sys2Proof.Machine.execProgLoadEnd cycles s
  | .coll p x sram => Sys2Proof.Machine.execColl p x sram s
  | .collWatchdog p t c => Sys2Proof.Machine.execCollWatchdog p t c s
  | .rseWatchdog n t c => Sys2Proof.Machine.execRseWatchdog n t c s
  | .barrierArrive k => Sys2Proof.Machine.execBarrierArrive k s
  | .barrierRelease u => Sys2Proof.Machine.execBarrierRelease u s
  | .barrierReleaseAck => Sys2Proof.Machine.execBarrierReleaseAck s
  | .barrierResend => Sys2Proof.Machine.execBarrierResend s
  | .barrierFire => Sys2Proof.Machine.execBarrierFire s
  | .pierCopyEnd p => Sys2Proof.Machine.execPierCopyEnd p s
  | .rivetRetireApply p g => Sys2Proof.Machine.execRivetRetireApply p g s
  | .timestampTimer => Sys2Proof.Machine.execTimestampTimer s
  | .timestampReq k bytes => Sys2Proof.Machine.execTimestampReq k bytes s
  | .timestampRsp k bytes => Sys2Proof.Machine.execTimestampRsp k bytes s
  | .ptpMessage p bytes => Sys2Proof.Machine.execPtpMessage p bytes s
  | .hint u => Sys2Proof.Machine.execHint u s
  | .wqEntry x j => Sys2Proof.Machine.execWqEntry x j s
  | .wqEntryComplete x j => Sys2Proof.Machine.execWqEntryComplete x j s
  | .taskStart p => Sys2Proof.Machine.execTaskStart p s
  | .taskEnd p sram => Sys2Proof.Machine.execTaskEnd p sram s
  | .queuePush p => Sys2Proof.Machine.execQueuePush p s
  | .commandDequeue p e => Sys2Proof.Machine.execCommandDequeue p e s
  | .commandComplete p e => Sys2Proof.Machine.execCommandComplete p e s
  | .sync p e => Sys2Proof.Machine.execSync p e s
  | .matmul p g x => Sys2Proof.Machine.execMatmul p g x s
  | .matmulSend p g x => Sys2Proof.Machine.execMatmulSend p g x s
  | .convert p g sram => Sys2Proof.Machine.execConvert p g sram s
  | .elemwise p g sram => Sys2Proof.Machine.execElemwise p g sram s
  | .softmax p g sram => Sys2Proof.Machine.execSoftmax p g sram s
  | .norm p g sram => Sys2Proof.Machine.execNorm p g sram s
  | .lreduce p g sram => Sys2Proof.Machine.execLreduce p g sram s
  | .load p x sram => Sys2Proof.Machine.execLoad p x sram s
  | .loadRowSelection p x sram => Sys2Proof.Machine.execLoadRowSelection p x sram s
  | .loadListin p x sram => Sys2Proof.Machine.execLoadListin p x sram s
  | .store p x sram => Sys2Proof.Machine.execStore p x sram s
  | .send p x sram => Sys2Proof.Machine.execSend p x sram s
  | .get p => Sys2Proof.Machine.execGet p s
  | .getWatchdog p tag => Sys2Proof.Machine.execGetWatchdog p tag s
  | .srOpen p => Sys2Proof.Machine.execSrOpen p s
  | .srClose p => Sys2Proof.Machine.execSrClose p s
  | .recvOneshot p => Sys2Proof.Machine.execRecvOneshot p s
  | .recvStanding p => Sys2Proof.Machine.execRecvStanding p s
  | .recvExpose p => Sys2Proof.Machine.execRecvExpose p s
  | .recvCancel p => Sys2Proof.Machine.execRecvCancel p s
  | .microprogram p g => Sys2Proof.Machine.execMicroprogram p g s
  | .setx p g => Sys2Proof.Machine.execSetx p g s
  | .addx p g => Sys2Proof.Machine.execAddx p g s
  | .lda p g sram => Sys2Proof.Machine.execLda p g sram s
  | .ldb p g sram => Sys2Proof.Machine.execLdb p g sram s
  | .stc p g => Sys2Proof.Machine.execStc p g s
  | .mac p g stall bad => Sys2Proof.Machine.execMac p g stall bad s
  | .rdacc p g stall => Sys2Proof.Machine.execRdacc p g stall s
  | .vop p g stall => Sys2Proof.Machine.execVop p g stall s
  | .vpopa p g stall => Sys2Proof.Machine.execVpopa p g stall s
  | .vpush p g stall => Sys2Proof.Machine.execVpush p g stall s
  | .vset p g stall => Sys2Proof.Machine.execVset p g stall s
  | .zacc p g stall => Sys2Proof.Machine.execZacc p g stall s
  | .loop p g exe stall => Sys2Proof.Machine.execLoop p g exe stall s
  | .uprogEnd p g exe => Sys2Proof.Machine.execUprogEnd p g exe s
  | .residentSwitchStart p j k w => Sys2Proof.Machine.execResidentSwitchStart p j k w s
  | .ctxSwitch j k cycles => Sys2Proof.Machine.execCtxSwitch j k cycles s
  | .pierFlagWrite p q k w => Sys2Proof.Machine.execPierFlagWrite p q k w s
  | .tightrope q => Sys2Proof.Machine.execTightrope q s
  | .breakResume p q => Sys2Proof.Machine.execBreakResume p q s
  | .breakStep p q => Sys2Proof.Machine.execBreakStep p q s
  | .traceEnable p j w => Sys2Proof.Machine.execTraceEnable p j w s
  | .traceRecordWrite j cycles => Sys2Proof.Machine.execTraceRecordWrite j cycles s
  | .optStep x w cycles => Sys2Proof.Machine.execOptStep x w cycles s
  | .optAccum x w => Sys2Proof.Machine.execOptAccum x w s
  | .kvOpen x w => Sys2Proof.Machine.execKvOpen x w s
  | .kvClose x w => Sys2Proof.Machine.execKvClose x w s
  | .kvPut x w => Sys2Proof.Machine.execKvPut x w s
  | .kvGet x w => Sys2Proof.Machine.execKvGet x w s
  | .kvDrop x w => Sys2Proof.Machine.execKvDrop x w s
  | .kvPin x w => Sys2Proof.Machine.execKvPin x w s
  | .dispatch x w => Sys2Proof.Machine.execDispatch x w s
  | .combine x w => Sys2Proof.Machine.execCombine x w s
  | .agtSendState x w cycles => Sys2Proof.Machine.execAgtSendState x w cycles s
  | .agtDigest x w cycles => Sys2Proof.Machine.execAgtDigest x w cycles s
  | .agtQuiesce x w => Sys2Proof.Machine.execAgtQuiesce x w s
  | .agtResume x w => Sys2Proof.Machine.execAgtResume x w s
  | .agtCancel x w => Sys2Proof.Machine.execAgtCancel x w s
  | .svcRequestComplete x j => Sys2Proof.Machine.execSvcRequestComplete x j s
  | .refresh st cycles => Sys2Proof.Machine.execRefresh st cycles s
  | .scrub st x cycles => Sys2Proof.Machine.execScrub st x cycles s
  | .retrain p st pch => Sys2Proof.Machine.execRetrain p st pch s
  | .retrainEnd st ok cycles => Sys2Proof.Machine.execRetrainEnd st ok cycles s
  | .stackTempRead st t => Sys2Proof.Machine.execStackTempRead st t s
  | .bwstepWindow st => Sys2Proof.Machine.execBwstepWindow st s
  | .repair p st pch ext => Sys2Proof.Machine.execRepair p st pch ext s
  | .memCancel p st => Sys2Proof.Machine.execMemCancel p st s
  | .repairCopyEnd st cycles => Sys2Proof.Machine.execRepairCopyEnd st cycles s
  | .tgStart p st k ctl => Sys2Proof.Machine.execTgStart p st k ctl s
  | .tgDone st k errs cycles => Sys2Proof.Machine.execTgDone st k errs cycles s
  | .referenceLost => Sys2Proof.Machine.execReferenceLost s
  | .referenceReturn => Sys2Proof.Machine.execReferenceReturn s
  | .relockEnd => Sys2Proof.Machine.execRelockEnd s
  | .railSample rails act => Sys2Proof.Machine.execRailSample rails act s
  | .controlPeriod => Sys2Proof.Machine.execControlPeriod s
  | .rampEnd j => Sys2Proof.Machine.execRampEnd j s
  | .forceEnd => Sys2Proof.Machine.execForceEnd s
  | .dieTempSample t0 t1 => Sys2Proof.Machine.execDieTempSample t0 t1 s
  | .clearCons p => Sys2Proof.Machine.execClearCons p s
  | .sendHint p => Sys2Proof.Machine.execSendHint p s
  | .hintHoldEnd => Sys2Proof.Machine.execHintHoldEnd s
  | .turnstilePeriod => Sys2Proof.Machine.execTurnstilePeriod s
  | .loadFw p => Sys2Proof.Machine.execLoadFw p s
  | .fwCheckEnd => Sys2Proof.Machine.execFwCheckEnd s
  | .enroll p => Sys2Proof.Machine.execEnroll p s
  | .enrollEnd => Sys2Proof.Machine.execEnrollEnd s
  | .attestationGo p n => Sys2Proof.Machine.execAttestationGo p n s
  | .attestationDone n => Sys2Proof.Machine.execAttestationDone n s
  | .enable p f => Sys2Proof.Machine.execEnable p f s
  | .disable p f => Sys2Proof.Machine.execDisable p f s
  | .funcStartEnd f => Sys2Proof.Machine.execFuncStartEnd f s
  | .funcDrainEnd f => Sys2Proof.Machine.execFuncDrainEnd f s
  | .limitOverrun f => Sys2Proof.Machine.execLimitOverrun f s
  | .gulaneReenable n => Sys2Proof.Machine.execGulaneReenable n s
  | .standby p => Sys2Proof.Machine.execStandby p s
  | .beginLoad p => Sys2Proof.Machine.execBeginLoad p s
  | .loaded p => Sys2Proof.Machine.execLoaded p s
  | .arm p => Sys2Proof.Machine.execArm p s
  | .abort p => Sys2Proof.Machine.execAbort p s
  | .spareRelease p => Sys2Proof.Machine.execSpareRelease p s
  | .spareLoadWatchdog => Sys2Proof.Machine.execSpareLoadWatchdog s
  | .sentinelVector d r => Sys2Proof.Machine.execSentinelVector d r s
  | .sentinelRetest d r => Sys2Proof.Machine.execSentinelRetest d r s
  | .retireRequest p kind span pier g r => Sys2Proof.Machine.execRetireRequest p kind span pier g r s
  | .kick => Sys2Proof.Machine.execKick s
  | .fwWatchdog => Sys2Proof.Machine.execFwWatchdog s
  | .ctxResume p x => Sys2Proof.Machine.execCtxResume p x s
  | .mgmtId pec => Sys2Proof.Machine.execMgmtId pec s
  | .seqFault pec => Sys2Proof.Machine.execSeqFault pec s
  | .seqState pec => Sys2Proof.Machine.execSeqState pec s
  | .vin pec sample => Sys2Proof.Machine.execVin pec sample s
  | .iinA pec sample => Sys2Proof.Machine.execIinA pec sample s
  | .iinB pec sample => Sys2Proof.Machine.execIinB pec sample s
  | .deviceId pec => Sys2Proof.Machine.execDeviceId pec s
  | .moduleSn pec => Sys2Proof.Machine.execModuleSn pec s
  | .bypass => Sys2Proof.Machine.execBypass s
  | .idcode => Sys2Proof.Machine.execIdcode s
  | .samplePreload pins load => Sys2Proof.Machine.execSamplePreload pins load s
  | .extest pins load => Sys2Proof.Machine.execExtest pins load s
  | .housekeepingSupplyOff => Sys2Proof.Machine.execHousekeepingSupplyOff s
  | .resendAfterRto r => Sys2Proof.Machine.execResendAfterRto r s
  | .egressPacketEnd k => Sys2Proof.Machine.execEgressPacketEnd k s

end Sys2Proof.Machine
end

