-- ==== Sys2Proof/Machine/Tick.lean ====
section
/-! DEFINITION. What a core cycle does whatever is commanded: it is what an empty queue of commands lets pass (DESIGN CHOICE: log entry 1). -/

namespace Sys2Proof.Machine
open Sys2Proof

/-- The core clock runs: the PLL is locked and no full reset is under way (16 R404, 17 R430). -/
def coreRuns (s : State) : Bool := rbit s A.clkStatus 31 && !s.pwr.inReset

/-- One core cycle: fabric time advances, the carousel moves cells, the shaping buckets fill, and the control cores carry out one
instruction each. -/
def coreCycle (s : State) : State := if coreRuns s then tickCores (tickBuckets (tickCarousel (tickTime s))) else s

end Sys2Proof.Machine
end

