-- ==== Sys2Proof/Machine/Step.lean ====
section
/-! DEFINITION. The step of the block: the command at the front of the queue is run on the state with the queue's rest; on an
empty queue a core cycle passes. No command has bits in the table, so no word spells one. -/

namespace Sys2Proof.Machine
open Sys2Proof

/-- One step: takes the command at the front of the queue and runs it on the rest; an empty queue lets a core cycle pass (log
entry 1). -/
def step (s : State) : Host.Outcome State Fault Refusal :=
  match s.pending with
  | [] => .next (coreCycle s)
  | c :: r => exec c { s with pending := r }

/-- The state with the command that a word spells put at the front of its queue; no row has bits, so none does. -/
def State.withFetchWord (s : State) (nbits w : Nat) : State :=
  match decodeTableWord nbits w with
  | some c => { s with pending := c :: s.pending }
  | none => s

end Sys2Proof.Machine
end

