-- ==== Sys2Proof/Safety.lean ====
section
/-! DEFINITION. What a sound state is, in the terms that the statements use: canonical memories, the invariant of the Keystone's
arbiters, what burnt fuses keep, what a full reset leaves, and which commands may move the Keystone. -/

namespace Sys2Proof.Machine
open Sys2Proof

/-- Memory, registers and local stores are in their canonical forms, so that equal contents are equal data. -/
structure Canonical (s : State) : Prop where
  hbm : Memory.wf s.hbm
  regs : SmWf regReset s.regs
  store : SmWf (fun _ => (0 : Byte)) s.pr.store

/-- What the two register arbiters keep among themselves (03 R68-R72): die 1 records the holder, or still the last one while the
hold-off after a release runs; in a hold-off nobody holds the Keystone; only a hold-off makes an acquire wait; the ticket is a
u16, and no grant has ticket 0. -/
structure KsInv (k : Keystone) : Prop where
  dies : ∀ q, k.die1 = some q → k.holder = some q ∨ (k.holder = none ∧ k.holdOff = true)
  off : k.holdOff = true → k.holder = none
  wait : k.waiting ≠ [] → k.holdOff = true
  ticket : k.ticket ≤ 0xFFFF ∧ (k.holder ≠ none → k.ticket ≠ 0)

/-- A step of the arbiters keeps their invariant. -/
def KsKeep (a k : Keystone) : Prop := KsInv a → KsInv k

/-- Port p is ON with nothing that waits, and holds the Keystone, in the record of both dies (03 R61, R67, R72). -/
abbrev Holds (s : State) (p : GPort) : Prop := portReady s p = true ∧ s.ks.holder = some p ∧ s.ks.die1 = some p

/-- Port p is ON with nothing that waits, and does not hold the Keystone, in the record of either die. -/
abbrev HoldsNot (s : State) (p : GPort) : Prop := portReady s p = true ∧ s.ks.holder ≠ some p ∧ s.ks.die1 ≠ some p

/-- What a register access of port p at address a leaves, once its effect is done: it returned data d and a status (03 Table 3.4). -/
def accessed (p : GPort) (a : Nat) (d : Word) (st : Nat) (s : State) : State := { s with out := s.out ++ [.access p a d st] }

/-- What a signer slot was, it stays: enrolled with its digest, and revoked (17 R435). -/
structure SlotLe (a b : SignerSlot) : Prop where
  enrolled : a.enrolled = true → b.enrolled = true ∧ b.digest = a.digest
  revoked : a.revoked = true → b.revoked = true

/-- Every signer slot stays what it was. -/
def OtpLe (a b : Otp) : Prop := ∀ k, SlotLe (slotAt a k) (slotAt b k)

/-- What a full reset leaves of a state s (17 R430), but for CLK_STATUS, the root PLL's live word: every register at its reset
value or its fuses' value, HBM undefined, and everything of the Keystone, protection, image, power control, fabric, piers, stacks,
services and time as after power-up. Fuses, the test port, what was sent and the queue stay. -/
structure AfterFullReset (s t : State) : Prop where
  regs : ∀ a, a ≠ A.clkStatus → rd t a = smGet (regReset a) (fuseRegs s.fuses s.otp) a
  hbm : t.hbm = memOf (Config.freeHbm s.resets)
  resets : t.resets = s.resets + 1
  ks : t.ks = Keystone.reset
  prot : t.prot = Prot.reset
  img : t.img = ImgLoad.reset ∧ t.armed = none ∧ t.sect = []
  pc : t.pc = PowerCtl.reset ∧ t.tst = []
  fab : t.fab = Fab.reset ∧ t.net = Net.reset
  pr : t.pr = Piers.reset ∧ t.svc = Services.reset
  mem : t.snt = Sentinel.reset ∧ t.mem = { Mem.reset with hidden := spareContents s.resets } ∧ t.mg = Mgmt.reset
  time : t.ft = 0 ∧ t.ftRem = 0 ∧ t.step = 0
  fw : t.fwDigest = [] ∧ t.fwDead = false ∧ t.corr = [] ∧ t.trc = []
  stay : t.fuses = s.fuses ∧ t.otp = s.otp ∧ t.jtag = s.jtag ∧ t.out = s.out ∧ t.pending = s.pending ∧ t.free = s.free

/-- Engine e of pier p runs the command r, of an OP, of whose fields none is faulty (11 R299, R300). -/
abbrev Runs (s : State) (p e op : Nat) (r : RunCmd) (faults : List Nat) : Prop :=
  runningOp s p e op = some r ∧ firstFault (cstatFault r.bytes ++ faults) = none

/-- The packet b is the first of an opcode at pier p, and the stream check delivers it in the state u; its receive is v. -/
def Delivers (s : State) (p op : Nat) (find : State → List Byte → Option Recv) (b : List Byte) (v : Recv) (u : State) : Prop :=
  ∃ a, arrivedAt s p (fun b => pkOp b == op) = some a ∧ a.bytes = b ∧ find s b = some v ∧
    rxCheck (pierAnswers s (srCtx s (pkSr b)) p) b none (takeArrived a s) = (true, u)

/-- From below, the packet b is the first of a form at RSE n, on down edge e of tree t; its stream delivers it in the state u to the
sound operation o, which has slots for it (08 R210; 10 R271-R273). -/
structure Rises (s : State) (n form : Nat) (k : Known) (b : List Byte) (t : Tree) (e : Nat) (o : RseOp) (u : State) : Prop where
  held : ∃ h, rseHeld s n form clCollUp = some h ∧ h.bytes = b ∧
    rxCheck (edgeAnswers s n t (t.down.getD e t.up)) b none (takeHeld h s) = (true, u)
  tree : packetTree s b = some t
  edge : downEdgeOf t (treePos t b) b = some e
  op : o = (findOp s n t.num (opCseq b)).getD (newOp s n t (opCseq b) k)
  sound : o.bad = false ∧ (cdKind o.desc = kScan → t.ordered = true)
  slots : slotsFree s t o (pheadOf (pkPayload b)) = true

/-- From above, the packet b is the first of a form at RSE n on tree t; its stream delivers it in the state u to the sound operation
o. -/
structure Falls (s : State) (n form : Nat) (k : Known) (b : List Byte) (t : Tree) (o : RseOp) (u : State) : Prop where
  held : ∃ h, rseHeld s n form clCollDn = some h ∧ h.bytes = b ∧ rxCheck (edgeAnswers s n t t.up) b none (takeHeld h s) = (true, u)
  tree : packetTree s b = some t
  edge : t.up.v = true ∧ pkSr b = t.up.esr + 2 * treePos t b + 1 ∧ treePos t b < 16
  op : o = (findOp s n t.num (opCseq b)).getD (newOp s n t (opCseq b) k)
  sound : o.bad = false

/-- The packet b is the first of a form at pier p; its stream delivers it in the state u to the landing l (10 R263). -/
def ReachesMember (s : State) (p form : Nat) (b : List Byte) (l : Landing) (u : State) : Prop :=
  ∃ a, arrivedAt s p (fun b => pkOp b == opColl && pkClass b == clCollDn && be b 32 1 == form) = some a ∧ a.bytes = b ∧
    landOf s p b = some l ∧ rxCheck (pierAnswers s (srCtx s (pkSr b)) p) b none (takeArrived a s) = (true, u)

/-- The next instruction of the first stage at the lane array of RSE n, which has started, is x, of job j and operation o. -/
abbrev AtLane (s : State) (n : Nat) (j : LaneJob) (o : StrmOp) (x : SIns) : Prop :=
  s.net.lane.find? (fun j => j.node == n) = some j ∧ j.started = true ∧ findStrm s n j.tree j.cseq = some o ∧ (stageIns o.prog j.stage)[j.pc]? = some x

/-- The packet b of a member, of a stream kind, is the first of its kind at its first-hop RSE n, on down edge e of tree t; its stream
delivers it, and it meets its operation o in the state u (09 R237-R240; 10 R273). -/
structure StreamRises (s : State) (n kind : Nat) (k : Known) (b : List Byte) (t : Tree) (e : Nat) (o : StrmOp) (u : State) : Prop where
  held : ∃ h v, s.fab.held.find? (fun h => h.dst == 5120 + n && allCome h && pkOp h.bytes == opColl &&
      pkClass h.bytes == clCollUp && !opRseDst h.bytes && be h.bytes 32 1 == kind) = some h ∧ h.bytes = b ∧
    rxCheck (edgeAnswers s n t (t.down.getD e t.up)) b none (takeHeld h s) = (true, v) ∧
    meetStrm n t (opCseq b) (pkEpoch b) k v = (o, u) ∧
    (let q := (findStrm s n t.num (opCseq b)).getD (newStrm s n t (opCseq b) (pkEpoch b) k)
     (if kind = 0x10 then strmNoRoom (takeHeld h s) q 0 (pkSrc b) (pkPayload b) else strmFull (takeHeld h s) q) = false)
  tree : packetTree s b = some t
  edge : downEdgeOf t (treePos t b) b = some e

/-- A message of IEEE 1588 version 2, of a type and of the source's domain, is received on the port that steers the source's time (10
R279). -/
structure AtClock (s : State) (p : GPort) (type : Nat) (b : List Byte) : Prop where
  source : ftGm s = true ∧ ftPtp s = true
  port : isOn s (fnGul p) = true ∧ rf s A.dkFtCfg 29 29 = p.val
  domain : rf s A.dkFtCfg 15 8 = ptpDomain b
  version : be b 1 1 % 16 = 2 ∧ ptpType b = type
  whole : (if type = 9 then 54 else 44) ≤ b.length

/-- What a NaN production leaves: registers, what the module sends, and the records that wait (07 R201-R203). -/
abbrev nanFrame (s u : State) : Prop := u = { s with regs := u.regs, out := u.out, trc := u.trc, corr := u.corr }

/-- The records of a job with f done to the guarded ones of an instruction. -/
def guarded (x : SIns) (j : LaneJob) (f : Rec → Rec) : List Rec := j.recs.map fun r => if prd r x.pg then f r else r

/-- The Ringmaster takes the request r of operation op from queue j of context x, whose turn its round has reached, in the state u, and
nothing holds the request up (14 R358, R359). -/
structure TakesAny (s : State) (x j op : Nat) (r : SvcReq) (u : State) : Prop where
  may : takesFrom s x j = true
  entry : peekEntry s x j (svcNext s x j) = some r.bytes
  op : rqOp r.bytes = op
  taken : takeReq x j r.bytes none (roundPast x j s) = (r, u)
  spare : j = 7 ∨ spareState s = spNone ∨ spareState s = spAdmitted
  idle : objBusy u r = false

/-- And no field of it is faulty (14 R361). -/
structure Takes (s : State) (x j op : Nat) (faults : State → SvcReq → List Nat) (r : SvcReq) (u : State) : Prop
    extends TakesAny s x j op r u where
  good : reqFaulty faults r u = none

/-- The next step of the request r runs as service grants on the pier p, and, where it updates a shard, on all of the shard's; in the
state u their turns are taken (14 R362, R363). -/
structure OnPier (s : State) (r : SvcReq) (p : Nat) (u : State) : Prop where
  pier : reqPier s r = some p
  free : ∀ y ∈ stepPiers s r p, svcFree s y = true
  took : u = svcTook (stepPiers s r p) s

/-- Context x's services go on with the request r, in place k, of operation op, which has begun. -/
abbrev GoesOn (s : State) (x k op : Nat) (r : SvcReq) : Prop :=
  (inProgress s x).find? (fun r => r.slot == k && r.status.isNone && rqOp r.bytes == op) = some r ∧ r.stage ≠ 0

/-- Girder g of pier p runs a microprogram, and the next word of a stream is w, of operation op (11 R312). -/
abbrev NextWord (s : State) (p g : Nat) (exe : Bool) (op : Nat) (r : RunCmd) (w : GWord) : Prop := nextWord s p g exe op = some (r, w)

/-- Commands that may move the Keystone: an access of a port to the arbiters, a function operation that takes a port out of ON, the
Keystone's own timers, and what resets or unpowers the module (03 R68-R72, 17 R428-R430, R439). -/
def movesKeystone : Instr → Bool
  | .ksAcquire _ | .renew _ _ | .release _ _ | .deviceReset _ _ | .leaseExpire | .holdOffEnd | .die1RecordUpdate => true
  | .gulaneFrame _ _ _ | .read _ _ _ | .write _ _ | .doorbell _ _ | .registerWrite _ _ _ | .rcRead _ _ | .latchedRead _ _ => true
  | .enable _ _ | .disable _ _ => true
  | .fullReset | .housekeepingSupplyOff | .sequencerFault _ | .pwrEnDeassert | .inputOutOfRange | .thermalTrip => true
  | _ => false

/-- The rows that are a port's access to one register, and touch no arbiter: in a hold-off such an access waits behind a read of
KS_ACQUIRE by the same port (03 R61). -/
def waitsAtKeystone : Instr → Bool
  | .shadowWrite _ _ _ _ | .commit _ | .discard _ | .imgLoad _ | .imgAbort _ | .imgDisarm _ | .flip _
  | .retire _ | .cwyCtrlOpen _ _ _ | .bpmMetaBaseWrite _ _ | .toRing _ | .toList _ | .progLoad _ _
  | .progClear _ _ | .residentSwitchStart _ _ _ _ | .pierFlagWrite _ _ _ _ | .breakResume _ _ | .breakStep _ _
  | .traceEnable _ _ _ | .retrain _ _ _ | .repair _ _ _ _ | .memCancel _ _ | .tgStart _ _ _ _ | .clearCons _
  | .sendHint _ | .loadFw _ | .enroll _ | .attestationGo _ _ | .standby _ | .beginLoad _ | .loaded _ | .arm _
  | .abort _ | .spareRelease _ | .retireRequest _ _ _ _ _ _ | .ctxResume _ _ => true
  | _ => false

end Sys2Proof.Machine
end

