-- ==== Sys2Proof/Certificates/Slice0/Obligations.lean ====
section
/-! DEFINITION. The statements for the provers. Each docstring names the rules that its statement formalises; log entries are
those of notes/assumptions. -/

open Sys2Proof Sys2Proof.Machine

/-! ### The queue and the whole machine -/

/-- A step runs the command at the front of the queue on the state with the queue's rest; on an empty queue a core cycle passes
(the model's own form, DESIGN CHOICE: log entry 1). -/
def Obligations.StepRunsFront : Prop :=
  (∀ (c : Instr) (r : List Instr) (s : State), s.pending = c :: r → step s = exec c { s with pending := r }) ∧
  ∀ s : State, s.pending = [] → step s = .next (coreCycle s)

/-- No command stops the machine: in every state, every command answers a next state. -/
def Obligations.NoCommandStops : Prop := ∀ (c : Instr) (s : State), ∃ t, exec c s = .next t

/-- After reset, memory, registers and local stores are canonical. After reset the Keystone's arbiters meet their invariant (03
R67-R72). Where its reading is the model's: log entries 5, 55. -/
def Obligations.ResetIsSound : Prop :=
  (Canonical State.reset) ∧
  (KsInv State.reset.ks)

/-- Every step, of whatever command or of none, keeps memory, registers and local stores canonical. Where its reading is the
model's: log entry 5. -/
def Obligations.CanonicalKept : Prop := ∀ s t : State, Canonical s → step s = .next t → Canonical t

/-- Every step keeps the arbiters' invariant: die 1 never records a port other than the holder, but for the last holder while the
hold-off runs; nobody is granted the Keystone in a hold-off, and a granted ticket is never 0 (03 R68, R69, R72). Where its reading
is the model's: log entry 54. -/
def Obligations.KeystoneSoundKept : Prop := ∀ s t : State, KsInv s.ks → step s = .next t → KsInv t.ks

/-- Only the commands of movesKeystone move any part of the Keystone's state. A row that is a port's register access
(waitsAtKeystone) may wait there, and moves nothing else of it; every other command leaves it, and so does a core cycle (03 R61,
R67-R72). -/
def Obligations.OnlyTheseMoveTheKeystone : Prop :=
  (∀ (c : Instr) (s t : State), movesKeystone c = false → exec c s = .next t →
    (∃ w, t.ks = { s.ks with waiting := w }) ∧ (waitsAtKeystone c = false → t.ks = s.ks)) ∧
  ∀ s : State, (coreCycle s).ks = s.ks

/-- Operator slots are fuse slots, and each can be enrolled once and revoked once: whatever a step does, a slot that is enrolled
stays enrolled with its digest, and a revoked slot stays revoked (17 R435). -/
def Obligations.SignerSlotsOnlyBurn : Prop := ∀ s t : State, step s = .next t → OtpLe s.otp t.otp

/-- Whatever a step does, the fuses stay, what was sent stays sent, a free value is never taken twice, and the queue loses at most
its front. Where its reading is the model's: log entries 1, 2. -/
def Obligations.StepKeepsFusesQueueAndSent : Prop :=
  ∀ s t : State, step s = .next t →
    t.fuses = s.fuses ∧ t.pending = s.pending.tail ∧ s.free ≤ t.free ∧ ∃ l, t.out = s.out ++ l

/-! ### Power path, reset and start (17 R426-R432, 19 R471-R477) -/

/-- The start sequencer and the pins, in every state in which each acts: RESET_L held low, the housekeeping supply's start, the
sequencer's start, a rail that enters its window (the last one raises power-good), the root PLL's lock, and the end of a latch (17
R426, R427, R431; 19 R471, R474). Nothing but the power path changes, and CLK_STATUS at the lock; RESET_L closes the Causeway's
pairs too, and lets a selected EXTEST drive the pins (04 R101; 19 R477). It says of each of these commands that exec answers a
next state, the command's own effect, wherever the stated conditions on the state and operands hold: resetLAssert,
housekeepingStart, sequencerStart, railInWindow, pllLock, seqLatchClear. Where its reading is the model's: log entry 61. -/
def Obligations.PowerUpCommands : Prop :=
  ∀ s : State,
    (∃ t, exec .resetLAssert s = .next t ∧ t = { s with
        regs := t.regs
        fab := t.fab
        jtag := { s.jtag with driving := s.jtag.ir == .extest }
        pwr := { s.pwr with resetLow := true, inReset := true, resetDue := true, cwyDrive := false } } ∧
      (SmWf regReset s.regs → ∀ j : SpanNo, rbit t (A.cwyCtrl j) 0 = false ∧
        (cwyState t j = cwClosed ∨ cwyState t j = cwClosing))) ∧
    (s.pwr.housekeeping = false → exec .housekeepingStart s = .next { s with pwr :=
      { housekeeping := true, seq := .off, railsUp := [], latched := false, cause := 0, pwrEn := s.pwr.pwrEn
        resetLow := s.pwr.resetLow, inReset := true, resetDue := false, cwyDrive := false, vin := 0, iinA := 0, iinB := 0 } }) ∧
    (s.pwr.housekeeping = true → s.pwr.latched = false → (s.pwr.seq = .off ∨ s.pwr.seq = .qualify) →
      exec .sequencerStart s = .next { s with pwr := { s.pwr with seq := .ramping, pwrEn := true, railsUp := [] } }) ∧
    (∀ k : Fin 18, s.pwr.seq = .ramping → k.val ∈ railsStarted s.pwr.railsUp →
      exec (.railInWindow k) s = .next { s with pwr := { s.pwr with
        railsUp := s.pwr.railsUp ++ [k.val]
        seq := if ∀ g ∈ railOrder, ∀ j ∈ g, j ∈ s.pwr.railsUp ++ [k.val] then .powerGood else .ramping } }) ∧
    (s.pwr.seq = .powerGood → exec .pllLock s = .next (wr A.clkStatus 0xD0000000#32 s)) ∧
    (s.pwr.pwrEn = false → exec .seqLatchClear s = .next { s with pwr := { s.pwr with
        latched := false, cause := 0, seq := if s.pwr.seq = .fault then .off else s.pwr.seq } })

/-- What removes the rails: a rail that misses its window, PWR_EN deasserted, an input out of range, a junction at 125 °C, and the
end of the housekeeping supply. Each leaves what a full reset leaves, with the clocks gone, SEQ_STATE and the latch as said, and
nothing saved (17 R427-R430, 19 R474). A latched fault keeps SEQ_STATE FAULT. A full reset leaves what R430 says, keeps the root
PLL's live word and the power path, and holds the module in reset; it ends, once it has been done, only with the PLL locked: then
RESET_L is high, the Causeway drive is on, the turnstile counts begin, and the journal has its START entry with SEQ 1 (17 R430,
R431; 03 R83). It says of each of these commands that exec answers a next state, the command's own effect, wherever the stated
conditions on the state and operands hold: fullReset, resetEnd, sequencerFault, pwrEnDeassert, inputOutOfRange, thermalTrip,
housekeepingSupplyOff. Where its reading is the model's: log entries 3, 57. -/
def Obligations.PowerRemovalAndFullReset : Prop :=
  (∀ s : State,
    (∀ k : Fin 18, s.pwr.seq = .ramping ∨ s.pwr.seq = .powerGood → ∃ t, exec (.sequencerFault k) s = .next t ∧
      AfterFullReset s t ∧ rd t A.clkStatus = 0 ∧ t.pwr = { s.pwr with
        seq := .fault, railsUp := [], cwyDrive := false, inReset := true, resetDue := false, latched := true, cause := k.val }) ∧
    (∃ t, exec .pwrEnDeassert s = .next t ∧ AfterFullReset s t ∧ rd t A.clkStatus = 0 ∧ t.pwr = { s.pwr with
        seq := if s.pwr.latched then .fault else .off
        railsUp := [], cwyDrive := false, inReset := true, resetDue := false, pwrEn := false }) ∧
    (∃ t, exec .inputOutOfRange s = .next t ∧ AfterFullReset s t ∧ rd t A.clkStatus = 0 ∧ t.pwr = { s.pwr with
        seq := if s.pwr.latched then .fault else .off
        railsUp := [], cwyDrive := false, inReset := true, resetDue := false }) ∧
    (∃ t, exec .thermalTrip s = .next t ∧ AfterFullReset s t ∧ rd t A.clkStatus = 0 ∧ t.pwr = { s.pwr with
        seq := .fault, railsUp := [], cwyDrive := false, inReset := true, resetDue := false, latched := true, cause := 0xFF }) ∧
    ∃ t, exec .housekeepingSupplyOff s = .next t ∧ AfterFullReset s t ∧ rd t A.clkStatus = 0 ∧ t.pwr = { s.pwr with
        housekeeping := false, seq := .off, railsUp := [], cwyDrive := false, inReset := true, resetDue := false
        latched := false, cause := 0, vin := 0, iinA := 0, iinB := 0 }) ∧
  ((∀ s : State, ∃ t, exec .fullReset s = .next t ∧ AfterFullReset s t ∧
    (SmWf regReset s.regs → rd t A.clkStatus = rd s A.clkStatus) ∧
    t.pwr = { s.pwr with inReset := true, resetDue := false, cwyDrive := false }) ∧
  ∀ s : State, s.pwr.inReset = true → s.pwr.resetDue = false → rbit s A.clkStatus 31 = true → ∃ t, exec .resetEnd s = .next t ∧
    t = { s with
      pwr := { s.pwr with inReset := false, resetLow := false, cwyDrive := true }
      jtag := { s.jtag with driving := false }
      tst := [], prot := { s.prot with jrnlSeq := 1 }, regs := t.regs } ∧
    (SmWf regReset s.regs → rn t A.ksJrnlHead = 1))

/-- Over the Viaduct: training before the boot ROM writes DK_VIADUCT_STATUS with the replaced lanes of each direction, at most 32,
DEGRADED beyond 28, and UP unless a direction needs more than 32; a corrected flit is counted and changes nothing else; an
uncorrectable one raises a DEVF record (01 R19, R22). The boot ROM and the firmware: with the self-test passed, the Viaduct UP and
every channel trained, the ROM leaves STAGE at FW_WAIT with both Gulane ports in START; LOAD_FW by the holder in FW_WAIT starts
the check; at its end the bundle is rejected with its code, STAGE FW_WAIT and FW_REJECT, or runs, with STAGE RUNNING, its digest
kept, and FW_ACTIVE (17 R432, R434). It says of each of these commands that exec answers a next state, the command's own effect,
wherever the stated conditions on the state and operands hold: viaductTraining, bootRom, viaductFlit, loadFw, fwCheckEnd. Where
its reading is the model's: log entries 4, 50. -/
def Obligations.ViaductAndBoot : Prop :=
  (∀ s : State,
    (∀ a b : Fin 1025, s.pwr.inReset = false → stage s = 0 →
      exec (.viaductTraining a b) s = .next (wn A.dkViaductStatus
        (2 ^ 16 * min b.val 32 + 2 ^ 8 * min a.val 32 + (if 28 < a.val ∨ 28 < b.val then 2 else 0) +
          (if a.val ≤ 32 ∧ b.val ≤ 32 then 1 else 0)) s)) ∧
    (∀ d : Fin 2, exec (.viaductFlit d true) s =
      .next (wn A.dkViaductCorr (min 0xFFFFFFFF (rn s A.dkViaductCorr + 1)) s)) ∧
    ∀ d : Fin 2, exec (.viaductFlit d false) s = .next (raiseFault { code := 0x1209, cls := .devf, detail := d.val } s)) ∧
  (∀ s : State,
    (s.pwr.inReset = false → stage s = 0 → rbit s A.dkViaductStatus 0 = true → SmWf regReset s.regs →
      ∃ t, exec (.bootRom true []) s = .next t ∧ t = { s with regs := t.regs } ∧ stage t = stFwWait ∧
        fstate t (fnGul 0) = fsStart ∧ fstate t (fnGul 1) = fsStart) ∧
    (∀ p : GPort, Holds s p → stage s = stFwWait →
      exec (.loadFw p) s = .next (accessed p A.dkBootCtrl 0 stOk
        { wf A.dkBootStatus 3 0 stFwCheck (wn A.dkBootCtrl 1 s) with mg := { s.mg with fwPort := p.val } })) ∧
    (stage s = stFwCheck → exec .fwCheckEnd s = .next (match headCheck true (fwEnv s) (rn s A.dkImgLen) (staged s) with
      | some r => raiseEvent { code := 0x1103, port := s.mg.fwPort, detail := r.code }
          (wf A.dkBootStatus 15 8 r.code (wf A.dkBootStatus 3 0 stFwWait s))
      | none => raiseEvent { code := 0x1102, port := s.mg.fwPort, detail := imSerial (staged s) }
          { wf A.dkBootStatus 3 0 stRunning s with fwDigest := imDigestOf (staged s) })))

/-- The management bus answers while the housekeeping supply runs and the packet check is not wrong, and never otherwise; what it
reads, low byte first, is Table 19.3's, and the samples of the input stay in their registers (19 R475, R476). The test port:
BYPASS captures a 0, IDCODE shifts out DK_DEVICE_ID with bit 0 set, SAMPLE/PRELOAD shows the pins and takes the cells, and EXTEST
drives the pins only while RESET_L holds the module in full reset (19 R477). It says of each of these commands that exec answers a
next state, the command's own effect, wherever the stated conditions on the state and operands hold: mgmtId, seqFault, seqState,
vin, iinA, iinB, deviceId, moduleSn, bypass, idcode, samplePreload, extest. -/
def Obligations.ManagementBusAndTestPort : Prop :=
  (∀ (s : State) (c : Pec),
    let answer (b : List Byte) (s : State) : State :=
      { s with out := s.out ++ [.smbus (if s.pwr.housekeeping = true ∧ c ≠ .bad then some b else none)] }
    exec (.mgmtId c) s = .next (answer [0x01, 0x53] s) ∧
    exec (.seqFault c) s = .next (answer (leBytes 2 ((if s.pwr.latched then 2 ^ 15 else 0) + s.pwr.cause)) s) ∧
    exec (.seqState c) s = .next (answer [BitVec.ofNat 8 (SeqState.code s.pwr.seq), 0] s) ∧
    exec (.deviceId c) s = .next (answer (leBytes 2 (if s.pwr.seq = .powerGood then rf s A.dkDeviceId 31 16 else 0)) s) ∧
    exec (.moduleSn c) s = .next (answer (8 :: leBytes 8 s.fuses.moduleSn) s) ∧
    ∀ v : BitVec 16, s.pwr.housekeeping = true →
      exec (.vin c v) s = .next (answer (leBytes 2 v.toNat) { s with pwr := { s.pwr with vin := v.toNat } }) ∧
      exec (.iinA c v) s = .next (answer (leBytes 2 v.toNat) { s with pwr := { s.pwr with iinA := v.toNat } }) ∧
      exec (.iinB c v) s = .next (answer (leBytes 2 v.toNat) { s with pwr := { s.pwr with iinB := v.toNat } })) ∧
  (∀ s : State,
    exec .bypass s = .next { s with jtag := { s.jtag with ir := .bypass, driving := false }, out := s.out ++ [.tdo [false]] } ∧
    exec .idcode s = .next { s with jtag := { s.jtag with ir := .idcode, driving := false }
                                    out := s.out ++ [.tdo ((List.range 32).map (bit (rn s A.dkDeviceId ||| 1)))] } ∧
    ∀ pins load : List Bool,
      exec (.samplePreload pins load) s =
        .next { s with jtag := { ir := .samplePreload, cells := load, driving := false }, out := s.out ++ [.tdo pins] } ∧
      exec (.extest pins load) s = .next { s with
        jtag := { ir := .extest, cells := load, driving := s.pwr.resetLow && s.pwr.inReset }, out := s.out ++ [.tdo pins] })

/-! ### Boot, firmware, signers and attestation (17 R432-R438) -/

/-- Signers and attestation: ENROLL by the holder takes the record of the enrollment area; at its end a good record fuses or
revokes its slot, ECODE is 0 and ENROLLED is raised, and any other changes no fuse, sets ECODE and raises ENROLL_REJECT; GO by the
unit's own port takes the report's fields in one cycle; at the end the report is signed with the module's key and written, and
DONE is set (17 R435, R438). It says of each of these commands that exec answers a next state, the command's own effect, wherever
the stated conditions on the state and operands hold: enroll, enrollEnd, attestationGo, attestationDone. Where its reading is the
model's: log entries 4, 50. -/
def Obligations.SignerAndAttestationCommands : Prop :=
  ∀ s : State,
    (∀ p : GPort, Holds s p → (stage s = stFwWait ∨ stage s = stFwCheck ∨ stage s = stRunning) → s.mg.enroll = none →
      exec (.enroll p) s = .next (accessed p A.dkBootCtrl 0 stOk { wn A.dkBootCtrl 2 s with
        mg := { s.mg with enroll := some (p.val, cfgBytes s (A.enrollArea 0) 7328) } })) ∧
    (∀ k b, s.mg.enroll = some (k, b) → exec .enrollEnd s = .next (
      let c := erCode s.fuses s.otp b
      if c = 0 then raiseEvent { code := 0x1104, port := k, detail := 2 ^ 8 * erSlot b + (erOp b - 1) }
        (wf A.dkBootStatus 31 24 0 { s with mg := { s.mg with enroll := none }, otp := erFuse b s.otp })
      else raiseEvent { code := 0x1105, port := k, detail := c }
        (wf A.dkBootStatus 31 24 c { s with mg := { s.mg with enroll := none } }))) ∧
    (∀ p : GPort, portReady s p = true → rbit s (A.dkAttCtrl p) 0 = false →
      exec (.attestationGo p p) s = .next (accessed p (A.dkAttCtrl p) 0 stOk { wn (A.dkAttCtrl p) 1 s with
        mg := { s.mg with att := smPut [] s.mg.att p.val (attFields p.val s) } })) ∧
    ∀ (n : GPort) (b : List Byte), smGet [] s.mg.att n.val = b → b ≠ [] →
      exec (.attestationDone n) s = .next (wn (A.dkAttCtrl n) 2 (putCfg (A.attReport (0x800 * n))
        (b ++ slice (Config.mlDsaSign s.fuses.moduleSn (sha3 b) (ascii "IMDOR-ATT")) 0 4627 ++ List.replicate 45 0)
        { s with mg := { s.mg with att := smPut [] s.mg.att n.val [] } }))

/-! ### The Keystone and protection (03 R67-R85) -/

/-- KS_ACQUIRE by one port, in each of its cases. A free Keystone outside a hold-off is granted: the holder, a new ticket and the
lease are recorded, the read returns GRANTED, HELD, HOLDER and TICKET; only the shadow areas, the event log and what is sent move
beside. A held one stays, and the read says who holds it; in a hold-off the read waits, and so do both ports'. With both ports'
reads ready, the port that TURN names is served first and TURN inverts (03 R67, R68). What KS_CTRL does for the holder with the
current ticket: RENEW restarts the lease, RELEASE frees the Keystone and starts the hold-off, DEVICE_RESET makes the reset due;
with another ticket it is ignored and KS_TICKET is raised; the other port's write is ignored and raises KL_DENIED (03 R71). The
Keystone's own timers: the lease ends, and the Keystone is free and in its hold-off; the die-1 record follows die 0; the hold-off
ends, and with nobody waiting only that changes. What a port sends after a read of KS_ACQUIRE that waits, waits behind it (03 R61,
R70, R72; how the die-1 record stands at the end is DEDUCED: log entry 54). It says of each of these commands that exec answers a
next state, the command's own effect, wherever the stated conditions on the state and operands hold: registerWrite, ksAcquire,
renew, release, deviceReset, leaseExpire, holdOffEnd, die1RecordUpdate. Where its reading is the model's: log entry 51. -/
def Obligations.KeystoneCommands : Prop :=
  (∀ (s : State) (p : GPort), portReady s p = true →
    (s.ks.holder = none → s.ks.holdOff = false → ∃ u, u = { s with
        ks := { s.ks with holder := some p, holderBit := p.val
                          ticket := if s.ks.ticket = 0xFFFF then 1 else s.ks.ticket + 1, lease := u.ks.lease }
        regs := u.regs, out := u.out, prot := { s.prot with copyDue := u.prot.copyDue } } ∧
      (SmWf regReset s.regs → u.ks.lease = rf s A.ksLease 13 0) ∧
      exec (.ksAcquire (.one p)) s = .next (accessed p A.ksAcquire
        (BitVec.ofNat 32 (2 ^ 31 + 2 ^ 30 + 2 ^ 16 * p.val + u.ks.ticket)) stOk u)) ∧
    (∀ h, s.ks.holder = some h → exec (.ksAcquire (.one p)) s = .next (accessed p A.ksAcquire
        (BitVec.ofNat 32 ((if h = p then 2 ^ 31 else 0) + 2 ^ 30 + 2 ^ 16 * h.val + s.ks.ticket)) stOk s)) ∧
    (s.ks.holder = none → s.ks.holdOff = true →
      exec (.ksAcquire (.one p)) s = .next { s with ks := { s.ks with waiting := s.ks.waiting ++ [(p, .read A.ksAcquire)] } } ∧
      (p = 0 → portReady s 1 = true → exec (.ksAcquire .both) s = .next { s with ks := { s.ks with waiting :=
        s.ks.waiting ++ [(0, .read A.ksAcquire), (1, .read A.ksAcquire)] } })) ∧
    (portReady s 0 = true → portReady s 1 = true → s.ks.holder = some p → exec (.ksAcquire .both) s =
      let f : GPort := if s.ks.turn0 then 1 else 0
      let word (q : GPort) : Word :=
        BitVec.ofNat 32 ((if p = q then 2 ^ 31 else 0) + 2 ^ 30 + 2 ^ 16 * p.val + s.ks.ticket)
      .next (accessed (1 - f) A.ksAcquire (word (1 - f)) stOk (accessed f A.ksAcquire (word f) stOk
        { s with ks := { s.ks with turn0 := !s.ks.turn0 } })))) ∧
  (∀ (s : State) (p : GPort) (k : BitVec 16), portReady s p = true →
    (s.ks.holder = some p → k.toNat = s.ks.ticket →
      exec (.renew p k) s = .next (accessed p A.ksCtrl 0 stOk
        { wn A.ksCtrl (2 ^ 16 * k.toNat + 1) s with ks := { s.ks with lease := rf s A.ksLease 13 0 } }) ∧
      exec (.deviceReset p k) s = .next (accessed p A.ksCtrl 0 stOk
        (dropDrive { wn A.ksCtrl (2 ^ 16 * k.toNat + 13) s with pwr := { s.pwr with resetDue := true } })) ∧
      ∃ t, exec (.release p k) s = .next t ∧ t = { s with
        ks := { s.ks with holder := none, holderBit := freeBits 1 s, holdOff := true }, free := s.free + 1
        regs := t.regs, out := t.out, prot := { s.prot with copyDue := t.prot.copyDue }, img := t.img }) ∧
    (s.ks.holder = some p → k.toNat ≠ s.ks.ticket →
      let refused := accessed p A.ksCtrl 0 stIgnored (raiseEvent
        { code := 0x0305, port := p.val, unit := ksUnit, detail := 2 ^ 16 * k.toNat + s.ks.ticket } s)
      exec (.renew p k) s = .next refused ∧ exec (.release p k) s = .next refused ∧
        exec (.deviceReset p k) s = .next refused) ∧
    (s.ks.holder ≠ some p →
      let denied := accessed p A.ksCtrl 0 stIgnored (klDenied p A.ksCtrl s)
      exec (.renew p k) s = .next denied ∧ exec (.release p k) s = .next denied ∧ exec (.deviceReset p k) s = .next denied)) ∧
  (∀ s : State,
    (s.ks.holder ≠ none → ∃ t, exec .leaseExpire s = .next t ∧ t = { s with
        ks := { s.ks with holder := none, holderBit := freeBits 1 s, holdOff := true }, free := s.free + 1
        regs := t.regs, out := t.out, prot := { s.prot with copyDue := t.prot.copyDue }, img := t.img }) ∧
    exec .die1RecordUpdate s = .next { s with ks := { s.ks with die1 := s.ks.holder } } ∧
    (∀ (p : GPort) (a : BitVec 32) (w : Word), portOn s p = true → portWaits s p = true →
      exec (.registerWrite p a w) s =
        .next { s with ks := { s.ks with waiting := s.ks.waiting ++ [(p, .write a.toNat w)] } }) ∧
    (s.ks.holdOff = true → s.ks.waiting = [] →
      exec .holdOffEnd s = .next { s with ks := { s.ks with holdOff := false, die1 := none } }))

/-- A ticket rises by 1 at every grant, and after 0xFFFF it is 1: whatever command brings the Keystone to a port, it was free
before, and its ticket is the next one; a port that keeps it keeps its ticket, and no command gives it from one port to another. A
port that asks for a free Keystone outside a hold-off is granted it. A full reset leaves 0, so that the first grant after it
issues 1 (03 R69). It says of each of these commands that exec answers a next state, the command's own effect, wherever the stated
conditions on the state and operands hold: fullReset, ksAcquire. -/
def Obligations.TicketRisesAtEveryGrant : Prop :=
  (∀ (c : Instr) (s t : State), exec c s = .next t → t.ks.holder ≠ none →
    (t.ks.holder = s.ks.holder ∧ t.ks.ticket = s.ks.ticket) ∨
    (s.ks.holder = none ∧ t.ks.ticket = if s.ks.ticket = 0xFFFF then 1 else s.ks.ticket + 1)) ∧
  (∀ (s : State) (p : GPort), portReady s p = true → s.ks.holder = none → s.ks.holdOff = false →
    ∃ t, exec (.ksAcquire (.one p)) s = .next t ∧ t.ks.holder = some p ∧
      t.ks.ticket = if s.ks.ticket = 0xFFFF then 1 else s.ks.ticket + 1) ∧
  ∀ s : State, ∃ t, exec .fullReset s = .next t ∧ t.ks.holder = none ∧ t.ks.ticket = 0

/-- Shadow writes, COMMIT and DISCARD by the holder, and what the commit's own steps do: a shadow word is written unless a commit
is CHECKING; COMMIT starts the checks; DISCARD copies the live areas over the shadow; the checks end PENDING with what they saw,
or in a rejection; at the protection epoch the live areas are what the checks saw, KS_PROT_EPOCH rises and STATE is IDLE (03
R75-R81). Each writes nothing but registers, the state of protection and what is sent. An audit that agrees changes nothing, and
one that does not is a failure. It says of each of these commands that exec answers a next state, the command's own effect,
wherever the stated conditions on the state and operands hold: shadowWrite, commit, discard, protCheckEnd, protEpoch, auditPass.
Where its reading is the model's: log entries 58, 72. -/
def Obligations.ProtectionCommands : Prop :=
  (∀ (s : State) (p : GPort), portReady s p = true → s.ks.holder = some p →
    (∀ (x : CtxNo) (off : Fin 1280) (w : Word),
      (protState s ≠ psChecking → exec (.shadowWrite p x off w) s = .next (accessed p (A.ctxShadow x off) 0 stOk
        (wr (A.ctxShadow x off) w s))) ∧
      (protState s = psChecking → exec (.shadowWrite p x off w) s = .next (accessed p (A.ctxShadow x off) 0 stIgnored
        (raiseEvent { code := 0x0308, port := p.val, ctx := (A.ctxShadow x off - 0x100000) / 0x4000
                      unit := unitOf (A.ctxShadow x off), detail := A.ctxShadow x off } s)))) ∧
    (protState s = psIdle → exec (.commit p) s = .next (accessed p A.ksProtCtrl 0 stOk (wf A.ksProtStatus 3 0 psChecking
      (wn A.ksProtCtrl 1 { s with prot := { s.prot with committer := p.val, ticket := s.ks.ticket } })))) ∧
    (protState s ≠ psIdle → exec (.commit p) s = .next (accessed p A.ksProtCtrl 0 stIgnored s)) ∧
    (protState (wn A.ksProtCtrl 2 s) = psIdle → exec (.discard p) s = .next (accessed p A.ksProtCtrl 0 stOk
      (liveToShadow (wn A.ksProtCtrl 2 s))))) ∧
  (∀ s : State,
    (protState s = psChecking → exec .protCheckEnd s = .next (
      match protFailure s ((List.range 64).map (shadowArea s)) (shadowDigest s) (cfgBytes s (A.ksProtDigest 0) 64) with
      | none => wf A.ksProtStatus 3 0 psPending
          { s with prot := { s.prot with digest := shadowDigest s, staged := shadowWords s, copyDue := false } }
      | some (r, x) => raiseEvent { code := 0x0307, port := s.prot.committer, ctx := if x < 64 then x else 0xFF, unit := ksUnit
                                    detail := 2 ^ 16 * x + 2 ^ 8 * r } (wn A.ksProtStatus (2 ^ 16 * x + 2 ^ 8 * r) s))) ∧
    (protState s = psPending → s.prot.copyDue = false → SmWf regReset s.regs →
      ∃ t, exec .protEpoch s = .next t ∧ t = { s with
          regs := t.regs, out := t.out
          prot := { s.prot with staged := [], committed := true, copyDue := false, jrnlSeq := s.prot.jrnlSeq + 1 } } ∧
        protState t = psIdle ∧ rn t A.ksProtEpoch = (rn s A.ksProtEpoch + 1) % 2 ^ 32 ∧
        ∀ a, isLive a = true → rd t a = smGet (regReset a) (setLive s.prot.staged s).regs a) ∧
    (∀ n, tstSpent s actAudit 16 = false → exec (.auditPass .clean n) s = .next (
      let t := tstCharge actAudit 16 n s
      if auditAgrees t = true then t else auditFailure t)) ∧
    ∀ seen n, tstSpent s actAudit 16 = true → exec (.auditPass seen n) s = .next s)

/-! ### Register accesses and transactions (00 R9, R11, R484; 03 R57-R63, R73, R74) -/

/-- What a write of one word does to a register, by its access codes: an RW register takes the word from any port; a KL register
takes it from the holder alone, and anyone else's write raises KL_DENIED and returns IGNORED; a 1 written to the W1C bit FIRED of
PIER_TR_STATUS clears it and nothing else; a write of GUL_CFG by a port that holds nothing takes EVT_EN, keeps ETYPE, and raises
KL_DENIED once; an address without a register returns BADADDR; two ports' writes that are ready in one core cycle at the die-0
arbiter are performed in the order that TURN gives, and TURN inverts (00 Table 0.7, R484; 03 R59, R67). A read of the low word of
fabric time or of the step returns it and latches the upper words, so that they read as they stood at that moment (10 R288). It
says of each of these commands that exec answers a next state, the command's own effect, wherever the stated conditions on the
state and operands hold: registerWrite, latchedRead. Where its reading is the model's: log entry 53. -/
def Obligations.RegisterAccesses : Prop :=
  (∀ (s : State) (p : GPort) (w : Word), portReady s p = true → SmWf regReset s.regs → spareState s ≠ spLoading →
    (∀ x : CtxNo, exec (.registerWrite p (BitVec.ofNat 32 (A.ctxSrSeed x)) w) s =
      .next (accessed p (A.ctxSrSeed x) 0 stOk (wr (A.ctxSrSeed x) w s))) ∧
    (∀ i : Fin 16, s.ks.holder = some p → exec (.registerWrite p (BitVec.ofNat 32 (A.trcKinds i)) w) s =
      .next (accessed p (A.trcKinds i) 0 stOk (wr (A.trcKinds i) w s))) ∧
    (∀ i : Fin 16, s.ks.holder ≠ some p → exec (.registerWrite p (BitVec.ofNat 32 (A.trcKinds i)) w) s =
      .next (accessed p (A.trcKinds i) 0 stIgnored (klDenied p (A.trcKinds i) s))) ∧
    (∀ q : PierNo, w = BitVec.ofNat 32 (2 ^ 31) → ∃ t, exec (.registerWrite p (BitVec.ofNat 32 (A.pierTrStatus q)) w) s =
        .next (accessed p (A.pierTrStatus q) 0 stOk t) ∧ t = { s with regs := t.regs } ∧
      rf t (A.pierTrStatus q) 31 31 = 0 ∧ rf t (A.pierTrStatus q) 21 16 = rf s (A.pierTrStatus q) 21 16 ∧
      rf t (A.pierTrStatus q) 7 0 = rf s (A.pierTrStatus q) 7 0 ∧ ∀ a, a ≠ A.pierTrStatus q → rd t a = rd s a) ∧
    (∀ n : GPort, (if n.val = 0 then s.ks.holder else s.ks.die1) ≠ some p →
      exec (.registerWrite p (BitVec.ofNat 32 (A.gulCfg n)) w) s = .next (accessed p (A.gulCfg n) 0 stIgnored
        (klDenied p (A.gulCfg n)
          (wn (A.gulCfg n) (2 ^ 16 * fget w 16 16 + rf s (A.gulCfg n) 15 0) s)))) ∧
    (∀ a : BitVec 32, regAt s a.toNat = none → exec (.registerWrite p a w) s = .next (accessed p a.toNat 0 stBadAddr s)) ∧
    ∀ (x y : CtxNo) (v : Word), portReady s (1 - p) = true →
      exec (.registerWrite p (BitVec.ofNat 32 (A.ctxSrSeed x)) w (some (BitVec.ofNat 32 (A.ctxSrSeed y), v))) s = .next (
        let mine (u : State) := accessed p (A.ctxSrSeed x) 0 stOk (wr (A.ctxSrSeed x) w u)
        let its (u : State) := accessed (1 - p) (A.ctxSrSeed y) 0 stOk (wr (A.ctxSrSeed y) v u)
        let t : State := { s with ks := { s.ks with turn0 := !s.ks.turn0 } }
        if (if s.ks.turn0 then 1 else 0) = p then its (mine t) else mine (its t))) ∧
  (∀ (s : State) (p : GPort), portReady s p = true →
    exec (.latchedRead p (BitVec.ofNat 32 (A.dkFtTime 0))) s = .next (accessed p (A.dkFtTime 0)
      (BitVec.ofNat 32 (ftNs s % 2 ^ 32)) stOk { s with mg := { s.mg with
        lat := smPut 0 (smPut 0 s.mg.lat (A.dkFtTime 1) (ftNs s / 2 ^ 32)) (A.dkFtTime 2) (s.ft % 64) } }) ∧
    exec (.latchedRead p (BitVec.ofNat 32 (A.dkStep 0))) s = .next (accessed p (A.dkStep 0)
      (BitVec.ofNat 32 (s.step % 2 ^ 32)) stOk { s with mg := { s.mg with
        lat := smPut 0 s.mg.lat (A.dkStep 1) (s.step / 2 ^ 32 % 2 ^ 32) } }))

/-- Two reads of one RC field that are ready at the same moment are ordered by the alternation rule of the register's die: the
port that its TURN names reads the value, the other reads zero, the field is then zero, and TURN inverts. A read of one port alone
returns the value and clears it, and leaves TURN (00 R11, 03 R67). It says that exec answers a next state, the command's own
effect, wherever the stated conditions hold, for rcRead. -/
def Obligations.ReadsThatClear : Prop :=
  ∀ (s : State) (a : BitVec 32) (d : RegDesc) (ix : List Nat) (hi : Nat),
    SmWf regReset s.regs → regAt s a.toNat = some (d, ix) → d.fields = [⟨hi, 0, .rc, 0⟩] →
    let v : Word := BitVec.ofNat 32 (rf s a.toNat hi 0)
    (∀ p : GPort, portReady s p = true → exec (.rcRead (.one p) a) s = .next (accessed p a.toNat v stOk (wr a.toNat 0 s))) ∧
    (portReady s 0 = true → portReady s 1 = true → exec (.rcRead .both a) s =
      let turn := if dieOf a.toNat = 0 then s.ks.turn0 else s.ks.turn1
      let f : GPort := if turn then 1 else 0
      .next (accessed (1 - f) a.toNat 0 stOk (accessed f a.toNat v stOk { wr a.toNat 0 s with
        ks := if dieOf a.toNat = 0 then { s.ks with turn0 := !s.ks.turn0 } else { s.ks with turn1 := !s.ks.turn1 } })))

/-- A READ of HBM for a context that its windows let read returns the bytes and changes nothing but what is sent; a WRITE for one
that they let write changes those bytes and no other, but for bytes that a FAILED channel loses, and a WRITE that is not POSTED is
answered. Without such a window the answer is DENIED and memory is unchanged (03 R60, R73, R74). It says of each of these commands
that exec answers a next state, the command's own effect, wherever the stated conditions on the state and operands hold: read,
write. Where its reading is the model's: log entries 52, 72. -/
def Obligations.HbmTransactions : Prop :=
  ∀ (s : State) (p : GPort) (t : Txn), portReady s p = true → Memory.wf s.hbm →
    t.status = 0 → t.len % 4 = 0 → 4 ≤ t.len → t.addr % 4 = 0 → t.addr % 4096 + t.len ≤ 4096 →
    hbmBase ≤ t.addr → t.addr < hbmEnd → mapped s t.addr = true → t.ctx < 64 → isOn s (fnCtx t.ctx) = true →
    quiesced s t.addr t.len = false → t.data.length = t.len →
    let rsp (op len st : Nat) (data : List Byte) : Txn :=
      { op := op, tag := t.tag, len := len, ctx := t.ctx, status := st, addr := t.addr, data := data }
    (t.flags = 0 → winOk s t.ctx t.addr t.len .gr = true → badWord s t.addr t.len = none →
      exec (.read p t .none) s = .next (gulSend p (rsp 0x81 t.len stOk (hbmRd s t.addr t.len)) s)) ∧
    (t.flags ≤ 1 → winOk s t.ctx t.addr t.len .gw = true → ∃ u, exec (.write p t) s = .next u ∧
      (∀ a, hbmByte u a = if t.addr ≤ a ∧ a < t.addr + t.len ∧ (anyFailed s && lostAt s a) = false then t.data.getD (a - t.addr) 0
        else hbmByte s a) ∧
      u = { s with hbm := u.hbm, mem := { s.mem with bad := u.mem.bad }
                   out := if t.flags = 1 then s.out else (gulSend p (rsp 0x82 0 stOk []) s).out }) ∧
    (t.flags = 0 → winOk s t.ctx t.addr t.len .gr = false →
      exec (.read p t .none) s = .next (gulSend p (rsp 0x81 t.len stDenied (List.replicate t.len 0)) s)) ∧
    (t.flags ≤ 1 → winOk s t.ctx t.addr t.len .gw = false →
      exec (.write p t) s = .next (gulSend p (rsp 0x82 0 stDenied []) s))

/-- A DOORBELL with device-level CTX, LEN 8 and a zero upper word adds its count to the producer count of a context that is ON,
where the ring has room; where it has none, nothing is added, the answer is DB_OVERRUN, and a record says so (03 R63). A frame
that is good and of the port's ETYPE performs the transactions that its payload spells, in order, each as it would be performed
alone, and its source becomes the port's peer; an IEEE 1588 frame goes to the fabric time unit (ptpTake: obligation
FabricTimeAndHints), and any other frame is counted in GUL_RX_ERR and does nothing (03 R57, R58, R61; 10 R279). It says of each of
these commands that exec answers a next state, the command's own effect, wherever the stated conditions on the state and operands
hold: gulaneFrame, doorbell. Where its reading is the model's: log entries 9, 52, 72. -/
def Obligations.DoorbellsAndFrames : Prop :=
  (∀ (s : State) (p : GPort) (t : Txn) (x q n : Nat), portReady s p = true →
    t.flags = 0 → t.status = 0 → t.ctx = 0xFF → t.len = 8 → doorbellAt t.addr = some (x, q) → q < 8 →
    le t.data 0 4 = n → 0 < n → le t.data 4 4 = 0 → isOn s (fnCtx x) = true →
    let used := (rn s (A.ctxDb x q) + 2 ^ 32 - rn s (A.ctxWqCons x q)) % 2 ^ 32
    let size := 2 ^ rf s (A.ctxWqCfg x q) 4 0
    (used + n ≤ size → exec (.doorbell p t) s = .next (wn (A.ctxDb x q) ((rn s (A.ctxDb x q) + n) % 2 ^ 32) s)) ∧
    (size < used + n → exec (.doorbell p t) s = .next (gulSend p
      { op := 0x83, tag := t.tag, len := 0, ctx := 0xFF, status := stDbOverrun, addr := t.addr, data := [] }
      (raiseFault { code := 0x0309, cls := .ctxf, ctx := x, unit := ctxUnit x, detail := 2 ^ 32 * n + q, port := p.val } s)))) ∧
  (∀ (s : State) (p : GPort) (b : List Byte) (seen : MemSeen), portOn s p = true →
    (frameGood b = true → be b 12 2 = rf s (A.gulCfg p) 15 0 → be b 12 2 ≠ 0x88F7 → exec (.gulaneFrame p b seen) s =
      .next ((frameTxns b).foldl (takeTxn p seen) { s with mg := { s.mg with peer := smPut [] s.mg.peer p.val (slice b 6 6) } })) ∧
    (frameGood b = true → be b 12 2 = 0x88F7 → exec (.gulaneFrame p b seen) s =
      .next (ptpTake p ((b.take (b.length - 4)).drop 14) s)) ∧
    (frameGood b = false ∨ (be b 12 2 ≠ rf s (A.gulCfg p) 15 0 ∧ be b 12 2 ≠ 0x88F7) → exec (.gulaneFrame p b seen) s =
      .next (wn (A.gulRxErr p) (min 0xFFFFFFFF (rn s (A.gulRxErr p) + 1)) s)))

/-! ### The image and the buffer pool manager (02 R43-R54, 06 R163-R169) -/

/-- LOAD, ABORT and DISARM by the holder. LOAD in RUNNING starts the validation with what the checks use, as it stands at that
moment; during a load it is rejected with BUSY. ABORT while VALIDATING ends the load with LEASE: STATE returns to what it was
before. DISARM while ARMED discards the armed image, and STATE is ACTIVE; each section it had carried holds the version in force
again (02 R44, R48, R53, R487). The end of a validation and of a commit. A failed check rejects the image with its code, section
and detail, and STATE is what it was before the LOAD; a full image that passes goes to COMMITTING; a partial one's sections stand
in the version that is not in force, and STATE is ARMED. The end of the commit takes the image whole: STATE ACTIVE, nothing armed,
the serial and the digest those of the image, and no context, Keystone or fuse touched (02 R46, R49, R51). It says of each of
these commands that exec answers a next state, the command's own effect, wherever the stated conditions on the state and operands
hold: imgLoad, imgAbort, imgDisarm, validationEnd, commitEnd. Where its reading is the model's: log entries 8, 69. -/
def Obligations.ImageCommands : Prop :=
  (∀ (s : State) (p : GPort), portReady s p = true → s.ks.holder = some p → SmWf regReset s.regs →
    (stage s = stRunning → loading s = false → ∃ t, exec (.imgLoad p) s = .next (accessed p A.dkImgCtrl 0 stOk t) ∧
      t = { s with img := startLoad p s, regs := t.regs } ∧ imgState t = imValidating ∧ rf t A.dkImgStatus 21 16 = 0 ∧
      ∀ a, a ≠ A.dkImgStatus → a ≠ A.dkImgCtrl → rd t a = rd s a) ∧
    (stage s = stRunning → loading s = true →
      exec (.imgLoad p) s = .next (accessed p A.dkImgCtrl 0 stIgnored (imgRejectEvent p.val 4 0 0 s))) ∧
    (imgState s = imValidating → s.img.prior < 16 → ∃ t, exec (.imgAbort p) s = .next (accessed p A.dkImgCtrl 0 stOk t) ∧
      t = { s with regs := t.regs, out := t.out } ∧ imgState t = s.img.prior ∧ rf t A.dkImgStatus 15 8 = 0x1A) ∧
    (∀ a, imgState s = imArmed → s.armed = some a →
      ∃ t, exec (.imgDisarm p) s = .next (accessed p A.dkImgCtrl 0 stOk t) ∧ imgState t = imActive ∧
      t = { s with armed := none, regs := t.regs, sect := t.sect, net := { s.net with progs := t.net.progs } } ∧
      ((s.sect.Pairwise fun x y => x.1 < y.1) → (∀ y, sect t y = sect s y) ∧
        ∀ y ∈ a.types, doubleVersioned y = true → y ≠ secRseprog → sectV t y (otherEpoch s) = sect s y)) ∧
    (imgState s ≠ imArmed → exec (.imgDisarm p) s = .next (accessed p A.dkImgCtrl 0 stIgnored s))) ∧
  (∀ s : State, SmWf regReset s.regs →
    (∀ n, imgState s = imValidating → badWord s hbmBase (rn s A.dkImgLen) = none →
      ∃ t, exec (.validationEnd n) s = .next t ∧ match imageCheck (imgEnv s) (rn s A.dkImgLen) (staged s) with
      | some r => t = imgReject r.code r.section_ r.detail s
      | none => if imKind (staged s) = 0 then
          t = { s with regs := t.regs } ∧ imgState t = imCommitting ∧ rf t A.dkImgStatus 15 8 = 0 ∧
            ∀ a, a ≠ A.dkImgStatus → rd t a = rd s a
        else if tstSpent s actReconfig 16 = true then t = s
        else imgState t = imArmed ∧ t.ks = s.ks ∧ t.prot = s.prot ∧ t.hbm = s.hbm ∧
          t.armed = some { digest := imDigestOf (staged s), serial := imSerial (staged s), types := partialTypes (staged s) } ∧
          ((s.sect.Pairwise fun a b => a.1 < b.1) → ∀ y, sect t y = sect s y)) ∧
    (imgState s = imCommitting → ∃ t, exec .commitEnd s = .next t ∧ imgState t = imActive ∧ t.armed = none ∧
      cfgBytes t (A.dkImgDigest 0) 64 = imDigestOf (staged s) ∧ t.ks = s.ks ∧ t.prot = s.prot ∧ t.fuses = s.fuses ∧
      t.otp = s.otp ∧ t.pr.piers = s.pr.piers ∧ t.ft = s.ft))

/-- The pool manager. A request that its quota and its pool can serve at once takes a buffer: its handle is sent, marked owned and
charged; one that cannot waits in arrival order, and is served when its pool is asked again: the requester is sent its handle, a
retransmit copy's packet leaves, or a service request has its buffer. A return that passes the checks of Table 6.7 clears OWNED,
releases the charge and frees the buffer; during a switch it is held, and the engine waits with it where 512 are; one that fails a
check changes no pool and raises BPM_BADPTR. BPM_META_BASE forms the pools once; TO_RING and TO_LIST start a switch of form, and
its end changes MODE, applies the held returns and raises the event (06 R165-R169). It says of each of these commands that exec
answers a next state, the command's own effect, wherever the stated conditions on the state and operands hold: bpmMetaBaseWrite,
toRing, toList, bpmSwitchEnd, bpmRequest, bpmWaitingServed, bpmReturn. Where its reading is the model's: log entry 62. -/
def Obligations.PoolManagerCommands : Prop :=
  ∀ (s : State) (x : CtxNo) (c : Fin 7) (p : GPort),
    (∀ n h u, 0 < n → n ≤ poolMaxReq (pools s) c → bpmAlloc (7 * x.val + c.val) n s = (some h, u) →
      exec (.bpmRequest x c n) s = .next { u with out := u.out ++ [.buffer (7 * x.val + c.val) h] }) ∧
    (∀ n u, 0 < n → n ≤ poolMaxReq (pools s) c → bpmAlloc (7 * x.val + c.val) n s = (none, u) →
      exec (.bpmRequest x c n) s = .next { u with fab := { u.fab with bpm := { u.fab.bpm with
        waiting := u.fab.bpm.waiting ++ [{ req := 7 * x.val + c.val, size := n }] } } }) ∧
    (∀ (k : Fin 5) w h u, s.fab.bpm.waiting.find? (fun w => poolFor (pools s) w.size == some k.val) = some w →
      bpmCan s w.req k = true → bpmServe w.req k s = (some h, u) →
      let v : State := { u with fab := { u.fab with bpm := { u.fab.bpm with waiting := u.fab.bpm.waiting.erase w } } }
      (w.rcd = none → w.place = none → exec (.bpmWaitingServed k) s = .next { v with out := v.out ++ [.buffer w.req h] }) ∧
      (∀ r x, w.rcd = some r → v.fab.txWait.find? (fun x => x.rcd == r) = some x →
        exec (.bpmWaitingServed k) s = .next (pumpAll r (sendCopy r x h v))) ∧
      (∀ i q, w.rcd = none → w.place = some i → reqAtPlace v (w.req / 7) i = some q → q.status = none → q.buf = none →
        exec (.bpmWaitingServed k) s = .next { v with svc := { v.svc with
          reqs := v.svc.reqs.map fun y => if y = q then { q with buf := some h } else y } })) ∧
    (∀ h : BitVec 64, returnFails s (7 * x.val + c.val) h.toNat = none →
      (bpmSwitching s = false → exec (.bpmReturn x c h) s =
        .next (applyReturn (7 * x.val + c.val) h.toNat (ownerRead h.toNat s))) ∧
      (bpmSwitching s = true → s.fab.bpm.returns.length < 512 → badWord s (ownerAt s (handlePool h.toNat) (handleIdx s h.toNat)) 2 = none →
        exec (.bpmReturn x c h) s = .next { s with fab := { s.fab with bpm := { s.fab.bpm with
          returns := s.fab.bpm.returns ++ [(7 * x.val + c.val, h.toNat)] } } })) ∧
    (∀ h : BitVec 64, bpmSwitching s = true → 512 ≤ s.fab.bpm.returns.length → exec (.bpmReturn x c h) s =
      .next { s with fab := { s.fab with bpm := { s.fab.bpm with stalled := s.fab.bpm.stalled ++ [(7 * x.val + c.val, h.toNat)] } } }) ∧
    (∀ (h : BitVec 64) r, returnFails s (7 * x.val + c.val) h.toNat = some r → bpmSwitching s = false →
      badWord s (ownerAt s (handlePool h.toNat) (handleIdx s h.toNat)) 2 = none → exec (.bpmReturn x c h) s = .next
        (raiseFault { code := 0x1206, cls := .ctxf, ctx := (7 * x.val + c.val) / 7, unit := bpmUnit, detail := h.toNat, sub := r } s)) ∧
    (∀ w : Word, portReady s p = true → s.ks.holder = some p → bpmMode s = bmNone → sect s secPools ≠ [] →
      metaOk s (pairValue s (A.bpmMetaBase 0) w) = true → exec (.bpmMetaBaseWrite p w) s =
        .next (accessed p (A.bpmMetaBase 1) 0 stOk (bpmForm (wn64 (A.bpmMetaBase 0) (pairValue s (A.bpmMetaBase 0) w) s)))) ∧
    (portReady s p = true → s.ks.holder = some p → bpmSwitching s = false → bpmMode s = bmList →
      exec (.toRing p) s = .next (accessed p A.bpmCtrl 0 stOk (wf A.bpmStatus 2 2 1 (wn A.bpmCtrl 1 s)))) ∧
    (portReady s p = true → s.ks.holder = some p → bpmSwitching s = false → bpmMode s = bmRing →
      exec (.toList p) s = .next (accessed p A.bpmCtrl 0 stOk (wf A.bpmStatus 2 2 1 (wn A.bpmCtrl 2 s)))) ∧
    (bpmSwitching s = true → s.fab.bpm.returns = [] → s.fab.bpm.stalled = [] → SmWf regReset s.regs →
      ∃ t, exec .bpmSwitchEnd s = .next t ∧
      t = { s with regs := t.regs, out := t.out, hbm := t.hbm, mem := { s.mem with bad := t.mem.bad }
                   trc := t.trc, corr := t.corr, free := t.free, fab := { s.fab with bpm := t.fab.bpm } } ∧
      bpmSwitching t = false ∧ bpmMode t = (if bpmMode s = bmList then bmRing else bmList) ∧
      t.fab.bpm.waiting = s.fab.bpm.waiting)

/-! ### The epoch, barriers and fabric time (05 R133-R138; 10 R277-R283, R287; 16 R416) -/

/-- FLIP and RETIRE by the holder. A FLIP that R133 does not refuse puts the other version in force and leaves the old one live; a
RETIRE of an old version that has no packet left in the module ends it, and the two versions of every section are then alike. Each
that is refused changes nothing, raises RT_REFUSED and returns IGNORED (05 R133-R135; 02 R52). On a module with no tree, no
collective, no repair, no load under way and nothing that waits to leave that is all that changes. It says of each of these
commands that exec answers a next state, the command's own effect, wherever the stated conditions on the state and operands hold:
flip, retire. -/
def Obligations.EpochCommands : Prop :=
  ∀ (s : State) (p : GPort), portReady s p = true → s.ks.holder = some p →
    (flipRefused s = false → exec (.flip p) s = .next (accessed p A.rtEpochCtrl 0 stOk (doFlip p (wn A.rtEpochCtrl 1 s)))) ∧
    (oldLive s = true → oldInflight s = 0 →
      exec (.retire p) s = .next (accessed p A.rtEpochCtrl 0 stOk (doRetire p (wn A.rtEpochCtrl 2 s)))) ∧
    (flipRefused s = true → exec (.flip p) s = .next (accessed p A.rtEpochCtrl 0 stIgnored
      (raiseEvent { code := 0x0504, port := p.val, unit := rtUnit, detail := A.rtEpochCtrl } s))) ∧
    (oldLive s = false ∨ oldInflight s ≠ 0 → exec (.retire p) s = .next (accessed p A.rtEpochCtrl 0 stIgnored
      (raiseEvent { code := 0x0504, port := p.val, unit := rtUnit, detail := A.rtEpochCtrl } s))) ∧
    (SmWf regReset s.regs → (∀ v, rn64 s (A.rtTreeBase v 0) = 0) →
      (s.net.ops = [] → s.net.strm = [] → s.pr.piers = [] → s.mem.repairs = [] → s.armed = none → spareState s ≠ spLoading →
        s.net.progLoad = none → s.fab.inject = [] →
        ∃ t, t = { s with regs := t.regs, out := t.out, fab := { s.fab with noFit := t.fab.noFit } } ∧
          doFlip p.val s = t ∧ curEpoch t = otherEpoch s ∧ oldLive t = true) ∧
      ((s.sect.Pairwise fun a b => a.1 < b.1) → ∃ t, t = { s with
          regs := t.regs, out := t.out, sect := t.sect, net := { s.net with progs := t.net.progs }
          fab := { s.fab with kind0 := t.fab.kind0 } } ∧
        doRetire p.val s = t ∧ curEpoch t = curEpoch s ∧ oldLive t = false ∧
        ∀ y ∈ doubleTypes, y ≠ secRseprog → sectV t y 0 = sectV t y 1))

/-- Barriers at the tree logic. The first ARRIVE of an edge is counted and the barrier advanced; a RELEASE answers on the up edge,
and the first one arms the barrier and goes down; a RELEASE_ACK marks its edge; each takes its packet from the inbox. At a pier a
RELEASE is answered on the member's edge, and its member sends ARRIVE no more. Every 4 µs what is not answered is sent again; at
its START an armed barrier fires, once (10 R280, R281). Where the module holds one barrier, that is released: the resend sends its
releases again; past its START it fires, and is FIRED ever after; a step barrier's fire is the step boundary (10 R280-R282). It
says of each of these commands that exec answers a next state, the command's own effect, wherever the stated conditions on the
state and operands hold: barrierArrive, barrierRelease, barrierReleaseAck, barrierResend, barrierFire. Where its reading is the
model's: log entries 41, 42. -/
def Obligations.BarrierCommands : Prop :=
  (∀ (s : State) (a : Arrived) (t : Tree), pkCheckOk a.bytes = true → packetTree (takeArrived a s) a.bytes = some t →
    let u := takeArrived a s
    let c := opCseq a.bytes
    (∀ e k, barrierAt s 1 = some a → downEdge t a = some e → findBar u t.num c = none →
      exec (.barrierArrive k) s = .next (advanceBar t { newBar t c with arrived := [e] } (knownHere u t.num c k).desc u)) ∧
    (∀ e k b, barrierAt s 1 = some a → downEdge t a = some e → findBar u t.num c = some b → b.fired = false → e ∈ b.arrived →
      exec (.barrierArrive k) s = .next (putBar b u)) ∧
    (barrierAt s 2 = some a → findBar u t.num c = none → exec (.barrierRelease 128) s = .next
      (let r := pkPayload a.bytes
       released t { newBar t c with release := some (be r 8 8, be r 0x10 8, be r 0x18 1 % 64) }
        (ctrlOnEdge t t.up opBarrier c (barrierRecord 3 0 0 0) u))) ∧
    (∀ q : Fin 129, q.val < 128 → arrivedAt s q.val (fun b => pkOp b == opBarrier && brKind (pkPayload b) == 2) = some a →
      exec (.barrierRelease q) s = .next
        (let v := (barLands u t.num c).foldl (fun s x => if x.1 = q.val then putLand q { x.2 with lasts := [1] } s else s) u
         let h : Hdr := { epoch := curEpoch v, cls := clCtrl, op := opBarrier, src := pierRank v t q.val, job := t.job,
                                 oparg := collArg t.num c }
         inject { src := 700 + q.val, bytes := mkPacket h (barrierRecord 3 0 0 0) } v)) ∧
    (∀ e b, barrierAt s 3 = some a → findBar u t.num c = some b → downEdge t a = some e →
      exec .barrierReleaseAck s = .next (if b.acked.contains e then u else putBar { b with acked := b.acked ++ [e] } u))) ∧
  (∀ (s : State) (b : Barrier) (t : Tree) (step start frac : Nat),
    s.net.barriers = [b] → s.pr.piers = [] → treeAt s b.ver b.tree = some t → b.release = some (step, start, frac) →
    exec .barrierResend s = .next (sendReleases t b s) ∧
    (b.fired = false → (∃ d, pastStart s (startAt start frac) = some d) → stepBarrier s b = false →
      exec .barrierFire s = .next { s with net := { s.net with barriers := [{ b with fired := true }] } }) ∧
    (b.fired = false → (∃ d, pastStart s (startAt start frac) = some d) → stepBarrier s b = true →
      exec .barrierFire s = .next (fireBar b s)) ∧
    (b.fired = true → exec .barrierFire s = .next s))

/-- Fabric time over links. Every 16 µs a module that is not the source sends a REQ to its parent with its number and its time; a
REQ is answered with an RSP that carries back its send time, its receive time and the answer's; the RSP of the REQ that waits
gives half the difference as the offset: above 1 µs it is stepped at once. At a source that follows IEEE 1588 time, a Sync in one
step, or the Follow_Up of one in two, sends a Delay_Req, and its Delay_Resp steps an unlocked source by half of what the two ways
differ by (10 R278, R279; the messages' layout is PRESUMED: log entry 43). Hints: at the tree logic a hint goes on, with its CSEQ,
to every other edge of its tree, is reported, and a CRITICAL_PATH one sets the cap's hint; a member's pier only takes the packet.
SEND_HINT by the holder sends one on every edge of its tree and applies it here; the end of the hold takes the hint away (10 R287,
16 R416). It says of each of these commands that exec answers a next state, the command's own effect, wherever the stated
conditions on the state and operands hold: timestampTimer, timestampReq, timestampRsp, ptpMessage, hint, sendHint, hintHoldEnd. -/
def Obligations.FabricTimeAndHints : Prop :=
  (∀ (s : State) (k : SlotNo) (bytes b : List Byte),
    (ftGm s = false → s.net.lock.req = none → s.net.lock.missed < 4 → ftParent s < 512 → portUp s (ftParent s) = true →
      exec .timestampTimer s = .next (sendLane (ftParent s) (stampPacket 0 s.net.lock.tseq (s.ft % 2 ^ 64) 0 0)
        { s with net := { s.net with lock := { s.net.lock with
          tseq := (s.net.lock.tseq + 1) % 256, req := some (s.ft % 2 ^ 64), missed := s.net.lock.missed } } })) ∧
    (stampIn s k 0 bytes = some b → exec (.timestampReq k bytes) s =
      .next (sendLane k (stampPacket 1 (be b 3 1) (s.ft % 2 ^ 64) (be b 4 8) (stampRx s k)) s)) ∧
    (∀ o : Int, stampIn s k 1 bytes = some b → ftGm s = false → ftParent s = k.val →
      s.net.lock.req = some (be b 0x0C 8) → (be b 3 1 + 1) % 256 = s.net.lock.tseq →
      o = Int.tdiv (toInt 64 (ofInt 64 ((be b 0x14 8 : Int) - be b 0x0C 8 - (stampRx s k - be b 4 8)))) 2 →
      exec (.timestampRsp k bytes) s =
        .next (useOffset o { s with net := { s.net with lock := { s.net.lock with req := none, missed := 0 } } })) ∧
    (∀ o : Int, 64000 < o.natAbs → ∃ t, useOffset o s = t ∧ t.ft = (((s.ft : Int) + o) % 2 ^ 70).toNat ∧
      t.net.lock = { s.net.lock with good := 0, slew := 0, slewLen := 0, slewAt := 0 }) ∧
    ∀ (p : GPort) (m : List Byte) (t2 t3 : Nat) (t1 c : Int),
      let asks (src : List Byte) (t1 : Int) (t2 : Nat) : State := { s with
        net := { s.net with ptp := { s.net.ptp with
          sync := none, times := some (src, t1, t2), req := some (s.net.ptp.seq, s.ft), seq := (s.net.ptp.seq + 1) % 2 ^ 16 } }
        out := s.out ++ [.ptp p (delayReq s p s.net.ptp.seq)] }
      (AtClock s p 0 m → ptpTwoStep m = false →
        exec (.ptpMessage p m) s = .next (asks (ptpSource m) (ptpStamp m + ptpCorr m) s.ft)) ∧
      (AtClock s p 0 m → ptpTwoStep m = true → exec (.ptpMessage p m) s = .next { s with net := { s.net with ptp := { s.net.ptp with
        sync := some (ptpSource m, ptpSeq m, s.ft, ptpCorr m) } } }) ∧
      (AtClock s p 8 m → s.net.ptp.sync = some (ptpSource m, ptpSeq m, t2, c) →
        exec (.ptpMessage p m) s = .next (asks (ptpSource m) (ptpStamp m + c + ptpCorr m) t2)) ∧
      (AtClock s p 9 m → s.net.ptp.req = some (ptpSeq m, t3) → s.net.ptp.times = some (ptpSource m, t1, t2) →
        slice m 44 10 = ptpSelf s p → rf s A.dkFtStatus 31 30 = ftAcquire → s.net.lock.good = 0 → SmWf regReset s.regs →
        ∃ t, exec (.ptpMessage p m) s = .next t ∧ t = { s with
          ft := (((s.ft : Int) + delayOffset t1 t2 t3 (ptpStamp m - ptpCorr m)) % 2 ^ 70).toNat, regs := t.regs
          net := { s.net with lock := { s.net.lock with good := t.net.lock.good }, ptp := { s.net.ptp with req := none } } })) ∧
  (∀ s : State,
    (∀ (a : Arrived) (t : Tree), arrivedAt s 128 (fun b => pkOp b == opHint) = some a → pkCheckOk a.bytes = true →
      packetTree (takeArrived a s) a.bytes = some t → exec (.hint 128) s = .next (useHint (pkPayload a.bytes) (raiseEvent
        { code := 0x0A07, ctx := t.ctx, unit := rtUnit, detail := be (pkPayload a.bytes) 0 8 }
        (hintOnTree t (opCseq a.bytes) (fun x => !fromEdge a x) (pkPayload a.bytes) (takeArrived a s))))) ∧
    (∀ (u : Fin 129) (a : Arrived), u.val < 128 → arrivedAt s u.val (fun b => pkOp b == opHint) = some a →
      exec (.hint u) s = .next { s with fab := { s.fab with inbox := s.fab.inbox.erase a } }) ∧
    (∀ p : GPort, portReady s p = true → s.ks.holder = some p → 1 ≤ rf s A.pwrHintHold 16 0 → rf s A.pwrHintHold 16 0 ≤ 100000 →
      exec (.sendHint p) s = .next (accessed p A.pwrCtrl 0 stOk (sendHint (wn A.pwrCtrl 2 s)))) ∧
    ∃ t, exec .hintHoldEnd s = .next t ∧ t = { s with regs := t.regs } ∧
      (SmWf regReset s.regs → rf t A.pwrStatus 28 27 = 0))

/-! ### Packets, queues and ports (05 R106-R120, R128-R132; 06 R141-R160) -/

/-- Packets that arrive. On an UP external port a packet with uncorrectable codewords is dropped whole, its codewords counted and
its cells freed to the peer; one that is not a frame of the port's mode is counted in PG_RX_DISCARD; a CREDIT link packet gives
its counts to its port; any other runs through the arrival checks. A span port and an RSE take what the module's own sources have
ready. On a port that is not UP nothing arrives (04 R99; 05 R106, R113; 06 R141). Credit. A CREDIT packet that is whole sets what
the peer has freed, channel by channel, and restarts the wait of the packets of the channels that it moves; the module sends its
own counts of freed cells on an UP port (05 R113, R114). It says of each of these commands that exec answers a next state, the
command's own effect, wherever the stated conditions on the state and operands hold: packetArrive, credit, linkPacketSend. Where
its reading is the model's: log entries 62, 75. -/
def Obligations.ArrivalsAndCredit : Prop :=
  (∀ (s : State) (k : Fin 608) (bytes : List Byte) (sram : Bool),
    (∀ l : LaneNo, k.val < 512 → portUp s k = true → exec (.packetArrive k bytes [l] sram) s = .next (
      let u := wn (A.pgFecUnc (k / 8) l) (min 0xFFFFFFFF (rn s (A.pgFecUnc (k / 8) l) + 1)) s
      match unframe u k bytes with
      | some b => if pkVer b = 0xF then u else freeArrived k b u
      | none => u)) ∧
    (k.val < 512 → portUp s k = true → unframe s k bytes = none → exec (.packetArrive k bytes [] sram) s =
      .next (wn (A.pgRxDiscard (k / 8)) (min 0xFFFFFFFF (rn s (A.pgRxDiscard (k / 8)) + 1)) s)) ∧
    (∀ b, k.val < 512 → portUp s k = true → unframe s k bytes = some b → pkVer b ≠ 0xF →
      exec (.packetArrive k bytes [] sram) s = .next (arriveExternal k b sram s)) ∧
    (∀ b, k.val < 512 → portUp s k = true → unframe s k bytes = some b → pkVer b = 0xF →
      exec (.packetArrive k bytes [] sram) s = .next (takeCredit k b s)) ∧
    (512 ≤ k.val → ∀ l, exec (.packetArrive k bytes l sram) s = .next (arriveOwn k sram s)) ∧
    (∀ l, k.val < 512 → portUp s k = false → exec (.packetArrive k bytes l sram) s = .next s)) ∧
  (∀ (s : State) (k : SlotNo) (bytes b : List Byte), portUp s k = true →
    (unframe s k bytes = some b → linkOk b = true → be b 1 1 = 1 → (s.fab.peer.Pairwise fun x y => x.1 < y.1) →
      ∃ t, exec (.credit k bytes) s = .next t ∧
        t = { s with fab := { s.fab with peer := t.fab.peer, held := t.fab.held } } ∧
        (∀ c < 9, smGet 0 t.fab.peer (9 * k + c) = be b (4 + 2 * c) 2) ∧
        (∀ j, (j < 9 * k.val ∨ 9 * k.val + 9 ≤ j) → smGet 0 t.fab.peer j = smGet 0 s.fab.peer j) ∧
        t.fab.held.map (fun h => { h with waited := 0 }) = s.fab.held.map (fun h => { h with waited := 0 })) ∧
    (unframe s k bytes = none → exec (.credit k bytes) s =
      .next (wn (A.pgRxDiscard (k / 8)) (min 0xFFFFFFFF (rn s (A.pgRxDiscard (k / 8)) + 1)) s)) ∧
    exec (.linkPacketSend k) s = .next (sendLane k (mkLink ([0xF0, 0x01, 0, 0] ++
      (List.range 9).flatMap fun c => beBytes 2 (smGet 0 s.fab.freed (9 * k + c)))) s))

/-- Egress. A packet all of whose cells have come leaves its resequencer, joins its queue's tail and keeps its bytes, and one with
a cell still on its way waits; in a core cycle the carousel's rotation counter counts, modulo 80, and where no cell moves that is
all; a port that sends nothing starts the packet that its scheduler picks, which on an external port charges its channel's cells,
and no port ever holds two that it sends; at its last cell the packet leaves on the lanes, or reaches its unit's inbox; an old
MIRROR or BULK head is dropped and counted (05 R112, R119, R128; 06 R140, R146, R157, R158). The sampling tick counts every
existing queue in its depth bin, and the head of each queue that has one in its delay bin, unless INTERVAL is 0; the throttle
window gives every output and group its next level. Neither moves a packet (05 R131, R132; 06 R160). It says of each of these
commands that exec answers a next state, the command's own effect, wherever the stated conditions on the state and operands hold:
resequencerRelease, egressStart, ageDrop, sampleTick, throttleWindow, egressPacketEnd. Where its reading is the model's: log
entries 62, 75. -/
def Obligations.EgressAndThrottle : Prop :=
  (∀ s : State,
    (∀ (n i : NodeNo) (c : Fin 8) (h : Held), s.fab.held.find? (fun h => h.stage == .crossing && h.dst < 5120 &&
        outOf h.dst == n.val && nodeOf h.src == i.val && pkClass h.bytes == c.val) = some h →
      (h.come = pkCells h.bytes → exec (.resequencerRelease n i c) s = .next { s with fab := { s.fab with
        held := s.fab.held.erase h ++ [{ h with stage := .queued, waited := ftNs s, seqs := [], come := 0 }] } }) ∧
      (h.come ≠ pkCells h.bytes → exec (.resequencerRelease n i c) s = .next s)) ∧
    (∀ f : Fab, (tickFab f).turn = (f.turn + 1) % 80 ∧ (cellsMove f = false → tickFab f = { f with turn := (f.turn + 1) % 80 })) ∧
    (∀ (k : Fin 528) (h : Held), (512 ≤ k.val ∨ portUp s k = true) → portFree s k = true → pickStart s k = some h →
      ∃ t, exec (.egressStart k) s = .next (sideshow k 1 (leaves k h) t) ∧
        t = { s with fab := { s.fab with held := t.fab.held, used := t.fab.used, bucket := t.fab.bucket } } ∧
        t.fab.held = s.fab.held.map (fun g => if g = h then { h with bytes := leaves k h, stage := .sending } else g) ∧
        t.fab.used = if k.val < 512 then smPut 0 s.fab.used (9 * k + pkChan (leaves k h))
          ((smGet 0 s.fab.used (9 * k + pkChan (leaves k h)) + pkCells (leaves k h)) % 2 ^ 16) else s.fab.used) ∧
    (∀ (k : Fin 528), portFree s k = false → exec (.egressStart k) s = .next s) ∧
    (∀ (k : Fin 528) (h : Held), s.fab.held.find? (fun h => heldOn k h && h.stage == .sending) = some h →
      exec (.egressPacketEnd k) s = .next (
        let u : State := { s with fab := removeHeld (· == h) s.fab }
        if k.val < 512 then sendLane k h.bytes u
        else { u with fab := { u.fab with inbox := u.fab.inbox ++ [{ at_ := h.pier, src := k.val, bytes := h.bytes }] } })) ∧
    ∀ (k : SlotNo) (bulk : Bool) (h : Held), queueHead s (queueOf k (if bulk then clBulk else clMirror)) = some h →
      1000 * ageUs s (pkEpoch h.bytes) ≤ (ftNs s + 2 ^ 64 - h.waited) % 2 ^ 64 → exec (.ageDrop k bulk) s =
        .next (wn (A.swCnt 2) (min 0xFFFFFFFF (rn s (A.swCnt 2) + 1)) { s with fab := removeHeld (· == h) s.fab })) ∧
  (∀ s : State,
    (rf s A.swSampleCfg 15 0 = 0 → exec .sampleTick s = .next s) ∧
    (rf s A.swSampleCfg 15 0 ≠ 0 → SmWf regReset s.regs → ∃ t, exec .sampleTick s = .next t ∧ t = { s with regs := t.regs } ∧
      ∀ q ∈ existingQueues s, ∀ b < 16, rn t (A.shpHist (q / 64) (q % 64) 0 b) =
        min 0xFFFFFFFF (rn s (A.shpHist (q / 64) (q % 64) 0 b) + if b = depthBin (queueDepth s q) then 1 else 0)) ∧
    (sect s secClasses ≠ [] → (s.fab.throttle.Pairwise fun x y => x.1 < y.1) → ∃ t, exec .throttleWindow s = .next t ∧
      t = { s with fab := { s.fab with throttle := t.fab.throttle } } ∧
      ∀ n < 80, ∀ g < 3, smGet 0 t.fab.throttle (3 * n + g) =
        nextLevel s g (smGet 0 s.fab.throttle (3 * n + g)) (nodeDepth s n (groupClass g))))

/-! ### Streams (05 R121-R127) -/

/-- What acknowledges and resends, at the source and at the destination, for a record of the job that the packet names. An ACK has
its effect on its record (onAck: obligation AckAdvances); a NACK for CHECK or GAP resends from its SEQ, one for NORECV or NOBUF
notes the SEQ from which the record resends when RTO has passed, and an EVICT_NOTICE resends at once; a timeout counts a try and
resends all with RTO doubled, and the last try ends the stream in ERROR with a record; the acknowledge timer sends the ACK that is
due (05 R122-R127). It says of each of these commands that exec answers a next state, the command's own effect, wherever the
stated conditions on the state and operands hold: ack, nack, evictNotice, ackTimer, retransmitTimeout, resendAfterRto. Where its
reading is the model's: log entry 12. -/
def Obligations.StreamCommands : Prop :=
  ∀ (s : State) (u : Fin 129) (a : Arrived) (r : Nat), pkCheckOk a.bytes = true →
    let t := srRead r (takeArrived a s)
    (arrivedAt s u.val (fun b => pkOp b == opAck) = some a → pkSr a.bytes = r → srJob t r = pkJob a.bytes →
      exec (.ack u) s = .next (onAck r (pkOparg a.bytes % 2 ^ 32) t)) ∧
    (arrivedAt s u.val (fun b => pkOp b == opNack) = some a → pkSr a.bytes = r → srJob t r = pkJob a.bytes →
      srState t r = srOpen → pkOparg a.bytes / 2 ^ 32 = 1 ∨ pkOparg a.bytes / 2 ^ 32 = 2 →
      exec (.nack u) s = .next (resend r (pkOparg a.bytes % 2 ^ 32) t)) ∧
    (arrivedAt s u.val (fun b => pkOp b == opNack) = some a → pkSr a.bytes = r → srJob t r = pkJob a.bytes →
      srState t r = srOpen → pkOparg a.bytes / 2 ^ 32 = 3 ∨ pkOparg a.bytes / 2 ^ 32 = 4 → smGet none t.fab.rtoFrom r = none →
      exec (.nack u) s = .next
        { t with fab := { t.fab with rtoFrom := smPut none t.fab.rtoFrom r (some (pkOparg a.bytes % 2 ^ 32)) } }) ∧
    (arrivedAt s u.val (fun b => pkOp b == opEvict) = some a → pkSr a.bytes = r → srJob t r = pkJob a.bytes →
      srState t r = srOpen → exec (.evictNotice u) s = .next (resend r (pkOparg a.bytes % 2 ^ 32) t)) ∧
    ∀ (k : BitVec 22) (c : Retx) (q : Nat) (f : AckFrom),
      (smGet none s.fab.ackTimer k.toNat = some f → exec (.ackTimer k) s =
        .next (sendAck f k.toNat (srRxExp s k.toNat + 2 ^ 32 - 1) s)) ∧
      (s.fab.retx.find? (fun c => c.rcd == k.toNat) = some c → srState s k.toNat = srOpen →
        exec (.retransmitTimeout k) s = .next (
          let v := srPut k.toNat 0x24 1 (srTries s k.toNat + 1) s
          if cfgMaxTries s ≤ srTries s k.toNat + 1 then raiseFault { code := 0x1205, cls := .ctxf, ctx := srCtx v k.toNat
                                                                     unit := srcUnit c.src, detail := k.toNat } (endStream k.toNat srError v)
          else resend k.toNat (srTxUna v k.toNat) (srPut k.toNat 0x20 4 (2 * srRto v k.toNat) v))) ∧
      (smGet none s.fab.rtoFrom k.toNat = some q → exec (.resendAfterRto k) s =
        .next (resend k.toNat q { s with fab := { s.fab with rtoFrom := smPut none s.fab.rtoFrom k.toNat none } }))

/-- What an ACK does at the source of an OPEN record whose window it falls in: RTO and TRIES start anew, TX_UNA is the next SEQ
after it, and what is left unacknowledged is less than before (05 R122, R124), where the record's word can be read. -/
def Obligations.AckAdvances : Prop :=
  ∀ (s : State) (r n : Nat), Memory.wf s.hbm → rn64 s (A.rtSrBase 0) ≠ 0 → n < 2 ^ 32 →
    badWord s (srAt s r 0) 64 = none → anyFailed s = false →
    (∀ w ∈ s.fab.txWait, w.rcd ≠ r) → (∀ c ∈ s.fab.retx, c.rcd ≠ r) → (∀ w ∈ s.fab.watch, w.rcd ≠ r) →
    (srState s r = srOpen → seqSub n (srTxUna s r) < seqSub (srTxNext s r) (srTxUna s r) →
      srTxUna (onAck r n s) r = (n + 1) % 2 ^ 32 ∧ srTries (onAck r n s) r = 0 ∧ srTxNext (onAck r n s) r = srTxNext s r ∧
      seqSub (srTxNext s r) (srTxUna (onAck r n s) r) < seqSub (srTxNext s r) (srTxUna s r)) ∧
    (srState s r ≠ srOpen ∨ seqSub (srTxNext s r) (srTxUna s r) ≤ seqSub n (srTxUna s r) → onAck r n s = s)

/-! ### Transfers on streams (11 R306-R309) -/

/-- What lands at a pier. A packet that its stream delivers is written where its receive says, RX_EXP rises and it is
acknowledged; the LAST packet of a PUT signals, that of a SEND completes the oldest ONESHOT receive, that of a GET_RSP completes
its GET; a GET_REQ is answered from the exposed range, with nothing written. One that is out of its order is not delivered (05
R123; 11 R308, R309). The commands of the TXE and the RXE. SEND hands its bytes to its stream and waits for their acknowledgement;
GET sends its request and waits for its landing; its watchdog ends it with TIMEOUT; SR_OPEN opens the record with its owner and
peer; SR_CLOSE waits until all is acknowledged and frees it; a RECV arms its receive, one of MODE 1 completes at arming without
its signal, and one of MODE 3 disarms all of its record (11 R306-R309; 12 R325). It says of each of these commands that exec
answers a next state, the command's own effect, wherever the stated conditions on the state and operands hold: put, sendPacket,
getReq, getRsp, send, get, getWatchdog, srOpen, srClose, recvOneshot, recvStanding, recvExpose, recvCancel. Where its reading is
the model's: log entries 21, 30, 32. -/
def Obligations.LandingAndTransfers : Prop :=
  (∀ (s : State) (p : PierNo) (b : List Byte) (v : Recv) (u w : State),
    let ack := pierAnswers s (srCtx s (pkSr b)) p
    (Delivers s p opPut (fun s b => recvOf s p (pkSr b) 1) b v u → landIn p v b u = (true, w) →
      exec (.put p) s = .next (rxAccept ack b (if pkFlag b flLast then standingLast p v b w else w))) ∧
    (Delivers s p opSend (fun s b => recvOf s p (pkSr b) 0) b v u → landIn p v b u = (true, w) →
      exec (.sendPacket p) s = .next (rxAccept ack b (if pkFlag b flLast then
        completeCmd p eRxe v.run csOk 0 (onPier p (fun x => { x with recvs := x.recvs.erase v }) w) else w))) ∧
    (Delivers s p opGetRsp (fun s b => rspRecv s p (pkSr b)) b v u → landIn p v b u = (true, w) → pkFlag b flLast = false →
      exec (.getRsp p) s = .next (rxAccept ack b w)) ∧
    (∀ t : Tracked, Delivers s p opGetRsp (fun s b => rspRecv s p (pkSr b)) b v u → landIn p v b u = (true, w) →
      pkFlag b flLast = true → v.mode = 1 → getOf w p (pkSr b) (pkOparg b + pkLen b) = some t →
      exec (.getRsp p) s = .next (rxAccept ack b (completeTracked p t csOk w))) ∧
    (Delivers s p opGetReq (fun s b => recvOf s p (pkSr b) 2) b v u → pkOparg b + be (pkPayload b) 0 4 ≤ v.len →
      ownOpen u v.run.ctx (be (pkPayload b) 4 4 % 2 ^ 22) (· ≤ clRsp) = true →
      exec (.getReq p) s = .next (rxAccept ack b (sendData
        { w := { v.by_ p with engine := eTxe }, rcd := be (pkPayload b) 4 4 % 2 ^ 22, cls := clRsp, op := opGetRsp, flags := 0,
          src := v.dst + pkOparg b, off := be (pkPayload b) 8 4, len := be (pkPayload b) 0 4, last := true } u).2))) ∧
  (∀ (s : State) (p : PierNo) (r : RunCmd),
    (∀ ok u, Runs s p eTxe 0x30 r (sendFaults s r) → sendData (sendOf s p r) s = (ok, u) → exec (.send p .none none) s =
      .next (if ok = true then track p eTxe r (.acked (snSr r.bytes) (lastSeq u (snSr r.bytes))) u else finish p eTxe csFaulted 0 u)) ∧
    (Runs s p eTxe 0x31 r (getFaults p s r) → ∃ u, exec (.get p) s = .next
      (track p eTxe r (.got (gtSr r.bytes) (lastSeq u (gtSr r.bytes)) (gtRsr r.bytes) (gtLoff r.bytes + gtLen r.bytes)) u) ∧
      u = { s with fab := u.fab, hbm := u.hbm, mem := { s.mem with bad := u.mem.bad }, regs := u.regs, out := u.out
                   trc := u.trc, corr := u.corr, free := u.free }) ∧
    (∀ (t : Tracked) (tag : BitVec 32), (getEng s p eTxe).track.find? (fun t => cmOp t.run.bytes == 0x31 &&
        cmTag t.run.bytes == tag.toNat) = some t → exec (.getWatchdog p tag) s = .next (completeTracked p t csTimeout s)) ∧
    (Runs s p eTxe 0x33 r (srOpenFaults s r) → rn64 s (A.rtSrBase 0) ≠ 0 → Memory.wf s.hbm → anyFailed s = false →
      badWord s (srAt s (le r.bytes 0x10 4) 0) 64 = none → ∃ u, exec (.srOpen p) s = .next (finish p eTxe csOk 0 u) ∧ u = { s with hbm := u.hbm, mem := { s.mem with bad := u.mem.bad } } ∧
        let k := le r.bytes 0x10 4
        srState u k = srOpen ∧ srTxNext u k = 0 ∧ srTxUna u k = 0 ∧ srRxExp u k = 0 ∧ srClass u k = le r.bytes 0x1C 1 ∧
        srWindow u k = le r.bytes 0x1E 2 ∧
        ∀ a, (a < srAt s k 0 ∨ srAt s k 0 + 64 ≤ a) → hbmByte u a = hbmByte s a) ∧
    (Runs s p eTxe 0x34 r (srCloseFaults s r) →
      let k := le r.bytes 0x10 4
      (srTxUna s k ≠ srTxNext s k ∨ waitingOn s k ≠ 0 → exec (.srClose p) s = .next s) ∧
      (srTxUna s k = srTxNext s k → waitingOn s k = 0 → exec (.srClose p) s = .next (finish p eTxe csOk 0 (srPut k 0 1 srFree
        { cancelRecord k s with fab := { (cancelRecord k s).fab with
          ackTimer := smPut none (cancelRecord k s).fab.ackTimer k none
          gapAt := smPut none (cancelRecord k s).fab.gapAt k none
          rtoFrom := smPut none (cancelRecord k s).fab.rtoFrom k none } })))) ∧
    (Runs s p eRxe 0x38 r (recvFaults s r) →
      (rvMode r.bytes = 0 → exec (.recvOneshot p) s =
        .next (onEng p eRxe (fun g => { g with running := none }) (arm p (recvOfCmd r) s))) ∧
      (rvMode r.bytes = 1 → (s.pr.piers.Pairwise fun a b => a.1 < b.1) → ((getPier s p).engs.Pairwise fun a b => a.1 < b.1) →
        ∃ u, exec (.recvStanding p) s = .next u ∧ u = { s with pr := { s.pr with piers := u.pr.piers } } ∧
        (getPier u p).recvs = (getPier s p).recvs ++ [recvOfCmd r] ∧
        (getEng u p eRxe).running = some { r with sig := none, status := some csOk, detail := 0 }) ∧
      (rvMode r.bytes = 2 → exec (.recvExpose p) s = .next (finish p eRxe csOk 0 (arm p (recvOfCmd r) s))) ∧
      (rvMode r.bytes = 3 → exec (.recvCancel p) s =
        .next (finish p eRxe csOk 0 (cancelRecord (rvSr r.bytes) s)))))

/-- What LOAD and STORE copy. Each moves the rows of its command in order, and ends OK, or FAULTED where a row could not be moved
whole; the two forms of row selection copy the rows that they select, and the first writes the list of them (11 R305; 13
R347-R349). So a LOAD of one row that lies in one piece inside a readable window puts its bytes in the local store, and changes no
other byte of it and nothing else. It says of each of these commands that exec answers a next state, the command's own effect,
wherever the stated conditions on the state and operands hold: load, loadRowSelection, loadListin, store. Where its reading is the
model's: log entry 67. -/
def Obligations.MoveCommands : Prop :=
  (∀ (s : State) (p : PierNo) (r : RunCmd),
    let b := r.bytes
    (Runs s p eDmi 0x20 r (loadFaults b) → dmStok b = 0 → dmListin b = false → ∀ q,
      copyListed (r.by_ p eDmi) b (List.range (dmRows b)) s = q →
      exec (.load p .none none) s = .next (finish p eDmi (if q.1 then csOk else csFaulted) 0 q.2)) ∧
    (Runs s p eDmo 0x21 r (storeFaults b) → ∀ q, copyListed (r.by_ p eDmo) b (List.range (dmRows b)) s = q →
      exec (.store p .none none) s = .next (finish p eDmo (if q.1 then csOk else csFaulted) 0 q.2)) ∧
    (Runs s p eDmi 0x20 r (selectFaults b) → dmStok b ≠ 0 → dmListin b = false → ∀ rows q,
      rows = selectedRows b (readWords s r.ctx p (dmSel b) (dmStok b * dmRows b)) →
      copyListed (r.by_ p eDmi) b rows s = (true, q) → exec (.loadRowSelection p .none none) s =
        .next (finish p eDmi csOk 0 (auditLoad p r rows (writeList r.ctx p (dmList b) rows q)))) ∧
    (Runs s p eDmi 0x20 r (listinFaults b) → dmListin b = true → ∀ n rows q,
      n = ofLe (ctxLocRd s r.ctx p (dmList b) 4) → n ≤ dmRows b →
      rows = (List.range n).map (fun i => ofLe (ctxLocRd s r.ctx p (dmList b + 4 * (i + 1)) 4)) →
      badList (dmRows b) rows = none → copyListed (r.by_ p eDmi) b rows s = q →
      exec (.loadListin p .none none) s = .next (finish p eDmi (if q.1 then csOk else csFaulted) 0 q.2))) ∧
  (∀ (s : State) (p : PierNo) (r : RunCmd) (a d n : Nat), Runs s p eDmi 0x20 r (loadFaults r.bytes) → dmStok r.bytes = 0 →
    dmListin r.bytes = false → dmRows r.bytes = 1 → dmRbytes r.bytes = n → 0 < n → dmSrc r.bytes = a → a < 2 ^ 63 →
    a % 4096 + n ≤ 4096 → dmDst r.bytes = 2 ^ 63 + d → d + n ≤ 2 ^ 24 → winOk s r.ctx a n .rd = true → badWord s a n = none →
    residentOn s r.ctx p = true → SmWf (fun _ => (0 : Byte)) s.pr.store →
    ∃ u, exec (.load p .none none) s = .next (finish p eDmi csOk 0 u) ∧ u = { s with pr := { s.pr with store := u.pr.store } } ∧
      ∀ k, smGet 0 u.pr.store k = if 2 ^ 24 * p.val + d ≤ k ∧ k < 2 ^ 24 * p.val + d + n then
        hbmByte s (a + (k - (2 ^ 24 * p.val + d))) else smGet 0 s.pr.store k)

/-- Whatever a STORE does, and however it ends, it changes only bytes of memory that a valid window of its context lets it write:
each lies in a window with W (03 R73, R74). It says that exec answers a next state, the command's own effect, wherever the stated
conditions hold, for store. -/
def Obligations.StoreStaysInWindows : Prop :=
  ∀ (s t : State) (p : PierNo) (r : RunCmd) (x : MemSeen) (sram : Option (BitVec 24)), Canonical s → r.ctx < 64 →
    runningOp s p eDmo 0x21 = some r → exec (.store p x sram) s = .next t → ∀ a, hbmByte t a ≠ hbmByte s a →
    (∃ i, i < winCount s r.ctx ∧ winAllows s r.ctx i a 1 .w = true) ∨
      (∃ b, residentOn s r.ctx p = false ∧ saveArea s r.ctx p = some b ∧ b ≤ a ∧ a < b + 2 ^ 24)

/-! ### Work queues, tasks and engine queues (11 R290-R301, R317, R318; 12 R320-R326) -/

/-- The scheduler takes the next entry of a queue whose context is resident in a group and may be granted: an entry that it can
read and that is valid joins the queue with its grants, is numbered, and its grants are handed out, and one that is not valid
joins it with no grants and is reported; the entry whose tasks have all ended completes, its DONE word, where it names one, is
written, and CONS passes what has completed at the front (11 R292, R293, R294). A task starts on a core that has a grant and no
task, and no service grant before it, at the entry's PC with the registers of R295; the instruction that stores the last byte of a
port pushes the staged command, and a full queue stalls it; it ends by an ecall with a7 = 0, its entry counting it, or in a trap,
which makes the entry FAULTED; a word of the stores that cannot be corrected traps (11 R295, R296; 14 R362; 18 R450). A core cycle
of a task changes nothing but the pier's core and the staging of its ports, its own local stores, and bytes of memory that a valid
window of its context lets it write; an instruction that pushes, ends the task or traps waits for QUEUE_PUSH or TASK_END (11 R295,
R296; 03 R73, R74; the model's division of a task into commands: log entry 84). A write of SPN_GROUP by the holder that changes
its context starts the switch of the group's piers, and changes only the context's field and what waits of grants; during a switch
it is ignored. With every pier ready and the budget unspent, the switch saves and restores them all, ends, and is reported; a pier
then runs for the new context (11 R291, R317, R318). It says of each of these commands that exec answers a next state, the
command's own effect, wherever the stated conditions on the state and operands hold: wqEntry, wqEntryComplete, taskStart, taskEnd,
queuePush, residentSwitchStart, ctxSwitch. Where its reading is the model's: log entries 45, 46, 76, 77. -/
def Obligations.QueuesTasksAndSwitches : Prop :=
  (∀ (s : State) (x : CtxNo) (i : SpanNo),
    (∀ k b, groupWith s x i = some k → mayGrant s x i = true → wqProd s x i ≠ wqNextOf s x i →
      readEntry x i (wqNextOf s x i) s = (some b, s) →
      let joins (status : Nat) (u : State) := handOut x i (putWq x i (wqAt s x i ++ [takenEntry (wqNextOf s x i) b status])
        { u with pr := { u.pr with wqNext := smPut 0 s.pr.wqNext (8 * x + i) ((wqNextOf s x i + 1) % 2 ^ 32) } })
      (wqValid b = true → exec (.wqEntry x i) s = .next (joins csOk s)) ∧
      (wqValid b = false → exec (.wqEntry x i) s = .next (joins csMalformed (raiseFault
        { code := 0x0B08, cls := .ctxf, ctx := x, unit := spanUnit i, tag := wqTag b, detail := 2 ^ 32 * wqTag b + i } s)))) ∧
    (wqProd s x i = wqNextOf s x i → exec (.wqEntry x i) s = .next s) ∧
    (∀ e, (wqAt s x i).find? entryEnded = some e → wqDone e.bytes = 0 → exec (.wqEntryComplete x i) s =
      .next (handOut x i (passEntries x i (onEntry x i e.num (fun e => { e with complete := true }) s)))) ∧
    ∀ e, (wqAt s x i).find? entryEnded = some e → wqDone e.bytes ≠ 0 → exec (.wqEntryComplete x i) s =
      .next (handOut x i (passEntries x i (onEntry x i e.num (fun e => { e with complete := true })
        (spanWrite x i ((groupWith s x i).getD 0) (wqTag e.bytes) (wqDone e.bytes)
          (leBytes 8 (completionWord (wqTag e.bytes) e.status 0)) s))))) ∧
  (∀ (s : State) (p : PierNo) (g : Grant),
    (∀ e, (getPier s p).grant = some g → (getPier s p).task = none → pierReady s p = true → mayGrant s g.ctx (p / 16) = true →
      serviceFirst s g.ctx p = false → entryOf s p g = some e →
      ∃ u, exec (.taskStart p) s = .next (handOut g.ctx (p.val / 16) u) ∧ u = { s with
          pr := { s.pr with piers := smPut Pier.reset s.pr.piers p { getPier s p with
            grant := none, task := some g, svcTurn := true
            core := { pc := wqPc e.bytes, x := taskRegs e.bytes g p (positionOf s p), resv := none } } }
          trc := u.trc }) ∧
    (runningTask s p = some g →
      (coreNext s p g.ctx = .ecall → exec (.taskEnd p false) s = .next (endTask p g false s)) ∧
      (∀ t, coreNext s p g.ctx = .traps t → exec (.taskEnd p false) s = .next (trapTask p g t s)) ∧
      exec (.taskEnd p true) s = .next (trapTask p g (sramTrap s p g.ctx) s) ∧
      ∀ (d : CoreDo) (e : Nat), coreNext s p g.ctx = .does d → pushesTo d = some e →
        let u := coreDoes p d s
        (256 ≤ (getEng u p e).queue.length → exec (.queuePush p) s =
          .next (onPier p (fun x => { x with stalled := some (e, slice (getEng u p e).staging 0 64) }) u)) ∧
        ((getEng u p e).queue.length < 256 → exec (.queuePush p) s = .next (pushCmd p e (slice (getEng u p e).staging 0 64) u)))) ∧
  (∀ (s t : State) (p : PierNo), Canonical s → tickCore s p = t →
    t = { s with hbm := t.hbm
                 mem := { s.mem with bad := t.mem.bad }
                 pr := { s.pr with piers := t.pr.piers, store := t.pr.store } } ∧
    (runningTask s p = none → t = s) ∧
    ∀ g, runningTask s p = some g →
      (∀ d, coreNext s p g.ctx = .does d → pushesTo d = none → t = coreDoes p d s) ∧
      ((∀ d, coreNext s p g.ctx = .does d → pushesTo d ≠ none) → t = s) ∧
      (∀ k, (k < 2 ^ 24 * p.val ∨ 2 ^ 24 * (p.val + 1) ≤ k) → smGet 0 t.pr.store k = smGet 0 s.pr.store k) ∧
      ∀ a, hbmByte t a ≠ hbmByte s a → ∃ i, i < winCount s g.ctx ∧ winAllows s g.ctx i a 1 .w = true) ∧
  (∀ (s : State) (p : GPort) (i : SpanNo) (k : Fin 4) (w : Word),
    (portReady s p = true → holds s p (dieOf (A.spnGroup i k)) = true →
      (groupSwitching s i k = true → exec (.residentSwitchStart p i k w) s =
        .next (accessed p (A.spnGroup i k) 0 stIgnored s)) ∧
      (groupSwitching s i k = false → groupCtx s i k = none → fget w 31 31 = 1 → rf s (A.spnGroup i k) 31 31 = 0 →
        ctxElsewhere s i k (groupCtxOf w) = false →
        exec (.residentSwitchStart p i k w) s = .next (accessed p (A.spnGroup i k) 0 stOk
          ((groupPiers s i k).foldl beginSwitch (wf (A.spnGroup i k) 31 31 1 (wf (A.spnGroup i k) 28 23 (fget w 28 23) s)))))) ∧
    (∀ cycles, groupPiers s i k ≠ [] → (∀ q ∈ groupPiers s i k, switchReady s q = true) → tstSpent s actCtxSave (8 + i) = false →
      groupCtx s i k = none → exec (.ctxSwitch i k cycles) s = .next (raiseEvent
        { code := 0x0B09, ctx := 0xFF, unit := spanUnit i, detail := i.val * 2 ^ 4 + k.val }
        ((groupPiers s i k).foldl (switchPier none) (tstCharge actCtxSave (8 + i) cycles s)))) ∧
    (∀ cycles x, groupPiers s i k ≠ [] → (∀ q ∈ groupPiers s i k, switchReady s q = true) →
      tstSpent s actCtxSave (8 + i) = false → groupCtx s i k = some x → exec (.ctxSwitch i k cycles) s = .next (handOut x i
        (raiseEvent { code := 0x0B09, ctx := x, unit := spanUnit i, detail := i.val * 2 ^ 4 + k.val }
        ((groupPiers s i k).foldl (switchPier (some x)) (tstCharge actCtxSave (8 + i) cycles s))))))

/-- The grants of an entry cut its tiles: grant g begins at FTILE + g × GRANT, none is empty or longer than GRANT, one begins
where the one before ends, and together they have TCOUNT tiles (11 R293). Where its reading is the model's: log entry 45. -/
def Obligations.GrantsCutTheTiles : Prop :=
  ∀ (x n : Nat) (b : List Byte), wqValid b = true →
    let e := takenEntry n b csOk
    (∀ g < e.total, (grantOf x e g).first = wqFtile b + g * wqGrant b ∧ 0 < (grantOf x e g).count ∧
      (grantOf x e g).count ≤ wqGrant b ∧
      (g + 1 < e.total → (grantOf x e (g + 1)).first = (grantOf x e g).first + (grantOf x e g).count)) ∧
    ((List.range e.total).map fun g => (grantOf x e g).count).sum = wqTcount b

/-- An engine takes its head, where it may and is free and no break stops it: at once where it waits on nothing; where it waits on
a counter, only as the oldest waiter and with the count above 0, which it takes one from; a break stops it first. What has ended
completes, and SYNC ends at once (11 R298, R299, R301; 12 R324, R333). It says of each of these commands that exec answers a next
state, the command's own effect, wherever the stated conditions on the state and operands hold: commandDequeue, commandComplete,
sync. Where its reading is the model's: log entry 66. -/
def Obligations.EngineQueueCommands : Prop :=
  ∀ (s : State) (p : PierNo) (e : Fin 8) (x : Nat) (h : QCmd),
    ((getPier s p).resident = some x → headOf s p e = some h → mayDequeue s p x = true → engineFree s p e h.bytes = true →
      (waitsOn s p x e = none → breakCause s p x e h.bytes = none → exec (.commandDequeue p e) s = .next (takeHead p x e h s)) ∧
      (∀ c, waitsOn s p x e = none → breakCause s p x e h.bytes = some c →
        exec (.commandDequeue p e) s = .next (breakHead p x e c h s)) ∧
      (∀ k, waitsOn s p x e = some k → (getEng s p e).waits = some h.seq →
        (flagCount s p k = 0 ∨ oldestWaiter s p x e k = false → exec (.commandDequeue p e) s = .next s) ∧
        (0 < flagCount s p k → oldestWaiter s p x e k = true → breakCause s p x e h.bytes = none →
          exec (.commandDequeue p e) s = .next (takeHead p x e h (traced
            { kind := 5, engine := e, pier := p, ctx := x, tag := cmTag h.bytes, seq := h.seq, flag := cmWaitf h.bytes,
              counter := k, count := flagCount s p k - 1 }
            (wf (A.pierFlag p k) 7 0 (flagCount s p k - 1) s)))))) ∧
    (∀ r st, (getEng s p e).running = some r → r.status = some st → exec (.commandComplete p e) s =
      .next (completeCmd p e r st r.detail (onEng p e (fun g => { g with running := none }) s))) ∧
    (∀ t st, (getEng s p e).running = none → firstSettled s (getEng s p e).track = some (t, st) →
      exec (.commandComplete p e) s =
        .next (completeCmd p e t.run st 0 (onEng p e (fun g => { g with track := g.track.erase t }) s))) ∧
    ∀ r, Runs s p e 0x01 r (noNumbers r.bytes ++ mustBeZero r.bytes 0x10 48) →
      exec (.sync p e) s = .next (finish p e csOk 0 s)

/-- A completion writes its word TAG, STATUS and DETAIL, low byte first, at CSTAT in the pier's store, counts in PIER_DONE, and
signals only with status OK; what it leaves of memory is what it was (11 R299; 12 R325). -/
def Obligations.CompletionWords : Prop :=
  ∀ (s : State) (p : PierNo) (e : Fin 8) (r : RunCmd) (st d : Nat), Canonical s → residentOn s r.ctx p = true →
    cmCstatEn r.bytes = true → cmCstat r.bytes % 8 = 0 → cmCstat r.bytes < 0x200000 → (st ≠ 0 ∨ cmSigEn r.bytes = false) →
    ∃ t, completeCmd p e r st d s = t ∧ t = { s with regs := t.regs, trc := t.trc, pr := { s.pr with store := t.pr.store } } ∧
      rn t (A.pierDone p e) = (rn s (A.pierDone p e) + 1) % 2 ^ 32 ∧
      locRd t p (cmCstat r.bytes) 8 = leBytes 8 (2 ^ 32 * cmTag r.bytes + 2 ^ 24 * st + d % 2 ^ 24) ∧
      ∀ k, (k < 2 ^ 24 * p.val + cmCstat r.bytes ∨ 2 ^ 24 * p.val + cmCstat r.bytes + 8 ≤ k) →
        smGet 0 t.pr.store k = smGet 0 s.pr.store k

/-- A malformed command ends MALFORMED and raises its record with the offset of its first faulty field; no byte of memory or of a
local store changes, and nothing is sent on a stream. It holds for every engine command whose fields are checked; here MATMUL,
SYNC and STORE (11 R300, 00 R486). It says of each of these commands that exec answers a next state, the command's own effect,
wherever the stated conditions on the state and operands hold: sync, matmul, store. Where its reading is the model's: log entry
66. -/
def Obligations.MalformedCommands : Prop :=
  ∀ (s : State) (p : PierNo) (r : RunCmd) (o : Nat),
    let bad (e : Nat) : State := finish p e csMalformed 0 (byFault (r.by_ p e) 0x0B01 (2 ^ 32 * cmTag r.bytes + o) s)
    (∀ g : GirdNo, runningOp s p g 0x10 = some r → firstFault (cstatFault r.bytes ++ mmFaults g false r.bytes) = some o →
      exec (.matmul p g .none) s = .next (bad g)) ∧
    (∀ e : Fin 8, runningOp s p e 0x01 = some r →
      firstFault (cstatFault r.bytes ++ (noNumbers r.bytes ++ mustBeZero r.bytes 0x10 48)) = some o →
      exec (.sync p e) s = .next (bad e)) ∧
    (∀ x sram, runningOp s p eDmo 0x21 = some r → firstFault (cstatFault r.bytes ++ storeFaults r.bytes) = some o →
      exec (.store p x sram) s = .next (bad eDmo)) ∧
    ∀ e, (bad e).hbm = s.hbm ∧ (bad e).pr.store = s.pr.store ∧ (bad e).fab = s.fab ∧ (bad e).net = s.net

/-! ### Debug, NaN records, sentinel and retirement (07 R203; 12 R325-R336; 18 R455-R463; 01 R27, R28) -/

/-- The debug unit. The holder sets a counter, resumes a broken pier or steps it, and starts a trace session, which begins empty;
the monitor of a pier that is stuck fires once, latches the heads, and raises its record; the oldest record of a running session
is written at its place in the ring with WPTR risen by one, and a stopped session's is dropped and counted. CLEAR of a context's
NaN record clears it and the count, and RESUME clears STOPPED, each and no more (07 R203; 12 R325, R330-R336; 18 R456). It says of
each of these commands that exec answers a next state, the command's own effect, wherever the stated conditions on the state and
operands hold: nanClear, pierFlagWrite, tightrope, breakResume, breakStep, traceEnable, traceRecordWrite, ctxResume. Where its
reading is the model's: log entry 47. -/
def Obligations.DebugCommands : Prop :=
  ∀ (s : State) (p : GPort),
    (∀ (q : PierNo) (k : Fin 256) (w : Word), portReady s p = true → holds s p (dieOf (A.pierFlag q k)) = true →
      exec (.pierFlagWrite p q k w) s = .next (accessed p (A.pierFlag q k) 0 stOk (wf (A.pierFlag q k) 7 0 (fget w 7 0) s))) ∧
    (∀ (q : PierNo), portReady s p = true → holds s p (dieOf (A.pierBrkCtrl q)) = true → rbit s (A.pierBrkStatus q) 31 = true →
      exec (.breakResume p q) s = .next (accessed p (A.pierBrkCtrl q) 0 stOk (resumePier q false (wf (A.pierBrkCtrl q) 3 0 1 s))) ∧
      exec (.breakStep p q) s = .next (accessed p (A.pierBrkCtrl q) 0 stOk (resumePier q true (wf (A.pierBrkCtrl q) 3 0 2 s)))) ∧
    (∀ (q : PierNo), portReady s p = true → holds s p (dieOf (A.pierBrkCtrl q)) = true → rbit s (A.pierBrkStatus q) 31 = false →
      exec (.breakResume p q) s = .next (accessed p (A.pierBrkCtrl q) 0 stIgnored s) ∧
      exec (.breakStep p q) s = .next (accessed p (A.pierBrkCtrl q) 0 stIgnored s)) ∧
    (∀ (q : PierNo) x, (getPier s q).resident = some x → rbit s (A.pierTrCfg q) 31 = true → rbit s (A.pierTrStatus q) 31 = false →
      pierStuck s q x = true → exec (.tightrope q) s = .next (fireTightrope q x s)) ∧
    (∀ (i : Fin 16) (w : Word), portReady s p = true → s.ks.holder = some p → fget w 0 0 = 1 → 8 ≤ fget w 12 8 → fget w 12 8 ≤ 26 →
      SmWf regReset s.regs → ∃ t, exec (.traceEnable p i w) s = .next (accessed p (A.trcEn i) 0 stOk t) ∧
        t = { s with regs := t.regs, trc := s.trc.filter fun r => r.1 != i.val } ∧ rbit t (A.trcEn i) 0 = true ∧
        rf t (A.trcEn i) 12 8 = fget w 12 8 ∧ rn64 t (A.trcWptr i 0) = 0 ∧ rn t (A.trcDropped i) = 0 ∧ rbit t (A.trcEn i) 2 = false) ∧
    (∀ (i : Fin 16) cycles b, s.trc.find? (fun r => r.1 == i.val) = some (i.val, b) →
      (rbit s (A.trcEn i) 0 = false → exec (.traceRecordWrite i cycles) s =
        .next (wn (A.trcDropped i) (min 0xFFFFFFFF (rn s (A.trcDropped i) + 1)) { s with trc := s.trc.erase (i.val, b) })) ∧
      (rbit s (A.trcEn i) 0 = true → tstSpent s actTelemetry (8 + le b 0x0A 1 / 16) = false →
        exec (.traceRecordWrite i cycles) s =
          .next (writeTrace i b (tstCharge actTelemetry (8 + le b 0x0A 1 / 16) cycles { s with trc := s.trc.erase (i.val, b) })))) ∧
    (∀ x : CtxNo, SmWf regReset s.regs → ∃ t, exec (.nanClear x) s = .next t ∧ t = { s with regs := t.regs } ∧
      rn t (A.ctxNanStatus x) = 0 ∧ rn t (A.ctxNanCount x) = 0 ∧ rn t (A.ctxNanCtrl x) = rn s (A.ctxNanCtrl x) ∧
      ∀ y : CtxNo, y ≠ x → rn t (A.ctxNanStatus y) = rn s (A.ctxNanStatus y)) ∧
    ∀ x : CtxNo, portReady s p = true → exec (.ctxResume p x) s =
      .next (accessed p (A.ctxFltCtrl x) 0 stOk (wf (A.ctxFltStatus x) 31 31 0 s))

/-- The sentinel and retirement. A vector runs once a period on the unit that is next; one that passes moves the pass on, and one
that fails is run again in a later period: a second failure is a sentinel failure, a pass then is counted. A REQUEST joins the
list; a pier whose copy has ended moves in the maps and RETIRED is raised; a rivet's retirement that waits takes effect between
operations (01 R27, R28; 18 R460-R463). The firmware's KICK is taken in RUNNING, and without one for 100 ms the services stop (18
R458). It says of each of these commands that exec answers a next state, the command's own effect, wherever the stated conditions
on the state and operands hold: pierCopyEnd, rivetRetireApply, sentinelVector, sentinelRetest, retireRequest, kick, fwWatchdog.
Where its reading is the model's: log entries 68, 71. -/
def Obligations.SentinelCommands : Prop :=
  ∀ s : State,
    (∀ (d : Fin 88) (r : VecResult) u v, mayTest s d = true → s.snt.retest = [] → nextVector s d = some (u, v) →
      unitGood s u = true → unitFree s u = true →
      let t := passVector d (chargeVector d s)
      (vecFails t u r = false → exec (.sentinelVector d r) s = .next (endPass t)) ∧
      (vecFails t u r = true → exec (.sentinelVector d r) s = .next (endPass
        { t with snt := { t.snt with retest := t.snt.retest ++ [{ unit := u, vec := v, due := false }] } }))) ∧
    (∀ (d : Fin 88) (r : VecResult) y, s.snt.retest.find? (fun y => y.due && y.unit.domain == d.val) = some y →
      unitGood s y.unit = true → mayTest s d = true → unitFree s y.unit = true →
      let c := chargeVector d s
      let t : State := { c with snt := { c.snt with retest := c.snt.retest.erase y } }
      (vecFails t y.unit r = false → exec (.sentinelRetest d r) s =
        .next (wf A.sntStatus 7 0 (min 255 (rf t A.sntStatus 7 0 + 1)) t)) ∧
      (vecFails t y.unit r = true → exec (.sentinelRetest d r) s =
        .next (sentinelFail y.unit ((resultPos r).getD none) y.vec t))) ∧
    (∀ (p : GPort) (span : SpanNo) (pier : Fin 16), portReady s p = true → holds s p (dieOf A.sntRetire) = true →
      pendingRetires s = [] → mapValid s (16 * span + pier) = true → ∃ t, exec (.retireRequest p 0 span pier 0 0) s =
        .next (accessed p A.sntRetire 0 stOk t) ∧ t = { s with regs := t.regs, snt := { s.snt with list := s.snt.list ++
          [{ kind := 0, span := span, slot := mapSlot s (16 * span + pier), girder := 0, pos := 0,
             entry := retireEntry 0 span pier 0 0 }] } }) ∧
    (∀ (p : PierNo) m, s.snt.copying.find? (fun m => m.pier == p.val) = some m → exec (.pierCopyEnd p) s =
      .next (retired (pierUnit p) m.req.entry (let t := moveMaps p m.slot s
        { t with snt := { t.snt with copying := t.snt.copying.erase m } }))) ∧
    (∀ (p : PierNo) (g : GirdNo) q, s.snt.rivetDue.find?
        (fun q => q.span == p.val / 16 && q.slot == mapSlot s p && q.girder == g.val) = some q →
      (getEng s p g).running = none → mapValid s p = true → beingCopied s p.val = false →
      exec (.rivetRetireApply p g) s = .next (retired (pierUnit p) q.entry (wf (A.dkPierMap p) (5 * g + 4) (5 * g) q.pos
        { s with snt := { s.snt with rivetDue := s.snt.rivetDue.erase q } }))) ∧
    (stage s = stRunning → exec .kick s = .next (wf A.dkFltCtrl 3 0 1 s)) ∧
    (stage s = stRunning → s.fwDead = false → exec .fwWatchdog s =
      .next { raiseFault { code := 0x120D, cls := .devf, unit := 0 } s with fwDead := true })

/-! ### Functions, spares, clocks, power and memory (15, 16, 17) -/

/-- Functions. ENABLE by the holder of a function that is OFF, with its conditions met, moves it to START; of one in DRAIN it sets
ENABLE_PENDING; DISABLE of one that is ON moves it to DRAIN; one whose conditions do not hold is refused with FUNC_REFUSED and
changes nothing. The end of START enters ON and the end of DRAIN enters OFF, or START where ENABLE_PENDING is set; one that
overruns its limit is WEDGED, and a Gulane port without light goes OFF, to be enabled again (17 R439-R441). Spare admission. Each
operation by the holder moves the spare between the states that Table 17.9 joins, and an operation in any other state is ignored;
BEGIN_LOAD copies the job to watch; ARM sets FLIP_AT_STEP; ABORT reports its cause; without the partner's packets for LOAD_WD ms a
LOADING spare aborts with SILENT (17 R443, R444). It says of each of these commands that exec answers a next state, the command's
own effect, wherever the stated conditions on the state and operands hold: enable, disable, funcStartEnd, funcDrainEnd,
limitOverrun, gulaneReenable, standby, beginLoad, loaded, arm, abort, spareRelease, spareLoadWatchdog. Where its reading is the
model's: log entry 51. -/
def Obligations.FunctionsAndSpares : Prop :=
  (∀ (s : State) (p : GPort) (f : BitVec 9), portReady s p = true → s.ks.holder = some p → SmWf regReset s.regs →
    let n := f.toNat
    let refused (op : Nat) : State := accessed p A.dkFuncCtrl 0 stIgnored
      (raiseEvent { code := 0x1107, port := p, unit := funcUnit (funcOf n), detail := n + 2 ^ 28 * op } s)
    (fnPresent s n = true →
      (fstate s n = fsOff → enableBad p s (funcOf n) = false → pairShut s (funcOf n) = false →
        ∃ t, exec (.enable p f) s = .next (accessed p A.dkFuncCtrl 0 stOk (beginStart (funcOf n) t)) ∧ fstate t n = fsStart ∧
          t = { s with regs := t.regs, mg := { s.mg with gulDue := s.mg.gulDue.filter (· != n) } }) ∧
      (fstate s n = fsDrain → enableBad p s (funcOf n) = false → pairShut s (funcOf n) = false →
        ∃ t, exec (.enable p f) s = .next (accessed p A.dkFuncCtrl 0 stOk t) ∧ fstate t n = fsDrain ∧ funcPending t n = true ∧
          t = { s with regs := t.regs, mg := { s.mg with gulDue := s.mg.gulDue.filter (· != n) } }) ∧
      (fstate s n = fsOn → disableBad p s (funcOf n) = false →
        ∃ t, exec (.disable p f) s = .next (accessed p A.dkFuncCtrl 0 stOk (beginDrain true (funcOf n) t)) ∧
          fstate t n = fsDrain ∧ t = { s with regs := t.regs }) ∧
      (fstate s n = fsOff → pairShut s (funcOf n) = true →
        exec (.enable p f) s = .next (accessed p A.dkFuncCtrl 0 stIgnored (cwyRefuse p (cwyPair n) s))) ∧
      (fstate s n = fsOff → enableBad p s (funcOf n) = true → pairShut s (funcOf n) = false → exec (.enable p f) s = .next (refused 1)) ∧
      (fstate s n = fsOn → disableBad p s (funcOf n) = true → exec (.disable p f) s = .next (refused 2))) ∧
    (fnPresent s n = false → exec (.enable p f) s = .next (refused 1) ∧ exec (.disable p f) s = .next (refused 2)) ∧
    ∀ k : Fin 354,
      (fstate s k = fsStart → startReady s (funcOf k) = true →
        exec (.funcStartEnd k) s = .next (enterState k fsOn (startWork (funcOf k) s))) ∧
      (fstate s k = fsDrain → drainReady s (funcOf k) = true → funcPending s k = false →
        exec (.funcDrainEnd k) s = .next (enterState k fsOff (setPending k false (drainWork (funcOf k) s)))) ∧
      (fstate s k = fsDrain → drainReady s (funcOf k) = true → funcPending s k = true →
        exec (.funcDrainEnd k) s = .next (enableAgain k (enterState k fsOff (setPending k false (drainWork (funcOf k) s))))) ∧
      (pairShut s (funcOf k) = false → enableAgain k s = enterStart k s) ∧
      (fstate s k = fsDrain → exec (.limitOverrun k) s = .next (wedge k fsDrain s)) ∧
      (fstate s k = fsStart → (∀ n, funcOf k ≠ .gul n) → ∃ t, exec (.limitOverrun k) s = .next t ∧ fstate t k = fsWedged) ∧
      (∀ g : GPort, k.val = fnGul g → fstate s k = fsStart → exec (.limitOverrun k) s = .next
        { enterState k fsOff s with mg := { s.mg with gulDue := s.mg.gulDue ++ [k.val] } }) ∧
      ∀ g : GPort, k.val = fnGul g → s.mg.gulDue = [k.val] → fstate s k = fsOff →
        exec (.gulaneReenable g) s = .next (enterStart k { s with mg := { s.mg with gulDue := [] } })) ∧
  (∀ (s : State) (p : GPort), portReady s p = true → s.ks.holder = some p → SmWf regReset s.regs →
    (spareState s = spNone → imgState s = imActive → ∃ t, exec (.standby p) s = .next (accessed p A.dkSpareCtrl 0 stOk t) ∧
      t = { s with regs := t.regs } ∧ spareState t = spStandby) ∧
    (spareState s = spStandby → partnerGone (setSpare spLoading (wf A.dkSpareStatus 15 0 (rf s A.dkSpareJob 15 0)
        (wn A.dkSpareCtrl 2 s))) = false →
      ∃ t, exec (.beginLoad p) s = .next (accessed p A.dkSpareCtrl 0 stOk t) ∧ t = { s with regs := t.regs } ∧
        spareState t = spLoading ∧ rf t A.dkSpareStatus 15 0 = rf s A.dkSpareJob 15 0) ∧
    (spareState s = spLoading → ∃ t, exec (.loaded p) s = .next (accessed p A.dkSpareCtrl 0 stOk t) ∧
      t = { s with regs := t.regs } ∧ spareState t = spReady) ∧
    (spareState s = spReady → ∃ t, exec (.arm p) s = .next (accessed p A.dkSpareCtrl 0 stOk t) ∧
      t = { s with regs := t.regs } ∧ spareState t = spArmed ∧ rbit t A.dkStepCtrl 0 = true) ∧
    (spareState s = spReady ∨ spareState s = spArmed → ∃ t, exec (.abort p) s = .next (accessed p A.dkSpareCtrl 0 stOk t) ∧
      t = { s with regs := t.regs, out := t.out } ∧ spareState t = spStandby ∧ rf t A.dkSpareStatus 27 24 = 1 ∧
      rbit t A.dkStepCtrl 0 = false) ∧
    (spareState s = spAdmitted → ∃ t, exec (.spareRelease p) s = .next (accessed p A.dkSpareCtrl 0 stOk t) ∧
      t = { s with regs := t.regs } ∧ spareState t = spNone) ∧
    (spareState s = spLoading → ∃ t, exec .spareLoadWatchdog s = .next t ∧ t = { s with regs := t.regs, out := t.out } ∧
      spareState t = spStandby ∧ rf t A.dkSpareStatus 27 24 = 3) ∧
    (spareState s = spArmed → exec (.standby p) s = .next (accessed p A.dkSpareCtrl 0 stIgnored s) ∧
      exec (.beginLoad p) s = .next (accessed p A.dkSpareCtrl 0 stIgnored s) ∧
      exec (.loaded p) s = .next (accessed p A.dkSpareCtrl 0 stIgnored s) ∧
      exec (.arm p) s = .next (accessed p A.dkSpareCtrl 0 stIgnored s) ∧
      exec (.spareRelease p) s = .next (accessed p A.dkSpareCtrl 0 stIgnored s)))

/-- Clocks and power. A locked PLL that loses its reference, which was present, enters HOLDOVER and reports it; on its return it
slews, and relocks. A ramp that arrives switches the divider to its target; what a force's end leaves teaches nothing of its
period; a sample of the rails writes every PWR_RAIL, and keeps the last 1,000 input powers and each span's measure; a temperature
sample writes both and enters or leaves the limits; a turnstile period starts with no record waiting and no vector run. None
touches memory, the Keystone or the fabric (16 R406-R422). The control period gives every span its level within its range: never
below its minimum, and above it only up to its maximum; it moves no step where an image has no POWER section, and otherwise sets
the targets from the levels that R414's loop reaches (16 R413, R414). It says of each of these commands that exec answers a next
state, the command's own effect, wherever the stated conditions on the state and operands hold: referenceLost, referenceReturn,
relockEnd, railSample, controlPeriod, rampEnd, forceEnd, dieTempSample, clearCons, turnstilePeriod. Where its reading is the
model's: log entry 61. -/
def Obligations.ClocksAndPower : Prop :=
  (∀ s : State, SmWf regReset s.regs →
    (rbit s A.clkStatus 31 = true → rbit s A.clkStatus 30 = true → ∃ t, exec .referenceLost s = .next t ∧
      t = { s with regs := t.regs, out := t.out, pc := { s.pc with slewing := false } } ∧ rbit t A.clkStatus 29 = true ∧
      rbit t A.clkStatus 30 = false ∧ rbit t A.clkStatus 31 = true) ∧
    (rbit s A.clkStatus 31 = false ∨ rbit s A.clkStatus 30 = false → exec .referenceLost s =
      .next (wf A.clkStatus 30 30 0 { s with pc := { s.pc with slewing := false } })) ∧
    (rbit s A.clkStatus 29 = true → ∃ t, exec .referenceReturn s = .next t ∧
      t = { s with regs := t.regs, pc := { s.pc with slewing := true } } ∧ rbit t A.clkStatus 30 = true ∧
      rbit t A.clkStatus 29 = true) ∧
    (s.pc.slewing = true → ∃ t, exec .relockEnd s = .next t ∧ t = { s with
      regs := t.regs, out := t.out, pc := { s.pc with slewing := false } } ∧ rbit t A.clkStatus 29 = false) ∧
    (∀ i : SpanNo, rbit s (A.clkSpan i) 31 = true → ∃ t, exec (.rampEnd i) s = .next t ∧
      t = { s with regs := t.regs, pc := { s.pc with moved := t.pc.moved } } ∧
      t.pc.moved = (if rf s (A.clkSpan i) 30 28 = rf s (A.clkSpan i) 26 24 then s.pc.moved else smPut false s.pc.moved i true) ∧
      rbit t (A.clkSpan i) 31 = false ∧ rf t (A.clkSpan i) 30 28 = rf s (A.clkSpan i) 26 24 ∧
      ∀ a, a ≠ A.clkSpan i → rd t a = rd s a) ∧
    (∃ t, exec .forceEnd s = .next t ∧ t = { s with regs := t.regs, pc := { s.pc with moved := t.pc.moved } } ∧
      rbit t A.pwrStatus 30 = false ∧ (forced s = false → t.pc = s.pc) ∧
      (forced s = true → (s.pc.moved.Pairwise fun x y => x.1 < y.1) → ∀ i < 8, smGet false t.pc.moved i = true)) ∧
    (∀ p : GPort, portReady s p = true → s.ks.holder = some p → ∃ t, exec (.clearCons p) s =
      .next (accessed p A.pwrCtrl 0 stOk t) ∧ t = { s with regs := t.regs, pc := { s.pc with diverge := [] } } ∧
      rbit t A.pwrStatus 31 = false) ∧
    (∀ (rails : List (BitVec 16 × BitVec 16)) act, (s.pc.measured.Pairwise fun x y => x.1 < y.1) →
      ∃ t, exec (.railSample rails act) s = .next t ∧ t = { s with regs := t.regs, out := t.out, pc := t.pc } ∧
        (∀ k < 18, rn t (A.pwrRail k) = 2 ^ 16 * (rails.getD k (0, 0)).2.toNat + (rails.getD k (0, 0)).1.toNat) ∧
        t.pc.samples = (((rails.getD 16 (0, 0)).1.toNat * (rails.getD 16 (0, 0)).2.toNat) :: s.pc.samples).take 1000 ∧
        ∀ i < 8, smGet 0 t.pc.measured i = (rails.getD i (0, 0)).1.toNat * (rails.getD i (0, 0)).2.toNat) ∧
    (∀ t0 t1 : BitVec 16, (s.pc.limit.Pairwise fun x y => x.1 < y.1) → (s.pc.hot.Pairwise fun x y => x.1 < y.1) →
      ∃ t, exec (.dieTempSample t0 t1) s = .next t ∧ t = { s with regs := t.regs, out := t.out, pc := t.pc } ∧
        rn t (A.pwrDieTemp 0) = t0.toNat ∧ rn t (A.pwrDieTemp 1) = t1.toNat ∧
        (1760 ≤ t0.toInt → smGet false t.pc.hot 0 = true) ∧ (t0.toInt ≤ 1680 → smGet false t.pc.hot 0 = false) ∧
        (1600 ≤ t1.toInt → smGet false t.pc.limit 1 = true) ∧ (t1.toInt ≤ 1520 → smGet false t.pc.limit 1 = false)) ∧
    ∃ t, exec .turnstilePeriod s = .next t ∧ t.trc = [] ∧ t.snt.period = [] ∧
      t = { s with regs := t.regs, pc := { s.pc with section_ := t.pc.section_ }, tst := t.tst, trc := [], snt := t.snt }) ∧
  (∀ s : State,
    (s.pc.section_ = [] → exec .controlPeriod s = .next s) ∧
    (s.pc.section_ ≠ [] →
      let u := (List.range 8).foldl (fun s i => learnSpan i s) s
      let v : State := { u with pc := { u.pc with moved := [] } }
      exec .controlPeriod s = .next ((List.range 8).foldl (fun s i => applyLevel (allocate v) i s) v)) ∧
    (allocate s).length = 8 ∧
    ∀ i < 8, (levelRange s i).1 ≤ (allocate s).getD i 0 ∧
      (allocate s).getD i 0 ≤ max (levelRange s i).1 (levelRange s i).2)

/-- The memory controllers. Refresh is charged; a scrub that finds nothing moves to the next word; RETRAIN starts a channel that
is not under way; one that trains is in use again, and one that fails a third time is FAILED; a hot stack rises in its bandwidth
step and a cool one falls; REPAIR takes the lowest free spare of another channel and CANCEL frees it; a copy that ends waits for
the FLIP; a generator starts where it may and ends DONE with its errors counted (15 R396-R402). It says of each of these commands
that exec answers a next state, the command's own effect, wherever the stated conditions on the state and operands hold: refresh,
scrub, retrain, retrainEnd, stackTempRead, bwstepWindow, repair, memCancel, repairCopyEnd, tgStart, tgDone. Where its reading is
the model's: log entries 2, 63, 73. -/
def Obligations.MemoryControllerCommands : Prop :=
  ∀ (s : State) (st : SpanNo) (p : GPort), SmWf regReset s.regs →
    let held := portReady s p = true ∧ holds s p (dieOf (A.memCtrl st)) = true
    (∀ n, s.pwr.inReset = false → exec (.refresh st n) s = .next (tstCharge actRefresh st n s)) ∧
    (∀ n, s.pwr.inReset = false → tstSpent s actScrub st = false → bwStep s st ≠ 4 → let w := smGet 0 s.mem.scrub st
      2 ^ 29 * st.val + w ∉ s.mem.bad → storageFailed s st (64 * w) = false → exec (.scrub st .none n) s =
        .next (scrubNext st w (tstCharge actScrub st n s))) ∧
    (∀ k : Fin 32, held → (16 * st.val + k.val / 2) ∉ s.mem.due → retraining s st ≠ some (k.val / 2) →
      rbit s (A.memChStatus st (k / 2)) 2 = false → exec (.retrain p st k) s = .next (accessed p (A.memCtrl st) 0 stOk
        (nextRetrain st { wn (A.memCtrl st) (2 ^ 8 * k.val + 1) s with
          mem := { s.mem with due := s.mem.due ++ [16 * st.val + k.val / 2] } }))) ∧
    (∀ c n, retraining s st = some c → let u := tstCharge actRefresh st n s
      exec (.retrainEnd st true n) s = .next (nextRetrain st (wf (A.memChStatus st c) 1 0 1 { u with
        mem := { s.mem with trained := smPut none s.mem.trained (16 * st.val + c) (some (rf s (A.memStatus st) 31 24)) } })) ∧
      (2 ≤ smGet 0 s.mem.tries (16 * st.val + c) → exec (.retrainEnd st false n) s = .next (nextRetrain st
        (raiseEvent { code := 0x0F07, unit := memUnit st, detail := 2 ^ 8 * st.val + c } (wf (A.memChStatus st c) 2 0 4 u))))) ∧
    (∀ t : BitVec 8, s.pwr.inReset = false → ∃ u, exec (.stackTempRead st t) s = .next u ∧
      rf u (A.memStatus st) 31 24 = t.toNat ∧ (105 ≤ t.toNat → bwStep u st = 4) ∧
      (t.toNat < 95 → bwStep u st = bwStep s st) ∧ u.hbm = s.hbm ∧ u.ks = s.ks) ∧
    (1 ≤ bwStep s st → bwStep s st < 3 → 10 ≤ smGet 0 s.mem.hot st → exec (.bwstepWindow st) s =
      .next (enterStep st (bwStep s st + 1) { s with mem := { s.mem with hot := smPut 0 s.mem.hot st 0 } })) ∧
    (1 ≤ bwStep s st → bwStep s st < 4 → smGet 0 s.mem.hot st < 10 → 10 ≤ smGet 0 s.mem.cold st → exec (.bwstepWindow st) s =
      .next (enterStep st (bwStep s st - 1) { s with mem := { s.mem with cold := smPut 0 s.mem.cold st 0 } })) ∧
    (∀ (k : Fin 32) (e : Fin 128) x, held → e.val ≤ 125 → spareFor s st k = some x →
      (∀ q ∈ s.mem.repairs, q.stack ≠ st.val) → ∃ t, exec (.repair p st k e) s = .next (accessed p (A.memCtrl st) 0 stOk t) ∧
        t = { s with regs := t.regs, mem := { s.mem with hidden := t.mem.hidden, repairs := s.mem.repairs ++
          [{ stack := st, pch := k, extent := e, spare := x, pending := true, copied := false }] } }) ∧
    (held → ∀ q, pendingOn s st = some q → ∃ t, exec (.memCancel p st) s = .next (accessed p (A.memCtrl st) 0 stOk t) ∧
      t = { s with regs := t.regs, free := t.free, mem := { s.mem with
        hidden := memOf (s.mem.hidden ++ spareLeft (wn (A.memCtrl st) 3 s) q)
        repairs := s.mem.repairs.filter fun q => !(q.stack == st.val && q.pending) } }) ∧
    (∀ q n, pendingOn s st = some q → q.copied = false → tstSpent s actScrub st = false → exec (.repairCopyEnd st n) s =
      .next { tstCharge actScrub st n s with mem := { s.mem with
        bad := copiedMarks s q, repairs := s.mem.repairs.map fun x => if x = q then { q with copied := true } else x } }) ∧
    (∀ (k : Fin 32) (c : BitVec 9), held → tgMay s st k (BitVec.ofNat 32 (2 * c.toNat + 1)) = true →
      ∃ t, exec (.tgStart p st k c) s = .next (accessed p (A.tgCtl st k) 0 stOk t) ∧ t = { s with regs := t.regs } ∧
        rn t (A.tgStatus st k) = 1 ∧ rn t (A.tgFirstErr st k) = 0) ∧
    ∀ (k : Fin 32) n, rbit s (A.tgStatus st k) 0 = true → rbit s (A.tgCtl st k) 1 = true →
      ∃ t, exec (.tgDone st k [] n) s = .next t ∧ rn t (A.tgStatus st k) = 2 ∧ rn t (A.tgErrors st k) = rn s (A.tgErrors st k) ∧
        t = { s with regs := t.regs, tst := t.tst, free := t.free, mem := { s.mem with bad := t.mem.bad, hidden := t.mem.hidden } }

/-! ### Lanes and the Causeway (04 R94-R104) -/

/-- Training. A lane in START or of a group that is ON goes on from the phase that it passes: DETECT, LOCK, EQUALISE, ALIGN,
IDENTIFY (at once, in the first lane mode, to it; in the others to DESKEW), DESKEW; a wrong peer in IDENTIFY is reported once, and
keeps the lane there; the last lane of a port that passes DESKEW brings the port UP with its latency. A lane that has not trained
starts again, TRAINS risen; a lane that loses alignment takes its port down, with the packet under way on it, and trains again (04
R94-R98). More than 65,536 corrected symbols in 1 ms raise FEC_DEGRADE (R99). The Causeway. The holder's OPEN write starts a
pair's motion to the other end, one that changes nothing is OK, and one that may not be done is refused: an open on a grade
without it or after a drive fault, a close while a group of the pair is not OFF. The motion's end leaves the pair OPEN or CLOSED,
and is reported; a drive fault leaves every pair without its drive, closed or closing, and is reported once (04 R101-R104). It
says of each of these commands that exec answers a next state, the command's own effect, wherever the stated conditions on the
state and operands hold: trainingPhasePass, laneTrainTimeout, alignmentLost, fecDegrade, cwyCtrlOpen, cwyMotionEnd, driveFault.
Where its reading is the model's: log entries 63, 74. -/
def Obligations.LanesAndCauseway : Prop :=
  (∀ (s : State) (g : GroupNo) (l : LaneNo) (inv : Bool) (mode brk : Fin 4) (peer : LaneNo) (skew : Nat), SmWf regReset s.regs →
    (s.fab.phase.Pairwise fun x y => x.1 < y.1) → pgLit s g = true →
    let pass := exec (.trainingPhasePass g l inv mode brk peer skew) s
    let st := A.pgLaneStatus g l
    let port := l.val / pgWidth s g
    let onlyStatus (t : State) : Prop := t = { s with regs := t.regs } ∧ ∀ a, a ≠ st → rd t a = rd s a
    (phaseOf s g l = phDetect → pass = .next (setPhase g l phLock s)) ∧
    (phaseOf s g l = phLock → ∃ t, pass = .next (setPhase g l phEqualise t) ∧ onlyStatus t ∧ rbit t st 1 = true ∧
      rbit t st 3 = inv) ∧
    (phaseOf s g l = phEqualise → pass = .next (setPhase g l phAlign s)) ∧
    (phaseOf s g l = phAlign → ∃ t, pass = .next (setPhase g l (if pgMode s g = 1 then phIdentify else phDeskew) t) ∧ onlyStatus t ∧
      rbit t st 2 = true) ∧
    (phaseOf s g l = phIdentify → mode.val = pgMode s g → brk.val = pgBreakout s g → peer = l → ∃ t,
      pass = .next (setPhase g l phDeskew t) ∧ onlyStatus t ∧ rbit t st 4 = false ∧ rf t st 10 8 = l.val) ∧
    (phaseOf s g l = phIdentify → peer ≠ l → ∃ t, onlyStatus t ∧ rbit t st 4 = true ∧ rf t st 10 8 = peer.val ∧
      (rbit s st 4 = false → pass = .next (raiseEvent { code := 0x0403, unit := pgUnit g, detail := l } t)) ∧
      (rbit s st 4 = true → pass = .next t)) ∧
    (phaseOf s g l = phDeskew → skew ≤ maxDeskew (pgMode s g) →
      (∀ m ∈ portLanes s g l, m ≠ l.val → rbit s (A.pgLaneStatus g m) 0 = true) → ∃ t, pass = .next t ∧
        t = { s with regs := t.regs, out := t.out, fab := t.fab } ∧ phaseOf t g l = 0 ∧ rbit t st 0 = true ∧
        rbit t (A.pgPortStatus g) port = true ∧ rn t (A.pgLat g port) = 2 ^ 31 + (rxLatency (pgMode s g) + skew)) ∧
    (phaseOf s g l ≠ 0 → ∃ t, exec (.laneTrainTimeout g l) s = .next (setPhase g l phDetect t) ∧ onlyStatus t ∧
      rn t st = 2 ^ 16 * min 0xFFFF (rf s st 31 16 + 1)) ∧
    (phaseOf s g l = 0 → exec (.laneTrainTimeout g l) s = .next s) ∧
    (isOn s (fnGroup g) = true → rbit s st 2 = true → ∃ t, exec (.alignmentLost g l) s = .next t ∧
      t = { s with regs := t.regs, out := t.out, fab := t.fab } ∧ phaseOf t g l = phDetect ∧
      rbit t (A.pgPortStatus g) port = false ∧ rn t st = 2 ^ 16 * min 0xFFFF (rf s st 31 16 + 1) ∧
      (rbit s (A.pgPortStatus g) port = true →
        t.fab.held = s.fab.held.filter fun h => !(heldOn (8 * g + port) h && h.stage == .sending))) ∧
    ∀ n : Nat,
      (n ≤ 65536 → ∃ t, exec (.fecDegrade g l n) s = .next t ∧ t = { s with regs := t.regs } ∧
        rn t (A.pgFecCorr g l) = min 0xFFFFFFFF (rn s (A.pgFecCorr g l) + n)) ∧
      (65536 < n → smGet none s.fab.fecAt (8 * g + l) = none → ∃ t, exec (.fecDegrade g l n) s =
        .next (raiseEvent { code := 0x0404, unit := pgUnit g, detail := l } t) ∧
        t = { s with regs := t.regs, fab := { s.fab with fecAt := smPut none s.fab.fecAt (8 * g + l) (some (ftNs s)) } })) ∧
  (∀ (s : State) (j : SpanNo), SmWf regReset s.regs →
    (∀ p : GPort, portReady s p = true → holds s p 1 = true →
      let closable := fstate s (fnGroup (48 + 2 * j)) = fsOff ∧ fstate s (fnGroup (49 + 2 * j)) = fsOff
      let refused := accessed p (A.cwyCtrl j) 0 stIgnored (cwyRefuse p j s)
      (s.fuses.grade ≠ .fys6144 → rbit s (A.cwyStatus j) 3 = false → rf s (A.cwyCtrl j) 0 0 = 0 →
        ∃ t, exec (.cwyCtrlOpen p j true) s = .next (accessed p (A.cwyCtrl j) 0 stOk t) ∧
          t = { s with regs := t.regs, fab := { s.fab with cwyWrite := t.fab.cwyWrite } } ∧ cwyState t j = cwOpening ∧
          rbit t (A.cwyCtrl j) 0 = true) ∧
      (s.fuses.grade = .fys6144 ∨ rbit s (A.cwyStatus j) 3 = true → exec (.cwyCtrlOpen p j true) s = .next refused) ∧
      (closable → rf s (A.cwyCtrl j) 0 0 = 1 → ∃ t, exec (.cwyCtrlOpen p j false) s = .next (accessed p (A.cwyCtrl j) 0 stOk t) ∧
        t = { s with regs := t.regs, fab := { s.fab with cwyWrite := t.fab.cwyWrite } } ∧ cwyState t j = cwClosing ∧
        rbit t (A.cwyCtrl j) 0 = false) ∧
      (closable → rf s (A.cwyCtrl j) 0 0 = 0 → exec (.cwyCtrlOpen p j false) s = .next (accessed p (A.cwyCtrl j) 0 stOk s)) ∧
      (¬closable → exec (.cwyCtrlOpen p j false) s = .next refused)) ∧
    (cwyState s j = cwOpening → ∃ t, exec (.cwyMotionEnd j) s =
      .next (raiseEvent { code := 0x0405, unit := cwyUnit, detail := j } t) ∧ t = { s with regs := t.regs } ∧ cwyState t j = cwOpen ∧
      ∀ a, a ≠ A.cwyStatus j → rd t a = rd s a) ∧
    (cwyState s j = cwClosing → ∃ t, t = { s with regs := t.regs } ∧ cwyState t j = cwClosed ∧
      (∀ a, a ≠ A.cwyStatus j → rd t a = rd s a) ∧
      (smGet false s.fab.cwyWrite j = true → exec (.cwyMotionEnd j) s =
        .next (raiseEvent { code := 0x0406, unit := cwyUnit, detail := j } t)) ∧
      (smGet false s.fab.cwyWrite j = false → exec (.cwyMotionEnd j) s = .next t)) ∧
    (rbit s (A.cwyStatus 0) 3 = true → exec .driveFault s = .next s) ∧
    (rbit s (A.cwyStatus 0) 3 = false → ∃ t, exec .driveFault s =
      .next (raiseFault { code := 0x0407, cls := .rcvd, unit := cwyUnit } t) ∧
      t = { s with regs := t.regs, out := t.out, fab := t.fab, pwr := { s.pwr with cwyDrive := false } } ∧
      rbit t (A.cwyStatus j) 3 = true ∧ rbit t (A.cwyCtrl j) 0 = false ∧
      (cwyState s j = cwClosed → cwyState t j = cwClosed) ∧ (cwyState s j ≠ cwClosed → cwyState t j = cwClosing)))

/-! ### Reductions (08 R206-R228; 10 R263, R271-R274) -/

/-- Reduction packets at an RSE, and at a member. A partial from below that breaks its form is not added, and reported; a good one
is added to its blocks by its kind (exact sum, MAX and MIN, fast mode), or passed on where the collective only gathers; exponent
bytes join their anchor block, and M comes down to every edge; an offset of a scan reaches the blocks that wait for it; a RESULT
goes down to the edges that need it, and lands at its member. Each is acknowledged by its record, but a RESULT on its way to the
tree, which has none (08 R210-R228; 10 R263, R268, R271-R274; what carries a MAX or MIN of FP values between RSEs: log entry 14).
It says of each of these commands that exec answers a next state, the command's own effect, wherever the stated conditions on the
state and operands hold: native, anchored, fast, exponent, scanOffset, result. Where its reading is the model's: log entries 13,
64, 78. -/
def Obligations.ReductionPackets : Prop :=
  ∀ (s : State) (n : NodeNo) (k : Known) (b : List Byte) (t : Tree) (e : Nat) (o : RseOp) (u : State),
    let pl := pkPayload b
    let h := pheadOf pl
    let d := o.desc
    let place := treePos t b
    let up (v : State) : State := rxAccept (edgeAnswers s n t (t.down.getD e t.up)) b v
    let down (v : State) : State := rxAccept (edgeAnswers s n t t.up) b v
    let member := (t.down.getD e t.up).member = true
    let each (o : RseOp) (v : State) : State :=
      (List.range h.nblk).foldl (fun v i => advanceBlock t place o.node o.cseq (h.elem / 32 + i) v) v
    let passes (v : State) : State :=
      if resultOk o pl = true then passResult (pkEpoch b) t place pl o v else partialMalformed o b v
    (Rises s n fmNative k b t e o u →
      let whole := pheadOk pl = true ∧ h.form = fmNative ∧ h.status = 0 ∧ pl.length = 16 + bufBytes (cdSrc d) (32 * h.nblk) ∧
        spanOk o h = true
      let vs := nativeVals d h (pl.drop 16)
      (¬whole → exec (.native n k .none) s = .next (up (partialMalformed o b (putOp o u)))) ∧
      (whole → cdKind d = kAllgather ∨ cdKind d = kBroadcast → exec (.native n k .none) s = .next (up (passNative t place b o u))) ∧
      (cdKind d ≠ kAllgather → cdKind d ≠ kBroadcast → reduces d = false ∨ ¬member → exec (.native n k .none) s =
        .next (up (partialMalformed o b (putOp o u)))) ∧
      (whole → reduces d = true → member → cdKind d ≠ kAllgather → cdKind d ≠ kBroadcast →
        (isFast d = true → exec (.native n k .none) s = .next (up (nativeFast t place e h vs o u))) ∧
        (isFast d = false → isMaxMin d = true → exec (.native n k .none) s = .next (up (nativeMaxMin t place e h vs o u))) ∧
        (isFast d = false → isMaxMin d = false → exec (.native n k .none) s = .next (up (nativeSum t place e h vs o u))))) ∧
    (Rises s n fmAnchored k b t e o u →
      (member → exec (.anchored n k .none) s = .next (up (partialMalformed o b (putOp o u)))) ∧
      (∀ bs, ¬member → reduces d = true → isFast d = false → isMaxMin d = false → pheadOk pl = true → spanOk o h = true →
        decodeBlocks h.nblk (pl.drop 16) = some bs →
        let m := if intSum d = true then (o, u) else meetAnchor h.anchor h.elem o u
        let o' := bs.zipIdx.foldl (fun o y => addAnchored (h.elem / 32 + y.2) e h.status y.1 o) (takeSlots t h m.1)
        exec (.anchored n k .none) s = .next (up (each o' (putOp o' m.2))))) ∧
    (Rises s n fmFast k b t e o u →
      (member → exec (.fast n k .none) s = .next (up (partialMalformed o b (putOp o u)))) ∧
      (¬member → isFast d = true → isMaxMin d = false → pheadOk pl = true → spanOk o h = true → pl.length = 16 + 128 * h.nblk →
        let o' := (blocks32 (unpackElems fcS32 (pl.drop 16) (32 * h.nblk)) h.nblk).zipIdx.foldl (fun o y =>
          addNode (h.elem / 32 + y.2) e h.status { level := h.level, node := h.node, status := h.status, vals := y.1 } o) (takeSlots t h o)
        exec (.fast n k .none) s = .next (up (each o' (putOp o' u)))) ∧
      (¬member → isMaxMin d = true → h.level = 0 → h.node = 0 → pheadOk pl = true → spanOk o h = true →
        pl.length = 16 + 128 * h.nblk →
        let o' := (blocks32 (unpackElems fcS32 (pl.drop 16) (32 * h.nblk)) h.nblk).zipIdx.foldl (fun o y =>
          addBest (h.elem / 32 + y.2) e h.status (y.1.map (maxMinVal d)) o) (takeSlots t h o)
        exec (.fast n k .none) s = .next (up (each o' (putOp o' u))))) ∧
    (Rises s n fmExponent k b t e o u →
      let abs := (List.range h.nblk).map (h.elem / 256 + ·)
      (expOk o pl = false → exec (.exponent ⟨128 + n, by omega⟩ true k) s = .next (up (partialMalformed o b (putOp o u)))) ∧
      (expOk o pl = true → h.status = 0 ∨ ¬member →
        let o' := abs.zipIdx.foldl (fun o y => addExp y.1 e h.status (be pl (16 + y.2) 1) o) o
        exec (.exponent ⟨128 + n, by omega⟩ true k) s =
          .next (up (abs.foldl (fun v a => advanceExp t place o'.node o'.cseq a v) (putOp o' u))))) ∧
    (Falls s n fmExponent k b t o u → expOk o pl = true → h.nblk = 1 → (∀ x ∈ o.anchors, x.1 ≠ h.elem / 256) →
      exec (.exponent ⟨128 + n, by omega⟩ false k) s = .next (down (sendDown (pkEpoch b) n t o.cseq place (2 ^ flMcast)
        (fun _ => true) (markDown o pl)
        (putOp { o with anchors := o.anchors ++ [(h.elem / 256, (be pl 16 1 : Int) - 127)] } u)))) ∧
    (Falls s n fmScan k b t o u →
      (t.ordered = false → exec (.scanOffset n k .none) s = .next (down (rseMalformed o u))) ∧
      (∀ xs z, t.ordered = true → cdKind d = kScan → pheadOk pl = true → spanOk o h = true → h.nblk = 1 → intSum d = true →
        decodeBlocks 1 (pl.drop 16) = some [xs] → findOp u o.node o.tree o.cseq = some o →
        o.blocks.find? (fun z => z.blk == h.elem / 32 && z.up) = some z → exec (.scanOffset n k .none) s =
          .next (down (scanDown t place xs { z with status := orStatus z.status h.status } o (putOp o u))))) ∧
    ((Falls s n fmResult k b t o u → opRseDst b = false → exec (.result ⟨128 + n, by omega⟩ k) s = .next (down (passes u))) ∧
      ∀ g, rseHeld s n fmResult clCollDn = some g → g.bytes = b → opRseDst b = true → pkCheckOk b = true →
        packetTree s b = some t → o = (findOp s n t.num (opCseq b)).getD (newOp s n t (opCseq b) k) → o.bad = false →
        exec (.result ⟨128 + n, by omega⟩ k) s = .next (passes (takeHeld g s))) ∧
    ∀ (p : PierNo) (l : Landing),
      (ReachesMember s p fmResult b l u → exec (.result ⟨p, by omega⟩ k) s =
        .next (rxAccept (pierAnswers s (srCtx s (pkSr b)) p) b (landResult p l pl u))) ∧
      (ReachesMember s p fmExponent b l u → exec (.exponent ⟨p, by omega⟩ false k) s =
        .next (rxAccept (pierAnswers s (srCtx s (pkSr b)) p) b (landExponents p l pl u)))

/-- The anchored sum of contributions is a function of their set alone: any order of the same contributions gives it, and adding
up part sums gives it too (08 R216). -/
def Obligations.SumsIgnoreOrder : Prop :=
  (∀ l m : List Anch, l.Perm m → Anch.sum l = Anch.sum m) ∧
  (∀ l m : List Anch, l ≠ [] → m ≠ [] → Anch.sum (l ++ m) = (Anch.sum l).add (Anch.sum m)) ∧
  ∀ l m : List (List Anch), l.Perm m → sumBlocks l = sumBlocks m

/-- The encoding changes packet sizes only, never a V or a flag: what an RSE encodes of 32 elements of 128 bits, under either
setting of FORCE_RAW, a decoder reads back, and what follows stays (08 R219, R220). No block is larger than its dense form. -/
def Obligations.BlocksDecodeAsEncoded : Prop :=
  ∀ (raw : Bool) (xs : List Anch) (rest : List Byte), xs.length = 32 →
    (∀ x ∈ xs, -(2 ^ 127 : Int) ≤ x.v ∧ x.v < (2 ^ 127 : Int)) →
    decodeBlock ((encodeBlock raw xs).2 ++ rest) = some (xs, rest) ∧ (encodeBlock raw xs).2.length ≤ 530 ∧
      ((∀ x ∈ xs, x.flags = 0) → (encodeBlock raw xs).2.length ≤ 514)

/-! ### Stream programs (09 R231-R256) -/

/-- Instructions of a stage that work on each record for itself: the arithmetic ones by TYPE (FP32, S32 and U32 modulo 2^32),
MOVI, MOVP, GETID, comparisons, PLOG, SEL and CVT. Each changes only the field or predicate that it names, of the guarded records,
and the stage moves on; an FP32 operation may also produce NaNs (09 R244, Table 9.8). It says of each of these commands that exec
answers a next state, the command's own effect, wherever the stated conditions on the state and operands hold: nop, add, min, max,
mul, addi, muli, movi, movp, getid, cmp, cmpi, plog, sel, cvt, gather. Where its reading is the model's: log entry 2. -/
def Obligations.RecordInstructions : Prop :=
  ∀ (s : State) (n : NodeNo) (j : LaneJob) (o : StrmOp) (x : SIns), AtLane s n j o x →
    let done (f : Rec → Rec) (u : State) : State := laneMove n j { o := o, stage := j.stage, recs := guarded x j f, s := u }
    let b (r : Rec) : Nat := fld r x.b
    let i (_ : Rec) : Nat := x.imm
    let two (c : Instr) (y : Rec → Nat) (f : Nat → Nat → Nat) (g : Int → Int → Int) : Prop :=
      (x.ty = 0 → ∃ u, nanFrame s u ∧ exec c s = .next (done (fun r => setFld x.d (f (fld r x.a) (y r)) r) u)) ∧
      (x.ty = 1 → exec c s = .next (done (fun r => setFld x.d (ofInt 32 (g (toInt 32 (fld r x.a)) (toInt 32 (y r)))) r) s)) ∧
      (x.ty = 2 → exec c s = .next (done (fun r => setFld x.d (ofInt 32 (g (fld r x.a) (y r))) r) s))
    let cond (c : Instr) (y : Rec → Nat) : Prop := x.sub % 8 < 7 →
      (x.ty = 0 → exec c s = .next (done (fun r => setPrd x.pd (fpCmp (x.sub % 8) (fld r x.a) (y r)) r) s)) ∧
      (x.ty = 1 → exec c s = .next (done (fun r => setPrd x.pd (condOf (x.sub % 8)
        (decide (toInt 32 (fld r x.a) < toInt 32 (y r))) (fld r x.a == y r) false) r) s)) ∧
      (x.ty = 2 → exec c s = .next (done (fun r => setPrd x.pd (condOf (x.sub % 8)
        (decide (fld r x.a < y r)) (fld r x.a == y r) false) r) s))
    (x.op = 0x00 → exec (.nop n) s = .next (done id s)) ∧
    (x.op = 0x01 → two (.add n) b fpAdd (· + ·)) ∧
    (x.op = 0x02 → two (.min n) b fpMin min) ∧
    (x.op = 0x03 → two (.max n) b fpMax max) ∧
    (x.op = 0x04 → two (.mul n) b fpMul (· * ·)) ∧
    (x.op = 0x05 → two (.addi n) i fpAdd (· + ·)) ∧
    (x.op = 0x06 → two (.muli n) i fpMul (· * ·)) ∧
    (x.op = 0x07 → exec (.movi n) s = .next (done (setFld x.d x.imm) s)) ∧
    (x.op = 0x08 → exec (.movp n) s = .next (done (setFld x.d (cdParam o.desc (x.imm % 4))) s)) ∧
    (x.op = 0x09 → exec (.getid n) s = .next (done (fun r => setFld x.d (if x.sub = 0 then r.rank else r.idx) r) s)) ∧
    (x.op = 0x0A → cond (.cmp n) b) ∧
    (x.op = 0x0B → cond (.cmpi n) i) ∧
    (x.op = 0x0C → exec (.plog n) s =
      .next (done (fun r => setPrd x.pd (plog (x.sub % 4) (prd r (x.a % 4)) (prd r (x.b % 4))) r) s)) ∧
    (x.op = 0x0D → exec (.sel n) s = .next (done (fun r => setFld x.d (if prd r (x.sub % 4) then fld r x.a else fld r x.b) r) s)) ∧
    (x.op = 0x0E → ∃ u, nanFrame s u ∧
      exec (.cvt n) s = .next (done (fun r => setFld x.d (toTy (x.sub % 8) (tyVal x.ty (fld r x.a)) (cdOvf o.desc)).1 r) u)) ∧
    (x.op = 0x10 → (∀ r ∈ j.recs, prd r x.pg = true → fld r x.a < pgTsize o.prog (x.sub % 4)) →
      exec (.gather n) s = .next (done (fun r => setFld x.d (tableGet o (x.sub % 4) (fld r x.a)) r) s))

/-- Instructions that take the records in their order, or that change which records there are. The tables count and add exactly,
modulo 2^32, and an instruction changes no table but its own; SORT and TOPK order by key and then by identity, and lose or repeat
no record that they keep; FILTER and DROP keep just the records that their predicate says (09 R243-R246, R251, Table 9.8). It says
of each of these commands that exec answers a next state, the command's own effect, wherever the stated conditions on the state
and operands hold: scatter, fetchadd, hist, count, prev, sort, topk, filter, drop. Where its reading is the model's: log entry 65.
-/
def Obligations.OrderedInstructions : Prop :=
  ∀ (s : State) (n : NodeNo) (j : LaneJob) (o : StrmOp) (x : SIns), AtLane s n j o x →
    let done (rs : List Rec) (o : StrmOp) (u : State) : State := laneMove n j { o := o, stage := j.stage, recs := rs, s := u }
    let t := x.sub % 4
    let mine := j.recs.filter fun r => prd r x.pg
    let own (o' : StrmOp) : Prop := o' = { o with tables := o'.tables } ∧ ∀ q, q ≠ t → o'.tables.getD q [] = o.tables.getD q []
    let adds (o' : StrmOp) (f : Nat → Nat) : Prop :=
      ∀ i < pgTsize o.prog t, tableGet o' t i % 2 ^ 32 = (tableGet o t i + f i) % 2 ^ 32
    ((o.tables.getD t []).length = pgTsize o.prog t →
      ((∀ r ∈ mine, fld r x.a < pgTsize o.prog t) →
        (x.op = 0x11 → x.sub / 4 % 4 = 0 → exec (.scatter n) s = .next (done j.recs
          (mine.foldl (fun o r => tableSet t (fld r x.a) (fld r x.b) o) o) s)) ∧
        (x.op = 0x11 → x.sub / 4 % 4 = 1 → x.ty = 2 → ∃ o', exec (.scatter n) s = .next (done j.recs o' s) ∧ own o' ∧
          adds o' fun i => ((mine.filter fun r => fld r x.a == i).map fun r => fld r x.b).sum) ∧
        (x.op = 0x12 → ∃ rs o', exec (.fetchadd n) s = .next (done rs o' s) ∧ own o' ∧ rs.length = j.recs.length ∧
          (adds o' fun i => x.imm * (mine.filter fun r => fld r x.a == i).length) ∧
          ∀ r, j.recs = [r] → prd r x.pg = true → rs = [setFld x.d (tableGet o t (fld r x.a)) r])) ∧
      (x.op = 0x13 → 0 < pgTsize o.prog t → ∃ o', exec (.hist n) s = .next (done j.recs o' s) ∧ own o' ∧
        adds o' fun i => (mine.filter fun r => min (fld r x.a / 2 ^ (x.imm % 32)) (pgTsize o.prog t - 1) == i).length) ∧
      (x.op = 0x14 → x.imm < pgTsize o.prog t → ∃ o', exec (.count n) s = .next (done j.recs o' s) ∧ own o' ∧
        adds o' fun i => if i = x.imm then mine.length else 0)) ∧
    (x.op = 0x15 → exec (.prev n) s = .next (done (List.zipWith (fun r v => if prd r x.pg then setFld x.d v r else r) j.recs
      (x.imm :: j.recs.map fun r => fld r x.a)) o s)) ∧
    (x.op = 0x20 → ∃ rs, exec (.sort n) s = .next (done rs o s) ∧ rs.Perm j.recs ∧
      rs.Pairwise fun r q => keyLe x.ty x.a (bit x.sub 0) r q = true) ∧
    (x.op = 0x21 → bit x.sub 1 = false → ∃ rs, exec (.topk n) s = .next (done rs o s) ∧ rs.length = min x.imm j.recs.length ∧
      (∃ rest, (rs ++ rest).Perm j.recs ∧ ∀ r ∈ rs, ∀ q ∈ rest, keyLe x.ty x.a (!bit x.sub 0) r q = true) ∧
      rs.Pairwise fun r q => keyLe x.ty x.a (!bit x.sub 0) r q = true) ∧
    (x.op = 0x22 → exec (.filter n) s = .next (done (j.recs.filter fun r => prd r t) o s)) ∧
    (x.op = 0x23 → (o.drops.Pairwise fun p q => p.1 < q.1) → SmWf regReset s.regs → ∃ o' u, exec (.drop n) s =
        .next (done (j.recs.filter fun r => !prd r t) o' u) ∧ o' = { o with drops := o'.drops } ∧ u = { s with regs := u.regs } ∧
      (∀ k, smGet 0 o'.drops k = smGet 0 o.drops k + (j.recs.filter fun r => prd r t && r.rank == k).length) ∧
      rn u (A.rseStrmCnt o.node 2) = min 0xFFFFFFFF (rn s (A.rseStrmCnt o.node 2) + (j.recs.filter fun r => prd r t).length))

/-- What a stage sends. HPART sends every record to the home that its key names, EMIT to the member that it names where it lands
there, TEMIT a table to one member, in as many packets as it takes; each is counted toward the END that follows, and the records
of the stage stay (09 R237, R247-R250). It says of each of these commands that exec answers a next state, the command's own
effect, wherever the stated conditions on the state and operands hold: temit, hpart, emit. Where its reading is the model's: log
entries 16, 17, 34. -/
def Obligations.SendingInstructions : Prop :=
  ∀ (s : State) (n : NodeNo) (j : LaneJob) (o : StrmOp) (x : SIns), AtLane s n j o x →
    let done (o : StrmOp) (u : State) : State := laneMove n j { o := o, stage := j.stage, recs := j.recs, s := u }
    let mine := j.recs.filter fun r => prd r x.pg
    let sent (u : State) : Prop := ∃ l, u.fab = { s.fab with inject := s.fab.inject ++ l }
    (x.op = 0x24 → (o.outs.Pairwise fun p q => p.1 < q.1) → ∃ o' u, exec (.temit n) s = .next (done o' u) ∧
      o' = { o with outs := o'.outs } ∧ u = { s with fab := u.fab, net := { s.net with entries := u.net.entries } } ∧ sent u ∧
      let dest := cdParam o.desc (x.imm % 4) % 2 ^ 24
      smGet 0 o'.outs dest = smGet 0 o.outs dest + ((o.tables.getD (x.sub % 4) []).length + 4091) / 4092 ∧
      ∀ k, k ≠ dest → smGet 0 o'.outs k = smGet 0 o.outs k) ∧
    (x.op = 0x30 → (o.homes.Pairwise fun p q => p.1 < q.1) → ∃ o' u, exec (.hpart n) s = .next (done o' u) ∧
      o' = { o with homes := o'.homes } ∧ u = { s with fab := u.fab } ∧ sent u ∧
      ∀ k < o.list.length, (smGet 0 o'.homes k = smGet 0 o.homes k ↔ ∀ r ∈ j.recs, homeOf x o r ≠ k)) ∧
    (x.op = 0x31 → (∀ r ∈ mine, landsOk x { o := o, stage := j.stage, recs := j.recs, s := s } r = true) → SmWf regReset s.regs →
      ∃ o' u, exec (.emit n) s = .next (done o' u) ∧ o' = { o with outs := o'.outs } ∧
        u = { s with regs := u.regs, fab := u.fab, net := { s.net with entries := u.net.entries } } ∧ sent u ∧
        rn u (A.rseStrmCnt o.node 1) = min 0xFFFFFFFF (rn s (A.rseStrmCnt o.node 1) + mine.length))

/-- Stages at the lane array. A stage that has done an instruction meets the next one; after its last it leaves the array, and a
gathered one has then run. A gathered stage at the head of the array begins, with its records in ascending order of identity, and
one that has begun is not begun again; a word of it that cannot be corrected ends its operation. IN, PART and END packets reach
the stage that they are for, acknowledged where they come from a member; a PART for which there is no room is refused, and its
source sends it again (log entry 17); OUT and END packets reach the landing of their member, or wait for it (09 R236-R241,
R248-R250). It says of each of these commands that exec answers a next state, the command's own effect, wherever the stated
conditions on the state and operands hold: inPkt, part, outPkt, endPkt, gatheredStage. Where its reading is the model's: log
entries 15, 16, 79. -/
def Obligations.StreamStages : Prop :=
  ∀ (s : State) (n : NodeNo),
    (∀ (j : LaneJob) (l : Work), let u := putStrm l.o l.s
      (j.pc + 1 < (stageIns l.o.prog j.stage).length → laneMove n j l = { u with net := { u.net with
        lane := u.net.lane.map fun i => if i = j then { j with pc := j.pc + 1, recs := l.recs } else i } }) ∧
      ((stageIns l.o.prog j.stage).length ≤ j.pc + 1 → j.body = none → gathered l.o.prog j.stage = true → laneMove n j l =
        stageRan j.stage l.o { u with net := { u.net with lane := u.net.lane.erase j } })) ∧
    (∀ j o, s.net.lane.find? (fun j => j.node == n.val) = some j → findStrm s n j.tree j.cseq = some o →
      (j.started = false → ∃ rs, rs.Perm (stageOf o j.stage).recs ∧ (rs.Pairwise fun r q => idLe r q = true) ∧
        exec (.gatheredStage n true false) s = .next { s with net := { s.net with
          lane := s.net.lane.map fun i => if i = j then { j with started := true, recs := rs } else i } }) ∧
      (j.started = true → ∀ step, exec (.gatheredStage n step false) s = .next s) ∧
      ∀ step, exec (.gatheredStage n step true) s = .next (strmFault o 0x120C (rseUnit n) (abandonStrm o s))) ∧
    (∀ k step b t e o u, StreamRises s n 0x10 k b t e o u → exec (.inPkt n k step) s =
      .next (rxAccept (edgeAnswers s n t (t.down.getD e t.up)) b (takeRecs 0 (pkSrc b) step (pkPayload b) o u))) ∧
    (∀ k b t e o u, fromRse s n 0x13 = none → StreamRises s n 0x13 k b t e o u → exec (.endPkt ⟨128 + n, by omega⟩ k) s =
      .next (rxAccept (edgeAnswers s n t (t.down.getD e t.up)) b (takeEnd 0 (pkSrc b) (pkPayload b) o u))) ∧
    (∀ k step h t, fromRse s n 0x11 = some (h, some t) → pkCheckOk h.bytes = true →
      let v := b2n (bit (be h.bytes 40 1) 2)
      let full := strmNoRoom s ((findStrm s n t.num (opCseq h.bytes)).getD (newStrm s n t (opCseq h.bytes) v k)) 1 (pkSrc h.bytes)
        (pkPayload h.bytes)
      (full = true → exec (.part n k step) s = .next (refuseBeyond h s)) ∧
      (∀ o u, full = false → meetStrm n t (opCseq h.bytes) v k (takeHeld h s) = (o, u) → exec (.part n k step) s =
        .next (takeRecs 1 (pkSrc h.bytes) step (pkPayload h.bytes) (carryStatus (be h.bytes 40 1) o) u))) ∧
    ∀ (p : PierNo) (a : Arrived) (k : Known) (es : List Nat), pkCheckOk a.bytes = true → isExpired s p a.bytes = false →
      let b := a.bytes
      let h := sheadOf (pkPayload b)
      let u := takeArrived a s
      (arrivedAt s p (fun b => pkOp b == opColl && pkClass b == clCollDn && be b 32 1 == 0x12) = some a →
        (landOf s p b = none → exec (.outPkt p es) s = .next s) ∧
        (∀ l, landOf s p b = some l → 0 < h.w → h.nrec = 1 →
          (s.net.entries.find? fun e => e.1 == [opTree b, opCseq b, pkSrc b, l.rank, smGet 0 l.cnts (pkSrc b)]) = none →
          let m := 8 + 4 * h.w
          let q := landRecord p (h.lbuf % 2) h.w (slice (pkPayload b) 16 m) (slice (pkPayload b) (16 + m) h.blen) h.body
            (es.getD 0 (2 ^ 32)) { l with status := orStatus l.status h.status,
                                          cnts := smPut 0 l.cnts (pkSrc b) (smGet 0 l.cnts (pkSrc b) + 1) } u
          exec (.outPkt p es) s = .next (testColl p l.id (putLand p q.1 q.2)))) ∧
      (arrivedAt s p (fun b => pkOp b == opColl && pkClass b == clCollDn && be b 32 1 == 0x13) = some a →
        ∀ l, landOf s p b = some l → (∀ x ∈ l.ends, x.1 ≠ pkSrc b) → exec (.endPkt ⟨p, by omega⟩ k) s =
          .next (testColl p l.id (putLand p { l with ends := l.ends ++ [(pkSrc b, h.count)]
                                                     dropped := (l.dropped + h.idx) % 2 ^ 32
                                                     status := orStatus l.status h.status } u)))

/-- The program store. The holder's LOAD takes the staged bytes for a slot, and CLEAR none; while BUSY both are ignored. The end
of the check raises PROG_REJECT with its reason, and changes no slot; or writes the slot of the version that is not in force, and
raises PROG_LOADED (09 R253-R255). It says of each of these commands that exec answers a next state, the command's own effect,
wherever the stated conditions on the state and operands hold: progLoad, progClear, progLoadEnd. Where its reading is the model's:
log entry 65. -/
def Obligations.ProgramStore : Prop :=
  ∀ (s : State), SmWf regReset s.regs →
    (∀ (p : GPort) (slot : Fin 64), portReady s p = true → holds s p (dieOf A.rsePload) = true →
      (rbit s A.rsePstatus 0 = false →
        (∃ t, exec (.progLoad p slot) s = .next (accessed p A.rsePload 0 stOk t) ∧ rbit t A.rsePstatus 0 = true ∧
          t = { s with regs := t.regs, net := { s.net with
            progLoad := some (slot, cfgBytes s (A.rsePstage 0) 576, oldLive s) } }) ∧
        ∃ t, exec (.progClear p slot) s = .next (accessed p A.rsePload 0 stOk t) ∧ rbit t A.rsePstatus 0 = true ∧
          t = { s with regs := t.regs, net := { s.net with progLoad := some (slot, [], oldLive s) } }) ∧
      (rbit s A.rsePstatus 0 = true →
        (∃ t, exec (.progLoad p slot) s = .next (accessed p A.rsePload 0 stIgnored t) ∧ t = { s with regs := t.regs }) ∧
        ∃ t, exec (.progClear p slot) s = .next (accessed p A.rsePload 0 stIgnored t) ∧ t = { s with regs := t.regs })) ∧
    (∀ n, s.net.progLoad = none → exec (.progLoadEnd n) s = .next s) ∧
    ∀ slot b e n, s.net.progLoad = some (slot, b, e) →
      (∀ r i, loadFault s b e = some (r, i) → ∃ t, exec (.progLoadEnd n) s = .next (raiseEvent
        { code := 0x0902, unit := rseUnit 0, detail := 2 ^ 8 * i + r } t) ∧
        t = { s with regs := t.regs, net := { s.net with progLoad := none } } ∧ rbit t A.rsePstatus 0 = false) ∧
      (loadFault s b e = none → tstSpent s actReconfig 16 = false → (s.net.progs.Pairwise fun x y => x.1 < y.1) → ∃ t, exec (.progLoadEnd n) s = .next (raiseEvent
        { code := 0x0901, unit := rseUnit 0, detail := 2 ^ 8 * slot + otherEpoch s } t) ∧
        t = { s with regs := t.regs, tst := t.tst, net := { s.net with progLoad := none, progs := t.net.progs } } ∧
        progAt t (otherEpoch s) slot = (if allZero b then [] else b) ∧ rn t A.rsePstatus = 0x7F * 2 ^ 16 ∧
        ∀ k, k ≠ 64 * otherEpoch s + slot → smGet [] t.net.progs k = smGet [] s.net.progs k)

/-! ### Collectives at a member (10 R261, R262, R274, R286; 11 R303) -/

/-- COLL and MATMUL_SEND check the descriptor and the ranges that it names, arm the landing and launch; a faulty descriptor is
reported with its offset, a range outside the stores makes the command malformed, and a command with no place for its landing
waits. The step watchdog disarms a collective, whose command ends with TIMEOUT, and pauses while the collective's context is not
resident; the watchdog of an RSE frees what it holds of one, and raises COLL_ABANDON (10 R261, R262, R274, R284, R286; 11 R289,
R300, R303). It says of each of these commands that exec answers a next state, the command's own effect, wherever the stated
conditions on the state and operands hold: coll, collWatchdog, rseWatchdog, matmulSend. Where its reading is the model's: log
entries 24, 27, 28, 35, 78. -/
def Obligations.CollectiveCommands : Prop :=
  ∀ (s : State) (p : PierNo) (r : RunCmd),
    let d := r.desc
    (Runs s p eTxe 0x32 r (collFaults r) → le r.bytes 0x10 8 % 64 ≠ 0 → exec (.coll p .none none) s = .next (collBad p eTxe r 0 s)) ∧
    (Runs s p eTxe 0x32 r (collFaults r) → le r.bytes 0x10 8 % 64 = 0 →
      (∀ o, descFault s r.ctx r.cflag d = some o → exec (.coll p .none none) s =
        .next (collBad p eTxe r (collDetail (cdTree d) (cdCseq d) o) s)) ∧
      (descFault s r.ctx r.cflag d = none →
        (rangeBad (cdAux d, auxBytes d) = true → 0 < auxBytes d →
          exec (.coll p .none none) s = .next (malformed p eTxe 0x10 r s)) ∧
        ((rangeBad (cdAux d, auxBytes d) = true → auxBytes d = 0) →
          (256 ≤ armedCount s p → exec (.coll p .none none) s = .next s) ∧
          ∀ aux u, armedCount s p < 256 → fetch (r.by_ p eTxe) .rd (cdAux d) (auxBytes d) s = (some aux, u) →
            let rank := memberRank u r.ctx p d
            let ranges := descRanges (progAt u (curEpoch u) (cdSlot d)) d aux rank false
            let table := cdKind d = kAlltoall ∨ cdKind d = kAlltoallv
            (ranges.any rangeBad = false → (table → a2aOk u r.ctx (rank - cdRbase d) d aux = true) →
              exec (.coll p .none none) s = .next (
                let l := newLanding (getPier u p).nextId r false (auxList d aux) (r.cflag.getD 0) rank
                launched p l aux (armLanding p l u))) ∧
            ((∃ q ∈ ranges, rangeBad q = true) ∨ (table ∧ a2aOk u r.ctx (rank - cdRbase d) d aux = false) →
              exec (.coll p .none none) s = .next (malformed p eTxe 0x10 r u))))) ∧
    (∀ g : GirdNo, Runs s p g 0x11 r (matmulSendFaults g r) → le r.bytes 0x38 8 % 64 = 0 → descFault s r.ctx r.cflag d = none →
      let rank := memberRank s r.ctx p d
      let ranges := descRanges [] d [] rank true
      (fusedUnsuited r = true ∨ cdCarrier d = 1 ∨ (∃ q ∈ ranges, rangeBad q = true) →
        exec (.matmulSend p g .none) s = .next (malformed p g 0x38 r s)) ∧
      (fusedUnsuited r = false → cdCarrier d ≠ 1 → ranges.any rangeBad = false →
        (256 ≤ armedCount s p → exec (.matmulSend p g .none) s = .next s) ∧
        ∀ rows done u, armedCount s p < 256 →
          let l := newLanding (getPier s p).nextId r true [] (r.cflag.getD 0) rank
          matProduct p g r (armLanding p l s) = (rows, done, u) →
            exec (.matmulSend p g .none) s = .next (sendProduct p g l (mmN r.bytes) rows done u))) ∧
    (∀ (t : Fin 4096) (c : BitVec 16),
      (∀ l, (getPier s p).lands.find? (fun l => cdTree l.desc == t.val && cdCseq l.desc == c.toNat) = some l →
        (residentOn s l.run.ctx p = false → exec (.collWatchdog p t c) s = .next s) ∧
        (residentOn s l.run.ctx p = true →
          exec (.collWatchdog p t c) s = .next (byFault (l.by_ p eTxe) 0x0A02 (collDetail t c.toNat 0) (endColl p l csTimeout
            (onPier p (fun q => { q with expired := q.expired.erase (t.val, c.toNat) ++ [(t.val, c.toNat)] }) s))))) ∧
      ∀ (n : NodeNo) (o : RseOp), findOp s n t c.toNat = some o → ∃ u, exec (.rseWatchdog n t c) s = .next
        (raiseEvent { code := 0x0A03, ctx := o.ctx, unit := rseUnit o.node, detail := collDetail o.tree o.cseq o.node } u) ∧
        u = { s with net := { s.net with ops := u.net.ops } } ∧ findOp u n t c.toNat = none ∧
        ∀ n' t' c', (n', t', c') ≠ (n.val, t.val, c.toNat) → findOp u n' t' c' = findOp s n' t' c')

/-! ### Girders (07 R180-R196; 11 R302, R304; 13 R338-R344) -/

/-- MATMUL and the vector commands. A product whose zero-run blocks can all be read writes its rows of C and ends OK; each vector
command writes the elements that its operation gives at D, and ends OK; one that meets an SRAM word that cannot be corrected ends
FAULTED, reported. What a vector command writes lies in D's room: no other byte of a local store, and no byte of memory, changes
(07 R186-R196; 11 R302, R304; 13 R338-R344; 18 R450). It says of each of these commands that exec answers a next state, the
command's own effect, wherever the stated conditions on the state and operands hold: matmul, convert, elemwise, softmax, norm,
lreduce. Where its reading is the model's: log entries 2, 19, 67. -/
def Obligations.GirderCommands : Prop :=
  ∀ (s : State) (p : PierNo) (g : GirdNo) (r : RunCmd),
    let b := r.bytes
    let x := le b 0x10 4
    (Runs s p g 0x10 r (mmFaults g false b) →
      let as_ := (List.range (mmM b)).map (rowA s r.ctx p b)
      let bs := (List.range (mmN b)).map (colB s r.ctx p b)
      (firstBad bs 0 = none → firstBad as_ 0 = none →
        let rows := (okRows as_).zipIdx.map fun y => mmRow s p r (okRows bs) y.2 y.1
        exec (.matmul p g .none) s = .next (finish p g csOk 0 (girderNans p g r (tiled (mmN b) (rows.flatMap MmRow.prods)) (putRows p r rows s)))) ∧
      ∀ a, exec (.matmul p g (.sram a)) s = .next (finish p g csFaulted 0 (byFault (r.by_ p g) 0x120C a.toNat
        (freeRows p r (List.range (mmM b)) s)))) ∧
    (Runs s p g 0x12 r (convertFaults g b) → exec (.convert p g none) s = .next (finish p g csOk 0
      (writeArray p g r (le b 0x14 4) (le b 0x1C 4)
        ((readArray s r.ctx p x (cmFa b) (cvN b)).map fun v => { val := v, nanIn := isNan32 v }) s))) ∧
    (Runs s p g 0x13 r (elemwiseFaults g b) → exec (.elemwise p g none) s = .next (finish p g csOk 0
      (writeArray p g r (le b 0x1C 4) (le b 0x30 4) (elemwiseElems p s r) s))) ∧
    (eopArity (ewOp b) = 2 → elemwiseElems p s r = (readArray s r.ctx p x (cmFa b) (ewN b)).zipWith (fun a c =>
      { val := eopApply (ewOp b) a c 0, nanIn := isNan32 a || isNan32 c }) (ewOperand s p r 0x14 0 0x28)) ∧
    (Runs s p g 0x14 r (rowsFaults false g b) → exec (.softmax p g none) s = .next (finish p g csOk 0
      (writeArray p g r (le b 0x14 4) (le b 0x30 4) ((rowsOf p s r).flatMap (softmaxRow (rwS b))) s))) ∧
    (Runs s p g 0x15 r (rowsFaults true g b) → exec (.norm p g none) s = .next (finish p g csOk 0
      (writeArray p g r (le b 0x14 4) (le b 0x30 4) ((rowsOf p s r).flatMap
        (normRow (rwMode b) (rwS b) (readWords s r.ctx p (le b 0x18 4) (rwL b)) (readWords s r.ctx p (le b 0x1C 4) (rwL b)))) s))) ∧
    (Runs s p g 0x16 r (lreduceFaults g b) → exec (.lreduce p g none) s = .next (finish p g csOk 0
      (writeArray p g r (le b 0x18 4) (le b 0x24 4) (lreduceElems p s r) s))) ∧
    (∀ a : BitVec 24, Runs s p g 0x12 r (convertFaults g b) → ∃ u, exec (.convert p g (some a)) s =
      .next (finish p g csFaulted 0 (byFault (r.by_ p g) 0x120C a.toNat u)) ∧
      (residentOn s r.ctx p = true → u = { s with pr := { s.pr with store := u.pr.store }, free := s.free + 1 })) ∧
    ∀ (d tid : Nat) (es : List Elem), Canonical s → residentOn s r.ctx p = true → ∃ t, writeArray p g r d tid es s = t ∧
      t = { s with regs := t.regs, out := t.out, trc := t.trc, corr := t.corr, pr := { s.pr with store := t.pr.store } } ∧
      ∀ k, (k < 2 ^ 24 * p.val + d ∨ 2 ^ 24 * p.val + d + arrayBytes (cmFc b) es.length ≤ k) →
        smGet 0 t.pr.store k = smGet 0 s.pr.store k

/-- Integer accumulation is in S32, modulo 2^32, and is exact whenever the true sum lies in the S32 range: the accumulated value
is the true sum modulo 2^32, read as two's complement, however the summation axis is cut into chunks, in every order, and from
whatever an accumulator holds; and no element of a product of integers is reported, whether its sum overflows or not (07 R180). -/
def Obligations.IntegerProductsAreExact : Prop :=
  (∀ (pass kc : Nat) (acc : Option Nat) (xs ys : List Int), 0 < kc → xs ≠ [] → xs.length = ys.length →
    dotRow true false pass kc acc (xs.map fun x => some (Val.ofInt x)) (ys.map fun y => some (Val.ofInt y)) =
      some (ofInt 32 ((acc.getD 0 : Nat) + (List.zipWith (· * ·) xs ys).sum))) ∧
  (∀ v : Int, -2147483648 ≤ v → v < 2147483648 → toInt 32 (ofInt 32 v) = v) ∧
  (∀ (pass kc kc' : Nat) (acc : Option Nat) (l m : List (Int × Int)), 0 < kc → 0 < kc' → l.Perm m →
    dotRow true false pass kc acc (l.map fun x => some (Val.ofInt x.1)) (l.map fun x => some (Val.ofInt x.2)) =
      dotRow true false pass kc' acc (m.map fun x => some (Val.ofInt x.1)) (m.map fun x => some (Val.ofInt x.2))) ∧
  ∀ (s : State) (p : Nat) (r : RunCmd) (cols : List OpRow) (i kc : Nat) (a : OpRow),
    pairOf (zrCode (cmFa r.bytes)) (zrCode (cmFb r.bytes)) = some (kc, true) → zrCode (cmFc r.bytes) = fcS32 →
      (mmRow s p r cols i a).prods = []

/-- A row in the zero-run form that the device writes reads back as the row: an element that is absent was zero; and the form fits
the room that a row of its length must have (13 R339-R342). -/
def Obligations.ZeroRunsReadBack : Prop :=
  ∀ (c : Nat) (xs : List Nat) (rest : List Byte), fmtKnown c = true → (∀ x ∈ xs, x < 2 ^ fmtBits c) →
    (zrWrite c xs []).length ≤ zrCapacity c xs.length ∧
    ∃ ys, zrRow c (zrBlocks xs.length) 0 (zrWrite c xs [] ++ rest) = .ok ys ∧ ys.map (fun y => y.getD 0) = xs

/-! ### Microprograms (11 R312-R316) -/

/-- A microprogram begins with its girder cleared; each word of a stream then has its effect, and the stream goes on: SETX and
ADDX set an address register modulo 2^24; LDA and LDB bring bytes to a queue, and STC takes values from one, the address rising by
IMM; MAC, RDACC, VOP, VPOPA, VPUSH, VSET and ZACC work on tiles and vector registers; LOOP enters its body or passes over it; END
stops its stream. A word whose queue is not ready leaves the machine as it is, and a word that reads a tile too early, or whose
write lands with another, stops the program FAULTED (11 R312-R316). It says of each of these commands that exec answers a next
state, the command's own effect, wherever the stated conditions on the state and operands hold: microprogram, setx, addx, lda,
ldb, stc, mac, rdacc, vop, vpopa, vpush, vset, zacc, loop, uprogEnd. Where its reading is the model's: log entry 44. -/
def Obligations.MicroprogramWords : Prop :=
  ∀ (s : State) (p : PierNo) (g : GirdNo) (r : RunCmd) (w : GWord) (stall : Nat),
    let q := getGird s p g
    let b := r.bytes
    let acc (f : Girder → Girder) (u : State) : State := advanceStream p g false (onGird p g f u)
    let exe (u : State) : State := advanceStream p g true (onGird p g (wordIssued b w (q.cycle + stall)) u)
    let up (q : Girder) : Girder := setX w.fa (getX q w.fa + w.imm) q
    let onTime := timingFault q b w (q.cycle + stall) = none
    (∀ prog, progCmd s p g = some r → q.cmd ≠ some (r.ctx, r.seq) →
      gdProgram (sectV s secGirderprog r.ver) (progSlot b) = some prog →
      firstFault (cstatFault b ++ progFaults (gpExecute prog) b) = none → exec (.microprogram p g) s =
        .next { onGird p g (fun _ => { Girder.reset with
          cmd := some (r.ctx, r.seq), acc := streamOf (gpAccess prog), exe := streamOf (gpExecute prog), base := s.free }) s with
          free := s.free + 1 }) ∧
    (NextWord s p g false goSetx r w →
      exec (.setx p g) s = .next (acc (setX w.fa (if w.fd = 0 then w.imm else progArg r w.imm)) s)) ∧
    (NextWord s p g false goAddx r w → exec (.addx p g) s = .next (acc (fun q => setX w.fa (getX q w.fb + w.imm) q) s)) ∧
    (NextWord s p g false goLda r w → q.qa.length < 32 → localOk g (getX q w.fa) 64 = true → exec (.lda p g none) s =
      .next (acc up (onGird p g (fun q => { q with qa := q.qa ++ [ctxLocRd s r.ctx p (getX (getGird s p g) w.fa) 64] }) s))) ∧
    (NextWord s p g false goLda r w → 32 ≤ q.qa.length → q.exe.ended = false → exec (.lda p g none) s = .next s) ∧
    (NextWord s p g false goLdb r w → q.qb.length < 32 → localOk g (getX q w.fa) 320 = true → exec (.ldb p g none) s =
      .next (acc up (onGird p g (fun q => { q with qb := q.qb ++ [ctxLocRd s r.ctx p (getX (getGird s p g) w.fa) 320] }) s))) ∧
    (∀ v rest, NextWord s p g false goStc r w → q.qc = v :: rest → localOk g (getX q w.fa) (rowBytesC (cmFc b) 16) = true →
      let c := convertRow (zrCode (cmFc b)) (cmNumctl b) (ctxJob s r.ctx) (progArg r 11) r.seed q.stored (v.map val32)
      exec (.stc p g) s = .next (acc up (onGird p g (fun q => { q with qc := rest, stored := q.stored + 16 })
        (girderNans p g r c.2.2 (putRow r.ctx p (getX q w.fa) (cmFc b) c.1 c.2.1 s))))) ∧
    (NextWord s p g true goMac r w →
      (q.qa = [] ∨ q.qb = [] → q.acc.ended = false → exec (.mac p g stall none) s = .next s) ∧
      (q.qa ≠ [] → q.qb ≠ [] → onTime → exec (.mac p g stall none) s = .next (exe (macWord p g r w { q with cycle := q.cycle + stall } s)))) ∧
    (NextWord s p g true goRdacc r w → onTime → pairOf (zrCode (cmFa b)) (zrCode (cmFb b)) = none ∨
        (∃ k, pairOf (zrCode (cmFa b)) (zrCode (cmFb b)) = some (k, false)) →
      exec (.rdacc p g stall) s = .next (exe (onGird p g (setV w.fb (getTile q (8 * w.fc + w.fa))) s))) ∧
    (∀ code d, NextWord s p g true goRdacc r w → timingFault q b w (q.cycle + stall) = some (code, d) →
      exec (.rdacc p g stall) s = .next (stopProg p g csFaulted (byFault (r.by_ p g) code (2 ^ 32 * cmTag b + d) s))) ∧
    (NextWord s p g true goVop r w → onTime → w.fd ≠ 3 → ∃ u, exec (.vop p g stall) s = .next (exe u) ∧
      u = { onGird p g (setV w.fa (((getV q w.fb).zip (getV q w.fc)).take 16 |>.map fun v => eopApply w.fd v.1 v.2 0)) s with
        regs := u.regs, out := u.out, trc := u.trc, corr := u.corr, free := u.free }) ∧
    (∀ a rest, NextWord s p g true goVpopa r w → q.qa = a :: rest → onTime → exec (.vpopa p g stall) s =
      .next (exe (onGird p g (fun q => setV w.fa (unpackElems fcFp32 a 16) { q with qa := rest }) s))) ∧
    (NextWord s p g true goVpush r w → q.qc.length < 32 → onTime → exec (.vpush p g stall) s =
      .next (exe (onGird p g (fun x => { x with qc := x.qc ++ [getV q w.fa] }) s))) ∧
    (NextWord s p g true goVset r w → onTime → exec (.vset p g stall) s =
      .next (exe (onGird p g (setV w.fa (List.replicate 16 w.imm)) s))) ∧
    (NextWord s p g true goZacc r w → onTime → exec (.zacc p g stall) s = .next (exe (onGird p g (fun q =>
      (rivetsOf w.imm).foldl (fun q v => writeTile (8 * v + w.fa) (q.cycle + stall + 1) (List.replicate 16 0) q) q) s))) ∧
    (∀ side, NextWord s p g side goLoop r w → exec (.loop p g side stall) s = .next
      (let u := onStream p g side (fun t => { t with
          pc := (enterLoop t.loops t.pc (w.fb + 1) (loopTimes r w)).1,
          loops := (enterLoop t.loops t.pc (w.fb + 1) (loopTimes r w)).2 }) s
       if side = true then onGird p g (fun q => { q with cycle := q.cycle + stall + 1 }) u else u)) ∧
    (∀ side, NextWord s p g side goEnd r w →
      (∀ k, leftQueue q side = some k → exec (.uprogEnd p g side) s =
        .next (stopProg p g csFaulted (byFault (r.by_ p g) 0x0B05 (2 ^ 32 * cmTag b + k) s))) ∧
      (q.qa = [] → q.qb = [] → q.qc = [] → exec (.uprogEnd p g side) s = .next (
        let u := onStream p g side (fun t => { t with ended := true }) s
        if (q.stream (!side)).ended = true then stopProg p g csOk u else u)))

/-! ### Services (14 R356-R385) -/

/-- Key-value pages. A taken request opens a store, its index written to zero, or closes one; a batch handles its keys in order,
and ends OK, or PARTIAL where some key was not, RESULT with how many were and how many pages went; one whose access fails is
FAULTED, RESULT with what it had done; a remote KV_GET goes on with its pages, one SEND after the other. A request on a store that
is not as it must be is malformed (14 R361, R366, R375-R380). It says of each of these commands that exec answers a next state,
the command's own effect, wherever the stated conditions on the state and operands hold: kvOpen, kvClose, kvPut, kvGet, kvDrop,
kvPin. Where its reading is the model's: log entries 48, 49, 80. -/
def Obligations.KeyValueCommands : Prop :=
  ∀ (s : State) (x : CtxNo) (j : Fin 8) (r r' : SvcReq) (u w : State) (p : Nat), r' = { r with pier := p } →
    let b := r.bytes
    let store : KvStore := { ctx := r.ctx, store := kvStoreNo b, recomp := koRecomp b, policy := koPolicy b, psize := koPsize b,
                             slots := koSlots b, pbase := koPbase b, ibase := koIbase b, stamp := 0 }
    let zeros := List.replicate (32 * kvNb store) (0 : Byte)
    let header := firstFault (reqFaults u r.ctx r.queue b) = none
    (OnPier u r p w →
      (Takes s x j soKvOpen kvOpenFaults r u →
        (∀ v, svcWrite (svcBy r') (koIbase b) zeros w = (true, v) → exec (.kvOpen x (.take j)) s =
          .next (endReq r' csOk { v with svc := { v.svc with stores := v.svc.stores ++ [store] } })) ∧
        ∀ v, svcWrite (svcBy r') (koIbase b) zeros w = (false, v) → exec (.kvOpen x (.take j)) s = .next (failReq r' v)) ∧
      (Takes s x j soKvClose kvCloseFaults r u → exec (.kvClose x (.take j)) s = .next (endReq r' csOk { w with svc := { w.svc with
        stores := w.svc.stores.filter fun q => !(q.ctx == r.ctx && q.store == kvStoreNo b) } })) ∧
      ∀ l v, kvKeys r' (kbN b) 0 w = (l, v) →
        let res : SvcReq := { r' with result := some (kvResult l) }
        let good := ∀ d ∈ l, d.failed = false
        let bad := ∃ d ∈ l, d.failed = true
        let ends : State := endReq res (kvStatus l) v
        (Takes s x j soKvPut kvBatchFaults r u → kbRemote b = false → (good → exec (.kvPut x (.take j)) s = .next ends) ∧
          (bad → exec (.kvPut x (.take j)) s = .next (failReq res v))) ∧
        (Takes s x j soKvGet kvBatchFaults r u → kbRemote b = false → (good → exec (.kvGet x (.take j)) s = .next ends) ∧
          (bad → exec (.kvGet x (.take j)) s = .next (failReq res v))) ∧
        (Takes s x j soKvDrop kvBatchFaults r u → kbRemote b = false → (good → exec (.kvDrop x (.take j)) s = .next ends) ∧
          (bad → exec (.kvDrop x (.take j)) s = .next (failReq res v))) ∧
        (Takes s x j soKvPin kvBatchFaults r u → kbRemote b = false → (good → exec (.kvPin x (.take j)) s = .next ends) ∧
          (bad → exec (.kvPin x (.take j)) s = .next (failReq res v))) ∧
        (Takes s x j soKvGet kvBatchFaults r u → kbRemote b = true → good → (∃ d ∈ l, d.status = 0) →
          let todo := (l.zipIdx.filter fun y => y.1.status == 0).map fun y => (y.2, y.1.slot)
          exec (.kvGet x (.take j)) s = .next (putReq { res with stage := 1, pos := kvStatus l, todo := todo } v))) ∧
    (TakesAny s x j soKvOpen r u → header → kvOf u r.ctx (kvStoreNo b) ≠ none →
      exec (.kvOpen x (.take j)) s = .next (malformedReq r 0x20 u)) ∧
    (TakesAny s x j soKvClose r u → header → kvOf u r.ctx (kvStoreNo b) = none →
      exec (.kvClose x (.take j)) s = .next (malformedReq r 0x20 u)) ∧
    (TakesAny s x j soKvPut r u → header → kvOf u r.ctx (kvStoreNo b) = none →
      exec (.kvPut x (.take j)) s = .next (malformedReq r 0x20 u)) ∧
    (∀ o, TakesAny s x j soKvGet r u → reqFaulty kvBatchFaults r u = some o →
      exec (.kvGet x (.take j)) s = .next (malformedReq r o u)) ∧
    ∀ (k : Fin 16) q v, GoesOn s x k soKvGet q → OnPier s q p w → kvOf s q.ctx (kvStoreNo q.bytes) = some v →
      (q.stage = 1 → exec (.kvGet x (.go k)) s = .next (kvSendNext { q with pier := p } v w)) ∧
      (q.stage = 2 → exec (.kvGet x (.go k)) s = .next (kvSent { q with pier := p } v w))

/-- Entries of the index read back as they are written: their key of 16 bytes, slot, stamp, state and PIN (14 R376, Table 14.10).
A page that is stored as it is reads back as it was put (R378). -/
def Obligations.PagesReadBack : Prop :=
  (∀ e : KvEntry, e.key.length = 16 → e.slot < 2 ^ 32 → e.stamp < 2 ^ 32 → e.state < 2 ^ 8 →
    (kvEncode e).length = 32 ∧ kvDecode (kvEncode e) = e) ∧
  ∀ (s t : State) (w : SvcBy) (v : KvStore) (i : Nat) (e : KvEntry) (page : List Byte), Memory.wf s.hbm → anyFailed s = false →
    page.length = v.psize → v.recomp = 0 → v.policy = 0 → e.key.length = 16 → e.slot < 2 ^ 32 → e.stamp < 2 ^ 32 → e.state = 1 →
    (v.pbase + e.slot * v.psize + v.psize ≤ v.ibase + 32 * i ∨ v.ibase + 32 * i + 32 ≤ v.pbase + e.slot * v.psize) →
    kvWritePage w v i e page false s = (true, t) →
      hbmRd t (v.pbase + e.slot * v.psize) v.psize = page ∧ kvEntry t v i = e ∧
      ∀ a, (a < v.pbase + e.slot * v.psize ∨ v.pbase + e.slot * v.psize + v.psize ≤ a) →
        (a < v.ibase + 32 * i ∨ v.ibase + 32 * i + 32 ≤ a) → hbmByte t a = hbmByte s a

/-- The optimizer and the sending of shards. A taken OPT_STEP or OPT_ACCUM that is sound reads its descriptors and waits for the
gradients, or goes on at once; the update of its chunks ends an OPT_ACCUM, and an OPT_STEP goes on to its collective or to its
mirror; AGT_SEND_STATE begins a mirror and waits for it; the answer of a mirror's SEND brings the next one (14 R361, R363,
R366-R374, R384, R385). One parameter of an update, by R369: momentum and weights with FP32 operations in the order that it gives;
plane A stays, and is cleared where the update uses it (14 R369). It says of each of these commands that exec answers a next
state, the command's own effect, wherever the stated conditions on the state and operands hold: optStep, optAccum, agtSendState.
Where its reading is the model's: log entries 48, 49, 80. -/
def Obligations.OptimizerCommands : Prop :=
  (∀ (s : State) (x : CtxNo) (j : Fin 8) (r r' : SvcReq) (u w : State) (p n : Nat), r' = { r with pier := p } →
    let b := r.bytes
    let areas := [(opDesc b, 64)] ++ (if opRs b = 0 then [] else [(opRs b, 128)]) ++ (if opAg b = 0 then [] else [(opAg b, 128)])
    (OnPier u r p w →
      (∀ l v, svcReads (svcBy r') areas w = (some l, v) →
        let begun : State := putReq { r' with desc := l.getD 0 [], stage := if opRs b = 0 then 3 else 1 } v
        (Takes s x j soOptStep optFaults r u → exec (.optStep x (.take j) n) s = .next begun) ∧
        (Takes s x j soOptAccum optFaults r u → exec (.optAccum x (.take j)) s = .next begun)) ∧
      (∀ v, svcReads (svcBy r') areas w = (none, v) →
        (Takes s x j soOptStep optFaults r u → exec (.optStep x (.take j) n) s = .next (failReq r' v)) ∧
        (Takes s x j soOptAccum optFaults r u → exec (.optAccum x (.take j)) s = .next (failReq r' v))) ∧
      ∀ d v, Takes s x j soSendState sendStateFaults r u → svcRead (svcBy r') (opDesc b) 64 w = (some d, v) →
        exec (.agtSendState x (.take j) n) s = .next (let q := { r' with desc := d, stage := 1 }
          putReq q (startMirror q (asTsr b) (asTrank b) (asToff b) (asStep b) true v))) ∧
    (∀ o, reqFaulty optFaults r u = some o →
      (TakesAny s x j soOptStep r u → exec (.optStep x (.take j) n) s = .next (malformedReq r o u)) ∧
      (TakesAny s x j soOptAccum r u → exec (.optAccum x (.take j)) s = .next (malformedReq r o u))) ∧
    (∀ o, reqFaulty sendStateFaults r u = some o → TakesAny s x j soSendState r u →
      exec (.agtSendState x (.take j) n) s = .next (malformedReq r o u)) ∧
    (∀ (k : Fin 16) q q', OnPier s q p w → q' = { q with pier := p } → q.stage = 3 →
      (∀ v, optChunks q' (shPiers w q') ((shPcount q.desc + 2047) / 2048) 0 w = (true, v) →
        (GoesOn s x k soOptAccum q → exec (.optAccum x (.go k)) s = .next (endReq q' csOk v)) ∧
        (GoesOn s x k soOptStep q → opMirrorOn q.bytes = false → exec (.optStep x (.go k) n) s =
          .next (putReq (addResult { q' with stage := if opAg q.bytes = 0 then 6 else 4 } 1) v))) ∧
      ∀ v, optChunks q' (shPiers w q') ((shPcount q.desc + 2047) / 2048) 0 w = (false, v) → GoesOn s x k soOptStep q →
        exec (.optStep x (.go k) n) s = .next (failReq q' v)) ∧
    ∀ id m d, s.svc.mirrors.find? (fun m => m.id == id && m.ctx == x.val) = some m → m.result = none → m.sending = true →
      m.piece ≤ mirrorSends m → svcAnswer s m.ctx m.pier (mirrorPlace m) = some (csOk, d) →
        let next : State := { s with svc := { s.svc with mirrors := s.svc.mirrors.map fun q =>
          if q.id = m.id then { m with piece := m.piece + 1, sending := false } else q } }
        exec (.optStep x (.mirror id) n) s = .next next ∧ exec (.agtSendState x (.mirror id) n) s = .next next) ∧
  (∀ (b d : List Byte) (rnd : Rnd) (g w m v a : Nat),
    let e := optElement b d rnd g w m v a
    let lr := opF b 0
    let gs := fpMul (if opUseAcc b = true then fpAdd a g else g) (opF b 7)
    (e.a = if opUseAcc b = true then 0 else a) ∧
    (shAlgo d ≠ 0 → e.m = fpFma (opF b 1) m gs ∧ e.v = v ∧ e.w = fpFma (fpNeg lr) (fpFma (opF b 4) w e.m) w) ∧
    (shAlgo d = 0 → e.m = fpFma (opF b 1) m (fpMul (fpSub fpOne (opF b 1)) gs) ∧
      e.v = fpFma (opF b 2) v (fpMul (fpSub fpOne (opF b 2)) (fpMul gs gs)) ∧
      e.w = fpFma (fpNeg lr) (fpFma (opF b 4) w
        (fpDiv (fpMul e.m (opF b 5)) (fpAdd (fpSqrt (fpMul e.v (opF b 6))) (opF b 3)))) w) ∧
    e.out = (convert (shOutfmt d) (val32 e.w) rnd (bit (opNumctl b) 3)).1)

/-- Dispatch, combine and the agent. DISPATCH reads its descriptor and clears the landing buffer, COMBINE reads its own; each
pushes its collective and, once that has ended, scans or sums. AGT_DIGEST writes the SHA3-512 of a range; AGT_QUIESCE stops a
context's queues, and is done, reported, when no other request of that context is in progress; AGT_RESUME ends that; AGT_CANCEL is
for a context that is quiesced, and completes what queues hold. One that names a context of another job is malformed (14 R361,
R382-R384). The end of a request: its record stands at DONE, and it is FAULTED where that write is denied; its chain rings its
doorbell only where it ended OK, it is complete, and CONS passes what has completed at the front of its queue. An entry whose OP
no operation has is malformed (14 R357-R361, R366). It says of each of these commands that exec answers a next state, the
command's own effect, wherever the stated conditions on the state and operands hold: dispatch, combine, agtDigest, agtQuiesce,
agtResume, agtCancel, svcRequestComplete. Where its reading is the model's: log entries 48, 49, 80. -/
def Obligations.DispatchAgentAndCompletion : Prop :=
  (∀ (s : State) (x : CtxNo) (j : Fin 8) (r r' : SvcReq) (u w : State) (p n : Nat), r' = { r with pier := p } →
    let b := r.bytes
    let c := agCtx b
    let header := firstFault (reqFaults u r.ctx r.queue b) = none
    let stopped : State := { u with svc := { u.svc with quiet := if c ∈ u.svc.quiet then u.svc.quiet else u.svc.quiet ++ [c] } }
    let quiesced (v : State) (k : Nat) : State :=
      raiseEvent { code := 0x0E05, ctx := k, detail := k } (wf (A.ctxSvcStatus k) 31 31 1 v)
    (∀ d v, OnPier u r p w → svcRead (svcBy r') (xDesc b) 128 w = (some d, v) →
      (Takes s x j soDispatch dispatchFaults r u → exec (.dispatch x (.take j)) s =
        .next (dispatchClear { r' with desc := d, ver := curEpoch v } v)) ∧
      (Takes s x j soCombine combineFaults r u → exec (.combine x (.take j)) s =
        .next (putReq { r' with desc := d, ver := curEpoch v, stage := 1 } v))) ∧
    (header → notStream u r = true →
      (TakesAny s x j soDispatch r u → exec (.dispatch x (.take j)) s = .next (malformedReq r 0x20 u)) ∧
      (TakesAny s x j soCombine r u → exec (.combine x (.take j)) s = .next (malformedReq r 0x20 u))) ∧
    (∀ (k : Fin 16) q, OnPier s q p w → q.stage = 2 → svcAnswer w q.ctx p q.slot = some (csOk, n) →
      let q' : SvcReq := { q with pier := p, result := q.result.map fun _ => endSum w { q with pier := p } }
      let v := onPier p (fun y => { y with endIdx := smPut 0 y.endIdx q.seq 0 }) w
      (GoesOn s x k soDispatch q → exec (.dispatch x (.go k)) s = .next (dispatchScan q' v)) ∧
      (GoesOn s x k soCombine q → exec (.combine x (.go k)) s = .next (combineSums q' v))) ∧
    (Takes s x j soDigest (fun _ r => breaks (agLen r.bytes % 64 != 0) 0x28 ++ mustBeZero r.bytes 0x38 72) r u →
      tstSpent u actMgmtDma 16 = false → ∀ m v w', svcRead (svcBy r) (agAddr b) (agLen b) (tstCharge actMgmtDma 16 n u) = (some m, v) →
        svcWrite (svcBy r) (agOutd b) (sha3 m) v = (true, w') → exec (.agtDigest x (.take j) n) s = .next (endReq r csOk w')) ∧
    (Takes s x j soQuiesce quiesceFaults r u →
      ((∃ q ∈ inProgress u c, sameReq q r = false) → exec (.agtQuiesce x (.take j)) s = .next (putReq { r with stage := 1 } stopped)) ∧
      ((∀ q ∈ inProgress u c, sameReq q r = true) → exec (.agtQuiesce x (.take j)) s = .next (endReq r csOk (quiesced stopped c)))) ∧
    (∀ (k : Fin 16) q, GoesOn s x k soQuiesce q → agCtx q.bytes ∈ s.svc.quiet →
      (∀ y ∈ inProgress s (agCtx q.bytes), sameReq y q = true) → exec (.agtQuiesce x (.go k)) s =
        .next (endReq q csOk (quiesced s (agCtx q.bytes)))) ∧
    (Takes s x j soResume quiesceFaults r u → exec (.agtResume x (.take j)) s =
      .next (endReq r csOk (let v := wf (A.ctxSvcStatus c) 31 31 0 u
        { v with svc := { v.svc with quiet := v.svc.quiet.erase c } }))) ∧
    (Takes s x j soCancel cancelFaults r u → exec (.agtCancel x (.take j)) s = .next (endReq r csOk
      (((List.range 7).filter (bit (agQmask b))).foldl (fun v q => cancelEntries c q (2 ^ 16) v) u))) ∧
    (header →
      (agStranger u r = true → TakesAny s x j soQuiesce r u → exec (.agtQuiesce x (.take j)) s = .next (malformedReq r 0x20 u)) ∧
      (agStranger u r = true → TakesAny s x j soResume r u → exec (.agtResume x (.take j)) s = .next (malformedReq r 0x20 u)) ∧
      (agStranger u r = true ∨ rbit u (A.ctxSvcStatus c) 31 = false → TakesAny s x j soCancel r u →
        exec (.agtCancel x (.take j)) s = .next (malformedReq r 0x20 u)))) ∧
  (∀ (s : State) (x : CtxNo) (j : Fin 8),
    (∀ r st v st' written, s.svc.reqs.find? (fun r => r.ctx == x.val && r.queue == j.val && !r.complete && r.status.isSome) = some r →
      r.status = some st → r.result = some v → writeDone r st v s = (st', written) →
      (st' ≠ csOk ∨ rqChain r.bytes = false → exec (.svcRequestComplete x j) s =
        .next (passReqs r.ctx r.queue (putReq { r with complete := true } written))) ∧
      (st' = csOk → rqChain r.bytes = true → isOn written (fnCtx r.ctx) = true → exec (.svcRequestComplete x j) s =
        .next (passReqs r.ctx r.queue (putReq { r with complete := true }
          (addDoorbell 0xFF r.ctx (rqChspan r.bytes) (rqChcount r.bytes) written).1)))) ∧
    (∀ r st v, (rqDone r.bytes = 0 → writeDone r st v s = (st, s)) ∧
      (rqDone r.bytes ≠ 0 → ∀ u, (svcWrite (svcBy r) (rqDone r.bytes) (svcRecord r.bytes st v) s = (true, u) → writeDone r st v s = (st, u)) ∧
        (svcWrite (svcBy r) (rqDone r.bytes) (svcRecord r.bytes st v) s = (false, u) → writeDone r st v s =
          (csFaulted, raiseFault { code := 0x0E02, cls := .ctxf, ctx := r.ctx, tag := rqTag r.bytes,
                                   detail := 2 ^ 32 * rqTag r.bytes + rqOp r.bytes } u)))) ∧
    (∀ b, s.svc.reqs.find? (fun r => r.ctx == x.val && r.queue == j.val && !r.complete && r.status.isSome) = none →
      takesFrom s x j = true → peekEntry s x j (svcNext s x j) = some b → isSvcOp (rqOp b) = false →
      exec (.svcRequestComplete x j) s = .next (let q := takeReq x j b none (roundPast x j s)
        malformedReq q.1 0 q.2)) ∧
    ((∀ r ∈ s.svc.reqs, r.ctx = x.val → r.queue = j.val → r.complete = false → r.status = none) → takesFrom s x j = false →
      exec (.svcRequestComplete x j) s = .next s))
end

