-- ==== Sys2Proof/Laws/Maps.lean ====
section
/-! SUPPORT. The laws of sparse maps: a read after a write, and that every operation keeps the canonical form. -/

namespace Sys2Proof.Machine

variable {β : Type}

/-- Keys that come before every listed key read the default. -/
theorem smGet_below (d : β) (m : List (Nat × β)) (a : Nat) (h : ∀ p ∈ m, a < p.1) : smGet d m a = d := by
  cases m with
  | nil => rfl
  | cons p r =>
    have hp := h p (List.mem_cons_self ..)
    simp [smGet, hp]

/-- Dropping entries keeps the canonical form. -/
theorem SmWf.filter (dflt : Nat → β) (m : List (Nat × β)) (f : Nat × β → Bool) (h : SmWf dflt m) : SmWf dflt (m.filter f) :=
  ⟨h.1.filter _, fun p hp => h.2 p (List.mem_filter.mp hp).1⟩

variable [DecidableEq β]

/-- A read of the key written gives the value written. -/
theorem smGet_put_same (d : β) (m : List (Nat × β)) (a : Nat) (x : β) (h : m.Pairwise fun p q => p.1 < q.1) :
    smGet d (smPut d m a x) a = x := by
  induction m with
  | nil => by_cases hx : x = d <;> simp [smPut, smGet, hx]
  | cons p r ih =>
    obtain ⟨k, v⟩ := p
    obtain ⟨hk, hr⟩ := List.pairwise_cons.mp h
    by_cases h1 : a < k
    · by_cases hx : x = d <;> simp [smPut, smGet, h1, hx]
    · by_cases h2 : a = k
      · by_cases hx : x = d
        · simp only [smPut, h2, hx, if_true, if_false, Nat.lt_irrefl]
          exact smGet_below d r k fun p hp => hk p hp
        · simp [smPut, smGet, h2, hx]
      · simp [smPut, smGet, h1, h2, ih hr]

/-- A read of another key is as before. -/
theorem smGet_put_other (d e : β) (m : List (Nat × β)) (a b : Nat) (x : β) (hb : b ≠ a)
    (h : m.Pairwise fun p q => p.1 < q.1) : smGet e (smPut d m a x) b = smGet e m b := by
  induction m with
  | nil =>
    by_cases hx : x = d
    · simp [smPut, hx]
    · by_cases hlt : b < a <;> simp [smPut, smGet, hx, hb, hlt]
  | cons p r ih =>
    obtain ⟨k, v⟩ := p
    obtain ⟨hk, hr⟩ := List.pairwise_cons.mp h
    by_cases h1 : a < k
    · by_cases hx : x = d
      · simp [smPut, h1, hx]
      · by_cases hlt : b < a
        · have : b < k := Nat.lt_trans hlt h1
          simp [smPut, smGet, h1, hx, hlt, this]
        · simp [smPut, smGet, h1, hx, hb, hlt]
    · by_cases h2 : a = k
      · subst h2
        by_cases hx : x = d
        · simp only [smPut, hx, if_true, if_false, Nat.lt_irrefl]
          by_cases hlt : b < a
          · rw [smGet_below e r b fun p hp => Nat.lt_trans hlt (hk p hp)]
            simp [smGet, hlt]
          · simp [smGet, hlt, hb]
        · simp [smPut, smGet, hx, hb]
      · by_cases hlt : b < k
        · simp [smPut, smGet, h1, h2, hlt]
        · by_cases hbk : b = k
          · simp [smPut, smGet, h1, h2, hbk]
          · simp [smPut, smGet, h1, h2, hlt, hbk, ih hr]

/-- The keys of a map after a write. -/
theorem smPut_keys (d : β) (m : List (Nat × β)) (a : Nat) (x : β) :
    ∀ p ∈ smPut d m a x, p ∈ m ∨ p = (a, x) ∧ x ≠ d := by
  induction m with
  | nil =>
    intro p hp
    by_cases hx : x = d
    · simp [smPut, hx] at hp
    · simp only [smPut, hx, if_false, List.mem_singleton] at hp
      exact .inr ⟨hp, hx⟩
  | cons q r ih =>
    obtain ⟨k, v⟩ := q
    intro p hp
    by_cases h1 : a < k
    · by_cases hx : x = d
      · simp only [smPut, h1, hx, if_true] at hp
        exact .inl hp
      · simp only [smPut, h1, hx, if_true, if_false, List.mem_cons] at hp
        rcases hp with hp | hp
        · exact .inr ⟨hp, hx⟩
        · exact .inl (by simpa using hp)
    · by_cases h2 : a = k
      · by_cases hx : x = d
        · simp only [smPut, h2, hx, if_true, if_false, Nat.lt_irrefl] at hp
          exact .inl (List.mem_cons_of_mem _ hp)
        · simp only [smPut, h2, hx, if_true, if_false, Nat.lt_irrefl, List.mem_cons] at hp
          rcases hp with hp | hp
          · exact .inr ⟨by rw [hp, h2], hx⟩
          · exact .inl (List.mem_cons_of_mem _ hp)
      · simp only [smPut, h1, h2, if_false, List.mem_cons] at hp
        rcases hp with hp | hp
        · exact .inl (by simp [hp])
        · rcases ih p hp with h | h
          · exact .inl (List.mem_cons_of_mem _ h)
          · exact .inr h

/-- A write keeps the keys rising. -/
theorem smPut_pairwise (d : β) (m : List (Nat × β)) (a : Nat) (x : β) (h : m.Pairwise fun p q => p.1 < q.1) :
    (smPut d m a x).Pairwise fun p q => p.1 < q.1 := by
  induction m with
  | nil => by_cases hx : x = d <;> simp [smPut, hx]
  | cons p r ih =>
    obtain ⟨k, v⟩ := p
    obtain ⟨hk, hr⟩ := List.pairwise_cons.mp h
    by_cases h1 : a < k
    · by_cases hx : x = d
      · simpa [smPut, h1, hx] using h
      · simp only [smPut, h1, hx, if_true, if_false]
        refine List.pairwise_cons.mpr ⟨fun q hq => ?_, h⟩
        rcases List.mem_cons.mp hq with hq | hq
        · simpa [hq] using h1
        · exact Nat.lt_trans h1 (hk q hq)
    · by_cases h2 : a = k
      · by_cases hx : x = d
        · simpa [smPut, h2, hx] using hr
        · simp only [smPut, h2, hx, if_true, if_false, Nat.lt_irrefl]
          exact List.pairwise_cons.mpr ⟨fun q hq => by simpa using hk q hq, hr⟩
      · simp only [smPut, h1, h2, if_false]
        refine List.pairwise_cons.mpr ⟨fun q hq => ?_, ih hr⟩
        rcases smPut_keys d r a x q hq with hq | hq
        · exact hk q hq
        · simp only [hq.1]
          omega

/-- A write keeps the canonical form. -/
theorem smPut_wf (dflt : Nat → β) (m : List (Nat × β)) (a : Nat) (x : β) (h : SmWf dflt m) :
    SmWf dflt (smPut (dflt a) m a x) := by
  refine ⟨smPut_pairwise _ _ _ _ h.1, fun p hp => ?_⟩
  rcases smPut_keys _ _ _ _ p hp with hp | ⟨rfl, hx⟩
  · exact h.2 p hp
  · exact hx

/-- Writes of consecutive keys keep the canonical form. -/
theorem smPutAll_wf (dflt : Nat → β) (l : List β) (m : List (Nat × β)) (a stride : Nat) (h : SmWf dflt m) :
    SmWf dflt (smPutAll dflt m a stride l) := by
  induction l generalizing m a with
  | nil => exact h
  | cons x r ih => exact ih _ _ (smPut_wf dflt m a x h)

/-- Writes of consecutive keys leave the keys before them alone. -/
theorem smGet_putAll_below (dflt : Nat → β) (e : β) (l : List β) (m : List (Nat × β)) (a stride b : Nat) (hs : 0 < stride)
    (hb : b < a) (h : m.Pairwise fun p q => p.1 < q.1) :
    smGet e (smPutAll dflt m a stride l) b = smGet e m b := by
  induction l generalizing m a with
  | nil => rfl
  | cons x r ih =>
    rw [smPutAll, ih _ _ (by omega) (smPut_pairwise _ _ _ _ h), smGet_put_other _ _ _ _ _ _ (by omega) h]

/-- A byte written reads as it was written, and every other byte as before. -/
theorem smGet_putAll (dflt : Nat → β) (l : List β) (m : List (Nat × β)) (a b : Nat) (h : m.Pairwise fun p q => p.1 < q.1) :
    smGet (dflt b) (smPutAll dflt m a 1 l) b =
      if a ≤ b ∧ b < a + l.length then l.getD (b - a) (dflt b) else smGet (dflt b) m b := by
  induction l generalizing m a with
  | nil =>
    rw [smPutAll, if_neg (by simp)]
  | cons x r ih =>
    by_cases hb : b = a
    · subst hb
      rw [smPutAll, smGet_putAll_below dflt _ _ _ _ _ _ Nat.one_pos (by omega) (smPut_pairwise _ _ _ _ h),
        smGet_put_same _ _ _ _ h]
      simp
    · rw [smPutAll, ih _ _ (smPut_pairwise _ _ _ _ h), smGet_put_other _ _ _ _ _ _ hb h]
      by_cases hin : a ≤ b ∧ b < a + (x :: r).length
      · have h1 : a + 1 ≤ b ∧ b < a + 1 + r.length := by simp only [List.length_cons] at hin; omega
        rw [if_pos hin, if_pos h1, show b - a = b - (a + 1) + 1 by omega, List.getD_cons_succ]
      · have h1 : ¬(a + 1 ≤ b ∧ b < a + 1 + r.length) := by simp only [List.length_cons] at hin; omega
        rw [if_neg hin, if_neg h1]

/-- Consecutive writes leave every key that is none of theirs. -/
theorem smGet_putAll_out (dflt : Nat → β) (e : β) (l : List β) (m : List (Nat × β)) (a stride b : Nat)
    (hb : ∀ i < l.length, b ≠ a + stride * i) (h : m.Pairwise fun p q => p.1 < q.1) :
    smGet e (smPutAll dflt m a stride l) b = smGet e m b := by
  induction l generalizing m a with
  | nil => rfl
  | cons x r ih =>
    rw [smPutAll, ih _ _ (fun i hi => ?_) (smPut_pairwise _ _ _ _ h), smGet_put_other _ _ _ _ _ _ (by simpa using hb 0 (by simp)) h]
    have := hb (i + 1) (by simpa using hi)
    rwa [Nat.mul_add, Nat.mul_one, Nat.add_comm (stride * i), ← Nat.add_assoc] at this

/-- Writes in any order keep the canonical form. -/
theorem foldl_put_wf {γ : Type} (dflt : Nat → β) (key : γ → Nat) (val : γ → β) (l : List γ) (m : List (Nat × β))
    (h : SmWf dflt m) : SmWf dflt (l.foldl (fun m y => smPut (dflt (key y)) m (key y) (val y)) m) := by
  induction l generalizing m with
  | nil => exact h
  | cons y r ih => exact ih _ (smPut_wf dflt m (key y) (val y) h)

omit [DecidableEq β] in
/-- Two maps in canonical form that read alike are equal. -/
theorem SmWf.ext (dflt : Nat → β) (m n : List (Nat × β)) (hm : SmWf dflt m) (hn : SmWf dflt n)
    (h : ∀ a, smGet (dflt a) m a = smGet (dflt a) n a) : m = n := by
  induction m generalizing n with
  | nil =>
    cases n with
    | nil => rfl
    | cons q r =>
      have := h q.1
      simp only [smGet, Nat.lt_irrefl, if_true, if_false] at this
      exact absurd this.symm (hn.2 q (List.mem_cons_self ..))
  | cons p r ih =>
    cases n with
    | nil =>
      have := h p.1
      simp only [smGet, Nat.lt_irrefl, if_true, if_false] at this
      exact absurd this (hm.2 p (List.mem_cons_self ..))
    | cons q t =>
      obtain ⟨hp, hr⟩ := List.pairwise_cons.mp hm.1
      obtain ⟨hq, ht⟩ := List.pairwise_cons.mp hn.1
      have hk : p.1 = q.1 := by
        rcases Nat.lt_trichotomy p.1 q.1 with hlt | heq | hlt
        · have := h p.1
          simp only [smGet, Nat.lt_irrefl, if_true, if_false, hlt] at this
          exact absurd this (hm.2 p (List.mem_cons_self ..))
        · exact heq
        · have := h q.1
          simp only [smGet, Nat.lt_irrefl, if_true, if_false, hlt] at this
          exact absurd this.symm (hn.2 q (List.mem_cons_self ..))
      have hv : p.2 = q.2 := by
        have := h p.1
        simpa [smGet, hk] using this
      have hpq : p = q := Prod.ext hk hv
      subst hpq
      congr 1
      refine ih t ⟨hr, fun x hx => hm.2 x (List.mem_cons_of_mem _ hx)⟩
        ⟨ht, fun x hx => hn.2 x (List.mem_cons_of_mem _ hx)⟩ fun a => ?_
      by_cases hlt : p.1 < a
      · have := h a
        simpa [smGet, Nat.lt_asymm hlt, Nat.ne_of_gt hlt] using this
      · rw [smGet_below _ r a fun x hx => Nat.lt_of_le_of_lt (Nat.not_lt.mp hlt) (hp x hx),
          smGet_below _ t a fun x hx => Nat.lt_of_le_of_lt (Nat.not_lt.mp hlt) (hq x hx)]

end Sys2Proof.Machine
end

