-- ==== Sys2Proof/Laws/Kept.lean ====
section
/-! SUPPORT. What every operation of the machine keeps: the queue, the fuses, burnt signer slots, what was sent, the canonical
form of memory, registers and local stores, and the invariant of the Keystone's arbiters. Here the relation and its closure; the
operations follow, one lemma each, in KeptOne to KeptEight. -/

namespace Sys2Proof.Machine
open Sys2Proof

/-- What every operation of the machine keeps, from a to a state with these fields. -/
structure KeptF (K : Keystone → Keystone → Prop) (a : State) (pending : List Instr) (fuses : Fuses) (otp : Otp) (free : Nat)
    (out : List Out) (hbm : List Host.Cell) (regs : List (Nat × Word)) (store : List (Nat × Byte)) (ks : Keystone) : Prop where
  pending : pending = a.pending
  fuses : fuses = a.fuses
  otp : OtpLe a.otp otp
  free : a.free ≤ free
  out : ∃ l, out = a.out ++ l
  hbm : Memory.wf a.hbm → Memory.wf hbm
  regs : SmWf regReset a.regs → SmWf regReset regs
  store : SmWf (fun _ => (0 : Byte)) a.pr.store → SmWf (fun _ => (0 : Byte)) store
  ks : K a.ks ks

def Kept (K : Keystone → Keystone → Prop) (a s : State) : Prop :=
  KeptF K a s.pending s.fuses s.otp s.free s.out s.hbm s.regs s.pr.store s.ks

def KeptOut (K : Keystone → Keystone → Prop) (a : State) : Host.Outcome State Fault Refusal → Prop
  | .next t => Kept K a t
  | _ => True

def KeptOpt (K : Keystone → Keystone → Prop) (a : State) : Option State → Prop
  | some t => Kept K a t
  | none => True

variable {K : Keystone → Keystone → Prop} {a s t : State}

theorem Kept.of (h : Kept K a s) : KeptF K a s.pending s.fuses s.otp s.free s.out s.hbm s.regs s.pr.store s.ks := h
theorem KeptOut.next (h : Kept K a s) : KeptOut K a (.next s) := h
theorem KeptOpt.some (h : Kept K a s) : KeptOpt K a (some s) := h
theorem KeptOpt.none : KeptOpt K a none := trivial
theorem Kept.snd {α : Type} {p : α × State} {x : α} (e : p = (x, s)) (h : Kept K a p.2) : Kept K a s := by subst e; exact h
theorem Kept.fst {α : Type} {p : State × α} {x : α} (e : p = (s, x)) (h : Kept K a p.1) : Kept K a s := by subst e; exact h
theorem Kept.snd2 {α β : Type} {p : α × β × State} {x : α} {y : β} (e : p = (x, y, s)) (h : Kept K a p.2.2) : Kept K a s := by
  subst e; exact h
theorem Kept.snd1 {α β : Type} {p : α × State × β} {x : α} {y : β} (e : p = (x, s, y)) (h : Kept K a p.2.1) : Kept K a s := by
  subst e; exact h
theorem Kept.opt {o : Option State} (e : o = Option.some s) (h : KeptOpt K a o) : Kept K a s := by subst e; exact h

theorem Kept.foldl {α : Type} {f : State → α → State} (l : List α) (hf : ∀ s x, Kept K a s → Kept K a (f s x)) (h : Kept K a s) :
    Kept K a (l.foldl f s) := by
  induction l generalizing s with
  | nil => exact h
  | cons x r ih => exact ih (hf s x h)

theorem Kept.foldl2 {α β : Type} {f : β × State → α → β × State} (l : List α) {p : β × State}
    (hf : ∀ p x, Kept K a p.2 → Kept K a (f p x).2) (h : Kept K a p.2) : Kept K a (l.foldl f p).2 := by
  induction l generalizing p with
  | nil => exact h
  | cons x r ih => exact ih (hf p x h)

theorem Kept.foldl1 {α β : Type} {f : State × β → α → State × β} (l : List α) {p : State × β}
    (hf : ∀ p x, Kept K a p.1 → Kept K a (f p x).1) (h : Kept K a p.1) : Kept K a (l.foldl f p).1 := by
  induction l generalizing p with
  | nil => exact h
  | cons x r ih => exact ih (hf p x h)

theorem Kept.foldlW {α : Type} {f : Work → α → Work} (l : List α) {p : Work}
    (hf : ∀ p x, Kept K a p.s → Kept K a (f p x).s) (h : Kept K a p.s) : Kept K a (l.foldl f p).s := by
  induction l generalizing p with
  | nil => exact h
  | cons x r ih => exact ih (hf p x h)

theorem Kept.foldl22 {α β γ : Type} {f : β × γ × State → α → β × γ × State} (l : List α) {p : β × γ × State}
    (hf : ∀ p x, Kept K a p.2.2 → Kept K a (f p x).2.2) (h : Kept K a p.2.2) : Kept K a (l.foldl f p).2.2 := by
  induction l generalizing p with
  | nil => exact h
  | cons x r ih => exact ih (hf p x h)

theorem Kept.elim {α : Type} (o : Option α) {f : α → State} (h : Kept K a s) (hf : ∀ x, Kept K a (f x)) : Kept K a (o.elim s f) := by
  cases o with
  | none => exact h
  | some x => exact hf x
theorem Kept.withPr {x : Piers} (h : Kept K a s) (hx : SmWf (fun _ => (0 : Byte)) a.pr.store → SmWf (fun _ => (0 : Byte)) x.store) :
    Kept K a { s with pr := x } := ⟨h.pending, h.fuses, h.otp, h.free, h.out, h.hbm, h.regs, hx, h.ks⟩
theorem Kept.withStep {n : Nat} (h : Kept K a s) : Kept K a { s with step := n } :=
  ⟨h.pending, h.fuses, h.otp, h.free, h.out, h.hbm, h.regs, h.store, h.ks⟩

theorem wr_kept (k : Nat) (w : Word) (h : Kept K a s) : Kept K a (wr k w s) :=
  ⟨h.pending, h.fuses, h.otp, h.free, h.out, h.hbm, fun g => smPut_wf regReset s.regs k w (h.regs g), h.store, h.ks⟩
theorem putCfg_kept (k : Nat) (bs : List Byte) (h : Kept K a s) : Kept K a (putCfg k bs s) :=
  ⟨h.pending, h.fuses, h.otp, h.free, h.out, h.hbm, fun g => smPutAll_wf regReset _ s.regs k 4 (h.regs g), h.store, h.ks⟩
theorem hbmWr_kept (k : Nat) (bs : List Byte) (h : Kept K a s) : Kept K a (hbmWr k bs s) :=
  ⟨h.pending, h.fuses, h.otp, h.free, h.out, fun g => smPutAll_wf hbmUnlisted (landed s k bs) s.hbm k 1 (h.hbm g), h.regs, h.store, h.ks⟩
theorem tookFree_kept (h : Kept K a s) : Kept K a (tookFree s) :=
  ⟨h.pending, h.fuses, h.otp, Nat.le_succ_of_le h.free, h.out, h.hbm, h.regs, h.store, h.ks⟩
theorem emit_kept (o : Out) (h : Kept K a s) : Kept K a (emit o s) :=
  ⟨h.pending, h.fuses, h.otp, h.free, h.out.elim fun l e => ⟨l ++ [o], by simp [emit, e]⟩, h.hbm, h.regs, h.store, h.ks⟩
theorem memOf_wf (l : List Host.Cell) : Memory.wf (memOf l) := by
  unfold memOf
  exact foldl_put_wf hbmUnlisted Prod.fst Prod.snd l [] ⟨List.Pairwise.nil, by simp⟩

theorem locWr_kept (p k : Nat) (bs : List Byte) (h : Kept K a s) : Kept K a (locWr p k bs s) :=
  ⟨h.pending, h.fuses, h.otp, h.free, h.out, h.hbm, h.regs, fun g => smPutAll_wf (fun _ => 0) bs s.pr.store _ 1 (h.store g), h.ks⟩
theorem copyCells_wf (src dst : List (Nat × Byte)) (a b n : Nat) (h : SmWf (fun _ => (0 : Byte)) dst) :
    SmWf (fun _ => (0 : Byte)) (copyCells src dst a b n) := by
  unfold copyCells
  exact foldl_put_wf (fun _ => (0 : Byte)) (fun y : Nat × Byte => y.1 - a + b) Prod.snd _ _ (SmWf.filter _ _ _ h)

theorem Kept.ksMap {K' : Keystone → Keystone → Prop} (h : Kept K a s) (k : Keystone) (hk : K a.ks s.ks → K' a.ks k) :
    Kept K' a { s with ks := k } :=
  ⟨h.pending, h.fuses, h.otp, h.free, h.out, h.hbm, h.regs, h.store, hk h.ks⟩

/-- An access of a port waits at the arbiters in a hold-off, behind one of the same port that does. -/
structure KsWaits (K : Keystone → Keystone → Prop) : Prop where
  wait : ∀ (a k : Keystone) (q : List (GPort × Access)), K a k → (KsInv k → k.holdOff = true) → K a { k with waiting := q }

/-- What the accesses of the two ports do at the arbiters: they wait, or make a grant, a release, a new lease, and a turn. -/
structure KsMoves (K : Keystone → Keystone → Prop) : Prop extends KsWaits K where
  grant : ∀ (a k : Keystone) (p : GPort) (l : Nat), K a k → k.holder = none → k.holdOff = false →
    K a { k with holder := some p, holderBit := p, ticket := nextTicket k.ticket, lease := l }
  free : ∀ (a k : Keystone) (n : Nat), K a k → K a { k with holder := none, holderBit := n, holdOff := true }
  lease : ∀ (a k : Keystone) (n : Nat), K a k → K a { k with lease := n }
  turn0 : ∀ (a k : Keystone) (b : Bool), K a k → K a { k with turn0 := b }
  turn1 : ∀ (a k : Keystone) (b : Bool), K a k → K a { k with turn1 := b }

/-- Each of them keeps the arbiters' invariant. -/
theorem ksKeep_moves : KsMoves KsKeep where
  grant a k p l g h1 h2 hi := by
    have i := g hi
    refine ⟨fun q hq => ?_, fun ho => ?_, i.wait, ?_, fun _ => ?_⟩
    · rcases i.dies q hq with h3 | h3
      · rw [h1] at h3; cases h3
      · rw [h2] at h3; cases h3.2
    · simp only [h2] at ho; cases ho
    · have := i.ticket.1
      show nextTicket k.ticket ≤ 0xFFFF
      unfold nextTicket
      split <;> omega
    · show nextTicket k.ticket ≠ 0
      unfold nextTicket
      split <;> omega
  free a k n g hi :=
    have i := g hi
    ⟨fun q hq => .inr ⟨rfl, rfl⟩, fun _ => rfl, fun _ => rfl, i.ticket.1, fun hn => absurd rfl hn⟩
  wait a k q g hw hi :=
    have i := g hi
    ⟨i.dies, i.off, fun _ => hw i, i.ticket⟩
  lease a k n g hi := ⟨(g hi).dies, (g hi).off, (g hi).wait, (g hi).ticket⟩
  turn0 a k b g hi := ⟨(g hi).dies, (g hi).off, (g hi).wait, (g hi).ticket⟩
  turn1 a k b g hi := ⟨(g hi).dies, (g hi).off, (g hi).wait, (g hi).ticket⟩

theorem OtpLe.refl (o : Otp) : OtpLe o o := fun _ => ⟨fun h => ⟨h, rfl⟩, id⟩
theorem OtpLe.trans {o p q : Otp} (h : OtpLe o p) (g : OtpLe p q) : OtpLe o q := fun k =>
  ⟨fun e => ⟨((g k).enrolled ((h k).enrolled e).1).1, (((g k).enrolled ((h k).enrolled e).1).2).trans ((h k).enrolled e).2⟩,
    fun e => (g k).revoked ((h k).revoked e)⟩

theorem Kept.refl (hk : K a.ks a.ks) : Kept K a a :=
  ⟨rfl, rfl, OtpLe.refl _, Nat.le_refl _, ⟨[], (List.append_nil _).symm⟩, id, id, id, hk⟩

/-- A good record fuses or revokes its slot, and leaves what is fused. -/
theorem erFuse_le (f : Fuses) (o : Otp) (b : List Byte) (h : erCode f o b = 0) : OtpLe o (erFuse b o) := by
  have hs : ∀ k, slotAt (erFuse b o) k = slotAt o k ∨ k = erSlot b ∧ slotAt (erFuse b o) k =
      if erOp b = 1 then { slotAt o (erSlot b) with digest := erDigest b, enrolled := true }
      else { slotAt o (erSlot b) with revoked := true } := by
    intro k
    by_cases hk : k = erSlot b
    · subst hk
      by_cases hl : erSlot b < o.slots.length
      · right
        simp [erFuse, slotAt, List.getD, hl]
      · left
        simp [erFuse, slotAt, List.getD, hl]
    · left
      simp [erFuse, slotAt, List.getD, Ne.symm hk]
  intro k
  rcases hs k with e | ⟨rfl, e⟩
  · rw [e]
    exact ⟨fun h => ⟨h, rfl⟩, id⟩
  · rw [e]
    unfold erCode at h
    dsimp only at h
    split at h
    · cases h
    split at h
    · cases h
    split at h
    · cases h
    split at h
    · next h1 =>
      rw [if_pos h1]
      split at h
      · cases h
      · next hn =>
        simp only [Bool.or_eq_true, not_or, Bool.not_eq_true] at hn
        exact ⟨fun g => absurd g (by simp [hn.1]), id⟩
    · next h1 =>
      rw [if_neg h1]
      exact ⟨fun g => ⟨g, rfl⟩, fun _ => rfl⟩

end Sys2Proof.Machine
end

