-- ==== Sys2Proof/Laws/KeptOne.lean ====
section
/-! SUPPORT. What operations keep, continued: one lemma for each operation, in the order of the model's files. -/

namespace Sys2Proof.Machine
open Sys2Proof

theorem wn_kept {K : Keystone → Keystone → Prop} {a s : State} (a_ : Nat) (v : Nat) (h : Kept K a s) :
    Kept K a (wn a_ v s) := by
  unfold wn
  try dsimp only
  repeat' (first
    | with_reducible assumption
    | with_reducible apply wr_kept)

theorem wf_kept {K : Keystone → Keystone → Prop} {a s : State} (a_ : Nat) (hi : Nat) (lo : Nat) (v : Nat) (h : Kept K a s) :
    Kept K a (wf a_ hi lo v s) := by
  unfold wf
  try dsimp only
  repeat' (first
    | with_reducible assumption
    | with_reducible apply wr_kept)

theorem wn64_kept {K : Keystone → Keystone → Prop} {a s : State} (a_ : Nat) (v : Nat) (h : Kept K a s) :
    Kept K a (wn64 a_ v s) := by
  unfold wn64
  try dsimp only
  repeat' (first
    | with_reducible assumption
    | with_reducible apply wn_kept)

theorem putLow_kept {K : Keystone → Keystone → Prop} {a s : State} (a_ : Nat) (w : Word) (h : Kept K a s) :
    Kept K a (putLow a_ w s) := by
  unfold putLow
  try dsimp only
  repeat' (first
    | with_reducible assumption
    | (show KeptF _ a _ _ _ _ _ _ _ _ _; dsimp only; with_reducible apply Kept.of))

theorem bump_kept {K : Keystone → Keystone → Prop} {a s : State} (a_ : Nat) (n : Nat) (h : Kept K a s) :
    Kept K a (bump a_ n s) := by
  unfold bump
  try dsimp only
  repeat' (first
    | with_reducible assumption
    | with_reducible apply wn_kept)

theorem gulSend_kept {K : Keystone → Keystone → Prop} {a s : State} (p : GPort) (t : Txn) (h : Kept K a s) :
    Kept K a (gulSend p t s) := by
  unfold gulSend
  try dsimp only
  repeat' (first
    | with_reducible assumption
    | with_reducible apply emit_kept)

theorem sendEvent_kept {K : Keystone → Keystone → Prop} {a s : State} (seq : Nat) (ev : List Byte) (p : GPort) (h : Kept K a s) :
    Kept K a (sendEvent seq ev p s) := by
  unfold sendEvent
  try dsimp only
  repeat' (first
    | with_reducible assumption
    | with_reducible apply gulSend_kept
    | split)

theorem raiseEvent_kept {K : Keystone → Keystone → Prop} {a s : State} (e : EventId) (h : Kept K a s) :
    Kept K a (raiseEvent e s) := by
  unfold raiseEvent
  try dsimp only
  repeat' (first
    | with_reducible assumption
    | with_reducible apply sendEvent_kept
    | with_reducible apply wn_kept
    | with_reducible apply putCfg_kept)

theorem traced_kept {K : Keystone → Keystone → Prop} {a s : State} (t : TraceId) (h : Kept K a s) :
    Kept K a (traced t s) := by
  unfold traced
  try dsimp only
  repeat' (first
    | with_reducible assumption
    | (show KeptF _ a _ _ _ _ _ _ _ _ _; dsimp only; with_reducible apply Kept.of))

theorem traceDrop_kept {K : Keystone → Keystone → Prop} {a s : State} (i : Nat) (h : Kept K a s) :
    Kept K a (traceDrop i s) := by
  unfold traceDrop
  try dsimp only
  repeat' (first
    | with_reducible assumption
    | with_reducible apply bump_kept)

theorem traceDropAll_kept {K : Keystone → Keystone → Prop} {a s : State} (h : Kept K a s) :
    Kept K a (traceDropAll s) := by
  unfold traceDropAll
  try dsimp only
  repeat' (first
    | with_reducible assumption
    | with_reducible apply traceDrop_kept
    | intro _
    | with_reducible apply Kept.foldl
    | (show KeptF _ a _ _ _ _ _ _ _ _ _; dsimp only; with_reducible apply Kept.of))

theorem stopCtx_kept {K : Keystone → Keystone → Prop} {a s : State} (x : Nat) (code : Nat) (h : Kept K a s) :
    Kept K a (stopCtx x code s) := by
  unfold stopCtx
  try dsimp only
  repeat' (first
    | with_reducible assumption
    | with_reducible apply raiseEvent_kept
    | with_reducible apply wn_kept
    | split)

theorem faultEffect_kept {K : Keystone → Keystone → Prop} {a s : State} (f : FaultId) (h : Kept K a s) :
    Kept K a (faultEffect f s) := by
  unfold faultEffect
  try dsimp only
  repeat' (first
    | with_reducible assumption
    | with_reducible apply stopCtx_kept
    | with_reducible apply wn_kept
    | split)

theorem raiseFault_kept {K : Keystone → Keystone → Prop} {a s : State} (f : FaultId) (h : Kept K a s) :
    Kept K a (raiseFault f s) := by
  unfold raiseFault
  try dsimp only
  repeat' (first
    | with_reducible assumption
    | with_reducible apply bump_kept
    | with_reducible apply putCfg_kept
    | with_reducible apply wn_kept
    | with_reducible apply traced_kept
    | with_reducible apply faultEffect_kept
    | with_reducible apply raiseEvent_kept
    | split
    | (show KeptF _ a _ _ _ _ _ _ _ _ _; dsimp only; with_reducible apply Kept.of))

theorem systemUe_kept {K : Keystone → Keystone → Prop} {a s : State} (a_ : Nat) (port : optParam Nat 255) (h : Kept K a s) :
    Kept K a (systemUe a_ s port) := by
  unfold systemUe
  try dsimp only
  repeat' (first
    | with_reducible assumption
    | with_reducible apply raiseFault_kept)

theorem countUe_kept {K : Keystone → Keystone → Prop} {a s : State} (k : Nat) (a_ : Nat) (port : optParam Nat 255) (h : Kept K a s) :
    Kept K a (countUe k a_ s port) := by
  unfold countUe
  try dsimp only
  repeat' (first
    | with_reducible assumption
    | with_reducible apply wn_kept
    | with_reducible apply bump_kept
    | with_reducible apply systemUe_kept
    | split)

theorem deviceUe_kept {K : Keystone → Keystone → Prop} {a s : State} (a_ : Nat) (n : Nat) (h : Kept K a s) :
    Kept K a (deviceUe a_ n s) := by
  unfold deviceUe
  try dsimp only
  repeat' (first
    | with_reducible assumption
    | with_reducible apply countUe_kept
    | with_reducible apply tookFree_kept
    | split)

theorem rekey_kept {K : Keystone → Keystone → Prop} {a s : State} (s_ : State) (h : Kept K a s) :
    Kept K a (rekey s_ s) :=
  ⟨h.pending, h.fuses, h.otp, h.free, h.out, fun _ => memOf_wf _, h.regs, h.store, h.ks⟩

theorem windowDenied_kept {K : Keystone → Keystone → Prop} {a s : State} (x : Nat) (a_ : Nat) (unit : Nat) (tag : Nat) (sub : Nat) (engine : Nat) (h : Kept K a s) :
    Kept K a (windowDenied x a_ unit tag sub engine s) := by
  unfold windowDenied
  try dsimp only
  repeat' (first
    | with_reducible assumption
    | with_reducible apply raiseFault_kept)

theorem putSect_kept {K : Keystone → Keystone → Prop} {a s : State} (t : Nat) (v : Nat) (b : List Byte) (h : Kept K a s) :
    Kept K a (putSect t v b s) := by
  unfold putSect
  try dsimp only
  repeat' (first
    | with_reducible assumption
    | (show KeptF _ a _ _ _ _ _ _ _ _ _; dsimp only; with_reducible apply Kept.of))

theorem tstCharge_kept {K : Keystone → Keystone → Prop} {a s : State} (a_ : Nat) (i : Nat) (cycles : Nat) (h : Kept K a s) :
    Kept K a (tstCharge a_ i cycles s) := by
  unfold tstCharge
  try dsimp only
  repeat' (first
    | with_reducible assumption
    | with_reducible apply bump_kept
    | split
    | (show KeptF _ a _ _ _ _ _ _ _ _ _; dsimp only; with_reducible apply Kept.of))

theorem imgRejectEvent_kept {K : Keystone → Keystone → Prop} {a s : State} (port : Nat) (code : Nat) (section_ : Nat) (detail : Nat) (h : Kept K a s) :
    Kept K a (imgRejectEvent port code section_ detail s) := by
  unfold imgRejectEvent
  try dsimp only
  repeat' (first
    | with_reducible assumption
    | with_reducible apply raiseEvent_kept)

theorem imgReject_kept {K : Keystone → Keystone → Prop} {a s : State} (code : Nat) (section_ : Nat) (detail : Nat) (h : Kept K a s) :
    Kept K a (imgReject code section_ detail s) := by
  unfold imgReject
  try dsimp only
  repeat' (first
    | with_reducible assumption
    | with_reducible apply wf_kept
    | with_reducible apply imgRejectEvent_kept
    | with_reducible apply wn_kept)

theorem imgLostLease_kept {K : Keystone → Keystone → Prop} {a s : State} (h : Kept K a s) :
    Kept K a (imgLostLease s) := by
  unfold imgLostLease
  try dsimp only
  repeat' (first
    | with_reducible assumption
    | with_reducible apply imgReject_kept
    | split)

theorem sendLane_kept {K : Keystone → Keystone → Prop} {a s : State} (k : Nat) (b : List Byte) (h : Kept K a s) :
    Kept K a (sendLane k b s) := by
  unfold sendLane
  try dsimp only
  repeat' (first
    | with_reducible assumption
    | with_reducible apply emit_kept)

theorem onFab_kept {K : Keystone → Keystone → Prop} {a s : State} (f : Fab → Fab) (h : Kept K a s) :
    Kept K a (onFab f s) := by
  unfold onFab
  try dsimp only
  repeat' (first
    | with_reducible assumption
    | (show KeptF _ a _ _ _ _ _ _ _ _ _; dsimp only; with_reducible apply Kept.of))

theorem setLive_kept {K : Keystone → Keystone → Prop} {a s : State} (ws : List (Nat × Word)) (h : Kept K a s) :
    Kept K a (setLive ws s) := by
  unfold setLive
  exact ⟨h.pending, h.fuses, h.otp, h.free, h.out, h.hbm,
    fun g => foldl_put_wf regReset (fun p : Nat × Word => p.1 + 0x1400) Prod.snd _ _ (SmWf.filter _ _ _ (h.regs g)), h.store, h.ks⟩

theorem liveToShadow_kept {K : Keystone → Keystone → Prop} {a s : State} (h : Kept K a s) :
    Kept K a (liveToShadow s) := by
  unfold liveToShadow
  exact ⟨h.pending, h.fuses, h.otp, h.free, h.out, h.hbm,
    fun g => foldl_put_wf regReset (fun p : Nat × Word => p.1) Prod.snd _ _ (SmWf.filter _ _ _ (h.regs g)), h.store, h.ks⟩

theorem writeJournal_kept {K : Keystone → Keystone → Prop} {a s : State} (seq : Nat) (prev : List Byte) (port : Nat) (kind : Nat) (ticket : Nat) (mask : Nat) (digest : List Byte) (h : Kept K a s) :
    Kept K a (writeJournal seq prev port kind ticket mask digest s) := by
  unfold writeJournal
  try dsimp only
  repeat' (first
    | with_reducible assumption
    | with_reducible apply putCfg_kept
    | with_reducible apply wn_kept
    | (show KeptF _ a _ _ _ _ _ _ _ _ _; dsimp only; with_reducible apply Kept.of))

theorem addJournal_kept {K : Keystone → Keystone → Prop} {a s : State} (port : Nat) (kind : Nat) (ticket : Nat) (mask : Nat) (digest : List Byte) (h : Kept K a s) :
    Kept K a (addJournal port kind ticket mask digest s) := by
  unfold addJournal
  try dsimp only
  repeat' (first
    | with_reducible assumption
    | with_reducible apply writeJournal_kept)

theorem startJournal_kept {K : Keystone → Keystone → Prop} {a s : State} (h : Kept K a s) :
    Kept K a (startJournal s) := by
  unfold startJournal
  try dsimp only
  repeat' (first
    | with_reducible assumption
    | with_reducible apply writeJournal_kept)

theorem protReject_kept {K : Keystone → Keystone → Prop} {a s : State} (result : Nat) (ctx : Nat) (h : Kept K a s) :
    Kept K a (protReject result ctx s) := by
  unfold protReject
  try dsimp only
  repeat' (first
    | with_reducible assumption
    | with_reducible apply raiseEvent_kept
    | with_reducible apply wn_kept)

theorem dropStaged_kept {K : Keystone → Keystone → Prop} {a s : State} (h : Kept K a s) :
    Kept K a (dropStaged s) := by
  unfold dropStaged
  try dsimp only
  repeat' (first
    | with_reducible assumption
    | with_reducible apply liveToShadow_kept
    | with_reducible apply protReject_kept
    | split
    | (show KeptF _ a _ _ _ _ _ _ _ _ _; dsimp only; with_reducible apply Kept.of))

theorem klDenied_kept {K : Keystone → Keystone → Prop} {a s : State} (p : GPort) (a_ : Nat) (h : Kept K a s) :
    Kept K a (klDenied p a_ s) := by
  unfold klDenied
  try dsimp only
  repeat' (first
    | with_reducible assumption
    | with_reducible apply raiseEvent_kept)

theorem ksGrant_kept {K : Keystone → Keystone → Prop} {a s : State} (hK : KsMoves K) (p : GPort) (h : Kept K a s) (h1 : s.ks.holder = none) (h2 : s.ks.holdOff = false) :
    Kept K a (ksGrant p s) := by
  unfold ksGrant
  apply raiseEvent_kept
  have hk : (dropStaged s).ks = s.ks := (dropStaged_kept (K := fun _ k => k = s.ks) (a := s) (Kept.refl rfl)).ks
  have hd := dropStaged_kept h
  refine hd.ksMap _ fun g => ?_
  have m := hK.grant _ _ p (rf (dropStaged s) A.ksLease 13 0) g (by rw [hk]; exact h1) (by rw [hk]; exact h2)
  rw [hk] at m ⊢
  exact m

theorem ksFree_kept {K : Keystone → Keystone → Prop} {a s : State} (hK : KsMoves K) (h : Kept K a s) :
    Kept K a (ksFree s) := by
  unfold ksFree
  dsimp only
  apply tookFree_kept
  exact (imgLostLease_kept (dropStaged_kept h)).ksMap _ fun g => hK.free _ _ _ g

theorem acquired_kept {K : Keystone → Keystone → Prop} {a s : State} (hK : KsMoves K) (p : GPort) (h : Kept K a s) :
    Kept K a (acquired p s).1 := by
  unfold acquired
  dsimp only
  split
  · next hc =>
    simp only [Bool.and_eq_true, Option.isNone_iff_eq_none, Bool.not_eq_true', ] at hc
    exact ksGrant_kept hK p h hc.1.1 hc.1.2
  · exact h

theorem waitFor_kept {K : Keystone → Keystone → Prop} {a s : State} (hK : KsWaits K) (p : GPort) (x : Access) (h : Kept K a s)
    (hw : KsInv s.ks → s.ks.holdOff = true) :
    Kept K a (waitFor p x s) := by
  unfold waitFor
  exact h.ksMap _ fun g => hK.wait _ _ _ g hw

theorem acquire_kept {K : Keystone → Keystone → Prop} {a s : State} (hK : KsMoves K) (p : GPort) (h : Kept K a s) :
    Kept K a (acquire p s) := by
  unfold acquire
  split
  · next hc =>
    simp only [acquireWaits, Bool.and_eq_true] at hc
    exact waitFor_kept hK.toKsWaits p _ h fun _ => hc.2
  · exact emit_kept _ (acquired_kept hK p h)

theorem alternate0_kept {K : Keystone → Keystone → Prop} {a s : State} (hK : KsMoves K) (h : Kept K a s) :
    Kept K a (alternate0 s).2.2 := by
  unfold alternate0
  exact h.ksMap _ fun g => hK.turn0 _ _ _ g

theorem alternate1_kept {K : Keystone → Keystone → Prop} {a s : State} (hK : KsMoves K) (h : Kept K a s) :
    Kept K a (alternate1 s).2.2 := by
  unfold alternate1
  exact h.ksMap _ fun g => hK.turn1 _ _ _ g

theorem alternate_kept {K : Keystone → Keystone → Prop} {a s : State} (hK : KsMoves K) (a_ : Nat) (h : Kept K a s) :
    Kept K a (alternate a_ s).2.2 := by
  unfold alternate
  try dsimp only
  repeat' (first
    | with_reducible assumption
    | with_reducible apply alternate0_kept
    | with_reducible apply alternate1_kept
    | split)

theorem contend_kept {K : Keystone → Keystone → Prop} {a s : State} (hK : KsMoves K) (p : GPort) (a_ : Nat) (b : Nat) (f : State → State) (g : State → State) (hf : ∀ y0, Kept K a y0 → Kept K a (f y0)) (hg : ∀ y0, Kept K a y0 → Kept K a (g y0)) (h : Kept K a s) :
    Kept K a (contend p a_ b f g s) := by
  unfold contend
  try dsimp only
  repeat' (first
    | with_reducible assumption
    | with_reducible apply alternate_kept
    | with_reducible apply hf
    | with_reducible apply hg
    | split)

theorem portWaits_holdOff {s : State} {p : GPort} (h : portWaits s p = true) (i : KsInv s.ks) : s.ks.holdOff = true :=
  i.wait fun hn => by simp [portWaits, hn] at h

theorem byPort_kept {K : Keystone → Keystone → Prop} {a s : State} (hK : KsWaits K) (p : GPort) (x : Access) (f : State → State)
    (hf : ∀ y0, Kept K a y0 → Kept K a (f y0)) (h : Kept K a s) :
    Kept K a (byPort p x f s) := by
  unfold byPort
  split
  · exact hf _ h
  · next hr =>
    split
    · next ho => exact waitFor_kept hK p x h (portWaits_holdOff (by simpa [portReady, ho] using hr))
    · exact h

theorem execKsAcquire_kept {K : Keystone → Keystone → Prop} {a s : State} (hK : KsMoves K) (r : Ready) (h : Kept K a s) :
    KeptOut K a (execKsAcquire r s) := by
  unfold execKsAcquire
  try dsimp only
  repeat' (first
    | with_reducible assumption
    | with_reducible exact hK.toKsWaits
    | with_reducible apply byPort_kept
    | with_reducible apply acquire_kept
    | with_reducible apply contend_kept
    | intro _
    | with_reducible apply KeptOut.next
    | split)

theorem ksRelease_kept {K : Keystone → Keystone → Prop} {a s : State} (hK : KsMoves K) (left : Bool) (h : Kept K a s) :
    Kept K a (ksRelease left s) := by
  unfold ksRelease
  try dsimp only
  repeat' (first
    | with_reducible assumption
    | with_reducible apply ksFree_kept
    | with_reducible apply raiseEvent_kept
    | split)

theorem ksPortLeft_kept {K : Keystone → Keystone → Prop} {a s : State} (hK : KsMoves K) (p : Nat) (h : Kept K a s) :
    Kept K a (ksPortLeft p s) := by
  unfold ksPortLeft
  try dsimp only
  repeat' (first
    | with_reducible assumption
    | with_reducible apply ksRelease_kept
    | split)

theorem closePair_kept {K : Keystone → Keystone → Prop} {a s : State} (j : Nat) (h : Kept K a s) :
    Kept K a (closePair j s) := by
  unfold closePair
  try dsimp only
  repeat' (first
    | with_reducible assumption
    | with_reducible apply wf_kept
    | split
    | (show KeptF _ a _ _ _ _ _ _ _ _ _; dsimp only; with_reducible apply Kept.of))

theorem dropDrive_kept {K : Keystone → Keystone → Prop} {a s : State} (h : Kept K a s) :
    Kept K a (dropDrive s) := by
  unfold dropDrive
  try dsimp only
  repeat' (first
    | with_reducible assumption
    | with_reducible apply closePair_kept
    | with_reducible apply Kept.foldl
    | (show KeptF _ a _ _ _ _ _ _ _ _ _; dsimp only; with_reducible apply Kept.of))

theorem writeKsCtrl_kept {K : Keystone → Keystone → Prop} {a s : State} (hK : KsMoves K) (p : GPort) (w : Word) (h : Kept K a s) :
    Kept K a (writeKsCtrl p w s).1 := by
  unfold writeKsCtrl
  dsimp only
  split
  · exact klDenied_kept _ _ h
  split
  · exact raiseEvent_kept _ h
  split
  · exact (wn_kept _ _ h).ksMap _ fun g => hK.lease _ _ _ g
  split
  · exact ksRelease_kept hK _ (wn_kept _ _ h)
  split
  · apply dropDrive_kept
    show KeptF _ a _ _ _ _ _ _ _ _ _
    exact wn_kept _ _ h
  · exact h

theorem wrAccess_kept {K : Keystone → Keystone → Prop} {a s : State} (p : GPort) (a_ : Nat) (f : State → State × Nat) (hf : ∀ y0, Kept K a y0 → Kept K a (f y0).1) (h : Kept K a s) :
    Kept K a (wrAccess p a_ f s) := by
  unfold wrAccess
  try dsimp only
  repeat' (first
    | with_reducible assumption
    | with_reducible apply emit_kept
    | with_reducible apply hf)

theorem wrRow_kept {K : Keystone → Keystone → Prop} {a s : State} (hK : KsWaits K) (p : GPort) (a_ : Nat) (w : Word) (f : Word → State → State × Nat) (hf : ∀ y0 y1, Kept K a y1 → Kept K a (f y0 y1).1) (h : Kept K a s) :
    Kept K a (wrRow p a_ w f s) := by
  unfold wrRow
  try dsimp only
  repeat' (first
    | with_reducible assumption
    | with_reducible apply byPort_kept
    | with_reducible apply wrAccess_kept
    | with_reducible apply hf
    | intro _)

theorem execRenew_kept {K : Keystone → Keystone → Prop} {a s : State} (hK : KsMoves K) (p : GPort) (ticket : BitVec 16) (h : Kept K a s) :
    KeptOut K a (execRenew p ticket s) := by
  unfold execRenew
  try dsimp only
  repeat' (first
    | with_reducible assumption
    | with_reducible exact hK.toKsWaits
    | with_reducible apply wrRow_kept
    | with_reducible apply writeKsCtrl_kept
    | intro _
    | with_reducible apply KeptOut.next)

theorem execRelease_kept {K : Keystone → Keystone → Prop} {a s : State} (hK : KsMoves K) (p : GPort) (ticket : BitVec 16) (h : Kept K a s) :
    KeptOut K a (execRelease p ticket s) := by
  unfold execRelease
  try dsimp only
  repeat' (first
    | with_reducible assumption
    | with_reducible exact hK.toKsWaits
    | with_reducible apply wrRow_kept
    | with_reducible apply writeKsCtrl_kept
    | intro _
    | with_reducible apply KeptOut.next)

theorem execDeviceReset_kept {K : Keystone → Keystone → Prop} {a s : State} (hK : KsMoves K) (p : GPort) (ticket : BitVec 16) (h : Kept K a s) :
    KeptOut K a (execDeviceReset p ticket s) := by
  unfold execDeviceReset
  try dsimp only
  repeat' (first
    | with_reducible assumption
    | with_reducible exact hK.toKsWaits
    | with_reducible apply wrRow_kept
    | with_reducible apply writeKsCtrl_kept
    | intro _
    | with_reducible apply KeptOut.next)

theorem execLeaseExpire_kept {K : Keystone → Keystone → Prop} {a s : State} (hK : KsMoves K) (h : Kept K a s) :
    KeptOut K a (execLeaseExpire s) := by
  unfold execLeaseExpire
  try dsimp only
  repeat' (first
    | with_reducible assumption
    | with_reducible apply ksFree_kept
    | with_reducible apply raiseEvent_kept
    | with_reducible apply KeptOut.next
    | split)

theorem execDie1RecordUpdate_kept {a s : State} (h : Kept KsKeep a s) :
    KeptOut KsKeep a (execDie1RecordUpdate s) := by
  unfold execDie1RecordUpdate
  refine KeptOut.next (h.ksMap _ fun g hi => ?_)
  have i := g hi
  exact ⟨fun q hq => .inl hq, i.off, i.wait, i.ticket⟩

theorem writeShadow_kept {K : Keystone → Keystone → Prop} {a s : State} (p : GPort) (a_ : Nat) (w : Word) (h : Kept K a s) :
    Kept K a (writeShadow p a_ w s).1 := by
  unfold writeShadow
  try dsimp only
  repeat' (first
    | with_reducible assumption
    | with_reducible apply klDenied_kept
    | with_reducible apply raiseEvent_kept
    | with_reducible apply wr_kept
    | split)

theorem execShadowWrite_kept {K : Keystone → Keystone → Prop} {a s : State} (hK : KsWaits K) (p : GPort) (x : CtxNo) (off : Fin 1280) (w : Word) (h : Kept K a s) :
    KeptOut K a (execShadowWrite p x off w s) := by
  unfold execShadowWrite
  try dsimp only
  repeat' (first
    | with_reducible assumption
    | with_reducible apply wrRow_kept
    | with_reducible apply writeShadow_kept
    | intro _
    | with_reducible apply KeptOut.next)

theorem writeProtCtrl_kept {K : Keystone → Keystone → Prop} {a s : State} (p : GPort) (w : Word) (h : Kept K a s) :
    Kept K a (writeProtCtrl p w s).1 := by
  unfold writeProtCtrl
  try dsimp only
  repeat' (first
    | with_reducible assumption
    | with_reducible apply klDenied_kept
    | with_reducible apply wf_kept
    | with_reducible apply wn_kept
    | with_reducible apply dropStaged_kept
    | split
    | (show KeptF _ a _ _ _ _ _ _ _ _ _; dsimp only; with_reducible apply Kept.of))

theorem execCommit_kept {K : Keystone → Keystone → Prop} {a s : State} (hK : KsWaits K) (p : GPort) (h : Kept K a s) :
    KeptOut K a (execCommit p s) := by
  unfold execCommit
  try dsimp only
  repeat' (first
    | with_reducible assumption
    | with_reducible apply wrRow_kept
    | with_reducible apply writeProtCtrl_kept
    | intro _
    | with_reducible apply KeptOut.next)

theorem execDiscard_kept {K : Keystone → Keystone → Prop} {a s : State} (hK : KsWaits K) (p : GPort) (h : Kept K a s) :
    KeptOut K a (execDiscard p s) := by
  unfold execDiscard
  try dsimp only
  repeat' (first
    | with_reducible assumption
    | with_reducible apply wrRow_kept
    | with_reducible apply writeProtCtrl_kept
    | intro _
    | with_reducible apply KeptOut.next)

theorem protVerdict_kept {K : Keystone → Keystone → Prop} {a s : State} (f : Option (Nat × Nat)) (d : List Byte) (h : Kept K a s) :
    Kept K a (protVerdict f d s) := by
  unfold protVerdict
  try dsimp only
  repeat' (first
    | with_reducible assumption
    | with_reducible apply protReject_kept
    | with_reducible apply wf_kept
    | split
    | (show KeptF _ a _ _ _ _ _ _ _ _ _; dsimp only; with_reducible apply Kept.of))

theorem execProtCheckEnd_kept {K : Keystone → Keystone → Prop} {a s : State} (h : Kept K a s) :
    KeptOut K a (execProtCheckEnd s) := by
  unfold execProtCheckEnd
  try dsimp only
  repeat' (first
    | with_reducible assumption
    | with_reducible apply protVerdict_kept
    | with_reducible apply KeptOut.next
    | split)

theorem execProtEpoch_kept {K : Keystone → Keystone → Prop} {a s : State} (h : Kept K a s) :
    KeptOut K a (execProtEpoch s) := by
  unfold execProtEpoch
  try dsimp only
  repeat' (first
    | with_reducible assumption
    | with_reducible apply setLive_kept
    | with_reducible apply putCfg_kept
    | with_reducible apply wn_kept
    | with_reducible apply addJournal_kept
    | with_reducible apply raiseEvent_kept
    | with_reducible apply wf_kept
    | with_reducible apply liveToShadow_kept
    | with_reducible apply KeptOut.next
    | split
    | (show KeptF _ a _ _ _ _ _ _ _ _ _; dsimp only; with_reducible apply Kept.of))

theorem auditFailure_kept {K : Keystone → Keystone → Prop} {a s : State} (h : Kept K a s) :
    Kept K a (auditFailure s) := by
  unfold auditFailure
  try dsimp only
  repeat' (first
    | with_reducible assumption
    | with_reducible apply raiseFault_kept
    | with_reducible apply addJournal_kept
    | (show KeptF _ a _ _ _ _ _ _ _ _ _; dsimp only; with_reducible apply Kept.of))

theorem execAuditPass_kept {K : Keystone → Keystone → Prop} {a s : State} (seen : AuditSeen) (cycles : Nat) (h : Kept K a s) :
    KeptOut K a (execAuditPass seen cycles s) := by
  unfold execAuditPass
  try dsimp only
  repeat' (first
    | with_reducible assumption
    | with_reducible apply tstCharge_kept
    | with_reducible apply auditFailure_kept
    | with_reducible apply raiseFault_kept
    | with_reducible apply wr_kept
    | with_reducible apply KeptOut.next
    | split)

theorem onBpm_kept {K : Keystone → Keystone → Prop} {a s : State} (f : Bpm → Bpm) (h : Kept K a s) :
    Kept K a (onBpm f s) := by
  unfold onBpm
  try dsimp only
  repeat' (first
    | with_reducible assumption
    | with_reducible apply onFab_kept)

theorem ownerRead_kept {K : Keystone → Keystone → Prop} {a s : State} (h_ : Nat) (h : Kept K a s) :
    Kept K a (ownerRead h_ s) := by
  unfold ownerRead
  try dsimp only
  repeat' (first
    | with_reducible assumption
    | with_reducible apply deviceUe_kept)

theorem putOwner_kept {K : Keystone → Keystone → Prop} {a s : State} (h_ : Nat) (w : Nat) (h : Kept K a s) :
    Kept K a (putOwner h_ w s) := by
  unfold putOwner
  try dsimp only
  repeat' (first
    | with_reducible assumption
    | with_reducible apply hbmWr_kept)

theorem listPush_kept {K : Keystone → Keystone → Prop} {a s : State} (h_ : Nat) (h : Kept K a s) :
    Kept K a (listPush h_ s) := by
  unfold listPush
  try dsimp only
  repeat' (first
    | with_reducible assumption
    | with_reducible apply hbmWr_kept
    | with_reducible apply onBpm_kept)

theorem listPop_kept {K : Keystone → Keystone → Prop} {a s : State} (k : Nat) (h : Kept K a s) :
    Kept K a (listPop k s).2 := by
  unfold listPop
  try dsimp only
  repeat' (first
    | with_reducible assumption
    | with_reducible apply deviceUe_kept
    | with_reducible apply raiseFault_kept
    | with_reducible apply onBpm_kept
    | split)

theorem ringPut_kept {K : Keystone → Keystone → Prop} {a s : State} (k : Nat) (h_ : Nat) (h : Kept K a s) :
    Kept K a (ringPut k h_ s) := by
  unfold ringPut
  try dsimp only
  repeat' (first
    | with_reducible assumption
    | with_reducible apply onBpm_kept
    | with_reducible apply hbmWr_kept)

theorem ringTake_kept {K : Keystone → Keystone → Prop} {a s : State} (k : Nat) (h : Kept K a s) :
    Kept K a (ringTake k s).2 := by
  unfold ringTake
  try dsimp only
  repeat' (first
    | with_reducible assumption
    | with_reducible apply onBpm_kept
    | with_reducible apply deviceUe_kept
    | split)

theorem cacheFill_kept {K : Keystone → Keystone → Prop} {a s : State} (k : Nat) (n : Nat) (z2 : Nat) (h : Kept K a s) :
    Kept K a (cacheFill k n z2 s) := by
  revert h
  fun_induction cacheFill k n z2 s <;> intro h
  all_goals try dsimp only
  repeat' (first
    | with_reducible assumption
    | with_reducible refine (show Kept _ a _ → Kept _ a _ by with_reducible assumption) ?_
    | with_reducible apply ringTake_kept
    | with_reducible apply onBpm_kept
    | intro _
    | with_reducible apply Kept.foldl
    | with_reducible apply Kept.foldl2
    | with_reducible apply Kept.foldl1
    | with_reducible apply Kept.foldl22
    | with_reducible apply Kept.foldlW
    | with_reducible apply KeptOut.next
    | with_reducible apply KeptOpt.some
    | with_reducible exact KeptOpt.none
    | split
    | with_reducible refine Kept.snd (by with_reducible assumption) ?_
    | with_reducible refine Kept.fst (by with_reducible assumption) ?_
    | with_reducible refine Kept.snd2 (by with_reducible assumption) ?_
    | with_reducible refine Kept.snd1 (by with_reducible assumption) ?_
    | with_reducible refine Kept.opt (by with_reducible assumption) ?_
    | (show KeptF _ a _ _ _ _ _ _ _ _ _; dsimp only; with_reducible apply Kept.of)
    | dsimp only)

theorem cacheSpill_kept {K : Keystone → Keystone → Prop} {a s : State} (k : Nat) (n : Nat) (h : Kept K a s) :
    Kept K a (cacheSpill k n s) := by
  unfold cacheSpill
  try dsimp only
  repeat' (first
    | with_reducible assumption
    | with_reducible apply ringPut_kept
    | with_reducible apply onBpm_kept
    | intro _
    | with_reducible apply Kept.foldl)

theorem takeFree_kept {K : Keystone → Keystone → Prop} {a s : State} (k : Nat) (h : Kept K a s) :
    Kept K a (takeFree k s).2 := by
  unfold takeFree
  try dsimp only
  repeat' (first
    | with_reducible assumption
    | with_reducible apply listPop_kept
    | with_reducible apply cacheFill_kept
    | with_reducible apply onBpm_kept
    | with_reducible apply ringTake_kept
    | split)

theorem putFree_kept {K : Keystone → Keystone → Prop} {a s : State} (h_ : Nat) (h : Kept K a s) :
    Kept K a (putFree h_ s) := by
  unfold putFree
  try dsimp only
  repeat' (first
    | with_reducible assumption
    | with_reducible apply wn_kept
    | with_reducible apply listPush_kept
    | with_reducible apply cacheSpill_kept
    | with_reducible apply onBpm_kept
    | split)

theorem bpmServe_kept {K : Keystone → Keystone → Prop} {a s : State} (req : Nat) (k : Nat) (h : Kept K a s) :
    Kept K a (bpmServe req k s).2 := by
  unfold bpmServe
  try dsimp only
  repeat' (first
    | with_reducible assumption
    | with_reducible apply takeFree_kept
    | with_reducible apply wn_kept
    | with_reducible apply putOwner_kept
    | split
    | with_reducible refine Kept.snd (by with_reducible assumption) ?_)

theorem bpmAlloc_kept {K : Keystone → Keystone → Prop} {a s : State} (req : Nat) (n : Nat) (h : Kept K a s) :
    Kept K a (bpmAlloc req n s).2 := by
  unfold bpmAlloc
  try dsimp only
  repeat' (first
    | with_reducible assumption
    | with_reducible apply bpmServe_kept
    | split)

theorem bpmRequest_kept {K : Keystone → Keystone → Prop} {a s : State} (req : Nat) (n : Nat) (h : Kept K a s) :
    Kept K a (bpmRequest req n s) := by
  unfold bpmRequest
  try dsimp only
  repeat' (first
    | with_reducible assumption
    | with_reducible apply bpmAlloc_kept
    | with_reducible apply emit_kept
    | with_reducible apply onBpm_kept
    | split
    | with_reducible refine Kept.snd (by with_reducible assumption) ?_)

theorem execBpmRequest_kept {K : Keystone → Keystone → Prop} {a s : State} (x : CtxNo) (c : Fin 7) (n : Nat) (h : Kept K a s) :
    KeptOut K a (execBpmRequest x c n s) := by
  unfold execBpmRequest
  try dsimp only
  repeat' (first
    | with_reducible assumption
    | with_reducible apply bpmRequest_kept
    | with_reducible apply KeptOut.next
    | split)

theorem applyReturn_kept {K : Keystone → Keystone → Prop} {a s : State} (req : Nat) (h_ : Nat) (h : Kept K a s) :
    Kept K a (applyReturn req h_ s) := by
  unfold applyReturn
  try dsimp only
  repeat' (first
    | with_reducible assumption
    | with_reducible apply putOwner_kept
    | with_reducible apply putFree_kept
    | with_reducible apply wn_kept)

theorem bpmReturn_kept {K : Keystone → Keystone → Prop} {a s : State} (req : Nat) (h_ : Nat) (h : Kept K a s) :
    Kept K a (bpmReturn req h_ s) := by
  unfold bpmReturn
  try dsimp only
  repeat' (first
    | with_reducible assumption
    | with_reducible apply onBpm_kept
    | with_reducible apply ownerRead_kept
    | with_reducible apply raiseFault_kept
    | with_reducible apply applyReturn_kept
    | split)

theorem execBpmReturn_kept {K : Keystone → Keystone → Prop} {a s : State} (x : CtxNo) (c : Fin 7) (h_ : BitVec 64) (h : Kept K a s) :
    KeptOut K a (execBpmReturn x c h_ s) := by
  unfold execBpmReturn
  try dsimp only
  repeat' (first
    | with_reducible assumption
    | with_reducible apply bpmReturn_kept
    | with_reducible apply KeptOut.next)

theorem threadPool_kept {K : Keystone → Keystone → Prop} {a s : State} (k : Nat) (h : Kept K a s) :
    Kept K a (threadPool k s) := by
  unfold threadPool
  try dsimp only
  repeat' (first
    | with_reducible assumption
    | with_reducible apply wn_kept
    | with_reducible apply listPush_kept
    | intro _
    | with_reducible apply Kept.foldl)

theorem bpmForm_kept {K : Keystone → Keystone → Prop} {a s : State} (h : Kept K a s) :
    Kept K a (bpmForm s) := by
  unfold bpmForm
  try dsimp only
  repeat' (first
    | with_reducible assumption
    | with_reducible apply hbmWr_kept
    | with_reducible apply threadPool_kept
    | with_reducible apply wf_kept
    | intro _
    | with_reducible apply Kept.foldl)

theorem writeMetaBase_kept {K : Keystone → Keystone → Prop} {a s : State} (p : GPort) (i : Nat) (w : Word) (h : Kept K a s) :
    Kept K a (writeMetaBase p i w s).1 := by
  unfold writeMetaBase
  try dsimp only
  repeat' (first
    | with_reducible assumption
    | with_reducible apply klDenied_kept
    | with_reducible apply putLow_kept
    | with_reducible apply bpmForm_kept
    | with_reducible apply wn64_kept
    | with_reducible apply raiseEvent_kept
    | split)

theorem execBpmMetaBaseWrite_kept {K : Keystone → Keystone → Prop} {a s : State} (hK : KsWaits K) (p : GPort) (w : Word) (h : Kept K a s) :
    KeptOut K a (execBpmMetaBaseWrite p w s) := by
  unfold execBpmMetaBaseWrite
  try dsimp only
  repeat' (first
    | with_reducible assumption
    | with_reducible apply wrRow_kept
    | with_reducible apply writeMetaBase_kept
    | intro _
    | with_reducible apply KeptOut.next)

theorem writeBpmCtrl_kept {K : Keystone → Keystone → Prop} {a s : State} (p : GPort) (w : Word) (h : Kept K a s) :
    Kept K a (writeBpmCtrl p w s).1 := by
  unfold writeBpmCtrl
  try dsimp only
  repeat' (first
    | with_reducible assumption
    | with_reducible apply klDenied_kept
    | with_reducible apply wn_kept
    | with_reducible apply wf_kept
    | split)

theorem execToRing_kept {K : Keystone → Keystone → Prop} {a s : State} (hK : KsWaits K) (p : GPort) (h : Kept K a s) :
    KeptOut K a (execToRing p s) := by
  unfold execToRing
  try dsimp only
  repeat' (first
    | with_reducible assumption
    | with_reducible apply wrRow_kept
    | with_reducible apply writeBpmCtrl_kept
    | intro _
    | with_reducible apply KeptOut.next)

theorem execToList_kept {K : Keystone → Keystone → Prop} {a s : State} (hK : KsWaits K) (p : GPort) (h : Kept K a s) :
    KeptOut K a (execToList p s) := by
  unfold execToList
  try dsimp only
  repeat' (first
    | with_reducible assumption
    | with_reducible apply wrRow_kept
    | with_reducible apply writeBpmCtrl_kept
    | intro _
    | with_reducible apply KeptOut.next)

theorem listWalk_kept {K : Keystone → Keystone → Prop} {a s : State} (z0 : Nat) (z1 : Nat) (h : Kept K a s) :
    Kept K a (listWalk z0 z1 s).2 := by
  revert h
  fun_induction listWalk z0 z1 s <;> intro h
  all_goals try dsimp only
  repeat' (first
    | with_reducible assumption
    | with_reducible refine (show Kept _ a _ → Kept _ a _ by with_reducible assumption) ?_
    | with_reducible apply deviceUe_kept
    | intro _
    | with_reducible apply Kept.foldl
    | with_reducible apply Kept.foldl2
    | with_reducible apply Kept.foldl1
    | with_reducible apply Kept.foldl22
    | with_reducible apply Kept.foldlW
    | with_reducible apply KeptOut.next
    | with_reducible apply KeptOpt.some
    | with_reducible exact KeptOpt.none
    | split
    | with_reducible refine Kept.snd (by with_reducible assumption) ?_
    | with_reducible refine Kept.fst (by with_reducible assumption) ?_
    | with_reducible refine Kept.snd2 (by with_reducible assumption) ?_
    | with_reducible refine Kept.snd1 (by with_reducible assumption) ?_
    | with_reducible refine Kept.opt (by with_reducible assumption) ?_
    | (show KeptF _ a _ _ _ _ _ _ _ _ _; dsimp only; with_reducible apply Kept.of)
    | dsimp only)

theorem poolToRing_kept {K : Keystone → Keystone → Prop} {a s : State} (k : Nat) (h : Kept K a s) :
    Kept K a (poolToRing k s) := by
  unfold poolToRing
  try dsimp only
  repeat' (first
    | with_reducible assumption
    | with_reducible apply listWalk_kept
    | with_reducible apply onBpm_kept
    | with_reducible apply cacheFill_kept
    | with_reducible apply ringPut_kept
    | intro _
    | with_reducible apply Kept.foldl)

theorem ringWalk_kept {K : Keystone → Keystone → Prop} {a s : State} (k : Nat) (z1 : Nat) (h : Kept K a s) :
    Kept K a (ringWalk k z1 s).2 := by
  revert h
  fun_induction ringWalk k z1 s <;> intro h
  all_goals try dsimp only
  repeat' (first
    | with_reducible assumption
    | with_reducible refine (show Kept _ a _ → Kept _ a _ by with_reducible assumption) ?_
    | with_reducible apply ringTake_kept
    | intro _
    | with_reducible apply Kept.foldl
    | with_reducible apply Kept.foldl2
    | with_reducible apply Kept.foldl1
    | with_reducible apply Kept.foldl22
    | with_reducible apply Kept.foldlW
    | with_reducible apply KeptOut.next
    | with_reducible apply KeptOpt.some
    | with_reducible exact KeptOpt.none
    | split
    | with_reducible refine Kept.snd (by with_reducible assumption) ?_
    | with_reducible refine Kept.fst (by with_reducible assumption) ?_
    | with_reducible refine Kept.snd2 (by with_reducible assumption) ?_
    | with_reducible refine Kept.snd1 (by with_reducible assumption) ?_
    | with_reducible refine Kept.opt (by with_reducible assumption) ?_
    | (show KeptF _ a _ _ _ _ _ _ _ _ _; dsimp only; with_reducible apply Kept.of)
    | dsimp only)

theorem poolToList_kept {K : Keystone → Keystone → Prop} {a s : State} (k : Nat) (h : Kept K a s) :
    Kept K a (poolToList k s) := by
  unfold poolToList
  try dsimp only
  repeat' (first
    | with_reducible assumption
    | with_reducible apply cacheSpill_kept
    | with_reducible apply ringWalk_kept
    | with_reducible apply listPush_kept
    | with_reducible apply Kept.foldl)

theorem execBpmSwitchEnd_kept {K : Keystone → Keystone → Prop} {a s : State} (h : Kept K a s) :
    KeptOut K a (execBpmSwitchEnd s) := by
  unfold execBpmSwitchEnd
  try dsimp only
  repeat' (first
    | with_reducible assumption
    | with_reducible apply poolToRing_kept
    | with_reducible apply poolToList_kept
    | with_reducible apply wf_kept
    | with_reducible apply applyReturn_kept
    | with_reducible apply onBpm_kept
    | with_reducible apply raiseEvent_kept
    | with_reducible apply bpmReturn_kept
    | intro _
    | with_reducible apply Kept.foldl
    | with_reducible apply KeptOut.next
    | split)

theorem srRead_kept {K : Keystone → Keystone → Prop} {a s : State} (r : Nat) (h : Kept K a s) :
    Kept K a (srRead r s) := by
  unfold srRead
  try dsimp only
  repeat' (first
    | with_reducible assumption
    | with_reducible apply deviceUe_kept
    | split)

theorem srPut_kept {K : Keystone → Keystone → Prop} {a s : State} (r : Nat) (off : Nat) (n : Nat) (v : Nat) (h : Kept K a s) :
    Kept K a (srPut r off n v s) := by
  unfold srPut
  try dsimp only
  repeat' (first
    | with_reducible assumption
    | with_reducible apply hbmWr_kept
    | split)

theorem srWrite_kept {K : Keystone → Keystone → Prop} {a s : State} (r : Nat) (cls : Nat) (ctx : Nat) (peerRank : Nat) (peerSr : Nat) (job : Nat) (window : Nat) (h : Kept K a s) :
    Kept K a (srWrite r cls ctx peerRank peerSr job window s) := by
  unfold srWrite
  try dsimp only
  repeat' (first
    | with_reducible assumption
    | with_reducible apply hbmWr_kept
    | split)

theorem inject_kept {K : Keystone → Keystone → Prop} {a s : State} (i : Inject) (h : Kept K a s) :
    Kept K a (inject i s) := by
  unfold inject
  try dsimp only
  repeat' (first
    | with_reducible assumption
    | with_reducible apply onFab_kept)

theorem setRetxHead_kept {K : Keystone → Keystone → Prop} {a s : State} (r : Nat) (h : Kept K a s) :
    Kept K a (setRetxHead r s) := by
  unfold setRetxHead
  try dsimp only
  repeat' (first
    | with_reducible assumption
    | with_reducible apply srPut_kept)

theorem releaseCopies_kept {K : Keystone → Keystone → Prop} {a s : State} (r : Nat) (p : Retx → Bool) (h : Kept K a s) :
    Kept K a (releaseCopies r p s) := by
  unfold releaseCopies
  try dsimp only
  repeat' (first
    | with_reducible assumption
    | with_reducible apply onFab_kept
    | with_reducible apply setRetxHead_kept
    | with_reducible apply bpmReturn_kept
    | intro _
    | with_reducible apply Kept.foldl)

theorem streamFailed_kept {K : Keystone → Keystone → Prop} {a s : State} (r : Nat) (h : Kept K a s) :
    Kept K a (streamFailed r s) := by
  unfold streamFailed
  try dsimp only
  repeat' (first
    | with_reducible assumption
    | with_reducible apply onFab_kept
    | with_reducible apply raiseEvent_kept
    | intro _
    | with_reducible apply Kept.foldl
    | split)

theorem endStream_kept {K : Keystone → Keystone → Prop} {a s : State} (r : Nat) (state : Nat) (h : Kept K a s) :
    Kept K a (endStream r state s) := by
  unfold endStream
  try dsimp only
  repeat' (first
    | with_reducible assumption
    | with_reducible apply srPut_kept
    | with_reducible apply onFab_kept
    | with_reducible apply streamFailed_kept
    | with_reducible apply releaseCopies_kept)

theorem fenceStream_kept {K : Keystone → Keystone → Prop} {a s : State} (r : Nat) (src : Nat) (h : Kept K a s) :
    Kept K a (fenceStream r src s) := by
  unfold fenceStream
  try dsimp only
  repeat' (first
    | with_reducible assumption
    | with_reducible apply raiseEvent_kept
    | with_reducible apply endStream_kept)

theorem sendCopy_kept {K : Keystone → Keystone → Prop} {a s : State} (r : Nat) (w : TxWait) (h_ : Nat) (h : Kept K a s) :
    Kept K a (sendCopy r w h_ s) := by
  unfold sendCopy
  try dsimp only
  repeat' (first
    | with_reducible assumption
    | with_reducible apply onFab_kept
    | with_reducible apply setRetxHead_kept
    | with_reducible apply inject_kept
    | with_reducible apply srPut_kept)

theorem sendOne_kept {K : Keystone → Keystone → Prop} {a s : State} (r : Nat) (w : TxWait) (h : Kept K a s) :
    Kept K a (sendOne r w s).2 := by
  unfold sendOne
  try dsimp only
  repeat' (first
    | with_reducible assumption
    | with_reducible apply fenceStream_kept
    | with_reducible apply bpmAlloc_kept
    | with_reducible apply sendCopy_kept
    | with_reducible apply onBpm_kept
    | split
    | with_reducible refine Kept.snd (by with_reducible assumption) ?_)

theorem pump_kept {K : Keystone → Keystone → Prop} {a s : State} (r : Nat) (z1 : Nat) (h : Kept K a s) :
    Kept K a (pump r z1 s) := by
  revert h
  fun_induction pump r z1 s <;> intro h
  all_goals try dsimp only
  repeat' (first
    | with_reducible assumption
    | with_reducible refine (show Kept _ a _ → Kept _ a _ by with_reducible assumption) ?_
    | with_reducible apply sendOne_kept
    | intro _
    | with_reducible apply Kept.foldl
    | with_reducible apply Kept.foldl2
    | with_reducible apply Kept.foldl1
    | with_reducible apply Kept.foldl22
    | with_reducible apply Kept.foldlW
    | with_reducible apply KeptOut.next
    | with_reducible apply KeptOpt.some
    | with_reducible exact KeptOpt.none
    | split
    | with_reducible refine Kept.snd (by with_reducible assumption) ?_
    | with_reducible refine Kept.fst (by with_reducible assumption) ?_
    | with_reducible refine Kept.snd2 (by with_reducible assumption) ?_
    | with_reducible refine Kept.snd1 (by with_reducible assumption) ?_
    | with_reducible refine Kept.opt (by with_reducible assumption) ?_
    | (show KeptF _ a _ _ _ _ _ _ _ _ _; dsimp only; with_reducible apply Kept.of)
    | dsimp only)

theorem pumpAll_kept {K : Keystone → Keystone → Prop} {a s : State} (r : Nat) (h : Kept K a s) :
    Kept K a (pumpAll r s) := by
  unfold pumpAll
  try dsimp only
  repeat' (first
    | with_reducible assumption
    | with_reducible apply pump_kept)

theorem streamSend_kept {K : Keystone → Keystone → Prop} {a s : State} (w : TxWait) (h : Kept K a s) :
    Kept K a (streamSend w s) := by
  unfold streamSend
  try dsimp only
  repeat' (first
    | with_reducible assumption
    | with_reducible apply pumpAll_kept
    | with_reducible apply onFab_kept)

theorem resend_kept {K : Keystone → Keystone → Prop} {a s : State} (r : Nat) (q : Nat) (h : Kept K a s) :
    Kept K a (resend r q s) := by
  unfold resend
  try dsimp only
  repeat' (first
    | with_reducible assumption
    | with_reducible apply fenceStream_kept
    | with_reducible apply onFab_kept
    | with_reducible apply inject_kept
    | intro _
    | with_reducible apply Kept.foldl
    | split)

theorem streamAdvanced_kept {K : Keystone → Keystone → Prop} {a s : State} (r : Nat) (una : Nat) (h : Kept K a s) :
    Kept K a (streamAdvanced r una s) := by
  unfold streamAdvanced
  try dsimp only
  repeat' (first
    | with_reducible assumption
    | with_reducible apply onFab_kept
    | with_reducible apply raiseEvent_kept
    | intro _
    | with_reducible apply Kept.foldl
    | split)

theorem onAck_kept {K : Keystone → Keystone → Prop} {a s : State} (r : Nat) (n : Nat) (h : Kept K a s) :
    Kept K a (onAck r n s) := by
  unfold onAck
  try dsimp only
  repeat' (first
    | with_reducible assumption
    | with_reducible apply onFab_kept
    | with_reducible apply releaseCopies_kept
    | with_reducible apply srPut_kept
    | with_reducible apply pumpAll_kept
    | with_reducible apply streamAdvanced_kept
    | split)

theorem onNack_kept {K : Keystone → Keystone → Prop} {a s : State} (r : Nat) (e : Nat) (reason : Nat) (h : Kept K a s) :
    Kept K a (onNack r e reason s) := by
  unfold onNack
  try dsimp only
  repeat' (first
    | with_reducible assumption
    | with_reducible apply resend_kept
    | with_reducible apply onFab_kept
    | split)

theorem onTimeout_kept {K : Keystone → Keystone → Prop} {a s : State} (r : Nat) (src : Nat) (h : Kept K a s) :
    Kept K a (onTimeout r src s) := by
  unfold onTimeout
  try dsimp only
  repeat' (first
    | with_reducible assumption
    | with_reducible apply srPut_kept
    | with_reducible apply raiseFault_kept
    | with_reducible apply endStream_kept
    | with_reducible apply resend_kept
    | split)

theorem execRetransmitTimeout_kept {K : Keystone → Keystone → Prop} {a s : State} (r : BitVec 22) (h : Kept K a s) :
    KeptOut K a (execRetransmitTimeout r s) := by
  unfold execRetransmitTimeout
  try dsimp only
  repeat' (first
    | with_reducible assumption
    | with_reducible apply onTimeout_kept
    | with_reducible apply KeptOut.next
    | split)

theorem execResendAfterRto_kept {K : Keystone → Keystone → Prop} {a s : State} (r : BitVec 22) (h : Kept K a s) :
    KeptOut K a (execResendAfterRto r s) := by
  unfold execResendAfterRto
  try dsimp only
  repeat' (first
    | with_reducible assumption
    | with_reducible apply resend_kept
    | with_reducible apply onFab_kept
    | with_reducible apply KeptOut.next
    | split)

theorem giveBuffer_kept {K : Keystone → Keystone → Prop} {a s : State} (r : SvcReq) (h_ : Nat) (h : Kept K a s) :
    Kept K a (giveBuffer r h_ s) := by
  unfold giveBuffer
  try dsimp only
  repeat' (first
    | with_reducible assumption
    | (show KeptF _ a _ _ _ _ _ _ _ _ _; dsimp only; with_reducible apply Kept.of))

theorem grantBuffer_kept {K : Keystone → Keystone → Prop} {a s : State} (w : BpmWait) (h_ : Nat) (h : Kept K a s) :
    Kept K a (grantBuffer w h_ s) := by
  unfold grantBuffer
  try dsimp only
  repeat' (first
    | with_reducible assumption
    | with_reducible apply emit_kept
    | with_reducible apply giveBuffer_kept
    | with_reducible apply bpmReturn_kept
    | with_reducible apply pumpAll_kept
    | with_reducible apply sendCopy_kept
    | split)

theorem execBpmWaitingServed_kept {K : Keystone → Keystone → Prop} {a s : State} (k : Fin 5) (h : Kept K a s) :
    KeptOut K a (execBpmWaitingServed k s) := by
  unfold execBpmWaitingServed
  try dsimp only
  repeat' (first
    | with_reducible assumption
    | with_reducible apply bpmServe_kept
    | with_reducible apply grantBuffer_kept
    | with_reducible apply onBpm_kept
    | with_reducible apply KeptOut.next
    | split
    | with_reducible refine Kept.snd (by with_reducible assumption) ?_)

theorem sendCtrl_kept {K : Keystone → Keystone → Prop} {a s : State} (a_ : AckFrom) (r : Nat) (op : Nat) (oparg : Nat) (h : Kept K a s) :
    Kept K a (sendCtrl a_ r op oparg s) := by
  unfold sendCtrl
  try dsimp only
  repeat' (first
    | with_reducible assumption
    | with_reducible apply inject_kept
    | with_reducible apply onFab_kept)

theorem sendAck_kept {K : Keystone → Keystone → Prop} {a s : State} (a_ : AckFrom) (r : Nat) (n : Nat) (h : Kept K a s) :
    Kept K a (sendAck a_ r n s) := by
  unfold sendAck
  try dsimp only
  repeat' (first
    | with_reducible assumption
    | with_reducible apply sendCtrl_kept
    | with_reducible apply srPut_kept
    | with_reducible apply onFab_kept)

theorem sendNack_kept {K : Keystone → Keystone → Prop} {a s : State} (a_ : AckFrom) (r : Nat) (reason : Nat) (h : Kept K a s) :
    Kept K a (sendNack a_ r reason s) := by
  unfold sendNack
  try dsimp only
  repeat' (first
    | with_reducible assumption
    | with_reducible apply sendCtrl_kept)

theorem nackGap_kept {K : Keystone → Keystone → Prop} {a s : State} (a_ : AckFrom) (r : Nat) (h : Kept K a s) :
    Kept K a (nackGap a_ r s) := by
  unfold nackGap
  try dsimp only
  repeat' (first
    | with_reducible assumption
    | with_reducible apply sendNack_kept
    | with_reducible apply onFab_kept
    | split)

theorem rxCheck_kept {K : Keystone → Keystone → Prop} {a s : State} (a_ : AckFrom) (b : List Byte) (landing : Option Nat) (h : Kept K a s) :
    Kept K a (rxCheck a_ b landing s).2 := by
  unfold rxCheck
  try dsimp only
  repeat' (first
    | with_reducible assumption
    | with_reducible apply srRead_kept
    | with_reducible apply bump_kept
    | with_reducible apply sendNack_kept
    | with_reducible apply sendAck_kept
    | with_reducible apply nackGap_kept
    | split)

theorem rxAccept_kept {K : Keystone → Keystone → Prop} {a s : State} (a_ : AckFrom) (b : List Byte) (h : Kept K a s) :
    Kept K a (rxAccept a_ b s) := by
  unfold rxAccept
  try dsimp only
  repeat' (first
    | with_reducible assumption
    | with_reducible apply srPut_kept
    | with_reducible apply sendAck_kept
    | with_reducible apply onFab_kept
    | split)

end Sys2Proof.Machine
end

