-- ==== Sys2Proof/Laws/KeptTwo.lean ====
section
/-! SUPPORT. What operations keep, continued: one lemma for each operation, in the order of the model's files. -/

namespace Sys2Proof.Machine
open Sys2Proof

theorem execAckTimer_kept {K : Keystone → Keystone → Prop} {a s : State} (r : BitVec 22) (h : Kept K a s) :
    KeptOut K a (execAckTimer r s) := by
  unfold execAckTimer
  try dsimp only
  repeat' (first
    | with_reducible assumption
    | with_reducible apply sendAck_kept
    | with_reducible apply KeptOut.next
    | split)

theorem takeArrived_kept {K : Keystone → Keystone → Prop} {a s : State} (a_ : Arrived) (h : Kept K a s) :
    Kept K a (takeArrived a_ s) := by
  unfold takeArrived
  try dsimp only
  repeat' (first
    | with_reducible assumption
    | with_reducible apply onFab_kept)

theorem onCtrl_kept {K : Keystone → Keystone → Prop} {a s : State} (u : Nat) (op : Nat) (f : List Byte → State → State) (hf : ∀ y0 y1, Kept K a y1 → Kept K a (f y0 y1)) (h : Kept K a s) :
    Kept K a (onCtrl u op f s) := by
  unfold onCtrl
  try dsimp only
  repeat' (first
    | with_reducible assumption
    | with_reducible apply takeArrived_kept
    | with_reducible apply bump_kept
    | with_reducible apply hf
    | split)

theorem forRecord_kept {K : Keystone → Keystone → Prop} {a s : State} (b : List Byte) (f : Nat → State → State) (hf : ∀ y0 y1, Kept K a y1 → Kept K a (f y0 y1)) (h : Kept K a s) :
    Kept K a (forRecord b f s) := by
  unfold forRecord
  try dsimp only
  repeat' (first
    | with_reducible assumption
    | with_reducible apply srRead_kept
    | with_reducible apply hf
    | split)

theorem execAck_kept {K : Keystone → Keystone → Prop} {a s : State} (u : Fin 129) (h : Kept K a s) :
    KeptOut K a (execAck u s) := by
  unfold execAck
  try dsimp only
  repeat' (first
    | with_reducible assumption
    | with_reducible apply onCtrl_kept
    | with_reducible apply forRecord_kept
    | with_reducible apply onAck_kept
    | intro _
    | with_reducible apply KeptOut.next)

theorem execNack_kept {K : Keystone → Keystone → Prop} {a s : State} (u : Fin 129) (h : Kept K a s) :
    KeptOut K a (execNack u s) := by
  unfold execNack
  try dsimp only
  repeat' (first
    | with_reducible assumption
    | with_reducible apply onCtrl_kept
    | with_reducible apply forRecord_kept
    | with_reducible apply onNack_kept
    | intro _
    | with_reducible apply KeptOut.next)

theorem execEvictNotice_kept {K : Keystone → Keystone → Prop} {a s : State} (u : Fin 129) (h : Kept K a s) :
    KeptOut K a (execEvictNotice u s) := by
  unfold execEvictNotice
  try dsimp only
  repeat' (first
    | with_reducible assumption
    | with_reducible apply onCtrl_kept
    | with_reducible apply forRecord_kept
    | with_reducible apply resend_kept
    | intro _
    | with_reducible apply KeptOut.next
    | split)

theorem execReferenceLost_kept {K : Keystone → Keystone → Prop} {a s : State} (h : Kept K a s) :
    KeptOut K a (execReferenceLost s) := by
  unfold execReferenceLost
  try dsimp only
  repeat' (first
    | with_reducible assumption
    | with_reducible apply wf_kept
    | with_reducible apply raiseEvent_kept
    | with_reducible apply KeptOut.next
    | split
    | (show KeptF _ a _ _ _ _ _ _ _ _ _; dsimp only; with_reducible apply Kept.of))

theorem execReferenceReturn_kept {K : Keystone → Keystone → Prop} {a s : State} (h : Kept K a s) :
    KeptOut K a (execReferenceReturn s) := by
  unfold execReferenceReturn
  try dsimp only
  repeat' (first
    | with_reducible assumption
    | with_reducible apply wf_kept
    | with_reducible apply KeptOut.next
    | (show KeptF _ a _ _ _ _ _ _ _ _ _; dsimp only; with_reducible apply Kept.of))

theorem execRelockEnd_kept {K : Keystone → Keystone → Prop} {a s : State} (h : Kept K a s) :
    KeptOut K a (execRelockEnd s) := by
  unfold execRelockEnd
  try dsimp only
  repeat' (first
    | with_reducible assumption
    | with_reducible apply raiseEvent_kept
    | with_reducible apply wf_kept
    | with_reducible apply KeptOut.next
    | split
    | (show KeptF _ a _ _ _ _ _ _ _ _ _; dsimp only; with_reducible apply Kept.of))

theorem noteKind_kept {K : Keystone → Keystone → Prop} {a s : State} (i : Nat) (cls : Nat) (phase : Nat) (h : Kept K a s) :
    Kept K a (noteKind i cls phase s) := by
  unfold noteKind
  try dsimp only
  repeat' (first
    | with_reducible assumption
    | split
    | (show KeptF _ a _ _ _ _ _ _ _ _ _; dsimp only; with_reducible apply Kept.of))

theorem showCap_kept {K : Keystone → Keystone → Prop} {a s : State} (h : Kept K a s) :
    Kept K a (showCap s) := by
  unfold showCap
  try dsimp only
  repeat' (first
    | with_reducible assumption
    | with_reducible apply wf_kept)

theorem noteMoved_kept {K : Keystone → Keystone → Prop} {a s : State} (i : Nat) (h : Kept K a s) :
    Kept K a (noteMoved i s) := by
  unfold noteMoved
  try dsimp only
  repeat' (first
    | with_reducible assumption
    | (show KeptF _ a _ _ _ _ _ _ _ _ _; dsimp only; with_reducible apply Kept.of))

theorem switchStep_kept {K : Keystone → Keystone → Prop} {a s : State} (i : Nat) (j : Nat) (h : Kept K a s) :
    Kept K a (switchStep i j s) := by
  unfold switchStep
  try dsimp only
  repeat' (first
    | with_reducible assumption
    | with_reducible apply wf_kept
    | with_reducible apply noteMoved_kept
    | split)

theorem setTarget_kept {K : Keystone → Keystone → Prop} {a s : State} (i : Nat) (j : Nat) (h : Kept K a s) :
    Kept K a (setTarget i j s) := by
  unfold setTarget
  try dsimp only
  repeat' (first
    | with_reducible assumption
    | with_reducible apply wf_kept
    | with_reducible apply switchStep_kept
    | split)

theorem forceSpan_kept {K : Keystone → Keystone → Prop} {a s : State} (i : Nat) (h : Kept K a s) :
    Kept K a (forceSpan i s) := by
  unfold forceSpan
  try dsimp only
  repeat' (first
    | with_reducible assumption
    | with_reducible apply wf_kept
    | with_reducible apply setTarget_kept
    | split)

theorem execRampEnd_kept {K : Keystone → Keystone → Prop} {a s : State} (i : SpanNo) (h : Kept K a s) :
    KeptOut K a (execRampEnd i s) := by
  unfold execRampEnd
  try dsimp only
  repeat' (first
    | with_reducible assumption
    | with_reducible apply wf_kept
    | with_reducible apply switchStep_kept
    | with_reducible apply KeptOut.next
    | split)

theorem excursion_kept {K : Keystone → Keystone → Prop} {a s : State} (why : Nat) (h : Kept K a s) :
    Kept K a (excursion why s) := by
  unfold excursion
  try dsimp only
  repeat' (first
    | with_reducible assumption
    | with_reducible apply raiseEvent_kept
    | with_reducible apply forceSpan_kept
    | with_reducible apply wf_kept
    | with_reducible apply Kept.foldl)

theorem execForceEnd_kept {K : Keystone → Keystone → Prop} {a s : State} (h : Kept K a s) :
    KeptOut K a (execForceEnd s) := by
  unfold execForceEnd
  try dsimp only
  repeat' (first
    | with_reducible assumption
    | with_reducible apply wf_kept
    | with_reducible apply noteMoved_kept
    | with_reducible apply Kept.foldl
    | with_reducible apply KeptOut.next
    | split)

theorem divergeSample_kept {K : Keystone → Keystone → Prop} {a s : State} (i : Nat) (h : Kept K a s) :
    Kept K a (divergeSample i s) := by
  unfold divergeSample
  try dsimp only
  repeat' (first
    | with_reducible assumption
    | with_reducible apply raiseEvent_kept
    | with_reducible apply wf_kept
    | split
    | (show KeptF _ a _ _ _ _ _ _ _ _ _; dsimp only; with_reducible apply Kept.of))

theorem execRailSample_kept {K : Keystone → Keystone → Prop} {a s : State} (rails : List (BitVec 16 × BitVec 16)) (act : List Nat) (h : Kept K a s) :
    KeptOut K a (execRailSample rails act s) := by
  unfold execRailSample
  try dsimp only
  repeat' (first
    | with_reducible assumption
    | with_reducible apply wn_kept
    | with_reducible apply excursion_kept
    | with_reducible apply divergeSample_kept
    | intro _
    | with_reducible apply Kept.foldl
    | with_reducible apply KeptOut.next
    | split
    | (show KeptF _ a _ _ _ _ _ _ _ _ _; dsimp only; with_reducible apply Kept.of))

theorem learnSpan_kept {K : Keystone → Keystone → Prop} {a s : State} (i : Nat) (h : Kept K a s) :
    Kept K a (learnSpan i s) := by
  unfold learnSpan
  try dsimp only
  repeat' (first
    | with_reducible assumption
    | split
    | (show KeptF _ a _ _ _ _ _ _ _ _ _; dsimp only; with_reducible apply Kept.of))

theorem applyLevel_kept {K : Keystone → Keystone → Prop} {a s : State} (t : List Nat) (i : Nat) (h : Kept K a s) :
    Kept K a (applyLevel t i s) := by
  unfold applyLevel
  try dsimp only
  repeat' (first
    | with_reducible assumption
    | with_reducible apply setTarget_kept
    | with_reducible apply wf_kept
    | split)

theorem execControlPeriod_kept {K : Keystone → Keystone → Prop} {a s : State} (h : Kept K a s) :
    KeptOut K a (execControlPeriod s) := by
  unfold execControlPeriod
  try dsimp only
  repeat' (first
    | with_reducible assumption
    | with_reducible apply learnSpan_kept
    | with_reducible apply applyLevel_kept
    | intro _
    | with_reducible apply Kept.foldl
    | with_reducible apply KeptOut.next
    | split
    | (show KeptF _ a _ _ _ _ _ _ _ _ _; dsimp only; with_reducible apply Kept.of))

theorem dieSample_kept {K : Keystone → Keystone → Prop} {a s : State} (d : Nat) (temp : BitVec 16) (h : Kept K a s) :
    Kept K a (dieSample d temp s) := by
  unfold dieSample
  try dsimp only
  repeat' (first
    | with_reducible assumption
    | with_reducible apply wn_kept
    | with_reducible apply noteMoved_kept
    | with_reducible apply wf_kept
    | with_reducible apply raiseEvent_kept
    | with_reducible apply forceSpan_kept
    | intro _
    | with_reducible apply Kept.foldl
    | split
    | (show KeptF _ a _ _ _ _ _ _ _ _ _; dsimp only; with_reducible apply Kept.of))

theorem execDieTempSample_kept {K : Keystone → Keystone → Prop} {a s : State} (t0 : BitVec 16) (t1 : BitVec 16) (h : Kept K a s) :
    KeptOut K a (execDieTempSample t0 t1 s) := by
  unfold execDieTempSample
  try dsimp only
  repeat' (first
    | with_reducible assumption
    | with_reducible apply dieSample_kept
    | with_reducible apply KeptOut.next)

theorem applyHint_kept {K : Keystone → Keystone → Prop} {a s : State} (sw : Nat) (h : Kept K a s) :
    Kept K a (applyHint sw s) := by
  unfold applyHint
  try dsimp only
  repeat' (first
    | with_reducible assumption
    | with_reducible apply showCap_kept
    | with_reducible apply wf_kept)

theorem execHintHoldEnd_kept {K : Keystone → Keystone → Prop} {a s : State} (h : Kept K a s) :
    KeptOut K a (execHintHoldEnd s) := by
  unfold execHintHoldEnd
  try dsimp only
  repeat' (first
    | with_reducible assumption
    | with_reducible apply showCap_kept
    | with_reducible apply wf_kept
    | with_reducible apply KeptOut.next)

theorem clearCons_kept {K : Keystone → Keystone → Prop} {a s : State} (h : Kept K a s) :
    Kept K a (clearCons s) := by
  unfold clearCons
  try dsimp only
  repeat' (first
    | with_reducible assumption
    | with_reducible apply wf_kept
    | with_reducible apply wn_kept
    | (show KeptF _ a _ _ _ _ _ _ _ _ _; dsimp only; with_reducible apply Kept.of))

theorem execClearCons_kept {K : Keystone → Keystone → Prop} {a s : State} (hK : KsWaits K) (p : GPort) (h : Kept K a s) :
    KeptOut K a (execClearCons p s) := by
  unfold execClearCons
  try dsimp only
  repeat' (first
    | with_reducible assumption
    | with_reducible apply wrRow_kept
    | with_reducible apply clearCons_kept
    | with_reducible apply klDenied_kept
    | intro _
    | with_reducible apply KeptOut.next
    | split)

theorem useSections_kept {K : Keystone → Keystone → Prop} {a s : State} (h : Kept K a s) :
    Kept K a (useSections s) := by
  unfold useSections
  try dsimp only
  repeat' (first
    | with_reducible assumption
    | with_reducible apply wn_kept
    | with_reducible apply showCap_kept
    | intro _
    | with_reducible apply Kept.foldl
    | split
    | (show KeptF _ a _ _ _ _ _ _ _ _ _; dsimp only; with_reducible apply Kept.of))

theorem sentinelPeriod_kept {K : Keystone → Keystone → Prop} {a s : State} (h : Kept K a s) :
    Kept K a (sentinelPeriod s) := by
  unfold sentinelPeriod
  try dsimp only
  repeat' (first
    | with_reducible assumption
    | (show KeptF _ a _ _ _ _ _ _ _ _ _; dsimp only; with_reducible apply Kept.of))

theorem execTurnstilePeriod_kept {K : Keystone → Keystone → Prop} {a s : State} (h : Kept K a s) :
    KeptOut K a (execTurnstilePeriod s) := by
  unfold execTurnstilePeriod
  try dsimp only
  repeat' (first
    | with_reducible assumption
    | with_reducible apply sentinelPeriod_kept
    | with_reducible apply traceDropAll_kept
    | with_reducible apply useSections_kept
    | with_reducible apply KeptOut.next
    | (show KeptF _ a _ _ _ _ _ _ _ _ _; dsimp only; with_reducible apply Kept.of))

theorem onPier_kept {K : Keystone → Keystone → Prop} {a s : State} (p : Nat) (f : Pier → Pier) (h : Kept K a s) :
    Kept K a (onPier p f s) := by
  unfold onPier
  try dsimp only
  repeat' (first
    | with_reducible assumption
    | (show KeptF _ a _ _ _ _ _ _ _ _ _; dsimp only; with_reducible apply Kept.of))

theorem onEng_kept {K : Keystone → Keystone → Prop} {a s : State} (p : Nat) (e : Nat) (f : Eng → Eng) (h : Kept K a s) :
    Kept K a (onEng p e f s) := by
  unfold onEng
  try dsimp only
  repeat' (first
    | with_reducible assumption
    | with_reducible apply onPier_kept)

theorem ctxLocWr_kept {K : Keystone → Keystone → Prop} {a s : State} (x : Nat) (p : Nat) (a_ : Nat) (bs : List Byte) (h : Kept K a s) :
    Kept K a (ctxLocWr x p a_ bs s) := by
  unfold ctxLocWr
  try dsimp only
  repeat' (first
    | with_reducible assumption
    | with_reducible apply locWr_kept
    | with_reducible apply hbmWr_kept
    | split)

theorem byFault_kept {K : Keystone → Keystone → Prop} {a s : State} (w : By) (code : Nat) (detail : Nat) (h : Kept K a s) :
    Kept K a (byFault w code detail s) := by
  unfold byFault
  try dsimp only
  repeat' (first
    | with_reducible assumption
    | with_reducible apply raiseFault_kept)

theorem byDenied_kept {K : Keystone → Keystone → Prop} {a s : State} (w : By) (a_ : Nat) (h : Kept K a s) :
    Kept K a (byDenied w a_ s) := by
  unfold byDenied
  try dsimp only
  repeat' (first
    | with_reducible assumption
    | with_reducible apply byFault_kept)

theorem byMemUe_kept {K : Keystone → Keystone → Prop} {a s : State} (w : By) (a_ : Nat) (h : Kept K a s) :
    Kept K a (byMemUe w a_ s) := by
  unfold byMemUe
  try dsimp only
  repeat' (first
    | with_reducible assumption
    | with_reducible apply byFault_kept
    | with_reducible apply countUe_kept)

theorem readPieces_kept {K : Keystone → Keystone → Prop} {a s : State} (w : By) (perm : Perm) (z2 : List (Nat × Nat)) (h : Kept K a s) :
    Kept K a (readPieces w perm z2 s).2 := by
  revert h
  fun_induction readPieces w perm z2 s <;> intro h
  all_goals try dsimp only
  repeat' (first
    | with_reducible assumption
    | with_reducible refine (show Kept _ a _ → Kept _ a _ by with_reducible assumption) ?_
    | with_reducible apply byDenied_kept
    | with_reducible apply byMemUe_kept
    | intro _
    | with_reducible apply Kept.foldl
    | with_reducible apply Kept.foldl2
    | with_reducible apply Kept.foldl1
    | with_reducible apply Kept.foldl22
    | with_reducible apply Kept.foldlW
    | with_reducible apply KeptOut.next
    | with_reducible apply KeptOpt.some
    | with_reducible exact KeptOpt.none
    | split
    | with_reducible refine Kept.snd (by with_reducible assumption) ?_
    | with_reducible refine Kept.fst (by with_reducible assumption) ?_
    | with_reducible refine Kept.snd2 (by with_reducible assumption) ?_
    | with_reducible refine Kept.snd1 (by with_reducible assumption) ?_
    | with_reducible refine Kept.opt (by with_reducible assumption) ?_
    | (show KeptF _ a _ _ _ _ _ _ _ _ _; dsimp only; with_reducible apply Kept.of)
    | dsimp only)

theorem fetch_kept {K : Keystone → Keystone → Prop} {a s : State} (w : By) (perm : Perm) (a_ : Nat) (n : Nat) (h : Kept K a s) :
    Kept K a (fetch w perm a_ n s).2 := by
  unfold fetch
  try dsimp only
  repeat' (first
    | with_reducible assumption
    | with_reducible apply readPieces_kept
    | split)

theorem writePieces_kept {K : Keystone → Keystone → Prop} {a s : State} (w : By) (z1 : List (Nat × Nat)) (z2 : List Byte) (h : Kept K a s) :
    Kept K a (writePieces w z1 z2 s).2 := by
  revert h
  fun_induction writePieces w z1 z2 s <;> intro h
  all_goals try dsimp only
  repeat' (first
    | with_reducible assumption
    | with_reducible refine (show Kept _ a _ → Kept _ a _ by with_reducible assumption) ?_
    | with_reducible apply byDenied_kept
    | with_reducible apply hbmWr_kept
    | intro _
    | with_reducible apply Kept.foldl
    | with_reducible apply Kept.foldl2
    | with_reducible apply Kept.foldl1
    | with_reducible apply Kept.foldl22
    | with_reducible apply Kept.foldlW
    | with_reducible apply KeptOut.next
    | with_reducible apply KeptOpt.some
    | with_reducible exact KeptOpt.none
    | split
    | with_reducible refine Kept.snd (by with_reducible assumption) ?_
    | with_reducible refine Kept.fst (by with_reducible assumption) ?_
    | with_reducible refine Kept.snd2 (by with_reducible assumption) ?_
    | with_reducible refine Kept.snd1 (by with_reducible assumption) ?_
    | with_reducible refine Kept.opt (by with_reducible assumption) ?_
    | (show KeptF _ a _ _ _ _ _ _ _ _ _; dsimp only; with_reducible apply Kept.of)
    | dsimp only)

theorem store_kept {K : Keystone → Keystone → Prop} {a s : State} (w : By) (a_ : Nat) (bs : List Byte) (h : Kept K a s) :
    Kept K a (store w a_ bs s).2 := by
  unfold store
  try dsimp only
  repeat' (first
    | with_reducible assumption
    | with_reducible apply ctxLocWr_kept
    | with_reducible apply writePieces_kept
    | split)

theorem signal_kept {K : Keystone → Keystone → Prop} {a s : State} (w : By) (f : Nat) (k : Nat) (h : Kept K a s) :
    Kept K a (signal w f k s) := by
  unfold signal
  try dsimp only
  repeat' (first
    | with_reducible assumption
    | with_reducible apply byFault_kept
    | with_reducible apply traced_kept
    | with_reducible apply wf_kept
    | split)

theorem finish_kept {K : Keystone → Keystone → Prop} {a s : State} (p : Nat) (e : Nat) (status : Nat) (detail : Nat) (h : Kept K a s) :
    Kept K a (finish p e status detail s) := by
  unfold finish
  try dsimp only
  repeat' (first
    | with_reducible assumption
    | with_reducible apply onEng_kept)

theorem malformed_kept {K : Keystone → Keystone → Prop} {a s : State} (p : Nat) (e : Nat) (off : Nat) (r : RunCmd) (h : Kept K a s) :
    Kept K a (malformed p e off r s) := by
  unfold malformed
  try dsimp only
  repeat' (first
    | with_reducible assumption
    | with_reducible apply finish_kept
    | with_reducible apply byFault_kept)

theorem completeCmd_kept {K : Keystone → Keystone → Prop} {a s : State} (p : Nat) (e : Nat) (r : RunCmd) (status : Nat) (detail : Nat) (h : Kept K a s) :
    Kept K a (completeCmd p e r status detail s) := by
  unfold completeCmd
  try dsimp only
  repeat' (first
    | with_reducible assumption
    | with_reducible apply ctxLocWr_kept
    | with_reducible apply wn_kept
    | with_reducible apply traced_kept
    | with_reducible apply signal_kept
    | split)

theorem completeRunning_kept {K : Keystone → Keystone → Prop} {a s : State} (p : Nat) (e : Nat) (r : RunCmd) (status : Nat) (detail : Nat) (h : Kept K a s) :
    Kept K a (completeRunning p e r status detail s) := by
  unfold completeRunning
  try dsimp only
  repeat' (first
    | with_reducible assumption
    | with_reducible apply completeCmd_kept
    | with_reducible apply onEng_kept)

theorem track_kept {K : Keystone → Keystone → Prop} {a s : State} (p : Nat) (e : Nat) (r : RunCmd) (a_ : Awaits) (h : Kept K a s) :
    Kept K a (track p e r a_ s) := by
  unfold track
  try dsimp only
  repeat' (first
    | with_reducible assumption
    | with_reducible apply onEng_kept)

theorem runOp_kept {K : Keystone → Keystone → Prop} {a s : State} (p : Nat) (e : Nat) (op : Nat) (faults : State → RunCmd → List Nat) (f : RunCmd → State → State) (hf : ∀ y0 y1, Kept K a y1 → Kept K a (f y0 y1)) (h : Kept K a s) :
    Kept K a (runOp p e op faults f s) := by
  unfold runOp
  try dsimp only
  repeat' (first
    | with_reducible assumption
    | with_reducible apply malformed_kept
    | with_reducible apply hf
    | split)

theorem clearGood_kept {K : Keystone → Keystone → Prop} {a s : State} (span : Nat) (slot : Nat) (h : Kept K a s) :
    Kept K a (clearGood span slot s) := by
  unfold clearGood
  try dsimp only
  repeat' (first
    | with_reducible assumption
    | with_reducible apply wf_kept)

theorem spendSpare_kept {K : Keystone → Keystone → Prop} {a s : State} (span : Nat) (h : Kept K a s) :
    Kept K a (spendSpare span s) := by
  unfold spendSpare
  try dsimp only
  repeat' (first
    | with_reducible assumption
    | with_reducible apply wf_kept)

theorem onSnt_kept {K : Keystone → Keystone → Prop} {a s : State} (f : Sentinel → Sentinel) (h : Kept K a s) :
    Kept K a (onSnt f s) := by
  unfold onSnt
  try dsimp only
  repeat' (first
    | with_reducible assumption
    | (show KeptF _ a _ _ _ _ _ _ _ _ _; dsimp only; with_reducible apply Kept.of))

theorem addRetire_kept {K : Keystone → Keystone → Prop} {a s : State} (r : Retire) (h : Kept K a s) :
    Kept K a (addRetire r s) := by
  unfold addRetire
  try dsimp only
  repeat' (first
    | with_reducible assumption
    | with_reducible apply onSnt_kept
    | split)

theorem writeRetire_kept {K : Keystone → Keystone → Prop} {a s : State} (p : GPort) (w : Word) (h : Kept K a s) :
    Kept K a (writeRetire p w s).1 := by
  unfold writeRetire
  try dsimp only
  repeat' (first
    | with_reducible assumption
    | with_reducible apply klDenied_kept
    | with_reducible apply addRetire_kept
    | with_reducible apply wr_kept
    | split)

theorem execRetireRequest_kept {K : Keystone → Keystone → Prop} {a s : State} (hK : KsWaits K) (p : GPort) (kind : Fin 4) (span : SpanNo) (pier : Fin 16) (g : GirdNo) (r : Fin 16) (h : Kept K a s) :
    KeptOut K a (execRetireRequest p kind span pier g r s) := by
  unfold execRetireRequest
  try dsimp only
  repeat' (first
    | with_reducible assumption
    | with_reducible apply wrRow_kept
    | with_reducible apply writeRetire_kept
    | intro _
    | with_reducible apply KeptOut.next)

theorem retired_kept {K : Keystone → Keystone → Prop} {a s : State} (unit : Nat) (entry : Nat) (h : Kept K a s) :
    Kept K a (retired unit entry s) := by
  unfold retired
  try dsimp only
  repeat' (first
    | with_reducible assumption
    | with_reducible apply raiseEvent_kept)

theorem retirePier_kept {K : Keystone → Keystone → Prop} {a s : State} (p : Nat) (r : Retire) (h : Kept K a s) :
    Kept K a (retirePier p r s) := by
  unfold retirePier
  try dsimp only
  repeat' (first
    | with_reducible assumption
    | with_reducible apply raiseFault_kept
    | with_reducible apply onSnt_kept
    | split)

theorem moveMaps_kept {K : Keystone → Keystone → Prop} {a s : State} (p : Nat) (t : Nat) (h : Kept K a s) :
    Kept K a (moveMaps p t s) := by
  unfold moveMaps
  try dsimp only
  repeat' (first
    | with_reducible assumption
    | with_reducible apply spendSpare_kept
    | with_reducible apply clearGood_kept
    | with_reducible apply wn_kept)

theorem carryOut_kept {K : Keystone → Keystone → Prop} {a s : State} (r : Retire) (h : Kept K a s) :
    Kept K a (carryOut s r) := by
  unfold carryOut
  try dsimp only
  repeat' (first
    | with_reducible assumption
    | with_reducible apply spendSpare_kept
    | with_reducible apply clearGood_kept
    | with_reducible apply onSnt_kept
    | with_reducible apply retirePier_kept
    | split)

theorem carryOutRetires_kept {K : Keystone → Keystone → Prop} {a s : State} (h : Kept K a s) :
    Kept K a (carryOutRetires s) := by
  unfold carryOutRetires
  try dsimp only
  repeat' (first
    | with_reducible assumption
    | with_reducible apply carryOut_kept
    | with_reducible apply onSnt_kept
    | with_reducible apply Kept.foldl)

theorem execPierCopyEnd_kept {K : Keystone → Keystone → Prop} {a s : State} (p : PierNo) (h : Kept K a s) :
    KeptOut K a (execPierCopyEnd p s) := by
  unfold execPierCopyEnd
  try dsimp only
  repeat' (first
    | with_reducible assumption
    | with_reducible apply retired_kept
    | with_reducible apply onSnt_kept
    | with_reducible apply moveMaps_kept
    | with_reducible apply KeptOut.next
    | split)

theorem execRivetRetireApply_kept {K : Keystone → Keystone → Prop} {a s : State} (p : PierNo) (g : GirdNo) (h : Kept K a s) :
    KeptOut K a (execRivetRetireApply p g s) := by
  unfold execRivetRetireApply
  try dsimp only
  repeat' (first
    | with_reducible assumption
    | with_reducible apply onSnt_kept
    | with_reducible apply retired_kept
    | with_reducible apply wf_kept
    | with_reducible apply KeptOut.next
    | split)

theorem sntFault_kept {K : Keystone → Keystone → Prop} {a s : State} (unit : Nat) (cls : FaultClass) (sub : Nat) (detail : Nat) (h : Kept K a s) :
    Kept K a (sntFault unit cls sub detail s) := by
  unfold sntFault
  try dsimp only
  repeat' (first
    | with_reducible assumption
    | with_reducible apply raiseFault_kept
    | with_reducible apply wf_kept)

theorem listCure_kept {K : Keystone → Keystone → Prop} {a s : State} (r : Retire) (h : Kept K a s) :
    Kept K a (listCure r s) := by
  unfold listCure
  try dsimp only
  repeat' (first
    | with_reducible assumption
    | with_reducible apply addRetire_kept
    | split)

theorem girderFail_kept {K : Keystone → Keystone → Prop} {a s : State} (span : Nat) (slot : Nat) (g : Nat) (pos : Option Nat) (vec : Nat) (h : Kept K a s) :
    Kept K a (girderFail span slot g pos vec s) := by
  unfold girderFail
  try dsimp only
  repeat' (first
    | with_reducible assumption
    | with_reducible apply listCure_kept
    | with_reducible apply sntFault_kept
    | with_reducible apply onSnt_kept
    | split)

theorem sentinelFail_kept {K : Keystone → Keystone → Prop} {a s : State} (u : TestUnit) (pos : Option Nat) (vec : Nat) (h : Kept K a s) :
    Kept K a (sentinelFail u pos vec s) := by
  unfold sentinelFail
  try dsimp only
  repeat' (first
    | with_reducible assumption
    | with_reducible apply girderFail_kept
    | with_reducible apply sntFault_kept
    | split)

theorem rivetMismatch_kept {K : Keystone → Keystone → Prop} {a s : State} (p : Nat) (g : Nat) (r : Nat) (h : Kept K a s) :
    Kept K a (rivetMismatch p g r s) := by
  unfold rivetMismatch
  try dsimp only
  repeat' (first
    | with_reducible assumption
    | with_reducible apply onSnt_kept
    | with_reducible apply bump_kept
    | with_reducible apply sentinelFail_kept
    | with_reducible apply tookFree_kept
    | split)

theorem passVector_kept {K : Keystone → Keystone → Prop} {a s : State} (d : Nat) (h : Kept K a s) :
    Kept K a (passVector d s) := by
  unfold passVector
  try dsimp only
  repeat' (first
    | with_reducible assumption
    | with_reducible apply onSnt_kept
    | split)

theorem endPass_kept {K : Keystone → Keystone → Prop} {a s : State} (h : Kept K a s) :
    Kept K a (endPass s) := by
  unfold endPass
  try dsimp only
  repeat' (first
    | with_reducible assumption
    | with_reducible apply onSnt_kept
    | with_reducible apply wf_kept
    | split)

theorem chargeVector_kept {K : Keystone → Keystone → Prop} {a s : State} (d : Nat) (h : Kept K a s) :
    Kept K a (chargeVector d s) := by
  unfold chargeVector
  try dsimp only
  repeat' (first
    | with_reducible assumption
    | with_reducible apply onSnt_kept
    | with_reducible apply tstCharge_kept
    | split)

theorem execSentinelVector_kept {K : Keystone → Keystone → Prop} {a s : State} (d : Fin 88) (r : VecResult) (h : Kept K a s) :
    KeptOut K a (execSentinelVector d r s) := by
  unfold execSentinelVector
  try dsimp only
  repeat' (first
    | with_reducible assumption
    | with_reducible apply onSnt_kept
    | with_reducible apply passVector_kept
    | with_reducible apply chargeVector_kept
    | with_reducible apply endPass_kept
    | with_reducible apply KeptOut.next
    | split)

theorem execSentinelRetest_kept {K : Keystone → Keystone → Prop} {a s : State} (d : Fin 88) (r : VecResult) (h : Kept K a s) :
    KeptOut K a (execSentinelRetest d r s) := by
  unfold execSentinelRetest
  try dsimp only
  repeat' (first
    | with_reducible assumption
    | with_reducible apply onSnt_kept
    | with_reducible apply chargeVector_kept
    | with_reducible apply sentinelFail_kept
    | with_reducible apply wf_kept
    | with_reducible apply KeptOut.next
    | split)

theorem execKick_kept {K : Keystone → Keystone → Prop} {a s : State} (h : Kept K a s) :
    KeptOut K a (execKick s) := by
  unfold execKick
  try dsimp only
  repeat' (first
    | with_reducible assumption
    | with_reducible apply wf_kept
    | with_reducible apply KeptOut.next
    | split)

theorem execFwWatchdog_kept {K : Keystone → Keystone → Prop} {a s : State} (h : Kept K a s) :
    KeptOut K a (execFwWatchdog s) := by
  unfold execFwWatchdog
  try dsimp only
  repeat' (first
    | with_reducible assumption
    | with_reducible apply raiseFault_kept
    | with_reducible apply KeptOut.next
    | split
    | (show KeptF _ a _ _ _ _ _ _ _ _ _; dsimp only; with_reducible apply Kept.of))

theorem resumeCtx_kept {K : Keystone → Keystone → Prop} {a s : State} (x : Nat) (h : Kept K a s) :
    Kept K a (resumeCtx x s) := by
  unfold resumeCtx
  try dsimp only
  repeat' (first
    | with_reducible assumption
    | with_reducible apply wf_kept)

theorem execCtxResume_kept {K : Keystone → Keystone → Prop} {a s : State} (hK : KsWaits K) (p : GPort) (x : CtxNo) (h : Kept K a s) :
    KeptOut K a (execCtxResume p x s) := by
  unfold execCtxResume
  try dsimp only
  repeat' (first
    | with_reducible assumption
    | with_reducible apply wrRow_kept
    | with_reducible apply resumeCtx_kept
    | intro _
    | with_reducible apply KeptOut.next)

theorem nanProduced_kept {K : Keystone → Keystone → Prop} {a s : State} (n : NanAt) (h : Kept K a s) :
    Kept K a (nanProduced n s) := by
  unfold nanProduced
  try dsimp only
  repeat' (first
    | with_reducible assumption
    | with_reducible apply bump_kept
    | with_reducible apply wn_kept
    | with_reducible apply raiseEvent_kept
    | with_reducible apply raiseFault_kept
    | split)

theorem nansProduced_kept {K : Keystone → Keystone → Prop} {a s : State} (ns : List NanAt) (h : Kept K a s) :
    Kept K a (nansProduced ns s) := by
  unfold nansProduced
  try dsimp only
  repeat' (first
    | with_reducible assumption
    | with_reducible apply nanProduced_kept
    | with_reducible apply Kept.foldl)

theorem nanClear_kept {K : Keystone → Keystone → Prop} {a s : State} (x : Nat) (h : Kept K a s) :
    Kept K a (nanClear x s) := by
  unfold nanClear
  try dsimp only
  repeat' (first
    | with_reducible assumption
    | with_reducible apply wn_kept
    | intro _
    | with_reducible apply Kept.foldl)

theorem execNanClear_kept {K : Keystone → Keystone → Prop} {a s : State} (x : CtxNo) (h : Kept K a s) :
    KeptOut K a (execNanClear x s) := by
  unfold execNanClear
  try dsimp only
  repeat' (first
    | with_reducible assumption
    | with_reducible apply nanClear_kept
    | with_reducible apply KeptOut.next)

theorem placeHeld_kept {K : Keystone → Keystone → Prop} {a s : State} (src : Nat) (chan : Nat) (b : List Byte) (split : Nat × Nat) (dst : Nat) (dl : Bool) (pier : Nat) (group : optParam Nat 0) (h : Kept K a s) :
    Kept K a (placeHeld src chan b split dst dl pier s group) := by
  unfold placeHeld
  try dsimp only
  repeat' (first
    | with_reducible assumption
    | with_reducible apply onFab_kept)

theorem freeArrived_kept {K : Keystone → Keystone → Prop} {a s : State} (src : Nat) (b : List Byte) (h : Kept K a s) :
    Kept K a (freeArrived src b s) := by
  unfold freeArrived
  try dsimp only
  repeat' (first
    | with_reducible assumption
    | with_reducible apply onFab_kept
    | split)

theorem routeErr_kept {K : Keystone → Keystone → Prop} {a s : State} (b : List Byte) (ev : Bool) (h : Kept K a s) :
    Kept K a (routeErr b ev s) := by
  unfold routeErr
  try dsimp only
  repeat' (first
    | with_reducible assumption
    | with_reducible apply bump_kept
    | with_reducible apply raiseEvent_kept
    | with_reducible apply onFab_kept
    | split)

theorem evictNotice_kept {K : Keystone → Keystone → Prop} {a s : State} (n : Nat) (v : List Byte) (h : Kept K a s) :
    Kept K a (evictNotice n v s) := by
  unfold evictNotice
  try dsimp only
  repeat' (first
    | with_reducible assumption
    | with_reducible apply bump_kept
    | with_reducible apply placeHeld_kept
    | with_reducible apply onFab_kept
    | with_reducible apply routeErr_kept
    | split)

theorem evict_kept {K : Keystone → Keystone → Prop} {a s : State} (h_ : Held) (h : Kept K a s) :
    Kept K a (evict h_ s) := by
  unfold evict
  try dsimp only
  repeat' (first
    | with_reducible assumption
    | with_reducible apply onFab_kept
    | with_reducible apply bump_kept
    | with_reducible apply evictNotice_kept
    | split)

theorem makeRoom_kept {K : Keystone → Keystone → Prop} {a s : State} (r : Nat) (n : Nat) (z2 : Nat) (h : Kept K a s) :
    Kept K a (makeRoom r n z2 s) := by
  revert h
  fun_induction makeRoom r n z2 s <;> intro h
  all_goals try dsimp only
  repeat' (first
    | with_reducible assumption
    | with_reducible refine (show Kept _ a _ → Kept _ a _ by with_reducible assumption) ?_
    | with_reducible apply evict_kept
    | intro _
    | with_reducible apply Kept.foldl
    | with_reducible apply Kept.foldl2
    | with_reducible apply Kept.foldl1
    | with_reducible apply Kept.foldl22
    | with_reducible apply Kept.foldlW
    | with_reducible apply KeptOut.next
    | with_reducible apply KeptOpt.some
    | with_reducible exact KeptOpt.none
    | split
    | with_reducible refine Kept.snd (by with_reducible assumption) ?_
    | with_reducible refine Kept.fst (by with_reducible assumption) ?_
    | with_reducible refine Kept.snd2 (by with_reducible assumption) ?_
    | with_reducible refine Kept.snd1 (by with_reducible assumption) ?_
    | with_reducible refine Kept.opt (by with_reducible assumption) ?_
    | (show KeptF _ a _ _ _ _ _ _ _ _ _; dsimp only; with_reducible apply Kept.of)
    | dsimp only)

theorem cannotPlace_kept {K : Keystone → Keystone → Prop} {a s : State} (src : Nat) (chan : Nat) (b : List Byte) (h : Kept K a s) :
    Kept K a (cannotPlace src chan b s) := by
  unfold cannotPlace
  try dsimp only
  repeat' (first
    | with_reducible assumption
    | with_reducible apply freeArrived_kept
    | with_reducible apply bump_kept
    | with_reducible apply evictNotice_kept
    | with_reducible apply raiseEvent_kept
    | split)

theorem placeArrival_kept {K : Keystone → Keystone → Prop} {a s : State} (src : Nat) (b : List Byte) (dst : Nat) (dl : Bool) (pier : Nat) (h : Kept K a s) :
    Kept K a (placeArrival src b dst dl pier s) := by
  unfold placeArrival
  try dsimp only
  repeat' (first
    | with_reducible assumption
    | with_reducible apply cannotPlace_kept
    | with_reducible apply placeHeld_kept
    | with_reducible apply makeRoom_kept
    | split)

theorem ssCopyTo_kept {K : Keystone → Keystone → Prop} {a s : State} (j : Nat) (slot : Nat) (dir : Nat) (b : List Byte) (h : Kept K a s) :
    Kept K a (ssCopyTo j slot dir b s) := by
  unfold ssCopyTo
  try dsimp only
  repeat' (first
    | with_reducible assumption
    | with_reducible apply onFab_kept
    | with_reducible apply bump_kept
    | split)

theorem ssMeet_kept {K : Keystone → Keystone → Prop} {a s : State} (j : Nat) (slot : Nat) (dir : Nat) (b : List Byte) (h : Kept K a s) :
    Kept K a (ssMeet j slot dir b s) := by
  unfold ssMeet
  try dsimp only
  repeat' (first
    | with_reducible assumption
    | with_reducible apply onFab_kept
    | with_reducible apply ssCopyTo_kept
    | split)

theorem sideshow_kept {K : Keystone → Keystone → Prop} {a s : State} (slot : Nat) (dir : Nat) (b : List Byte) (h : Kept K a s) :
    Kept K a (sideshow slot dir b s) := by
  unfold sideshow
  try dsimp only
  repeat' (first
    | with_reducible assumption
    | with_reducible apply ssMeet_kept
    | intro _
    | with_reducible apply Kept.foldl
    | split)

theorem staleEpoch_kept {K : Keystone → Keystone → Prop} {a s : State} (b : List Byte) (h : Kept K a s) :
    Kept K a (staleEpoch b s) := by
  unfold staleEpoch
  try dsimp only
  repeat' (first
    | with_reducible assumption
    | with_reducible apply bump_kept
    | with_reducible apply raiseEvent_kept
    | with_reducible apply onFab_kept
    | split)

theorem onVerdict_kept {K : Keystone → Keystone → Prop} {a s : State} (src : Nat) (b : List Byte) (v : Verdict) (h : Kept K a s) :
    Kept K a (onVerdict src b v s) := by
  unfold onVerdict
  try dsimp only
  repeat' (first
    | with_reducible assumption
    | with_reducible apply routeErr_kept
    | with_reducible apply freeArrived_kept
    | with_reducible apply bump_kept
    | with_reducible apply placeArrival_kept
    | with_reducible apply onFab_kept
    | split)

theorem arriveExternal_kept {K : Keystone → Keystone → Prop} {a s : State} (k : Nat) (b : List Byte) (sram : Bool) (h : Kept K a s) :
    Kept K a (arriveExternal k b sram s) := by
  unfold arriveExternal
  try dsimp only
  repeat' (first
    | with_reducible assumption
    | with_reducible apply routeErr_kept
    | with_reducible apply freeArrived_kept
    | with_reducible apply sideshow_kept
    | with_reducible apply staleEpoch_kept
    | with_reducible apply bump_kept
    | with_reducible apply onVerdict_kept
    | with_reducible apply countUe_kept
    | split)

theorem takeCredit_kept {K : Keystone → Keystone → Prop} {a s : State} (k : Nat) (b : List Byte) (h : Kept K a s) :
    Kept K a (takeCredit k b s) := by
  unfold takeCredit
  try dsimp only
  repeat' (first
    | with_reducible assumption
    | with_reducible apply onFab_kept
    | intro _
    | with_reducible apply Kept.foldl
    | split)

theorem ownVerdict_kept {K : Keystone → Keystone → Prop} {a s : State} (k : Nat) (i : Inject) (h : Kept K a s) :
    Kept K a (ownVerdict k i s) := by
  unfold ownVerdict
  try dsimp only
  repeat' (first
    | with_reducible assumption
    | with_reducible apply placeHeld_kept
    | with_reducible apply onVerdict_kept
    | split)

theorem arriveOwn_kept {K : Keystone → Keystone → Prop} {a s : State} (k : Nat) (sram : Bool) (h : Kept K a s) :
    Kept K a (arriveOwn k sram s) := by
  unfold arriveOwn
  try dsimp only
  repeat' (first
    | with_reducible assumption
    | with_reducible apply onFab_kept
    | with_reducible apply sideshow_kept
    | with_reducible apply bump_kept
    | with_reducible apply ownVerdict_kept
    | intro _
    | with_reducible apply Kept.foldl
    | split)

theorem execPacketArrive_kept {K : Keystone → Keystone → Prop} {a s : State} (k : Fin 608) (bytes : List Byte) (unc : List LaneNo) (sram : Bool) (h : Kept K a s) :
    KeptOut K a (execPacketArrive k bytes unc sram s) := by
  unfold execPacketArrive
  try dsimp only
  repeat' (first
    | with_reducible assumption
    | with_reducible apply arriveOwn_kept
    | with_reducible apply bump_kept
    | with_reducible apply freeArrived_kept
    | with_reducible apply takeCredit_kept
    | with_reducible apply arriveExternal_kept
    | intro _
    | with_reducible apply Kept.foldl
    | with_reducible apply KeptOut.next
    | split)

theorem execCredit_kept {K : Keystone → Keystone → Prop} {a s : State} (k : SlotNo) (bytes : List Byte) (h : Kept K a s) :
    KeptOut K a (execCredit k bytes s) := by
  unfold execCredit
  try dsimp only
  repeat' (first
    | with_reducible assumption
    | with_reducible apply bump_kept
    | with_reducible apply takeCredit_kept
    | with_reducible apply KeptOut.next
    | split)

theorem execLinkPacketSend_kept {K : Keystone → Keystone → Prop} {a s : State} (k : SlotNo) (h : Kept K a s) :
    KeptOut K a (execLinkPacketSend k s) := by
  unfold execLinkPacketSend
  try dsimp only
  repeat' (first
    | with_reducible assumption
    | with_reducible apply sendLane_kept
    | with_reducible apply KeptOut.next
    | split)

theorem onNet_kept {K : Keystone → Keystone → Prop} {a s : State} (f : Net → Net) (h : Kept K a s) :
    Kept K a (onNet f s) := by
  unfold onNet
  try dsimp only
  repeat' (first
    | with_reducible assumption
    | (show KeptF _ a _ _ _ _ _ _ _ _ _; dsimp only; with_reducible apply Kept.of))

theorem putOp_kept {K : Keystone → Keystone → Prop} {a s : State} (o : RseOp) (h : Kept K a s) :
    Kept K a (putOp o s) := by
  unfold putOp
  try dsimp only
  repeat' (first
    | with_reducible assumption
    | with_reducible apply onNet_kept)

theorem dropOp_kept {K : Keystone → Keystone → Prop} {a s : State} (n : Nat) (t : Nat) (c : Nat) (h : Kept K a s) :
    Kept K a (dropOp n t c s) := by
  unfold dropOp
  try dsimp only
  repeat' (first
    | with_reducible assumption
    | with_reducible apply onNet_kept)

theorem sendEdge_kept {K : Keystone → Keystone → Prop} {a s : State} (n : Nat) (t : Tree) (cseq : Nat) (pos : Nat) (x : Edge) (cls : Nat) (flags : Nat) (payload : List Byte) (group : optParam Nat 0) (h : Kept K a s) :
    Kept K a (sendEdge n t cseq pos x cls flags payload s group) := by
  unfold sendEdge
  try dsimp only
  repeat' (first
    | with_reducible assumption
    | with_reducible apply streamSend_kept
    | split)

theorem sendUp_kept {K : Keystone → Keystone → Prop} {a s : State} (n : Nat) (t : Tree) (cseq : Nat) (pos : Nat) (flags : Nat) (payload : List Byte) (h : Kept K a s) :
    Kept K a (sendUp n t cseq pos flags payload s) := by
  unfold sendUp
  try dsimp only
  repeat' (first
    | with_reducible assumption
    | with_reducible apply sendEdge_kept)

theorem copyDown_kept {K : Keystone → Keystone → Prop} {a s : State} (n : Nat) (t : Tree) (cseq : Nat) (pos : Nat) (v : Nat) (flags : Nat) (group : Nat) (payload : List Byte) (x : Edge) (h : Kept K a s) :
    Kept K a (copyDown n t cseq pos v flags group payload x s) := by
  unfold copyDown
  try dsimp only
  repeat' (first
    | with_reducible assumption
    | with_reducible apply bump_kept
    | with_reducible apply sendEdge_kept
    | split)

theorem sendDown_kept {K : Keystone → Keystone → Prop} {a s : State} (v : Nat) (n : Nat) (t : Tree) (cseq : Nat) (pos : Nat) (flags : Nat) (need : Nat → Bool) (payload : List Byte) (h : Kept K a s) :
    Kept K a (sendDown v n t cseq pos flags need payload s) := by
  unfold sendDown
  try dsimp only
  repeat' (first
    | with_reducible assumption
    | with_reducible apply onFab_kept
    | with_reducible apply copyDown_kept
    | intro _
    | with_reducible apply Kept.foldl
    | split)

theorem rseFault_kept {K : Keystone → Keystone → Prop} {a s : State} (o : RseOp) (code : Nat) (detail : Nat) (h : Kept K a s) :
    Kept K a (rseFault o code detail s) := by
  unfold rseFault
  try dsimp only
  repeat' (first
    | with_reducible assumption
    | with_reducible apply raiseFault_kept)

theorem rseMalformed_kept {K : Keystone → Keystone → Prop} {a s : State} (o : RseOp) (h : Kept K a s) :
    Kept K a (rseMalformed o s) := by
  unfold rseMalformed
  try dsimp only
  repeat' (first
    | with_reducible assumption
    | with_reducible apply rseFault_kept
    | with_reducible apply putOp_kept)

theorem meetAnchor_kept {K : Keystone → Keystone → Prop} {a s : State} (a_ : Int) (elem : Nat) (o : RseOp) (h : Kept K a s) :
    Kept K a (meetAnchor a_ elem o s).2 := by
  unfold meetAnchor
  try dsimp only
  repeat' (first
    | with_reducible assumption
    | with_reducible apply bump_kept
    | with_reducible apply nanProduced_kept
    | with_reducible apply rseFault_kept
    | split)

theorem countBlock_kept {K : Keystone → Keystone → Prop} {a s : State} (n : Nat) (code : Nat) (h : Kept K a s) :
    Kept K a (countBlock n code s) := by
  unfold countBlock
  try dsimp only
  repeat' (first
    | with_reducible assumption
    | with_reducible apply bump_kept)

theorem anchoredPayload_kept {K : Keystone → Keystone → Prop} {a s : State} (form : Nat) (o : RseOp) (b : RBlock) (xs : List Anch) (h : Kept K a s) :
    Kept K a (anchoredPayload form o b xs s).2 := by
  unfold anchoredPayload
  try dsimp only
  repeat' (first
    | with_reducible assumption
    | with_reducible apply countBlock_kept)

theorem countChanged_kept {K : Keystone → Keystone → Prop} {a s : State} (o : RseOp) (b : RBlock) (h : Kept K a s) :
    Kept K a (countChanged o b s) := by
  unfold countChanged
  try dsimp only
  repeat' (first
    | with_reducible assumption
    | with_reducible apply bump_kept
    | split)

theorem sendResult_kept {K : Keystone → Keystone → Prop} {a s : State} (o : RseOp) (t : Tree) (pos : Nat) (b : RBlock) (ps : List Nat) (h : Kept K a s) :
    Kept K a (sendResult o t pos b ps s) := by
  unfold sendResult
  try dsimp only
  repeat' (first
    | with_reducible assumption
    | with_reducible apply sendDown_kept
    | with_reducible apply countChanged_kept)

theorem settleOp_kept {K : Keystone → Keystone → Prop} {a s : State} (t : Tree) (pos : Nat) (o : RseOp) (h : Kept K a s) :
    Kept K a (settleOp t pos o s) := by
  unfold settleOp
  try dsimp only
  repeat' (first
    | with_reducible assumption
    | with_reducible apply dropOp_kept
    | with_reducible apply putOp_kept
    | split)

theorem blockSent_kept {K : Keystone → Keystone → Prop} {a s : State} (t : Tree) (pos : Nat) (blk : Nat) (o : RseOp) (h : Kept K a s) :
    Kept K a (blockSent t pos blk o s) := by
  unfold blockSent
  try dsimp only
  repeat' (first
    | with_reducible assumption
    | with_reducible apply settleOp_kept)

theorem scanDown_kept {K : Keystone → Keystone → Prop} {a s : State} (t : Tree) (pos : Nat) (off : List Anch) (b : RBlock) (o : RseOp) (h : Kept K a s) :
    Kept K a (scanDown t pos off b o s) := by
  unfold scanDown
  try dsimp only
  repeat' (first
    | with_reducible assumption
    | with_reducible apply sendEdge_kept
    | with_reducible apply countChanged_kept
    | with_reducible apply nansProduced_kept
    | with_reducible apply anchoredPayload_kept
    | with_reducible apply blockSent_kept
    | intro _
    | with_reducible apply Kept.foldl
    | split)

theorem sumDone_kept {K : Keystone → Keystone → Prop} {a s : State} (t : Tree) (pos : Nat) (b : RBlock) (o : RseOp) (h : Kept K a s) :
    Kept K a (sumDone t pos b o s) := by
  unfold sumDone
  try dsimp only
  repeat' (first
    | with_reducible assumption
    | with_reducible apply scanDown_kept
    | with_reducible apply blockSent_kept
    | with_reducible apply sendResult_kept
    | with_reducible apply nansProduced_kept
    | with_reducible apply anchoredPayload_kept
    | with_reducible apply sendUp_kept
    | with_reducible apply putOp_kept
    | split)

theorem maxMinDone_kept {K : Keystone → Keystone → Prop} {a s : State} (t : Tree) (pos : Nat) (b : RBlock) (o : RseOp) (h : Kept K a s) :
    Kept K a (maxMinDone t pos b o s) := by
  unfold maxMinDone
  try dsimp only
  repeat' (first
    | with_reducible assumption
    | with_reducible apply blockSent_kept
    | with_reducible apply sendResult_kept
    | with_reducible apply nansProduced_kept
    | with_reducible apply maxMinWords_kept
    | with_reducible apply sendUp_kept
    | split)

theorem fastDone_kept {K : Keystone → Keystone → Prop} {a s : State} (t : Tree) (pos : Nat) (b : RBlock) (o : RseOp) (h : Kept K a s) :
    Kept K a (fastDone t pos b o s) := by
  unfold fastDone
  try dsimp only
  repeat' (first
    | with_reducible assumption
    | with_reducible apply nansProduced_kept
    | with_reducible apply blockSent_kept
    | with_reducible apply sendResult_kept
    | with_reducible apply sendUp_kept
    | intro _
    | with_reducible apply Kept.foldl
    | split)

theorem advanceBlock_kept {K : Keystone → Keystone → Prop} {a s : State} (t : Tree) (pos : Nat) (n : Nat) (c : Nat) (blk : Nat) (h : Kept K a s) :
    Kept K a (advanceBlock t pos n c blk s) := by
  unfold advanceBlock
  try dsimp only
  repeat' (first
    | with_reducible assumption
    | with_reducible apply fastDone_kept
    | with_reducible apply maxMinDone_kept
    | with_reducible apply sumDone_kept
    | split)

theorem advanceExp_kept {K : Keystone → Keystone → Prop} {a s : State} (t : Tree) (pos : Nat) (n : Nat) (c : Nat) (ab : Nat) (h : Kept K a s) :
    Kept K a (advanceExp t pos n c ab s) := by
  unfold advanceExp
  try dsimp only
  repeat' (first
    | with_reducible assumption
    | with_reducible apply sendDown_kept
    | with_reducible apply putOp_kept
    | with_reducible apply sendUp_kept
    | split)

theorem advanceOp_kept {K : Keystone → Keystone → Prop} {a s : State} (t : Tree) (o : RseOp) (h : Kept K a s) :
    Kept K a (advanceOp t o s) := by
  unfold advanceOp
  try dsimp only
  repeat' (first
    | with_reducible assumption
    | with_reducible apply advanceExp_kept
    | with_reducible apply advanceBlock_kept
    | intro _
    | with_reducible apply Kept.foldl)

theorem advanceAll_kept {K : Keystone → Keystone → Prop} {a s : State} (h : Kept K a s) :
    Kept K a (advanceAll s) := by
  unfold advanceAll
  try dsimp only
  repeat' (first
    | with_reducible assumption
    | with_reducible apply advanceOp_kept
    | intro _
    | with_reducible apply Kept.foldl
    | split)

end Sys2Proof.Machine
end

