-- ==== Sys2Proof/Laws/KeptThree.lean ====
section
/-! SUPPORT. What operations keep, continued: one lemma for each operation, in the order of the model's files. -/

namespace Sys2Proof.Machine
open Sys2Proof

theorem ctrlOnEdge_kept {K : Keystone → Keystone → Prop} {a s : State} (t : Tree) (x : Edge) (op : Nat) (cseq : Nat) (record : List Byte) (h : Kept K a s) :
    Kept K a (ctrlOnEdge t x op cseq record s) := by
  unfold ctrlOnEdge
  try dsimp only
  repeat' (first
    | with_reducible assumption
    | with_reducible apply inject_kept
    | split)

theorem hintOnTree_kept {K : Keystone → Keystone → Prop} {a s : State} (t : Tree) (cseq : Nat) (p : Edge → Bool) (record : List Byte) (h : Kept K a s) :
    Kept K a (hintOnTree t cseq p record s) := by
  unfold hintOnTree
  try dsimp only
  repeat' (first
    | with_reducible assumption
    | with_reducible apply ctrlOnEdge_kept
    | intro _
    | with_reducible apply Kept.foldl)

theorem slowHints_kept {K : Keystone → Keystone → Prop} {a s : State} (cause : Nat) (h : Kept K a s) :
    Kept K a (slowHints cause s) := by
  unfold slowHints
  try dsimp only
  repeat' (first
    | with_reducible assumption
    | with_reducible apply hintOnTree_kept
    | with_reducible apply tookFree_kept
    | intro _
    | with_reducible apply Kept.foldl
    | split)

theorem useHint_kept {K : Keystone → Keystone → Prop} {a s : State} (record : List Byte) (h : Kept K a s) :
    Kept K a (useHint record s) := by
  unfold useHint
  try dsimp only
  repeat' (first
    | with_reducible assumption
    | with_reducible apply applyHint_kept
    | split)

theorem takeHint_kept {K : Keystone → Keystone → Prop} {a s : State} (a_ : Arrived) (h : Kept K a s) :
    Kept K a (takeHint a_ s) := by
  unfold takeHint
  try dsimp only
  repeat' (first
    | with_reducible assumption
    | with_reducible apply takeArrived_kept
    | with_reducible apply bump_kept
    | with_reducible apply routeErr_kept
    | with_reducible apply hintOnTree_kept
    | with_reducible apply useHint_kept
    | with_reducible apply raiseEvent_kept
    | split)

theorem execHint_kept {K : Keystone → Keystone → Prop} {a s : State} (u : Fin 129) (h : Kept K a s) :
    KeptOut K a (execHint u s) := by
  unfold execHint
  try dsimp only
  repeat' (first
    | with_reducible assumption
    | with_reducible apply takeHint_kept
    | with_reducible apply takeArrived_kept
    | with_reducible apply KeptOut.next
    | split)

theorem sendHint_kept {K : Keystone → Keystone → Prop} {a s : State} (h : Kept K a s) :
    Kept K a (sendHint s) := by
  unfold sendHint
  try dsimp only
  repeat' (first
    | with_reducible assumption
    | with_reducible apply hintOnTree_kept
    | with_reducible apply applyHint_kept
    | split)

theorem writePwrCtrl_kept {K : Keystone → Keystone → Prop} {a s : State} (p : GPort) (w : Word) (h : Kept K a s) :
    Kept K a (writePwrCtrl p w s).1 := by
  unfold writePwrCtrl
  try dsimp only
  repeat' (first
    | with_reducible assumption
    | with_reducible apply klDenied_kept
    | with_reducible apply clearCons_kept
    | with_reducible apply sendHint_kept
    | with_reducible apply wn_kept
    | split)

theorem execSendHint_kept {K : Keystone → Keystone → Prop} {a s : State} (hK : KsWaits K) (p : GPort) (h : Kept K a s) :
    KeptOut K a (execSendHint p s) := by
  unfold execSendHint
  try dsimp only
  repeat' (first
    | with_reducible assumption
    | with_reducible apply wrRow_kept
    | with_reducible apply writePwrCtrl_kept
    | intro _
    | with_reducible apply KeptOut.next)

theorem onMem_kept {K : Keystone → Keystone → Prop} {a s : State} (f : Mem → Mem) (h : Kept K a s) :
    Kept K a (onMem f s) := by
  unfold onMem
  try dsimp only
  repeat' (first
    | with_reducible assumption
    | (show KeptF _ a _ _ _ _ _ _ _ _ _; dsimp only; with_reducible apply Kept.of))

theorem countExtent_kept {K : Keystone → Keystone → Prop} {a s : State} (st : Nat) (sl : Nat) (h : Kept K a s) :
    Kept K a (countExtent st sl s) := by
  unfold countExtent
  try dsimp only
  repeat' (first
    | with_reducible assumption
    | with_reducible apply onMem_kept
    | with_reducible apply raiseEvent_kept
    | split)

theorem startRetrain_kept {K : Keystone → Keystone → Prop} {a s : State} (st : Nat) (c : Nat) (h : Kept K a s) :
    Kept K a (startRetrain st c s) := by
  unfold startRetrain
  try dsimp only
  repeat' (first
    | with_reducible assumption
    | with_reducible apply onMem_kept
    | with_reducible apply slowHints_kept
    | with_reducible apply wf_kept)

theorem nextRetrain_kept {K : Keystone → Keystone → Prop} {a s : State} (st : Nat) (h : Kept K a s) :
    Kept K a (nextRetrain st s) := by
  unfold nextRetrain
  try dsimp only
  repeat' (first
    | with_reducible assumption
    | with_reducible apply startRetrain_kept
    | split)

theorem dueRetrain_kept {K : Keystone → Keystone → Prop} {a s : State} (st : Nat) (c : Nat) (h : Kept K a s) :
    Kept K a (dueRetrain st c s) := by
  unfold dueRetrain
  try dsimp only
  repeat' (first
    | with_reducible assumption
    | with_reducible apply nextRetrain_kept
    | with_reducible apply onMem_kept
    | split)

theorem countChannel_kept {K : Keystone → Keystone → Prop} {a s : State} (st : Nat) (c : Nat) (h : Kept K a s) :
    Kept K a (countChannel st c s) := by
  unfold countChannel
  try dsimp only
  repeat' (first
    | with_reducible assumption
    | with_reducible apply dueRetrain_kept
    | with_reducible apply onMem_kept
    | split)

theorem corrected_kept {K : Keystone → Keystone → Prop} {a s : State} (k : Nat) (st : Nat) (sl : Nat) (a_ : Option Nat) (h : Kept K a s) :
    Kept K a (corrected k st sl a_ s) := by
  unfold corrected
  try dsimp only
  repeat' (first
    | with_reducible assumption
    | with_reducible apply bump_kept
    | with_reducible apply raiseFault_kept
    | with_reducible apply countChannel_kept
    | with_reducible apply countExtent_kept
    | split)

theorem markBad_kept {K : Keystone → Keystone → Prop} {a s : State} (st : Nat) (sl : Nat) (h : Kept K a s) :
    Kept K a (markBad st sl s) := by
  unfold markBad
  try dsimp only
  repeat' (first
    | with_reducible assumption
    | with_reducible apply onMem_kept
    | split)

theorem meetEcc_kept {K : Keystone → Keystone → Prop} {a s : State} (x : MemSeen) (a_ : Nat) (n : Nat) (h : Kept K a s) :
    Kept K a (meetEcc x a_ n s) := by
  unfold meetEcc
  try dsimp only
  repeat' (first
    | with_reducible assumption
    | with_reducible apply corrected_kept
    | with_reducible apply markBad_kept
    | split)

theorem execRefresh_kept {K : Keystone → Keystone → Prop} {a s : State} (st : SpanNo) (cycles : Nat) (h : Kept K a s) :
    KeptOut K a (execRefresh st cycles s) := by
  unfold execRefresh
  try dsimp only
  repeat' (first
    | with_reducible assumption
    | with_reducible apply tstCharge_kept
    | with_reducible apply KeptOut.next
    | split)

theorem scrubNext_kept {K : Keystone → Keystone → Prop} {a s : State} (st : Nat) (w : Nat) (h : Kept K a s) :
    Kept K a (scrubNext st w s) := by
  unfold scrubNext
  try dsimp only
  repeat' (first
    | with_reducible assumption
    | with_reducible apply onMem_kept
    | with_reducible apply wn_kept
    | split)

theorem scrubUe_kept {K : Keystone → Keystone → Prop} {a s : State} (st : Nat) (w : Nat) (h : Kept K a s) :
    Kept K a (scrubUe st w s) := by
  unfold scrubUe
  try dsimp only
  repeat' (first
    | with_reducible assumption
    | with_reducible apply markBad_kept
    | with_reducible apply countUe_kept
    | with_reducible apply wn_kept
    | with_reducible apply bump_kept
    | with_reducible apply raiseEvent_kept
    | split)

theorem scrubWord_kept {K : Keystone → Keystone → Prop} {a s : State} (st : Nat) (w : Nat) (x : MemSeen) (h : Kept K a s) :
    Kept K a (scrubWord st w x s) := by
  unfold scrubWord
  try dsimp only
  repeat' (first
    | with_reducible assumption
    | with_reducible apply corrected_kept
    | with_reducible apply scrubUe_kept
    | split)

theorem execScrub_kept {K : Keystone → Keystone → Prop} {a s : State} (st : SpanNo) (x : MemSeen) (cycles : Nat) (h : Kept K a s) :
    KeptOut K a (execScrub st x cycles s) := by
  unfold execScrub
  try dsimp only
  repeat' (first
    | with_reducible assumption
    | with_reducible apply scrubNext_kept
    | with_reducible apply scrubWord_kept
    | with_reducible apply tstCharge_kept
    | with_reducible apply KeptOut.next
    | split)

theorem execRetrainEnd_kept {K : Keystone → Keystone → Prop} {a s : State} (st : SpanNo) (ok : Bool) (cycles : Nat) (h : Kept K a s) :
    KeptOut K a (execRetrainEnd st ok cycles s) := by
  unfold execRetrainEnd
  try dsimp only
  repeat' (first
    | with_reducible assumption
    | with_reducible apply tstCharge_kept
    | with_reducible apply onMem_kept
    | with_reducible apply nextRetrain_kept
    | with_reducible apply wf_kept
    | with_reducible apply raiseEvent_kept
    | with_reducible apply KeptOut.next
    | split)

theorem enterStep_kept {K : Keystone → Keystone → Prop} {a s : State} (st : Nat) (n : Nat) (h : Kept K a s) :
    Kept K a (enterStep st n s) := by
  unfold enterStep
  try dsimp only
  repeat' (first
    | with_reducible assumption
    | with_reducible apply wf_kept
    | with_reducible apply slowHints_kept
    | with_reducible apply raiseEvent_kept
    | split)

theorem checkDrift_kept {K : Keystone → Keystone → Prop} {a s : State} (st : Nat) (t : Nat) (c : Nat) (h : Kept K a s) :
    Kept K a (checkDrift st t c s) := by
  unfold checkDrift
  try dsimp only
  repeat' (first
    | with_reducible assumption
    | with_reducible apply onMem_kept
    | with_reducible apply dueRetrain_kept
    | split)

theorem execStackTempRead_kept {K : Keystone → Keystone → Prop} {a s : State} (st : SpanNo) (t : BitVec 8) (h : Kept K a s) :
    KeptOut K a (execStackTempRead st t s) := by
  unfold execStackTempRead
  try dsimp only
  repeat' (first
    | with_reducible assumption
    | with_reducible apply onMem_kept
    | with_reducible apply wf_kept
    | with_reducible apply enterStep_kept
    | with_reducible apply checkDrift_kept
    | with_reducible apply nextRetrain_kept
    | intro _
    | with_reducible apply Kept.foldl
    | with_reducible apply KeptOut.next
    | split)

theorem execBwstepWindow_kept {K : Keystone → Keystone → Prop} {a s : State} (st : SpanNo) (h : Kept K a s) :
    KeptOut K a (execBwstepWindow st s) := by
  unfold execBwstepWindow
  try dsimp only
  repeat' (first
    | with_reducible assumption
    | with_reducible apply enterStep_kept
    | with_reducible apply onMem_kept
    | with_reducible apply slowHints_kept
    | with_reducible apply KeptOut.next
    | split)

theorem repairExtent_kept {K : Keystone → Keystone → Prop} {a s : State} (st : Nat) (pch : Nat) (ext : Nat) (h : Kept K a s) :
    Kept K a (repairExtent st pch ext s) := by
  unfold repairExtent
  try dsimp only
  repeat' (first
    | with_reducible assumption
    | with_reducible apply raiseEvent_kept
    | with_reducible apply wn_kept
    | with_reducible apply onMem_kept
    | split)

theorem cancelRepair_kept {K : Keystone → Keystone → Prop} {a s : State} (st : Nat) (h : Kept K a s) :
    Kept K a (cancelRepair st s) := by
  unfold cancelRepair
  try dsimp only
  repeat' (first
    | with_reducible assumption
    | with_reducible apply tookFree_kept
    | with_reducible apply wf_kept
    | with_reducible apply onMem_kept
    | split)

theorem writeMemCtrl_kept {K : Keystone → Keystone → Prop} {a s : State} (p : GPort) (st : Nat) (w : Word) (h : Kept K a s) :
    Kept K a (writeMemCtrl p st w s).1 := by
  unfold writeMemCtrl
  try dsimp only
  repeat' (first
    | with_reducible assumption
    | with_reducible apply klDenied_kept
    | with_reducible apply wn_kept
    | with_reducible apply dueRetrain_kept
    | with_reducible apply repairExtent_kept
    | with_reducible apply cancelRepair_kept
    | split)

theorem memCtrlRow_kept {K : Keystone → Keystone → Prop} {a s : State} (hK : KsWaits K) (p : GPort) (st : SpanNo) (op : Nat) (pch : Nat) (ext : Nat) (h : Kept K a s) :
    Kept K a (memCtrlRow p st op pch ext s) := by
  unfold memCtrlRow
  try dsimp only
  repeat' (first
    | with_reducible assumption
    | with_reducible apply wrRow_kept
    | with_reducible apply writeMemCtrl_kept
    | intro _)

theorem execRetrain_kept {K : Keystone → Keystone → Prop} {a s : State} (hK : KsWaits K) (p : GPort) (st : SpanNo) (pch : Fin 32) (h : Kept K a s) :
    KeptOut K a (execRetrain p st pch s) := by
  unfold execRetrain
  try dsimp only
  repeat' (first
    | with_reducible assumption
    | with_reducible apply memCtrlRow_kept
    | with_reducible apply KeptOut.next)

theorem execRepair_kept {K : Keystone → Keystone → Prop} {a s : State} (hK : KsWaits K) (p : GPort) (st : SpanNo) (pch : Fin 32) (ext : Fin 128) (h : Kept K a s) :
    KeptOut K a (execRepair p st pch ext s) := by
  unfold execRepair
  try dsimp only
  repeat' (first
    | with_reducible assumption
    | with_reducible apply memCtrlRow_kept
    | with_reducible apply KeptOut.next)

theorem execMemCancel_kept {K : Keystone → Keystone → Prop} {a s : State} (hK : KsWaits K) (p : GPort) (st : SpanNo) (h : Kept K a s) :
    KeptOut K a (execMemCancel p st s) := by
  unfold execMemCancel
  try dsimp only
  repeat' (first
    | with_reducible assumption
    | with_reducible apply memCtrlRow_kept
    | with_reducible apply KeptOut.next)

theorem execRepairCopyEnd_kept {K : Keystone → Keystone → Prop} {a s : State} (st : SpanNo) (cycles : Nat) (h : Kept K a s) :
    KeptOut K a (execRepairCopyEnd st cycles s) := by
  unfold execRepairCopyEnd
  try dsimp only
  repeat' (first
    | with_reducible assumption
    | with_reducible apply onMem_kept
    | with_reducible apply tstCharge_kept
    | with_reducible apply KeptOut.next
    | split)

theorem completeRepairs_kept {K : Keystone → Keystone → Prop} {a s : State} (h : Kept K a s) :
    Kept K a (completeRepairs s) := by
  unfold completeRepairs
  try dsimp only
  repeat' (first
    | with_reducible assumption
    | with_reducible apply onMem_kept
    | with_reducible apply wf_kept
    | with_reducible apply raiseEvent_kept
    | intro _
    | with_reducible apply Kept.foldl)

theorem writeTgCtl_kept {K : Keystone → Keystone → Prop} {a s : State} (p : GPort) (st : Nat) (k : Nat) (w : Word) (h : Kept K a s) :
    Kept K a (writeTgCtl p st k w s).1 := by
  unfold writeTgCtl
  try dsimp only
  repeat' (first
    | with_reducible assumption
    | with_reducible apply klDenied_kept
    | with_reducible apply wr_kept
    | with_reducible apply wn_kept
    | split)

theorem execTgStart_kept {K : Keystone → Keystone → Prop} {a s : State} (hK : KsWaits K) (p : GPort) (st : SpanNo) (k : Fin 32) (ctl : BitVec 9) (h : Kept K a s) :
    KeptOut K a (execTgStart p st k ctl s) := by
  unfold execTgStart
  try dsimp only
  repeat' (first
    | with_reducible assumption
    | with_reducible apply wrRow_kept
    | with_reducible apply writeTgCtl_kept
    | intro _
    | with_reducible apply KeptOut.next)

theorem storageWr_kept {K : Keystone → Keystone → Prop} {a s : State} (st : Nat) (sl : Nat) (bs : List Byte) (h : Kept K a s) :
    Kept K a (storageWr st sl bs s) := by
  unfold storageWr
  try dsimp only
  repeat' (first
    | with_reducible assumption
    | with_reducible apply hbmWr_kept
    | with_reducible apply onMem_kept
    | split)

theorem tgWords_kept {K : Keystone → Keystone → Prop} {a s : State} (st : Nat) (k : Nat) (spare : Bool) (start : Nat) (z4 : Nat)
    (h : Kept K a s) :
    Kept K a (tgWords st k spare start z4 s) := by
  induction z4 generalizing s start with
  | zero => exact h
  | succ n ih =>
    rw [tgWords]
    refine ih _ ?_
    split
    · exact storageWr_kept _ _ _ (tookFree_kept h)
    · exact h

theorem execTgDone_kept {K : Keystone → Keystone → Prop} {a s : State} (st : SpanNo) (k : Fin 32) (errs : List Nat) (cycles : Nat) (h : Kept K a s) :
    KeptOut K a (execTgDone st k errs cycles s) := by
  unfold execTgDone
  try dsimp only
  repeat' (first
    | with_reducible assumption
    | with_reducible apply tstCharge_kept
    | with_reducible apply tgWords_kept
    | with_reducible apply wn_kept
    | with_reducible apply bump_kept
    | with_reducible apply wf_kept
    | with_reducible apply KeptOut.next
    | split)

theorem takeHeld_kept {K : Keystone → Keystone → Prop} {a s : State} (h_ : Held) (h : Kept K a s) :
    Kept K a (takeHeld h_ s) := by
  unfold takeHeld
  try dsimp only
  repeat' (first
    | with_reducible assumption
    | with_reducible apply onFab_kept)

theorem intakeUp_kept {K : Keystone → Keystone → Prop} {a s : State} (n : Nat) (form : Nat) (k : Known) (slot : Bool) (f : Tree → Nat → Nat → List Byte → RseOp → State → State) (hf : ∀ y0 y1 y2 y3 y4 y5, Kept K a y5 → Kept K a (f y0 y1 y2 y3 y4 y5)) (h : Kept K a s) :
    Kept K a (intakeUp n form k slot f s) := by
  unfold intakeUp
  try dsimp only
  repeat' (first
    | with_reducible assumption
    | with_reducible apply takeHeld_kept
    | with_reducible apply routeErr_kept
    | with_reducible apply rxCheck_kept
    | with_reducible apply rxAccept_kept
    | with_reducible apply rseMalformed_kept
    | with_reducible apply hf
    | split)

theorem intakeDown_kept {K : Keystone → Keystone → Prop} {a s : State} (n : Nat) (form : Nat) (k : Known) (f : Tree → Nat → List Byte → RseOp → State → State) (hf : ∀ y0 y1 y2 y3 y4, Kept K a y4 → Kept K a (f y0 y1 y2 y3 y4)) (h : Kept K a s) :
    Kept K a (intakeDown n form k f s) := by
  unfold intakeDown
  try dsimp only
  repeat' (first
    | with_reducible assumption
    | with_reducible apply takeHeld_kept
    | with_reducible apply routeErr_kept
    | with_reducible apply rxCheck_kept
    | with_reducible apply rxAccept_kept
    | with_reducible apply rseMalformed_kept
    | with_reducible apply hf
    | split)

theorem partialMalformed_kept {K : Keystone → Keystone → Prop} {a s : State} (o : RseOp) (b : List Byte) (h : Kept K a s) :
    Kept K a (partialMalformed o b s) := by
  unfold partialMalformed
  try dsimp only
  repeat' (first
    | with_reducible assumption
    | with_reducible apply rseFault_kept
    | with_reducible apply bump_kept)

theorem wrongClass_kept {K : Keystone → Keystone → Prop} {a s : State} (n : Nat) (form : Nat) (cls : Nat) (k : Known) (h : Kept K a s) :
    Kept K a (wrongClass n form cls k s) := by
  unfold wrongClass
  try dsimp only
  repeat' (first
    | with_reducible assumption
    | with_reducible apply intakeUp_kept
    | with_reducible apply partialMalformed_kept
    | with_reducible apply putOp_kept
    | with_reducible apply intakeDown_kept
    | intro _
    | split)

theorem abandonOp_kept {K : Keystone → Keystone → Prop} {a s : State} (o : RseOp) (h : Kept K a s) :
    Kept K a (abandonOp o s) := by
  unfold abandonOp
  try dsimp only
  repeat' (first
    | with_reducible assumption
    | with_reducible apply raiseEvent_kept
    | with_reducible apply dropOp_kept)

theorem abandonSlice_kept {K : Keystone → Keystone → Prop} {a s : State} (elem : Nat) (o : RseOp) (h : Kept K a s) :
    Kept K a (abandonSlice elem o s) := by
  unfold abandonSlice
  try dsimp only
  repeat' (first
    | with_reducible assumption
    | with_reducible apply putOp_kept
    | with_reducible apply raiseEvent_kept
    | with_reducible apply rseFault_kept
    | with_reducible apply bump_kept
    | split
    | (show KeptF _ a _ _ _ _ _ _ _ _ _; dsimp only; with_reducible apply Kept.of))

theorem unitChecked_kept {K : Keystone → Keystone → Prop} {a s : State} (x : UnitErr) (elem : Nat) (o : RseOp) (f : State → State) (hf : ∀ y0, Kept K a y0 → Kept K a (f y0)) (h : Kept K a s) :
    Kept K a (unitChecked x elem o f s) := by
  unfold unitChecked
  try dsimp only
  repeat' (first
    | with_reducible assumption
    | with_reducible apply raiseFault_kept
    | with_reducible apply rseFault_kept
    | with_reducible apply abandonOp_kept
    | with_reducible apply abandonSlice_kept
    | with_reducible apply putOp_kept
    | with_reducible apply hf
    | split)

theorem rangeElems_kept {K : Keystone → Keystone → Prop} {a s : State} (a_ : Int) (hits : List Nat) (o : RseOp) (h : Kept K a s) :
    Kept K a (rangeElems a_ hits o s).2 := by
  unfold rangeElems
  try dsimp only
  repeat' (first
    | with_reducible assumption
    | with_reducible apply bump_kept
    | with_reducible apply nansProduced_kept
    | with_reducible apply raiseEvent_kept
    | split)

theorem nativeSum_kept {K : Keystone → Keystone → Prop} {a s : State} (t : Tree) (pos : Nat) (e : Nat) (p : PHead) (vs : List Val) (o : RseOp) (h : Kept K a s) :
    Kept K a (nativeSum t pos e p vs o s) := by
  unfold nativeSum
  try dsimp only
  repeat' (first
    | with_reducible assumption
    | with_reducible apply meetAnchor_kept
    | with_reducible apply rangeElems_kept
    | with_reducible apply advanceBlock_kept
    | with_reducible apply putOp_kept
    | intro _
    | with_reducible apply Kept.foldl
    | split)

theorem nativeMaxMin_kept {K : Keystone → Keystone → Prop} {a s : State} (t : Tree) (pos : Nat) (e : Nat) (p : PHead) (vs : List Val) (o : RseOp) (h : Kept K a s) :
    Kept K a (nativeMaxMin t pos e p vs o s) := by
  unfold nativeMaxMin
  try dsimp only
  repeat' (first
    | with_reducible assumption
    | with_reducible apply advanceBlock_kept
    | with_reducible apply putOp_kept
    | intro _
    | with_reducible apply Kept.foldl)

theorem nativeFast_kept {K : Keystone → Keystone → Prop} {a s : State} (t : Tree) (pos : Nat) (e : Nat) (p : PHead) (vs : List Val) (o : RseOp) (h : Kept K a s) :
    Kept K a (nativeFast t pos e p vs o s) := by
  unfold nativeFast
  try dsimp only
  repeat' (first
    | with_reducible assumption
    | with_reducible apply advanceBlock_kept
    | with_reducible apply putOp_kept
    | intro _
    | with_reducible apply Kept.foldl)

theorem passNative_kept {K : Keystone → Keystone → Prop} {a s : State} (t : Tree) (pos : Nat) (b : List Byte) (o : RseOp) (h : Kept K a s) :
    Kept K a (passNative t pos b o s) := by
  unfold passNative
  try dsimp only
  repeat' (first
    | with_reducible assumption
    | with_reducible apply sendDown_kept
    | with_reducible apply sendUp_kept
    | split)

theorem execNative_kept {K : Keystone → Keystone → Prop} {a s : State} (n : NodeNo) (k : Known) (x : UnitErr) (h : Kept K a s) :
    KeptOut K a (execNative n k x s) := by
  unfold execNative
  try dsimp only
  repeat' (first
    | with_reducible assumption
    | with_reducible apply wrongClass_kept
    | with_reducible apply intakeUp_kept
    | with_reducible apply partialMalformed_kept
    | with_reducible apply putOp_kept
    | with_reducible apply passNative_kept
    | with_reducible apply unitChecked_kept
    | with_reducible apply nativeFast_kept
    | with_reducible apply nativeMaxMin_kept
    | with_reducible apply nativeSum_kept
    | intro _
    | with_reducible apply KeptOut.next
    | split)

theorem execAnchored_kept {K : Keystone → Keystone → Prop} {a s : State} (n : NodeNo) (k : Known) (x : UnitErr) (h : Kept K a s) :
    KeptOut K a (execAnchored n k x s) := by
  unfold execAnchored
  try dsimp only
  repeat' (first
    | with_reducible assumption
    | with_reducible apply wrongClass_kept
    | with_reducible apply intakeUp_kept
    | with_reducible apply meetAnchor_kept
    | with_reducible apply unitChecked_kept
    | with_reducible apply advanceBlock_kept
    | with_reducible apply putOp_kept
    | with_reducible apply partialMalformed_kept
    | intro _
    | with_reducible apply Kept.foldl
    | with_reducible apply KeptOut.next
    | split)

theorem execFast_kept {K : Keystone → Keystone → Prop} {a s : State} (n : NodeNo) (k : Known) (x : UnitErr) (h : Kept K a s) :
    KeptOut K a (execFast n k x s) := by
  unfold execFast
  try dsimp only
  repeat' (first
    | with_reducible assumption
    | with_reducible apply wrongClass_kept
    | with_reducible apply intakeUp_kept
    | with_reducible apply partialMalformed_kept
    | with_reducible apply putOp_kept
    | with_reducible apply unitChecked_kept
    | with_reducible apply advanceBlock_kept
    | intro _
    | with_reducible apply Kept.foldl
    | with_reducible apply KeptOut.next
    | split)

theorem exponentAtRse_kept {K : Keystone → Keystone → Prop} {a s : State} (n : Nat) (up : Bool) (k : Known) (h : Kept K a s) :
    Kept K a (exponentAtRse n up k s) := by
  unfold exponentAtRse
  try dsimp only
  repeat' (first
    | with_reducible assumption
    | with_reducible apply intakeUp_kept
    | with_reducible apply partialMalformed_kept
    | with_reducible apply putOp_kept
    | with_reducible apply advanceExp_kept
    | with_reducible apply intakeDown_kept
    | with_reducible apply sendDown_kept
    | intro _
    | with_reducible apply Kept.foldl
    | split)

theorem execScanOffset_kept {K : Keystone → Keystone → Prop} {a s : State} (n : NodeNo) (k : Known) (x : UnitErr) (h : Kept K a s) :
    KeptOut K a (execScanOffset n k x s) := by
  unfold execScanOffset
  try dsimp only
  repeat' (first
    | with_reducible assumption
    | with_reducible apply wrongClass_kept
    | with_reducible apply intakeDown_kept
    | with_reducible apply rseMalformed_kept
    | with_reducible apply meetAnchor_kept
    | with_reducible apply unitChecked_kept
    | with_reducible apply scanDown_kept
    | with_reducible apply putOp_kept
    | with_reducible apply partialMalformed_kept
    | intro _
    | with_reducible apply Kept.foldl
    | with_reducible apply KeptOut.next
    | split)

theorem putStrm_kept {K : Keystone → Keystone → Prop} {a s : State} (o : StrmOp) (h : Kept K a s) :
    Kept K a (putStrm o s) := by
  unfold putStrm
  try dsimp only
  repeat' (first
    | with_reducible assumption
    | with_reducible apply onNet_kept)

theorem dropStrm_kept {K : Keystone → Keystone → Prop} {a s : State} (o : StrmOp) (h : Kept K a s) :
    Kept K a (dropStrm o s) := by
  unfold dropStrm
  try dsimp only
  repeat' (first
    | with_reducible assumption
    | with_reducible apply bpmReturn_kept
    | with_reducible apply onNet_kept
    | intro _
    | with_reducible apply Kept.foldl)

theorem strmFault_kept {K : Keystone → Keystone → Prop} {a s : State} (o : StrmOp) (code : Nat) (detail : Nat) (h : Kept K a s) :
    Kept K a (strmFault o code detail s) := by
  unfold strmFault
  try dsimp only
  repeat' (first
    | with_reducible assumption
    | with_reducible apply raiseFault_kept)

theorem laneNans_kept {K : Keystone → Keystone → Prop} {a s : State} (o : StrmOp) (per : Nat) (ns : List (Option Nat × Nat)) (h : Kept K a s) :
    Kept K a (laneNans o per ns s) := by
  unfold laneNans
  try dsimp only
  repeat' (first
    | with_reducible assumption
    | with_reducible apply nansProduced_kept
    | intro _
    | with_reducible apply Kept.foldl)

theorem mapGuard_kept {K : Keystone → Keystone → Prop} {a : State} {l : Work} (x : SIns) (f : Rec → Rec × Option Nat) (h : Kept K a l.s) :
    Kept K a (mapGuard x f l).s := by
  unfold mapGuard
  try dsimp only
  repeat' (first
    | with_reducible assumption
    | with_reducible apply laneNans_kept)

theorem binary_kept {K : Keystone → Keystone → Prop} {a : State} {l : Work} (x : SIns) (imm : Bool) (fp : Nat → Nat → Nat) (si : Int → Int → Int) (h : Kept K a l.s) :
    Kept K a (binary x imm fp si l).s := by
  unfold binary
  try dsimp only
  repeat' (first
    | with_reducible assumption
    | with_reducible apply mapGuard_kept)

theorem doNop_kept {K : Keystone → Keystone → Prop} {a : State} {l : Work} (z0 : SIns) (h : Kept K a l.s) :
    Kept K a (doNop z0 l).s := by
  unfold doNop
  try dsimp only
  repeat' (first
    | with_reducible assumption)

theorem doAdd_kept {K : Keystone → Keystone → Prop} {a : State} {l : Work} (x : SIns) (h : Kept K a l.s) :
    Kept K a (doAdd x l).s := by
  unfold doAdd
  try dsimp only
  repeat' (first
    | with_reducible assumption
    | with_reducible apply binary_kept)

theorem doMin_kept {K : Keystone → Keystone → Prop} {a : State} {l : Work} (x : SIns) (h : Kept K a l.s) :
    Kept K a (doMin x l).s := by
  unfold doMin
  try dsimp only
  repeat' (first
    | with_reducible assumption
    | with_reducible apply binary_kept)

theorem doMax_kept {K : Keystone → Keystone → Prop} {a : State} {l : Work} (x : SIns) (h : Kept K a l.s) :
    Kept K a (doMax x l).s := by
  unfold doMax
  try dsimp only
  repeat' (first
    | with_reducible assumption
    | with_reducible apply binary_kept)

theorem doMul_kept {K : Keystone → Keystone → Prop} {a : State} {l : Work} (x : SIns) (h : Kept K a l.s) :
    Kept K a (doMul x l).s := by
  unfold doMul
  try dsimp only
  repeat' (first
    | with_reducible assumption
    | with_reducible apply binary_kept)

theorem doAddi_kept {K : Keystone → Keystone → Prop} {a : State} {l : Work} (x : SIns) (h : Kept K a l.s) :
    Kept K a (doAddi x l).s := by
  unfold doAddi
  try dsimp only
  repeat' (first
    | with_reducible assumption
    | with_reducible apply binary_kept)

theorem doMuli_kept {K : Keystone → Keystone → Prop} {a : State} {l : Work} (x : SIns) (h : Kept K a l.s) :
    Kept K a (doMuli x l).s := by
  unfold doMuli
  try dsimp only
  repeat' (first
    | with_reducible assumption
    | with_reducible apply binary_kept)

theorem doMovi_kept {K : Keystone → Keystone → Prop} {a : State} {l : Work} (x : SIns) (h : Kept K a l.s) :
    Kept K a (doMovi x l).s := by
  unfold doMovi
  try dsimp only
  repeat' (first
    | with_reducible assumption
    | with_reducible apply mapGuard_kept)

theorem doMovp_kept {K : Keystone → Keystone → Prop} {a : State} {l : Work} (x : SIns) (h : Kept K a l.s) :
    Kept K a (doMovp x l).s := by
  unfold doMovp
  try dsimp only
  repeat' (first
    | with_reducible assumption
    | with_reducible apply mapGuard_kept)

theorem doGetid_kept {K : Keystone → Keystone → Prop} {a : State} {l : Work} (x : SIns) (h : Kept K a l.s) :
    Kept K a (doGetid x l).s := by
  unfold doGetid
  try dsimp only
  repeat' (first
    | with_reducible assumption
    | with_reducible apply mapGuard_kept)

theorem compare_kept {K : Keystone → Keystone → Prop} {a : State} {l : Work} (x : SIns) (imm : Bool) (h : Kept K a l.s) :
    Kept K a (compare x imm l).s := by
  unfold compare
  try dsimp only
  repeat' (first
    | with_reducible assumption
    | with_reducible apply mapGuard_kept
    | with_reducible apply tookFree_kept
    | split)

theorem doCmp_kept {K : Keystone → Keystone → Prop} {a : State} {l : Work} (x : SIns) (h : Kept K a l.s) :
    Kept K a (doCmp x l).s := by
  unfold doCmp
  try dsimp only
  repeat' (first
    | with_reducible assumption
    | with_reducible apply compare_kept)

theorem doCmpi_kept {K : Keystone → Keystone → Prop} {a : State} {l : Work} (x : SIns) (h : Kept K a l.s) :
    Kept K a (doCmpi x l).s := by
  unfold doCmpi
  try dsimp only
  repeat' (first
    | with_reducible assumption
    | with_reducible apply compare_kept)

theorem doPlog_kept {K : Keystone → Keystone → Prop} {a : State} {l : Work} (x : SIns) (h : Kept K a l.s) :
    Kept K a (doPlog x l).s := by
  unfold doPlog
  try dsimp only
  repeat' (first
    | with_reducible assumption
    | with_reducible apply mapGuard_kept)

theorem doSel_kept {K : Keystone → Keystone → Prop} {a : State} {l : Work} (x : SIns) (h : Kept K a l.s) :
    Kept K a (doSel x l).s := by
  unfold doSel
  try dsimp only
  repeat' (first
    | with_reducible assumption
    | with_reducible apply mapGuard_kept)

theorem doCvt_kept {K : Keystone → Keystone → Prop} {a : State} {l : Work} (x : SIns) (h : Kept K a l.s) :
    Kept K a (doCvt x l).s := by
  unfold doCvt
  try dsimp only
  repeat' (first
    | with_reducible assumption
    | with_reducible apply mapGuard_kept)

theorem tableOob_kept {K : Keystone → Keystone → Prop} {a : State} {l : Work} (x : SIns) (h : Kept K a l.s) :
    Kept K a (tableOob x l).s := by
  unfold tableOob
  try dsimp only
  repeat' (first
    | with_reducible assumption
    | with_reducible apply bump_kept
    | split)

theorem doGather_kept {K : Keystone → Keystone → Prop} {a : State} {l : Work} (x : SIns) (h : Kept K a l.s) :
    Kept K a (doGather x l).s := by
  unfold doGather
  try dsimp only
  repeat' (first
    | with_reducible assumption
    | with_reducible apply mapGuard_kept
    | with_reducible apply tableOob_kept)

theorem eachInOrder_kept {K : Keystone → Keystone → Prop} {a : State} {l : Work} (x : SIns) (f : Rec → StrmOp → Rec × StrmOp × Option Nat) (h : Kept K a l.s) :
    Kept K a (eachInOrder x f l).s := by
  unfold eachInOrder
  try dsimp only
  repeat' (first
    | with_reducible assumption
    | with_reducible apply laneNans_kept)

theorem doScatter_kept {K : Keystone → Keystone → Prop} {a : State} {l : Work} (x : SIns) (h : Kept K a l.s) :
    Kept K a (doScatter x l).s := by
  unfold doScatter
  try dsimp only
  repeat' (first
    | with_reducible assumption
    | with_reducible apply eachInOrder_kept
    | with_reducible apply tableOob_kept)

theorem doFetchadd_kept {K : Keystone → Keystone → Prop} {a : State} {l : Work} (x : SIns) (h : Kept K a l.s) :
    Kept K a (doFetchadd x l).s := by
  unfold doFetchadd
  try dsimp only
  repeat' (first
    | with_reducible assumption
    | with_reducible apply eachInOrder_kept
    | with_reducible apply tableOob_kept)

theorem doHist_kept {K : Keystone → Keystone → Prop} {a : State} {l : Work} (x : SIns) (h : Kept K a l.s) :
    Kept K a (doHist x l).s := by
  unfold doHist
  try dsimp only
  repeat' (first
    | with_reducible assumption
    | with_reducible apply eachInOrder_kept)

theorem doCount_kept {K : Keystone → Keystone → Prop} {a : State} {l : Work} (x : SIns) (h : Kept K a l.s) :
    Kept K a (doCount x l).s := by
  unfold doCount
  try dsimp only
  repeat' (first
    | with_reducible assumption)

theorem doPrev_kept {K : Keystone → Keystone → Prop} {a : State} {l : Work} (x : SIns) (h : Kept K a l.s) :
    Kept K a (doPrev x l).s := by
  unfold doPrev
  try dsimp only
  repeat' (first
    | with_reducible assumption)

theorem doSort_kept {K : Keystone → Keystone → Prop} {a : State} {l : Work} (x : SIns) (h : Kept K a l.s) :
    Kept K a (doSort x l).s := by
  unfold doSort
  try dsimp only
  repeat' (first
    | with_reducible assumption)

theorem doTopk_kept {K : Keystone → Keystone → Prop} {a : State} {l : Work} (x : SIns) (h : Kept K a l.s) :
    Kept K a (doTopk x l).s := by
  unfold doTopk
  try dsimp only
  repeat' (first
    | with_reducible assumption)

theorem doFilter_kept {K : Keystone → Keystone → Prop} {a : State} {l : Work} (x : SIns) (h : Kept K a l.s) :
    Kept K a (doFilter x l).s := by
  unfold doFilter
  try dsimp only
  repeat' (first
    | with_reducible assumption)

theorem doDrop_kept {K : Keystone → Keystone → Prop} {a : State} {l : Work} (x : SIns) (h : Kept K a l.s) :
    Kept K a (doDrop x l).s := by
  unfold doDrop
  try dsimp only
  repeat' (first
    | with_reducible assumption
    | with_reducible apply bump_kept
    | split)

theorem sendBeyond_kept {K : Keystone → Keystone → Prop} {a s : State} (o : StrmOp) (cls : Nat) (dst : Nat) (toRse : Bool) (payload : List Byte) (h : Kept K a s) :
    Kept K a (sendBeyond o cls dst toRse payload s) := by
  unfold sendBeyond
  try dsimp only
  repeat' (first
    | with_reducible assumption
    | with_reducible apply inject_kept)

theorem doHpart_kept {K : Keystone → Keystone → Prop} {a : State} {l : Work} (x : SIns) (h : Kept K a l.s) :
    Kept K a (doHpart x l).s := by
  unfold doHpart
  try dsimp only
  repeat' (first
    | with_reducible assumption
    | with_reducible apply sendBeyond_kept
    | intro _
    | with_reducible apply Kept.foldlW)

theorem noteEntries_kept {K : Keystone → Keystone → Prop} {a s : State} (o : StrmOp) (rank : Nat) (k : Nat) (es : List Nat) (h : Kept K a s) :
    Kept K a (noteEntries o rank k es s) := by
  unfold noteEntries
  try dsimp only
  repeat' (first
    | with_reducible assumption
    | with_reducible apply onNet_kept)

theorem sendOut_kept {K : Keystone → Keystone → Prop} {a : State} {l : Work} (rank : Nat) (es : List Nat) (pl : List Byte) (h : Kept K a l.s) :
    Kept K a (sendOut rank es pl l).s := by
  unfold sendOut
  try dsimp only
  repeat' (first
    | with_reducible assumption
    | with_reducible apply sendBeyond_kept
    | with_reducible apply noteEntries_kept)

theorem doEmit_kept {K : Keystone → Keystone → Prop} {a : State} {l : Work} (x : SIns) (h : Kept K a l.s) :
    Kept K a (doEmit x l).s := by
  unfold doEmit
  try dsimp only
  repeat' (first
    | with_reducible assumption
    | with_reducible apply bump_kept
    | with_reducible apply strmFault_kept
    | with_reducible apply sendOut_kept
    | intro _
    | with_reducible apply Kept.foldlW
    | split)

theorem doTemit_kept {K : Keystone → Keystone → Prop} {a : State} {l : Work} (x : SIns) (h : Kept K a l.s) :
    Kept K a (doTemit x l).s := by
  unfold doTemit
  try dsimp only
  repeat' (first
    | with_reducible assumption
    | with_reducible apply sendOut_kept
    | intro _
    | with_reducible apply Kept.foldlW)

theorem doIns_kept {K : Keystone → Keystone → Prop} {a : State} {l : Work} (x : SIns) (h : Kept K a l.s) :
    Kept K a (doIns x l).s := by
  unfold doIns
  try dsimp only
  repeat' (first
    | with_reducible assumption
    | with_reducible apply doNop_kept
    | with_reducible apply doAdd_kept
    | with_reducible apply doMin_kept
    | with_reducible apply doMax_kept
    | with_reducible apply doMul_kept
    | with_reducible apply doAddi_kept
    | with_reducible apply doMuli_kept
    | with_reducible apply doMovi_kept
    | with_reducible apply doMovp_kept
    | with_reducible apply doGetid_kept
    | with_reducible apply doCmp_kept
    | with_reducible apply doCmpi_kept
    | with_reducible apply doPlog_kept
    | with_reducible apply doSel_kept
    | with_reducible apply doCvt_kept
    | with_reducible apply doGather_kept
    | with_reducible apply doScatter_kept
    | with_reducible apply doFetchadd_kept
    | with_reducible apply doHist_kept
    | with_reducible apply doCount_kept
    | with_reducible apply doPrev_kept
    | with_reducible apply doSort_kept
    | with_reducible apply doTopk_kept
    | with_reducible apply doFilter_kept
    | with_reducible apply doDrop_kept
    | with_reducible apply doTemit_kept
    | with_reducible apply doHpart_kept
    | with_reducible apply doEmit_kept
    | split)

theorem sendEnd_kept {K : Keystone → Keystone → Prop} {a s : State} (o : StrmOp) (cls : Nat) (dst : Nat) (toRse : Bool) (count : Nat) (dropped : Nat) (h : Kept K a s) :
    Kept K a (sendEnd o cls dst toRse count dropped s) := by
  unfold sendEnd
  try dsimp only
  repeat' (first
    | with_reducible assumption
    | with_reducible apply sendBeyond_kept)

theorem sendEnds_kept {K : Keystone → Keystone → Prop} {a s : State} (st : Nat) (o : StrmOp) (h : Kept K a s) :
    Kept K a (sendEnds st o s) := by
  unfold sendEnds
  try dsimp only
  repeat' (first
    | with_reducible assumption
    | with_reducible apply sendEnd_kept
    | intro _
    | with_reducible apply Kept.foldl
    | split)

theorem queueStage_kept {K : Keystone → Keystone → Prop} {a s : State} (n : Nat) (t : Nat) (c : Nat) (st : Nat) (h : Kept K a s) :
    Kept K a (queueStage n t c st s) := by
  unfold queueStage
  try dsimp only
  repeat' (first
    | with_reducible assumption
    | with_reducible apply onNet_kept
    | with_reducible apply putStrm_kept
    | split)

theorem admitJob_kept {K : Keystone → Keystone → Prop} {a s : State} (j : LaneJob) (h : Kept K a s) :
    Kept K a (admitJob j s) := by
  unfold admitJob
  try dsimp only
  repeat' (first
    | with_reducible assumption
    | with_reducible apply onNet_kept
    | with_reducible apply putStrm_kept
    | split)

theorem noteReady_kept {K : Keystone → Keystone → Prop} {a s : State} (n : Nat) (h : Kept K a s) :
    Kept K a (noteReady n s) := by
  unfold noteReady
  try dsimp only
  repeat' (first
    | with_reducible assumption
    | with_reducible apply admitJob_kept
    | with_reducible apply queueStage_kept
    | intro _
    | with_reducible apply Kept.foldl)

theorem stageRan_kept {K : Keystone → Keystone → Prop} {a s : State} (st : Nat) (o : StrmOp) (h : Kept K a s) :
    Kept K a (stageRan st o s) := by
  unfold stageRan
  try dsimp only
  repeat' (first
    | with_reducible assumption
    | with_reducible apply sendEnds_kept
    | with_reducible apply noteReady_kept
    | with_reducible apply dropStrm_kept
    | with_reducible apply putStrm_kept
    | split)

theorem endStreaming_kept {K : Keystone → Keystone → Prop} {a s : State} (n : Nat) (t : Nat) (c : Nat) (st : Nat) (h : Kept K a s) :
    Kept K a (endStreaming n t c st s) := by
  unfold endStreaming
  try dsimp only
  repeat' (first
    | with_reducible assumption
    | with_reducible apply stageRan_kept
    | split)

theorem freeBody_kept {K : Keystone → Keystone → Prop} {a s : State} (k : Option Nat) (o : StrmOp) (h : Kept K a s) :
    Kept K a (freeBody k o s) := by
  unfold freeBody
  try dsimp only
  repeat' (first
    | with_reducible assumption
    | with_reducible apply putStrm_kept
    | with_reducible apply bpmReturn_kept
    | split)

theorem laneMove_kept {K : Keystone → Keystone → Prop} {a : State} {l : Work} (n : Nat) (j : LaneJob) (h : Kept K a l.s) :
    Kept K a (laneMove n j l) := by
  unfold laneMove
  try dsimp only
  repeat' (first
    | with_reducible assumption
    | with_reducible apply putStrm_kept
    | with_reducible apply onNet_kept
    | with_reducible apply freeBody_kept
    | with_reducible apply stageRan_kept
    | with_reducible apply endStreaming_kept
    | split)

theorem laneStep_kept {K : Keystone → Keystone → Prop} {a s : State} (n : Nat) (p : SIns → Bool) (h : Kept K a s) :
    Kept K a (laneStep n p s) := by
  unfold laneStep
  repeat' (first
    | with_reducible assumption
    | with_reducible apply onNet_kept
    | with_reducible apply laneMove_kept
    | with_reducible apply doIns_kept
    | split)

theorem laneRun_kept {K : Keystone → Keystone → Prop} {a s : State} (n : Nat) (j : LaneJob) (z2 : Nat) (h : Kept K a s) :
    Kept K a (laneRun n j z2 s) := by
  revert h
  fun_induction laneRun n j z2 s <;> intro h
  all_goals try dsimp only
  repeat' (first
    | with_reducible assumption
    | with_reducible refine (show Kept _ a _ → Kept _ a _ by with_reducible assumption) ?_
    | with_reducible apply laneStep_kept
    | intro _
    | with_reducible apply Kept.foldl
    | with_reducible apply Kept.foldl2
    | with_reducible apply Kept.foldl1
    | with_reducible apply Kept.foldl22
    | with_reducible apply Kept.foldlW
    | with_reducible apply KeptOut.next
    | with_reducible apply KeptOpt.some
    | with_reducible exact KeptOpt.none
    | split
    | with_reducible refine Kept.snd (by with_reducible assumption) ?_
    | with_reducible refine Kept.fst (by with_reducible assumption) ?_
    | with_reducible refine Kept.snd2 (by with_reducible assumption) ?_
    | with_reducible refine Kept.snd1 (by with_reducible assumption) ?_
    | with_reducible refine Kept.opt (by with_reducible assumption) ?_
    | (show KeptF _ a _ _ _ _ _ _ _ _ _; dsimp only; with_reducible apply Kept.of)
    | dsimp only)

theorem laneReady_kept {K : Keystone → Keystone → Prop} {a s : State} (j : LaneJob) (stepwise : Bool) (h : Kept K a s) :
    Kept K a (laneReady j stepwise s) := by
  unfold laneReady
  try dsimp only
  repeat' (first
    | with_reducible assumption
    | with_reducible apply onNet_kept
    | with_reducible apply laneRun_kept
    | split)

theorem meetStrm_kept {K : Keystone → Keystone → Prop} {a s : State} (n : Nat) (t : Tree) (c : Nat) (v : Nat) (k : Known) (h : Kept K a s) :
    Kept K a (meetStrm n t c v k s).2 := by
  unfold meetStrm
  try dsimp only
  repeat' (first
    | with_reducible assumption
    | with_reducible apply strmFault_kept
    | split)

theorem bpmMany_kept {K : Keystone → Keystone → Prop} {a s : State} (req : Nat) (z1 : List Nat) (h : Kept K a s) :
    Kept K a (bpmMany req z1 s).2 := by
  revert h
  fun_induction bpmMany req z1 s <;> intro h
  all_goals try dsimp only
  repeat' (first
    | with_reducible assumption
    | with_reducible refine (show Kept _ a _ → Kept _ a _ by with_reducible assumption) ?_
    | with_reducible apply bpmAlloc_kept
    | intro _
    | with_reducible apply Kept.foldl
    | with_reducible apply Kept.foldl2
    | with_reducible apply Kept.foldl1
    | with_reducible apply Kept.foldl22
    | with_reducible apply Kept.foldlW
    | with_reducible apply KeptOut.next
    | with_reducible apply KeptOpt.some
    | with_reducible exact KeptOpt.none
    | split
    | with_reducible refine Kept.snd (by with_reducible assumption) ?_
    | with_reducible refine Kept.fst (by with_reducible assumption) ?_
    | with_reducible refine Kept.snd2 (by with_reducible assumption) ?_
    | with_reducible refine Kept.snd1 (by with_reducible assumption) ?_
    | with_reducible refine Kept.opt (by with_reducible assumption) ?_
    | (show KeptF _ a _ _ _ _ _ _ _ _ _; dsimp only; with_reducible apply Kept.of)
    | dsimp only)

theorem strmBuffers_kept {K : Keystone → Keystone → Prop} {a s : State} (o : StrmOp) (st : Nat) (key : Nat) (pl : List Byte) (h : Kept K a s) :
    Kept K a (strmBuffers o st key pl s).2 := by
  unfold strmBuffers
  try dsimp only
  repeat' (first
    | with_reducible assumption
    | with_reducible apply bpmMany_kept)

theorem dupFaults_kept {K : Keystone → Keystone → Prop} {a s : State} (o : StrmOp) (rs : List Rec) (h : Kept K a s) :
    Kept K a (dupFaults o rs s) := by
  unfold dupFaults
  try dsimp only
  repeat' (first
    | with_reducible assumption
    | with_reducible apply strmFault_kept
    | with_reducible apply bump_kept
    | intro _
    | with_reducible apply Kept.foldl)

theorem holdRecs_kept {K : Keystone → Keystone → Prop} {a s : State} (o : StrmOp) (st : Nat) (rs : List Rec) (h : Kept K a s) :
    Kept K a (holdRecs o st rs s) := by
  unfold holdRecs
  try dsimp only
  repeat' (first
    | with_reducible assumption
    | with_reducible apply putStrm_kept
    | with_reducible apply strmFault_kept
    | split)

theorem streamJob_kept {K : Keystone → Keystone → Prop} {a s : State} (j : LaneJob) (stepwise : Bool) (o : StrmOp) (h : Kept K a s) :
    Kept K a (streamJob j stepwise o s) := by
  unfold streamJob
  try dsimp only
  repeat' (first
    | with_reducible assumption
    | with_reducible apply laneReady_kept
    | with_reducible apply putStrm_kept
    | with_reducible apply onNet_kept
    | split)

theorem storeRecs_kept {K : Keystone → Keystone → Prop} {a s : State} (st : Nat) (key : Nat) (stepwise : Bool) (pl : List Byte) (o : StrmOp) (h : Kept K a s) :
    Kept K a (storeRecs st key stepwise pl o s) := by
  unfold storeRecs
  try dsimp only
  repeat' (first
    | with_reducible assumption
    | with_reducible apply strmBuffers_kept
    | with_reducible apply bump_kept
    | with_reducible apply dupFaults_kept
    | with_reducible apply holdRecs_kept
    | with_reducible apply endStreaming_kept
    | with_reducible apply streamJob_kept
    | split)

theorem takeRecs_kept {K : Keystone → Keystone → Prop} {a s : State} (st : Nat) (key : Nat) (stepwise : Bool) (pl : List Byte) (o : StrmOp) (h : Kept K a s) :
    Kept K a (takeRecs st key stepwise pl o s) := by
  unfold takeRecs
  try dsimp only
  repeat' (first
    | with_reducible assumption
    | with_reducible apply noteReady_kept
    | with_reducible apply putStrm_kept
    | with_reducible apply strmFault_kept
    | with_reducible apply bump_kept
    | with_reducible apply storeRecs_kept
    | split)

theorem strmIntake_kept {K : Keystone → Keystone → Prop} {a s : State} (n : Nat) (kind : Nat) (k : Known) (f : Tree → List Byte → StrmOp → State → State) (hf : ∀ y0 y1 y2 y3, Kept K a y3 → Kept K a (f y0 y1 y2 y3)) (h : Kept K a s) :
    Kept K a (strmIntake n kind k f s) := by
  unfold strmIntake
  try dsimp only
  repeat' (first
    | with_reducible assumption
    | with_reducible apply routeErr_kept
    | with_reducible apply takeHeld_kept
    | with_reducible apply rxCheck_kept
    | with_reducible apply meetStrm_kept
    | with_reducible apply rxAccept_kept
    | with_reducible apply putStrm_kept
    | with_reducible apply strmFault_kept
    | with_reducible apply hf
    | split)

theorem execInPkt_kept {K : Keystone → Keystone → Prop} {a s : State} (n : NodeNo) (k : Known) (stepwise : Bool) (h : Kept K a s) :
    KeptOut K a (execInPkt n k stepwise s) := by
  unfold execInPkt
  try dsimp only
  repeat' (first
    | with_reducible assumption
    | with_reducible apply strmIntake_kept
    | with_reducible apply takeRecs_kept
    | intro _
    | with_reducible apply KeptOut.next)

theorem refuseBeyond_kept {K : Keystone → Keystone → Prop} {a s : State} (h_ : Held) (h : Kept K a s) :
    Kept K a (refuseBeyond h_ s) := by
  unfold refuseBeyond
  try dsimp only
  repeat' (first
    | with_reducible assumption
    | with_reducible apply takeHeld_kept
    | with_reducible apply inject_kept
    | split)

end Sys2Proof.Machine
end

