-- ==== Sys2Proof/Laws/KeptFour.lean ====
section
/-! SUPPORT. What operations keep, continued: one lemma for each operation, in the order of the model's files. -/

namespace Sys2Proof.Machine
open Sys2Proof

theorem homeIntake_kept {K : Keystone → Keystone → Prop} {a s : State} (n : Nat) (kind : Nat) (k : Known) (full : StrmOp → List Byte → State → Bool) (f : List Byte → StrmOp → State → State) (hf : ∀ y0 y1 y2, Kept K a y2 → Kept K a (f y0 y1 y2)) (h : Kept K a s) :
    Kept K a (homeIntake n kind k full f s) := by
  unfold homeIntake
  try dsimp only
  repeat' (first
    | with_reducible assumption
    | with_reducible apply routeErr_kept
    | with_reducible apply takeHeld_kept
    | with_reducible apply bump_kept
    | with_reducible apply refuseBeyond_kept
    | with_reducible apply meetStrm_kept
    | with_reducible apply hf
    | split)

theorem execPart_kept {K : Keystone → Keystone → Prop} {a s : State} (n : NodeNo) (k : Known) (stepwise : Bool) (h : Kept K a s) :
    KeptOut K a (execPart n k stepwise s) := by
  unfold execPart
  try dsimp only
  repeat' (first
    | with_reducible assumption
    | with_reducible apply homeIntake_kept
    | with_reducible apply takeRecs_kept
    | intro _
    | with_reducible apply KeptOut.next)

theorem takeEnd_kept {K : Keystone → Keystone → Prop} {a s : State} (st : Nat) (key : Nat) (pl : List Byte) (o : StrmOp) (h : Kept K a s) :
    Kept K a (takeEnd st key pl o s) := by
  unfold takeEnd
  try dsimp only
  repeat' (first
    | with_reducible assumption
    | with_reducible apply putStrm_kept
    | with_reducible apply strmFault_kept
    | with_reducible apply bump_kept
    | with_reducible apply noteReady_kept
    | with_reducible apply endStreaming_kept
    | split)

theorem endAtRse_kept {K : Keystone → Keystone → Prop} {a s : State} (n : Nat) (k : Known) (h : Kept K a s) :
    Kept K a (endAtRse n k s) := by
  unfold endAtRse
  try dsimp only
  repeat' (first
    | with_reducible assumption
    | with_reducible apply homeIntake_kept
    | with_reducible apply takeEnd_kept
    | with_reducible apply strmIntake_kept
    | intro _
    | split)

theorem abandonStrm_kept {K : Keystone → Keystone → Prop} {a s : State} (o : StrmOp) (h : Kept K a s) :
    Kept K a (abandonStrm o s) := by
  unfold abandonStrm
  try dsimp only
  repeat' (first
    | with_reducible assumption
    | with_reducible apply raiseEvent_kept
    | with_reducible apply noteReady_kept
    | with_reducible apply dropStrm_kept)

theorem execGatheredStage_kept {K : Keystone → Keystone → Prop} {a s : State} (n : NodeNo) (stepwise : Bool) (sram : Bool) (h : Kept K a s) :
    KeptOut K a (execGatheredStage n stepwise sram s) := by
  unfold execGatheredStage
  try dsimp only
  repeat' (first
    | with_reducible assumption
    | with_reducible apply strmFault_kept
    | with_reducible apply abandonStrm_kept
    | with_reducible apply onNet_kept
    | with_reducible apply laneRun_kept
    | with_reducible apply KeptOut.next
    | split)

theorem laneOp_kept {K : Keystone → Keystone → Prop} {a s : State} (op : Nat) (n : NodeNo) (h : Kept K a s) :
    KeptOut K a (laneOp op n s) := by
  unfold laneOp
  try dsimp only
  repeat' (first
    | with_reducible assumption
    | with_reducible apply laneStep_kept
    | with_reducible apply KeptOut.next)

theorem execNop_kept {K : Keystone → Keystone → Prop} {a s : State} (n : NodeNo) (h : Kept K a s) :
    KeptOut K a (execNop n s) := by
  unfold execNop
  try dsimp only
  repeat' (first
    | with_reducible assumption
    | with_reducible apply laneOp_kept)

theorem execAdd_kept {K : Keystone → Keystone → Prop} {a s : State} (n : NodeNo) (h : Kept K a s) :
    KeptOut K a (execAdd n s) := by
  unfold execAdd
  try dsimp only
  repeat' (first
    | with_reducible assumption
    | with_reducible apply laneOp_kept)

theorem execMin_kept {K : Keystone → Keystone → Prop} {a s : State} (n : NodeNo) (h : Kept K a s) :
    KeptOut K a (execMin n s) := by
  unfold execMin
  try dsimp only
  repeat' (first
    | with_reducible assumption
    | with_reducible apply laneOp_kept)

theorem execMax_kept {K : Keystone → Keystone → Prop} {a s : State} (n : NodeNo) (h : Kept K a s) :
    KeptOut K a (execMax n s) := by
  unfold execMax
  try dsimp only
  repeat' (first
    | with_reducible assumption
    | with_reducible apply laneOp_kept)

theorem execMul_kept {K : Keystone → Keystone → Prop} {a s : State} (n : NodeNo) (h : Kept K a s) :
    KeptOut K a (execMul n s) := by
  unfold execMul
  try dsimp only
  repeat' (first
    | with_reducible assumption
    | with_reducible apply laneOp_kept)

theorem execAddi_kept {K : Keystone → Keystone → Prop} {a s : State} (n : NodeNo) (h : Kept K a s) :
    KeptOut K a (execAddi n s) := by
  unfold execAddi
  try dsimp only
  repeat' (first
    | with_reducible assumption
    | with_reducible apply laneOp_kept)

theorem execMuli_kept {K : Keystone → Keystone → Prop} {a s : State} (n : NodeNo) (h : Kept K a s) :
    KeptOut K a (execMuli n s) := by
  unfold execMuli
  try dsimp only
  repeat' (first
    | with_reducible assumption
    | with_reducible apply laneOp_kept)

theorem execMovi_kept {K : Keystone → Keystone → Prop} {a s : State} (n : NodeNo) (h : Kept K a s) :
    KeptOut K a (execMovi n s) := by
  unfold execMovi
  try dsimp only
  repeat' (first
    | with_reducible assumption
    | with_reducible apply laneOp_kept)

theorem execMovp_kept {K : Keystone → Keystone → Prop} {a s : State} (n : NodeNo) (h : Kept K a s) :
    KeptOut K a (execMovp n s) := by
  unfold execMovp
  try dsimp only
  repeat' (first
    | with_reducible assumption
    | with_reducible apply laneOp_kept)

theorem execGetid_kept {K : Keystone → Keystone → Prop} {a s : State} (n : NodeNo) (h : Kept K a s) :
    KeptOut K a (execGetid n s) := by
  unfold execGetid
  try dsimp only
  repeat' (first
    | with_reducible assumption
    | with_reducible apply laneOp_kept)

theorem execCmp_kept {K : Keystone → Keystone → Prop} {a s : State} (n : NodeNo) (h : Kept K a s) :
    KeptOut K a (execCmp n s) := by
  unfold execCmp
  try dsimp only
  repeat' (first
    | with_reducible assumption
    | with_reducible apply laneOp_kept)

theorem execCmpi_kept {K : Keystone → Keystone → Prop} {a s : State} (n : NodeNo) (h : Kept K a s) :
    KeptOut K a (execCmpi n s) := by
  unfold execCmpi
  try dsimp only
  repeat' (first
    | with_reducible assumption
    | with_reducible apply laneOp_kept)

theorem execPlog_kept {K : Keystone → Keystone → Prop} {a s : State} (n : NodeNo) (h : Kept K a s) :
    KeptOut K a (execPlog n s) := by
  unfold execPlog
  try dsimp only
  repeat' (first
    | with_reducible assumption
    | with_reducible apply laneOp_kept)

theorem execSel_kept {K : Keystone → Keystone → Prop} {a s : State} (n : NodeNo) (h : Kept K a s) :
    KeptOut K a (execSel n s) := by
  unfold execSel
  try dsimp only
  repeat' (first
    | with_reducible assumption
    | with_reducible apply laneOp_kept)

theorem execCvt_kept {K : Keystone → Keystone → Prop} {a s : State} (n : NodeNo) (h : Kept K a s) :
    KeptOut K a (execCvt n s) := by
  unfold execCvt
  try dsimp only
  repeat' (first
    | with_reducible assumption
    | with_reducible apply laneOp_kept)

theorem execGather_kept {K : Keystone → Keystone → Prop} {a s : State} (n : NodeNo) (h : Kept K a s) :
    KeptOut K a (execGather n s) := by
  unfold execGather
  try dsimp only
  repeat' (first
    | with_reducible assumption
    | with_reducible apply laneOp_kept)

theorem execScatter_kept {K : Keystone → Keystone → Prop} {a s : State} (n : NodeNo) (h : Kept K a s) :
    KeptOut K a (execScatter n s) := by
  unfold execScatter
  try dsimp only
  repeat' (first
    | with_reducible assumption
    | with_reducible apply laneOp_kept)

theorem execFetchadd_kept {K : Keystone → Keystone → Prop} {a s : State} (n : NodeNo) (h : Kept K a s) :
    KeptOut K a (execFetchadd n s) := by
  unfold execFetchadd
  try dsimp only
  repeat' (first
    | with_reducible assumption
    | with_reducible apply laneOp_kept)

theorem execHist_kept {K : Keystone → Keystone → Prop} {a s : State} (n : NodeNo) (h : Kept K a s) :
    KeptOut K a (execHist n s) := by
  unfold execHist
  try dsimp only
  repeat' (first
    | with_reducible assumption
    | with_reducible apply laneOp_kept)

theorem execCount_kept {K : Keystone → Keystone → Prop} {a s : State} (n : NodeNo) (h : Kept K a s) :
    KeptOut K a (execCount n s) := by
  unfold execCount
  try dsimp only
  repeat' (first
    | with_reducible assumption
    | with_reducible apply laneOp_kept)

theorem execPrev_kept {K : Keystone → Keystone → Prop} {a s : State} (n : NodeNo) (h : Kept K a s) :
    KeptOut K a (execPrev n s) := by
  unfold execPrev
  try dsimp only
  repeat' (first
    | with_reducible assumption
    | with_reducible apply laneOp_kept)

theorem execSort_kept {K : Keystone → Keystone → Prop} {a s : State} (n : NodeNo) (h : Kept K a s) :
    KeptOut K a (execSort n s) := by
  unfold execSort
  try dsimp only
  repeat' (first
    | with_reducible assumption
    | with_reducible apply laneOp_kept)

theorem execTopk_kept {K : Keystone → Keystone → Prop} {a s : State} (n : NodeNo) (h : Kept K a s) :
    KeptOut K a (execTopk n s) := by
  unfold execTopk
  try dsimp only
  repeat' (first
    | with_reducible assumption
    | with_reducible apply laneOp_kept)

theorem execFilter_kept {K : Keystone → Keystone → Prop} {a s : State} (n : NodeNo) (h : Kept K a s) :
    KeptOut K a (execFilter n s) := by
  unfold execFilter
  try dsimp only
  repeat' (first
    | with_reducible assumption
    | with_reducible apply laneOp_kept)

theorem execDrop_kept {K : Keystone → Keystone → Prop} {a s : State} (n : NodeNo) (h : Kept K a s) :
    KeptOut K a (execDrop n s) := by
  unfold execDrop
  try dsimp only
  repeat' (first
    | with_reducible assumption
    | with_reducible apply laneOp_kept)

theorem execTemit_kept {K : Keystone → Keystone → Prop} {a s : State} (n : NodeNo) (h : Kept K a s) :
    KeptOut K a (execTemit n s) := by
  unfold execTemit
  try dsimp only
  repeat' (first
    | with_reducible assumption
    | with_reducible apply laneOp_kept)

theorem execHpart_kept {K : Keystone → Keystone → Prop} {a s : State} (n : NodeNo) (h : Kept K a s) :
    KeptOut K a (execHpart n s) := by
  unfold execHpart
  try dsimp only
  repeat' (first
    | with_reducible assumption
    | with_reducible apply laneOp_kept)

theorem execEmit_kept {K : Keystone → Keystone → Prop} {a s : State} (n : NodeNo) (h : Kept K a s) :
    KeptOut K a (execEmit n s) := by
  unfold execEmit
  try dsimp only
  repeat' (first
    | with_reducible assumption
    | with_reducible apply laneOp_kept)

theorem execRseWatchdog_kept {K : Keystone → Keystone → Prop} {a s : State} (n : NodeNo) (t : Fin 4096) (c : BitVec 16) (h : Kept K a s) :
    KeptOut K a (execRseWatchdog n t c s) := by
  unfold execRseWatchdog
  try dsimp only
  repeat' (first
    | with_reducible assumption
    | with_reducible apply abandonOp_kept
    | with_reducible apply abandonStrm_kept
    | with_reducible apply KeptOut.next
    | split)

theorem progRegs_kept {K : Keystone → Keystone → Prop} {a s : State} (v : Nat) (h : Kept K a s) :
    Kept K a (progRegs v s) := by
  unfold progRegs
  try dsimp only
  repeat' (first
    | with_reducible assumption
    | with_reducible apply putCfg_kept
    | with_reducible apply wn64_kept)

theorem putProg_kept {K : Keystone → Keystone → Prop} {a s : State} (v : Nat) (slot : Nat) (b : List Byte) (h : Kept K a s) :
    Kept K a (putProg v slot b s) := by
  unfold putProg
  try dsimp only
  repeat' (first
    | with_reducible assumption
    | with_reducible apply onNet_kept)

theorem writePload_kept {K : Keystone → Keystone → Prop} {a s : State} (p : GPort) (w : Word) (h : Kept K a s) :
    Kept K a (writePload p w s).1 := by
  unfold writePload
  try dsimp only
  repeat' (first
    | with_reducible assumption
    | with_reducible apply klDenied_kept
    | with_reducible apply wn_kept
    | with_reducible apply onNet_kept
    | with_reducible apply wf_kept
    | split)

theorem execProgLoad_kept {K : Keystone → Keystone → Prop} {a s : State} (hK : KsWaits K) (p : GPort) (slot : Fin 64) (h : Kept K a s) :
    KeptOut K a (execProgLoad p slot s) := by
  unfold execProgLoad
  try dsimp only
  repeat' (first
    | with_reducible assumption
    | with_reducible apply wrRow_kept
    | with_reducible apply writePload_kept
    | intro _
    | with_reducible apply KeptOut.next)

theorem execProgClear_kept {K : Keystone → Keystone → Prop} {a s : State} (hK : KsWaits K) (p : GPort) (slot : Fin 64) (h : Kept K a s) :
    KeptOut K a (execProgClear p slot s) := by
  unfold execProgClear
  try dsimp only
  repeat' (first
    | with_reducible assumption
    | with_reducible apply wrRow_kept
    | with_reducible apply writePload_kept
    | intro _
    | with_reducible apply KeptOut.next)

theorem flipLoads_kept {K : Keystone → Keystone → Prop} {a s : State} (h : Kept K a s) :
    Kept K a (flipLoads s) := by
  unfold flipLoads
  try dsimp only
  repeat' (first
    | with_reducible assumption
    | with_reducible apply onNet_kept)

theorem execProgLoadEnd_kept {K : Keystone → Keystone → Prop} {a s : State} (cycles : Nat) (h : Kept K a s) :
    KeptOut K a (execProgLoadEnd cycles s) := by
  unfold execProgLoadEnd
  try dsimp only
  repeat' (first
    | with_reducible assumption
    | with_reducible apply onNet_kept
    | with_reducible apply raiseEvent_kept
    | with_reducible apply wn_kept
    | with_reducible apply progRegs_kept
    | with_reducible apply putProg_kept
    | with_reducible apply tstCharge_kept
    | with_reducible apply KeptOut.next
    | split)

theorem copySection_kept {K : Keystone → Keystone → Prop} {a s : State} (t : Nat) (h : Kept K a s) :
    Kept K a (copySection t s) := by
  unfold copySection
  try dsimp only
  repeat' (first
    | with_reducible assumption
    | with_reducible apply progRegs_kept
    | with_reducible apply putProg_kept
    | with_reducible apply putSect_kept
    | intro _
    | with_reducible apply Kept.foldl
    | split)

theorem disarm_kept {K : Keystone → Keystone → Prop} {a s : State} (h : Kept K a s) :
    Kept K a (disarm s) := by
  unfold disarm
  try dsimp only
  repeat' (first
    | with_reducible assumption
    | with_reducible apply wf_kept
    | with_reducible apply copySection_kept
    | with_reducible apply Kept.foldl
    | split
    | (show KeptF _ a _ _ _ _ _ _ _ _ _; dsimp only; with_reducible apply Kept.of))

theorem writeImgCtrl_kept {K : Keystone → Keystone → Prop} {a s : State} (p : GPort) (w : Word) (h : Kept K a s) :
    Kept K a (writeImgCtrl p w s).1 := by
  unfold writeImgCtrl
  try dsimp only
  repeat' (first
    | with_reducible assumption
    | with_reducible apply wn_kept
    | with_reducible apply klDenied_kept
    | with_reducible apply imgRejectEvent_kept
    | with_reducible apply wf_kept
    | with_reducible apply disarm_kept
    | with_reducible apply imgReject_kept
    | split
    | (show KeptF _ a _ _ _ _ _ _ _ _ _; dsimp only; with_reducible apply Kept.of))

theorem execImgLoad_kept {K : Keystone → Keystone → Prop} {a s : State} (hK : KsWaits K) (p : GPort) (h : Kept K a s) :
    KeptOut K a (execImgLoad p s) := by
  unfold execImgLoad
  try dsimp only
  repeat' (first
    | with_reducible assumption
    | with_reducible apply wrRow_kept
    | with_reducible apply writeImgCtrl_kept
    | intro _
    | with_reducible apply KeptOut.next)

theorem execImgDisarm_kept {K : Keystone → Keystone → Prop} {a s : State} (hK : KsWaits K) (p : GPort) (h : Kept K a s) :
    KeptOut K a (execImgDisarm p s) := by
  unfold execImgDisarm
  try dsimp only
  repeat' (first
    | with_reducible assumption
    | with_reducible apply wrRow_kept
    | with_reducible apply writeImgCtrl_kept
    | intro _
    | with_reducible apply KeptOut.next)

theorem execImgAbort_kept {K : Keystone → Keystone → Prop} {a s : State} (hK : KsWaits K) (p : GPort) (h : Kept K a s) :
    KeptOut K a (execImgAbort p s) := by
  unfold execImgAbort
  try dsimp only
  repeat' (first
    | with_reducible assumption
    | with_reducible apply wrRow_kept
    | with_reducible apply writeImgCtrl_kept
    | intro _
    | with_reducible apply KeptOut.next)

theorem stagedRead_kept {K : Keystone → Keystone → Prop} {a s : State} (h : Kept K a s) :
    Kept K a (stagedRead s) := by
  unfold stagedRead
  try dsimp only
  repeat' (first
    | with_reducible assumption
    | with_reducible apply deviceUe_kept)

theorem takeSection_kept {K : Keystone → Keystone → Prop} {a s : State} (t : Nat) (v : Nat) (x : List Byte) (h : Kept K a s) :
    Kept K a (takeSection t v x s) := by
  unfold takeSection
  try dsimp only
  repeat' (first
    | with_reducible assumption
    | with_reducible apply progRegs_kept
    | with_reducible apply putProg_kept
    | with_reducible apply putSect_kept
    | intro _
    | with_reducible apply Kept.foldl
    | split)

theorem showGroups_kept {K : Keystone → Keystone → Prop} {a s : State} (h : Kept K a s) :
    Kept K a (showGroups s) := by
  unfold showGroups
  try dsimp only
  repeat' (first
    | with_reducible assumption
    | with_reducible apply wf_kept
    | intro _
    | with_reducible apply Kept.foldl)

theorem showPorts_kept {K : Keystone → Keystone → Prop} {a s : State} (h : Kept K a s) :
    Kept K a (showPorts s) := by
  unfold showPorts
  try dsimp only
  repeat' (first
    | with_reducible assumption
    | with_reducible apply wn_kept
    | intro _
    | with_reducible apply Kept.foldl)

theorem takeRetire_kept {K : Keystone → Keystone → Prop} {a s : State} (x : List Byte) (h : Kept K a s) :
    Kept K a (takeRetire x s) := by
  unfold takeRetire
  try dsimp only
  repeat' (first
    | with_reducible assumption
    | with_reducible apply wn_kept
    | intro _
    | with_reducible apply Kept.foldl
    | split)

theorem resetPools_kept {K : Keystone → Keystone → Prop} {a s : State} (h : Kept K a s) :
    Kept K a (resetPools s) := by
  unfold resetPools
  try dsimp only
  repeat' (first
    | with_reducible assumption
    | with_reducible apply wn_kept
    | with_reducible apply onBpm_kept
    | intro _
    | with_reducible apply Kept.foldl)

theorem showSpares_kept {K : Keystone → Keystone → Prop} {a s : State} (h : Kept K a s) :
    Kept K a (showSpares s) := by
  unfold showSpares
  try dsimp only
  repeat' (first
    | with_reducible assumption
    | with_reducible apply wf_kept
    | intro _
    | with_reducible apply Kept.foldl)

theorem takeInterleave_kept {K : Keystone → Keystone → Prop} {a s : State} (x : List Byte) (h : Kept K a s) :
    Kept K a (takeInterleave x s) := by
  unfold takeInterleave
  try dsimp only
  repeat' (first
    | with_reducible assumption
    | with_reducible apply showSpares_kept
    | with_reducible apply putSect_kept
    | with_reducible apply rekey_kept
    | split
    | (show KeptF _ a _ _ _ _ _ _ _ _ _; dsimp only; with_reducible apply Kept.of))

theorem takeImage_kept {K : Keystone → Keystone → Prop} {a s : State} (b : List Byte) (h : Kept K a s) :
    Kept K a (takeImage b s) := by
  unfold takeImage
  try dsimp only
  repeat' (first
    | with_reducible assumption
    | with_reducible apply takeSection_kept
    | with_reducible apply takeRetire_kept
    | with_reducible apply showPorts_kept
    | with_reducible apply putSect_kept
    | with_reducible apply resetPools_kept
    | with_reducible apply onFab_kept
    | with_reducible apply showGroups_kept
    | with_reducible apply takeInterleave_kept
    | with_reducible apply sentinelPeriod_kept
    | with_reducible apply traceDropAll_kept
    | with_reducible apply useSections_kept
    | split
    | (show KeptF _ a _ _ _ _ _ _ _ _ _; dsimp only; with_reducible apply Kept.of))

theorem acceptedImage_kept {K : Keystone → Keystone → Prop} {a s : State} (b : List Byte) (h : Kept K a s) :
    Kept K a (acceptedImage b s) := by
  unfold acceptedImage
  try dsimp only
  repeat' (first
    | with_reducible assumption
    | with_reducible apply wf_kept)

theorem armPartial_kept {K : Keystone → Keystone → Prop} {a s : State} (b : List Byte) (h : Kept K a s) :
    Kept K a (armPartial b s) := by
  unfold armPartial
  try dsimp only
  repeat' (first
    | with_reducible assumption
    | with_reducible apply takeSection_kept
    | with_reducible apply wf_kept
    | intro _
    | with_reducible apply Kept.foldl
    | (show KeptF _ a _ _ _ _ _ _ _ _ _; dsimp only; with_reducible apply Kept.of))

theorem execValidationEnd_kept {K : Keystone → Keystone → Prop} {a s : State} (cycles : Nat) (h : Kept K a s) :
    KeptOut K a (execValidationEnd cycles s) := by
  unfold execValidationEnd
  try dsimp only
  repeat' (first
    | with_reducible assumption
    | with_reducible apply imgReject_kept
    | with_reducible apply stagedRead_kept
    | with_reducible apply wf_kept
    | with_reducible apply acceptedImage_kept
    | with_reducible apply armPartial_kept
    | with_reducible apply tstCharge_kept
    | with_reducible apply KeptOut.next
    | split)

theorem imgActive_kept {K : Keystone → Keystone → Prop} {a s : State} (port : Nat) (serial : Nat) (digest : List Byte) (h : Kept K a s) :
    Kept K a (imgActive port serial digest s) := by
  unfold imgActive
  try dsimp only
  repeat' (first
    | with_reducible assumption
    | with_reducible apply raiseEvent_kept
    | with_reducible apply wf_kept
    | with_reducible apply putCfg_kept
    | with_reducible apply wn64_kept
    | (show KeptF _ a _ _ _ _ _ _ _ _ _; dsimp only; with_reducible apply Kept.of))

theorem execCommitEnd_kept {K : Keystone → Keystone → Prop} {a s : State} (h : Kept K a s) :
    KeptOut K a (execCommitEnd s) := by
  unfold execCommitEnd
  try dsimp only
  repeat' (first
    | with_reducible assumption
    | with_reducible apply imgActive_kept
    | with_reducible apply takeImage_kept
    | with_reducible apply stagedRead_kept
    | with_reducible apply KeptOut.next
    | split)

theorem applyArmed_kept {K : Keystone → Keystone → Prop} {a s : State} (h : Kept K a s) :
    Kept K a (applyArmed s) := by
  unfold applyArmed
  try dsimp only
  repeat' (first
    | with_reducible assumption
    | with_reducible apply showGroups_kept
    | with_reducible apply imgActive_kept
    | split)

theorem copySections_kept {K : Keystone → Keystone → Prop} {a s : State} (h : Kept K a s) :
    Kept K a (copySections s) := by
  unfold copySections
  try dsimp only
  repeat' (first
    | with_reducible assumption
    | with_reducible apply copySection_kept
    | with_reducible apply Kept.foldl)

theorem onMg_kept {K : Keystone → Keystone → Prop} {a s : State} (f : Mgmt → Mgmt) (h : Kept K a s) :
    Kept K a (onMg f s) := by
  unfold onMg
  try dsimp only
  repeat' (first
    | with_reducible assumption
    | (show KeptF _ a _ _ _ _ _ _ _ _ _; dsimp only; with_reducible apply Kept.of))

theorem bootStage_kept {K : Keystone → Keystone → Prop} {a s : State} (st : Nat) (h : Kept K a s) :
    Kept K a (bootStage st s) := by
  unfold bootStage
  try dsimp only
  repeat' (first
    | with_reducible assumption
    | with_reducible apply wf_kept)

theorem enrollReject_kept {K : Keystone → Keystone → Prop} {a s : State} (port : Nat) (code : Nat) (h : Kept K a s) :
    Kept K a (enrollReject port code s) := by
  unfold enrollReject
  try dsimp only
  repeat' (first
    | with_reducible assumption
    | with_reducible apply raiseEvent_kept
    | with_reducible apply wf_kept)

theorem writeBootCtrl_kept {K : Keystone → Keystone → Prop} {a s : State} (p : GPort) (w : Word) (h : Kept K a s) :
    Kept K a (writeBootCtrl p w s).1 := by
  unfold writeBootCtrl
  try dsimp only
  repeat' (first
    | with_reducible assumption
    | with_reducible apply wn_kept
    | with_reducible apply klDenied_kept
    | with_reducible apply onMg_kept
    | with_reducible apply bootStage_kept
    | with_reducible apply enrollReject_kept
    | split)

theorem execLoadFw_kept {K : Keystone → Keystone → Prop} {a s : State} (hK : KsWaits K) (p : GPort) (h : Kept K a s) :
    KeptOut K a (execLoadFw p s) := by
  unfold execLoadFw
  try dsimp only
  repeat' (first
    | with_reducible assumption
    | with_reducible apply wrRow_kept
    | with_reducible apply writeBootCtrl_kept
    | intro _
    | with_reducible apply KeptOut.next)

theorem execFwCheckEnd_kept {K : Keystone → Keystone → Prop} {a s : State} (h : Kept K a s) :
    KeptOut K a (execFwCheckEnd s) := by
  unfold execFwCheckEnd
  try dsimp only
  repeat' (first
    | with_reducible assumption
    | with_reducible apply raiseEvent_kept
    | with_reducible apply wf_kept
    | with_reducible apply bootStage_kept
    | with_reducible apply stagedRead_kept
    | with_reducible apply KeptOut.next
    | split
    | (show KeptF _ a _ _ _ _ _ _ _ _ _; dsimp only; with_reducible apply Kept.of))

theorem execEnroll_kept {K : Keystone → Keystone → Prop} {a s : State} (hK : KsWaits K) (p : GPort) (h : Kept K a s) :
    KeptOut K a (execEnroll p s) := by
  unfold execEnroll
  try dsimp only
  repeat' (first
    | with_reducible assumption
    | with_reducible apply wrRow_kept
    | with_reducible apply writeBootCtrl_kept
    | intro _
    | with_reducible apply KeptOut.next)

theorem execEnrollEnd_kept {K : Keystone → Keystone → Prop} {a s : State} (h : Kept K a s) :
    KeptOut K a (execEnrollEnd s) := by
  unfold execEnrollEnd
  split
  · exact h
  · next port b hb =>
    have h1 : Kept K a (onMg (fun m => { m with enroll := none }) s) := h
    dsimp only
    split
    · next hc =>
      refine KeptOut.next (raiseEvent_kept _ (wf_kept _ _ _ _ ?_))
      exact ⟨h1.pending, h1.fuses, h1.otp.trans (erFuse_le _ _ _ hc), h1.free, h1.out, h1.hbm, h1.regs, h1.store, h1.ks⟩
    · exact KeptOut.next (enrollReject_kept _ _ h1)

theorem writeAttCtrl_kept {K : Keystone → Keystone → Prop} {a s : State} (p : GPort) (n : Nat) (w : Word) (h : Kept K a s) :
    Kept K a (writeAttCtrl p n w s).1 := by
  unfold writeAttCtrl
  try dsimp only
  repeat' (first
    | with_reducible assumption
    | with_reducible apply onMg_kept
    | with_reducible apply wn_kept
    | split)

theorem execAttestationGo_kept {K : Keystone → Keystone → Prop} {a s : State} (hK : KsWaits K) (p : GPort) (n : GPort) (h : Kept K a s) :
    KeptOut K a (execAttestationGo p n s) := by
  unfold execAttestationGo
  try dsimp only
  repeat' (first
    | with_reducible assumption
    | with_reducible apply wrRow_kept
    | with_reducible apply writeAttCtrl_kept
    | intro _
    | with_reducible apply KeptOut.next)

theorem execAttestationDone_kept {K : Keystone → Keystone → Prop} {a s : State} (n : GPort) (h : Kept K a s) :
    KeptOut K a (execAttestationDone n s) := by
  unfold execAttestationDone
  try dsimp only
  repeat' (first
    | with_reducible assumption
    | with_reducible apply wn_kept
    | with_reducible apply putCfg_kept
    | with_reducible apply onMg_kept
    | with_reducible apply KeptOut.next
    | split)

theorem pushCmd_kept {K : Keystone → Keystone → Prop} {a s : State} (p : Nat) (e : Nat) (b : List Byte) (h : Kept K a s) :
    Kept K a (pushCmd p e b s) := by
  unfold pushCmd
  try dsimp only
  repeat' (first
    | with_reducible assumption
    | with_reducible apply onEng_kept
    | with_reducible apply onPier_kept
    | with_reducible apply traced_kept
    | split)

theorem pushStaged_kept {K : Keystone → Keystone → Prop} {a s : State} (p : Nat) (e : Nat) (h : Kept K a s) :
    Kept K a (pushStaged p e s) := by
  unfold pushStaged
  try dsimp only
  repeat' (first
    | with_reducible assumption
    | with_reducible apply onPier_kept
    | with_reducible apply pushCmd_kept
    | split)

theorem stagePort_kept {K : Keystone → Keystone → Prop} {a s : State} (p : Nat) (e : Nat) (off : Nat) (bs : List Byte) (h : Kept K a s) :
    Kept K a (stagePort p e off bs s) := by
  unfold stagePort
  try dsimp only
  repeat' (first
    | with_reducible assumption
    | with_reducible apply onEng_kept)

theorem unstall_kept {K : Keystone → Keystone → Prop} {a s : State} (p : Nat) (e : Nat) (h : Kept K a s) :
    Kept K a (unstall p e s) := by
  unfold unstall
  try dsimp only
  repeat' (first
    | with_reducible assumption
    | with_reducible apply pushCmd_kept
    | with_reducible apply onPier_kept
    | split)

theorem breakHead_kept {K : Keystone → Keystone → Prop} {a s : State} (p : Nat) (x : Nat) (e : Nat) (cause : Nat) (h_ : QCmd) (h : Kept K a s) :
    Kept K a (breakHead p x e cause h_ s) := by
  unfold breakHead
  try dsimp only
  repeat' (first
    | with_reducible assumption
    | with_reducible apply onPier_kept
    | with_reducible apply wn_kept
    | with_reducible apply traced_kept
    | with_reducible apply raiseEvent_kept)

theorem readDesc_kept {K : Keystone → Keystone → Prop} {a s : State} (p : Nat) (e : Nat) (r : RunCmd) (h : Kept K a s) :
    Kept K a (readDesc p e r s) := by
  unfold readDesc
  try dsimp only
  repeat' (first
    | with_reducible assumption
    | with_reducible apply fetch_kept
    | with_reducible apply onEng_kept
    | with_reducible apply finish_kept
    | split
    | with_reducible refine Kept.snd (by with_reducible assumption) ?_)

theorem takeHead_kept {K : Keystone → Keystone → Prop} {a s : State} (p : Nat) (x : Nat) (e : Nat) (h_ : QCmd) (h : Kept K a s) :
    Kept K a (takeHead p x e h_ s) := by
  unfold takeHead
  try dsimp only
  repeat' (first
    | with_reducible assumption
    | with_reducible apply traced_kept
    | with_reducible apply wn_kept
    | with_reducible apply onPier_kept
    | with_reducible apply onEng_kept
    | with_reducible apply unstall_kept
    | with_reducible apply noteKind_kept
    | with_reducible apply malformed_kept
    | with_reducible apply readDesc_kept
    | split)

theorem dequeueHead_kept {K : Keystone → Keystone → Prop} {a s : State} (p : Nat) (x : Nat) (e : Nat) (h_ : QCmd) (h : Kept K a s) :
    Kept K a (dequeueHead p x e h_ s) := by
  unfold dequeueHead
  try dsimp only
  repeat' (first
    | with_reducible assumption
    | with_reducible apply breakHead_kept
    | with_reducible apply takeHead_kept
    | with_reducible apply traced_kept
    | with_reducible apply onEng_kept
    | with_reducible apply wf_kept
    | split)

theorem tryDequeue_kept {K : Keystone → Keystone → Prop} {a s : State} (p : Nat) (e : Nat) (h : Kept K a s) :
    Kept K a (tryDequeue p e s) := by
  unfold tryDequeue
  try dsimp only
  repeat' (first
    | with_reducible assumption
    | with_reducible apply dequeueHead_kept
    | split)

theorem execCommandDequeue_kept {K : Keystone → Keystone → Prop} {a s : State} (p : PierNo) (e : Fin 8) (h : Kept K a s) :
    KeptOut K a (execCommandDequeue p e s) := by
  unfold execCommandDequeue
  try dsimp only
  repeat' (first
    | with_reducible assumption
    | with_reducible apply tryDequeue_kept
    | with_reducible apply KeptOut.next)

theorem execCommandComplete_kept {K : Keystone → Keystone → Prop} {a s : State} (p : PierNo) (e : Fin 8) (h : Kept K a s) :
    KeptOut K a (execCommandComplete p e s) := by
  unfold execCommandComplete
  try dsimp only
  repeat' (first
    | with_reducible assumption
    | with_reducible apply completeRunning_kept
    | with_reducible apply completeCmd_kept
    | with_reducible apply onEng_kept
    | with_reducible apply KeptOut.next
    | split)

theorem execSync_kept {K : Keystone → Keystone → Prop} {a s : State} (p : PierNo) (e : Fin 8) (h : Kept K a s) :
    KeptOut K a (execSync p e s) := by
  unfold execSync
  try dsimp only
  repeat' (first
    | with_reducible assumption
    | with_reducible apply runOp_kept
    | with_reducible apply finish_kept
    | intro _
    | with_reducible apply KeptOut.next)

theorem writePierFlag_kept {K : Keystone → Keystone → Prop} {a s : State} (p : GPort) (q : Nat) (k : Nat) (w : Word) (h : Kept K a s) :
    Kept K a (writePierFlag p q k w s).1 := by
  unfold writePierFlag
  try dsimp only
  repeat' (first
    | with_reducible assumption
    | with_reducible apply klDenied_kept
    | with_reducible apply wf_kept
    | split)

theorem execPierFlagWrite_kept {K : Keystone → Keystone → Prop} {a s : State} (hK : KsWaits K) (p : GPort) (q : PierNo) (k : Fin 256) (w : Word) (h : Kept K a s) :
    KeptOut K a (execPierFlagWrite p q k w s) := by
  unfold execPierFlagWrite
  try dsimp only
  repeat' (first
    | with_reducible assumption
    | with_reducible apply wrRow_kept
    | with_reducible apply writePierFlag_kept
    | intro _
    | with_reducible apply KeptOut.next)

theorem latchHead_kept {K : Keystone → Keystone → Prop} {a s : State} (p : Nat) (x : Nat) (e : Nat) (h : Kept K a s) :
    Kept K a (latchHead p x s e) := by
  unfold latchHead
  try dsimp only
  repeat' (first
    | with_reducible assumption
    | with_reducible apply wn_kept
    | split)

theorem fireTightrope_kept {K : Keystone → Keystone → Prop} {a s : State} (p : Nat) (x : Nat) (h : Kept K a s) :
    Kept K a (fireTightrope p x s) := by
  unfold fireTightrope
  try dsimp only
  repeat' (first
    | with_reducible assumption
    | with_reducible apply latchHead_kept
    | with_reducible apply wn_kept
    | with_reducible apply traced_kept
    | with_reducible apply raiseFault_kept
    | intro _
    | with_reducible apply Kept.foldl)

theorem execTightrope_kept {K : Keystone → Keystone → Prop} {a s : State} (q : PierNo) (h : Kept K a s) :
    KeptOut K a (execTightrope q s) := by
  unfold execTightrope
  try dsimp only
  repeat' (first
    | with_reducible assumption
    | with_reducible apply fireTightrope_kept
    | with_reducible apply KeptOut.next
    | split)

theorem resumePier_kept {K : Keystone → Keystone → Prop} {a s : State} (q : Nat) (again : Bool) (h : Kept K a s) :
    Kept K a (resumePier q again s) := by
  unfold resumePier
  try dsimp only
  repeat' (first
    | with_reducible assumption
    | with_reducible apply onPier_kept
    | with_reducible apply wf_kept
    | with_reducible apply tryDequeue_kept)

theorem writeBrkCtrl_kept {K : Keystone → Keystone → Prop} {a s : State} (p : GPort) (q : Nat) (w : Word) (h : Kept K a s) :
    Kept K a (writeBrkCtrl p q w s).1 := by
  unfold writeBrkCtrl
  try dsimp only
  repeat' (first
    | with_reducible assumption
    | with_reducible apply klDenied_kept
    | with_reducible apply resumePier_kept
    | with_reducible apply wf_kept
    | split)

theorem execBreakResume_kept {K : Keystone → Keystone → Prop} {a s : State} (hK : KsWaits K) (p : GPort) (q : PierNo) (h : Kept K a s) :
    KeptOut K a (execBreakResume p q s) := by
  unfold execBreakResume
  try dsimp only
  repeat' (first
    | with_reducible assumption
    | with_reducible apply wrRow_kept
    | with_reducible apply writeBrkCtrl_kept
    | intro _
    | with_reducible apply KeptOut.next)

theorem execBreakStep_kept {K : Keystone → Keystone → Prop} {a s : State} (hK : KsWaits K) (p : GPort) (q : PierNo) (h : Kept K a s) :
    KeptOut K a (execBreakStep p q s) := by
  unfold execBreakStep
  try dsimp only
  repeat' (first
    | with_reducible assumption
    | with_reducible apply wrRow_kept
    | with_reducible apply writeBrkCtrl_kept
    | intro _
    | with_reducible apply KeptOut.next)

theorem startTrace_kept {K : Keystone → Keystone → Prop} {a s : State} (i : Nat) (h : Kept K a s) :
    Kept K a (startTrace i s) := by
  unfold startTrace
  try dsimp only
  repeat' (first
    | with_reducible assumption
    | with_reducible apply wn_kept
    | with_reducible apply wn64_kept
    | with_reducible apply wf_kept
    | (show KeptF _ a _ _ _ _ _ _ _ _ _; dsimp only; with_reducible apply Kept.of))

theorem writeTrcEn_kept {K : Keystone → Keystone → Prop} {a s : State} (p : GPort) (i : Nat) (w : Word) (h : Kept K a s) :
    Kept K a (writeTrcEn p i w s).1 := by
  unfold writeTrcEn
  try dsimp only
  repeat' (first
    | with_reducible assumption
    | with_reducible apply klDenied_kept
    | with_reducible apply wf_kept
    | with_reducible apply startTrace_kept
    | split)

theorem execTraceEnable_kept {K : Keystone → Keystone → Prop} {a s : State} (hK : KsWaits K) (p : GPort) (i : Fin 16) (w : Word) (h : Kept K a s) :
    KeptOut K a (execTraceEnable p i w s) := by
  unfold execTraceEnable
  try dsimp only
  repeat' (first
    | with_reducible assumption
    | with_reducible apply wrRow_kept
    | with_reducible apply writeTrcEn_kept
    | intro _
    | with_reducible apply KeptOut.next)

theorem writeTrace_kept {K : Keystone → Keystone → Prop} {a s : State} (i : Nat) (b : List Byte) (h : Kept K a s) :
    Kept K a (writeTrace i b s) := by
  unfold writeTrace
  try dsimp only
  repeat' (first
    | with_reducible assumption
    | with_reducible apply wn64_kept
    | with_reducible apply hbmWr_kept
    | with_reducible apply raiseEvent_kept
    | with_reducible apply wf_kept
    | split)

theorem execTraceRecordWrite_kept {K : Keystone → Keystone → Prop} {a s : State} (i : Fin 16) (cycles : Nat) (h : Kept K a s) :
    KeptOut K a (execTraceRecordWrite i cycles s) := by
  unfold execTraceRecordWrite
  try dsimp only
  repeat' (first
    | with_reducible assumption
    | with_reducible apply traceDrop_kept
    | with_reducible apply writeTrace_kept
    | with_reducible apply tstCharge_kept
    | with_reducible apply KeptOut.next
    | split
    | (show KeptF _ a _ _ _ _ _ _ _ _ _; dsimp only; with_reducible apply Kept.of))

theorem girderNans_kept {K : Keystone → Keystone → Prop} {a s : State} (p : Nat) (g : Nat) (r : RunCmd) (ps : List (Nat × Nat)) (h : Kept K a s) :
    Kept K a (girderNans p g r ps s) := by
  unfold girderNans
  try dsimp only
  repeat' (first
    | with_reducible assumption
    | with_reducible apply nansProduced_kept)

theorem putRow_kept {K : Keystone → Keystone → Prop} {a s : State} (x : Nat) (p : Nat) (a_ : Nat) (f : Nat) (pats : List Nat) (scales : List Nat) (h : Kept K a s) :
    Kept K a (putRow x p a_ f pats scales s) := by
  unfold putRow
  try dsimp only
  repeat' (first
    | with_reducible assumption
    | with_reducible apply ctxLocWr_kept
    | split)

theorem freeRows_kept {K : Keystone → Keystone → Prop} {a s : State} (p : Nat) (r : RunCmd) (rows : List Nat) (h : Kept K a s) :
    Kept K a (freeRows p r rows s) := by
  unfold freeRows
  try dsimp only
  repeat' (first
    | with_reducible assumption
    | with_reducible apply ctxLocWr_kept
    | with_reducible apply tookFree_kept
    | intro _
    | with_reducible apply Kept.foldl
    | split)

theorem putRows_kept {K : Keystone → Keystone → Prop} {a s : State} (p : Nat) (r : RunCmd) (rows : List MmRow) (h : Kept K a s) :
    Kept K a (putRows p r rows s) := by
  unfold putRows
  try dsimp only
  repeat' (first
    | with_reducible assumption
    | with_reducible apply putRow_kept
    | intro _
    | with_reducible apply Kept.foldl
    | split)

theorem pierCorr_kept {K : Keystone → Keystone → Prop} {a s : State} (p : Nat) (g : Nat) (r : RunCmd) (x : PierErr) (h : Kept K a s) :
    Kept K a (pierCorr p g r x s) := by
  unfold pierCorr
  try dsimp only
  repeat' (first
    | with_reducible assumption
    | with_reducible apply raiseFault_kept
    | split)

theorem checkFault_kept {K : Keystone → Keystone → Prop} {a s : State} (p : Nat) (g : Nat) (r : RunCmd) (x : PierErr) (h : Kept K a s) :
    Kept K a (checkFault p g r x s) := by
  unfold checkFault
  try dsimp only
  repeat' (first
    | with_reducible assumption
    | with_reducible apply byFault_kept
    | with_reducible apply rivetMismatch_kept
    | split)

theorem girderErr_kept {K : Keystone → Keystone → Prop} {a s : State} (p : Nat) (g : Nat) (r : RunCmd) (x : PierErr) (h : Kept K a s) :
    Kept K a (girderErr p g r x s) := by
  unfold girderErr
  try dsimp only
  repeat' (first
    | with_reducible assumption
    | with_reducible apply finish_kept
    | with_reducible apply checkFault_kept
    | with_reducible apply freeRows_kept)

theorem matProduct_kept {K : Keystone → Keystone → Prop} {a s : State} (p : Nat) (g : Nat) (r : RunCmd) (h : Kept K a s) :
    Kept K a (matProduct p g r s).2.2 := by
  unfold matProduct
  try dsimp only
  repeat' (first
    | with_reducible assumption
    | with_reducible apply girderNans_kept
    | with_reducible apply putRows_kept
    | with_reducible apply finish_kept
    | with_reducible apply freeRows_kept
    | with_reducible apply byFault_kept
    | split)

theorem execMatmul_kept {K : Keystone → Keystone → Prop} {a s : State} (p : PierNo) (g : GirdNo) (x : PierErr) (h : Kept K a s) :
    KeptOut K a (execMatmul p g x s) := by
  unfold execMatmul
  try dsimp only
  repeat' (first
    | with_reducible assumption
    | with_reducible apply runOp_kept
    | with_reducible apply girderErr_kept
    | with_reducible apply matProduct_kept
    | with_reducible apply pierCorr_kept
    | intro _
    | with_reducible apply KeptOut.next
    | split)

theorem writeArray_kept {K : Keystone → Keystone → Prop} {a s : State} (p : Nat) (g : Nat) (r : RunCmd) (a_ : Nat) (tid : Nat) (es : List Elem) (h : Kept K a s) :
    Kept K a (writeArray p g r a_ tid es s) := by
  unfold writeArray
  try dsimp only
  repeat' (first
    | with_reducible assumption
    | with_reducible apply girderNans_kept
    | with_reducible apply putRow_kept)

theorem vecOp_kept {K : Keystone → Keystone → Prop} {a s : State} (p : Nat) (g : Nat) (op : Nat) (sram : Option (BitVec 24)) (faults : List Byte → List Nat) (d : List Byte → Nat) (n : List Byte → Nat) (tid : List Byte → Nat) (f : State → RunCmd → List Elem) (h : Kept K a s) :
    Kept K a (vecOp p g op sram faults d n tid f s) := by
  unfold vecOp
  try dsimp only
  repeat' (first
    | with_reducible assumption
    | with_reducible apply runOp_kept
    | with_reducible apply tookFree_kept
    | with_reducible apply ctxLocWr_kept
    | with_reducible apply finish_kept
    | with_reducible apply byFault_kept
    | with_reducible apply writeArray_kept
    | intro _
    | split)

theorem execConvert_kept {K : Keystone → Keystone → Prop} {a s : State} (p : PierNo) (g : GirdNo) (sram : Option (BitVec 24)) (h : Kept K a s) :
    KeptOut K a (execConvert p g sram s) := by
  unfold execConvert
  try dsimp only
  repeat' (first
    | with_reducible assumption
    | with_reducible apply vecOp_kept
    | with_reducible apply KeptOut.next)

theorem execElemwise_kept {K : Keystone → Keystone → Prop} {a s : State} (p : PierNo) (g : GirdNo) (sram : Option (BitVec 24)) (h : Kept K a s) :
    KeptOut K a (execElemwise p g sram s) := by
  unfold execElemwise
  try dsimp only
  repeat' (first
    | with_reducible assumption
    | with_reducible apply vecOp_kept
    | with_reducible apply KeptOut.next)

theorem execSoftmax_kept {K : Keystone → Keystone → Prop} {a s : State} (p : PierNo) (g : GirdNo) (sram : Option (BitVec 24)) (h : Kept K a s) :
    KeptOut K a (execSoftmax p g sram s) := by
  unfold execSoftmax
  try dsimp only
  repeat' (first
    | with_reducible assumption
    | with_reducible apply vecOp_kept
    | with_reducible apply KeptOut.next)

theorem execNorm_kept {K : Keystone → Keystone → Prop} {a s : State} (p : PierNo) (g : GirdNo) (sram : Option (BitVec 24)) (h : Kept K a s) :
    KeptOut K a (execNorm p g sram s) := by
  unfold execNorm
  try dsimp only
  repeat' (first
    | with_reducible assumption
    | with_reducible apply vecOp_kept
    | with_reducible apply KeptOut.next)

theorem execLreduce_kept {K : Keystone → Keystone → Prop} {a s : State} (p : PierNo) (g : GirdNo) (sram : Option (BitVec 24)) (h : Kept K a s) :
    KeptOut K a (execLreduce p g sram s) := by
  unfold execLreduce
  try dsimp only
  repeat' (first
    | with_reducible assumption
    | with_reducible apply vecOp_kept
    | with_reducible apply KeptOut.next)

theorem copyRows_kept {K : Keystone → Keystone → Prop} {a s : State} (w : By) (n : Nat) (z2 : List (Nat × Nat)) (h : Kept K a s) :
    Kept K a (copyRows w n z2 s).2 := by
  revert h
  fun_induction copyRows w n z2 s <;> intro h
  all_goals try dsimp only
  repeat' (first
    | with_reducible assumption
    | with_reducible refine (show Kept _ a _ → Kept _ a _ by with_reducible assumption) ?_
    | with_reducible apply fetch_kept
    | with_reducible apply store_kept
    | intro _
    | with_reducible apply Kept.foldl
    | with_reducible apply Kept.foldl2
    | with_reducible apply Kept.foldl1
    | with_reducible apply Kept.foldl22
    | with_reducible apply Kept.foldlW
    | with_reducible apply KeptOut.next
    | with_reducible apply KeptOpt.some
    | with_reducible exact KeptOpt.none
    | split
    | with_reducible refine Kept.snd (by with_reducible assumption) ?_
    | with_reducible refine Kept.fst (by with_reducible assumption) ?_
    | with_reducible refine Kept.snd2 (by with_reducible assumption) ?_
    | with_reducible refine Kept.snd1 (by with_reducible assumption) ?_
    | with_reducible refine Kept.opt (by with_reducible assumption) ?_
    | (show KeptF _ a _ _ _ _ _ _ _ _ _; dsimp only; with_reducible apply Kept.of)
    | dsimp only)

theorem freeDest_kept {K : Keystone → Keystone → Prop} {a s : State} (w : By) (n : Nat) (ds : List Nat) (h : Kept K a s) :
    Kept K a (freeDest w n ds s) := by
  unfold freeDest
  try dsimp only
  repeat' (first
    | with_reducible assumption
    | with_reducible apply tookFree_kept
    | with_reducible apply store_kept
    | intro _
    | with_reducible apply Kept.foldl)

theorem copyListed_kept {K : Keystone → Keystone → Prop} {a s : State} (w : By) (b : List Byte) (rows : List Nat) (h : Kept K a s) :
    Kept K a (copyListed w b rows s).2 := by
  unfold copyListed
  try dsimp only
  repeat' (first
    | with_reducible assumption
    | with_reducible apply copyRows_kept
    | with_reducible apply freeDest_kept
    | split)

theorem meetReads_kept {K : Keystone → Keystone → Prop} {a s : State} (w : By) (b : List Byte) (x : MemSeen) (sram : Option (BitVec 24)) (h : Kept K a s) :
    Kept K a (meetReads w b x sram s).2 := by
  unfold meetReads
  try dsimp only
  repeat' (first
    | with_reducible assumption
    | with_reducible apply meetEcc_kept
    | with_reducible apply byFault_kept
    | split)

theorem transfer_kept {K : Keystone → Keystone → Prop} {a s : State} (p : Nat) (e : Nat) (op : Nat) (mine : List Byte → Bool) (faults : List Byte → List Nat) (x : MemSeen) (sram : Option (BitVec 24)) (f : By → RunCmd → State → Bool × State) (hf : ∀ y0 y1 y2, Kept K a y2 → Kept K a (f y0 y1 y2).2) (h : Kept K a s) :
    Kept K a (transfer p e op mine faults x sram f s) := by
  unfold transfer
  try dsimp only
  repeat' (first
    | with_reducible assumption
    | with_reducible apply runOp_kept
    | with_reducible apply meetReads_kept
    | with_reducible apply finish_kept
    | with_reducible apply hf
    | intro _
    | split)

theorem execLoad_kept {K : Keystone → Keystone → Prop} {a s : State} (p : PierNo) (x : MemSeen) (sram : Option (BitVec 24)) (h : Kept K a s) :
    KeptOut K a (execLoad p x sram s) := by
  unfold execLoad
  try dsimp only
  repeat' (first
    | with_reducible assumption
    | with_reducible apply transfer_kept
    | with_reducible apply copyListed_kept
    | intro _
    | with_reducible apply KeptOut.next)

theorem execStore_kept {K : Keystone → Keystone → Prop} {a s : State} (p : PierNo) (x : MemSeen) (sram : Option (BitVec 24)) (h : Kept K a s) :
    KeptOut K a (execStore p x sram s) := by
  unfold execStore
  try dsimp only
  repeat' (first
    | with_reducible assumption
    | with_reducible apply transfer_kept
    | with_reducible apply copyListed_kept
    | intro _
    | with_reducible apply KeptOut.next)

theorem writeList_kept {K : Keystone → Keystone → Prop} {a s : State} (x : Nat) (p : Nat) (a_ : Nat) (rows : List Nat) (h : Kept K a s) :
    Kept K a (writeList x p a_ rows s) := by
  unfold writeList
  try dsimp only
  repeat' (first
    | with_reducible assumption
    | with_reducible apply ctxLocWr_kept)

theorem countAudit_kept {K : Keystone → Keystone → Prop} {a s : State} (x : Nat) (act : Nat) (miss : Nat) (h : Kept K a s) :
    Kept K a (countAudit x act miss s) := by
  unfold countAudit
  try dsimp only
  repeat' (first
    | with_reducible assumption
    | with_reducible apply bump_kept
    | with_reducible apply wn_kept
    | with_reducible apply raiseEvent_kept
    | split)

theorem auditLoad_kept {K : Keystone → Keystone → Prop} {a s : State} (p : Nat) (r : RunCmd) (rows : List Nat) (h : Kept K a s) :
    Kept K a (auditLoad p r rows s) := by
  unfold auditLoad
  try dsimp only
  repeat' (first
    | with_reducible assumption
    | with_reducible apply countAudit_kept
    | split)

theorem execLoadRowSelection_kept {K : Keystone → Keystone → Prop} {a s : State} (p : PierNo) (x : MemSeen) (sram : Option (BitVec 24)) (h : Kept K a s) :
    KeptOut K a (execLoadRowSelection p x sram s) := by
  unfold execLoadRowSelection
  try dsimp only
  repeat' (first
    | with_reducible assumption
    | with_reducible apply transfer_kept
    | with_reducible apply copyListed_kept
    | with_reducible apply auditLoad_kept
    | with_reducible apply writeList_kept
    | intro _
    | with_reducible apply KeptOut.next
    | split)

end Sys2Proof.Machine
end

