-- ==== Sys2Proof/Laws/KeptFive.lean ====
section
/-! SUPPORT. What operations keep, continued: one lemma for each operation, in the order of the model's files. -/

namespace Sys2Proof.Machine
open Sys2Proof

theorem execLoadListin_kept {K : Keystone → Keystone → Prop} {a s : State} (p : PierNo) (x : MemSeen) (sram : Option (BitVec 24)) (h : Kept K a s) :
    KeptOut K a (execLoadListin p x sram s) := by
  unfold execLoadListin
  try dsimp only
  repeat' (first
    | with_reducible assumption
    | with_reducible apply transfer_kept
    | with_reducible apply byFault_kept
    | with_reducible apply copyListed_kept
    | intro _
    | with_reducible apply KeptOut.next
    | split)

theorem putBucket_kept {K : Keystone → Keystone → Prop} {a s : State} (q : Nat) (b : Nat) (l : Int) (h : Kept K a s) :
    Kept K a (putBucket q b l s) := by
  unfold putBucket
  try dsimp only
  repeat' (first
    | with_reducible assumption
    | with_reducible apply onFab_kept)

theorem tickBucket_kept {K : Keystone → Keystone → Prop} {a s : State} (q : Nat) (b : Nat) (rate : Nat) (burst : Nat) (h : Kept K a s) :
    Kept K a (tickBucket q b rate burst s) := by
  unfold tickBucket
  try dsimp only
  repeat' (first
    | with_reducible assumption
    | with_reducible apply putBucket_kept)

theorem tickQueue_kept {K : Keystone → Keystone → Prop} {a s : State} (e : List Byte) (q : Nat) (h : Kept K a s) :
    Kept K a (tickQueue e q s) := by
  unfold tickQueue
  try dsimp only
  repeat' (first
    | with_reducible assumption
    | with_reducible apply tickBucket_kept
    | split)

theorem tickQueues_kept {K : Keystone → Keystone → Prop} {a s : State} (z0 : Nat) (z1 : Nat) (z2 : List Byte) (z3 : List Byte) (h : Kept K a s) :
    Kept K a (tickQueues z0 z1 z2 z3 s) := by
  revert h
  fun_induction tickQueues z0 z1 z2 z3 s <;> intro h
  all_goals try dsimp only
  repeat' (first
    | with_reducible assumption
    | with_reducible refine (show Kept _ a _ → Kept _ a _ by with_reducible assumption) ?_
    | with_reducible apply tickQueue_kept
    | intro _
    | with_reducible apply Kept.foldl
    | with_reducible apply Kept.foldl2
    | with_reducible apply Kept.foldl1
    | with_reducible apply Kept.foldl22
    | with_reducible apply Kept.foldlW
    | with_reducible apply KeptOut.next
    | with_reducible apply KeptOpt.some
    | with_reducible exact KeptOpt.none
    | split
    | with_reducible refine Kept.snd (by with_reducible assumption) ?_
    | with_reducible refine Kept.fst (by with_reducible assumption) ?_
    | with_reducible refine Kept.snd2 (by with_reducible assumption) ?_
    | with_reducible refine Kept.snd1 (by with_reducible assumption) ?_
    | with_reducible refine Kept.opt (by with_reducible assumption) ?_
    | (show KeptF _ a _ _ _ _ _ _ _ _ _; dsimp only; with_reducible apply Kept.of)
    | dsimp only)

theorem tickBuckets_kept {K : Keystone → Keystone → Prop} {a s : State} (h : Kept K a s) :
    Kept K a (tickBuckets s) := by
  unfold tickBuckets
  try dsimp only
  repeat' (first
    | with_reducible assumption
    | with_reducible apply tickQueues_kept
    | split)

theorem chargeBuckets_kept {K : Keystone → Keystone → Prop} {a s : State} (q : Nat) (e : List Byte) (b : List Byte) (h : Kept K a s) :
    Kept K a (chargeBuckets q e b s) := by
  unfold chargeBuckets
  try dsimp only
  repeat' (first
    | with_reducible assumption
    | with_reducible apply putBucket_kept
    | split)

theorem execEgressStart_kept {K : Keystone → Keystone → Prop} {a s : State} (k : Fin 528) (h : Kept K a s) :
    KeptOut K a (execEgressStart k s) := by
  unfold execEgressStart
  try dsimp only
  repeat' (first
    | with_reducible assumption
    | with_reducible apply chargeBuckets_kept
    | with_reducible apply onFab_kept
    | with_reducible apply sideshow_kept
    | with_reducible apply KeptOut.next
    | split)

theorem execEgressPacketEnd_kept {K : Keystone → Keystone → Prop} {a s : State} (k : Fin 528) (h : Kept K a s) :
    KeptOut K a (execEgressPacketEnd k s) := by
  unfold execEgressPacketEnd
  try dsimp only
  repeat' (first
    | with_reducible assumption
    | with_reducible apply onFab_kept
    | with_reducible apply sendLane_kept
    | with_reducible apply KeptOut.next
    | split)

theorem execAgeDrop_kept {K : Keystone → Keystone → Prop} {a s : State} (k : SlotNo) (bulk : Bool) (h : Kept K a s) :
    KeptOut K a (execAgeDrop k bulk s) := by
  unfold execAgeDrop
  try dsimp only
  repeat' (first
    | with_reducible assumption
    | with_reducible apply bump_kept
    | with_reducible apply onFab_kept
    | with_reducible apply KeptOut.next
    | split)

theorem sampleQueue_kept {K : Keystone → Keystone → Prop} {a s : State} (q : Nat) (h : Kept K a s) :
    Kept K a (sampleQueue q s) := by
  unfold sampleQueue
  try dsimp only
  repeat' (first
    | with_reducible assumption
    | with_reducible apply bump_kept
    | split)

theorem execSampleTick_kept {K : Keystone → Keystone → Prop} {a s : State} (h : Kept K a s) :
    KeptOut K a (execSampleTick s) := by
  unfold execSampleTick
  try dsimp only
  repeat' (first
    | with_reducible assumption
    | with_reducible apply sampleQueue_kept
    | with_reducible apply Kept.foldl
    | with_reducible apply KeptOut.next
    | split)

theorem execThrottleWindow_kept {K : Keystone → Keystone → Prop} {a s : State} (h : Kept K a s) :
    KeptOut K a (execThrottleWindow s) := by
  unfold execThrottleWindow
  try dsimp only
  repeat' (first
    | with_reducible assumption
    | with_reducible apply onFab_kept
    | intro _
    | with_reducible apply Kept.foldl
    | with_reducible apply KeptOut.next
    | split)

theorem notePeaks_kept {K : Keystone → Keystone → Prop} {a s : State} (h : Kept K a s) :
    Kept K a (notePeaks s) := by
  unfold notePeaks
  try dsimp only
  repeat' (first
    | with_reducible assumption
    | with_reducible apply wn_kept
    | intro _
    | with_reducible apply Kept.foldl
    | split)

theorem tickCarousel_kept {K : Keystone → Keystone → Prop} {a s : State} (h : Kept K a s) :
    Kept K a (tickCarousel s) := by
  unfold tickCarousel
  try dsimp only
  repeat' (first
    | with_reducible assumption
    | with_reducible apply notePeaks_kept
    | split
    | (show KeptF _ a _ _ _ _ _ _ _ _ _; dsimp only; with_reducible apply Kept.of))

theorem execResequencerRelease_kept {K : Keystone → Keystone → Prop} {a s : State} (n : NodeNo) (i : NodeNo) (cls : Fin 8) (h : Kept K a s) :
    KeptOut K a (execResequencerRelease n i cls s) := by
  unfold execResequencerRelease
  try dsimp only
  repeat' (first
    | with_reducible assumption
    | with_reducible apply onFab_kept
    | with_reducible apply KeptOut.next
    | split)

theorem sendPayload_kept {K : Keystone → Keystone → Prop} {a s : State} (x : Sending) (o : Nat) (data : List Byte) (h : Kept K a s) :
    Kept K a (sendPayload x o data s) := by
  unfold sendPayload
  try dsimp only
  repeat' (first
    | with_reducible assumption
    | with_reducible apply streamSend_kept
    | split)

theorem sendCuts_kept {K : Keystone → Keystone → Prop} {a s : State} (x : Sending) (z1 : List (Nat × Nat)) (h : Kept K a s) :
    Kept K a (sendCuts x z1 s).2 := by
  revert h
  fun_induction sendCuts x z1 s <;> intro h
  all_goals try dsimp only
  repeat' (first
    | with_reducible assumption
    | with_reducible refine (show Kept _ a _ → Kept _ a _ by with_reducible assumption) ?_
    | with_reducible apply fetch_kept
    | with_reducible apply sendPayload_kept
    | intro _
    | with_reducible apply Kept.foldl
    | with_reducible apply Kept.foldl2
    | with_reducible apply Kept.foldl1
    | with_reducible apply Kept.foldl22
    | with_reducible apply Kept.foldlW
    | with_reducible apply KeptOut.next
    | with_reducible apply KeptOpt.some
    | with_reducible exact KeptOpt.none
    | split
    | with_reducible refine Kept.snd (by with_reducible assumption) ?_
    | with_reducible refine Kept.fst (by with_reducible assumption) ?_
    | with_reducible refine Kept.snd2 (by with_reducible assumption) ?_
    | with_reducible refine Kept.snd1 (by with_reducible assumption) ?_
    | with_reducible refine Kept.opt (by with_reducible assumption) ?_
    | (show KeptF _ a _ _ _ _ _ _ _ _ _; dsimp only; with_reducible apply Kept.of)
    | dsimp only)

theorem sendData_kept {K : Keystone → Keystone → Prop} {a s : State} (x : Sending) (h : Kept K a s) :
    Kept K a (sendData x s).2 := by
  unfold sendData
  try dsimp only
  repeat' (first
    | with_reducible assumption
    | with_reducible apply sendCuts_kept)

theorem execSend_kept {K : Keystone → Keystone → Prop} {a s : State} (p : PierNo) (x : MemSeen) (sram : Option (BitVec 24)) (h : Kept K a s) :
    KeptOut K a (execSend p x sram s) := by
  unfold execSend
  try dsimp only
  repeat' (first
    | with_reducible assumption
    | with_reducible apply runOp_kept
    | with_reducible apply meetEcc_kept
    | with_reducible apply finish_kept
    | with_reducible apply byFault_kept
    | with_reducible apply sendData_kept
    | with_reducible apply track_kept
    | intro _
    | with_reducible apply KeptOut.next
    | split)

theorem execSrOpen_kept {K : Keystone → Keystone → Prop} {a s : State} (p : PierNo) (h : Kept K a s) :
    KeptOut K a (execSrOpen p s) := by
  unfold execSrOpen
  try dsimp only
  repeat' (first
    | with_reducible assumption
    | with_reducible apply runOp_kept
    | with_reducible apply finish_kept
    | with_reducible apply srWrite_kept
    | intro _
    | with_reducible apply KeptOut.next)

theorem cancelRecvs_kept {K : Keystone → Keystone → Prop} {a s : State} (p : Nat) (t : Recv → Bool) (h : Kept K a s) :
    Kept K a (cancelRecvs p t s) := by
  unfold cancelRecvs
  try dsimp only
  repeat' (first
    | with_reducible assumption
    | with_reducible apply onPier_kept
    | with_reducible apply completeCmd_kept
    | intro _
    | with_reducible apply Kept.foldl
    | split)

theorem cancelRecord_kept {K : Keystone → Keystone → Prop} {a s : State} (r : Nat) (h : Kept K a s) :
    Kept K a (cancelRecord r s) := by
  unfold cancelRecord
  try dsimp only
  repeat' (first
    | with_reducible assumption
    | with_reducible apply cancelRecvs_kept
    | intro _
    | with_reducible apply Kept.foldl)

theorem execSrClose_kept {K : Keystone → Keystone → Prop} {a s : State} (p : PierNo) (h : Kept K a s) :
    KeptOut K a (execSrClose p s) := by
  unfold execSrClose
  try dsimp only
  repeat' (first
    | with_reducible assumption
    | with_reducible apply runOp_kept
    | with_reducible apply onFab_kept
    | with_reducible apply cancelRecord_kept
    | with_reducible apply finish_kept
    | with_reducible apply srPut_kept
    | intro _
    | with_reducible apply KeptOut.next
    | split)

theorem arm_kept {K : Keystone → Keystone → Prop} {a s : State} (p : Nat) (v : Recv) (h : Kept K a s) :
    Kept K a (arm p v s) := by
  unfold arm
  try dsimp only
  repeat' (first
    | with_reducible assumption
    | with_reducible apply onPier_kept)

theorem recvOp_kept {K : Keystone → Keystone → Prop} {a s : State} (p : Nat) (mine : Nat → Bool) (f : RunCmd → State → State) (hf : ∀ y0 y1, Kept K a y1 → Kept K a (f y0 y1)) (h : Kept K a s) :
    Kept K a (recvOp p mine f s) := by
  unfold recvOp
  try dsimp only
  repeat' (first
    | with_reducible assumption
    | with_reducible apply runOp_kept
    | split)

theorem execRecvOneshot_kept {K : Keystone → Keystone → Prop} {a s : State} (p : PierNo) (h : Kept K a s) :
    KeptOut K a (execRecvOneshot p s) := by
  unfold execRecvOneshot
  try dsimp only
  repeat' (first
    | with_reducible assumption
    | with_reducible apply recvOp_kept
    | with_reducible apply onEng_kept
    | with_reducible apply arm_kept
    | intro _
    | with_reducible apply KeptOut.next)

theorem execRecvStanding_kept {K : Keystone → Keystone → Prop} {a s : State} (p : PierNo) (h : Kept K a s) :
    KeptOut K a (execRecvStanding p s) := by
  unfold execRecvStanding
  try dsimp only
  repeat' (first
    | with_reducible assumption
    | with_reducible apply recvOp_kept
    | with_reducible apply finish_kept
    | with_reducible apply onEng_kept
    | with_reducible apply arm_kept
    | intro _
    | with_reducible apply KeptOut.next)

theorem execRecvExpose_kept {K : Keystone → Keystone → Prop} {a s : State} (p : PierNo) (h : Kept K a s) :
    KeptOut K a (execRecvExpose p s) := by
  unfold execRecvExpose
  try dsimp only
  repeat' (first
    | with_reducible assumption
    | with_reducible apply recvOp_kept
    | with_reducible apply finish_kept
    | with_reducible apply arm_kept
    | intro _
    | with_reducible apply KeptOut.next)

theorem execRecvCancel_kept {K : Keystone → Keystone → Prop} {a s : State} (p : PierNo) (h : Kept K a s) :
    KeptOut K a (execRecvCancel p s) := by
  unfold execRecvCancel
  try dsimp only
  repeat' (first
    | with_reducible assumption
    | with_reducible apply recvOp_kept
    | with_reducible apply finish_kept
    | with_reducible apply cancelRecord_kept
    | intro _
    | with_reducible apply KeptOut.next)

theorem landIn_kept {K : Keystone → Keystone → Prop} {a s : State} (p : Nat) (v : Recv) (b : List Byte) (h : Kept K a s) :
    Kept K a (landIn p v b s).2 := by
  unfold landIn
  try dsimp only
  repeat' (first
    | with_reducible assumption
    | with_reducible apply byFault_kept
    | with_reducible apply store_kept
    | split)

theorem onData_kept {K : Keystone → Keystone → Prop} {a s : State} (p : Nat) (op : Nat) (find : State → List Byte → Option Recv) (f : Recv → List Byte → State → State) (hf : ∀ y0 y1 y2, Kept K a y2 → Kept K a (f y0 y1 y2)) (h : Kept K a s) :
    Kept K a (onData p op find f s) := by
  unfold onData
  try dsimp only
  repeat' (first
    | with_reducible assumption
    | with_reducible apply rxCheck_kept
    | with_reducible apply takeArrived_kept
    | with_reducible apply rxAccept_kept
    | with_reducible apply hf
    | split)

theorem execSendPacket_kept {K : Keystone → Keystone → Prop} {a s : State} (p : PierNo) (h : Kept K a s) :
    KeptOut K a (execSendPacket p s) := by
  unfold execSendPacket
  try dsimp only
  repeat' (first
    | with_reducible assumption
    | with_reducible apply onData_kept
    | with_reducible apply landIn_kept
    | with_reducible apply completeCmd_kept
    | with_reducible apply onPier_kept
    | intro _
    | with_reducible apply KeptOut.next
    | split)

theorem execGet_kept {K : Keystone → Keystone → Prop} {a s : State} (p : PierNo) (h : Kept K a s) :
    KeptOut K a (execGet p s) := by
  unfold execGet
  try dsimp only
  repeat' (first
    | with_reducible assumption
    | with_reducible apply runOp_kept
    | with_reducible apply sendPayload_kept
    | with_reducible apply track_kept
    | intro _
    | with_reducible apply KeptOut.next)

theorem execGetReq_kept {K : Keystone → Keystone → Prop} {a s : State} (p : PierNo) (h : Kept K a s) :
    KeptOut K a (execGetReq p s) := by
  unfold execGetReq
  try dsimp only
  repeat' (first
    | with_reducible assumption
    | with_reducible apply onData_kept
    | with_reducible apply byFault_kept
    | with_reducible apply sendData_kept
    | intro _
    | with_reducible apply KeptOut.next
    | split)

theorem completeTracked_kept {K : Keystone → Keystone → Prop} {a s : State} (p : Nat) (t : Tracked) (status : Nat) (h : Kept K a s) :
    Kept K a (completeTracked p t status s) := by
  unfold completeTracked
  try dsimp only
  repeat' (first
    | with_reducible assumption
    | with_reducible apply completeCmd_kept
    | with_reducible apply onEng_kept)

theorem execGetRsp_kept {K : Keystone → Keystone → Prop} {a s : State} (p : PierNo) (h : Kept K a s) :
    KeptOut K a (execGetRsp p s) := by
  unfold execGetRsp
  try dsimp only
  repeat' (first
    | with_reducible assumption
    | with_reducible apply onData_kept
    | with_reducible apply landIn_kept
    | with_reducible apply completeCmd_kept
    | with_reducible apply onPier_kept
    | with_reducible apply completeTracked_kept
    | intro _
    | with_reducible apply KeptOut.next
    | split)

theorem execGetWatchdog_kept {K : Keystone → Keystone → Prop} {a s : State} (p : PierNo) (tag : BitVec 32) (h : Kept K a s) :
    KeptOut K a (execGetWatchdog p tag s) := by
  unfold execGetWatchdog
  try dsimp only
  repeat' (first
    | with_reducible assumption
    | with_reducible apply completeTracked_kept
    | with_reducible apply KeptOut.next
    | split)

theorem putLand_kept {K : Keystone → Keystone → Prop} {a s : State} (p : Nat) (l : Landing) (h : Kept K a s) :
    Kept K a (putLand p l s) := by
  unfold putLand
  try dsimp only
  repeat' (first
    | with_reducible assumption
    | with_reducible apply onPier_kept)

theorem sendMember_kept {K : Keystone → Keystone → Prop} {a s : State} (p : Nat) (l : Landing) (pos : Tree → Nat) (payload : List Byte) (h : Kept K a s) :
    Kept K a (sendMember p l pos payload s) := by
  unfold sendMember
  try dsimp only
  repeat' (first
    | with_reducible assumption
    | with_reducible apply streamSend_kept
    | split)

theorem endCommand_kept {K : Keystone → Keystone → Prop} {a s : State} (p : Nat) (l : Landing) (status : Nat) (h : Kept K a s) :
    Kept K a (endCommand p l status s) := by
  unfold endCommand
  try dsimp only
  repeat' (first
    | with_reducible assumption
    | with_reducible apply completeCmd_kept
    | with_reducible apply onEng_kept
    | with_reducible apply completeRunning_kept
    | split)

theorem endColl_kept {K : Keystone → Keystone → Prop} {a s : State} (p : Nat) (l : Landing) (status : Nat) (h : Kept K a s) :
    Kept K a (endColl p l status s) := by
  unfold endColl
  try dsimp only
  repeat' (first
    | with_reducible assumption
    | with_reducible apply onPier_kept
    | with_reducible apply cancelRecvs_kept
    | with_reducible apply endCommand_kept
    | with_reducible apply signal_kept
    | split)

theorem testColl_kept {K : Keystone → Keystone → Prop} {a s : State} (p : Nat) (id : Nat) (h : Kept K a s) :
    Kept K a (testColl p id s) := by
  unfold testColl
  try dsimp only
  repeat' (first
    | with_reducible assumption
    | with_reducible apply endColl_kept
    | split)

theorem execCollWatchdog_kept {K : Keystone → Keystone → Prop} {a s : State} (p : PierNo) (t : Fin 4096) (c : BitVec 16) (h : Kept K a s) :
    KeptOut K a (execCollWatchdog p t c s) := by
  unfold execCollWatchdog
  try dsimp only
  repeat' (first
    | with_reducible assumption
    | with_reducible apply onPier_kept
    | with_reducible apply byFault_kept
    | with_reducible apply endColl_kept
    | with_reducible apply KeptOut.next
    | split)

theorem readBlocks_kept {K : Keystone → Keystone → Prop} {a s : State} (w : By) (d : List Byte) (b : Nat) (n : Nat) (h : Kept K a s) :
    Kept K a (readBlocks w d b n s).2 := by
  unfold readBlocks
  try dsimp only
  repeat' (first
    | with_reducible assumption
    | with_reducible apply fetch_kept
    | split
    | with_reducible refine Kept.snd (by with_reducible assumption) ?_)

theorem anchorOf_kept {K : Keystone → Keystone → Prop} {a s : State} (w : By) (l : Landing) (blk : Nat) (h : Kept K a s) :
    Kept K a (anchorOf w l blk s).2 := by
  unfold anchorOf
  try dsimp only
  repeat' (first
    | with_reducible assumption
    | with_reducible apply fetch_kept
    | split
    | with_reducible refine Kept.snd (by with_reducible assumption) ?_)

theorem contributed_kept {K : Keystone → Keystone → Prop} {a s : State} (p : Nat) (l : Landing) (h : Kept K a s) :
    Kept K a (contributed p l s) := by
  unfold contributed
  try dsimp only
  repeat' (first
    | with_reducible assumption
    | with_reducible apply putLand_kept
    | with_reducible apply testColl_kept
    | with_reducible apply track_kept
    | split)

theorem sendBlocks_kept {K : Keystone → Keystone → Prop} {a s : State} (p : Nat) (id : Nat) (z2 : Nat) (h : Kept K a s) :
    Kept K a (sendBlocks p id z2 s) := by
  revert h
  fun_induction sendBlocks p id z2 s <;> intro h
  all_goals try dsimp only
  repeat' (first
    | with_reducible assumption
    | with_reducible refine (show Kept _ a _ → Kept _ a _ by with_reducible assumption) ?_
    | with_reducible apply contributed_kept
    | with_reducible apply anchorOf_kept
    | with_reducible apply endColl_kept
    | with_reducible apply readBlocks_kept
    | with_reducible apply putLand_kept
    | with_reducible apply sendMember_kept
    | intro _
    | with_reducible apply Kept.foldl
    | with_reducible apply Kept.foldl2
    | with_reducible apply Kept.foldl1
    | with_reducible apply Kept.foldl22
    | with_reducible apply Kept.foldlW
    | with_reducible apply KeptOut.next
    | with_reducible apply KeptOpt.some
    | with_reducible exact KeptOpt.none
    | split
    | with_reducible refine Kept.snd (by with_reducible assumption) ?_
    | with_reducible refine Kept.fst (by with_reducible assumption) ?_
    | with_reducible refine Kept.snd2 (by with_reducible assumption) ?_
    | with_reducible refine Kept.snd1 (by with_reducible assumption) ?_
    | with_reducible refine Kept.opt (by with_reducible assumption) ?_
    | (show KeptF _ a _ _ _ _ _ _ _ _ _; dsimp only; with_reducible apply Kept.of)
    | dsimp only)

theorem sendExponents_kept {K : Keystone → Keystone → Prop} {a s : State} (p : Nat) (l : Landing) (z2 : Nat) (z3 : Nat) (h : Kept K a s) :
    Kept K a (sendExponents p l z2 z3 s) := by
  revert h
  fun_induction sendExponents p l z2 z3 s <;> intro h
  all_goals try dsimp only
  repeat' (first
    | with_reducible assumption
    | with_reducible refine (show Kept _ a _ → Kept _ a _ by with_reducible assumption) ?_
    | with_reducible apply readBlocks_kept
    | with_reducible apply endColl_kept
    | with_reducible apply sendMember_kept
    | intro _
    | with_reducible apply Kept.foldl
    | with_reducible apply Kept.foldl2
    | with_reducible apply Kept.foldl1
    | with_reducible apply Kept.foldl22
    | with_reducible apply Kept.foldlW
    | with_reducible apply KeptOut.next
    | with_reducible apply KeptOpt.some
    | with_reducible exact KeptOpt.none
    | split
    | with_reducible refine Kept.snd (by with_reducible assumption) ?_
    | with_reducible refine Kept.fst (by with_reducible assumption) ?_
    | with_reducible refine Kept.snd2 (by with_reducible assumption) ?_
    | with_reducible refine Kept.snd1 (by with_reducible assumption) ?_
    | with_reducible refine Kept.opt (by with_reducible assumption) ?_
    | (show KeptF _ a _ _ _ _ _ _ _ _ _; dsimp only; with_reducible apply Kept.of)
    | dsimp only)

theorem sendRecords_kept {K : Keystone → Keystone → Prop} {a s : State} (p : Nat) (l : Landing) (h : Kept K a s) :
    Kept K a (sendRecords p l s) := by
  unfold sendRecords
  try dsimp only
  repeat' (first
    | with_reducible assumption
    | with_reducible apply fetch_kept
    | with_reducible apply endColl_kept
    | with_reducible apply sendMember_kept
    | with_reducible apply contributed_kept
    | intro _
    | with_reducible apply Kept.foldl
    | split
    | with_reducible refine Kept.snd (by with_reducible assumption) ?_)

theorem a2aRow_kept {K : Keystone → Keystone → Prop} {a s : State} (p : Nat) (l : Landing) (aux : List Byte) (i : Nat) (h : Kept K a s) :
    Kept K a (a2aRow p l aux i s) := by
  unfold a2aRow
  try dsimp only
  repeat' (first
    | with_reducible assumption
    | with_reducible apply fetch_kept
    | with_reducible apply endColl_kept
    | with_reducible apply store_kept
    | with_reducible apply arm_kept
    | with_reducible apply sendData_kept
    | split
    | with_reducible refine Kept.snd (by with_reducible assumption) ?_)

theorem launchA2a_kept {K : Keystone → Keystone → Prop} {a s : State} (p : Nat) (l : Landing) (aux : List Byte) (h : Kept K a s) :
    Kept K a (launchA2a p l aux s) := by
  unfold launchA2a
  try dsimp only
  repeat' (first
    | with_reducible assumption
    | with_reducible apply a2aRow_kept
    | with_reducible apply contributed_kept
    | intro _
    | with_reducible apply Kept.foldl
    | split)

theorem sendRound_kept {K : Keystone → Keystone → Prop} {a s : State} (p : Nat) (l : Landing) (k : Nat) (pls : List (List Byte)) (h : Kept K a s) :
    Kept K a (sendRound p l k pls s) := by
  unfold sendRound
  try dsimp only
  repeat' (first
    | with_reducible assumption
    | with_reducible apply sendPayload_kept
    | intro _
    | with_reducible apply Kept.foldl2)

theorem ownExponent_kept {K : Keystone → Keystone → Prop} {a s : State} (w : By) (d : List Byte) (ab : Nat) (h : Kept K a s) :
    Kept K a (ownExponent w d ab s).2 := by
  unfold ownExponent
  try dsimp only
  repeat' (first
    | with_reducible assumption
    | with_reducible apply readBlocks_kept
    | split
    | with_reducible refine Kept.snd (by with_reducible assumption) ?_)

theorem ringAnchor_kept {K : Keystone → Keystone → Prop} {a s : State} (w : By) (l : Landing) (blk : Nat) (h : Kept K a s) :
    Kept K a (ringAnchor w l blk s).2 := by
  unfold ringAnchor
  try dsimp only
  repeat' (first
    | with_reducible assumption
    | with_reducible apply anchorOf_kept
    | with_reducible apply ownExponent_kept
    | split
    | with_reducible refine Kept.snd (by with_reducible assumption) ?_)

theorem ringOwn_kept {K : Keystone → Keystone → Prop} {a s : State} (p : Nat) (l : Landing) (blk : Nat) (h : Kept K a s) :
    Kept K a (ringOwn p l blk s).2 := by
  unfold ringOwn
  try dsimp only
  repeat' (first
    | with_reducible assumption
    | with_reducible apply ringAnchor_kept
    | with_reducible apply readBlocks_kept
    | with_reducible apply nansProduced_kept
    | split
    | with_reducible refine Kept.snd (by with_reducible assumption) ?_)

theorem ringOwns_kept {K : Keystone → Keystone → Prop} {a s : State} (p : Nat) (l : Landing) (z2 : List Nat) (h : Kept K a s) :
    Kept K a (ringOwns p l z2 s).2 := by
  revert h
  fun_induction ringOwns p l z2 s <;> intro h
  all_goals try dsimp only
  repeat' (first
    | with_reducible assumption
    | with_reducible refine (show Kept _ a _ → Kept _ a _ by with_reducible assumption) ?_
    | with_reducible apply ringOwn_kept
    | intro _
    | with_reducible apply Kept.foldl
    | with_reducible apply Kept.foldl2
    | with_reducible apply Kept.foldl1
    | with_reducible apply Kept.foldl22
    | with_reducible apply Kept.foldlW
    | with_reducible apply KeptOut.next
    | with_reducible apply KeptOpt.some
    | with_reducible exact KeptOpt.none
    | split
    | with_reducible refine Kept.snd (by with_reducible assumption) ?_
    | with_reducible refine Kept.fst (by with_reducible assumption) ?_
    | with_reducible refine Kept.snd2 (by with_reducible assumption) ?_
    | with_reducible refine Kept.snd1 (by with_reducible assumption) ?_
    | with_reducible refine Kept.opt (by with_reducible assumption) ?_
    | (show KeptF _ a _ _ _ _ _ _ _ _ _; dsimp only; with_reducible apply Kept.of)
    | dsimp only)

theorem landChunk_kept {K : Keystone → Keystone → Prop} {a s : State} (p : Nat) (l : Landing) (c : Nat) (bs : List Byte) (h : Kept K a s) :
    Kept K a (landChunk p l c bs s) := by
  unfold landChunk
  try dsimp only
  repeat' (first
    | with_reducible assumption
    | with_reducible apply store_kept
    | split)

theorem ringEnd_kept {K : Keystone → Keystone → Prop} {a s : State} (p : Nat) (l : Landing) (h : Kept K a s) :
    Kept K a (ringEnd p l s) := by
  unfold ringEnd
  try dsimp only
  repeat' (first
    | with_reducible assumption
    | with_reducible apply testColl_kept
    | with_reducible apply putLand_kept)

theorem ringPass_kept {K : Keystone → Keystone → Prop} {a s : State} (p : Nat) (l : Landing) (k : Nat) (pls : List (List Byte)) (h : Kept K a s) :
    Kept K a (ringPass p l k pls s) := by
  unfold ringPass
  try dsimp only
  repeat' (first
    | with_reducible assumption
    | with_reducible apply sendRound_kept
    | split)

theorem ringComplete_kept {K : Keystone → Keystone → Prop} {a s : State} (p : Nat) (l : Landing) (k : Nat) (c : Nat) (xs : List RingBlk) (h : Kept K a s) :
    Kept K a (ringComplete p l k c xs s) := by
  unfold ringComplete
  try dsimp only
  repeat' (first
    | with_reducible assumption
    | with_reducible apply nansProduced_kept
    | with_reducible apply landChunk_kept
    | with_reducible apply putLand_kept
    | with_reducible apply ringEnd_kept
    | with_reducible apply ringPass_kept
    | split)

theorem ringData_kept {K : Keystone → Keystone → Prop} {a s : State} (p : Nat) (l : Landing) (k : Nat) (h : Kept K a s) :
    Kept K a (ringData p l k s) := by
  unfold ringData
  try dsimp only
  repeat' (first
    | with_reducible assumption
    | with_reducible apply fetch_kept
    | with_reducible apply endColl_kept
    | with_reducible apply ringOwns_kept
    | with_reducible apply ringComplete_kept
    | with_reducible apply ringPayloads_kept
    | with_reducible apply ringPass_kept
    | with_reducible apply landChunk_kept
    | with_reducible apply ringEnd_kept
    | split
    | with_reducible refine Kept.snd (by with_reducible assumption) ?_)

theorem ringToken_kept {K : Keystone → Keystone → Prop} {a s : State} (p : Nat) (l : Landing) (n : Nat) (h : Kept K a s) :
    Kept K a (ringToken p l n s) := by
  unfold ringToken
  try dsimp only
  repeat' (first
    | with_reducible assumption
    | with_reducible apply sendRound_kept
    | with_reducible apply ringEnd_kept
    | split)

theorem fireRound_kept {K : Keystone → Keystone → Prop} {a s : State} (p : Nat) (id : Nat) (k : Nat × Nat) (h : Kept K a s) :
    Kept K a (fireRound p id k s) := by
  unfold fireRound
  try dsimp only
  repeat' (first
    | with_reducible assumption
    | with_reducible apply putLand_kept
    | with_reducible apply ringToken_kept
    | with_reducible apply ringData_kept
    | split)

theorem fireRings_kept {K : Keystone → Keystone → Prop} {a s : State} (p : Nat) (h : Kept K a s) :
    Kept K a (fireRings p s) := by
  unfold fireRings
  try dsimp only
  repeat' (first
    | with_reducible assumption
    | with_reducible apply fireRound_kept
    | intro _
    | with_reducible apply Kept.foldl)

theorem ringLanded_kept {K : Keystone → Keystone → Prop} {a s : State} (p : Nat) (l : Landing) (oparg : Nat) (h : Kept K a s) :
    Kept K a (ringLanded p l oparg s) := by
  unfold ringLanded
  try dsimp only
  repeat' (first
    | with_reducible assumption
    | with_reducible apply fireRings_kept
    | with_reducible apply putLand_kept)

theorem launchRing_kept {K : Keystone → Keystone → Prop} {a s : State} (p : Nat) (l : Landing) (h : Kept K a s) :
    Kept K a (launchRing p l s) := by
  unfold launchRing
  try dsimp only
  repeat' (first
    | with_reducible assumption
    | with_reducible apply arm_kept
    | with_reducible apply contributed_kept
    | with_reducible apply sendRound_kept
    | with_reducible apply ringOwns_kept
    | with_reducible apply endColl_kept
    | with_reducible apply ringPayloads_kept
    | with_reducible apply fetch_kept
    | with_reducible apply landChunk_kept
    | with_reducible apply ringEnd_kept
    | split
    | with_reducible refine Kept.snd (by with_reducible assumption) ?_)

theorem sendArrive_kept {K : Keystone → Keystone → Prop} {a s : State} (p : Nat) (l : Landing) (kind : Nat) (h : Kept K a s) :
    Kept K a (sendArrive p l kind s) := by
  unfold sendArrive
  try dsimp only
  repeat' (first
    | with_reducible assumption
    | with_reducible apply inject_kept
    | split)

theorem armLanding_kept {K : Keystone → Keystone → Prop} {a s : State} (p : Nat) (l : Landing) (h : Kept K a s) :
    Kept K a (armLanding p l s) := by
  unfold armLanding
  try dsimp only
  repeat' (first
    | with_reducible assumption
    | with_reducible apply onPier_kept)

theorem collBad_kept {K : Keystone → Keystone → Prop} {a s : State} (p : Nat) (e : Nat) (r : RunCmd) (detail : Nat) (h : Kept K a s) :
    Kept K a (collBad p e r detail s) := by
  unfold collBad
  try dsimp only
  repeat' (first
    | with_reducible assumption
    | with_reducible apply finish_kept
    | with_reducible apply byFault_kept)

theorem launched_kept {K : Keystone → Keystone → Prop} {a s : State} (p : Nat) (l : Landing) (aux : List Byte) (h : Kept K a s) :
    Kept K a (launched p l aux s) := by
  unfold launched
  try dsimp only
  repeat' (first
    | with_reducible assumption
    | with_reducible apply launchRing_kept
    | with_reducible apply contributed_kept
    | with_reducible apply sendArrive_kept
    | with_reducible apply launchA2a_kept
    | with_reducible apply sendRecords_kept
    | with_reducible apply sendExponents_kept
    | with_reducible apply sendBlocks_kept
    | split)

theorem launchColl_kept {K : Keystone → Keystone → Prop} {a s : State} (p : Nat) (r : RunCmd) (h : Kept K a s) :
    Kept K a (launchColl p r s) := by
  unfold launchColl
  try dsimp only
  repeat' (first
    | with_reducible assumption
    | with_reducible apply collBad_kept
    | with_reducible apply fetch_kept
    | with_reducible apply finish_kept
    | with_reducible apply malformed_kept
    | with_reducible apply launched_kept
    | with_reducible apply armLanding_kept
    | split
    | with_reducible refine Kept.snd (by with_reducible assumption) ?_)

theorem execColl_kept {K : Keystone → Keystone → Prop} {a s : State} (p : PierNo) (x : MemSeen) (sram : Option (BitVec 24)) (h : Kept K a s) :
    KeptOut K a (execColl p x sram s) := by
  unfold execColl
  try dsimp only
  repeat' (first
    | with_reducible assumption
    | with_reducible apply runOp_kept
    | with_reducible apply meetEcc_kept
    | with_reducible apply finish_kept
    | with_reducible apply byFault_kept
    | with_reducible apply launchColl_kept
    | intro _
    | with_reducible apply KeptOut.next
    | split)

theorem sendSegments_kept {K : Keystone → Keystone → Prop} {a s : State} (p : Nat) (l : Landing) (n : Nat) (rows : List MmRow) (z4 : List (Nat × Nat)) (h : Kept K a s) :
    Kept K a (sendSegments p l n rows z4 s).2 := by
  revert h
  fun_induction sendSegments p l n rows z4 s <;> intro h
  all_goals try dsimp only
  repeat' (first
    | with_reducible assumption
    | with_reducible refine (show Kept _ a _ → Kept _ a _ by with_reducible assumption) ?_
    | with_reducible apply anchorOf_kept
    | with_reducible apply sendMember_kept
    | intro _
    | with_reducible apply Kept.foldl
    | with_reducible apply Kept.foldl2
    | with_reducible apply Kept.foldl1
    | with_reducible apply Kept.foldl22
    | with_reducible apply Kept.foldlW
    | with_reducible apply KeptOut.next
    | with_reducible apply KeptOpt.some
    | with_reducible exact KeptOpt.none
    | split
    | with_reducible refine Kept.snd (by with_reducible assumption) ?_
    | with_reducible refine Kept.fst (by with_reducible assumption) ?_
    | with_reducible refine Kept.snd2 (by with_reducible assumption) ?_
    | with_reducible refine Kept.snd1 (by with_reducible assumption) ?_
    | with_reducible refine Kept.opt (by with_reducible assumption) ?_
    | (show KeptF _ a _ _ _ _ _ _ _ _ _; dsimp only; with_reducible apply Kept.of)
    | dsimp only)

theorem sendProduct_kept {K : Keystone → Keystone → Prop} {a s : State} (p : Nat) (g : Nat) (l : Landing) (n : Nat) (rows : List MmRow) (done : Bool) (h : Kept K a s) :
    Kept K a (sendProduct p g l n rows done s) := by
  unfold sendProduct
  try dsimp only
  repeat' (first
    | with_reducible assumption
    | with_reducible apply sendSegments_kept
    | with_reducible apply finish_kept
    | with_reducible apply endColl_kept
    | with_reducible apply contributed_kept
    | split
    | with_reducible refine Kept.snd (by with_reducible assumption) ?_)

theorem execMatmulSend_kept {K : Keystone → Keystone → Prop} {a s : State} (p : PierNo) (g : GirdNo) (x : PierErr) (h : Kept K a s) :
    KeptOut K a (execMatmulSend p g x s) := by
  unfold execMatmulSend
  try dsimp only
  repeat' (first
    | with_reducible assumption
    | with_reducible apply runOp_kept
    | with_reducible apply collBad_kept
    | with_reducible apply malformed_kept
    | with_reducible apply girderErr_kept
    | with_reducible apply matProduct_kept
    | with_reducible apply armLanding_kept
    | with_reducible apply pierCorr_kept
    | with_reducible apply sendProduct_kept
    | intro _
    | with_reducible apply KeptOut.next
    | split)

theorem putElems_kept {K : Keystone → Keystone → Prop} {a s : State} (w : By) (buf : Nat) (f : Nat) (e : Nat) (all : Nat) (ps : List Nat) (h : Kept K a s) :
    Kept K a (putElems w buf f e all ps s).2 := by
  unfold putElems
  try dsimp only
  repeat' (first
    | with_reducible assumption
    | with_reducible apply store_kept
    | split)

theorem landResult_kept {K : Keystone → Keystone → Prop} {a s : State} (p : Nat) (l : Landing) (pl : List Byte) (h : Kept K a s) :
    Kept K a (landResult p l pl s) := by
  unfold landResult
  try dsimp only
  repeat' (first
    | with_reducible assumption
    | with_reducible apply putElems_kept
    | with_reducible apply store_kept
    | with_reducible apply testColl_kept
    | with_reducible apply putLand_kept
    | split)

theorem landExponents_kept {K : Keystone → Keystone → Prop} {a s : State} (p : Nat) (l : Landing) (pl : List Byte) (h : Kept K a s) :
    Kept K a (landExponents p l pl s) := by
  unfold landExponents
  try dsimp only
  repeat' (first
    | with_reducible assumption
    | with_reducible apply sendBlocks_kept
    | with_reducible apply putLand_kept)

theorem memberIntake_kept {K : Keystone → Keystone → Prop} {a s : State} (p : Nat) (form : Nat) (f : Landing → List Byte → State → State) (hf : ∀ y0 y1 y2, Kept K a y2 → Kept K a (f y0 y1 y2)) (h : Kept K a s) :
    Kept K a (memberIntake p form f s) := by
  unfold memberIntake
  try dsimp only
  repeat' (first
    | with_reducible assumption
    | with_reducible apply rxCheck_kept
    | with_reducible apply takeArrived_kept
    | with_reducible apply rxAccept_kept
    | with_reducible apply hf
    | split)

theorem passResult_kept {K : Keystone → Keystone → Prop} {a s : State} (v : Nat) (t : Tree) (pos : Nat) (pl : List Byte) (o : RseOp) (h : Kept K a s) :
    Kept K a (passResult v t pos pl o s) := by
  unfold passResult
  try dsimp only
  repeat' (first
    | with_reducible assumption
    | with_reducible apply sendDown_kept
    | with_reducible apply settleOp_kept
    | split)

theorem resultAtRse_kept {K : Keystone → Keystone → Prop} {a s : State} (n : Nat) (k : Known) (h : Kept K a s) :
    Kept K a (resultAtRse n k s) := by
  unfold resultAtRse
  try dsimp only
  repeat' (first
    | with_reducible assumption
    | with_reducible apply passResult_kept
    | with_reducible apply partialMalformed_kept
    | with_reducible apply wrongClass_kept
    | with_reducible apply intakeDown_kept
    | with_reducible apply takeHeld_kept
    | with_reducible apply bump_kept
    | with_reducible apply routeErr_kept
    | intro _
    | split)

theorem execResult_kept {K : Keystone → Keystone → Prop} {a s : State} (u : Fin 208) (k : Known) (h : Kept K a s) :
    KeptOut K a (execResult u k s) := by
  unfold execResult
  try dsimp only
  repeat' (first
    | with_reducible assumption
    | with_reducible apply memberIntake_kept
    | with_reducible apply landResult_kept
    | with_reducible apply resultAtRse_kept
    | intro _
    | with_reducible apply KeptOut.next
    | split)

theorem execExponent_kept {K : Keystone → Keystone → Prop} {a s : State} (u : Fin 208) (up : Bool) (k : Known) (h : Kept K a s) :
    KeptOut K a (execExponent u up k s) := by
  unfold execExponent
  try dsimp only
  repeat' (first
    | with_reducible assumption
    | with_reducible apply memberIntake_kept
    | with_reducible apply landExponents_kept
    | with_reducible apply exponentAtRse_kept
    | intro _
    | with_reducible apply KeptOut.next
    | split)

theorem strmArrived_kept {K : Keystone → Keystone → Prop} {a s : State} (p : Nat) (kind : Nat) (f : Landing → List Byte → State → State) (hf : ∀ y0 y1 y2, Kept K a y2 → Kept K a (f y0 y1 y2)) (h : Kept K a s) :
    Kept K a (strmArrived p kind f s) := by
  unfold strmArrived
  try dsimp only
  repeat' (first
    | with_reducible assumption
    | with_reducible apply bump_kept
    | with_reducible apply takeArrived_kept
    | with_reducible apply hf
    | split)

theorem entriesOf_kept {K : Keystone → Keystone → Prop} {a s : State} (l : Landing) (b : List Byte) (given : List Nat) (h : Kept K a s) :
    Kept K a (entriesOf l b given s).2 := by
  unfold entriesOf
  try dsimp only
  repeat' (first
    | with_reducible assumption
    | with_reducible apply onNet_kept
    | split)

theorem landRecord_kept {K : Keystone → Keystone → Prop} {a s : State} (p : Nat) (bb : Nat) (w : Nat) (rec_ : List Byte) (body : List Byte) (hasBody : Bool) (en : Nat) (l : Landing) (h : Kept K a s) :
    Kept K a (landRecord p bb w rec_ body hasBody en l s).2 := by
  unfold landRecord
  try dsimp only
  repeat' (first
    | with_reducible assumption
    | with_reducible apply byFault_kept
    | with_reducible apply store_kept
    | split)

theorem landTable_kept {K : Keystone → Keystone → Prop} {a s : State} (p : Nat) (bb : Nat) (b : List Byte) (l : Landing) (h : Kept K a s) :
    Kept K a (landTable p bb b l s).2 := by
  unfold landTable
  try dsimp only
  repeat' (first
    | with_reducible assumption
    | with_reducible apply store_kept)

theorem execOutPkt_kept {K : Keystone → Keystone → Prop} {a s : State} (u : PierNo) (entries : List Nat) (h : Kept K a s) :
    KeptOut K a (execOutPkt u entries s) := by
  unfold execOutPkt
  try dsimp only
  repeat' (first
    | with_reducible assumption
    | with_reducible apply strmArrived_kept
    | with_reducible apply entriesOf_kept
    | with_reducible apply landTable_kept
    | with_reducible apply landRecord_kept
    | with_reducible apply testColl_kept
    | with_reducible apply putLand_kept
    | intro _
    | with_reducible apply Kept.foldl2
    | with_reducible apply KeptOut.next
    | split)

theorem endAtMember_kept {K : Keystone → Keystone → Prop} {a s : State} (p : Nat) (h : Kept K a s) :
    Kept K a (endAtMember p s) := by
  unfold endAtMember
  try dsimp only
  repeat' (first
    | with_reducible assumption
    | with_reducible apply strmArrived_kept
    | with_reducible apply testColl_kept
    | with_reducible apply putLand_kept
    | intro _
    | split)

theorem execEndPkt_kept {K : Keystone → Keystone → Prop} {a s : State} (u : Fin 208) (k : Known) (h : Kept K a s) :
    KeptOut K a (execEndPkt u k s) := by
  unfold execEndPkt
  try dsimp only
  repeat' (first
    | with_reducible assumption
    | with_reducible apply endAtMember_kept
    | with_reducible apply endAtRse_kept
    | with_reducible apply KeptOut.next
    | split)

theorem standingLast_kept {K : Keystone → Keystone → Prop} {a s : State} (p : Nat) (v : Recv) (b : List Byte) (h : Kept K a s) :
    Kept K a (standingLast p v b s) := by
  unfold standingLast
  try dsimp only
  repeat' (first
    | with_reducible assumption
    | with_reducible apply signal_kept
    | with_reducible apply ringLanded_kept
    | with_reducible apply testColl_kept
    | with_reducible apply putLand_kept
    | split)

theorem execPut_kept {K : Keystone → Keystone → Prop} {a s : State} (p : PierNo) (h : Kept K a s) :
    KeptOut K a (execPut p s) := by
  unfold execPut
  try dsimp only
  repeat' (first
    | with_reducible assumption
    | with_reducible apply onData_kept
    | with_reducible apply landIn_kept
    | with_reducible apply standingLast_kept
    | intro _
    | with_reducible apply KeptOut.next
    | split)

theorem setSpare_kept {K : Keystone → Keystone → Prop} {a s : State} (st : Nat) (h : Kept K a s) :
    Kept K a (setSpare st s) := by
  unfold setSpare
  try dsimp only
  repeat' (first
    | with_reducible assumption
    | with_reducible apply wf_kept)

theorem spareAbort_kept {K : Keystone → Keystone → Prop} {a s : State} (cause : Nat) (h : Kept K a s) :
    Kept K a (spareAbort cause s) := by
  unfold spareAbort
  try dsimp only
  repeat' (first
    | with_reducible assumption
    | with_reducible apply raiseEvent_kept
    | with_reducible apply wf_kept
    | with_reducible apply setSpare_kept)

theorem checkPartner_kept {K : Keystone → Keystone → Prop} {a s : State} (h : Kept K a s) :
    Kept K a (checkPartner s) := by
  unfold checkPartner
  try dsimp only
  repeat' (first
    | with_reducible assumption
    | with_reducible apply spareAbort_kept
    | split)

theorem writeSpareCtrl_kept {K : Keystone → Keystone → Prop} {a s : State} (p : GPort) (w : Word) (h : Kept K a s) :
    Kept K a (writeSpareCtrl p w s).1 := by
  unfold writeSpareCtrl
  try dsimp only
  repeat' (first
    | with_reducible assumption
    | with_reducible apply wn_kept
    | with_reducible apply klDenied_kept
    | with_reducible apply setSpare_kept
    | with_reducible apply checkPartner_kept
    | with_reducible apply wf_kept
    | with_reducible apply spareAbort_kept
    | split)

theorem spareOp_kept {K : Keystone → Keystone → Prop} {a s : State} (hK : KsWaits K) (p : GPort) (op : Nat) (h : Kept K a s) :
    Kept K a (spareOp p op s) := by
  unfold spareOp
  try dsimp only
  repeat' (first
    | with_reducible assumption
    | with_reducible apply wrRow_kept
    | with_reducible apply writeSpareCtrl_kept
    | intro _)

theorem execStandby_kept {K : Keystone → Keystone → Prop} {a s : State} (hK : KsWaits K) (p : GPort) (h : Kept K a s) :
    KeptOut K a (execStandby p s) := by
  unfold execStandby
  try dsimp only
  repeat' (first
    | with_reducible assumption
    | with_reducible apply spareOp_kept
    | with_reducible apply KeptOut.next)

theorem execBeginLoad_kept {K : Keystone → Keystone → Prop} {a s : State} (hK : KsWaits K) (p : GPort) (h : Kept K a s) :
    KeptOut K a (execBeginLoad p s) := by
  unfold execBeginLoad
  try dsimp only
  repeat' (first
    | with_reducible assumption
    | with_reducible apply spareOp_kept
    | with_reducible apply KeptOut.next)

theorem execLoaded_kept {K : Keystone → Keystone → Prop} {a s : State} (hK : KsWaits K) (p : GPort) (h : Kept K a s) :
    KeptOut K a (execLoaded p s) := by
  unfold execLoaded
  try dsimp only
  repeat' (first
    | with_reducible assumption
    | with_reducible apply spareOp_kept
    | with_reducible apply KeptOut.next)

theorem execArm_kept {K : Keystone → Keystone → Prop} {a s : State} (hK : KsWaits K) (p : GPort) (h : Kept K a s) :
    KeptOut K a (execArm p s) := by
  unfold execArm
  try dsimp only
  repeat' (first
    | with_reducible assumption
    | with_reducible apply spareOp_kept
    | with_reducible apply KeptOut.next)

theorem execAbort_kept {K : Keystone → Keystone → Prop} {a s : State} (hK : KsWaits K) (p : GPort) (h : Kept K a s) :
    KeptOut K a (execAbort p s) := by
  unfold execAbort
  try dsimp only
  repeat' (first
    | with_reducible assumption
    | with_reducible apply spareOp_kept
    | with_reducible apply KeptOut.next)

theorem execSpareRelease_kept {K : Keystone → Keystone → Prop} {a s : State} (hK : KsWaits K) (p : GPort) (h : Kept K a s) :
    KeptOut K a (execSpareRelease p s) := by
  unfold execSpareRelease
  try dsimp only
  repeat' (first
    | with_reducible assumption
    | with_reducible apply spareOp_kept
    | with_reducible apply KeptOut.next)

theorem execSpareLoadWatchdog_kept {K : Keystone → Keystone → Prop} {a s : State} (h : Kept K a s) :
    KeptOut K a (execSpareLoadWatchdog s) := by
  unfold execSpareLoadWatchdog
  try dsimp only
  repeat' (first
    | with_reducible assumption
    | with_reducible apply spareAbort_kept
    | with_reducible apply KeptOut.next
    | split)

theorem spareBoundary_kept {K : Keystone → Keystone → Prop} {a s : State} (flipped : Bool) (h : Kept K a s) :
    Kept K a (spareBoundary flipped s) := by
  unfold spareBoundary
  try dsimp only
  repeat' (first
    | with_reducible assumption
    | with_reducible apply raiseEvent_kept
    | with_reducible apply setSpare_kept
    | split)

theorem openRecs_kept {K : Keystone → Keystone → Prop} {a s : State} (new : List TreeRec) (old : List TreeRec) (h : Kept K a s) :
    Kept K a (openRecs new old s) := by
  unfold openRecs
  try dsimp only
  repeat' (first
    | with_reducible assumption
    | with_reducible apply srWrite_kept
    | intro _
    | with_reducible apply Kept.foldl)

theorem freeRecs_kept {K : Keystone → Keystone → Prop} {a s : State} (gone : List TreeRec) (kept : List TreeRec) (h : Kept K a s) :
    Kept K a (freeRecs gone kept s) := by
  unfold freeRecs
  try dsimp only
  repeat' (first
    | with_reducible assumption
    | with_reducible apply endStream_kept
    | intro _
    | with_reducible apply Kept.foldl)

theorem reserveTrees_kept {K : Keystone → Keystone → Prop} {a s : State} (v : Nat) (h : Kept K a s) :
    Kept K a (reserveTrees v s) := by
  unfold reserveTrees
  try dsimp only
  repeat' (first
    | with_reducible assumption
    | with_reducible apply onFab_kept
    | with_reducible apply raiseEvent_kept
    | intro _
    | with_reducible apply Kept.foldl)

theorem markChanged_kept {K : Keystone → Keystone → Prop} {a s : State} (step : Bool) (s_ : State) (h : Kept K a s) :
    Kept K a (markChanged step s_ s) := by
  unfold markChanged
  try dsimp only
  repeat' (first
    | with_reducible assumption
    | with_reducible apply onNet_kept)

theorem recount_kept {K : Keystone → Keystone → Prop} {a s : State} (h : Kept K a s) :
    Kept K a (recount s) := by
  unfold recount
  try dsimp only
  repeat' (first
    | with_reducible assumption
    | with_reducible apply advanceAll_kept
    | with_reducible apply noteReady_kept
    | with_reducible apply endStreaming_kept
    | with_reducible apply testColl_kept
    | intro _
    | with_reducible apply Kept.foldl)

theorem restamp_kept {K : Keystone → Keystone → Prop} {a s : State} (h : Kept K a s) :
    Kept K a (restamp s) := by
  unfold restamp
  try dsimp only
  repeat' (first
    | with_reducible assumption
    | with_reducible apply onFab_kept)

theorem doFlip_kept {K : Keystone → Keystone → Prop} {a s : State} (port : Nat) (h : Kept K a s) :
    Kept K a (doFlip port s) := by
  unfold doFlip
  try dsimp only
  repeat' (first
    | with_reducible assumption
    | with_reducible apply wn_kept
    | with_reducible apply wf_kept
    | with_reducible apply reserveTrees_kept
    | with_reducible apply applyArmed_kept
    | with_reducible apply openRecs_kept
    | with_reducible apply flipLoads_kept
    | with_reducible apply completeRepairs_kept
    | with_reducible apply raiseEvent_kept
    | with_reducible apply checkPartner_kept
    | with_reducible apply recount_kept
    | with_reducible apply markChanged_kept
    | with_reducible apply restamp_kept)

end Sys2Proof.Machine
end

