-- ==== Sys2Proof/Laws/KeptSix.lean ====
section
/-! SUPPORT. What operations keep, continued: one lemma for each operation, in the order of the model's files. -/

namespace Sys2Proof.Machine
open Sys2Proof

theorem doRetire_kept {K : Keystone → Keystone → Prop} {a s : State} (port : Nat) (h : Kept K a s) :
    Kept K a (doRetire port s) := by
  unfold doRetire
  try dsimp only
  repeat' (first
    | with_reducible assumption
    | with_reducible apply onFab_kept
    | with_reducible apply copySections_kept
    | with_reducible apply freeRecs_kept
    | with_reducible apply wf_kept
    | with_reducible apply raiseEvent_kept)

theorem rtRefused_kept {K : Keystone → Keystone → Prop} {a s : State} (p : GPort) (a_ : Nat) (h : Kept K a s) :
    Kept K a (rtRefused p a_ s) := by
  unfold rtRefused
  try dsimp only
  repeat' (first
    | with_reducible assumption
    | with_reducible apply raiseEvent_kept)

theorem writeEpochCtrl_kept {K : Keystone → Keystone → Prop} {a s : State} (p : GPort) (w : Word) (h : Kept K a s) :
    Kept K a (writeEpochCtrl p w s).1 := by
  unfold writeEpochCtrl
  try dsimp only
  repeat' (first
    | with_reducible assumption
    | with_reducible apply klDenied_kept
    | with_reducible apply rtRefused_kept
    | with_reducible apply doFlip_kept
    | with_reducible apply wn_kept
    | with_reducible apply doRetire_kept
    | split)

theorem execFlip_kept {K : Keystone → Keystone → Prop} {a s : State} (hK : KsWaits K) (p : GPort) (h : Kept K a s) :
    KeptOut K a (execFlip p s) := by
  unfold execFlip
  try dsimp only
  repeat' (first
    | with_reducible assumption
    | with_reducible apply wrRow_kept
    | with_reducible apply writeEpochCtrl_kept
    | intro _
    | with_reducible apply KeptOut.next)

theorem execRetire_kept {K : Keystone → Keystone → Prop} {a s : State} (hK : KsWaits K) (p : GPort) (h : Kept K a s) :
    KeptOut K a (execRetire p s) := by
  unfold execRetire
  try dsimp only
  repeat' (first
    | with_reducible assumption
    | with_reducible apply wrRow_kept
    | with_reducible apply writeEpochCtrl_kept
    | intro _
    | with_reducible apply KeptOut.next)

theorem putBar_kept {K : Keystone → Keystone → Prop} {a s : State} (b : Barrier) (h : Kept K a s) :
    Kept K a (putBar b s) := by
  unfold putBar
  try dsimp only
  repeat' (first
    | with_reducible assumption
    | with_reducible apply onNet_kept)

theorem sendReleases_kept {K : Keystone → Keystone → Prop} {a s : State} (t : Tree) (b : Barrier) (h : Kept K a s) :
    Kept K a (sendReleases t b s) := by
  unfold sendReleases
  try dsimp only
  repeat' (first
    | with_reducible assumption
    | with_reducible apply ctrlOnEdge_kept
    | intro _
    | with_reducible apply Kept.foldl
    | split)

theorem stepBoundary_kept {K : Keystone → Keystone → Prop} {a s : State} (step : Nat) (h : Kept K a s) :
    Kept K a (stepBoundary step s) := by
  unfold stepBoundary
  dsimp only
  refine spareBoundary_kept _ (carryOutRetires_kept (Kept.withStep (wn_kept _ _ ?_)))
  split
  · exact doFlip_kept _ (wn_kept _ _ h)
  · exact h

theorem fireBar_kept {K : Keystone → Keystone → Prop} {a s : State} (b : Barrier) (h : Kept K a s) :
    Kept K a (fireBar b s) := by
  unfold fireBar
  try dsimp only
  repeat' (first
    | with_reducible assumption
    | with_reducible apply stepBoundary_kept
    | with_reducible apply putBar_kept
    | with_reducible apply testColl_kept
    | with_reducible apply putLand_kept
    | intro _
    | with_reducible apply Kept.foldl
    | split)

theorem released_kept {K : Keystone → Keystone → Prop} {a s : State} (t : Tree) (b : Barrier) (h : Kept K a s) :
    Kept K a (released t b s) := by
  unfold released
  try dsimp only
  repeat' (first
    | with_reducible assumption
    | with_reducible apply sendReleases_kept
    | with_reducible apply putBar_kept
    | with_reducible apply fireBar_kept
    | with_reducible apply raiseEvent_kept
    | split)

theorem advanceBar_kept {K : Keystone → Keystone → Prop} {a s : State} (t : Tree) (b : Barrier) (desc : List Byte) (h : Kept K a s) :
    Kept K a (advanceBar t b desc s) := by
  unfold advanceBar
  try dsimp only
  repeat' (first
    | with_reducible assumption
    | with_reducible apply putBar_kept
    | with_reducible apply released_kept
    | with_reducible apply ctrlOnEdge_kept
    | split)

theorem onBarrier_kept {K : Keystone → Keystone → Prop} {a s : State} (a_ : Arrived) (f : Tree → State → State) (hf : ∀ y0 y1, Kept K a y1 → Kept K a (f y0 y1)) (h : Kept K a s) :
    Kept K a (onBarrier a_ f s) := by
  unfold onBarrier
  try dsimp only
  repeat' (first
    | with_reducible assumption
    | with_reducible apply takeArrived_kept
    | with_reducible apply bump_kept
    | with_reducible apply routeErr_kept
    | with_reducible apply hf
    | split)

theorem execBarrierArrive_kept {K : Keystone → Keystone → Prop} {a s : State} (k : Known) (h : Kept K a s) :
    KeptOut K a (execBarrierArrive k s) := by
  unfold execBarrierArrive
  try dsimp only
  repeat' (first
    | with_reducible assumption
    | with_reducible apply onBarrier_kept
    | with_reducible apply putBar_kept
    | with_reducible apply advanceBar_kept
    | intro _
    | with_reducible apply KeptOut.next
    | split)

theorem pierRelease_kept {K : Keystone → Keystone → Prop} {a s : State} (p : Nat) (a_ : Arrived) (h : Kept K a s) :
    Kept K a (pierRelease p a_ s) := by
  unfold pierRelease
  try dsimp only
  repeat' (first
    | with_reducible assumption
    | with_reducible apply onBarrier_kept
    | with_reducible apply putLand_kept
    | with_reducible apply inject_kept
    | intro _
    | with_reducible apply Kept.foldl
    | split)

theorem execBarrierRelease_kept {K : Keystone → Keystone → Prop} {a s : State} (u : Fin 129) (h : Kept K a s) :
    KeptOut K a (execBarrierRelease u s) := by
  unfold execBarrierRelease
  try dsimp only
  repeat' (first
    | with_reducible assumption
    | with_reducible apply pierRelease_kept
    | with_reducible apply onBarrier_kept
    | with_reducible apply ctrlOnEdge_kept
    | with_reducible apply released_kept
    | intro _
    | with_reducible apply KeptOut.next
    | split)

theorem execBarrierReleaseAck_kept {K : Keystone → Keystone → Prop} {a s : State} (h : Kept K a s) :
    KeptOut K a (execBarrierReleaseAck s) := by
  unfold execBarrierReleaseAck
  try dsimp only
  repeat' (first
    | with_reducible assumption
    | with_reducible apply onBarrier_kept
    | with_reducible apply putBar_kept
    | intro _
    | with_reducible apply KeptOut.next
    | split)

theorem resendBar_kept {K : Keystone → Keystone → Prop} {a s : State} (b : Barrier) (h : Kept K a s) :
    Kept K a (resendBar b s) := by
  unfold resendBar
  try dsimp only
  repeat' (first
    | with_reducible assumption
    | with_reducible apply sendReleases_kept
    | with_reducible apply ctrlOnEdge_kept
    | split)

theorem execBarrierResend_kept {K : Keystone → Keystone → Prop} {a s : State} (h : Kept K a s) :
    KeptOut K a (execBarrierResend s) := by
  unfold execBarrierResend
  try dsimp only
  repeat' (first
    | with_reducible assumption
    | with_reducible apply advanceBar_kept
    | with_reducible apply resendBar_kept
    | with_reducible apply sendArrive_kept
    | intro _
    | with_reducible apply Kept.foldl
    | with_reducible apply KeptOut.next
    | split)

theorem execBarrierFire_kept {K : Keystone → Keystone → Prop} {a s : State} (h : Kept K a s) :
    KeptOut K a (execBarrierFire s) := by
  unfold execBarrierFire
  try dsimp only
  repeat' (first
    | with_reducible assumption
    | with_reducible apply fireBar_kept
    | with_reducible apply Kept.foldl
    | with_reducible apply KeptOut.next)

theorem putWq_kept {K : Keystone → Keystone → Prop} {a s : State} (x : Nat) (i : Nat) (l : List WqEntry) (h : Kept K a s) :
    Kept K a (putWq x i l s) := by
  unfold putWq
  try dsimp only
  repeat' (first
    | with_reducible assumption
    | (show KeptF _ a _ _ _ _ _ _ _ _ _; dsimp only; with_reducible apply Kept.of))

theorem onEntry_kept {K : Keystone → Keystone → Prop} {a s : State} (x : Nat) (i : Nat) (num : Nat) (f : WqEntry → WqEntry) (h : Kept K a s) :
    Kept K a (onEntry x i num f s) := by
  unfold onEntry
  try dsimp only
  repeat' (first
    | with_reducible assumption
    | with_reducible apply putWq_kept)

theorem handPier_kept {K : Keystone → Keystone → Prop} {a s : State} (x : Nat) (i : Nat) (k : Nat) (j : Nat) (h : Kept K a s) :
    Kept K a (handPier x i k j s) := by
  unfold handPier
  try dsimp only
  repeat' (first
    | with_reducible assumption
    | with_reducible apply onPier_kept
    | with_reducible apply onEntry_kept
    | split)

theorem handOut_kept {K : Keystone → Keystone → Prop} {a s : State} (x : Nat) (i : Nat) (h : Kept K a s) :
    Kept K a (handOut x i s) := by
  unfold handOut
  try dsimp only
  repeat' (first
    | with_reducible assumption
    | with_reducible apply handPier_kept
    | intro _
    | with_reducible apply Kept.foldl
    | split)

theorem spanDenied_kept {K : Keystone → Keystone → Prop} {a s : State} (x : Nat) (i : Nat) (tag : Nat) (a_ : Nat) (h : Kept K a s) :
    Kept K a (spanDenied x i tag a_ s) := by
  unfold spanDenied
  try dsimp only
  repeat' (first
    | with_reducible assumption
    | with_reducible apply windowDenied_kept)

theorem spanWrite_kept {K : Keystone → Keystone → Prop} {a s : State} (x : Nat) (i : Nat) (k : Nat) (tag : Nat) (a_ : Nat) (bs : List Byte) (h : Kept K a s) :
    Kept K a (spanWrite x i k tag a_ bs s) := by
  unfold spanWrite
  try dsimp only
  repeat' (first
    | with_reducible assumption
    | with_reducible apply ctxLocWr_kept
    | with_reducible apply spanDenied_kept
    | with_reducible apply hbmWr_kept
    | split)

theorem readEntry_kept {K : Keystone → Keystone → Prop} {a s : State} (x : Nat) (i : Nat) (n : Nat) (h : Kept K a s) :
    Kept K a (readEntry x i n s).2 := by
  unfold readEntry
  try dsimp only
  repeat' (first
    | with_reducible assumption
    | with_reducible apply spanDenied_kept
    | with_reducible apply raiseFault_kept
    | with_reducible apply countUe_kept
    | split)

theorem execWqEntry_kept {K : Keystone → Keystone → Prop} {a s : State} (x : CtxNo) (i : SpanNo) (h : Kept K a s) :
    KeptOut K a (execWqEntry x i s) := by
  unfold execWqEntry
  try dsimp only
  repeat' (first
    | with_reducible assumption
    | with_reducible apply readEntry_kept
    | with_reducible apply raiseFault_kept
    | with_reducible apply handOut_kept
    | with_reducible apply putWq_kept
    | with_reducible apply KeptOut.next
    | split
    | (show KeptF _ a _ _ _ _ _ _ _ _ _; dsimp only; with_reducible apply Kept.of))

theorem passEntries_kept {K : Keystone → Keystone → Prop} {a s : State} (x : Nat) (i : Nat) (h : Kept K a s) :
    Kept K a (passEntries x i s) := by
  unfold passEntries
  try dsimp only
  repeat' (first
    | with_reducible assumption
    | with_reducible apply putWq_kept
    | with_reducible apply wn_kept)

theorem execWqEntryComplete_kept {K : Keystone → Keystone → Prop} {a s : State} (x : CtxNo) (i : SpanNo) (h : Kept K a s) :
    KeptOut K a (execWqEntryComplete x i s) := by
  unfold execWqEntryComplete
  try dsimp only
  repeat' (first
    | with_reducible assumption
    | with_reducible apply spanWrite_kept
    | with_reducible apply passEntries_kept
    | with_reducible apply onEntry_kept
    | with_reducible apply handOut_kept
    | with_reducible apply KeptOut.next
    | split)

theorem endTask_kept {K : Keystone → Keystone → Prop} {a s : State} (p : Nat) (g : Grant) (bad : Bool) (h : Kept K a s) :
    Kept K a (endTask p g bad s) := by
  unfold endTask
  try dsimp only
  repeat' (first
    | with_reducible assumption
    | with_reducible apply traced_kept
    | with_reducible apply onPier_kept
    | with_reducible apply onEntry_kept
    | with_reducible apply handOut_kept)

theorem handBack_kept {K : Keystone → Keystone → Prop} {a s : State} (p : Nat) (h : Kept K a s) :
    Kept K a (handBack p s) := by
  unfold handBack
  try dsimp only
  repeat' (first
    | with_reducible assumption
    | with_reducible apply onPier_kept
    | with_reducible apply onEntry_kept
    | split)

theorem beginSwitch_kept {K : Keystone → Keystone → Prop} {a s : State} (p : Nat) (h : Kept K a s) :
    Kept K a (beginSwitch s p) := by
  unfold beginSwitch
  try dsimp only
  repeat' (first
    | with_reducible assumption
    | with_reducible apply onPier_kept
    | with_reducible apply handBack_kept)

theorem writeSpnGroup_kept {K : Keystone → Keystone → Prop} {a s : State} (p : GPort) (i : Nat) (k : Nat) (w : Word) (h : Kept K a s) :
    Kept K a (writeSpnGroup p i k w s).1 := by
  unfold writeSpnGroup
  try dsimp only
  repeat' (first
    | with_reducible assumption
    | with_reducible apply wf_kept
    | with_reducible apply klDenied_kept
    | with_reducible apply beginSwitch_kept
    | with_reducible apply Kept.foldl
    | split)

theorem execResidentSwitchStart_kept {K : Keystone → Keystone → Prop} {a s : State} (hK : KsWaits K) (p : GPort) (i : SpanNo) (k : Fin 4) (w : Word) (h : Kept K a s) :
    KeptOut K a (execResidentSwitchStart p i k w s) := by
  unfold execResidentSwitchStart
  try dsimp only
  repeat' (first
    | with_reducible assumption
    | with_reducible apply wrRow_kept
    | with_reducible apply writeSpnGroup_kept
    | intro _
    | with_reducible apply KeptOut.next)

theorem storesLand_wf (s : State) (p b : Nat) (h : Memory.wf s.hbm) : Memory.wf (storesLand s p b) := by
  unfold storesLand
  dsimp only
  split
  · exact memOf_wf _
  · exact copyCells_wf _ _ _ _ _ h

theorem saveAt_kept {K : Keystone → Keystone → Prop} {a s : State} (x : Nat) (p : Nat) (b : Nat) (h : Kept K a s) :
    Kept K a (saveAt x p b s) := by
  unfold saveAt
  have h1 : Kept K a { s with hbm := storesLand s p b, mem := { s.mem with bad := mended s b storesBytes } } :=
    ⟨h.pending, h.fuses, h.otp, h.free, h.out, fun g => storesLand_wf _ _ _ (h.hbm g), h.regs, h.store, h.ks⟩
  have h2 := Kept.foldl (f := fun (s : State) e =>
    hbmWr (b + 0x400000 + 0x4000 * e) ((getEng s p e).queue.flatMap fun c => slice c.bytes 0 64) s) (List.range 8)
    (fun s x hs => hbmWr_kept _ _ hs) h1
  exact Kept.withPr (hbmWr_kept _ _ h2) h2.store

theorem saveCtx_kept {K : Keystone → Keystone → Prop} {a s : State} (x : Nat) (p : Nat) (h : Kept K a s) :
    Kept K a (saveCtx x p s) := by
  unfold saveCtx
  exact Kept.elim _ h fun b => saveAt_kept _ _ _ h

theorem setQueues_kept {K : Keystone → Keystone → Prop} {a s : State} (p : Nat) (qs : Nat → List QCmd) (seq : Nat) (h : Kept K a s) :
    Kept K a (setQueues p qs seq s) := by
  unfold setQueues
  try dsimp only
  repeat' (first
    | with_reducible assumption
    | with_reducible apply onEng_kept
    | with_reducible apply onPier_kept
    | intro _
    | with_reducible apply Kept.foldl)

theorem zeroStores_kept {K : Keystone → Keystone → Prop} {a s : State} (p : Nat) (h : Kept K a s) :
    Kept K a (zeroStores p s) := by
  unfold zeroStores
  exact ⟨h.pending, h.fuses, h.otp, h.free, h.out, h.hbm, h.regs, fun g => copyCells_wf _ _ _ _ _ (h.store g), h.ks⟩

theorem restoreCtx_kept {K : Keystone → Keystone → Prop} {a s : State} (x : Nat) (p : Nat) (h : Kept K a s) :
    Kept K a (restoreCtx x p s) := by
  unfold restoreCtx
  split
  · refine setQueues_kept _ _ _ ?_
    exact ⟨h.pending, h.fuses, h.otp, h.free, h.out, h.hbm, h.regs, fun g => copyCells_wf _ _ _ _ _ (h.store g), h.ks⟩
  · exact setQueues_kept _ _ _ (zeroStores_kept _ h)

theorem switchPier_kept {K : Keystone → Keystone → Prop} {a s : State} (dest : Option Nat) (p : Nat) (h : Kept K a s) :
    Kept K a (switchPier dest s p) := by
  unfold switchPier
  try dsimp only
  repeat' (first
    | with_reducible assumption
    | with_reducible apply saveCtx_kept
    | with_reducible apply restoreCtx_kept
    | with_reducible apply setQueues_kept
    | with_reducible apply fireRings_kept
    | with_reducible apply onPier_kept
    | split)

theorem execCtxSwitch_kept {K : Keystone → Keystone → Prop} {a s : State} (i : SpanNo) (k : Fin 4) (cycles : Nat) (h : Kept K a s) :
    KeptOut K a (execCtxSwitch i k cycles s) := by
  unfold execCtxSwitch
  try dsimp only
  repeat' (first
    | with_reducible assumption
    | with_reducible apply switchPier_kept
    | with_reducible apply tstCharge_kept
    | with_reducible apply raiseEvent_kept
    | with_reducible apply handOut_kept
    | intro _
    | with_reducible apply Kept.foldl
    | with_reducible apply KeptOut.next
    | split)

theorem onSvc_kept {K : Keystone → Keystone → Prop} {a s : State} (f : Services → Services) (h : Kept K a s) :
    Kept K a (onSvc f s) := by
  unfold onSvc
  try dsimp only
  repeat' (first
    | with_reducible assumption
    | (show KeptF _ a _ _ _ _ _ _ _ _ _; dsimp only; with_reducible apply Kept.of))

theorem takeReq_kept {K : Keystone → Keystone → Prop} {a s : State} (x : Nat) (j : Nat) (b : List Byte) (st : Option Nat) (h : Kept K a s) :
    Kept K a (takeReq x j b st s).2 := by
  unfold takeReq
  try dsimp only
  repeat' (first
    | with_reducible assumption
    | with_reducible apply onSvc_kept)

theorem putReq_kept {K : Keystone → Keystone → Prop} {a s : State} (r : SvcReq) (h : Kept K a s) :
    Kept K a (putReq r s) := by
  unfold putReq
  try dsimp only
  repeat' (first
    | with_reducible assumption
    | with_reducible apply onSvc_kept)

theorem roundPast_kept {K : Keystone → Keystone → Prop} {a s : State} (x : Nat) (j : Nat) (h : Kept K a s) :
    Kept K a (roundPast x j s) := by
  unfold roundPast
  try dsimp only
  repeat' (first
    | with_reducible assumption
    | with_reducible apply onSvc_kept)

theorem endReq_kept {K : Keystone → Keystone → Prop} {a s : State} (r : SvcReq) (st : Nat) (h : Kept K a s) :
    Kept K a (endReq r st s) := by
  unfold endReq
  try dsimp only
  repeat' (first
    | with_reducible assumption
    | with_reducible apply putReq_kept
    | with_reducible apply bpmReturn_kept
    | split)

theorem malformedReq_kept {K : Keystone → Keystone → Prop} {a s : State} (r : SvcReq) (off : Nat) (h : Kept K a s) :
    Kept K a (malformedReq r off s) := by
  unfold malformedReq
  try dsimp only
  repeat' (first
    | with_reducible assumption
    | with_reducible apply endReq_kept
    | with_reducible apply raiseFault_kept)

theorem svcFault_kept {K : Keystone → Keystone → Prop} {a s : State} (r : SvcReq) (h : Kept K a s) :
    Kept K a (svcFault r s) := by
  unfold svcFault
  try dsimp only
  repeat' (first
    | with_reducible assumption
    | with_reducible apply raiseFault_kept)

theorem failReq_kept {K : Keystone → Keystone → Prop} {a s : State} (r : SvcReq) (h : Kept K a s) :
    Kept K a (failReq r s) := by
  unfold failReq
  try dsimp only
  repeat' (first
    | with_reducible assumption
    | with_reducible apply endReq_kept
    | with_reducible apply svcFault_kept)

theorem svcTook_kept {K : Keystone → Keystone → Prop} {a s : State} (ps : List Nat) (h : Kept K a s) :
    Kept K a (svcTook ps s) := by
  unfold svcTook
  try dsimp only
  repeat' (first
    | with_reducible assumption
    | with_reducible apply onPier_kept
    | intro _
    | with_reducible apply Kept.foldl)

theorem runReq_kept {K : Keystone → Keystone → Prop} {a s : State} (run : SvcReq → State → State) (r : SvcReq) (hrun : ∀ y0 y1, Kept K a y1 → Kept K a (run y0 y1)) (h : Kept K a s) :
    Kept K a (runReq run r s) := by
  unfold runReq
  try dsimp only
  repeat' (first
    | with_reducible assumption
    | with_reducible apply svcTook_kept
    | with_reducible apply hrun
    | split)

theorem stepReq_kept {K : Keystone → Keystone → Prop} {a s : State} (faults : State → SvcReq → List Nat) (run : SvcReq → State → State) (r : SvcReq) (hrun : ∀ y0 y1, Kept K a y1 → Kept K a (run y0 y1)) (h : Kept K a s) :
    Kept K a (stepReq faults run r s) := by
  unfold stepReq
  try dsimp only
  repeat' (first
    | with_reducible assumption
    | with_reducible apply runReq_kept
    | with_reducible apply malformedReq_kept
    | split)

theorem beginReq_kept {K : Keystone → Keystone → Prop} {a s : State} (faults : State → SvcReq → List Nat) (run : SvcReq → State → State) (r : SvcReq) (hrun : ∀ y0 y1, Kept K a y1 → Kept K a (run y0 y1)) (h : Kept K a s) :
    Kept K a (beginReq faults run r s) := by
  unfold beginReq
  try dsimp only
  repeat' (first
    | with_reducible assumption
    | with_reducible apply malformedReq_kept
    | with_reducible apply endReq_kept
    | with_reducible apply stepReq_kept
    | split)

theorem svcRow_kept {K : Keystone → Keystone → Prop} {a s : State} (op : Nat) (x : Nat) (w : SvcStep) (faults : State → SvcReq → List Nat) (run : SvcReq → State → State) (hrun : ∀ y0 y1, Kept K a y1 → Kept K a (run y0 y1)) (h : Kept K a s) :
    Kept K a (svcRow op x w faults run s) := by
  unfold svcRow
  try dsimp only
  repeat' (first
    | with_reducible assumption
    | with_reducible apply takeReq_kept
    | with_reducible apply roundPast_kept
    | with_reducible apply beginReq_kept
    | with_reducible apply stepReq_kept
    | split)

theorem svcPiecesOk_kept {K : Keystone → Keystone → Prop} {a s : State} (w : SvcBy) (z1 : List (Nat × Nat)) (h : Kept K a s) :
    Kept K a (svcPiecesOk w z1 s).2 := by
  revert h
  fun_induction svcPiecesOk w z1 s <;> intro h
  all_goals try dsimp only
  repeat' (first
    | with_reducible assumption
    | with_reducible refine (show Kept _ a _ → Kept _ a _ by with_reducible assumption) ?_
    | with_reducible apply windowDenied_kept
    | with_reducible apply raiseFault_kept
    | with_reducible apply countUe_kept
    | intro _
    | with_reducible apply Kept.foldl
    | with_reducible apply Kept.foldl2
    | with_reducible apply Kept.foldl1
    | with_reducible apply Kept.foldl22
    | with_reducible apply Kept.foldlW
    | with_reducible apply KeptOut.next
    | with_reducible apply KeptOpt.some
    | with_reducible exact KeptOpt.none
    | split
    | with_reducible refine Kept.snd (by with_reducible assumption) ?_
    | with_reducible refine Kept.fst (by with_reducible assumption) ?_
    | with_reducible refine Kept.snd2 (by with_reducible assumption) ?_
    | with_reducible refine Kept.snd1 (by with_reducible assumption) ?_
    | with_reducible refine Kept.opt (by with_reducible assumption) ?_
    | (show KeptF _ a _ _ _ _ _ _ _ _ _; dsimp only; with_reducible apply Kept.of)
    | dsimp only)

theorem svcRead_kept {K : Keystone → Keystone → Prop} {a s : State} (w : SvcBy) (a_ : Nat) (n : Nat) (h : Kept K a s) :
    Kept K a (svcRead w a_ n s).2 := by
  unfold svcRead
  try dsimp only
  repeat' (first
    | with_reducible assumption
    | with_reducible apply svcPiecesOk_kept)

theorem svcWrite_kept {K : Keystone → Keystone → Prop} {a s : State} (w : SvcBy) (a_ : Nat) (bs : List Byte) (h : Kept K a s) :
    Kept K a (svcWrite w a_ bs s).2 := by
  unfold svcWrite
  try dsimp only
  repeat' (first
    | with_reducible assumption
    | with_reducible apply windowDenied_kept
    | with_reducible apply hbmWr_kept
    | split)

theorem svcPush_kept {K : Keystone → Keystone → Prop} {a s : State} (x : Nat) (p : Nat) (k : Nat) (cmd : List Byte) (h : Kept K a s) :
    Kept K a (svcPush x p k cmd s).2 := by
  unfold svcPush
  try dsimp only
  repeat' (first
    | with_reducible assumption
    | with_reducible apply pushCmd_kept
    | with_reducible apply ctxLocWr_kept
    | split)

theorem launchReq_kept {K : Keystone → Keystone → Prop} {a s : State} (r : SvcReq) (desc : Nat) (h : Kept K a s) :
    Kept K a (launchReq r desc s) := by
  unfold launchReq
  try dsimp only
  repeat' (first
    | with_reducible assumption
    | with_reducible apply svcPush_kept
    | with_reducible apply putReq_kept
    | split)

theorem addDoorbell_kept {K : Keystone → Keystone → Prop} {a s : State} (port : Nat) (x : Nat) (q : Nat) (count : Nat) (h : Kept K a s) :
    Kept K a (addDoorbell port x q count s).1 := by
  unfold addDoorbell
  try dsimp only
  repeat' (first
    | with_reducible assumption
    | with_reducible apply raiseFault_kept
    | with_reducible apply wn_kept
    | split)

theorem passReqs_kept {K : Keystone → Keystone → Prop} {a s : State} (x : Nat) (j : Nat) (h : Kept K a s) :
    Kept K a (passReqs x j s) := by
  unfold passReqs
  try dsimp only
  repeat' (first
    | with_reducible assumption
    | with_reducible apply wn_kept
    | with_reducible apply onSvc_kept)

theorem writeDone_kept {K : Keystone → Keystone → Prop} {a s : State} (r : SvcReq) (st : Nat) (res : Nat) (h : Kept K a s) :
    Kept K a (writeDone r st res s).2 := by
  unfold writeDone
  try dsimp only
  repeat' (first
    | with_reducible assumption
    | with_reducible apply svcWrite_kept
    | with_reducible apply svcFault_kept
    | split
    | with_reducible refine Kept.snd (by with_reducible assumption) ?_)

theorem completeReq_kept {K : Keystone → Keystone → Prop} {a s : State} (r : SvcReq) (st : Nat) (h : Kept K a s) :
    Kept K a (completeReq r st s) := by
  unfold completeReq
  try dsimp only
  repeat' (first
    | with_reducible assumption
    | with_reducible apply tookFree_kept
    | with_reducible apply writeDone_kept
    | with_reducible apply addDoorbell_kept
    | with_reducible apply passReqs_kept
    | with_reducible apply putReq_kept
    | split)

theorem takeOther_kept {K : Keystone → Keystone → Prop} {a s : State} (x : Nat) (j : Nat) (h : Kept K a s) :
    Kept K a (takeOther x j s) := by
  unfold takeOther
  try dsimp only
  repeat' (first
    | with_reducible assumption
    | with_reducible apply windowDenied_kept
    | with_reducible apply raiseFault_kept
    | with_reducible apply countUe_kept
    | with_reducible apply takeReq_kept
    | with_reducible apply roundPast_kept
    | with_reducible apply failReq_kept
    | with_reducible apply malformedReq_kept
    | split)

theorem execSvcRequestComplete_kept {K : Keystone → Keystone → Prop} {a s : State} (x : CtxNo) (j : Fin 8) (h : Kept K a s) :
    KeptOut K a (execSvcRequestComplete x j s) := by
  unfold execSvcRequestComplete
  try dsimp only
  repeat' (first
    | with_reducible assumption
    | with_reducible apply completeReq_kept
    | with_reducible apply takeOther_kept
    | with_reducible apply KeptOut.next
    | split)

theorem svcReads_kept {K : Keystone → Keystone → Prop} {a s : State} (w : SvcBy) (z1 : List (Nat × Nat)) (h : Kept K a s) :
    Kept K a (svcReads w z1 s).2 := by
  revert h
  fun_induction svcReads w z1 s <;> intro h
  all_goals try dsimp only
  repeat' (first
    | with_reducible assumption
    | with_reducible refine (show Kept _ a _ → Kept _ a _ by with_reducible assumption) ?_
    | with_reducible apply svcRead_kept
    | intro _
    | with_reducible apply Kept.foldl
    | with_reducible apply Kept.foldl2
    | with_reducible apply Kept.foldl1
    | with_reducible apply Kept.foldl22
    | with_reducible apply Kept.foldlW
    | with_reducible apply KeptOut.next
    | with_reducible apply KeptOpt.some
    | with_reducible exact KeptOpt.none
    | split
    | with_reducible refine Kept.snd (by with_reducible assumption) ?_
    | with_reducible refine Kept.fst (by with_reducible assumption) ?_
    | with_reducible refine Kept.snd2 (by with_reducible assumption) ?_
    | with_reducible refine Kept.snd1 (by with_reducible assumption) ?_
    | with_reducible refine Kept.opt (by with_reducible assumption) ?_
    | (show KeptF _ a _ _ _ _ _ _ _ _ _; dsimp only; with_reducible apply Kept.of)
    | dsimp only)

theorem svcWrites_kept {K : Keystone → Keystone → Prop} {a s : State} (w : SvcBy) (z1 : List (Nat × List Byte)) (h : Kept K a s) :
    Kept K a (svcWrites w z1 s).2 := by
  revert h
  fun_induction svcWrites w z1 s <;> intro h
  all_goals try dsimp only
  repeat' (first
    | with_reducible assumption
    | with_reducible refine (show Kept _ a _ → Kept _ a _ by with_reducible assumption) ?_
    | with_reducible apply svcWrite_kept
    | intro _
    | with_reducible apply Kept.foldl
    | with_reducible apply Kept.foldl2
    | with_reducible apply Kept.foldl1
    | with_reducible apply Kept.foldl22
    | with_reducible apply Kept.foldlW
    | with_reducible apply KeptOut.next
    | with_reducible apply KeptOpt.some
    | with_reducible exact KeptOpt.none
    | split
    | with_reducible refine Kept.snd (by with_reducible assumption) ?_
    | with_reducible refine Kept.fst (by with_reducible assumption) ?_
    | with_reducible refine Kept.snd2 (by with_reducible assumption) ?_
    | with_reducible refine Kept.snd1 (by with_reducible assumption) ?_
    | with_reducible refine Kept.opt (by with_reducible assumption) ?_
    | (show KeptF _ a _ _ _ _ _ _ _ _ _; dsimp only; with_reducible apply Kept.of)
    | dsimp only)

theorem svcNans_kept {K : Keystone → Keystone → Prop} {a s : State} (w : SvcBy) (e : Nat) (prods : List (List Nat)) (h : Kept K a s) :
    Kept K a (svcNans w e prods s) := by
  unfold svcNans
  try dsimp only
  repeat' (first
    | with_reducible assumption
    | with_reducible apply nansProduced_kept
    | with_reducible apply tookFree_kept
    | split)

theorem optChunk_kept {K : Keystone → Keystone → Prop} {a s : State} (r : SvcReq) (w : SvcBy) (i : Nat) (n : Nat) (h : Kept K a s) :
    Kept K a (optChunk r w i n s).2 := by
  unfold optChunk
  try dsimp only
  repeat' (first
    | with_reducible assumption
    | with_reducible apply svcReads_kept
    | with_reducible apply svcNans_kept
    | with_reducible apply svcWrites_kept
    | split
    | with_reducible refine Kept.snd (by with_reducible assumption) ?_)

theorem optChunks_kept {K : Keystone → Keystone → Prop} {a s : State} (r : SvcReq) (piers : List Nat) (z2 : Nat) (z3 : Nat) (h : Kept K a s) :
    Kept K a (optChunks r piers z2 z3 s).2 := by
  revert h
  fun_induction optChunks r piers z2 z3 s <;> intro h
  all_goals try dsimp only
  repeat' (first
    | with_reducible assumption
    | with_reducible refine (show Kept _ a _ → Kept _ a _ by with_reducible assumption) ?_
    | with_reducible apply optChunk_kept
    | intro _
    | with_reducible apply Kept.foldl
    | with_reducible apply Kept.foldl2
    | with_reducible apply Kept.foldl1
    | with_reducible apply Kept.foldl22
    | with_reducible apply Kept.foldlW
    | with_reducible apply KeptOut.next
    | with_reducible apply KeptOpt.some
    | with_reducible exact KeptOpt.none
    | split
    | with_reducible refine Kept.snd (by with_reducible assumption) ?_
    | with_reducible refine Kept.fst (by with_reducible assumption) ?_
    | with_reducible refine Kept.snd2 (by with_reducible assumption) ?_
    | with_reducible refine Kept.snd1 (by with_reducible assumption) ?_
    | with_reducible refine Kept.opt (by with_reducible assumption) ?_
    | (show KeptF _ a _ _ _ _ _ _ _ _ _; dsimp only; with_reducible apply Kept.of)
    | dsimp only)

theorem onMirrors_kept {K : Keystone → Keystone → Prop} {a s : State} (f : List Mirror → List Mirror) (h : Kept K a s) :
    Kept K a (onMirrors f s) := by
  unfold onMirrors
  try dsimp only
  repeat' (first
    | with_reducible assumption
    | with_reducible apply onSvc_kept)

theorem startMirror_kept {K : Keystone → Keystone → Prop} {a s : State} (r : SvcReq) (rcd : Nat) (peer : Nat) (off : Nat) (step : Nat) (wait : Bool) (h : Kept K a s) :
    Kept K a (startMirror r rcd peer off step wait s) := by
  unfold startMirror
  try dsimp only
  repeat' (first
    | with_reducible assumption
    | with_reducible apply onMirrors_kept)

theorem endMirror_kept {K : Keystone → Keystone → Prop} {a s : State} (m : Mirror) (st : Nat) (h : Kept K a s) :
    Kept K a (endMirror m st s) := by
  unfold endMirror
  try dsimp only
  repeat' (first
    | with_reducible assumption
    | with_reducible apply onMirrors_kept
    | with_reducible apply raiseEvent_kept
    | split)

theorem mirrorPush_kept {K : Keystone → Keystone → Prop} {a s : State} (m : Mirror) (h : Kept K a s) :
    Kept K a (mirrorPush m s).2 := by
  unfold mirrorPush
  try dsimp only
  repeat' (first
    | with_reducible assumption
    | with_reducible apply svcPush_kept
    | with_reducible apply ctxLocWr_kept
    | split)

theorem stepMirror_kept {K : Keystone → Keystone → Prop} {a s : State} (m : Mirror) (cycles : Nat) (h : Kept K a s) :
    Kept K a (stepMirror m cycles s) := by
  unfold stepMirror
  try dsimp only
  repeat' (first
    | with_reducible assumption
    | with_reducible apply onMirrors_kept
    | with_reducible apply endMirror_kept
    | with_reducible apply mirrorPush_kept
    | with_reducible apply tstCharge_kept
    | with_reducible apply svcTook_kept
    | split)

theorem mirrorRow_kept {K : Keystone → Keystone → Prop} {a s : State} (x : Nat) (id : Nat) (cycles : Nat) (h : Kept K a s) :
    Kept K a (mirrorRow x id cycles s) := by
  unfold mirrorRow
  try dsimp only
  repeat' (first
    | with_reducible assumption
    | with_reducible apply stepMirror_kept
    | split)

theorem descAt_kept {K : Keystone → Keystone → Prop} {a s : State} (w : SvcBy) (a_ : Nat) (n : Nat) (h : Kept K a s) :
    Kept K a (descAt w a_ n s).2 := by
  unfold descAt
  try dsimp only
  repeat' (first
    | with_reducible assumption
    | with_reducible apply svcRead_kept
    | split)

theorem optStart_kept {K : Keystone → Keystone → Prop} {a s : State} (r : SvcReq) (h : Kept K a s) :
    Kept K a (optStart r s) := by
  unfold optStart
  try dsimp only
  repeat' (first
    | with_reducible assumption
    | with_reducible apply svcReads_kept
    | with_reducible apply failReq_kept
    | with_reducible apply malformedReq_kept
    | with_reducible apply putReq_kept
    | split
    | with_reducible refine Kept.snd (by with_reducible assumption) ?_)

theorem optUpdate_kept {K : Keystone → Keystone → Prop} {a s : State} (r : SvcReq) (h : Kept K a s) :
    Kept K a (optUpdate r s) := by
  unfold optUpdate
  try dsimp only
  repeat' (first
    | with_reducible assumption
    | with_reducible apply optChunks_kept
    | with_reducible apply failReq_kept
    | with_reducible apply endReq_kept
    | with_reducible apply startMirror_kept
    | with_reducible apply putReq_kept
    | split
    | with_reducible refine Kept.snd (by with_reducible assumption) ?_)

theorem optColl_kept {K : Keystone → Keystone → Prop} {a s : State} (r : SvcReq) (next : Nat) (sent : Nat) (pending : Nat) (h : Kept K a s) :
    Kept K a (optColl r next sent pending s) := by
  unfold optColl
  try dsimp only
  repeat' (first
    | with_reducible assumption
    | with_reducible apply putReq_kept
    | with_reducible apply onMirrors_kept
    | with_reducible apply endReq_kept
    | split)

theorem optMirror_kept {K : Keystone → Keystone → Prop} {a s : State} (r : SvcReq) (h : Kept K a s) :
    Kept K a (optMirror r s) := by
  unfold optMirror
  try dsimp only
  repeat' (first
    | with_reducible assumption
    | with_reducible apply endReq_kept
    | with_reducible apply onMirrors_kept
    | split)

theorem optRun_kept {K : Keystone → Keystone → Prop} {a s : State} (r : SvcReq) (h : Kept K a s) :
    Kept K a (optRun r s) := by
  unfold optRun
  try dsimp only
  repeat' (first
    | with_reducible assumption
    | with_reducible apply optStart_kept
    | with_reducible apply launchReq_kept
    | with_reducible apply optColl_kept
    | with_reducible apply optUpdate_kept
    | with_reducible apply optMirror_kept
    | split)

theorem execOptStep_kept {K : Keystone → Keystone → Prop} {a s : State} (x : CtxNo) (w : SvcStep) (cycles : Nat) (h : Kept K a s) :
    KeptOut K a (execOptStep x w cycles s) := by
  unfold execOptStep
  try dsimp only
  repeat' (first
    | with_reducible assumption
    | with_reducible apply mirrorRow_kept
    | with_reducible apply svcRow_kept
    | with_reducible apply optRun_kept
    | intro _
    | with_reducible apply KeptOut.next
    | split)

theorem execOptAccum_kept {K : Keystone → Keystone → Prop} {a s : State} (x : CtxNo) (w : SvcStep) (h : Kept K a s) :
    KeptOut K a (execOptAccum x w s) := by
  unfold execOptAccum
  try dsimp only
  repeat' (first
    | with_reducible assumption
    | with_reducible apply svcRow_kept
    | with_reducible apply optRun_kept
    | intro _
    | with_reducible apply KeptOut.next)

theorem sendStateRun_kept {K : Keystone → Keystone → Prop} {a s : State} (r : SvcReq) (h : Kept K a s) :
    Kept K a (sendStateRun r s) := by
  unfold sendStateRun
  try dsimp only
  repeat' (first
    | with_reducible assumption
    | with_reducible apply svcRead_kept
    | with_reducible apply failReq_kept
    | with_reducible apply malformedReq_kept
    | with_reducible apply putReq_kept
    | with_reducible apply startMirror_kept
    | with_reducible apply endReq_kept
    | with_reducible apply onMirrors_kept
    | split
    | with_reducible refine Kept.snd (by with_reducible assumption) ?_)

theorem execAgtSendState_kept {K : Keystone → Keystone → Prop} {a s : State} (x : CtxNo) (w : SvcStep) (cycles : Nat) (h : Kept K a s) :
    KeptOut K a (execAgtSendState x w cycles s) := by
  unfold execAgtSendState
  try dsimp only
  repeat' (first
    | with_reducible assumption
    | with_reducible apply mirrorRow_kept
    | with_reducible apply svcRow_kept
    | with_reducible apply sendStateRun_kept
    | intro _
    | with_reducible apply KeptOut.next
    | split)

theorem streamStart_kept {K : Keystone → Keystone → Prop} {a s : State} (r : SvcReq) (f : SvcReq → State → State) (hf : ∀ y0 y1, Kept K a y1 → Kept K a (f y0 y1)) (h : Kept K a s) :
    Kept K a (streamStart r f s) := by
  unfold streamStart
  try dsimp only
  repeat' (first
    | with_reducible assumption
    | with_reducible apply svcRead_kept
    | with_reducible apply failReq_kept
    | with_reducible apply malformedReq_kept
    | with_reducible apply hf
    | split
    | with_reducible refine Kept.snd (by with_reducible assumption) ?_)

theorem streamEnded_kept {K : Keystone → Keystone → Prop} {a s : State} (r : SvcReq) (f : SvcReq → State → State) (hf : ∀ y0 y1, Kept K a y1 → Kept K a (f y0 y1)) (h : Kept K a s) :
    Kept K a (streamEnded r f s) := by
  unfold streamEnded
  try dsimp only
  repeat' (first
    | with_reducible assumption
    | with_reducible apply onPier_kept
    | with_reducible apply failReq_kept
    | with_reducible apply hf
    | split)

theorem dispatchClear_kept {K : Keystone → Keystone → Prop} {a s : State} (r : SvcReq) (h : Kept K a s) :
    Kept K a (dispatchClear r s) := by
  unfold dispatchClear
  try dsimp only
  repeat' (first
    | with_reducible assumption
    | with_reducible apply svcWrite_kept
    | with_reducible apply failReq_kept
    | with_reducible apply putReq_kept
    | split
    | with_reducible refine Kept.snd (by with_reducible assumption) ?_)

theorem dispatchScan_kept {K : Keystone → Keystone → Prop} {a s : State} (r : SvcReq) (h : Kept K a s) :
    Kept K a (dispatchScan r s) := by
  unfold dispatchScan
  try dsimp only
  repeat' (first
    | with_reducible assumption
    | with_reducible apply svcRead_kept
    | with_reducible apply failReq_kept
    | with_reducible apply svcWrite_kept
    | with_reducible apply onPier_kept
    | with_reducible apply endReq_kept
    | split
    | with_reducible refine Kept.snd (by with_reducible assumption) ?_)

theorem dispatchRun_kept {K : Keystone → Keystone → Prop} {a s : State} (r : SvcReq) (h : Kept K a s) :
    Kept K a (dispatchRun r s) := by
  unfold dispatchRun
  try dsimp only
  repeat' (first
    | with_reducible assumption
    | with_reducible apply streamStart_kept
    | with_reducible apply dispatchClear_kept
    | with_reducible apply launchReq_kept
    | with_reducible apply streamEnded_kept
    | with_reducible apply dispatchScan_kept
    | intro _
    | split)

theorem execDispatch_kept {K : Keystone → Keystone → Prop} {a s : State} (x : CtxNo) (w : SvcStep) (h : Kept K a s) :
    KeptOut K a (execDispatch x w s) := by
  unfold execDispatch
  try dsimp only
  repeat' (first
    | with_reducible assumption
    | with_reducible apply svcRow_kept
    | with_reducible apply dispatchRun_kept
    | intro _
    | with_reducible apply KeptOut.next)

theorem readGated_kept {K : Keystone → Keystone → Prop} {a s : State} (r : SvcReq) (z1 : Nat) (z2 : Nat) (h : Kept K a s) :
    Kept K a (readGated r z1 z2 s).2 := by
  revert h
  fun_induction readGated r z1 z2 s <;> intro h
  all_goals try dsimp only
  repeat' (first
    | with_reducible assumption
    | with_reducible refine (show Kept _ a _ → Kept _ a _ by with_reducible assumption) ?_
    | with_reducible apply svcRead_kept
    | with_reducible apply svcReads_kept
    | intro _
    | with_reducible apply Kept.foldl
    | with_reducible apply Kept.foldl2
    | with_reducible apply Kept.foldl1
    | with_reducible apply Kept.foldl22
    | with_reducible apply Kept.foldlW
    | with_reducible apply KeptOut.next
    | with_reducible apply KeptOpt.some
    | with_reducible exact KeptOpt.none
    | split
    | with_reducible refine Kept.snd (by with_reducible assumption) ?_
    | with_reducible refine Kept.fst (by with_reducible assumption) ?_
    | with_reducible refine Kept.snd2 (by with_reducible assumption) ?_
    | with_reducible refine Kept.snd1 (by with_reducible assumption) ?_
    | with_reducible refine Kept.opt (by with_reducible assumption) ?_
    | (show KeptF _ a _ _ _ _ _ _ _ _ _; dsimp only; with_reducible apply Kept.of)
    | dsimp only)

theorem combineTokens_kept {K : Keystone → Keystone → Prop} {a s : State} (r : SvcReq) (z1 : Nat) (z2 : Nat) (h : Kept K a s) :
    Kept K a (combineTokens r z1 z2 s).2 := by
  revert h
  fun_induction combineTokens r z1 z2 s <;> intro h
  all_goals try dsimp only
  repeat' (first
    | with_reducible assumption
    | with_reducible refine (show Kept _ a _ → Kept _ a _ by with_reducible assumption) ?_
    | with_reducible apply readGated_kept
    | with_reducible apply svcNans_kept
    | with_reducible apply svcWrite_kept
    | intro _
    | with_reducible apply Kept.foldl
    | with_reducible apply Kept.foldl2
    | with_reducible apply Kept.foldl1
    | with_reducible apply Kept.foldl22
    | with_reducible apply Kept.foldlW
    | with_reducible apply KeptOut.next
    | with_reducible apply KeptOpt.some
    | with_reducible exact KeptOpt.none
    | split
    | with_reducible refine Kept.snd (by with_reducible assumption) ?_
    | with_reducible refine Kept.fst (by with_reducible assumption) ?_
    | with_reducible refine Kept.snd2 (by with_reducible assumption) ?_
    | with_reducible refine Kept.snd1 (by with_reducible assumption) ?_
    | with_reducible refine Kept.opt (by with_reducible assumption) ?_
    | (show KeptF _ a _ _ _ _ _ _ _ _ _; dsimp only; with_reducible apply Kept.of)
    | dsimp only)

theorem combineSums_kept {K : Keystone → Keystone → Prop} {a s : State} (r : SvcReq) (h : Kept K a s) :
    Kept K a (combineSums r s) := by
  unfold combineSums
  try dsimp only
  repeat' (first
    | with_reducible assumption
    | with_reducible apply onPier_kept
    | with_reducible apply combineTokens_kept
    | with_reducible apply failReq_kept
    | with_reducible apply endReq_kept
    | split
    | with_reducible refine Kept.snd (by with_reducible assumption) ?_)

theorem combineRun_kept {K : Keystone → Keystone → Prop} {a s : State} (r : SvcReq) (h : Kept K a s) :
    Kept K a (combineRun r s) := by
  unfold combineRun
  try dsimp only
  repeat' (first
    | with_reducible assumption
    | with_reducible apply streamStart_kept
    | with_reducible apply putReq_kept
    | with_reducible apply launchReq_kept
    | with_reducible apply streamEnded_kept
    | with_reducible apply combineSums_kept
    | intro _
    | split)

theorem execCombine_kept {K : Keystone → Keystone → Prop} {a s : State} (x : CtxNo) (w : SvcStep) (h : Kept K a s) :
    KeptOut K a (execCombine x w s) := by
  unfold execCombine
  try dsimp only
  repeat' (first
    | with_reducible assumption
    | with_reducible apply svcRow_kept
    | with_reducible apply combineRun_kept
    | intro _
    | with_reducible apply KeptOut.next)

theorem digestRun_kept {K : Keystone → Keystone → Prop} {a s : State} (cycles : Nat) (r : SvcReq) (h : Kept K a s) :
    Kept K a (digestRun cycles r s) := by
  unfold digestRun
  try dsimp only
  repeat' (first
    | with_reducible assumption
    | with_reducible apply svcRead_kept
    | with_reducible apply tstCharge_kept
    | with_reducible apply failReq_kept
    | with_reducible apply svcWrite_kept
    | with_reducible apply endReq_kept
    | split
    | with_reducible refine Kept.snd (by with_reducible assumption) ?_)

theorem execAgtDigest_kept {K : Keystone → Keystone → Prop} {a s : State} (x : CtxNo) (w : SvcStep) (cycles : Nat) (h : Kept K a s) :
    KeptOut K a (execAgtDigest x w cycles s) := by
  unfold execAgtDigest
  try dsimp only
  repeat' (first
    | with_reducible assumption
    | with_reducible apply svcRow_kept
    | with_reducible apply digestRun_kept
    | intro _
    | with_reducible apply KeptOut.next)

theorem quiesceRun_kept {K : Keystone → Keystone → Prop} {a s : State} (r : SvcReq) (h : Kept K a s) :
    Kept K a (quiesceRun r s) := by
  unfold quiesceRun
  try dsimp only
  repeat' (first
    | with_reducible assumption
    | with_reducible apply malformedReq_kept
    | with_reducible apply onSvc_kept
    | with_reducible apply putReq_kept
    | with_reducible apply endReq_kept
    | with_reducible apply raiseEvent_kept
    | with_reducible apply wf_kept
    | split)

theorem execAgtQuiesce_kept {K : Keystone → Keystone → Prop} {a s : State} (x : CtxNo) (w : SvcStep) (h : Kept K a s) :
    KeptOut K a (execAgtQuiesce x w s) := by
  unfold execAgtQuiesce
  try dsimp only
  repeat' (first
    | with_reducible assumption
    | with_reducible apply svcRow_kept
    | with_reducible apply quiesceRun_kept
    | intro _
    | with_reducible apply KeptOut.next)

theorem resumeRun_kept {K : Keystone → Keystone → Prop} {a s : State} (r : SvcReq) (h : Kept K a s) :
    Kept K a (resumeRun r s) := by
  unfold resumeRun
  try dsimp only
  repeat' (first
    | with_reducible assumption
    | with_reducible apply malformedReq_kept
    | with_reducible apply endReq_kept
    | with_reducible apply onSvc_kept
    | with_reducible apply wf_kept
    | split)

theorem execAgtResume_kept {K : Keystone → Keystone → Prop} {a s : State} (x : CtxNo) (w : SvcStep) (h : Kept K a s) :
    KeptOut K a (execAgtResume x w s) := by
  unfold execAgtResume
  try dsimp only
  repeat' (first
    | with_reducible assumption
    | with_reducible apply svcRow_kept
    | with_reducible apply resumeRun_kept
    | intro _
    | with_reducible apply KeptOut.next)

theorem cancelEntries_kept {K : Keystone → Keystone → Prop} {a s : State} (c : Nat) (j : Nat) (z2 : Nat) (h : Kept K a s) :
    Kept K a (cancelEntries c j z2 s) := by
  revert h
  fun_induction cancelEntries c j z2 s <;> intro h
  all_goals try dsimp only
  repeat' (first
    | with_reducible assumption
    | with_reducible refine (show Kept _ a _ → Kept _ a _ by with_reducible assumption) ?_
    | with_reducible apply takeReq_kept
    | with_reducible apply completeReq_kept
    | intro _
    | with_reducible apply Kept.foldl
    | with_reducible apply Kept.foldl2
    | with_reducible apply Kept.foldl1
    | with_reducible apply Kept.foldl22
    | with_reducible apply Kept.foldlW
    | with_reducible apply KeptOut.next
    | with_reducible apply KeptOpt.some
    | with_reducible exact KeptOpt.none
    | split
    | with_reducible refine Kept.snd (by with_reducible assumption) ?_
    | with_reducible refine Kept.fst (by with_reducible assumption) ?_
    | with_reducible refine Kept.snd2 (by with_reducible assumption) ?_
    | with_reducible refine Kept.snd1 (by with_reducible assumption) ?_
    | with_reducible refine Kept.opt (by with_reducible assumption) ?_
    | (show KeptF _ a _ _ _ _ _ _ _ _ _; dsimp only; with_reducible apply Kept.of)
    | dsimp only)

theorem cancelRun_kept {K : Keystone → Keystone → Prop} {a s : State} (r : SvcReq) (h : Kept K a s) :
    Kept K a (cancelRun r s) := by
  unfold cancelRun
  try dsimp only
  repeat' (first
    | with_reducible assumption
    | with_reducible apply malformedReq_kept
    | with_reducible apply endReq_kept
    | with_reducible apply cancelEntries_kept
    | intro _
    | with_reducible apply Kept.foldl
    | split)

theorem execAgtCancel_kept {K : Keystone → Keystone → Prop} {a s : State} (x : CtxNo) (w : SvcStep) (h : Kept K a s) :
    KeptOut K a (execAgtCancel x w s) := by
  unfold execAgtCancel
  try dsimp only
  repeat' (first
    | with_reducible assumption
    | with_reducible apply svcRow_kept
    | with_reducible apply cancelRun_kept
    | intro _
    | with_reducible apply KeptOut.next)

theorem setPhase_kept {K : Keystone → Keystone → Prop} {a s : State} (g : Nat) (l : Nat) (ph : Nat) (h : Kept K a s) :
    Kept K a (setPhase g l ph s) := by
  unfold setPhase
  try dsimp only
  repeat' (first
    | with_reducible assumption
    | with_reducible apply onFab_kept)

theorem startLane_kept {K : Keystone → Keystone → Prop} {a s : State} (g : Nat) (l : Nat) (h : Kept K a s) :
    Kept K a (startLane g l s) := by
  unfold startLane
  try dsimp only
  repeat' (first
    | with_reducible assumption
    | with_reducible apply setPhase_kept
    | with_reducible apply wn_kept)

theorem startGroupLanes_kept {K : Keystone → Keystone → Prop} {a s : State} (g : Nat) (h : Kept K a s) :
    Kept K a (startGroupLanes g s) := by
  unfold startGroupLanes
  try dsimp only
  repeat' (first
    | with_reducible assumption
    | with_reducible apply startLane_kept
    | intro _
    | with_reducible apply Kept.foldl)

theorem zeroCredits_kept {K : Keystone → Keystone → Prop} {a s : State} (k : Nat) (h : Kept K a s) :
    Kept K a (zeroCredits k s) := by
  unfold zeroCredits
  try dsimp only
  repeat' (first
    | with_reducible assumption
    | with_reducible apply onFab_kept)

theorem portComesUp_kept {K : Keystone → Keystone → Prop} {a s : State} (g : Nat) (p : Nat) (lat : Nat) (h : Kept K a s) :
    Kept K a (portComesUp g p lat s) := by
  unfold portComesUp
  try dsimp only
  repeat' (first
    | with_reducible assumption
    | with_reducible apply wn_kept
    | with_reducible apply wf_kept
    | with_reducible apply raiseEvent_kept
    | with_reducible apply zeroCredits_kept)

theorem passPhase_kept {K : Keystone → Keystone → Prop} {a s : State} (g : Nat) (l : Nat) (inverted : Bool) (peerMode : Nat) (peerBreakout : Nat) (peerLane : LaneNo) (skew : Nat) (h : Kept K a s) :
    Kept K a (passPhase g l inverted peerMode peerBreakout peerLane skew s) := by
  unfold passPhase
  try dsimp only
  repeat' (first
    | with_reducible assumption
    | with_reducible apply setPhase_kept
    | with_reducible apply wf_kept
    | with_reducible apply raiseEvent_kept
    | with_reducible apply portComesUp_kept
    | split)

theorem execTrainingPhasePass_kept {K : Keystone → Keystone → Prop} {a s : State} (g : GroupNo) (l : LaneNo) (inverted : Bool) (peerMode : Fin 4) (peerBreakout : Fin 4) (peerLane : LaneNo) (skew : Nat) (h : Kept K a s) :
    KeptOut K a (execTrainingPhasePass g l inverted peerMode peerBreakout peerLane skew s) := by
  unfold execTrainingPhasePass
  try dsimp only
  repeat' (first
    | with_reducible assumption
    | with_reducible apply passPhase_kept
    | with_reducible apply KeptOut.next
    | split)

end Sys2Proof.Machine
end

