-- ==== Sys2Proof/Laws/KeptSeven.lean ====
section
/-! SUPPORT. What operations keep, continued: one lemma for each operation, in the order of the model's files. -/

namespace Sys2Proof.Machine
open Sys2Proof

theorem execLaneTrainTimeout_kept {K : Keystone → Keystone → Prop} {a s : State} (g : GroupNo) (l : LaneNo) (h : Kept K a s) :
    KeptOut K a (execLaneTrainTimeout g l s) := by
  unfold execLaneTrainTimeout
  try dsimp only
  repeat' (first
    | with_reducible assumption
    | with_reducible apply startLane_kept
    | with_reducible apply KeptOut.next
    | split)

theorem portGoesDown_kept {K : Keystone → Keystone → Prop} {a s : State} (g : Nat) (p : Nat) (h : Kept K a s) :
    Kept K a (portGoesDown g p s) := by
  unfold portGoesDown
  try dsimp only
  repeat' (first
    | with_reducible assumption
    | with_reducible apply wf_kept
    | with_reducible apply raiseEvent_kept
    | with_reducible apply onFab_kept
    | split)

theorem loseLane_kept {K : Keystone → Keystone → Prop} {a s : State} (g : Nat) (l : Nat) (h : Kept K a s) :
    Kept K a (loseLane g l s) := by
  unfold loseLane
  try dsimp only
  repeat' (first
    | with_reducible assumption
    | with_reducible apply portGoesDown_kept
    | with_reducible apply setPhase_kept
    | with_reducible apply wf_kept
    | with_reducible apply startLane_kept
    | intro _
    | with_reducible apply Kept.foldl
    | split)

theorem execAlignmentLost_kept {K : Keystone → Keystone → Prop} {a s : State} (g : GroupNo) (l : LaneNo) (h : Kept K a s) :
    KeptOut K a (execAlignmentLost g l s) := by
  unfold execAlignmentLost
  try dsimp only
  repeat' (first
    | with_reducible assumption
    | with_reducible apply loseLane_kept
    | with_reducible apply KeptOut.next
    | split)

theorem darkGroup_kept {K : Keystone → Keystone → Prop} {a s : State} (g : Nat) (h : Kept K a s) :
    Kept K a (darkGroup g s) := by
  unfold darkGroup
  try dsimp only
  repeat' (first
    | with_reducible assumption
    | with_reducible apply portGoesDown_kept
    | with_reducible apply setPhase_kept
    | with_reducible apply wn_kept
    | intro _
    | with_reducible apply Kept.foldl)

theorem fecMillisecond_kept {K : Keystone → Keystone → Prop} {a s : State} (g : Nat) (l : Nat) (symbols : Nat) (h : Kept K a s) :
    Kept K a (fecMillisecond g l symbols s) := by
  unfold fecMillisecond
  try dsimp only
  repeat' (first
    | with_reducible assumption
    | with_reducible apply bump_kept
    | with_reducible apply raiseEvent_kept
    | with_reducible apply onFab_kept
    | split)

theorem execFecDegrade_kept {K : Keystone → Keystone → Prop} {a s : State} (g : GroupNo) (l : LaneNo) (symbols : Nat) (h : Kept K a s) :
    KeptOut K a (execFecDegrade g l symbols s) := by
  unfold execFecDegrade
  try dsimp only
  repeat' (first
    | with_reducible assumption
    | with_reducible apply fecMillisecond_kept
    | with_reducible apply KeptOut.next
    | split)

theorem cwyRefuse_kept {K : Keystone → Keystone → Prop} {a s : State} (p : Nat) (j : Nat) (h : Kept K a s) :
    Kept K a (cwyRefuse p j s) := by
  unfold cwyRefuse
  try dsimp only
  repeat' (first
    | with_reducible assumption
    | with_reducible apply raiseEvent_kept
    | with_reducible apply wf_kept)

theorem writeCwy_kept {K : Keystone → Keystone → Prop} {a s : State} (p : GPort) (j : Nat) (w : Word) (h : Kept K a s) :
    Kept K a (writeCwy p j w s).1 := by
  unfold writeCwy
  try dsimp only
  repeat' (first
    | with_reducible assumption
    | with_reducible apply klDenied_kept
    | with_reducible apply cwyRefuse_kept
    | with_reducible apply wf_kept
    | with_reducible apply onFab_kept
    | split)

theorem execCwyCtrlOpen_kept {K : Keystone → Keystone → Prop} {a s : State} (hK : KsWaits K) (p : GPort) (j : SpanNo) (o : Bool) (h : Kept K a s) :
    KeptOut K a (execCwyCtrlOpen p j o s) := by
  unfold execCwyCtrlOpen
  try dsimp only
  repeat' (first
    | with_reducible assumption
    | with_reducible apply wrRow_kept
    | with_reducible apply writeCwy_kept
    | intro _
    | with_reducible apply KeptOut.next)

theorem execCwyMotionEnd_kept {K : Keystone → Keystone → Prop} {a s : State} (j : SpanNo) (h : Kept K a s) :
    KeptOut K a (execCwyMotionEnd j s) := by
  unfold execCwyMotionEnd
  try dsimp only
  repeat' (first
    | with_reducible assumption
    | with_reducible apply raiseEvent_kept
    | with_reducible apply wf_kept
    | with_reducible apply KeptOut.next
    | split)

theorem pairLosesDrive_kept {K : Keystone → Keystone → Prop} {a s : State} (j : Nat) (h : Kept K a s) :
    Kept K a (pairLosesDrive j s) := by
  unfold pairLosesDrive
  try dsimp only
  repeat' (first
    | with_reducible assumption
    | with_reducible apply closePair_kept
    | with_reducible apply wf_kept
    | with_reducible apply loseLane_kept
    | intro _
    | with_reducible apply Kept.foldl
    | split)

theorem execDriveFault_kept {K : Keystone → Keystone → Prop} {a s : State} (h : Kept K a s) :
    KeptOut K a (execDriveFault s) := by
  unfold execDriveFault
  try dsimp only
  repeat' (first
    | with_reducible assumption
    | with_reducible apply pairLosesDrive_kept
    | with_reducible apply raiseFault_kept
    | with_reducible apply Kept.foldl
    | with_reducible apply KeptOut.next
    | split
    | (show KeptF _ a _ _ _ _ _ _ _ _ _; dsimp only; with_reducible apply Kept.of))

theorem setFstate_kept {K : Keystone → Keystone → Prop} {a s : State} (f : Nat) (st : Nat) (h : Kept K a s) :
    Kept K a (setFstate f st s) := by
  unfold setFstate
  try dsimp only
  repeat' (first
    | with_reducible assumption
    | with_reducible apply wf_kept)

theorem setPending_kept {K : Keystone → Keystone → Prop} {a s : State} (f : Nat) (b : Bool) (h : Kept K a s) :
    Kept K a (setPending f b s) := by
  unfold setPending
  try dsimp only
  repeat' (first
    | with_reducible assumption
    | with_reducible apply wf_kept)

theorem enterState_kept {K : Keystone → Keystone → Prop} {a s : State} (f : Nat) (st : Nat) (h : Kept K a s) :
    Kept K a (enterState f st s) := by
  unfold enterState
  try dsimp only
  repeat' (first
    | with_reducible assumption
    | with_reducible apply raiseEvent_kept
    | with_reducible apply setFstate_kept)

theorem cancelQueue_kept {K : Keystone → Keystone → Prop} {a s : State} (x : Nat) (p : Nat) (e : Nat) (h : Kept K a s) :
    Kept K a (cancelQueue x p e s) := by
  unfold cancelQueue
  try dsimp only
  repeat' (first
    | with_reducible assumption
    | with_reducible apply onEng_kept
    | with_reducible apply unstall_kept
    | with_reducible apply completeCmd_kept
    | intro _
    | with_reducible apply Kept.foldl)

theorem cancelSaved_kept {K : Keystone → Keystone → Prop} {a s : State} (x : Nat) (p : Nat) (h : Kept K a s) :
    Kept K a (cancelSaved x p s) := by
  unfold cancelSaved
  try dsimp only
  repeat' (first
    | with_reducible assumption
    | with_reducible apply completeCmd_kept
    | with_reducible apply hbmWr_kept
    | intro _
    | with_reducible apply Kept.foldl
    | split)

theorem cancelOn_kept {K : Keystone → Keystone → Prop} {a s : State} (x : Nat) (p : Nat) (h : Kept K a s) :
    Kept K a (cancelOn x s p) := by
  unfold cancelOn
  try dsimp only
  repeat' (first
    | with_reducible assumption
    | with_reducible apply cancelQueue_kept
    | with_reducible apply cancelRecvs_kept
    | with_reducible apply cancelSaved_kept
    | intro _
    | with_reducible apply Kept.foldl
    | split)

theorem cancelCtx_kept {K : Keystone → Keystone → Prop} {a s : State} (x : Nat) (h : Kept K a s) :
    Kept K a (cancelCtx x s) := by
  unfold cancelCtx
  try dsimp only
  repeat' (first
    | with_reducible assumption
    | with_reducible apply cancelOn_kept
    | intro _
    | with_reducible apply Kept.foldl)

theorem closeStores_kept {K : Keystone → Keystone → Prop} {a s : State} (x : Nat) (h : Kept K a s) :
    Kept K a (closeStores x s) := by
  unfold closeStores
  try dsimp only
  repeat' (first
    | with_reducible assumption
    | with_reducible apply onSvc_kept)

theorem endResidency_kept {K : Keystone → Keystone → Prop} {a s : State} (x : Nat) (p : Nat) (h : Kept K a s) :
    Kept K a (endResidency x s p) := by
  unfold endResidency
  try dsimp only
  repeat' (first
    | with_reducible assumption
    | with_reducible apply onPier_kept
    | with_reducible apply setQueues_kept
    | with_reducible apply handBack_kept
    | split
    | (show KeptF _ a _ _ _ _ _ _ _ _ _; dsimp only; with_reducible apply Kept.of))

theorem clearGroups_kept {K : Keystone → Keystone → Prop} {a s : State} (x : Nat) (h : Kept K a s) :
    Kept K a (clearGroups x s) := by
  unfold clearGroups
  try dsimp only
  repeat' (first
    | with_reducible assumption
    | with_reducible apply wf_kept
    | intro _
    | with_reducible apply Kept.foldl
    | split)

theorem discardHeld_kept {K : Keystone → Keystone → Prop} {a s : State} (g : Nat) (h : Kept K a s) :
    Kept K a (discardHeld g s) := by
  unfold discardHeld
  try dsimp only
  repeat' (first
    | with_reducible assumption
    | with_reducible apply onFab_kept)

theorem forgetPorts_kept {K : Keystone → Keystone → Prop} {a s : State} (g : Nat) (h : Kept K a s) :
    Kept K a (forgetPorts g s) := by
  unfold forgetPorts
  try dsimp only
  repeat' (first
    | with_reducible assumption
    | with_reducible apply onFab_kept)

theorem beginStart_kept {K : Keystone → Keystone → Prop} {a s : State} (z0 : Func) (h : Kept K a s) :
    Kept K a (beginStart z0 s) := by
  unfold beginStart
  try dsimp only
  repeat' (first
    | with_reducible assumption
    | with_reducible apply startGroupLanes_kept
    | split)

theorem enterStart_kept {K : Keystone → Keystone → Prop} {a s : State} (f : Nat) (h : Kept K a s) :
    Kept K a (enterStart f s) := by
  unfold enterStart
  try dsimp only
  repeat' (first
    | with_reducible assumption
    | with_reducible apply beginStart_kept
    | with_reducible apply setFstate_kept)

theorem beginDrain_kept {K : Keystone → Keystone → Prop} {a s : State} (hK : KsMoves K) (on : Bool) (z1 : Func) (h : Kept K a s) :
    Kept K a (beginDrain on z1 s) := by
  unfold beginDrain
  try dsimp only
  repeat' (first
    | with_reducible assumption
    | with_reducible apply discardHeld_kept
    | with_reducible apply darkGroup_kept
    | with_reducible apply ksPortLeft_kept
    | with_reducible apply cancelCtx_kept
    | with_reducible apply closeStores_kept
    | split)

theorem resetScheduler_kept {K : Keystone → Keystone → Prop} {a s : State} (i : Nat) (h : Kept K a s) :
    Kept K a (resetScheduler i s) := by
  unfold resetScheduler
  try dsimp only
  repeat' (first
    | with_reducible assumption
    | intro _
    | with_reducible apply Kept.foldl
    | (show KeptF _ a _ _ _ _ _ _ _ _ _; dsimp only; with_reducible apply Kept.of))

theorem zeroFlags_kept {K : Keystone → Keystone → Prop} {a s : State} (x : Nat) (h : Kept K a s) :
    Kept K a (zeroFlags x s) := by
  unfold zeroFlags
  try dsimp only
  repeat' (first
    | with_reducible assumption
    | with_reducible apply wf_kept
    | intro _
    | with_reducible apply Kept.foldl)

theorem clearRse_kept {K : Keystone → Keystone → Prop} {a s : State} (n : Nat) (h : Kept K a s) :
    Kept K a (clearRse n s) := by
  unfold clearRse
  try dsimp only
  repeat' (first
    | with_reducible assumption
    | with_reducible apply onNet_kept)

theorem startWork_kept {K : Keystone → Keystone → Prop} {a s : State} (z0 : Func) (h : Kept K a s) :
    Kept K a (startWork z0 s) := by
  unfold startWork
  try dsimp only
  repeat' (first
    | with_reducible assumption
    | with_reducible apply resetScheduler_kept
    | with_reducible apply zeroStores_kept
    | with_reducible apply clearRse_kept
    | with_reducible apply nanClear_kept
    | with_reducible apply zeroFlags_kept
    | split)

theorem freeRse_kept {K : Keystone → Keystone → Prop} {a s : State} (n : Nat) (h : Kept K a s) :
    Kept K a (freeRse n s) := by
  unfold freeRse
  try dsimp only
  repeat' (first
    | with_reducible assumption
    | with_reducible apply abandonOp_kept
    | with_reducible apply abandonStrm_kept
    | with_reducible apply Kept.foldl)

theorem drainWork_kept {K : Keystone → Keystone → Prop} {a s : State} (z0 : Func) (h : Kept K a s) :
    Kept K a (drainWork z0 s) := by
  unfold drainWork
  try dsimp only
  repeat' (first
    | with_reducible assumption
    | with_reducible apply forgetPorts_kept
    | with_reducible apply discardHeld_kept
    | with_reducible apply freeRse_kept
    | with_reducible apply clearGroups_kept
    | with_reducible apply endResidency_kept
    | with_reducible apply cancelCtx_kept
    | with_reducible apply wf_kept
    | intro _
    | with_reducible apply Kept.foldl
    | split)

theorem funcRefuse_kept {K : Keystone → Keystone → Prop} {a s : State} (p : GPort) (f : Nat) (op : Nat) (h : Kept K a s) :
    Kept K a (funcRefuse p f op s).1 := by
  unfold funcRefuse
  try dsimp only
  repeat' (first
    | with_reducible assumption
    | with_reducible apply raiseEvent_kept)

theorem enableFunc_kept {K : Keystone → Keystone → Prop} {a s : State} (p : GPort) (f : Nat) (h : Kept K a s) :
    Kept K a (enableFunc p f s).1 := by
  unfold enableFunc
  try dsimp only
  repeat' (first
    | with_reducible assumption
    | with_reducible apply funcRefuse_kept
    | with_reducible apply cwyRefuse_kept
    | with_reducible apply onMg_kept
    | with_reducible apply wn_kept
    | with_reducible apply enterStart_kept
    | with_reducible apply setPending_kept
    | split)

theorem disableFunc_kept {K : Keystone → Keystone → Prop} {a s : State} (hK : KsMoves K) (p : GPort) (f : Nat) (h : Kept K a s) :
    Kept K a (disableFunc p f s).1 := by
  unfold disableFunc
  try dsimp only
  repeat' (first
    | with_reducible assumption
    | with_reducible apply wn_kept
    | with_reducible apply setPending_kept
    | with_reducible apply funcRefuse_kept
    | with_reducible apply beginDrain_kept
    | with_reducible apply setFstate_kept
    | split)

theorem writeFuncCtrl_kept {K : Keystone → Keystone → Prop} {a s : State} (hK : KsMoves K) (p : GPort) (w : Word) (h : Kept K a s) :
    Kept K a (writeFuncCtrl p w s).1 := by
  unfold writeFuncCtrl
  try dsimp only
  repeat' (first
    | with_reducible assumption
    | with_reducible apply klDenied_kept
    | with_reducible apply funcRefuse_kept
    | with_reducible apply enableFunc_kept
    | with_reducible apply disableFunc_kept
    | split)

theorem funcOp_kept {K : Keystone → Keystone → Prop} {a s : State} (hK : KsMoves K) (p : GPort) (f : BitVec 9) (op : Nat) (h : Kept K a s) :
    Kept K a (funcOp p f op s) := by
  unfold funcOp
  try dsimp only
  repeat' (first
    | with_reducible assumption
    | with_reducible exact hK.toKsWaits
    | with_reducible apply wrRow_kept
    | with_reducible apply writeFuncCtrl_kept
    | intro _)

theorem execEnable_kept {K : Keystone → Keystone → Prop} {a s : State} (hK : KsMoves K) (p : GPort) (f : BitVec 9) (h : Kept K a s) :
    KeptOut K a (execEnable p f s) := by
  unfold execEnable
  try dsimp only
  repeat' (first
    | with_reducible assumption
    | with_reducible apply funcOp_kept
    | with_reducible apply KeptOut.next)

theorem execDisable_kept {K : Keystone → Keystone → Prop} {a s : State} (hK : KsMoves K) (p : GPort) (f : BitVec 9) (h : Kept K a s) :
    KeptOut K a (execDisable p f s) := by
  unfold execDisable
  try dsimp only
  repeat' (first
    | with_reducible assumption
    | with_reducible apply funcOp_kept
    | with_reducible apply KeptOut.next)

theorem execFuncStartEnd_kept {K : Keystone → Keystone → Prop} {a s : State} (f : Fin 354) (h : Kept K a s) :
    KeptOut K a (execFuncStartEnd f s) := by
  unfold execFuncStartEnd
  try dsimp only
  repeat' (first
    | with_reducible assumption
    | with_reducible apply enterState_kept
    | with_reducible apply startWork_kept
    | with_reducible apply KeptOut.next
    | split)

theorem enableAgain_kept {K : Keystone → Keystone → Prop} {a s : State} (f : Nat) (h : Kept K a s) :
    Kept K a (enableAgain f s) := by
  unfold enableAgain
  try dsimp only
  repeat' (first
    | with_reducible assumption
    | with_reducible apply cwyRefuse_kept
    | with_reducible apply enterStart_kept
    | split)

theorem execFuncDrainEnd_kept {K : Keystone → Keystone → Prop} {a s : State} (f : Fin 354) (h : Kept K a s) :
    KeptOut K a (execFuncDrainEnd f s) := by
  unfold execFuncDrainEnd
  try dsimp only
  repeat' (first
    | with_reducible assumption
    | with_reducible apply enterState_kept
    | with_reducible apply setPending_kept
    | with_reducible apply drainWork_kept
    | with_reducible apply enableAgain_kept
    | with_reducible apply KeptOut.next
    | split)

theorem noLight_kept {K : Keystone → Keystone → Prop} {a s : State} (f : Nat) (h : Kept K a s) :
    Kept K a (noLight f s) := by
  unfold noLight
  try dsimp only
  repeat' (first
    | with_reducible assumption
    | with_reducible apply onMg_kept
    | with_reducible apply enterState_kept)

theorem wedge_kept {K : Keystone → Keystone → Prop} {a s : State} (f : Nat) (st : Nat) (h : Kept K a s) :
    Kept K a (wedge f st s) := by
  unfold wedge
  try dsimp only
  repeat' (first
    | with_reducible assumption
    | with_reducible apply raiseFault_kept
    | with_reducible apply setPending_kept
    | with_reducible apply setFstate_kept)

theorem execLimitOverrun_kept {K : Keystone → Keystone → Prop} {a s : State} (f : Fin 354) (h : Kept K a s) :
    KeptOut K a (execLimitOverrun f s) := by
  unfold execLimitOverrun
  try dsimp only
  repeat' (first
    | with_reducible assumption
    | with_reducible apply noLight_kept
    | with_reducible apply wedge_kept
    | with_reducible apply KeptOut.next
    | split)

theorem execGulaneReenable_kept {K : Keystone → Keystone → Prop} {a s : State} (n : GPort) (h : Kept K a s) :
    KeptOut K a (execGulaneReenable n s) := by
  unfold execGulaneReenable
  try dsimp only
  repeat' (first
    | with_reducible assumption
    | with_reducible apply onMg_kept
    | with_reducible apply enterStart_kept
    | with_reducible apply KeptOut.next
    | split)

theorem onGird_kept {K : Keystone → Keystone → Prop} {a s : State} (p : Nat) (g : Nat) (f : Girder → Girder) (h : Kept K a s) :
    Kept K a (onGird p g f s) := by
  unfold onGird
  try dsimp only
  repeat' (first
    | with_reducible assumption
    | with_reducible apply onPier_kept)

theorem execMicroprogram_kept {K : Keystone → Keystone → Prop} {a s : State} (p : PierNo) (g : GirdNo) (h : Kept K a s) :
    KeptOut K a (execMicroprogram p g s) := by
  unfold execMicroprogram
  try dsimp only
  repeat' (first
    | with_reducible assumption
    | with_reducible apply malformed_kept
    | with_reducible apply tookFree_kept
    | with_reducible apply onGird_kept
    | with_reducible apply KeptOut.next
    | split)

theorem onStream_kept {K : Keystone → Keystone → Prop} {a s : State} (p : Nat) (g : Nat) (exe : Bool) (f : GStream → GStream) (h : Kept K a s) :
    Kept K a (onStream p g exe f s) := by
  unfold onStream
  try dsimp only
  repeat' (first
    | with_reducible assumption
    | with_reducible apply onGird_kept)

theorem advanceStream_kept {K : Keystone → Keystone → Prop} {a s : State} (p : Nat) (g : Nat) (exe : Bool) (h : Kept K a s) :
    Kept K a (advanceStream p g exe s) := by
  unfold advanceStream
  try dsimp only
  repeat' (first
    | with_reducible assumption
    | with_reducible apply onStream_kept)

theorem stopProg_kept {K : Keystone → Keystone → Prop} {a s : State} (p : Nat) (g : Nat) (status : Nat) (h : Kept K a s) :
    Kept K a (stopProg p g status s) := by
  unfold stopProg
  try dsimp only
  repeat' (first
    | with_reducible assumption
    | with_reducible apply onGird_kept
    | with_reducible apply finish_kept)

theorem stopFault_kept {K : Keystone → Keystone → Prop} {a s : State} (p : Nat) (g : Nat) (r : RunCmd) (code : Nat) (detail : Nat) (h : Kept K a s) :
    Kept K a (stopFault p g r code detail s) := by
  unfold stopFault
  try dsimp only
  repeat' (first
    | with_reducible assumption
    | with_reducible apply stopProg_kept
    | with_reducible apply byFault_kept)

theorem progBadAddr_kept {K : Keystone → Keystone → Prop} {a s : State} (p : Nat) (g : Nat) (r : RunCmd) (h : Kept K a s) :
    Kept K a (progBadAddr p g r s) := by
  unfold progBadAddr
  try dsimp only
  repeat' (first
    | with_reducible assumption
    | with_reducible apply onGird_kept
    | with_reducible apply malformed_kept
    | with_reducible apply tookFree_kept)

theorem queueWait_kept {K : Keystone → Keystone → Prop} {a s : State} (p : Nat) (g : Nat) (r : RunCmd) (queue : Nat) (ended : Bool) (h : Kept K a s) :
    Kept K a (queueWait p g r queue ended s) := by
  unfold queueWait
  try dsimp only
  repeat' (first
    | with_reducible assumption
    | with_reducible apply stopFault_kept
    | split)

theorem execSetx_kept {K : Keystone → Keystone → Prop} {a s : State} (p : PierNo) (g : GirdNo) (h : Kept K a s) :
    KeptOut K a (execSetx p g s) := by
  unfold execSetx
  try dsimp only
  repeat' (first
    | with_reducible assumption
    | with_reducible apply advanceStream_kept
    | with_reducible apply onGird_kept
    | with_reducible apply KeptOut.next
    | split)

theorem execAddx_kept {K : Keystone → Keystone → Prop} {a s : State} (p : PierNo) (g : GirdNo) (h : Kept K a s) :
    KeptOut K a (execAddx p g s) := by
  unfold execAddx
  try dsimp only
  repeat' (first
    | with_reducible assumption
    | with_reducible apply advanceStream_kept
    | with_reducible apply onGird_kept
    | with_reducible apply KeptOut.next
    | split)

theorem stepX_kept {K : Keystone → Keystone → Prop} {a s : State} (p : Nat) (g : Nat) (w : GWord) (h : Kept K a s) :
    Kept K a (stepX p g w s) := by
  unfold stepX
  try dsimp only
  repeat' (first
    | with_reducible assumption
    | with_reducible apply advanceStream_kept
    | with_reducible apply onGird_kept)

theorem loadWord_kept {K : Keystone → Keystone → Prop} {a s : State} (p : Nat) (g : Nat) (op : Nat) (n : Nat) (queue : Nat) (len : Girder → Nat) (push : List Byte → Girder → Girder) (sram : Option (BitVec 24)) (h : Kept K a s) :
    Kept K a (loadWord p g op n queue len push sram s) := by
  unfold loadWord
  try dsimp only
  repeat' (first
    | with_reducible assumption
    | with_reducible apply queueWait_kept
    | with_reducible apply progBadAddr_kept
    | with_reducible apply stopProg_kept
    | with_reducible apply byFault_kept
    | with_reducible apply stepX_kept
    | with_reducible apply onGird_kept
    | split)

theorem execLda_kept {K : Keystone → Keystone → Prop} {a s : State} (p : PierNo) (g : GirdNo) (sram : Option (BitVec 24)) (h : Kept K a s) :
    KeptOut K a (execLda p g sram s) := by
  unfold execLda
  try dsimp only
  repeat' (first
    | with_reducible assumption
    | with_reducible apply loadWord_kept
    | with_reducible apply KeptOut.next)

theorem execLdb_kept {K : Keystone → Keystone → Prop} {a s : State} (p : PierNo) (g : GirdNo) (sram : Option (BitVec 24)) (h : Kept K a s) :
    KeptOut K a (execLdb p g sram s) := by
  unfold execLdb
  try dsimp only
  repeat' (first
    | with_reducible assumption
    | with_reducible apply loadWord_kept
    | with_reducible apply KeptOut.next)

theorem execStc_kept {K : Keystone → Keystone → Prop} {a s : State} (p : PierNo) (g : GirdNo) (h : Kept K a s) :
    KeptOut K a (execStc p g s) := by
  unfold execStc
  try dsimp only
  repeat' (first
    | with_reducible assumption
    | with_reducible apply queueWait_kept
    | with_reducible apply progBadAddr_kept
    | with_reducible apply girderNans_kept
    | with_reducible apply putRow_kept
    | with_reducible apply stepX_kept
    | with_reducible apply onGird_kept
    | with_reducible apply KeptOut.next
    | split)

theorem issueExe_kept {K : Keystone → Keystone → Prop} {a s : State} (p : Nat) (g : Nat) (op : Nat) (stall : Nat) (f : RunCmd → GWord → Girder → State → State) (hf : ∀ y0 y1 y2 y3, Kept K a y3 → Kept K a (f y0 y1 y2 y3)) (h : Kept K a s) :
    Kept K a (issueExe p g op stall f s) := by
  unfold issueExe
  try dsimp only
  repeat' (first
    | with_reducible assumption
    | with_reducible apply stopFault_kept
    | with_reducible apply advanceStream_kept
    | with_reducible apply onGird_kept
    | with_reducible apply hf
    | split)

theorem wordNans_kept {K : Keystone → Keystone → Prop} {a s : State} (p : Nat) (g : Nat) (r : RunCmd) (n : Nat) (h : Kept K a s) :
    Kept K a (wordNans p g r n s) := by
  unfold wordNans
  try dsimp only
  repeat' (first
    | with_reducible assumption
    | with_reducible apply girderNans_kept
    | with_reducible apply tookFree_kept
    | split)

theorem macWord_kept {K : Keystone → Keystone → Prop} {a s : State} (p : Nat) (g : Nat) (r : RunCmd) (w : GWord) (q : Girder) (h : Kept K a s) :
    Kept K a (macWord p g r w q s) := by
  unfold macWord
  try dsimp only
  repeat' (first
    | with_reducible assumption
    | with_reducible apply onGird_kept
    | with_reducible apply wordNans_kept
    | split)

theorem execMac_kept {K : Keystone → Keystone → Prop} {a s : State} (p : PierNo) (g : GirdNo) (stall : Nat) (bad : Option (Fin 16)) (h : Kept K a s) :
    KeptOut K a (execMac p g stall bad s) := by
  unfold execMac
  try dsimp only
  repeat' (first
    | with_reducible assumption
    | with_reducible apply queueWait_kept
    | with_reducible apply stopProg_kept
    | with_reducible apply checkFault_kept
    | with_reducible apply issueExe_kept
    | with_reducible apply macWord_kept
    | intro _
    | with_reducible apply KeptOut.next
    | split)

theorem execRdacc_kept {K : Keystone → Keystone → Prop} {a s : State} (p : PierNo) (g : GirdNo) (stall : Nat) (h : Kept K a s) :
    KeptOut K a (execRdacc p g stall s) := by
  unfold execRdacc
  try dsimp only
  repeat' (first
    | with_reducible assumption
    | with_reducible apply issueExe_kept
    | with_reducible apply onGird_kept
    | intro _
    | with_reducible apply KeptOut.next)

theorem execVop_kept {K : Keystone → Keystone → Prop} {a s : State} (p : PierNo) (g : GirdNo) (stall : Nat) (h : Kept K a s) :
    KeptOut K a (execVop p g stall s) := by
  unfold execVop
  try dsimp only
  repeat' (first
    | with_reducible assumption
    | with_reducible apply issueExe_kept
    | with_reducible apply tookFree_kept
    | with_reducible apply wordNans_kept
    | with_reducible apply onGird_kept
    | intro _
    | with_reducible apply KeptOut.next
    | split)

theorem execVpopa_kept {K : Keystone → Keystone → Prop} {a s : State} (p : PierNo) (g : GirdNo) (stall : Nat) (h : Kept K a s) :
    KeptOut K a (execVpopa p g stall s) := by
  unfold execVpopa
  try dsimp only
  repeat' (first
    | with_reducible assumption
    | with_reducible apply queueWait_kept
    | with_reducible apply issueExe_kept
    | with_reducible apply onGird_kept
    | intro _
    | with_reducible apply KeptOut.next
    | split)

theorem execVpush_kept {K : Keystone → Keystone → Prop} {a s : State} (p : PierNo) (g : GirdNo) (stall : Nat) (h : Kept K a s) :
    KeptOut K a (execVpush p g stall s) := by
  unfold execVpush
  try dsimp only
  repeat' (first
    | with_reducible assumption
    | with_reducible apply queueWait_kept
    | with_reducible apply issueExe_kept
    | with_reducible apply onGird_kept
    | intro _
    | with_reducible apply KeptOut.next
    | split)

theorem execVset_kept {K : Keystone → Keystone → Prop} {a s : State} (p : PierNo) (g : GirdNo) (stall : Nat) (h : Kept K a s) :
    KeptOut K a (execVset p g stall s) := by
  unfold execVset
  try dsimp only
  repeat' (first
    | with_reducible assumption
    | with_reducible apply issueExe_kept
    | with_reducible apply onGird_kept
    | intro _
    | with_reducible apply KeptOut.next)

theorem execZacc_kept {K : Keystone → Keystone → Prop} {a s : State} (p : PierNo) (g : GirdNo) (stall : Nat) (h : Kept K a s) :
    KeptOut K a (execZacc p g stall s) := by
  unfold execZacc
  try dsimp only
  repeat' (first
    | with_reducible assumption
    | with_reducible apply issueExe_kept
    | with_reducible apply onGird_kept
    | intro _
    | with_reducible apply KeptOut.next)

theorem execLoop_kept {K : Keystone → Keystone → Prop} {a s : State} (p : PierNo) (g : GirdNo) (exe : Bool) (stall : Nat) (h : Kept K a s) :
    KeptOut K a (execLoop p g exe stall s) := by
  unfold execLoop
  try dsimp only
  repeat' (first
    | with_reducible assumption
    | with_reducible apply onStream_kept
    | with_reducible apply onGird_kept
    | with_reducible apply KeptOut.next
    | split)

theorem execUprogEnd_kept {K : Keystone → Keystone → Prop} {a s : State} (p : PierNo) (g : GirdNo) (exe : Bool) (h : Kept K a s) :
    KeptOut K a (execUprogEnd p g exe s) := by
  unfold execUprogEnd
  try dsimp only
  repeat' (first
    | with_reducible assumption
    | with_reducible apply stopFault_kept
    | with_reducible apply onStream_kept
    | with_reducible apply stopProg_kept
    | with_reducible apply KeptOut.next
    | split)

theorem shiftTime_kept {K : Keystone → Keystone → Prop} {a s : State} (d : Int) (h : Kept K a s) :
    Kept K a (shiftTime d s) := by
  unfold shiftTime
  try dsimp only
  repeat' (first
    | with_reducible assumption
    | (show KeptF _ a _ _ _ _ _ _ _ _ _; dsimp only; with_reducible apply Kept.of))

theorem onLock_kept {K : Keystone → Keystone → Prop} {a s : State} (f : FtLock → FtLock) (h : Kept K a s) :
    Kept K a (onLock f s) := by
  unfold onLock
  try dsimp only
  repeat' (first
    | with_reducible assumption
    | with_reducible apply onNet_kept)

theorem slewTick_kept {K : Keystone → Keystone → Prop} {a s : State} (h : Kept K a s) :
    Kept K a (slewTick s) := by
  unfold slewTick
  try dsimp only
  repeat' (first
    | with_reducible assumption
    | with_reducible apply onLock_kept
    | with_reducible apply shiftTime_kept
    | split)

theorem tickTime_kept {K : Keystone → Keystone → Prop} {a s : State} (h : Kept K a s) :
    Kept K a (tickTime s) := by
  unfold tickTime
  try dsimp only
  repeat' (first
    | with_reducible assumption
    | with_reducible apply slewTick_kept
    | with_reducible apply shiftTime_kept
    | (show KeptF _ a _ _ _ _ _ _ _ _ _; dsimp only; with_reducible apply Kept.of))

theorem setFt_kept {K : Keystone → Keystone → Prop} {a s : State} (st : Nat) (h : Kept K a s) :
    Kept K a (setFt st s) := by
  unfold setFt
  try dsimp only
  repeat' (first
    | with_reducible assumption
    | with_reducible apply raiseEvent_kept
    | with_reducible apply wf_kept
    | split)

theorem showOffset_kept {K : Keystone → Keystone → Prop} {a s : State} (o : Int) (h : Kept K a s) :
    Kept K a (showOffset o s) := by
  unfold showOffset
  try dsimp only
  repeat' (first
    | with_reducible assumption
    | with_reducible apply wf_kept)

theorem stepTime_kept {K : Keystone → Keystone → Prop} {a s : State} (o : Int) (h : Kept K a s) :
    Kept K a (stepTime o s) := by
  unfold stepTime
  try dsimp only
  repeat' (first
    | with_reducible assumption
    | with_reducible apply setFt_kept
    | with_reducible apply onLock_kept
    | with_reducible apply shiftTime_kept)

theorem countOffset_kept {K : Keystone → Keystone → Prop} {a s : State} (o : Int) (h : Kept K a s) :
    Kept K a (countOffset o s) := by
  unfold countOffset
  try dsimp only
  repeat' (first
    | with_reducible assumption
    | with_reducible apply onLock_kept
    | with_reducible apply setFt_kept
    | split)

theorem startSlew_kept {K : Keystone → Keystone → Prop} {a s : State} (o : Int) (n : Nat) (h : Kept K a s) :
    Kept K a (startSlew o n s) := by
  unfold startSlew
  try dsimp only
  repeat' (first
    | with_reducible assumption
    | with_reducible apply onLock_kept)

theorem useOffset_kept {K : Keystone → Keystone → Prop} {a s : State} (o : Int) (h : Kept K a s) :
    Kept K a (useOffset o s) := by
  unfold useOffset
  try dsimp only
  repeat' (first
    | with_reducible assumption
    | with_reducible apply showOffset_kept
    | with_reducible apply stepTime_kept
    | with_reducible apply countOffset_kept
    | with_reducible apply startSlew_kept
    | split)

theorem execTimestampTimer_kept {K : Keystone → Keystone → Prop} {a s : State} (h : Kept K a s) :
    KeptOut K a (execTimestampTimer s) := by
  unfold execTimestampTimer
  try dsimp only
  repeat' (first
    | with_reducible assumption
    | with_reducible apply setFt_kept
    | with_reducible apply onLock_kept
    | with_reducible apply sendLane_kept
    | with_reducible apply KeptOut.next
    | split)

theorem execTimestampReq_kept {K : Keystone → Keystone → Prop} {a s : State} (k : SlotNo) (bytes : List Byte) (h : Kept K a s) :
    KeptOut K a (execTimestampReq k bytes s) := by
  unfold execTimestampReq
  try dsimp only
  repeat' (first
    | with_reducible assumption
    | with_reducible apply sendLane_kept
    | with_reducible apply KeptOut.next
    | split)

theorem execTimestampRsp_kept {K : Keystone → Keystone → Prop} {a s : State} (k : SlotNo) (bytes : List Byte) (h : Kept K a s) :
    KeptOut K a (execTimestampRsp k bytes s) := by
  unfold execTimestampRsp
  try dsimp only
  repeat' (first
    | with_reducible assumption
    | with_reducible apply useOffset_kept
    | with_reducible apply onLock_kept
    | with_reducible apply KeptOut.next
    | split)

theorem onPtp_kept {K : Keystone → Keystone → Prop} {a s : State} (f : Ptp → Ptp) (h : Kept K a s) :
    Kept K a (onPtp f s) := by
  unfold onPtp
  try dsimp only
  repeat' (first
    | with_reducible assumption
    | with_reducible apply onNet_kept)

theorem syncKnown_kept {K : Keystone → Keystone → Prop} {a s : State} (p : GPort) (src : List Byte) (t1 : Int) (t2 : Nat) (h : Kept K a s) :
    Kept K a (syncKnown p src t1 t2 s) := by
  unfold syncKnown
  try dsimp only
  repeat' (first
    | with_reducible assumption
    | with_reducible apply emit_kept
    | with_reducible apply onPtp_kept)

theorem coarseTime_kept {K : Keystone → Keystone → Prop} {a s : State} (o : Int) (h : Kept K a s) :
    Kept K a (coarseTime o s) := by
  unfold coarseTime
  try dsimp only
  repeat' (first
    | with_reducible assumption
    | with_reducible apply showOffset_kept
    | with_reducible apply countOffset_kept
    | with_reducible apply startSlew_kept
    | with_reducible apply setFt_kept
    | with_reducible apply shiftTime_kept
    | split)

theorem ptpMeet_kept {K : Keystone → Keystone → Prop} {a s : State} (p : GPort) (b : List Byte) (h : Kept K a s) :
    Kept K a (ptpMeet p b s) := by
  unfold ptpMeet
  try dsimp only
  repeat' (first
    | with_reducible assumption
    | with_reducible apply onPtp_kept
    | with_reducible apply syncKnown_kept
    | with_reducible apply coarseTime_kept
    | split)

theorem ptpTake_kept {K : Keystone → Keystone → Prop} {a s : State} (p : GPort) (b : List Byte) (h : Kept K a s) :
    Kept K a (ptpTake p b s) := by
  unfold ptpTake
  try dsimp only
  repeat' (first
    | with_reducible assumption
    | with_reducible apply ptpMeet_kept
    | split)

theorem execPtpMessage_kept {K : Keystone → Keystone → Prop} {a s : State} (p : GPort) (bytes : List Byte) (h : Kept K a s) :
    KeptOut K a (execPtpMessage p bytes s) := by
  unfold execPtpMessage
  try dsimp only
  repeat' (first
    | with_reducible assumption
    | with_reducible apply ptpTake_kept
    | with_reducible apply KeptOut.next)

theorem clearRc_kept {K : Keystone → Keystone → Prop} {a s : State} (d : RegDesc) (a_ : Nat) (h : Kept K a s) :
    Kept K a (clearRc d a_ s) := by
  unfold clearRc
  try dsimp only
  repeat' (first
    | with_reducible assumption
    | with_reducible apply wr_kept
    | split)

theorem latch_kept {K : Keystone → Keystone → Prop} {a s : State} (a_ : Nat) (v : Nat) (h : Kept K a s) :
    Kept K a (latch a_ v s) := by
  unfold latch
  try dsimp only
  repeat' (first
    | with_reducible assumption
    | with_reducible apply onMg_kept)

theorem latchUpper_kept {K : Keystone → Keystone → Prop} {a s : State} (d : RegDesc) (ix : List Nat) (a_ : Nat) (h : Kept K a s) :
    Kept K a (latchUpper d ix a_ s) := by
  unfold latchUpper
  try dsimp only
  repeat' (first
    | with_reducible assumption
    | with_reducible apply latch_kept
    | split)

theorem readReg_kept {K : Keystone → Keystone → Prop} {a s : State} (hK : KsMoves K) (p : GPort) (a_ : Nat) (h : Kept K a s) :
    Kept K a (readReg p a_ s).1 := by
  unfold readReg
  try dsimp only
  repeat' (first
    | with_reducible assumption
    | with_reducible apply acquired_kept
    | with_reducible apply clearRc_kept
    | with_reducible apply latchUpper_kept
    | split)

theorem rdAccess_kept {K : Keystone → Keystone → Prop} {a s : State} (hK : KsMoves K) (p : GPort) (a_ : Nat) (h : Kept K a s) :
    Kept K a (rdAccess p a_ s) := by
  unfold rdAccess
  try dsimp only
  repeat' (first
    | with_reducible assumption
    | with_reducible apply readReg_kept
    | with_reducible apply emit_kept)

theorem execRcRead_kept {K : Keystone → Keystone → Prop} {a s : State} (hK : KsMoves K) (r : Ready) (a_ : BitVec 32) (h : Kept K a s) :
    KeptOut K a (execRcRead r a_ s) := by
  unfold execRcRead
  try dsimp only
  repeat' (first
    | with_reducible assumption
    | with_reducible exact hK.toKsWaits
    | with_reducible apply byPort_kept
    | with_reducible apply rdAccess_kept
    | with_reducible apply contend_kept
    | intro _
    | with_reducible apply KeptOut.next
    | split)

theorem execLatchedRead_kept {K : Keystone → Keystone → Prop} {a s : State} (hK : KsMoves K) (p : GPort) (a_ : BitVec 32) (h : Kept K a s) :
    KeptOut K a (execLatchedRead p a_ s) := by
  unfold execLatchedRead
  try dsimp only
  repeat' (first
    | with_reducible assumption
    | with_reducible exact hK.toKsWaits
    | with_reducible apply byPort_kept
    | with_reducible apply rdAccess_kept
    | intro _
    | with_reducible apply KeptOut.next
    | split)

theorem writeFields_kept {K : Keystone → Keystone → Prop} {a s : State} (p : GPort) (d : RegDesc) (a_ : Nat) (w : Word) (h : Kept K a s) :
    Kept K a (writeFields p d a_ w s).1 := by
  unfold writeFields
  try dsimp only
  repeat' (first
    | with_reducible assumption
    | with_reducible apply wr_kept
    | with_reducible apply klDenied_kept
    | split)

theorem klWrite_kept {K : Keystone → Keystone → Prop} {a s : State} (p : GPort) (a_ : Nat) (f : State → State × Nat) (hf : ∀ y0, Kept K a y0 → Kept K a (f y0).1) (h : Kept K a s) :
    Kept K a (klWrite p a_ f s).1 := by
  unfold klWrite
  try dsimp only
  repeat' (first
    | with_reducible assumption
    | with_reducible apply klDenied_kept
    | with_reducible apply hf
    | split)

theorem putIf_kept {K : Keystone → Keystone → Prop} {a s : State} (ok : Bool) (a_ : Nat) (w : Word) (h : Kept K a s) :
    Kept K a (putIf ok a_ w s).1 := by
  unfold putIf
  try dsimp only
  repeat' (first
    | with_reducible assumption
    | with_reducible apply wr_kept
    | split)

theorem orRefused_kept {K : Keystone → Keystone → Prop} {a s : State} (p : GPort) (ok : Bool) (a_ : Nat) (f : State → State × Nat) (hf : ∀ y0, Kept K a y0 → Kept K a (f y0).1) (h : Kept K a s) :
    Kept K a (orRefused p ok a_ f s).1 := by
  unfold orRefused
  try dsimp only
  repeat' (first
    | with_reducible assumption
    | with_reducible apply rtRefused_kept
    | with_reducible apply hf
    | split)

theorem pairWrite_kept {K : Keystone → Keystone → Prop} {a s : State} (ok : Nat → Bool) (a_ : Nat) (i : Nat) (w : Word) (h : Kept K a s) :
    Kept K a (pairWrite ok a_ i w s).1 := by
  unfold pairWrite
  try dsimp only
  repeat' (first
    | with_reducible assumption
    | with_reducible apply putLow_kept
    | with_reducible apply wn64_kept
    | split)

theorem writeFtCfg_kept {K : Keystone → Keystone → Prop} {a s : State} (w : Word) (h : Kept K a s) :
    Kept K a (writeFtCfg w s).1 := by
  unfold writeFtCfg
  try dsimp only
  repeat' (first
    | with_reducible assumption
    | with_reducible apply wr_kept
    | with_reducible apply setFt_kept
    | split)

theorem writeNanCtrl_kept {K : Keystone → Keystone → Prop} {a s : State} (x : Nat) (w : Word) (h : Kept K a s) :
    Kept K a (writeNanCtrl x w s).1 := by
  unfold writeNanCtrl
  try dsimp only
  repeat' (first
    | with_reducible assumption
    | with_reducible apply wn_kept
    | with_reducible apply nanClear_kept
    | split)

theorem writeActCfg_kept {K : Keystone → Keystone → Prop} {a s : State} (x : Nat) (w : Word) (h : Kept K a s) :
    Kept K a (writeActCfg x w s).1 := by
  unfold writeActCfg
  try dsimp only
  repeat' (first
    | with_reducible assumption
    | with_reducible apply wr_kept
    | with_reducible apply wn_kept
    | intro _
    | with_reducible apply Kept.foldl
    | split)

theorem writeRingCfg_kept {K : Keystone → Keystone → Prop} {a s : State} (busy : Bool) (a_ : Nat) (w : Word) (h : Kept K a s) :
    Kept K a (writeRingCfg busy a_ w s).1 := by
  unfold writeRingCfg
  try dsimp only
  repeat' (first
    | with_reducible assumption
    | with_reducible apply wf_kept
    | split)

theorem writeSvcCtl_kept {K : Keystone → Keystone → Prop} {a s : State} (x : Nat) (w : Word) (h : Kept K a s) :
    Kept K a (writeSvcCtl x w s).1 := by
  unfold writeSvcCtl
  try dsimp only
  repeat' (first
    | with_reducible assumption
    | with_reducible apply putIf_kept)

theorem writeSwitchId_kept {K : Keystone → Keystone → Prop} {a s : State} (p : GPort) (w : Word) (h : Kept K a s) :
    Kept K a (writeSwitchId p w s).1 := by
  unfold writeSwitchId
  exact orRefused_kept _ _ _ _ (fun s hs => putIf_kept _ _ _ hs) h

theorem writeSsEn_kept {K : Keystone → Keystone → Prop} {a s : State} (j : Nat) (w : Word) (h : Kept K a s) :
    Kept K a (writeSsEn j w s).1 := by
  unfold writeSsEn
  try dsimp only
  repeat' (first
    | with_reducible assumption
    | with_reducible apply putIf_kept
    | with_reducible apply onFab_kept
    | with_reducible apply wr_kept
    | split)

theorem writeTrCfg_kept {K : Keystone → Keystone → Prop} {a s : State} (q : Nat) (w : Word) (h : Kept K a s) :
    Kept K a (writeTrCfg q w s).1 := by
  unfold writeTrCfg
  try dsimp only
  repeat' (first
    | with_reducible assumption
    | with_reducible apply wf_kept
    | split)

theorem writeBrkCfg_kept {K : Keystone → Keystone → Prop} {a s : State} (q : Nat) (w : Word) (h : Kept K a s) :
    Kept K a (writeBrkCfg q w s).1 := by
  unfold writeBrkCfg
  try dsimp only
  repeat' (first
    | with_reducible assumption
    | with_reducible apply wr_kept
    | with_reducible apply wn_kept
    | split)

theorem writeNamed_kept {K : Keystone → Keystone → Prop} {a s : State} (hK : KsMoves K) (p : GPort) (d : RegDesc) (ix : List Nat) (a_ : Nat) (w : Word) (h : Kept K a s) :
    Kept K a (writeNamed p d ix a_ w s).1 := by
  unfold writeNamed
  try dsimp only
  repeat' (first
    | with_reducible assumption
    | with_reducible apply writeKsCtrl_kept
    | with_reducible apply writeShadow_kept
    | with_reducible apply writeProtCtrl_kept
    | with_reducible apply writeRetire_kept
    | with_reducible apply writePwrCtrl_kept
    | with_reducible apply writeMemCtrl_kept
    | with_reducible apply writeTgCtl_kept
    | with_reducible apply writeImgCtrl_kept
    | with_reducible apply writeEpochCtrl_kept
    | with_reducible apply writeSpareCtrl_kept
    | with_reducible apply writeCwy_kept
    | with_reducible apply writeMetaBase_kept
    | with_reducible apply writeBpmCtrl_kept
    | with_reducible apply writePload_kept
    | with_reducible apply writeSpnGroup_kept
    | with_reducible apply writePierFlag_kept
    | with_reducible apply writeBrkCtrl_kept
    | with_reducible apply writeTrcEn_kept
    | with_reducible apply writeBootCtrl_kept
    | with_reducible apply writeFuncCtrl_kept
    | with_reducible apply writeAttCtrl_kept
    | with_reducible apply putIf_kept
    | with_reducible apply klWrite_kept
    | with_reducible apply pairWrite_kept
    | with_reducible apply writeFtCfg_kept
    | with_reducible apply writeNanCtrl_kept
    | with_reducible apply resumeCtx_kept
    | with_reducible apply writeActCfg_kept
    | with_reducible apply writeRingCfg_kept
    | with_reducible apply writeSvcCtl_kept
    | with_reducible apply writeSwitchId_kept
    | with_reducible apply orRefused_kept
    | with_reducible apply writeSsEn_kept
    | with_reducible apply writeTrCfg_kept
    | with_reducible apply writeBrkCfg_kept
    | with_reducible apply writeFields_kept
    | intro _
    | split)

theorem writeReg_kept {K : Keystone → Keystone → Prop} {a s : State} (hK : KsMoves K) (p : GPort) (a_ : Nat) (w : Word) (h : Kept K a s) :
    Kept K a (writeReg p a_ w s).1 := by
  unfold writeReg
  try dsimp only
  repeat' (first
    | with_reducible assumption
    | with_reducible apply writeNamed_kept
    | with_reducible apply checkPartner_kept
    | split)

theorem regWrite_kept {K : Keystone → Keystone → Prop} {a s : State} (hK : KsMoves K) (p : GPort) (a_ : Nat) (w : Word) (h : Kept K a s) :
    Kept K a (regWrite p a_ w s) := by
  unfold regWrite
  try dsimp only
  repeat' (first
    | with_reducible assumption
    | with_reducible apply wrAccess_kept
    | with_reducible apply writeReg_kept
    | intro _)

theorem execRegisterWrite_kept {K : Keystone → Keystone → Prop} {a s : State} (hK : KsMoves K) (p : GPort) (a_ : BitVec 32) (w : Word) (rival : Option (BitVec 32 × Word)) (h : Kept K a s) :
    KeptOut K a (execRegisterWrite p a_ w rival s) := by
  unfold execRegisterWrite
  try dsimp only
  repeat' (first
    | with_reducible assumption
    | with_reducible exact hK.toKsWaits
    | with_reducible apply byPort_kept
    | with_reducible apply regWrite_kept
    | with_reducible apply contend_kept
    | intro _
    | with_reducible apply KeptOut.next
    | split)

theorem respond_kept {K : Keystone → Keystone → Prop} {a s : State} (p : GPort) (t : Txn) (st : Nat) (data : List Byte) (h : Kept K a s) :
    Kept K a (respond p t st data s) := by
  unfold respond
  try dsimp only
  repeat' (first
    | with_reducible assumption
    | with_reducible apply gulSend_kept
    | split)

theorem cfgReads_kept {K : Keystone → Keystone → Prop} {a s : State} (hK : KsMoves K) (p : GPort) (z1 : Nat) (z2 : Nat) (z3 : List Byte) (h : Kept K a s) :
    Kept K a (cfgReads p z1 z2 z3 s).1 := by
  revert h
  fun_induction cfgReads p z1 z2 z3 s <;> intro h
  all_goals try dsimp only
  repeat' (first
    | with_reducible assumption
    | with_reducible refine (show Kept _ a _ → Kept _ a _ by with_reducible assumption) ?_
    | with_reducible apply readReg_kept
    | intro _
    | with_reducible apply Kept.foldl
    | with_reducible apply Kept.foldl2
    | with_reducible apply Kept.foldl1
    | with_reducible apply Kept.foldl22
    | with_reducible apply Kept.foldlW
    | with_reducible apply KeptOut.next
    | with_reducible apply KeptOpt.some
    | with_reducible exact KeptOpt.none
    | split
    | with_reducible refine Kept.snd (by with_reducible assumption) ?_
    | with_reducible refine Kept.fst (by with_reducible assumption) ?_
    | with_reducible refine Kept.snd2 (by with_reducible assumption) ?_
    | with_reducible refine Kept.snd1 (by with_reducible assumption) ?_
    | with_reducible refine Kept.opt (by with_reducible assumption) ?_
    | (show KeptF _ a _ _ _ _ _ _ _ _ _; dsimp only; with_reducible apply Kept.of)
    | dsimp only)

theorem cfgWrites_kept {K : Keystone → Keystone → Prop} {a s : State} (hK : KsMoves K) (p : GPort) (z1 : List Word) (z2 : Nat) (z3 : Bool) (h : Kept K a s) :
    Kept K a (cfgWrites p z1 z2 z3 s).1 := by
  revert h
  fun_induction cfgWrites p z1 z2 z3 s <;> intro h
  all_goals try dsimp only
  repeat' (first
    | with_reducible assumption
    | with_reducible refine (show Kept _ a _ → Kept _ a _ by with_reducible assumption) ?_
    | with_reducible apply writeReg_kept
    | intro _
    | with_reducible apply Kept.foldl
    | with_reducible apply Kept.foldl2
    | with_reducible apply Kept.foldl1
    | with_reducible apply Kept.foldl22
    | with_reducible apply Kept.foldlW
    | with_reducible apply KeptOut.next
    | with_reducible apply KeptOpt.some
    | with_reducible exact KeptOpt.none
    | split
    | with_reducible refine Kept.snd (by with_reducible assumption) ?_
    | with_reducible refine Kept.fst (by with_reducible assumption) ?_
    | with_reducible refine Kept.snd2 (by with_reducible assumption) ?_
    | with_reducible refine Kept.snd1 (by with_reducible assumption) ?_
    | with_reducible refine Kept.opt (by with_reducible assumption) ?_
    | (show KeptF _ a _ _ _ _ _ _ _ _ _; dsimp only; with_reducible apply Kept.of)
    | dsimp only)

theorem cfgTxn_kept {K : Keystone → Keystone → Prop} {a s : State} (hK : KsMoves K) (p : GPort) (t : Txn) (h : Kept K a s) :
    Kept K a (cfgTxn p t s) := by
  unfold cfgTxn
  try dsimp only
  repeat' (first
    | with_reducible assumption
    | with_reducible apply respond_kept
    | with_reducible apply cfgReads_kept
    | with_reducible apply cfgWrites_kept
    | split)

end Sys2Proof.Machine
end

