-- ==== Sys2Proof/Laws/KeptEight.lean ====
section
/-! SUPPORT. What operations keep, continued: one lemma for each operation, in the order of the model's files. -/

namespace Sys2Proof.Machine
open Sys2Proof

theorem gulaneUe_kept {K : Keystone → Keystone → Prop} {a s : State} (p : GPort) (t : Txn) (a_ : Nat) (h : Kept K a s) :
    Kept K a (gulaneUe p t a_ s) := by
  unfold gulaneUe
  try dsimp only
  repeat' (first
    | with_reducible assumption
    | with_reducible apply countUe_kept
    | with_reducible apply raiseFault_kept
    | split)

theorem hbmReadTxn_kept {K : Keystone → Keystone → Prop} {a s : State} (p : GPort) (t : Txn) (seen : MemSeen) (h : Kept K a s) :
    Kept K a (hbmReadTxn p t seen s) := by
  unfold hbmReadTxn
  try dsimp only
  repeat' (first
    | with_reducible assumption
    | with_reducible apply respond_kept
    | with_reducible apply meetEcc_kept
    | with_reducible apply gulaneUe_kept
    | split)

theorem hbmWriteTxn_kept {K : Keystone → Keystone → Prop} {a s : State} (p : GPort) (t : Txn) (h : Kept K a s) :
    Kept K a (hbmWriteTxn p t s) := by
  unfold hbmWriteTxn
  try dsimp only
  repeat' (first
    | with_reducible assumption
    | with_reducible apply respond_kept
    | with_reducible apply klDenied_kept
    | with_reducible apply raiseEvent_kept
    | with_reducible apply hbmWr_kept
    | split)

theorem hbmTxn_kept {K : Keystone → Keystone → Prop} {a s : State} (p : GPort) (t : Txn) (seen : MemSeen) (h : Kept K a s) :
    Kept K a (hbmTxn p t seen s) := by
  unfold hbmTxn
  try dsimp only
  repeat' (first
    | with_reducible assumption
    | with_reducible apply respond_kept
    | with_reducible apply hbmReadTxn_kept
    | with_reducible apply hbmWriteTxn_kept
    | split)

theorem doorbellTxn_kept {K : Keystone → Keystone → Prop} {a s : State} (p : GPort) (t : Txn) (h : Kept K a s) :
    Kept K a (doorbellTxn p t s) := by
  unfold doorbellTxn
  try dsimp only
  repeat' (first
    | with_reducible assumption
    | with_reducible apply respond_kept
    | with_reducible apply addDoorbell_kept
    | split)

theorem performTxn_kept {K : Keystone → Keystone → Prop} {a s : State} (hK : KsMoves K) (p : GPort) (t : Txn) (seen : MemSeen) (h : Kept K a s) :
    Kept K a (performTxn p t seen s) := by
  unfold performTxn
  try dsimp only
  repeat' (first
    | with_reducible assumption
    | with_reducible apply respond_kept
    | with_reducible apply doorbellTxn_kept
    | with_reducible apply hbmTxn_kept
    | with_reducible apply cfgTxn_kept
    | split)

theorem takeTxn_kept {K : Keystone → Keystone → Prop} {a s : State} (hK : KsMoves K) (p : GPort) (seen : MemSeen) (t : Txn)
    (h : Kept K a s) :
    Kept K a (takeTxn p seen s t) := by
  unfold takeTxn
  split
  · next hc =>
    refine waitFor_kept hK.toKsWaits p _ h fun i => ?_
    simp only [Bool.or_eq_true, Bool.and_eq_true, acquireWaits] at hc
    rcases hc with hc | hc
    · exact portWaits_holdOff hc i
    · exact hc.2.2
  · exact performTxn_kept hK _ _ _ h

theorem Cursor.next_kept {K : Keystone → Keystone → Prop} {a s : State} (hK : KsMoves K) (c : Cursor) (h : Kept K a s) :
    Kept K a (Cursor.next c s).2 := by
  unfold Cursor.next
  try dsimp only
  repeat' (first
    | with_reducible assumption
    | with_reducible apply readReg_kept
    | with_reducible apply writeReg_kept
    | split)

theorem runPair_kept {K : Keystone → Keystone → Prop} {a s : State} (hK : KsMoves K) (n : Nat) (c d : Cursor) (h : Kept K a s) :
    Kept K a (runPair n c d s).2.2 := by
  induction n generalizing c d s with
  | zero => exact h
  | succ n ih =>
    have hx : Kept K a (if dieOf c.addr = dieOf d.addr then
        (decide ((alternate c.addr s).1 = c.port), (alternate c.addr s).2.2) else (true, s)).2 := by
      split
      · exact alternate_kept hK _ h
      · exact h
    rw [runPair]
    dsimp only
    generalize (if dieOf c.addr = dieOf d.addr then
        (decide ((alternate c.addr s).1 = c.port), (alternate c.addr s).2.2) else (true, s)) = x at hx ⊢
    repeat' split
    all_goals first
      | exact h
      | exact ih _ _ (Cursor.next_kept hK _ (Cursor.next_kept hK _ hx))
      | exact ih _ _ (Cursor.next_kept hK _ h)

theorem takePair_kept {K : Keystone → Keystone → Prop} {a s : State} (hK : KsMoves K) (p : GPort) (seen : MemSeen) (t : Txn) (u : Txn) (h : Kept K a s) :
    Kept K a (takePair p seen t u s) := by
  unfold takePair
  try dsimp only
  repeat' (first
    | with_reducible assumption
    | with_reducible exact hK.toKsWaits
    | with_reducible apply contend_kept
    | with_reducible apply takeTxn_kept
    | with_reducible apply runPair_kept
    | with_reducible apply respond_kept
    | with_reducible apply byPort_kept
    | intro _
    | split)

theorem txnRow_kept {K : Keystone → Keystone → Prop} {a s : State} (hK : KsMoves K) (p : GPort) (seen : MemSeen) (t : Txn) (rival : Option Txn) (h : Kept K a s) :
    Kept K a (txnRow p seen t rival s) := by
  unfold txnRow
  try dsimp only
  repeat' (first
    | with_reducible assumption
    | with_reducible exact hK.toKsWaits
    | with_reducible apply byPort_kept
    | with_reducible apply takeTxn_kept
    | with_reducible apply takePair_kept
    | intro _
    | split)

theorem execRead_kept {K : Keystone → Keystone → Prop} {a s : State} (hK : KsMoves K) (p : GPort) (t : Txn) (seen : MemSeen) (rival : Option Txn) (h : Kept K a s) :
    KeptOut K a (execRead p t seen rival s) := by
  unfold execRead
  try dsimp only
  repeat' (first
    | with_reducible assumption
    | with_reducible apply txnRow_kept
    | with_reducible apply KeptOut.next)

theorem execWrite_kept {K : Keystone → Keystone → Prop} {a s : State} (hK : KsMoves K) (p : GPort) (t : Txn) (rival : Option Txn) (h : Kept K a s) :
    KeptOut K a (execWrite p t rival s) := by
  unfold execWrite
  try dsimp only
  repeat' (first
    | with_reducible assumption
    | with_reducible apply txnRow_kept
    | with_reducible apply KeptOut.next)

theorem execDoorbell_kept {K : Keystone → Keystone → Prop} {a s : State} (hK : KsMoves K) (p : GPort) (t : Txn) (h : Kept K a s) :
    KeptOut K a (execDoorbell p t s) := by
  unfold execDoorbell
  try dsimp only
  repeat' (first
    | with_reducible assumption
    | with_reducible apply txnRow_kept
    | with_reducible apply KeptOut.next)

theorem takeFrame_kept {K : Keystone → Keystone → Prop} {a s : State} (hK : KsMoves K) (p : GPort) (b : List Byte) (seen : MemSeen) (h : Kept K a s) :
    Kept K a (takeFrame p b seen s) := by
  unfold takeFrame
  try dsimp only
  repeat' (first
    | with_reducible assumption
    | with_reducible apply bump_kept
    | with_reducible apply ptpTake_kept
    | with_reducible apply takeTxn_kept
    | with_reducible apply onMg_kept
    | intro _
    | with_reducible apply Kept.foldl
    | split)

theorem execGulaneFrame_kept {K : Keystone → Keystone → Prop} {a s : State} (hK : KsMoves K) (p : GPort) (frame : List Byte) (seen : MemSeen) (h : Kept K a s) :
    KeptOut K a (execGulaneFrame p frame seen s) := by
  unfold execGulaneFrame
  try dsimp only
  repeat' (first
    | with_reducible assumption
    | with_reducible apply takeFrame_kept
    | with_reducible apply KeptOut.next
    | split)

theorem serveWaiting_kept {K : Keystone → Keystone → Prop} {a s : State} (hK : KsMoves K) (q : GPort × Access) (h : Kept K a s) :
    Kept K a (serveWaiting s q) := by
  unfold serveWaiting
  try dsimp only
  repeat' (first
    | with_reducible assumption
    | with_reducible apply acquire_kept
    | with_reducible apply rdAccess_kept
    | with_reducible apply regWrite_kept
    | with_reducible apply takeTxn_kept
    | split)

theorem waitingOrder_kept {K : Keystone → Keystone → Prop} {a s : State} (hK : KsMoves K) (w : List (GPort × Access)) (h : Kept K a s) :
    Kept K a (waitingOrder w s).2 := by
  unfold waitingOrder
  try dsimp only
  repeat' (first
    | with_reducible assumption
    | with_reducible apply alternate0_kept
    | split)

theorem execHoldOffEnd_kept {a s : State} (h : Kept KsKeep a s) :
    KeptOut KsKeep a (execHoldOffEnd s) := by
  unfold execHoldOffEnd
  split
  · next hc =>
    have h2 : Kept KsKeep a { s with ks := { s.ks with holdOff := false, waiting := [], die1 := none } } :=
      h.ksMap _ fun g hi =>
        ⟨fun q hq => (by cases hq), fun hq => (by cases hq), fun hw => absurd rfl hw, (g hi).ticket⟩
    refine KeptOut.next (Kept.foldl _ (fun s x hs => serveWaiting_kept ksKeep_moves _ hs) ?_)
    exact waitingOrder_kept ksKeep_moves _ h2
  · exact h

theorem fullReset_kept {a s : State} (h : Kept KsKeep a s) :
    Kept KsKeep a (fullReset s) := by
  unfold fullReset
  apply wr_kept
  have h1 : SmWf regReset (fuseRegs s.fuses s.otp) :=
    foldl_put_wf regReset (fun w : Nat × Nat => w.1) (fun w => BitVec.ofNat 32 w.2) _ _ ⟨List.Pairwise.nil, by simp⟩
  have h2 : KsInv Keystone.reset :=
    ⟨fun q hq => (by cases hq), fun _ => rfl, fun hw => absurd rfl hw, ⟨Nat.zero_le _, fun hn => absurd rfl hn⟩⟩
  have h3 : SmWf (fun _ => (0 : Byte)) Piers.reset.store := ⟨List.Pairwise.nil, fun _ hp => by cases hp⟩
  unfold State.ofFuses
  show KeptF _ a _ _ _ _ _ _ _ _ _
  dsimp only
  exact ⟨h.pending, h.fuses, h.otp, h.free, h.out, fun _ => memOf_wf _, fun _ => h1, fun _ => h3, fun _ => h2⟩

theorem execResetLAssert_kept {K : Keystone → Keystone → Prop} {a s : State} (h : Kept K a s) :
    KeptOut K a (execResetLAssert s) := by
  unfold execResetLAssert
  try dsimp only
  repeat' (first
    | with_reducible assumption
    | with_reducible apply dropDrive_kept
    | with_reducible apply KeptOut.next
    | (show KeptF _ a _ _ _ _ _ _ _ _ _; dsimp only; with_reducible apply Kept.of))

theorem execFullReset_kept {a s : State} (h : Kept KsKeep a s) :
    KeptOut KsKeep a (execFullReset s) := by
  unfold execFullReset
  try dsimp only
  repeat' (first
    | with_reducible assumption
    | with_reducible apply fullReset_kept
    | with_reducible apply KeptOut.next)

theorem firstVoltage_kept {K : Keystone → Keystone → Prop} {a s : State} (h : Kept K a s) :
    Kept K a (firstVoltage s) := by
  unfold firstVoltage
  try dsimp only
  repeat' (first
    | with_reducible assumption
    | with_reducible apply wf_kept
    | intro _
    | with_reducible apply Kept.foldl)

theorem execResetEnd_kept {K : Keystone → Keystone → Prop} {a s : State} (h : Kept K a s) :
    KeptOut K a (execResetEnd s) := by
  unfold execResetEnd
  try dsimp only
  repeat' (first
    | with_reducible assumption
    | with_reducible apply wn_kept
    | with_reducible apply startJournal_kept
    | with_reducible apply firstVoltage_kept
    | intro _
    | with_reducible apply Kept.foldl
    | with_reducible apply KeptOut.next
    | split
    | (show KeptF _ a _ _ _ _ _ _ _ _ _; dsimp only; with_reducible apply Kept.of))

theorem powerOff_kept {a s : State} (sq : SeqState) (h : Kept KsKeep a s) :
    Kept KsKeep a (powerOff sq s) := by
  unfold powerOff
  try dsimp only
  repeat' (first
    | with_reducible assumption
    | with_reducible apply wr_kept
    | with_reducible apply fullReset_kept
    | (show KeptF _ a _ _ _ _ _ _ _ _ _; dsimp only; with_reducible apply Kept.of))

theorem execHousekeepingStart_kept {K : Keystone → Keystone → Prop} {a s : State} (h : Kept K a s) :
    KeptOut K a (execHousekeepingStart s) := by
  unfold execHousekeepingStart
  try dsimp only
  repeat' (first
    | with_reducible assumption
    | with_reducible apply KeptOut.next
    | split
    | (show KeptF _ a _ _ _ _ _ _ _ _ _; dsimp only; with_reducible apply Kept.of))

theorem execHousekeepingSupplyOff_kept {a s : State} (h : Kept KsKeep a s) :
    KeptOut KsKeep a (execHousekeepingSupplyOff s) := by
  unfold execHousekeepingSupplyOff
  try dsimp only
  repeat' (first
    | with_reducible assumption
    | with_reducible apply powerOff_kept
    | with_reducible apply KeptOut.next
    | (show KeptF _ a _ _ _ _ _ _ _ _ _; dsimp only; with_reducible apply Kept.of))

theorem execSequencerStart_kept {K : Keystone → Keystone → Prop} {a s : State} (h : Kept K a s) :
    KeptOut K a (execSequencerStart s) := by
  unfold execSequencerStart
  try dsimp only
  repeat' (first
    | with_reducible assumption
    | with_reducible apply KeptOut.next
    | split
    | (show KeptF _ a _ _ _ _ _ _ _ _ _; dsimp only; with_reducible apply Kept.of))

theorem execRailInWindow_kept {K : Keystone → Keystone → Prop} {a s : State} (k : Fin 18) (h : Kept K a s) :
    KeptOut K a (execRailInWindow k s) := by
  unfold execRailInWindow
  try dsimp only
  repeat' (first
    | with_reducible assumption
    | with_reducible apply KeptOut.next
    | split
    | (show KeptF _ a _ _ _ _ _ _ _ _ _; dsimp only; with_reducible apply Kept.of))

theorem execPllLock_kept {K : Keystone → Keystone → Prop} {a s : State} (h : Kept K a s) :
    KeptOut K a (execPllLock s) := by
  unfold execPllLock
  try dsimp only
  repeat' (first
    | with_reducible assumption
    | with_reducible apply wn_kept
    | with_reducible apply KeptOut.next
    | split)

theorem execSequencerFault_kept {a s : State} (k : Fin 18) (h : Kept KsKeep a s) :
    KeptOut KsKeep a (execSequencerFault k s) := by
  unfold execSequencerFault
  try dsimp only
  repeat' (first
    | with_reducible assumption
    | with_reducible apply powerOff_kept
    | with_reducible apply KeptOut.next
    | split
    | (show KeptF _ a _ _ _ _ _ _ _ _ _; dsimp only; with_reducible apply Kept.of))

theorem execPwrEnDeassert_kept {a s : State} (h : Kept KsKeep a s) :
    KeptOut KsKeep a (execPwrEnDeassert s) := by
  unfold execPwrEnDeassert
  try dsimp only
  repeat' (first
    | with_reducible assumption
    | with_reducible apply powerOff_kept
    | with_reducible apply KeptOut.next
    | split
    | (show KeptF _ a _ _ _ _ _ _ _ _ _; dsimp only; with_reducible apply Kept.of))

theorem execInputOutOfRange_kept {a s : State} (h : Kept KsKeep a s) :
    KeptOut KsKeep a (execInputOutOfRange s) := by
  unfold execInputOutOfRange
  try dsimp only
  repeat' (first
    | with_reducible assumption
    | with_reducible apply powerOff_kept
    | with_reducible apply KeptOut.next)

theorem execThermalTrip_kept {a s : State} (h : Kept KsKeep a s) :
    KeptOut KsKeep a (execThermalTrip s) := by
  unfold execThermalTrip
  try dsimp only
  repeat' (first
    | with_reducible assumption
    | with_reducible apply powerOff_kept
    | with_reducible apply KeptOut.next
    | (show KeptF _ a _ _ _ _ _ _ _ _ _; dsimp only; with_reducible apply Kept.of))

theorem execSeqLatchClear_kept {K : Keystone → Keystone → Prop} {a s : State} (h : Kept K a s) :
    KeptOut K a (execSeqLatchClear s) := by
  unfold execSeqLatchClear
  try dsimp only
  repeat' (first
    | with_reducible assumption
    | with_reducible apply KeptOut.next
    | split
    | (show KeptF _ a _ _ _ _ _ _ _ _ _; dsimp only; with_reducible apply Kept.of))

theorem execViaductTraining_kept {K : Keystone → Keystone → Prop} {a s : State} (f01 : Fin 1025) (f10 : Fin 1025) (h : Kept K a s) :
    KeptOut K a (execViaductTraining f01 f10 s) := by
  unfold execViaductTraining
  try dsimp only
  repeat' (first
    | with_reducible assumption
    | with_reducible apply wn_kept
    | with_reducible apply KeptOut.next
    | split)

theorem execViaductFlit_kept {K : Keystone → Keystone → Prop} {a s : State} (d : Fin 2) (corrected : Bool) (h : Kept K a s) :
    KeptOut K a (execViaductFlit d corrected s) := by
  unfold execViaductFlit
  try dsimp only
  repeat' (first
    | with_reducible assumption
    | with_reducible apply bump_kept
    | with_reducible apply raiseFault_kept
    | with_reducible apply KeptOut.next
    | split)

theorem bootHalt_kept {K : Keystone → Keystone → Prop} {a s : State} (code : Nat) (h : Kept K a s) :
    Kept K a (bootHalt code s) := by
  unfold bootHalt
  try dsimp only
  repeat' (first
    | with_reducible assumption
    | with_reducible apply raiseFault_kept
    | with_reducible apply wf_kept)

theorem trainChannel_kept {K : Keystone → Keystone → Prop} {a s : State} (failed : List (SpanNo × Fin 16)) (st : Nat) (c : Nat) (h : Kept K a s) :
    Kept K a (trainChannel failed st c s) := by
  unfold trainChannel
  try dsimp only
  repeat' (first
    | with_reducible assumption
    | with_reducible apply wf_kept)

theorem trainAll_kept {K : Keystone → Keystone → Prop} {a s : State} (failed : List (SpanNo × Fin 16)) (h : Kept K a s) :
    Kept K a (trainAll failed s) := by
  unfold trainAll
  try dsimp only
  repeat' (first
    | with_reducible assumption
    | with_reducible apply trainChannel_kept
    | intro _
    | with_reducible apply Kept.foldl)

theorem execBootRom_kept {K : Keystone → Keystone → Prop} {a s : State} (selfTest : Bool) (failed : List (SpanNo × Fin 16)) (h : Kept K a s) :
    KeptOut K a (execBootRom selfTest failed s) := by
  unfold execBootRom
  try dsimp only
  repeat' (first
    | with_reducible assumption
    | with_reducible apply wf_kept
    | with_reducible apply bootHalt_kept
    | with_reducible apply trainAll_kept
    | with_reducible apply KeptOut.next
    | split)

theorem smbusRead_kept {K : Keystone → Keystone → Prop} {a s : State} (pec : Pec) (bytes : List Byte) (h : Kept K a s) :
    Kept K a (smbusRead pec bytes s) := by
  unfold smbusRead
  try dsimp only
  repeat' (first
    | with_reducible assumption
    | with_reducible apply emit_kept)

theorem execMgmtId_kept {K : Keystone → Keystone → Prop} {a s : State} (pec : Pec) (h : Kept K a s) :
    KeptOut K a (execMgmtId pec s) := by
  unfold execMgmtId
  try dsimp only
  repeat' (first
    | with_reducible assumption
    | with_reducible apply smbusRead_kept
    | with_reducible apply KeptOut.next)

theorem execSeqFault_kept {K : Keystone → Keystone → Prop} {a s : State} (pec : Pec) (h : Kept K a s) :
    KeptOut K a (execSeqFault pec s) := by
  unfold execSeqFault
  try dsimp only
  repeat' (first
    | with_reducible assumption
    | with_reducible apply smbusRead_kept
    | with_reducible apply KeptOut.next)

theorem execSeqState_kept {K : Keystone → Keystone → Prop} {a s : State} (pec : Pec) (h : Kept K a s) :
    KeptOut K a (execSeqState pec s) := by
  unfold execSeqState
  try dsimp only
  repeat' (first
    | with_reducible assumption
    | with_reducible apply smbusRead_kept
    | with_reducible apply KeptOut.next)

theorem execVin_kept {K : Keystone → Keystone → Prop} {a s : State} (pec : Pec) (sample : BitVec 16) (h : Kept K a s) :
    KeptOut K a (execVin pec sample s) := by
  unfold execVin
  try dsimp only
  repeat' (first
    | with_reducible assumption
    | with_reducible apply smbusRead_kept
    | with_reducible apply KeptOut.next
    | split
    | (show KeptF _ a _ _ _ _ _ _ _ _ _; dsimp only; with_reducible apply Kept.of))

theorem execIinA_kept {K : Keystone → Keystone → Prop} {a s : State} (pec : Pec) (sample : BitVec 16) (h : Kept K a s) :
    KeptOut K a (execIinA pec sample s) := by
  unfold execIinA
  try dsimp only
  repeat' (first
    | with_reducible assumption
    | with_reducible apply smbusRead_kept
    | with_reducible apply KeptOut.next
    | split
    | (show KeptF _ a _ _ _ _ _ _ _ _ _; dsimp only; with_reducible apply Kept.of))

theorem execIinB_kept {K : Keystone → Keystone → Prop} {a s : State} (pec : Pec) (sample : BitVec 16) (h : Kept K a s) :
    KeptOut K a (execIinB pec sample s) := by
  unfold execIinB
  try dsimp only
  repeat' (first
    | with_reducible assumption
    | with_reducible apply smbusRead_kept
    | with_reducible apply KeptOut.next
    | split
    | (show KeptF _ a _ _ _ _ _ _ _ _ _; dsimp only; with_reducible apply Kept.of))

theorem execDeviceId_kept {K : Keystone → Keystone → Prop} {a s : State} (pec : Pec) (h : Kept K a s) :
    KeptOut K a (execDeviceId pec s) := by
  unfold execDeviceId
  try dsimp only
  repeat' (first
    | with_reducible assumption
    | with_reducible apply smbusRead_kept
    | with_reducible apply KeptOut.next)

theorem execModuleSn_kept {K : Keystone → Keystone → Prop} {a s : State} (pec : Pec) (h : Kept K a s) :
    KeptOut K a (execModuleSn pec s) := by
  unfold execModuleSn
  try dsimp only
  repeat' (first
    | with_reducible assumption
    | with_reducible apply smbusRead_kept
    | with_reducible apply KeptOut.next)

theorem execBypass_kept {K : Keystone → Keystone → Prop} {a s : State} (h : Kept K a s) :
    KeptOut K a (execBypass s) := by
  unfold execBypass
  try dsimp only
  repeat' (first
    | with_reducible assumption
    | with_reducible apply emit_kept
    | with_reducible apply KeptOut.next
    | (show KeptF _ a _ _ _ _ _ _ _ _ _; dsimp only; with_reducible apply Kept.of))

theorem execIdcode_kept {K : Keystone → Keystone → Prop} {a s : State} (h : Kept K a s) :
    KeptOut K a (execIdcode s) := by
  unfold execIdcode
  try dsimp only
  repeat' (first
    | with_reducible assumption
    | with_reducible apply emit_kept
    | with_reducible apply KeptOut.next
    | (show KeptF _ a _ _ _ _ _ _ _ _ _; dsimp only; with_reducible apply Kept.of))

theorem execSamplePreload_kept {K : Keystone → Keystone → Prop} {a s : State} (pins : List Bool) (load : List Bool) (h : Kept K a s) :
    KeptOut K a (execSamplePreload pins load s) := by
  unfold execSamplePreload
  try dsimp only
  repeat' (first
    | with_reducible assumption
    | with_reducible apply emit_kept
    | with_reducible apply KeptOut.next
    | (show KeptF _ a _ _ _ _ _ _ _ _ _; dsimp only; with_reducible apply Kept.of))

theorem execExtest_kept {K : Keystone → Keystone → Prop} {a s : State} (pins : List Bool) (load : List Bool) (h : Kept K a s) :
    KeptOut K a (execExtest pins load s) := by
  unfold execExtest
  try dsimp only
  repeat' (first
    | with_reducible assumption
    | with_reducible apply emit_kept
    | with_reducible apply KeptOut.next
    | (show KeptF _ a _ _ _ _ _ _ _ _ _; dsimp only; with_reducible apply Kept.of))

theorem coreWr_kept {K : Keystone → Keystone → Prop} {a s : State} (p : Nat) (wr : Option (Nat × List Byte)) (h : Kept K a s) :
    Kept K a (coreWr p wr s) := by
  unfold coreWr
  try dsimp only
  repeat' (first
    | with_reducible assumption
    | with_reducible apply stagePort_kept
    | with_reducible apply locWr_kept
    | with_reducible apply hbmWr_kept
    | split)

theorem coreDoes_kept {K : Keystone → Keystone → Prop} {a s : State} (p : Nat) (d : CoreDo) (h : Kept K a s) :
    Kept K a (coreDoes p d s) := by
  unfold coreDoes
  try dsimp only
  repeat' (first
    | with_reducible assumption
    | with_reducible apply onPier_kept
    | with_reducible apply coreWr_kept)

theorem tickCore_kept {K : Keystone → Keystone → Prop} {a s : State} (p : Nat) (h : Kept K a s) :
    Kept K a (tickCore s p) := by
  unfold tickCore
  try dsimp only
  repeat' (first
    | with_reducible assumption
    | with_reducible apply coreDoes_kept
    | split)

theorem tickCores_kept {K : Keystone → Keystone → Prop} {a s : State} (h : Kept K a s) :
    Kept K a (tickCores s) := by
  unfold tickCores
  try dsimp only
  repeat' (first
    | with_reducible assumption
    | with_reducible apply tickCore_kept
    | with_reducible apply Kept.foldl)

theorem trapTask_kept {K : Keystone → Keystone → Prop} {a s : State} (p : Nat) (g : Grant) (t : CoreTrap) (h : Kept K a s) :
    Kept K a (trapTask p g t s) := by
  unfold trapTask
  try dsimp only
  repeat' (first
    | with_reducible assumption
    | with_reducible apply byDenied_kept
    | with_reducible apply byFault_kept
    | with_reducible apply byMemUe_kept
    | with_reducible apply endTask_kept
    | split)

theorem execTaskStart_kept {K : Keystone → Keystone → Prop} {a s : State} (p : PierNo) (h : Kept K a s) :
    KeptOut K a (execTaskStart p s) := by
  unfold execTaskStart
  try dsimp only
  repeat' (first
    | with_reducible assumption
    | with_reducible apply onPier_kept
    | with_reducible apply traced_kept
    | with_reducible apply handOut_kept
    | with_reducible apply trapTask_kept
    | with_reducible apply byDenied_kept
    | with_reducible apply KeptOut.next
    | split)

theorem execTaskEnd_kept {K : Keystone → Keystone → Prop} {a s : State} (p : PierNo) (sram : Bool) (h : Kept K a s) :
    KeptOut K a (execTaskEnd p sram s) := by
  unfold execTaskEnd
  try dsimp only
  repeat' (first
    | with_reducible assumption
    | with_reducible apply trapTask_kept
    | with_reducible apply endTask_kept
    | with_reducible apply KeptOut.next
    | split)

theorem execQueuePush_kept {K : Keystone → Keystone → Prop} {a s : State} (p : PierNo) (h : Kept K a s) :
    KeptOut K a (execQueuePush p s) := by
  unfold execQueuePush
  try dsimp only
  repeat' (first
    | with_reducible assumption
    | with_reducible apply pushStaged_kept
    | with_reducible apply coreDoes_kept
    | with_reducible apply KeptOut.next
    | split)

theorem putStore_kept {K : Keystone → Keystone → Prop} {a s : State} (v : KvStore) (h : Kept K a s) :
    Kept K a (putStore v s) := by
  unfold putStore
  try dsimp only
  repeat' (first
    | with_reducible assumption
    | with_reducible apply onSvc_kept)

theorem kvOpenRun_kept {K : Keystone → Keystone → Prop} {a s : State} (r : SvcReq) (h : Kept K a s) :
    Kept K a (kvOpenRun r s) := by
  unfold kvOpenRun
  try dsimp only
  repeat' (first
    | with_reducible assumption
    | with_reducible apply malformedReq_kept
    | with_reducible apply svcWrite_kept
    | with_reducible apply failReq_kept
    | with_reducible apply endReq_kept
    | with_reducible apply onSvc_kept
    | split
    | with_reducible refine Kept.snd (by with_reducible assumption) ?_)

theorem execKvOpen_kept {K : Keystone → Keystone → Prop} {a s : State} (x : CtxNo) (w : SvcStep) (h : Kept K a s) :
    KeptOut K a (execKvOpen x w s) := by
  unfold execKvOpen
  try dsimp only
  repeat' (first
    | with_reducible assumption
    | with_reducible apply svcRow_kept
    | with_reducible apply kvOpenRun_kept
    | intro _
    | with_reducible apply KeptOut.next)

theorem kvCloseRun_kept {K : Keystone → Keystone → Prop} {a s : State} (r : SvcReq) (h : Kept K a s) :
    Kept K a (kvCloseRun r s) := by
  unfold kvCloseRun
  try dsimp only
  repeat' (first
    | with_reducible assumption
    | with_reducible apply malformedReq_kept
    | with_reducible apply endReq_kept
    | with_reducible apply onSvc_kept
    | split)

theorem execKvClose_kept {K : Keystone → Keystone → Prop} {a s : State} (x : CtxNo) (w : SvcStep) (h : Kept K a s) :
    KeptOut K a (execKvClose x w s) := by
  unfold execKvClose
  try dsimp only
  repeat' (first
    | with_reducible assumption
    | with_reducible apply svcRow_kept
    | with_reducible apply kvCloseRun_kept
    | intro _
    | with_reducible apply KeptOut.next)

theorem kvProbe_kept {K : Keystone → Keystone → Prop} {a s : State} (w : SvcBy) (v : KvStore) (key : List Byte) (h : Kept K a s) :
    Kept K a (kvProbe w v key s).2 := by
  unfold kvProbe
  try dsimp only
  repeat' (first
    | with_reducible assumption
    | with_reducible apply svcPiecesOk_kept)

theorem kvScan_kept {K : Keystone → Keystone → Prop} {a s : State} (w : SvcBy) (v : KvStore) (h : Kept K a s) :
    Kept K a (kvScan w v s).2 := by
  unfold kvScan
  try dsimp only
  repeat' (first
    | with_reducible assumption
    | with_reducible apply svcPiecesOk_kept)

theorem kvPutEntry_kept {K : Keystone → Keystone → Prop} {a s : State} (w : SvcBy) (v : KvStore) (i : Nat) (e : KvEntry) (h : Kept K a s) :
    Kept K a (kvPutEntry w v i e s).2 := by
  unfold kvPutEntry
  try dsimp only
  repeat' (first
    | with_reducible assumption
    | with_reducible apply svcWrite_kept)

theorem kvPage_kept {K : Keystone → Keystone → Prop} {a s : State} (w : SvcBy) (v : KvStore) (decomp : Bool) (slot : Nat) (h : Kept K a s) :
    Kept K a (kvPage w v decomp slot s).2 := by
  unfold kvPage
  try dsimp only
  repeat' (first
    | with_reducible assumption
    | with_reducible apply svcRead_kept
    | split
    | with_reducible refine Kept.snd (by with_reducible assumption) ?_)

theorem kvWritePage_kept {K : Keystone → Keystone → Prop} {a s : State} (w : SvcBy) (v : KvStore) (i : Nat) (e : KvEntry) (page : List Byte) (stampIt : Bool) (h : Kept K a s) :
    Kept K a (kvWritePage w v i e page stampIt s).2 := by
  unfold kvWritePage
  try dsimp only
  repeat' (first
    | with_reducible assumption
    | with_reducible apply nansProduced_kept
    | with_reducible apply tookFree_kept
    | with_reducible apply svcWrite_kept
    | with_reducible apply kvPutEntry_kept
    | with_reducible apply putStore_kept
    | split
    | with_reducible refine Kept.snd (by with_reducible assumption) ?_)

theorem kvInsert_kept {K : Keystone → Keystone → Prop} {a s : State} (w : SvcBy) (v : KvStore) (key : List Byte) (pin : Bool) (slot : Nat) (evicted : Nat) (page : List Byte) (h : Kept K a s) :
    Kept K a (kvInsert w v key pin slot evicted page s).2 := by
  unfold kvInsert
  try dsimp only
  repeat' (first
    | with_reducible assumption
    | with_reducible apply kvWritePage_kept
    | split
    | with_reducible refine Kept.snd (by with_reducible assumption) ?_)

theorem kvNewPage_kept {K : Keystone → Keystone → Prop} {a s : State} (w : SvcBy) (v : KvStore) (key : List Byte) (pin : Bool) (page : List Byte) (h : Kept K a s) :
    Kept K a (kvNewPage w v key pin page s).2 := by
  unfold kvNewPage
  try dsimp only
  repeat' (first
    | with_reducible assumption
    | with_reducible apply kvScan_kept
    | with_reducible apply kvInsert_kept
    | with_reducible apply kvPutEntry_kept
    | split
    | with_reducible refine Kept.snd (by with_reducible assumption) ?_)

theorem kvSeek_kept {K : Keystone → Keystone → Prop} {a s : State} (w : SvcBy) (v : KvStore) (key : List Byte) (h : Kept K a s) :
    Kept K a (kvSeek w v key s).2.2 := by
  unfold kvSeek
  try dsimp only
  repeat' (first
    | with_reducible assumption
    | with_reducible apply kvProbe_kept
    | split
    | with_reducible refine Kept.snd (by with_reducible assumption) ?_)

theorem kvPutKey_kept {K : Keystone → Keystone → Prop} {a s : State} (r : SvcReq) (v : KvStore) (k : Nat) (key : List Byte) (h : Kept K a s) :
    Kept K a (kvPutKey r v k key s).2 := by
  unfold kvPutKey
  try dsimp only
  repeat' (first
    | with_reducible assumption
    | with_reducible apply svcRead_kept
    | with_reducible apply kvSeek_kept
    | with_reducible apply kvWritePage_kept
    | with_reducible apply kvNewPage_kept
    | split
    | with_reducible refine Kept.snd (by with_reducible assumption) ?_
    | with_reducible refine Kept.snd2 (by with_reducible assumption) ?_)

theorem kvGetKey_kept {K : Keystone → Keystone → Prop} {a s : State} (r : SvcReq) (v : KvStore) (k : Nat) (key : List Byte) (h : Kept K a s) :
    Kept K a (kvGetKey r v k key s).2 := by
  unfold kvGetKey
  try dsimp only
  repeat' (first
    | with_reducible assumption
    | with_reducible apply kvSeek_kept
    | with_reducible apply kvPutEntry_kept
    | with_reducible apply putStore_kept
    | with_reducible apply kvPage_kept
    | with_reducible apply svcWrite_kept
    | split
    | with_reducible refine Kept.snd (by with_reducible assumption) ?_
    | with_reducible refine Kept.snd2 (by with_reducible assumption) ?_)

theorem kvMarkKey_kept {K : Keystone → Keystone → Prop} {a s : State} (r : SvcReq) (v : KvStore) (key : List Byte) (h : Kept K a s) :
    Kept K a (kvMarkKey r v key s).2 := by
  unfold kvMarkKey
  try dsimp only
  repeat' (first
    | with_reducible assumption
    | with_reducible apply kvSeek_kept
    | with_reducible apply kvPutEntry_kept
    | split
    | with_reducible refine Kept.snd (by with_reducible assumption) ?_
    | with_reducible refine Kept.snd2 (by with_reducible assumption) ?_)

theorem kvKeyOf_kept {K : Keystone → Keystone → Prop} {a s : State} (r : SvcReq) (v : KvStore) (k : Nat) (key : List Byte) (h : Kept K a s) :
    Kept K a (kvKeyOf r v k key s).2 := by
  unfold kvKeyOf
  try dsimp only
  repeat' (first
    | with_reducible assumption
    | with_reducible apply kvPutKey_kept
    | with_reducible apply kvGetKey_kept
    | with_reducible apply kvMarkKey_kept
    | split)

theorem kvReport_kept {K : Keystone → Keystone → Prop} {a s : State} (r : SvcReq) (k : Nat) (d : KvDone) (h : Kept K a s) :
    Kept K a (kvReport r k d s).2 := by
  unfold kvReport
  try dsimp only
  repeat' (first
    | with_reducible assumption
    | with_reducible apply svcWrite_kept
    | split
    | with_reducible refine Kept.snd (by with_reducible assumption) ?_)

theorem kvKey_kept {K : Keystone → Keystone → Prop} {a s : State} (r : SvcReq) (k : Nat) (h : Kept K a s) :
    Kept K a (kvKey r k s).2 := by
  unfold kvKey
  try dsimp only
  repeat' (first
    | with_reducible assumption
    | with_reducible apply svcRead_kept
    | with_reducible apply kvKeyOf_kept
    | with_reducible apply kvReport_kept
    | split
    | with_reducible refine Kept.snd (by with_reducible assumption) ?_)

theorem kvKeys_kept {K : Keystone → Keystone → Prop} {a s : State} (r : SvcReq) (z1 : Nat) (z2 : Nat) (h : Kept K a s) :
    Kept K a (kvKeys r z1 z2 s).2 := by
  revert h
  fun_induction kvKeys r z1 z2 s <;> intro h
  all_goals try dsimp only
  repeat' (first
    | with_reducible assumption
    | with_reducible refine (show Kept _ a _ → Kept _ a _ by with_reducible assumption) ?_
    | with_reducible apply kvKey_kept
    | intro _
    | with_reducible apply Kept.foldl
    | with_reducible apply Kept.foldl2
    | with_reducible apply Kept.foldl1
    | with_reducible apply Kept.foldl22
    | with_reducible apply Kept.foldlW
    | with_reducible apply KeptOut.next
    | with_reducible apply KeptOpt.some
    | with_reducible exact KeptOpt.none
    | split
    | with_reducible refine Kept.snd (by with_reducible assumption) ?_
    | with_reducible refine Kept.fst (by with_reducible assumption) ?_
    | with_reducible refine Kept.snd2 (by with_reducible assumption) ?_
    | with_reducible refine Kept.snd1 (by with_reducible assumption) ?_
    | with_reducible refine Kept.opt (by with_reducible assumption) ?_
    | (show KeptF _ a _ _ _ _ _ _ _ _ _; dsimp only; with_reducible apply Kept.of)
    | dsimp only)

theorem kvBatch_kept {K : Keystone → Keystone → Prop} {a s : State} (r : SvcReq) (h : Kept K a s) :
    Kept K a (kvBatch r s) := by
  unfold kvBatch
  try dsimp only
  repeat' (first
    | with_reducible assumption
    | with_reducible apply malformedReq_kept
    | with_reducible apply kvKeys_kept
    | with_reducible apply failReq_kept
    | with_reducible apply putReq_kept
    | with_reducible apply endReq_kept
    | split
    | with_reducible refine Kept.snd (by with_reducible assumption) ?_)

theorem execKvPut_kept {K : Keystone → Keystone → Prop} {a s : State} (x : CtxNo) (w : SvcStep) (h : Kept K a s) :
    KeptOut K a (execKvPut x w s) := by
  unfold execKvPut
  try dsimp only
  repeat' (first
    | with_reducible assumption
    | with_reducible apply svcRow_kept
    | with_reducible apply kvBatch_kept
    | intro _
    | with_reducible apply KeptOut.next)

theorem execKvDrop_kept {K : Keystone → Keystone → Prop} {a s : State} (x : CtxNo) (w : SvcStep) (h : Kept K a s) :
    KeptOut K a (execKvDrop x w s) := by
  unfold execKvDrop
  try dsimp only
  repeat' (first
    | with_reducible assumption
    | with_reducible apply svcRow_kept
    | with_reducible apply kvBatch_kept
    | intro _
    | with_reducible apply KeptOut.next)

theorem execKvPin_kept {K : Keystone → Keystone → Prop} {a s : State} (x : CtxNo) (w : SvcStep) (h : Kept K a s) :
    KeptOut K a (execKvPin x w s) := by
  unfold execKvPin
  try dsimp only
  repeat' (first
    | with_reducible assumption
    | with_reducible apply svcRow_kept
    | with_reducible apply kvBatch_kept
    | intro _
    | with_reducible apply KeptOut.next)

theorem kvTakeBuf_kept {K : Keystone → Keystone → Prop} {a s : State} (r : SvcReq) (h : Kept K a s) :
    Kept K a (kvTakeBuf r s).2 := by
  unfold kvTakeBuf
  try dsimp only
  repeat' (first
    | with_reducible assumption
    | with_reducible apply bpmAlloc_kept
    | with_reducible apply onBpm_kept
    | split
    | with_reducible refine Kept.snd (by with_reducible assumption) ?_)

theorem kvDropBuf_kept {K : Keystone → Keystone → Prop} {a s : State} (r : SvcReq) (h : Kept K a s) :
    Kept K a (kvDropBuf r s).2 := by
  unfold kvDropBuf
  try dsimp only
  repeat' (first
    | with_reducible assumption
    | with_reducible apply bpmReturn_kept
    | split)

theorem kvNextPiece_kept {K : Keystone → Keystone → Prop} {a s : State} (r : SvcReq) (v : KvStore) (slot : Nat) (o : Nat)
    (h : Kept K a s) :
    Kept K a (kvNextPiece r v slot o s).2 := by
  unfold kvNextPiece
  split
  · dsimp only
    split
    · next e => exact (e ▸ kvPage_kept _ _ _ _ h : Kept K a _)
    · next b s' e =>
      have hs : Kept K a s' := Kept.snd e (kvPage_kept _ _ _ _ h)
      refine ctxLocWr_kept _ _ _ _ ?_
      cases r.buf with
      | none => exact hs
      | some k => exact hbmWr_kept _ _ hs
  · exact h

theorem kvSendNext_kept {K : Keystone → Keystone → Prop} {a s : State} (r : SvcReq) (v : KvStore) (h : Kept K a s) :
    Kept K a (kvSendNext r v s) := by
  unfold kvSendNext
  try dsimp only
  repeat' (first
    | with_reducible assumption
    | with_reducible apply kvTakeBuf_kept
    | with_reducible apply putReq_kept
    | with_reducible apply kvNextPiece_kept
    | with_reducible apply failReq_kept
    | with_reducible apply svcPush_kept
    | split
    | with_reducible refine Kept.snd (by with_reducible assumption) ?_)

theorem kvSent_kept {K : Keystone → Keystone → Prop} {a s : State} (r : SvcReq) (v : KvStore) (h : Kept K a s) :
    Kept K a (kvSent r v s) := by
  unfold kvSent
  try dsimp only
  repeat' (first
    | with_reducible assumption
    | with_reducible apply endReq_kept
    | with_reducible apply failReq_kept
    | with_reducible apply kvDropBuf_kept
    | with_reducible apply putReq_kept
    | split)

theorem kvGetRun_kept {K : Keystone → Keystone → Prop} {a s : State} (r : SvcReq) (h : Kept K a s) :
    Kept K a (kvGetRun r s) := by
  unfold kvGetRun
  try dsimp only
  repeat' (first
    | with_reducible assumption
    | with_reducible apply kvBatch_kept
    | with_reducible apply failReq_kept
    | with_reducible apply kvSendNext_kept
    | with_reducible apply kvSent_kept
    | split)

theorem execKvGet_kept {K : Keystone → Keystone → Prop} {a s : State} (x : CtxNo) (w : SvcStep) (h : Kept K a s) :
    KeptOut K a (execKvGet x w s) := by
  unfold execKvGet
  try dsimp only
  repeat' (first
    | with_reducible assumption
    | with_reducible apply svcRow_kept
    | with_reducible apply kvGetRun_kept
    | intro _
    | with_reducible apply KeptOut.next)

theorem exec_kept {a s : State} (i : Instr) (h : Kept KsKeep a s) :
    KeptOut KsKeep a (exec i s) := by
  unfold exec
  try dsimp only
  repeat' (first
    | with_reducible exact ksKeep_moves
    | with_reducible exact ksKeep_moves.toKsWaits
    | with_reducible assumption
    | with_reducible apply execResetLAssert_kept
    | with_reducible apply execFullReset_kept
    | with_reducible apply execResetEnd_kept
    | with_reducible apply execViaductTraining_kept
    | with_reducible apply execBootRom_kept
    | with_reducible apply execHousekeepingStart_kept
    | with_reducible apply execSequencerStart_kept
    | with_reducible apply execRailInWindow_kept
    | with_reducible apply execPllLock_kept
    | with_reducible apply execSequencerFault_kept
    | with_reducible apply execPwrEnDeassert_kept
    | with_reducible apply execInputOutOfRange_kept
    | with_reducible apply execThermalTrip_kept
    | with_reducible apply execSeqLatchClear_kept
    | with_reducible apply execViaductFlit_kept
    | with_reducible apply execGulaneFrame_kept
    | with_reducible apply execRead_kept
    | with_reducible apply execWrite_kept
    | with_reducible apply execDoorbell_kept
    | with_reducible apply execRegisterWrite_kept
    | with_reducible apply execRcRead_kept
    | with_reducible apply execLatchedRead_kept
    | with_reducible apply execKsAcquire_kept
    | with_reducible apply execRenew_kept
    | with_reducible apply execRelease_kept
    | with_reducible apply execDeviceReset_kept
    | with_reducible apply execLeaseExpire_kept
    | with_reducible apply execHoldOffEnd_kept
    | with_reducible apply execDie1RecordUpdate_kept
    | with_reducible apply execShadowWrite_kept
    | with_reducible apply execCommit_kept
    | with_reducible apply execDiscard_kept
    | with_reducible apply execProtCheckEnd_kept
    | with_reducible apply execProtEpoch_kept
    | with_reducible apply execAuditPass_kept
    | with_reducible apply execImgLoad_kept
    | with_reducible apply execImgAbort_kept
    | with_reducible apply execImgDisarm_kept
    | with_reducible apply execValidationEnd_kept
    | with_reducible apply execCommitEnd_kept
    | with_reducible apply execFlip_kept
    | with_reducible apply execRetire_kept
    | with_reducible apply execPacketArrive_kept
    | with_reducible apply execResequencerRelease_kept
    | with_reducible apply execEgressStart_kept
    | with_reducible apply execAgeDrop_kept
    | with_reducible apply execSampleTick_kept
    | with_reducible apply execThrottleWindow_kept
    | with_reducible apply execCredit_kept
    | with_reducible apply execLinkPacketSend_kept
    | with_reducible apply execPut_kept
    | with_reducible apply execSendPacket_kept
    | with_reducible apply execGetReq_kept
    | with_reducible apply execGetRsp_kept
    | with_reducible apply execAck_kept
    | with_reducible apply execNack_kept
    | with_reducible apply execEvictNotice_kept
    | with_reducible apply execAckTimer_kept
    | with_reducible apply execRetransmitTimeout_kept
    | with_reducible apply execTrainingPhasePass_kept
    | with_reducible apply execLaneTrainTimeout_kept
    | with_reducible apply execAlignmentLost_kept
    | with_reducible apply execFecDegrade_kept
    | with_reducible apply execCwyCtrlOpen_kept
    | with_reducible apply execCwyMotionEnd_kept
    | with_reducible apply execDriveFault_kept
    | with_reducible apply execBpmMetaBaseWrite_kept
    | with_reducible apply execToRing_kept
    | with_reducible apply execToList_kept
    | with_reducible apply execBpmSwitchEnd_kept
    | with_reducible apply execBpmRequest_kept
    | with_reducible apply execBpmWaitingServed_kept
    | with_reducible apply execBpmReturn_kept
    | with_reducible apply execNanClear_kept
    | with_reducible apply execNative_kept
    | with_reducible apply execAnchored_kept
    | with_reducible apply execFast_kept
    | with_reducible apply execExponent_kept
    | with_reducible apply execScanOffset_kept
    | with_reducible apply execResult_kept
    | with_reducible apply execInPkt_kept
    | with_reducible apply execPart_kept
    | with_reducible apply execOutPkt_kept
    | with_reducible apply execEndPkt_kept
    | with_reducible apply execGatheredStage_kept
    | with_reducible apply execNop_kept
    | with_reducible apply execAdd_kept
    | with_reducible apply execMin_kept
    | with_reducible apply execMax_kept
    | with_reducible apply execMul_kept
    | with_reducible apply execAddi_kept
    | with_reducible apply execMuli_kept
    | with_reducible apply execMovi_kept
    | with_reducible apply execMovp_kept
    | with_reducible apply execGetid_kept
    | with_reducible apply execCmp_kept
    | with_reducible apply execCmpi_kept
    | with_reducible apply execPlog_kept
    | with_reducible apply execSel_kept
    | with_reducible apply execCvt_kept
    | with_reducible apply execGather_kept
    | with_reducible apply execScatter_kept
    | with_reducible apply execFetchadd_kept
    | with_reducible apply execHist_kept
    | with_reducible apply execCount_kept
    | with_reducible apply execPrev_kept
    | with_reducible apply execSort_kept
    | with_reducible apply execTopk_kept
    | with_reducible apply execFilter_kept
    | with_reducible apply execDrop_kept
    | with_reducible apply execTemit_kept
    | with_reducible apply execHpart_kept
    | with_reducible apply execEmit_kept
    | with_reducible apply execProgLoad_kept
    | with_reducible apply execProgClear_kept
    | with_reducible apply execProgLoadEnd_kept
    | with_reducible apply execColl_kept
    | with_reducible apply execCollWatchdog_kept
    | with_reducible apply execRseWatchdog_kept
    | with_reducible apply execBarrierArrive_kept
    | with_reducible apply execBarrierRelease_kept
    | with_reducible apply execBarrierReleaseAck_kept
    | with_reducible apply execBarrierResend_kept
    | with_reducible apply execBarrierFire_kept
    | with_reducible apply execPierCopyEnd_kept
    | with_reducible apply execRivetRetireApply_kept
    | with_reducible apply execTimestampTimer_kept
    | with_reducible apply execTimestampReq_kept
    | with_reducible apply execTimestampRsp_kept
    | with_reducible apply execPtpMessage_kept
    | with_reducible apply execHint_kept
    | with_reducible apply execWqEntry_kept
    | with_reducible apply execWqEntryComplete_kept
    | with_reducible apply execTaskStart_kept
    | with_reducible apply execTaskEnd_kept
    | with_reducible apply execQueuePush_kept
    | with_reducible apply execCommandDequeue_kept
    | with_reducible apply execCommandComplete_kept
    | with_reducible apply execSync_kept
    | with_reducible apply execMatmul_kept
    | with_reducible apply execMatmulSend_kept
    | with_reducible apply execConvert_kept
    | with_reducible apply execElemwise_kept
    | with_reducible apply execSoftmax_kept
    | with_reducible apply execNorm_kept
    | with_reducible apply execLreduce_kept
    | with_reducible apply execLoad_kept
    | with_reducible apply execLoadRowSelection_kept
    | with_reducible apply execLoadListin_kept
    | with_reducible apply execStore_kept
    | with_reducible apply execSend_kept
    | with_reducible apply execGet_kept
    | with_reducible apply execGetWatchdog_kept
    | with_reducible apply execSrOpen_kept
    | with_reducible apply execSrClose_kept
    | with_reducible apply execRecvOneshot_kept
    | with_reducible apply execRecvStanding_kept
    | with_reducible apply execRecvExpose_kept
    | with_reducible apply execRecvCancel_kept
    | with_reducible apply execMicroprogram_kept
    | with_reducible apply execSetx_kept
    | with_reducible apply execAddx_kept
    | with_reducible apply execLda_kept
    | with_reducible apply execLdb_kept
    | with_reducible apply execStc_kept
    | with_reducible apply execMac_kept
    | with_reducible apply execRdacc_kept
    | with_reducible apply execVop_kept
    | with_reducible apply execVpopa_kept
    | with_reducible apply execVpush_kept
    | with_reducible apply execVset_kept
    | with_reducible apply execZacc_kept
    | with_reducible apply execLoop_kept
    | with_reducible apply execUprogEnd_kept
    | with_reducible apply execResidentSwitchStart_kept
    | with_reducible apply execCtxSwitch_kept
    | with_reducible apply execPierFlagWrite_kept
    | with_reducible apply execTightrope_kept
    | with_reducible apply execBreakResume_kept
    | with_reducible apply execBreakStep_kept
    | with_reducible apply execTraceEnable_kept
    | with_reducible apply execTraceRecordWrite_kept
    | with_reducible apply execOptStep_kept
    | with_reducible apply execOptAccum_kept
    | with_reducible apply execKvOpen_kept
    | with_reducible apply execKvClose_kept
    | with_reducible apply execKvPut_kept
    | with_reducible apply execKvGet_kept
    | with_reducible apply execKvDrop_kept
    | with_reducible apply execKvPin_kept
    | with_reducible apply execDispatch_kept
    | with_reducible apply execCombine_kept
    | with_reducible apply execAgtSendState_kept
    | with_reducible apply execAgtDigest_kept
    | with_reducible apply execAgtQuiesce_kept
    | with_reducible apply execAgtResume_kept
    | with_reducible apply execAgtCancel_kept
    | with_reducible apply execSvcRequestComplete_kept
    | with_reducible apply execRefresh_kept
    | with_reducible apply execScrub_kept
    | with_reducible apply execRetrain_kept
    | with_reducible apply execRetrainEnd_kept
    | with_reducible apply execStackTempRead_kept
    | with_reducible apply execBwstepWindow_kept
    | with_reducible apply execRepair_kept
    | with_reducible apply execMemCancel_kept
    | with_reducible apply execRepairCopyEnd_kept
    | with_reducible apply execTgStart_kept
    | with_reducible apply execTgDone_kept
    | with_reducible apply execReferenceLost_kept
    | with_reducible apply execReferenceReturn_kept
    | with_reducible apply execRelockEnd_kept
    | with_reducible apply execRailSample_kept
    | with_reducible apply execControlPeriod_kept
    | with_reducible apply execRampEnd_kept
    | with_reducible apply execForceEnd_kept
    | with_reducible apply execDieTempSample_kept
    | with_reducible apply execClearCons_kept
    | with_reducible apply execSendHint_kept
    | with_reducible apply execHintHoldEnd_kept
    | with_reducible apply execTurnstilePeriod_kept
    | with_reducible apply execLoadFw_kept
    | with_reducible apply execFwCheckEnd_kept
    | with_reducible apply execEnroll_kept
    | with_reducible apply execEnrollEnd_kept
    | with_reducible apply execAttestationGo_kept
    | with_reducible apply execAttestationDone_kept
    | with_reducible apply execEnable_kept
    | with_reducible apply execDisable_kept
    | with_reducible apply execFuncStartEnd_kept
    | with_reducible apply execFuncDrainEnd_kept
    | with_reducible apply execLimitOverrun_kept
    | with_reducible apply execGulaneReenable_kept
    | with_reducible apply execStandby_kept
    | with_reducible apply execBeginLoad_kept
    | with_reducible apply execLoaded_kept
    | with_reducible apply execArm_kept
    | with_reducible apply execAbort_kept
    | with_reducible apply execSpareRelease_kept
    | with_reducible apply execSpareLoadWatchdog_kept
    | with_reducible apply execSentinelVector_kept
    | with_reducible apply execSentinelRetest_kept
    | with_reducible apply execRetireRequest_kept
    | with_reducible apply execKick_kept
    | with_reducible apply execFwWatchdog_kept
    | with_reducible apply execCtxResume_kept
    | with_reducible apply execMgmtId_kept
    | with_reducible apply execSeqFault_kept
    | with_reducible apply execSeqState_kept
    | with_reducible apply execVin_kept
    | with_reducible apply execIinA_kept
    | with_reducible apply execIinB_kept
    | with_reducible apply execDeviceId_kept
    | with_reducible apply execModuleSn_kept
    | with_reducible apply execBypass_kept
    | with_reducible apply execIdcode_kept
    | with_reducible apply execSamplePreload_kept
    | with_reducible apply execExtest_kept
    | with_reducible apply execHousekeepingSupplyOff_kept
    | with_reducible apply execResendAfterRto_kept
    | with_reducible apply execEgressPacketEnd_kept
    | split)

theorem coreCycle_kept {K : Keystone → Keystone → Prop} {a s : State} (h : Kept K a s) :
    Kept K a (coreCycle s) := by
  unfold coreCycle
  try dsimp only
  repeat' (first
    | with_reducible assumption
    | with_reducible apply tickCores_kept
    | with_reducible apply tickBuckets_kept
    | with_reducible apply tickCarousel_kept
    | with_reducible apply tickTime_kept
    | split)

end Sys2Proof.Machine
end

