-- ==== Sys2Proof/Laws/State.lean ====
section
/-! SUPPORT. One lemma for each field of the state and each update: what an update leaves, and what it sets. -/

namespace Sys2Proof.Machine
open Sys2Proof

variable (s : State)

@[simp] theorem wr_pending (a : Nat) (w : Word) : (wr a w s).pending = s.pending := rfl
@[simp] theorem wr_fuses (a : Nat) (w : Word) : (wr a w s).fuses = s.fuses := rfl
@[simp] theorem wr_otp (a : Nat) (w : Word) : (wr a w s).otp = s.otp := rfl
@[simp] theorem wr_pwr (a : Nat) (w : Word) : (wr a w s).pwr = s.pwr := rfl
@[simp] theorem wr_jtag (a : Nat) (w : Word) : (wr a w s).jtag = s.jtag := rfl
@[simp] theorem wr_hbm (a : Nat) (w : Word) : (wr a w s).hbm = s.hbm := rfl
@[simp] theorem wr_ks (a : Nat) (w : Word) : (wr a w s).ks = s.ks := rfl
@[simp] theorem wr_prot (a : Nat) (w : Word) : (wr a w s).prot = s.prot := rfl
@[simp] theorem wr_img (a : Nat) (w : Word) : (wr a w s).img = s.img := rfl
@[simp] theorem wr_armed (a : Nat) (w : Word) : (wr a w s).armed = s.armed := rfl
@[simp] theorem wr_sect (a : Nat) (w : Word) : (wr a w s).sect = s.sect := rfl
@[simp] theorem wr_pc (a : Nat) (w : Word) : (wr a w s).pc = s.pc := rfl
@[simp] theorem wr_tst (a : Nat) (w : Word) : (wr a w s).tst = s.tst := rfl
@[simp] theorem wr_fab (a : Nat) (w : Word) : (wr a w s).fab = s.fab := rfl
@[simp] theorem wr_net (a : Nat) (w : Word) : (wr a w s).net = s.net := rfl
@[simp] theorem wr_pr (a : Nat) (w : Word) : (wr a w s).pr = s.pr := rfl
@[simp] theorem wr_svc (a : Nat) (w : Word) : (wr a w s).svc = s.svc := rfl
@[simp] theorem wr_snt (a : Nat) (w : Word) : (wr a w s).snt = s.snt := rfl
@[simp] theorem wr_mem (a : Nat) (w : Word) : (wr a w s).mem = s.mem := rfl
@[simp] theorem wr_mg (a : Nat) (w : Word) : (wr a w s).mg = s.mg := rfl
@[simp] theorem wr_ft (a : Nat) (w : Word) : (wr a w s).ft = s.ft := rfl
@[simp] theorem wr_ftRem (a : Nat) (w : Word) : (wr a w s).ftRem = s.ftRem := rfl
@[simp] theorem wr_step (a : Nat) (w : Word) : (wr a w s).step = s.step := rfl
@[simp] theorem wr_corr (a : Nat) (w : Word) : (wr a w s).corr = s.corr := rfl
@[simp] theorem wr_fwDigest (a : Nat) (w : Word) : (wr a w s).fwDigest = s.fwDigest := rfl
@[simp] theorem wr_fwDead (a : Nat) (w : Word) : (wr a w s).fwDead = s.fwDead := rfl
@[simp] theorem wr_free (a : Nat) (w : Word) : (wr a w s).free = s.free := rfl
@[simp] theorem wr_resets (a : Nat) (w : Word) : (wr a w s).resets = s.resets := rfl
@[simp] theorem wr_trc (a : Nat) (w : Word) : (wr a w s).trc = s.trc := rfl
@[simp] theorem wr_out (a : Nat) (w : Word) : (wr a w s).out = s.out := rfl

@[simp] theorem wn_pending (a v : Nat) : (wn a v s).pending = s.pending := rfl
@[simp] theorem wn_fuses (a v : Nat) : (wn a v s).fuses = s.fuses := rfl
@[simp] theorem wn_otp (a v : Nat) : (wn a v s).otp = s.otp := rfl
@[simp] theorem wn_pwr (a v : Nat) : (wn a v s).pwr = s.pwr := rfl
@[simp] theorem wn_jtag (a v : Nat) : (wn a v s).jtag = s.jtag := rfl
@[simp] theorem wn_hbm (a v : Nat) : (wn a v s).hbm = s.hbm := rfl
@[simp] theorem wn_ks (a v : Nat) : (wn a v s).ks = s.ks := rfl
@[simp] theorem wn_prot (a v : Nat) : (wn a v s).prot = s.prot := rfl
@[simp] theorem wn_img (a v : Nat) : (wn a v s).img = s.img := rfl
@[simp] theorem wn_armed (a v : Nat) : (wn a v s).armed = s.armed := rfl
@[simp] theorem wn_sect (a v : Nat) : (wn a v s).sect = s.sect := rfl
@[simp] theorem wn_pc (a v : Nat) : (wn a v s).pc = s.pc := rfl
@[simp] theorem wn_tst (a v : Nat) : (wn a v s).tst = s.tst := rfl
@[simp] theorem wn_fab (a v : Nat) : (wn a v s).fab = s.fab := rfl
@[simp] theorem wn_net (a v : Nat) : (wn a v s).net = s.net := rfl
@[simp] theorem wn_pr (a v : Nat) : (wn a v s).pr = s.pr := rfl
@[simp] theorem wn_svc (a v : Nat) : (wn a v s).svc = s.svc := rfl
@[simp] theorem wn_snt (a v : Nat) : (wn a v s).snt = s.snt := rfl
@[simp] theorem wn_mem (a v : Nat) : (wn a v s).mem = s.mem := rfl
@[simp] theorem wn_mg (a v : Nat) : (wn a v s).mg = s.mg := rfl
@[simp] theorem wn_ft (a v : Nat) : (wn a v s).ft = s.ft := rfl
@[simp] theorem wn_ftRem (a v : Nat) : (wn a v s).ftRem = s.ftRem := rfl
@[simp] theorem wn_step (a v : Nat) : (wn a v s).step = s.step := rfl
@[simp] theorem wn_corr (a v : Nat) : (wn a v s).corr = s.corr := rfl
@[simp] theorem wn_fwDigest (a v : Nat) : (wn a v s).fwDigest = s.fwDigest := rfl
@[simp] theorem wn_fwDead (a v : Nat) : (wn a v s).fwDead = s.fwDead := rfl
@[simp] theorem wn_free (a v : Nat) : (wn a v s).free = s.free := rfl
@[simp] theorem wn_resets (a v : Nat) : (wn a v s).resets = s.resets := rfl
@[simp] theorem wn_trc (a v : Nat) : (wn a v s).trc = s.trc := rfl
@[simp] theorem wn_out (a v : Nat) : (wn a v s).out = s.out := rfl

@[simp] theorem wf_pending (a hi lo v : Nat) : (wf a hi lo v s).pending = s.pending := rfl
@[simp] theorem wf_fuses (a hi lo v : Nat) : (wf a hi lo v s).fuses = s.fuses := rfl
@[simp] theorem wf_otp (a hi lo v : Nat) : (wf a hi lo v s).otp = s.otp := rfl
@[simp] theorem wf_pwr (a hi lo v : Nat) : (wf a hi lo v s).pwr = s.pwr := rfl
@[simp] theorem wf_jtag (a hi lo v : Nat) : (wf a hi lo v s).jtag = s.jtag := rfl
@[simp] theorem wf_hbm (a hi lo v : Nat) : (wf a hi lo v s).hbm = s.hbm := rfl
@[simp] theorem wf_ks (a hi lo v : Nat) : (wf a hi lo v s).ks = s.ks := rfl
@[simp] theorem wf_prot (a hi lo v : Nat) : (wf a hi lo v s).prot = s.prot := rfl
@[simp] theorem wf_img (a hi lo v : Nat) : (wf a hi lo v s).img = s.img := rfl
@[simp] theorem wf_armed (a hi lo v : Nat) : (wf a hi lo v s).armed = s.armed := rfl
@[simp] theorem wf_sect (a hi lo v : Nat) : (wf a hi lo v s).sect = s.sect := rfl
@[simp] theorem wf_pc (a hi lo v : Nat) : (wf a hi lo v s).pc = s.pc := rfl
@[simp] theorem wf_tst (a hi lo v : Nat) : (wf a hi lo v s).tst = s.tst := rfl
@[simp] theorem wf_fab (a hi lo v : Nat) : (wf a hi lo v s).fab = s.fab := rfl
@[simp] theorem wf_net (a hi lo v : Nat) : (wf a hi lo v s).net = s.net := rfl
@[simp] theorem wf_pr (a hi lo v : Nat) : (wf a hi lo v s).pr = s.pr := rfl
@[simp] theorem wf_svc (a hi lo v : Nat) : (wf a hi lo v s).svc = s.svc := rfl
@[simp] theorem wf_snt (a hi lo v : Nat) : (wf a hi lo v s).snt = s.snt := rfl
@[simp] theorem wf_mem (a hi lo v : Nat) : (wf a hi lo v s).mem = s.mem := rfl
@[simp] theorem wf_mg (a hi lo v : Nat) : (wf a hi lo v s).mg = s.mg := rfl
@[simp] theorem wf_ft (a hi lo v : Nat) : (wf a hi lo v s).ft = s.ft := rfl
@[simp] theorem wf_ftRem (a hi lo v : Nat) : (wf a hi lo v s).ftRem = s.ftRem := rfl
@[simp] theorem wf_step (a hi lo v : Nat) : (wf a hi lo v s).step = s.step := rfl
@[simp] theorem wf_corr (a hi lo v : Nat) : (wf a hi lo v s).corr = s.corr := rfl
@[simp] theorem wf_fwDigest (a hi lo v : Nat) : (wf a hi lo v s).fwDigest = s.fwDigest := rfl
@[simp] theorem wf_fwDead (a hi lo v : Nat) : (wf a hi lo v s).fwDead = s.fwDead := rfl
@[simp] theorem wf_free (a hi lo v : Nat) : (wf a hi lo v s).free = s.free := rfl
@[simp] theorem wf_resets (a hi lo v : Nat) : (wf a hi lo v s).resets = s.resets := rfl
@[simp] theorem wf_trc (a hi lo v : Nat) : (wf a hi lo v s).trc = s.trc := rfl
@[simp] theorem wf_out (a hi lo v : Nat) : (wf a hi lo v s).out = s.out := rfl

@[simp] theorem wn64_pending (a v : Nat) : (wn64 a v s).pending = s.pending := rfl
@[simp] theorem wn64_fuses (a v : Nat) : (wn64 a v s).fuses = s.fuses := rfl
@[simp] theorem wn64_otp (a v : Nat) : (wn64 a v s).otp = s.otp := rfl
@[simp] theorem wn64_pwr (a v : Nat) : (wn64 a v s).pwr = s.pwr := rfl
@[simp] theorem wn64_jtag (a v : Nat) : (wn64 a v s).jtag = s.jtag := rfl
@[simp] theorem wn64_hbm (a v : Nat) : (wn64 a v s).hbm = s.hbm := rfl
@[simp] theorem wn64_ks (a v : Nat) : (wn64 a v s).ks = s.ks := rfl
@[simp] theorem wn64_prot (a v : Nat) : (wn64 a v s).prot = s.prot := rfl
@[simp] theorem wn64_img (a v : Nat) : (wn64 a v s).img = s.img := rfl
@[simp] theorem wn64_armed (a v : Nat) : (wn64 a v s).armed = s.armed := rfl
@[simp] theorem wn64_sect (a v : Nat) : (wn64 a v s).sect = s.sect := rfl
@[simp] theorem wn64_pc (a v : Nat) : (wn64 a v s).pc = s.pc := rfl
@[simp] theorem wn64_tst (a v : Nat) : (wn64 a v s).tst = s.tst := rfl
@[simp] theorem wn64_fab (a v : Nat) : (wn64 a v s).fab = s.fab := rfl
@[simp] theorem wn64_net (a v : Nat) : (wn64 a v s).net = s.net := rfl
@[simp] theorem wn64_pr (a v : Nat) : (wn64 a v s).pr = s.pr := rfl
@[simp] theorem wn64_svc (a v : Nat) : (wn64 a v s).svc = s.svc := rfl
@[simp] theorem wn64_snt (a v : Nat) : (wn64 a v s).snt = s.snt := rfl
@[simp] theorem wn64_mem (a v : Nat) : (wn64 a v s).mem = s.mem := rfl
@[simp] theorem wn64_mg (a v : Nat) : (wn64 a v s).mg = s.mg := rfl
@[simp] theorem wn64_ft (a v : Nat) : (wn64 a v s).ft = s.ft := rfl
@[simp] theorem wn64_ftRem (a v : Nat) : (wn64 a v s).ftRem = s.ftRem := rfl
@[simp] theorem wn64_step (a v : Nat) : (wn64 a v s).step = s.step := rfl
@[simp] theorem wn64_corr (a v : Nat) : (wn64 a v s).corr = s.corr := rfl
@[simp] theorem wn64_fwDigest (a v : Nat) : (wn64 a v s).fwDigest = s.fwDigest := rfl
@[simp] theorem wn64_fwDead (a v : Nat) : (wn64 a v s).fwDead = s.fwDead := rfl
@[simp] theorem wn64_free (a v : Nat) : (wn64 a v s).free = s.free := rfl
@[simp] theorem wn64_resets (a v : Nat) : (wn64 a v s).resets = s.resets := rfl
@[simp] theorem wn64_trc (a v : Nat) : (wn64 a v s).trc = s.trc := rfl
@[simp] theorem wn64_out (a v : Nat) : (wn64 a v s).out = s.out := rfl

@[simp] theorem bump_pending (a n : Nat) : (bump a n s).pending = s.pending := rfl
@[simp] theorem bump_fuses (a n : Nat) : (bump a n s).fuses = s.fuses := rfl
@[simp] theorem bump_otp (a n : Nat) : (bump a n s).otp = s.otp := rfl
@[simp] theorem bump_pwr (a n : Nat) : (bump a n s).pwr = s.pwr := rfl
@[simp] theorem bump_jtag (a n : Nat) : (bump a n s).jtag = s.jtag := rfl
@[simp] theorem bump_hbm (a n : Nat) : (bump a n s).hbm = s.hbm := rfl
@[simp] theorem bump_ks (a n : Nat) : (bump a n s).ks = s.ks := rfl
@[simp] theorem bump_prot (a n : Nat) : (bump a n s).prot = s.prot := rfl
@[simp] theorem bump_img (a n : Nat) : (bump a n s).img = s.img := rfl
@[simp] theorem bump_armed (a n : Nat) : (bump a n s).armed = s.armed := rfl
@[simp] theorem bump_sect (a n : Nat) : (bump a n s).sect = s.sect := rfl
@[simp] theorem bump_pc (a n : Nat) : (bump a n s).pc = s.pc := rfl
@[simp] theorem bump_tst (a n : Nat) : (bump a n s).tst = s.tst := rfl
@[simp] theorem bump_fab (a n : Nat) : (bump a n s).fab = s.fab := rfl
@[simp] theorem bump_net (a n : Nat) : (bump a n s).net = s.net := rfl
@[simp] theorem bump_pr (a n : Nat) : (bump a n s).pr = s.pr := rfl
@[simp] theorem bump_svc (a n : Nat) : (bump a n s).svc = s.svc := rfl
@[simp] theorem bump_snt (a n : Nat) : (bump a n s).snt = s.snt := rfl
@[simp] theorem bump_mem (a n : Nat) : (bump a n s).mem = s.mem := rfl
@[simp] theorem bump_mg (a n : Nat) : (bump a n s).mg = s.mg := rfl
@[simp] theorem bump_ft (a n : Nat) : (bump a n s).ft = s.ft := rfl
@[simp] theorem bump_ftRem (a n : Nat) : (bump a n s).ftRem = s.ftRem := rfl
@[simp] theorem bump_step (a n : Nat) : (bump a n s).step = s.step := rfl
@[simp] theorem bump_corr (a n : Nat) : (bump a n s).corr = s.corr := rfl
@[simp] theorem bump_fwDigest (a n : Nat) : (bump a n s).fwDigest = s.fwDigest := rfl
@[simp] theorem bump_fwDead (a n : Nat) : (bump a n s).fwDead = s.fwDead := rfl
@[simp] theorem bump_free (a n : Nat) : (bump a n s).free = s.free := rfl
@[simp] theorem bump_resets (a n : Nat) : (bump a n s).resets = s.resets := rfl
@[simp] theorem bump_trc (a n : Nat) : (bump a n s).trc = s.trc := rfl
@[simp] theorem bump_out (a n : Nat) : (bump a n s).out = s.out := rfl

@[simp] theorem putCfg_pending (a : Nat) (b : List Byte) : (putCfg a b s).pending = s.pending := rfl
@[simp] theorem putCfg_fuses (a : Nat) (b : List Byte) : (putCfg a b s).fuses = s.fuses := rfl
@[simp] theorem putCfg_otp (a : Nat) (b : List Byte) : (putCfg a b s).otp = s.otp := rfl
@[simp] theorem putCfg_pwr (a : Nat) (b : List Byte) : (putCfg a b s).pwr = s.pwr := rfl
@[simp] theorem putCfg_jtag (a : Nat) (b : List Byte) : (putCfg a b s).jtag = s.jtag := rfl
@[simp] theorem putCfg_hbm (a : Nat) (b : List Byte) : (putCfg a b s).hbm = s.hbm := rfl
@[simp] theorem putCfg_ks (a : Nat) (b : List Byte) : (putCfg a b s).ks = s.ks := rfl
@[simp] theorem putCfg_prot (a : Nat) (b : List Byte) : (putCfg a b s).prot = s.prot := rfl
@[simp] theorem putCfg_img (a : Nat) (b : List Byte) : (putCfg a b s).img = s.img := rfl
@[simp] theorem putCfg_armed (a : Nat) (b : List Byte) : (putCfg a b s).armed = s.armed := rfl
@[simp] theorem putCfg_sect (a : Nat) (b : List Byte) : (putCfg a b s).sect = s.sect := rfl
@[simp] theorem putCfg_pc (a : Nat) (b : List Byte) : (putCfg a b s).pc = s.pc := rfl
@[simp] theorem putCfg_tst (a : Nat) (b : List Byte) : (putCfg a b s).tst = s.tst := rfl
@[simp] theorem putCfg_fab (a : Nat) (b : List Byte) : (putCfg a b s).fab = s.fab := rfl
@[simp] theorem putCfg_net (a : Nat) (b : List Byte) : (putCfg a b s).net = s.net := rfl
@[simp] theorem putCfg_pr (a : Nat) (b : List Byte) : (putCfg a b s).pr = s.pr := rfl
@[simp] theorem putCfg_svc (a : Nat) (b : List Byte) : (putCfg a b s).svc = s.svc := rfl
@[simp] theorem putCfg_snt (a : Nat) (b : List Byte) : (putCfg a b s).snt = s.snt := rfl
@[simp] theorem putCfg_mem (a : Nat) (b : List Byte) : (putCfg a b s).mem = s.mem := rfl
@[simp] theorem putCfg_mg (a : Nat) (b : List Byte) : (putCfg a b s).mg = s.mg := rfl
@[simp] theorem putCfg_ft (a : Nat) (b : List Byte) : (putCfg a b s).ft = s.ft := rfl
@[simp] theorem putCfg_ftRem (a : Nat) (b : List Byte) : (putCfg a b s).ftRem = s.ftRem := rfl
@[simp] theorem putCfg_step (a : Nat) (b : List Byte) : (putCfg a b s).step = s.step := rfl
@[simp] theorem putCfg_corr (a : Nat) (b : List Byte) : (putCfg a b s).corr = s.corr := rfl
@[simp] theorem putCfg_fwDigest (a : Nat) (b : List Byte) : (putCfg a b s).fwDigest = s.fwDigest := rfl
@[simp] theorem putCfg_fwDead (a : Nat) (b : List Byte) : (putCfg a b s).fwDead = s.fwDead := rfl
@[simp] theorem putCfg_free (a : Nat) (b : List Byte) : (putCfg a b s).free = s.free := rfl
@[simp] theorem putCfg_resets (a : Nat) (b : List Byte) : (putCfg a b s).resets = s.resets := rfl
@[simp] theorem putCfg_trc (a : Nat) (b : List Byte) : (putCfg a b s).trc = s.trc := rfl
@[simp] theorem putCfg_out (a : Nat) (b : List Byte) : (putCfg a b s).out = s.out := rfl

@[simp] theorem hbmWr_pending (a : Nat) (b : List Byte) : (hbmWr a b s).pending = s.pending := rfl
@[simp] theorem hbmWr_fuses (a : Nat) (b : List Byte) : (hbmWr a b s).fuses = s.fuses := rfl
@[simp] theorem hbmWr_otp (a : Nat) (b : List Byte) : (hbmWr a b s).otp = s.otp := rfl
@[simp] theorem hbmWr_pwr (a : Nat) (b : List Byte) : (hbmWr a b s).pwr = s.pwr := rfl
@[simp] theorem hbmWr_jtag (a : Nat) (b : List Byte) : (hbmWr a b s).jtag = s.jtag := rfl
@[simp] theorem hbmWr_regs (a : Nat) (b : List Byte) : (hbmWr a b s).regs = s.regs := rfl
@[simp] theorem hbmWr_ks (a : Nat) (b : List Byte) : (hbmWr a b s).ks = s.ks := rfl
@[simp] theorem hbmWr_prot (a : Nat) (b : List Byte) : (hbmWr a b s).prot = s.prot := rfl
@[simp] theorem hbmWr_img (a : Nat) (b : List Byte) : (hbmWr a b s).img = s.img := rfl
@[simp] theorem hbmWr_armed (a : Nat) (b : List Byte) : (hbmWr a b s).armed = s.armed := rfl
@[simp] theorem hbmWr_sect (a : Nat) (b : List Byte) : (hbmWr a b s).sect = s.sect := rfl
@[simp] theorem hbmWr_pc (a : Nat) (b : List Byte) : (hbmWr a b s).pc = s.pc := rfl
@[simp] theorem hbmWr_tst (a : Nat) (b : List Byte) : (hbmWr a b s).tst = s.tst := rfl
@[simp] theorem hbmWr_fab (a : Nat) (b : List Byte) : (hbmWr a b s).fab = s.fab := rfl
@[simp] theorem hbmWr_net (a : Nat) (b : List Byte) : (hbmWr a b s).net = s.net := rfl
@[simp] theorem hbmWr_pr (a : Nat) (b : List Byte) : (hbmWr a b s).pr = s.pr := rfl
@[simp] theorem hbmWr_svc (a : Nat) (b : List Byte) : (hbmWr a b s).svc = s.svc := rfl
@[simp] theorem hbmWr_snt (a : Nat) (b : List Byte) : (hbmWr a b s).snt = s.snt := rfl
@[simp] theorem hbmWr_mg (a : Nat) (b : List Byte) : (hbmWr a b s).mg = s.mg := rfl
@[simp] theorem hbmWr_ft (a : Nat) (b : List Byte) : (hbmWr a b s).ft = s.ft := rfl
@[simp] theorem hbmWr_ftRem (a : Nat) (b : List Byte) : (hbmWr a b s).ftRem = s.ftRem := rfl
@[simp] theorem hbmWr_step (a : Nat) (b : List Byte) : (hbmWr a b s).step = s.step := rfl
@[simp] theorem hbmWr_corr (a : Nat) (b : List Byte) : (hbmWr a b s).corr = s.corr := rfl
@[simp] theorem hbmWr_fwDigest (a : Nat) (b : List Byte) : (hbmWr a b s).fwDigest = s.fwDigest := rfl
@[simp] theorem hbmWr_fwDead (a : Nat) (b : List Byte) : (hbmWr a b s).fwDead = s.fwDead := rfl
@[simp] theorem hbmWr_free (a : Nat) (b : List Byte) : (hbmWr a b s).free = s.free := rfl
@[simp] theorem hbmWr_resets (a : Nat) (b : List Byte) : (hbmWr a b s).resets = s.resets := rfl
@[simp] theorem hbmWr_trc (a : Nat) (b : List Byte) : (hbmWr a b s).trc = s.trc := rfl
@[simp] theorem hbmWr_out (a : Nat) (b : List Byte) : (hbmWr a b s).out = s.out := rfl

@[simp] theorem tookFree_pending : (tookFree s).pending = s.pending := rfl
@[simp] theorem tookFree_fuses : (tookFree s).fuses = s.fuses := rfl
@[simp] theorem tookFree_otp : (tookFree s).otp = s.otp := rfl
@[simp] theorem tookFree_pwr : (tookFree s).pwr = s.pwr := rfl
@[simp] theorem tookFree_jtag : (tookFree s).jtag = s.jtag := rfl
@[simp] theorem tookFree_regs : (tookFree s).regs = s.regs := rfl
@[simp] theorem tookFree_hbm : (tookFree s).hbm = s.hbm := rfl
@[simp] theorem tookFree_ks : (tookFree s).ks = s.ks := rfl
@[simp] theorem tookFree_prot : (tookFree s).prot = s.prot := rfl
@[simp] theorem tookFree_img : (tookFree s).img = s.img := rfl
@[simp] theorem tookFree_armed : (tookFree s).armed = s.armed := rfl
@[simp] theorem tookFree_sect : (tookFree s).sect = s.sect := rfl
@[simp] theorem tookFree_pc : (tookFree s).pc = s.pc := rfl
@[simp] theorem tookFree_tst : (tookFree s).tst = s.tst := rfl
@[simp] theorem tookFree_fab : (tookFree s).fab = s.fab := rfl
@[simp] theorem tookFree_net : (tookFree s).net = s.net := rfl
@[simp] theorem tookFree_pr : (tookFree s).pr = s.pr := rfl
@[simp] theorem tookFree_svc : (tookFree s).svc = s.svc := rfl
@[simp] theorem tookFree_snt : (tookFree s).snt = s.snt := rfl
@[simp] theorem tookFree_mem : (tookFree s).mem = s.mem := rfl
@[simp] theorem tookFree_mg : (tookFree s).mg = s.mg := rfl
@[simp] theorem tookFree_ft : (tookFree s).ft = s.ft := rfl
@[simp] theorem tookFree_ftRem : (tookFree s).ftRem = s.ftRem := rfl
@[simp] theorem tookFree_step : (tookFree s).step = s.step := rfl
@[simp] theorem tookFree_corr : (tookFree s).corr = s.corr := rfl
@[simp] theorem tookFree_fwDigest : (tookFree s).fwDigest = s.fwDigest := rfl
@[simp] theorem tookFree_fwDead : (tookFree s).fwDead = s.fwDead := rfl
@[simp] theorem tookFree_resets : (tookFree s).resets = s.resets := rfl
@[simp] theorem tookFree_trc : (tookFree s).trc = s.trc := rfl
@[simp] theorem tookFree_out : (tookFree s).out = s.out := rfl

@[simp] theorem emit_pending (o : Out) : (emit o s).pending = s.pending := rfl
@[simp] theorem emit_fuses (o : Out) : (emit o s).fuses = s.fuses := rfl
@[simp] theorem emit_otp (o : Out) : (emit o s).otp = s.otp := rfl
@[simp] theorem emit_pwr (o : Out) : (emit o s).pwr = s.pwr := rfl
@[simp] theorem emit_jtag (o : Out) : (emit o s).jtag = s.jtag := rfl
@[simp] theorem emit_regs (o : Out) : (emit o s).regs = s.regs := rfl
@[simp] theorem emit_hbm (o : Out) : (emit o s).hbm = s.hbm := rfl
@[simp] theorem emit_ks (o : Out) : (emit o s).ks = s.ks := rfl
@[simp] theorem emit_prot (o : Out) : (emit o s).prot = s.prot := rfl
@[simp] theorem emit_img (o : Out) : (emit o s).img = s.img := rfl
@[simp] theorem emit_armed (o : Out) : (emit o s).armed = s.armed := rfl
@[simp] theorem emit_sect (o : Out) : (emit o s).sect = s.sect := rfl
@[simp] theorem emit_pc (o : Out) : (emit o s).pc = s.pc := rfl
@[simp] theorem emit_tst (o : Out) : (emit o s).tst = s.tst := rfl
@[simp] theorem emit_fab (o : Out) : (emit o s).fab = s.fab := rfl
@[simp] theorem emit_net (o : Out) : (emit o s).net = s.net := rfl
@[simp] theorem emit_pr (o : Out) : (emit o s).pr = s.pr := rfl
@[simp] theorem emit_svc (o : Out) : (emit o s).svc = s.svc := rfl
@[simp] theorem emit_snt (o : Out) : (emit o s).snt = s.snt := rfl
@[simp] theorem emit_mem (o : Out) : (emit o s).mem = s.mem := rfl
@[simp] theorem emit_mg (o : Out) : (emit o s).mg = s.mg := rfl
@[simp] theorem emit_ft (o : Out) : (emit o s).ft = s.ft := rfl
@[simp] theorem emit_ftRem (o : Out) : (emit o s).ftRem = s.ftRem := rfl
@[simp] theorem emit_step (o : Out) : (emit o s).step = s.step := rfl
@[simp] theorem emit_corr (o : Out) : (emit o s).corr = s.corr := rfl
@[simp] theorem emit_fwDigest (o : Out) : (emit o s).fwDigest = s.fwDigest := rfl
@[simp] theorem emit_fwDead (o : Out) : (emit o s).fwDead = s.fwDead := rfl
@[simp] theorem emit_free (o : Out) : (emit o s).free = s.free := rfl
@[simp] theorem emit_resets (o : Out) : (emit o s).resets = s.resets := rfl
@[simp] theorem emit_trc (o : Out) : (emit o s).trc = s.trc := rfl

@[simp] theorem onFab_pending (f : Fab → Fab) : (onFab f s).pending = s.pending := rfl
@[simp] theorem onFab_fuses (f : Fab → Fab) : (onFab f s).fuses = s.fuses := rfl
@[simp] theorem onFab_otp (f : Fab → Fab) : (onFab f s).otp = s.otp := rfl
@[simp] theorem onFab_pwr (f : Fab → Fab) : (onFab f s).pwr = s.pwr := rfl
@[simp] theorem onFab_jtag (f : Fab → Fab) : (onFab f s).jtag = s.jtag := rfl
@[simp] theorem onFab_regs (f : Fab → Fab) : (onFab f s).regs = s.regs := rfl
@[simp] theorem onFab_hbm (f : Fab → Fab) : (onFab f s).hbm = s.hbm := rfl
@[simp] theorem onFab_ks (f : Fab → Fab) : (onFab f s).ks = s.ks := rfl
@[simp] theorem onFab_prot (f : Fab → Fab) : (onFab f s).prot = s.prot := rfl
@[simp] theorem onFab_img (f : Fab → Fab) : (onFab f s).img = s.img := rfl
@[simp] theorem onFab_armed (f : Fab → Fab) : (onFab f s).armed = s.armed := rfl
@[simp] theorem onFab_sect (f : Fab → Fab) : (onFab f s).sect = s.sect := rfl
@[simp] theorem onFab_pc (f : Fab → Fab) : (onFab f s).pc = s.pc := rfl
@[simp] theorem onFab_tst (f : Fab → Fab) : (onFab f s).tst = s.tst := rfl
@[simp] theorem onFab_net (f : Fab → Fab) : (onFab f s).net = s.net := rfl
@[simp] theorem onFab_pr (f : Fab → Fab) : (onFab f s).pr = s.pr := rfl
@[simp] theorem onFab_svc (f : Fab → Fab) : (onFab f s).svc = s.svc := rfl
@[simp] theorem onFab_snt (f : Fab → Fab) : (onFab f s).snt = s.snt := rfl
@[simp] theorem onFab_mem (f : Fab → Fab) : (onFab f s).mem = s.mem := rfl
@[simp] theorem onFab_mg (f : Fab → Fab) : (onFab f s).mg = s.mg := rfl
@[simp] theorem onFab_ft (f : Fab → Fab) : (onFab f s).ft = s.ft := rfl
@[simp] theorem onFab_ftRem (f : Fab → Fab) : (onFab f s).ftRem = s.ftRem := rfl
@[simp] theorem onFab_step (f : Fab → Fab) : (onFab f s).step = s.step := rfl
@[simp] theorem onFab_corr (f : Fab → Fab) : (onFab f s).corr = s.corr := rfl
@[simp] theorem onFab_fwDigest (f : Fab → Fab) : (onFab f s).fwDigest = s.fwDigest := rfl
@[simp] theorem onFab_fwDead (f : Fab → Fab) : (onFab f s).fwDead = s.fwDead := rfl
@[simp] theorem onFab_free (f : Fab → Fab) : (onFab f s).free = s.free := rfl
@[simp] theorem onFab_resets (f : Fab → Fab) : (onFab f s).resets = s.resets := rfl
@[simp] theorem onFab_trc (f : Fab → Fab) : (onFab f s).trc = s.trc := rfl
@[simp] theorem onFab_out (f : Fab → Fab) : (onFab f s).out = s.out := rfl
@[simp] theorem onFab_fab (f : Fab → Fab) : (onFab f s).fab = f s.fab := rfl

@[simp] theorem onNet_pending (f : Net → Net) : (onNet f s).pending = s.pending := rfl
@[simp] theorem onNet_fuses (f : Net → Net) : (onNet f s).fuses = s.fuses := rfl
@[simp] theorem onNet_otp (f : Net → Net) : (onNet f s).otp = s.otp := rfl
@[simp] theorem onNet_pwr (f : Net → Net) : (onNet f s).pwr = s.pwr := rfl
@[simp] theorem onNet_jtag (f : Net → Net) : (onNet f s).jtag = s.jtag := rfl
@[simp] theorem onNet_regs (f : Net → Net) : (onNet f s).regs = s.regs := rfl
@[simp] theorem onNet_hbm (f : Net → Net) : (onNet f s).hbm = s.hbm := rfl
@[simp] theorem onNet_ks (f : Net → Net) : (onNet f s).ks = s.ks := rfl
@[simp] theorem onNet_prot (f : Net → Net) : (onNet f s).prot = s.prot := rfl
@[simp] theorem onNet_img (f : Net → Net) : (onNet f s).img = s.img := rfl
@[simp] theorem onNet_armed (f : Net → Net) : (onNet f s).armed = s.armed := rfl
@[simp] theorem onNet_sect (f : Net → Net) : (onNet f s).sect = s.sect := rfl
@[simp] theorem onNet_pc (f : Net → Net) : (onNet f s).pc = s.pc := rfl
@[simp] theorem onNet_tst (f : Net → Net) : (onNet f s).tst = s.tst := rfl
@[simp] theorem onNet_fab (f : Net → Net) : (onNet f s).fab = s.fab := rfl
@[simp] theorem onNet_pr (f : Net → Net) : (onNet f s).pr = s.pr := rfl
@[simp] theorem onNet_svc (f : Net → Net) : (onNet f s).svc = s.svc := rfl
@[simp] theorem onNet_snt (f : Net → Net) : (onNet f s).snt = s.snt := rfl
@[simp] theorem onNet_mem (f : Net → Net) : (onNet f s).mem = s.mem := rfl
@[simp] theorem onNet_mg (f : Net → Net) : (onNet f s).mg = s.mg := rfl
@[simp] theorem onNet_ft (f : Net → Net) : (onNet f s).ft = s.ft := rfl
@[simp] theorem onNet_ftRem (f : Net → Net) : (onNet f s).ftRem = s.ftRem := rfl
@[simp] theorem onNet_step (f : Net → Net) : (onNet f s).step = s.step := rfl
@[simp] theorem onNet_corr (f : Net → Net) : (onNet f s).corr = s.corr := rfl
@[simp] theorem onNet_fwDigest (f : Net → Net) : (onNet f s).fwDigest = s.fwDigest := rfl
@[simp] theorem onNet_fwDead (f : Net → Net) : (onNet f s).fwDead = s.fwDead := rfl
@[simp] theorem onNet_free (f : Net → Net) : (onNet f s).free = s.free := rfl
@[simp] theorem onNet_resets (f : Net → Net) : (onNet f s).resets = s.resets := rfl
@[simp] theorem onNet_trc (f : Net → Net) : (onNet f s).trc = s.trc := rfl
@[simp] theorem onNet_out (f : Net → Net) : (onNet f s).out = s.out := rfl
@[simp] theorem onNet_net (f : Net → Net) : (onNet f s).net = f s.net := rfl

@[simp] theorem onMg_pending (f : Mgmt → Mgmt) : (onMg f s).pending = s.pending := rfl
@[simp] theorem onMg_fuses (f : Mgmt → Mgmt) : (onMg f s).fuses = s.fuses := rfl
@[simp] theorem onMg_otp (f : Mgmt → Mgmt) : (onMg f s).otp = s.otp := rfl
@[simp] theorem onMg_pwr (f : Mgmt → Mgmt) : (onMg f s).pwr = s.pwr := rfl
@[simp] theorem onMg_jtag (f : Mgmt → Mgmt) : (onMg f s).jtag = s.jtag := rfl
@[simp] theorem onMg_regs (f : Mgmt → Mgmt) : (onMg f s).regs = s.regs := rfl
@[simp] theorem onMg_hbm (f : Mgmt → Mgmt) : (onMg f s).hbm = s.hbm := rfl
@[simp] theorem onMg_ks (f : Mgmt → Mgmt) : (onMg f s).ks = s.ks := rfl
@[simp] theorem onMg_prot (f : Mgmt → Mgmt) : (onMg f s).prot = s.prot := rfl
@[simp] theorem onMg_img (f : Mgmt → Mgmt) : (onMg f s).img = s.img := rfl
@[simp] theorem onMg_armed (f : Mgmt → Mgmt) : (onMg f s).armed = s.armed := rfl
@[simp] theorem onMg_sect (f : Mgmt → Mgmt) : (onMg f s).sect = s.sect := rfl
@[simp] theorem onMg_pc (f : Mgmt → Mgmt) : (onMg f s).pc = s.pc := rfl
@[simp] theorem onMg_tst (f : Mgmt → Mgmt) : (onMg f s).tst = s.tst := rfl
@[simp] theorem onMg_fab (f : Mgmt → Mgmt) : (onMg f s).fab = s.fab := rfl
@[simp] theorem onMg_net (f : Mgmt → Mgmt) : (onMg f s).net = s.net := rfl
@[simp] theorem onMg_pr (f : Mgmt → Mgmt) : (onMg f s).pr = s.pr := rfl
@[simp] theorem onMg_svc (f : Mgmt → Mgmt) : (onMg f s).svc = s.svc := rfl
@[simp] theorem onMg_snt (f : Mgmt → Mgmt) : (onMg f s).snt = s.snt := rfl
@[simp] theorem onMg_mem (f : Mgmt → Mgmt) : (onMg f s).mem = s.mem := rfl
@[simp] theorem onMg_ft (f : Mgmt → Mgmt) : (onMg f s).ft = s.ft := rfl
@[simp] theorem onMg_ftRem (f : Mgmt → Mgmt) : (onMg f s).ftRem = s.ftRem := rfl
@[simp] theorem onMg_step (f : Mgmt → Mgmt) : (onMg f s).step = s.step := rfl
@[simp] theorem onMg_corr (f : Mgmt → Mgmt) : (onMg f s).corr = s.corr := rfl
@[simp] theorem onMg_fwDigest (f : Mgmt → Mgmt) : (onMg f s).fwDigest = s.fwDigest := rfl
@[simp] theorem onMg_fwDead (f : Mgmt → Mgmt) : (onMg f s).fwDead = s.fwDead := rfl
@[simp] theorem onMg_free (f : Mgmt → Mgmt) : (onMg f s).free = s.free := rfl
@[simp] theorem onMg_resets (f : Mgmt → Mgmt) : (onMg f s).resets = s.resets := rfl
@[simp] theorem onMg_trc (f : Mgmt → Mgmt) : (onMg f s).trc = s.trc := rfl
@[simp] theorem onMg_out (f : Mgmt → Mgmt) : (onMg f s).out = s.out := rfl
@[simp] theorem onMg_mg (f : Mgmt → Mgmt) : (onMg f s).mg = f s.mg := rfl

@[simp] theorem onSvc_pending (f : Services → Services) : (onSvc f s).pending = s.pending := rfl
@[simp] theorem onSvc_fuses (f : Services → Services) : (onSvc f s).fuses = s.fuses := rfl
@[simp] theorem onSvc_otp (f : Services → Services) : (onSvc f s).otp = s.otp := rfl
@[simp] theorem onSvc_pwr (f : Services → Services) : (onSvc f s).pwr = s.pwr := rfl
@[simp] theorem onSvc_jtag (f : Services → Services) : (onSvc f s).jtag = s.jtag := rfl
@[simp] theorem onSvc_regs (f : Services → Services) : (onSvc f s).regs = s.regs := rfl
@[simp] theorem onSvc_hbm (f : Services → Services) : (onSvc f s).hbm = s.hbm := rfl
@[simp] theorem onSvc_ks (f : Services → Services) : (onSvc f s).ks = s.ks := rfl
@[simp] theorem onSvc_prot (f : Services → Services) : (onSvc f s).prot = s.prot := rfl
@[simp] theorem onSvc_img (f : Services → Services) : (onSvc f s).img = s.img := rfl
@[simp] theorem onSvc_armed (f : Services → Services) : (onSvc f s).armed = s.armed := rfl
@[simp] theorem onSvc_sect (f : Services → Services) : (onSvc f s).sect = s.sect := rfl
@[simp] theorem onSvc_pc (f : Services → Services) : (onSvc f s).pc = s.pc := rfl
@[simp] theorem onSvc_tst (f : Services → Services) : (onSvc f s).tst = s.tst := rfl
@[simp] theorem onSvc_fab (f : Services → Services) : (onSvc f s).fab = s.fab := rfl
@[simp] theorem onSvc_net (f : Services → Services) : (onSvc f s).net = s.net := rfl
@[simp] theorem onSvc_pr (f : Services → Services) : (onSvc f s).pr = s.pr := rfl
@[simp] theorem onSvc_snt (f : Services → Services) : (onSvc f s).snt = s.snt := rfl
@[simp] theorem onSvc_mem (f : Services → Services) : (onSvc f s).mem = s.mem := rfl
@[simp] theorem onSvc_mg (f : Services → Services) : (onSvc f s).mg = s.mg := rfl
@[simp] theorem onSvc_ft (f : Services → Services) : (onSvc f s).ft = s.ft := rfl
@[simp] theorem onSvc_ftRem (f : Services → Services) : (onSvc f s).ftRem = s.ftRem := rfl
@[simp] theorem onSvc_step (f : Services → Services) : (onSvc f s).step = s.step := rfl
@[simp] theorem onSvc_corr (f : Services → Services) : (onSvc f s).corr = s.corr := rfl
@[simp] theorem onSvc_fwDigest (f : Services → Services) : (onSvc f s).fwDigest = s.fwDigest := rfl
@[simp] theorem onSvc_fwDead (f : Services → Services) : (onSvc f s).fwDead = s.fwDead := rfl
@[simp] theorem onSvc_free (f : Services → Services) : (onSvc f s).free = s.free := rfl
@[simp] theorem onSvc_resets (f : Services → Services) : (onSvc f s).resets = s.resets := rfl
@[simp] theorem onSvc_trc (f : Services → Services) : (onSvc f s).trc = s.trc := rfl
@[simp] theorem onSvc_out (f : Services → Services) : (onSvc f s).out = s.out := rfl
@[simp] theorem onSvc_svc (f : Services → Services) : (onSvc f s).svc = f s.svc := rfl

@[simp] theorem onMem_pending (f : Mem → Mem) : (onMem f s).pending = s.pending := rfl
@[simp] theorem onMem_fuses (f : Mem → Mem) : (onMem f s).fuses = s.fuses := rfl
@[simp] theorem onMem_otp (f : Mem → Mem) : (onMem f s).otp = s.otp := rfl
@[simp] theorem onMem_pwr (f : Mem → Mem) : (onMem f s).pwr = s.pwr := rfl
@[simp] theorem onMem_jtag (f : Mem → Mem) : (onMem f s).jtag = s.jtag := rfl
@[simp] theorem onMem_regs (f : Mem → Mem) : (onMem f s).regs = s.regs := rfl
@[simp] theorem onMem_hbm (f : Mem → Mem) : (onMem f s).hbm = s.hbm := rfl
@[simp] theorem onMem_ks (f : Mem → Mem) : (onMem f s).ks = s.ks := rfl
@[simp] theorem onMem_prot (f : Mem → Mem) : (onMem f s).prot = s.prot := rfl
@[simp] theorem onMem_img (f : Mem → Mem) : (onMem f s).img = s.img := rfl
@[simp] theorem onMem_armed (f : Mem → Mem) : (onMem f s).armed = s.armed := rfl
@[simp] theorem onMem_sect (f : Mem → Mem) : (onMem f s).sect = s.sect := rfl
@[simp] theorem onMem_pc (f : Mem → Mem) : (onMem f s).pc = s.pc := rfl
@[simp] theorem onMem_tst (f : Mem → Mem) : (onMem f s).tst = s.tst := rfl
@[simp] theorem onMem_fab (f : Mem → Mem) : (onMem f s).fab = s.fab := rfl
@[simp] theorem onMem_net (f : Mem → Mem) : (onMem f s).net = s.net := rfl
@[simp] theorem onMem_pr (f : Mem → Mem) : (onMem f s).pr = s.pr := rfl
@[simp] theorem onMem_svc (f : Mem → Mem) : (onMem f s).svc = s.svc := rfl
@[simp] theorem onMem_snt (f : Mem → Mem) : (onMem f s).snt = s.snt := rfl
@[simp] theorem onMem_mg (f : Mem → Mem) : (onMem f s).mg = s.mg := rfl
@[simp] theorem onMem_ft (f : Mem → Mem) : (onMem f s).ft = s.ft := rfl
@[simp] theorem onMem_ftRem (f : Mem → Mem) : (onMem f s).ftRem = s.ftRem := rfl
@[simp] theorem onMem_step (f : Mem → Mem) : (onMem f s).step = s.step := rfl
@[simp] theorem onMem_corr (f : Mem → Mem) : (onMem f s).corr = s.corr := rfl
@[simp] theorem onMem_fwDigest (f : Mem → Mem) : (onMem f s).fwDigest = s.fwDigest := rfl
@[simp] theorem onMem_fwDead (f : Mem → Mem) : (onMem f s).fwDead = s.fwDead := rfl
@[simp] theorem onMem_free (f : Mem → Mem) : (onMem f s).free = s.free := rfl
@[simp] theorem onMem_resets (f : Mem → Mem) : (onMem f s).resets = s.resets := rfl
@[simp] theorem onMem_trc (f : Mem → Mem) : (onMem f s).trc = s.trc := rfl
@[simp] theorem onMem_out (f : Mem → Mem) : (onMem f s).out = s.out := rfl
@[simp] theorem onMem_mem (f : Mem → Mem) : (onMem f s).mem = f s.mem := rfl

@[simp] theorem onSnt_pending (f : Sentinel → Sentinel) : (onSnt f s).pending = s.pending := rfl
@[simp] theorem onSnt_fuses (f : Sentinel → Sentinel) : (onSnt f s).fuses = s.fuses := rfl
@[simp] theorem onSnt_otp (f : Sentinel → Sentinel) : (onSnt f s).otp = s.otp := rfl
@[simp] theorem onSnt_pwr (f : Sentinel → Sentinel) : (onSnt f s).pwr = s.pwr := rfl
@[simp] theorem onSnt_jtag (f : Sentinel → Sentinel) : (onSnt f s).jtag = s.jtag := rfl
@[simp] theorem onSnt_regs (f : Sentinel → Sentinel) : (onSnt f s).regs = s.regs := rfl
@[simp] theorem onSnt_hbm (f : Sentinel → Sentinel) : (onSnt f s).hbm = s.hbm := rfl
@[simp] theorem onSnt_ks (f : Sentinel → Sentinel) : (onSnt f s).ks = s.ks := rfl
@[simp] theorem onSnt_prot (f : Sentinel → Sentinel) : (onSnt f s).prot = s.prot := rfl
@[simp] theorem onSnt_img (f : Sentinel → Sentinel) : (onSnt f s).img = s.img := rfl
@[simp] theorem onSnt_armed (f : Sentinel → Sentinel) : (onSnt f s).armed = s.armed := rfl
@[simp] theorem onSnt_sect (f : Sentinel → Sentinel) : (onSnt f s).sect = s.sect := rfl
@[simp] theorem onSnt_pc (f : Sentinel → Sentinel) : (onSnt f s).pc = s.pc := rfl
@[simp] theorem onSnt_tst (f : Sentinel → Sentinel) : (onSnt f s).tst = s.tst := rfl
@[simp] theorem onSnt_fab (f : Sentinel → Sentinel) : (onSnt f s).fab = s.fab := rfl
@[simp] theorem onSnt_net (f : Sentinel → Sentinel) : (onSnt f s).net = s.net := rfl
@[simp] theorem onSnt_pr (f : Sentinel → Sentinel) : (onSnt f s).pr = s.pr := rfl
@[simp] theorem onSnt_svc (f : Sentinel → Sentinel) : (onSnt f s).svc = s.svc := rfl
@[simp] theorem onSnt_mem (f : Sentinel → Sentinel) : (onSnt f s).mem = s.mem := rfl
@[simp] theorem onSnt_mg (f : Sentinel → Sentinel) : (onSnt f s).mg = s.mg := rfl
@[simp] theorem onSnt_ft (f : Sentinel → Sentinel) : (onSnt f s).ft = s.ft := rfl
@[simp] theorem onSnt_ftRem (f : Sentinel → Sentinel) : (onSnt f s).ftRem = s.ftRem := rfl
@[simp] theorem onSnt_step (f : Sentinel → Sentinel) : (onSnt f s).step = s.step := rfl
@[simp] theorem onSnt_corr (f : Sentinel → Sentinel) : (onSnt f s).corr = s.corr := rfl
@[simp] theorem onSnt_fwDigest (f : Sentinel → Sentinel) : (onSnt f s).fwDigest = s.fwDigest := rfl
@[simp] theorem onSnt_fwDead (f : Sentinel → Sentinel) : (onSnt f s).fwDead = s.fwDead := rfl
@[simp] theorem onSnt_free (f : Sentinel → Sentinel) : (onSnt f s).free = s.free := rfl
@[simp] theorem onSnt_resets (f : Sentinel → Sentinel) : (onSnt f s).resets = s.resets := rfl
@[simp] theorem onSnt_trc (f : Sentinel → Sentinel) : (onSnt f s).trc = s.trc := rfl
@[simp] theorem onSnt_out (f : Sentinel → Sentinel) : (onSnt f s).out = s.out := rfl
@[simp] theorem onSnt_snt (f : Sentinel → Sentinel) : (onSnt f s).snt = f s.snt := rfl

@[simp] theorem emit_out (o : Out) : (emit o s).out = s.out ++ [o] := rfl
@[simp] theorem tookFree_free : (tookFree s).free = s.free + 1 := rfl
@[simp] theorem wr_regs (a : Nat) (w : Word) : (wr a w s).regs = smPut (regReset a) s.regs a w := rfl

end Sys2Proof.Machine
end

