-- ==== Sys2Proof/Laws/Ops.lean ====
section
/-! SUPPORT. What the shared operations do: reads of registers and of memory after writes, and the whole effect of an event and
of a fault record on the state. -/

namespace Sys2Proof.Machine
open Sys2Proof

/-! ### Registers -/

/-- A register word reads as it was written last. -/
theorem rd_wr_same (a : Nat) (w : Word) (s : State) (h : SmWf regReset s.regs) : rd (wr a w s) a = w :=
  smGet_put_same _ _ _ _ h.1

/-- A write of a register word leaves every other word. -/
theorem rd_wr_other (a b : Nat) (w : Word) (s : State) (h : SmWf regReset s.regs) (hb : b ≠ a) : rd (wr a w s) b = rd s b :=
  smGet_put_other _ _ _ _ _ _ hb h.1

/-- A write keeps the canonical form of the registers. -/
theorem wr_wf (a : Nat) (w : Word) (s : State) (h : SmWf regReset s.regs) : SmWf regReset (wr a w s).regs :=
  smPut_wf regReset s.regs a w h

theorem putCfg_wf (a : Nat) (b : List Byte) (s : State) (h : SmWf regReset s.regs) : SmWf regReset (putCfg a b s).regs :=
  smPutAll_wf regReset _ s.regs a 4 h

theorem toWords_length (l : List Byte) : (toWords l).length = (l.length + 3) / 4 := by simp [toWords]

/-- Writing bytes to a register area leaves every word outside it. -/
theorem rd_putCfg_out (a b : Nat) (l : List Byte) (s : State) (h : SmWf regReset s.regs)
    (hb : b < a ∨ a + 4 * ((l.length + 3) / 4) ≤ b) : rd (putCfg a l s) b = rd s b := by
  refine smGet_putAll_out _ _ _ _ _ _ _ (fun i hi => ?_) h.1
  rw [toWords_length] at hi
  omega

/-! ### Fields of a word -/

/-- A number's field replaced, in parts. -/
theorem bits_parts (w lo n : Nat) : w = (w / 2 ^ lo / 2 ^ n * 2 ^ n + w / 2 ^ lo % 2 ^ n) * 2 ^ lo + w % 2 ^ lo := by
  rw [Nat.div_add_mod' (w / 2 ^ lo), Nat.div_add_mod']

theorem fset_toNat (w : Word) (hi lo v : Nat) (h : lo ≤ hi) (h2 : hi < 32) :
    (fset w hi lo v).toNat = (w.toNat / 2 ^ (hi + 1) * 2 ^ (hi + 1 - lo) + v % 2 ^ (hi + 1 - lo)) * 2 ^ lo + w.toNat % 2 ^ lo := by
  have hp := bits_parts w.toNat lo (hi + 1 - lo)
  have hd : w.toNat / 2 ^ lo / 2 ^ (hi + 1 - lo) = w.toNat / 2 ^ (hi + 1) := by
    rw [Nat.div_div_eq_div_mul, ← Nat.pow_add, show lo + (hi + 1 - lo) = hi + 1 by omega]
  rw [hd] at hp
  unfold fset bits
  rw [BitVec.toNat_ofNat]
  generalize hq : w.toNat / 2 ^ (hi + 1) = q at *
  generalize hb : w.toNat / 2 ^ lo % 2 ^ (hi + 1 - lo) = b at *
  generalize hr : w.toNat % 2 ^ lo = r at *
  have hv : v % 2 ^ (hi + 1 - lo) < 2 ^ (hi + 1 - lo) := Nat.mod_lt _ (Nat.pow_pos (by omega))
  generalize v % 2 ^ (hi + 1 - lo) = v' at *
  have e : w.toNat - b * 2 ^ lo + v' * 2 ^ lo = (q * 2 ^ (hi + 1 - lo) + v') * 2 ^ lo + r := by
    rw [Nat.add_mul] at hp ⊢
    omega
  rw [e]
  apply Nat.mod_eq_of_lt
  have hrl : r < 2 ^ lo := hr ▸ Nat.mod_lt _ (Nat.pow_pos (by omega))
  have hql : q < 2 ^ (32 - (hi + 1)) := by
    rw [← hq]
    apply Nat.div_lt_of_lt_mul
    rw [← Nat.pow_add, show hi + 1 + (32 - (hi + 1)) = 32 by omega]
    exact w.isLt
  have h1 : (q + 1) * 2 ^ (hi + 1 - lo) ≤ 2 ^ (32 - lo) := by
    rw [show 32 - lo = (32 - (hi + 1)) + (hi + 1 - lo) by omega, Nat.pow_add]
    exact Nat.mul_le_mul_right _ hql
  have h2 : q * 2 ^ (hi + 1 - lo) + v' + 1 ≤ 2 ^ (32 - lo) := by
    rw [Nat.add_mul] at h1; omega
  have h3 := Nat.mul_le_mul_right (2 ^ lo) h2
  rw [← Nat.pow_add, show 32 - lo + lo = 32 by omega, Nat.add_mul] at h3
  omega

/-- A field reads as it was set, cut to its width. -/
theorem fget_fset_same (w : Word) (hi lo v : Nat) (h : lo ≤ hi) (h2 : hi < 32) :
    fget (fset w hi lo v) hi lo = v % 2 ^ (hi + 1 - lo) := by
  unfold fget bits
  rw [fset_toNat w hi lo v h h2, Nat.mul_comm, Nat.mul_add_div (Nat.pow_pos (by omega)),
    Nat.div_eq_of_lt (Nat.mod_lt _ (Nat.pow_pos (by omega))), Nat.add_zero, Nat.mul_comm, Nat.mul_add_mod, Nat.mod_mod]

theorem rf_wf_same (a hi lo v : Nat) (s : State) (hs : SmWf regReset s.regs) (h : lo ≤ hi) (h2 : hi < 32) :
    rf (wf a hi lo v s) a hi lo = v % 2 ^ (hi + 1 - lo) := by
  unfold rf wf
  rw [rd_wr_same _ _ _ hs, fget_fset_same _ _ _ _ h h2]

theorem rf_wf_other (a b hi lo v i j : Nat) (s : State) (hs : SmWf regReset s.regs) (h : b ≠ a) :
    rf (wf a hi lo v s) b i j = rf s b i j := by
  unfold rf wf
  rw [rd_wr_other _ _ _ _ hs h]
/-! ### Memory -/

/-- A write keeps the canonical form of memory. -/
theorem hbmWr_wf (a : Nat) (b : List Byte) (s : State) (h : Memory.wf s.hbm) : Memory.wf (hbmWr a b s).hbm :=
  smPutAll_wf hbmUnlisted (landed s a b) s.hbm a 1 h

@[simp] theorem landed_length (a : Nat) (b : List Byte) (s : State) : (landed s a b).length = b.length := by
  unfold landed
  split <;> simp

/-- A byte of memory that a write covers reads as written, but where the write is lost on a FAILED channel; every other byte reads as
before (15 R398). -/
theorem hbmByte_hbmWr (a : Nat) (b : List Byte) (s : State) (h : Memory.wf s.hbm) (k : Nat) :
    hbmByte (hbmWr a b s) k =
      if a ≤ k ∧ k < a + b.length ∧ (anyFailed s && lostAt s k) = false then b.getD (k - a) 0 else hbmByte s k := by
  have e : hbmByte (hbmWr a b s) k = _ := smGet_putAll hbmUnlisted (landed s a b) s.hbm a k h.1
  rw [e, landed_length]
  by_cases hk : a ≤ k ∧ k < a + b.length
  · obtain ⟨i, rfl⟩ := Nat.exists_eq_add_of_le hk.1
    have hi : i < b.length := by omega
    simp only [hk.1, hk.2, and_self, if_true, true_and, Nat.add_sub_cancel_left]
    unfold landed
    by_cases ha : anyFailed s = true
    · simp only [ha, if_true, List.getD_eq_getElem?_getD, List.getElem?_map, List.getElem?_zipIdx, Bool.true_and,
        List.getElem?_eq_getElem hi, Option.map_some, Option.getD_some, Nat.zero_add]
      by_cases hl : lostAt s (a + i) = true <;> simp [hl]
    · simp [ha, hi]
  · rw [if_neg hk, if_neg fun g => hk ⟨g.1, g.2.1⟩]
    rfl

/-- Memory built from cells is canonical. -/
theorem memOf_canonical (l : List Host.Cell) : Memory.wf (memOf l) := by
  unfold memOf
  exact foldl_put_wf hbmUnlisted Prod.fst Prod.snd l [] ⟨List.Pairwise.nil, by simp⟩

/-! ### Events and faults -/

/-- An event changes nothing but registers and what the module sends. -/
theorem raiseEvent_frame (e : EventId) (s : State) :
    raiseEvent e s = { s with regs := (raiseEvent e s).regs, out := (raiseEvent e s).out } := by
  unfold raiseEvent sendEvent gulSend
  dsimp only
  split <;> split <;> rfl

/-- Stopping a context changes nothing but registers and what the module sends. -/
theorem stopCtx_frame (x c : Nat) (s : State) :
    stopCtx x c s = { s with regs := (stopCtx x c s).regs, out := (stopCtx x c s).out } := by
  unfold stopCtx
  split
  · rw [raiseEvent_frame]
    rfl
  · rfl

/-- The effect of a fault's class changes nothing but registers and what the module sends. -/
theorem faultEffect_frame (f : FaultId) (s : State) :
    faultEffect f s = { s with regs := (faultEffect f s).regs, out := (faultEffect f s).out } := by
  unfold faultEffect
  split
  · exact stopCtx_frame _ _ s
  · split <;> rfl
  · rfl

/-- A fault changes nothing but registers, what the module sends, the trace records that wait, and the merging of CORR records. -/
theorem raiseFault_frame (f : FaultId) (s : State) :
    raiseFault f s = { s with regs := (raiseFault f s).regs, out := (raiseFault f s).out, trc := (raiseFault f s).trc,
                              corr := (raiseFault f s).corr } := by
  unfold raiseFault
  dsimp only
  repeat' split
  all_goals first
    | rfl
    | (rw [faultEffect_frame, raiseEvent_frame]; rfl)

@[simp] theorem raiseEvent_pending (e : EventId) (s : State) : (raiseEvent e s).pending = s.pending := by rw [raiseEvent_frame]
@[simp] theorem raiseEvent_fuses (e : EventId) (s : State) : (raiseEvent e s).fuses = s.fuses := by rw [raiseEvent_frame]
@[simp] theorem raiseEvent_otp (e : EventId) (s : State) : (raiseEvent e s).otp = s.otp := by rw [raiseEvent_frame]
@[simp] theorem raiseEvent_pwr (e : EventId) (s : State) : (raiseEvent e s).pwr = s.pwr := by rw [raiseEvent_frame]
@[simp] theorem raiseEvent_jtag (e : EventId) (s : State) : (raiseEvent e s).jtag = s.jtag := by rw [raiseEvent_frame]
@[simp] theorem raiseEvent_hbm (e : EventId) (s : State) : (raiseEvent e s).hbm = s.hbm := by rw [raiseEvent_frame]
@[simp] theorem raiseEvent_ks (e : EventId) (s : State) : (raiseEvent e s).ks = s.ks := by rw [raiseEvent_frame]
@[simp] theorem raiseEvent_prot (e : EventId) (s : State) : (raiseEvent e s).prot = s.prot := by rw [raiseEvent_frame]
@[simp] theorem raiseEvent_img (e : EventId) (s : State) : (raiseEvent e s).img = s.img := by rw [raiseEvent_frame]
@[simp] theorem raiseEvent_armed (e : EventId) (s : State) : (raiseEvent e s).armed = s.armed := by rw [raiseEvent_frame]
@[simp] theorem raiseEvent_sect (e : EventId) (s : State) : (raiseEvent e s).sect = s.sect := by rw [raiseEvent_frame]
@[simp] theorem raiseEvent_pc (e : EventId) (s : State) : (raiseEvent e s).pc = s.pc := by rw [raiseEvent_frame]
@[simp] theorem raiseEvent_tst (e : EventId) (s : State) : (raiseEvent e s).tst = s.tst := by rw [raiseEvent_frame]
@[simp] theorem raiseEvent_fab (e : EventId) (s : State) : (raiseEvent e s).fab = s.fab := by rw [raiseEvent_frame]
@[simp] theorem raiseEvent_net (e : EventId) (s : State) : (raiseEvent e s).net = s.net := by rw [raiseEvent_frame]
@[simp] theorem raiseEvent_pr (e : EventId) (s : State) : (raiseEvent e s).pr = s.pr := by rw [raiseEvent_frame]
@[simp] theorem raiseEvent_svc (e : EventId) (s : State) : (raiseEvent e s).svc = s.svc := by rw [raiseEvent_frame]
@[simp] theorem raiseEvent_snt (e : EventId) (s : State) : (raiseEvent e s).snt = s.snt := by rw [raiseEvent_frame]
@[simp] theorem raiseEvent_mem (e : EventId) (s : State) : (raiseEvent e s).mem = s.mem := by rw [raiseEvent_frame]
@[simp] theorem raiseEvent_mg (e : EventId) (s : State) : (raiseEvent e s).mg = s.mg := by rw [raiseEvent_frame]
@[simp] theorem raiseEvent_ft (e : EventId) (s : State) : (raiseEvent e s).ft = s.ft := by rw [raiseEvent_frame]
@[simp] theorem raiseEvent_ftRem (e : EventId) (s : State) : (raiseEvent e s).ftRem = s.ftRem := by rw [raiseEvent_frame]
@[simp] theorem raiseEvent_step (e : EventId) (s : State) : (raiseEvent e s).step = s.step := by rw [raiseEvent_frame]
@[simp] theorem raiseEvent_corr (e : EventId) (s : State) : (raiseEvent e s).corr = s.corr := by rw [raiseEvent_frame]
@[simp] theorem raiseEvent_fwDigest (e : EventId) (s : State) : (raiseEvent e s).fwDigest = s.fwDigest := by rw [raiseEvent_frame]
@[simp] theorem raiseEvent_fwDead (e : EventId) (s : State) : (raiseEvent e s).fwDead = s.fwDead := by rw [raiseEvent_frame]
@[simp] theorem raiseEvent_free (e : EventId) (s : State) : (raiseEvent e s).free = s.free := by rw [raiseEvent_frame]
@[simp] theorem raiseEvent_resets (e : EventId) (s : State) : (raiseEvent e s).resets = s.resets := by rw [raiseEvent_frame]
@[simp] theorem raiseEvent_trc (e : EventId) (s : State) : (raiseEvent e s).trc = s.trc := by rw [raiseEvent_frame]
@[simp] theorem raiseFault_pending (f : FaultId) (s : State) : (raiseFault f s).pending = s.pending := by rw [raiseFault_frame]
@[simp] theorem raiseFault_fuses (f : FaultId) (s : State) : (raiseFault f s).fuses = s.fuses := by rw [raiseFault_frame]
@[simp] theorem raiseFault_otp (f : FaultId) (s : State) : (raiseFault f s).otp = s.otp := by rw [raiseFault_frame]
@[simp] theorem raiseFault_pwr (f : FaultId) (s : State) : (raiseFault f s).pwr = s.pwr := by rw [raiseFault_frame]
@[simp] theorem raiseFault_jtag (f : FaultId) (s : State) : (raiseFault f s).jtag = s.jtag := by rw [raiseFault_frame]
@[simp] theorem raiseFault_hbm (f : FaultId) (s : State) : (raiseFault f s).hbm = s.hbm := by rw [raiseFault_frame]
@[simp] theorem raiseFault_ks (f : FaultId) (s : State) : (raiseFault f s).ks = s.ks := by rw [raiseFault_frame]
@[simp] theorem raiseFault_prot (f : FaultId) (s : State) : (raiseFault f s).prot = s.prot := by rw [raiseFault_frame]
@[simp] theorem raiseFault_img (f : FaultId) (s : State) : (raiseFault f s).img = s.img := by rw [raiseFault_frame]
@[simp] theorem raiseFault_armed (f : FaultId) (s : State) : (raiseFault f s).armed = s.armed := by rw [raiseFault_frame]
@[simp] theorem raiseFault_sect (f : FaultId) (s : State) : (raiseFault f s).sect = s.sect := by rw [raiseFault_frame]
@[simp] theorem raiseFault_pc (f : FaultId) (s : State) : (raiseFault f s).pc = s.pc := by rw [raiseFault_frame]
@[simp] theorem raiseFault_tst (f : FaultId) (s : State) : (raiseFault f s).tst = s.tst := by rw [raiseFault_frame]
@[simp] theorem raiseFault_fab (f : FaultId) (s : State) : (raiseFault f s).fab = s.fab := by rw [raiseFault_frame]
@[simp] theorem raiseFault_net (f : FaultId) (s : State) : (raiseFault f s).net = s.net := by rw [raiseFault_frame]
@[simp] theorem raiseFault_pr (f : FaultId) (s : State) : (raiseFault f s).pr = s.pr := by rw [raiseFault_frame]
@[simp] theorem raiseFault_svc (f : FaultId) (s : State) : (raiseFault f s).svc = s.svc := by rw [raiseFault_frame]
@[simp] theorem raiseFault_snt (f : FaultId) (s : State) : (raiseFault f s).snt = s.snt := by rw [raiseFault_frame]
@[simp] theorem raiseFault_mem (f : FaultId) (s : State) : (raiseFault f s).mem = s.mem := by rw [raiseFault_frame]
@[simp] theorem raiseFault_mg (f : FaultId) (s : State) : (raiseFault f s).mg = s.mg := by rw [raiseFault_frame]
@[simp] theorem raiseFault_ft (f : FaultId) (s : State) : (raiseFault f s).ft = s.ft := by rw [raiseFault_frame]
@[simp] theorem raiseFault_ftRem (f : FaultId) (s : State) : (raiseFault f s).ftRem = s.ftRem := by rw [raiseFault_frame]
@[simp] theorem raiseFault_step (f : FaultId) (s : State) : (raiseFault f s).step = s.step := by rw [raiseFault_frame]
@[simp] theorem raiseFault_fwDigest (f : FaultId) (s : State) : (raiseFault f s).fwDigest = s.fwDigest := by rw [raiseFault_frame]
@[simp] theorem raiseFault_fwDead (f : FaultId) (s : State) : (raiseFault f s).fwDead = s.fwDead := by rw [raiseFault_frame]
@[simp] theorem raiseFault_free (f : FaultId) (s : State) : (raiseFault f s).free = s.free := by rw [raiseFault_frame]
@[simp] theorem raiseFault_resets (f : FaultId) (s : State) : (raiseFault f s).resets = s.resets := by rw [raiseFault_frame]

end Sys2Proof.Machine
end

