-- ==== Sys2Proof/Laws/Reset.lean ====
section
/-! SUPPORT. What a full reset and the loss of power leave (17 R428, R430). -/

namespace Sys2Proof.Machine
open Sys2Proof

/-- The registers that the fuses load are canonical. -/
theorem fuseRegs_wf (f : Fuses) (o : Otp) : SmWf regReset (fuseRegs f o) := by
  unfold fuseRegs
  exact foldl_put_wf regReset (fun w : Nat × Nat => w.1) (fun w => BitVec.ofNat 32 w.2) _ _ ⟨List.Pairwise.nil, by simp⟩

/-- A full reset: its registers, and everything else that R430 names. -/
theorem fullReset_after (s : State) : AfterFullReset s (fullReset s) := by
  unfold fullReset State.ofFuses
  have hw := fuseRegs_wf s.fuses s.otp
  generalize hf : fuseRegs s.fuses s.otp = F at hw
  refine ⟨fun a ha => ?_, rfl, rfl, rfl, rfl, ⟨rfl, rfl, rfl⟩, ⟨rfl, rfl⟩, ⟨rfl, rfl⟩, ⟨rfl, rfl⟩, ⟨rfl, rfl, rfl⟩,
    ⟨rfl, rfl, rfl⟩, ⟨rfl, rfl, rfl, rfl⟩, ⟨rfl, rfl, rfl, rfl, rfl, rfl⟩⟩
  rw [hf]
  exact rd_wr_other _ _ _ _ hw ha

/-- The registers after a full reset are canonical. -/
theorem fullReset_wf (s : State) : SmWf regReset (fullReset s).regs := by
  unfold fullReset State.ofFuses
  have hw := fuseRegs_wf s.fuses s.otp
  generalize fuseRegs s.fuses s.otp = F at *
  exact wr_wf _ _ _ hw

/-- A full reset keeps the root PLL's live word. -/
theorem fullReset_clk (s : State) : rd (fullReset s) A.clkStatus = rd s A.clkStatus := by
  unfold fullReset State.ofFuses
  have hw := fuseRegs_wf s.fuses s.otp
  generalize fuseRegs s.fuses s.otp = F at *
  exact rd_wr_same _ _ _ hw

/-- The power path after a full reset. -/
theorem fullReset_pwr (s : State) : (fullReset s).pwr = { s.pwr with inReset := true, resetDue := false, cwyDrive := false } := by
  unfold fullReset
  rfl

/-- The loss of power leaves what a full reset leaves, and no clock. -/
theorem powerOff_after (q : SeqState) (s : State) : AfterFullReset s (powerOff q s) ∧ rd (powerOff q s) A.clkStatus = 0 := by
  have h := fullReset_after s
  have w := fullReset_wf s
  have p := fullReset_pwr s
  unfold powerOff
  generalize fullReset s = t at *
  constructor
  · refine ⟨fun a ha => ?_, h.hbm, h.resets, h.ks, h.prot, h.img, h.pc, h.fab, h.pr, h.mem, h.time, h.fw, h.stay⟩
    rw [← h.regs a ha]
    exact rd_wr_other A.clkStatus a 0 t w ha
  · exact rd_wr_same A.clkStatus 0 t w

/-- The power path after the loss of power. -/
theorem powerOff_pwr (q : SeqState) (s : State) : (powerOff q s).pwr = { s.pwr with
    seq := q, railsUp := [], inReset := true, resetDue := false, cwyDrive := false } := by
  have p := fullReset_pwr s
  unfold powerOff
  generalize fullReset s = t at *
  simp [p]

end Sys2Proof.Machine
end

