-- ==== Sys2Proof/Laws/Frames.lean ====
section
/-! SUPPORT. What shared operations of the Keystone, protection, the image loader and the packet buffers change, and how a packet
that meets its conditions is taken. -/

namespace Sys2Proof.Machine
open Sys2Proof

/-! ### Maps -/

/-- A filter that keeps a key keeps what it reads. -/
theorem smGet_filter {β : Type} (d : β) (m : List (Nat × β)) (f : Nat × β → Bool) (a : Nat)
    (h : m.Pairwise fun p q => p.1 < q.1) (hf : ∀ x, f (a, x) = true) : smGet d (m.filter f) a = smGet d m a := by
  induction m with
  | nil => rfl
  | cons p r ih =>
    have ih := ih h.of_cons
    rcases p with ⟨k, v⟩
    by_cases hk : k = a
    · subst hk
      simp [hf, smGet]
    · rw [List.filter_cons]
      split
      · simp only [smGet, ih]
      · rw [ih]
        simp only [smGet]
        split
        · next hl => exact smGet_below d r a fun q hq => Nat.lt_trans hl (List.rel_of_pairwise_cons h hq)
        · rw [if_neg (by omega)]

/-- Writes to other keys leave what a key reads. -/
theorem smGet_fold_out {β γ : Type} [DecidableEq β] (dflt : Nat → β) (key : γ → Nat) (val : γ → β) (l : List γ) (m : List (Nat × β))
    (e : β) (a : Nat) (ha : ∀ y ∈ l, key y ≠ a) (h : m.Pairwise fun p q => p.1 < q.1) :
    smGet e (l.foldl (fun m y => smPut (dflt (key y)) m (key y) (val y)) m) a = smGet e m a := by
  induction l generalizing m with
  | nil => rfl
  | cons y r ih =>
    rw [List.foldl_cons, ih _ (fun z hz => ha z (List.mem_cons_of_mem _ hz)) (smPut_pairwise _ _ _ _ h),
      smGet_put_other _ _ _ _ _ _ (Ne.symm (ha y (List.mem_cons_self ..))) h]

/-! ### Protection and the Keystone (03 R70-R81) -/

/-- The copy to the shadow areas writes only registers. -/
theorem liveToShadow_frame (s : State) : liveToShadow s = { s with regs := (liveToShadow s).regs } := rfl

/-- A register write by number changes only registers. -/
theorem wn_frame (a v : Nat) (s : State) : wn a v s = { s with regs := (wn a v s).regs } := rfl

/-- A rejection writes registers, and is reported. -/
theorem protReject_frame (a b : Nat) (s : State) :
  protReject a b s = { s with regs := (protReject a b s).regs, out := (protReject a b s).out } := by
  unfold protReject; dsimp only; rw [raiseEvent_frame]; rfl

/-- What a commit that is given up leaves changed. -/
theorem dropStaged_frame (s : State) : dropStaged s = { s with
   regs := (dropStaged s).regs, out := (dropStaged s).out, prot := { s.prot with copyDue := (dropStaged s).prot.copyDue } } := by
  unfold dropStaged
  split
  · rfl
  · dsimp only
    split
    · rw [protReject_frame]; rfl
    · rfl

/-- The copy to the shadow areas leaves every other register. -/
theorem rd_liveToShadow (a : Nat) (s : State) (hw : SmWf regReset s.regs) (h : isShadow a = false) : rd (liveToShadow s) a = rd s a := by
  show smGet _ _ _ = _
  unfold liveToShadow
  dsimp only
  have hout : ∀ p ∈ liveWords s, p.1 ≠ a := by
    intro p hp hpa
    simp only [liveWords, List.mem_map, List.mem_filter, isLive] at hp
    obtain ⟨q, ⟨_, hq⟩, rfl⟩ := hp
    simp only [Bool.and_eq_true, decide_eq_true_eq] at hq
    have : isShadow a = true := by
      subst hpa
      simp only [isShadow, Bool.and_eq_true, decide_eq_true_eq]
      refine ⟨⟨?_, ?_⟩, ?_⟩ <;> omega
    rw [this] at h; cases h
  have := smGet_fold_out regReset Prod.fst Prod.snd (liveWords s) (s.regs.filter fun p => !isShadow p.1) (regReset a) a hout (hw.1.filter _)
  rw [this, smGet_filter _ _ _ _ hw.1 (by simp [h])]
  rfl

/-- A load's rejection changes registers and the loader, and is reported. -/
theorem imgReject_frame (r p d : Nat) (s : State) : imgReject r p d s = { s with
   regs := (imgReject r p d s).regs, out := (imgReject r p d s).out, img := (imgReject r p d s).img } := by
  unfold imgReject imgRejectEvent; dsimp only
  rw [raiseEvent_frame]; rfl

/-- What the Keystone, as it becomes free, leaves changed (03 R70, R72). -/
theorem ksFree_frame (s : State) : ksFree s = { s with
        ks := { s.ks with holder := none, holderBit := freeBits 1 s, holdOff := true }, free := s.free + 1
        regs := (ksFree s).regs, out := (ksFree s).out, prot := { s.prot with copyDue := (ksFree s).prot.copyDue }, img := (ksFree s).img } := by
  unfold ksFree imgLostLease tookFree freeBits
  dsimp only
  split
  · rw [imgReject_frame, dropStaged_frame]
  · rw [dropStaged_frame]

/-- The same after an event. -/
theorem ksFree_event (e : EventId) (s : State) : ksFree (raiseEvent e s) = { s with
        ks := { s.ks with holder := none, holderBit := freeBits 1 s, holdOff := true }, free := s.free + 1
        regs := (ksFree (raiseEvent e s)).regs, out := (ksFree (raiseEvent e s)).out, prot := { s.prot with copyDue := (ksFree (raiseEvent e s)).prot.copyDue }, img := (ksFree (raiseEvent e s)).img } := by
  rw [ksFree_frame, raiseEvent_frame]; rfl

/-! ### Packet buffers and the intake of collective packets (10 R271-R273) -/

/-- Buffers that are freed leave only the held packets, their cells and the freed counts changed. -/
theorem removeHeld_frame (p : Held → Bool) (f : Fab) :
    removeHeld p f = { f with held := f.held.filter fun h => !p h, freed := (removeHeld p f).freed
                              fifo := f.fifo.filter fun c => !(f.held.filter p).any (ownsCell · c)
                              flying := f.flying.filter fun x => !(f.held.filter p).any (ownsCell · x.cell) } := by
  unfold removeHeld
  dsimp only
  generalize f.held.filter p = l
  have : ∀ (l : List Held) (f g : Fab), f = { g with freed := f.freed } → l.foldl (fun f h => countFreed h f) f =
      { g with freed := (l.foldl (fun f h => countFreed h f) f).freed } := by
    intro l
    induction l with
    | nil => intro f g h; exact h
    | cons a l ih =>
      intro f g h
      refine ih _ g ?_
      by_cases hs : a.src < 512
      · simp only [countFreed, hs, if_true]; rw [h]
      · simp only [countFreed, hs, if_false]; exact h
  refine this l _ { f with held := f.held.filter fun h => !p h
                           fifo := f.fifo.filter fun c => !l.any (ownsCell · c)
                           flying := f.flying.filter fun x => !l.any (ownsCell · x.cell) } rfl

/-- A packet that is taken leaves the held packets, its cells and the freed counts changed, nothing else. -/
theorem takeHeld_frame (h : Held) (s : State) : takeHeld h s = { s with
    fab := { s.fab with held := s.fab.held.filter fun x => !(x == h), freed := (takeHeld h s).fab.freed
                        fifo := s.fab.fifo.filter fun c => !(s.fab.held.filter (· == h)).any (ownsCell · c)
                        flying := s.fab.flying.filter fun x => !(s.fab.held.filter (· == h)).any (ownsCell · x.cell) } } := by
  exact congrArg (fun f => ({ s with fab := f } : State)) (removeHeld_frame (· == h) s.fab)

/-- Taking a packet does not change a packet's tree. -/
theorem packetTree_takeHeld (h : Held) (s : State) (b : List Byte) : packetTree (takeHeld h s) b = packetTree s b := by
  rw [takeHeld_frame]; rfl

/-- A partial that meets the conditions is taken, and answered (10 R271, R273). -/
theorem intakeUp_rises (s : State) (n form : Nat) (k : Known) (b : List Byte) (t : Tree) (e : Nat) (o : RseOp) (u : State) (slot : Bool)
   (f : Tree → Nat → Nat → List Byte → RseOp → State → State)
   (h : Rises s n form k b t e o u) : intakeUp n form k slot f s = rxAccept (edgeAnswers s n t (t.down.getD e t.up)) b (f t (treePos t b) e b o u) := by
  obtain ⟨⟨hh, h1, h2, h3⟩, h4, h5, h6, ⟨h7, h8⟩, h9⟩ := h
  unfold intakeUp
  rw [h1]
  dsimp only
  subst h2
  rw [packetTree_takeHeld, h4]
  dsimp only
  rw [h5]
  have ho : (findOp (takeHeld hh s) n t.num (opCseq hh.bytes)).getD (newOp (takeHeld hh s) n t (opCseq hh.bytes) k) = o := by
    rw [h6]; rfl
  have he : edgeAnswers (takeHeld hh s) n t (t.down.getD e t.up) = edgeAnswers s n t (t.down.getD e t.up) := rfl
  have hs : slotsFree (takeHeld hh s) t o (pheadOf (pkPayload hh.bytes)) = true := by rw [← h9]; rfl
  simp only [ho, he]
  have hf : (if (slot && !o.bad && !slotsFree (takeHeld hh s) t o (pheadOf (pkPayload hh.bytes))) = true then some 4 else none) = (none : Option Nat) := by simp [hs]
  simp only [hf, h3]
  simp [h7]
  intro a b
  have := h8 a
  simp [this] at b

/-- A packet from above that meets the conditions is taken, and answered. -/
theorem intakeDown_falls (s : State) (n form : Nat) (k : Known) (b : List Byte) (t : Tree) (o : RseOp) (u : State)
   (f : Tree → Nat → List Byte → RseOp → State → State)
   (h : Falls s n form k b t o u) : intakeDown n form k f s = rxAccept (edgeAnswers s n t t.up) b (f t (treePos t b) b o u) := by
  obtain ⟨⟨hh, h1, h2, h3⟩, h4, ⟨h5, h8, h9⟩, h6, h7⟩ := h
  unfold intakeDown
  rw [h1]
  dsimp only
  subst h2
  rw [packetTree_takeHeld, h4]
  dsimp only
  have he : edgeAnswers (takeHeld hh s) n t t.up = edgeAnswers s n t t.up := rfl
  have ho : (findOp (takeHeld hh s) n t.num (opCseq hh.bytes)).getD (newOp (takeHeld hh s) n t (opCseq hh.bytes) k) = o := by
    rw [h6]; rfl
  rw [if_pos ⟨h5, by omega, by omega, by omega⟩]
  simp [ho, he, h3, h7, h8]

/-- A packet that reaches a landing is taken there, and answered (10 R263). -/
theorem memberIntake_reaches (s : State) (p form : Nat) (b : List Byte) (l : Landing) (u : State) (f : Landing → List Byte → State → State)
  (h : ReachesMember s p form b l u) : memberIntake p form f s = rxAccept (pierAnswers s (srCtx s (pkSr b)) p) b (f l (pkPayload b) u) := by
  obtain ⟨a, h1, h2, h3, h4⟩ := h
  unfold memberIntake
  rw [h1]
  subst h2
  simp [h3, h4]

/-! ### A step -/

/-- What every step keeps, of the state with its queue's rest. -/
theorem step_kept (s t : State) (h : step s = .next t) : ∃ u : State, u.pending = s.pending.tail ∧ u = { s with pending := s.pending.tail } ∧ Kept KsKeep u t := by
  refine ⟨_, rfl, rfl, ?_⟩
  unfold step at h
  split at h
  · next hp =>
    cases h
    have : ({ s with pending := s.pending.tail } : State) = s := by rw [hp]; cases s; simp_all
    rw [this]
    exact coreCycle_kept (Kept.refl id)
  · next c r hp =>
    have k := exec_kept c (s := { s with pending := r }) (a := { s with pending := r }) (Kept.refl (K := KsKeep) id)
    rw [h] at k
    rw [hp]
    exact k

end Sys2Proof.Machine
end

