-- ==== Sys2Proof/Laws/Services.lean ====
section
/-! SUPPORT. What a row of a service operation can do (14 R358-R363): it takes a request, which is malformed or begins, or goes on
with one; and a step of work on piers runs as service grants. -/

namespace Sys2Proof.Machine
open Sys2Proof

/-- A request that was taken has not begun. -/
theorem TakesAny.stage {s : State} {x j op : Nat} {r : SvcReq} {u : State} (h : TakesAny s x j op r u) : r.stage = 0 :=
  (congrArg (fun q => q.1.stage) h.taken).symm

/-- A row that takes a request: it is malformed, or its work begins. -/
theorem svcRow_takes {s : State} {x j op : Nat} {r : SvcReq} {u : State} (hj : j < 8) (h : TakesAny s x j op r u)
    (faults : State → SvcReq → List Nat) (run : SvcReq → State → State) :
    svcRow op x (.take ⟨j, hj⟩) faults run s = match reqFaulty faults r u with
      | some o => malformedReq r o u
      | none => runReq run r u := by
  have hq : r.queue = j := (congrArg (fun q => q.1.queue) h.taken).symm
  have hu : spareState u = spareState s := by
    have hv := congrArg (fun q => spareState q.2) h.taken
    exact hv.symm
  have hs : ¬ (r.queue ≠ 7 ∧ spareState u ≠ spNone ∧ spareState u ≠ spAdmitted) := by
    rw [hu, hq]
    have := h.spare
    omega
  unfold svcRow
  simp only [h.may, h.entry, h.op, h.taken, Bool.not_true, Bool.false_eq_true, if_false, ne_eq, not_true_eq_false]
  unfold beginReq stepReq
  rw [if_neg hs]
  simp [h.stage, h.idle] <;> rfl

/-- A row that goes on with a request: its next step. -/
theorem svcRow_goes {s : State} {x k op : Nat} {r : SvcReq} (hk : k < 16) (h : GoesOn s x k op r)
    (faults : State → SvcReq → List Nat) (run : SvcReq → State → State) :
    svcRow op x (.go ⟨k, hk⟩) faults run s = runReq run r s := by
  have hf := h.1
  unfold svcRow
  simp only at *
  rw [hf]
  unfold stepReq
  simp [h.2]

/-- A step of work on piers runs as service grants there. -/
theorem runReq_onPier {s : State} {r : SvcReq} {p : Nat} {w : State} (h : OnPier s r p w) (run : SvcReq → State → State)
    (hg : usesGroup (rqOp r.bytes) = true) (hm : awaitsMirror r = false) : runReq run r s = run { r with pier := p } w := by
  have hf : (stepPiers s r p).all (svcFree s) = true := by simpa [List.all_eq_true] using h.free
  unfold runReq
  simp [hg, hm, h.pier, hf, h.took]

/-- A step of the agent's work runs on no pier. -/
theorem runReq_agent {s : State} {r : SvcReq} (run : SvcReq → State → State) (hg : usesGroup (rqOp r.bytes) = false) :
    runReq run r s = run r s := by
  unfold runReq
  simp [hg]

end Sys2Proof.Machine
end

