-- ==== Sys2Proof/WellFormed.lean ====
section
/-! DEFINITION. Commands whose operands can occur: fields of a transaction have the widths of 03 Table 3.2, a packet or frame is
no longer than a link carries, and what an RSE knows of a collective has the shape of its descriptor (10 R260). Every check
is on the size of an operand; a command that breaks one runs all the same. -/

namespace Sys2Proof

/-- The fields of a transaction have their widths, and its data is LEN bytes or none (03 Table 3.2). -/
def Txn.wf (t : Txn) : Bool :=
  decide (t.op < 2 ^ 8) && decide (t.flags < 2 ^ 8) && decide (t.tag < 2 ^ 16) && decide (t.len < 2 ^ 16) &&
    decide (t.ctx < 2 ^ 8) && decide (t.status < 2 ^ 8) && decide (t.addr < 2 ^ 64) &&
    (t.data.length == 0 || t.data.length == t.len)

/-- An address of the module's 38-bit space (03 R66). -/
def addrWf (a : Nat) : Bool := decide (a < 2 ^ 38)

/-- What ECC finds stands at an address. -/
def MemSeen.wf : MemSeen → Bool
  | .none => true
  | .corrected a => addrWf a
  | .uncorrectable a => addrWf a

/-- What the audit meets stands at a word of the configuration space. -/
def AuditSeen.wf : AuditSeen → Bool
  | .clean => true
  | .corrected a => decide (a < 2 ^ 32)
  | .uncorrectable a => decide (a < 2 ^ 32)
  | .upset a _ => decide (a < 2 ^ 32)

/-- A descriptor is 128 bytes; an RSE list names RSEs, a down edge ranks, and a tag is 32 bits. -/
def Known.wf (k : Known) : Bool :=
  k.desc.length == 128 && (k.list.all fun n => decide (n < 80)) && (k.below.all fun l => l.all fun r => decide (r < 2 ^ 24)) &&
    decide (k.tag < 2 ^ 32)

/-- A packet, its header and its check: no longer than the longest that Balnov carries. -/
def packetWf (b : List Byte) : Bool := decide (b.length ≤ 16448)

/-- A time in core cycles, or a number of a request or word. -/
def countWf (n : Nat) : Bool := decide (n < 2 ^ 64)

/-- The mirror that a service step goes on with has a number. -/
def SvcStep.wf : SvcStep → Bool
  | .mirror id => countWf id
  | .take _ => true
  | .go _ => true

/-- The operands of a command can occur. -/
def Instr.wf : Instr → Bool
  | .gulaneFrame _ frame seen => decide (frame.length < 2 ^ 16) && seen.wf
  | .read _ t seen rival => t.wf && seen.wf && rival.all Txn.wf
  | .write _ t rival => t.wf && rival.all Txn.wf
  | .doorbell _ t => t.wf
  | .auditPass seen cycles => seen.wf && countWf cycles
  | .packetArrive _ bytes _ _ => packetWf bytes
  | .credit _ bytes => packetWf bytes
  | .timestampReq _ bytes => packetWf bytes
  | .timestampRsp _ bytes => packetWf bytes
  | .bpmRequest _ _ n => countWf n
  | .native _ k _ => k.wf
  | .anchored _ k _ => k.wf
  | .fast _ k _ => k.wf
  | .exponent _ _ k => k.wf
  | .scanOffset _ k _ => k.wf
  | .result _ k => k.wf
  | .inPkt _ k _ => k.wf
  | .part _ k _ => k.wf
  | .endPkt _ k => k.wf
  | .barrierArrive k => k.wf
  | .coll _ x _ => x.wf
  | .load _ x _ => x.wf
  | .loadRowSelection _ x _ => x.wf
  | .loadListin _ x _ => x.wf
  | .store _ x _ => x.wf
  | .send _ x _ => x.wf
  | .scrub _ x cycles => x.wf && countWf cycles
  | .railSample rails act => rails.length == 18 && act.length == 8
  | .samplePreload pins cells => pins.length == cells.length
  | .extest pins cells => pins.length == cells.length
  | .optStep _ w cycles => w.wf && countWf cycles
  | .agtSendState _ w cycles => w.wf && countWf cycles
  | .agtDigest _ w cycles => w.wf && countWf cycles
  | .refresh _ cycles => countWf cycles
  | .validationEnd cycles => countWf cycles
  | .progLoadEnd cycles => countWf cycles
  | .retrainEnd _ _ cycles => countWf cycles
  | .repairCopyEnd _ cycles => countWf cycles
  | .tgDone _ _ errs cycles => (errs.all fun e => decide (e < 2 ^ 32)) && countWf cycles
  | .ctxSwitch _ _ cycles => countWf cycles
  | .traceRecordWrite _ cycles => countWf cycles
  | _ => true

end Sys2Proof
end

