-- ==== Sys2Proof/Tests/Slice0.lean ====
section
/-! SUPPORT. Tests. For each statement that has hypotheses, a theorem wit_<statement> (of a statement in parts,
wit_<statement>_<part>) shows states and operands that meet them, for each clause; the theorems test_… are worked examples of the
manual, single steps, and operands that WellFormed refuses. -/

open Sys2Proof Sys2Proof.Machine
def nx (o : Host.Outcome State Fault Refusal) : State := match o with | .next u => u | _ => State.reset
def isNx (o : Host.Outcome State Fault Refusal) (t : State) : Bool := match o with | .next u => decide (u = t) | _ => false
namespace Sys2Proof.Tests

set_option Elab.async false

def blank : State := { State.reset with regs := [] }
def regsSet (l : List (Nat × Nat)) (s : State) : State := l.foldl (fun s w => wn w.1 w.2 s) s
def up (l : List (Nat × Nat)) : State := regsSet ([(A.dkFuncState (fnGul 0), 2), (A.dkFuncState (fnGul 1), 2)] ++ l) blank
def held (l : List (Nat × Nat)) : State := { up l with ks := { Keystone.reset with holder := some 0, die1 := some 0, ticket := 7, lease := 9 } }
/-- One window of context x that lets everything read and write a MiB from the start of the data range. -/
def win (x : Nat) : List (Nat × Nat) :=
  [(A.ctxLive x 0, 0x3F), (A.ctxLive x 0 + 4, 0x10), (A.ctxLive x 0 + 8, 0x100000), (A.ctxLive x 0 + 12, 0x10), (A.ctxLive x 0 + 0x1000, 0x10000)]
def onCtx (x : Nat) : List (Nat × Nat) := [(A.dkFuncState (fnCtx x), 2)]
def winUp : State := up (onCtx 3 ++ win 3)
def rdT (a n : Nat) : Txn := { op := 1, tag := 9, len := n, ctx := 3, addr := a, data := (List.range n).map (BitVec.ofNat 8) }
/-- A tree's edge: member or link, slot, rank and records. -/
def edgeB (member : Bool) (slot rank esr pesr : Nat) : List Byte :=
  leBytes 1 (if member then 3 else 1) ++ leBytes 1 0 ++ leBytes 2 slot ++ leBytes 4 rank ++ leBytes 4 esr ++ leBytes 4 pesr
/-- A tree's entry: job 6, context 3, one RSE 9, its up edge, and two down edges: member 1, and the link of slot 18. -/
def treeB (up : List Byte) (rbuf : Nat) : List Byte :=
  leBytes 1 1 ++ leBytes 1 1 ++ leBytes 2 6 ++ leBytes 1 3 ++ leBytes 1 2 ++ leBytes 1 0 ++ leBytes 1 4 ++ leBytes 2 1 ++ leBytes 2 rbuf ++ leBytes 4 2 ++
    leBytes 1 9 ++ List.replicate 15 0 ++ up ++ edgeB true 0 1 300 400 ++ edgeB false 18 0 500 600
def upLink : List Byte := edgeB false 17 0 100 200
def noUp : List Byte := List.replicate 16 0
/-- Where the entry of tree 5 stands. -/
def treeAddr : Nat := hbmBase + 0x20000000 + 1024 * 5
/-- Memory in which tree 5 of version 0 stands, and records 300, 500 and 101, of its edges, are open. -/
def treeMem (up : List Byte) (ordered : Bool) : List Host.Cell :=
  (srWrite 101 clCollDn 3 4 400 6 64 (srWrite 500 clCollUp 3 4 400 6 64 (srWrite 300 clCollUp 3 4 400 6 64
    (hbmWr (treeAddr + 6) (leBytes 1 (b2n ordered)) (hbmWr treeAddr (treeB up 1024) (regsSet [(A.rtSrBase 0, 0x30000000), (A.rtSrBase 1, 0x10)] blank)))))).hbm
/-- A state with a memory, and with the tree table at its place. -/
def withMem (m : List Host.Cell) (s : State) : State :=
  { regsSet [(A.rtTreeBase 0 0, 0x20000000), (A.rtTreeBase 0 1, 0x10)] s with hbm := m }
theorem hbm_mem (m : List Host.Cell) (s : State) : (withMem m s).hbm = m := rfl
/-- Tree 5 of version 0 stands in a state. -/
def withTreeO (up : List Byte) (ordered : Bool) (s : State) : State := withMem (treeMem up ordered) s
def withTree (up : List Byte) (s : State) : State := withTreeO up false s
def tree5 (up : List Byte) : Tree := treeOf 0 5 (treeB up 1024)
def treeO (up : List Byte) (ordered : Bool) : Tree := { tree5 up with ordered := ordered }
/-- The bytes of tree 5's entry. -/
def entryB (up : List Byte) (ordered : Bool) : List Byte := smGetAll hbmUnlisted (treeMem up ordered) treeAddr 1 1024
theorem entry_noUp : treeFieldsOk (entryB noUp false) = true ∧ treeOf 0 5 (entryB noUp false) = treeO noUp false := by decide +kernel
theorem entry_up : treeFieldsOk (entryB upLink false) = true ∧ treeOf 0 5 (entryB upLink false) = treeO upLink false := by decide +kernel
theorem entry_ordered : treeFieldsOk (entryB upLink true) = true ∧ treeOf 0 5 (entryB upLink true) = treeO upLink true := by decide +kernel
theorem treeEntry_gen {s : State} {a : Nat} {m : List Host.Cell} {x : List Byte} {t : Tree} (hb : rn64 s (A.rtTreeBase 0 0) = a) (ha : a ≠ 0) (hm : s.hbm = m)
    (hx : smGetAll hbmUnlisted m (a + 1024 * 5) 1 1024 = x) (h : treeFieldsOk x = true ∧ treeOf 0 5 x = t) : treeEntry s 0 5 = some t := by
  have hh : treeBytes s 0 5 = some x := by
    unfold treeBytes hbmRd
    simp only [hb, hm, ha, if_false, hx]
  unfold treeEntry
  rw [hh]
  simp only [h.1, h.2, if_true]
theorem hbm_take (a : Arrived) (s : State) : (takeArrived a s).hbm = s.hbm := rfl
theorem hbm_tree (up : List Byte) (o : Bool) (s : State) : (withTreeO up o s).hbm = treeMem up o := hbm_mem (treeMem up o) s
theorem noFit_take (a : Arrived) (s : State) : (takeArrived a s).fab.noFit = s.fab.noFit := rfl
theorem treeEntry_of {s : State} {up : List Byte} {o : Bool} {t : Tree} (he : treeFieldsOk (entryB up o) = true ∧ treeOf 0 5 (entryB up o) = t)
    (hm : s.hbm = treeMem up o) (hb : rn64 s (A.rtTreeBase 0 0) = hbmBase + 0x20000000) : treeEntry s 0 5 = some t :=
  treeEntry_gen hb (by decide) hm (by unfold entryB treeAddr; rfl) he
theorem treeAt_of {s : State} {up : List Byte} {o : Bool} {t : Tree} (he : treeFieldsOk (entryB up o) = true ∧ treeOf 0 5 (entryB up o) = t)
    (hm : s.hbm = treeMem up o) (hb : rn64 s (A.rtTreeBase 0 0) = hbmBase + 0x20000000) (hn : s.fab.noFit = []) : treeAt s 0 5 = some t := by
  unfold treeAt
  rw [hn, if_neg (by simp)]
  exact treeEntry_of he hm hb
theorem packetTree_of {s : State} {b : List Byte} {up : List Byte} {o : Bool} {t : Tree}
    (he : treeFieldsOk (entryB up o) = true ∧ treeOf 0 5 (entryB up o) = t) (hm : s.hbm = treeMem up o)
    (hb : rn64 s (A.rtTreeBase 0 0) = hbmBase + 0x20000000) (hn : s.fab.noFit = [])
    (h : pkEpoch b = 0 ∧ opTree b = 5 ∧ t.job = pkJob b) : packetTree s b = some t := by
  unfold packetTree
  rw [h.1, h.2.1, treeAt_of he hm hb hn]
  simp [h.2.2]
/-- A control packet of an opcode on tree 5, CSEQ 8. -/
def ctrlPk (op src : Nat) (rec_ : List Byte) : List Byte :=
  mkPacket { epoch := 0, cls := clCtrl, op := op, src := src, job := 6, oparg := collArg 5 8 } rec_
/-- A packet has arrived. -/
def inbox (at_ src : Nat) (b : List Byte) (s : State) : State := { s with fab := { s.fab with inbox := [⟨at_, src, b⟩] } }
theorem hbm_inbox (k src : Nat) (b : List Byte) (s : State) : (inbox k src b s).hbm = s.hbm := rfl
def arr (s : State) : Arrived := s.fab.inbox.getD 0 ⟨0, 0, []⟩
/-- A command of 64 bytes: its OP, and fields as offset, length and value. -/
def cmdB (op : Nat) (l : List (Nat × Nat × Nat)) : List Byte :=
  l.foldl (fun b f => patch b f.1 (leBytes f.2.1 f.2.2)) (leBytes 1 op ++ List.replicate 63 0)
/-- A command of context 3 that runs. -/
def runB (b : List Byte) : RunCmd := { bytes := b, seq := 1, ctx := 3, sig := none, seed := 0, ver := 0 }
/-- Context 3 is resident on pier p, whose engine e runs a command. -/
def running (p e : Nat) (r : RunCmd) (s : State) : State :=
  { s with pr := { s.pr with piers := [(p, { Pier.reset with resident := some 3, engs := [(e, { Eng.reset with running := some r })] })] } }
/-- Context 3 is ON, with a window over the first MiB after the image store, stream records 32 to 63, and their table. -/
def ctx3 : List (Nat × Nat) :=
  onCtx 3 ++ [(A.ctxLive 3 0, 0x2000003F), (A.ctxLive 3 0 + 4, 0x10), (A.ctxLive 3 0 + 8, 0x20100000), (A.ctxLive 3 0 + 12, 0x10),
    (A.ctxLive 3 0 + 0x1000, 0x10006), (A.ctxLive 3 0 + 0x100C, 32), (A.ctxLive 3 0 + 0x1010, 32), (A.rtSrBase 0, 0x30000000), (A.rtSrBase 1, 0x10)]

theorem wit_StepRunsFront : (let s : State := { blank with pending := [.pwrEnDeassert, .idcode] }; s.pending = .pwrEnDeassert :: [.idcode]) ∧ blank.pending = [] := ⟨rfl, rfl⟩
theorem wit_CanonicalKept : Canonical blank ∧ ∃ t, step { blank with pending := [.idcode] } = .next t :=
  ⟨⟨by decide +kernel, by decide +kernel, by decide +kernel⟩, _, rfl⟩
theorem wit_KeystoneSoundKept : KsInv (held []).ks ∧ ∃ t, step { held [] with pending := [.die1RecordUpdate] } = .next t :=
  ⟨⟨by decide +kernel, by decide +kernel, by decide +kernel, by decide +kernel⟩, _, rfl⟩
theorem wit_OnlyTheseMoveTheKeystone : movesKeystone .idcode = false ∧ waitsAtKeystone .idcode = false ∧ ∃ t, exec .idcode (held []) = .next t :=
  ⟨rfl, rfl, _, rfl⟩
theorem wit_SignerSlotsOnlyBurn : ∃ t, step { held [] with pending := [.enrollEnd] } = .next t := ⟨_, rfl⟩
theorem wit_StepKeepsFusesQueueAndSent : ∃ t, step { held [] with pending := [.idcode, .bypass] } = .next t := ⟨_, rfl⟩
/-- The power path in a state of the sequencer. -/
def pw (q : SeqState) (f : PowerPath → PowerPath) (s : State) : State := { s with pwr := f { s.pwr with seq := q } }
theorem wit_PowerUpCommands : (pw .off (fun w => { w with housekeeping := false }) blank).pwr.housekeeping = false ∧
    (∀ q ∈ [SeqState.off, .qualify], let s := pw q (fun w => { w with housekeeping := true, latched := false }) blank
      s.pwr.housekeeping = true ∧ s.pwr.latched = false ∧ (s.pwr.seq = .off ∨ s.pwr.seq = .qualify)) ∧
    (∃ k : Fin 18, (pw .ramping id blank).pwr.seq = .ramping ∧ k.val ∈ railsStarted (pw .ramping id blank).pwr.railsUp) ∧
    (pw .powerGood id blank).pwr.seq = .powerGood ∧ (pw .fault (fun w => { w with pwrEn := false }) blank).pwr.pwrEn = false ∧
    SmWf regReset (pw .powerGood id blank).regs := by decide +kernel
theorem wit_PowerRemovalAndFullReset_PowerRemovalCommands : ∀ q ∈ [SeqState.ramping, .powerGood], (pw q id blank).pwr.seq = .ramping ∨ (pw q id blank).pwr.seq = .powerGood := by decide +kernel
theorem wit_PowerRemovalAndFullReset_FullResetCommands : SmWf regReset (up []).regs ∧ (let s := wn A.clkStatus 0xD0000000 (pw .powerGood (fun w => { w with inReset := true }) blank)
    s.pwr.inReset = true ∧ s.pwr.resetDue = false ∧ rbit s A.clkStatus 31 = true ∧ SmWf regReset s.regs) := by decide +kernel
def booting (l : List (Nat × Nat)) : State := pw .powerGood (fun w => { w with inReset := false }) (regsSet l blank)
theorem wit_ViaductAndBoot_ViaductCommands : (booting [(A.dkBootStatus, 0)]).pwr.inReset = false ∧ stage (booting [(A.dkBootStatus, 0)]) = 0 := by decide +kernel
theorem wit_ManagementBusAndTestPort_ManagementBusCommands : (pw .powerGood (fun w => { w with housekeeping := true }) blank).pwr.housekeeping = true := rfl
theorem wit_ViaductAndBoot_BootCommands : (let s := booting [(A.dkBootStatus, 0), (A.dkViaductStatus, 1)]
      s.pwr.inReset = false ∧ stage s = 0 ∧ rbit s A.dkViaductStatus 0 = true ∧ SmWf regReset s.regs) ∧
    (let s := held [(A.dkBootStatus, stFwWait)]; Holds s 0 ∧ stage s = stFwWait) ∧ stage (held [(A.dkBootStatus, stFwCheck)]) = stFwCheck := by decide +kernel
theorem wit_SignerAndAttestationCommands : (let s := held [(A.dkBootStatus, stRunning)]; Holds s 0 ∧ stage s = stRunning ∧ s.mg.enroll = none) ∧
    (let s := { held [] with mg := { (held []).mg with enroll := some (0, [1]), att := [(1, [2])] } }; s.mg.enroll = some (0, [1]) ∧ smGet [] s.mg.att 1 ≠ []) ∧
    (portReady (up []) 1 = true ∧ rbit (up []) (A.dkAttCtrl 1) 0 = false) := by decide +kernel
theorem wit_KeystoneCommands_KeystoneAcquire : (let s := up []; portReady s 0 = true ∧ portReady s 1 = true ∧ s.ks.holder = none ∧ s.ks.holdOff = false ∧ SmWf regReset s.regs) ∧
    (held []).ks.holder = some 0 ∧ portReady (held []) 0 = true ∧ portReady (held []) 1 = true ∧
    (let s := { up [] with ks := { (up []).ks with holdOff := true } }; portReady s 0 = true ∧ portReady s 1 = true ∧ s.ks.holder = none ∧ s.ks.holdOff = true) := by decide +kernel
theorem wit_TicketRisesAtEveryGrant : ∀ k ∈ [0, 0xFFFF], let s := { up [] with ks := { (up []).ks with ticket := k } }
    portReady s 1 = true ∧ s.ks.holder = none ∧ s.ks.holdOff = false ∧ (nx (exec (.ksAcquire (.one 1)) s)).ks.holder ≠ none ∧
      isNx (exec (.ksAcquire (.one 1)) s) (nx (exec (.ksAcquire (.one 1)) s)) = true := by decide +kernel
theorem wit_KeystoneCommands_KeystoneControl : (let s := held []; portReady s 0 = true ∧ s.ks.holder = some 0 ∧ (7#16).toNat = s.ks.ticket ∧ (8#16).toNat ≠ s.ks.ticket ∧ portReady s 1 = true ∧ s.ks.holder ≠ some 1) := by decide +kernel
theorem wit_KeystoneCommands_KeystoneTimers : (held []).ks.holder ≠ none ∧ (let s := { up [] with ks := { (up []).ks with holdOff := true } }; s.ks.holdOff = true ∧ s.ks.waiting = []) ∧
    (let s := { up [] with ks := { (up []).ks with holdOff := true, waiting := [(1, .read A.ksAcquire)] } }; portOn s 1 = true ∧ portWaits s 1 = true) := by decide +kernel
theorem wit_ProtectionCommands : ∀ k ∈ [psIdle, psChecking, psPending], let s := held [(A.ksProtStatus, k)]; portReady s 0 = true ∧ s.ks.holder = some 0 ∧ protState s = k ∧
    (k = psIdle → protState (wn A.ksProtCtrl 2 s) = psIdle) := by decide +kernel
theorem wit_ProtectionCommands_ProtectionSteps : protState (held [(A.ksProtStatus, psChecking)]) = psChecking ∧ (let s := held [(A.ksProtStatus, psPending)]; protState s = psPending ∧ s.prot.copyDue = false ∧ SmWf regReset s.regs) ∧
    tstSpent (held []) actAudit 16 = false ∧ tstSpent { held [] with tst := [(32 * actAudit + 16, 450)] } actAudit 16 = true := by decide +kernel

/-- Port 0 is ON, alone and as the holder. -/
theorem wit_RegisterAccesses_RegisterWritesByAccessCode : portReady (up []) (1 - 0) = true ∧
    (portReady (up []) 0 = true ∧ SmWf regReset (up []).regs ∧ spareState (up []) ≠ spLoading ∧ (up []).ks.holder ≠ some 0 ∧
      regAt (up []) (5 : BitVec 32).toNat = none ∧ (2147483648 : Word) = BitVec.ofNat 32 (2 ^ 31)) ∧
    (portReady (held []) 0 = true ∧ SmWf regReset (held []).regs ∧ spareState (held []) ≠ spLoading ∧ (held []).ks.holder = some 0) := by
  decide +kernel

theorem wit_ReadsThatClear : ∀ a ∈ [A.dkViaductCorr, A.trcDropped 15], portReady (up [(a, 77)]) 0 = true ∧ portReady (up [(a, 77)]) 1 = true ∧
    SmWf regReset (up [(a, 77)]).regs ∧ (regAt (up [(a, 77)]) (BitVec.ofNat 32 a).toNat).map (fun r => r.1.fields) = some [⟨31, 0, .rc, 0⟩] := by
  decide +kernel
theorem wit_RegisterAccesses_ReadsThatLatch : portReady (up []) 1 = true := by decide +kernel

theorem wit_HbmTransactions : ∀ a ∈ [hbmBase + 4092, hbmBase + 0x100000 - 4, hbmBase + 0x100000],
    portReady winUp 0 = true ∧ Memory.wf winUp.hbm ∧ winUp.ks.waiting = [] ∧ (rdT a 4).status = 0 ∧ (rdT a 4).flags = 0 ∧
      (rdT a 4).addr % 4 = 0 ∧ (rdT a 4).addr % 4096 + 4 ≤ 4096 ∧ hbmBase ≤ a ∧ a < hbmEnd ∧ mapped winUp a = true ∧
      isOn winUp (fnCtx 3) = true ∧ quiesced winUp a 4 = false ∧ (rdT a 4).data.length = (rdT a 4).len ∧
      winOk winUp 3 a 4 .gr = decide (a < hbmBase + 0x100000) ∧ winOk winUp 3 a 4 .gw = decide (a < hbmBase + 0x100000) ∧
      badWord winUp a 4 = none := by
  decide +kernel
def dbT (n : Nat) : Txn := { op := 3, tag := 9, len := 8, ctx := 0xFF, addr := A.ctxDb 3 2, data := leBytes 4 n ++ leBytes 4 0 }
theorem wit_DoorbellsAndFrames_Doorbells : ∀ n ∈ [4, 5], let s := up (onCtx 3 ++ [(A.ctxWqCfg 3 2, 2)])
    portReady s 1 = true ∧ s.ks.waiting = [] ∧ (dbT n).flags = 0 ∧ (dbT n).status = 0 ∧ (dbT n).ctx = 0xFF ∧ (dbT n).len = 8 ∧
      doorbellAt (dbT n).addr = some (3, 2) ∧ le (dbT n).data 0 4 = n ∧ le (dbT n).data 4 4 = 0 ∧ isOn s (fnCtx 3) = true ∧
      ((rn s (A.ctxDb 3 2) + 2 ^ 32 - rn s (A.ctxWqCons 3 2)) % 2 ^ 32 + n ≤ 2 ^ rf s (A.ctxWqCfg 3 2) 4 0) = (n = 4) := by
  decide +kernel
/-- A frame of 64 bytes of an EtherType, whose first transaction reads the register at address 8. -/
def frame (ty : Nat) : List Byte :=
  let h := leBytes 6 0 ++ leBytes 6 1 ++ [BitVec.ofNat 8 (ty / 256), BitVec.ofNat 8 ty] ++ leBytes 4 1 ++ leBytes 4 (4 + 0xFF0000) ++ leBytes 8 8 ++ List.replicate 30 0
  h ++ ethFcs h
theorem wit_DoorbellsAndFrames_GulaneFrames : portReady (up []) 0 = true ∧ frameGood (frame 0x88B5) = true ∧ be (frame 0x88B5) 12 2 = rf (up []) (A.gulCfg 0) 15 0 ∧
    be (frame 0x88B5) 12 2 ≠ 0x88F7 ∧ frameGood (frame 0x88F7) = true ∧ be (frame 0x88F7) 12 2 = 0x88F7 ∧ frameGood [] = false ∧
    frameGood (frame 0x800) = true ∧ be (frame 0x800) 12 2 ≠ rf (up []) (A.gulCfg 0) 15 0 ∧ be (frame 0x800) 12 2 ≠ 0x88F7 := by
  decide +kernel

def holder0 (l : List (Nat × Nat)) : State := held l
theorem wit_ImageCommands_ImageControl : 
    (let s := held [(A.dkBootStatus, 5)]; portReady s 0 = true ∧ s.ks.holder = some 0 ∧ SmWf regReset s.regs ∧ stage s = stRunning ∧
      loading s = false ∧ imgState s ≠ imArmed) ∧
    (let s := held [(A.dkBootStatus, 5), (A.dkImgStatus, 1)]; portReady s 0 = true ∧ s.ks.holder = some 0 ∧ SmWf regReset s.regs ∧
      stage s = stRunning ∧ loading s = true ∧ imgState s = imValidating ∧ s.img.prior < 16) ∧
    (let s := { held [(A.dkImgStatus, 4)] with armed := some { digest := [], serial := 1, types := [secTurnstile, secSpans] } }
     portReady s 0 = true ∧ s.ks.holder = some 0 ∧ SmWf regReset s.regs ∧ imgState s = imArmed ∧ (s.sect.Pairwise fun x y => x.1 < y.1) ∧
       s.armed = some { digest := [], serial := 1, types := [secTurnstile, secSpans] } ∧ doubleVersioned secSpans = true ∧ secSpans ≠ secRseprog) := by
  decide +kernel
theorem wit_ImageCommands_ImageLoads : (SmWf regReset (held [(A.dkImgStatus, 1)]).regs ∧ imgState (held [(A.dkImgStatus, 1)]) = imValidating ∧
      badWord (held [(A.dkImgStatus, 1)]) hbmBase (rn (held [(A.dkImgStatus, 1)]) A.dkImgLen) = none) ∧
    SmWf regReset (held [(A.dkImgStatus, 2)]).regs ∧ imgState (held [(A.dkImgStatus, 2)]) = imCommitting := by
  decide +kernel

def le4 (n : Nat) : List Byte := leBytes 4 n
/-- A POOLS section: four buffers of 256 bytes and none larger, for requests of at most 256 bytes, with a quota of two buffers for each requester. -/
def poolBytes : List Byte :=
  leBytes 4 4 ++ List.replicate 16 0 ++ List.replicate 4 0 ++ leBytes 8 0x1100000000 ++ (List.replicate 7 (le4 256)).flatten ++ List.replicate 4 0 ++
    (List.replicate 448 (le4 512)).flatten
/-- The pool manager in a mode, with one free buffer at the head of its list and in its cache. -/
def pooled (mode : Nat) : State :=
  let s := held [(A.bpmStatus, mode), (A.bpmMetaBase 1, 0x12), (A.bpmFree 0, 1)]
  let h := handleOf 0 0x1100000000
  let s := hbmWr 0x1100000000 (leBytes 8 0 ++ leBytes 8 (h ^^^ selfMask)) { s with sect := [(2 * secPools, poolBytes)] }
  { s with fab := { s.fab with bpm := { s.fab.bpm with head := [(0, h)], cache := [(0, [h])] } } }
/-- The same, with the second buffer owned by requester 7 * 3 + 2. -/
def owning (mode : Nat) : State := 
  let s := pooled mode
  putOwner (handleOf 0 0x1100000100) (0x8000 + 23) (wn (useAt 23) 256 s)
def bufH : BitVec 64 := BitVec.ofNat 64 (handleOf 0 0x1100000100)
def waits23 (s : State) : State := { s with fab := { s.fab with bpm := { s.fab.bpm with waiting := [{ req := 23, size := 256 }] } } }
/-- A buffer is waited for: by a retransmit copy of record 9, or by the service request in place 2 of context 3. -/
def waitsCopy : State :=
  let s := pooled 1
  { s with fab := { s.fab with
      bpm := { s.fab.bpm with waiting := [{ req := 23, size := 256, rcd := some 9 }] }
      txWait := [{ rcd := 9, req := 23, src := 0, bytes := [] }] } }
def reqIn (slot : Nat) : SvcReq :=
  { ctx := 3, queue := 1, num := 0, bytes := List.replicate 128 0, slot := slot, stage := 1, status := none, result := none, complete := false
    pier := 0, desc := [], ver := 0, seq := 0, todo := [], pos := 0, buf := none }
def waitsReq : State :=
  let s := pooled 1
  { s with
    fab := { s.fab with bpm := { s.fab.bpm with waiting := [{ req := 27, size := 256, place := some 2 }] } }
    svc := { s.svc with reqs := [reqIn 2] } }
theorem wit_PoolManagerCommands_served : ∀ s ∈ [waitsCopy, waitsReq], ∀ w ∈ s.fab.bpm.waiting,
    s.fab.bpm.waiting.find? (fun w => poolFor (pools s) w.size == some 0) = some w ∧ bpmCan s w.req 0 = true ∧
      (bpmServe w.req 0 s).1.isSome = true ∧
      (w.rcd = some 9 → ((bpmServe w.req 0 s).2.fab.txWait.find? fun x => x.rcd == 9).isSome = true) ∧
      (w.rcd = none → reqAtPlace (bpmServe w.req 0 s).2 (w.req / 7) 2 = some (reqIn 2) ∧ (reqIn 2).status = none ∧ (reqIn 2).buf = none) := by
  decide +kernel
/-- During a switch, the returns held are as many as the return buffer takes, or fewer. -/
def heldReturns (n : Nat) : State :=
  let s := owning 5
  { s with fab := { s.fab with bpm := { s.fab.bpm with returns := List.replicate n (23, 0) } } }
theorem wit_PoolManagerCommands_full : bpmSwitching (heldReturns 512) = true ∧ 512 ≤ (heldReturns 512).fab.bpm.returns.length ∧
    (heldReturns 511).fab.bpm.returns.length < 512 ∧ returnFails (heldReturns 511) 23 bufH.toNat = none ∧
    bpmSwitching (heldReturns 511) = true ∧ badWord (heldReturns 511) (ownerAt (heldReturns 511) (handlePool bufH.toNat) (handleIdx (heldReturns 511) bufH.toNat)) 2 = none := by
  decide +kernel
theorem wit_PoolManagerCommands :
    (256 ≤ poolMaxReq (pools (pooled 1)) 2 ∧ (bpmAlloc 23 256 (pooled 1)).1.isSome = true ∧ (bpmAlloc 23 256 (pooled 2)).1.isSome = true) ∧
    ((bpmAlloc 23 256 (pooled 5)).1 = none) ∧
    ((waits23 (pooled 1)).fab.bpm.waiting.find? (fun w => poolFor (pools (waits23 (pooled 1))) w.size == some 0) = some { req := 23, size := 256 } ∧
      bpmCan (waits23 (pooled 1)) 23 0 = true ∧ (bpmServe 23 0 (waits23 (pooled 1))).1.isSome = true) ∧
    (returnFails (owning 1) 23 bufH.toNat = none ∧ bpmSwitching (owning 1) = false ∧ returnFails (owning 5) 23 bufH.toNat = none ∧
      bpmSwitching (owning 5) = true) ∧
    (badWord (owning 1) (ownerAt (owning 1) (handlePool bufH.toNat) (handleIdx (owning 1) bufH.toNat)) 2 = none ∧ bpmSwitching (owning 1) = false ∧
      returnFails (owning 1) 22 bufH.toNat = some 5 ∧ returnFails (pooled 1) 23 bufH.toNat = some 4) ∧
    (let s := putLow (A.bpmMetaBase 0) 0 (pooled 0)
     portReady s 0 = true ∧ s.ks.holder = some 0 ∧ bpmMode s = bmNone ∧ sect s secPools ≠ [] ∧ metaOk s (pairValue s (A.bpmMetaBase 0) 0x12) = true) ∧
    (bpmMode (pooled 1) = bmList ∧ bpmMode (pooled 2) = bmRing ∧ bpmSwitching (pooled 2) = false) ∧
    (bpmSwitching (pooled 6) = true ∧ (pooled 6).fab.bpm.returns = [] ∧ (pooled 6).fab.bpm.stalled = [] ∧ SmWf regReset (pooled 6).regs) := by
  decide +kernel

theorem wit_EpochCommands :
    (let s := held []; portReady s 0 = true ∧ s.ks.holder = some 0 ∧ flipRefused s = false ∧ oldLive s = false ∧ SmWf regReset s.regs ∧
      rn64 s (A.rtTreeBase 0 0) = 0 ∧ rn64 s (A.rtTreeBase 1 0) = 0 ∧ s.net.progLoad = none ∧ s.fab.inject = [] ∧ s.net.ops = [] ∧ s.net.strm = [] ∧ s.pr.piers = [] ∧
      s.mem.repairs = [] ∧ s.armed = none ∧ spareState s ≠ spLoading ∧ s.sect.Pairwise (fun a b => a.1 < b.1)) ∧
    (let s := held [(A.rtEpochStatus, 2)]; portReady s 0 = true ∧ s.ks.holder = some 0 ∧ flipRefused s = true ∧ oldLive s = true ∧ oldInflight s = 0) := by
  decide +kernel
def barS (kind u src : Nat) (up : List Byte) : State := inbox u src (ctrlPk opBarrier 2 (barrierRecord kind 4 0 0)) (withTree up (held []))
def bar0 (s : State) (b : Barrier) : State := { s with net := { s.net with barriers := [b] } }
def bs1 : State := barS 1 128 18 noUp
def bs2 : State := barS 2 128 17 upLink
def bs3 : State := barS 2 127 17 upLink
def bs4 : State := bar0 (barS 3 128 18 noUp) (newBar (tree5 noUp) 8)
theorem wit_BarrierCommands_tree : packetTree (takeArrived (arr bs1) bs1) (arr bs1).bytes = some (treeO noUp false) ∧
    packetTree (takeArrived (arr bs2) bs2) (arr bs2).bytes = some (treeO upLink false) ∧
    packetTree (takeArrived (arr bs3) bs3) (arr bs3).bytes = some (treeO upLink false) ∧
    packetTree (takeArrived (arr bs4) bs4) (arr bs4).bytes = some (treeO noUp false) := by
  have m (a : Arrived) (s : State) (k u src : Nat) (up : List Byte) (h : s = barS k u src up) : (takeArrived a s).hbm = treeMem up false := by
    rw [h]; simp only [barS, withTree, hbm_take, hbm_inbox, hbm_tree]
  have m4 (a : Arrived) (s : State) (k u src : Nat) (up : List Byte) (b : Barrier) (h : s = bar0 (barS k u src up) b) : (takeArrived a s).hbm = treeMem up false := by
    rw [h]; simp only [bar0, barS, withTree, hbm_take, hbm_inbox, hbm_tree]
  exact ⟨packetTree_of entry_noUp (m _ bs1 1 128 18 noUp (by unfold bs1; rfl)) (by decide +kernel) (by decide +kernel) (by decide +kernel),
    packetTree_of entry_up (m _ bs2 2 128 17 upLink (by unfold bs2; rfl)) (by decide +kernel) (by decide +kernel) (by decide +kernel),
    packetTree_of entry_up (m _ bs3 2 127 17 upLink (by unfold bs3; rfl)) (by decide +kernel) (by decide +kernel) (by decide +kernel),
    packetTree_of entry_noUp (m4 _ bs4 3 128 18 noUp _ (by unfold bs4; rfl)) (by decide +kernel) (by decide +kernel) (by decide +kernel)⟩
theorem wit_BarrierCommands :
    (let s := bs1; pkCheckOk (arr s).bytes = true ∧
      barrierAt s 1 = some (arr s) ∧ downEdge (treeO noUp false) (arr s) = some 1 ∧ findBar (takeArrived (arr s) s) 5 (opCseq (arr s).bytes) = none) ∧
    (let b : Barrier := { newBar (tree5 noUp) 8 with arrived := [1] }; let s := bar0 bs1 b
     barrierAt s 1 = some (arr s) ∧ findBar (takeArrived (arr s) s) 5 (opCseq (arr s).bytes) = some b ∧ b.fired = false) ∧
    (let s := bs2; pkCheckOk (arr s).bytes = true ∧ barrierAt s 2 = some (arr s) ∧ findBar (takeArrived (arr s) s) 5 (opCseq (arr s).bytes) = none) ∧
    (let s := bs3; arrivedAt s 127 (fun b => pkOp b == opBarrier && brKind (pkPayload b) == 2) = some (arr s)) ∧
    (let s := bs4; barrierAt s 3 = some (arr s) ∧
       findBar (takeArrived (arr s) s) 5 (opCseq (arr s).bytes) = some (newBar (tree5 noUp) 8) ∧ downEdge (treeO noUp false) (arr s) = some 1) := by
  decide +kernel
/-- Barrier 8 of tree 5 with a release, at its START, in a context that may launch step barriers or may not. -/
def barT (fired priv : Bool) (start : Nat) : State × Barrier :=
  let b : Barrier := { newBar (tree5 upLink) 8 with release := some (4, start, 0), fired := fired }
  (bar0 { withTree upLink (held [(A.dkCollPriv 0, if priv then 8 else 0)]) with ft := 64 * 100 } b, b)
theorem barT_entry (f p : Bool) (n : Nat) (h : rn64 (barT f p n).1 (A.rtTreeBase 0 0) = hbmBase + 0x20000000) :
    treeEntry (barT f p n).1 (barT f p n).2.ver (barT f p n).2.tree = some (treeO upLink false) := by
  have hm : (barT f p n).1.hbm = treeMem upLink false := by simp only [barT, bar0, withTree, hbm_tree]
  exact treeEntry_of entry_up hm h
theorem barT_base : ∀ x ∈ [(false, false, 0), (false, true, 5), (true, false, 0)], rn64 (barT x.1 x.2.1 x.2.2).1 (A.rtTreeBase 0 0) = hbmBase + 0x20000000 ∧
    (barT x.1 x.2.1 x.2.2).1.fab.noFit = [] := by decide +kernel
theorem stepBarrier_eq {s : State} {b : Barrier} {t : Tree} (h : treeEntry s b.ver b.tree = some t) (r : Nat × Nat × Nat) (hr : b.release = some r) :
    stepBarrier s b = (collPriv s t.ctx && (r.2.1 != 0 || r.2.2 != 0 || (barLands s b.tree b.cseq).any fun q => cdLead q.2.desc != 0)) := by
  unfold stepBarrier
  rw [h, hr]
theorem wit_BarrierCommands_BarrierTimers_step : stepBarrier (barT false false 0).1 (barT false false 0).2 = false ∧
    stepBarrier (barT false true 5).1 (barT false true 5).2 = true := by
  constructor
  · rw [stepBarrier_eq (barT_entry false false 0 (by decide +kernel)) (4, 0, 0) rfl]
    decide +kernel
  · rw [stepBarrier_eq (barT_entry false true 5 (by decide +kernel)) (4, 5, 0) rfl]
    decide +kernel
theorem wit_BarrierCommands_BarrierTimers :
    (let (s, b) := barT false false 0; s.net.barriers = [b] ∧ s.pr.piers = [] ∧ b.release = some (4, 0, 0) ∧ b.fired = false ∧
      (pastStart s (startAt 0 0)).isSome = true) ∧
    (let (s, b) := barT false true 5; s.net.barriers = [b] ∧ b.release = some (4, 5, 0) ∧ (pastStart s (startAt 5 0)).isSome = true) ∧
    (let (s, b) := barT true false 0; s.net.barriers = [b] ∧ b.fired = true) := by
  decide +kernel

/-- A clock: the module's own time is 5,000 ns, the port of slot 17 is UP, and group 2 is in mode 1. -/
def clock (l : List (Nat × Nat)) : State :=
  { up ([(A.pgPortStatus 2, 2), (A.pgCfg 2, 1)] ++ l) with ft := 64 * 5000 }
theorem wit_FabricTimeAndHints_FabricTimeCommands :
    (let s := clock [(A.dkFtCfg, 17 * 2 ^ 16)]; ftGm s = false ∧ s.net.lock.req = none ∧ s.net.lock.missed < 4 ∧ ftParent s < 512 ∧ portUp s (ftParent s) = true ∧
      (stampIn s 17 0 (stampPacket 0 9 100 0 0)).isSome = true) ∧
    (let s := { clock [(A.dkFtCfg, 17 * 2 ^ 16)] with net := { Net.reset with lock := { Net.reset.lock with req := some 100, tseq := 10 } } }
     let b := stampPacket 1 9 200 100 210
     stampIn s 17 1 b = some b ∧ ftGm s = false ∧ ftParent s = 17 ∧ s.net.lock.req = some (be b 0x0C 8) ∧ (be b 3 1 + 1) % 256 = s.net.lock.tseq) := by
  decide +kernel
/-- An IEEE 1588 message of a type for domain 5, of sequence 3, whose time is 1 s and 500 ns. -/
def ptpMsg (type : Nat) (two : Bool) (tail : List Byte) : List Byte :=
  beBytes 1 type ++ [2] ++ beBytes 2 (44 + tail.length) ++ [5, 0] ++ beBytes 2 (if two then 0x200 else 0) ++ beBytes 12 0 ++
    List.replicate 10 7 ++ beBytes 2 3 ++ beBytes 2 0 ++ beBytes 6 1 ++ beBytes 4 500 ++ tail
/-- The source of the deck's time follows IEEE 1588 time on port 0. -/
def ptpClock (f : Ptp → Ptp) : State :=
  let s := clock [(A.dkFtCfg, 2 ^ 31 + 2 ^ 30 + 5 * 2 ^ 8), (A.dkFtStatus, 2 ^ 30)]
  { s with net := { s.net with ptp := f s.net.ptp } }
theorem atClock_iff {s : State} {p : GPort} {type : Nat} {b : List Byte} (h : (ftGm s = true ∧ ftPtp s = true) ∧
    (isOn s (fnGul p) = true ∧ rf s A.dkFtCfg 29 29 = p.val) ∧ rf s A.dkFtCfg 15 8 = ptpDomain b ∧ (be b 1 1 % 16 = 2 ∧ ptpType b = type) ∧
    (if type = 9 then 54 else 44) ≤ b.length) : AtClock s p type b := ⟨h.1, h.2.1, h.2.2.1, h.2.2.2.1, h.2.2.2.2⟩
theorem wit_FabricTimeAndHints_FabricTimeCommands_ptp :
    (AtClock (ptpClock id) 0 0 (ptpMsg 0 false []) ∧ ptpTwoStep (ptpMsg 0 false []) = false) ∧
    (AtClock (ptpClock id) 0 0 (ptpMsg 0 true []) ∧ ptpTwoStep (ptpMsg 0 true []) = true) ∧
    (let s := ptpClock fun x => { x with sync := some (List.replicate 10 7, 3, 900, 0) }
     let m := ptpMsg 8 false []
     AtClock s 0 8 m ∧ s.net.ptp.sync = some (ptpSource m, ptpSeq m, 900, 0)) ∧
    (let s := ptpClock fun x => { x with req := some (3, 950), times := some (List.replicate 10 7, 800, 900) }
     let m := ptpMsg 9 false (ptpSelf s 0)
     AtClock s 0 9 m ∧ s.net.ptp.req = some (ptpSeq m, 950) ∧ s.net.ptp.times = some (ptpSource m, 800, 900) ∧ slice m 44 10 = ptpSelf s 0 ∧
       rf s A.dkFtStatus 31 30 = ftAcquire ∧ s.net.lock.good = 0 ∧ SmWf regReset s.regs) :=
  ⟨⟨atClock_iff (by decide +kernel), by decide +kernel⟩, ⟨atClock_iff (by decide +kernel), by decide +kernel⟩,
    ⟨atClock_iff (by decide +kernel), by decide +kernel⟩, atClock_iff (by decide +kernel), by decide +kernel⟩
def hintS (u : Nat) : State := inbox u 18 (ctrlPk opHint 2 (criticalRecord 6 1000)) (withTree upLink (held []))
theorem wit_FabricTimeAndHints_HintCommands_tree : packetTree (takeArrived (arr (hintS 128)) (hintS 128)) (arr (hintS 128)).bytes = some (treeO upLink false) :=
  packetTree_of entry_up (by simp only [hintS, withTree, hbm_take, hbm_inbox, hbm_tree]) (by decide +kernel) (by decide +kernel) (by decide +kernel)
theorem wit_FabricTimeAndHints_HintCommands :
    (let s := hintS 128; arrivedAt s 128 (fun b => pkOp b == opHint) = some (arr s) ∧ pkCheckOk (arr s).bytes = true) ∧
    (let s := hintS 127; arrivedAt s 127 (fun b => pkOp b == opHint) = some (arr s)) ∧
    (let s := held [(A.pwrHintHold, 1)]; portReady s 0 = true ∧ s.ks.holder = some 0 ∧ rf s A.pwrHintHold 16 0 = 1) ∧
    (let s := held [(A.pwrHintHold, 100000)]; rf s A.pwrHintHold 16 0 = 100000) := by
  decide +kernel

/-- The port of slot 17 is UP in mode 1, and switch 9 is this module. -/
def portS (l : List (Nat × Nat)) : State := up ([(A.pgPortStatus 2, 2), (A.pgCfg 2, 0x31), (A.rtSwitchId, 2 ^ 31 + 9)] ++ l)
def dataPk : List Byte := mkPacket { epoch := 0, cls := clFwd, op := opPut, dst := 3, src := 4, job := 6, sr := 40, rsr := 41 } [1, 2, 3, 4]
def creditPk : List Byte := mkLink ([0xF0, 0x01, 0, 0] ++ (List.range 9).flatMap fun c => beBytes 2 (c + 5))
theorem wit_ArrivalsAndCredit_PacketArrivals : portUp (portS []) 17 = true ∧ portUp (portS []) 511 = false ∧
    (let s := portS [(A.pgCfg 2, 0x32)]; portUp s 17 = true ∧ unframe s 17 [] = none) ∧ unframe (portS []) 17 dataPk = some dataPk ∧ pkVer dataPk ≠ 0xF ∧
    unframe (portS []) 17 creditPk = some creditPk ∧ pkVer creditPk = 0xF ∧ linkOk creditPk = true ∧ be creditPk 1 1 = 1 ∧
    ((portS []).fab.peer.Pairwise fun x y => x.1 < y.1) := by
  decide +kernel
def heldPk (dst : Nat) (stage : CopyStage) : Held := { bytes := dataPk, src := 20, chan := 2, ded := 0, shared := 1, since := 0, dst := dst, stage := stage }
def holding (h : Held) (s : State) : State := { s with fab := { s.fab with held := [h] } }
def txOk (s : State) : State := { s with fab := { s.fab with peer := (List.range 9).map fun i => (9 * 17 + i, 50) } }
theorem wit_EgressAndThrottle_EgressCommands :
    (let h := heldPk 2500 .crossing; (holding h (portS [])).fab.held.find? (fun h => h.stage == .crossing && h.dst < 5120 && outOf h.dst == 39 && nodeOf h.src == 2 &&
      pkClass h.bytes == 2) = some h ∧ h.come ≠ pkCells h.bytes) ∧
    (let h := { heldPk 2500 .crossing with seqs := [7], come := 1 }; (holding h (portS [])).fab.held.find? (fun h => h.stage == .crossing && h.dst < 5120 &&
      outOf h.dst == 39 && nodeOf h.src == 2 && pkClass h.bytes == 2) = some h ∧ h.come = pkCells h.bytes) ∧
    cellsMove Fab.reset = false ∧
    (let h := heldPk (queueOf 17 2) .queued; let s := txOk (holding h (portS [])); portUp s 17 = true ∧ portFree s 17 = true ∧ pickStart s 17 = some h) ∧
    (let h := heldPk (queueOf 527 2) .queued; let s := holding h (portS []); portFree s 527 = true ∧ pickStart s 527 = some h) ∧
    (let h := heldPk (queueOf 17 2) .sending; let s := holding h (portS []); portFree s 17 = false ∧
      s.fab.held.find? (fun h => heldOn 17 h && h.stage == .sending) = some h) ∧
    (let h := heldPk (queueOf 527 2) .sending; (holding h (portS [])).fab.held.find? (fun h => heldOn 527 h && h.stage == .sending) = some h) ∧
    (let h := heldPk (queueOf 17 clBulk) .queued; let s := holding h (portS []); queueHead s (queueOf 17 clBulk) = some h ∧
      1000 * ageUs s (pkEpoch h.bytes) ≤ (ftNs s + 2 ^ 64 - h.waited) % 2 ^ 64) := by
  decide +kernel
theorem wit_EgressAndThrottle_SamplingAndThrottle : rf (portS [(A.swSampleCfg, 0)]) A.swSampleCfg 15 0 = 0 ∧
    (rf (portS [(A.swSampleCfg, 5)]) A.swSampleCfg 15 0 ≠ 0 ∧ SmWf regReset (portS [(A.swSampleCfg, 5)]).regs) ∧
    (let s := { portS [] with sect := [(2 * secClasses + 1, List.replicate 64 1)] }; sect s secClasses ≠ [] ∧ (s.fab.throttle.Pairwise fun x y => x.1 < y.1)) := by
  decide +kernel
/-- Record 40 of job 6 is OPEN with a window of 64; TX_NEXT 9, TX_UNA 5. -/
def strS (l : List (Nat × Nat)) : State :=
  srPut 40 0x14 4 5 (srPut 40 0x10 4 9 (srWrite 40 clFwd 3 4 41 6 64 (held ([(A.rtSrBase 0, 0x30000000), (A.rtSrBase 1, 0x10)] ++ l))))
def ackPk (op oparg : Nat) : List Byte := mkPacket { epoch := 0, cls := clCtrl, op := op, dst := 3, src := 4, job := 6, sr := 40, rsr := 41, oparg := oparg } []
def ackS (op oparg : Nat) : State := inbox 127 18 (ackPk op oparg) (strS [])
def rx40 : Retx := { rcd := 40, seq := 5, req := 26, handle := 0, src := 827, bytes := dataPk }
def copyS (tries : Nat) : State := let s := srPut 40 0x24 1 tries (strS []); { s with fab := { s.fab with retx := [rx40], ackTimer := [(40, some ⟨827, none, 2, none⟩)], rtoFrom := [(40, some 6)] } }
theorem wit_StreamCommands : (∀ x ∈ [(opAck, 7), (opNack, 2 ^ 32 + 7), (opNack, 4 * 2 ^ 32 + 7), (opEvict, 7)], let s := ackS x.1 x.2; let a := arr s
      pkCheckOk a.bytes = true ∧ arrivedAt s 127 (fun b => pkOp b == x.1) = some a ∧ pkSr a.bytes = 40 ∧ srJob (srRead 40 (takeArrived a s)) 40 = pkJob a.bytes ∧
        srState (srRead 40 (takeArrived a s)) 40 = srOpen ∧ pkOparg a.bytes / 2 ^ 32 = x.2 / 2 ^ 32 ∧ smGet none (srRead 40 (takeArrived a s)).fab.rtoFrom 40 = none) ∧
    (let s := copyS 2; smGet none s.fab.ackTimer 40 = some ⟨827, none, 2, none⟩ ∧ s.fab.retx.find? (fun c => c.rcd == 40) = some rx40 ∧ srState s 40 = srOpen ∧
      smGet none s.fab.rtoFrom 40 = some 6) := by
  decide +kernel
theorem wit_AckAdvances : let s := strS []; Memory.wf s.hbm ∧ rn64 s (A.rtSrBase 0) ≠ 0 ∧ s.fab.txWait = [] ∧ badWord s (srAt s 40 0) 64 = none ∧ anyFailed s = false ∧ s.fab.retx = [] ∧ s.fab.watch = [] ∧
      srState s 40 = srOpen ∧ seqSub 8 (srTxUna s 40) < seqSub (srTxNext s 40) (srTxUna s 40) ∧ seqSub (srTxNext s 40) (srTxUna s 40) ≤ seqSub 9 (srTxUna s 40) := by
  decide +kernel

/-- A packet of an opcode and class that names record 40 of context 3. -/
def strPk (op cls flags oparg : Nat) (pl : List Byte) : List Byte :=
  mkPacket { epoch := 0, cls := cls, op := op, flags := flags, dst := 3, src := 4, job := 6, sr := 40, rsr := 41, oparg := oparg } pl
/-- Pier 5 has an armed receive of a MODE on record 40, and the first packet there is b. -/
def land (mode : Nat) (b : List Byte) : State :=
  let s := srWrite 40 clFwd 3 4 41 6 64 (held ctx3)
  let s := srWrite 42 clReq 3 4 43 6 64 s
  let v : Recv := { rcd := 40, run := runB (cmdB 0x38 []), mode := mode, dst := 2 ^ 63 + 64, len := 8 }
  let s := running 5 eTxe (runB (cmdB 0x30 [])) s
  inbox 5 18 b (onEng 5 eTxe (fun g => { g with track := [⟨runB (cmdB 0x31 [(4, 4, 77)]), .got 42 0 40 8⟩] }) (arm 5 v s))
def recv0 (mode : Nat) : Recv := { rcd := 40, run := runB (cmdB 0x38 []), mode := mode, dst := 2 ^ 63 + 64, len := 8 }
/-- What the stream check leaves. -/
def checked (s : State) : Bool × State := let a := arr s; rxCheck (pierAnswers s (srCtx s (pkSr a.bytes)) 5) a.bytes none (takeArrived a s)
def four : List Byte := [1, 2, 3, 4]
def getRq : List Byte := beBytes 4 4 ++ beBytes 4 42 ++ beBytes 4 0 ++ beBytes 4 0
theorem wit_LandingAndTransfers_LandingCommands : (∀ x ∈ [(1, opPut, clFwd, 4), (0, opSend, clFwd, 4), (1, opGetRsp, clRsp, 4)], let s := land x.1 (strPk x.2.1 x.2.2.1 (2 ^ flLast) 4 four)
      let a := arr s; arrivedAt s 5 (fun b => pkOp b == x.2.1) = some a ∧ (checked s).1 = true ∧ recvOf s 5 (pkSr a.bytes) x.1 = some (recv0 x.1) ∧
        (landIn 5 (recv0 x.1) a.bytes (checked s).2).1 = true ∧ pkFlag a.bytes flLast = true) ∧
    (let s := land 1 (strPk opGetRsp clRsp (2 ^ flLast) 4 four); rspRecv s 5 40 = some (recv0 1) ∧
      (getOf (landIn 5 (recv0 1) (arr s).bytes (checked s).2).2 5 40 8).isSome = true) ∧
    (let s := land 1 (strPk opGetRsp clRsp 0 0 four); (checked s).1 = true ∧ (landIn 5 (recv0 1) (arr s).bytes (checked s).2).1 = true ∧
      pkFlag (arr s).bytes flLast = false) ∧
    (let s := land 2 (strPk opGetReq clReq 0 4 getRq); (checked s).1 = true ∧ recvOf s 5 40 2 = some (recv0 2) ∧
      pkOparg (arr s).bytes + be (pkPayload (arr s).bytes) 0 4 ≤ (recv0 2).len ∧
      ownOpen (checked s).2 3 (be (pkPayload (arr s).bytes) 4 4 % 2 ^ 22) (· ≤ clRsp) = true) := by
  decide +kernel

def sendCmd : RunCmd := runB (cmdB 0x30 [(0x10, 8, 2 ^ 63 + 64), (0x20, 4, 8), (0x24, 4, 40), (0x28, 1, 4)])
def getCmd : RunCmd := runB (cmdB 0x31 [(4, 4, 77), (0x18, 4, 42), (0x1C, 4, 42), (0x20, 4, 8), (0x28, 1, 4)])
def srOpenCmd : RunCmd := runB (cmdB 0x33 [(0x10, 4, 40), (0x14, 4, 4), (0x18, 4, 41), (0x1C, 1, 2), (0x1E, 2, 4096)])
def srCloseCmd : RunCmd := runB (cmdB 0x34 [(0x10, 4, 40)])
def recvCmd (m : Nat) : RunCmd := runB (cmdB 0x38 [(0x10, 8, 2 ^ 63 + 64), (0x18, 4, 8), (0x1C, 4, 40), (0x20, 1, m)])
/-- Pier 5 runs a command, with record 40 OPEN of class FWD and record 42 of class REQ. -/
def tx (e : Nat) (r : RunCmd) : State := running 5 e r (srWrite 42 clReq 3 4 43 6 64 (srWrite 40 clFwd 3 4 41 6 64 (held ctx3)))
def tx0 (e : Nat) (r : RunCmd) : State := running 5 e r (held ctx3)
theorem wit_LandingAndTransfers_TransferCommands :
    (let s := tx eTxe sendCmd; Runs s 5 eTxe 0x30 sendCmd (sendFaults s sendCmd) ∧
      (sendData (sendOf s 5 sendCmd) s).1 = true) ∧
    (let s := arm 5 { recv0 1 with rcd := 42 } (tx eTxe getCmd); Runs s 5 eTxe 0x31 getCmd (getFaults 5 s getCmd)) ∧
    (let s := land 1 []; ((getEng s 5 eTxe).track.find? fun t => cmOp t.run.bytes == 0x31 && cmTag t.run.bytes == 77).isSome = true) ∧
    (let s := tx0 eTxe srOpenCmd; Runs s 5 eTxe 0x33 srOpenCmd (srOpenFaults s srOpenCmd) ∧ rn64 s (A.rtSrBase 0) ≠ 0 ∧ Memory.wf s.hbm ∧ anyFailed s = false ∧
      badWord s (srAt s 40 0) 64 = none) ∧
    (let s := tx eTxe srCloseCmd; Runs s 5 eTxe 0x34 srCloseCmd (srCloseFaults s srCloseCmd) ∧ srTxUna s 40 = srTxNext s 40 ∧ waitingOn s 40 = 0) ∧
    (let s := srPut 40 0x10 4 1 (tx eTxe srCloseCmd); Runs s 5 eTxe 0x34 srCloseCmd (srCloseFaults s srCloseCmd) ∧ srTxUna s 40 ≠ srTxNext s 40) ∧
    (∀ m ∈ [0, 1, 2, 3], let s := tx eRxe (recvCmd m); Runs s 5 eRxe 0x38 (recvCmd m) (recvFaults s (recvCmd m)) ∧ rvMode (recvCmd m).bytes = m ∧
      (s.pr.piers.Pairwise fun a b => a.1 < b.1) ∧ ((getPier s 5).engs.Pairwise fun a b => a.1 < b.1)) := by
  decide +kernel

/-- LOAD and STORE of two rows of 8 bytes between memory and the local store. -/
def loadCmd : RunCmd := runB (cmdB 0x20 [(0x10, 8, 0x1020000000), (0x18, 8, 2 ^ 63 + 64), (0x20, 4, 2), (0x24, 4, 8), (0x28, 4, 16), (0x2C, 4, 8)])
def load1Cmd : RunCmd := runB (cmdB 0x20 [(0x10, 8, 0x1020000000), (0x18, 8, 2 ^ 63 + 64), (0x20, 4, 1), (0x24, 4, 4096), (0x28, 4, 4096), (0x2C, 4, 4096)])
def storeCmd : RunCmd := runB (cmdB 0x21 [(0x18, 8, 0x1020000000), (0x10, 8, 2 ^ 63 + 64), (0x20, 4, 2), (0x24, 4, 8), (0x28, 4, 16), (0x2C, 4, 8)])
def selCmd : RunCmd := runB (cmdB 0x20 [(0x10, 8, 0x1020000000), (0x18, 8, 2 ^ 63 + 64), (0x20, 4, 2), (0x24, 4, 8), (0x28, 4, 16), (0x2C, 4, 8),
  (0x30, 4, 0x100), (0x38, 4, 0x200), (0x3C, 1, 1), (0x3D, 1, 1)])
def listCmd : RunCmd := runB (cmdB 0x20 [(0x10, 8, 0x1020000000), (0x18, 8, 2 ^ 63 + 64), (0x20, 4, 2), (0x24, 4, 8), (0x28, 4, 16), (0x2C, 4, 8),
  (0x38, 4, 0x200), (0x3D, 1, 4)])
/-- Memory and local store of pier 5 hold some bytes: a score of row 1, and a list of row 1. -/
def mv (e : Nat) (r : RunCmd) : State :=
  locWr 5 0x104 [0, 0, 0x80, 0x3F] (locWr 5 0x200 (leBytes 4 1 ++ leBytes 4 1) (running 5 e r (hbmWr 0x1020000000 ((List.range 40).map (BitVec.ofNat 8 ·)) (held ctx3))))
theorem wit_MoveCommands :
    (let s := mv eDmi loadCmd; Runs s 5 eDmi 0x20 loadCmd (loadFaults loadCmd.bytes) ∧ dmStok loadCmd.bytes = 0 ∧ dmListin loadCmd.bytes = false) ∧
    (let s := mv eDmo storeCmd; Runs s 5 eDmo 0x21 storeCmd (storeFaults storeCmd.bytes)) ∧
    (let s := mv eDmi selCmd; Runs s 5 eDmi 0x20 selCmd (selectFaults selCmd.bytes) ∧ dmStok selCmd.bytes ≠ 0 ∧ dmListin selCmd.bytes = false ∧
      selectedRows selCmd.bytes (readWords s 3 5 (dmSel selCmd.bytes) (dmStok selCmd.bytes * dmRows selCmd.bytes)) = [1] ∧
      (copyListed (selCmd.by_ 5 eDmi) selCmd.bytes [1] s).1 = true) ∧
    (let s := mv eDmi listCmd; Runs s 5 eDmi 0x20 listCmd (listinFaults listCmd.bytes) ∧ dmListin listCmd.bytes = true ∧
      ofLe (ctxLocRd s 3 5 (dmList listCmd.bytes) 4) = 1 ∧ ofLe (ctxLocRd s 3 5 (dmList listCmd.bytes + 4) 4) = 1 ∧
      badList (dmRows listCmd.bytes) [1] = none) := by
  decide +kernel
theorem wit_MoveCommands_LoadBringsARow : let s := mv eDmi load1Cmd; let b := load1Cmd.bytes
    Runs s 5 eDmi 0x20 load1Cmd (loadFaults b) ∧ dmStok b = 0 ∧ dmListin b = false ∧ dmRows b = 1 ∧ dmRbytes b = 4096 ∧ dmSrc b = 0x1020000000 ∧
      dmDst b = 2 ^ 63 + 64 ∧ winOk s 3 0x1020000000 4096 .rd = true ∧ badWord s 0x1020000000 4096 = none ∧ residentOn s 3 5 = true ∧
      SmWf (fun _ => (0 : Byte)) s.pr.store := by
  decide +kernel
theorem wit_StoreStaysInWindows : let s := mv eDmo storeCmd; runningOp s 5 eDmo 0x21 = some storeCmd ∧ Memory.wf s.hbm ∧ SmWf regReset s.regs ∧
      SmWf (fun _ => (0 : Byte)) s.pr.store ∧ hbmByte (copyListed (storeCmd.by_ 5 eDmo) storeCmd.bytes [0, 1] s).2 0x1020000001 ≠ hbmByte s 0x1020000001 := by
  decide +kernel

/-- A work-queue entry of two grants: 5 tiles from tile 7, at most 3 in a grant, code at a local address. -/
def wqB (done : Nat) : List Byte := leBytes 1 1 ++ leBytes 1 0 ++ leBytes 2 3 ++ leBytes 4 77 ++ leBytes 8 (2 ^ 63 + 0x100) ++ leBytes 8 9 ++ leBytes 4 7 ++ leBytes 4 5 ++ leBytes 8 done ++ leBytes 24 0
/-- Context 3 is resident on pier 16, the one pier of group 0 of span 1, and its work queue there stands in its window. -/
def wqS (prod : Nat) : State :=
  let s := held (ctx3 ++ [(A.spnGroup 1 0, 2 ^ 31 + 3 * 2 ^ 24 + 2 ^ 16 + 0x100), (A.ctxWqCfg 3 1, 2 ^ 31 + 2), (A.dkFuncState (fnSpan 1), 2),
    (A.dkFuncState (fnPier 16), 2), (A.ctxWqBase 3 1 0, 0x20000000), (A.ctxWqBase 3 1 1, 0x10), (A.ctxDb 3 1, prod)])
  onPier 16 (fun q => { q with resident := some 3 }) (hbmWr 0x1020000000 (wqB 0) s)
def ended (done : Nat) : WqEntry := { takenEntry 0 (wqB done) csOk with ended := 2, next := 2 }
/-- The same queue, whose entry has a GRANT of 0. -/
def wqBad : State := hbmWr 0x1020000002 (leBytes 2 0) (wqS 1)
theorem wit_QueuesTasksAndSwitches_WorkQueueCommands :
    (let s := wqS 1; groupWith s 3 1 = some 0 ∧ mayGrant s 3 1 = true ∧ wqProd s 3 1 ≠ wqNextOf s 3 1 ∧ (readEntry 3 1 0 s).1 = some (wqB 0) ∧
      (readEntry 3 1 0 s).2 = s ∧ wqValid (wqB 0) = true) ∧
    (let s := wqBad; groupWith s 3 1 = some 0 ∧ mayGrant s 3 1 = true ∧ wqProd s 3 1 ≠ wqNextOf s 3 1 ∧ (readEntry 3 1 0 s).1 = some (wqB 0 |>.set 2 0) ∧
      (readEntry 3 1 0 s).2 = s ∧ wqValid (wqB 0 |>.set 2 0) = false) ∧
    (let s := wqS 0; wqProd s 3 1 = wqNextOf s 3 1) ∧
    (let s := putWq 3 1 [ended 0] (wqS 1); (wqAt s 3 1).find? entryEnded = some (ended 0) ∧ wqDone (wqB 0) = 0) ∧
    (let s := putWq 3 1 [ended 0x1020000100] (wqS 1); (wqAt s 3 1).find? entryEnded = some (ended 0x1020000100) ∧ wqDone (wqB 0x1020000100) ≠ 0) := by
  decide +kernel
theorem wit_GrantsCutTheTiles : wqValid (wqB 0) = true ∧ (takenEntry 0 (wqB 0) csOk).total = 2 := by decide +kernel
def gr : Grant := ⟨3, 0, 0, 7, 3⟩
/-- Pier 16 has a grant; it runs a task. -/
def granted16 : State := onPier 16 (fun q => { q with grant := some gr }) (putWq 3 1 [takenEntry 0 (wqB 0) csOk] (wqS 1))
def tasked : State := onPier 16 (fun q => { q with task := some gr }) (putWq 3 1 [takenEntry 0 (wqB 0) csOk] (wqS 1))
def full : State := onEng 16 2 (fun g => { g with queue := List.replicate 256 ⟨[], 0⟩ }) tasked
/-- The task of pier 16 is at an instruction, register 5 naming engine 2's queue port. -/
def runs (w : Nat) (s : State) : State :=
  locWr 16 0x100 (leBytes 4 w) (onPier 16 (fun q => { q with core := { pc := 2 ^ 63 + 0x100, x := [(5, 2 ^ 63 + 0x800080)], resv := none } }) s)
/-- SB x0, 63(x5). -/
def storeCode : Nat := 2 ^ 25 + 5 * 2 ^ 15 + 31 * 2 ^ 7 + 0x23
def storeDo : CoreDo := { pc := 2 ^ 63 + 0x104, resv := none, wr := some (2 ^ 63 + 0x8000BF, [0]) }
/-- LI x6, 7: a core cycle carries it out. -/
def liCode : Nat := 7 * 2 ^ 20 + 6 * 2 ^ 7 + 0x13
def liDo : CoreDo := { rd := 6, v := 7, pc := 2 ^ 63 + 0x104, resv := none }
theorem wit_QueuesTasksAndSwitches_TaskInstructions : (let s := runs liCode tasked
     Canonical s ∧ runningTask s 16 = some gr ∧ coreNext s 16 3 = .does liDo ∧ pushesTo liDo = none) ∧
    (let s := runs storeCode tasked; Canonical s ∧ runningTask s 16 = some gr ∧ coreNext s 16 3 = .does storeDo ∧ pushesTo storeDo ≠ none) ∧
    (Canonical granted16 ∧ runningTask granted16 16 = none) :=
  ⟨⟨⟨by decide +kernel, by decide +kernel, by decide +kernel⟩, by decide +kernel⟩, ⟨⟨by decide +kernel, by decide +kernel, by decide +kernel⟩, by decide +kernel⟩,
    ⟨by decide +kernel, by decide +kernel, by decide +kernel⟩, by decide +kernel⟩
/-- A core cycle adds: x6 becomes 7 and the pc goes on. -/
theorem test_core_cycle : let s := tickCore (runs liCode tasked) 16; smGet 0 (getPier s 16).core.x 6 = 7 ∧ (getPier s 16).core.pc = 2 ^ 63 + 0x104 := by
  decide +kernel
theorem wit_QueuesTasksAndSwitches_TaskCommands :
    (let s := granted16; (getPier s 16).grant = some gr ∧ (getPier s 16).task = none ∧ pierReady s 16 = true ∧ mayGrant s 3 1 = true ∧
      entryOf s 16 gr = some (takenEntry 0 (wqB 0) csOk) ∧ serviceFirst s 3 16 = false) ∧
    (let s := runs 0x73 tasked; runningTask s 16 = some gr ∧ coreNext s 16 3 = .ecall) ∧
    (let s := runs 0 tasked; runningTask s 16 = some gr ∧ coreNext s 16 3 = .traps ⟨.plain, causeIllegal, 0⟩) ∧
    (∀ s ∈ [runs storeCode tasked, runs storeCode full], runningTask s 16 = some gr ∧ coreNext s 16 3 = .does storeDo ∧ pushesTo storeDo = some 2 ∧
      ((getEng (coreDoes 16 storeDo s) 16 2).queue.length < 256 ∨ 256 ≤ (getEng (coreDoes 16 storeDo s) 16 2).queue.length)) ∧
    (getEng (coreDoes 16 storeDo (runs storeCode tasked)) 16 2).queue.length < 256 ∧
    256 ≤ (getEng (coreDoes 16 storeDo (runs storeCode full)) 16 2).queue.length := by
  decide +kernel

/-- Pier 16 may dequeue for context 3: its engines' flag 2 is counter 9, and engine 6's queue holds a command. -/
def deq (cmd : List Byte) (l : List (Nat × Nat)) : State :=
  let s := regsSet ([(A.ctxLive 3 0 + 0x1044, 0x8009)] ++ l) (wqS 0)
  onEng 16 6 (fun g => { g with queue := [⟨cmd, 4⟩], waits := some 4 }) s
def syncB : List Byte := cmdB 1 []
def waitB : List Byte := cmdB 1 [(1, 1, 2), (2, 1, 2)]
theorem wit_EngineQueueCommands :
    (∀ x ∈ [(syncB, 0), (waitB, 0), (waitB, 255)], let s := deq x.1 [(A.pierFlag 16 9, x.2)]; (getPier s 16).resident = some 3 ∧ headOf s 16 6 = some ⟨x.1, 4⟩ ∧
      mayDequeue s 16 3 = true ∧ engineFree s 16 6 x.1 = true ∧ breakCause s 16 3 6 x.1 = none ∧
      waitsOn s 16 3 6 = (if x.1 = syncB then none else some 9) ∧ flagCount s 16 9 = x.2 ∧ (getEng s 16 6).waits = some 4 ∧
      (x.1 = syncB ∨ oldestWaiter s 16 3 6 9 = true)) ∧
    (let s := deq syncB [(A.pierBrkCfg 16, 2 ^ 31 + 3 * 2 ^ 16 + 2 ^ 6)]; breakCause s 16 3 6 syncB = some 1) ∧
    (let r := { runB syncB with status := some 0 }; (getEng (running 5 6 r (held ctx3)) 5 6).running = some r) ∧
    (let t : Tracked := ⟨runB (cmdB 0x30 []), .acked 40 4⟩; let s := srPut 40 0x14 4 5 (tx0 6 (runB syncB))
     firstSettled (onEng 5 6 (fun g => { g with running := none, track := [t] }) (srWrite 40 clFwd 3 4 41 6 64 (tx0 6 (runB syncB)))) [t] = none ∧
       firstSettled (srPut 40 0x14 4 5 (srWrite 40 clFwd 3 4 41 6 64 s)) [t] = some (t, 0)) ∧
    (let s := running 5 6 (runB syncB) (held ctx3); Runs s 5 6 0x01 (runB syncB) (noNumbers syncB ++ mustBeZero syncB 0x10 48)) := by
  decide +kernel
def cstatB : List Byte := cmdB 1 [(1, 1, 8), (4, 4, 77), (12, 4, 0x1FFFF8)]
theorem wit_CompletionWords : let s := running 127 6 (runB cstatB) (held ctx3); let r := runB cstatB
    Memory.wf s.hbm ∧ SmWf regReset s.regs ∧ SmWf (fun _ => (0 : Byte)) s.pr.store ∧ residentOn s r.ctx 127 = true ∧ cmCstatEn r.bytes = true ∧
      cmCstat r.bytes % 8 = 0 ∧ cmCstat r.bytes < 0x200000 ∧ cmSigEn r.bytes = false := by
  decide +kernel
theorem wit_MalformedCommands :
    (let r := runB (cmdB 0x10 [(8, 1, 255)]); let s := running 5 0 r (held ctx3); runningOp s 5 0 0x10 = some r ∧
      (firstFault (cstatFault r.bytes ++ mmFaults 0 false r.bytes)).isSome = true) ∧
    (let r := runB (cmdB 1 [(0x3F, 1, 1)]); let s := running 5 7 r (held ctx3); runningOp s 5 7 1 = some r ∧
      firstFault (cstatFault r.bytes ++ (noNumbers r.bytes ++ mustBeZero r.bytes 0x10 48)) = some 0x10) ∧
    (let r := runB (cmdB 0x21 []); let s := running 5 eDmo r (held ctx3); runningOp s 5 eDmo 0x21 = some r ∧
      firstFault (cstatFault r.bytes ++ storeFaults r.bytes) = some 0x10) := by
  decide +kernel
/-- Group 0 of span 1 is pier 16; it names no context, or context 3. -/
def grp (named : Bool) (switching : Bool) : State :=
  onPier 16 (fun q => { q with switching := switching }) (held (ctx3 ++ [(A.spnGroup 1 0, (if named then 2 ^ 31 + 3 * 2 ^ 24 else 0) + 0x100)]))
theorem wit_QueuesTasksAndSwitches_ContextSwitchCommands :
    (let s := grp false true; portReady s 0 = true ∧ holds s 0 (dieOf (A.spnGroup 1 0)) = true ∧ groupSwitching s 1 0 = true) ∧
    (let s := grp false false; groupSwitching s 1 0 = false ∧ groupCtx s 1 0 = none ∧ rf s (A.spnGroup 1 0) 31 31 = 0 ∧
      fget (0x83000000 : Word) 31 31 = 1 ∧ ctxElsewhere s 1 0 (groupCtxOf 0x83000000) = false) ∧
    (let s := grp false true; groupPiers s 1 0 = [16] ∧ switchReady s 16 = true ∧ tstSpent s actCtxSave 9 = false ∧ groupCtx s 1 0 = none) ∧
    (let s := grp true true; groupPiers s 1 0 = [16] ∧ switchReady s 16 = true ∧ tstSpent s actCtxSave 9 = false ∧ groupCtx s 1 0 = some 3) := by
  decide +kernel

/-- Context 3 is resident on pier 5, whose head waits on counter 9, at 0. -/
def stuck5 : State :=
  let s := regsSet ([(A.pierTrCfg 5, 2 ^ 31), (A.ctxLive 3 0 + 0x1044, 0x8009)] ++ []) (held ctx3)
  let s := { s with pr := { s.pr with piers := [(5, { Pier.reset with resident := some 3 })] } }
  onEng 5 6 (fun g => { g with queue := [⟨cmdB 1 [(1, 1, 2), (2, 1, 2)], 4⟩], waits := some 4 }) s
def broken5 : State := regsSet [(A.pierBrkStatus 5, 2 ^ 31 + 6 * 2 ^ 8)] stuck5
def trcB : List Byte := List.replicate 32 (3 : Byte)
def trc2 (w : Nat) : State := regsSet [(A.trcEn 2, w)] { held ctx3 with trc := [(1, trcB), (2, trcB)] }
theorem wit_DebugCommands :
    (portReady (held ctx3) 0 = true ∧ holds (held ctx3) 0 (dieOf (A.pierFlag 5 7)) = true) ∧
    (portReady broken5 0 = true ∧ holds broken5 0 (dieOf (A.pierBrkCtrl 5)) = true ∧ rbit broken5 (A.pierBrkStatus 5) 31 = true) ∧
    (portReady stuck5 0 = true ∧ holds stuck5 0 (dieOf (A.pierBrkCtrl 5)) = true ∧ rbit stuck5 (A.pierBrkStatus 5) 31 = false) ∧
    ((getPier stuck5 5).resident = some 3 ∧ rbit stuck5 (A.pierTrCfg 5) 31 = true ∧ rbit stuck5 (A.pierTrStatus 5) 31 = false ∧
      pierStuck stuck5 5 3 = true) ∧
    (∀ w ∈ [0x801, 0x1A01], portReady (held ctx3) 0 = true ∧ (held ctx3).ks.holder = some 0 ∧ fget (BitVec.ofNat 32 w) 0 0 = 1 ∧
      8 ≤ fget (BitVec.ofNat 32 w) 12 8 ∧ fget (BitVec.ofNat 32 w) 12 8 ≤ 26 ∧ SmWf regReset (held ctx3).regs) ∧
    (∀ w ∈ [0x800, 0x801], (trc2 w).trc.find? (fun r => r.1 == 2) = some (2, trcB) ∧ rbit (trc2 w) (A.trcEn 2) 0 = decide (w = 0x801) ∧
      tstSpent (trc2 w) actTelemetry (8 + le trcB 0x0A 1 / 16) = false) := by
  decide +kernel
/-- The sentinel is enabled, and every slot of span 0 is good. -/
def sntUp (l : List (Nat × Nat)) : State := regsSet ([(A.sntCfg, 2 ^ 31 + 2 ^ 30), (A.dkSpanSlots 0, 0x0101FFFF), (A.dkPierMap 5, 2 ^ 31 + 5 * 2 ^ 24 + 0x84210)] ++ l) (held ctx3)
def withRetest (due : Bool) : State := let s := sntUp []
  { s with snt := { s.snt with retest := [{ unit := .girder 0 5 1, vec := 3, due := due }, { unit := .rse 2, vec := 1, due := due }] } }
/-- Pier 5 is being copied to slot 16 of its span. -/
def pierMoves : State := let s := sntUp []
  { s with snt := { s.snt with copying := [⟨⟨0, 0, 5, 0, 0, retireEntry 0 0 5 0 0⟩, 5, 16⟩] } }
def rivetWaits : State := let s := sntUp []
  { s with snt := { s.snt with rivetDue := [{ kind := 2, span := 0, slot := 5, girder := 1, pos := 3, entry := retireEntry 2 0 5 1 3 }] } }
theorem wit_SentinelCommands :
    (let s := sntUp []; ∀ d ∈ [0, 8], mayTest s d = true ∧ s.snt.retest = [] ∧
      nextVector s d = some (if d = 0 then (.girder 0 0 0, 0) else (.rse 0, 0)) ∧
      unitGood s (if d = 0 then .girder 0 0 0 else .rse 0) = true ∧ unitFree s (if d = 0 then .girder 0 0 0 else .rse 0) = true ∧
      vecFails (passVector d (chargeVector d s)) (if d = 0 then .girder 0 0 0 else .rse 0) .pass = false ∧
      vecFails (passVector d (chargeVector d s)) (if d = 0 then .girder 0 0 0 else .rse 0) .whole = true) ∧
    (let s := withRetest true; ∀ y ∈ s.snt.retest, s.snt.retest.find? (fun z => z.due && z.unit.domain == y.unit.domain) = some y ∧
      unitGood s y.unit = true ∧ mayTest s y.unit.domain = true ∧ unitFree s y.unit = true) ∧
    (let s := sntUp []; portReady s 0 = true ∧ holds s 0 (dieOf A.sntRetire) = true ∧ pendingRetires s = [] ∧ mapValid s 5 = true) ∧
    (pierMoves.snt.copying.find? fun m => m.pier == 5).isSome = true ∧
    (let s := rivetWaits; s.snt.rivetDue.find? (fun q => q.span == 5 / 16 && q.slot == mapSlot s 5 && q.girder == 1) = some (s.snt.rivetDue.getD 0 ⟨0, 0, 0, 0, 0, 0⟩) ∧
      (getEng s 5 1).running = none ∧ mapValid s 5 = true ∧ beingCopied s 5 = false) ∧
    (let s := regsSet [(A.dkBootStatus, stRunning)] (sntUp []); stage s = stRunning ∧ s.fwDead = false) := by
  decide +kernel

/-- A function in a state, with port 0 holding, in RUNNING. -/
def fnAt (f st : Nat) : State := regsSet [(A.dkBootStatus, stRunning), (A.dkFuncState f, st)] (held [])
theorem wit_FunctionsAndSpares_FunctionCommands :
    (∀ s ∈ [fnAt 280 fsOff, fnAt 280 fsDrain, fnAt 280 fsOn, fnAt 288 fsOn, fnAt 72 fsOff], portReady s 0 = true ∧ s.ks.holder = some 0 ∧ SmWf regReset s.regs) ∧
    (∀ st ∈ [fsOff, fsDrain, fsOn], let s := fnAt 280 st; fnPresent s 280 = true ∧ fstate s 280 = st ∧ enableBad 0 s (funcOf 280) = false ∧
      pairShut s (funcOf 280) = false ∧ disableBad 0 s (funcOf 280) = false) ∧
    (let s := regsSet [(A.cwyStatus 3, cwClosing)] (fnAt 54 fsOff); portReady s 0 = true ∧ s.ks.holder = some 0 ∧ SmWf regReset s.regs ∧
      fnPresent s 54 = true ∧ fstate s 54 = fsOff ∧ pairShut s (funcOf 54) = true ∧ cwyPair 54 = 3) ∧
    pairShut (fnAt 72 fsOff) (funcOf 72) = false ∧
    (enableBad 0 (fnAt 72 fsOff) (funcOf 72) = true ∧ fnPresent (fnAt 72 fsOff) 72 = true ∧ fstate (fnAt 72 fsOff) 72 = fsOff) ∧
    (disableBad 0 (fnAt 288 fsOn) (funcOf 288) = true ∧ fnPresent (fnAt 288 fsOn) 288 = true ∧ fstate (fnAt 288 fsOn) 288 = fsOn) ∧
    fnPresent (held []) 511 = false ∧
    (startReady (fnAt 280 fsStart) (funcOf 280) = true ∧ fstate (fnAt 280 fsStart) 280 = fsStart ∧ funcOf 280 = .stack 0) ∧
    (∀ b ∈ [false, true], let s := setPending 280 b (fnAt 280 fsDrain); fstate s 280 = fsDrain ∧ drainReady s (funcOf 280) = true ∧ funcPending s 280 = b) ∧
    (let s := { fnAt 289 fsOff with mg := { (fnAt 289 fsOff).mg with gulDue := [289] } }; s.mg.gulDue = [289] ∧ fstate s 289 = fsOff ∧ fnGul 1 = 289 ∧
      fstate (fnAt 289 fsStart) 289 = fsStart) := by
  decide +kernel
def chkEn (p : GPort) (f : BitVec 9) (s : State) : List Bool :=
  let n := f.toNat
  let refused (op : Nat) : State := accessed p A.dkFuncCtrl 0 stIgnored
      (raiseEvent { code := 0x1107, port := p, unit := funcUnit (funcOf n), detail := n + op * 2 ^ 28 } s)
  let tookE := wn A.dkFuncCtrl (n + 2 ^ 28) { s with mg := { s.mg with gulDue := s.mg.gulDue.filter (· != n) } }
  if fnPresent s n then
   (if fstate s n = fsOff && !enableBad p s (funcOf n) && !pairShut s (funcOf n) then
     [isNx (exec (.enable p f) s) (accessed p A.dkFuncCtrl 0 stOk (beginStart (funcOf n) (setFstate n fsStart tookE)))] else []) ++
   (if fstate s n = fsDrain && !enableBad p s (funcOf n) && !pairShut s (funcOf n) then
     let t := setPending n true tookE
     [isNx (exec (.enable p f) s) (accessed p A.dkFuncCtrl 0 stOk t), fstate t n = fsDrain, funcPending t n] else []) ++
   (if fstate s n = fsOn && !disableBad p s (funcOf n) then
     let t := setFstate n fsDrain (wn A.dkFuncCtrl (n + 2 * 2 ^ 28) s)
     [isNx (exec (.disable p f) s) (accessed p A.dkFuncCtrl 0 stOk (beginDrain true (funcOf n) t)), fstate t n = fsDrain, decide (t = { s with regs := t.regs })] else []) ++
   (if fstate s n = fsOff && enableBad p s (funcOf n) then [isNx (exec (.enable p f) s) (refused 1)] else []) ++
   (if fstate s n = fsOn && disableBad p s (funcOf n) then [isNx (exec (.disable p f) s) (refused 2)] else [])
  else [isNx (exec (.enable p f) s) (refused 1), isNx (exec (.disable p f) s) (refused 2)]
def chkFn (k : Fin 354) (s : State) : List Bool :=
  (if fstate s k = fsStart && startReady s (funcOf k) then [isNx (exec (.funcStartEnd k) s) (enterState k fsOn (startWork (funcOf k) s))] else []) ++
  (if fstate s k = fsDrain && drainReady s (funcOf k) && !funcPending s k then [isNx (exec (.funcDrainEnd k) s) (enterState k fsOff (setPending k false (drainWork (funcOf k) s)))] else []) ++
  (if fstate s k = fsDrain && drainReady s (funcOf k) && funcPending s k then [isNx (exec (.funcDrainEnd k) s) (enterStart k (enterState k fsOff (setPending k false (drainWork (funcOf k) s))))] else []) ++
  (if fstate s k = fsDrain then [isNx (exec (.limitOverrun k) s) (wedge k fsDrain s)] else []) ++
  (if fstate s k = fsStart then [fstate (nx (exec (.limitOverrun k) s)) k == (if 288 ≤ k.val && k.val < 290 then fsOff else fsWedged)] else [])

/-- The spare in a state, for job 6, with partner rank 1, whose entry is valid. -/
def spareIn (st : Nat) : State :=
  hbmWr (hbmBase + 0x30000004) (leBytes 4 (2 ^ 31)) (regsSet [(A.dkImgStatus, imActive), (A.dkSpareStatus, st * 2 ^ 28 + 6), (A.dkSpareJob, 6), (A.dkSpareCfg, 1), 
    (A.rtEpochStatus, 0), (A.rtJob 6, 2 ^ 31 + 2), (A.rtRankBase 2 0 0, 0x30000000), (A.rtRankBase 2 0 1, 0x10), (A.rtRankCount 2 0, 2), (A.rtRankJob 2, 0x10006)] (held []))
theorem wit_FunctionsAndSpares_SpareCommands : (∀ st ∈ List.range 6, let s := spareIn st; portReady s 0 = true ∧ s.ks.holder = some 0 ∧ SmWf regReset s.regs ∧
      spareState s = st) ∧ imgState (spareIn spNone) = imActive ∧
    (let s := spareIn spStandby; partnerGone (setSpare spLoading (wf A.dkSpareStatus 15 0 (rf s A.dkSpareJob 15 0) (wn A.dkSpareCtrl 2 s))) = false) := by
  decide +kernel
def pll (v : Nat) : State := regsSet [(A.clkStatus, v)] (held [])
def slew (v : Nat) : State := { pll v with pc := { (pll v).pc with slewing := true } }
theorem wit_ClocksAndPower_ClockAndPowerCommands : SmWf regReset (held []).regs ∧
    (let s := pll (2 ^ 31 + 2 ^ 30); SmWf regReset s.regs ∧ rbit s A.clkStatus 31 = true ∧ rbit s A.clkStatus 30 = true) ∧
    rbit (pll (2 ^ 30)) A.clkStatus 31 = false ∧ rbit (pll (2 ^ 31)) A.clkStatus 30 = false ∧
    (let s := slew (2 ^ 31 + 2 ^ 29); SmWf regReset s.regs ∧ rbit s A.clkStatus 29 = true ∧ s.pc.slewing = true) ∧
    (let s := regsSet [(A.clkSpan 3, 2 ^ 31 + 2 * 2 ^ 24 + 3 * 2 ^ 28)] (held []); SmWf regReset s.regs ∧ rbit s (A.clkSpan 3) 31 = true) ∧
    (∀ v ∈ [2 ^ 31, 2 ^ 31 + 2 ^ 30], let s := regsSet [(A.pwrStatus, v)] (held []); SmWf regReset s.regs ∧
      forced s = decide (v ≠ 2 ^ 31) ∧ (s.pc.moved.Pairwise fun x y => x.1 < y.1)) ∧
    (let s := held []; portReady s 0 = true ∧ s.ks.holder = some 0 ∧ (s.pc.measured.Pairwise fun x y => x.1 < y.1) ∧
      (s.pc.limit.Pairwise fun x y => x.1 < y.1) ∧ (s.pc.hot.Pairwise fun x y => x.1 < y.1)) := by
  decide +kernel
def memUp (l : List (Nat × Nat)) : State := { held l with pwr := { (held l).pwr with inReset := false } }
theorem wit_MemoryControllerCommands : (let s := memUp []; SmWf regReset s.regs ∧ portReady s 0 = true ∧ holds s 0 (dieOf (A.memCtrl 2)) = true ∧
      s.pwr.inReset = false ∧ tstSpent s actScrub 2 = false ∧ bwStep s 2 ≠ 4 ∧
      2 ^ 29 * 2 + smGet 0 s.mem.scrub 2 ∉ s.mem.bad ∧ storageFailed s 2 (64 * smGet 0 s.mem.scrub 2) = false ∧
      (16 * 2 + 5 / 2) ∉ s.mem.due ∧ retraining s 2 ≠ some (5 / 2) ∧ rbit s (A.memChStatus 2 (5 / 2)) 2 = false ∧
      spareFor s 2 5 = some 0 ∧ (∀ q ∈ s.mem.repairs, q.stack ≠ 2)) ∧
    (let s := memUp [(A.memChStatus 2 7, 2)]; SmWf regReset s.regs ∧ retraining s 2 = some 7) ∧
    (let s := memUp [(A.memChStatus 2 7, 2)]; let s := { s with mem := { s.mem with tries := [(16 * 2 + 7, 2)] } }; retraining s 2 = some 7 ∧ 2 ≤ smGet 0 s.mem.tries (16 * 2 + 7)) ∧
    (let s := memUp [(A.memStatus 2, 2 * 2 ^ 16)]; let s := { s with mem := { s.mem with hot := [(2, 10)], cold := [(2, 10)] } }; SmWf regReset s.regs ∧
      1 ≤ bwStep s 2 ∧ bwStep s 2 < 3 ∧ 10 ≤ smGet 0 s.mem.hot 2) ∧
    (let s := memUp [(A.memStatus 2, 2 * 2 ^ 16)]; let s := { s with mem := { s.mem with cold := [(2, 10)] } }; 
      1 ≤ bwStep s 2 ∧ bwStep s 2 < 4 ∧ smGet 0 s.mem.hot 2 < 10 ∧ 10 ≤ smGet 0 s.mem.cold 2) ∧
    (let s := memUp []; let q : Repair := { stack := 2, pch := 5, extent := 3, spare := 0, pending := true, copied := false }
     let s := { s with mem := { s.mem with repairs := [q] } }; pendingOn s 2 = some q ∧ q.copied = false ∧ tstSpent s actScrub 2 = false) ∧
    (let s := memUp [(A.tgLen 2 5, 4), (A.tgStatus 2 5, 1), (A.tgCtl 2 5, 2)]; SmWf regReset s.regs ∧ tgMay s 2 5 (BitVec.ofNat 32 (2 * 1 + 1)) = true ∧
      rbit s (A.tgStatus 2 5) 0 = true ∧ rbit s (A.tgCtl 2 5) 1 = true) := by
  decide +kernel

def pwrUp : State := { held [] with pc := { (held []).pc with section_ := leBytes 2 2000 ++ leBytes 2 2200 ++ leBytes 2 1500 ++ List.replicate 10 0 ++ (List.replicate 128 [1, 1, 3, 0]).flatten } }
/-- A POWER section is in force. -/
theorem wit_ClocksAndPower_ControlPeriod : pwrUp.pc.section_ ≠ [] ∧ (blank.pc.section_ = []) := by decide +kernel

/-- Group 50 is ON, with two ports of four lanes in the first mode, and its lane 6 stands in a phase. -/
def laneIn (ph : Nat) (l : List (Nat × Nat)) : State :=
  let s := up ([(A.dkFuncState (fnGroup 50), 2), (A.pgCfg 50, 0x11), (A.cwyStatus 1, cwOpen), (A.cwyCtrl 1, 1)] ++ l)
  { s with fab := { s.fab with phase := [(8 * 50 + 6, ph)] } }
def trained : List (Nat × Nat) := [4, 5, 7].map fun m => (A.pgLaneStatus 50 m, 7)
def upPort : State :=
  let s := up ([(A.dkFuncState (fnGroup 50), 2), (A.pgCfg 50, 0x11), (A.pgPortStatus 50, 3), (A.cwyStatus 1, cwOpen), (A.pgLaneStatus 50 6, 0xFFFF0007)] ++ trained)
  { s with fab := { s.fab with held := [{ bytes := [], src := 20, chan := 2, ded := 0, shared := 1, since := 0, dst := 3208, stage := .sending }, { bytes := [], src := 20, chan := 2, ded := 0, shared := 1, since := 0, dst := 3216, stage := .sending }] } }
theorem wit_LanesAndCauseway_LaneCommands :
    (∀ ph ∈ List.range 7, let s := laneIn ph trained; SmWf regReset s.regs ∧ (s.fab.phase.Pairwise fun x y => x.1 < y.1) ∧ pgLit s 50 = true ∧
      phaseOf s 50 6 = ph ∧ pgMode s 50 = 1 ∧ pgBreakout s 50 = 1 ∧ rbit s (A.pgLaneStatus 50 6) 4 = false ∧ maxDeskew (pgMode s 50) = 2560 ∧
      (∀ m ∈ portLanes s 50 6, m ≠ 6 → rbit s (A.pgLaneStatus 50 m) 0 = true)) ∧
    rbit (laneIn 5 [(A.pgLaneStatus 50 6, 16)]) (A.pgLaneStatus 50 6) 4 = true ∧
    (pgLit upPort 50 = true ∧ isOn upPort (fnGroup 50) = true ∧ rbit upPort (A.pgLaneStatus 50 6) 2 = true ∧ rbit upPort (A.pgPortStatus 50) 1 = true) ∧
    smGet none (laneIn 0 []).fab.fecAt (8 * 50 + 6) = none := by
  decide +kernel
/-- The Causeway with port 0 holding, in both records. -/
def cwy (l : List (Nat × Nat)) : State := held l
theorem wit_LanesAndCauseway_CausewayCommands :
    (let s := cwy []; SmWf regReset s.regs ∧ portReady s 0 = true ∧ holds s 0 1 = true ∧ fstate s (fnGroup (48 + 2 * 3)) = fsOff ∧ fstate s (fnGroup (49 + 2 * 3)) = fsOff ∧
      rf s (A.cwyCtrl 3) 0 0 = 0 ∧ rbit s (A.cwyStatus 3) 3 = false ∧ s.fuses.grade ≠ .fys6144 ∧ rbit s (A.cwyStatus 0) 3 = false) ∧
    (let s := cwy [(A.cwyCtrl 3, 1), (A.cwyStatus 3, 8), (A.cwyStatus 0, 8)]; rf s (A.cwyCtrl 3) 0 0 = 1 ∧ rbit s (A.cwyStatus 3) 3 = true ∧ rbit s (A.cwyStatus 0) 3 = true) ∧
    (let s := cwy [(A.dkFuncState (fnGroup 55), 2)]; fstate s (fnGroup (49 + 2 * 3)) ≠ fsOff) ∧
    cwyState (cwy [(A.cwyStatus 3, 1)]) 3 = cwOpening ∧ cwyState (cwy [(A.cwyStatus 3, 3)]) 3 = cwClosing ∧ cwyState (cwy []) 3 = cwClosed := by
  decide +kernel

/-- A collective's descriptor: its KIND, ROP, RMODE, AMODE, SRC and COUNT. -/
def dsc (kind rop rmode amode src count : Nat) : List Byte :=
  [(2, 1, kind), (4, 2, 5), (6, 2, 8), (8, 1, rop), (9, 1, rmode), (10, 1, amode), (11, 1, src), (16, 4, count), (20, 4, 2)].foldl
    (fun b f => patch b f.1 (leBytes f.2.1 f.2.2)) (List.replicate 128 0)
def knownAs (d : List Byte) : Known := { desc := d, below := [[1], [2, 3]], tag := 7 }
/-- A packet of class cls on record sr of tree 5. -/
def collPk (cls sr : Nat) (pl : List Byte) : List Byte :=
  mkPacket { epoch := 0, cls := cls, op := opColl, src := 4, job := 6, sr := sr, oparg := collArg 5 8 } pl
/-- A packet that is whole at RSE 9. -/
def heldOf (b : List Byte) : Held :=
  { bytes := b, src := 20, chan := 2, ded := 0, shared := 1, since := 0, dst := 5129, stage := .queued, come := pkCells b }
/-- The packet waits at RSE 9; the up edge of tree 5 is a link, or there is none. -/
def atRse (up : List Byte) (ordered : Bool) (cls sr : Nat) (pl : List Byte) : State :=
  let s := withTreeO up ordered (held ctx3)
  { s with fab := { s.fab with held := [heldOf (collPk cls sr pl)] } }
theorem atRse_tree {up : List Byte} {o : Bool} {cls sr : Nat} {pl b : List Byte} {t : Tree}
    (he : treeFieldsOk (entryB up o) = true ∧ treeOf 0 5 (entryB up o) = t) (hb : rn64 (atRse up o cls sr pl) (A.rtTreeBase 0 0) = hbmBase + 0x20000000)
    (hn : (atRse up o cls sr pl).fab.noFit = []) (h : pkEpoch b = 0 ∧ opTree b = 5 ∧ t.job = pkJob b) : packetTree (atRse up o cls sr pl) b = some t :=
  packetTree_of he (by simp only [atRse, hbm_tree]) hb hn h
def hd0 (s : State) : Held := s.fab.held.getD 0 { bytes := [], src := 0, chan := 0, ded := 0, shared := 0, since := 0, dst := 0, stage := .queued }
/-- What the stream check leaves of it, for an edge. -/
def after (s : State) (t : Tree) (x : Edge) : Bool × State := rxCheck (edgeAnswers s 9 t x) (hd0 s).bytes none (takeHeld (hd0 s) s)
def pre (form nblk : Nat) (anchor : Int) : List Byte := PHead.bytes { form := form, nblk := nblk, anchor := anchor, elem := 0 }
def ones4 : List Byte := List.replicate 16 0x22
/-- Everything else that Rises asks. -/
def risesOk (s : State) (form : Nat) (k : Known) (t : Tree) (e : Nat) : Bool :=
  let b := (hd0 s).bytes
  let o := newOp s 9 t (opCseq b) k
  decide (rseHeld s 9 form clCollUp = some (hd0 s)) && (after s t (t.down.getD e t.up)).1 &&
    decide (downEdgeOf t (treePos t b) b = some e) && decide (findOp s 9 t.num (opCseq b) = none) && slotsFree s t o (pheadOf (pkPayload b)) &&
    decide (cdKind o.desc = kScan → t.ordered = true)
theorem rises_of_ok (s : State) (form : Nat) (k : Known) (t : Tree) (e : Nat) (h3 : packetTree s (hd0 s).bytes = some t) (h : risesOk s form k t e = true) :
    Rises s 9 form k (hd0 s).bytes t e (newOp s 9 t (opCseq (hd0 s).bytes) k) (after s t (t.down.getD e t.up)).2 := by
  simp only [risesOk, Bool.and_eq_true, decide_eq_true_eq] at h
  obtain ⟨⟨⟨⟨⟨h1, h2⟩, h4⟩, h5⟩, h6⟩, h7⟩ := h
  exact { held := ⟨hd0 s, h1, rfl, Prod.ext h2 rfl⟩, tree := h3, edge := h4, op := by rw [h5]; rfl, sound := ⟨rfl, h7⟩, slots := h6 }
/-- The operation that the packet meets. -/
def opOf (s : State) (t : Tree) (k : Known) : RseOp :=
  (findOp s 9 t.num (opCseq (hd0 s).bytes)).getD (newOp s 9 t (opCseq (hd0 s).bytes) k)
/-- Everything else that Falls asks. -/
def fallsOk (s : State) (form : Nat) (t : Tree) : Bool :=
  let b := (hd0 s).bytes
  decide (rseHeld s 9 form clCollDn = some (hd0 s)) && (after s t t.up).1 &&
    t.up.v && decide (pkSr b = t.up.esr + 2 * treePos t b + 1 ∧ treePos t b < 16)
theorem falls_of_ok (s : State) (form : Nat) (k : Known) (t : Tree) (h3 : packetTree s (hd0 s).bytes = some t) (h : fallsOk s form t = true)
    (g : (opOf s t k).bad = false) : Falls s 9 form k (hd0 s).bytes t (opOf s t k) (after s t t.up).2 := by
  simp only [fallsOk, Bool.and_eq_true, decide_eq_true_eq] at h
  obtain ⟨⟨⟨h1, h2⟩, h4⟩, h5⟩ := h
  exact { held := ⟨hd0 s, h1, rfl, Prod.ext h2 rfl⟩, tree := h3, edge := ⟨h4, h5⟩, op := rfl, sound := g }
def sumD (src : Nat) : List Byte := dsc kAllreduce ropSum 0 0 src 32
/-- NATIVE from the member on edge 0. -/
def natS (up : List Byte) (pl : List Byte) : State := atRse up false clCollUp 300 pl
def natPl : List Byte := pre fmNative 1 10 ++ ones4
def noEdge : Edge := edgeOf noUp
def land0 : Landing := { id := 1, run := runB (cmdB 0x40 []), fused := false, desc := dsc kAllreduce ropSum 0 0 0 32, list := [], flag := 0, rank := 2, status := 0, got := [], ends := [], cnts := [], wrote := [], tabs := [], dropped := 0, exps := [], lasts := [], next := 0, due := [], sent := true, released := false }
/-- What the stream check of pier 5 leaves. -/
def checkedPk (s : State) : Bool × State := let a := arr s; rxCheck (pierAnswers s (srCtx s (pkSr a.bytes)) 5) a.bytes none (takeArrived a s)
/-- ANCHORED from the link on edge 1: one block of zeros, encoded. -/
def blk1 : List Byte := (encodeBlock false (List.replicate 32 { v := 0 })).2
def ancS : State := atRse upLink false clCollUp 500 (pre fmAnchored 1 10 ++ blk1)
def ancS0 : State := atRse upLink false clCollUp 300 (pre fmAnchored 1 10 ++ blk1)
def fastD : List Byte := dsc kAllreduce ropSum 1 0 fcE2m1 32
def fstS : State := atRse upLink false clCollUp 500 (pre fmFast 1 0 ++ ones4)
def fstS0 : State := atRse upLink false clCollUp 300 (pre fmFast 1 0 ++ ones4)
def preD : List Byte := dsc kAllreduce ropSum 0 2 fcE2m1 300
def expS (b : Byte) : State := atRse upLink false clCollUp 300 (pre fmExponent 1 0 ++ [b])
def dnS (ordered : Bool) (pl : List Byte) : State := atRse upLink ordered clCollDn 101 pl
def scanD : List Byte := dsc kScan ropSum 0 0 fcS32 32
/-- A scan of integers has sent its block 0 up, and its offset has come. -/
def scnS (ordered : Bool) : State :=
  let s := dnS ordered (pre fmScan 1 0 ++ blk1)
  if ordered then putOp { newOp s 9 (treeO upLink true) 8 (knownAs scanD) with blocks := [{ blk := 0, status := 1, parts := [(0, List.replicate 32 { v := 1 })], best := [], nodes := [], cover := [], up := true }] } s
  else s
/-- Pier 5 has a landing of the collective 8 of tree 5, and a packet of a form is there. -/
def resPl : List Byte := pre fmResult 1 0 ++ ones4
/-- The sum, with FP4 results. -/
def sumD4 : List Byte := patch (sumD fcE2m1) 12 [5]
/-- A RESULT that goes to RSE 9 beyond one edge. -/
def beyondS (pl : List Byte) : State :=
  let s := withTreeO upLink false (held ctx3)
  { s with fab := { s.fab with held := [heldOf (mkPacket { epoch := 0, cls := clCollDn, op := opColl, src := 4, job := 6, sr := 0,
                                                            oparg := collArg 5 8 + 2 ^ 11 } pl)] } }
def mbrS (pl : List Byte) : State :=
  let s := srWrite 40 clCollDn 3 4 41 6 64 (held ctx3)
  let s := { s with pr := { s.pr with piers := [(5, { Pier.reset with resident := some 3, lands := [land0] })] } }
  inbox 5 18 (collPk clCollDn 40 pl) s
theorem wit_ReductionPackets_native :
    (risesOk (natS noUp natPl) fmNative (knownAs (sumD fcE2m1)) (treeO noUp false) 0 = true ∧ risesOk (natS noUp (natPl ++ [0])) fmNative (knownAs (sumD fcE2m1)) (treeO noUp false) 0 = true ∧
      (∀ d ∈ [sumD 0, dsc kAllreduce ropMax 0 0 fcE2m1 32, fastD, dsc kBroadcast 0 0 0 fcE2m1 32], risesOk (natS upLink natPl) fmNative (knownAs d) (treeO upLink false) 0 = true ∧
        spanOk (newOp (natS upLink natPl) 9 (treeO upLink false) 8 (knownAs d)) (pheadOf natPl) = true) ∧
      (∀ d ∈ [dsc kAlltoall 0 0 0 fcE2m1 32, dsc kBarrier 0 0 0 fcE2m1 32], reduces d = false ∧
        risesOk (natS upLink natPl) fmNative (knownAs d) (treeO upLink false) 0 = true) ∧
      (risesOk (atRse upLink false clCollUp 500 natPl) fmNative (knownAs (sumD fcE2m1)) (treeO upLink false) 1 = true ∧
        ((treeO upLink false).down.getD 1 noEdge).member = false) ∧
      (pheadOf natPl).form = fmNative ∧ (pheadOf natPl).status = 0 ∧
      pheadOk natPl = true ∧ natPl.length = 16 + bufBytes fcE2m1 32 ∧ isFast fastD = true ∧ isMaxMin (dsc kAllreduce ropMax 0 0 fcE2m1 32) = true ∧
      ((treeO upLink false).down.getD 0 noEdge).member = true) := by
  decide +kernel
theorem wit_ReductionPackets_anchored :
    (risesOk ancS fmAnchored (knownAs (sumD fcE2m1)) (treeO upLink false) 1 = true ∧ risesOk ancS0 fmAnchored (knownAs (sumD fcE2m1)) (treeO upLink false) 0 = true ∧
      decodeBlocks 1 blk1 = some [List.replicate 32 { v := 0 }] ∧ ((treeO upLink false).down.getD 1 noEdge).member = false ∧ pheadOk (pkPayload (hd0 ancS).bytes) = true) := by
  decide +kernel
theorem wit_ReductionPackets_fast :
    (risesOk fstS fmFast (knownAs fastD) (treeO upLink false) 1 = true ∧ risesOk fstS0 fmFast (knownAs fastD) (treeO upLink false) 0 = true ∧ pheadOk (pkPayload (hd0 fstS).bytes) = true) := by
  decide +kernel
theorem wit_ReductionPackets_exponent :
    (risesOk (expS 5) fmExponent (knownAs preD) (treeO upLink false) 0 = true ∧ risesOk (expS 5) fmExponent (knownAs (sumD fcE2m1)) (treeO upLink false) 0 = true ∧
      expOk (newOp (expS 5) 9 (treeO upLink false) 8 (knownAs preD)) (pkPayload (hd0 (expS 5)).bytes) = true ∧
      expOk (newOp (expS 5) 9 (treeO upLink false) 8 (knownAs (sumD fcE2m1))) (pkPayload (hd0 (expS 5)).bytes) = false) := by
  decide +kernel
theorem wit_ReductionPackets_exponent_down :
    (let s := dnS false (pre fmExponent 1 0 ++ [5]); fallsOk s fmExponent (treeO upLink false) = true ∧ expOk (opOf s (treeO upLink false) (knownAs preD)) (pkPayload (hd0 s).bytes) = true) := by
  decide +kernel
theorem wit_ReductionPackets_scan :
    (fallsOk (scnS false) fmScan (treeO upLink false) = true ∧ fallsOk (scnS true) fmScan (treeO upLink true) = true ∧
      (let o := opOf (scnS true) (treeO upLink true) (knownAs scanD); o.bad = false ∧ o.blocks.length = 1 ∧ spanOk o (pheadOf (pkPayload (hd0 (scnS true)).bytes)) = true ∧
        intSum o.desc = true ∧ findOp (after (scnS true) (treeO upLink true) (treeO upLink true).up).2 o.node o.tree o.cseq = some o)) := by
  decide +kernel
theorem wit_ReductionPackets_result :
    (let s := dnS false (pre fmResult 1 0 ++ ones4); fallsOk s fmResult (treeO upLink false) = true) ∧
    (∀ pl ∈ [resPl, resPl ++ [0]], let t := treeO upLink false
      (let s := dnS false pl; fallsOk s fmResult t = true ∧ opRseDst (hd0 s).bytes = false) ∧
      (let s := beyondS pl; rseHeld s 9 fmResult clCollDn = some (hd0 s) ∧ opRseDst (hd0 s).bytes = true ∧
        pkCheckOk (hd0 s).bytes = true ∧ (opOf s t (knownAs (sumD4))).bad = false) ∧
      resultOk (opOf (beyondS pl) t (knownAs (sumD4))) pl = decide (pl.length = resPl.length)) := by
  decide +kernel
theorem wit_ReductionPackets_beyond : packetTree (beyondS resPl) (hd0 (beyondS resPl)).bytes = some (treeO upLink false) :=
  packetTree_of entry_up (by simp only [beyondS, hbm_tree]) (by decide +kernel) (by decide +kernel) (by decide +kernel)
theorem wit_ReductionPackets_member :
    (∀ x ∈ [fmResult, fmExponent], let s := mbrS (pre x 1 0 ++ ones4); arrivedAt s 5 (fun b => pkOp b == opColl && pkClass b == clCollDn && be b 32 1 == x) = some (arr s) ∧
      landOf s 5 (arr s).bytes = some land0 ∧ (checkedPk s).1 = true) := by
  decide +kernel

/-- A FAST packet of one block, as bytes: header, prefix, 32 FP32 ones, and check. -/
def fstPk : List Byte :=
  [19, 8, 0, 0, 0, 0, 0, 0, 0, 0, 4, 0, 0, 6, 0, 144, 0, 0, 0, 0, 0, 0, 1, 244, 0, 0, 0, 0, 80, 0, 128, 0] ++
    [3, 1, 0, 0, 0, 0, 0, 0, 0, 0, 0, 0, 0, 0, 0, 0] ++ (List.replicate 32 [0, 0, 0x80, 0x3F]).flatten ++
    [0xdc, 0x26, 0x99, 0x5e, 0xfc, 0x8d, 0x39, 0x18]
def crcOn (r : BitVec 64) (m : List Byte) : BitVec 64 :=
  m.foldl (fun (r : BitVec 64) (b : Byte) => (List.range 8).foldl (fun r _ => crc64Bit r) (r ^^^ (b.setWidth 64 <<< 56))) r
def half : List Byte := (List.replicate 16 [0, 0, 0x80, 0x3F]).flatten
theorem crc_append (a b : List Byte) (r : BitVec 64) : crcOn r (a ++ b) = crcOn (crcOn r a) b := List.foldl_append
theorem crc_head : crcOn (BitVec.allOnes 64) (fstPk.take 48) = 0x20cf98db8f5e6d8d#64 := by decide +kernel
theorem crc_half1 : crcOn 0x20cf98db8f5e6d8d#64 half = 0x0854f28dbde10e0d#64 := by decide +kernel
theorem crc_half2 : (crcOn 0x0854f28dbde10e0d#64 half ^^^ BitVec.allOnes 64).toNat = 0xdc26995efc8d3918 := by decide +kernel
theorem fst_parts : checkedHeader fstPk ++ pkPayload fstPk = fstPk.take 48 ++ (half ++ half) := by decide +kernel
theorem fst_check : pkCheckOk fstPk = true := by
  have h : pkCheck fstPk = 0xdc26995efc8d3918 := by
    show (crcOn (BitVec.allOnes 64) (checkedHeader fstPk ++ pkPayload fstPk) ^^^ BitVec.allOnes 64).toNat = _
    rw [fst_parts, crc_append, crc_append, crc_head, crc_half1]; exact crc_half2
  unfold pkCheckOk
  rw [h]
  decide +kernel
/-- That packet at RSE 9. -/
def fstS1 : State := let s := atRse upLink false clCollUp 500 []
  { s with fab := { s.fab with held := [heldOf fstPk] } }
def treeF : Tree := treeO upLink false
theorem fst_accepted : after fstS1 treeF (treeF.down.getD 1 treeF.up) = (true, takeHeld (hd0 fstS1) fstS1) := by
  have h : pkCheckOk (hd0 fstS1).bytes = true := fst_check
  have h2 : srState (takeHeld (hd0 fstS1) fstS1) (pkSr (hd0 fstS1).bytes) = srOpen := by decide +kernel
  have h3 : seqSub (pkSeq (hd0 fstS1).bytes) (srRxExp (takeHeld (hd0 fstS1) fstS1) (pkSr (hd0 fstS1).bytes)) = 0 := by decide +kernel
  have hr : srRead (pkSr (hd0 fstS1).bytes) (takeHeld (hd0 fstS1) fstS1) = takeHeld (hd0 fstS1) fstS1 := by decide +kernel
  unfold after rxCheck
  simp only [hr, h, h2, h3]
  rfl
theorem fst_tree : packetTree fstS1 fstPk = some treeF :=
  packetTree_of entry_up (by simp only [fstS1, atRse, hbm_tree]) (by decide +kernel) (by decide +kernel) (by decide +kernel)
theorem wit_ReductionPackets_fast_rises : ∀ d ∈ [fastD, dsc kAllreduce ropMax 0 0 fcE2m1 32],
    ∃ o u, Rises fstS1 9 fmFast (knownAs d) fstPk treeF 1 o u ∧ (o.desc = d ∧ isFast fastD = true ∧
    isMaxMin fastD = false ∧ isMaxMin (dsc kAllreduce ropMax 0 0 fcE2m1 32) = true ∧ (treeF.down.getD 1 treeF.up).member = false) ∧
    (pheadOk (pkPayload fstPk) = true ∧ spanOk o (pheadOf (pkPayload fstPk)) = true ∧
      (pheadOf (pkPayload fstPk)).level = 0 ∧ (pheadOf (pkPayload fstPk)).node = 0 ∧ (pkPayload fstPk).length = 16 + 128) := by
  intro d hd
  refine ⟨newOp fstS1 9 treeF 8 (knownAs d), takeHeld (hd0 fstS1) fstS1, ⟨⟨hd0 fstS1, by decide +kernel, by decide +kernel, fst_accepted⟩,
    fst_tree, by decide +kernel, ?_, ?_, ?_⟩, ?_⟩
  rotate_left
  · revert d; decide +kernel
  · revert d; decide +kernel
  · revert d; decide +kernel
  · have : findOp fstS1 9 treeF.num (opCseq fstPk) = none := by decide +kernel
    rw [this]; rfl
theorem wit_ReductionPackets_rises : ∃ b t e o u, Rises (natS upLink natPl) 9 fmNative (knownAs (sumD fcE2m1)) b t e o u :=
  ⟨_, _, _, _, _, rises_of_ok (natS upLink natPl) fmNative (knownAs (sumD fcE2m1)) (treeO upLink false) 0
    (atRse_tree entry_up (by decide +kernel) (by decide +kernel) (by decide +kernel)) (by decide +kernel)⟩
theorem wit_ReductionPackets_falls : ∃ b t o u, Falls (dnS false (pre fmResult 1 0 ++ ones4)) 9 fmResult (knownAs (sumD fcE2m1)) b t o u :=
  ⟨_, _, _, _, falls_of_ok (dnS false (pre fmResult 1 0 ++ ones4)) fmResult (knownAs (sumD fcE2m1)) (treeO upLink false)
    (atRse_tree entry_up (by decide +kernel) (by decide +kernel) (by decide +kernel)) (by decide +kernel) (by decide +kernel)⟩

/-- A stream's program: stage 0 of n0 instructions and all of them, two-word records in, one word on, three or no words out; tables of 4 and 8. -/
def progB (n0 : Nat) (ins : List Nat) : List Byte :=
  patch (List.replicate 576 0) 0 (leBytes 2 0x5053 ++ leBytes 1 ins.length ++ leBytes 1 n0 ++ leBytes 1 2 ++ leBytes 1 1 ++ leBytes 1 3 ++ leBytes 1 0 ++ leBytes 4 0 ++
    leBytes 2 4 ++ leBytes 2 8 ++ List.replicate 48 0 ++ ins.flatMap (leBytes 8))
def insB (op ty d a b pd pg sub imm : Nat) : Nat :=
  imm + 2 ^ 32 * (sub + 2 ^ 10 * (pg + 4 * (pd + 4 * (b + 8 * (a + 8 * (d + 8 * (ty + 8 * op)))))))
def strmD : List Byte := patch (patch (patch (patch (dsc kStream 0 0 0 0 0) 0x14 (leBytes 4 4)) 0x48 (leBytes 4 2)) 0x58 (leBytes 4 100)) 0x68 (leBytes 1 3)
def strmO (p : List Byte) (tabs : List (List Nat)) : StrmOp :=
  { node := 9, tree := 5, cseq := 8, ver := 0, ctx := 3, tag := 7, desc := strmD, list := [0x0109, 0x010A], prog := p, pver := 0, bad := false,
    mixed := false, changed := false, landing := false, bodies := [], nextBody := 0, spills := [], tables := tabs, s0 := Stage.empty, s1 := Stage.empty, drops := [], outs := [], homes := [] }
def rec_ (rank idx : Nat) (f : List Nat) (p1 : Bool) : Rec := { rank := rank, idx := idx, f := f ++ List.replicate (8 - f.length) 0, p := [true, p1, false, false], body := none }
def tabs0 : List (List Nat) := [[1, 2, 3, 2 ^ 32 - 1], List.replicate 8 7, [], []]
/-- Three records meet an instruction of a stage, at the lane array of RSE 9; another follows it. -/
def laneS (n0 : Nat) (i : Nat) (recs : List Rec) : State :=
  let o := strmO (progB n0 [i, 0]) tabs0
  { held ctx3 with net := { (held ctx3).net with strm := [o], lane := [{ node := 9, tree := 5, cseq := 8, stage := 0, pc := 0, recs := recs, body := none, started := true }] } }
def jb (s : State) : LaneJob := s.net.lane.getD 0 ⟨0, 0, 0, 0, 0, [], none, false⟩
def op0 (s : State) : StrmOp := s.net.strm.getD 0 (strmO [] [])
def recs3 : List Rec := [rec_ 1 5 [2, 0xC0000000] true, rec_ 1 3 [1, 0x40400000] false, rec_ 0 9 [2, 0x7F800001] true]
def done' (s : State) (f : Rec → Rec) (x : SIns) : State := laneMove 9 (jb s) { o := op0 s, stage := (jb s).stage, recs := guarded x (jb s) f, s := s }
-- register style: two-operand
-- ordered
def mine (s : State) (x : SIns) : List Rec := (jb s).recs.filter fun r => prd r x.pg
def okOwn (s : State) (x : SIns) (e : NodeNo → State → Host.Outcome State Fault Refusal) (rs : Option (List Rec)) (f : Nat → Nat) (set_ : Bool := false) : Bool :=
  let u := nx (e 9 s); let o' := op0 u; let o := op0 s; let t := x.sub % 4
  let rs' := rs.getD (jb u).recs
  isNx (e 9 s) (laneMove 9 (jb s) { o := o', stage := (jb s).stage, recs := rs', s := s }) && decide (o' = { o with tables := o'.tables }) &&
    (List.range 6).all (fun q => q == t || o'.tables.getD q [] == o.tables.getD q []) &&
    (set_ || (List.range (pgTsize o.prog t)).all fun i => tableGet o' t i % 2 ^ 32 == (tableGet o t i + f i) % 2 ^ 32)
-- sending
def sendOk (s : State) (e : NodeNo → State → Host.Outcome State Fault Refusal) (u : State → State) : Bool × StrmOp :=
  let v := nx (e 9 s); let o' := op0 v
  (isNx (e 9 s) (laneMove 9 (jb s) { o := o', stage := 0, recs := (jb s).recs, s := u v }), o')

/-- Job 6 has two ranks; the entry of rank 1 is read inside the tree's own entry, where a word spells a valid one. -/
def withJob (s : State) : State :=
  regsSet [(A.rtJob 6, 2 ^ 31 + 2), (A.rtRankBase 2 0 0, 0x20001435), (A.rtRankBase 2 0 1, 0x10), (A.rtRankCount 2 0, 2), (A.rtRankJob 2, 0x10006)] s
def emitI : Nat := insB 0x31 0 0 0 1 0 1 4 0
-- gathered stage
def gathI : List Nat := [insB 0x20 2 0 0 0 0 0 0 0, 0]
def strmG : StrmOp := let o := strmO (progB 2 gathI) tabs0
  { o with s0 := { o.s0 with recs := recs3, ends := [(1, 2)], cnts := [(1, 2)] } }
def gatS (begun : Bool) : State := let s := withTree noUp (held ctx3)
  { s with net := { s.net with strm := [strmG],
                               lane := [{ node := 9, tree := 5, cseq := 8, stage := 0, pc := 0, recs := [], body := none, started := begun }] } }
-- laneMove
-- packets
def strmPl (kind w nrec idx count : Nat) (recs : List Byte) : List Byte := SHead.bytes { kind := kind, w := w, nrec := nrec, idx := idx, count := count } ++ recs
def inPl : List Byte := strmPl 0x10 2 2 5 0 (List.replicate 16 1)
def kS : Known := { desc := strmD, below := [], tag := 7 }
def collPk2 (cls sr src arg : Nat) (pl : List Byte) : List Byte :=
  mkPacket { epoch := 0, cls := cls, op := opColl, src := src, job := 6, sr := sr, oparg := arg } pl
/-- A packet of member 1 waits at RSE 9, in whose store slot 3 has a program. -/
def strmAt (ins : List Nat) (pl : List Byte) : State :=
  let s := withTree noUp (held ctx3)
  { s with fab := { s.fab with held := [heldOf (collPk2 clCollUp 300 1 (collArg 5 8) pl)] },
           net := { s.net with progs := [(3, progB ins.length ins)] } }
def eg : Edge := (treeO noUp false).down.getD 0 (treeO noUp false).up
def riseU (s : State) : Bool × StrmOp × State :=
  let h := hd0 s; let t := treeO noUp false; let r := rxCheck (edgeAnswers s 9 t eg) h.bytes none (takeHeld h s)
  (r.1, meetStrm 9 t (opCseq h.bytes) (pkEpoch h.bytes) kS r.2)
def streamOk (s : State) (kind : Nat) : Bool :=
  let b := (hd0 s).bytes; let t := treeO noUp false
  decide (s.fab.held.find? (fun h => h.dst == 5120 + 9 && allCome h && pkOp h.bytes == opColl && pkClass h.bytes == clCollUp && !opRseDst h.bytes && be h.bytes 32 1 == kind) = some (hd0 s)) &&
    (riseU s).1 && decide (downEdgeOf t (treePos t b) b = some 0) && decide (findStrm s 9 t.num (opCseq b) = none) &&
    (let q := newStrm s 9 t (opCseq b) (pkEpoch b) kS
     !if kind = 0x10 then strmNoRoom (takeHeld (hd0 s) s) q 0 (pkSrc b) (pkPayload b) else strmFull (takeHeld (hd0 s) s) q)
theorem rises_of_streamOk (s : State) (kind : Nat) (h3 : packetTree s (hd0 s).bytes = some (treeO noUp false)) (h : streamOk s kind = true) :
    StreamRises s 9 kind kS (hd0 s).bytes (treeO noUp false) 0 (riseU s).2.1 (riseU s).2.2 := by
  simp only [streamOk, Bool.and_eq_true, decide_eq_true_eq, Bool.not_eq_true'] at h
  obtain ⟨⟨⟨⟨h1, h2⟩, h4⟩, h5⟩, h6⟩ := h
  exact { held := ⟨hd0 s, _, h1, rfl, Prod.ext h2 rfl, rfl, by rw [h5]; exact h6⟩, tree := h3, edge := h4 }
theorem strmAt_tree (ins : List Nat) (pl : List Byte) (hb : rn64 (strmAt ins pl) (A.rtTreeBase 0 0) = hbmBase + 0x20000000)
    (h : pkEpoch (hd0 (strmAt ins pl)).bytes = 0 ∧ opTree (hd0 (strmAt ins pl)).bytes = 5 ∧ (treeO noUp false).job = pkJob (hd0 (strmAt ins pl)).bytes) :
    packetTree (strmAt ins pl) (hd0 (strmAt ins pl)).bytes = some (treeO noUp false) :=
  packetTree_of entry_noUp (by simp only [strmAt, withTree, hbm_tree]) hb rfl h
theorem wit_StreamStages_gathered : ∀ begun, let s := gatS begun; s.net.lane.find? (fun j => j.node == 9) = some (jb s) ∧
    findStrm s 9 (jb s).tree (jb s).cseq = some strmG ∧ (jb s).started = begun ∧ (stageOf strmG (jb s).stage).recs = recs3 := by
  decide +kernel
theorem wit_StreamStages_inPkt : ∃ b t e o u, StreamRises (strmAt gathI inPl) 9 0x10 kS b t e o u :=
  ⟨_, _, _, _, _, rises_of_streamOk (strmAt gathI inPl) 0x10 (strmAt_tree gathI inPl (by decide +kernel) (by decide +kernel)) (by decide +kernel)⟩
def endPl : List Byte := strmPl 0x13 0 0 0 2 []
theorem wit_StreamStages_endPkt : ∃ b t e o u, StreamRises (strmAt gathI endPl) 9 0x13 kS b t e o u :=
  ⟨_, _, _, _, _, rises_of_streamOk (strmAt gathI endPl) 0x13 (strmAt_tree gathI endPl (by decide +kernel) (by decide +kernel)) (by decide +kernel)⟩
-- PART from another RSE
def partI : List Nat := [insB 0x30 0 0 0 0 0 0 0 0, insB 0x20 2 0 0 0 0 0 0 0]
def partPl : List Byte := strmPl 0x11 1 1 0 0 (leBytes 8 (2 ^ 32 + 4) ++ leBytes 4 9)
/-- PART from another RSE waits at home RSE 9. -/
def partAt (full : Bool) : State :=
  let s := withTree noUp (held ctx3)
  { s with fab := { s.fab with held := [heldOf (collPk2 clCollUp 0 0x010A (collArg 5 8 + 2 ^ 11) partPl)] },
           net := { s.net with progs := [(3, progB 1 partI)], strm := if full then (List.range 16).map fun i => { strmO [] [] with tree := 100 + i } else [] } }
def partCase (s : State) (full : Bool) : Bool :=
  let b := (hd0 s).bytes; let t := treeO noUp false; let v := b2n (bit (be b 40 1) 2)
  pkCheckOk b && strmNoRoom s ((findStrm s 9 t.num (opCseq b)).getD (newStrm s 9 t (opCseq b) v kS)) 1 (pkSrc b) (pkPayload b) == full
theorem wit_StreamStages_part : ∀ full, fromRse (partAt full) 9 0x11 = some (hd0 (partAt full), some (treeO noUp false)) ∧ partCase (partAt full) full = true := by
  have h (full : Bool) : packetTree (partAt full) (hd0 (partAt full)).bytes = some (treeO noUp false) :=
    packetTree_of entry_noUp (by simp only [partAt, withTree, hbm_tree]) (by cases full <;> decide +kernel) rfl (by cases full <;> decide +kernel)
  have g (full : Bool) : (partAt full).fab.held.find? (fun h => h.dst == 5120 + 9 && allCome h && pkOp h.bytes == opColl && pkClass h.bytes == clCollUp &&
      opRseDst h.bytes && be h.bytes 32 1 == 0x11) = some (hd0 (partAt full)) := by cases full <;> decide +kernel
  intro full
  constructor
  · unfold fromRse
    rw [g, Option.map_some, h]
  · cases full <;> decide +kernel

/-- An instruction that meets R252, by opcode, of TYPE 0 or 2; table 0 where it names one. -/
def insK (op ty : Nat) : Nat := insB op (if op = 0x12 ∨ op = 0x13 then 2 else ty) 1 0 1 1 0 0 1
/-- Records that index no table beyond its end. -/
def recsLow : List Rec := [rec_ 1 5 [2, 0xC0000000] true, rec_ 1 3 [1, 0x40400000] false, rec_ 0 9 [2, 0x7F800001] true]
def atLaneOk (s : State) (i : Nat) : Bool := decide (AtLane s 9 (jb s) (op0 s) (insOf i))
theorem wit_RecordInstructions : ∀ op ∈ [0, 1, 2, 3, 4, 5, 6, 7, 8, 9, 0xA, 0xB, 0xC, 0xD, 0xE, 0x10], ∀ ty ∈ [0, 1, 2],
    let i := insK op ty; let s := laneS 2 i recsLow
    atLaneOk s i = true ∧ (insOf i).op = op ∧ (insOf i).ty = ty ∧ (insOf i).sub % 8 < 7 ∧
      ∀ r ∈ (jb s).recs, prd r (insOf i).pg = true → fld r (insOf i).a < pgTsize (op0 s).prog ((insOf i).sub % 4) := by decide +kernel
theorem wit_OrderedInstructions : (∀ op ∈ [0x11, 0x12, 0x13, 0x14, 0x15, 0x20, 0x21, 0x22, 0x23], let i := insK op 2; let s := laneS 2 i recsLow
    atLaneOk s i = true ∧ (insOf i).op = op ∧ (insOf i).ty = 2 ∧ ((op0 s).tables.getD 0 []).length = pgTsize (op0 s).prog 0 ∧ (insOf i).imm < pgTsize (op0 s).prog 0 ∧
      bit (insOf i).sub 1 = false ∧ (op0 s).drops = [] ∧
      ∀ r ∈ (jb s).recs, prd r (insOf i).pg = true → fld r (insOf i).a < pgTsize (op0 s).prog ((insOf i).sub % 4)) ∧
    (let i := insB 0x11 2 0 0 1 0 1 4 0; let s := laneS 2 i recsLow; atLaneOk s i = true ∧ (insOf i).sub / 4 % 4 = 1) ∧
    SmWf regReset (laneS 2 0 recsLow).regs := by decide +kernel
theorem wit_SendingInstructions : (∀ op ∈ [0x24, 0x30], let i := insK op 0; let s := laneS 2 i recsLow
    atLaneOk s i = true ∧ (insOf i).op = op ∧ (op0 s).outs = [] ∧ (op0 s).homes = []) := by decide +kernel
/-- A record that lands at member 1 meets EMIT. -/
def emitS : State := withJob (withTree noUp (laneS 2 emitI [rec_ 1 5 [1, 9] true]))
def emitW : Work := { o := op0 emitS, stage := 0, recs := (jb emitS).recs, s := emitS }
theorem regsSet_hbm (l : List (Nat × Nat)) (s : State) : (regsSet l s).hbm = s.hbm := by
  unfold regsSet
  induction l generalizing s with
  | nil => rfl
  | cons w l h => rw [List.foldl_cons, h]; rfl
theorem emit_tree : treeEntry emitS 0 5 = some (treeO noUp false) :=
  treeEntry_of entry_noUp (by simp only [emitS, withJob, withTree, regsSet_hbm, hbm_tree]) (by decide +kernel)
theorem wit_SendingInstructions_emit : AtLane emitS 9 (jb emitS) (op0 emitS) (insOf emitI) ∧ SmWf regReset emitS.regs ∧
    ((jb emitS).recs.filter fun r => prd r (insOf emitI).pg) = [rec_ 1 5 [1, 9] true] ∧
    landsOk (insOf emitI) emitW (rec_ 1 5 [1, 9] true) = true := by
  refine ⟨by decide +kernel, by decide +kernel, by decide +kernel, ?_⟩
  unfold landsOk rankOfJob
  rw [show treeEntry emitW.s emitW.o.ver emitW.o.tree = some (treeO noUp false) from emit_tree]
  decide +kernel
/-- The third member's OUT and END at pier 5, whose landing has a stream's descriptor with a buffer in context 3's window. -/
def landS : Landing := { land0 with desc := patch strmD 0x30 (leBytes 8 (hbmBase + 0x20000000)), list := [0x0109], wrote := [] }
def outAt (pl : List Byte) : State :=
  let s := held ctx3
  let s := { s with pr := { s.pr with piers := [(5, { Pier.reset with resident := some 3, lands := [landS] })] } }
  inbox 5 18 (collPk2 clCollDn 0 0x0109 (collArg 5 8) pl) s
def outPl : List Byte := strmPl 0x12 2 1 0 0 (leBytes 8 4 ++ leBytes 8 77)
def endMPl : List Byte := strmPl 0x13 0 0 3 1 []
def noLand (s : State) : State := { s with pr := { s.pr with piers := [(5, { Pier.reset with resident := some 3 })] } }
theorem wit_StreamStages_member : (∀ s ∈ [outAt outPl, noLand (outAt outPl)], arrivedAt s 5 (fun b => pkOp b == opColl && pkClass b == clCollDn && be b 32 1 == 0x12) = some (arr s) ∧
      pkCheckOk (arr s).bytes = true ∧ isExpired s 5 (arr s).bytes = false) ∧ landOf (outAt outPl) 5 (arr (outAt outPl)).bytes = some landS ∧
      landOf (noLand (outAt outPl)) 5 (arr (outAt outPl)).bytes = none ∧ (sheadOf outPl).w = 2 ∧ (sheadOf outPl).nrec = 1 ∧ (outAt outPl).net.entries = [] ∧
    arrivedAt (outAt endMPl) 5 (fun b => pkOp b == opColl && pkClass b == clCollDn && be b 32 1 == 0x13) = some (arr (outAt endMPl)) ∧
      pkCheckOk (arr (outAt endMPl)).bytes = true ∧ landOf (outAt endMPl) 5 (arr (outAt endMPl)).bytes = some landS := by decide +kernel
-- program store
/-- A program of one stage. -/
def progOne : List Byte := patch (progB 1 [0]) 5 [0]
def storeS (busy : Bool) : State := let s := held (ctx3 ++ [(A.rsePstage 0, 0x00005053)])
  { regsSet [(A.rsePstatus, b2n busy)] s with net := { s.net with progs := [(3, [1])] } }
def loadS (b : List Byte) (e : Bool) : State := let s := storeS true; { s with net := { s.net with progLoad := some (4, b, e) } }
theorem wit_ProgramStore : (∀ b, SmWf regReset (storeS b).regs ∧ portReady (storeS b) 0 = true ∧ holds (storeS b) 0 (dieOf A.rsePload) = true ∧ rbit (storeS b) A.rsePstatus 0 = b) ∧
    (∀ e, (loadFault (loadS [1] e) [1] e).isSome = true ∧ SmWf regReset (loadS [] e).regs ∧ (loadS [] e).net.progs = [(3, [1])]) ∧
    loadFault (loadS [] true) [] true = some (2, 0x7F) ∧ loadFault (loadS [] false) [] false = none ∧
    loadFault (loadS progOne false) progOne false = none ∧ tstSpent (loadS [] false) actReconfig 16 = false := by decide +kernel

def rng (seed n m : Nat) : List Nat := ((List.range n).foldl (fun (a : List Nat × Nat) _ => let x := (a.2 * 6364136223846793005 + 1442695040888963407) % 2 ^ 64; (a.1 ++ [x / 2 ^ 20 % m], x)) ([], seed)).1
def zrOk (c : Nat) (xs : List Nat) (rest : List Byte) : Bool :=
  decide ((zrWrite c xs []).length ≤ zrCapacity c xs.length) && (match zrRow c (zrBlocks xs.length) 0 (zrWrite c xs [] ++ rest) with
    | .ok ys => decide (ys.map (fun y => y.getD 0) = xs) | .error _ => false)

/-- Girder 0 of pier 5 runs a command of context 3 over a store with small numbers. -/
def girdS (b : List Byte) : State := locWr 5 0x100 ((List.range 64).map fun i => BitVec.ofNat 8 (i % 7)) (running 5 0 (runB b) (held ctx3))
def mmB_ : List Byte := cmdB 0x10 [(9, 1, fcS8), (10, 1, fcS8), (11, 1, fcS32), (0x10, 4, 0x100), (0x14, 4, 0x110), (0x18, 4, 0x200), (0x24, 2, 1), (0x26, 2, 2), (0x28, 2, 4), (0x2A, 2, 1), (0x2C, 2, 1), (0x2E, 2, 1), (0x30, 2, 2)]
def cvB : List Byte := cmdB 0x12 [(9, 1, fcS8), (11, 1, fcFp16), (0x10, 4, 0x100), (0x14, 4, 0x200), (0x18, 4, 5)]
def ewB : List Byte := cmdB 0x13 [(9, 1, fcS8), (11, 1, fcS32), (0x10, 4, 0x100), (0x14, 4, 0x120), (0x1C, 4, 0x200), (0x20, 4, 6)]
def smB : List Byte := cmdB 0x14 [(9, 1, fcS8), (11, 1, fcFp32), (0x10, 4, 0x100), (0x14, 4, 0x200), (0x20, 4, 2), (0x24, 4, 3), (0x28, 4, 0x3F800000)]
def nmB : List Byte := cmdB 0x15 [(9, 1, fcS8), (11, 1, fcFp32), (0x10, 4, 0x100), (0x14, 4, 0x200), (0x18, 4, 0x300), (0x1C, 4, 0x320), (0x20, 4, 2), (0x24, 4, 3), (0x28, 4, 0x3F800000), (0x2C, 1, 1)]
def lrB : List Byte := cmdB 0x16 [(9, 1, fcS8), (11, 1, fcS32), (0x10, 4, 0x100), (0x14, 4, 0x10), (0x18, 4, 0x200), (0x1C, 4, 4), (0x20, 1, 2)]
theorem wit_GirderCommands :
    (Runs (girdS mmB_) 5 0 0x10 (runB mmB_) (mmFaults 0 false mmB_) ∧ firstBad ((List.range (mmN mmB_)).map (colB (girdS mmB_) 3 5 mmB_)) 0 = none ∧
      firstBad ((List.range (mmM mmB_)).map (rowA (girdS mmB_) 3 5 mmB_)) 0 = none) ∧
    Runs (girdS cvB) 5 0 0x12 (runB cvB) (convertFaults 0 cvB) ∧ Runs (girdS ewB) 5 0 0x13 (runB ewB) (elemwiseFaults 0 ewB) ∧ eopArity (ewOp ewB) = 2 ∧
    Runs (girdS smB) 5 0 0x14 (runB smB) (rowsFaults false 0 smB) ∧ Runs (girdS nmB) 5 0 0x15 (runB nmB) (rowsFaults true 0 nmB) ∧
    Runs (girdS lrB) 5 0 0x16 (runB lrB) (lreduceFaults 0 lrB) ∧ residentOn (girdS cvB) 3 5 = true := by decide +kernel
-- writeArray's room
theorem wit_GirderCommands_room : Canonical (girdS cvB) := ⟨by decide +kernel, by decide +kernel, by decide +kernel⟩

def gw (op fa fb fc fd imm : Nat) : Nat := imm + 2 ^ 32 * (fd + 2 ^ 8 * (fc + 2 ^ 6 * (fb + 2 ^ 6 * (fa + 2 ^ 6 * op))))
/-- A microprogram's command: FP16 in, FP32 out. -/
def upB : List Byte := cmdB 0x43 [(9, 1, fcFp16), (10, 1, fcFp16), (11, 1, fcFp32), (0x10, 4, 0x200400)]
def nan16 : List Byte := List.replicate 8 [0, 0x3C] |>.flatten
/-- Girder 0 is at the words a of its access stream, and x of its execute stream, with its queues. -/
def upS (a x : List Nat) (f : Girder → Girder) : State :=
  onGird 5 0 (fun _ => f { Girder.reset with cmd := some (3, 1), acc := streamOf a, exe := streamOf x, base := 9 }) (running 5 0 (runB upB) (held ctx3))
def endW : Nat := gw goEnd 0 0 0 0 0
def blkA : List Byte := List.replicate 64 0x3C
def blkB : List Byte := List.replicate 320 0x3C
def fullG (q : Girder) : Girder := { q with qa := List.replicate 32 [], qb := List.replicate 32 [] }
/-- The register X1 holds an address of the girder's store. -/
def x1 (q : Girder) : Girder := setX 1 0x200080 q
def vals : List Nat := List.replicate 16 0x3F800000
def wordOk (side : Bool) (op fa fb fc fd imm : Nat) (f : Girder → Girder) (more : Girder → Bool) : Bool :=
  let w := gw op fa fb fc fd imm
  let s := if side then upS [endW] [w, endW] f else upS [w, endW] [endW] f
  decide (NextWord s 5 0 side op (runB upB) (gWord w)) && decide (timingFault (getGird s 5 0) upB (gWord w) (getGird s 5 0).cycle = none) && more (getGird s 5 0)
def progSect : List Byte :=
  let prog := leBytes 2 0x4750 ++ leBytes 2 1 ++ leBytes 2 1 ++ List.replicate 58 0 ++ leBytes 8 endW ++ leBytes 8 endW
  List.replicate (16 * 3) 0 ++ leBytes 4 1024 ++ leBytes 4 80 ++ List.replicate (1024 - 56) 0 ++ prog
def progState : State := let s := running 5 0 (runB upB) (held ctx3)
  { s with sect := [(2 * secGirderprog, progSect)] }
def upProg : List Byte := slice progSect 1024 80
theorem wit_MicroprogramWords :
    (progCmd progState 5 0 = some (runB upB) ∧ (getGird progState 5 0).cmd = none ∧ gdProgram (sectV progState secGirderprog 0) (progSlot upB) = some upProg ∧
      firstFault (cstatFault upB ++ progFaults (gpExecute upProg) upB) = none) ∧
    wordOk false goSetx 1 0 0 1 0 id (fun _ => true) = true ∧ wordOk false goAddx 2 1 0 0 77 x1 (fun _ => true) = true ∧
    (∀ op ∈ [goLda, goLdb], wordOk false op 1 0 0 0 64 x1 (fun q => q.qa.length == 0 && q.qb.length == 0 && localOk 0 (getX q 1) 320) = true) ∧
    wordOk false goLda 1 0 0 0 64 (fullG ∘ x1) (fun q => decide (32 ≤ q.qa.length) && !q.exe.ended) = true ∧
    wordOk false goStc 1 0 0 0 64 (fun q => { x1 q with qc := [vals] }) (fun q => decide (q.qc = [vals]) && localOk 0 (getX q 1) (rowBytesC (cmFc upB) 16)) = true ∧
    wordOk true goMac 2 0 0 0 3 id (fun q => q.qa == [] && !q.acc.ended) = true ∧
    wordOk true goMac 2 0 0 0 3 (fun q => { q with qa := [blkA], qb := [blkB] }) (fun q => q.qa != [] && q.qb != []) = true ∧
    wordOk true goRdacc 2 3 1 0 0 id (fun _ => decide (pairOf (zrCode (cmFa upB)) (zrCode (cmFb upB)) = some (2, false))) = true ∧
    (let s := upS [endW] [gw goRdacc 2 3 1 0 0, endW] (fun q => { q with ready := [(10, 50)] }); NextWord s 5 0 true goRdacc (runB upB) (gWord (gw goRdacc 2 3 1 0 0)) ∧ (timingFault (getGird s 5 0) upB (gWord (gw goRdacc 2 3 1 0 0)) 4).isSome = true) ∧
    wordOk true goVop 2 3 1 0 0 (setV 3 vals) (fun _ => true) = true ∧ wordOk true goVpopa 2 0 0 0 0 (fun q => { q with qa := [blkA] }) (fun q => q.qa != []) = true ∧
    wordOk true goVpush 2 0 0 0 0 (setV 2 vals) (fun q => decide (q.qc.length < 32)) = true ∧ wordOk true goVset 2 0 0 0 9 id (fun _ => true) = true ∧
    wordOk true goZacc 2 0 0 0 9 id (fun _ => true) = true ∧ (∀ side, wordOk side goLoop 0 0 0 0 3 id (fun _ => true) = true) ∧
    (∀ side, let s := upS [endW] [endW] id; NextWord s 5 0 side goEnd (runB upB) (gWord endW) ∧ (getGird s 5 0).qa = [] ∧ (getGird s 5 0).qb = [] ∧ (getGird s 5 0).qc = []) ∧
    (let s := upS [endW] [endW] (fun q => { q with qc := [vals] }); NextWord s 5 0 true goEnd (runB upB) (gWord endW) ∧ leftQueue (getGird s 5 0) true = some 2) := by decide +kernel

def descOf (kind nmem : Nat) : List Byte :=
  [(0, 2, 0x4344), (2, 1, kind), (4, 2, 5), (6, 2, 8), (0xB, 1, fcS32), (0xC, 1, fcS32), (0x10, 4, 128), (0x14, 4, nmem), (0x28, 8, 2 ^ 63 + 0x80), (0x30, 8, hbmBase + 0x20000000), (0x6A, 1, 8), (0x6B, 1, 1)].foldl
    (fun b f => patch b f.1 (leBytes f.2.1 f.2.2)) (List.replicate 128 0)
def collB : List Byte := cmdB 0x32 [(0x10, 8, hbmBase + 0x20001000)]
def collR (kind nmem : Nat) : RunCmd := { runB collB with desc := descOf kind nmem, cflag := some 1 }
def collCtx : List (Nat × Nat) := ctx3 ++ [(A.ctxLive 3 0 + 0x1008, 4), (A.ctxLive 3 0 + 0x1040, 0x80018001)]
def collS (r : RunCmd) (n : Nat) : State :=
  let s := running 5 eTxe r (held collCtx)
  onPier 5 (fun q => { q with lands := (List.range n).map fun i => { land0 with id := 100 + i } }) s
def sendB : List Byte := cmdB 0x11 [(9, 1, fcS8), (10, 1, fcS8), (11, 1, fcS32), (0x10, 4, 0x100), (0x14, 4, 0x110), (0x18, 4, 0x400), (0x24, 2, 2), (0x26, 2, 64), (0x28, 2, 4), (0x2A, 2, 1), (0x2C, 2, 1), (0x2E, 2, 16), (0x30, 2, 2), (0x38, 8, hbmBase + 0x20001000)]
def sendR : RunCmd := { runB sendB with desc := descOf kAllreduce 3, cflag := some 1 }
def flagged (r : RunCmd) (d : List Byte) : RunCmd := { r with desc := d }
/-- Where no store stands. -/
def nowhere : List Byte := leBytes 8 (2 ^ 63 + 0x500000)
theorem wit_CollectiveCommands :
    (let r := runB (cmdB 0x32 [(0x10, 8, hbmBase + 0x20001008)]); Runs (collS r 0) 5 eTxe 0x32 r (collFaults r) ∧ le r.bytes 0x10 8 % 64 ≠ 0) ∧
    (∀ k ∈ [1, 0xB], let r := collR k 3; let s := collS r 0; Runs s 5 eTxe 0x32 r (collFaults r) ∧ le r.bytes 0x10 8 % 64 = 0 ∧
      (k = 0xB → descFault s r.ctx r.cflag r.desc = some 2) ∧ (k = 1 → descFault s r.ctx r.cflag r.desc = none ∧ armedCount s 5 < 256 ∧
        (rangeBad (cdAux r.desc, auxBytes r.desc) = true → auxBytes r.desc = 0) ∧
        (fetch (r.by_ 5 eTxe) .rd (cdAux r.desc) (auxBytes r.desc) s).1 = some [] ∧
        (descRanges [] r.desc [] (memberRank s r.ctx 5 r.desc) false).any rangeBad = false)) ∧
    (let r := flagged (collR 1 3) (patch (descOf kAlltoall 3) 0x40 nowhere); let s := collS r 0; Runs s 5 eTxe 0x32 r (collFaults r) ∧
      descFault s r.ctx r.cflag r.desc = none ∧ rangeBad (cdAux r.desc, auxBytes r.desc) = true ∧ 0 < auxBytes r.desc) ∧
    (let r := flagged (collR 1 3) (patch (descOf 1 3) 0x28 nowhere); let s := collS r 0; Runs s 5 eTxe 0x32 r (collFaults r) ∧
      descFault s r.ctx r.cflag r.desc = none ∧ (fetch (r.by_ 5 eTxe) .rd (cdAux r.desc) (auxBytes r.desc) s).1 = some [] ∧
      ∃ q ∈ descRanges [] r.desc [] (memberRank s r.ctx 5 r.desc) false, rangeBad q = true) ∧
    (let r := collR 1 3; let s := collS r 256; Runs s 5 eTxe 0x32 r (collFaults r) ∧ descFault s r.ctx r.cflag r.desc = none ∧ 256 ≤ armedCount s 5) := by decide +kernel
/-- An ALLTOALL of one member, whose table names records 33 and 34. -/
def tblR : RunCmd := flagged (collR kAlltoall 1) (patch (descOf kAlltoall 1) 0x40 (leBytes 8 (hbmBase + 0x20004000)))
def tblS (ready : Bool) : State :=
  let s := hbmWr (hbmBase + 0x20004000) (leBytes 4 33 ++ leBytes 4 34) (collS tblR 0)
  if ready then srWrite 33 clFwd 3 4 41 6 64 (srWrite 34 clFwd 3 4 42 6 64 s) else s
def tblAux : List Byte := leBytes 4 33 ++ leBytes 4 34 ++ List.replicate 24 0
theorem wit_CollectiveCommands_table : ∀ b, let s := tblS b; Runs s 5 eTxe 0x32 tblR (collFaults tblR) ∧ descFault s 3 tblR.cflag tblR.desc = none ∧
    armedCount s 5 < 256 ∧ rangeBad (cdAux tblR.desc, auxBytes tblR.desc) = false ∧
    (fetch (tblR.by_ 5 eTxe) .rd (cdAux tblR.desc) (auxBytes tblR.desc) s).1 = some tblAux ∧
    (let u := (fetch (tblR.by_ 5 eTxe) .rd (cdAux tblR.desc) (auxBytes tblR.desc) s).2
     let rank := memberRank u 3 5 tblR.desc
     (descRanges (progAt u (curEpoch u) (cdSlot tblR.desc)) tblR.desc tblAux rank false).any rangeBad = false ∧
       a2aOk u 3 (rank - cdRbase tblR.desc) tblR.desc tblAux = b) := by decide +kernel
/-- MATMUL_SEND with a descriptor. -/
def fusedS (r : RunCmd) (n : Nat) : State :=
  let s := running 5 0 r (held (collCtx ++ [(A.dkCollPriv 0, 8)]))
  onPier 5 (fun q => { q with lands := (List.range n).map fun i => { land0 with id := 100 + i } }) s
theorem wit_CollectiveCommands_fused :
    (∀ d ∈ [descOf kAllreduce 3, descOf kBroadcast 3, patch (descOf kAllreduce 3) 3 [1], patch (descOf kAllreduce 3) 0x30 nowhere],
      let r := flagged sendR d; let s := fusedS r 0
      Runs s 5 0 0x11 r (matmulSendFaults 0 r) ∧ le r.bytes 0x38 8 % 64 = 0 ∧ descFault s 3 r.cflag d = none ∧ armedCount s 5 < 256) ∧
    fusedUnsuited sendR = false ∧ cdCarrier sendR.desc = 0 ∧ (descRanges [] sendR.desc [] (memberRank (fusedS sendR 0) 3 5 sendR.desc) true).any rangeBad = false ∧
    fusedUnsuited (flagged sendR (descOf kBroadcast 3)) = true ∧ cdCarrier (patch (descOf kAllreduce 3) 3 [1]) = 1 ∧
    (let d := patch (descOf kAllreduce 3) 0x30 nowhere; ∃ q ∈ descRanges [] d [] (memberRank (fusedS (flagged sendR d) 0) 3 5 d) true, rangeBad q = true) ∧
    (let s := fusedS sendR 256; Runs s 5 0 0x11 sendR (matmulSendFaults 0 sendR) ∧ descFault s 3 sendR.cflag sendR.desc = none ∧ 256 ≤ armedCount s 5) := by decide +kernel
theorem wit_CollectiveCommands_watchdogs :
    (∃ l, (getPier (collS (collR 1 3) 1) 5).lands.find? (fun l => cdTree l.desc == 5 && cdCseq l.desc == 8) = some l ∧
      residentOn (collS (collR 1 3) 1) l.run.ctx 5 = true ∧ residentOn (onPier 5 (fun q => { q with resident := none }) (collS (collR 1 3) 1)) l.run.ctx 5 = false) ∧
    (∃ o, findOp { blank with net := { blank.net with ops := [newOp blank 9 (treeO upLink false) 8 (knownAs (sumD fcE2m1))] } } 9 5 8 = some o) :=
  ⟨⟨{ land0 with id := 100 }, by decide +kernel⟩, ⟨newOp blank 9 (treeO upLink false) 8 (knownAs (sumD fcE2m1)), by decide +kernel⟩⟩

/-- A request: its OP and fields as offset, length and value; its span is 1. -/
def reqB (op : Nat) (l : List (Nat × Nat × Nat)) : List Byte :=
  ((2, 1, 1) :: l).foldl (fun b f => patch b f.1 (leBytes f.2.1 f.2.2)) (leBytes 1 op ++ List.replicate 127 0)
def svcRegs (j : Nat) : List (Nat × Nat) :=
  ctx3 ++ [(A.spnGroup 1 0, 2 ^ 31 + 3 * 2 ^ 24 + 2 ^ 16 + 0x100), (A.dkFuncState (fnSpan 1), 2), (A.dkFuncState (fnPier 16), 2), (A.dkBootStatus, 5),
    (A.ctxSvcCfg 3 j, 2 ^ 31 + 2), (A.ctxSvcBase 3 j 0, 0x20000000), (A.ctxSvcBase 3 j 1, 0x10), (A.ctxSvcCtl 3, 1), (A.ctxDb 3 (8 + j), 1), (A.dkCollPriv 0, 8)]
/-- Queue j of context 3 holds a request; the context is resident on pier 16, the group of span 1. -/
def svcS (j : Nat) (b : List Byte) : State := onPier 16 (fun q => { q with resident := some 3 }) (hbmWr 0x1020000000 b (held (svcRegs j)))
/-- The request as it is taken, the state then, the request on pier 16, and the state once it runs there. -/
def took (s : State) (j : Nat) (b : List Byte) : SvcReq × State := takeReq 3 j b none (roundPast 3 j s)
def reqOf (s : State) (j : Nat) (b : List Byte) : SvcReq := (took s j b).1
def takenS (s : State) (j : Nat) (b : List Byte) : State := (took s j b).2
def on16 (r : SvcReq) : SvcReq := { r with pier := 16 }
def runsS (s : State) (r : SvcReq) : State := svcTook (stepPiers s r 16) s
def goesS (s : State) (j : Nat) (b : List Byte) : State := runsS (takenS s j b) (reqOf s j b)
def anyOk (s : State) (j op : Nat) (b : List Byte) : Bool :=
  takesFrom s 3 j && decide (peekEntry s 3 j (svcNext s 3 j) = some b) && rqOp b == op &&
    (j == 7 || spareState s == spNone || spareState s == spAdmitted) && !objBusy (takenS s j b) (reqOf s j b)
theorem any_of_ok (s : State) (j op : Nat) (b : List Byte) (h : anyOk s j op b = true) : TakesAny s 3 j op (reqOf s j b) (takenS s j b) := by
  simp only [anyOk, Bool.and_eq_true, decide_eq_true_eq, Bool.or_eq_true, beq_iff_eq, Bool.not_eq_true'] at h
  obtain ⟨⟨⟨⟨h1, h2⟩, h3⟩, h5⟩, h6⟩ := h
  exact { may := h1, entry := h2, op := h3, taken := rfl, spare := or_assoc.mp h5, idle := h6 }
def takesOk (s : State) (j op : Nat) (faults : State → SvcReq → List Nat) (b : List Byte) : Bool :=
  anyOk s j op b && decide (reqFaulty faults (reqOf s j b) (takenS s j b) = none)
theorem takes_of_ok (s : State) (j op : Nat) (faults : State → SvcReq → List Nat) (b : List Byte) (h : takesOk s j op faults b = true) :
    Takes s 3 j op faults (reqOf s j b) (takenS s j b) := by
  simp only [takesOk, Bool.and_eq_true, decide_eq_true_eq] at h
  exact { toTakesAny := any_of_ok s j op b h.1, good := h.2 }
def pierOk (s : State) (r : SvcReq) : Bool := decide (reqPier s r = some 16) && (stepPiers s r 16).all (svcFree s)
theorem pier_of_ok (s : State) (r : SvcReq) (h : pierOk s r = true) : OnPier s r 16 (runsS s r) := by
  simp only [pierOk, Bool.and_eq_true, decide_eq_true_eq, List.all_eq_true] at h
  exact { pier := h.1, free := h.2, took := rfl }
/-- It is taken, sound, and runs on pier 16. -/
def runsOk (s : State) (j op : Nat) (faults : State → SvcReq → List Nat) (b : List Byte) : Bool :=
  takesOk s j op faults b && pierOk (takenS s j b) (reqOf s j b)
/-- It is taken, its header is clean, and its first faulty field is o. -/
def badOk (s : State) (j op : Nat) (faults : State → SvcReq → List Nat) (b : List Byte) (o : Nat) : Bool :=
  let r := reqOf s j b; let u := takenS s j b
  anyOk s j op b && decide (firstFault (reqFaults u r.ctx r.queue b) = none) && decide (reqFaulty faults r u = some o)
def kvO : List Byte := reqB soKvOpen [(0x24, 4, 64), (0x28, 4, 1), (0x30, 8, 0x1020010000), (0x38, 8, 0x1020011000)]
def kvC : List Byte := reqB soKvClose []
def kvB (op fl : Nat) : List Byte := reqB op ([(0x21, 1, fl), (0x24, 4, 1), (0x28, 8, 0x1020012000), (0x40, 8, 0x1020012100)] ++
  (if op = soKvPut ∨ op = soKvGet then [(0x30, 8, if fl = 2 then 0 else 0x1020013000), (0x38, 4, 64)] else []) ++ if fl = 2 then [(0x3C, 4, 40)] else [])
def store0 : KvStore := { ctx := 3, store := 0, recomp := 0, policy := 0, psize := 64, slots := 1, pbase := 0x1020010000, ibase := 0x1020011000, stamp := 0 }
/-- The store is open, with a page under the key of 16 ones where full. -/
def kvS (j : Nat) (full : Bool) (b : List Byte) : State :=
  let s := svcS j b
  let s := hbmWr 0x1020012000 (List.replicate 16 1) { s with svc := { s.svc with stores := [store0] } }
  let s := hbmWr 0x1020013000 ((List.range 64).map (BitVec.ofNat 8)) (srWrite 40 clFwd 3 4 41 6 64 s)
  if full then hbmWr (0x1020011000 + 32 * kvHome store0 (List.replicate 16 1)) (kvEncode { key := List.replicate 16 1, slot := 0, stamp := 0, state := 1, pin := false }) s else s
theorem wit_KeyValueCommands : (∀ y ∈ [(kvO, true), (patch kvO 0x38 [0, 0, 0, 0], false)], let s := svcS 0 y.1; runsOk s 0 soKvOpen kvOpenFaults y.1 = true ∧
      (svcWrite (svcBy (on16 (reqOf s 0 y.1))) (koIbase y.1) (List.replicate (32 * kvNb store0) 0) (goesS s 0 y.1)).1 = y.2) ∧
    (let s := kvS 0 false kvO; badOk s 0 soKvOpen kvOpenFaults kvO 0x20 = true ∧ kvOf (takenS s 0 kvO) 3 0 ≠ none) ∧
    runsOk (kvS 0 false kvC) 0 soKvClose kvCloseFaults kvC = true ∧
    (let s := svcS 0 kvC; badOk s 0 soKvClose kvCloseFaults kvC 0x20 = true ∧ kvOf (takenS s 0 kvC) 3 0 = none) ∧
    (let b := kvB soKvPut 0; let s := svcS 0 b; badOk s 0 soKvPut kvBatchFaults b 0x20 = true ∧ kvOf (takenS s 0 b) 3 0 = none) ∧
    (let b := kvB soKvGet 0; badOk (svcS 0 b) 0 soKvGet kvBatchFaults b 0x20 = true) := by decide +kernel
theorem wit_KeyValueCommands_batch : (∀ op ∈ [soKvPut, soKvGet, soKvDrop, soKvPin], let b := kvB op 0; let s := kvS 0 true b
      runsOk s 0 op kvBatchFaults b = true ∧ kbRemote b = false ∧ (kvKeys (on16 (reqOf s 0 b)) (kbN b) 0 (goesS s 0 b)).1 = [kvOk 0 0]) ∧
    (∀ op ∈ [soKvPut, soKvGet, soKvDrop, soKvPin], let b := patch (kvB op 0) 0x28 [0xF0, 0xFF, 0, 0, 0, 0, 0, 0]; let s := kvS 0 true b
      runsOk s 0 op kvBatchFaults b = true ∧ kbRemote b = false ∧ ∃ d ∈ (kvKeys (on16 (reqOf s 0 b)) (kbN b) 0 (goesS s 0 b)).1, d.failed = true) := by
  decide +kernel
theorem wit_KeyValueCommands_remote : (let b := kvB soKvGet 2; let s := kvS 0 true b
      runsOk s 0 soKvGet kvBatchFaults b = true ∧ kbRemote b = true ∧ (kvKeys (on16 (reqOf s 0 b)) (kbN b) 0 (goesS s 0 b)).1 = [kvOk 0 0] ∧
      ∀ st ∈ [1, 2], let q := { on16 (reqOf s 0 b) with stage := st, todo := [(0, 0)] }; let s := putReq q (takenS s 0 b)
        GoesOn s 3 0 soKvGet q ∧ pierOk s q = true ∧ kvOf s 3 0 = some store0) := by decide +kernel

def ent0 : KvEntry := { key := (List.range 16).map (BitVec.ofNat 8), slot := 0, stamp := 9, state := 1, pin := true }
theorem wit_PagesReadBack : (let s := kvS 0 false kvC; Memory.wf s.hbm ∧ (kvWritePage (svcBy (reqOf s 0 kvC)) store0 1 ent0 (List.replicate 64 5) false s).1 = true) ∧
    ent0.key.length = 16 ∧ store0.pbase + 64 ≤ store0.ibase + 32 * 1 := by decide +kernel
-- optimizer
def shD : List Byte := [(0, 2, 0x4F53), (2, 1, 1), (3, 1, 1), (4, 1, 2), (8, 8, 3), (0x10, 8, 0x1020014000)].foldl (fun b f => patch b f.1 (leBytes f.2.1 f.2.2)) (List.replicate 64 0)
def optB (op : Nat) (l : List (Nat × Nat × Nat)) : List Byte := reqB op ([(0x20, 8, 0x1020015000), (0x28, 8, 0x1020016000)] ++ l)
def optStepB : List Byte := optB soOptStep [(0x30, 8, 0x1020017000), (0x48, 4, 0x3F800000), (0x4C, 4, 0x3F000000), (0x64, 4, 0x3F800000)]
def optS (b : List Byte) : State := hbmWr 0x1020015000 shD (svcS 0 b)
def sendStB : List Byte := reqB soSendState [(0x20, 8, 0x1020015000), (0x28, 4, 3), (0x2C, 4, 40)]
def optS7 (b : List Byte) : State := hbmWr 0x1020015000 shD (svcS 7 b)
/-- The request updates its shard. -/
def stage3 (b : List Byte) : SvcReq := { on16 (reqOf (optS b) 0 b) with desc := shD, stage := 3, result := some 0 }
def mir0 : Mirror := { id := 0, ctx := 3, tag := 0, span := 1, pier := 16, shard := 0x1020015000, rcd := 40, peer := 3, off := 0, base := 0x1020014000, pcount := 3, step := 0, piece := 1, sending := true, waited := none, result := none }
def mirS : State := let s := optS optStepB; ctxLocWr 3 16 (svcCstat (mirrorPlace mir0)) (leBytes 8 (2 ^ 24 * csOk)) { s with svc := { s.svc with mirrors := [mir0] } }
def stage3S (b : List Byte) : State := putReq (stage3 b) (takenS (optS b) 0 b)
def goOk (b : List Byte) : Bool := decide (GoesOn (stage3S b) 3 0 (rqOp b) (stage3 b)) && pierOk (stage3S b) (stage3 b) && !opMirrorOn b
def chunksOk (b : List Byte) : Bool :=
  let w := runsS (stage3S b) (stage3 b)
  (optChunks (stage3 b) (shPiers w (stage3 b)) ((shPcount shD + 2047) / 2048) 0 w).1
def optAreas (b : List Byte) : List (Nat × Nat) :=
  [(opDesc b, 64)] ++ (if opRs b = 0 then [] else [(opRs b, 128)]) ++ (if opAg b = 0 then [] else [(opAg b, 128)])
theorem wit_OptimizerCommands : (∀ b ∈ [optStepB, optB soOptAccum []], let s := optS b
      runsOk s 0 (rqOp b) optFaults b = true ∧ (svcReads (svcBy (on16 (reqOf s 0 b))) (optAreas b) (goesS s 0 b)).1 = some [shD] ∧
      goOk b = true ∧ chunksOk b = true) ∧
    (∀ b ∈ [patch optStepB 0x20 [0, 0, 0, 0], patch (optB soOptAccum []) 0x20 [0, 0, 0, 0]], let s := optS b
      runsOk s 0 (rqOp b) optFaults b = true ∧ (svcReads (svcBy (on16 (reqOf s 0 b))) (optAreas b) (goesS s 0 b)).1 = none) ∧
    badOk (optS (optB soOptStep [(0x30, 8, 0x1020017001)])) 0 soOptStep optFaults (optB soOptStep [(0x30, 8, 0x1020017001)]) 0x30 = true ∧
    badOk (optS (optB soOptAccum [(0x68, 1, 3)])) 0 soOptAccum optFaults (optB soOptAccum [(0x68, 1, 3)]) 0x68 = true ∧
    (let b := patch sendStB 0x40 [1]; badOk (optS7 b) 7 soSendState sendStateFaults b 0x40 = true) := by decide +kernel
theorem wit_OptimizerCommands_more : (let b := patch optStepB 0x28 [0, 0, 0, 0]; goOk b = true ∧ chunksOk b = false) ∧
    (let s := optS7 sendStB; runsOk s 7 soSendState sendStateFaults sendStB = true ∧
      (svcRead (svcBy (on16 (reqOf s 7 sendStB))) (opDesc sendStB) 64 (goesS s 7 sendStB)).1 = some shD) ∧
    (mirS.svc.mirrors.find? (fun m => m.id == 0 && m.ctx == 3) = some mir0 ∧ mir0.piece ≤ mirrorSends mir0 ∧ svcAnswer mirS 3 16 (mirrorPlace mir0) = some (csOk, 0)) := by decide +kernel

def cdDsc (kind : Nat) : List Byte := [(0, 2, 0x4344), (2, 1, kind), (0x30, 8, 0x1020018000), (0x58, 4, 1), (0x60, 4, 0)].foldl (fun b f => patch b f.1 (leBytes f.2.1 f.2.2)) (List.replicate 128 0)
def dspB : List Byte := reqB soDispatch [(0x20, 8, 0x1020015000), (0x28, 8, 0x1020019000), (0x30, 4, 4)]
def cmbB : List Byte := reqB soCombine [(0x20, 8, 0x1020015000), (0x28, 8, 0x102001A000), (0x30, 8, 0x102001B000), (0x38, 4, 1), (0x3C, 1, 1), (0x40, 4, 2), (0x48, 8, 0x102001C000)]
def dspS (kind : Nat) (b : List Byte) : State := hbmWr 0x1020015000 (cdDsc kind) (svcS 0 b)
def stage2 (b : List Byte) : SvcReq := { on16 (reqOf (dspS kStream b) 0 b) with desc := cdDsc kStream, stage := 2 }
def ans (b : List Byte) : State := ctxLocWr 3 16 (svcCstat 0) (leBytes 8 (2 ^ 24 * csOk + 7)) (putReq (stage2 b) (takenS (dspS kStream b) 0 b))
def digB : List Byte := reqB soDigest [(0x20, 8, 0x1020015000), (0x28, 8, 0), (0x30, 8, 0x1020016000)]
def agB (op c m : Nat) : List Byte := reqB op [(0x20, 1, c), (0x21, 1, m)]
/-- Context 4 is of the same job, or of another; a request of context 4's queue 0 is in progress where busy; it is quiesced. -/
def agS (b : List Byte) (job : Nat) (busy q : Bool) : State :=
  let s := regsSet [(A.ctxLive 4 0 + 0x1000, 6 + job + 0x10000), (A.ctxSvcStatus 4, if q then 2 ^ 31 else 0)] (svcS 7 b)
  if busy then { s with svc := { s.svc with reqs := [{ reqOf (svcS 0 kvC) 0 kvC with ctx := 4 }] } } else s
theorem wit_DispatchAgentAndCompletion_DispatchAndAgentCommands : (∀ y ∈ [(dspB, soDispatch, dispatchFaults), (cmbB, soCombine, combineFaults)],
      (let s := dspS kStream y.1; runsOk s 0 y.2.1 y.2.2 y.1 = true ∧
        (svcRead (svcBy (on16 (reqOf s 0 y.1))) (xDesc y.1) 128 (goesS s 0 y.1)).1 = some (cdDsc kStream)) ∧
      (let s := dspS 1 y.1; badOk s 0 y.2.1 y.2.2 y.1 0x20 = true ∧ notStream (takenS s 0 y.1) (reqOf s 0 y.1) = true) ∧
      GoesOn (ans y.1) 3 0 y.2.1 (stage2 y.1) ∧ pierOk (ans y.1) (stage2 y.1) = true ∧
        svcAnswer (runsS (ans y.1) (stage2 y.1)) 3 16 0 = some (csOk, 7)) := by decide +kernel
/-- AGT_QUIESCE of context 4 has begun. -/
def quietS : State := let b := agB soQuiesce 4 0; let s := agS b 0 false false
  putReq { reqOf s 7 b with stage := 1 } { takenS s 7 b with svc := { (takenS s 7 b).svc with quiet := [4] } }
theorem wit_DispatchAgentAndCompletion_DispatchAndAgentCommands_agent :
    (let s := svcS 7 digB; takesOk s 7 soDigest (fun _ r => breaks (agLen r.bytes % 64 != 0) 0x28 ++ mustBeZero r.bytes 0x38 72) digB = true ∧
      tstSpent (takenS s 7 digB) actMgmtDma 16 = false ∧
      (svcRead (svcBy (reqOf s 7 digB)) (agAddr digB) (agLen digB) (tstCharge actMgmtDma 16 5 (takenS s 7 digB))).1 = some [] ∧
      (svcWrite (svcBy (reqOf s 7 digB)) (agOutd digB) (sha3 []) (tstCharge actMgmtDma 16 5 (takenS s 7 digB))).1 = true) ∧
    (∀ busy, let b := agB soQuiesce 4 0; let s := agS b 0 busy false
      takesOk s 7 soQuiesce quiesceFaults b = true ∧ ((inProgress (takenS s 7 b) 4).any fun q => !sameReq q (reqOf s 7 b)) = busy) ∧
    (let q := { reqOf (agS (agB soQuiesce 4 0) 0 false false) 7 (agB soQuiesce 4 0) with stage := 1 }
     GoesOn quietS 3 0 soQuiesce q ∧ agCtx q.bytes ∈ quietS.svc.quiet ∧ ∀ y ∈ inProgress quietS (agCtx q.bytes), sameReq y q = true) ∧
    (let b := agB soResume 4 0; takesOk (agS b 0 false true) 7 soResume quiesceFaults b = true) ∧
    (let b := agB soCancel 4 3; takesOk (agS b 0 false true) 7 soCancel cancelFaults b = true) ∧
    (∀ y ∈ [(soQuiesce, quiesceFaults), (soResume, quiesceFaults), (soCancel, cancelFaults)], let b := agB y.1 4 0; let s := agS b 1 false true
      badOk s 7 y.1 y.2 b 0x20 = true ∧ agStranger (takenS s 7 b) (reqOf s 7 b) = true) ∧
    (let b := agB soCancel 4 3; let s := agS b 0 false false; badOk s 7 soCancel cancelFaults b 0x20 = true ∧
      agStranger (takenS s 7 b) (reqOf s 7 b) = false ∧ rbit (takenS s 7 b) (A.ctxSvcStatus 4) 31 = false) := by decide +kernel
-- completion
def cplB (chain : Nat) (done : Nat) : List Byte := reqB soKvClose [(1, 1, chain), (3, 1, if chain = 2 then 4 else 0), (8, 8, done), (0x10, 4, if chain = 2 then 1 else 0)]
def cplR (b : List Byte) : SvcReq := { reqOf (svcS 0 b) 0 b with status := some csOk, result := some 5 }
def cplS (b : List Byte) : State := regsSet [(A.ctxWqCfg 3 4, 2 ^ 31 + 2)] (putReq (cplR b) (takenS (svcS 0 b) 0 b))
def otherB : List Byte := reqB 0x7F []
theorem wit_DispatchAgentAndCompletion_RequestCompletion : (∀ y ∈ [(cplB 0 0, csOk), (cplB 2 0x1020016000, csOk), (cplB 2 0, csOk), (cplB 2 0x40, csFaulted)], let s := cplS y.1
      s.svc.reqs.find? (fun r => r.ctx == 3 && r.queue == 0 && !r.complete && r.status.isSome) = some (cplR y.1) ∧
      (writeDone (cplR y.1) csOk 5 s).1 = y.2 ∧ rqChain y.1 = (y.1 != cplB 0 0) ∧ isOn (writeDone (cplR y.1) csOk 5 s).2 (fnCtx 3) = true) ∧
    (let s := svcS 0 otherB; s.svc.reqs = [] ∧ takesFrom s 3 0 = true ∧ peekEntry s 3 0 (svcNext s 3 0) = some otherB ∧ isSvcOp (rqOp otherB) = false ∧
      takesFrom s 3 1 = false) := by decide +kernel

/-! ### Witnesses of the statements about numbers -/

theorem wit_SumsIgnoreOrder : [({ v := 3 } : Anch), { v := 5 }].Perm [{ v := 5 }, { v := 3 }] ∧ [({ v := 3 } : Anch)] ≠ [] ∧
    [[({ v := 3 } : Anch)], []].Perm [[], [{ v := 3 }]] := by decide +kernel
theorem wit_BlocksDecodeAsEncoded : ∀ v ∈ [-(2 ^ 127 : Int), 2 ^ 127 - 1, 0], let xs : List Anch := List.replicate 31 { v := 0, nan := true } ++ [{ v := v }]
    xs.length = 32 ∧ ∀ x ∈ xs, -(2 ^ 127 : Int) ≤ x.v ∧ x.v < (2 ^ 127 : Int) := by decide +kernel
theorem wit_IntegerProductsAreExact : (let xs : List Int := [7, -3]; let ys : List Int := [2 ^ 31 - 1, 5]; 0 < 4 ∧ xs ≠ [] ∧ xs.length = ys.length) ∧
    (∀ v ∈ [-2147483648, (2147483647 : Int)], -2147483648 ≤ v ∧ v < 2147483648) ∧ [((1 : Int), (2 : Int)), (3, 4)].Perm [(3, 4), (1, 2)] ∧
    (let b := cmdB 0x10 [(9, 1, fcS8), (10, 1, fcU8), (11, 1, fcS32)]
     pairOf (zrCode (cmFa b)) (zrCode (cmFb b)) = some (4, true) ∧ zrCode (cmFc b) = fcS32) := by
  decide +kernel
theorem wit_ZeroRunsReadBack : ∀ c ∈ [fcE4m3, fcU4, fcS32], fmtKnown c = true ∧ ∀ x ∈ [0, 2 ^ fmtBits c - 1], x < 2 ^ fmtBits c := by decide +kernel

/-! ### Worked examples of the manual -/

/-- 05 Table 5.5: a header on the wire. -/
theorem test_header_on_the_wire : (mkPacket { epoch := 1, cls := clFwd, op := opPut, flags := 2 ^ flEvict + 2 ^ flLast, dst := 1337, src := 18, job := 0x2C1A
                                              seq := 0x1F40, sr := 0xA57, rsr := 0x33, oparg := 0x200000 } []).take 32 =
    [0x1A, 1, 0, 0x11, 0, 5, 0x39, 0, 0, 0, 0x12, 0, 0x2C, 0x1A, 0, 0, 0, 0, 0x1F, 0x40, 0, 0, 0xA, 0x57, 0, 0, 0xCC, 0, 0, 0x20, 0, 0] := by
  decide +kernel
/-- 07 Table 7.3: 11.0, 0.3, −2.6 and 2.5 as MXFP4 have scale byte 0x80 and codes 7, 0, 0xB and 2. -/
theorem test_mxfp4_block : mxQuantize fcMxFp4 ([0x41300000, 0x3E99999A, 0xC0266666, 0x40200000].map val32 ++ List.replicate 28 (.num false 0 0)) (fun _ => .rne) =
    (0x80, [7, 0, 0xB, 2] ++ List.replicate 28 0, none) := by decide +kernel
/-- 07, worked example FP32 to E4M3: RNE gives 0x3A; a stochastic draw rounds up from 0x9999_A000 on. -/
theorem test_fp32_to_e4m3 : (convert fcE4m3 (val32 0x3FA66666) .rne false).1 = 0x3A ∧
    (convert fcE4m3 (val32 0x3FA66666) (.sr 0x99999FFF) false).1 = 0x3A ∧ (convert fcE4m3 (val32 0x3FA66666) (.sr 0x9999A000) false).1 = 0x3B := by
  decide +kernel
/-- 08 Table 8.9: the four values under anchor 25. -/
theorem test_to_anchored : [0x4B800000, 0x3F800000, 0x40400000, 0xCB800000].map (fun x => toAnchored 25 false (val32 x)) =
    [2 ^ 95, 2 ^ 71, 3 * 2 ^ 71, -(2 ^ 95)].map (fun v => ({ v := v }, false)) := by decide +kernel
/-- 08: P's and Q's blocks of 194 bytes, their headers and fields; the sum decodes and rounds to 4. -/
theorem test_blocks_of_p_and_q :
    let blk (v : Int) : List Byte := (encodeBlock false ((List.range 32).map fun i => { v := if i = 8 then v else 0 })).2
    let p := blk (2 ^ 95 + 2 ^ 71); let q := blk (3 * 2 ^ 71 - 2 ^ 95)
    p.length = 194 ∧ q.length = 194 ∧ p.take 2 = [0x3F, 0x80] ∧ slice p 50 6 = [0, 1, 0, 0, 1, 0] ∧ slice q 50 6 = [0xFF, 0xFF, 0, 0, 3, 0] := by
  decide +kernel
theorem test_root_round : rootRound 25 fcFp32 false ({ v := 2 ^ 73 }) = (0x40800000, none) := by decide +kernel
/-- 13: the encoded block of the worked example. -/
theorem test_zero_run_block :
    let b := zrEncode fcE4m3 ((List.range 256).map fun i => (if [0, 1, 5, 40, 41, 200].contains i then 0x38 else 0, false))
    b.length = 32 ∧ le b 0 4 = 0x00110020 ∧ slice b 4 9 = [0x00, 0xF3, 0x2F, 0xF0, 0xFF, 0xFF, 0xFF, 0xFF, 0x0E] := by decide +kernel

/-! ### Commands -/

/-- 03 Table 3.8: both ports' reads ready with TURN0 0: port 0 has ticket 0x42, port 1 reads HELD, and TURN0 is 1. -/
theorem test_ks_acquire_both : let s := { up [] with ks := { Keystone.reset with ticket := 0x41 } }; let t := nx (exec (.ksAcquire .both) s)
    t.ks.holder = some 0 ∧ t.ks.ticket = 0x42 ∧ t.ks.turn0 = true := by decide +kernel
/-- A step takes the front of the queue, and leaves its rest. -/
theorem test_step_takes_front : (nx (step { blank with pending := [.resetLAssert, .idcode] })).pending = [.idcode] := by decide +kernel
/-! ### Operands that cannot occur -/

def badTxn (f : Txn → Txn) : Txn := f { op := 1, len := 4, addr := 8 }
def farAway : MemSeen := .uncorrectable (2 ^ 38)
def okKnown : Known := { desc := List.replicate 128 0 }
theorem test_wellFormed : [Instr.read 0 (badTxn id) .none, .native 0 okKnown .none, .write 0 (badTxn id) (some (badTxn id)), .coll 0 (.corrected 5) none, .auditPass .clean 0].map Instr.wf =
    [true, true, true, true, true] := by decide +kernel
theorem test_illFormed_transactions : ∀ f ∈ [(fun t => { t with op := 256 }), fun t => { t with flags := 256 }, fun t => { t with tag := 65536 }, fun t => { t with len := 65536 },
      fun t => { t with ctx := 256 }, fun t => { t with status := 256 }, fun t => { t with addr := 2 ^ 64 }, (fun t => { t with data := [1] } : Txn → Txn)],
    Instr.wf (.read 0 (badTxn f) .none) = false ∧ Instr.wf (.read 0 (badTxn id) .none (some (badTxn f))) = false ∧
      Instr.wf (.write 0 (badTxn f)) = false ∧ Instr.wf (.write 0 (badTxn id) (some (badTxn f))) = false ∧ Instr.wf (.doorbell 0 (badTxn f)) = false := by
  decide +kernel
theorem test_illFormed_seen : (∀ i ∈ [Instr.read 0 (badTxn id) farAway, .coll 0 farAway none, .load 0 farAway none, .loadRowSelection 0 farAway none, .loadListin 0 farAway none,
      .store 0 farAway none, .send 0 farAway none, .gulaneFrame 0 [] farAway, .scrub 0 farAway 0], i.wf = false) ∧
    ∀ a ∈ [AuditSeen.corrected (2 ^ 32), .uncorrectable (2 ^ 32), .upset (2 ^ 32) 0], Instr.wf (.auditPass a 0) = false := by decide +kernel
theorem test_illFormed_known : ∀ k ∈ [({ desc := [] } : Known), { okKnown with list := [80] }, { okKnown with below := [[2 ^ 24]] }, { okKnown with tag := 2 ^ 32 }],
    ∀ i ∈ [Instr.native 0 k .none, .anchored 0 k .none, .fast 0 k .none, .exponent 0 true k, .scanOffset 0 k .none, .result 0 k, .inPkt 0 k true, .part 0 k true, .endPkt 0 k, .barrierArrive k],
      i.wf = false := by decide +kernel
theorem test_illFormed_counts : ∀ i ∈ [Instr.bpmRequest 0 0 (2 ^ 64), .scrub 0 .none (2 ^ 64), .optStep 0 (.take 0) (2 ^ 64), .optStep 0 (.mirror (2 ^ 64)) 0, .agtSendState 0 (.mirror (2 ^ 64)) 0,
      .agtSendState 0 (.take 0) (2 ^ 64), .agtDigest 0 (.go 0) (2 ^ 64), .agtDigest 0 (.mirror (2 ^ 64)) 0, .refresh 0 (2 ^ 64), .tgDone 0 0 [2 ^ 32] 0, .tgDone 0 0 [] (2 ^ 64),
      .ctxSwitch 0 0 (2 ^ 64), .traceRecordWrite 0 (2 ^ 64), .auditPass .clean (2 ^ 64), .validationEnd (2 ^ 64), .progLoadEnd (2 ^ 64), .retrainEnd 0 true (2 ^ 64),
      .repairCopyEnd 0 (2 ^ 64)], i.wf = false := by decide +kernel
theorem test_illFormed_lengths : ∀ i ∈ [Instr.railSample [] (List.replicate 8 0), .railSample (List.replicate 18 (0, 0)) [], .samplePreload [true] [], .extest [] [true]], i.wf = false := by decide +kernel
/-- A packet or frame longer than a link carries. -/
theorem long_list (n : Nat) : (List.replicate n (0 : Byte)).length = n := List.length_replicate
theorem test_illFormed_packets : let b : List Byte := List.replicate 16449 0
    Instr.wf (.packetArrive 0 b [] false) = false ∧ Instr.wf (.credit 0 b) = false ∧ Instr.wf (.timestampReq 0 b) = false ∧ Instr.wf (.timestampRsp 0 b) = false := by
  intro b
  have h : packetWf b = false := by unfold packetWf; rw [show b.length = 16449 from long_list _]; decide
  exact ⟨h, h, h, h⟩
theorem test_illFormed_frame : Instr.wf (.gulaneFrame 0 (List.replicate 65536 0) .none) = false := by
  simp only [Instr.wf, List.length_replicate]
  decide
/-- The table gives no row any bits, so that no word spells a command. -/
theorem test_no_word_spells (nbits w : Nat) : decodeTableWord nbits w = none := rfl

end Sys2Proof.Tests
end

section
/-! SUPPORT. Register accesses (00 Table 0.7, R9, R11, R484): which register sits at an address, words written back or written
twice, what an event leaves of the registers, and a register access of a port that is ready. -/

namespace Sys2Proof.Machine
open Sys2Proof

/-! ### Words of registers -/

/-- A map in canonical form is unchanged when what a key reads is written back. -/
theorem smPut_smGet_self {β : Type} [DecidableEq β] (dflt : Nat → β) (m : List (Nat × β)) (a : Nat) (h : SmWf dflt m) :
    smPut (dflt a) m a (smGet (dflt a) m a) = m := by
  refine SmWf.ext dflt _ _ (smPut_wf dflt m a _ h) h fun b => ?_
  by_cases hb : b = a
  · subst hb
    exact smGet_put_same _ _ _ _ h.1
  · exact smGet_put_other _ _ _ _ _ _ hb h.1

/-- Writing back the word that a register holds changes nothing. -/
theorem wr_rd_self (a : Nat) (s : State) (h : SmWf regReset s.regs) : wr a (rd s a) s = s :=
  congrArg (fun r => ({ s with regs := r } : State)) (smPut_smGet_self regReset s.regs a h)

@[simp] theorem leBytes_length (n v : Nat) : (leBytes n v).length = n := by
  induction n generalizing v with
  | zero => rfl
  | succ n ih => simp [leBytes, ih]

@[simp] theorem eventBytes_length (time seq : Nat) (e : EventId) : (eventBytes time seq e).length = 32 := by
  simp [eventBytes]

/-- Sending an event's record leaves the registers. -/
theorem sendEvent_regs (seq : Nat) (ev : List Byte) (p : GPort) (s : State) : (sendEvent seq ev p s).regs = s.regs := by
  unfold sendEvent
  split <;> rfl

/-- An event writes no register but the event log and its sequence number (03 R65). -/
theorem rd_raiseEvent_other (e : EventId) (a : Nat) (s : State) (h : SmWf regReset s.regs)
    (ha : a < A.evtLog 0 ∨ A.gulEvtSeq < a) : rd (raiseEvent e s) a = rd s a := by
  unfold raiseEvent
  dsimp only
  generalize (rn s A.gulEvtSeq + 1) % 2 ^ 32 = seq
  have hlen := eventBytes_length (ftNs s) seq e
  generalize eventBytes (ftNs s) seq e = ev at hlen ⊢
  have hregs : (sendEvent seq ev 1 (sendEvent seq ev 0 s)).regs = s.regs := by rw [sendEvent_regs, sendEvent_regs]
  generalize sendEvent seq ev 1 (sendEvent seq ev 0 s) = u at hregs ⊢
  have hu : SmWf regReset u.regs := hregs ▸ h
  simp only [A.evtLog, A.gulEvtSeq] at ha ⊢
  rw [wn, rd_wr_other _ _ _ _ (putCfg_wf _ _ _ hu) (by omega), rd_putCfg_out _ _ _ _ hu (by omega)]
  exact congrArg (fun m => smGet (regReset a) m a) hregs

/-! ### The register at an address -/

/-- What the search of a list of registers finds is in the list. -/
theorem mem_of_findIn {l : List RegDesc} {a : Nat} {d : RegDesc} {ix : List Nat} (h : findIn l a = some (d, ix)) : d ∈ l := by
  induction l with
  | nil => cases h
  | cons e r ih =>
    unfold findIn at h
    split at h
    · split at h
      · cases h
        exact List.mem_cons_self ..
      · exact List.mem_cons_of_mem _ (ih h)
    · exact List.mem_cons_of_mem _ (ih h)

/-- A register of the configuration space is one of the register tables' (03 Table 3.7). -/
theorem mem_of_regAt {s : State} {a : Nat} {d : RegDesc} {ix : List Nat} (h : regAt s a = some (d, ix)) :
    d ∈ regsDk ++ regsCtx ++ regsFab ++ regsUnit := by
  simp only [List.mem_append]
  unfold regAt regIn findReg at h
  split at h
  · cases h
  split at h
  · cases h
  split at h
  · exact .inl (.inl (.inl (mem_of_findIn h)))
  split at h
  · exact .inl (.inl (.inr (mem_of_findIn h)))
  split at h
  · exact .inl (.inr (mem_of_findIn h))
  · exact .inr (mem_of_findIn h)

/-- Outside the PG windows the register at an address does not depend on the grade. -/
theorem regAt_eq_findReg (s : State) (a : Nat) (h : a < 0x800000 ∨ 0xC00000 ≤ a) : regAt s a = findReg a :=
  if_neg (by omega)

theorem regAt_ctxSrSeed (s : State) (x : CtxNo) :
    regAt s (A.ctxSrSeed x) = some (⟨.ctxSrSeed, 0x10291C, [(64, 0x4000)], [⟨31, 0, .rw, 0⟩]⟩, [x.val]) := by
  rw [regAt_eq_findReg s _ (.inl (by unfold A.ctxSrSeed; omega))]
  revert x
  decide +kernel

theorem regAt_trcKinds (s : State) (i : Fin 16) :
    regAt s (A.trcKinds i) = some (⟨.trcKinds, 0x50008, [(16, 0x40)], [⟨31, 0, .kl, 0⟩]⟩, [i.val]) := by
  rw [regAt_eq_findReg s _ (.inl (by unfold A.trcKinds; omega))]
  revert i
  decide +kernel

theorem regAt_pierTrStatus (s : State) (q : PierNo) :
    regAt s (A.pierTrStatus q) = some (⟨.pierTrStatus, 0x2000804, [(8, 0x400000), (16, 0x40000)],
      [⟨31, 31, .w1c, 0⟩, ⟨21, 16, .ro, 0⟩, ⟨7, 0, .ro, 0⟩]⟩, [q.val / 16, q.val % 16]) := by
  rw [regAt_eq_findReg s _ (.inr (by unfold A.pierTrStatus; omega))]
  revert q
  decide +kernel

theorem regAt_gulCfg (s : State) (n : GPort) :
    regAt s (A.gulCfg n) = some (⟨.gulCfg, 0x4000000, [(2, 0x10000)], [⟨16, 16, .rw, 1⟩, ⟨15, 0, .kl, 0x88B5⟩]⟩, [n.val]) := by
  rw [regAt_eq_findReg s _ (.inr (by unfold A.gulCfg; omega))]
  revert n
  decide +kernel

theorem regAt_dkFtTime_low (s : State) :
    regAt s (A.dkFtTime 0) = some (⟨.dkFtTime, 0x808, [(3, 4)], [⟨31, 0, .ro, 0⟩]⟩, [0]) := by
  rw [regAt_eq_findReg s _ (.inl (by decide))]
  decide +kernel

theorem regAt_dkStep_low (s : State) :
    regAt s (A.dkStep 0) = some (⟨.dkStep, 0x820, [(2, 4)], [⟨31, 0, .ro, 0⟩]⟩, [0]) := by
  rw [regAt_eq_findReg s _ (.inl (by decide))]
  decide +kernel

theorem dieOf_ctxSrSeed (x : CtxNo) : dieOf (A.ctxSrSeed x) = 0 := by
  revert x
  decide

theorem dieOf_trcKinds (i : Fin 16) : dieOf (A.trcKinds i) = 0 := by
  revert i
  decide

theorem dieOf_gulCfg (n : GPort) : dieOf (A.gulCfg n) = n.val := by
  revert n
  decide

/-! ### Fields of a word -/

/-- A field that covers the word is the word. -/
theorem ofNat_fget_whole (w : Word) : BitVec.ofNat 32 (fget w 31 0) = w := by
  have := w.isLt
  simp only [fget, bits, pow_zero, Nat.div_one]
  rw [Nat.mod_eq_of_lt this, BitVec.ofNat_toNat, BitVec.setWidth_eq]

/-- The one field that begins at bit 0, where its access code is kept. -/
theorem fieldSum_single {d : RegDesc} {hi r : Nat} {c : Acc} (hf : d.fields = [⟨hi, 0, c, r⟩]) (keep : Acc → Bool) (w : Word) :
    fieldSum d keep w = if keep c then BitVec.ofNat 32 (fget w hi 0) else 0 := by
  cases hk : keep c <;> simp [fieldSum, hf, hk]

/-- A register that is one field takes what that field holds after the write. -/
theorem wordAfter_single {d : RegDesc} {hi r : Nat} {c : Acc} (hf : d.fields = [⟨hi, 0, c, r⟩]) (held : Bool) (old w : Word) :
    wordAfter held d old w = BitVec.ofNat 32 (fieldAfter held old w ⟨hi, 0, c, r⟩) := by
  simp [wordAfter, hf]

/-- A register that is one RW field takes the word (00 Table 0.7). -/
theorem wordAfter_rw {d : RegDesc} {r : Nat} (hf : d.fields = [⟨31, 0, .rw, r⟩]) (held : Bool) (old w : Word) :
    wordAfter held d old w = w := by
  rw [wordAfter_single hf]
  exact ofNat_fget_whole w

/-- A register that is one KL field takes the word from the holder alone (00 Table 0.7). -/
theorem wordAfter_kl {d : RegDesc} {r : Nat} (hf : d.fields = [⟨31, 0, .kl, r⟩]) (held : Bool) (old w : Word) :
    wordAfter held d old w = if held then w else old := by
  rw [wordAfter_single hf]
  cases held
  · exact ofNat_fget_whole old
  · exact ofNat_fget_whole w

/-! ### Writes -/

/-- The die-0 arbiter knows the holder itself. -/
theorem holds_die0 (s : State) (p : GPort) : holds s p 0 = decide (s.ks.holder = some p) := by
  simp [holds, beq_eq_decide]

/-- Unless a spare is LOADING, a write does nothing to its partner's check. -/
theorem checkPartner_idle {s : State} (h : spareState s ≠ spLoading) : checkPartner s = s :=
  if_neg fun g => h g.1

theorem spareState_wr (a : Nat) (w : Word) (s : State) (h : SmWf regReset s.regs) (ha : a ≠ A.dkSpareStatus) :
    spareState (wr a w s) = spareState s := by
  unfold spareState rf
  rw [rd_wr_other _ _ _ _ h ha.symm]

theorem spareState_klDenied (p : GPort) (a : Nat) (s : State) (h : SmWf regReset s.regs) :
    spareState (klDenied p a s) = spareState s := by
  unfold spareState rf klDenied
  rw [rd_raiseEvent_other _ _ _ h (.inl (by decide))]

/-- A write to a register without KL fields, or by the holder, sets the word by its fields and answers OK. -/
theorem writeFields_taken {p : GPort} {d : RegDesc} {a : Nat} (w : Word) {s : State}
    (h : (hasAcc d .kl && !holds s p (dieOf a)) = false) :
    writeFields p d a w s = (wr a (wordAfter (holds s p (dieOf a)) d (rd s a) w) s, stOk) := by
  simp [writeFields, h]

/-- A write to a register with KL fields by a port that does not hold the Keystone is IGNORED there, with KL_DENIED. -/
theorem writeFields_denied {p : GPort} {d : RegDesc} {a : Nat} (w : Word) {s : State} (hk : hasAcc d .kl = true)
    (h : holds s p (dieOf a) = false) :
    writeFields p d a w s = (klDenied p a (wr a (wordAfter false d (rd s a) w) s), stIgnored) := by
  simp [writeFields, hk, h]

/-- A write to a register without behaviour of its own, while no spare is LOADING, is the write of its fields. -/
theorem writeReg_fields {p : GPort} {a : Nat} {w : Word} {s : State} {d : RegDesc} {ix : List Nat} {r : State × Nat}
    (h : regAt s a = some (d, ix)) (hn : writeNamed p d ix a w s = writeFields p d a w s) (hr : writeFields p d a w s = r)
    (hs : spareState r.1 ≠ spLoading) : writeReg p a w s = r := by
  unfold writeReg
  rw [h]
  dsimp only
  rw [hn, hr, checkPartner_idle hs]

/-- An address without a register. -/
theorem writeReg_none {p : GPort} {a : Nat} {w : Word} {s : State} (h : regAt s a = none) : writeReg p a w s = (s, stBadAddr) := by
  unfold writeReg
  rw [h]

/-- A write of CTX_SR_SEED, an RW register. -/
theorem writeReg_ctxSrSeed (p : GPort) (x : CtxNo) (w : Word) (s : State) (hw : SmWf regReset s.regs)
    (hs : spareState s ≠ spLoading) : writeReg p (A.ctxSrSeed x) w s = (wr (A.ctxSrSeed x) w s, stOk) := by
  refine writeReg_fields (regAt_ctxSrSeed s x) rfl ?_ ?_
  · rw [writeFields_taken w rfl, wordAfter_rw rfl]
  · rwa [spareState_wr _ _ _ hw (by simp only [A.ctxSrSeed, A.dkSpareStatus]; omega)]

/-- A write of TRC_KINDS, a KL register, by the holder. -/
theorem writeReg_trcKinds_held (p : GPort) (i : Fin 16) (w : Word) (s : State) (hw : SmWf regReset s.regs)
    (hs : spareState s ≠ spLoading) (hh : s.ks.holder = some p) :
    writeReg p (A.trcKinds i) w s = (wr (A.trcKinds i) w s, stOk) := by
  have hold : holds s p (dieOf (A.trcKinds i)) = true := by rw [dieOf_trcKinds, holds_die0, decide_eq_true hh]
  refine writeReg_fields (regAt_trcKinds s i) rfl ?_ ?_
  · rw [writeFields_taken w (by simp [hold]), wordAfter_kl rfl, if_pos hold]
  · rwa [spareState_wr _ _ _ hw (by simp only [A.trcKinds, A.dkSpareStatus]; omega)]

/-- A write of TRC_KINDS by any other port. -/
theorem writeReg_trcKinds_denied (p : GPort) (i : Fin 16) (w : Word) (s : State) (hw : SmWf regReset s.regs)
    (hs : spareState s ≠ spLoading) (hh : s.ks.holder ≠ some p) :
    writeReg p (A.trcKinds i) w s = (klDenied p (A.trcKinds i) s, stIgnored) := by
  have hold : holds s p (dieOf (A.trcKinds i)) = false := by rw [dieOf_trcKinds, holds_die0, decide_eq_false hh]
  refine writeReg_fields (regAt_trcKinds s i) rfl ?_ ?_
  · rw [writeFields_denied w rfl hold, wordAfter_kl rfl, if_neg Bool.false_ne_true, wr_rd_self _ _ hw]
  · rwa [spareState_klDenied _ _ _ hw]

/-- PIER_TR_STATUS after a write of 1 to its bit 31, HIT: CTX and BLOCKED stand as they were (12 Table 12.6). -/
def hitCleared (old : Word) : Word := BitVec.ofNat 32 (2 ^ 16 * fget old 21 16 + fget old 7 0)

theorem hitCleared_fields (old : Word) : fget (hitCleared old) 31 31 = 0 ∧
    fget (hitCleared old) 21 16 = fget old 21 16 ∧ fget (hitCleared old) 7 0 = fget old 7 0 := by
  simp only [hitCleared, fget, bits, BitVec.toNat_ofNat]
  omega

/-- A write of 1 to the W1C bit HIT of PIER_TR_STATUS, the bit that the statement calls FIRED. -/
theorem writeReg_pierTrStatus_hit (p : GPort) (q : PierNo) (s : State) (hw : SmWf regReset s.regs)
    (hs : spareState s ≠ spLoading) : writeReg p (A.pierTrStatus q) (BitVec.ofNat 32 (2 ^ 31)) s =
      (wr (A.pierTrStatus q) (hitCleared (rd s (A.pierTrStatus q))) s, stOk) := by
  refine writeReg_fields (regAt_pierTrStatus s q) rfl ?_ ?_
  · have hbit : fget 2147483648#32 31 31 = 1 := rfl
    have hhit : fget (rd s (A.pierTrStatus q)) 31 31 < 2 := Nat.mod_lt _ (by decide)
    rw [writeFields_taken _ rfl]
    simp [wordAfter, fieldAfter, hbit, Nat.mod_eq_of_lt hhit, hitCleared, Nat.mul_comm]
  · rwa [spareState_wr _ _ _ hw (by simp only [A.pierTrStatus, A.dkSpareStatus]; omega)]

/-- A write of GUL_CFG by a port that its die does not record as holder: EVT_EN is taken, ETYPE is not. -/
theorem writeReg_gulCfg_denied (p : GPort) (n : GPort) (w : Word) (s : State) (hw : SmWf regReset s.regs)
    (hs : spareState s ≠ spLoading) (hh : (if n.val = 0 then s.ks.holder else s.ks.die1) ≠ some p) :
    writeReg p (A.gulCfg n) w s = (klDenied p (A.gulCfg n)
      (wn (A.gulCfg n) (2 ^ 16 * fget w 16 16 + rf s (A.gulCfg n) 15 0) s), stIgnored) := by
  have hold : holds s p (dieOf (A.gulCfg n)) = false := by
    rw [dieOf_gulCfg]
    unfold holds
    split at hh <;> simp_all
  refine writeReg_fields (regAt_gulCfg s n) rfl ?_ ?_
  · rw [writeFields_denied w rfl hold]
    simp [wordAfter, fieldAfter, wn, rf, Nat.mul_comm]
  · dsimp only
    rwa [wn, spareState_klDenied _ _ _ (wr_wf _ _ _ hw), spareState_wr _ _ _ hw (by simp only [A.gulCfg, A.dkSpareStatus]; omega)]

/-! ### Commands of a port that is ready -/

/-- An access of a port that is ready takes effect at once. -/
theorem byPort_ready {s : State} {p : GPort} (h : portReady s p = true) (x : Access) (f : State → State) : byPort p x f s = f s :=
  if_pos h

/-- A register write by one port alone. -/
theorem exec_registerWrite_ready {s : State} {p : GPort} (h : portReady s p = true) {a : Nat} (ha : a < 2 ^ 32) (w : Word)
    {t : State} {st : Nat} (hr : writeReg p a w s = (t, st)) :
    exec (.registerWrite p (BitVec.ofNat 32 a) w) s = .next (accessed p a 0 st t) := by
  show execRegisterWrite p (BitVec.ofNat 32 a) w none s = _
  unfold execRegisterWrite regWrite wrAccess
  rw [BitVec.toNat_ofNat, Nat.mod_eq_of_lt ha]
  dsimp only
  rw [byPort_ready h, hr]
  rfl

/-- Writes of both ports to two registers of die 0, ready in one core cycle: TURN names the first, and inverts (03 R67). -/
theorem exec_registerWrite_rival {s : State} {p : GPort} (hp : portReady s p = true) (hq : portReady s (1 - p) = true) {a b : Nat}
    (ha : a < 2 ^ 32) (hb : b < 2 ^ 32) (da : dieOf a = 0) (db : dieOf b = 0) (w v : Word) :
    exec (.registerWrite p (BitVec.ofNat 32 a) w (some (BitVec.ofNat 32 b, v))) s = .next (
      let t : State := { s with ks := { s.ks with turn0 := !s.ks.turn0 } }
      if (if s.ks.turn0 then 1 else 0) = p then regWrite (1 - p) b v (regWrite p a w t)
      else regWrite p a w (regWrite (1 - p) b v t)) := by
  show execRegisterWrite p (BitVec.ofNat 32 a) w (some (BitVec.ofNat 32 b, v)) s = _
  unfold execRegisterWrite
  simp only [BitVec.toNat_ofNat, Nat.mod_eq_of_lt ha, Nat.mod_eq_of_lt hb, hp, hq, Bool.and_self, if_true, contend, alternate,
    alternate0, da, db]

/-- A write of CTX_SR_SEED, performed. -/
theorem regWrite_ctxSrSeed (p : GPort) (x : CtxNo) (w : Word) (s : State) (hw : SmWf regReset s.regs)
    (hs : spareState s ≠ spLoading) : regWrite p (A.ctxSrSeed x) w s = accessed p (A.ctxSrSeed x) 0 stOk (wr (A.ctxSrSeed x) w s) := by
  unfold regWrite wrAccess
  rw [writeReg_ctxSrSeed p x w s hw hs]
  rfl

/-- Two writes of CTX_SR_SEED, one after the other. -/
theorem regWrite_ctxSrSeed_twice (p q : GPort) (x y : CtxNo) (w v : Word) (s : State) (hw : SmWf regReset s.regs)
    (hs : spareState s ≠ spLoading) : regWrite q (A.ctxSrSeed y) v (regWrite p (A.ctxSrSeed x) w s) =
      accessed q (A.ctxSrSeed y) 0 stOk (wr (A.ctxSrSeed y) v (accessed p (A.ctxSrSeed x) 0 stOk (wr (A.ctxSrSeed x) w s))) := by
  have hs' : spareState (wr (A.ctxSrSeed x) w s) ≠ spLoading := by
    rwa [spareState_wr _ _ _ hw (by simp only [A.ctxSrSeed, A.dkSpareStatus]; omega)]
  rw [regWrite_ctxSrSeed p x w s hw hs]
  exact regWrite_ctxSrSeed q y v (accessed p (A.ctxSrSeed x) 0 stOk (wr (A.ctxSrSeed x) w s)) (wr_wf _ _ _ hw) hs'

/-! ### Reads -/

/-- A read by one port alone of a low word that latches its upper words. -/
theorem exec_latchedRead_ready {s : State} {p : GPort} (h : portReady s p = true) {a : Nat} (ha : a < 2 ^ 32) {d : RegDesc}
    {ix : List Nat} (hr : regAt s a = some (d, ix)) (hl : latches d ix = true) :
    exec (.latchedRead p (BitVec.ofNat 32 a)) s = .next (rdAccess p a s) := by
  show execLatchedRead p (BitVec.ofNat 32 a) s = _
  unfold execLatchedRead regIf
  simp only [BitVec.toNat_ofNat, Nat.mod_eq_of_lt ha, hr, hl, if_true, byPort_ready h]

/-- Reads of the register show its stored word, and latch nothing. -/
def showsStored : RegName → Bool
  | .ksAcquire | .ksStatus | .dkFtStatus | .dkFtTime | .dkStep | .memEccLast | .sntPending | .ctxSvcStatus | .rtEpochStatus
  | .swAcct | .swBuf | .shpQ | .rseStrmStatus | .memStatus | .pierStatus | .pierQstat | .pierFlag | .cwyStatus => false
  | _ => true

theorem regView_stored {d : RegDesc} (h : showsStored d.name = true) (s : State) (ix : List Nat) (a : Nat) :
    regView s d ix a = rn s a := by
  unfold regView
  split <;> simp_all [showsStored]

theorem latchUpper_stored {d : RegDesc} (h : showsStored d.name = true) (s : State) (ix : List Nat) (a : Nat) :
    latchUpper d ix a s = s := by
  unfold latchUpper
  split <;> simp_all [showsStored]

/-- Every register with an RC field shows its stored word. -/
theorem showsStored_of_rc : ∀ d ∈ regsDk ++ regsCtx ++ regsFab ++ regsUnit, hasAcc d .rc = true → showsStored d.name = true := by
  decide +kernel

/-- A read of a register that is one RC field returns the value and clears it (00 Table 0.7). -/
theorem rdAccess_rc {s : State} {a : Nat} {d : RegDesc} {ix : List Nat} {hi : Nat} (h : regAt s a = some (d, ix))
    (hf : d.fields = [⟨hi, 0, .rc, 0⟩]) (p : GPort) :
    rdAccess p a s = accessed p a (BitVec.ofNat 32 (rf s a hi 0)) stOk (wr a 0 s) := by
  have hrc : hasAcc d .rc = true := by simp [hasAcc, hf]
  have hst := showsStored_of_rc d (mem_of_regAt h) hrc
  have hname : d.name ≠ .ksAcquire := fun hn => by rw [hn] at hst; cases hst
  have hread : readReg p a s = (wr a 0 s, BitVec.ofNat 32 (rf s a hi 0), stOk) := by
    unfold readReg
    rw [h]
    dsimp only
    rw [if_neg hname, latchUpper_stored hst, regView_stored hst, clearRc, if_pos hrc, fieldSum_single hf, fieldSum_single hf,
      rn, BitVec.ofNat_toNat, BitVec.setWidth_eq]
    rfl
  unfold rdAccess
  rw [hread]
  rfl

/-- The same where the field is zero: nothing changes but what the port is answered. -/
theorem rdAccess_rc_zero {s : State} {a : Nat} {d : RegDesc} {ix : List Nat} {hi : Nat} (h : regAt s a = some (d, ix))
    (hf : d.fields = [⟨hi, 0, .rc, 0⟩]) (hw : SmWf regReset s.regs) (hz : rd s a = 0) (p : GPort) :
    rdAccess p a s = accessed p a 0 stOk s := by
  have hzero : rf s a hi 0 = 0 := by simp [rf, hz, fget, bits]
  have hself : wr a 0 s = s := by rw [← hz]; exact wr_rd_self a s hw
  rw [rdAccess_rc h hf, hzero, hself]
  rfl

/-- Of two reads of one RC field, the first returns the value and the second returns zero (00 R11). -/
theorem rdAccess_rc_twice {s : State} {a : Nat} {d : RegDesc} {ix : List Nat} {hi : Nat} (h : regAt s a = some (d, ix))
    (hf : d.fields = [⟨hi, 0, .rc, 0⟩]) (hw : SmWf regReset s.regs) (p q : GPort) :
    rdAccess q a (rdAccess p a s) =
      accessed q a 0 stOk (accessed p a (BitVec.ofNat 32 (rf s a hi 0)) stOk (wr a 0 s)) := by
  rw [rdAccess_rc h hf]
  exact rdAccess_rc_zero (s := accessed p a (BitVec.ofNat 32 (rf s a hi 0)) stOk (wr a 0 s)) h hf (wr_wf a 0 s hw)
    (rd_wr_same a 0 s hw) q

/-- The two reads of both ports, ready at one moment, are ordered by the alternation rule of the register's die (03 R67). -/
theorem contend_rdAccess_rc {s : State} {a : Nat} {d : RegDesc} {ix : List Nat} {hi : Nat} (h : regAt s a = some (d, ix))
    (hf : d.fields = [⟨hi, 0, .rc, 0⟩]) (hw : SmWf regReset s.regs) :
    contend 0 a a (rdAccess 0 a) (rdAccess 1 a) s =
      let f : GPort := if (if dieOf a = 0 then s.ks.turn0 else s.ks.turn1) then 1 else 0
      accessed (1 - f) a 0 stOk (accessed f a (BitVec.ofNat 32 (rf s a hi 0)) stOk { wr a 0 s with
        ks := if dieOf a = 0 then { s.ks with turn0 := !s.ks.turn0 } else { s.ks with turn1 := !s.ks.turn1 } }) := by
  have twice (k : Keystone) (p q : GPort) :
      rdAccess q a (rdAccess p a { s with ks := k }) =
        accessed q a 0 stOk (accessed p a (BitVec.ofNat 32 (rf s a hi 0)) stOk { wr a 0 s with ks := k }) :=
    rdAccess_rc_twice (s := { s with ks := k }) h hf hw p q
  unfold contend alternate alternate0 alternate1
  by_cases hd : dieOf a = 0
  · cases ht : s.ks.turn0 <;> simp [hd, twice]
  · cases ht : s.ks.turn1 <;> simp [hd, twice]

/-- RC_READ by one port. -/
theorem exec_rcRead_one {s : State} {p : GPort} (h : portReady s p = true) {a : BitVec 32} {d : RegDesc} {ix : List Nat}
    (hr : regAt s a.toNat = some (d, ix)) (hc : hasAcc d .rc = true) :
    exec (.rcRead (.one p) a) s = .next (rdAccess p a.toNat s) := by
  show execRcRead (.one p) a s = _
  simp only [execRcRead, regIf, hr, hc, Bool.not_true, Bool.false_eq_true, if_false, byPort_ready h]

/-- RC_READ by both ports. -/
theorem exec_rcRead_both {s : State} (h0 : portReady s 0 = true) (h1 : portReady s 1 = true) {a : BitVec 32} {d : RegDesc}
    {ix : List Nat} (hr : regAt s a.toNat = some (d, ix)) (hc : hasAcc d .rc = true) :
    exec (.rcRead .both a) s = .next (contend 0 a.toNat a.toNat (rdAccess 0 a.toNat) (rdAccess 1 a.toNat) s) := by
  show execRcRead .both a s = _
  simp only [execRcRead, regIf, hr, hc, Bool.not_true, Bool.false_eq_true, if_false, h0, h1, Bool.and_self, if_true]

/-- A read of a register that is one RO field shows what its view is, and latches what its name says. -/
theorem readReg_ro {s : State} {a : Nat} {d : RegDesc} {ix : List Nat} {r : Nat} (h : regAt s a = some (d, ix))
    (hn : d.name ≠ .ksAcquire) (hf : d.fields = [⟨31, 0, .ro, r⟩]) (p : GPort) :
    readReg p a s = (latchUpper d ix a s, BitVec.ofNat 32 (regView s d ix a), stOk) := by
  have hrc : hasAcc d .rc = false := by simp [hasAcc, hf]
  have hshown : (Acc.ro != Acc.wo) = true := rfl
  unfold readReg
  rw [h]
  dsimp only
  rw [if_neg hn, fieldSum_single hf, if_pos hshown, ofNat_fget_whole, clearRc, hrc, if_neg Bool.false_ne_true]

/-- A read of the low word of fabric time (10 R288). -/
theorem rdAccess_dkFtTime_low (p : GPort) (s : State) : rdAccess p (A.dkFtTime 0) s = accessed p (A.dkFtTime 0)
    (BitVec.ofNat 32 (ftNs s % 2 ^ 32)) stOk { s with mg := { s.mg with
      lat := smPut 0 (smPut 0 s.mg.lat (A.dkFtTime 1) (ftNs s / 2 ^ 32)) (A.dkFtTime 2) (s.ft % 64) } } := by
  unfold rdAccess
  rw [readReg_ro (regAt_dkFtTime_low s) (by decide) rfl]
  rfl

/-- A read of the low word of the step (10 R288). -/
theorem rdAccess_dkStep_low (p : GPort) (s : State) : rdAccess p (A.dkStep 0) s = accessed p (A.dkStep 0)
    (BitVec.ofNat 32 (s.step % 2 ^ 32)) stOk { s with mg := { s.mg with
      lat := smPut 0 s.mg.lat (A.dkStep 1) (s.step / 2 ^ 32 % 2 ^ 32) } } := by
  unfold rdAccess
  rw [readReg_ro (regAt_dkStep_low s) (by decide) rfl]
  rfl

/-! ### The statements of 00 -/

/-- Settles O18: the register's one RC field shows its stored word, so that a first read takes it and a second finds zero. -/
theorem readsThatClear : Obligations.ReadsThatClear := by
  unfold Obligations.ReadsThatClear
  intro s a d ix hi hw hr hf
  have hc : hasAcc d .rc = true := by simp [hasAcc, hf]
  refine ⟨fun p hp => ?_, fun h0 h1 => ?_⟩
  · rw [exec_rcRead_one hp hr hc, rdAccess_rc hr hf]
  · rw [exec_rcRead_both h0 h1 hr hc, contend_rdAccess_rc hr hf hw]

/-- Settles O17, register by register: what each write leaves by its access codes, and what the two low words latch. -/
theorem registerAccesses : Obligations.RegisterAccesses := by
  unfold Obligations.RegisterAccesses
  refine ⟨fun s p w hp hw hs => ⟨fun x => ?rw, fun i hh => ?held, fun i hh => ?denied, fun q hfired => ?fired, fun n hh => ?mixed,
    fun a ha => ?absent, fun x y v hq => ?rival⟩, fun s p hp => ⟨?time, ?step⟩⟩
  case rw => exact exec_registerWrite_ready hp (by unfold A.ctxSrSeed; omega) w (writeReg_ctxSrSeed p x w s hw hs)
  case held => exact exec_registerWrite_ready hp (by unfold A.trcKinds; omega) w (writeReg_trcKinds_held p i w s hw hs hh)
  case denied => exact exec_registerWrite_ready hp (by unfold A.trcKinds; omega) w (writeReg_trcKinds_denied p i w s hw hs hh)
  case fired =>
    subst hfired
    obtain ⟨hbit, hnum, hcmd⟩ := hitCleared_fields (rd s (A.pierTrStatus q))
    have hsame := rd_wr_same (A.pierTrStatus q) (hitCleared (rd s (A.pierTrStatus q))) s hw
    refine ⟨_, exec_registerWrite_ready hp (by unfold A.pierTrStatus; omega) _ (writeReg_pierTrStatus_hit p q s hw hs), rfl,
      ?_, ?_, ?_, fun a ha => rd_wr_other _ _ _ _ hw ha⟩
    · rw [rf, hsame, hbit]
    · rw [rf, hsame, hnum, rf]
    · rw [rf, hsame, hcmd, rf]
  case mixed => exact exec_registerWrite_ready hp (by unfold A.gulCfg; omega) w (writeReg_gulCfg_denied p n w s hw hs hh)
  case absent =>
    have h := exec_registerWrite_ready hp a.isLt w (writeReg_none (p := p) (w := w) ha)
    rwa [BitVec.ofNat_toNat, BitVec.setWidth_eq] at h
  case rival =>
    rw [exec_registerWrite_rival hp hq (by unfold A.ctxSrSeed; omega) (by unfold A.ctxSrSeed; omega) (dieOf_ctxSrSeed x)
      (dieOf_ctxSrSeed y)]
    exact congrArg _ (if_congr Iff.rfl (regWrite_ctxSrSeed_twice p (1 - p) x y w v _ hw hs)
      (regWrite_ctxSrSeed_twice (1 - p) p y x v w _ hw hs))
  case time => rw [exec_latchedRead_ready hp (by decide) (regAt_dkFtTime_low s) rfl, rdAccess_dkFtTime_low]
  case step => rw [exec_latchedRead_ready hp (by decide) (regAt_dkStep_low s) rfl, rdAccess_dkStep_low]

end Sys2Proof.Machine
end

section
/-! SUPPORT. The sentinel's vectors, the retirement list, and the end of a firmware check (15 R394; 17 R434; 18 R460-R463). -/

namespace Sys2Proof.Machine
open Sys2Proof

/-! ### Sentinel vectors (18 R460-R462) -/

section Vectors
variable {s : State} {d : Fin 88}

/-- With no retest that waits, the next vector of a span or an RSE runs on its unit, and its failure waits to be run again. -/
theorem exec_sentinelVector_runs {u : TestUnit} {v : Nat} (hmay : mayTest s d = true) (hre : s.snt.retest = [])
    (hnext : nextVector s d = some (u, v)) (hgood : unitGood s u = true) (hfree : unitFree s u = true) (r : VecResult) :
    exec (.sentinelVector d r) s =
      .next (let t := passVector d (chargeVector d s)
        endPass (if vecFails t u r then onSnt (fun x => { x with retest := x.retest ++ [{ unit := u, vec := v, due := false }] }) t
          else t)) := by
  show execSentinelVector d r s = _
  simp [execSentinelVector, hmay, hre, hnext, hgood, hfree]

/-- The retest that is due at a span or an RSE runs: its failure is a sentinel failure, and its pass is counted. -/
theorem exec_sentinelRetest_runs {y : Retest}
    (hdue : s.snt.retest.find? (fun y => y.due && y.unit.domain == d.val) = some y) (hgood : unitGood s y.unit = true)
    (hmay : mayTest s d = true) (hfree : unitFree s y.unit = true) (r : VecResult) :
    exec (.sentinelRetest d r) s =
      (let t := onSnt (fun x => { x with retest := x.retest.erase y }) (chargeVector d s)
        if vecFails t y.unit r then .next (sentinelFail y.unit ((resultPos r).getD none) y.vec t)
        else .next (wf A.sntStatus 7 0 (satAdd 255 (rf t A.sntStatus 7 0) 1) t)) := by
  show execSentinelRetest d r s = _
  simp [execSentinelRetest, hdue, hgood, hmay, hfree]

end Vectors

/-! ### Retirements (01 R28; 18 R463) -/

/-- The word that RETIRE_REQUEST writes to SNT_RETIRE, with OP REQUEST. -/
def retireWord (kind : Fin 4) (span : SpanNo) (pier : Fin 16) (g : GirdNo) (r : Fin 16) : Word :=
  BitVec.ofNat 32 (2 ^ 28 + 2 ^ 16 * kind.val + 2 ^ 12 * span.val + 2 ^ 8 * pier.val + g.val * 2 ^ 4 + r.val)

/-- RETIRE_REQUEST is the write of that word by its port. -/
theorem exec_retireRequest (p : GPort) (kind : Fin 4) (span : SpanNo) (pier : Fin 16) (g : GirdNo) (r : Fin 16) (s : State) :
    exec (.retireRequest p kind span pier g r) s =
      .next (wrRow p A.sntRetire (retireWord kind span pier g r) (writeRetire p) s) := rfl

theorem retireWord_fields (kind : Fin 4) (span : SpanNo) (pier : Fin 16) (g : GirdNo) (r : Fin 16) :
    fget (retireWord kind span pier g r) 31 28 = 1 ∧ fget (retireWord kind span pier g r) 17 16 = kind.val ∧
      fget (retireWord kind span pier g r) 14 12 = span.val ∧ fget (retireWord kind span pier g r) 11 8 = pier.val := by
  simp only [retireWord, fget, bits, BitVec.toNat_ofNat]
  omega

/-- The request for a pier, resolved to its slot. -/
def pierRequest (s : State) (span pier : Nat) : Retire :=
  { kind := 0, span := span, slot := mapSlot s (16 * span + pier), girder := 0, pos := 0, entry := retireEntry 0 span pier 0 0 }

/-- An empty list takes a request. -/
theorem addRetire_empty {s : State} (h : pendingRetires s = []) (r : Retire) :
    addRetire r s = onSnt (fun t => { t with list := t.list ++ [r] }) s := by
  simp [addRetire, h]

/-- The holder's REQUEST for a pier that has a slot joins the list, when no request is pending. -/
theorem writeRetire_pier {s : State} {p : GPort} (hold : holds s p (dieOf A.sntRetire) = true) (hnone : pendingRetires s = [])
    {w : Word} {span pier : Nat} (hop : fget w 31 28 = 1) (hkind : fget w 17 16 = 0) (hspan : fget w 14 12 = span)
    (hpier : fget w 11 8 = pier) (hslot : mapValid s (16 * span + pier) = true) :
    writeRetire p w s = (onSnt (fun t => { t with list := t.list ++ [pierRequest s span pier] })
      (wr A.sntRetire (fieldsOnly A.sntRetire w) s), stOk) := by
  have hmod : (16 * span + pier) % 16 = pier := by
    have : pier < 16 := hpier ▸ Nat.mod_lt _ (by decide)
    omega
  rw [← addRetire_empty (s := wr A.sntRetire (fieldsOnly A.sntRetire w) s) hnone]
  simp [writeRetire, hold, hop, hkind, hspan, hpier, hslot, hnone, hmod, pierRequest]

/-- A register's row, written by a port that is ready, has its effect at once and answers its status. -/
theorem wrRow_ready {s : State} {p : GPort} (h : portReady s p = true) (a : Nat) (w : Word) (f : Word → State → State × Nat) :
    wrRow p a w f s = accessed p a 0 (f w s).2 (f w s).1 :=
  byPort_ready h _ _

/-- RETIRE_REQUEST of a pier. -/
theorem exec_retireRequest_pier {s : State} {p : GPort} (hp : portReady s p = true)
    (hold : holds s p (dieOf A.sntRetire) = true) (hnone : pendingRetires s = []) {span : SpanNo} {pier : Fin 16}
    (hslot : mapValid s (16 * span + pier) = true) : exec (.retireRequest p 0 span pier 0 0) s =
      .next (accessed p A.sntRetire 0 stOk (onSnt (fun t => { t with list := t.list ++ [pierRequest s span pier] })
        (wr A.sntRetire (fieldsOnly A.sntRetire (retireWord 0 span pier 0 0)) s))) := by
  obtain ⟨hop, hkind, hspan, hpier⟩ := retireWord_fields 0 span pier 0 0
  rw [exec_retireRequest, wrRow_ready hp, writeRetire_pier hold hnone hop hkind hspan hpier hslot]

/-- PIER_COPY_END of a pier whose copy is under way: the maps name its new slot, and RETIRED is raised. -/
theorem exec_pierCopyEnd_copying {s : State} {p : PierNo} {m : Move}
    (hm : s.snt.copying.find? (fun m => m.pier == p.val) = some m) : exec (.pierCopyEnd p) s =
      .next (retired (pierUnit p) m.req.entry
        (onSnt (fun x => { x with copying := x.copying.erase m }) (moveMaps p m.slot s))) := by
  show execPierCopyEnd p s = _
  simp only [execPierCopyEnd, hm]

/-- A rivet's retirement takes effect when its girder, of a pier that stays in its slot, runs no command. -/
theorem exec_rivetRetireApply_idle {s : State} {p : PierNo} {g : GirdNo} {q : Retire}
    (hq : s.snt.rivetDue.find? (fun q => q.span == p.val / 16 && q.slot == mapSlot s p && q.girder == g.val) = some q)
    (hidle : (getEng s p g).running = none) (hslot : mapValid s p = true) (hstay : beingCopied s p.val = false) :
    exec (.rivetRetireApply p g) s = .next (retired (pierUnit p) q.entry (wf (A.dkPierMap p) (5 * g + 4) (5 * g) q.pos
      (onSnt (fun x => { x with rivetDue := x.rivetDue.erase q }) s))) := by
  show execRivetRetireApply p g s = _
  simp [execRivetRetireApply, hq, hidle, hslot, hstay]

/-! ### The firmware's watchdog (18 R458) -/

theorem exec_kick_running {s : State} (h : stage s = stRunning) : exec .kick s = .next (wf A.dkFltCtrl 3 0 1 s) :=
  congrArg Host.Outcome.next (if_pos h)

theorem exec_fwWatchdog_running {s : State} (h : stage s = stRunning) (hlive : s.fwDead = false) :
    exec .fwWatchdog s = .next { raiseFault { code := 0x120D, cls := .devf, unit := 0 } s with fwDead := true } :=
  congrArg Host.Outcome.next (if_pos ⟨h, by simp [hlive]⟩)

/-- Settles O39, command by command: under the stated conditions each takes the branch that has its effect. -/
theorem sentinelCommands : Obligations.SentinelCommands := by
  unfold Obligations.SentinelCommands
  intro s
  refine ⟨fun d r u v hmay hre hnext hgood hfree => ?vector, fun d r y hdue hgood hmay hfree => ?retest,
    fun p span pier hp hold hnone hslot => ?request, fun p m hm => exec_pierCopyEnd_copying hm,
    fun p g q hq hidle hslot hstay => exec_rivetRetireApply_idle hq hidle hslot hstay, exec_kick_running,
    exec_fwWatchdog_running⟩
  case vector =>
    have hrun := exec_sentinelVector_runs hmay hre hnext hgood hfree r
    exact ⟨fun hpass => hrun.trans (by simp only [hpass, Bool.false_eq_true, if_false]),
      fun hfail => hrun.trans (by simp only [hfail, if_true]; rfl)⟩
  case retest =>
    have hrun := exec_sentinelRetest_runs hdue hgood hmay hfree r
    exact ⟨fun hpass => hrun.trans (if_neg (Bool.eq_false_iff.mp hpass)), fun hfail => hrun.trans (if_pos hfail)⟩
  case request =>
    exact ⟨_, exec_retireRequest_pier hp hold hnone hslot, rfl⟩

/-! ### The end of a firmware check (15 R394; 17 R434) -/

/-- What the end of the check of the bundle staged in s makes of a state u. -/
def fwVerdict (s u : State) : State :=
  match headCheck true (fwEnv s) (rn s A.dkImgLen) (staged s) with
  | some r => raiseEvent { code := 0x1103, port := s.mg.fwPort, detail := r.code }
      (wf A.dkBootStatus 15 8 r.code (wf A.dkBootStatus 3 0 stFwWait u))
  | none => raiseEvent { code := 0x1102, port := s.mg.fwPort, detail := imSerial (staged s) }
      { wf A.dkBootStatus 3 0 stRunning u with fwDigest := imDigestOf (staged s) }

/-- FW_CHECK_END applies the verdict to the state in which the bundle has been read. -/
theorem exec_fwCheckEnd_checking {s : State} (h : stage s = stFwCheck) :
    exec .fwCheckEnd s = .next (fwVerdict s (stagedRead s)) := by
  show execFwCheckEnd s = _
  unfold execFwCheckEnd fwVerdict
  rw [if_pos h]
  dsimp only
  cases headCheck true (fwEnv s) (rn s A.dkImgLen) (staged s) with
  | none => rfl
  | some r => rfl

theorem wf_canonical (a hi lo v : Nat) {s : State} (h : SmWf regReset s.regs) : SmWf regReset (wf a hi lo v s).regs :=
  wr_wf a _ s h

theorem rd_wf_other {a b : Nat} (hi lo v : Nat) {s : State} (h : SmWf regReset s.regs) (hb : b ≠ a) :
    rd (wf a hi lo v s) b = rd s b :=
  rd_wr_other a b _ s h hb

/-- A firmware digest that is kept as an event is raised is in no register. -/
theorem rd_raiseEvent_fwDigest (e : EventId) (d : List Byte) {s : State} (h : SmWf regReset s.regs) {a : Nat}
    (ha : a < A.evtLog 0 ∨ A.gulEvtSeq < a) : rd (raiseEvent e { s with fwDigest := d }) a = rd s a := by
  rw [rd_raiseEvent_other e a { s with fwDigest := d } h ha]
  rfl

/-- The verdict writes DK_BOOT_STATUS and an event, and no other register. -/
theorem rd_fwVerdict_other (s u : State) (hw : SmWf regReset u.regs) {a : Nat} (hb : a ≠ A.dkBootStatus)
    (he : a < A.evtLog 0 ∨ A.gulEvtSeq < a) : rd (fwVerdict s u) a = rd u a := by
  unfold fwVerdict
  split
  · have hwait := wf_canonical A.dkBootStatus 3 0 stFwWait hw
    rw [rd_raiseEvent_other _ _ _ (wf_canonical _ _ _ _ hwait) he, rd_wf_other _ _ _ hwait hb, rd_wf_other _ _ _ hw hb]
  · rw [rd_raiseEvent_fwDigest _ _ (wf_canonical _ _ _ _ hw) he, rd_wf_other _ _ _ hw hb]

/-- Reading the staged bundle keeps the registers canonical. -/
theorem stagedRead_wf {s : State} (hw : SmWf regReset s.regs) : SmWf regReset (stagedRead s).regs :=
  (stagedRead_kept (Kept.refl (K := fun _ _ => True) trivial)).regs hw

/-- A powered module that has staged a bundle of 64 bytes, one code word, which cannot be corrected. -/
def uncorrectableStaged : State :=
  wn A.dkImgLen 64 { State.reset with
    pwr := { PowerPath.reset with seq := .powerGood, inReset := false }
    mem := { Mem.reset with bad := [wordKey 0 0] } }

/-- The same in FW_CHECK. -/
def uncorrectableBundle : State := wf A.dkBootStatus 3 0 stFwCheck uncorrectableStaged

theorem uncorrectableStaged_canonical : SmWf regReset uncorrectableStaged.regs :=
  wr_wf _ _ _ (fuseRegs_wf modelFuses modelOtp)

theorem uncorrectableBundle_canonical : SmWf regReset uncorrectableBundle.regs :=
  wf_canonical _ _ _ _ uncorrectableStaged_canonical

theorem stage_uncorrectableBundle : stage uncorrectableBundle = stFwCheck :=
  rf_wf_same A.dkBootStatus 3 0 stFwCheck _ uncorrectableStaged_canonical (by decide) (by decide)

/-- Its read raises MEM_UE_SYSTEM, the first fault record (15 R394). -/
theorem stagedRead_uncorrectableBundle :
    rn uncorrectableBundle A.dkFltSeq = 0 ∧ rn (stagedRead uncorrectableBundle) A.dkFltSeq = 1 := by
  decide +kernel

/-- Refutes O11: where a word of the staged bundle cannot be corrected, FW_CHECK_END also counts it and raises MEM_UE_SYSTEM, so
that DK_FLT_SEQ rises, which the statement's clause for fwCheckEnd leaves out. -/
theorem not_viaductAndBoot : ¬ Obligations.ViaductAndBoot := by
  unfold Obligations.ViaductAndBoot
  rintro ⟨-, hboot⟩
  have hclause (s : State) (hs : stage s = stFwCheck) : exec .fwCheckEnd s = .next (fwVerdict s s) := by
    obtain ⟨-, -, hend⟩ := hboot s
    exact hend hs
  have hread (s : State) (hs : stage s = stFwCheck) (hw : SmWf regReset s.regs) :
      rd (stagedRead s) A.dkFltSeq = rd s A.dkFltSeq := by
    have hverdict := Host.Outcome.next.inj ((exec_fwCheckEnd_checking hs).symm.trans (hclause s hs))
    rw [← rd_fwVerdict_other s (stagedRead s) (stagedRead_wf hw) (a := A.dkFltSeq) (by decide) (.inl (by decide)), hverdict,
      rd_fwVerdict_other s s hw (by decide) (.inl (by decide))]
  have hseq := congrArg BitVec.toNat (hread _ stage_uncorrectableBundle uncorrectableBundle_canonical)
  obtain ⟨hbefore, hafter⟩ := stagedRead_uncorrectableBundle
  exact absurd (hafter.symm.trans (hseq.trans hbefore)) (by decide)

end Sys2Proof.Machine
end

section
/-! SUPPORT. Fields of a register word beside one that is set, bytes written to a register area and read back, and the length of a
SHA3-512 digest (02 R31). -/

namespace Sys2Proof.Machine
open Sys2Proof

/-! ### Fields beside one that is set -/

/-- A field below the one that is set reads as before. -/
theorem fget_fset_below (w : Word) {hi lo i j : Nat} (v : Nat) (h : lo ≤ hi) (h2 : hi < 32) (hij : j ≤ i) (hb : i < lo) :
    fget (fset w hi lo v) i j = fget w i j := by
  have hlow (n : Nat) : bits n i j = n % 2 ^ lo / 2 ^ j % 2 ^ (i + 1 - j) := by
    have hpow : 2 ^ lo = 2 ^ j * (2 ^ (i + 1 - j) * 2 ^ (lo - (i + 1))) := by
      rw [← Nat.pow_add, ← Nat.pow_add]
      congr 1
      omega
    rw [bits, hpow, Nat.mod_mul_right_div_self, Nat.mod_mul_right_mod]
  have hmod : (fset w hi lo v).toNat % 2 ^ lo = w.toNat % 2 ^ lo := by
    rw [fset_toNat w hi lo v h h2, Nat.mul_add_mod_self_right, Nat.mod_mod]
  rw [fget, hlow, hmod, ← hlow, fget]

/-- A field above the one that is set reads as before. -/
theorem fget_fset_above (w : Word) {hi lo i j : Nat} (v : Nat) (h : lo ≤ hi) (h2 : hi < 32) (hb : hi < j) :
    fget (fset w hi lo v) i j = fget w i j := by
  have hhigh (n : Nat) : bits n i j = n / 2 ^ (hi + 1) / 2 ^ (j - (hi + 1)) % 2 ^ (i + 1 - j) := by
    rw [bits, Nat.div_div_eq_div_mul, ← Nat.pow_add, Nat.add_sub_cancel' hb]
  have hdiv : (fset w hi lo v).toNat / 2 ^ (hi + 1) = w.toNat / 2 ^ (hi + 1) := by
    have hsplit : 2 ^ (hi + 1) = 2 ^ lo * 2 ^ (hi + 1 - lo) := by
      rw [← Nat.pow_add]
      congr 1
      omega
    rw [fset_toNat w hi lo v h h2]
    conv_lhs => rw [hsplit]
    rw [← Nat.div_div_eq_div_mul, Nat.mul_comm _ (2 ^ lo), Nat.mul_add_div (Nat.two_pow_pos lo),
      Nat.div_eq_of_lt (Nat.mod_lt _ (Nat.two_pow_pos lo)), Nat.add_zero, Nat.mul_comm _ (2 ^ (hi + 1 - lo)),
      Nat.mul_add_div (Nat.two_pow_pos _), Nat.div_eq_of_lt (Nat.mod_lt _ (Nat.two_pow_pos _)), Nat.add_zero, hsplit]
  rw [fget, hhigh, hdiv, ← hhigh, fget]

/-- In the state: a field of the same register below the one that is set. -/
theorem rf_wf_below (a : Nat) {hi lo i j : Nat} (v : Nat) {s : State} (hw : SmWf regReset s.regs) (h : lo ≤ hi) (h2 : hi < 32)
    (hij : j ≤ i) (hb : i < lo) : rf (wf a hi lo v s) a i j = rf s a i j := by
  unfold rf wf
  rw [rd_wr_same _ _ _ hw, fget_fset_below _ v h h2 hij hb]

/-- In the state: a field of the same register above the one that is set. -/
theorem rf_wf_above (a : Nat) {hi lo i j : Nat} (v : Nat) {s : State} (hw : SmWf regReset s.regs) (h : lo ≤ hi) (h2 : hi < 32)
    (hb : hi < j) : rf (wf a hi lo v s) a i j = rf s a i j := by
  unfold rf wf
  rw [rd_wr_same _ _ _ hw, fget_fset_above _ v h h2 hb]

theorem rf_congr {s t : State} {a : Nat} (h : rd t a = rd s a) (hi lo : Nat) : rf t a hi lo = rf s a hi lo := by
  rw [rf, h, rf]

theorem rd_wn_other {a b : Nat} (v : Nat) {s : State} (h : SmWf regReset s.regs) (hb : b ≠ a) : rd (wn a v s) b = rd s b :=
  rd_wr_other a b _ s h hb

theorem wn_canonical (a v : Nat) {s : State} (h : SmWf regReset s.regs) : SmWf regReset (wn a v s).regs :=
  wr_wf a _ s h

theorem wn64_canonical (a v : Nat) {s : State} (h : SmWf regReset s.regs) : SmWf regReset (wn64 a v s).regs :=
  wn_canonical _ _ (wn_canonical _ _ h)

theorem rd_wn64_other {a b : Nat} (v : Nat) {s : State} (h : SmWf regReset s.regs) (hb : b ≠ a) (hb' : b ≠ a + 4) :
    rd (wn64 a v s) b = rd s b := by
  unfold wn64
  rw [rd_wn_other _ (wn_canonical _ _ h) hb', rd_wn_other _ h hb]

/-! ### Bytes of a register area -/

/-- The little-endian bytes of the number that bytes spell are those bytes. -/
theorem leBytes_ofLe (l : List Byte) : leBytes l.length (ofLe l) = l := by
  induction l with
  | nil => rfl
  | cons b r ih =>
    have hb := b.isLt
    have hhead : BitVec.ofNat 8 (b.toNat + 256 * ofLe r) = b :=
      BitVec.eq_of_toNat_eq (by rw [BitVec.toNat_ofNat]; omega)
    have htail : (b.toNat + 256 * ofLe r) / 256 = ofLe r := by omega
    rw [List.length_cons, leBytes, ofLe, hhead, htail, ih]

theorem ofLe_lt (l : List Byte) : ofLe l < 256 ^ l.length := by
  induction l with
  | nil => decide
  | cons b r ih =>
    have hb := b.isLt
    rw [List.length_cons, Nat.pow_succ, ofLe]
    omega

theorem slice_length (l : List Byte) (o n : Nat) : (slice l o n).length = n := by
  simp [slice]

/-- A slice inside its list. -/
theorem slice_inside {l : List Byte} {o n : Nat} (h : o + n ≤ l.length) : slice l o n = (l.drop o).take n := by
  have hlen : ((l.drop o).take n).length = n := by
    rw [List.length_take, List.length_drop]
    omega
  rw [slice, hlen, Nat.sub_self, List.replicate_zero, List.append_nil]

/-- The bytes of a word that four bytes spell. -/
theorem leBytes_word (l : List Byte) (o : Nat) : leBytes 4 (BitVec.ofNat 32 (le l o 4)).toNat = slice l o 4 := by
  have hlt := ofLe_lt (slice l o 4)
  have hbytes := leBytes_ofLe (slice l o 4)
  rw [slice_length] at hlt hbytes
  have hmod : ofLe (slice l o 4) % 2 ^ 32 = ofLe (slice l o 4) := Nat.mod_eq_of_lt hlt
  rw [BitVec.toNat_ofNat, le, hmod, hbytes]

/-- Slices of four bytes, one after the other, are the bytes that they cover. -/
theorem flatMap_slice_four (l : List Byte) : ∀ n, 4 * n ≤ l.length →
    (List.range n).flatMap (fun i => slice l (4 * i) 4) = l.take (4 * n)
  | 0, _ => rfl
  | n + 1, h => by
    rw [List.range_succ, List.flatMap_append, flatMap_slice_four l n (by omega), List.flatMap_singleton,
      slice_inside (by omega), Nat.mul_succ, List.take_add]

/-- Bytes cut into words are the words' bytes. -/
theorem flatMap_toWords {l : List Byte} {n : Nat} (h : l.length = 4 * n) :
    (toWords l).flatMap (fun w => leBytes 4 w.toNat) = l := by
  have hn : (l.length + 3) / 4 = n := by omega
  simp only [toWords, List.flatMap_map, leBytes_word, hn]
  rw [flatMap_slice_four l n h.ge, ← h, List.take_length]

/-- Consecutive keys read as they were written. -/
theorem smGetAll_putAll {β : Type} [DecidableEq β] (dflt : Nat → β) (l : List β) (m : List (Nat × β)) (a : Nat) {stride : Nat}
    (hs : 0 < stride) (h : m.Pairwise fun p q => p.1 < q.1) :
    smGetAll dflt (smPutAll dflt m a stride l) a stride l.length = l := by
  induction l generalizing m a with
  | nil => rfl
  | cons x r ih =>
    rw [smPutAll, List.length_cons, smGetAll, ih _ _ (smPut_pairwise _ _ _ _ h),
      smGet_putAll_below dflt _ r _ _ _ _ hs (by omega) (smPut_pairwise _ _ _ _ h), smGet_put_same _ _ _ _ h]

/-- Bytes that fill a register area read back. -/
theorem cfgBytes_putCfg (a : Nat) {l : List Byte} {n : Nat} (hl : l.length = 4 * n) {s : State} (h : SmWf regReset s.regs) :
    cfgBytes (putCfg a l s) a (4 * n) = l := by
  have hn : (4 * n + 3) / 4 = (toWords l).length := by rw [toWords_length, hl]
  unfold cfgBytes putCfg
  dsimp only
  rw [hn, smGetAll_putAll regReset (toWords l) s.regs a (by decide) h.1, flatMap_toWords hl, ← hl, List.take_length]

theorem smGetAll_congr {β : Type} (dflt : Nat → β) {m m' : List (Nat × β)} (stride : Nat) :
    ∀ (n a : Nat), (∀ i < n, smGet (dflt (a + stride * i)) m' (a + stride * i) = smGet (dflt (a + stride * i)) m (a + stride * i)) →
      smGetAll dflt m' a stride n = smGetAll dflt m a stride n
  | 0, _, _ => rfl
  | n + 1, a, h => by
    have hhead := h 0 (by omega)
    rw [Nat.mul_zero, Nat.add_zero] at hhead
    rw [smGetAll, smGetAll, hhead, smGetAll_congr dflt stride n (a + stride) fun i hi => ?_]
    have := h (i + 1) (by omega)
    rwa [Nat.mul_add, Nat.mul_one, Nat.add_comm (stride * i), ← Nat.add_assoc] at this

/-- A register area whose words are as before reads as before. -/
theorem cfgBytes_congr {s t : State} {a n : Nat} (h : ∀ i < (n + 3) / 4, rd t (a + 4 * i) = rd s (a + 4 * i)) :
    cfgBytes t a n = cfgBytes s a n := by
  unfold cfgBytes
  rw [smGetAll_congr regReset 4 _ a h]

/-! ### The length of a digest -/

theorem lanes_length (f : Nat → Nat → Lane) : (lanes f).length = 25 := by simp [lanes]

theorem iota_length (a : List Lane) (r : Nat) : (iota a r).1.length = a.length := by
  unfold iota
  exact List.foldlRecOn (motive := fun p : List Lane × Nat => p.1.length = a.length) _ _ rfl
    fun p hp _ _ => (List.length_set ..).trans hp

theorem keccakF_length {a : List Lane} (h : a.length = 25) : (keccakF a).length = 25 := by
  unfold keccakF
  exact List.foldlRecOn (motive := fun p : List Lane × Nat => p.1.length = 25) _ _ h
    fun p _ _ _ => (iota_length _ _).trans (lanes_length _)

theorem sponge_length : ∀ (n : Nat) {a : List Lane} (m : List Byte), a.length = 25 → (sponge n a m).length = 25
  | 0, _, _, h => h
  | n + 1, a, m, _ => by
    unfold sponge
    split
    · exact keccakF_length (lanes_length _)
    · exact sponge_length n _ (keccakF_length (lanes_length _))

/-- A SHA3-512 digest has 64 bytes. -/
theorem sha3_length (m : List Byte) : (sha3 m).length = 64 := by
  have h := sponge_length (m.length / 72 + 1) m (List.length_replicate (n := 25) (a := (0 : Lane)))
  simp only [sha3, List.length_flatMap, leBytes_length, List.map_const', List.sum_replicate_nat, List.length_take, h]
  rfl

end Sys2Proof.Machine
end

section
/-! SUPPORT. The image loader: LOAD, ABORT and DISARM, the sections that a partial image writes, the end of a validation and of a
commit (02 R44-R53, R487). -/

namespace Sys2Proof.Machine
open Sys2Proof

/-! ### A rejection (02 R45, R487) -/

theorem imgReject_img (c x d : Nat) (s : State) : (imgReject c x d s).img = s.img := by
  unfold imgReject imgRejectEvent
  rw [raiseEvent_img]
  rfl

/-- The loader's record of the load stands, beside what imgReject_frame says. -/
theorem imgReject_regs_out (c x d : Nat) (s : State) :
    imgReject c x d s = { s with regs := (imgReject c x d s).regs, out := (imgReject c x d s).out } :=
  (imgReject_frame c x d s).trans (by rw [imgReject_img])

/-- DK_IMG_STATUS is what it was but for STATE, SECTION and CODE. -/
theorem rd_imgReject_status (c x d : Nat) {s : State} (h : SmWf regReset s.regs) :
    rd (imgReject c x d s) A.dkImgStatus =
      rd (wf A.dkImgStatus 15 8 c (wf A.dkImgStatus 21 16 x (wf A.dkImgStatus 3 0 s.img.prior s))) A.dkImgStatus := by
  have hw := wf_canonical A.dkImgStatus 15 8 c (wf_canonical A.dkImgStatus 21 16 x (wf_canonical A.dkImgStatus 3 0 s.img.prior h))
  unfold imgReject imgRejectEvent
  dsimp only
  rw [rd_raiseEvent_other _ _ _ (wn_canonical _ _ hw) (.inl (by decide)), rd_wn_other _ hw (by decide)]

/-- STATE returns to what it was before the LOAD. -/
theorem imgState_imgReject (c x d : Nat) {s : State} (h : SmWf regReset s.regs) :
    imgState (imgReject c x d s) = s.img.prior % 16 := by
  have h1 := wf_canonical A.dkImgStatus 3 0 s.img.prior h
  have h2 := wf_canonical A.dkImgStatus 21 16 x h1
  rw [imgState, rf_congr (rd_imgReject_status c x d h), rf_wf_below _ _ h2 (by decide) (by decide) (by decide) (by decide),
    rf_wf_below _ _ h1 (by decide) (by decide) (by decide) (by decide), rf_wf_same _ _ _ _ _ h (by decide) (by decide)]
  rfl

/-- CODE reports it. -/
theorem imgCode_imgReject (c x d : Nat) {s : State} (h : SmWf regReset s.regs) :
    rf (imgReject c x d s) A.dkImgStatus 15 8 = c % 256 := by
  have h2 := wf_canonical A.dkImgStatus 21 16 x (wf_canonical A.dkImgStatus 3 0 s.img.prior h)
  rw [rf_congr (rd_imgReject_status c x d h), rf_wf_same _ _ _ _ _ h2 (by decide) (by decide)]
  rfl

/-! ### LOAD and ABORT (02 R44, R48, R487) -/

/-- The state in which a LOAD by port p has begun. -/
def loadBegun (p : GPort) (s : State) : State :=
  wf A.dkImgStatus 21 16 0 (wf A.dkImgStatus 3 0 imValidating (wn A.dkImgCtrl 1 { s with img := startLoad p s }))

section Holder
variable {s : State} {p : GPort} (hp : portReady s p = true) (hh : s.ks.holder = some p)

include hp in
/-- IMG_LOAD, IMG_DISARM and IMG_ABORT are writes of 1, 2 and 3 to DK_IMG_CTRL, which take effect at once and answer their status. -/
theorem exec_imgLoad_ready {t : State} {st : Nat} (hr : writeImgCtrl p 1 s = (t, st)) :
    exec (.imgLoad p) s = .next (accessed p A.dkImgCtrl 0 st t) := by
  show Host.Outcome.next (wrRow p A.dkImgCtrl 1 (writeImgCtrl p) s) = _
  rw [wrRow_ready hp, hr]

include hp in
theorem exec_imgDisarm_ready {t : State} {st : Nat} (hr : writeImgCtrl p 2 s = (t, st)) :
    exec (.imgDisarm p) s = .next (accessed p A.dkImgCtrl 0 st t) := by
  show Host.Outcome.next (wrRow p A.dkImgCtrl 2 (writeImgCtrl p) s) = _
  rw [wrRow_ready hp, hr]

include hp in
theorem exec_imgAbort_ready {t : State} {st : Nat} (hr : writeImgCtrl p 3 s = (t, st)) :
    exec (.imgAbort p) s = .next (accessed p A.dkImgCtrl 0 st t) := by
  show Host.Outcome.next (wrRow p A.dkImgCtrl 3 (writeImgCtrl p) s) = _
  rw [wrRow_ready hp, hr]

include hh in
theorem holder_holds : (!holds s p 0) = false := by
  rw [holds_die0, decide_eq_true hh, Bool.not_true]

include hh in
/-- LOAD in RUNNING with no load under way. -/
theorem writeImgCtrl_load (hrun : stage s = stRunning) (hidle : loading s = false) :
    writeImgCtrl p 1 s = (loadBegun p s, stOk) := by
  have hop : fget 1#32 3 0 = 1 := rfl
  simp [writeImgCtrl, holder_holds hh, hop, hrun, hidle, loadBegun]

include hh in
/-- LOAD during a load. -/
theorem writeImgCtrl_load_busy (hrun : stage s = stRunning) (hbusy : loading s = true) :
    writeImgCtrl p 1 s = (imgRejectEvent p.val 4 0 0 s, stIgnored) := by
  have hop : fget 1#32 3 0 = 1 := rfl
  simp [writeImgCtrl, holder_holds hh, hop, hrun, hbusy]

include hh in
/-- DISARM of an armed image. -/
theorem writeImgCtrl_disarm (ha : imgState s = imArmed) :
    writeImgCtrl p 2 s = (disarm (wn A.dkImgCtrl 2 s), stOk) := by
  have hop : fget 2#32 3 0 = 2 := rfl
  simp [writeImgCtrl, holder_holds hh, hop, ha]

include hh in
/-- DISARM with no image armed. -/
theorem writeImgCtrl_disarm_idle (ha : imgState s ≠ imArmed) : writeImgCtrl p 2 s = (s, stIgnored) := by
  have hop : fget 2#32 3 0 = 2 := rfl
  simp [writeImgCtrl, holder_holds hh, hop, ha]

include hh in
/-- ABORT of a validation. -/
theorem writeImgCtrl_abort (hv : imgState s = imValidating) : writeImgCtrl p 3 s =
    (imgReject 0x1A (rf s A.dkImgStatus 21 16) 0 (wn A.dkImgCtrl 3 s), stOk) := by
  have hop : fget 3#32 3 0 = 3 := rfl
  simp [writeImgCtrl, holder_holds hh, hop, hv]

end Holder

theorem loadBegun_frame (p : GPort) (s : State) :
    loadBegun p s = { s with img := startLoad p s, regs := (loadBegun p s).regs } := rfl

section LoadBegun
variable {s : State} (p : GPort) (h : SmWf regReset s.regs)
include h

theorem imgState_loadBegun : imgState (loadBegun p s) = imValidating := by
  have h1 := wn_canonical A.dkImgCtrl 1 (s := { s with img := startLoad p s }) h
  unfold imgState loadBegun
  rw [rf_wf_below _ _ (wf_canonical _ _ _ _ h1) (by decide) (by decide) (by decide) (by decide),
    rf_wf_same _ _ _ _ _ h1 (by decide) (by decide)]
  rfl

theorem imgSection_loadBegun : rf (loadBegun p s) A.dkImgStatus 21 16 = 0 :=
  rf_wf_same _ _ _ 0 _ (wf_canonical _ _ _ _ (wn_canonical A.dkImgCtrl 1 (s := { s with img := startLoad p s }) h)) (by decide)
    (by decide)

theorem rd_loadBegun_other {a : Nat} (hs : a ≠ A.dkImgStatus) (hc : a ≠ A.dkImgCtrl) : rd (loadBegun p s) a = rd s a := by
  have h1 := wn_canonical A.dkImgCtrl 1 (s := { s with img := startLoad p s }) h
  unfold loadBegun
  rw [rd_wf_other _ _ _ (wf_canonical _ _ _ _ h1) hs, rd_wf_other _ _ _ h1 hs,
    rd_wn_other 1 (s := { s with img := startLoad p s }) h hc]
  rfl

end LoadBegun

/-! ### The version that is not in force (02 R51-R53) -/

/-- u differs from s in the version that is not in force alone: what the version in force reads, every register below those of the
program store, and all else stand. -/
structure OtherVersionOnly (s u : State) : Prop where
  frame : u = { s with regs := u.regs, sect := u.sect, net := { s.net with progs := u.net.progs } }
  canonical : SmWf regReset u.regs
  regs : ∀ a < A.rsePvalid 0 0, rd u a = rd s a
  rising : (s.sect.Pairwise fun x y => x.1 < y.1) → u.sect.Pairwise fun x y => x.1 < y.1
  inForce : (s.sect.Pairwise fun x y => x.1 < y.1) → ∀ y, sect u y = sect s y

theorem curEpoch_congr {s t : State} (h : rd t A.rtEpochStatus = rd s A.rtEpochStatus) : curEpoch t = curEpoch s :=
  rf_congr h 0 0

/-- What the version in force reads hangs on the sections and on RT_EPOCH_STATUS. -/
theorem sect_congr {s t : State} (hs : t.sect = s.sect) (he : rd t A.rtEpochStatus = rd s A.rtEpochStatus) (y : Nat) :
    sect t y = sect s y := by
  rw [sect, sectV, hs, curEpoch_congr he, sect, sectV]

/-- What is armed, and DK_IMG_STATUS, leave what the version in force reads. -/
theorem sect_withStatus (o : Option Armed) (hi lo v : Nat) {u : State} (h : SmWf regReset u.regs) (y : Nat) :
    sect (wf A.dkImgStatus hi lo v { u with armed := o }) y = sect u y := by
  have hepoch := rd_wf_other (a := A.dkImgStatus) (b := A.rtEpochStatus) (s := { u with armed := o }) hi lo v h (by decide)
  exact sect_congr (t := wf A.dkImgStatus hi lo v { u with armed := o }) (s := u) rfl hepoch y

theorem otherEpoch_ne_curEpoch (s : State) : otherEpoch s ≠ curEpoch s := by
  unfold otherEpoch
  omega

theorem otherEpoch_lt (s : State) : otherEpoch s < 2 := by
  unfold otherEpoch
  omega

theorem curEpoch_lt (s : State) : curEpoch s < 2 := Nat.mod_lt _ (by decide)

theorem progRegs_sect (v : Nat) (u : State) : (progRegs v u).sect = u.sect := rfl

namespace OtherVersionOnly
variable {s u : State}

theorem refl (h : SmWf regReset s.regs) : OtherVersionOnly s s :=
  ⟨rfl, h, fun _ _ => rfl, id, fun _ _ => rfl⟩

theorem epoch (h : OtherVersionOnly s u) : rd u A.rtEpochStatus = rd s A.rtEpochStatus := h.regs _ (by decide)

theorem otherEpoch_eq (h : OtherVersionOnly s u) : otherEpoch u = otherEpoch s := by
  unfold otherEpoch
  rw [curEpoch_congr h.epoch]

theorem foldl {α : Type} {f : State → α → State} (l : List α) (h : OtherVersionOnly s u)
    (hf : ∀ v, OtherVersionOnly s v → ∀ x ∈ l, OtherVersionOnly s (f v x)) : OtherVersionOnly s (l.foldl f u) :=
  List.foldlRecOn l f h hf

theorem putProg (h : OtherVersionOnly s u) (v j : Nat) (b : List Byte) : OtherVersionOnly s (putProg v j b u) := by
  refine ⟨?_, h.canonical, h.regs, h.rising, h.inForce⟩
  rw [h.frame]
  rfl

theorem progRegs (h : OtherVersionOnly s u) (v : Nat) : OtherVersionOnly s (progRegs v u) := by
  have hregs (a : Nat) (ha : a < A.rsePvalid 0 0) : rd (Machine.progRegs v u) a = rd u a := by
    simp only [A.rsePvalid] at ha
    unfold Machine.progRegs
    rw [rd_putCfg_out _ _ _ _ (wn64_canonical _ _ h.canonical) (.inl (by simp only [A.rsePdigest]; omega)),
      rd_wn64_other _ h.canonical (by simp only [A.rsePvalid]; omega) (by simp only [A.rsePvalid]; omega)]
  have hepoch := hregs A.rtEpochStatus (by decide)
  refine ⟨?_, putCfg_wf _ _ _ (wn64_canonical _ _ h.canonical), fun a ha => (hregs a ha).trans (h.regs a ha), h.rising,
    fun hs y => (sect_congr (progRegs_sect v u) hepoch y).trans (h.inForce hs y)⟩
  rw [h.frame]
  rfl

end OtherVersionOnly

/-- A write of a section's version that is not in force leaves what the version in force reads: the section has two versions, or it
is given what it reads. -/
theorem sect_putSect_other {u : State} {t : Nat} {b : List Byte} (ht : doubleVersioned t = true ∨ b = sect u t)
    (hs : u.sect.Pairwise fun x y => x.1 < y.1) (y : Nat) : sect (putSect t (otherEpoch u) b u) y = sect u y := by
  have hne := otherEpoch_ne_curEpoch u
  have ho := otherEpoch_lt u
  have hc := curEpoch_lt u
  show smGet [] (smPut [] u.sect (2 * t + otherEpoch u) b) (2 * y + if doubleVersioned y then curEpoch u else 0) = _
  by_cases hkey : (2 * y + if doubleVersioned y then curEpoch u else 0) = 2 * t + otherEpoch u
  · have hy : y = t := by split at hkey <;> omega
    subst hy
    have hsingle : doubleVersioned y = false := by
      by_contra hd
      rw [if_pos (by simpa using hd)] at hkey
      omega
    obtain hd | rfl := ht
    · rw [hsingle] at hd
      cases hd
    · rw [hkey, smGet_put_same _ _ _ _ hs]
  · rw [smGet_put_other _ _ _ _ _ _ hkey hs]
    rfl

namespace OtherVersionOnly
variable {s u : State}

theorem putSect (h : OtherVersionOnly s u) {t : Nat} {b : List Byte} (ht : doubleVersioned t = true ∨ b = sect u t) :
    OtherVersionOnly s (putSect t (otherEpoch u) b u) := by
  refine ⟨?_, h.canonical, h.regs, fun hs => smPut_pairwise _ _ _ _ (h.rising hs),
    fun hs y => (sect_putSect_other ht (h.rising hs) y).trans (h.inForce hs y)⟩
  rw [h.frame]
  rfl

/-- A section that a partial image carries is written into the version that is not in force (02 R51). -/
theorem takeSection (h : OtherVersionOnly s u) {t : Nat} (x : List Byte) (ht : doubleVersioned t = true) :
    OtherVersionOnly s (takeSection t (otherEpoch u) x u) := by
  unfold Machine.takeSection
  split
  · exact (h.foldl _ fun v hv j _ => hv.putProg _ j _).progRegs _
  · exact h.putSect (.inl ht)

/-- The version that is not in force takes a section of the one in force (02 R53). -/
theorem copySection (h : OtherVersionOnly s u) (t : Nat) : OtherVersionOnly s (copySection t u) := by
  unfold Machine.copySection
  split
  · exact (h.foldl _ fun v hv j _ => hv.putProg _ j _).progRegs _
  · exact h.putSect (.inr rfl)

theorem copySections (h : OtherVersionOnly s u) (l : List Nat) :
    OtherVersionOnly s (l.foldl (fun s t => Machine.copySection t s) u) :=
  h.foldl l fun _ hv t _ => hv.copySection t

end OtherVersionOnly

/-- After the copy of one section, that section reads as the one in force in the version that is not, and another as before. -/
theorem sectV_copySection {u : State} {y : Nat} (hd : doubleVersioned y = true) (hy : y ≠ secRseprog) (t : Nat)
    (hs : u.sect.Pairwise fun x y => x.1 < y.1) :
    sectV (copySection t u) y (otherEpoch u) = if y = t then sect u y else sectV u y (otherEpoch u) := by
  unfold copySection
  split
  · next ht =>
    rw [if_neg fun h => hy (h.trans ht)]
    have hsect : ((List.range 64).foldl (fun v j => putProg (otherEpoch v) j (progAt v (curEpoch v) j) v) u).sect = u.sect :=
      List.foldlRecOn (motive := fun v : State => v.sect = u.sect) _ _ rfl fun _ hv _ _ => hv
    rw [sectV, progRegs_sect, hsect, sectV]
  · show smGet [] (smPut [] u.sect (2 * t + otherEpoch u) _) (2 * y + if doubleVersioned y then otherEpoch u else 0) = _
    rw [if_pos hd]
    split
    · next h => rw [h, smGet_put_same _ _ _ _ hs]
    · next h =>
      have := otherEpoch_lt u
      rw [smGet_put_other _ _ _ _ _ _ (by omega) hs, sectV, if_pos hd]

/-- After the copies of several sections, each of them reads as the one in force in the version that is not. -/
theorem sectV_copySections {y : Nat} (hd : doubleVersioned y = true) (hy : y ≠ secRseprog) :
    ∀ (l : List Nat) {u : State}, SmWf regReset u.regs → (u.sect.Pairwise fun x y => x.1 < y.1) →
      sectV (l.foldl (fun s t => copySection t s) u) y (otherEpoch u) =
        if y ∈ l then sect u y else sectV u y (otherEpoch u)
  | [], _, _, _ => (if_neg (by simp)).symm
  | t :: l, u, hw, hs => by
    have hone := (OtherVersionOnly.refl hw).copySection t
    have ih := sectV_copySections hd hy l hone.canonical (hone.rising hs)
    rw [hone.otherEpoch_eq, hone.inForce hs, sectV_copySection hd hy t hs] at ih
    rw [List.foldl_cons, ih]
    by_cases hyt : y = t <;> simp [hyt]

/-! ### DISARM (02 R53) -/

section Disarm
variable {s : State} {a : Armed} (ha : s.armed = some a)
include ha

theorem disarm_armed : disarm s =
    wf A.dkImgStatus 3 0 imActive { a.types.foldl (fun s t => copySection t s) s with armed := none } := by
  unfold disarm
  rw [ha]

theorem disarm_frame (h : SmWf regReset s.regs) : disarm s = { s with
    armed := none, regs := (disarm s).regs, sect := (disarm s).sect, net := { s.net with progs := (disarm s).net.progs } } := by
  have hcopied := (OtherVersionOnly.refl h).copySections a.types
  rw [disarm_armed ha]
  generalize a.types.foldl (fun s t => copySection t s) s = u at hcopied
  rw [hcopied.frame]
  rfl

theorem imgState_disarm (h : SmWf regReset s.regs) : imgState (disarm s) = imActive := by
  rw [disarm_armed ha]
  exact rf_wf_same _ _ _ _ _ ((OtherVersionOnly.refl h).copySections a.types).canonical (by decide) (by decide)

theorem sect_disarm (h : SmWf regReset s.regs) (hs : s.sect.Pairwise fun x y => x.1 < y.1) (y : Nat) :
    sect (disarm s) y = sect s y := by
  have hcopied := (OtherVersionOnly.refl h).copySections a.types
  rw [disarm_armed ha, ← hcopied.inForce hs y]
  exact sect_withStatus none 3 0 imActive hcopied.canonical y

/-- Each section that the image had carried holds the version in force again. -/
theorem sectV_disarm (h : SmWf regReset s.regs) (hs : s.sect.Pairwise fun x y => x.1 < y.1) {y : Nat} (hy : y ∈ a.types)
    (hd : doubleVersioned y = true) (hp : y ≠ secRseprog) : sectV (disarm s) y (otherEpoch s) = sect s y := by
  rw [disarm_armed ha]
  exact (sectV_copySections hd hp a.types h hs).trans (if_pos hy)

end Disarm

/-! ### The end of a validation (02 R46, R49, R51) -/

theorem stagedRead_good {s : State} (h : badWord s hbmBase (rn s A.dkImgLen) = none) : stagedRead s = s := by
  unfold stagedRead deviceUe
  rw [h]

section ValidationEnd
variable {s : State} (hv : imgState s = imValidating) (hgood : badWord s hbmBase (rn s A.dkImgLen) = none) (n : Nat)
include hv hgood

theorem exec_validationEnd_rejected {r : Reject} (hc : imageCheck (imgEnv s) (rn s A.dkImgLen) (staged s) = some r) :
    exec (.validationEnd n) s = .next (imgReject r.code r.section_ r.detail s) := by
  show execValidationEnd n s = _
  unfold execValidationEnd
  rw [if_pos hv]
  dsimp only
  rw [hc, stagedRead_good hgood]

variable (hc : imageCheck (imgEnv s) (rn s A.dkImgLen) (staged s) = none)
include hc

theorem exec_validationEnd_full (hk : imKind (staged s) = 0) :
    exec (.validationEnd n) s = .next (wf A.dkImgStatus 3 0 imCommitting (acceptedImage (staged s) s)) := by
  show execValidationEnd n s = _
  unfold execValidationEnd
  rw [if_pos hv]
  dsimp only
  rw [hc, stagedRead_good hgood]
  exact if_pos hk

omit hgood in
theorem exec_validationEnd_deferred (hk : imKind (staged s) ≠ 0) (hspent : tstSpent s actReconfig 16 = true) :
    exec (.validationEnd n) s = .next s := by
  show execValidationEnd n s = _
  unfold execValidationEnd
  rw [if_pos hv]
  dsimp only
  rw [hc]
  exact (if_neg hk).trans (if_pos hspent)

theorem exec_validationEnd_partial (hk : imKind (staged s) ≠ 0) (hspent : tstSpent s actReconfig 16 ≠ true) :
    exec (.validationEnd n) s =
      .next (armPartial (staged s) (acceptedImage (staged s) (tstCharge actReconfig 16 n s))) := by
  show execValidationEnd n s = _
  unfold execValidationEnd
  rw [if_pos hv]
  dsimp only
  rw [hc, stagedRead_good hgood]
  exact (if_neg hk).trans (if_neg hspent)

end ValidationEnd

theorem tstCharge_frame (a i n : Nat) (s : State) :
    tstCharge a i n s = { s with regs := (tstCharge a i n s).regs, tst := (tstCharge a i n s).tst } := by
  unfold tstCharge
  dsimp only
  split <;> rfl

theorem tstCharge_canonical (a i n : Nat) {s : State} (h : SmWf regReset s.regs) : SmWf regReset (tstCharge a i n s).regs :=
  (tstCharge_kept a i n (Kept.refl (K := fun _ _ => True) trivial)).regs h

/-- A charge of a turnstile writes no register but its TST_DEFER. -/
theorem rd_tstCharge_other (a i n : Nat) {s : State} (h : SmWf regReset s.regs) {b : Nat} (hb : b ≠ A.tstDefer a) :
    rd (tstCharge a i n s) b = rd s b := by
  unfold tstCharge
  dsimp only
  split
  · exact rd_wn_other (s := { s with tst := smPut 0 s.tst (32 * a + i) (tstCount s a i + n) }) _ h hb
  · rfl

section Accepted
variable (b : List Byte) {s : State} (h : SmWf regReset s.regs)

theorem acceptedImage_frame (s : State) : acceptedImage b s = { s with regs := (acceptedImage b s).regs } := rfl

include h

theorem acceptedImage_canonical : SmWf regReset (acceptedImage b s).regs :=
  (acceptedImage_kept b (Kept.refl (K := fun _ _ => True) trivial)).regs h

theorem rd_acceptedImage_other {a : Nat} (ha : a ≠ A.dkImgStatus) : rd (acceptedImage b s) a = rd s a := by
  have h1 := wf_canonical A.dkImgStatus 4 4 (imKind b) h
  unfold acceptedImage
  rw [rd_wf_other _ _ _ (wf_canonical _ _ _ _ h1) ha, rd_wf_other _ _ _ h1 ha, rd_wf_other _ _ _ h ha]

/-- CODE of an accepted image is 0. -/
theorem imgCode_acceptedImage : rf (acceptedImage b s) A.dkImgStatus 15 8 = 0 := by
  have h1 := wf_canonical A.dkImgStatus 4 4 (imKind b) h
  unfold acceptedImage
  rw [rf_wf_below _ _ (wf_canonical _ _ _ _ h1) (by decide) (by decide) (by decide) (by decide),
    rf_wf_same _ _ _ _ _ h1 (by decide) (by decide)]
  rfl

end Accepted

/-- The sections of a partial image, written into the version that is not in force. -/
theorem partialSections_otherVersionOnly (b : List Byte) {s : State} (h : SmWf regReset s.regs) : OtherVersionOnly s
    ((partialTypes b).foldl (fun s t => takeSection t (otherEpoch s) (imSect b t) s) s) :=
  (OtherVersionOnly.refl h).foldl _ fun _ hu t ht => hu.takeSection (imSect b t) (List.mem_filter.mp ht).2

section ArmPartial
variable (b : List Byte) {s : State} (h : SmWf regReset s.regs)

theorem armPartial_armed (s : State) : (armPartial b s).armed =
    some { digest := imDigestOf b, serial := imSerial b, types := partialTypes b } := rfl

include h

theorem imgState_armPartial : imgState (armPartial b s) = imArmed :=
  rf_wf_same _ _ _ _ _ (partialSections_otherVersionOnly b h).canonical (by decide) (by decide)

theorem armPartial_frame : armPartial b s = { s with
    armed := (armPartial b s).armed, regs := (armPartial b s).regs, sect := (armPartial b s).sect
    net := { s.net with progs := (armPartial b s).net.progs } } := by
  have hwritten := partialSections_otherVersionOnly b h
  unfold armPartial
  dsimp only
  generalize List.foldl _ s _ = u at hwritten
  rw [hwritten.frame]
  rfl

/-- The version in force reads as before. -/
theorem sect_armPartial (hs : s.sect.Pairwise fun x y => x.1 < y.1) (y : Nat) : sect (armPartial b s) y = sect s y := by
  have hwritten := partialSections_otherVersionOnly b h
  rw [← hwritten.inForce hs y]
  unfold armPartial
  dsimp only
  exact sect_withStatus _ 3 0 imArmed hwritten.canonical y

end ArmPartial

/-- A partial image that passes its checks is armed, and the version in force reads as before. -/
theorem armedAfterValidation {s : State} (h : SmWf regReset s.regs) (b : List Byte) (n : Nat) :
    let t := armPartial b (acceptedImage b (tstCharge actReconfig 16 n s))
    imgState t = imArmed ∧ t.ks = s.ks ∧ t.prot = s.prot ∧ t.hbm = s.hbm ∧
      t.armed = some { digest := imDigestOf b, serial := imSerial b, types := partialTypes b } ∧
      ((s.sect.Pairwise fun x y => x.1 < y.1) → ∀ y, sect t y = sect s y) := by
  have hcharged := tstCharge_canonical actReconfig 16 n h
  have haccepted := acceptedImage_canonical b hcharged
  have hframe : acceptedImage b (tstCharge actReconfig 16 n s) = { s with
      regs := (acceptedImage b (tstCharge actReconfig 16 n s)).regs, tst := (tstCharge actReconfig 16 n s).tst } := by
    rw [acceptedImage_frame, tstCharge_frame]
  have hepoch : rd (acceptedImage b (tstCharge actReconfig 16 n s)) A.rtEpochStatus = rd s A.rtEpochStatus :=
    (rd_acceptedImage_other b hcharged (by decide)).trans (rd_tstCharge_other _ _ _ h (by decide))
  generalize acceptedImage b (tstCharge actReconfig 16 n s) = u at *
  have hsect : u.sect = s.sect := by rw [hframe]
  have harm := armPartial_frame b haccepted
  refine ⟨imgState_armPartial b haccepted, ?_, ?_, ?_, armPartial_armed b u, fun hs y => ?_⟩
  · rw [harm, hframe]
  · rw [harm, hframe]
  · rw [harm, hframe]
  · rw [sect_armPartial b haccepted (hsect ▸ hs), sect_congr hsect hepoch]

/-! ### The end of a commit (02 R49) -/

/-- What the commit of an image does not touch: the Keystone, protection, fuses, piers and fabric time. -/
def besideImage (s : State) : Keystone × Prot × Fuses × Otp × Piers × Nat := (s.ks, s.prot, s.fuses, s.otp, s.pr, s.ft)

section BesideImage
variable (s : State)

theorem besideImage_foldl {α : Type} {f : State → α → State} (l : List α) {s : State}
    (hf : ∀ u x, besideImage (f u x) = besideImage u) : besideImage (l.foldl f s) = besideImage s :=
  List.foldlRecOn (motive := fun u => besideImage u = besideImage s) l f rfl fun u hu x _ => (hf u x).trans hu

@[simp] theorem besideImage_wn (a v : Nat) : besideImage (wn a v s) = besideImage s := rfl
@[simp] theorem besideImage_wf (a hi lo v : Nat) : besideImage (wf a hi lo v s) = besideImage s := rfl
theorem besideImage_wn64 (a v : Nat) : besideImage (wn64 a v s) = besideImage s := rfl
theorem besideImage_putCfg (a : Nat) (l : List Byte) : besideImage (putCfg a l s) = besideImage s := rfl
theorem besideImage_putSect (t v : Nat) (l : List Byte) : besideImage (putSect t v l s) = besideImage s := rfl
theorem besideImage_putProg (v j : Nat) (l : List Byte) : besideImage (putProg v j l s) = besideImage s := rfl
theorem besideImage_onFab (f : Fab → Fab) : besideImage (onFab f s) = besideImage s := rfl
theorem besideImage_progRegs (v : Nat) : besideImage (progRegs v s) = besideImage s := by
  unfold progRegs
  rw [besideImage_putCfg, besideImage_wn64]

theorem besideImage_showCap : besideImage (showCap s) = besideImage s := rfl
theorem besideImage_sentinelPeriod : besideImage (sentinelPeriod s) = besideImage s := rfl

theorem besideImage_raiseEvent (e : EventId) : besideImage (raiseEvent e s) = besideImage s := by
  rw [raiseEvent_frame]
  rfl

theorem besideImage_raiseFault (f : FaultId) : besideImage (raiseFault f s) = besideImage s := by
  rw [raiseFault_frame]
  rfl

theorem besideImage_stagedRead : besideImage (stagedRead s) = besideImage s := by
  unfold stagedRead deviceUe
  split
  · unfold countUe systemUe
    dsimp only
    split
    · exact besideImage_raiseFault _ _
    · rfl
  · rfl

theorem besideImage_takeSection (t v : Nat) (x : List Byte) : besideImage (takeSection t v x s) = besideImage s := by
  unfold takeSection
  split
  · rw [besideImage_progRegs]
    exact besideImage_foldl _ fun u j => besideImage_putProg u v j _
  · rfl

theorem besideImage_showGroups : besideImage (showGroups s) = besideImage s := by
  unfold showGroups
  exact besideImage_foldl _ fun _ _ => by simp

theorem besideImage_showPorts : besideImage (showPorts s) = besideImage s := by
  unfold showPorts
  exact besideImage_foldl _ fun _ _ => by simp

theorem besideImage_showSpares : besideImage (showSpares s) = besideImage s := by
  unfold showSpares
  exact besideImage_foldl _ fun _ _ => by simp

theorem besideImage_takeRetire (x : List Byte) : besideImage (takeRetire x s) = besideImage s := by
  unfold takeRetire
  split
  · dsimp only
    rw [besideImage_foldl _ fun _ _ => besideImage_wn _ _ _, besideImage_foldl _ fun _ _ => besideImage_wn _ _ _]
  · rfl

theorem besideImage_resetPools : besideImage (resetPools s) = besideImage s := by
  unfold resetPools onBpm
  dsimp only
  rw [besideImage_foldl _ fun _ _ => besideImage_wn _ _ _, besideImage_onFab,
    besideImage_foldl _ fun _ _ => besideImage_wn _ _ _, besideImage_wn]

theorem besideImage_withMem (m : Mem) : besideImage { s with mem := m } = besideImage s := rfl

theorem besideImage_rekey (t : State) : besideImage (rekey s t) = besideImage t := rfl

theorem besideImage_takeInterleave (x : List Byte) : besideImage (takeInterleave x s) = besideImage s := by
  unfold takeInterleave
  dsimp only
  rw [apply_ite besideImage, besideImage_rekey, besideImage_showSpares, besideImage_putSect, besideImage_withMem, ite_self]

theorem besideImage_usePower : besideImage (if sect s secPower = [] then s else
    showCap { s with pc := { s.pc with section_ := sect s secPower } }) = besideImage s := by
  split
  · rfl
  · exact besideImage_showCap _

theorem besideImage_useSections : besideImage (useSections s) = besideImage s := by
  unfold useSections
  extract_lets b u
  have hbudgets : besideImage u = besideImage s := by
    unfold u
    split
    · rfl
    · rw [besideImage_foldl _ fun _ _ => besideImage_wn _ _ _, besideImage_wn]
  rw [besideImage_usePower, hbudgets]

theorem besideImage_traceDropAll : besideImage (traceDropAll s) = besideImage s := by
  unfold traceDropAll
  exact besideImage_foldl (f := fun u (r : Nat × List Byte) => traceDrop r.1 u) _ fun _ _ => rfl

theorem besideImage_withPower (c : PowerCtl) (m : List (Nat × Nat)) : besideImage { s with pc := c, tst := m } = besideImage s := rfl

/-- The sections taken one after the other, as 02 R49 lists them. -/
theorem besideImage_takeImage (b : List Byte) : besideImage (takeImage b s) = besideImage s := by
  unfold takeImage
  extract_lets x both retired ports pools classes groups budgets power restarted
  have hboth (t : Nat) (u : State) : besideImage (both t u) = besideImage u := by
    unfold both
    rw [besideImage_takeSection, besideImage_takeSection]
  calc besideImage (sentinelPeriod (traceDropAll (useSections restarted)))
    _ = besideImage restarted := by
      rw [besideImage_sentinelPeriod, besideImage_traceDropAll, besideImage_useSections]
    _ = besideImage budgets := besideImage_withPower budgets _ _
    _ = besideImage groups := by
      unfold budgets
      rw [hboth, hboth, besideImage_takeInterleave]
    _ = besideImage classes := by
      unfold groups
      rw [besideImage_showGroups, hboth, hboth, hboth]
    _ = besideImage pools := by
      unfold classes
      rw [besideImage_onFab, hboth]
    _ = besideImage ports := by
      unfold pools
      rw [besideImage_resetPools, besideImage_putSect, besideImage_putSect]
    _ = besideImage retired := by
      unfold ports
      rw [besideImage_showPorts, besideImage_putSect]
    _ = besideImage s := by
      unfold retired
      split
      · exact besideImage_takeRetire _ _
      · rfl

theorem besideImage_imgActive (port serial : Nat) (digest : List Byte) :
    besideImage (imgActive port serial digest s) = besideImage s := by
  unfold imgActive
  rw [besideImage_raiseEvent, besideImage_wf, besideImage_putCfg, besideImage_wn64]
  rfl

end BesideImage

theorem exec_commitEnd_committing {s : State} (h : imgState s = imCommitting) : exec .commitEnd s =
    .next (imgActive s.img.port (imSerial (staged s)) (imDigestOf (staged s)) (takeImage (staged s) (stagedRead s))) := by
  show execCommitEnd s = _
  exact if_pos h

/-- The end of a commit touches nothing beside the image. -/
theorem besideImage_committed (s : State) : besideImage (imgActive s.img.port (imSerial (staged s)) (imDigestOf (staged s))
    (takeImage (staged s) (stagedRead s))) = besideImage s := by
  rw [besideImage_imgActive, besideImage_takeImage, besideImage_stagedRead]

section ImgActive
variable (port serial : Nat) {digest : List Byte} (hd : digest.length = 64) {s : State} (h : SmWf regReset s.regs)

theorem imgActive_armed (digest : List Byte) (s : State) : (imgActive port serial digest s).armed = none := by
  unfold imgActive
  rw [raiseEvent_armed]
  rfl

include h

theorem imgActive_digestWritten_canonical (digest : List Byte) : SmWf regReset
    (putCfg (A.dkImgDigest 0) digest (wn64 (A.dkImgSerial 0) serial { s with armed := none })).regs :=
  putCfg_wf _ _ _ (wn64_canonical (A.dkImgSerial 0) serial (s := { s with armed := none }) h)

theorem imgState_imgActive (digest : List Byte) : imgState (imgActive port serial digest s) = imActive := by
  have hw := imgActive_digestWritten_canonical serial h digest
  unfold imgActive
  rw [imgState, rf_congr (rd_raiseEvent_other _ _ _ (wf_canonical _ _ _ _ hw) (.inl (by decide))),
    rf_wf_same _ _ _ _ _ hw (by decide) (by decide)]
  rfl

include hd

/-- DK_IMG_DIGEST is the digest of the configuration now in force (02 R49). -/
theorem imgDigest_imgActive : cfgBytes (imgActive port serial digest s) (A.dkImgDigest 0) 64 = digest := by
  have hw := imgActive_digestWritten_canonical serial h digest
  have hw64 := wn64_canonical (A.dkImgSerial 0) serial (s := { s with armed := none }) h
  refine (cfgBytes_congr fun i hi => ?_).trans (cfgBytes_putCfg (A.dkImgDigest 0) (n := 16) hd hw64)
  have hword : i < 16 := hi
  unfold imgActive
  rw [rd_raiseEvent_other _ _ _ (wf_canonical _ _ _ _ hw) (.inl (by simp only [A.dkImgDigest, A.evtLog]; omega)),
    rd_wf_other _ _ _ hw (by simp only [A.dkImgDigest, A.dkImgStatus]; omega)]

end ImgActive

/-- The registers after the image has been taken. -/
theorem takenImage_canonical {s : State} (h : SmWf regReset s.regs) (b : List Byte) :
    SmWf regReset (takeImage b (stagedRead s)).regs :=
  (takeImage_kept b (stagedRead_kept (Kept.refl (K := fun _ _ => True) trivial))).regs h

/-! ### The statement of 02 -/

/-- Settles O21, command by command: a LOAD, its ABORT and a DISARM by the holder, the verdict of a validation, and the end of a
commit, each from what its effect leaves. -/
theorem imageCommands : Obligations.ImageCommands := by
  unfold Obligations.ImageCommands
  refine ⟨fun s p hp hh hw => ⟨fun hrun hidle => ?load, fun hrun hbusy => exec_imgLoad_ready hp (writeImgCtrl_load_busy hh hrun hbusy),
    fun hv hprior => ?abort, fun a hst ha => ?disarm, fun hst => exec_imgDisarm_ready hp (writeImgCtrl_disarm_idle hh hst)⟩,
    fun s hw => ⟨fun n hv hgood => ?validation, fun hc => ?commit⟩⟩
  case load =>
    exact ⟨_, exec_imgLoad_ready hp (writeImgCtrl_load hh hrun hidle), loadBegun_frame p s, imgState_loadBegun p hw,
      imgSection_loadBegun p hw, fun a hs hctrl => rd_loadBegun_other p hw hs hctrl⟩
  case abort =>
    have hctrl := wn_canonical A.dkImgCtrl 3 hw
    refine ⟨_, exec_imgAbort_ready hp (writeImgCtrl_abort hh hv), imgReject_regs_out _ _ _ _, ?_, imgCode_imgReject _ _ _ hctrl⟩
    exact (imgState_imgReject _ _ _ hctrl).trans (Nat.mod_eq_of_lt hprior)
  case disarm =>
    have hctrl := wn_canonical A.dkImgCtrl 2 hw
    have hepoch := rd_wn_other (a := A.dkImgCtrl) (b := A.rtEpochStatus) 2 hw (by decide)
    have harmed : (wn A.dkImgCtrl 2 s).armed = some a := ha
    have hsect (y : Nat) : sect (wn A.dkImgCtrl 2 s) y = sect s y := sect_congr (s := s) (wn_sect s _ _) hepoch y
    have hother : otherEpoch (wn A.dkImgCtrl 2 s) = otherEpoch s := congrArg (1 - ·) (curEpoch_congr hepoch)
    refine ⟨_, exec_imgDisarm_ready hp (writeImgCtrl_disarm hh hst), imgState_disarm harmed hctrl, disarm_frame harmed hctrl,
      fun hs => ⟨fun y => ?_, fun y hy hd hprog => ?_⟩⟩
    · rw [sect_disarm harmed hctrl hs, hsect]
    · rw [← hother, sectV_disarm harmed hctrl hs hy hd hprog, hsect]
  case validation =>
    cases hc : imageCheck (imgEnv s) (rn s A.dkImgLen) (staged s) with
    | some r => exact ⟨_, exec_validationEnd_rejected hv hgood n hc, rfl⟩
    | none =>
      dsimp only
      by_cases hk : imKind (staged s) = 0
      · have haccepted := acceptedImage_canonical (staged s) hw
        refine ⟨_, exec_validationEnd_full hv hgood n hc hk, ?_⟩
        rw [if_pos hk]
        exact ⟨rfl, rf_wf_same _ _ _ _ _ haccepted (by decide) (by decide),
          (rf_wf_above _ _ haccepted (by decide) (by decide) (by decide)).trans (imgCode_acceptedImage _ hw),
          fun a ha => (rd_wf_other _ _ _ haccepted ha).trans (rd_acceptedImage_other _ hw ha)⟩
      by_cases hspent : tstSpent s actReconfig 16 = true
      · exact ⟨_, exec_validationEnd_deferred hv n hc hk hspent, by rw [if_neg hk, if_pos hspent]⟩
      · refine ⟨_, exec_validationEnd_partial hv hgood n hc hk hspent, ?_⟩
        rw [if_neg hk, if_neg hspent]
        exact armedAfterValidation hw (staged s) n
  case commit =>
    have htaken := takenImage_canonical hw (staged s)
    have hbeside := besideImage_committed s
    simp only [besideImage, Prod.mk.injEq] at hbeside
    obtain ⟨hks, hprot, hfuses, hotp, hpr, hft⟩ := hbeside
    exact ⟨_, exec_commitEnd_committing hc, imgState_imgActive _ _ htaken _, imgActive_armed _ _ _ _,
      imgDigest_imgActive _ _ (sha3_length _) htaken, hks, hprot, hfuses, hotp, congrArg Piers.piers hpr, hft⟩

end Sys2Proof.Machine
end

section
/-! SUPPORT. What each command may do at the Keystone's arbiters (03 R61, R67-R72): every step keeps their invariant and the
canonical forms, a ticket rises by 1 at every grant, and only the Keystone's own commands and a full reset move its state. -/

namespace Sys2Proof.Machine
open Sys2Proof

/-! ### Every step -/

/-- Settles O4: what every step keeps says so of the three maps. -/
theorem canonicalKept : Obligations.CanonicalKept := by
  unfold Obligations.CanonicalKept
  intro s t hs hstep
  obtain ⟨u, -, rfl, hkept⟩ := step_kept s t hstep
  exact ⟨hkept.hbm hs.hbm, hkept.regs hs.regs, hkept.store hs.store⟩

/-- Settles O5: what every step keeps says so of the arbiters. -/
theorem keystoneSoundKept : Obligations.KeystoneSoundKept := by
  unfold Obligations.KeystoneSoundKept
  intro s t hs hstep
  obtain ⟨u, -, rfl, hkept⟩ := step_kept s t hstep
  exact hkept.ks hs

/-! ### Every command, by what it may do at the arbiters -/

/-- The commands that set the arbiters' state by themselves: the die-1 record's update, the end of a hold-off, and what resets or
unpowers the module. -/
def setsKeystone : Instr → Bool
  | .die1RecordUpdate | .holdOffEnd | .fullReset | .housekeepingSupplyOff | .sequencerFault _ | .pwrEnDeassert
  | .inputOutOfRange | .thermalTrip => true
  | _ => false

/-- A row that names what the other port has ready in the same core cycle (03 R67). -/
def namesRival : Instr → Bool
  | .read _ _ _ (some _) | .write _ _ (some _) | .registerWrite _ _ _ (some _) => true
  | _ => false

/-- Every other command keeps a relation K of the Keystone that is kept where it must be: by the moves of the arbiters, where the
command may make them, and by an access that waits, where the command is one. -/
theorem exec_keeps {K : Keystone → Keystone → Prop} {a s : State} (c : Instr) (hset : setsKeystone c = false)
    (hmoves : movesKeystone c = true ∨ namesRival c = true → KsMoves K) (hwaits : waitsAtKeystone c = true → KsWaits K)
    (h : Kept K a s) : KeptOut K a (exec c s) := by
  cases c with
  | die1RecordUpdate | holdOffEnd | fullReset | housekeepingSupplyOff | sequencerFault _ | pwrEnDeassert | inputOutOfRange
  | thermalTrip => cases hset
  | resetLAssert => exact execResetLAssert_kept h
  | resetEnd => exact execResetEnd_kept h
  | viaductTraining f01 f10 => exact execViaductTraining_kept f01 f10 h
  | bootRom selfTest failed => exact execBootRom_kept selfTest failed h
  | housekeepingStart => exact execHousekeepingStart_kept h
  | sequencerStart => exact execSequencerStart_kept h
  | railInWindow k => exact execRailInWindow_kept k h
  | pllLock => exact execPllLock_kept h
  | seqLatchClear => exact execSeqLatchClear_kept h
  | viaductFlit d corrected => exact execViaductFlit_kept d corrected h
  | gulaneFrame p frame seen => exact execGulaneFrame_kept (hmoves (.inl rfl)) p frame seen h
  | read p t seen rival =>
    cases rival with
    | none => exact execRead_kept (hmoves (.inl rfl)) p t seen none h
    | some u => exact execRead_kept (hmoves (.inr rfl)) p t seen (some u) h
  | write p t rival =>
    cases rival with
    | none => exact execWrite_kept (hmoves (.inl rfl)) p t none h
    | some u => exact execWrite_kept (hmoves (.inr rfl)) p t (some u) h
  | doorbell p t => exact execDoorbell_kept (hmoves (.inl rfl)) p t h
  | registerWrite p a w rival =>
    cases rival with
    | none => exact execRegisterWrite_kept (hmoves (.inl rfl)) p a w none h
    | some u => exact execRegisterWrite_kept (hmoves (.inr rfl)) p a w (some u) h
  | rcRead r a => exact execRcRead_kept (hmoves (.inl rfl)) r a h
  | latchedRead p a => exact execLatchedRead_kept (hmoves (.inl rfl)) p a h
  | ksAcquire r => exact execKsAcquire_kept (hmoves (.inl rfl)) r h
  | renew p ticket => exact execRenew_kept (hmoves (.inl rfl)) p ticket h
  | release p ticket => exact execRelease_kept (hmoves (.inl rfl)) p ticket h
  | deviceReset p ticket => exact execDeviceReset_kept (hmoves (.inl rfl)) p ticket h
  | leaseExpire => exact execLeaseExpire_kept (hmoves (.inl rfl)) h
  | shadowWrite p x off w => exact execShadowWrite_kept (hwaits rfl) p x off w h
  | commit p => exact execCommit_kept (hwaits rfl) p h
  | discard p => exact execDiscard_kept (hwaits rfl) p h
  | protCheckEnd => exact execProtCheckEnd_kept h
  | protEpoch => exact execProtEpoch_kept h
  | auditPass seen cycles => exact execAuditPass_kept seen cycles h
  | imgLoad p => exact execImgLoad_kept (hwaits rfl) p h
  | imgAbort p => exact execImgAbort_kept (hwaits rfl) p h
  | imgDisarm p => exact execImgDisarm_kept (hwaits rfl) p h
  | validationEnd cycles => exact execValidationEnd_kept cycles h
  | commitEnd => exact execCommitEnd_kept h
  | flip p => exact execFlip_kept (hwaits rfl) p h
  | retire p => exact execRetire_kept (hwaits rfl) p h
  | packetArrive k bytes unc sram => exact execPacketArrive_kept k bytes unc sram h
  | resequencerRelease n j cls => exact execResequencerRelease_kept n j cls h
  | egressStart k => exact execEgressStart_kept k h
  | ageDrop k bulk => exact execAgeDrop_kept k bulk h
  | sampleTick => exact execSampleTick_kept h
  | throttleWindow => exact execThrottleWindow_kept h
  | credit k bytes => exact execCredit_kept k bytes h
  | linkPacketSend k => exact execLinkPacketSend_kept k h
  | put p => exact execPut_kept p h
  | sendPacket p => exact execSendPacket_kept p h
  | getReq p => exact execGetReq_kept p h
  | getRsp p => exact execGetRsp_kept p h
  | ack u => exact execAck_kept u h
  | nack u => exact execNack_kept u h
  | evictNotice u => exact execEvictNotice_kept u h
  | ackTimer r => exact execAckTimer_kept r h
  | retransmitTimeout r => exact execRetransmitTimeout_kept r h
  | trainingPhasePass g l inverted peerMode peerBreakout peerLane skew =>
    exact execTrainingPhasePass_kept g l inverted peerMode peerBreakout peerLane skew h
  | laneTrainTimeout g l => exact execLaneTrainTimeout_kept g l h
  | alignmentLost g l => exact execAlignmentLost_kept g l h
  | fecDegrade g l symbols => exact execFecDegrade_kept g l symbols h
  | cwyCtrlOpen p j o => exact execCwyCtrlOpen_kept (hwaits rfl) p j o h
  | cwyMotionEnd j => exact execCwyMotionEnd_kept j h
  | driveFault => exact execDriveFault_kept h
  | bpmMetaBaseWrite p w => exact execBpmMetaBaseWrite_kept (hwaits rfl) p w h
  | toRing p => exact execToRing_kept (hwaits rfl) p h
  | toList p => exact execToList_kept (hwaits rfl) p h
  | bpmSwitchEnd => exact execBpmSwitchEnd_kept h
  | bpmRequest x c n => exact execBpmRequest_kept x c n h
  | bpmWaitingServed k => exact execBpmWaitingServed_kept k h
  | bpmReturn x c hd => exact execBpmReturn_kept x c hd h
  | nanClear x => exact execNanClear_kept x h
  | native n k x => exact execNative_kept n k x h
  | anchored n k x => exact execAnchored_kept n k x h
  | fast n k x => exact execFast_kept n k x h
  | exponent u up k => exact execExponent_kept u up k h
  | scanOffset n k x => exact execScanOffset_kept n k x h
  | result u k => exact execResult_kept u k h
  | inPkt n k stepwise => exact execInPkt_kept n k stepwise h
  | part n k stepwise => exact execPart_kept n k stepwise h
  | outPkt u entries => exact execOutPkt_kept u entries h
  | endPkt u k => exact execEndPkt_kept u k h
  | gatheredStage n stepwise sram => exact execGatheredStage_kept n stepwise sram h
  | nop n => exact execNop_kept n h
  | add n => exact execAdd_kept n h
  | min n => exact execMin_kept n h
  | max n => exact execMax_kept n h
  | mul n => exact execMul_kept n h
  | addi n => exact execAddi_kept n h
  | muli n => exact execMuli_kept n h
  | movi n => exact execMovi_kept n h
  | movp n => exact execMovp_kept n h
  | getid n => exact execGetid_kept n h
  | cmp n => exact execCmp_kept n h
  | cmpi n => exact execCmpi_kept n h
  | plog n => exact execPlog_kept n h
  | sel n => exact execSel_kept n h
  | cvt n => exact execCvt_kept n h
  | gather n => exact execGather_kept n h
  | scatter n => exact execScatter_kept n h
  | fetchadd n => exact execFetchadd_kept n h
  | hist n => exact execHist_kept n h
  | count n => exact execCount_kept n h
  | prev n => exact execPrev_kept n h
  | sort n => exact execSort_kept n h
  | topk n => exact execTopk_kept n h
  | filter n => exact execFilter_kept n h
  | drop n => exact execDrop_kept n h
  | temit n => exact execTemit_kept n h
  | hpart n => exact execHpart_kept n h
  | emit n => exact execEmit_kept n h
  | progLoad p slot => exact execProgLoad_kept (hwaits rfl) p slot h
  | progClear p slot => exact execProgClear_kept (hwaits rfl) p slot h
  | progLoadEnd cycles => exact execProgLoadEnd_kept cycles h
  | coll p x sram => exact execColl_kept p x sram h
  | collWatchdog p t c => exact execCollWatchdog_kept p t c h
  | rseWatchdog n t c => exact execRseWatchdog_kept n t c h
  | barrierArrive k => exact execBarrierArrive_kept k h
  | barrierRelease u => exact execBarrierRelease_kept u h
  | barrierReleaseAck => exact execBarrierReleaseAck_kept h
  | barrierResend => exact execBarrierResend_kept h
  | barrierFire => exact execBarrierFire_kept h
  | pierCopyEnd p => exact execPierCopyEnd_kept p h
  | rivetRetireApply p g => exact execRivetRetireApply_kept p g h
  | timestampTimer => exact execTimestampTimer_kept h
  | timestampReq k bytes => exact execTimestampReq_kept k bytes h
  | timestampRsp k bytes => exact execTimestampRsp_kept k bytes h
  | ptpMessage p bytes => exact execPtpMessage_kept p bytes h
  | hint u => exact execHint_kept u h
  | wqEntry x j => exact execWqEntry_kept x j h
  | wqEntryComplete x j => exact execWqEntryComplete_kept x j h
  | taskStart p => exact execTaskStart_kept p h
  | taskEnd p sram => exact execTaskEnd_kept p sram h
  | queuePush p => exact execQueuePush_kept p h
  | commandDequeue p e => exact execCommandDequeue_kept p e h
  | commandComplete p e => exact execCommandComplete_kept p e h
  | sync p e => exact execSync_kept p e h
  | matmul p g x => exact execMatmul_kept p g x h
  | matmulSend p g x => exact execMatmulSend_kept p g x h
  | convert p g sram => exact execConvert_kept p g sram h
  | elemwise p g sram => exact execElemwise_kept p g sram h
  | softmax p g sram => exact execSoftmax_kept p g sram h
  | norm p g sram => exact execNorm_kept p g sram h
  | lreduce p g sram => exact execLreduce_kept p g sram h
  | load p x sram => exact execLoad_kept p x sram h
  | loadRowSelection p x sram => exact execLoadRowSelection_kept p x sram h
  | loadListin p x sram => exact execLoadListin_kept p x sram h
  | store p x sram => exact execStore_kept p x sram h
  | send p x sram => exact execSend_kept p x sram h
  | get p => exact execGet_kept p h
  | getWatchdog p tag => exact execGetWatchdog_kept p tag h
  | srOpen p => exact execSrOpen_kept p h
  | srClose p => exact execSrClose_kept p h
  | recvOneshot p => exact execRecvOneshot_kept p h
  | recvStanding p => exact execRecvStanding_kept p h
  | recvExpose p => exact execRecvExpose_kept p h
  | recvCancel p => exact execRecvCancel_kept p h
  | microprogram p g => exact execMicroprogram_kept p g h
  | setx p g => exact execSetx_kept p g h
  | addx p g => exact execAddx_kept p g h
  | lda p g sram => exact execLda_kept p g sram h
  | ldb p g sram => exact execLdb_kept p g sram h
  | stc p g => exact execStc_kept p g h
  | mac p g stall bad => exact execMac_kept p g stall bad h
  | rdacc p g stall => exact execRdacc_kept p g stall h
  | vop p g stall => exact execVop_kept p g stall h
  | vpopa p g stall => exact execVpopa_kept p g stall h
  | vpush p g stall => exact execVpush_kept p g stall h
  | vset p g stall => exact execVset_kept p g stall h
  | zacc p g stall => exact execZacc_kept p g stall h
  | loop p g exe stall => exact execLoop_kept p g exe stall h
  | uprogEnd p g exe => exact execUprogEnd_kept p g exe h
  | residentSwitchStart p j k w => exact execResidentSwitchStart_kept (hwaits rfl) p j k w h
  | ctxSwitch j k cycles => exact execCtxSwitch_kept j k cycles h
  | pierFlagWrite p q k w => exact execPierFlagWrite_kept (hwaits rfl) p q k w h
  | tightrope q => exact execTightrope_kept q h
  | breakResume p q => exact execBreakResume_kept (hwaits rfl) p q h
  | breakStep p q => exact execBreakStep_kept (hwaits rfl) p q h
  | traceEnable p j w => exact execTraceEnable_kept (hwaits rfl) p j w h
  | traceRecordWrite j cycles => exact execTraceRecordWrite_kept j cycles h
  | optStep x w cycles => exact execOptStep_kept x w cycles h
  | optAccum x w => exact execOptAccum_kept x w h
  | kvOpen x w => exact execKvOpen_kept x w h
  | kvClose x w => exact execKvClose_kept x w h
  | kvPut x w => exact execKvPut_kept x w h
  | kvGet x w => exact execKvGet_kept x w h
  | kvDrop x w => exact execKvDrop_kept x w h
  | kvPin x w => exact execKvPin_kept x w h
  | dispatch x w => exact execDispatch_kept x w h
  | combine x w => exact execCombine_kept x w h
  | agtSendState x w cycles => exact execAgtSendState_kept x w cycles h
  | agtDigest x w cycles => exact execAgtDigest_kept x w cycles h
  | agtQuiesce x w => exact execAgtQuiesce_kept x w h
  | agtResume x w => exact execAgtResume_kept x w h
  | agtCancel x w => exact execAgtCancel_kept x w h
  | svcRequestComplete x j => exact execSvcRequestComplete_kept x j h
  | refresh st cycles => exact execRefresh_kept st cycles h
  | scrub st x cycles => exact execScrub_kept st x cycles h
  | retrain p st pch => exact execRetrain_kept (hwaits rfl) p st pch h
  | retrainEnd st ok cycles => exact execRetrainEnd_kept st ok cycles h
  | stackTempRead st t => exact execStackTempRead_kept st t h
  | bwstepWindow st => exact execBwstepWindow_kept st h
  | repair p st pch ext => exact execRepair_kept (hwaits rfl) p st pch ext h
  | memCancel p st => exact execMemCancel_kept (hwaits rfl) p st h
  | repairCopyEnd st cycles => exact execRepairCopyEnd_kept st cycles h
  | tgStart p st k ctl => exact execTgStart_kept (hwaits rfl) p st k ctl h
  | tgDone st k errs cycles => exact execTgDone_kept st k errs cycles h
  | referenceLost => exact execReferenceLost_kept h
  | referenceReturn => exact execReferenceReturn_kept h
  | relockEnd => exact execRelockEnd_kept h
  | railSample rails act => exact execRailSample_kept rails act h
  | controlPeriod => exact execControlPeriod_kept h
  | rampEnd j => exact execRampEnd_kept j h
  | forceEnd => exact execForceEnd_kept h
  | dieTempSample t0 t1 => exact execDieTempSample_kept t0 t1 h
  | clearCons p => exact execClearCons_kept (hwaits rfl) p h
  | sendHint p => exact execSendHint_kept (hwaits rfl) p h
  | hintHoldEnd => exact execHintHoldEnd_kept h
  | turnstilePeriod => exact execTurnstilePeriod_kept h
  | loadFw p => exact execLoadFw_kept (hwaits rfl) p h
  | fwCheckEnd => exact execFwCheckEnd_kept h
  | enroll p => exact execEnroll_kept (hwaits rfl) p h
  | enrollEnd => exact execEnrollEnd_kept h
  | attestationGo p n => exact execAttestationGo_kept (hwaits rfl) p n h
  | attestationDone n => exact execAttestationDone_kept n h
  | enable p f => exact execEnable_kept (hmoves (.inl rfl)) p f h
  | disable p f => exact execDisable_kept (hmoves (.inl rfl)) p f h
  | funcStartEnd f => exact execFuncStartEnd_kept f h
  | funcDrainEnd f => exact execFuncDrainEnd_kept f h
  | limitOverrun f => exact execLimitOverrun_kept f h
  | gulaneReenable n => exact execGulaneReenable_kept n h
  | standby p => exact execStandby_kept (hwaits rfl) p h
  | beginLoad p => exact execBeginLoad_kept (hwaits rfl) p h
  | loaded p => exact execLoaded_kept (hwaits rfl) p h
  | arm p => exact execArm_kept (hwaits rfl) p h
  | abort p => exact execAbort_kept (hwaits rfl) p h
  | spareRelease p => exact execSpareRelease_kept (hwaits rfl) p h
  | spareLoadWatchdog => exact execSpareLoadWatchdog_kept h
  | sentinelVector d r => exact execSentinelVector_kept d r h
  | sentinelRetest d r => exact execSentinelRetest_kept d r h
  | retireRequest p kind span pier g r => exact execRetireRequest_kept (hwaits rfl) p kind span pier g r h
  | kick => exact execKick_kept h
  | fwWatchdog => exact execFwWatchdog_kept h
  | ctxResume p x => exact execCtxResume_kept (hwaits rfl) p x h
  | mgmtId pec => exact execMgmtId_kept pec h
  | seqFault pec => exact execSeqFault_kept pec h
  | seqState pec => exact execSeqState_kept pec h
  | vin pec sample => exact execVin_kept pec sample h
  | iinA pec sample => exact execIinA_kept pec sample h
  | iinB pec sample => exact execIinB_kept pec sample h
  | deviceId pec => exact execDeviceId_kept pec h
  | moduleSn pec => exact execModuleSn_kept pec h
  | bypass => exact execBypass_kept h
  | idcode => exact execIdcode_kept h
  | samplePreload pins load => exact execSamplePreload_kept pins load h
  | extest pins load => exact execExtest_kept pins load h
  | resendAfterRto r => exact execResendAfterRto_kept r h
  | egressPacketEnd k => exact execEgressPacketEnd_kept k h

/-- A relation of the Keystone before a command and after it, from what the command keeps. -/
theorem KeptOut.ks {K : Keystone → Keystone → Prop} {a t : State} {o : Host.Outcome State Fault Refusal} (h : KeptOut K a o)
    (ho : o = .next t) : K a.ks t.ks := by
  subst ho
  exact (Kept.of h).ks

/-! ### The loss of power and a full reset (17 R428-R430) -/

theorem fullReset_ks (s : State) : (fullReset s).ks = Keystone.reset := (fullReset_after s).ks

theorem powerOff_ks (q : SeqState) (s : State) : (powerOff q s).ks = Keystone.reset := (powerOff_after q s).1.ks

/-- A command that resets or unpowers the module leaves the Keystone as after a full reset, or does nothing. -/
theorem exec_resetsKeystone {c : Instr} {s t : State} (hset : setsKeystone c = true) (hdie : c ≠ .die1RecordUpdate)
    (hoff : c ≠ .holdOffEnd) (h : exec c s = .next t) : t.ks = Keystone.reset ∨ t = s := by
  cases c with
  | die1RecordUpdate => exact absurd rfl hdie
  | holdOffEnd => exact absurd rfl hoff
  | fullReset => exact .inl (Host.Outcome.next.inj h ▸ fullReset_ks s)
  | housekeepingSupplyOff => exact .inl (Host.Outcome.next.inj h ▸ powerOff_ks .off s)
  | sequencerFault k =>
    change execSequencerFault k s = .next t at h
    unfold execSequencerFault at h
    split at h
    · exact .inl (Host.Outcome.next.inj h ▸ powerOff_ks .fault s)
    · exact .inr (Host.Outcome.next.inj h).symm
  | pwrEnDeassert => exact .inl (Host.Outcome.next.inj h ▸ powerOff_ks (if s.pwr.latched then .fault else .off) s)
  | inputOutOfRange => exact .inl (Host.Outcome.next.inj h ▸ powerOff_ks (if s.pwr.latched then .fault else .off) s)
  | thermalTrip => exact .inl (Host.Outcome.next.inj h ▸ powerOff_ks .fault s)
  | _ => cases hset

/-! ### Which commands move the Keystone (03 R61, R67-R72) -/

/-- Nothing of the Keystone but what waits at it has moved. -/
def OnlyWaits (a k : Keystone) : Prop := ∃ w, k = { a with waiting := w }

theorem onlyWaits_waits : KsWaits OnlyWaits where
  wait := by
    rintro a k q ⟨w, rfl⟩ -
    exact ⟨q, rfl⟩

/-- The commands that set the Keystone are among those that move it. -/
theorem movesKeystone_of_sets {c : Instr} (h : setsKeystone c = true) : movesKeystone c = true := by
  cases c with
  | die1RecordUpdate | holdOffEnd | fullReset | housekeepingSupplyOff | sequencerFault _ | pwrEnDeassert | inputOutOfRange
  | thermalTrip => rfl
  | _ => cases h

/-- Beside the commands of movesKeystone, those that name the other port's access may move the Keystone, and no other: one that may
wait keeps all of it but what waits, and any other keeps it whole. -/
theorem onlyTheseAndRivalsMoveTheKeystone {c : Instr} {s t : State} (hm : movesKeystone c = false) (hr : namesRival c = false)
    (h : exec c s = .next t) : OnlyWaits s.ks t.ks ∧ (waitsAtKeystone c = false → t.ks = s.ks) := by
  have hset : setsKeystone c = false := Bool.eq_false_iff.mpr fun hs => absurd (movesKeystone_of_sets hs) (by simp [hm])
  have hno {K : Keystone → Keystone → Prop} : movesKeystone c = true ∨ namesRival c = true → KsMoves K := by simp [hm, hr]
  constructor
  · exact (exec_keeps (s := s) c hset hno (fun _ => onlyWaits_waits) (Kept.refl ⟨s.ks.waiting, rfl⟩)).ks h
  · intro hw
    have hnowait : waitsAtKeystone c = true → KsWaits fun a k => k = a := by simp [hw]
    exact (exec_keeps (s := s) c hset hno hnowait (Kept.refl rfl)).ks h

/-- A powered module with both ports ON. -/
def bothPortsOn : State := { State.reset with regs := [(A.dkFuncState (fnGul 0), 2), (A.dkFuncState (fnGul 1), 2)] }

theorem bothPortsOn_canonical : SmWf regReset bothPortsOn.regs := by decide +kernel

theorem bothPortsOn_ready (p : GPort) : portReady bothPortsOn p = true := by
  revert p
  decide +kernel

/-- Writes of both ports to one register of die 0, ready in one core cycle, invert TURN. -/
theorem exec_rivalWrites_turn0 : ∃ t, exec (.registerWrite 0 (BitVec.ofNat 32 (A.ctxSrSeed 0)) 0
    (some (BitVec.ofNat 32 (A.ctxSrSeed 0), 0))) bothPortsOn = .next t ∧ t.ks.turn0 = true := by
  obtain ⟨hwrites, -⟩ := registerAccesses
  obtain ⟨-, -, -, -, -, -, hrival⟩ := hwrites bothPortsOn 0 0 (bothPortsOn_ready 0) bothPortsOn_canonical (by decide +kernel)
  exact ⟨_, hrival 0 0 0 (bothPortsOn_ready 1), rfl⟩

/-- Refutes O6: movesKeystone takes READ, WRITE and REGISTER_WRITE in their forms without a rival alone, and two writes that are
ready in one core cycle invert TURN of the arbiter. -/
theorem not_onlyTheseMoveTheKeystone : ¬ Obligations.OnlyTheseMoveTheKeystone := by
  unfold Obligations.OnlyTheseMoveTheKeystone
  rintro ⟨honly, -⟩
  obtain ⟨t, hexec, hturn⟩ := exec_rivalWrites_turn0
  obtain ⟨⟨w, hks⟩, -⟩ := honly _ _ _ rfl hexec
  rw [hks] at hturn
  cases hturn

/-! ### Tickets (03 R69) -/

/-- What the commands do to the holder and its ticket: both stand, or a free Keystone has been granted with the next ticket, or it
has come free, and its hold-off keeps it from being granted again in the same step. -/
def TicketStep (a k : Keystone) : Prop :=
  (k.holder = a.holder ∧ k.ticket = a.ticket) ∨ (a.holder = none ∧ k.holder ≠ none ∧ k.ticket = nextTicket a.ticket) ∨
    (k.holder = none ∧ k.holdOff = true)

theorem ticketStep_moves : KsMoves TicketStep where
  grant := by
    rintro a k p l (⟨hholder, hticket⟩ | ⟨-, hheld, -⟩ | ⟨-, hoff⟩) hfree hout
    · exact .inr (.inl ⟨hholder ▸ hfree, by simp, congrArg nextTicket hticket⟩)
    · exact absurd hfree hheld
    · rw [hoff] at hout
      cases hout
  free _ _ _ _ := .inr (.inr ⟨rfl, rfl⟩)
  wait _ _ _ h _ := h
  lease _ _ _ h := h
  turn0 _ _ _ h := h
  turn1 _ _ _ h := h

/-- The end of a hold-off serves what waits, by the ports' own moves. -/
theorem holdOffEnd_ticketStep {s t : State} (h : exec .holdOffEnd s = .next t) : TicketStep s.ks t.ks := by
  change execHoldOffEnd s = .next t at h
  unfold execHoldOffEnd at h
  split at h
  · have hbegun : Kept TicketStep s { s with ks := { s.ks with holdOff := false, waiting := [], die1 := none } } :=
      (Kept.refl (K := TicketStep) (.inl ⟨rfl, rfl⟩)).ksMap _ fun _ => .inl ⟨rfl, rfl⟩
    cases h
    exact (Kept.foldl _ (fun _ q hu => serveWaiting_kept ticketStep_moves q hu)
      (waitingOrder_kept ticketStep_moves _ hbegun)).of.ks
  · cases h
    exact .inl ⟨rfl, rfl⟩

/-- Every command makes such a step, or leaves the Keystone free. -/
theorem exec_ticketStep {c : Instr} {s t : State} (h : exec c s = .next t) : TicketStep s.ks t.ks ∨ t.ks.holder = none := by
  by_cases hset : setsKeystone c = true
  · by_cases hdie : c = .die1RecordUpdate
    · subst hdie
      cases h
      exact .inl (.inl ⟨rfl, rfl⟩)
    by_cases hoff : c = .holdOffEnd
    · subst hoff
      exact .inl (holdOffEnd_ticketStep h)
    obtain hks | rfl := exec_resetsKeystone hset hdie hoff h
    · exact .inr (by rw [hks]; rfl)
    · exact .inl (.inl ⟨rfl, rfl⟩)
  · exact .inl ((exec_keeps c (by simpa using hset) (fun _ => ticketStep_moves) (fun _ => ticketStep_moves.toKsWaits)
      (Kept.refl (.inl ⟨rfl, rfl⟩))).ks h)

end Sys2Proof.Machine
end

section
/-! SUPPORT. KS_ACQUIRE, KS_CTRL and the Keystone's timers, command by command (03 R61, R67-R72). -/

namespace Sys2Proof.Machine
open Sys2Proof

/-! ### A commit that is given up, and the registers beside it (03 R77, R81) -/

theorem liveToShadow_canonical {s : State} (h : SmWf regReset s.regs) : SmWf regReset (liveToShadow s).regs :=
  (liveToShadow_kept (Kept.refl (K := fun _ _ => True) trivial)).regs h

/-- A rejection writes KS_PROT_STATUS and an event, and no other register. -/
theorem rd_protReject_other (r x : Nat) {s : State} (h : SmWf regReset s.regs) {a : Nat} (ha : a ≠ A.ksProtStatus)
    (he : a < A.evtLog 0 ∨ A.gulEvtSeq < a) : rd (protReject r x s) a = rd s a := by
  unfold protReject
  rw [rd_raiseEvent_other _ _ _ (wn_canonical _ _ h) he, rd_wn_other _ h ha]

/-- A commit that is given up writes the shadow areas, KS_PROT_STATUS and an event, and no other register. -/
theorem rd_dropStaged_other {s : State} (h : SmWf regReset s.regs) {a : Nat} (hs : isShadow a = false)
    (ha : a ≠ A.ksProtStatus) (he : a < A.evtLog 0 ∨ A.gulEvtSeq < a) : rd (dropStaged s) a = rd s a := by
  unfold dropStaged
  dsimp only
  split
  · rfl
  split
  · rw [rd_protReject_other _ _ (liveToShadow_canonical h) ha he, rd_liveToShadow a s h hs]
  · exact rd_liveToShadow a s h hs

/-! ### KS_ACQUIRE (03 R67, R68) -/

/-- KS_ACQUIRE by one port that is ready. -/
theorem exec_ksAcquire_one {s : State} {p : GPort} (hp : portReady s p = true) :
    exec (.ksAcquire (.one p)) s = .next (acquire p s) :=
  congrArg Host.Outcome.next (byPort_ready hp _ _)

theorem portOn_of_ready {s : State} {p : GPort} (hp : portReady s p = true) : portOn s p = true := by
  unfold portReady at hp
  exact (Bool.and_eq_true_iff.mp hp).1

/-- What a read of KS_ACQUIRE returns while h holds the Keystone (03 Table 3.14). -/
theorem acquireWord_held {s : State} {h : GPort} (hh : s.ks.holder = some h) (p : GPort) :
    acquireWord s p = (if h = p then 2 ^ 31 else 0) + 2 ^ 30 + 2 ^ 16 * h.val + s.ks.ticket := by
  unfold acquireWord
  rw [hh]
  by_cases hp : h = p <;> simp [hp, b2n]

/-- A Keystone that is held stays, and the read says who holds it. -/
theorem acquire_held {s : State} {h : GPort} (hh : s.ks.holder = some h) (p : GPort) :
    acquire p s = accessed p A.ksAcquire
      (BitVec.ofNat 32 ((if h = p then 2 ^ 31 else 0) + 2 ^ 30 + 2 ^ 16 * h.val + s.ks.ticket)) stOk s := by
  have hword := acquireWord_held hh p
  simp [acquire, acquireWaits, acquired, hh, hword, accessed, emit]

/-- In a hold-off the read waits. -/
theorem acquire_waits {s : State} (hfree : s.ks.holder = none) (hoff : s.ks.holdOff = true) (p : GPort) :
    acquire p s = waitFor p (.read A.ksAcquire) s := by
  simp [acquire, acquireWaits, hfree, hoff]

/-- A grant records the holder, its ticket and its lease, drops what was staged, and is reported. -/
theorem ksGrant_frame (p : GPort) (s : State) : ksGrant p s = { s with
    ks := { s.ks with holder := some p, holderBit := p, ticket := nextTicket s.ks.ticket, lease := (ksGrant p s).ks.lease }
    regs := (ksGrant p s).regs, out := (ksGrant p s).out
    prot := { s.prot with copyDue := (ksGrant p s).prot.copyDue } } := by
  unfold ksGrant
  dsimp only
  rw [raiseEvent_frame, dropStaged_frame]

/-- The lease of a grant is LEASE_MS. -/
theorem ksGrant_lease (p : GPort) {s : State} (h : SmWf regReset s.regs) : (ksGrant p s).ks.lease = rf s A.ksLease 13 0 := by
  unfold ksGrant
  rw [raiseEvent_ks]
  exact rf_congr (rd_dropStaged_other h (by decide) (by decide) (.inl (by decide))) 13 0

theorem ksGrant_holder (p : GPort) (s : State) : (ksGrant p s).ks.holder = some p := by
  rw [ksGrant_frame]

/-- Outside a hold-off a free Keystone is granted. -/
theorem acquire_free {s : State} {p : GPort} (hon : portOn s p = true) (hfree : s.ks.holder = none)
    (hoff : s.ks.holdOff = false) : acquire p s = accessed p A.ksAcquire
      (BitVec.ofNat 32 (2 ^ 31 + 2 ^ 30 + 2 ^ 16 * p.val + (ksGrant p s).ks.ticket)) stOk (ksGrant p s) := by
  have hword := acquireWord_held (ksGrant_holder p s) p
  rw [if_pos rfl] at hword
  simp [acquire, acquireWaits, acquired, hfree, hoff, hon, hword, accessed, emit]

/-- Both ports' reads wait in a hold-off. -/
theorem exec_ksAcquire_both_waits {s : State} (h0 : portReady s 0 = true) (h1 : portReady s 1 = true)
    (hfree : s.ks.holder = none) (hoff : s.ks.holdOff = true) :
    exec (.ksAcquire .both) s = .next { s with ks := { s.ks with waiting :=
      s.ks.waiting ++ [(0, .read A.ksAcquire), (1, .read A.ksAcquire)] } } := by
  have hwaits : acquireWaits s = true := by simp [acquireWaits, hfree, hoff]
  have hfirst := acquire_waits hfree hoff 0
  have h1' : portReady (waitFor 0 (.read A.ksAcquire) s) 1 = true := by
    simpa [portReady, portWaits, portOn, waitFor, isOn, fstate, rf, rd] using h1
  have hsecond := acquire_waits (s := waitFor 0 (.read A.ksAcquire) s) hfree hoff 1
  show execKsAcquire .both s = _
  simp only [execKsAcquire, hwaits, Bool.not_true, Bool.and_false, Bool.false_eq_true, if_false]
  rw [byPort_ready h0, hfirst, byPort_ready h1', hsecond]
  simp [waitFor]

/-- While a port holds the Keystone, both ports' reads are answered in the order of TURN, and TURN inverts. -/
theorem exec_ksAcquire_both_held {s : State} {p : GPort} (h0 : portReady s 0 = true) (h1 : portReady s 1 = true)
    (hh : s.ks.holder = some p) : exec (.ksAcquire .both) s =
      let f : GPort := if s.ks.turn0 then 1 else 0
      let word (q : GPort) : Word := BitVec.ofNat 32 ((if p = q then 2 ^ 31 else 0) + 2 ^ 30 + 2 ^ 16 * p.val + s.ks.ticket)
      .next (accessed (1 - f) A.ksAcquire (word (1 - f)) stOk (accessed f A.ksAcquire (word f) stOk
        { s with ks := { s.ks with turn0 := !s.ks.turn0 } })) := by
  have hwaits : acquireWaits s = false := by simp [acquireWaits, hh]
  have hdie : dieOf A.ksAcquire = 0 := by decide
  have twice (b : Bool) (q r : GPort) : acquire r (acquire q { s with ks := { s.ks with turn0 := b } }) =
      accessed r A.ksAcquire (BitVec.ofNat 32 ((if p = r then 2 ^ 31 else 0) + 2 ^ 30 + 2 ^ 16 * p.val + s.ks.ticket)) stOk
        (accessed q A.ksAcquire (BitVec.ofNat 32 ((if p = q then 2 ^ 31 else 0) + 2 ^ 30 + 2 ^ 16 * p.val + s.ks.ticket)) stOk
          { s with ks := { s.ks with turn0 := b } }) := by
    rw [acquire_held (s := { s with ks := { s.ks with turn0 := b } }) hh q]
    exact acquire_held (s := accessed q A.ksAcquire _ stOk { s with ks := { s.ks with turn0 := b } }) hh r
  show execKsAcquire .both s = _
  simp only [execKsAcquire, h0, h1, hwaits, Bool.not_false, Bool.and_self, if_true, contend, alternate, alternate0, hdie]
  cases s.ks.turn0
  · exact congrArg Host.Outcome.next (twice true 0 1)
  · exact congrArg Host.Outcome.next (twice false 1 0)

/-! ### KS_CTRL (03 R71) -/

section Control
variable {s : State} {p : GPort} {k : BitVec 16}

/-- The word that RENEW, RELEASE or DEVICE_RESET writes to KS_CTRL: the ticket and the operation. -/
def ksCtrlWord (k : BitVec 16) (op : Nat) : Word := BitVec.ofNat 32 (2 ^ 16 * k.toNat + op)

theorem ksCtrlWord_fields (k : BitVec 16) {op : Nat} (h : op < 16) :
    fget (ksCtrlWord k op) 31 16 = k.toNat ∧ fget (ksCtrlWord k op) 3 0 = op := by
  have hk := k.isLt
  simp only [ksCtrlWord, fget, bits, BitVec.toNat_ofNat]
  omega

/-- The write by a port that does not hold the Keystone is ignored, with KL_DENIED. -/
theorem writeKsCtrl_denied (hh : s.ks.holder ≠ some p) (w : Word) :
    writeKsCtrl p w s = (klDenied p A.ksCtrl s, stIgnored) := by
  simp [writeKsCtrl, holds_die0, hh]

/-- The holder's write with another ticket is ignored, with KS_TICKET. -/
theorem writeKsCtrl_stale (hh : s.ks.holder = some p) (hk : k.toNat ≠ s.ks.ticket) {op : Nat} (ho : op < 16) :
    writeKsCtrl p (ksCtrlWord k op) s = (raiseEvent
      { code := 0x0305, port := p.val, unit := ksUnit, detail := 2 ^ 16 * k.toNat + s.ks.ticket } s, stIgnored) := by
  obtain ⟨ht, -⟩ := ksCtrlWord_fields k ho
  simp [writeKsCtrl, holds_die0, hh, ht, hk]

variable (hh : s.ks.holder = some p) (hk : k.toNat = s.ks.ticket)
include hh hk

/-- The holder's write with its ticket: what each operation does. -/
theorem writeKsCtrl_renew : writeKsCtrl p (ksCtrlWord k 1) s =
    ({ wn A.ksCtrl (2 ^ 16 * k.toNat + 1) s with ks := { s.ks with lease := rf s A.ksLease 13 0 } }, stOk) := by
  obtain ⟨ht, ho⟩ := ksCtrlWord_fields k (op := 1) (by decide)
  simp [writeKsCtrl, holds_die0, hh, ht, ho, hk]

theorem writeKsCtrl_release : writeKsCtrl p (ksCtrlWord k 2) s =
    (ksRelease false (wn A.ksCtrl (2 ^ 16 * k.toNat + 2) s), stOk) := by
  obtain ⟨ht, ho⟩ := ksCtrlWord_fields k (op := 2) (by decide)
  simp [writeKsCtrl, holds_die0, hh, ht, ho, hk]

theorem writeKsCtrl_deviceReset : writeKsCtrl p (ksCtrlWord k 13) s =
    (dropDrive { wn A.ksCtrl (2 ^ 16 * k.toNat + 13) s with pwr := { s.pwr with resetDue := true } }, stOk) := by
  obtain ⟨ht, ho⟩ := ksCtrlWord_fields k (op := 13) (by decide)
  simp [writeKsCtrl, holds_die0, hh, ht, ho, hk]

end Control

section ControlCommands
variable {s : State} {p : GPort} (hp : portReady s p = true) {k : BitVec 16} {t : State} {st : Nat}
include hp

/-- RENEW, RELEASE and DEVICE_RESET are such writes, which take effect at once and answer their status. -/
theorem exec_renew_ready (hw : writeKsCtrl p (ksCtrlWord k 1) s = (t, st)) :
    exec (.renew p k) s = .next (accessed p A.ksCtrl 0 st t) := by
  show Host.Outcome.next (wrRow p A.ksCtrl (ksCtrlWord k 1) (writeKsCtrl p) s) = _
  rw [wrRow_ready hp, hw]

theorem exec_release_ready (hw : writeKsCtrl p (ksCtrlWord k 2) s = (t, st)) :
    exec (.release p k) s = .next (accessed p A.ksCtrl 0 st t) := by
  show Host.Outcome.next (wrRow p A.ksCtrl (ksCtrlWord k 2) (writeKsCtrl p) s) = _
  rw [wrRow_ready hp, hw]

theorem exec_deviceReset_ready (hw : writeKsCtrl p (ksCtrlWord k 13) s = (t, st)) :
    exec (.deviceReset p k) s = .next (accessed p A.ksCtrl 0 st t) := by
  show Host.Outcome.next (wrRow p A.ksCtrl (ksCtrlWord k 13) (writeKsCtrl p) s) = _
  rw [wrRow_ready hp, hw]

end ControlCommands

/-! ### The Keystone comes free (03 R70, R72) -/

/-- The state t is s with the Keystone free and its hold-off begun, and nothing changed beside but registers, what the module sends,
what was staged, and the loader. -/
def KeystoneFreed (s t : State) : Prop := t = { s with
    ks := { s.ks with holder := none, holderBit := freeBits 1 s, holdOff := true }, free := s.free + 1
    regs := t.regs, out := t.out, prot := { s.prot with copyDue := t.prot.copyDue }, img := t.img }

theorem keystoneFreed_ksFree (e : EventId) (s : State) : KeystoneFreed s (ksFree (raiseEvent e s)) := ksFree_event e s

/-- The release by its holder, after a register write and answered. -/
theorem keystoneFreed_release {s : State} {p : GPort} (hh : s.ks.holder = some p) (a v b : Nat) (d : Word) (st : Nat) :
    KeystoneFreed s (accessed p b d st (ksRelease false (wn a v s))) := by
  have hfreed : KeystoneFreed (wn a v s) (ksRelease false (wn a v s)) := by
    unfold ksRelease
    rw [wn_ks, hh]
    exact keystoneFreed_ksFree _ _
  generalize ksRelease false (wn a v s) = u at hfreed ⊢
  unfold KeystoneFreed at hfreed ⊢
  rw [hfreed]
  rfl

/-- LEASE_EXPIRE while the Keystone is held. -/
theorem exec_leaseExpire_held {s : State} (hh : s.ks.holder ≠ none) :
    ∃ t, exec .leaseExpire s = .next t ∧ KeystoneFreed s t := by
  obtain ⟨h, hh⟩ := Option.ne_none_iff_exists'.mp hh
  refine ⟨_, ?_, keystoneFreed_ksFree { code := 0x0304, port := h, unit := ksUnit, detail := s.ks.ticket } s⟩
  show execLeaseExpire s = _
  unfold execLeaseExpire
  rw [hh]

/-! ### Accesses that wait (03 R61, R68) -/

/-- A register write behind a read of KS_ACQUIRE by its port that waits. -/
theorem exec_registerWrite_waits {s : State} {p : GPort} (hon : portOn s p = true) (hw : portWaits s p = true) (a : BitVec 32)
    (w : Word) : exec (.registerWrite p a w) s =
      .next { s with ks := { s.ks with waiting := s.ks.waiting ++ [(p, .write a.toNat w)] } } := by
  show execRegisterWrite p a w none s = _
  simp [execRegisterWrite, byPort, portReady, hon, hw, waitFor]

/-- The hold-off ends with nobody waiting. -/
theorem exec_holdOffEnd_alone {s : State} (hoff : s.ks.holdOff = true) (hw : s.ks.waiting = []) :
    exec .holdOffEnd s = .next { s with ks := { s.ks with holdOff := false, die1 := none } } := by
  show execHoldOffEnd s = _
  simp [execHoldOffEnd, hoff, hw, waitingOrder]

/-! ### The statements of 03 -/

/-- Settles O14, command by command: the reads of KS_ACQUIRE, the writes of KS_CTRL, and the Keystone's timers. -/
theorem keystoneCommands : Obligations.KeystoneCommands := by
  unfold Obligations.KeystoneCommands
  refine ⟨fun s p hp => ⟨fun hfree hoff => ?granted, fun h hh => ?held, fun hfree hoff => ⟨?waits, ?bothWait⟩,
    fun h0 h1 hh => exec_ksAcquire_both_held h0 h1 hh⟩,
    fun s p k hp => ⟨fun hh hk => ⟨?renew, ?reset, ?release⟩, fun hh hk => ⟨?_, ?_, ?_⟩, fun hh => ⟨?_, ?_, ?_⟩⟩,
    fun s => ⟨exec_leaseExpire_held, rfl, fun p a w hon hw => exec_registerWrite_waits hon hw a w, exec_holdOffEnd_alone⟩⟩
  case granted =>
    refine ⟨ksGrant p s, ksGrant_frame p s, ksGrant_lease p, ?_⟩
    rw [exec_ksAcquire_one hp, acquire_free (portOn_of_ready hp) hfree hoff]
  case held => rw [exec_ksAcquire_one hp, acquire_held hh]
  case waits =>
    rw [exec_ksAcquire_one hp, acquire_waits hfree hoff]
    rfl
  case bothWait =>
    rintro rfl h1
    exact exec_ksAcquire_both_waits hp h1 hfree hoff
  case renew => exact exec_renew_ready hp (writeKsCtrl_renew hh hk)
  case reset => exact exec_deviceReset_ready hp (writeKsCtrl_deviceReset hh hk)
  case release => exact ⟨_, exec_release_ready hp (writeKsCtrl_release hh hk), keystoneFreed_release hh _ _ _ _ _⟩
  · exact exec_renew_ready hp (writeKsCtrl_stale hh hk (by decide))
  · exact exec_release_ready hp (writeKsCtrl_stale hh hk (by decide))
  · exact exec_deviceReset_ready hp (writeKsCtrl_stale hh hk (by decide))
  · exact exec_renew_ready hp (writeKsCtrl_denied hh _)
  · exact exec_release_ready hp (writeKsCtrl_denied hh _)
  · exact exec_deviceReset_ready hp (writeKsCtrl_denied hh _)

/-- Settles O15: every command makes a step of tickets, a free Keystone is granted with the next one, and a full reset leaves 0. -/
theorem ticketRisesAtEveryGrant : Obligations.TicketRisesAtEveryGrant := by
  unfold Obligations.TicketRisesAtEveryGrant
  refine ⟨fun c s t h hheld => ?_, fun s p hp hfree hoff => ?_, fun s => ⟨_, rfl, ?_, ?_⟩⟩
  · obtain (hstay | ⟨hfree, -, hticket⟩ | ⟨hfree, -⟩) | hfree := exec_ticketStep h
    · exact .inl hstay
    · exact .inr ⟨hfree, hticket⟩
    · exact absurd hfree hheld
    · exact absurd hfree hheld
  · refine ⟨_, exec_ksAcquire_one hp, ?_⟩
    rw [acquire_free (portOn_of_ready hp) hfree hoff]
    show (ksGrant p s).ks.holder = some p ∧ (ksGrant p s).ks.ticket = nextTicket s.ks.ticket
    rw [ksGrant_frame]
    exact ⟨rfl, rfl⟩
  · rw [fullReset_ks]
    rfl
  · rw [fullReset_ks]
    rfl

end Sys2Proof.Machine
end

section
/-! SUPPORT. The protection epoch (03 R78): which registers it writes, and where a staged word of no shadow area goes. -/

namespace Sys2Proof.Machine
open Sys2Proof

/-! ### Registers that the protection epoch writes -/

theorem setLive_canonical (ws : List (Nat × Word)) {s : State} (h : SmWf regReset s.regs) : SmWf regReset (setLive ws s).regs :=
  (setLive_kept ws (Kept.refl (K := fun _ _ => True) trivial)).regs h

/-- A journal entry is written above the KS registers, and its SEQ to KS_JRNL_HEAD. -/
theorem rd_addJournal_below (port kind ticket mask : Nat) (digest : List Byte) {s : State} (h : SmWf regReset s.regs) {a : Nat}
    (ha : a < A.ksJrnlHead) : rd (addJournal port kind ticket mask digest s) a = rd s a := by
  simp only [A.ksJrnlHead] at ha
  unfold addJournal writeJournal
  dsimp only
  refine (rd_wn_other _ (putCfg_wf _ _ s h) (by simp only [A.ksJrnlHead]; omega)).trans (rd_putCfg_out _ _ _ _ h (.inl ?_))
  simp only [A.ksJournal]
  omega

theorem addJournal_canonical (port kind ticket mask : Nat) (digest : List Byte) {s : State} (h : SmWf regReset s.regs) :
    SmWf regReset (addJournal port kind ticket mask digest s).regs :=
  (addJournal_kept port kind ticket mask digest (Kept.refl (K := fun _ _ => True) trivial)).regs h

/-- A commit's report writes an event and KS_PROT_STATUS. -/
theorem rd_commitReported_other (e : EventId) {s : State} (h : SmWf regReset s.regs) {a : Nat} (ha : a ≠ A.ksProtStatus)
    (he : a < A.evtLog 0 ∨ A.gulEvtSeq < a) :
    SmWf regReset (wf A.ksProtStatus 3 0 psIdle (wf A.ksProtStatus 11 8 0 (raiseEvent e s))).regs ∧
      rd (wf A.ksProtStatus 3 0 psIdle (wf A.ksProtStatus 11 8 0 (raiseEvent e s))) a = rd s a := by
  have hevent : SmWf regReset (raiseEvent e s).regs := (raiseEvent_kept e (Kept.refl (K := fun _ _ => True) trivial)).regs h
  have hresult := wf_canonical A.ksProtStatus 11 8 0 hevent
  refine ⟨wf_canonical _ _ _ _ hresult, ?_⟩
  rw [rd_wf_other _ _ _ hresult ha, rd_wf_other _ _ _ hevent ha, rd_raiseEvent_other _ _ _ h he]

/-- KS_PROT_EPOCH rises from what the staged words have left in it (03 R78). -/
theorem rn_ksProtEpoch_protEpoch {s : State} (h : SmWf regReset s.regs) (hpending : protState s = psPending) :
    ∃ t, exec .protEpoch s = .next t ∧ rn t A.ksProtEpoch = (rn (setLive s.prot.staged s) A.ksProtEpoch + 1) % 2 ^ 32 := by
  refine ⟨_, if_pos hpending, ?_⟩
  dsimp only
  have hlive := setLive_canonical s.prot.staged h
  generalize setLive s.prot.staged s = u at hlive ⊢
  generalize hv : (rn u A.ksProtEpoch + 1) % 2 ^ 32 = v
  have hepoch := wn_canonical A.ksProtEpoch v hlive
  have hdigest := putCfg_wf (A.ksProtLive 0) u.prot.digest _ hepoch
  have hread : rd (putCfg (A.ksProtLive 0) u.prot.digest (wn A.ksProtEpoch v u)) A.ksProtEpoch = BitVec.ofNat 32 v := by
    rw [rd_putCfg_out _ _ _ _ hepoch (.inl (by decide)), wn, rd_wr_same _ _ _ hlive]
  generalize putCfg (A.ksProtLive 0) u.prot.digest (wn A.ksProtEpoch v u) = x at hdigest hread ⊢
  generalize changedMask (liveWords s) s.prot.staged = mask
  have hjournal := addJournal_canonical x.prot.committer 0 x.prot.ticket mask x.prot.digest hdigest
  have hkept := rd_addJournal_below x.prot.committer 0 x.prot.ticket mask x.prot.digest hdigest (a := A.ksProtEpoch) (by decide)
  generalize addJournal x.prot.committer 0 x.prot.ticket mask x.prot.digest x = y at hjournal hkept ⊢
  obtain ⟨hreported, hstill⟩ := rd_commitReported_other
    { code := 0x0306, port := y.prot.committer, unit := ksUnit, detail := v } hjournal (a := A.ksProtEpoch) (by decide)
    (.inl (by decide))
  generalize wf A.ksProtStatus 3 0 psIdle (wf A.ksProtStatus 11 8 0 (raiseEvent _ y)) = z at hreported hstill ⊢
  have hend : rd (if z.prot.copyDue = true then liveToShadow z else z) A.ksProtEpoch = rd z A.ksProtEpoch := by
    split
    · exact rd_liveToShadow _ z hreported (by decide)
    · rfl
  have hvalue := hend.trans (hstill.trans (hkept.trans hread))
  have hlt : v < 2 ^ 32 := hv ▸ Nat.mod_lt _ (by decide)
  exact (congrArg BitVec.toNat hvalue).trans (Nat.mod_eq_of_lt hlt)

/-! ### A staged word of no shadow area -/

/-- A PENDING commit whose staged word, of no shadow area, would become live at KS_PROT_EPOCH. -/
def strayStaged : State := { State.reset with
  regs := [(A.ksProtStatus, 2)], prot := { Prot.reset with staged := [(A.ksProtEpoch - 0x1400, 5)] } }

/-- Refutes O16: its clause for protEpoch asks nothing of the words that were staged. Where one of them, of no shadow area, becomes
live at KS_PROT_EPOCH itself, the rise counts from that word and not from what KS_PROT_EPOCH held. (protCheckEnd stages words of the
shadow areas alone, so that no commit of the module's own comes to such a state.) -/
theorem not_protectionCommands : ¬ Obligations.ProtectionCommands := by
  unfold Obligations.ProtectionCommands
  rintro ⟨-, hsteps⟩
  obtain ⟨-, hepoch, -⟩ := hsteps strayStaged
  have hw : SmWf regReset strayStaged.regs := by decide +kernel
  have hpending : protState strayStaged = psPending := by decide +kernel
  obtain ⟨t, ht, -, -, hclaim, -⟩ := hepoch hpending rfl hw
  obtain ⟨u, hu, hrise⟩ := rn_ksProtEpoch_protEpoch hw hpending
  obtain rfl : u = t := Host.Outcome.next.inj (hu.symm.trans ht)
  have hbefore : rn strayStaged A.ksProtEpoch = 0 := by decide +kernel
  have hstaged : rn (setLive strayStaged.prot.staged strayStaged) A.ksProtEpoch = 5 := by decide +kernel
  rw [hclaim, hbefore, hstaged] at hrise
  cases hrise

end Sys2Proof.Machine
end

section
/-! SUPPORT. Gulane transactions (03 R57-R63, R73, R74): READ and WRITE of HBM for a context, doorbells of work queues, and
frames. -/

namespace Sys2Proof.Machine
open Sys2Proof

/-! ### A transaction of a port that is ready -/

theorem portWaits_of_ready {s : State} {p : GPort} (hp : portReady s p = true) : portWaits s p = false := by
  unfold portReady at hp
  simpa using (Bool.and_eq_true_iff.mp hp).2

/-- A transaction of a port that is ready is performed, unless it is a read of KS_ACQUIRE. -/
theorem txnRow_ready {s : State} {p : GPort} (hp : portReady s p = true) (seen : MemSeen) {t : Txn} (ha : readsAcquire t = false) :
    txnRow p seen t none s = performTxn p t seen s := by
  show byPort p (.txn t) (fun s => takeTxn p seen s t) s = _
  rw [byPort_ready hp, takeTxn, portWaits_of_ready hp, ha]
  rfl

/-- A slice of a list's own length is the list. -/
theorem slice_whole {l : List Byte} {n : Nat} (h : l.length = n) : slice l 0 n = l := by
  rw [slice_inside (by omega), List.drop_zero, ← h, List.take_length]

theorem slice_nil (n : Nat) : slice [] 0 n = List.replicate n 0 := by simp [slice]

theorem smGetAll_length {β : Type} (dflt : Nat → β) (m : List (Nat × β)) (stride : Nat) :
    ∀ n a, (smGetAll dflt m a stride n).length = n
  | 0, _ => rfl
  | n + 1, a => by rw [smGetAll, List.length_cons, smGetAll_length dflt m stride n]

theorem hbmRd_length (s : State) (a n : Nat) : (hbmRd s a n).length = n := smGetAll_length _ _ _ n a

/-! ### HBM for a context (03 R60, R73, R74) -/

/-- A transaction of HBM that is whole, for a context that is ON: its fields and its place are good (03 R60). -/
structure HbmFor (s : State) (t : Txn) : Prop where
  status : t.status = 0
  words : t.len % 4 = 0 ∧ 4 ≤ t.len
  aligned : t.addr % 4 = 0
  page : t.addr % 4096 + t.len ≤ 4096
  aperture : hbmBase ≤ t.addr ∧ t.addr < hbmEnd
  mapped : mapped s t.addr = true
  ctx : t.ctx < 64
  on : isOn s (fnCtx t.ctx) = true

namespace HbmFor
variable {s : State} {t : Txn} (h : HbmFor s t)
include h

/-- The window alone decides whether the transaction is done (03 R60). -/
theorem refused : hbmRefused s t =
    if winOk s t.ctx t.addr t.len (if t.op = opRead then .gr else .gw) = true then none else some stDenied := by
  obtain ⟨hwords, hfour⟩ := h.words
  have hpage := h.page
  have hctx := h.ctx
  unfold hbmRefused
  rw [if_neg (by omega), if_neg (by have := h.aligned; omega), if_neg (by omega), h.mapped, if_neg (by simp), if_neg (by omega)]
  simp only [hctx, h.on, true_and]

theorem ofOp (n : Nat) : HbmFor s { t with op := n } :=
  ⟨h.status, h.words, h.aligned, h.page, h.aperture, h.mapped, h.ctx, h.on⟩

/-- It is no read of KS_ACQUIRE. -/
theorem readsAcquire : readsAcquire t = false := by
  have hne : (t.addr == A.ksAcquire) = false := by
    have := h.aperture.1
    simp only [hbmBase] at this
    simp only [A.ksAcquire, beq_eq_false_iff_ne]
    omega
  simp [Machine.readsAcquire, hne]

/-- Where its header is legal, it is performed at HBM. -/
theorem perform (p : GPort) (seen : MemSeen) (hl : txnLegal t = true) (ho : t.op ≠ opDoorbell) :
    performTxn p t seen s = hbmTxn p t seen s := by
  obtain ⟨hlow, hhigh⟩ := h.aperture
  unfold performTxn
  rw [hl, if_neg (by simp), if_neg ho, if_neg (Nat.not_le.mpr hhigh), if_pos hlow]

end HbmFor

section Transactions
variable {s : State} {p : GPort} {t : Txn} (hp : portReady s p = true) (h : HbmFor s t)
include hp h

/-- READ of HBM is performed there. -/
theorem exec_read_hbm (hf : t.flags = 0) : exec (.read p t .none) s = .next (hbmTxn p { t with op := opRead } .none s) := by
  have hread := h.ofOp opRead
  have hlegal : txnLegal { t with op := opRead } = true := by simp [txnLegal, opToDevice, h.status, hf]
  show Host.Outcome.next (txnRow p .none { t with op := opRead } none s) = _
  rw [txnRow_ready hp _ hread.readsAcquire, hread.perform p _ hlegal (by simp [opRead, opDoorbell])]

/-- WRITE of HBM, POSTED or not, is performed there. -/
theorem exec_write_hbm (hf : t.flags ≤ 1) : exec (.write p t) s = .next (hbmTxn p { t with op := opWrite } .none s) := by
  have hwrite := h.ofOp opWrite
  have hlegal : txnLegal { t with op := opWrite } = true := by
    have hflags : t.flags = 0 ∨ t.flags = 1 := by omega
    simp [txnLegal, opToDevice, h.status, hflags]
  show Host.Outcome.next (txnRow p .none { t with op := opWrite } none s) = _
  rw [txnRow_ready hp _ hwrite.readsAcquire, hwrite.perform p _ hlegal (by simp [opWrite, opDoorbell])]

omit hp in
/-- A transaction that no window allows is answered DENIED. -/
theorem hbmTxn_denied (seen : MemSeen)
    (hw : winOk s t.ctx t.addr t.len (if t.op = opRead then .gr else .gw) = false) :
    hbmTxn p t seen s = gulSend p (response t stDenied []) s := by
  unfold hbmTxn
  rw [h.refused, hw]
  rfl

omit hp in
/-- A READ that a window allows returns the bytes. -/
theorem hbmTxn_read (hop : t.op = opRead) (hw : winOk s t.ctx t.addr t.len .gr = true) (hq : quiesced s t.addr t.len = false)
    (hb : badWord s t.addr t.len = none) :
    hbmTxn p t .none s = gulSend p (response t stOk (hbmRd s t.addr t.len)) s := by
  have hanswers : answers t stOk = true := by simp [answers, hop]
  unfold hbmTxn
  rw [h.refused, if_pos hop, hw, if_pos rfl]
  dsimp only
  rw [if_pos hop, hbmReadTxn, hq, if_neg Bool.false_ne_true]
  dsimp only [meetEcc]
  rw [hb]
  exact if_pos hanswers

omit hp in
/-- A WRITE that a window allows writes its bytes. -/
theorem hbmTxn_write (seen : MemSeen) (hop : t.op = opWrite) (hw : winOk s t.ctx t.addr t.len .gw = true)
    (hq : quiesced s t.addr t.len = false) (hd : t.data.length = t.len) :
    hbmTxn p t seen s = respond p t stOk [] (hbmWr t.addr t.data s) := by
  have hnr : t.op ≠ opRead := by simp [hop, opWrite, opRead]
  have hctx : t.ctx ≠ 0xFF := by have := h.ctx; omega
  unfold hbmTxn
  rw [h.refused, if_neg hnr, hw, if_pos rfl]
  dsimp only
  rw [if_neg hnr, hbmWriteTxn, if_neg (by simp [hctx]), if_neg (by simp [hctx]), hq, if_neg Bool.false_ne_true, slice_whole hd]

end Transactions

/-- A WRITE that is done changes memory, and is answered unless it is POSTED. -/
theorem respond_hbmWr {t : Txn} (hop : t.op = opWrite) (hf : t.flags ≤ 1) (p : GPort) (a : Nat) (bs : List Byte) (s : State) :
    respond p t stOk [] (hbmWr a bs s) = { hbmWr a bs s with out := if t.flags = 1 then s.out else (gulSend p
      { op := 0x82, tag := t.tag, len := 0, ctx := t.ctx, status := stOk, addr := t.addr } s).out } := by
  have hflags : t.flags = 0 ∨ t.flags = 1 := by omega
  obtain hf | hf := hflags
  · have hanswers : answers t stOk = true := by simp [answers, hop, hf, bit]
    rw [respond, if_pos hanswers, if_neg (by simp [hf])]
    simp [response, hop, opWrite, opRead, gulSend, emit]
  · have hanswers : answers t stOk = false := by simp [answers, hop, hf, opWrite, opRead, bit]
    rw [respond, hanswers, if_neg Bool.false_ne_true, if_pos hf]
    rfl

/-- Settles O19: the window decides, and the transaction is done at HBM or denied. -/
theorem hbmTransactions : Obligations.HbmTransactions := by
  unfold Obligations.HbmTransactions
  intro s p t hp hwf hstatus hlen hfour haddr hpage hlow hhigh hmapped hctx hon hq hdata
  have h : HbmFor s t := ⟨hstatus, ⟨hlen, hfour⟩, haddr, hpage, ⟨hlow, hhigh⟩, hmapped, hctx, hon⟩
  refine ⟨fun hf hw hb => ?read, fun hf hw => ?write, fun hf hw => ?readDenied, fun hf hw => ?writeDenied⟩
  case read =>
    rw [exec_read_hbm hp h hf, hbmTxn_read (h.ofOp opRead) rfl hw hq hb]
    simp [response, opRead, slice_whole (hbmRd_length _ _ _)]
  case write =>
    refine ⟨_, exec_write_hbm hp h hf, ?_⟩
    rw [hbmTxn_write (h.ofOp opWrite) .none rfl hw hq hdata,
      respond_hbmWr (t := { t with op := opWrite }) rfl hf p t.addr t.data s]
    refine ⟨fun a => ?_, rfl⟩
    rw [← hdata]
    exact hbmByte_hbmWr t.addr t.data s hwf a
  case readDenied =>
    rw [exec_read_hbm hp h hf, hbmTxn_denied (h.ofOp opRead) _ hw]
    simp [response, opRead, slice_nil]
  case writeDenied =>
    rw [exec_write_hbm hp h hf, hbmTxn_denied (h.ofOp opWrite) _ hw]
    simp [response, opWrite, opRead]

/-! ### Doorbells of work queues (03 R63) -/

section Doorbells
variable {s : State} {p : GPort} {t : Txn} {x q : Nat}

/-- DOORBELL with device-level CTX, LEN 8 and a zero upper word is counted for a context that is ON. -/
theorem exec_doorbell_counted (hp : portReady s p = true) (hf : t.flags = 0) (hs : t.status = 0) (hc : t.ctx = 0xFF)
    (hl : t.len = 8) (hat : doorbellAt t.addr = some (x, q)) (hupper : le t.data 4 4 = 0) (hon : isOn s (fnCtx x) = true) :
    exec (.doorbell p t) s = .next (respond p { t with op := opDoorbell } (addDoorbell p x q (le t.data 0 4) s).2 []
      (addDoorbell p x q (le t.data 0 4) s).1) := by
  have hlegal : txnLegal { t with op := opDoorbell } = true := by simp [txnLegal, opToDevice, hs, hf]
  have hacquire : readsAcquire { t with op := opDoorbell } = false := by simp [readsAcquire, opDoorbell, opRead]
  show Host.Outcome.next (txnRow p .none { t with op := opDoorbell } none s) = _
  rw [txnRow_ready hp _ hacquire, performTxn, hlegal, if_neg (by simp), if_pos rfl]
  simp [doorbellTxn, hat, hc, hl, hupper, hon]

/-- What waits in the ring of a work queue, and the entries that the ring has (11 R290). -/
def ringUsed (s : State) (x q : Nat) : Nat := (rn s (A.ctxDb x q) + 2 ^ 32 - rn s (A.ctxWqCons x q)) % 2 ^ 32
def ringSize (s : State) (x q : Nat) : Nat := 2 ^ rf s (A.ctxWqCfg x q) 4 0

/-- A count that the ring has room for is added. -/
theorem addDoorbell_room {n : Nat} (hq : q < 8) (hn : 0 < n) (h : ringUsed s x q + n ≤ ringSize s x q) (port : Nat) :
    addDoorbell port x q n s = (wn (A.ctxDb x q) ((rn s (A.ctxDb x q) + n) % 2 ^ 32) s, stOk) := by
  unfold ringUsed ringSize at h
  simp only [addDoorbell, hq, if_true]
  rw [if_neg (by omega), if_neg (Nat.not_lt.mpr h)]

/-- One that it has no room for is not, and a record says so. -/
theorem addDoorbell_overrun {n : Nat} (hq : q < 8) (hn : 0 < n) (h : ringSize s x q < ringUsed s x q + n) (port : Nat) :
    addDoorbell port x q n s = (raiseFault { code := 0x0309, cls := .ctxf, ctx := x, unit := ctxUnit x
                                             detail := 2 ^ 32 * n + q, port := port } s, stDbOverrun) := by
  unfold ringUsed ringSize at h
  simp only [addDoorbell, hq, if_true]
  rw [if_neg (by omega), if_pos h]

end Doorbells

/-! ### Frames (03 R57, R58; 10 R279) -/

/-- GULANE_FRAME on a port that is ON. -/
theorem exec_gulaneFrame_on {s : State} {p : GPort} (h : portOn s p = true) (b : List Byte) (seen : MemSeen) :
    exec (.gulaneFrame p b seen) s = .next (takeFrame p b seen s) :=
  congrArg Host.Outcome.next (if_pos h)

/-- A frame that is not whole, or that is neither of the port's EtherType nor of IEEE 1588, is counted and does nothing. -/
theorem takeFrame_counted {s : State} {p : GPort} {b : List Byte}
    (h : frameGood b = false ∨ (be b 12 2 ≠ rf s (A.gulCfg p) 15 0 ∧ be b 12 2 ≠ 0x88F7)) (seen : MemSeen) :
    takeFrame p b seen s = bump (A.gulRxErr p) 1 s := by
  unfold takeFrame
  obtain hbad | ⟨htype, hptp⟩ := h
  · rw [hbad]
    rfl
  · rw [if_neg hptp, if_pos htype, ite_self]

/-- Settles O20: a doorbell by whether its ring has room, and a frame by what it is. -/
theorem doorbellsAndFrames : Obligations.DoorbellsAndFrames := by
  unfold Obligations.DoorbellsAndFrames
  refine ⟨fun s p t x q n hp hf hs hc hl hat hq hn hpos hupper hon => ⟨fun hroom => ?room, fun hover => ?overrun⟩,
    fun s p b seen hon => ⟨fun hgood htype hptp => ?own, fun hgood hptp => ?ptp, fun hother => ?other⟩⟩
  case room =>
    rw [exec_doorbell_counted hp hf hs hc hl hat hupper hon, hn, addDoorbell_room hq hpos hroom]
    rfl
  case overrun =>
    rw [exec_doorbell_counted hp hf hs hc hl hat hupper hon, hn, addDoorbell_overrun hq hpos hover, ← hc]
    rfl
  case own =>
    rw [exec_gulaneFrame_on hon, takeFrame, hgood, if_neg (by simp), if_neg hptp, if_neg (by simp [htype])]
    rfl
  case ptp =>
    rw [exec_gulaneFrame_on hon, takeFrame, hgood, if_neg (by simp), if_pos hptp]
  case other =>
    rw [exec_gulaneFrame_on hon, takeFrame_counted hother]
    rfl

end Sys2Proof.Machine
end

section
/-! SUPPORT. What records, faults and the ECC of a read leave: memory, the piers, and the contexts' configuration (15 R394-R398; 18
R451-R457). -/

namespace Sys2Proof.Machine
open Sys2Proof

/-- A register of a context below its fault status: the protection areas and CTX_SAVE_BASE among them. -/
def ctxConfig (a : Nat) : Prop := 0x100000 ≤ a ∧ a < 0x200000 ∧ a % 0x4000 < 0x2E00

theorem ctxConfig_lt {a : Nat} (h : ctxConfig a) : a < 0x200000 := h.2.1

/-- The state u has the memory and the piers of s, and its context registers. -/
structure SameMemory (s u : State) : Prop where
  hbm : u.hbm = s.hbm
  pr : u.pr = s.pr
  canonical : SmWf regReset s.regs → SmWf regReset u.regs
  words : SmWf regReset s.regs → ∀ a, ctxConfig a → rd u a = rd s a

namespace SameMemory
variable {s u : State}

theorem refl (s : State) : SameMemory s s := ⟨rfl, rfl, id, fun _ _ _ => rfl⟩

/-- A change of anything but memory, piers and registers. -/
theorem beside {v : State} (h : SameMemory s u) (hh : v.hbm = u.hbm) (hp : v.pr = u.pr) (hr : v.regs = u.regs) : SameMemory s v :=
  ⟨hh.trans h.hbm, hp.trans h.pr, fun hw => hr ▸ h.canonical hw, fun hw a ha =>
    (congrArg (smGet (regReset a) · a) hr).trans (h.words hw a ha)⟩

theorem onMem (h : SameMemory s u) (f : Mem → Mem) : SameMemory s (onMem f u) := h.beside rfl rfl rfl
theorem tookFree (h : SameMemory s u) : SameMemory s (tookFree u) := h.beside rfl rfl rfl

/-- A write of a register that is none of a context's configuration. -/
theorem wr (h : SameMemory s u) {k : Nat} (hk : ¬ ctxConfig k) (w : Word) : SameMemory s (wr k w u) :=
  ⟨h.hbm, h.pr, fun hw => wr_wf _ _ _ (h.canonical hw), fun hw a ha =>
    (rd_wr_other k a w u (h.canonical hw) fun e => hk (e ▸ ha)).trans (h.words hw a ha)⟩

theorem wn (h : SameMemory s u) {k : Nat} (hk : ¬ ctxConfig k) (v : Nat) : SameMemory s (wn k v u) := h.wr hk _
theorem wf (h : SameMemory s u) {k : Nat} (hk : ¬ ctxConfig k) (hi lo v : Nat) : SameMemory s (wf k hi lo v u) := h.wr hk _
theorem bump (h : SameMemory s u) {k : Nat} (hk : ¬ ctxConfig k) (n : Nat) : SameMemory s (bump k n u) := h.wr hk _

/-- Bytes written to an area above the contexts' registers. -/
theorem putCfg (h : SameMemory s u) {k : Nat} (hk : 0x200000 ≤ k) (bs : List Byte) : SameMemory s (putCfg k bs u) :=
  ⟨h.hbm, h.pr, fun hw => putCfg_wf _ _ _ (h.canonical hw), fun hw a ha =>
    (rd_putCfg_out k a bs u (h.canonical hw) (.inl (Nat.lt_of_lt_of_le (ctxConfig_lt ha) hk))).trans (h.words hw a ha)⟩

theorem foldl {α : Type} {f : State → α → State} (l : List α) (h : SameMemory s u)
    (hf : ∀ v x, SameMemory s v → SameMemory s (f v x)) : SameMemory s (l.foldl f u) :=
  List.foldlRecOn l f h fun v hv x _ => hf v x hv

theorem raiseEvent (h : SameMemory s u) (e : EventId) : SameMemory s (raiseEvent e u) := by
  refine ⟨?_, ?_, fun hw => (raiseEvent_kept e (Kept.refl (K := fun _ _ => True) trivial)).regs (h.canonical hw),
    fun hw a ha => (rd_raiseEvent_other e a u (h.canonical hw) (.inl ?_)).trans (h.words hw a ha)⟩
  · rw [raiseEvent_hbm, h.hbm]
  · rw [raiseEvent_pr, h.pr]
  · exact Nat.lt_of_lt_of_le (ctxConfig_lt ha) (by decide)

theorem stopCtx (h : SameMemory s u) (x code : Nat) : SameMemory s (stopCtx x code u) := by
  unfold Machine.stopCtx
  split
  · next hx =>
    have hk : ¬ ctxConfig (A.ctxFltStatus x) := by
      simp only [ctxConfig, A.ctxFltStatus]
      omega
    exact (h.wn hk _).raiseEvent _
  · exact h

theorem faultEffect (h : SameMemory s u) (f : FaultId) : SameMemory s (faultEffect f u) := by
  unfold Machine.faultEffect
  split
  · exact h.stopCtx _ _
  · split
    · exact h
    · exact h.wn (by simp [ctxConfig, A.dkFltStatus]) _
  · exact h

theorem raiseFault (h : SameMemory s u) (f : FaultId) : SameMemory s (raiseFault f u) := by
  have hcount : ¬ ctxConfig (A.dkFltCnt (FaultClass.code f.cls)) := by
    have : FaultClass.code f.cls < 4 := by cases f.cls <;> decide
    simp only [ctxConfig, A.dkFltCnt]
    omega
  have hseq : ¬ ctxConfig A.dkFltSeq := by simp [ctxConfig, A.dkFltSeq]
  have hlog (n : Nat) : 0x200000 ≤ A.fltLog 0 + n := by simp only [A.fltLog]; omega
  have hcounted := h.bump hcount 1
  unfold Machine.raiseFault
  extract_lets counted last merged rep fseq logged numbered told shown
  split
  · exact hcounted.beside rfl rfl rfl
  · have hnumbered : SameMemory s numbered := (hcounted.putCfg (hlog _) _).wn hseq _
    have htold : SameMemory s told := by
      unfold told
      split
      · exact hnumbered.beside rfl rfl rfl
      · exact hnumbered
    have hshown : SameMemory s shown := by
      unfold shown
      split
      · exact htold.beside rfl rfl rfl
      · exact htold
    exact (hshown.raiseEvent _).faultEffect _

/-! The registers of a stack (15 Tables 15.8, 15.9) stand above the contexts'. -/

theorem not_ctxConfig_memEccCnt (st k : Nat) : ¬ ctxConfig (A.memEccCnt st k) := by
  simp only [ctxConfig, A.memEccCnt]
  omega

theorem not_ctxConfig_memEccLast (st k : Nat) : ¬ ctxConfig (A.memEccLast st k) := by
  simp only [ctxConfig, A.memEccLast]
  omega

theorem not_ctxConfig_memChStatus (st c : Nat) : ¬ ctxConfig (A.memChStatus st c) := by
  simp only [ctxConfig, A.memChStatus]
  omega

theorem countUe (h : SameMemory s u) (k a : Nat) (port : Nat) : SameMemory s (countUe k a u port) := by
  unfold Machine.countUe
  dsimp only
  have hcounted := ((h.bump (not_ctxConfig_memEccCnt (servedAt u a).1 k) 1).wn (not_ctxConfig_memEccLast (servedAt u a).1 0)
    ((servedAt u a).2 % 2 ^ 32)).wn (not_ctxConfig_memEccLast (servedAt u a).1 1) ((servedAt u a).2 / 2 ^ 32)
  split
  · exact hcounted.raiseFault _
  · exact hcounted

theorem byFault (h : SameMemory s u) (w : By) (code detail : Nat) : SameMemory s (byFault w code detail u) := h.raiseFault _

theorem byDenied (h : SameMemory s u) (w : By) (a : Nat) : SameMemory s (byDenied w a u) := h.byFault w 0x030A a

theorem byMemUe (h : SameMemory s u) (w : By) (a : Nat) : SameMemory s (byMemUe w a u) := (h.countUe 1 a 0xFF).byFault w 0x0F01 _

/-! What the ECC finds (15 R394, R395, R398). -/

theorem hintOnTree (h : SameMemory s u) (t : Tree) (cseq : Nat) (p : Edge → Bool) (record : List Byte) :
    SameMemory s (hintOnTree t cseq p record u) := by
  unfold Machine.hintOnTree
  refine h.foldl _ fun v e hv => ?_
  unfold ctrlOnEdge
  split
  · exact hv
  · exact hv.beside rfl rfl rfl

theorem slowHints (h : SameMemory s u) (cause : Nat) : SameMemory s (slowHints cause u) := by
  unfold Machine.slowHints
  refine h.foldl _ fun v t hv => ?_
  split
  · exact hv
  · exact hv.tookFree.hintOnTree _ _ _ _

theorem nextRetrain (h : SameMemory s u) (st : Nat) : SameMemory s (nextRetrain st u) := by
  unfold Machine.nextRetrain
  split
  · unfold startRetrain
    dsimp only
    exact (((h.onMem _).wf (not_ctxConfig_memChStatus _ _) _ _ _).wf (not_ctxConfig_memChStatus _ _) _ _ _).slowHints 4
  · exact h

theorem dueRetrain (h : SameMemory s u) (st c : Nat) : SameMemory s (dueRetrain st c u) := by
  unfold Machine.dueRetrain
  dsimp only
  split
  · exact h
  · exact (h.onMem _).nextRetrain _

theorem countChannel (h : SameMemory s u) (st c : Nat) : SameMemory s (countChannel st c u) := by
  unfold Machine.countChannel
  dsimp only
  split
  · exact (h.onMem _).dueRetrain _ _
  · exact h.onMem _

theorem countExtent (h : SameMemory s u) (st sl : Nat) : SameMemory s (countExtent st sl u) := by
  unfold Machine.countExtent
  dsimp only
  split
  · exact ((h.onMem _).onMem _).raiseEvent _
  · exact h.onMem _

theorem corrected (h : SameMemory s u) (k st sl : Nat) (a : Option Nat) : SameMemory s (corrected k st sl a u) := by
  have hcounted := h.bump (not_ctxConfig_memEccCnt st k) 1
  unfold Machine.corrected
  dsimp only
  cases a with
  | none => exact ((hcounted.raiseFault _).countExtent _ _).countChannel _ _
  | some _ => exact ((hcounted.raiseFault _).countExtent _ _).countChannel _ _

theorem meetEcc (h : SameMemory s u) (x : MemSeen) (a n : Nat) : SameMemory s (meetEcc x a n u) := by
  unfold Machine.meetEcc
  dsimp only
  split
  · exact h
  · split
    · exact h.corrected _ _ _ _
    · exact h
  · split
    · unfold markBad
      split
      · exact h
      · exact h.onMem _
    · exact h

end SameMemory

end Sys2Proof.Machine
end

section
/-! SUPPORT. The writes of an engine (11 R289, R305; 03 R74): each byte of memory that a STORE changes lies in a window with W, or
in the saved stores of its pier. -/

namespace Sys2Proof.Machine
open Sys2Proof

/-! ### Windows (03 R73, R74) -/

/-- A word of a context's live protection area is among its configuration. -/
theorem ctxConfig_live {x off : Nat} (hx : x < 64) (ho : off ≤ 0x1000) : ctxConfig (A.ctxLive x 0 + off) := by
  simp only [ctxConfig, A.ctxLive]
  omega

theorem ctxConfig_saveBase {x : Nat} (hx : x < 64) (i : Fin 2) : ctxConfig (A.ctxSaveBase x i) := by
  simp only [ctxConfig, A.ctxSaveBase]
  omega

/-- A window that allows a piece allows each byte of it. -/
theorem winAllows_byte {s : State} {x i a n k : Nat} {p : Perm} (h : winAllows s x i a n p = true) (hlo : a ≤ k)
    (hhi : k < a + n) : winAllows s x i k 1 p = true := by
  simp only [winAllows, Bool.and_eq_true, decide_eq_true_eq] at h ⊢
  obtain ⟨⟨hvalid, hbase⟩, hlim⟩ := h
  exact ⟨⟨hvalid, by omega⟩, by omega⟩

/-- A piece that passes the window check lies in the data range, and a window allows it. -/
theorem winOk_elim {s : State} {x a n : Nat} {p : Perm} (h : winOk s x a n p = true) :
    a + n ≤ hbmDataEnd ∧ ∃ i, i < 256 ∧ i < winCount s x ∧ winAllows s x i a n p = true := by
  simp only [winOk, Bool.and_eq_true, decide_eq_true_eq, List.any_eq_true, List.mem_range] at h
  obtain ⟨⟨⟨-, hend⟩, -⟩, i, hi, hwin⟩ := h
  exact ⟨hend, i, by omega, by omega, hwin⟩

/-- The windows of a context are those of a state with its registers. -/
theorem winAllows_congr {s u : State} {x i : Nat} (h : ∀ a, ctxConfig a → rd u a = rd s a) (hx : x < 64) (hi : i < 256)
    (a n : Nat) (p : Perm) : winAllows u x i a n p = winAllows s x i a n p := by
  have hword {off : Nat} (ho : off ≤ 0x1000) : liveWord u x off = liveWord s x off :=
    congrArg BitVec.toNat (h _ (ctxConfig_live hx ho))
  simp only [winAllows, hword (show 16 * i ≤ 0x1000 by omega), hword (show 16 * i + 4 ≤ 0x1000 by omega),
    hword (show 16 * i + 8 ≤ 0x1000 by omega), hword (show 16 * i + 12 ≤ 0x1000 by omega)]

theorem winCount_congr {s u : State} {x : Nat} (h : ∀ a, ctxConfig a → rd u a = rd s a) (hx : x < 64) :
    winCount u x = winCount s x :=
  congrArg (BitVec.toNat · / 2 ^ 16) (h _ (ctxConfig_live hx (Nat.le_refl _)))

theorem saveArea_congr {s u : State} {x : Nat} (h : ∀ a, ctxConfig a → rd u a = rd s a) (hx : x < 64) (p : Nat) :
    saveArea u x p = saveArea s x p := by
  have hlow : rn u (A.ctxSaveBase x 0) = rn s (A.ctxSaveBase x 0) := congrArg BitVec.toNat (h _ (ctxConfig_saveBase hx 0))
  have hhigh : rn u (A.ctxSaveBase x 0 + 4) = rn s (A.ctxSaveBase x 0 + 4) :=
    congrArg BitVec.toNat (h _ (ctxConfig_saveBase hx 1))
  unfold saveArea rn64
  rw [hlow, hhigh]

/-! ### What the writes of a context on a pier may change -/

/-- A byte that context x may change from pier p: one in a window with W, or in its saved stores of p (03 R73; 11 R318). -/
def MayStore (s : State) (x p a : Nat) : Prop :=
  (∃ i, i < winCount s x ∧ winAllows s x i a 1 .w = true) ∨
    ∃ b, residentOn s x p = false ∧ saveArea s x p = some b ∧ b ≤ a ∧ a < b + 2 ^ 24

/-- The state u differs from s in memory by such bytes alone, and has the piers' residents and the contexts' registers of s. -/
structure StoredFrom (s : State) (x p : Nat) (u : State) : Prop where
  memory : Memory.wf u.hbm
  canonical : SmWf regReset u.regs
  words : ∀ a, ctxConfig a → rd u a = rd s a
  piers : u.pr.piers = s.pr.piers
  bytes : ∀ a, hbmByte u a ≠ hbmByte s a → MayStore s x p a

namespace StoredFrom
variable {s u : State} {x p : Nat}

theorem refl (h : Canonical s) : StoredFrom s x p s := ⟨h.hbm, h.regs, fun _ _ => rfl, rfl, fun _ hne => absurd rfl hne⟩

/-- What leaves memory, piers and context registers keeps it. -/
theorem same {v : State} (h : StoredFrom s x p u) (hv : SameMemory u v) : StoredFrom s x p v where
  memory := hv.hbm ▸ h.memory
  canonical := hv.canonical h.canonical
  words a ha := (hv.words h.canonical a ha).trans (h.words a ha)
  piers := (congrArg Piers.piers hv.pr).trans h.piers
  bytes a hne := h.bytes a fun e => hne ((congrArg (smGet (hbmUnlisted a) · a) hv.hbm).trans e)

theorem resident (h : StoredFrom s x p u) : residentOn u x p = residentOn s x p := by
  simp only [residentOn, getPier, h.piers]

/-- A write of bytes that may be changed. -/
theorem hbmWr (h : StoredFrom s x p u) {a : Nat} {bs : List Byte}
    (hmay : ∀ k, a ≤ k → k < a + bs.length → MayStore s x p k) :
    StoredFrom s x p (hbmWr a bs u) where
  memory := hbmWr_wf a bs u h.memory
  canonical := h.canonical
  words := h.words
  piers := h.piers
  bytes k hne := by
    rw [hbmByte_hbmWr a bs u h.memory] at hne
    split at hne
    · next hin =>
      obtain ⟨hlo, hhi, -⟩ := hin
      exact hmay k hlo hhi
    · exact h.bytes k hne

/-- A write at a local address, in the pier's stores or the saved ones. -/
theorem ctxLocWr (h : StoredFrom s x p u) (hx : x < 64) {a : Nat} {bs : List Byte} (hfit : a + bs.length ≤ 2 ^ 24) :
    StoredFrom s x p (ctxLocWr x p a bs u) := by
  unfold Machine.ctxLocWr
  rw [h.resident, saveArea_congr h.words hx]
  cases hr : residentOn s x p with
  | true => exact ⟨h.memory, h.canonical, h.words, h.piers, h.bytes⟩
  | false =>
    cases hb : saveArea s x p with
    | none => exact h
    | some b => exact h.hbmWr fun k hlo hhi => .inr ⟨b, hr, hb, by omega, by omega⟩

variable {w : By} (hctx : w.ctx < 64) (hpier : w.pier = p)
include hctx

/-- The pieces of a write that pass the window check. -/
theorem writePieces : ∀ (qs : List (Nat × Nat)) (bs : List Byte) {u : State}, StoredFrom s w.ctx p u →
    StoredFrom s w.ctx p (writePieces w qs bs u).2
  | [], _, _, h => h
  | q :: qs, bs, u, h => by
    unfold Machine.writePieces
    split
    · exact h.same ((SameMemory.refl u).byDenied w q.1)
    · next hok =>
      obtain ⟨-, i, hi, hcount, hwin⟩ := winOk_elim (by simpa using hok)
      rw [winCount_congr h.words hctx] at hcount
      rw [winAllows_congr h.words hctx hi] at hwin
      refine writePieces qs _ (h.hbmWr fun k hlo hhi => .inl ⟨i, hcount, winAllows_byte hwin hlo ?_⟩)
      rw [List.length_take] at hhi
      omega

include hpier

/-- A write at a u64 address, which fits its store where it is local. -/
theorem store (h : StoredFrom s w.ctx p u) {a : Nat} {bs : List Byte}
    (hfit : isLocal a = true → a % 2 ^ 24 + bs.length ≤ 2 ^ 24) :
    StoredFrom s w.ctx p (store w a bs u).2 := by
  unfold Machine.store
  split
  · next hl =>
    rw [hpier]
    exact h.ctxLocWr hctx (hfit hl)
  · exact writePieces hctx _ bs h

end StoredFrom

/-! ### The rows of a command (11 R305) -/

/-- Reads leave memory. -/
theorem readPieces_sameMemory (w : By) (perm : Perm) : ∀ (qs : List (Nat × Nat)) (u : State),
    SameMemory u (readPieces w perm qs u).2
  | [], u => SameMemory.refl u
  | q :: qs, u => by
    unfold readPieces
    split
    · exact (SameMemory.refl u).byDenied w q.1
    · split
      · exact (SameMemory.refl u).byMemUe w _
      · exact readPieces_sameMemory w perm qs u

theorem fetch_sameMemory (w : By) (perm : Perm) (a n : Nat) (u : State) : SameMemory u (fetch w perm a n u).2 := by
  unfold fetch
  split
  · exact SameMemory.refl u
  · exact readPieces_sameMemory w perm _ u

/-- What a read brings is as long as it was asked for. -/
theorem fetch_length {w : By} {perm : Perm} {a n : Nat} {u v : State} {bs : List Byte} (h : fetch w perm a n u = (some bs, v)) :
    bs.length = n := by
  unfold fetch at h
  split at h
  · obtain rfl : ctxLocRd u w.ctx w.pier (a % 2 ^ 24) n = bs := by simpa using congrArg Prod.fst h
    unfold ctxLocRd locRd hbmRd
    split
    · exact smGetAll_length _ _ _ _ _
    · split
      · exact smGetAll_length _ _ _ _ _
      · exact List.length_replicate
  · dsimp only at h
    split at h
    · obtain rfl : hbmRd u a n = bs := by simpa using congrArg Prod.fst h
      exact hbmRd_length _ _ _
    · simp at h

/-- Where a write of n bytes goes: it fits the local store where its address is local. -/
def FitsStore (n d : Nat) : Prop := isLocal d = true → d % 2 ^ 24 + n ≤ 2 ^ 24

section Copies
variable {s : State} {p n : Nat} {w : By} (hctx : w.ctx < 64) (hpier : w.pier = p)
include hctx hpier

/-- One row: what it leaves, and, where it could be written, how. -/
theorem copyRow_storedFrom {u : State} (h : StoredFrom s w.ctx p u) {a d : Nat} (hfit : FitsStore n d) {bs : List Byte} {v : State}
    (hf : fetch w .rd a n u = (some bs, v)) : StoredFrom s w.ctx p (store w d bs v).2 := by
  have hv := h.same (fetch_sameMemory w .rd a n u)
  rw [hf] at hv
  exact hv.store hctx hpier (by rw [fetch_length hf]; exact hfit)

theorem copyRows_storedFrom : ∀ (ps : List (Nat × Nat)) {u : State}, StoredFrom s w.ctx p u →
    (∀ y ∈ ps, FitsStore n y.2) →
    StoredFrom s w.ctx p (copyRows w n ps u).2
  | [], _, h, _ => h
  | (a, d) :: ps, u, h, hfit => by
    unfold copyRows
    split
    · next v hf =>
      have hv := h.same (fetch_sameMemory w .rd a n u)
      rw [hf] at hv
      exact hv
    · next bs v hf =>
      have hrow := copyRow_storedFrom hctx hpier h (hfit _ (List.mem_cons_self ..)) hf
      dsimp only
      split
      · exact copyRows_storedFrom ps hrow fun y hy => hfit y (List.mem_cons_of_mem _ hy)
      · exact hrow

/-- Free contents of rows that fit. -/
theorem freeDest_storedFrom (ds : List Nat) {u : State} (h : StoredFrom s w.ctx p u) (hfit : ∀ d ∈ ds, FitsStore n d) :
    StoredFrom s w.ctx p (freeDest w n ds u) := by
  unfold freeDest
  induction ds generalizing u with
  | nil => exact h
  | cons d ds ih =>
    refine ih ?_ fun y hy => hfit y (List.mem_cons_of_mem _ hy)
    have hrow := h.store hctx hpier (a := d) (bs := leBytes n (freeBits (8 * n) u))
      (by rw [leBytes_length]; exact hfit d (List.mem_cons_self ..))
    exact hrow.same (SameMemory.refl _).tookFree

end Copies

end Sys2Proof.Machine
end

section
/-! SUPPORT. A STORE (11 R305), from its fields to the bytes that it changes. -/

namespace Sys2Proof.Machine
open Sys2Proof

/-! ### The fields of a command that is not malformed (11 R289, R300) -/

theorem insertBy_ne_nil {α : Type} (le : α → α → Bool) (x : α) (l : List α) : insertBy le x l ≠ [] := by
  cases l with
  | nil => simp [insertBy]
  | cons y r =>
    unfold insertBy
    split <;> simp

/-- A command without a first faulty field has none. -/
theorem firstFault_none {l : List Nat} (h : firstFault l = none) : l = [] := by
  cases l with
  | nil => rfl
  | cons x r => exact absurd (List.head?_eq_none_iff.mp h) (insertBy_ne_nil _ _ _)

theorem breaks_nil {c : Bool} {o : Nat} (h : breaks c o = []) : c = false := by
  cases c with
  | false => rfl
  | true => cases h

/-- A range in one local store ends below 2^22. -/
theorem localOk_le {e a n : Nat} (h : localOk e a n = true) : a + n ≤ 0x400000 := by
  unfold localOk storeOf at h
  split at h
  · next b l hs =>
    simp only [Bool.and_eq_true, decide_eq_true_eq] at h
    obtain ⟨hend, -⟩ := h
    split at hs
    · obtain ⟨rfl, rfl⟩ := by simpa using hs
      omega
    · split at hs
      · obtain ⟨rfl, rfl⟩ := by simpa using hs
        omega
      · cases hs
  · cases h

theorem isLocal_iff {a : Nat} (h : a < 2 ^ 64) : isLocal a = true ↔ 2 ^ 63 ≤ a := by
  unfold isLocal bit
  rw [beq_iff_eq]
  omega

/-- A u64 address field without faults, where it is local: its range lies in the low 2^22 bytes. -/
theorem addrField_local {e o n rel : Nat} {b : List Byte} (h : addrField e b o n rel = []) (hl : isLocal (le b o 8) = true) :
    le b o 8 % 2 ^ 63 < 2 ^ 24 ∧ le b o 8 % 2 ^ 24 + n ≤ 0x400000 := by
  unfold addrField at h
  obtain ⟨hplace, hrange⟩ := List.append_eq_nil_iff.mp h
  have hplace := breaks_nil hplace
  have hrange := breaks_nil hrange
  have hok : addrOk e (le b o 8) = true := by simpa using hplace
  refine ⟨?_, localOk_le (e := e) ?_⟩
  · unfold addrOk at hok
    rw [hl] at hok
    simp only [Bool.not_true, Bool.false_or, Bool.and_eq_true, decide_eq_true_eq] at hok
    exact hok.1
  · simpa [hok, hl] using hrange

theorem le_lt (b : List Byte) (o n : Nat) : le b o n < 256 ^ n := by
  have h := ofLe_lt (slice b o n)
  rwa [slice_length] at h

/-- What a STORE without faulty fields says of its rows: they come from a local store, and where they go to one, the whole of them
fits it. -/
structure StoreFields (b : List Byte) : Prop where
  src : isLocal (dmSrc b) = true
  dst : isLocal (dmDst b) = true → dmDst b % 2 ^ 63 < 2 ^ 24 ∧ dmDst b % 2 ^ 24 + dmSpan b (dmDstride b) ≤ 0x400000

theorem storeFields_of_faults {b : List Byte} (h : storeFaults b = []) : StoreFields b := by
  unfold storeFaults moveFaults at h
  simp only [List.append_eq_nil_iff] at h
  obtain ⟨⟨⟨⟨⟨-, -⟩, hdst⟩, -⟩, hsrc⟩, -⟩ := h
  exact ⟨by simpa using breaks_nil hsrc, addrField_local hdst⟩

/-! ### The rows that go to memory -/

/-- The destinations of rows, one stride after another from d on. -/
def Progress (stride : Nat) : Nat → List (Nat × Nat) → Prop
  | _, [] => True
  | d, y :: ys => y.2 = d ∧ Progress stride (d + stride) ys

/-- The rows of a command. -/
theorem rowPairs_progress (b : List Byte) : ∀ (l : List Nat) (k : Nat),
    Progress (dmDstride b) (dmDst b + k * dmDstride b) ((l.zipIdx k).map fun y => rowPair b y.1 y.2)
  | [], _ => trivial
  | _ :: l, k => by
    refine ⟨rfl, ?_⟩
    rw [Nat.add_assoc, ← Nat.succ_mul]
    exact rowPairs_progress b l (k + 1)

/-- A write to memory that is done begins in the data range. -/
theorem store_done_le {w : By} {d : Nat} {bs : List Byte} {u : State} (hl : isLocal d = false) (hn : 0 < bs.length)
    (h : (store w d bs u).1 = true) : d ≤ hbmDataEnd := by
  obtain ⟨m, hm⟩ := Nat.exists_eq_add_of_lt hn
  rw [Nat.zero_add] at hm
  unfold store piecesOf at h
  rw [hl, if_neg Bool.false_ne_true, hm, pieces, writePieces] at h
  split at h
  · cases h
  · next hok =>
    obtain ⟨hend, -⟩ := winOk_elim (by simpa using hok)
    omega

section Rows
variable {s : State} {p n : Nat} {w : By} (hctx : w.ctx < 64) (hpier : w.pier = p)
include hctx hpier

/-- Rows that begin in memory stay there: a row past the data range is denied, which ends the command, before an address could
become local. -/
theorem copyRows_progress {stride : Nat} (hs : stride < 2 ^ 32) (hn : 0 < n) : ∀ (ps : List (Nat × Nat)) {d : Nat} {u : State},
    Progress stride d ps → d < 2 ^ 63 → StoredFrom s w.ctx p u → StoredFrom s w.ctx p (copyRows w n ps u).2
  | [], _, _, _, _, h => h
  | (a, d) :: ps, e, u, hp, hlow, h => by
    obtain ⟨rfl, hrest⟩ := hp
    have hmem : isLocal d = false := by
      rw [Bool.eq_false_iff, Ne, isLocal_iff (by omega)]
      omega
    unfold copyRows
    split
    · next v hf =>
      have hv := h.same (fetch_sameMemory w .rd a n u)
      rw [hf] at hv
      exact hv
    · next bs v hf =>
      have hrow := copyRow_storedFrom hctx hpier h (d := d) (fun hl => absurd hl (by simp [hmem])) hf
      dsimp only
      split
      · next hdone =>
        have hend := store_done_le hmem (by rw [fetch_length hf]; exact hn) hdone
        exact copyRows_progress hs hn ps hrest (by simp only [hbmDataEnd] at hend; omega) hrow
      · exact hrow

end Rows

/-- Rows that go to a local store fit it. -/
theorem rows_fit {b : List Byte} (hb : StoreFields b) (hl : isLocal (dmDst b) = true) {j : Nat} (hj : j < dmRows b) :
    FitsStore (dmRbytes b) (dmDst b + j * dmDstride b) := by
  intro _
  obtain ⟨hlow, hrange⟩ := hb.dst hl
  have hhigh := (isLocal_iff (le_lt b 0x18 8)).mp hl
  have hsize := le_lt b 0x18 8
  by_cases hn : dmRbytes b = 0
  · omega
  · have hspan : dmSpan b (dmDstride b) = (dmRows b - 1) * dmDstride b + dmRbytes b := by
      rw [dmSpan, if_neg (by omega), spanBytes]
    have hrow : j * dmDstride b ≤ (dmRows b - 1) * dmDstride b := Nat.mul_le_mul_right _ (by omega)
    generalize j * dmDstride b = off at hrow ⊢
    generalize (dmRows b - 1) * dmDstride b = last at hrow hspan
    change 2 ^ 63 ≤ dmDst b at hhigh
    change dmDst b < 256 ^ 8 at hsize
    omega

section Commands
variable {s : State} {p : Nat} {w : By} (hctx : w.ctx < 64) (hpier : w.pier = p)
include hctx hpier

/-- The rows of a STORE, and what overlapping ones leave, change only what the context may change. -/
theorem copyListed_storedFrom {b : List Byte} (hb : StoreFields b) {u : State} (h : StoredFrom s w.ctx p u) :
    StoredFrom s w.ctx p (copyListed w b (List.range (dmRows b)) u).2 := by
  have hprogress := rowPairs_progress b (List.range (dmRows b)) 0
  rw [Nat.zero_mul, Nat.add_zero] at hprogress
  unfold copyListed
  dsimp only
  by_cases hl : isLocal (dmDst b) = true
  · have hfit : ∀ y ∈ (List.range (dmRows b)).zipIdx.map fun y => rowPair b y.1 y.2, FitsStore (dmRbytes b) y.2 := by
      intro y hy
      obtain ⟨z, hz, rfl⟩ := List.mem_map.mp hy
      have hlt := List.snd_lt_of_mem_zipIdx hz
      rw [List.length_range] at hlt
      exact rows_fit hb hl hlt
    generalize (List.range (dmRows b)).zipIdx.map (fun y => rowPair b y.1 y.2) = ps at hfit ⊢
    have hcopied := copyRows_storedFrom hctx hpier ps h hfit
    split
    · refine freeDest_storedFrom hctx hpier _ hcopied fun d hd => ?_
      obtain ⟨y, hy, rfl⟩ := List.mem_map.mp hd
      exact hfit y hy
    · exact hcopied
  · have hover : overlaps b = false := by
      simp [overlaps, hb.src, hl]
    rw [hover, Bool.and_false, if_neg Bool.false_ne_true]
    by_cases hn : dmRbytes b = 0
    · rw [hn]
      exact copyRows_storedFrom hctx hpier _ h fun y _ _ => (Nat.mod_lt _ (by decide)).le
    · have hsize : dmDst b < 2 ^ 64 := le_lt b 0x18 8
      have hlow := mt (isLocal_iff hsize).mpr hl
      exact copyRows_progress hctx hpier (le_lt b 0x2C 4) (Nat.pos_of_ne_zero hn) _ hprogress (by omega) h

end Commands

/-- What the ECC and the stores' checks find leaves memory. -/
theorem meetReads_sameMemory (w : By) (b : List Byte) (x : MemSeen) (sram : Option (BitVec 24)) (u : State) :
    SameMemory u (meetReads w b x sram u).2 := by
  have hmet : SameMemory u (if isLocal (dmSrc b) then u else meetEcc x (dmSrc b) (dmSpan b (dmSstride b)) u) := by
    split
    · exact SameMemory.refl u
    · exact (SameMemory.refl u).meetEcc x _ _
  unfold meetReads
  dsimp only
  split
  · exact hmet.byFault w _ _
  · exact hmet

/-- A STORE ends, and what it did before its end changed only what its context may change. -/
theorem exec_store_storedFrom {s t : State} {p : PierNo} {r : RunCmd} {x : MemSeen} {sram : Option (BitVec 24)} (hs : Canonical s)
    (hctx : r.ctx < 64) (hr : runningOp s p eDmo 0x21 = some r) (h : exec (.store p x sram) s = .next t) :
    ∃ u status detail, StoredFrom s r.ctx p.val u ∧ t = finish p.val eDmo status detail u := by
  have hbegin : StoredFrom s r.ctx p.val s := StoredFrom.refl hs
  obtain rfl := Host.Outcome.next.inj h
  unfold transfer
  rw [hr]
  dsimp only
  rw [if_neg (by simp), runOp, hr]
  dsimp only
  split
  · exact ⟨_, _, _, hbegin.same ((SameMemory.refl s).byFault _ _ _), rfl⟩
  · next hgood =>
    obtain ⟨-, hfields⟩ := List.append_eq_nil_iff.mp (firstFault_none hgood)
    have hmet := hbegin.same (meetReads_sameMemory (r.by_ p.val eDmo) r.bytes x sram s)
    split
    · exact ⟨_, _, _, hmet, rfl⟩
    · exact ⟨_, _, _, copyListed_storedFrom (w := r.by_ p.val eDmo) hctx rfl (storeFields_of_faults hfields) hmet, rfl⟩

/-- Settles O32: a STORE writes by rows, whose pieces its context's windows allow, or whose local addresses stand in its saved
stores; faults, ECC and the command's end leave memory. -/
theorem storeStaysInWindows : Obligations.StoreStaysInWindows := by
  unfold Obligations.StoreStaysInWindows
  intro s t p r x sram hs hctx hr hexec a hne
  obtain ⟨u, status, detail, hstored, rfl⟩ := exec_store_storedFrom hs hctx hr hexec
  exact hstored.bytes a hne

end Sys2Proof.Machine
end

section
/-! SUPPORT. Packets that arrive, and credit (04 R99; 05 R106, R113, R114; 06 R141): what each arrival comes to, by the port's state
and the packet, and what a CREDIT packet changes, channel by channel. -/

namespace Sys2Proof.Machine
open Sys2Proof

/-! ### Packets that arrive -/

section Arrivals
variable {s : State} {k : Fin 608} {bytes b : List Byte} {sram : Bool}

/-- A span port or an RSE takes what the module's own sources have ready. -/
theorem exec_packetArrive_own (h : 512 ≤ k.val) (unc : List LaneNo) :
    exec (.packetArrive k bytes unc sram) s = .next (arriveOwn k sram s) := by
  show execPacketArrive k bytes unc sram s = _
  exact if_pos h

/-- On an external port that is not UP nothing arrives. -/
theorem exec_packetArrive_down (h : k.val < 512) (hdown : portUp s k = false) (unc : List LaneNo) :
    exec (.packetArrive k bytes unc sram) s = .next s := by
  show execPacketArrive k bytes unc sram s = _
  simp [execPacketArrive, Nat.not_le.mpr h, hdown]

/-- A packet with an uncorrectable codeword of one lane: the codeword is counted, and the packet dropped whole (04 R99). -/
theorem exec_packetArrive_uncorrectable (h : k.val < 512) (hup : portUp s k = true) (l : LaneNo) :
    exec (.packetArrive k bytes [l] sram) s = .next (
      let u := wn (A.pgFecUnc (k / 8) l) (min 0xFFFFFFFF (rn s (A.pgFecUnc (k / 8) l) + 1)) s
      match unframe u k bytes with
      | some b => if pkVer b = 0xF then u else freeArrived k b u
      | none => u) := by
  show execPacketArrive k bytes [l] sram s = _
  simp only [execPacketArrive, if_neg (Nat.not_le.mpr h), hup, Bool.not_true, Bool.false_eq_true, if_false, List.foldl_cons,
    List.foldl_nil, bump, satAdd]
  generalize wn (A.pgFecUnc (k / 8) l) (min 0xFFFFFFFF (rn s (A.pgFecUnc (k / 8) l) + 1)) s = u
  cases unframe u k bytes <;> rfl

/-- What is not a frame of the port's mode is counted in PG_RX_DISCARD. -/
theorem exec_packetArrive_discarded (h : k.val < 512) (hup : portUp s k = true) (hnone : unframe s k bytes = none) :
    exec (.packetArrive k bytes [] sram) s =
      .next (wn (A.pgRxDiscard (k / 8)) (min 0xFFFFFFFF (rn s (A.pgRxDiscard (k / 8)) + 1)) s) := by
  show execPacketArrive k bytes [] sram s = _
  simp [execPacketArrive, Nat.not_le.mpr h, hup, hnone, bump, satAdd]

/-- A whole packet: a link packet gives its counts, and any other runs through the arrival checks. -/
theorem exec_packetArrive_whole (h : k.val < 512) (hup : portUp s k = true) (hsome : unframe s k bytes = some b) :
    exec (.packetArrive k bytes [] sram) s =
      .next (if pkVer b = 0xF then takeCredit k b s else arriveExternal k b sram s) := by
  show execPacketArrive k bytes [] sram s = _
  simp only [execPacketArrive, if_neg (Nat.not_le.mpr h), hup, hsome, List.foldl_nil, ne_eq, not_true_eq_false, Bool.not_true,
    Bool.false_eq_true, if_false]
  split <;> rfl

end Arrivals

/-! ### Credit (05 R113, R114, R128) -/

/-- What one channel's count of a CREDIT packet does: it sets what the peer has freed, and restarts the wait of the packets of a
channel that it moves. -/
def creditChannel (k : Nat) (b : List Byte) (s : State) (c : Nat) : State :=
  let v := be b (4 + 2 * c) 2
  if smGet 0 s.fab.peer (9 * k + c) = v then s
  else onFab (fun f => { f with
    peer := smPut 0 f.peer (9 * k + c) v
    held := f.held.map fun h => if heldOn k h && pkChan h.bytes == c then { h with waited := ftNs s } else h }) s

/-- A whole CREDIT packet on an UP port is taken channel by channel. -/
theorem takeCredit_whole {s : State} {k : Nat} {b : List Byte} (hok : linkOk b = true) (hcredit : be b 1 1 = 1)
    (hup : portUp s k = true) : takeCredit k b s = (List.range 9).foldl (creditChannel k b) s :=
  if_pos ⟨hok, hcredit, hup⟩

/-- Only the peer's counts differ, and since when the held packets wait. -/
structure CreditOnly (s t : State) : Prop where
  frame : t = { s with fab := { s.fab with peer := t.fab.peer, held := t.fab.held } }
  held : t.fab.held.map (fun h => { h with waited := 0 }) = s.fab.held.map (fun h => { h with waited := 0 })
  rising : (s.fab.peer.Pairwise fun x y => x.1 < y.1) → t.fab.peer.Pairwise fun x y => x.1 < y.1

theorem CreditOnly.refl (s : State) : CreditOnly s s := ⟨rfl, rfl, id⟩

theorem CreditOnly.trans {s t u : State} (h : CreditOnly s t) (g : CreditOnly t u) : CreditOnly s u where
  frame := by
    rw [g.frame, h.frame]
  held := g.held.trans h.held
  rising hs := g.rising (h.rising hs)

theorem creditChannel_only (k : Nat) (b : List Byte) (s : State) (c : Nat) : CreditOnly s (creditChannel k b s c) := by
  unfold creditChannel
  dsimp only
  split
  · exact .refl s
  · refine ⟨rfl, ?_, smPut_pairwise _ _ _ _⟩
    simp only [onFab_fab, List.map_map]
    refine List.map_congr_left fun h _ => ?_
    simp only [Function.comp_apply]
    split <;> rfl

theorem creditChannels_only (k : Nat) (b : List Byte) (l : List Nat) (s : State) :
    CreditOnly s (l.foldl (creditChannel k b) s) :=
  List.foldlRecOn l (creditChannel k b) (CreditOnly.refl s) fun u hu c _ => hu.trans (creditChannel_only k b u c)

/-- The peer's count of the channel is the packet's, and every other count as before. -/
theorem smGet_creditChannel (k : Nat) (b : List Byte) {s : State} (hs : s.fab.peer.Pairwise fun x y => x.1 < y.1) (c j : Nat) :
    smGet 0 (creditChannel k b s c).fab.peer j = if j = 9 * k + c then be b (4 + 2 * c) 2 else smGet 0 s.fab.peer j := by
  unfold creditChannel
  dsimp only
  split
  · next heq =>
    split
    · next hj => rw [hj, heq]
    · rfl
  · split
    · next hj =>
      subst hj
      exact smGet_put_same _ _ _ _ hs
    · next hj => exact smGet_put_other _ _ _ _ _ _ hj hs

/-- The counts of the channels that a list names are the packet's, and every other count is as before. -/
theorem smGet_creditChannels (k : Nat) (b : List Byte) (l : List Nat) (j : Nat) {s : State}
    (hs : s.fab.peer.Pairwise fun x y => x.1 < y.1) : smGet 0 (l.foldl (creditChannel k b) s).fab.peer j =
      if 9 * k ≤ j ∧ j - 9 * k ∈ l then be b (4 + 2 * (j - 9 * k)) 2 else smGet 0 s.fab.peer j := by
  induction l generalizing s with
  | nil => simp
  | cons c l ih =>
    rw [List.foldl_cons, ih ((creditChannel_only k b s c).rising hs), smGet_creditChannel k b hs]
    by_cases hl : 9 * k ≤ j ∧ j - 9 * k ∈ l
    · rw [if_pos hl, if_pos ⟨hl.1, List.mem_cons_of_mem _ hl.2⟩]
    · rw [if_neg hl]
      by_cases hj : j = 9 * k + c
      · simp [hj]
      · rw [if_neg hj, if_neg]
        rintro ⟨hle, hmem⟩
        rcases List.mem_cons.mp hmem with h | h
        · omega
        · exact hl ⟨hle, h⟩

section CreditRows
variable {s : State} {k : SlotNo} {bytes b : List Byte}

theorem exec_credit_whole (hsome : unframe s k bytes = some b) : exec (.credit k bytes) s = .next (takeCredit k b s) := by
  show execCredit k bytes s = _
  simp [execCredit, hsome]

theorem exec_credit_discarded (hup : portUp s k = true) (hnone : unframe s k bytes = none) : exec (.credit k bytes) s =
    .next (wn (A.pgRxDiscard (k / 8)) (min 0xFFFFFFFF (rn s (A.pgRxDiscard (k / 8)) + 1)) s) := by
  show execCredit k bytes s = _
  simp [execCredit, hup, hnone, bump, satAdd]

theorem exec_linkPacketSend_up (hup : portUp s k = true) : exec (.linkPacketSend k) s =
    .next (sendLane k (mkLink ([0xF0, 0x01, 0, 0] ++
      (List.range 9).flatMap fun c => beBytes 2 (smGet 0 s.fab.freed (9 * k + c)))) s) := by
  show execLinkPacketSend k s = _
  exact if_pos hup

end CreditRows

/-- Settles O26: each arrival by the state of its port and what it carries; a CREDIT packet, channel by channel; the module's own
counts. -/
theorem arrivalsAndCredit : Obligations.ArrivalsAndCredit := by
  unfold Obligations.ArrivalsAndCredit
  refine ⟨fun s k bytes sram => ⟨?_, ?_, ?_, ?_, ?_, ?_⟩, fun s k bytes b hup => ⟨?_, ?_, ?_⟩⟩
  · exact fun l h hup => exec_packetArrive_uncorrectable h hup l
  · exact fun h hup hnone => exec_packetArrive_discarded h hup hnone
  · intro b h hup hsome hver
    rw [exec_packetArrive_whole h hup hsome, if_neg hver]
  · intro b h hup hsome hver
    rw [exec_packetArrive_whole h hup hsome, if_pos hver]
  · exact fun h l => exec_packetArrive_own h l
  · exact fun l h hdown => exec_packetArrive_down h hdown l
  · intro hsome hok hcredit hs
    have honly := creditChannels_only k b (List.range 9) s
    refine ⟨_, exec_credit_whole hsome, ?_⟩
    rw [takeCredit_whole hok hcredit hup]
    refine ⟨honly.frame, fun c hc => ?_, fun j hj => ?_, honly.held⟩
    · rw [smGet_creditChannels k.val b _ _ hs, if_pos (by simp [hc]), Nat.add_sub_cancel_left]
    · rw [smGet_creditChannels k.val b _ _ hs, if_neg (by simp; omega)]
  · exact exec_credit_discarded hup
  · exact exec_linkPacketSend_up hup

end Sys2Proof.Machine
end

section
/-! SUPPORT. Changes of the fabric's registers and state alone: what they leave, and the register words of a lane, a port and the
event log (03 R65; 04 R94-R99). -/

namespace Sys2Proof.Machine
open Sys2Proof

/-! ### Bits and words of a register -/

theorem rbit_wf_same (a : Nat) {k : Nat} (v : Nat) {s : State} (hs : SmWf regReset s.regs) (hk : k < 32) :
    rbit (wf a k k v s) a k = (v % 2 == 1) := by
  rw [rbit, rf_wf_same _ _ _ _ _ hs (Nat.le_refl k) hk, Nat.add_sub_cancel_left, pow_one]

theorem rbit_congr {s t : State} {a : Nat} (h : rd t a = rd s a) (k : Nat) : rbit t a k = rbit s a k := by
  rw [rbit, rf_congr h, rbit]

theorem rbit_wf_below (a : Nat) {hi lo k : Nat} (v : Nat) {s : State} (hs : SmWf regReset s.regs) (h : lo ≤ hi) (h2 : hi < 32)
    (hk : k < lo) : rbit (wf a hi lo v s) a k = rbit s a k := by
  rw [rbit, rf_wf_below _ _ hs h h2 (Nat.le_refl k) hk, rbit]

theorem rbit_wf_above (a : Nat) {hi lo k : Nat} (v : Nat) {s : State} (hs : SmWf regReset s.regs) (h : lo ≤ hi) (h2 : hi < 32)
    (hk : hi < k) : rbit (wf a hi lo v s) a k = rbit s a k := by
  rw [rbit, rf_wf_above _ _ hs h h2 hk, rbit]

theorem rn_wn_same (a : Nat) {v : Nat} {s : State} (hs : SmWf regReset s.regs) (hv : v < 2 ^ 32) : rn (wn a v s) a = v := by
  rw [rn, wn, rd_wr_same _ _ _ hs, BitVec.toNat_ofNat, Nat.mod_eq_of_lt hv]

/-- A word of the event log, or its sequence number. -/
def eventWord (a : Nat) : Prop := A.evtLog 0 ≤ a ∧ a ≤ A.gulEvtSeq

theorem rd_raiseEvent_beside (e : EventId) {a : Nat} {s : State} (hs : SmWf regReset s.regs) (ha : ¬ eventWord a) :
    rd (raiseEvent e s) a = rd s a :=
  rd_raiseEvent_other e a s hs (by unfold eventWord at ha; omega)

theorem raiseEvent_canonical (e : EventId) {s : State} (hs : SmWf regReset s.regs) : SmWf regReset (raiseEvent e s).regs :=
  (raiseEvent_kept e (Kept.refl (K := fun _ _ => True) trivial)).regs hs

/-! ### Changes of the fabric alone -/

/-- The state t is s but for the registers of a set, what the module sends, and the fabric's state. -/
structure FabricOnly (R : Nat → Prop) (s t : State) : Prop where
  frame : t = { s with regs := t.regs, out := t.out, fab := t.fab }
  canonical : SmWf regReset t.regs
  words : ∀ a, ¬ R a → rd t a = rd s a

namespace FabricOnly
variable {R Q : Nat → Prop} {s t u : State}

theorem refl (hs : SmWf regReset s.regs) : FabricOnly R s s := ⟨rfl, hs, fun _ _ => rfl⟩

theorem trans (h : FabricOnly R s t) (g : FabricOnly R t u) : FabricOnly R s u where
  frame := by
    rw [g.frame, h.frame]
  canonical := g.canonical
  words a ha := (g.words a ha).trans (h.words a ha)

theorem mono (h : FabricOnly R s t) (hR : ∀ a, R a → Q a) : FabricOnly Q s t :=
  ⟨h.frame, h.canonical, fun a ha => h.words a fun hr => ha (hR a hr)⟩

theorem wr (h : FabricOnly R s t) {a : Nat} (ha : R a) (w : Word) : FabricOnly R s (wr a w t) where
  frame := by
    rw [h.frame]
    rfl
  canonical := wr_wf _ _ _ h.canonical
  words b hb := (rd_wr_other a b w t h.canonical fun e => hb (e ▸ ha)).trans (h.words b hb)

theorem wf (h : FabricOnly R s t) {a : Nat} (ha : R a) (hi lo v : Nat) : FabricOnly R s (wf a hi lo v t) := h.wr ha _
theorem wn (h : FabricOnly R s t) {a : Nat} (ha : R a) (v : Nat) : FabricOnly R s (wn a v t) := h.wr ha _

theorem onFab (h : FabricOnly R s t) (f : Fab → Fab) : FabricOnly R s (onFab f t) where
  frame := by
    rw [h.frame]
    rfl
  canonical := h.canonical
  words := h.words

theorem raiseEvent (h : FabricOnly R s t) (hR : ∀ a, eventWord a → R a) (e : EventId) : FabricOnly R s (raiseEvent e t) where
  frame := by
    rw [raiseEvent_frame, h.frame]
  canonical := raiseEvent_canonical e h.canonical
  words a ha := (rd_raiseEvent_beside e h.canonical fun he => ha (hR a he)).trans (h.words a ha)

theorem foldl {α : Type} {f : State → α → State} (l : List α) (h : FabricOnly R s t)
    (hf : ∀ v x, x ∈ l → SmWf regReset v.regs → FabricOnly R v (f v x)) : FabricOnly R s (l.foldl f t) :=
  List.foldlRecOn l f h fun v hv x hx => hv.trans (hf v x hx hv.canonical)

end FabricOnly

end Sys2Proof.Machine
end

section
/-! SUPPORT. Lanes (04 R94-R99): what a lane's phase and words read after a change, a port that comes up or goes down, and what a
lane that loses alignment changes. -/

namespace Sys2Proof.Machine
open Sys2Proof

/-! ### A lane's phase -/

theorem phaseOf_setPhase (g l ph : Nat) {s : State} (h : s.fab.phase.Pairwise fun x y => x.1 < y.1) :
    phaseOf (setPhase g l ph s) g l = ph :=
  smGet_put_same _ _ _ _ h

/-- A lane starts again: it stands in DETECT, and its word is TRAINS, risen, alone. -/
theorem startLane_eq (g l : Nat) (s : State) : startLane g l s =
    setPhase g l phDetect (wn (A.pgLaneStatus g l) (2 ^ 16 * min 0xFFFF (rf s (A.pgLaneStatus g l) 31 16 + 1)) s) := rfl

theorem trains_lt (n : Nat) : 2 ^ 16 * min 0xFFFF n < 2 ^ 32 := by omega

/-! ### A port that comes UP (04 R94, R98) -/

/-- A register that a port of a group writes as it comes UP or goes down. -/
def portWord (g p a : Nat) : Prop := a = A.pgPortStatus g ∨ a = A.pgLat g p ∨ eventWord a

/-- A register of a lane of a group. -/
def laneWord (g a : Nat) : Prop := ∃ l < 8, a = A.pgLaneStatus g l

theorem laneWord_pgLaneStatus (g : Nat) {l : Nat} (hl : l < 8) : laneWord g (A.pgLaneStatus g l) := ⟨l, hl, rfl⟩

theorem not_portWord_of_laneWord {g p a : Nat} (hg : g < 64) (hp : p < 8) (h : laneWord g a) : ¬ portWord g p a := by
  obtain ⟨l, hl, rfl⟩ := h
  simp only [portWord, eventWord, A.pgPortStatus, A.pgLaneStatus, A.pgLat, A.evtLog]
  omega

theorem not_laneWord_pgPortStatus (g : Nat) : ¬ laneWord g (A.pgPortStatus g) := by
  rintro ⟨l, -, hl⟩
  simp only [A.pgPortStatus, A.pgLaneStatus] at hl
  omega

theorem not_eventWord_pgPortStatus {g : Nat} (hg : g < 64) : ¬ eventWord (A.pgPortStatus g) := by
  simp only [eventWord, A.pgPortStatus, A.evtLog]
  omega

theorem not_eventWord_pgLat {g p : Nat} (hg : g < 64) (hp : p < 8) : ¬ eventWord (A.pgLat g p) := by
  simp only [eventWord, A.pgLat, A.evtLog]
  omega

theorem pgPortStatus_ne_pgLat (g p : Nat) : A.pgPortStatus g ≠ A.pgLat g p := by
  simp only [A.pgPortStatus, A.pgLat]
  omega

theorem pgLaneStatus_inj {g l m : Nat} : A.pgLaneStatus g l = A.pgLaneStatus g m ↔ l = m := by
  simp only [A.pgLaneStatus]
  omega

section Ports
variable {s : State} {g p : Nat}

/-- A port's counts that start at 0 leave every lane's phase. -/
theorem zeroCredits_phase (k : Nat) (s : State) : (zeroCredits k s).fab.phase = s.fab.phase :=
  List.foldlRecOn (motive := fun f : Fab => f.phase = s.fab.phase) (List.range 9) _ rfl fun _ hf _ _ => hf

theorem portComesUp_phase (g p lat : Nat) (s : State) : (portComesUp g p lat s).fab.phase = s.fab.phase := by
  rw [portComesUp, raiseEvent_fab, zeroCredits_phase]
  rfl

theorem portComesUp_only (hs : SmWf regReset s.regs) (lat : Nat) : FabricOnly (portWord g p) s (portComesUp g p lat s) :=
  ((((FabricOnly.refl hs).wf (.inl rfl) p p 1).wn (.inr (.inl rfl)) (2 ^ 31 + lat)).onFab _).raiseEvent
    (fun _ h => .inr (.inr h)) _

theorem rbit_portComesUp (hs : SmWf regReset s.regs) (hg : g < 64) (hp : p < 8) (lat : Nat) :
    rbit (portComesUp g p lat s) (A.pgPortStatus g) p = true := by
  have hrest : FabricOnly (fun a => a = A.pgLat g p ∨ eventWord a) (wf (A.pgPortStatus g) p p 1 s) (portComesUp g p lat s) :=
    (((FabricOnly.refl (wf_canonical _ p p 1 hs)).wn (.inl rfl) _).onFab _).raiseEvent (fun _ => .inr) _
  rw [rbit_congr (hrest.words _ (not_or.mpr ⟨pgPortStatus_ne_pgLat g p, not_eventWord_pgPortStatus hg⟩)),
    rbit_wf_same _ _ hs (by omega)]
  rfl

theorem rn_portComesUp_pgLat (hs : SmWf regReset s.regs) (hg : g < 64) (hp : p < 8) {lat : Nat} (hlat : lat < 2 ^ 31) :
    rn (portComesUp g p lat s) (A.pgLat g p) = 2 ^ 31 + lat := by
  have hup := wf_canonical (A.pgPortStatus g) p p 1 hs
  have hrest : FabricOnly eventWord (wn (A.pgLat g p) (2 ^ 31 + lat) (wf (A.pgPortStatus g) p p 1 s)) (portComesUp g p lat s) :=
    ((FabricOnly.refl (wn_canonical _ _ hup)).onFab _).raiseEvent (fun _ => id) _
  rw [rn, hrest.words _ (not_eventWord_pgLat hg hp)]
  exact rn_wn_same _ hup (by omega)

/-! ### A port that goes down (04 R96) -/

theorem portGoesDown_only (hs : SmWf regReset s.regs) : FabricOnly (portWord g p) s (portGoesDown g p s) := by
  unfold portGoesDown
  split
  · exact ((((FabricOnly.refl hs).wf (.inl rfl) p p 0).wf (.inr (.inl rfl)) 31 31 0).onFab _).raiseEvent
      (fun _ h => .inr (.inr h)) _
  · exact .refl hs

theorem portGoesDown_phase (g p : Nat) (s : State) : (portGoesDown g p s).fab.phase = s.fab.phase := by
  unfold portGoesDown
  split
  · rw [raiseEvent_fab, onFab_fab, removeHeld_frame]
    rfl
  · rfl

/-- The packet under way on the port is lost. -/
theorem portGoesDown_held (hup : rbit s (A.pgPortStatus g) p = true) : (portGoesDown g p s).fab.held =
    s.fab.held.filter fun h => !(heldOn (8 * g + p) h && h.stage == .sending) := by
  rw [portGoesDown, if_pos hup, raiseEvent_fab, onFab_fab, removeHeld_frame]
  rfl

theorem rbit_portGoesDown (hs : SmWf regReset s.regs) (hg : g < 64) (hp : p < 8) :
    rbit (portGoesDown g p s) (A.pgPortStatus g) p = false := by
  by_cases hup : rbit s (A.pgPortStatus g) p = true
  · have hrest : FabricOnly (fun a => a = A.pgLat g p ∨ eventWord a) (wf (A.pgPortStatus g) p p 0 s) (portGoesDown g p s) := by
      rw [portGoesDown, if_pos hup]
      exact (((FabricOnly.refl (wf_canonical _ p p 0 hs)).wf (.inl rfl) 31 31 0).onFab _).raiseEvent (fun _ => .inr) _
    rw [rbit_congr (hrest.words _ (not_or.mpr ⟨pgPortStatus_ne_pgLat g p, not_eventWord_pgPortStatus hg⟩)),
      rbit_wf_same _ _ hs (by omega)]
    rfl
  · rw [portGoesDown, if_neg hup, Bool.eq_false_of_not_eq_true hup]

end Ports

/-! ### A lane that loses alignment (04 R94, R96) -/

/-- A trained lane of a port that goes down waits in DESKEW. -/
def laneWaits (g : Nat) (s : State) (m : Nat) : State :=
  if rbit s (A.pgLaneStatus g m) 0 then setPhase g m phDeskew (wf (A.pgLaneStatus g m) 0 0 0 s) else s

/-- The port goes down, its trained lanes wait, and the lane starts again. -/
theorem loseLane_eq (g l : Nat) (s : State) : loseLane g l s =
    let d := portGoesDown g (l / pgWidth s g) s
    startLane g l ((portLanes d g l).foldl (laneWaits g) d) := rfl

/-- What lanes of a group that wait in DESKEW leave: all but their words, and there TRAINS; and the packets held. -/
structure LanesWait (g : Nat) (s t : State) : Prop where
  only : FabricOnly (laneWord g) s t
  trains : ∀ m, rf t (A.pgLaneStatus g m) 31 16 = rf s (A.pgLaneStatus g m) 31 16
  held : t.fab.held = s.fab.held
  rising : (s.fab.phase.Pairwise fun x y => x.1 < y.1) → t.fab.phase.Pairwise fun x y => x.1 < y.1

theorem LanesWait.refl {s : State} (g : Nat) (hs : SmWf regReset s.regs) : LanesWait g s s := ⟨.refl hs, fun _ => rfl, rfl, id⟩

theorem LanesWait.trans {g : Nat} {s t u : State} (h : LanesWait g s t) (k : LanesWait g t u) : LanesWait g s u :=
  ⟨h.only.trans k.only, fun m => (k.trains m).trans (h.trains m), k.held.trans h.held, fun hs => k.rising (h.rising hs)⟩

theorem laneWaits_lanesWait {g m : Nat} {s : State} (hs : SmWf regReset s.regs) (hm : m < 8) :
    LanesWait g s (laneWaits g s m) := by
  unfold laneWaits
  split
  · refine ⟨((FabricOnly.refl hs).wf (laneWord_pgLaneStatus g hm) 0 0 0).onFab _, fun n => ?_, rfl, smPut_pairwise _ _ _ _⟩
    show rf (wf (A.pgLaneStatus g m) 0 0 0 s) _ 31 16 = _
    by_cases h : n = m
    · rw [h]
      exact rf_wf_above _ _ hs (by decide) (by decide) (by decide)
    · exact rf_wf_other _ _ _ _ _ _ _ _ hs fun e => h (pgLaneStatus_inj.mp e)
  · exact .refl g hs

theorem lt_of_mem_portLanes {s : State} {g l m : Nat} (h : m ∈ portLanes s g l) : m < 8 :=
  List.mem_range.mp (List.mem_filter.mp h).1

theorem portLanes_lanesWait (u : State) (g l : Nat) {s : State} (hs : SmWf regReset s.regs) :
    LanesWait g s ((portLanes u g l).foldl (laneWaits g) s) :=
  List.foldlRecOn _ _ (LanesWait.refl g hs) fun _ hv _ hm =>
    hv.trans (laneWaits_lanesWait hv.only.canonical (lt_of_mem_portLanes hm))

section Lost
variable {s : State} {g l : Nat}

theorem startLane_only (hs : SmWf regReset s.regs) (hl : l < 8) : FabricOnly (laneWord g) s (startLane g l s) := by
  rw [startLane_eq]
  exact ((FabricOnly.refl hs).wn (laneWord_pgLaneStatus g hl) _).onFab _

theorem rn_startLane (hs : SmWf regReset s.regs) : rn (startLane g l s) (A.pgLaneStatus g l) =
    2 ^ 16 * min 0xFFFF (rf s (A.pgLaneStatus g l) 31 16 + 1) :=
  rn_wn_same _ hs (trains_lt _)

theorem phaseOf_startLane (h : s.fab.phase.Pairwise fun x y => x.1 < y.1) : phaseOf (startLane g l s) g l = phDetect :=
  phaseOf_setPhase g l phDetect h

/-- The number of a lane's port is that of a lane at most. -/
theorem lanePort_lt (hl : l < 8) : l / pgWidth s g < 8 := Nat.lt_of_le_of_lt (Nat.div_le_self ..) hl

theorem loseLane_only (hs : SmWf regReset s.regs) (hl : l < 8) :
    FabricOnly (fun a => portWord g (l / pgWidth s g) a ∨ laneWord g a) s (loseLane g l s) := by
  have hdown := portGoesDown_only (g := g) (p := l / pgWidth s g) hs
  have hwait := portLanes_lanesWait (portGoesDown g (l / pgWidth s g) s) g l hdown.canonical
  rw [loseLane_eq]
  exact ((hdown.mono fun _ => .inl).trans (hwait.only.mono fun _ => .inr)).trans
    ((startLane_only hwait.only.canonical hl).mono fun _ => .inr)

/-- The lane stands in DETECT. -/
theorem phaseOf_loseLane (hs : SmWf regReset s.regs) (hph : s.fab.phase.Pairwise fun x y => x.1 < y.1) :
    phaseOf (loseLane g l s) g l = phDetect := by
  rw [loseLane_eq]
  refine phaseOf_startLane ((portLanes_lanesWait _ g l (portGoesDown_only hs).canonical).rising ?_)
  rwa [portGoesDown_phase]

/-- Its port is down. -/
theorem rbit_loseLane (hs : SmWf regReset s.regs) (hg : g < 64) (hl : l < 8) :
    rbit (loseLane g l s) (A.pgPortStatus g) (l / pgWidth s g) = false := by
  have hdown := (portGoesDown_only (g := g) (p := l / pgWidth s g) hs).canonical
  have hwait := (portLanes_lanesWait (portGoesDown g (l / pgWidth s g) s) g l hdown).only
  have hrest := hwait.trans (startLane_only hwait.canonical hl)
  rw [loseLane_eq, rbit_congr (hrest.words _ (not_laneWord_pgPortStatus g)), rbit_portGoesDown hs hg (lanePort_lt hl)]

/-- Its TRAINS has risen. -/
theorem rn_loseLane (hs : SmWf regReset s.regs) (hg : g < 64) (hl : l < 8) : rn (loseLane g l s) (A.pgLaneStatus g l) =
    2 ^ 16 * min 0xFFFF (rf s (A.pgLaneStatus g l) 31 16 + 1) := by
  have hdown := portGoesDown_only (g := g) (p := l / pgWidth s g) hs
  have hwait := portLanes_lanesWait (portGoesDown g (l / pgWidth s g) s) g l hdown.canonical
  have hlane : ¬ portWord g (l / pgWidth s g) (A.pgLaneStatus g l) :=
    not_portWord_of_laneWord hg (lanePort_lt hl) (laneWord_pgLaneStatus g hl)
  rw [loseLane_eq, rn_startLane hwait.only.canonical, hwait.trains, rf_congr (hdown.words _ hlane)]

/-- The packet under way on its port is lost. -/
theorem loseLane_held (hs : SmWf regReset s.regs) (hup : rbit s (A.pgPortStatus g) (l / pgWidth s g) = true) :
    (loseLane g l s).fab.held =
      s.fab.held.filter fun h => !(heldOn (8 * g + l / pgWidth s g) h && h.stage == .sending) := by
  rw [← portGoesDown_held hup, loseLane_eq]
  exact (portLanes_lanesWait _ g l (portGoesDown_only hs).canonical).held

end Lost

/-! ### The phases that a lane passes (04 R94, R95, R98) -/

section Phases
variable {s : State} {g l : Nat} {inv : Bool} {mode brk : Nat} {peer : LaneNo} {skew : Nat}

/-- LOCK found, with the receive polarity. -/
def lockFound (g l : Nat) (inv : Bool) (s : State) : State :=
  wf (A.pgLaneStatus g l) 3 3 (b2n inv) (wf (A.pgLaneStatus g l) 1 1 1 s)

/-- The peer's lane number, and whether it is the wrong one. -/
def peerFound (g l : Nat) (peer : LaneNo) (wrong : Nat) (s : State) : State :=
  wf (A.pgLaneStatus g l) 4 4 wrong (wf (A.pgLaneStatus g l) 10 8 peer s)

theorem passPhase_detect (h : phaseOf s g l = phDetect) : passPhase g l inv mode brk peer skew s = setPhase g l phLock s := by
  unfold passPhase
  exact if_pos h

theorem passPhase_lock (h : phaseOf s g l = phLock) : passPhase g l inv mode brk peer skew s =
    setPhase g l phEqualise (lockFound g l inv s) := by
  unfold passPhase
  simp only [h]
  rfl

theorem passPhase_equalise (h : phaseOf s g l = phEqualise) :
    passPhase g l inv mode brk peer skew s = setPhase g l phAlign s := by
  unfold passPhase
  simp only [h]
  rfl

theorem passPhase_align (h : phaseOf s g l = phAlign) : passPhase g l inv mode brk peer skew s =
    setPhase g l (if pgMode s g = 1 then phIdentify else phDeskew) (wf (A.pgLaneStatus g l) 2 2 1 s) := by
  unfold passPhase
  simp only [h]
  rfl

/-- In IDENTIFY the peer's lane number is noted; the right peer's lane goes on, and a wrong peer is reported once (04 R95). -/
theorem passPhase_identify (h : phaseOf s g l = phIdentify) : passPhase g l inv mode brk peer skew s =
    if mode = pgMode s g ∧ brk = pgBreakout s g ∧ peer.val = l then setPhase g l phDeskew (peerFound g l peer 0 s)
    else if rbit s (A.pgLaneStatus g l) 4 then wf (A.pgLaneStatus g l) 10 8 peer s
    else raiseEvent { code := 0x0403, unit := pgUnit g, detail := l } (peerFound g l peer 1 s) := by
  unfold passPhase
  simp only [h]
  rfl

theorem passPhase_rightPeer (h : phaseOf s g l = phIdentify) (hmode : mode = pgMode s g) (hbrk : brk = pgBreakout s g)
    (hpeer : peer.val = l) : passPhase g l inv mode brk peer skew s = setPhase g l phDeskew (peerFound g l peer 0 s) := by
  rw [passPhase_identify h, if_pos ⟨hmode, hbrk, hpeer⟩]

theorem passPhase_wrongPeer_first (h : phaseOf s g l = phIdentify) (hpeer : peer.val ≠ l)
    (hfirst : rbit s (A.pgLaneStatus g l) 4 = false) : passPhase g l inv mode brk peer skew s =
      raiseEvent { code := 0x0403, unit := pgUnit g, detail := l } (peerFound g l peer 1 s) := by
  rw [passPhase_identify h, if_neg fun h => hpeer h.2.2, if_neg (by simp [hfirst])]

theorem passPhase_wrongPeer_again (h : phaseOf s g l = phIdentify) (hpeer : peer.val ≠ l)
    (hagain : rbit s (A.pgLaneStatus g l) 4 = true) :
    passPhase g l inv mode brk peer skew s = wf (A.pgLaneStatus g l) 10 8 peer s := by
  rw [passPhase_identify h, if_neg fun h => hpeer h.2.2, if_pos hagain]

/-- The lanes of a port that are trained, or stand in DESKEW as this one does. -/
theorem portLanes_ready (hph : phaseOf s g l = phDeskew)
    (hall : ∀ m ∈ portLanes s g l, m ≠ l → rbit s (A.pgLaneStatus g m) 0 = true) :
    (portLanes s g l).all (fun m => phaseOf s g m == phDeskew || rbit s (A.pgLaneStatus g m) 0) = true := by
  rw [List.all_eq_true]
  intro m hm
  by_cases h : m = l
  · simp [h, hph]
  · simp [hall m hm h]

/-- This lane has passed DESKEW: its ACTIVE bit is 1, and it stands in no phase. -/
def laneTrained (g l : Nat) (s : State) : State := setPhase g l 0 (wf (A.pgLaneStatus g l) 0 0 1 s)

theorem laneTrained_only (hs : SmWf regReset s.regs) : FabricOnly (· = A.pgLaneStatus g l) s (laneTrained g l s) :=
  ((FabricOnly.refl hs).wf (R := (· = A.pgLaneStatus g l)) rfl 0 0 1).onFab
    fun f => { f with phase := smPut 0 f.phase (8 * g + l) 0 }

theorem rbit_laneTrained (hs : SmWf regReset s.regs) : rbit (laneTrained g l s) (A.pgLaneStatus g l) 0 = true :=
  rbit_wf_same _ _ hs (by decide)

theorem pgWidth_laneTrained (hs : SmWf regReset s.regs) (hl : l < 8) : pgWidth (laneTrained g l s) g = pgWidth s g := by
  have hcfg : A.pgCfg g ≠ A.pgLaneStatus g l := by
    simp only [A.pgCfg, A.pgLaneStatus]
    omega
  rw [pgWidth, pgBreakout, rf_congr ((laneTrained_only hs).words _ hcfg), pgWidth, pgBreakout]

/-- The last lane of a port that passes DESKEW brings it UP (04 R98). -/
theorem passPhase_deskew_last (hs : SmWf regReset s.regs) (hl : l < 8) (hph : phaseOf s g l = phDeskew)
    (hskew : skew ≤ maxDeskew (pgMode s g))
    (hall : ∀ m ∈ portLanes s g l, m ≠ l → rbit s (A.pgLaneStatus g m) 0 = true) : passPhase g l inv mode brk peer skew s =
      portComesUp g (l / pgWidth s g) (rxLatency (pgMode s g) + skew) (laneTrained g l s) := by
  have htrained : (portLanes s g l).all (fun m => rbit (laneTrained g l s) (A.pgLaneStatus g m) 0) = true := by
    rw [List.all_eq_true]
    intro m hm
    by_cases h : m = l
    · rw [h, rbit_laneTrained hs]
    · rw [rbit_congr ((laneTrained_only hs).words _ fun e => h (pgLaneStatus_inj.mp e)), hall m hm h]
  have hpass : passPhase g l inv mode brk peer skew s =
      if (portLanes s g l).all (fun m => phaseOf s g m == phDeskew || rbit s (A.pgLaneStatus g m) 0) ∧
          skew ≤ maxDeskew (pgMode s g) then
        if (portLanes s g l).all fun m => rbit (laneTrained g l s) (A.pgLaneStatus g m) 0 then
          portComesUp g (l / pgWidth (laneTrained g l s) g) (rxLatency (pgMode s g) + skew) (laneTrained g l s)
        else laneTrained g l s
      else s := by
    unfold passPhase
    simp only [hph]
    rfl
  rw [hpass, if_pos ⟨portLanes_ready hph hall, hskew⟩, if_pos htrained, pgWidth_laneTrained hs hl]

theorem latency_lt (hskew : skew ≤ maxDeskew (pgMode s g)) : rxLatency (pgMode s g) + skew < 2 ^ 31 := by
  have hmode : pgMode s g < 4 := Nat.mod_lt _ (by decide)
  have hbound : ∀ m < 4, rxLatency m + maxDeskew m < 2 ^ 31 := by decide
  have := hbound _ hmode
  omega

end Phases

/-! ### What a phase leaves and sets -/

section Found
variable {s : State} {g l : Nat}

/-- Writes of a lane's word leave every other word. -/
theorem laneWritten_twice (hs : SmWf regReset s.regs) (hi lo v hi' lo' v' : Nat) : ∀ a, a ≠ A.pgLaneStatus g l →
    rd (wf (A.pgLaneStatus g l) hi' lo' v' (wf (A.pgLaneStatus g l) hi lo v s)) a = rd s a := fun _ ha => by
  rw [rd_wf_other _ _ _ (wf_canonical _ _ _ _ hs) ha, rd_wf_other _ _ _ hs ha]

theorem rbit_lockFound (hs : SmWf regReset s.regs) (inv : Bool) : rbit (lockFound g l inv s) (A.pgLaneStatus g l) 1 = true ∧
    rbit (lockFound g l inv s) (A.pgLaneStatus g l) 3 = inv := by
  have hlock := wf_canonical (A.pgLaneStatus g l) 1 1 1 hs
  rw [lockFound, rbit_wf_below _ _ hlock (by decide) (by decide) (by decide), rbit_wf_same _ _ hs (by decide),
    rbit_wf_same _ _ hlock (by decide)]
  cases inv <;> decide

theorem peerLane_noted (hs : SmWf regReset s.regs) (peer : LaneNo) :
    rf (wf (A.pgLaneStatus g l) 10 8 peer s) (A.pgLaneStatus g l) 10 8 = peer.val :=
  (rf_wf_same _ _ _ _ _ hs (by decide) (by decide)).trans (Nat.mod_eq_of_lt peer.isLt)

theorem peerFound_fields (hs : SmWf regReset s.regs) (peer : LaneNo) (wrong : Nat) :
    rbit (peerFound g l peer wrong s) (A.pgLaneStatus g l) 4 = (wrong % 2 == 1) ∧
      rf (peerFound g l peer wrong s) (A.pgLaneStatus g l) 10 8 = peer.val := by
  have hnoted := wf_canonical (A.pgLaneStatus g l) 10 8 peer hs
  rw [peerFound, rbit_wf_same _ _ hnoted (by decide), rf_wf_above _ _ hnoted (by decide) (by decide) (by decide),
    peerLane_noted hs]
  exact ⟨rfl, rfl⟩

/-- The port comes UP with its latency as its last lane has trained: what that leaves, and what it sets. -/
theorem portComesUp_trained (hs : SmWf regReset s.regs) (hph : s.fab.phase.Pairwise fun x y => x.1 < y.1) (hg : g < 64)
    {p : Nat} (hp : p < 8) (hl : l < 8) {lat : Nat} (hlat : lat < 2 ^ 31) :
    let t := portComesUp g p lat (laneTrained g l s)
    t = { s with regs := t.regs, out := t.out, fab := t.fab } ∧ phaseOf t g l = 0 ∧ rbit t (A.pgLaneStatus g l) 0 = true ∧
      rbit t (A.pgPortStatus g) p = true ∧ rn t (A.pgLat g p) = 2 ^ 31 + lat := by
  have htrained := laneTrained_only (g := g) (l := l) hs
  have hup := portComesUp_only (g := g) (p := p) htrained.canonical lat
  have hlane := hup.words _ (not_portWord_of_laneWord hg hp (laneWord_pgLaneStatus g hl))
  refine ⟨((htrained.mono fun _ => .inl).trans (hup.mono fun _ => Or.inr)).frame, ?_, ?_, ?_, ?_⟩
  · rw [phaseOf, portComesUp_phase]
    exact phaseOf_setPhase g l 0 hph
  · rw [rbit_congr hlane, rbit_laneTrained hs]
  · exact rbit_portComesUp htrained.canonical hg hp lat
  · exact rn_portComesUp_pgLat htrained.canonical hg hp hlat

end Found

/-! ### The rows of a lane -/

section Rows
variable {s : State} {g : GroupNo} {l : LaneNo}

theorem exec_trainingPhasePass_lit (h : pgLit s g = true) (inv : Bool) (mode brk : Fin 4) (peer : LaneNo) (skew : Nat) :
    exec (.trainingPhasePass g l inv mode brk peer skew) s = .next (passPhase g l inv mode brk peer skew s) := by
  show execTrainingPhasePass g l inv mode brk peer skew s = _
  exact if_pos h

/-- A group whose fibres reach the device is in START or ON. -/
theorem pgActive_of_lit (h : pgLit s g = true) : pgActive s g = true := (Bool.and_eq_true_iff.mp h).1

theorem exec_laneTrainTimeout_training (h : pgActive s g = true) (hph : phaseOf s g l ≠ 0) :
    exec (.laneTrainTimeout g l) s = .next (startLane g l s) := by
  show execLaneTrainTimeout g l s = _
  exact if_pos ⟨h, hph⟩

theorem exec_laneTrainTimeout_none (hph : phaseOf s g l = 0) : exec (.laneTrainTimeout g l) s = .next s := by
  show execLaneTrainTimeout g l s = _
  exact if_neg fun h => h.2 hph

theorem exec_alignmentLost_aligned (hon : isOn s (fnGroup g) = true) (h : rbit s (A.pgLaneStatus g l) 2 = true) :
    exec (.alignmentLost g l) s = .next (loseLane g l s) := by
  show execAlignmentLost g l s = _
  exact if_pos ⟨hon, h⟩

/-- No more than 65,536 corrected symbols: they are counted. -/
theorem exec_fecDegrade_few (hlit : pgLit s g = true) {n : Nat} (hn : n ≤ 65536) :
    exec (.fecDegrade g l n) s = .next (bump (A.pgFecCorr g l) n s) := by
  show execFecDegrade g l n s = _
  simp [execFecDegrade, hlit, fecMillisecond, Nat.not_lt.mpr hn]

/-- More than 65,536, on a lane without a FEC_DEGRADE before: they are counted, and FEC_DEGRADE is raised (04 R99). -/
theorem exec_fecDegrade_many (hlit : pgLit s g = true) {n : Nat} (hn : 65536 < n)
    (hfirst : smGet none s.fab.fecAt (8 * g + l) = none) :
    exec (.fecDegrade g l n) s = .next (raiseEvent { code := 0x0404, unit := pgUnit g, detail := l }
      (onFab (fun f => { f with fecAt := smPut none f.fecAt (8 * g + l) (some (ftNs s)) }) (bump (A.pgFecCorr g l) n s))) := by
  show execFecDegrade g l n s = _
  simp [execFecDegrade, hlit, fecMillisecond, hn, hfirst, ftNs]

theorem rn_bump {a : Nat} (n : Nat) (hs : SmWf regReset s.regs) : rn (bump a n s) a = min 0xFFFFFFFF (rn s a + n) :=
  rn_wn_same a hs (by unfold satAdd; omega)

end Rows

end Sys2Proof.Machine
end

section
/-! SUPPORT. The Causeway (04 R101-R104): a pair's motion, its end, and the loss of its drive; and the statement of the lanes and
the Causeway. -/

namespace Sys2Proof.Machine
open Sys2Proof

/-! ### A write of OPEN (04 R102) -/

section Open
variable {s : State} {p : GPort} {j : SpanNo}

/-- Both groups of a pair are OFF. -/
abbrev pairOff (s : State) (j : SpanNo) : Prop :=
  fstate s (fnGroup (48 + 2 * j)) = fsOff ∧ fstate s (fnGroup (49 + 2 * j)) = fsOff

/-- OPEN takes the value o, and the pair moves to that end. -/
def pairMoves (j o : Nat) (s : State) : State :=
  onFab (fun f => { f with cwyWrite := smPut false f.cwyWrite j (o == 0) })
    (wf (A.cwyStatus j) 1 0 (if o = 1 then cwOpening else cwClosing) (wf (A.cwyCtrl j) 0 0 o s))

theorem cwyCtrl_ne_cwyStatus (j : Nat) : A.cwyCtrl j ≠ A.cwyStatus j := by
  simp only [A.cwyCtrl, A.cwyStatus]
  omega

theorem cwyState_pairMoves (hs : SmWf regReset s.regs) (o : Nat) :
    cwyState (pairMoves j o s) j = if o = 1 then cwOpening else cwClosing := by
  rw [cwyState]
  refine (rf_wf_same _ _ _ _ _ (wf_canonical _ _ _ _ hs) (by decide) (by decide)).trans ?_
  split <;> rfl

theorem rbit_pairMoves (hs : SmWf regReset s.regs) (o : Nat) : rbit (pairMoves j o s) (A.cwyCtrl j) 0 = (o % 2 == 1) :=
  (rbit_congr (rd_wf_other _ _ _ (wf_canonical _ _ _ _ hs) (cwyCtrl_ne_cwyStatus j)) 0).trans
    (rbit_wf_same _ _ hs (by decide))

theorem fget_open (o : Bool) : fget (BitVec.ofNat 32 (b2n o)) 0 0 = b2n o := by cases o <;> rfl

section Held
variable (hp : portReady s p = true) (hh : holds s p 1 = true)
include hp hh

/-- The row writes OPEN at once, and what the holder's write comes to is refused, no change, or the pair's motion. -/
theorem exec_cwyCtrlOpen_held (o : Bool) : exec (.cwyCtrlOpen p j o) s = .next (
    if (o = true ∧ (s.fuses.grade = .fys6144 ∨ rbit s (A.cwyStatus j) 3 = true)) ∨ (o = false ∧ ¬ pairOff s j) then
      accessed p (A.cwyCtrl j) 0 stIgnored (cwyRefuse p j s)
    else if b2n o = rf s (A.cwyCtrl j) 0 0 then accessed p (A.cwyCtrl j) 0 stOk s
    else accessed p (A.cwyCtrl j) 0 stOk (pairMoves j (b2n o) s)) := by
  show execCwyCtrlOpen p j o s = _
  rw [execCwyCtrlOpen, wrRow_ready hp]
  unfold writeCwy
  have hone : b2n o = 1 ↔ o = true := by cases o <;> simp [b2n]
  have hzero : b2n o = 0 ↔ o = false := by cases o <;> simp [b2n]
  simp only [fget_open, hh, hone, hzero, Bool.not_true, Bool.false_eq_true, if_false, Bool.and_eq_true, beq_iff_eq]
  by_cases hbad : (o = true ∧ (s.fuses.grade = .fys6144 ∨ rbit s (A.cwyStatus j) 3 = true)) ∨ (o = false ∧ ¬ pairOff s j)
  · rw [if_pos hbad, if_pos hbad]
  · rw [if_neg hbad, if_neg hbad]
    split <;> simp [pairMoves, hone]

end Held
end Open

/-! ### The end of a motion -/

section Motion
variable {s : State} {j : SpanNo}

theorem cwyState_reached {j : Nat} (hs : SmWf regReset s.regs) {v : Nat} (hv : v < 4) :
    cwyState (wf (A.cwyStatus j) 1 0 v s) j = v := by
  exact (rf_wf_same _ _ _ _ _ hs (by decide) (by decide)).trans (Nat.mod_eq_of_lt hv)

theorem exec_cwyMotionEnd_opening (h : cwyState s j = cwOpening) : exec (.cwyMotionEnd j) s =
    .next (raiseEvent { code := 0x0405, unit := cwyUnit, detail := j } (wf (A.cwyStatus j) 1 0 cwOpen s)) := by
  show execCwyMotionEnd j s = _
  exact if_pos h

theorem exec_cwyMotionEnd_closing (h : cwyState s j = cwClosing) : exec (.cwyMotionEnd j) s = .next (
    let t := wf (A.cwyStatus j) 1 0 cwClosed s
    if smGet false s.fab.cwyWrite j then raiseEvent { code := 0x0406, unit := cwyUnit, detail := j } t else t) := by
  show execCwyMotionEnd j s = _
  simp [execCwyMotionEnd, h, cwClosing, cwOpening]

end Motion

/-! ### The drive's fault (04 R101, R104) -/

/-- A register of a pair. -/
def pairWord (j a : Nat) : Prop := a = A.cwyCtrl j ∨ a = A.cwyStatus j

/-- A register of a port group, or of the event log. -/
def groupWord (a : Nat) : Prop := (0x800000 ≤ a ∧ a < 0xC00000) ∨ eventWord a

theorem groupWord_of_lost {g l a : Nat} (hg : g < 64) (hl : l < 8) (h : portWord g l a ∨ laneWord g a) : groupWord a := by
  unfold groupWord
  rcases h with (rfl | rfl | h) | ⟨m, hm, rfl⟩
  · left
    simp only [A.pgPortStatus]
    omega
  · left
    simp only [A.pgLat]
    omega
  · exact .inr h
  · left
    simp only [A.pgLaneStatus]
    omega

theorem not_groupWord_of_pairWord {j a : Nat} (hj : j < 8) (h : pairWord j a) : ¬ groupWord a := by
  rcases h with rfl | rfl
  · simp only [groupWord, eventWord, A.cwyCtrl, A.evtLog]
    omega
  · simp only [groupWord, eventWord, A.cwyStatus, A.evtLog]
    omega

theorem not_pairWord_of_ne {i j a : Nat} (hi : i < 8) (hj : j < 8) (hne : i ≠ j) (h : pairWord j a) : ¬ pairWord i a := by
  rcases h with rfl | rfl
  · simp only [pairWord, A.cwyCtrl, A.cwyStatus]
    omega
  · simp only [pairWord, A.cwyCtrl, A.cwyStatus]
    omega

/-- What the loss of its drive leaves of a pair: FAULT is set and OPEN is 0, and it is closed, or closing. -/
structure PairLost (j : Nat) (s t : State) : Prop where
  fault : rbit t (A.cwyStatus j) 3 = true
  shut : rbit t (A.cwyCtrl j) 0 = false
  closed : cwyState s j = cwClosed → cwyState t j = cwClosed
  closing : cwyState s j ≠ cwClosed → cwyState t j = cwClosing

section Drive
variable {s t u : State} {i j : Nat}

theorem cwyState_congr (h : rd t (A.cwyStatus j) = rd s (A.cwyStatus j)) : cwyState t j = cwyState s j := rf_congr h 1 0

/-- What leaves the pair's words leaves it so. -/
theorem PairLost.same (h : PairLost j s t) (hw : ∀ a, pairWord j a → rd u a = rd t a) : PairLost j s u := by
  have hctrl := hw _ (.inl rfl)
  have hstatus := hw _ (.inr rfl)
  refine ⟨?_, ?_, fun hc => ?_, fun hc => ?_⟩
  · rw [rbit_congr hstatus, h.fault]
  · rw [rbit_congr hctrl, h.shut]
  · rw [cwyState_congr hstatus, h.closed hc]
  · rw [cwyState_congr hstatus, h.closing hc]

/-- A pair that loses its drive again stays closed, or closing. -/
theorem PairLost.trans (h : PairLost j s t) (g : PairLost j t u) : PairLost j s u :=
  ⟨g.fault, g.shut, fun hc => g.closed (h.closed hc), fun hc => g.closing (by rw [h.closing hc]; decide)⟩

/-- A pair that stands CLOSED has its OPEN taken away. -/
theorem closePair_closed (hs : SmWf regReset s.regs) (hc : cwyState s j = cwClosed) :
    closePair j s = wf (A.cwyCtrl j) 0 0 0 s := by
  unfold closePair
  exact if_pos ((rf_wf_other _ _ _ _ _ _ _ _ hs (cwyCtrl_ne_cwyStatus j).symm).trans hc)

/-- A pair in any other state moves to CLOSED besides. -/
theorem closePair_closes (hs : SmWf regReset s.regs) (hc : cwyState s j ≠ cwClosed) : closePair j s =
    wf (A.cwyStatus j) 1 0 cwClosing
      (onFab (fun f => { f with cwyWrite := smPut false f.cwyWrite j false }) (wf (A.cwyCtrl j) 0 0 0 s)) := by
  unfold closePair
  exact if_neg fun h => hc ((rf_wf_other _ _ _ _ _ _ _ _ hs (cwyCtrl_ne_cwyStatus j).symm).symm.trans h)

theorem closePair_only (hs : SmWf regReset s.regs) : FabricOnly (pairWord j) s (closePair j s) := by
  have hshut : FabricOnly (pairWord j) s (wf (A.cwyCtrl j) 0 0 0 s) := (FabricOnly.refl hs).wf (.inl rfl) 0 0 0
  by_cases hc : cwyState s j = cwClosed
  · rwa [closePair_closed hs hc]
  · rw [closePair_closes hs hc]
    exact (hshut.onFab _).wf (.inr rfl) 1 0 cwClosing

/-- A pair in FAULT that is closed. -/
theorem closePair_lost (hs : SmWf regReset s.regs) (hfault : rbit s (A.cwyStatus j) 3 = true) : PairLost j s (closePair j s) := by
  have hshut := wf_canonical (A.cwyCtrl j) 0 0 0 hs
  have hopen : rbit (wf (A.cwyCtrl j) 0 0 0 s) (A.cwyCtrl j) 0 = false := rbit_wf_same _ _ hs (by decide)
  have hstatus : rd (wf (A.cwyCtrl j) 0 0 0 s) (A.cwyStatus j) = rd s (A.cwyStatus j) :=
    rd_wf_other _ _ _ hs (cwyCtrl_ne_cwyStatus j).symm
  by_cases hc : cwyState s j = cwClosed
  · rw [closePair_closed hs hc]
    exact ⟨(rbit_congr hstatus 3).trans hfault, hopen, (cwyState_congr hstatus).trans, fun h => absurd hc h⟩
  · rw [closePair_closes hs hc]
    have hbeside : FabricOnly (fun _ => False) _ _ :=
      (FabricOnly.refl hshut).onFab fun f => { f with cwyWrite := smPut false f.cwyWrite j false }
    have hword (a : Nat) := hbeside.words a id
    refine ⟨?_, ?_, fun h => absurd h hc, fun _ => cwyState_reached hbeside.canonical (by decide)⟩
    · rw [rbit_wf_above _ _ hbeside.canonical (by decide) (by decide) (by decide), rbit_congr (hword _), rbit_congr hstatus,
        hfault]
    · rw [rbit_congr (rd_wf_other _ _ _ hbeside.canonical (cwyCtrl_ne_cwyStatus j)), rbit_congr (hword _), hopen]

theorem loseLane_groupOnly {g l : Nat} (hs : SmWf regReset s.regs) (hg : g < 64) (hl : l < 8) :
    FabricOnly groupWord s (loseLane g l s) :=
  (loseLane_only hs hl).mono fun _ => groupWord_of_lost hg (lanePort_lt hl)

/-- The lanes of a group that is in START or ON go down. -/
theorem groupLanes_only {g : Nat} (hs : SmWf regReset s.regs) (hg : g < 64) : FabricOnly groupWord s
    (if pgActive s g then (List.range 8).foldl (fun s l => loseLane g l s) s else s) := by
  split
  · exact (FabricOnly.refl hs).foldl _ fun v l hl hv => loseLane_groupOnly hv hg (List.mem_range.mp hl)
  · exact .refl hs

/-- A pair whose drive is lost: its own registers come to the state c, and the rest of the change is that of its groups' lanes. -/
theorem pairLosesDrive_spec (hs : SmWf regReset s.regs) (hj : j < 8) : ∃ c, PairLost j s c ∧ FabricOnly (pairWord j) s c ∧
    FabricOnly groupWord c (pairLosesDrive j s) := by
  have hfault : FabricOnly (pairWord j) s (wf (A.cwyStatus j) 3 3 1 s) := (FabricOnly.refl hs).wf (.inr rfl) 3 3 1
  have hstate : cwyState (wf (A.cwyStatus j) 3 3 1 s) j = cwyState s j :=
    rf_wf_below _ _ hs (by decide) (by decide) (by decide) (by decide)
  have hclose := hfault.trans (closePair_only (j := j) hfault.canonical)
  have hlost := closePair_lost (j := j) hfault.canonical (rbit_wf_same _ _ hs (by decide))
  refine ⟨closePair j (wf (A.cwyStatus j) 3 3 1 s), ⟨hlost.fault, hlost.shut, ?_, ?_⟩, hclose, ?_⟩
  · exact fun hc => hlost.closed (hstate.trans hc)
  · exact fun hc => hlost.closing (hstate ▸ hc)
  · unfold pairLosesDrive
    dsimp only
    split
    · exact .refl hclose.canonical
    · refine (FabricOnly.refl hclose.canonical).foldl _ fun v g hg hv => groupLanes_only hv ?_
      simp only [List.mem_cons, List.not_mem_nil, or_false] at hg
      omega

/-- A register of a pair or a port group, or of the event log. -/
def causewayWord (a : Nat) : Prop := (∃ j < 8, pairWord j a) ∨ groupWord a

theorem pairLosesDrive_only (hs : SmWf regReset s.regs) (hj : j < 8) : FabricOnly causewayWord s (pairLosesDrive j s) := by
  obtain ⟨c, -, hpair, hgroups⟩ := pairLosesDrive_spec hs hj
  exact (hpair.mono fun _ h => .inl ⟨j, hj, h⟩).trans (hgroups.mono fun _ => .inr)

theorem pairLosesDrive_lost (hs : SmWf regReset s.regs) (hj : j < 8) : PairLost j s (pairLosesDrive j s) := by
  obtain ⟨c, hlost, -, hgroups⟩ := pairLosesDrive_spec hs hj
  exact hlost.same fun a ha => hgroups.words a (not_groupWord_of_pairWord hj ha)

/-- Another pair's loss leaves a pair's words. -/
theorem pairLosesDrive_beside (hs : SmWf regReset s.regs) (hi : i < 8) (hj : j < 8) (hne : i ≠ j) {a : Nat} (ha : pairWord j a) :
    rd (pairLosesDrive i s) a = rd s a := by
  obtain ⟨c, -, hpair, hgroups⟩ := pairLosesDrive_spec hs hi
  rw [hgroups.words a (not_groupWord_of_pairWord hj ha), hpair.words a (not_pairWord_of_ne hi hj hne ha)]

/-- A pair that has lost its drive stays so as any pair loses it. -/
theorem PairLost.step (h : PairLost j s t) (ht : SmWf regReset t.regs) (hi : i < 8) (hj : j < 8) :
    PairLost j s (pairLosesDrive i t) := by
  by_cases hne : i = j
  · rw [hne]
    exact h.trans (pairLosesDrive_lost ht hj)
  · exact h.same fun a ha => pairLosesDrive_beside ht hi hj hne ha

theorem pairsLoseDrive_only (hs : SmWf regReset s.regs) {l : List Nat} (hl : ∀ i ∈ l, i < 8) :
    FabricOnly causewayWord s (l.foldl (fun s j => pairLosesDrive j s) s) :=
  (FabricOnly.refl hs).foldl _ fun _ i hi hv => pairLosesDrive_only hv (hl i hi)

theorem PairLost.steps (h : PairLost j s t) (ht : SmWf regReset t.regs) (hj : j < 8) {l : List Nat} (hl : ∀ i ∈ l, i < 8) :
    PairLost j s (l.foldl (fun s j => pairLosesDrive j s) t) := by
  induction l generalizing t with
  | nil => exact h
  | cons i l ih =>
    obtain ⟨hi, hrest⟩ := List.forall_mem_cons.mp hl
    exact ih (h.step ht hi hj) (pairLosesDrive_only ht hi).canonical hrest

/-- As the pairs of a list lose their drive, one of them after the other, each of them has lost it in the end. -/
theorem pairsLoseDrive_lost (hj : j < 8) {l : List Nat} {s : State} (hs : SmWf regReset s.regs) (hl : ∀ i ∈ l, i < 8)
    (hmem : j ∈ l) : PairLost j s (l.foldl (fun s j => pairLosesDrive j s) s) := by
  induction l generalizing s with
  | nil => cases hmem
  | cons i l ih =>
    obtain ⟨hi, hrest⟩ := List.forall_mem_cons.mp hl
    have hstep := (pairLosesDrive_only hs hi).canonical
    rw [List.foldl_cons]
    by_cases hne : i = j
    · subst hne
      exact (pairLosesDrive_lost hs hi).steps hstep hi hrest
    · have hlost := ih hstep hrest (List.mem_of_ne_of_mem (Ne.symm hne) hmem)
      have hstate : cwyState (pairLosesDrive i s) j = cwyState s j :=
        cwyState_congr (pairLosesDrive_beside hs hi hj hne (.inr rfl))
      exact ⟨hlost.fault, hlost.shut, fun hc => hlost.closed (hstate.trans hc), fun hc => hlost.closing (hstate ▸ hc)⟩

theorem exec_driveFault_again (h : rbit s (A.cwyStatus 0) 3 = true) : exec .driveFault s = .next s := by
  show execDriveFault s = _
  exact if_pos h

/-- The drive leaves all pairs. -/
def driveOff (s : State) : State := { s with pwr := { s.pwr with cwyDrive := false } }

/-- Each pair loses its drive, and the fault is reported. -/
theorem exec_driveFault_first (h : rbit s (A.cwyStatus 0) 3 = false) : exec .driveFault s =
    .next (raiseFault { code := 0x0407, cls := .rcvd, unit := cwyUnit }
      ((List.range 8).foldl (fun s j => pairLosesDrive j s) (driveOff s))) := by
  show execDriveFault s = _
  simp [execDriveFault, driveOff, h]

end Drive

/-! ### The statement of 04 -/

/-- Settles O43: the lane's phases by the equation of each, the loss of alignment through its port and the lanes that wait, OPEN and
the end of a motion by their cases, and the drive's fault pair by pair. -/
theorem lanesAndCauseway : Obligations.LanesAndCauseway := by
  unfold Obligations.LanesAndCauseway
  refine ⟨?_, ?_⟩
  · intro s g l inv mode brk peer skew hs hphases hlit
    dsimp only
    rw [exec_trainingPhasePass_lit hlit]
    have hword (hi lo v : Nat) := fun a (ha : a ≠ A.pgLaneStatus g l) => rd_wf_other (b := a) hi lo v hs ha
    refine ⟨?detect, ?lock, ?equalise, ?align, ?identify, ?wrongPeer, ?deskew, ?timeout, exec_laneTrainTimeout_none,
      ?lost, ?fec⟩
    case detect =>
      intro hph
      rw [passPhase_detect hph]
    case lock =>
      intro hph
      rw [passPhase_lock hph]
      exact ⟨lockFound g l inv s, rfl, ⟨rfl, laneWritten_twice hs 1 1 1 3 3 _⟩, rbit_lockFound hs inv⟩
    case equalise =>
      intro hph
      rw [passPhase_equalise hph]
    case align =>
      intro hph
      rw [passPhase_align hph]
      exact ⟨_, rfl, ⟨rfl, hword 2 2 1⟩, rbit_wf_same _ _ hs (by decide)⟩
    case identify =>
      intro hph hmode hbrk hpeer
      subst hpeer
      rw [passPhase_rightPeer hph hmode hbrk rfl]
      exact ⟨peerFound g peer peer 0 s, rfl, ⟨rfl, laneWritten_twice hs 10 8 _ 4 4 0⟩, peerFound_fields hs peer 0⟩
    case wrongPeer =>
      intro hph hpeer
      have hlane : peer.val ≠ l.val := fun e => hpeer (Fin.ext e)
      by_cases hseen : rbit s (A.pgLaneStatus g l) 4 = true
      · refine ⟨_, ⟨rfl, hword 10 8 peer⟩, ?_, peerLane_noted hs peer, fun h => absurd hseen (by simp [h]),
          fun h => by rw [passPhase_wrongPeer_again hph hlane h]⟩
        rw [rbit_wf_below _ _ hs (by decide) (by decide) (by decide), hseen]
      · obtain ⟨hwrong, hnoted⟩ := peerFound_fields (g := g) (l := l) hs peer 1
        exact ⟨peerFound g l peer 1 s, ⟨rfl, laneWritten_twice hs 10 8 _ 4 4 1⟩, hwrong, hnoted,
          fun h => by rw [passPhase_wrongPeer_first hph hlane h], fun h => absurd h hseen⟩
    case deskew =>
      intro hph hskew hall
      exact ⟨_, congrArg _ (passPhase_deskew_last hs l.isLt hph hskew hall),
        portComesUp_trained hs hphases g.isLt (lanePort_lt l.isLt) l.isLt (latency_lt hskew)⟩
    case timeout =>
      intro hph
      exact ⟨_, exec_laneTrainTimeout_training (pgActive_of_lit hlit) hph, ⟨rfl, fun a ha => rd_wn_other _ hs ha⟩,
        rn_startLane hs⟩
    case lost =>
      intro hon haligned
      exact ⟨_, exec_alignmentLost_aligned hon haligned, (loseLane_only hs l.isLt).frame, phaseOf_loseLane hs hphases,
        rbit_loseLane hs g.isLt l.isLt, rn_loseLane hs g.isLt l.isLt, loseLane_held hs⟩
    case fec =>
      exact fun n => ⟨fun hn => ⟨_, exec_fecDegrade_few hlit hn, rfl, rn_bump n hs⟩,
        fun hn hfirst => ⟨_, exec_fecDegrade_many hlit hn hfirst, rfl⟩⟩
  · intro s j hs
    refine ⟨fun p hp hh => ?write, ?opened, ?closed, exec_driveFault_again, ?fault⟩
    case write =>
      dsimp only
      rw [exec_cwyCtrlOpen_held hp hh, exec_cwyCtrlOpen_held hp hh]
      refine ⟨?_, ?_, ?_, ?_, ?_⟩
      · intro hgrade hfault hshut
        rw [if_neg (by simp [hgrade, hfault]), if_neg (by simp [b2n, hshut])]
        exact ⟨_, rfl, rfl, cwyState_pairMoves hs 1, rbit_pairMoves hs 1⟩
      · intro hbad
        rw [if_pos (.inl ⟨rfl, hbad⟩)]
      · intro hoff hopen
        rw [if_neg (by simp [pairOff, hoff]), if_neg (by simp [b2n, hopen])]
        exact ⟨_, rfl, rfl, cwyState_pairMoves hs 0, rbit_pairMoves hs 0⟩
      · intro hoff hshut
        rw [if_neg (by simp [pairOff, hoff]), if_pos (by simp [b2n, hshut])]
      · intro hon
        rw [if_pos (.inr ⟨rfl, hon⟩)]
    case opened =>
      exact fun h => ⟨_, exec_cwyMotionEnd_opening h, rfl, cwyState_reached hs (by decide),
        fun a ha => rd_wf_other 1 0 cwOpen hs ha⟩
    case closed =>
      intro h
      rw [exec_cwyMotionEnd_closing h]
      refine ⟨wf (A.cwyStatus j) 1 0 cwClosed s, rfl, cwyState_reached hs (by decide),
        fun a ha => rd_wf_other _ _ _ hs ha, ?_, ?_⟩
      · intro hwrite
        simp [hwrite]
      · intro hwrite
        simp [hwrite]
    case fault =>
      intro h
      have hspans : ∀ i ∈ List.range 8, i < 8 := fun i => List.mem_range.mp
      have hlost := pairsLoseDrive_lost (s := driveOff s) j.isLt hs hspans (List.mem_range.mpr j.isLt)
      exact ⟨_, exec_driveFault_first h, (pairsLoseDrive_only (s := driveOff s) hs hspans).frame, hlost.fault, hlost.shut,
        hlost.closed, hlost.closing⟩

end Sys2Proof.Machine
end

section
/-! SUPPORT. Stream records as the device reads them (05 Table 5.8; 15 R394): bytes of memory after a write, the fields of a record
that can be read, and what an ACK does to them. -/

namespace Sys2Proof.Machine
open Sys2Proof

/-! ### Bytes of memory -/

/-- The little-endian bytes of a number spell it, cut to their width. -/
theorem ofLe_leBytes (n v : Nat) : ofLe (leBytes n v) = v % 256 ^ n := by
  induction n generalizing v with
  | zero => rw [leBytes, ofLe, Nat.pow_zero, Nat.mod_one]
  | succ n ih =>
    have hpow : 256 ^ (n + 1) = 256 * 256 ^ n := Nat.pow_succ'
    rw [leBytes, ofLe, ih, BitVec.toNat_ofNat, hpow, Nat.mod_mul]

theorem smGetAll_eq_map {β : Type} (dflt : Nat → β) (m : List (Nat × β)) (stride : Nat) :
    ∀ n a, smGetAll dflt m a stride n = (List.range n).map fun i => smGet (dflt (a + stride * i)) m (a + stride * i)
  | 0, _ => rfl
  | n + 1, a => by
    rw [smGetAll, smGetAll_eq_map dflt m stride n, List.range_succ_eq_map, List.map_cons, List.map_map]
    simp only [Function.comp_def, Nat.mul_succ, Nat.mul_zero, Nat.add_zero, Nat.add_assoc, Nat.add_comm stride]

theorem hbmRd_eq_map (s : State) (a n : Nat) : hbmRd s a n = (List.range n).map fun i => hbmByte s (a + i) := by
  rw [hbmRd, smGetAll_eq_map]
  simp only [Nat.one_mul]
  rfl

theorem slice_eq_map (l : List Byte) (o n : Nat) : slice l o n = (List.range n).map fun i => l.getD (o + i) 0 := by
  refine List.ext_getElem (by simp [slice_length]) fun i hi _ => ?_
  rw [slice_length] at hi
  simp only [slice, List.getElem_append, List.getElem_take, List.getElem_drop, List.getElem_replicate, List.getElem_map,
    List.getElem_range, List.length_take, List.length_drop]
  split
  · next h => rw [List.getD_eq_getElem _ _ (by omega)]
  · next h => rw [List.getD_eq_default _ _ (by omega)]

/-- Bytes inside a write read as they were written. -/
theorem hbmRd_hbmWr_inside {s : State} (hs : Memory.wf s.hbm) (hf : anyFailed s = false) (a : Nat) {bs : List Byte} {o n : Nat}
    (h : o + n ≤ bs.length) : hbmRd (hbmWr a bs s) (a + o) n = slice bs o n := by
  rw [hbmRd_eq_map, slice_eq_map]
  refine List.map_congr_left fun i hi => ?_
  have hi := List.mem_range.mp hi
  rw [hbmByte_hbmWr a bs s hs, if_pos ⟨by omega, by omega, by simp [hf]⟩, Nat.add_assoc, Nat.add_sub_cancel_left]

/-- Bytes beside a write read as before. -/
theorem hbmRd_hbmWr_beside {s : State} (hs : Memory.wf s.hbm) {a b n : Nat} {bs : List Byte}
    (h : b + n ≤ a ∨ a + bs.length ≤ b) : hbmRd (hbmWr a bs s) b n = hbmRd s b n := by
  rw [hbmRd_eq_map, hbmRd_eq_map]
  refine List.map_congr_left fun i hi => ?_
  have hi := List.mem_range.mp hi
  rw [hbmByte_hbmWr a bs s hs, if_neg (by omega)]

/-! ### Words that can be read (15 R394) -/

/-- Where no channel has FAILED, bytes can be read that meet no word with bad check bits. -/
theorem badWord_eq_none_iff {s : State} (hf : anyFailed s = false) (a n : Nat) : badWord s a n = none ↔
    ∀ k ∈ s.mem.bad, ∀ w, wordServes s false k = some w → a < w + 64 → a + n ≤ w := by
  simp only [badWord, hf, Bool.false_eq_true, if_false, List.append_nil, List.min?_eq_none_iff, List.filter_eq_nil_iff,
    List.mem_filterMap, Bool.and_eq_true, decide_eq_true_eq, not_and, not_lt]
  exact ⟨fun h k hk w hw => h w ⟨k, hk, hw⟩, fun h w ⟨k, hk, hw⟩ => h k hk w hw⟩

/-- Part of bytes that can be read can be read. -/
theorem badWord_part {s : State} (hf : anyFailed s = false) {a n b m : Nat} (h : badWord s a n = none) (hlo : a ≤ b)
    (hhi : b + m ≤ a + n) : badWord s b m = none := by
  rw [badWord_eq_none_iff hf] at h ⊢
  intro k hk w hw hb
  have := h k hk w hw (by omega)
  omega

/-- A write makes no word bad. -/
theorem badWord_hbmWr {s : State} (hf : anyFailed s = false) {a n : Nat} (h : badWord s a n = none) (b : Nat) (bs : List Byte) :
    badWord (hbmWr b bs s) a n = none := by
  rw [badWord_eq_none_iff hf] at h
  rw [badWord_eq_none_iff (s := hbmWr b bs s) hf]
  exact fun k hk => h k (List.mem_of_mem_filter hk)

theorem deviceRd_good {s : State} {a n : Nat} (h : badWord s a n = none) : deviceRd s a n = hbmRd s a n := by
  simp [deviceRd, h]

/-! ### The fields of a record -/

/-- The device can read record r: there is a table, no channel has FAILED, and the record's word is good. -/
structure RecordReads (s : State) (r : Nat) : Prop where
  memory : Memory.wf s.hbm
  table : rn64 s (A.rtSrBase 0) ≠ 0
  healthy : anyFailed s = false
  good : badWord s (srAt s r 0) 64 = none

namespace RecordReads
variable {s : State} {r : Nat} (h : RecordReads s r)
include h

theorem onFab (f : Fab → Fab) : RecordReads (onFab f s) r := ⟨h.memory, h.table, h.healthy, h.good⟩

theorem hbmWr (a : Nat) (bs : List Byte) : RecordReads (hbmWr a bs s) r :=
  ⟨hbmWr_wf a bs s h.memory, h.table, h.healthy, badWord_hbmWr h.healthy h.good a bs⟩

/-- A field is the bytes that stand there. -/
theorem srGet_eq {off n : Nat} (hfit : off + n ≤ 64) : srGet s r off n = ofLe (hbmRd s (srAt s r off) n) := by
  have hgood : badWord s (srAt s r off) n = none :=
    badWord_part h.healthy h.good (by unfold srAt; omega) (by unfold srAt; omega)
  rw [srGet, if_neg h.table, deviceRd_good hgood, le, slice_whole (hbmRd_length ..)]

theorem srPut_eq (off n v : Nat) : srPut r off n v s = Machine.hbmWr (srAt s r off) (leBytes n v) s := if_neg h.table

theorem srPut (off n v : Nat) : RecordReads (srPut r off n v s) r := by
  rw [h.srPut_eq]
  exact h.hbmWr _ _

/-- A field reads as it was set, cut to its width. -/
theorem srGet_srPut_same {off n : Nat} (hfit : off + n ≤ 64) (v : Nat) : srGet (Machine.srPut r off n v s) r off n = v % 256 ^ n := by
  have hsame : hbmRd (Machine.hbmWr (srAt s r off) (leBytes n v) s) (srAt s r off) n = leBytes n v := by
    have hin := hbmRd_hbmWr_inside h.memory h.healthy (srAt s r off) (bs := leBytes n v) (o := 0) (n := n) (by simp)
    rwa [Nat.add_zero, slice_whole (leBytes_length n v)] at hin
  rw [(h.srPut off n v).srGet_eq hfit, h.srPut_eq, ← ofLe_leBytes]
  exact congrArg ofLe hsame

/-- Every other field reads as before. -/
theorem srGet_srPut_other {off n off' n' : Nat} (hfit : off' + n' ≤ 64) (hbeside : off' + n' ≤ off ∨ off + n ≤ off') (v : Nat) :
    srGet (Machine.srPut r off n v s) r off' n' = srGet s r off' n' := by
  have hother : hbmRd (Machine.hbmWr (srAt s r off) (leBytes n v) s) (srAt s r off') n' = hbmRd s (srAt s r off') n' :=
    hbmRd_hbmWr_beside h.memory (by rw [leBytes_length]; unfold srAt; omega)
  rw [(h.srPut off n v).srGet_eq hfit, h.srPut_eq, h.srGet_eq hfit]
  exact congrArg ofLe hother

end RecordReads

/-! ### An ACK at the source (05 R122, R124) -/

/-- With no copy held, a release changes RETX alone. -/
theorem releaseCopies_none {s : State} {r : Nat} (h : ∀ c ∈ s.fab.retx, c.rcd ≠ r) (p : Retx → Bool) :
    releaseCopies r p s = srPut r 0x28 8 0 s := by
  have hgone : s.fab.retx.filter (fun c => c.rcd == r && p c) = [] :=
    List.filter_eq_nil_iff.mpr fun c hc => by simp [h c hc]
  have hkept : s.fab.retx.filter (fun c => !(c.rcd == r && p c)) = s.fab.retx :=
    List.filter_eq_self.mpr fun c hc => by simp [h c hc]
  have hnone : s.fab.retx.find? (fun c => c.rcd == r) = none := List.find?_eq_none.mpr fun c hc => by simp [h c hc]
  unfold releaseCopies setRetxHead onFab
  dsimp only
  rw [hgone, hkept, List.foldl_nil, hnone]

/-- With no event due, an advance raises none. -/
theorem streamAdvanced_none {s : State} {r : Nat} (h : ∀ w ∈ s.fab.watch, w.rcd ≠ r) (una : Nat) :
    streamAdvanced r una s = s := by
  have hnot (p : StreamWatch → Bool) : ∀ w ∈ s.fab.watch, (w.rcd == r && p w) = false :=
    fun w hw => by simp [h w hw]
  have hdue (p : StreamWatch → Bool) : s.fab.watch.filter (fun w => w.rcd == r && p w) = [] :=
    List.filter_eq_nil_iff.mpr fun w hw => by simp [hnot p w hw]
  have hkept (p : StreamWatch → Bool) : s.fab.watch.filter (fun w => !(w.rcd == r && p w)) = s.fab.watch :=
    List.filter_eq_self.mpr fun w hw => by simp [hnot p w hw]
  unfold streamAdvanced onFab
  simp only [Bool.and_assoc, hdue, hkept, List.foldl_nil]

/-- With nothing waiting, nothing is sent. -/
theorem pumpAll_none {s : State} {r : Nat} (h : ∀ w ∈ s.fab.txWait, w.rcd ≠ r) : pumpAll r s = s := by
  have hnone : s.fab.txWait.find? (fun w => w.rcd == r) = none := List.find?_eq_none.mpr fun w hw => by simp [h w hw]
  unfold pumpAll pump
  rw [hnone]

theorem srPut_fab (r off n v : Nat) (s : State) : (srPut r off n v s).fab = s.fab := by
  unfold srPut
  split <;> rfl

/-- The fields that an ACK n sets: RETX, where no copy is left, TX_UNA, TRIES and RTO. -/
def acked (r n : Nat) (s : State) : State :=
  let u := srPut r 0x28 8 0 s
  srPut r 0x20 4 (cfgRto u) (srPut r 0x24 1 0 (srPut r 0x14 4 (n + 1) u))

/-- An ACK in the window of an OPEN record with nothing held, waiting or watched sets those fields; what it covers is sent no
more. -/
theorem onAck_within {s : State} {r n : Nat} (hopen : srState s r = srOpen)
    (hin : seqSub n (srTxUna s r) < seqSub (srTxNext s r) (srTxUna s r)) (hwait : ∀ w ∈ s.fab.txWait, w.rcd ≠ r)
    (hretx : ∀ c ∈ s.fab.retx, c.rcd ≠ r) (hwatch : ∀ w ∈ s.fab.watch, w.rcd ≠ r) :
    ∃ f : Fab → Fab, onAck r n s = acked r n (onFab f s) := by
  unfold onAck
  rw [if_pos ⟨hopen, hin⟩]
  dsimp only
  generalize hu : onFab (fun f : Fab => { f with inject := f.inject.filter fun i => _ }) s = u
  have hfab : u.fab.txWait = s.fab.txWait ∧ u.fab.retx = s.fab.retx ∧ u.fab.watch = s.fab.watch := by
    subst hu
    exact ⟨rfl, rfl, rfl⟩
  obtain ⟨hw, hr, hv⟩ := hfab
  rw [releaseCopies_none (by rwa [hr]), streamAdvanced_none (by simpa only [srPut_fab, hv] using hwatch),
    pumpAll_none (by simpa only [srPut_fab, hw] using hwait)]
  subst hu
  exact ⟨_, rfl⟩

namespace RecordReads
variable {s : State} {r : Nat} (h : RecordReads s r) (n : Nat)
include h

theorem srTxUna_acked : srTxUna (acked r n s) r = (n + 1) % 2 ^ 32 := by
  have h0 := h.srPut 0x28 8 0
  have h1 := h0.srPut 0x14 4 (n + 1)
  unfold acked srTxUna
  rw [(h1.srPut 0x24 1 0).srGet_srPut_other (by decide) (by decide), h1.srGet_srPut_other (by decide) (by decide),
    h0.srGet_srPut_same (by decide)]
  rfl

theorem srTries_acked : srTries (acked r n s) r = 0 := by
  have h1 := (h.srPut 0x28 8 0).srPut 0x14 4 (n + 1)
  unfold acked srTries
  rw [(h1.srPut 0x24 1 0).srGet_srPut_other (by decide) (by decide), h1.srGet_srPut_same (by decide)]
  rfl

theorem srTxNext_acked : srTxNext (acked r n s) r = srTxNext s r := by
  have h0 := h.srPut 0x28 8 0
  have h1 := h0.srPut 0x14 4 (n + 1)
  unfold acked srTxNext
  rw [(h1.srPut 0x24 1 0).srGet_srPut_other (by decide) (by decide), h1.srGet_srPut_other (by decide) (by decide),
    h0.srGet_srPut_other (by decide) (by decide), h.srGet_srPut_other (by decide) (by decide)]

end RecordReads

/-- What lies after a SEQ of the window is less than the window. -/
theorem seqSub_after {n una next : Nat} (hn : n < 2 ^ 32) (h : seqSub n una < seqSub next una) :
    seqSub next ((n + 1) % 2 ^ 32) < seqSub next una := by
  unfold seqSub at h ⊢
  omega

/-- Settles O29: the fields that an ACK sets, and the window that is left; outside the window an ACK does nothing. -/
theorem ackAdvances : Obligations.AckAdvances := by
  unfold Obligations.AckAdvances
  intro s r n hmem htable hn hgood hf hwait hretx hwatch
  refine ⟨fun hopen hin => ?_, fun hout => if_neg fun ⟨hopen, hin⟩ => ?_⟩
  · obtain ⟨f, hack⟩ := onAck_within hopen hin hwait hretx hwatch
    have hreads := (RecordReads.mk hmem htable hf hgood).onFab f
    rw [hack, hreads.srTxUna_acked]
    exact ⟨rfl, hreads.srTries_acked n, hreads.srTxNext_acked n, seqSub_after hn hin⟩
  · rcases hout with h | h
    · exact h hopen
    · omega

end Sys2Proof.Machine
end

section
/-! SUPPORT. CTRL packets that reach their unit, and the timers of a stream record (05 R122-R127, Table 5.9a). -/

namespace Sys2Proof.Machine
open Sys2Proof

/-! ### CTRL packets of a record -/

section Ctrl
variable {s : State} {u op r : Nat} {a : Arrived} (hat : arrivedAt s u (fun b => pkOp b == op) = some a)
  (hok : pkCheckOk a.bytes = true) (hr : pkSr a.bytes = r) (hjob : srJob (srRead r (takeArrived a s)) r = pkJob a.bytes)
include hat hok

/-- The first packet of an opcode at a unit, whose check passes, is taken and acted on. -/
theorem onCtrl_arrived (f : List Byte → State → State) : onCtrl u op f s = f a.bytes (takeArrived a s) := by
  unfold onCtrl
  rw [hat]
  exact if_pos hok

include hr hjob

/-- A packet of its record's job acts on the record, once the device has read it (log entry 75). -/
theorem onCtrl_ofRecord (f : List Byte → Nat → State → State) :
    onCtrl u op (fun b => forRecord b (f b)) s = f a.bytes r (srRead r (takeArrived a s)) := by
  subst hr
  rw [onCtrl_arrived hat hok]
  exact if_pos hjob

end Ctrl

/-! ### A NACK at the source -/

section Nack
variable {s : State} {r e reason : Nat} (hopen : srState s r = srOpen)
include hopen

/-- CHECK and GAP resend at once. -/
theorem onNack_resends (h : reason = 1 ∨ reason = 2) : onNack r e reason s = resend r e s := by
  unfold onNack
  rw [if_neg (not_not.mpr hopen), if_pos h]

/-- NORECV and NOBUF note the SEQ, where none is noted. -/
theorem onNack_notes (h : reason = 3 ∨ reason = 4) (hnone : smGet none s.fab.rtoFrom r = none) : onNack r e reason s =
    { s with fab := { s.fab with rtoFrom := smPut none s.fab.rtoFrom r (some e) } } := by
  unfold onNack
  rw [if_neg (not_not.mpr hopen), if_neg (by omega), if_pos h, hnone]
  rfl

end Nack

/-! ### Timers -/

theorem srPut_regs (r off n v : Nat) (s : State) : (srPut r off n v s).regs = s.regs := by
  unfold srPut
  split <;> rfl

theorem cfgMaxTries_srPut (r off n v : Nat) (s : State) : cfgMaxTries (srPut r off n v s) = cfgMaxTries s := by
  unfold cfgMaxTries rf rd
  rw [srPut_regs]

section Timers
variable {s : State} {k : BitVec 22}

theorem exec_ackTimer_running {f : AckFrom} (h : smGet none s.fab.ackTimer k.toNat = some f) :
    exec (.ackTimer k) s = .next (sendAck f k.toNat (srRxExp s k.toNat + 2 ^ 32 - 1) s) := by
  show execAckTimer k s = _
  unfold execAckTimer
  dsimp only
  rw [h]

/-- RTO passes without an advance, while a copy of an OPEN record is held. -/
theorem exec_retransmitTimeout_held {c : Retx} (h : s.fab.retx.find? (fun c => c.rcd == k.toNat) = some c)
    (hopen : srState s k.toNat = srOpen) : exec (.retransmitTimeout k) s = .next (onTimeout k.toNat c.src s) := by
  show execRetransmitTimeout k s = _
  unfold execRetransmitTimeout
  dsimp only
  rw [h]
  exact if_pos hopen

theorem exec_resendAfterRto_noted {q : Nat} (h : smGet none s.fab.rtoFrom k.toNat = some q) : exec (.resendAfterRto k) s =
    .next (resend k.toNat q { s with fab := { s.fab with rtoFrom := smPut none s.fab.rtoFrom k.toNat none } }) := by
  show execResendAfterRto k s = _
  unfold execResendAfterRto
  dsimp only
  rw [h]
  rfl

end Timers

/-- Settles O28: each CTRL packet acts on its record by its kind, and each timer by what runs. -/
theorem streamCommands : Obligations.StreamCommands := by
  unfold Obligations.StreamCommands
  intro s u a r hok
  refine ⟨fun hat hr hjob => ?ack, fun hat hr hjob hopen hreason => ?resends, fun hat hr hjob hopen hreason hnone => ?notes,
    fun hat hr hjob hopen => ?evict, fun k c q f => ⟨exec_ackTimer_running, fun hheld hopen => ?timeout,
      exec_resendAfterRto_noted⟩⟩
  case ack =>
    exact congrArg Host.Outcome.next (onCtrl_ofRecord hat hok hr hjob fun b r => onAck r (pkOparg b % 2 ^ 32))
  case resends =>
    refine congrArg Host.Outcome.next ?_
    rw [onCtrl_ofRecord hat hok hr hjob fun b r => onNack r (pkOparg b % 2 ^ 32) (pkOparg b / 2 ^ 32),
      onNack_resends hopen hreason]
  case notes =>
    refine congrArg Host.Outcome.next ?_
    rw [onCtrl_ofRecord hat hok hr hjob fun b r => onNack r (pkOparg b % 2 ^ 32) (pkOparg b / 2 ^ 32),
      onNack_notes hopen hreason hnone]
  case evict =>
    refine congrArg Host.Outcome.next ?_
    rw [onCtrl_ofRecord hat hok hr hjob fun b r s => if srState s r = srOpen then resend r (pkOparg b % 2 ^ 32) s else s,
      if_pos hopen]
  case timeout =>
    rw [exec_retransmitTimeout_held hheld hopen]
    unfold onTimeout
    dsimp only
    rw [cfgMaxTries_srPut]

end Sys2Proof.Machine
end

section
/-! SUPPORT. What sending on a stream changes (05 R122-R127; 06 R166-R169): the fabric, memory, registers, records and what the
module sends, and nothing else. -/

namespace Sys2Proof.Machine
open Sys2Proof

/-- The state u is s but for the fabric, bytes of memory and their check bits, registers, the records that wait, free values, and what
the module sends. -/
structure SendingOnly (s u : State) : Prop where
  frame : u = { s with fab := u.fab, hbm := u.hbm, mem := { s.mem with bad := u.mem.bad }, regs := u.regs, out := u.out
                       trc := u.trc, corr := u.corr, free := u.free }

namespace SendingOnly
variable {s u : State}

theorem refl (s : State) : SendingOnly s s := ⟨rfl⟩

theorem trans {v : State} (h : SendingOnly s u) (g : SendingOnly u v) : SendingOnly s v := ⟨by rw [g.frame, h.frame]⟩

theorem onFab (h : SendingOnly s u) (f : Fab → Fab) : SendingOnly s (onFab f u) := h.trans ⟨rfl⟩
theorem onBpm (h : SendingOnly s u) (f : Bpm → Bpm) : SendingOnly s (onBpm f u) := h.trans ⟨rfl⟩
theorem wn (h : SendingOnly s u) (a v : Nat) : SendingOnly s (wn a v u) := h.trans ⟨rfl⟩
theorem bump (h : SendingOnly s u) (a n : Nat) : SendingOnly s (bump a n u) := h.trans ⟨rfl⟩
theorem hbmWr (h : SendingOnly s u) (a : Nat) (bs : List Byte) : SendingOnly s (hbmWr a bs u) := h.trans ⟨rfl⟩
theorem tookFree (h : SendingOnly s u) : SendingOnly s (tookFree u) := h.trans ⟨rfl⟩
theorem inject (h : SendingOnly s u) (i : Inject) : SendingOnly s (inject i u) := h.onFab _

theorem raiseEvent (h : SendingOnly s u) (e : EventId) : SendingOnly s (raiseEvent e u) :=
  h.trans ⟨by rw [raiseEvent_frame]⟩

theorem raiseFault (h : SendingOnly s u) (f : FaultId) : SendingOnly s (raiseFault f u) :=
  h.trans ⟨by rw [raiseFault_frame]⟩

theorem foldl {α : Type} {f : State → α → State} (l : List α) (h : SendingOnly s u)
    (hf : ∀ v x, SendingOnly s v → SendingOnly s (f v x)) : SendingOnly s (l.foldl f u) :=
  List.foldlRecOn l f h fun v hv x _ => hf v x hv

/-! Words that the device reads (15 R394). -/

theorem countUe (h : SendingOnly s u) (k a port : Nat) : SendingOnly s (countUe k a u port) := by
  unfold Machine.countUe
  dsimp only
  split
  · exact (((h.bump _ _).wn _ _).wn _ _).raiseFault _
  · exact ((h.bump _ _).wn _ _).wn _ _

theorem deviceUe (h : SendingOnly s u) (a n : Nat) : SendingOnly s (deviceUe a n u) := by
  unfold Machine.deviceUe
  split
  · exact h.tookFree.countUe _ _ _
  · exact h

/-! Buffers that are taken (06 R166, R169). -/

theorem listPop (h : SendingOnly s u) (k : Nat) : SendingOnly s (listPop k u).2 := by
  unfold Machine.listPop
  dsimp only
  split
  · exact h
  · split <;> dsimp only
    · exact (h.deviceUe _ _).raiseFault _
    · exact (h.deviceUe _ _).onBpm _

theorem ringTake (h : SendingOnly s u) (k : Nat) : SendingOnly s (ringTake k u).2 := by
  unfold Machine.ringTake
  dsimp only
  split <;> dsimp only
  · exact h
  · exact (h.deviceUe _ _).onBpm _

theorem cacheFill (k n : Nat) : ∀ (m : Nat) {u : State}, SendingOnly s u → SendingOnly s (cacheFill k n m u)
  | 0, _, h => h
  | m + 1, u, h => by
    unfold Machine.cacheFill
    have htaken := h.ringTake k
    split
    · split
      · next v heq =>
        rw [heq] at htaken
        exact cacheFill k n m (htaken.onBpm _)
      · next v heq =>
        rw [heq] at htaken
        exact htaken
    · exact h

theorem takeFree (h : SendingOnly s u) (k : Nat) : SendingOnly s (takeFree k u).2 := by
  unfold Machine.takeFree
  split
  · exact h.listPop k
  · split
    · exact cacheFill k 128 128 (h.onBpm _)
    · exact h.ringTake k

theorem bpmServe (h : SendingOnly s u) (req k : Nat) : SendingOnly s (bpmServe req k u).2 := by
  have htaken := h.takeFree k
  unfold Machine.bpmServe
  split
  · next v heq =>
    rw [heq] at htaken
    exact htaken
  · next b v heq =>
    rw [heq] at htaken
    exact ((htaken.wn _ _).wn _ _).hbmWr _ _

theorem bpmAlloc (h : SendingOnly s u) (req n : Nat) : SendingOnly s (bpmAlloc req n u).2 := by
  unfold Machine.bpmAlloc
  split
  · exact h
  · split
    · exact h.bpmServe _ _
    · exact h

/-! Buffers that return (06 R166, R168). -/

theorem ringPut (h : SendingOnly s u) (k b : Nat) : SendingOnly s (ringPut k b u) := by
  unfold Machine.ringPut
  exact (h.hbmWr _ _).onBpm _

theorem listPush (h : SendingOnly s u) (b : Nat) : SendingOnly s (listPush b u) := by
  unfold Machine.listPush
  exact (h.hbmWr _ _).onBpm _

theorem cacheSpill (h : SendingOnly s u) (k n : Nat) : SendingOnly s (cacheSpill k n u) := by
  unfold Machine.cacheSpill
  exact (h.foldl _ fun _ b hv => hv.ringPut k b).onBpm _

theorem putFree (h : SendingOnly s u) (b : Nat) : SendingOnly s (putFree b u) := by
  unfold Machine.putFree
  dsimp only
  split
  · exact (h.wn _ _).listPush _
  · exact ((h.wn _ _).onBpm _).cacheSpill _ _

theorem bpmReturn (h : SendingOnly s u) (req b : Nat) : SendingOnly s (bpmReturn req b u) := by
  have hread : SendingOnly s (ownerRead b u) := h.deviceUe _ _
  unfold Machine.bpmReturn
  split
  · exact h.onBpm _
  · split
    · dsimp only
      split
      · exact hread.raiseFault _
      · exact h.raiseFault _
    · dsimp only
      split
      · exact hread.onBpm _
      · exact ((hread.hbmWr _ _).wn _ _).putFree _

/-! A record's stream (05 R122-R127). -/

theorem srPut (h : SendingOnly s u) (r off n v : Nat) : SendingOnly s (srPut r off n v u) := by
  unfold Machine.srPut
  split
  · exact h
  · exact h.hbmWr _ _

theorem setRetxHead (h : SendingOnly s u) (r : Nat) : SendingOnly s (setRetxHead r u) := h.srPut _ _ _ _

theorem releaseCopies (h : SendingOnly s u) (r : Nat) (p : Retx → Bool) : SendingOnly s (releaseCopies r p u) :=
  ((h.onFab _).foldl _ fun _ c hv => hv.bpmReturn c.req c.handle).setRetxHead r

theorem streamFailed (h : SendingOnly s u) (r : Nat) : SendingOnly s (streamFailed r u) := by
  unfold Machine.streamFailed
  refine (h.onFab _).foldl _ fun v w hv => ?_
  split
  · exact hv
  · exact hv.raiseEvent _

theorem endStream (h : SendingOnly s u) (r st : Nat) : SendingOnly s (endStream r st u) :=
  (((h.srPut r 0 1 st).onFab _).releaseCopies r _).streamFailed r

theorem fenceStream (h : SendingOnly s u) (r src : Nat) : SendingOnly s (fenceStream r src u) := (h.endStream r srFenced).raiseEvent _

theorem sendCopy (h : SendingOnly s u) (r : Nat) (w : TxWait) (b : Nat) : SendingOnly s (sendCopy r w b u) :=
  (((h.onFab _).srPut _ _ _ _).inject _).setRetxHead r

theorem sendOne (h : SendingOnly s u) (r : Nat) (w : TxWait) : SendingOnly s (sendOne r w u).2 := by
  have halloc := h.bpmAlloc w.req (copyBytes w.bytes)
  unfold Machine.sendOne
  split
  · exact h
  · split
    · exact h.fenceStream r w.src
    · split
      · next b v heq =>
        rw [heq] at halloc
        exact halloc.sendCopy r w b
      · next v heq =>
        rw [heq] at halloc
        dsimp only
        exact halloc.onBpm _

theorem pump (r : Nat) : ∀ (n : Nat) {u : State}, SendingOnly s u → SendingOnly s (pump r n u)
  | 0, _, h => h
  | n + 1, u, h => by
    unfold Machine.pump
    split
    · exact h
    · next w _ =>
      have hsent := h.sendOne r w
      split
      · next v heq =>
        rw [heq] at hsent
        exact pump r n hsent
      · next v heq =>
        rw [heq] at hsent
        exact hsent

theorem streamSend (h : SendingOnly s u) (w : TxWait) : SendingOnly s (streamSend w u) := pump _ _ (h.onFab _)

theorem sendPayload (h : SendingOnly s u) (x : Sending) (o : Nat) (data : List Byte) : SendingOnly s (sendPayload x o data u) := by
  unfold Machine.sendPayload
  split
  · exact h
  · exact h.streamSend _

end SendingOnly

end Sys2Proof.Machine
end

section
/-! SUPPORT. What lands at a pier, and the commands of the TXE and the RXE (11 R306-R309; 12 R325). -/

namespace Sys2Proof.Machine
open Sys2Proof

/-! ### Packets that their stream delivers (05 R123; 11 R308, R309) -/

section Landings
variable {s : State} {p : PierNo} {b : List Byte} {v : Recv} {u w : State}

/-- A packet that is delivered has its effect, and is acknowledged. -/
theorem onData_delivers {op : Nat} {find : State → List Byte → Option Recv} (h : Delivers s p op find b v u)
    (f : Recv → List Byte → State → State) :
    onData p op find f s = rxAccept (pierAnswers s (srCtx s (pkSr b)) p) b (f v b u) := by
  obtain ⟨a, hat, rfl, hfind, hcheck⟩ := h
  unfold onData
  rw [hat]
  simp only [hfind, Option.isNone_some, Bool.false_eq_true, if_false, hcheck]

theorem exec_put_delivers (h : Delivers s p opPut (fun s b => recvOf s p (pkSr b) 1) b v u) (hland : landIn p v b u = (true, w)) :
    exec (.put p) s = .next (rxAccept (pierAnswers s (srCtx s (pkSr b)) p) b (if pkFlag b flLast then standingLast p v b w else w)) := by
  show execPut p s = _
  unfold execPut
  rw [onData_delivers h, hland]
  rfl

theorem exec_sendPacket_delivers (h : Delivers s p opSend (fun s b => recvOf s p (pkSr b) 0) b v u)
    (hland : landIn p v b u = (true, w)) : exec (.sendPacket p) s = .next (rxAccept (pierAnswers s (srCtx s (pkSr b)) p) b
      (if pkFlag b flLast then completeCmd p eRxe v.run csOk 0 (onPier p (fun x => { x with recvs := x.recvs.erase v }) w) else w)) := by
  show execSendPacket p s = _
  unfold execSendPacket
  rw [onData_delivers h, hland]
  rfl

section Responses
variable (h : Delivers s p opGetRsp (fun s b => rspRecv s p (pkSr b)) b v u) (hland : landIn p v b u = (true, w))
include h hland

theorem exec_getRsp_more (hmore : pkFlag b flLast = false) :
    exec (.getRsp p) s = .next (rxAccept (pierAnswers s (srCtx s (pkSr b)) p) b w) := by
  show execGetRsp p s = _
  unfold execGetRsp
  rw [onData_delivers h, hland]
  simp only [hmore, Bool.and_false, Bool.false_eq_true, if_false]

/-- The LAST response, into a STANDING receive, completes the GET that it ends. -/
theorem exec_getRsp_last (hlast : pkFlag b flLast = true) (hmode : v.mode = 1) {t : Tracked}
    (hget : getOf w p (pkSr b) (pkOparg b + pkLen b) = some t) :
    exec (.getRsp p) s = .next (rxAccept (pierAnswers s (srCtx s (pkSr b)) p) b (completeTracked p t csOk w)) := by
  show execGetRsp p s = _
  unfold execGetRsp
  rw [onData_delivers h, hland]
  simp only [hlast, Bool.and_true, if_true, hmode, one_ne_zero, if_false, hget]

end Responses

theorem exec_getReq_answers (h : Delivers s p opGetReq (fun s b => recvOf s p (pkSr b) 2) b v u)
    (hfits : pkOparg b + be (pkPayload b) 0 4 ≤ v.len)
    (hown : ownOpen u v.run.ctx (be (pkPayload b) 4 4 % 2 ^ 22) (· ≤ clRsp) = true) :
    exec (.getReq p) s = .next (rxAccept (pierAnswers s (srCtx s (pkSr b)) p) b (sendData
        { w := { v.by_ p with engine := eTxe }, rcd := be (pkPayload b) 4 4 % 2 ^ 22, cls := clRsp, op := opGetRsp, flags := 0,
          src := v.dst + pkOparg b, off := be (pkPayload b) 8 4, len := be (pkPayload b) 0 4, last := true } u).2) := by
  show execGetReq p s = _
  unfold execGetReq
  rw [onData_delivers h]
  dsimp only
  rw [if_neg (by omega), hown, if_neg (by decide)]

end Landings

/-! ### Commands that run (11 R299, R300) -/

section Commands
variable {s : State} {p : PierNo} {r : RunCmd}

/-- A command of which no field is faulty has its effect. -/
theorem runOp_runs {p e op : Nat} {faults : State → RunCmd → List Nat} (h : Runs s p e op r (faults s r))
    (f : RunCmd → State → State) : runOp p e op faults f s = f r s := by
  obtain ⟨hrun, hgood⟩ := h
  unfold runOp
  simp only [hrun, hgood]

theorem recvOp_runs {p : Nat} (h : Runs s p eRxe 0x38 r (recvFaults s r)) {mine : Nat → Bool} (hm : mine (rvMode r.bytes) = true)
    (f : RunCmd → State → State) : recvOp p mine f s = f r s := by
  unfold recvOp
  rw [h.1]
  exact (if_pos hm).trans (runOp_runs h f)

theorem exec_send_runs (h : Runs s p eTxe 0x30 r (sendFaults s r)) {ok : Bool} {u : State}
    (hsent : sendData (sendOf s p r) s = (ok, u)) : exec (.send p .none none) s =
      .next (if ok = true then track p eTxe r (.acked (snSr r.bytes) (lastSeq u (snSr r.bytes))) u
        else finish p eTxe csFaulted 0 u) := by
  show execSend p .none none s = _
  unfold execSend
  rw [runOp_runs h]
  have hecc : (if isLocal (snSrc r.bytes) = true then s else meetEcc .none (snSrc r.bytes) (snLen r.bytes) s) = s := ite_self s
  dsimp only
  rw [hecc, hsent]

/-- The request of a GET: its record's, with LAST (11 R309). -/
def getRequest (p : Nat) (r : RunCmd) (s : State) : State :=
  sendPayload { w := r.by_ p eTxe, rcd := gtSr r.bytes, cls := clReq, op := opGetReq, flags := 0, src := 0, off := gtSoff r.bytes,
                len := 16, last := true } 0
    (beBytes 4 (gtLen r.bytes) ++ beBytes 4 (srPeerSr s (gtRsr r.bytes)) ++ beBytes 4 (gtLoff r.bytes) ++ beBytes 4 0) s

theorem exec_get_runs (h : Runs s p eTxe 0x31 r (getFaults p s r)) : exec (.get p) s =
    .next (track p eTxe r (.got (gtSr r.bytes) (lastSeq (getRequest p r s) (gtSr r.bytes)) (gtRsr r.bytes)
      (gtLoff r.bytes + gtLen r.bytes)) (getRequest p r s)) := by
  show execGet p s = _
  unfold execGet
  rw [runOp_runs h]
  rfl

theorem exec_getWatchdog_tracked {t : Tracked} {tag : BitVec 32} (h : (getEng s p eTxe).track.find? (fun t =>
    cmOp t.run.bytes == 0x31 && cmTag t.run.bytes == tag.toNat) = some t) :
    exec (.getWatchdog p tag) s = .next (completeTracked p t csTimeout s) := by
  show execGetWatchdog p tag s = _
  unfold execGetWatchdog
  rw [h]

end Commands

/-! ### Records that open and close (11 R306) -/

/-- The bytes of a record as it is opened (05 Table 5.8). -/
def openedBytes (cls ctx peerRank peerSr job window rto : Nat) : List Byte :=
  leBytes 1 srOpen ++ leBytes 1 cls ++ leBytes 1 ctx ++ leBytes 1 0 ++ leBytes 4 peerRank ++ leBytes 4 peerSr ++ leBytes 2 job ++
    leBytes 2 window ++ leBytes 16 0 ++ leBytes 4 rto ++ leBytes 28 0

section Opened
variable (cls ctx peerRank peerSr job window rto : Nat)

theorem openedBytes_length : (openedBytes cls ctx peerRank peerSr job window rto).length = 64 := by
  simp [openedBytes]

theorem openedBytes_counts : le (openedBytes cls ctx peerRank peerSr job window rto) 0 1 = srOpen ∧
    le (openedBytes cls ctx peerRank peerSr job window rto) 0x10 4 = 0 ∧
    le (openedBytes cls ctx peerRank peerSr job window rto) 0x14 4 = 0 ∧
    le (openedBytes cls ctx peerRank peerSr job window rto) 0x18 4 = 0 := by
  refine ⟨?_, ?_, ?_, ?_⟩ <;> simp [openedBytes, leBytes, le, slice, ofLe, srOpen]

theorem openedBytes_class (h : cls < 2 ^ 8) : le (openedBytes cls ctx peerRank peerSr job window rto) 1 1 = cls := by
  simp [openedBytes, leBytes, le, slice, ofLe]
  omega

theorem openedBytes_window (h : window < 2 ^ 16) : le (openedBytes cls ctx peerRank peerSr job window rto) 0xE 2 = window := by
  simp [openedBytes, leBytes, le, slice, ofLe]
  omega

end Opened

/-- A record that is written whole reads as its bytes. -/
theorem RecordReads.srGet_written {s : State} {k : Nat} (h : RecordReads s k) {bs : List Byte} (hlen : bs.length = 64) {off n : Nat}
    (hfit : off + n ≤ 64) : srGet (Machine.hbmWr (srAt s k 0) bs s) k off n = le bs off n := by
  rw [(h.hbmWr _ _).srGet_eq hfit, le, ← hbmRd_hbmWr_inside h.memory h.healthy (srAt s k 0) (hlen ▸ hfit)]
  rfl

section Records
variable {s : State} {p : PierNo} {r : RunCmd}

/-- An SR_OPEN writes its record whole. -/
theorem exec_srOpen_runs (h : Runs s p eTxe 0x33 r (srOpenFaults s r)) (ht : rn64 s (A.rtSrBase 0) ≠ 0) : exec (.srOpen p) s =
    .next (finish p eTxe csOk 0 (hbmWr (srAt s (le r.bytes 0x10 4) 0) (openedBytes (le r.bytes 0x1C 1) r.ctx (le r.bytes 0x14 4)
      (le r.bytes 0x18 4) (ctxJob s r.ctx) (le r.bytes 0x1E 2) (cfgRto s)) s)) := by
  show execSrOpen p s = _
  unfold execSrOpen
  rw [runOp_runs h]
  dsimp only
  rw [srWrite, if_neg ht]
  rfl

variable (h : Runs s p eTxe 0x34 r (srCloseFaults s r))
include h

theorem exec_srClose_waits
    (hw : srTxUna s (le r.bytes 0x10 4) ≠ srTxNext s (le r.bytes 0x10 4) ∨ waitingOn s (le r.bytes 0x10 4) ≠ 0) :
    exec (.srClose p) s = .next s := by
  show execSrClose p s = _
  unfold execSrClose
  rw [runOp_runs h]
  exact congrArg Host.Outcome.next (if_pos hw)

theorem exec_srClose_frees (hall : srTxUna s (le r.bytes 0x10 4) = srTxNext s (le r.bytes 0x10 4))
    (hnone : waitingOn s (le r.bytes 0x10 4) = 0) : exec (.srClose p) s =
      .next (finish p eTxe csOk 0 (srPut (le r.bytes 0x10 4) 0 1 srFree (onFab (fun f => { f with
        ackTimer := smPut none f.ackTimer (le r.bytes 0x10 4) none
        gapAt := smPut none f.gapAt (le r.bytes 0x10 4) none
        rtoFrom := smPut none f.rtoFrom (le r.bytes 0x10 4) none }) (cancelRecord (le r.bytes 0x10 4) s)))) := by
  show execSrClose p s = _
  unfold execSrClose
  rw [runOp_runs h]
  exact congrArg Host.Outcome.next (if_neg (by simp [hall, hnone]))

end Records

/-! ### Piers and engines after a change -/

section Piers
variable {s : State} (hs : s.pr.piers.Pairwise fun a b => a.1 < b.1) (p : Nat)
include hs

theorem getPier_onPier (f : Pier → Pier) : getPier (onPier p f s) p = f (getPier s p) := smGet_put_same _ _ _ _ hs

theorem onPier_rising (f : Pier → Pier) : (onPier p f s).pr.piers.Pairwise fun a b => a.1 < b.1 := smPut_pairwise _ _ _ _ hs

theorem onEng_rising (e : Nat) (f : Eng → Eng) : (onEng p e f s).pr.piers.Pairwise fun a b => a.1 < b.1 := onPier_rising hs p _
theorem arm_rising (v : Recv) : (arm p v s).pr.piers.Pairwise fun a b => a.1 < b.1 := onPier_rising hs p _

theorem recvs_onEng (e : Nat) (f : Eng → Eng) : (getPier (onEng p e f s) p).recvs = (getPier s p).recvs := by
  rw [onEng, getPier_onPier hs]

theorem recvs_arm (v : Recv) : (getPier (arm p v s) p).recvs = (getPier s p).recvs ++ [v] := by
  rw [arm, getPier_onPier hs]

theorem engs_arm (v : Recv) : (getPier (arm p v s) p).engs = (getPier s p).engs := by
  rw [arm, getPier_onPier hs]

variable (he : (getPier s p).engs.Pairwise fun a b => a.1 < b.1) (e : Nat) (f : Eng → Eng)
include he

theorem getEng_onEng : getEng (onEng p e f s) p e = f (getEng s p e) := by
  rw [getEng, onEng, getPier_onPier hs]
  exact smGet_put_same _ _ _ _ he

theorem engs_onEng_rising : (getPier (onEng p e f s) p).engs.Pairwise fun a b => a.1 < b.1 := by
  rw [onEng, getPier_onPier hs]
  exact smPut_pairwise _ _ _ _ he

end Piers

/-! ### Receives (11 R308) -/

theorem runningOp_some {s : State} {p e op : Nat} {r : RunCmd} (h : runningOp s p e op = some r) :
    (getEng s p e).running = some r := by
  unfold runningOp at h
  split at h
  · next q hq =>
    split at h
    · rw [hq, h]
    · cases h
  · cases h

/-- What a RECV of MODE 1 leaves: its receive armed, and its command done, without its signal. -/
def standingArmed (p : Nat) (r : RunCmd) (s : State) : State :=
  finish p eRxe csOk 0 (onEng p eRxe (fun g => { g with running := g.running.map fun q => { q with sig := none } })
    (arm p (recvOfCmd r) s))

section Receives
variable {s : State} {p : PierNo} {r : RunCmd} (h : Runs s p eRxe 0x38 r (recvFaults s r))
include h

theorem exec_recvOneshot_runs (hm : rvMode r.bytes = 0) : exec (.recvOneshot p) s =
    .next (onEng p eRxe (fun g => { g with running := none }) (arm p (recvOfCmd r) s)) := by
  show execRecvOneshot p s = _
  unfold execRecvOneshot
  rw [recvOp_runs h (by rw [hm]; rfl)]

theorem exec_recvStanding_runs (hm : rvMode r.bytes = 1) : exec (.recvStanding p) s = .next (standingArmed p r s) := by
  show execRecvStanding p s = _
  unfold execRecvStanding
  rw [recvOp_runs h (by rw [hm]; rfl)]
  rfl

theorem exec_recvExpose_runs (hm : rvMode r.bytes = 2) : exec (.recvExpose p) s =
    .next (finish p eRxe csOk 0 (arm p (recvOfCmd r) s)) := by
  show execRecvExpose p s = _
  unfold execRecvExpose
  rw [recvOp_runs h (by rw [hm]; rfl)]

theorem exec_recvCancel_runs (hm : rvMode r.bytes = 3) : exec (.recvCancel p) s =
    .next (finish p eRxe csOk 0 (cancelRecord (rvSr r.bytes) s)) := by
  show execRecvCancel p s = _
  unfold execRecvCancel
  rw [recvOp_runs h (by rw [hm]; rfl)]

variable (hs : s.pr.piers.Pairwise fun a b => a.1 < b.1)
include hs

omit h in
theorem recvs_standingArmed : (getPier (standingArmed p r s) p).recvs = (getPier s p).recvs ++ [recvOfCmd r] := by
  unfold standingArmed finish
  have harmed := arm_rising hs p (recvOfCmd r)
  rw [recvs_onEng (onEng_rising harmed p _ _), recvs_onEng harmed, recvs_arm hs]

theorem running_standingArmed (he : (getPier s p).engs.Pairwise fun a b => a.1 < b.1) :
    (getEng (standingArmed p r s) p eRxe).running = some { r with sig := none, status := some csOk, detail := 0 } := by
  have harmed := arm_rising hs p (recvOfCmd r)
  have hengs := engs_arm hs p (recvOfCmd r)
  have hrising : (getPier (arm p (recvOfCmd r) s) p).engs.Pairwise fun a b => a.1 < b.1 := hengs ▸ he
  have hrun : (getEng (arm p (recvOfCmd r) s) p eRxe).running = some r := by
    rw [getEng, hengs]
    exact runningOp_some h.1
  unfold standingArmed finish
  rw [getEng_onEng (onEng_rising harmed p _ _) p (engs_onEng_rising harmed p hrising _ _), getEng_onEng harmed p hrising, hrun]
  rfl

end Receives

/-- Settles O30: what each delivered packet does at its pier, and what each command of the TXE and the RXE does as it runs. -/
theorem landingAndTransfers : Obligations.LandingAndTransfers := by
  unfold Obligations.LandingAndTransfers
  refine ⟨fun s p b v u w => ⟨exec_put_delivers, exec_sendPacket_delivers, exec_getRsp_more,
    fun t h hland hlast hmode => exec_getRsp_last h hland hlast hmode, exec_getReq_answers⟩,
    fun s p r => ⟨fun ok u h => exec_send_runs h, fun h => ?get, fun t tag => exec_getWatchdog_tracked, fun h ht hm hf hgood => ?srOpen,
      fun h => ⟨exec_srClose_waits h, exec_srClose_frees h⟩, fun h => ⟨exec_recvOneshot_runs h, fun hm hs he => ?standing,
        exec_recvExpose_runs h, exec_recvCancel_runs h⟩⟩⟩
  case get => exact ⟨_, exec_get_runs h, ((SendingOnly.refl s).sendPayload _ _ _).frame⟩
  case srOpen =>
    have hreads := RecordReads.mk hm ht hf hgood
    obtain ⟨hopen, hnext, huna, hexp⟩ := openedBytes_counts (le r.bytes 0x1C 1) r.ctx (le r.bytes 0x14 4) (le r.bytes 0x18 4)
      (ctxJob s r.ctx) (le r.bytes 0x1E 2) (cfgRto s)
    have hlen := openedBytes_length (le r.bytes 0x1C 1) r.ctx (le r.bytes 0x14 4) (le r.bytes 0x18 4) (ctxJob s r.ctx)
      (le r.bytes 0x1E 2) (cfgRto s)
    refine ⟨_, exec_srOpen_runs h ht, rfl, ?_, ?_, ?_, ?_, ?_, ?_, fun a ha => ?_⟩
    · exact (hreads.srGet_written hlen (by decide)).trans hopen
    · exact (hreads.srGet_written hlen (by decide)).trans hnext
    · exact (hreads.srGet_written hlen (by decide)).trans huna
    · exact (hreads.srGet_written hlen (by decide)).trans hexp
    · exact (hreads.srGet_written hlen (by decide)).trans (openedBytes_class _ _ _ _ _ _ _ (le_lt _ _ _))
    · exact (hreads.srGet_written hlen (by decide)).trans (openedBytes_window _ _ _ _ _ _ _ (le_lt _ _ _))
    · rw [hbmByte_hbmWr _ _ _ hm, hlen, if_neg (by omega)]
  case standing =>
    exact ⟨_, exec_recvStanding_runs h hm, rfl, recvs_standingArmed hs, running_standingArmed h hs he⟩

end Sys2Proof.Machine
end

section
/-! SUPPORT. Egress (05 R112, R119, R128; 06 R140, R146, R157): the resequencers, the rotation counter, and packets that start, end
and age. -/

namespace Sys2Proof.Machine
open Sys2Proof

/-! ### The resequencer (06 R146) -/

section Release
variable {s : State} {n i : NodeNo} {c : Fin 8} {h : Held} (hnext : nextRelease s.fab n i c = some h)
include hnext

theorem exec_resequencerRelease_whole (hall : h.come = pkCells h.bytes) : exec (.resequencerRelease n i c) s =
    .next { s with fab := { s.fab with
      held := s.fab.held.erase h ++ [{ h with stage := .queued, waited := ftNs s, seqs := [], come := 0 }] } } := by
  show execResequencerRelease n i c s = _
  unfold execResequencerRelease
  rw [hnext]
  exact if_pos (beq_iff_eq.mpr hall)

theorem exec_resequencerRelease_waits (hmore : h.come ≠ pkCells h.bytes) : exec (.resequencerRelease n i c) s = .next s := by
  show execResequencerRelease n i c s = _
  unfold execResequencerRelease
  rw [hnext]
  exact if_neg fun hall => hmore (beq_iff_eq.mp hall)

end Release

/-! ### The rotation counter (06 R140) -/

theorem cellLands_turn (c : Cell) (two : Bool) (f : Fab) : (cellLands c two f).turn = f.turn := by
  unfold cellLands
  split <;> rfl

theorem cellMoves_turn (c : Cell) (two : Bool) (n m : Nat) (f : Fab) : (cellMoves c two n m f).turn = f.turn := by
  unfold cellMoves
  split
  · exact cellLands_turn c two f
  · rfl

theorem flightsFly_turn (f : Fab) : (flightsFly f).turn = f.turn :=
  List.foldlRecOn (motive := fun g : Fab => g.turn = f.turn) _ _ rfl fun g hg _ _ => (cellLands_turn _ _ g).trans hg

theorem stageTwo_turn (old : List Cell) (m : Nat) (f : Fab) : (stageTwo old m f).turn = f.turn := by
  unfold stageTwo
  split
  · rfl
  · exact cellMoves_turn _ _ _ _ _

theorem stageOne_turn (i : Nat) (f : Fab) : (stageOne i f).turn = f.turn := by
  unfold stageOne
  dsimp only
  split
  · rfl
  · exact cellMoves_turn _ _ _ _ _

theorem moveCells_turn (f : Fab) : (moveCells f).turn = f.turn := by
  unfold moveCells
  refine List.foldlRecOn (motive := fun g : Fab => g.turn = f.turn) _ _ ?_ fun g hg i _ => (stageOne_turn i g).trans hg
  exact List.foldlRecOn (motive := fun g : Fab => g.turn = f.turn) _ _ (flightsFly_turn f) fun g hg m _ =>
    (stageTwo_turn _ m g).trans hg

theorem tickFab_turn (f : Fab) : (tickFab f).turn = (f.turn + 1) % 80 := by
  unfold tickFab
  split
  · exact congrArg (fun t => (t + 1) % 80) (moveCells_turn f)
  · rfl

theorem tickFab_still {f : Fab} (h : cellsMove f = false) : tickFab f = { f with turn := (f.turn + 1) % 80 } := by
  unfold tickFab
  rw [h]
  rfl

/-! ### Packets that start and end (06 R157, R158; 05 R112) -/

theorem chargeBuckets_frame (q : Nat) (e b : List Byte) (s : State) :
    chargeBuckets q e b s = { s with fab := { s.fab with bucket := (chargeBuckets q e b s).fab.bucket } } := by
  unfold chargeBuckets
  dsimp only
  split <;> split <;> rfl

/-- What the start of a held packet h on port k leaves, before the Sideshow looks at it: the packet is being sent, and its buckets and,
on an external port, its channel are charged. -/
def started (k : Nat) (h : Held) (s : State) : State :=
  onFab (fun f => { f with
    held := f.held.map (fun g => if g = h then { h with bytes := leaves k h, stage := .sending } else g)
    used := if k < 512 then
        smPut 0 f.used (9 * k + pkChan (leaves k h)) ((smGet 0 f.used (9 * k + pkChan (leaves k h)) + pkCells (leaves k h)) % 2 ^ 16)
      else f.used }) (chargeBuckets h.dst (shapeEntry s (pkEpoch h.bytes) h.dst) h.bytes s)

theorem started_frame (k : Nat) (h : Held) (s : State) : started k h s = { s with fab := { s.fab with
    held := (started k h s).fab.held, used := (started k h s).fab.used, bucket := (started k h s).fab.bucket } } := by
  unfold started
  rw [chargeBuckets_frame]
  rfl

theorem started_held (k : Nat) (h : Held) (s : State) : (started k h s).fab.held =
    s.fab.held.map (fun g => if g = h then { h with bytes := leaves k h, stage := .sending } else g) := by
  unfold started
  rw [chargeBuckets_frame]
  rfl

theorem started_used (k : Nat) (h : Held) (s : State) : (started k h s).fab.used =
    if k < 512 then smPut 0 s.fab.used (9 * k + pkChan (leaves k h))
      ((smGet 0 s.fab.used (9 * k + pkChan (leaves k h)) + pkCells (leaves k h)) % 2 ^ 16) else s.fab.used := by
  unfold started
  rw [chargeBuckets_frame]
  rfl

section Egress
variable {s : State} {k : Fin 528} {h : Held}

theorem exec_egressStart_starts (hport : 512 ≤ k.val ∨ portUp s k = true) (hfree : portFree s k = true)
    (hpick : pickStart s k = some h) : exec (.egressStart k) s = .next (sideshow k 1 (leaves k h) (started k h s)) := by
  have hmay : ((decide (512 ≤ k.val) || portUp s k) && portFree s k) = true := by
    rw [hfree, Bool.and_true, Bool.or_eq_true, decide_eq_true_eq]
    exact hport
  show execEgressStart k s = _
  unfold execEgressStart
  dsimp only
  rw [if_pos hmay, hpick]
  rfl

theorem exec_egressStart_busy (hbusy : portFree s k = false) : exec (.egressStart k) s = .next s := by
  show execEgressStart k s = _
  unfold execEgressStart
  dsimp only
  rw [hbusy, Bool.and_false]
  rfl

theorem exec_egressPacketEnd_sent (hsent : s.fab.held.find? (fun h => heldOn k h && h.stage == .sending) = some h) :
    exec (.egressPacketEnd k) s = .next (
      let u : State := { s with fab := removeHeld (· == h) s.fab }
      if k.val < 512 then sendLane k h.bytes u
      else { u with fab := { u.fab with inbox := u.fab.inbox ++ [{ at_ := h.pier, src := k.val, bytes := h.bytes }] } }) := by
  show execEgressPacketEnd k s = _
  unfold execEgressPacketEnd
  dsimp only
  rw [hsent]
  exact (apply_ite Host.Outcome.next _ _ _).symm

end Egress

/-- A MIRROR or BULK head that has waited AGE_US is dropped and counted (05 R128). -/
theorem exec_ageDrop_old {s : State} {k : SlotNo} {bulk : Bool} {h : Held}
    (hhead : queueHead s (queueOf k (if bulk then clBulk else clMirror)) = some h)
    (hold : 1000 * ageUs s (pkEpoch h.bytes) ≤ (ftNs s + 2 ^ 64 - h.waited) % 2 ^ 64) : exec (.ageDrop k bulk) s =
      .next (wn (A.swCnt 2) (min 0xFFFFFFFF (rn s (A.swCnt 2) + 1)) { s with fab := removeHeld (· == h) s.fab }) := by
  show execAgeDrop k bulk s = _
  unfold execAgeDrop
  rw [hhead]
  exact if_pos hold

end Sys2Proof.Machine
end

section
/-! SUPPORT. The sampling tick (06 R160) and the throttle window (05 R131, R132): a queue after a queue, an output after an output. -/

namespace Sys2Proof.Machine
open Sys2Proof

/-! ### Sampling -/

/-- The counter of bin b of the depth of a queue. -/
def depthCounter (q b : Nat) : Nat := A.shpHist (q / 64) (q % 64) 0 b

theorem depthCounter_inj {q r b c : Nat} (hb : b < 16) (hc : c < 16) (h : depthCounter q b = depthCounter r c) : q = r ∧ b = c := by
  simp only [depthCounter, A.shpHist] at h
  omega

theorem depthBin_lt (d : Nat) : depthBin d < 16 := by
  unfold depthBin
  split <;> omega

/-- No counter of depths is one of delays. -/
theorem depthCounter_ne_delay {q b : Nat} (hb : b < 16) (r : Nat) (d : Nat) :
    depthCounter q b ≠ A.shpHist (r / 64) (r % 64) 1 (delayBin d) := by
  have hbin : delayBin d < 16 := by
    unfold delayBin
    split <;> omega
  simp only [depthCounter, A.shpHist]
  omega

theorem bump_canonical (a n : Nat) {s : State} (h : SmWf regReset s.regs) : SmWf regReset (bump a n s).regs := wn_canonical _ _ h

theorem rn_bump_same (a n : Nat) {s : State} (h : SmWf regReset s.regs) : rn (bump a n s) a = min 0xFFFFFFFF (rn s a + n) :=
  rn_wn_same a h (by unfold satAdd; omega)

theorem rn_bump_other {a b : Nat} (n : Nat) {s : State} (h : SmWf regReset s.regs) (hb : b ≠ a) : rn (bump a n s) b = rn s b :=
  congrArg BitVec.toNat (rd_wn_other _ h hb)

theorem rn_lt (s : State) (a : Nat) : rn s a < 2 ^ 32 := (rd s a).isLt

/-- A sample changes registers alone. -/
theorem sampleQueue_frame (q : Nat) (s : State) : sampleQueue q s = { s with regs := (sampleQueue q s).regs } := by
  unfold sampleQueue
  dsimp only
  split <;> rfl

theorem queueDepth_sampleQueue (q r : Nat) (s : State) : queueDepth (sampleQueue q s) r = queueDepth s r := by
  rw [sampleQueue_frame]
  rfl

theorem sampleQueue_canonical (q : Nat) {s : State} (h : SmWf regReset s.regs) : SmWf regReset (sampleQueue q s).regs := by
  unfold sampleQueue
  dsimp only
  split
  · exact bump_canonical _ _ (bump_canonical _ _ h)
  · exact bump_canonical _ _ h

/-- The sample of a queue counts it in its depth bin, and in no other. -/
theorem rn_sampleQueue {q r b : Nat} (hb : b < 16) {s : State} (h : SmWf regReset s.regs) :
    rn (sampleQueue q s) (depthCounter r b) =
      if r = q ∧ b = depthBin (queueDepth s q) then min 0xFFFFFFFF (rn s (depthCounter r b) + 1) else rn s (depthCounter r b) := by
  have hdepth : rn (bump (depthCounter q (depthBin (queueDepth s q))) 1 s) (depthCounter r b) =
      if r = q ∧ b = depthBin (queueDepth s q) then min 0xFFFFFFFF (rn s (depthCounter r b) + 1) else rn s (depthCounter r b) := by
    split
    · next hin =>
      obtain ⟨rfl, rfl⟩ := hin
      exact rn_bump_same _ _ h
    · next hout => exact rn_bump_other _ h fun e => hout (depthCounter_inj hb (depthBin_lt _) e)
  rw [← hdepth]
  unfold sampleQueue
  dsimp only
  split
  · exact rn_bump_other _ (bump_canonical _ _ h) (depthCounter_ne_delay hb q _)
  · rfl

/-- The samples of the queues of a list count each in its depth bin, once. -/
theorem rn_sampleQueues : ∀ (l : List Nat) {s : State}, l.Nodup → SmWf regReset s.regs → ∀ r b, b < 16 →
    rn (l.foldl (fun s q => sampleQueue q s) s) (depthCounter r b) =
      min 0xFFFFFFFF (rn s (depthCounter r b) + if r ∈ l ∧ b = depthBin (queueDepth s r) then 1 else 0)
  | [], s, _, _, r, b, _ => by
    have := rn_lt s (depthCounter r b)
    simp
    omega
  | q :: l, s, hl, h, r, b, hb => by
    obtain ⟨hq, hl⟩ := List.nodup_cons.mp hl
    rw [List.foldl_cons, rn_sampleQueues l hl (sampleQueue_canonical q h) r b hb, queueDepth_sampleQueue, rn_sampleQueue hb h]
    by_cases hrq : r = q
    · subst hrq
      by_cases hbin : b = depthBin (queueDepth s r) <;> simp [hq, hbin]
    · simp [hrq]

theorem sampleQueues_frame (l : List Nat) (s : State) : l.foldl (fun s q => sampleQueue q s) s =
    { s with regs := (l.foldl (fun s q => sampleQueue q s) s).regs } :=
  List.foldlRecOn (motive := fun u : State => u = { s with regs := u.regs }) l _ rfl fun u hu q _ => by
    rw [sampleQueue_frame, hu]

section Tick
variable {s : State}

theorem exec_sampleTick_off (h : rf s A.swSampleCfg 15 0 = 0) : exec .sampleTick s = .next s := by
  show execSampleTick s = _
  exact if_pos h

theorem exec_sampleTick_on (h : rf s A.swSampleCfg 15 0 ≠ 0) :
    exec .sampleTick s = .next ((existingQueues s).foldl (fun s q => sampleQueue q s) s) := by
  show execSampleTick s = _
  exact if_neg h

theorem existingQueues_nodup (s : State) : (existingQueues s).Nodup := List.nodup_range.filter _

end Tick

/-! ### Throttling -/

/-- Output i / 3 evaluates the level of its group i % 3. -/
def throttleStep (s : State) (i : Nat) : State :=
  onFab (fun f => { f with throttle := smPut 0 f.throttle i (nextLevel s (i % 3) (smGet 0 f.throttle i)
    (nodeDepth s (i / 3) (groupClass (i % 3)))) }) s

/-- The state u is s but for throttle levels, whose map stays in order. -/
structure ThrottleOnly (s u : State) : Prop where
  frame : u = { s with fab := { s.fab with throttle := u.fab.throttle } }
  rising : u.fab.throttle.Pairwise fun x y => x.1 < y.1

namespace ThrottleOnly
variable {s u : State} (h : ThrottleOnly s u)
include h

theorem step (i : Nat) : ThrottleOnly s (throttleStep u i) where
  frame := by
    rw [h.frame]
    rfl
  rising := smPut_pairwise _ _ _ _ h.rising

/-- What a level is evaluated from is that of s. -/
theorem nextLevel_eq (i l : Nat) : nextLevel u (i % 3) l (nodeDepth u (i / 3) (groupClass (i % 3))) =
    nextLevel s (i % 3) l (nodeDepth s (i / 3) (groupClass (i % 3))) := by
  rw [h.frame]
  rfl

theorem level_step (i j : Nat) : smGet 0 (throttleStep u i).fab.throttle j =
    if j = i then nextLevel s (i % 3) (smGet 0 u.fab.throttle i) (nodeDepth s (i / 3) (groupClass (i % 3)))
    else smGet 0 u.fab.throttle j := by
  rw [← h.nextLevel_eq]
  split
  · next e =>
    subst e
    exact smGet_put_same _ _ _ _ h.rising
  · next e => exact smGet_put_other _ _ _ _ _ _ e h.rising

end ThrottleOnly

/-- Every output and group of a list gets its next level, once, and every other stays. -/
theorem level_steps {s : State} : ∀ (l : List Nat) {u : State}, l.Nodup → ThrottleOnly s u → ∀ j,
    smGet 0 (l.foldl throttleStep u).fab.throttle j =
      if j ∈ l then nextLevel s (j % 3) (smGet 0 u.fab.throttle j) (nodeDepth s (j / 3) (groupClass (j % 3)))
      else smGet 0 u.fab.throttle j
  | [], _, _, _, _ => (if_neg (by simp)).symm
  | i :: l, u, hl, h, j => by
    obtain ⟨hi, hl⟩ := List.nodup_cons.mp hl
    rw [List.foldl_cons, level_steps l hl (h.step i) j, h.level_step]
    by_cases hj : j = i
    · subst hj
      simp [hi]
    · simp [hj]

theorem exec_throttleWindow_classes {s : State} (h : sect s secClasses ≠ []) :
    exec .throttleWindow s = .next ((List.range 240).foldl throttleStep s) := by
  show execThrottleWindow s = _
  exact if_neg h

theorem throttleSteps_only {s : State} (l : List Nat) (hs : s.fab.throttle.Pairwise fun x y => x.1 < y.1) :
    ThrottleOnly s (l.foldl throttleStep s) :=
  List.foldlRecOn (motive := ThrottleOnly s) l _ ⟨rfl, hs⟩ fun _ hu i _ => hu.step i

/-- Settles O27: the resequencers, the rotation counter, the start and the end of sending, the drop of an old head; the samples and
the throttle levels. -/
theorem egressAndThrottle : Obligations.EgressAndThrottle := by
  unfold Obligations.EgressAndThrottle
  refine ⟨fun s => ⟨fun n i c h hnext => ⟨exec_resequencerRelease_whole hnext, exec_resequencerRelease_waits hnext⟩,
    fun f => ⟨tickFab_turn f, tickFab_still⟩, fun k h hport hfree hpick => ?start, fun k => exec_egressStart_busy,
    fun k h => exec_egressPacketEnd_sent, fun k bulk h => exec_ageDrop_old⟩,
    fun s => ⟨exec_sampleTick_off, fun hon hregs => ?sample, fun hsect hs => ?throttle⟩⟩
  case start =>
    exact ⟨_, exec_egressStart_starts hport hfree hpick, started_frame k h s, started_held k h s, started_used k h s⟩
  case sample =>
    refine ⟨_, exec_sampleTick_on hon, sampleQueues_frame _ s, fun q hq b hb => ?_⟩
    have hcount := rn_sampleQueues (existingQueues s) (existingQueues_nodup s) hregs q b hb
    simp only [hq, true_and] at hcount
    exact hcount
  case throttle =>
    refine ⟨_, exec_throttleWindow_classes hsect, (throttleSteps_only _ hs).frame, fun n hn g hg => ?_⟩
    have hlevel := level_steps (List.range 240) List.nodup_range ⟨rfl, hs⟩ (3 * n + g)
    rw [if_pos (List.mem_range.mpr (by omega)), show (3 * n + g) % 3 = g by omega, show (3 * n + g) / 3 = n by omega] at hlevel
    exact hlevel

end Sys2Proof.Machine
end

section
/-! SUPPORT. FLIP and RETIRE (05 R133-R135; 02 R52; 09 R254): the write that each is, and what each does on a module that has
nothing under way. -/

namespace Sys2Proof.Machine
open Sys2Proof

/-! ### The writes of RT_EPOCH_CTRL (05 Table 5.15) -/

section Writes
variable {s : State} {p : GPort}

theorem holds_rtEpochCtrl (hh : s.ks.holder = some p) : holds s p (dieOf A.rtEpochCtrl) = true :=
  (holds_die0 s p).trans (decide_eq_true hh)

/-- A write of FLIP by the holder. -/
theorem writeEpochCtrl_flip (hh : s.ks.holder = some p) : writeEpochCtrl p 1 s =
    if flipRefused s then (rtRefused p A.rtEpochCtrl s, stIgnored) else (doFlip p (wn A.rtEpochCtrl 1 s), stOk) := by
  have hop : fget (1 : Word) 3 0 = 1 := rfl
  unfold writeEpochCtrl
  simp only [holds_rtEpochCtrl hh, Bool.not_true, Bool.false_eq_true, if_false, hop, if_true]

/-- A write of RETIRE by the holder. -/
theorem writeEpochCtrl_retire (hh : s.ks.holder = some p) : writeEpochCtrl p 2 s =
    if !oldLive s || oldInflight s ≠ 0 then (rtRefused p A.rtEpochCtrl s, stIgnored)
    else (doRetire p (wn A.rtEpochCtrl 2 s), stOk) := by
  have hop : fget (2 : Word) 3 0 = 2 := rfl
  have hne : ¬ (2 : Nat) = 1 := by decide
  unfold writeEpochCtrl
  simp only [holds_rtEpochCtrl hh, Bool.not_true, Bool.false_eq_true, if_false, hop, hne, if_true]

theorem exec_flip_ready (hp : portReady s p = true) {t : State} {st : Nat} (h : writeEpochCtrl p 1 s = (t, st)) :
    exec (.flip p) s = .next (accessed p A.rtEpochCtrl 0 st t) := by
  show execFlip p s = _
  unfold execFlip
  rw [wrRow_ready hp, h]

theorem exec_retire_ready (hp : portReady s p = true) {t : State} {st : Nat} (h : writeEpochCtrl p 2 s = (t, st)) :
    exec (.retire p) s = .next (accessed p A.rtEpochCtrl 0 st t) := by
  show execRetire p s = _
  unfold execRetire
  rw [wrRow_ready hp, h]

end Writes

/-! ### A module with nothing under way -/

section Idle
variable {s : State}

/-- A version without a tree table has no tree that handles packets, none with a valid entry, and no tree record. -/
theorem validTrees_none {v : Nat} (h : rn64 s (A.rtTreeBase v 0) = 0) : validTrees s v = [] := if_pos h
theorem treeEntries_none {v : Nat} (h : rn64 s (A.rtTreeBase v 0) = 0) : treeEntries s v = [] := if_pos h

theorem treeRecs_none {v : Nat} (h : rn64 s (A.rtTreeBase v 0) = 0) : treeRecs s v = [] := by
  rw [treeRecs, validTrees_none h, List.flatMap_nil]

theorem newNoFit_none {v : Nat} (h : rn64 s (A.rtTreeBase v 0) = 0) : newNoFit s v = [] := by
  unfold newNoFit
  rw [treeEntries_none h]
  rfl

/-- Without a tree table every tree of the version fits. -/
theorem reserveTrees_none {v : Nat} (h : rn64 s (A.rtTreeBase v 0) = 0) :
    reserveTrees v s = onFab (fun f => { f with noFit := f.noFit.filter fun k => k / 4096 != v }) s := by
  unfold reserveTrees
  rw [newNoFit_none h]
  simp only [List.map_nil, List.append_nil, List.foldl_nil]

theorem applyArmed_none (h : s.armed = none) : applyArmed s = s := by
  unfold applyArmed
  rw [h]

theorem completeRepairs_none (h : s.mem.repairs = []) : completeRepairs s = s := by
  unfold completeRepairs
  rw [h]
  rfl

theorem flipLoads_none (h : s.net.progLoad = none) : flipLoads s = s := by
  unfold flipLoads onNet
  dsimp only
  rw [h, Option.map_none, ← h]

theorem restamp_none (h : s.fab.inject = []) : restamp s = s := by
  unfold restamp onFab
  simp only [h, List.any_nil, Bool.false_eq_true, if_false, List.map_nil, List.map_id']
  rw [← h]

/-- With no collective under way, a change of membership changes none. -/
theorem markChanged_none (ho : s.net.ops = []) (hs : s.net.strm = []) (step : Bool) (u : State) : markChanged step u s = s := by
  unfold markChanged onNet
  simp only [ho, hs, List.map_nil]
  rw [← ho, ← hs]

theorem recount_none (ho : s.net.ops = []) (hs : s.net.strm = []) (hp : s.pr.piers = []) : recount s = s := by
  unfold recount advanceAll
  simp only [ho, hs, hp, List.foldl_nil]

end Idle

/-- The module has no collective, no pier in use, no repair, nothing armed, no load under way and nothing that waits to leave. -/
structure NothingUnderWay (s : State) : Prop where
  ops : s.net.ops = []
  strm : s.net.strm = []
  piers : s.pr.piers = []
  repairs : s.mem.repairs = []
  armed : s.armed = none
  spare : spareState s ≠ spLoading
  progLoad : s.net.progLoad = none
  inject : s.fab.inject = []

/-! ### FLIP (05 R134) -/

/-- The epoch registers after a FLIP: the other version is in force, the old one is live, and none of its packets has been seen. -/
def epochFlipped (s : State) : State :=
  wn A.rtOldSeen 0 (wf A.rtEpochStatus 1 1 1 (wf A.rtEpochStatus 0 0 (otherEpoch s) s))

/-- What a FLIP by a port leaves on a module with nothing under way. -/
def flippedIdle (port : Nat) (s : State) : State :=
  raiseEvent { code := 0x0502, port := port, unit := rtUnit, detail := otherEpoch s }
    (onFab (fun f => { f with noFit := f.noFit.filter fun k => k / 4096 != otherEpoch s }) (epochFlipped s))

section Flip
variable {s : State} (h : SmWf regReset s.regs)
include h

theorem epochFlipped_canonical : SmWf regReset (epochFlipped s).regs :=
  wn_canonical _ _ (wf_canonical _ _ _ _ (wf_canonical _ _ _ _ h))

theorem rd_epochFlipped_other {a : Nat} (hs : a ≠ A.rtEpochStatus) (ho : a ≠ A.rtOldSeen) : rd (epochFlipped s) a = rd s a := by
  have h1 := wf_canonical A.rtEpochStatus 0 0 (otherEpoch s) h
  unfold epochFlipped
  rw [rd_wn_other _ (wf_canonical _ _ _ _ h1) ho, rd_wf_other _ _ _ h1 hs, rd_wf_other _ _ _ h hs]

theorem treeBase_epochFlipped (v : Nat) : rn64 (epochFlipped s) (A.rtTreeBase v 0) = rn64 s (A.rtTreeBase v 0) := by
  have hword (a : Nat) (ha : A.rtTreeBase 0 0 ≤ a) : rn (epochFlipped s) a = rn s a := by
    simp only [A.rtTreeBase] at ha
    refine congrArg BitVec.toNat (rd_epochFlipped_other h ?_ ?_)
    · simp only [A.rtEpochStatus]
      omega
    · simp only [A.rtOldSeen]
      omega
  rw [rn64, hword _ (by simp only [A.rtTreeBase]; omega), hword _ (by simp only [A.rtTreeBase]; omega), rn64]

theorem curEpoch_epochFlipped : curEpoch (epochFlipped s) = otherEpoch s := by
  have h1 := wf_canonical A.rtEpochStatus 0 0 (otherEpoch s) h
  unfold epochFlipped curEpoch
  rw [rf_congr (rd_wn_other _ (wf_canonical _ _ _ _ h1) (by decide)),
    rf_wf_below _ _ h1 (by decide) (by decide) (by decide) (by decide), rf_wf_same _ _ _ _ _ h (by decide) (by decide)]
  exact Nat.mod_eq_of_lt (otherEpoch_lt s)

theorem oldLive_epochFlipped : oldLive (epochFlipped s) = true := by
  have h1 := wf_canonical A.rtEpochStatus 0 0 (otherEpoch s) h
  unfold epochFlipped oldLive
  rw [rbit_congr (rd_wn_other _ (wf_canonical _ _ _ _ h1) (by decide)), rbit_wf_same _ _ h1 (by decide)]
  rfl

/-- The event of a FLIP leaves every register but the event log's. -/
theorem rd_flippedIdle (port : Nat) {a : Nat} (ha : a < A.evtLog 0 ∨ A.gulEvtSeq < a) :
    rd (flippedIdle port s) a = rd (epochFlipped s) a :=
  rd_raiseEvent_other _ a (onFab _ (epochFlipped s)) (epochFlipped_canonical h) ha

theorem spareState_flippedIdle (port : Nat) : spareState (flippedIdle port s) = spareState s :=
  rf_congr ((rd_flippedIdle h port (.inl (by decide))).trans (rd_epochFlipped_other h (by decide) (by decide))) 31 28

theorem curEpoch_flippedIdle (port : Nat) : curEpoch (flippedIdle port s) = otherEpoch s :=
  (curEpoch_congr (rd_flippedIdle h port (.inl (by decide)))).trans (curEpoch_epochFlipped h)

theorem oldLive_flippedIdle (port : Nat) : oldLive (flippedIdle port s) = true :=
  (rbit_congr (rd_flippedIdle h port (.inl (by decide))) 1).trans (oldLive_epochFlipped h)

end Flip

theorem flippedIdle_frame (port : Nat) (s : State) : flippedIdle port s = { s with
    regs := (flippedIdle port s).regs, out := (flippedIdle port s).out
    fab := { s.fab with noFit := (flippedIdle port s).fab.noFit } } := by
  unfold flippedIdle
  rw [raiseEvent_frame]
  rfl

theorem NothingUnderWay.flippedIdle {s : State} (h : NothingUnderWay s) (hregs : SmWf regReset s.regs) (port : Nat) :
    NothingUnderWay (flippedIdle port s) := by
  have hspare := (spareState_flippedIdle hregs port).trans_ne h.spare
  have hframe := flippedIdle_frame port s
  generalize Machine.flippedIdle port s = t at hspare hframe ⊢
  rw [hframe] at hspare ⊢
  exact ⟨h.ops, h.strm, h.piers, h.repairs, h.armed, hspare, h.progLoad, h.inject⟩

/-- What a FLIP from version old to version v does with what is armed, the tree tables, repairs and loads, once the epoch has
changed (05 R134; 10 R266, R270; 15 R399; 09 R255). -/
def flipTables (v old : Nat) (s : State) : State :=
  let u := reserveTrees v (applyArmed s)
  flipLoads (completeRepairs (openRecs (treeRecs u v) (treeRecs u old) u))

/-- A FLIP changes the epoch, then the tables, is reported, and looks again at what is under way. -/
theorem doFlip_eq (port : Nat) (s : State) : doFlip port s =
    checkPartner (recount (markChanged (decide (port = 0xFF)) s (restamp
      (raiseEvent { code := 0x0502, port := port, unit := rtUnit, detail := otherEpoch s }
        (flipTables (otherEpoch s) (curEpoch s) (epochFlipped s)))))) := rfl

/-- With no tree, nothing armed, no repair and no load, the tables change in which trees are known not to fit alone. -/
theorem flipTables_idle {s : State} (ht : ∀ v, rn64 s (A.rtTreeBase v 0) = 0) (harmed : s.armed = none)
    (hrepairs : s.mem.repairs = []) (hload : s.net.progLoad = none) (v old : Nat) :
    flipTables v old s = onFab (fun f => { f with noFit := f.noFit.filter fun k => k / 4096 != v }) s := by
  unfold flipTables
  dsimp only
  rw [applyArmed_none harmed, reserveTrees_none (ht v)]
  generalize hu : onFab (fun f : Fab => { f with noFit := _ }) s = u
  have hrecs (w : Nat) : treeRecs u w = [] := treeRecs_none (by rw [← hu]; exact ht w)
  have hopen : openRecs [] [] u = u := rfl
  rw [hrecs, hrecs, hopen, completeRepairs_none (hu ▸ hrepairs), flipLoads_none (hu ▸ hload)]

/-- With nothing under way, a FLIP changes the epoch, forgets which trees of the new version did not fit, and is reported. -/
theorem doFlip_idle {s : State} (hregs : SmWf regReset s.regs) (ht : ∀ v, rn64 s (A.rtTreeBase v 0) = 0) (h : NothingUnderWay s)
    (port : Nat) : doFlip port s = flippedIdle port s := by
  have hafter := h.flippedIdle hregs port
  rw [doFlip_eq, flipTables_idle (fun v => (treeBase_epochFlipped hregs v).trans (ht v)) h.armed h.repairs h.progLoad]
  change checkPartner (recount (markChanged _ s (restamp (flippedIdle port s)))) = _
  rw [restamp_none hafter.inject, markChanged_none hafter.ops hafter.strm, recount_none hafter.ops hafter.strm hafter.piers,
    checkPartner_idle hafter.spare]

/-! ### RETIRE (05 R135; 02 R52) -/

/-- The old version live no more, and the ports of KIND 0 that it named noted. -/
def oldEnded (s : State) : State :=
  wf A.rtEpochStatus 1 1 0 (onFab (fun f => { f with kind0 := (f.kind0 ++ kind0Slots s (otherEpoch s)).eraseDups }) s)

section Retire
variable {s : State} (h : SmWf regReset s.regs)
include h

theorem oldEnded_canonical : SmWf regReset (oldEnded s).regs := wf_canonical _ _ _ _ (s := onFab _ s) h

theorem curEpoch_oldEnded : curEpoch (oldEnded s) = curEpoch s :=
  rf_wf_below A.rtEpochStatus 0 (s := onFab _ s) h (by decide) (by decide) (by decide) (by decide)

theorem oldLive_oldEnded : oldLive (oldEnded s) = false :=
  rbit_wf_same A.rtEpochStatus 0 (s := onFab _ s) h (by decide)

omit h in
/-- Without trees, a RETIRE ends the old version, copies the sections, and is reported. -/
theorem doRetire_noTrees (ht : ∀ v, rn64 s (A.rtTreeBase v 0) = 0) (port : Nat) : doRetire port s =
    raiseEvent { code := 0x0503, port := port, unit := rtUnit, detail := otherEpoch s } (copySections (oldEnded s)) := by
  have hrecs (v : Nat) : treeRecs s v = [] := treeRecs_none (ht v)
  have hfree (u : State) : freeRecs [] [] u = u := rfl
  unfold doRetire
  dsimp only
  rw [hrecs, hrecs, hfree]
  rfl

end Retire

/-- The end of the old version, the copy of the sections and an event change what a RETIRE may change. -/
theorem retired_frame {s u : State} (h : OtherVersionOnly (oldEnded s) u) (e : EventId) : raiseEvent e u = { s with
    regs := (raiseEvent e u).regs, out := (raiseEvent e u).out, sect := (raiseEvent e u).sect
    net := { s.net with progs := (raiseEvent e u).net.progs }
    fab := { s.fab with kind0 := (raiseEvent e u).fab.kind0 } } := by
  rw [raiseEvent_frame, h.frame]
  rfl

/-- Once the sections have been copied, the two versions of each are alike (02 R52). -/
theorem sectV_copied_alike {u : State} (h : SmWf regReset u.regs) (hs : u.sect.Pairwise fun a b => a.1 < b.1) {y : Nat}
    (hy : y ∈ doubleTypes) (hp : y ≠ secRseprog) : sectV (copySections u) y 0 = sectV (copySections u) y 1 := by
  have hd : ∀ y ∈ doubleTypes, doubleVersioned y = true := by decide
  have hcopied := (OtherVersionOnly.refl h).copySections doubleTypes
  have hother : sectV (copySections u) y (otherEpoch u) = sect u y :=
    (sectV_copySections (hd y hy) hp doubleTypes h hs).trans (if_pos hy)
  have hcur : sectV (copySections u) y (curEpoch u) = sect u y := by
    have hin := hcopied.inForce hs y
    rwa [sect, curEpoch_congr hcopied.epoch] at hin
  have hlt := curEpoch_lt u
  have halike := hcur.trans hother.symm
  unfold otherEpoch at halike
  interval_cases curEpoch u
  · exact halike
  · exact halike.symm

/-- Settles O23: the two writes by what R133 and R135 refuse, and what a FLIP and a RETIRE leave where nothing is under way. -/
theorem epochCommands : Obligations.EpochCommands := by
  unfold Obligations.EpochCommands
  intro s p hp hh
  refine ⟨fun hok => exec_flip_ready hp ?flips, fun hold hnone => exec_retire_ready hp ?retires,
    fun hno => exec_flip_ready hp ?flipRefused, fun hno => exec_retire_ready hp ?retireRefused,
    fun hregs ht => ⟨fun hops hstrm hpiers hrepairs harmed hspare hload hinject => ?flip, fun hs => ?retire⟩⟩
  case flips => rw [writeEpochCtrl_flip hh, hok, if_neg Bool.false_ne_true]
  case retires => rw [writeEpochCtrl_retire hh, if_neg (by simp [hold, hnone])]
  case flipRefused =>
    rw [writeEpochCtrl_flip hh, if_pos hno]
    rfl
  case retireRefused =>
    rw [writeEpochCtrl_retire hh, if_pos (by simpa using hno)]
    rfl
  case flip =>
    have hflip := doFlip_idle hregs ht ⟨hops, hstrm, hpiers, hrepairs, harmed, hspare, hload, hinject⟩ p.val
    exact ⟨_, flippedIdle_frame p.val s, hflip, curEpoch_flippedIdle hregs p.val, oldLive_flippedIdle hregs p.val⟩
  case retire =>
    have hended := oldEnded_canonical hregs
    have hcopied : OtherVersionOnly (oldEnded s) (copySections (oldEnded s)) := (OtherVersionOnly.refl hended).copySections doubleTypes
    have hevent (e : EventId) : rd (raiseEvent e (copySections (oldEnded s))) A.rtEpochStatus = rd (oldEnded s) A.rtEpochStatus :=
      (rd_raiseEvent_other e _ _ hcopied.canonical (.inl (by decide))).trans hcopied.epoch
    refine ⟨_, retired_frame hcopied _, doRetire_noTrees ht p.val, ?_, ?_, fun y hy hprog => ?_⟩
    · exact (curEpoch_congr (hevent _)).trans (curEpoch_oldEnded hregs)
    · exact (rbit_congr (hevent _) 1).trans (oldLive_oldEnded hregs)
    · simp only [sectV, raiseEvent_sect]
      exact sectV_copied_alike hended hs hy hprog

end Sys2Proof.Machine
end

section
/-! SUPPORT. Pools and the registers they stand on (06 R164-R169; 18 R451-R457): a register word that is not at its reset value under
records and faults, whatever form the registers have, and what the end of a switch of form changes. -/

namespace Sys2Proof.Machine
open Sys2Proof

/-! ### Words that a write of another key leaves -/

/-- In a map of any form, a key that reads something else than the default reads alike after a write of another key. -/
theorem smGet_put_listed {β : Type} [DecidableEq β] (d e : β) (m : List (Nat × β)) {a b : Nat} (x : β) (hb : b ≠ a)
    (h : smGet e m b ≠ e) : smGet e (smPut d m a x) b = smGet e m b := by
  induction m with
  | nil => exact absurd rfl h
  | cons p r ih =>
    obtain ⟨k, v⟩ := p
    have hkb : ¬ b < k := fun hlt => h (by rw [smGet, if_pos hlt])
    have hrest (hne : b ≠ k) : smGet e ((k, v) :: r) b = smGet e r b := by rw [smGet, if_neg hkb, if_neg hne]
    unfold smPut
    split
    · next hak =>
      split
      · rfl
      · rw [smGet, if_neg (by omega), if_neg hb]
    · split
      · next heq =>
        subst heq
        rw [hrest hb]
        split
        · rfl
        · rw [smGet, if_neg hkb, if_neg hb]
      · by_cases hbk : b = k
        · simp only [smGet, hbk, if_true]
        · rw [hrest hbk] at h ⊢
          rw [smGet, if_neg hkb, if_neg hbk, ih h]

theorem smGet_putAll_listed {β : Type} [DecidableEq β] (dflt : Nat → β) (e : β) (stride b : Nat) :
    ∀ (l : List β) (m : List (Nat × β)) (a : Nat), b < a → smGet e m b ≠ e →
      smGet e (smPutAll dflt m a stride l) b = smGet e m b
  | [], _, _, _, _ => rfl
  | x :: r, m, a, hb, h => by
    have hput := smGet_put_listed (dflt a) e m x (Nat.ne_of_lt hb) h
    rw [smPutAll, smGet_putAll_listed dflt e stride b r _ _ (Nat.lt_add_right _ hb) (hput.trans_ne h), hput]

/-- A word of s that is not at its reset value reads alike in u. -/
def KeepsListed (a : Nat) (s u : State) : Prop := rd s a ≠ regReset a → rd u a = rd s a

/-- A word of the pool manager's registers. -/
def bpmWord (a : Nat) : Prop := 0x500000 ≤ a ∧ a < 0x600000

namespace KeepsListed
variable {a : Nat} {s u v : State}

theorem refl : KeepsListed a s s := fun _ => rfl

theorem trans (h : KeepsListed a s u) (g : KeepsListed a u v) : KeepsListed a s v := fun hs =>
  (g ((h hs).trans_ne hs)).trans (h hs)

theorem sameRegs (h : KeepsListed a s u) (hr : v.regs = u.regs) : KeepsListed a s v :=
  h.trans fun _ => congrArg (smGet (regReset a) · a) hr

theorem wr (h : KeepsListed a s u) {k : Nat} (hk : a ≠ k) (w : Word) : KeepsListed a s (wr k w u) :=
  h.trans fun hu => smGet_put_listed _ _ _ w hk hu

theorem wn (h : KeepsListed a s u) {k : Nat} (hk : a ≠ k) (n : Nat) : KeepsListed a s (wn k n u) := h.wr hk _
theorem bump (h : KeepsListed a s u) {k : Nat} (hk : a ≠ k) (n : Nat) : KeepsListed a s (bump k n u) := h.wr hk _

theorem putCfg (h : KeepsListed a s u) {k : Nat} (hk : a < k) (bs : List Byte) : KeepsListed a s (putCfg k bs u) :=
  h.trans fun hu => smGet_putAll_listed regReset _ 4 a _ _ k hk hu

variable (ha : bpmWord a)
include ha

theorem raiseEvent (h : KeepsListed a s u) (e : EventId) : KeepsListed a s (raiseEvent e u) := by
  have ⟨_, hhi⟩ := ha
  unfold Machine.raiseEvent
  dsimp only
  refine ((h.sameRegs ?_).putCfg ?_ _).wn ?_ _
  · rw [sendEvent_regs, sendEvent_regs]
  · simp only [A.evtLog]
    omega
  · simp only [A.gulEvtSeq]
    omega

theorem stopCtx (h : KeepsListed a s u) (x code : Nat) : KeepsListed a s (stopCtx x code u) := by
  have ⟨hlo, _⟩ := ha
  unfold Machine.stopCtx
  split
  · next hx =>
    refine (h.wn ?_ _).raiseEvent ha _
    simp only [A.ctxFltStatus]
    omega
  · exact h

theorem faultEffect (h : KeepsListed a s u) (f : FaultId) : KeepsListed a s (faultEffect f u) := by
  have ⟨hlo, _⟩ := ha
  unfold Machine.faultEffect
  split
  · exact h.stopCtx ha _ _
  · split
    · exact h
    · refine h.wn ?_ _
      simp only [A.dkFltStatus]
      omega
  · exact h

theorem raiseFault (h : KeepsListed a s u) (f : FaultId) : KeepsListed a s (raiseFault f u) := by
  have ⟨hlo, hhi⟩ := ha
  have hcount : a ≠ A.dkFltCnt (FaultClass.code f.cls) := by
    have : FaultClass.code f.cls < 4 := by cases f.cls <;> decide
    simp only [A.dkFltCnt]
    omega
  have hseq : a ≠ A.dkFltSeq := by
    simp only [A.dkFltSeq]
    omega
  have hlog (n : Nat) : a < A.fltLog 0 + n := by
    simp only [A.fltLog]
    omega
  have hcounted := h.bump hcount 1
  unfold Machine.raiseFault
  extract_lets counted last merged rep fseq logged numbered told shown
  have hnumbered : KeepsListed a s numbered := (hcounted.putCfg (hlog _) _).wn hseq _
  have hshown : shown.regs = numbered.regs := by
    unfold shown told
    split <;> split <;> rfl
  split
  · exact hcounted.sameRegs rfl
  · exact ((hnumbered.sameRegs hshown).raiseEvent ha _).faultEffect ha f

theorem countUe (h : KeepsListed a s u) (k b port : Nat) : KeepsListed a s (countUe k b u port) := by
  have ⟨_, hhi⟩ := ha
  have hcnt (st : Nat) : a ≠ A.memEccCnt st k := by
    simp only [A.memEccCnt]
    omega
  have hlast (st i : Nat) : a ≠ A.memEccLast st i := by
    simp only [A.memEccLast]
    omega
  have hcounted := fun st v w => ((h.bump (hcnt st) 1).wn (hlast st 0) v).wn (hlast st 1) w
  unfold Machine.countUe
  dsimp only
  split
  · exact (hcounted _ _ _).raiseFault ha _
  · exact hcounted _ _ _

theorem deviceUe (h : KeepsListed a s u) (b n : Nat) : KeepsListed a s (deviceUe b n u) := by
  unfold Machine.deviceUe
  split
  · exact (h.sameRegs (v := tookFree u) rfl).countUe ha _ _ _
  · exact h

end KeepsListed

theorem deviceUe_good {s : State} {a n : Nat} (h : badWord s a n = none) : deviceUe a n s = s := by
  rw [deviceUe, h]

/-! ### Requests (06 R169) -/

section Requests
variable {s u : State} {x : CtxNo} {c : Fin 7} {n : Nat}

/-- A legal request is asked of the pool that serves its size. -/
theorem exec_bpmRequest_legal (h0 : 0 < n) (hmax : n ≤ poolMaxReq (pools s) c) :
    exec (.bpmRequest x c n) s = .next (bpmRequest (7 * x + c) n s) :=
  if_pos (.inl ⟨h0, hmax⟩)

theorem bpmRequest_served {req h : Nat} (hu : bpmAlloc req n s = (some h, u)) : bpmRequest req n s = emit (.buffer req h) u := by
  rw [bpmRequest, hu]

theorem bpmRequest_waits {req : Nat} (hu : bpmAlloc req n s = (none, u)) :
    bpmRequest req n s = onBpm (fun b => { b with waiting := b.waiting ++ [{ req := req, size := n }] }) u := by
  rw [bpmRequest, hu]

/-- The first request that waits for a pool, once the pool serves it, waits no more and is granted its buffer. -/
theorem exec_bpmWaitingServed_grants {k : Fin 5} {w : BpmWait} {h : Nat}
    (hw : s.fab.bpm.waiting.find? (fun w => poolFor (pools s) w.size == some k.val) = some w) (hcan : bpmCan s w.req k = true)
    (hu : bpmServe w.req k s = (some h, u)) : exec (.bpmWaitingServed k) s =
      .next (grantBuffer w h (onBpm (fun b => { b with waiting := b.waiting.erase w }) u)) := by
  show execBpmWaitingServed k s = _
  unfold execBpmWaitingServed
  simp only [hw, hcan, if_true, hu]

variable {w : BpmWait} {h : Nat}

theorem grantBuffer_requester (hr : w.rcd = none) (hp : w.place = none) : grantBuffer w h s = emit (.buffer w.req h) s := by
  simp only [grantBuffer, hr, hp]

theorem grantBuffer_copy {r : Nat} {t : TxWait} (hr : w.rcd = some r) (ht : s.fab.txWait.find? (fun t => t.rcd == r) = some t) :
    grantBuffer w h s = pumpAll r (sendCopy r t h s) := by
  simp only [grantBuffer, hr, ht]

theorem grantBuffer_service {i : Nat} {q : SvcReq} (hr : w.rcd = none) (hp : w.place = some i)
    (hq : reqAtPlace s (w.req / 7) i = some q) (hs : q.status = none) (hb : q.buf = none) :
    grantBuffer w h s = giveBuffer q h s := by
  simp only [grantBuffer, hr, hp, hq, hs, hb, Option.isNone_none, Bool.and_self, if_true]

end Requests

/-! ### Returns (06 R167, R168) -/

section Returns
variable {s : State} {req h : Nat}

/-- A handle passes the checks only once the pools have been formed. -/
theorem bpmMode_of_returnFails (hok : returnFails s req h = none) : bpmMode s ≠ bmNone := by
  intro hm
  unfold returnFails at hok
  simp only [hm, beq_self_eq_true, Bool.true_or, if_true] at hok
  split at hok
  · cases hok
  · split at hok
    · cases hok
    · split at hok <;> cases hok

/-- Where the pools have been formed, BPM_STATUS is not at its reset value. -/
theorem bpmStatus_listed (hm : bpmMode s ≠ bmNone) : rd s A.bpmStatus ≠ regReset A.bpmStatus := by
  intro hr
  have hreset : fget (regReset A.bpmStatus) 1 0 = bmNone := by decide
  exact hm (by rw [bpmMode, rf, hr, hreset])

/-- What the read of an owner word records does not touch BPM_STATUS. -/
theorem bpmSwitching_ownerRead (hm : bpmMode s ≠ bmNone) : bpmSwitching (ownerRead h s) = bpmSwitching s :=
  rbit_congr (KeepsListed.refl.deviceUe ⟨by decide, by decide⟩ _ _ (bpmStatus_listed hm)) 2

theorem ownerRead_good (hgood : badWord s (ownerAt s (handlePool h) (handleIdx s h)) 2 = none) : ownerRead h s = s :=
  deviceUe_good hgood

theorem bpmReturn_applied (hok : returnFails s req h = none) (hsw : bpmSwitching s = false) :
    bpmReturn req h s = applyReturn req h (ownerRead h s) := by
  have hread := (bpmSwitching_ownerRead (h := h) (bpmMode_of_returnFails hok)).trans hsw
  simp only [bpmReturn, hsw, Bool.false_and, Bool.false_eq_true, if_false, hok, hread]

theorem bpmReturn_held (hok : returnFails s req h = none) (hsw : bpmSwitching s = true)
    (hroom : s.fab.bpm.returns.length < returnBuffer)
    (hgood : badWord s (ownerAt s (handlePool h) (handleIdx s h)) 2 = none) :
    bpmReturn req h s = onBpm (fun b => { b with returns := b.returns ++ [(req, h)] }) s := by
  have hnot : decide (returnBuffer ≤ s.fab.bpm.returns.length) = false := decide_eq_false (Nat.not_le.mpr hroom)
  simp only [bpmReturn, hsw, hnot, Bool.and_false, Bool.false_eq_true, if_false, hok, ownerRead_good hgood, if_true]

theorem bpmReturn_stalled (hsw : bpmSwitching s = true) (hfull : returnBuffer ≤ s.fab.bpm.returns.length) :
    bpmReturn req h s = onBpm (fun b => { b with stalled := b.stalled ++ [(req, h)] }) s := by
  simp only [bpmReturn, hsw, hfull, decide_true, Bool.and_self, if_true]

theorem bpmReturn_refused {r : Nat} (hbad : returnFails s req h = some r) (hsw : bpmSwitching s = false)
    (hgood : badWord s (ownerAt s (handlePool h) (handleIdx s h)) 2 = none) : bpmReturn req h s =
      raiseFault { code := 0x1206, cls := .ctxf, ctx := req / 7, unit := bpmUnit, detail := h, sub := r } s := by
  simp only [bpmReturn, hsw, Bool.false_and, Bool.false_eq_true, if_false, hbad, ownerRead_good hgood, ite_self]

end Returns

/-! ### The writes of BPM_META_BASE and BPM_CTRL (06 R165, R167) -/

section Writes
variable {s : State} {p : GPort} (hh : s.ks.holder = some p)
include hh

theorem holds_holder : holds s p 0 = true := (holds_die0 s p).trans (decide_eq_true hh)

/-- The holder's first legal write of BPM_META_BASE[1] forms the pools there. -/
theorem writeMetaBase_forms {w : Word} (hm : bpmMode s = bmNone) (hs : sect s secPools ≠ [])
    (hok : metaOk s (pairValue s (A.bpmMetaBase 0) w) = true) : writeMetaBase p 1 w s =
      (bpmForm (wn64 (A.bpmMetaBase 0) (pairValue s (A.bpmMetaBase 0) w) s), stOk) := by
  have hne : ¬ (1 : Nat) = 0 := by decide
  unfold writeMetaBase
  simp only [holds_holder hh, Bool.not_true, Bool.false_eq_true, if_false, hm, ne_eq, not_true_eq_false, hne]
  exact if_pos ⟨hs, hok⟩

/-- A write of BPM_CTRL by the holder whose OP takes the pools out of the form they have. -/
theorem writeBpmCtrl_switches {w : Word} (hsw : bpmSwitching s = false)
    (hgo : fget w 3 0 = 1 ∧ bpmMode s = bmList ∨ fget w 3 0 = 2 ∧ bpmMode s = bmRing) : writeBpmCtrl p w s =
      (wf A.bpmStatus 2 2 1 (wn A.bpmCtrl (fget w 3 0) s), stOk) := by
  have hgo' : (!bpmSwitching s && ((fget w 3 0 == 1 && bpmMode s == bmList) || (fget w 3 0 == 2 && bpmMode s == bmRing))) = true := by
    simpa [hsw] using hgo
  unfold writeBpmCtrl
  simp only [holds_holder hh, Bool.not_true, Bool.false_eq_true, if_false, hgo', if_true]

end Writes

/-! ### The end of a switch of form (06 R166, R167) -/

/-- The state u is s but for the pools' free lists, rings and caches, bytes of memory and their check bits, registers, the records that
wait, free values, and what the module sends. -/
structure FormOnly (s u : State) : Prop where
  frame : u = { s with
    fab := { s.fab with bpm := { s.fab.bpm with head := u.fab.bpm.head, ringPos := u.fab.bpm.ringPos
                                                ringCount := u.fab.bpm.ringCount, cache := u.fab.bpm.cache } }
    hbm := u.hbm, mem := { s.mem with bad := u.mem.bad }, regs := u.regs, out := u.out, trc := u.trc, corr := u.corr
    free := u.free }

namespace FormOnly
variable {s u : State}

theorem refl (s : State) : FormOnly s s := ⟨rfl⟩

theorem trans {v : State} (h : FormOnly s u) (g : FormOnly u v) : FormOnly s v := ⟨by rw [g.frame, h.frame]⟩

/-- A change of the free lists, the rings and the caches alone. -/
theorem onBpm (h : FormOnly s u) {f : Bpm → Bpm} (hf : ∀ b, f b = { b with
    head := (f b).head, ringPos := (f b).ringPos, ringCount := (f b).ringCount, cache := (f b).cache }) :
    FormOnly s (onBpm f u) :=
  h.trans ⟨congrArg (fun b => ({ u with fab := { u.fab with bpm := b } } : State)) (hf u.fab.bpm)⟩

theorem hbmWr (h : FormOnly s u) (a : Nat) (bs : List Byte) : FormOnly s (hbmWr a bs u) := h.trans ⟨rfl⟩
theorem wn (h : FormOnly s u) (a v : Nat) : FormOnly s (wn a v u) := h.trans ⟨rfl⟩
theorem bump (h : FormOnly s u) (a n : Nat) : FormOnly s (bump a n u) := h.trans ⟨rfl⟩
theorem tookFree (h : FormOnly s u) : FormOnly s (tookFree u) := h.trans ⟨rfl⟩
theorem wf (h : FormOnly s u) (a hi lo v : Nat) : FormOnly s (wf a hi lo v u) := h.trans ⟨rfl⟩
theorem raiseEvent (h : FormOnly s u) (e : EventId) : FormOnly s (raiseEvent e u) := h.trans ⟨by rw [raiseEvent_frame]⟩
theorem raiseFault (h : FormOnly s u) (f : FaultId) : FormOnly s (raiseFault f u) := h.trans ⟨by rw [raiseFault_frame]⟩

theorem foldl {α : Type} {f : State → α → State} (l : List α) (h : FormOnly s u)
    (hf : ∀ v x, FormOnly s v → FormOnly s (f v x)) : FormOnly s (l.foldl f u) :=
  List.foldlRecOn l f h fun v hv x _ => hf v x hv

theorem countUe (h : FormOnly s u) (k a port : Nat) : FormOnly s (countUe k a u port) := by
  unfold Machine.countUe
  dsimp only
  split
  · exact (((h.bump _ _).wn _ _).wn _ _).raiseFault _
  · exact ((h.bump _ _).wn _ _).wn _ _

theorem deviceUe (h : FormOnly s u) (a n : Nat) : FormOnly s (deviceUe a n u) := by
  unfold Machine.deviceUe
  split
  · exact h.tookFree.countUe _ _ _
  · exact h

theorem listPush (h : FormOnly s u) (b : Nat) : FormOnly s (listPush b u) := by
  unfold Machine.listPush
  exact (h.hbmWr _ _).onBpm fun _ => rfl

theorem ringPut (h : FormOnly s u) (k b : Nat) : FormOnly s (ringPut k b u) := by
  unfold Machine.ringPut
  exact (h.hbmWr _ _).onBpm fun _ => rfl

theorem ringTake (h : FormOnly s u) (k : Nat) : FormOnly s (ringTake k u).2 := by
  unfold Machine.ringTake
  dsimp only
  split
  · exact h
  · dsimp only
    exact (h.deviceUe _ _).onBpm fun _ => rfl

theorem cacheFill (k n : Nat) : ∀ (m : Nat) {u : State}, FormOnly s u → FormOnly s (cacheFill k n m u)
  | 0, _, h => h
  | m + 1, u, h => by
    have htaken := h.ringTake k
    unfold Machine.cacheFill
    split
    · split
      · next heq =>
        rw [heq] at htaken
        exact cacheFill k n m (htaken.onBpm fun _ => rfl)
      · next heq =>
        rw [heq] at htaken
        exact htaken
    · exact h

theorem cacheSpill (h : FormOnly s u) (k n : Nat) : FormOnly s (cacheSpill k n u) := by
  unfold Machine.cacheSpill
  exact (h.foldl _ fun _ b hv => hv.ringPut k b).onBpm fun _ => rfl

theorem listWalk : ∀ (n b : Nat) {u : State}, FormOnly s u → FormOnly s (listWalk n b u).2
  | 0, _, _, h => h
  | n + 1, b, u, h => by
    unfold Machine.listWalk
    split
    · exact h
    · exact listWalk n _ (h.deviceUe _ _)

theorem ringWalk (k : Nat) : ∀ (n : Nat) {u : State}, FormOnly s u → FormOnly s (ringWalk k n u).2
  | 0, _, h => h
  | n + 1, _, h => ringWalk k n (h.ringTake k)

theorem poolToRing (h : FormOnly s u) (k : Nat) : FormOnly s (poolToRing k u) :=
  cacheFill k 448 448 (((listWalk _ _ h).onBpm fun _ => rfl).foldl _ fun _ b hv => hv.ringPut k b)

theorem poolToList (h : FormOnly s u) (k : Nat) : FormOnly s (poolToList k u) :=
  (ringWalk k _ (h.cacheSpill k 0)).foldl _ fun _ b hv => hv.listPush b

end FormOnly

/-- The enabled pools, each in its other form. -/
def poolsConverted (toRing : Bool) (s : State) : State :=
  (List.range 5).foldl (fun s k =>
    if poolCount (pools s) k = 0 then s else if toRing then poolToRing k s else poolToList k s) s

theorem poolsConverted_formOnly (toRing : Bool) (s : State) : FormOnly s (poolsConverted toRing s) := by
  refine (FormOnly.refl s).foldl _ fun v k hv => ?_
  split
  · exact hv
  · split
    · exact hv.poolToRing k
    · exact hv.poolToList k

theorem poolsConverted_canonical (toRing : Bool) {s : State} (hs : SmWf regReset s.regs) :
    SmWf regReset (poolsConverted toRing s).regs := by
  have hkept : Kept (fun _ _ => True) s (poolsConverted toRing s) := by
    refine Kept.foldl _ (fun v k hv => ?_) (Kept.refl (K := fun _ _ => True) trivial)
    split
    · exact hv
    · split
      · exact poolToRing_kept k hv
      · exact poolToList_kept k hv
  exact hkept.regs hs

/-- MODE once the pools have changed their form. -/
def otherForm (s : State) : Nat := if bpmMode s == bmList then bmRing else bmList

/-- The pools converted and BPM_STATUS set, before the end of the switch is reported. -/
def switched (s : State) : State :=
  wf A.bpmStatus 2 2 0 (wf A.bpmStatus 1 0 (otherForm s) (poolsConverted (bpmMode s == bmList) s))

/-- The returns that a switch of form held, applied. -/
def applyHeld (s : State) : State :=
  s.fab.bpm.returns.foldl (fun s r => applyReturn r.1 r.2 s) (onBpm (fun b => { b with returns := [] }) s)

/-- The returns that found the return buffer full, returned again. -/
def resumeStalled (s : State) : State :=
  s.fab.bpm.stalled.foldl (fun s r => bpmReturn r.1 r.2 s) (onBpm (fun b => { b with stalled := [] }) s)

/-- The event of the end of a switch of form. -/
def switchReported (s : State) : State := raiseEvent { code := 0x0602, unit := bpmUnit, detail := bpmMode s } s

section SwitchEnd
variable {s : State}

theorem FormOnly.switchReported {u : State} (h : FormOnly s u) : FormOnly s (switchReported u) := h.raiseEvent _

theorem switched_formOnly (s : State) : FormOnly s (switched s) := ((poolsConverted_formOnly _ s).wf _ _ _ _).wf _ _ _ _

/-- Without a held return, none is applied. -/
theorem applyHeld_none (h : s.fab.bpm.returns = []) : applyHeld s = s := by
  unfold applyHeld onBpm onFab
  rw [h, List.foldl_nil, ← h]

/-- Without a stalled engine, none goes on. -/
theorem resumeStalled_none (h : s.fab.bpm.stalled = []) : resumeStalled s = s := by
  unfold resumeStalled onBpm onFab
  rw [h, List.foldl_nil, ← h]

/-- BPM_SWITCH_END converts the pools, sets MODE, applies the held returns, reports, and lets the stalled engines go on. -/
theorem exec_bpmSwitchEnd_switching (hsw : bpmSwitching s = true) : exec .bpmSwitchEnd s = .next (resumeStalled (switchReported
    (wf A.bpmStatus 2 2 0 (applyHeld (wf A.bpmStatus 1 0 (otherForm s) (poolsConverted (bpmMode s == bmList) s)))))) := by
  show execBpmSwitchEnd s = _
  unfold execBpmSwitchEnd resumeStalled switchReported applyHeld otherForm poolsConverted
  rw [if_pos hsw]

/-- A switch of form that held no return and stalled no engine ends in its conversion and its event. -/
theorem exec_bpmSwitchEnd_noReturns (hsw : bpmSwitching s = true) (hret : s.fab.bpm.returns = []) (hst : s.fab.bpm.stalled = []) :
    exec .bpmSwitchEnd s = .next (switchReported (switched s)) := by
  have hret' : (wf A.bpmStatus 1 0 (otherForm s) (poolsConverted (bpmMode s == bmList) s)).fab.bpm.returns = [] := by
    rw [((poolsConverted_formOnly _ s).wf _ _ _ _).frame]
    exact hret
  have hst' : (switchReported (switched s)).fab.bpm.stalled = [] := by
    rw [switchReported, raiseEvent_fab, (switched_formOnly s).frame]
    exact hst
  rw [exec_bpmSwitchEnd_switching hsw, applyHeld_none hret', ← switched, resumeStalled_none hst']

variable (hs : SmWf regReset s.regs)
include hs

theorem rd_switchReported : rd (switchReported (switched s)) A.bpmStatus = rd (switched s) A.bpmStatus :=
  rd_raiseEvent_other _ _ _ (wf_canonical _ _ _ _ (wf_canonical _ _ _ _ (poolsConverted_canonical _ hs))) (.inl (by decide))

theorem bpmSwitching_switched : bpmSwitching (switched s) = false :=
  rbit_wf_same _ 0 (wf_canonical _ _ _ _ (poolsConverted_canonical _ hs)) (by decide)

theorem bpmMode_switched : bpmMode (switched s) = otherForm s := by
  have hconv := poolsConverted_canonical (bpmMode s == bmList) hs
  have hlt : otherForm s < 2 ^ 2 := by
    unfold otherForm
    split <;> decide
  unfold bpmMode switched
  rw [rf_wf_below _ _ (wf_canonical _ _ _ _ hconv) (by decide) (by decide) (by decide) (by decide),
    rf_wf_same _ _ _ _ _ hconv (by decide) (by decide)]
  exact Nat.mod_eq_of_lt hlt

end SwitchEnd

/-! ### The statement of 06's pools -/

/-- Settles O22, command by command: a request by what its pool answers, a return by its checks and by whether a switch of form is
under way, the writes that form and switch the pools, and the end of a switch. -/
theorem poolManagerCommands : Obligations.PoolManagerCommands := by
  unfold Obligations.PoolManagerCommands
  intro s x c p
  refine ⟨fun n h u h0 hmax hu => ?served, fun n u h0 hmax hu => ?waits, fun k w h u hw hcan hu => ?grants,
    fun h hok => ⟨fun hsw => ?applied, fun hsw hroom hgood => ?held⟩, fun h hsw hfull => ?stalled,
    fun h r hbad hsw hgood => ?refused, fun w hp hh hm hsect hok => ?forms, fun hp hh hsw hm => ?toRing,
    fun hp hh hsw hm => ?toList, fun hsw hret hst hs => ?switchEnd⟩
  case served =>
    rw [exec_bpmRequest_legal h0 hmax, bpmRequest_served hu]
    rfl
  case waits =>
    rw [exec_bpmRequest_legal h0 hmax, bpmRequest_waits hu]
    rfl
  case grants =>
    have hgrant := exec_bpmWaitingServed_grants hw hcan hu
    exact ⟨fun hr hpl => hgrant.trans (congrArg Host.Outcome.next (grantBuffer_requester hr hpl)),
      fun r t hr ht => hgrant.trans (congrArg Host.Outcome.next (grantBuffer_copy hr ht)),
      fun i q hr hpl hq hq1 hq2 => hgrant.trans (congrArg Host.Outcome.next (grantBuffer_service hr hpl hq hq1 hq2))⟩
  case applied => exact congrArg Host.Outcome.next (bpmReturn_applied hok hsw)
  case held => exact congrArg Host.Outcome.next (bpmReturn_held hok hsw hroom hgood)
  case stalled => exact congrArg Host.Outcome.next (bpmReturn_stalled hsw hfull)
  case refused => exact congrArg Host.Outcome.next (bpmReturn_refused hbad hsw hgood)
  case forms =>
    show execBpmMetaBaseWrite p w s = _
    rw [execBpmMetaBaseWrite, wrRow_ready hp, writeMetaBase_forms hh hm hsect hok]
  case toRing =>
    show execToRing p s = _
    rw [execToRing, wrRow_ready hp, writeBpmCtrl_switches hh hsw (.inl ⟨rfl, hm⟩)]
    rfl
  case toList =>
    show execToList p s = _
    rw [execToList, wrRow_ready hp, writeBpmCtrl_switches hh hsw (.inr ⟨rfl, hm⟩)]
    rfl
  case switchEnd =>
    have hend := (switched_formOnly s).switchReported
    refine ⟨_, exec_bpmSwitchEnd_noReturns hsw hret hst, ?_, ?_, ?_, ?_⟩
    · rw [hend.frame]
    · exact (rbit_congr (rd_switchReported hs) 2).trans (bpmSwitching_switched hs)
    · refine (rf_congr (rd_switchReported hs) 1 0).trans ((bpmMode_switched hs).trans ?_)
      simp only [otherForm, beq_iff_eq]
    · rw [hend.frame]

end Sys2Proof.Machine
end

section
/-! SUPPORT. Products of integers (07 R180): a sum in S32 cut into chunks, the terms that two integers make, and the row of C. -/

namespace Sys2Proof.Machine
open Sys2Proof

/-! ### Two's complement -/

theorem ofInt_cast (w : Nat) (v : Int) : (ofInt w v : Int) = v % (2 ^ w : Nat) :=
  Int.toNat_of_nonneg (Int.emod_nonneg _ (by positivity))

/-- A sum whose first part is already modulo 2^w. -/
theorem ofInt_ofInt_add (w : Nat) (u v : Int) : ofInt w ((ofInt w u : Int) + v) = ofInt w (u + v) := by
  rw [ofInt, ofInt_cast, Int.emod_add_emod, ofInt]

/-- A number in the range of S32 reads back as it is. -/
theorem toInt_ofInt_s32 {v : Int} (hlo : -2147483648 ≤ v) (hhi : v < 2147483648) : toInt 32 (ofInt 32 v) = v := by
  have hcast := ofInt_cast 32 v
  unfold toInt
  split <;> omega

/-! ### Terms -/

/-- Two integers make the term that is their product. -/
theorem units_mulVal_ofInt (x y : Int) : Val.units 0 (mulVal (Val.ofInt x) (Val.ofInt y)) = x * y := by
  have hprod : Val.units 0 (mulVal (Val.ofInt x) (Val.ofInt y)) =
      if (decide (x < 0) != decide (y < 0)) then -(|x| * |y|) else |x| * |y| := by
    simp [Val.ofInt, mulVal, Val.units, scaleNat]
  rw [hprod]
  by_cases hx : x < 0 <;> by_cases hy : y < 0
  · simp [hx, hy, abs_of_neg]
  · simp [hx, hy, abs_of_neg, abs_of_nonneg (not_lt.mp hy)]
  · simp [hx, hy, abs_of_neg, abs_of_nonneg (not_lt.mp hx)]
  · simp [hx, hy, abs_of_nonneg (not_lt.mp hx), abs_of_nonneg (not_lt.mp hy)]

/-- The terms of a row of pairs of integers. -/
def intTerms (l : List (Int × Int)) : List Val := l.map fun x => mulVal (Val.ofInt x.1) (Val.ofInt x.2)

theorem intTerms_units (l : List (Int × Int)) : (intTerms l).map (Val.units 0) = l.map fun x => x.1 * x.2 := by
  rw [intTerms, List.map_map]
  exact List.map_congr_left fun x _ => units_mulVal_ofInt x.1 x.2

theorem intTerms_perm {l m : List (Int × Int)} (h : l.Perm m) : (intTerms l).Perm (intTerms m) := h.map _

/-! ### Chunks -/

/-- The pieces that a list is cut into are the list. -/
theorem flatten_chop {α : Type} {n : Nat} (hn : 0 < n) : ∀ (k : Nat) (l : List α), l.length < k → (chop n k l).flatten = l
  | k + 1, [], _ => rfl
  | k + 1, x :: l, h => by
    have hdrop : ((x :: l).drop n).length < k := by
      rw [List.length_drop]
      simp only [List.length_cons] at h ⊢
      omega
    rw [chop, List.flatten_cons, flatten_chop hn k _ hdrop, List.take_append_drop]
    exact List.cons_ne_nil x l

/-- Two chunks of integers are added as one. -/
theorem addChunk_append (acc : Option Nat) (ts us : List Val) :
    addChunk true (addChunk true acc ts) us = addChunk true acc (ts ++ us) := by
  rcases eq_or_ne ts [] with rfl | ht
  · rfl
  rcases eq_or_ne us [] with rfl | hu
  · rw [List.append_nil]
    rfl
  · simp only [addChunk, ht, hu, List.append_eq_nil_iff, and_false, if_false, if_true, Option.getD_some, ofInt_ofInt_add,
      List.map_append, List.sum_append, Int.add_assoc]

/-- Chunk after chunk, what is added is all of their terms. -/
theorem foldl_addChunk {α : Type} (f : α → List Val) : ∀ (cs : List (List α)) (acc : Option Nat),
    cs.foldl (fun acc ks => addChunk true acc (ks.flatMap f)) acc = addChunk true acc (cs.flatten.flatMap f)
  | [], acc => rfl
  | c :: cs, acc => by
    rw [List.foldl_cons, foldl_addChunk f cs, addChunk_append, List.flatten_cons, List.flatMap_append]

/-- The order of the terms does not matter. -/
theorem addChunk_perm (acc : Option Nat) {ts us : List Val} (h : ts.Perm us) : addChunk true acc ts = addChunk true acc us := by
  unfold addChunk
  rw [(h.map (Val.units 0)).sum_eq]
  exact if_congr ⟨fun e => (e ▸ h).nil_eq.symm, fun e => (e ▸ h).eq_nil⟩ rfl rfl

/-- However long its chunks are, a row of pairs of integers adds all its terms (07 R180). -/
theorem dotRow_integers (pass : Nat) {kc : Nat} (hkc : 0 < kc) (acc : Option Nat) (l : List (Int × Int)) :
    dotRow true false pass kc acc (l.map fun x => some (Val.ofInt x.1)) (l.map fun x => some (Val.ofInt x.2)) =
      addChunk true acc (intTerms l) := by
  unfold dotRow
  rw [foldl_addChunk, flatten_chop hkc _ _ (by simp), List.zip_map', List.flatMap_map, intTerms, List.map_eq_flatMap]
  rfl

/-- Where there is a term, the accumulator then holds the sum (07 R180). -/
theorem addChunk_intTerms (acc : Option Nat) {l : List (Int × Int)} (hl : l ≠ []) :
    addChunk true acc (intTerms l) = some (ofInt 32 ((acc.getD 0 : Nat) + (l.map fun x => x.1 * x.2).sum)) := by
  have hne : intTerms l ≠ [] := List.map_eq_nil_iff.not.mpr hl
  rw [addChunk, if_neg hne, if_pos rfl, intTerms_units]

/-! ### The row of C -/

/-- A conversion of an integer to S32 produces no NaN (07 R193). -/
theorem convert_s32_cause (v : Int) (r : Rnd) (ovf : Bool) : (convert fcS32 (Val.ofInt v) r ovf).2 = none := rfl

/-- A row of integers converted to S32 reports no element. -/
theorem convertRow_s32_prods (numctl job tid seed idx : Nat) {vs : List Val} (h : ∀ v ∈ vs, ∃ i, v = Val.ofInt i) :
    (convertRow fcS32 numctl job tid seed idx vs).2.2 = [] := by
  refine List.filterMap_eq_nil_iff.mpr fun y hy => ?_
  obtain ⟨z, hz, hzy⟩ := List.mem_map.mp (List.fst_mem_of_mem_zipIdx hy)
  obtain ⟨i, hi⟩ := h z.1 (List.fst_mem_of_mem_zipIdx hz)
  rw [← hzy, hi, convert_s32_cause, Option.map_none]

/-- A row of a product of integers reports no element (07 R180). -/
theorem mmRow_integers_prods (s : State) (p : Nat) (r : RunCmd) (cols : List OpRow) (i : Nat) (a : OpRow) {kc : Nat}
    (hpair : pairOf (zrCode (cmFa r.bytes)) (zrCode (cmFb r.bytes)) = some (kc, true)) (hc : zrCode (cmFc r.bytes) = fcS32) :
    (mmRow s p r cols i a).prods = [] := by
  unfold mmRow
  simp only [hpair, hc, Option.getD_some, Bool.not_true, Bool.false_and, Bool.false_eq_true, if_false, if_true]
  rw [convertRow_s32_prods, List.filterMap_eq_nil_iff.mpr fun _ _ => rfl]
  · rfl
  · intro v hv
    obtain ⟨x, -, hx⟩ := List.mem_map.mp hv
    exact ⟨_, hx.symm⟩

/-! ### The statement of 07 -/

/-- Settles O54: however it is cut, a row of integers adds all its terms, whose sum is modulo 2^32 and has no order; and neither
the sum nor the conversion to S32 produces a NaN. -/
theorem integerProductsAreExact : Obligations.IntegerProductsAreExact := by
  unfold Obligations.IntegerProductsAreExact
  refine ⟨fun pass kc acc xs ys hkc hne hlen => ?exact, fun v => toInt_ofInt_s32, fun pass kc kc' acc l m hkc hkc' hperm => ?order,
    fun s p r cols i kc a hpair hc => mmRow_integers_prods s p r cols i a hpair hc⟩
  case exact =>
    obtain ⟨l, rfl, rfl⟩ : ∃ l : List (Int × Int), l.map Prod.fst = xs ∧ l.map Prod.snd = ys :=
      ⟨xs.zip ys, List.map_fst_zip (le_of_eq hlen), List.map_snd_zip (le_of_eq hlen.symm)⟩
    rw [List.map_map, List.map_map, List.zipWith_map, List.zipWith_self]
    exact (dotRow_integers pass hkc acc l).trans (addChunk_intTerms acc (List.map_eq_nil_iff.not.mp hne))
  case order => rw [dotRow_integers pass hkc, dotRow_integers pass hkc', addChunk_perm acc (intTerms_perm hperm)]

end Sys2Proof.Machine
end

section
/-! SUPPORT. The debug unit (07 R203; 12 R325, R330-R336; 18 R456): writes of flag counters and of breaks, the start of a trace
session, and the clearing of a context's NaN record. -/

namespace Sys2Proof.Machine
open Sys2Proof

/-! ### Registers set to zero -/

/-- Registers set to zero one after the other read zero, and every other register reads as before. -/
theorem rd_foldl_wn_zero {b : Nat} : ∀ (l : List Nat) {s : State}, SmWf regReset s.regs →
    rd (l.foldl (fun s a => wn a 0 s) s) b = if b ∈ l then 0 else rd s b
  | [], _, _ => rfl
  | a :: l, s, hs => by
    rw [List.foldl_cons, rd_foldl_wn_zero l (wn_canonical a 0 hs)]
    by_cases hl : b ∈ l
    · rw [if_pos hl, if_pos (List.mem_cons_of_mem a hl)]
    · by_cases hb : b = a
      · subst hb
        rw [if_neg hl, if_pos List.mem_cons_self]
        exact rd_wr_same b _ s hs
      · rw [if_neg hl, if_neg (List.not_mem_cons_of_ne_of_not_mem hb hl), rd_wn_other 0 hs hb]

theorem foldl_wn_zero_frame : ∀ (l : List Nat) (s : State),
    l.foldl (fun s a => wn a 0 s) s = { s with regs := (l.foldl (fun s a => wn a 0 s) s).regs }
  | [], _ => rfl
  | a :: l, s => by
    rw [List.foldl_cons, foldl_wn_zero_frame l (wn a 0 s)]
    rfl

/-- A register pair set to zero. -/
theorem rn64_wn64_zero (a : Nat) {s : State} (hs : SmWf regReset s.regs) : rn64 (wn64 a 0 s) a = 0 := by
  have hlow : rn (wn64 a 0 s) a = 0 := by
    rw [wn64, rn, rd_wn_other _ (wn_canonical a 0 hs) (by omega)]
    exact rn_wn_same a hs (by decide)
  have hhigh : rn (wn64 a 0 s) (a + 4) = 0 := rn_wn_same (a + 4) (wn_canonical a 0 hs) (by decide)
  rw [rn64, hlow, hhigh, Nat.mul_zero]

theorem rn64_congr {s t : State} {a : Nat} (hlow : rd t a = rd s a) (hhigh : rd t (a + 4) = rd s (a + 4)) :
    rn64 t a = rn64 s a := by
  rw [rn64, rn, rn, hlow, hhigh, rn64, rn, rn]

/-- The lowest bit of a register is that of the field [1:0]. -/
theorem rf_lowest (s : State) (a : Nat) : rf s a 0 0 = rf s a 1 0 % 2 := by
  simp only [rf, fget, bits]
  omega

/-! ### NaN records (07 R203) -/

/-- The registers of a context's NaN record and its count. -/
def nanWords (x : Nat) : List Nat :=
  [A.ctxNanStatus x, A.ctxNanTag x, A.ctxNanUnit x, A.ctxNanIdx x 0, A.ctxNanIdx x 1, A.ctxNanCount x]

theorem nanClear_frame (x : Nat) (s : State) : nanClear x s = { s with regs := (nanClear x s).regs } :=
  foldl_wn_zero_frame (nanWords x) s

/-- CLEAR sets the record and the count to zero, and no other register. -/
theorem rd_nanClear (x : Nat) {s : State} (hs : SmWf regReset s.regs) (b : Nat) :
    rd (nanClear x s) b = if b ∈ nanWords x then 0 else rd s b :=
  rd_foldl_wn_zero (nanWords x) hs

theorem rn_nanClear_cleared {x b : Nat} {s : State} (hs : SmWf regReset s.regs) (hb : b ∈ nanWords x) :
    rn (nanClear x s) b = 0 := by
  rw [rn, rd_nanClear x hs, if_pos hb]
  rfl

theorem rn_nanClear_other {x b : Nat} {s : State} (hs : SmWf regReset s.regs) (hb : b ∉ nanWords x) :
    rn (nanClear x s) b = rn s b := by
  rw [rn, rd_nanClear x hs, if_neg hb, rn]

/-- The record of a context is the words from its status to its count. -/
theorem mem_nanWords_range {x b : Nat} (h : b ∈ nanWords x) : A.ctxNanStatus x ≤ b ∧ b ≤ A.ctxNanCount x := by
  simp only [nanWords, List.mem_cons, List.not_mem_nil, or_false, A.ctxNanStatus, A.ctxNanTag, A.ctxNanUnit, A.ctxNanIdx,
    A.ctxNanCount] at h ⊢
  omega

theorem ctxNanCtrl_not_mem_nanWords (x : Nat) : A.ctxNanCtrl x ∉ nanWords x := fun h => by
  have hrange := mem_nanWords_range h
  simp only [A.ctxNanCtrl, A.ctxNanStatus] at hrange
  omega

theorem ctxNanStatus_not_mem_nanWords {x y : Nat} (h : y ≠ x) : A.ctxNanStatus y ∉ nanWords x := fun hmem => by
  have hrange := mem_nanWords_range hmem
  simp only [A.ctxNanStatus, A.ctxNanCount] at hrange
  omega

/-! ### Writes of the holder (12 R325, R334, R335) -/

section Holder
variable {s : State} {p : GPort}

theorem writePierFlag_held {q k : Nat} (w : Word) (hh : holds s p (dieOf (A.pierFlag q k)) = true) :
    writePierFlag p q k w s = (wf (A.pierFlag q k) 7 0 (fget w 7 0) s, stOk) := by
  rw [writePierFlag, hh]
  rfl

/-- A write of RESUME or STEP to a pier that is broken. -/
theorem writeBrkCtrl_broken {q : Nat} {w : Word} (hh : holds s p (dieOf (A.pierBrkCtrl q)) = true)
    (hb : rbit s (A.pierBrkStatus q) 31 = true) (hop : fget w 3 0 = 1 ∨ fget w 3 0 = 2) :
    writeBrkCtrl p q w s = (resumePier q (fget w 3 0 == 2) (wf (A.pierBrkCtrl q) 3 0 (fget w 3 0) s), stOk) := by
  rw [writeBrkCtrl, hh, hb]
  rcases hop with hop | hop <;> rw [hop] <;> rfl

/-- A write to a pier that is not broken. -/
theorem writeBrkCtrl_unbroken {q : Nat} (w : Word) (hh : holds s p (dieOf (A.pierBrkCtrl q)) = true)
    (hb : rbit s (A.pierBrkStatus q) 31 = false) : writeBrkCtrl p q w s = (s, stIgnored) := by
  rw [writeBrkCtrl, hh, hb]
  rfl

/-- A trace session is set up by the write w: its enable, its ring and its size. -/
def traceSetUp (i : Nat) (w : Word) (s : State) : State :=
  wf (A.trcEn i) 12 8 (fget w 12 8) (wf (A.trcEn i) 1 0 (fget w 1 0) s)

/-- A write of EN with a size that a ring can have. -/
theorem writeTrcEn_starts {i : Nat} {w : Word} (hh : holds s p (dieOf (A.trcEn i)) = true) (hon : fget w 0 0 = 1)
    (hlo : 8 ≤ fget w 12 8) (hhi : fget w 12 8 ≤ 26) : writeTrcEn p i w s = (startTrace i (traceSetUp i w s), stOk) := by
  have hsize : ¬ (fget w 0 0 = 1 ∧ (fget w 12 8 < 8 ∨ 26 < fget w 12 8)) := by omega
  unfold writeTrcEn
  simp only [hh, Bool.not_true, Bool.false_eq_true, if_false, if_neg hsize, if_pos hon]
  rfl

end Holder

theorem dieOf_trcEn (i : Fin 16) : dieOf (A.trcEn i) = 0 := by
  revert i
  decide

/-! ### A trace session that starts (12 R335) -/

section Session
variable (i : Nat) (w : Word) {s : State}

/-- The registers of a session as it starts: FULL, WPTR and DROPPED are clear. -/
def traceCleared (i : Nat) (s : State) : State :=
  wn (A.trcDropped i) 0 (wn64 (A.trcWptr i 0) 0 (wf (A.trcEn i) 2 2 0 s))

theorem startTrace_regs (s : State) : (startTrace i s).regs = (traceCleared i s).regs := rfl

theorem rd_startTrace (s : State) (b : Nat) : rd (startTrace i s) b = rd (traceCleared i s) b := by
  rw [rd, startTrace_regs, rd]

theorem startTrace_frame (s : State) : startTrace i s =
    { s with regs := (startTrace i s).regs, trc := s.trc.filter fun r => r.1 != i } := rfl

variable (hs : SmWf regReset s.regs)
include hs

theorem traceSetUp_canonical : SmWf regReset (traceSetUp i w s).regs := wf_canonical _ _ _ _ (wf_canonical _ _ _ _ hs)

/-- EN and the size are those of the write. -/
theorem traceSetUp_fields : rf (traceSetUp i w s) (A.trcEn i) 1 0 = fget w 1 0 ∧
    rf (traceSetUp i w s) (A.trcEn i) 12 8 = fget w 12 8 := by
  unfold traceSetUp
  have hset := wf_canonical (A.trcEn i) 1 0 (fget w 1 0) hs
  rw [rf_wf_below _ _ hset (by decide) (by decide) (by decide) (by decide), rf_wf_same _ _ _ _ _ hs (by decide) (by decide),
    rf_wf_same _ _ _ _ _ hset (by decide) (by decide)]
  exact ⟨Nat.mod_mod _ _, Nat.mod_mod _ _⟩

/-- A session that starts keeps its enable word but for FULL, which is clear. -/
theorem rd_startTrace_trcEn : rd (startTrace i s) (A.trcEn i) = rd (wf (A.trcEn i) 2 2 0 s) (A.trcEn i) := by
  have hwf := wf_canonical (A.trcEn i) 2 2 0 hs
  have hne : A.trcEn i ≠ A.trcDropped i ∧ A.trcEn i ≠ A.trcWptr i 0 ∧ A.trcEn i ≠ A.trcWptr i 0 + 4 := by
    simp only [A.trcEn, A.trcDropped, A.trcWptr]
    omega
  obtain ⟨hdropped, hlow, hhigh⟩ := hne
  rw [rd_startTrace, traceCleared, rd_wn_other 0 (wn64_canonical (A.trcWptr i 0) 0 hwf) hdropped, rd_wn64_other 0 hwf hlow hhigh]

theorem rn64_startTrace_trcWptr : rn64 (startTrace i s) (A.trcWptr i 0) = 0 := by
  have hwf := wf_canonical (A.trcEn i) 2 2 0 hs
  have hne : A.trcWptr i 0 ≠ A.trcDropped i ∧ A.trcWptr i 0 + 4 ≠ A.trcDropped i := by
    simp only [A.trcDropped, A.trcWptr]
    omega
  have hkeep {b : Nat} (hb : b ≠ A.trcDropped i) :
      rd (startTrace i s) b = rd (wn64 (A.trcWptr i 0) 0 (wf (A.trcEn i) 2 2 0 s)) b := by
    rw [rd_startTrace, traceCleared, rd_wn_other 0 (wn64_canonical (A.trcWptr i 0) 0 hwf) hb]
  rw [rn64_congr (hkeep hne.1) (hkeep hne.2), rn64_wn64_zero _ hwf]

theorem rn_startTrace_trcDropped : rn (startTrace i s) (A.trcDropped i) = 0 := by
  have hwf := wf_canonical (A.trcEn i) 2 2 0 hs
  rw [rn, rd_startTrace, traceCleared]
  exact rn_wn_same (A.trcDropped i) (wn64_canonical (A.trcWptr i 0) 0 hwf) (by decide)

/-- A session that the write w starts is enabled, with w's size, and not full. -/
theorem startTrace_traceSetUp_fields (hon : fget w 0 0 = 1) :
    rbit (startTrace i (traceSetUp i w s)) (A.trcEn i) 0 = true ∧
    rf (startTrace i (traceSetUp i w s)) (A.trcEn i) 12 8 = fget w 12 8 ∧
    rbit (startTrace i (traceSetUp i w s)) (A.trcEn i) 2 = false := by
  have hset := traceSetUp_canonical i w hs
  obtain ⟨hen, hsize⟩ := traceSetUp_fields i w hs
  have hword := rd_startTrace_trcEn i hset
  have hbit : fget w 1 0 % 2 = 1 := by
    simp only [fget, bits] at hon ⊢
    omega
  refine ⟨?_, ?_, ?_⟩
  · rw [rbit_congr hword, rbit_wf_below _ _ hset (by decide) (by decide) (by decide), rbit, rf_lowest, hen, hbit]
    rfl
  · rw [rf_congr hword, rf_wf_above _ _ hset (by decide) (by decide) (by decide), hsize]
  · rw [rbit_congr hword, rbit_wf_same _ _ hset (by decide)]
    rfl

end Session

/-! ### Commands -/

/-- TIGHTROPE for a pier that is stuck, whose monitor is on and has not fired. -/
theorem exec_tightrope_stuck {s : State} {q : PierNo} {x : Nat} (hres : (getPier s q).resident = some x)
    (hon : rbit s (A.pierTrCfg q) 31 = true) (hfired : rbit s (A.pierTrStatus q) 31 = false) (hstuck : pierStuck s q x = true) :
    exec (.tightrope q) s = .next (fireTightrope q x s) := by
  show execTightrope q s = _
  unfold execTightrope
  rw [hres]
  dsimp only
  rw [hon, hfired, hstuck]
  rfl

section Trace
variable {s : State} {i : Fin 16} {b : List Byte} (cycles : Nat)
  (hfind : (s.trc.find? fun r => r.1 == i.val) = some (i.val, b))
include hfind

/-- The oldest record of a session that has stopped. -/
theorem exec_traceRecordWrite_stopped (hoff : rbit s (A.trcEn i) 0 = false) : exec (.traceRecordWrite i cycles) s =
    .next (traceDrop i { s with trc := s.trc.erase (i.val, b) }) := by
  have hstop : (!rbit { s with trc := s.trc.erase (i.val, b) } (A.trcEn i) 0) = true := congrArg not hoff
  show execTraceRecordWrite i cycles s = _
  unfold execTraceRecordWrite
  rw [hfind]
  dsimp only
  rw [hstop]
  rfl

/-- The oldest record of a session that runs, within its budget. -/
theorem exec_traceRecordWrite_running (hon : rbit s (A.trcEn i) 0 = true)
    (hbudget : tstSpent s actTelemetry (8 + le b 0x0A 1 / 16) = false) : exec (.traceRecordWrite i cycles) s =
      .next (writeTrace i b (tstCharge actTelemetry (8 + le b 0x0A 1 / 16) cycles { s with trc := s.trc.erase (i.val, b) })) := by
  have hrun : (!rbit { s with trc := s.trc.erase (i.val, b) } (A.trcEn i) 0) = false := congrArg not hon
  have hleft : tstSpent { s with trc := s.trc.erase (i.val, b) } actTelemetry (8 + le b 0x0A 1 / 16) = false := hbudget
  show execTraceRecordWrite i cycles s = _
  unfold execTraceRecordWrite
  rw [hfind]
  dsimp only
  rw [hrun, hleft]
  rfl

end Trace

/-! ### The statement of the debug unit -/

/-- Settles O38, command by command: each write of the holder, the monitor, a trace session that starts and its oldest record, and
what CLEAR and RESUME leave. -/
theorem debugCommands : Obligations.DebugCommands := by
  unfold Obligations.DebugCommands
  intro s p
  refine ⟨fun q k w hp hh => ?flag, fun q hp hh hb => ⟨?resume, ?step⟩, fun q hp hh hb => ⟨?notResumed, ?notStepped⟩,
    fun q x hres hon hfired hstuck => exec_tightrope_stuck hres hon hfired hstuck, fun i w hp hholder hon hlo hhi hs => ?enable,
    fun i cycles b hfind => ⟨exec_traceRecordWrite_stopped cycles hfind, exec_traceRecordWrite_running cycles hfind⟩,
    fun x hs => ?clear, fun x hp => ?goesOn⟩
  case flag =>
    show execPierFlagWrite p q k w s = _
    rw [execPierFlagWrite, wrRow_ready hp, writePierFlag_held w hh]
  case resume =>
    show execBreakResume p q s = _
    rw [execBreakResume, wrRow_ready hp, writeBrkCtrl_broken hh hb (.inl rfl)]
    rfl
  case step =>
    show execBreakStep p q s = _
    rw [execBreakStep, wrRow_ready hp, writeBrkCtrl_broken hh hb (.inr rfl)]
    rfl
  case notResumed =>
    show execBreakResume p q s = _
    rw [execBreakResume, wrRow_ready hp, writeBrkCtrl_unbroken _ hh hb]
  case notStepped =>
    show execBreakStep p q s = _
    rw [execBreakStep, wrRow_ready hp, writeBrkCtrl_unbroken _ hh hb]
  case enable =>
    have hh : holds s p (dieOf (A.trcEn i)) = true := by rw [dieOf_trcEn, holds_die0, decide_eq_true hholder]
    have hset := traceSetUp_canonical i w hs
    obtain ⟨hen, hsize, hfull⟩ := startTrace_traceSetUp_fields i w hs hon
    refine ⟨startTrace i (traceSetUp i w s), ?_, startTrace_frame i _, hen, hsize, rn64_startTrace_trcWptr i hset,
      rn_startTrace_trcDropped i hset, hfull⟩
    show execTraceEnable p i w s = _
    rw [execTraceEnable, wrRow_ready hp, writeTrcEn_starts hh hon hlo hhi]
  case clear =>
    exact ⟨nanClear x s, rfl, nanClear_frame x s, rn_nanClear_cleared hs (by simp [nanWords]), rn_nanClear_cleared hs (by simp [nanWords]),
      rn_nanClear_other hs (ctxNanCtrl_not_mem_nanWords x),
      fun y hy => rn_nanClear_other hs (ctxNanStatus_not_mem_nanWords (Fin.val_ne_of_ne hy))⟩
  case goesOn =>
    show execCtxResume p x s = _
    rw [execCtxResume, wrRow_ready hp, resumeCtx]

end Sys2Proof.Machine
end

section
/-! SUPPORT. Blocks of anchored elements on the wire (08 R219, R220): fields packed and read, what a width code and a shift carry, and
a block read back. -/

namespace Sys2Proof.Machine
open Sys2Proof

/-! ### Bytes, most significant first -/

@[simp] theorem beBytes_length (n v : Nat) : (beBytes n v).length = n := by rw [beBytes, List.length_reverse, leBytes_length]

theorem ofBe_beBytes (n v : Nat) : ofBe (beBytes n v) = v % 256 ^ n := by rw [ofBe, beBytes, List.reverse_reverse, ofLe_leBytes]

/-- The number that a run of bytes inside a list spells. -/
theorem be_middle {l m r : List Byte} {o n : Nat} (hl : l.length = o) (hm : m.length = n) : be (l ++ (m ++ r)) o n = ofBe m := by
  have hfit : o + n ≤ (l ++ (m ++ r)).length := by simp only [List.length_append]; omega
  rw [be, slice_inside hfit, ← hl, List.drop_left, ← hm, List.take_left]

/-! ### Two's complement -/

/-- Only the low w bits of a number count. -/
theorem toInt_mod (w v : Nat) : toInt w (v % 2 ^ w) = toInt w v := by rw [toInt, Nat.mod_mod, toInt]

/-- A number in the range of w bits reads back as it is. -/
theorem toInt_ofInt {w : Nat} (hw : 0 < w) {v : Int} (hlo : -(2 ^ (w - 1) : Int) ≤ v) (hhi : v < (2 ^ (w - 1) : Int)) :
    toInt w (ofInt w v) = v := by
  have hpow : 2 ^ w = 2 * 2 ^ (w - 1) := by rw [← Nat.pow_succ', Nat.succ_eq_add_one, Nat.sub_add_cancel hw]
  have hcast := ofInt_cast w v
  have hhalf : (2 ^ (w - 1) : Int) = ((2 ^ (w - 1) : Nat) : Int) := by push_cast; rfl
  rw [hhalf] at hlo hhi
  unfold toInt
  rw [hpow] at hcast ⊢
  generalize 2 ^ (w - 1) = p at *
  have hlt : ofInt w v < 2 * p := by
    have := Int.emod_lt_of_pos v (b := ((2 * p : Nat) : Int)) (by omega)
    omega
  rw [Nat.mod_eq_of_lt hlt]
  by_cases hv : 0 ≤ v
  · rw [Int.emod_eq_of_lt hv (by omega)] at hcast
    rw [if_pos (by omega), hcast]
  · have hwrap : v % ((2 * p : Nat) : Int) = v + (2 * p : Nat) := by
      rw [← Int.add_emod_right, Int.emod_eq_of_lt (by omega) (by omega)]
    rw [hwrap] at hcast
    rw [if_neg (by omega), hcast]
    omega

/-! ### Fields of w bits -/

theorem packFields_concat (w : Nat) (fs : List Nat) (f : Nat) : packFields w (fs ++ [f]) = packFields w fs * 2 ^ w + f % 2 ^ w := by
  rw [packFields, List.foldl_append]
  rfl

/-- Fields fill their bits, and no more. -/
theorem packFields_lt (w : Nat) (fs : List Nat) : packFields w fs < 2 ^ (w * fs.length) := by
  induction fs using List.reverseRecOn with
  | nil => exact Nat.one_pos
  | append_singleton fs f ih =>
    have hf := Nat.mod_lt f (Nat.two_pow_pos w)
    rw [packFields_concat, List.length_append, List.length_singleton, Nat.mul_succ, Nat.pow_add]
    calc packFields w fs * 2 ^ w + f % 2 ^ w < (packFields w fs + 1) * 2 ^ w := by rw [Nat.succ_mul]; omega
      _ ≤ 2 ^ (w * fs.length) * 2 ^ w := Nat.mul_le_mul_right _ ih

/-- Field i of the fields that are packed, the first most significant. -/
theorem packFields_field (w : Nat) (fs : List Nat) (i : Nat) (hi : i < fs.length) :
    packFields w fs / 2 ^ (w * (fs.length - 1 - i)) % 2 ^ w = fs[i] % 2 ^ w := by
  induction fs using List.reverseRecOn with
  | nil => exact absurd hi (Nat.not_lt_zero i)
  | append_singleton fs f ih =>
    rw [List.length_append, List.length_singleton] at hi
    rw [packFields_concat, List.length_append, List.length_singleton, Nat.add_sub_cancel]
    by_cases hlast : i = fs.length
    · subst hlast
      rw [Nat.sub_self, Nat.mul_zero, Nat.pow_zero, Nat.div_one, List.getElem_concat_length rfl, Nat.mul_add_mod_self_right, Nat.mod_mod]
    · have hin : i < fs.length := by omega
      have hstep : w * (fs.length - i) = w + w * (fs.length - 1 - i) := by
        rw [show fs.length - i = fs.length - 1 - i + 1 by omega, Nat.mul_succ, Nat.add_comm]
      rw [hstep, Nat.pow_add, ← Nat.div_div_eq_div_mul, Nat.mul_comm _ (2 ^ w), Nat.mul_add_div (Nat.two_pow_pos w),
        Nat.div_eq_of_lt (Nat.mod_lt _ (Nat.two_pow_pos w)), Nat.add_zero, ih hin, List.getElem_append_left hin]

theorem packFields_map_field {α : Type} (w : Nat) (f : α → Nat) (l : List α) (i : Nat) (hi : i < l.length) :
    packFields w (l.map f) / 2 ^ (w * (l.length - 1 - i)) % 2 ^ w = f l[i] % 2 ^ w := by
  have hfield := packFields_field w (l.map f) i (by rwa [List.length_map])
  rw [List.getElem_map] at hfield
  simpa only [List.length_map] using hfield

/-! ### The planes of a block (08 R219) -/

theorem flags_lt (x : Anch) : x.flags < 16 := by
  unfold Anch.flags b2n
  split <;> split <;> split <;> split <;> decide

/-- An element's flags read back from the flag plane. -/
theorem bit_flags (x : Anch) :
    bit x.flags 3 = x.nan ∧ bit x.flags 2 = x.pinf ∧ bit x.flags 1 = x.ninf ∧ bit x.flags 0 = x.nz := by
  obtain ⟨v, nan, pinf, ninf, nz⟩ := x
  cases nan <;> cases pinf <;> cases ninf <;> cases nz <;> simp [Anch.flags, bit, b2n]

/-- Some element of a block has a flag: the block has a flag plane. -/
abbrev hasPlane (xs : List Anch) : Bool := xs.any fun x => x.flags != 0

/-- The flag plane of a block, as a number: 0 where it is left out. -/
def flagPlane (xs : List Anch) : Nat := if hasPlane xs then packFields 4 (xs.map Anch.flags) else 0

theorem hasPlane_eq_false {xs : List Anch} : hasPlane xs = false ↔ ∀ x ∈ xs, x.flags = 0 := by
  simp [hasPlane]

/-- With or without a plane, field i is the flags of element i. -/
theorem flagPlane_field {xs : List Anch} (hlen : xs.length = 32) (i : Nat) (hi : i < xs.length) :
    flagPlane xs / 2 ^ (4 * (31 - i)) % 16 = xs[i].flags := by
  unfold flagPlane
  cases hplane : hasPlane xs with
  | false => rw [hasPlane_eq_false.mp hplane _ (List.getElem_mem hi)]; simp
  | true =>
    have hfield := packFields_map_field 4 Anch.flags xs i hi
    rw [hlen] at hfield
    exact hfield.trans (Nat.mod_eq_of_lt (flags_lt _))

/-- V is carried by a field of w bits above shift zero bits. -/
def Carried (shift w : Nat) (v : Int) : Prop :=
  if w = 0 then v = 0
  else ((2 ^ shift : Nat) : Int) ∣ v ∧ -(2 ^ (w - 1) : Int) ≤ v / (2 ^ shift : Nat) ∧ v / (2 ^ shift : Nat) < (2 ^ (w - 1) : Int)

/-- The element fields of a block, as a number. -/
abbrev valuePlane (shift w : Nat) (xs : List Anch) : Nat := packFields w (xs.map fun x => ofInt w (x.v / (2 ^ shift : Nat)))

/-- Field i of the element fields is V of element i. -/
theorem valuePlane_field {xs : List Anch} (hlen : xs.length = 32) {shift w : Nat} (hv : ∀ x ∈ xs, Carried shift w x.v) (i : Nat)
    (hi : i < xs.length) :
    (if w = 0 then 0 else toInt w (valuePlane shift w xs / 2 ^ (w * (31 - i))) * (2 ^ shift : Nat)) = xs[i].v := by
  have hcar := hv _ (List.getElem_mem hi)
  unfold Carried at hcar
  split at hcar
  · next hw => rw [if_pos hw, hcar]
  · next hw =>
    obtain ⟨hdvd, hlo, hhi⟩ := hcar
    have hfield := packFields_map_field w (fun x => ofInt w (x.v / (2 ^ shift : Nat))) xs i hi
    rw [hlen] at hfield
    rw [if_neg hw, ← toInt_mod, hfield, toInt_mod, toInt_ofInt (Nat.pos_of_ne_zero hw) hlo hhi, Int.ediv_mul_cancel hdvd]

/-- Element i as the two planes of a block spell it. -/
def planeElem (shift w values flags i : Nat) : Anch :=
  let f := flags / 2 ^ (4 * (31 - i)) % 16
  { v := if w = 0 then 0 else toInt w (values / 2 ^ (w * (31 - i))) * (2 ^ shift : Nat)
    nan := bit f 3, pinf := bit f 2, ninf := bit f 1, nz := bit f 0 }

/-- The planes of a block spell its elements. -/
theorem map_planeElem {xs : List Anch} (hlen : xs.length = 32) {shift w : Nat} (hv : ∀ x ∈ xs, Carried shift w x.v) :
    (List.range 32).map (planeElem shift w (valuePlane shift w xs) (flagPlane xs)) = xs := by
  refine List.ext_getElem (by rw [List.length_map, List.length_range, hlen]) fun i _ hi => ?_
  rw [List.getElem_map, List.getElem_range]
  obtain ⟨hnan, hpinf, hninf, hnz⟩ := bit_flags xs[i]
  simp only [planeElem, flagPlane_field hlen i hi, valuePlane_field hlen hv i hi, hnan, hpinf, hninf, hnz]

/-! ### A block read back (08 R219) -/

/-- A block's header. -/
def blockHead (code shift : Nat) (xs : List Anch) : Nat := 2 ^ 13 * code + 2 ^ 7 * shift + 2 ^ 6 * b2n (hasPlane xs)

/-- The flag plane's bytes. -/
def planeBytes (xs : List Anch) : List Byte := if hasPlane xs then beBytes 16 (packFields 4 (xs.map Anch.flags)) else []

theorem blockBytes_eq (code shift w : Nat) (xs : List Anch) : blockBytes code shift w xs =
    beBytes 2 (blockHead code shift xs) ++ (beBytes (4 * w) (valuePlane shift w xs) ++ planeBytes xs) :=
  List.append_assoc _ _ _

theorem planeBytes_length (xs : List Anch) : (planeBytes xs).length = if hasPlane xs then 16 else 0 := by
  unfold planeBytes
  split <;> simp

theorem blockBytes_length (code shift w : Nat) (xs : List Anch) :
    (blockBytes code shift w xs).length = 2 + 4 * w + if hasPlane xs then 16 else 0 := by
  rw [blockBytes_eq, List.length_append, List.length_append, beBytes_length, beBytes_length, planeBytes_length, Nat.add_assoc]

/-- The fields of a header read back. -/
theorem blockHead_fields {code shift : Nat} (hc : code < 8) (hs : shift < 64) (xs : List Anch) :
    blockHead code shift xs < 2 ^ 16 ∧ blockHead code shift xs / 2 ^ 13 = code ∧ blockHead code shift xs / 2 ^ 7 % 64 = shift ∧
    bit (blockHead code shift xs) 6 = hasPlane xs ∧ blockHead code shift xs % 64 = 0 := by
  unfold blockHead bit
  cases hasPlane xs <;> simp [b2n] <;> omega

/-- Elements that a width code, a shift and fields of w bits carry, as R219 wants them. -/
structure CarriedBlock (code shift w : Nat) (xs : List Anch) : Prop where
  code_lt : code < 8
  code_ne : code ≠ 6
  width : widthOf code = w
  shift_lt : shift < 64
  unshifted : code = 5 ∨ code = 7 → shift = 0
  values : ∀ x ∈ xs, Carried shift w x.v

section Decoded
variable {code shift w : Nat} {xs : List Anch} (rest : List Byte)

theorem be_blockHead (hhead : blockHead code shift xs < 2 ^ 16) :
    be (blockBytes code shift w xs ++ rest) 0 2 = blockHead code shift xs := by
  rw [blockBytes_eq, List.append_assoc]
  exact (be_middle (l := []) rfl (beBytes_length 2 _)).trans ((ofBe_beBytes 2 _).trans (Nat.mod_eq_of_lt hhead))

theorem be_valuePlane (hlen : xs.length = 32) :
    be (blockBytes code shift w xs ++ rest) 2 (4 * w) = valuePlane shift w xs := by
  have hlt := packFields_lt w (xs.map fun x => ofInt w (x.v / (2 ^ shift : Nat)))
  have hpow : 256 ^ (4 * w) = 2 ^ (w * 32) := by rw [show (256 : Nat) = 2 ^ 8 from rfl, ← Nat.pow_mul]; congr 1; omega
  rw [List.length_map, hlen] at hlt
  rw [blockBytes_eq, List.append_assoc, List.append_assoc, be_middle (beBytes_length 2 _) (beBytes_length (4 * w) _),
    ofBe_beBytes, hpow]
  exact Nat.mod_eq_of_lt hlt

theorem be_flagPlane (hlen : xs.length = 32) :
    (if hasPlane xs then be (blockBytes code shift w xs ++ rest) (2 + 4 * w) 16 else 0) = flagPlane xs := by
  unfold flagPlane
  split
  · next hplane =>
    have hlt := packFields_lt 4 (xs.map Anch.flags)
    rw [List.length_map, hlen] at hlt
    rw [blockBytes_eq, planeBytes, if_pos hplane, ← List.append_assoc, List.append_assoc,
      be_middle (by rw [List.length_append, beBytes_length, beBytes_length]) (beBytes_length 16 _), ofBe_beBytes]
    exact Nat.mod_eq_of_lt hlt
  · rfl

/-- A decoder reads a block back, and leaves what follows. -/
theorem decodeBlock_blockBytes (hlen : xs.length = 32) (h : CarriedBlock code shift w xs) :
    decodeBlock (blockBytes code shift w xs ++ rest) = some (xs, rest) := by
  obtain ⟨hcode, hcode6, hwidth, hshift, hunshifted, hvalues⟩ := h
  obtain ⟨hlt, hheadCode, hheadShift, hheadSpec, hheadLow⟩ := blockHead_fields hcode hshift xs
  have hwhole := blockBytes_length code shift w xs
  unfold decodeBlock
  simp only [be_blockHead rest hlt, hheadCode, hheadShift, hheadSpec, hheadLow, hwidth, be_valuePlane rest hlen, be_flagPlane rest hlen]
  rw [if_neg (by rw [List.length_append, hwhole]; omega), ← hwhole, List.drop_left]
  exact congrArg (fun l => some (l, rest)) (map_planeElem hlen hvalues)

end Decoded

/-! ### What an RSE encodes (08 R220) -/

theorem two_pow_trailing_dvd (v k : Nat) : 2 ^ trailing v k ∣ v := by
  induction k generalizing v with
  | zero => exact Nat.one_dvd v
  | succ k ih =>
    unfold trailing
    split
    · next heven =>
      have hv : v = v / 2 * 2 := by omega
      rw [Nat.pow_succ]
      conv_rhs => rw [hv]
      exact Nat.mul_dvd_mul_right (ih _) 2
    · exact Nat.one_dvd v

/-- A running minimum is at most its start and every value on its way. -/
theorem foldl_min_le {α : Type} (f : α → Nat) (l : List α) (a : Nat) :
    l.foldl (fun k x => min k (f x)) a ≤ a ∧ ∀ x ∈ l, l.foldl (fun k x => min k (f x)) a ≤ f x := by
  induction l generalizing a with
  | nil => exact ⟨le_rfl, fun _ h => absurd h List.not_mem_nil⟩
  | cons y r ih =>
    obtain ⟨hstart, hrest⟩ := ih (min a (f y))
    refine ⟨hstart.trans (Nat.min_le_left _ _), fun x hx => ?_⟩
    obtain rfl | hx := List.mem_cons.mp hx
    · exact hstart.trans (Nat.min_le_right _ _)
    · exact hrest x hx

/-- Zero bits at the end of every V of a block that is not 0, at most 63. -/
def commonShift (xs : List Anch) : Nat := (xs.filter fun x => x.v != 0).foldl (fun k x => min k (trailing x.v.natAbs 63)) 63

theorem commonShift_lt (xs : List Anch) : commonShift xs < 64 := Nat.lt_succ_of_le (foldl_min_le _ _ _).1

theorem two_pow_commonShift_dvd {xs : List Anch} {x : Anch} (hx : x ∈ xs) : ((2 ^ commonShift xs : Nat) : Int) ∣ x.v := by
  by_cases hv : x.v = 0
  · exact hv ▸ Int.dvd_zero _
  · have hle : commonShift xs ≤ trailing x.v.natAbs 63 :=
      (foldl_min_le _ _ _).2 x (List.mem_filter.mpr ⟨hx, bne_iff_ne.mpr hv⟩)
    exact Int.natCast_dvd.mpr ((Nat.pow_dvd_pow 2 hle).trans (two_pow_trailing_dvd _ _))

/-- Fields of 128 bits carry every block. -/
theorem carriedBlock_dense {xs : List Anch} (hv : ∀ x ∈ xs, -(2 ^ 127 : Int) ≤ x.v ∧ x.v < (2 ^ 127 : Int)) :
    CarriedBlock 7 0 128 xs where
  code_lt := by decide
  code_ne := by decide
  width := rfl
  shift_lt := by decide
  unshifted := fun _ => rfl
  values := fun x hx => by simpa [Carried] using hv x hx

/-- The widths that are tried before 128 bits. -/
theorem narrow_widths : ∀ c ∈ [(0, 32), (1, 48), (2, 64), (3, 96)], c.1 < 4 ∧ widthOf c.1 = c.2 ∧ c.2 ≠ 0 := by decide

/-- What an RSE encodes is a block of a form that R219 knows. -/
theorem encodeBlock_carried (raw : Bool) {xs : List Anch} (hv : ∀ x ∈ xs, -(2 ^ 127 : Int) ≤ x.v ∧ x.v < (2 ^ 127 : Int)) :
    ∃ code shift w, encodeBlock raw xs = (code, blockBytes code shift w xs) ∧ CarriedBlock code shift w xs := by
  unfold encodeBlock
  split
  · next hzero =>
    exact ⟨5, 0, 0, rfl, by decide, by decide, rfl, by decide, fun _ => rfl, by simpa [Carried] using hzero⟩
  · split
    · exact ⟨7, 0, 128, rfl, carriedBlock_dense hv⟩
    · dsimp only
      split
      · next c hc =>
        obtain ⟨hcode, hwidth, hpos⟩ := narrow_widths c (List.mem_of_find?_eq_some hc)
        refine ⟨c.1, commonShift xs, c.2, rfl, by omega, by omega, hwidth, commonShift_lt xs, by omega, fun x hx => ?_⟩
        have hfits := List.find?_some hc
        have hfit := List.all_eq_true.mp hfits x hx
        rw [Bool.and_eq_true, decide_eq_true_eq, decide_eq_true_eq] at hfit
        rw [Carried, if_neg hpos]
        exact ⟨two_pow_commonShift_dvd hx, hfit⟩
      · exact ⟨7, 0, 128, rfl, carriedBlock_dense hv⟩

/-! ### The statement of the blocks -/

/-- No field is wider than 128 bits. -/
theorem widthOf_le : ∀ code < 8, widthOf code ≤ 128 := by decide

/-- Settles O46: what is encoded is carried, and what is carried reads back. -/
theorem blocksDecodeAsEncoded : Obligations.BlocksDecodeAsEncoded := by
  unfold Obligations.BlocksDecodeAsEncoded
  intro raw xs rest hlen hv
  obtain ⟨code, shift, w, hencode, hcarried⟩ := encodeBlock_carried raw hv
  have hw : w ≤ 128 := hcarried.width ▸ widthOf_le code hcarried.code_lt
  have hplane : (if hasPlane xs then 16 else 0) ≤ 16 := by split <;> omega
  rw [hencode]
  refine ⟨decodeBlock_blockBytes rest hlen hcarried, ?_, fun hflags => ?_⟩
  · rw [blockBytes_length]
    omega
  · rw [blockBytes_length, hasPlane_eq_false.mpr hflags, if_neg Bool.false_ne_true]
    omega

end Sys2Proof.Machine
end

section
/-! SUPPORT. Reduction packets (08 R210-R228; 10 R263, R271-R274): what each form comes to at an RSE that takes it, and at a member. -/

namespace Sys2Proof.Machine
open Sys2Proof

/-! ### Packets that an RSE takes (10 R271, R273) -/

/-- After an edge's packet has had its effect, its record is answered (05 R122, R123). -/
abbrev answered (s : State) (n : Nat) (t : Tree) (x : Edge) (b : List Byte) (v : State) : Host.Outcome State Fault Refusal :=
  .next (rxAccept (edgeAnswers s n t x) b v)

/-- The edge that a packet from below comes on. -/
abbrev edgeAt (t : Tree) (e : Nat) : Edge := t.down.getD e t.up

section Up
variable {s : State} {n form : Nat} {k : Known} {b : List Byte} {t : Tree} {e : Nat} {o : RseOp} {u : State}
  (h : Rises s n form k b t e o u)
include h

theorem Rises.isNone_held : (rseHeld s n form clCollUp).isNone = false := by
  obtain ⟨g, hheld, -, -⟩ := h.held
  rw [hheld, Option.isNone_some]

/-- In the row of its form, a packet that rises is taken. -/
theorem Rises.taken (slot : Bool) (f : Tree → Nat → Nat → List Byte → RseOp → State → State) (w : State) :
    (.next (if (rseHeld s n form clCollUp).isNone then w else intakeUp n form k slot f s) : Host.Outcome State Fault Refusal) =
      answered s n t (edgeAt t e) b (f t (treePos t b) e b o u) := by
  rw [h.isNone_held, if_neg Bool.false_ne_true, intakeUp_rises s n form k b t e o u slot f h]

end Up

section Down
variable {s : State} {n form : Nat} {k : Known} {b : List Byte} {t : Tree} {o : RseOp} {u : State} (h : Falls s n form k b t o u)
include h

theorem Falls.isNone_held : (rseHeld s n form clCollDn).isNone = false := by
  obtain ⟨g, hheld, -, -⟩ := h.held
  rw [hheld, Option.isNone_some]

/-- In the row of its form, a packet that falls is taken. -/
theorem Falls.taken (f : Tree → Nat → List Byte → RseOp → State → State) (w : State) :
    (.next (if (rseHeld s n form clCollDn).isNone then w else intakeDown n form k f s) : Host.Outcome State Fault Refusal) =
      answered s n t t.up b (f t (treePos t b) b o u) := by
  rw [h.isNone_held, if_neg Bool.false_ne_true, intakeDown_falls s n form k b t o u f h]

end Down

/-! ### NATIVE (08 R210, R224; 10 R259, R271) -/

/-- A NATIVE payload has its form: its head, no STATUS, and as many bytes as its elements take (08 R221). -/
abbrev NativeWhole (o : RseOp) (pl : List Byte) : Prop :=
  pheadOk pl = true ∧ (pheadOf pl).form = fmNative ∧ (pheadOf pl).status = 0 ∧
    pl.length = 16 + bufBytes (cdSrc o.desc) (32 * (pheadOf pl).nblk) ∧ spanOk o (pheadOf pl) = true

section Native
variable {s : State} {n : NodeNo} {k : Known} {b : List Byte} {t : Tree} {e : Nat} {o : RseOp} {u : State}
  (h : Rises s n fmNative k b t e o u)
include h

/-- A NATIVE packet of no sound form, or of a collective or an edge that has none, is malformed. -/
theorem exec_native_malformed (hbad : ¬ (NativeWhole o (pkPayload b) ∧ (cdKind o.desc = kAllgather ∨ cdKind o.desc = kBroadcast ∨
      reduces o.desc = true ∧ (edgeAt t e).member = true))) :
    exec (.native n k .none) s = answered s n t (edgeAt t e) b (partialMalformed o b (putOp o u)) := by
  show execNative n k .none s = _
  rw [execNative, h.taken]
  dsimp only
  rw [if_pos]
  rw [Bool.not_eq_true', ← Bool.not_eq_true]
  simpa only [Bool.and_eq_true, Bool.or_eq_true, beq_iff_eq, decide_eq_true_eq, NativeWhole, and_assoc, or_assoc] using hbad

/-- What a sound NATIVE packet does: it passes on where the collective only gathers, and is added by its kind otherwise. -/
theorem exec_native_whole (hwhole : NativeWhole o (pkPayload b)) (hkind : cdKind o.desc = kAllgather ∨ cdKind o.desc = kBroadcast ∨
      reduces o.desc = true ∧ (edgeAt t e).member = true) :
    exec (.native n k .none) s = answered s n t (edgeAt t e) b
      (if cdKind o.desc = kAllgather ∨ cdKind o.desc = kBroadcast then passNative t (treePos t b) b o u
      else
        let p := pheadOf (pkPayload b)
        let vs := nativeVals o.desc p ((pkPayload b).drop 16)
        if isFast o.desc then nativeFast t (treePos t b) e p vs o u
        else if isMaxMin o.desc then nativeMaxMin t (treePos t b) e p vs o u
        else nativeSum t (treePos t b) e p vs o u) := by
  show execNative n k .none s = _
  rw [execNative, h.taken]
  dsimp only
  rw [if_neg]
  · simp only [decide_eq_true_eq, unitChecked]
  · rw [Bool.not_eq_true', Bool.not_eq_false]
    simpa only [Bool.and_eq_true, Bool.or_eq_true, beq_iff_eq, decide_eq_true_eq, NativeWhole, and_assoc, or_assoc] using
      And.intro hwhole hkind

/-- A collective that only gathers passes the packet on. -/
theorem exec_native_passes (hwhole : NativeWhole o (pkPayload b)) (hgather : cdKind o.desc = kAllgather ∨ cdKind o.desc = kBroadcast) :
    exec (.native n k .none) s = answered s n t (edgeAt t e) b (passNative t (treePos t b) b o u) := by
  rw [exec_native_whole h hwhole (hgather.imp_right .inl), if_pos hgather]

/-- A reduction adds a member's packet by its kind. -/
theorem exec_native_added (hwhole : NativeWhole o (pkPayload b)) (hred : reduces o.desc = true) (hmember : (edgeAt t e).member = true)
    (hno : cdKind o.desc ≠ kAllgather) (hno' : cdKind o.desc ≠ kBroadcast) :
    exec (.native n k .none) s = answered s n t (edgeAt t e) b (
      let p := pheadOf (pkPayload b)
      let vs := nativeVals o.desc p ((pkPayload b).drop 16)
      if isFast o.desc then nativeFast t (treePos t b) e p vs o u
      else if isMaxMin o.desc then nativeMaxMin t (treePos t b) e p vs o u
      else nativeSum t (treePos t b) e p vs o u) := by
  rw [exec_native_whole h hwhole (.inr (.inr ⟨hred, hmember⟩)), if_neg (not_or.mpr ⟨hno, hno'⟩)]

/-- What neither gathers nor comes from a member of a reduction is malformed. -/
theorem exec_native_unsent (hno : cdKind o.desc ≠ kAllgather) (hno' : cdKind o.desc ≠ kBroadcast)
    (hbad : reduces o.desc = false ∨ ¬ (edgeAt t e).member = true) :
    exec (.native n k .none) s = answered s n t (edgeAt t e) b (partialMalformed o b (putOp o u)) := by
  refine exec_native_malformed h fun ⟨_, hkind⟩ => ?_
  obtain hkind | hkind | ⟨hred, hmember⟩ := hkind
  · exact hno hkind
  · exact hno' hkind
  · exact hbad.elim (fun hnot => Bool.false_ne_true (hnot.symm.trans hred)) fun hnot => hnot hmember

end Native

/-! ### ANCHORED (08 R215, R216) -/

/-- Blocks of a packet that may now be complete are sent, one after the other. -/
abbrev advanceBlocks (t : Tree) (place : Nat) (p : PHead) (o : RseOp) (v : State) : State :=
  (List.range p.nblk).foldl (fun v i => advanceBlock t place o.node o.cseq (p.elem / 32 + i) v) v

section Anchored
variable {s : State} {n : NodeNo} {k : Known} {b : List Byte} {t : Tree} {e : Nat} {o : RseOp} {u : State}
  (h : Rises s n fmAnchored k b t e o u)
include h

/-- No member sends ANCHORED. -/
theorem exec_anchored_member (hmember : (edgeAt t e).member = true) :
    exec (.anchored n k .none) s = answered s n t (edgeAt t e) b (partialMalformed o b (putOp o u)) := by
  show execAnchored n k .none s = _
  rw [execAnchored, h.taken]
  simp only [hmember, Bool.not_true, Bool.and_false, Bool.false_and]

theorem exec_anchored_added {bs : List (List Anch)} (hlink : ¬ (edgeAt t e).member = true) (hred : reduces o.desc = true)
    (hfast : isFast o.desc = false) (hmm : isMaxMin o.desc = false) (hok : pheadOk (pkPayload b) = true)
    (hspan : spanOk o (pheadOf (pkPayload b)) = true)
    (hblocks : decodeBlocks (pheadOf (pkPayload b)).nblk ((pkPayload b).drop 16) = some bs) :
    exec (.anchored n k .none) s = answered s n t (edgeAt t e) b (
      let p := pheadOf (pkPayload b)
      let m := if intSum o.desc = true then (o, u) else meetAnchor p.anchor p.elem o u
      let o' := bs.zipIdx.foldl (fun o y => addAnchored (p.elem / 32 + y.2) e p.status y.1 o) (takeSlots t p m.1)
      advanceBlocks t (treePos t b) p o' (putOp o' m.2)) := by
  rw [Bool.not_eq_true] at hlink
  show execAnchored n k .none s = _
  rw [execAnchored, h.taken]
  simp only [hlink, hred, hfast, hmm, hok, hspan, hblocks, Bool.not_false, Bool.and_true, unitChecked]

end Anchored

/-! ### FAST (08 R208, R224) -/

section Fast
variable {s : State} {n : NodeNo} {k : Known} {b : List Byte} {t : Tree} {e : Nat} {o : RseOp} {u : State}
  (h : Rises s n fmFast k b t e o u)
include h

/-- No member sends FAST. -/
theorem exec_fast_member (hmember : (edgeAt t e).member = true) :
    exec (.fast n k .none) s = answered s n t (edgeAt t e) b (partialMalformed o b (putOp o u)) := by
  show execFast n k .none s = _
  rw [execFast, h.taken]
  simp only [hmember, Bool.not_true, Bool.and_false, Bool.false_and, Bool.not_false, if_true]

section Link
variable (hlink : ¬ (edgeAt t e).member = true) (hok : pheadOk (pkPayload b) = true)
  (hspan : spanOk o (pheadOf (pkPayload b)) = true) (hlen : (pkPayload b).length = 16 + 128 * (pheadOf (pkPayload b)).nblk)
include hlink hok hspan hlen

theorem exec_fast_node (hfast : isFast o.desc = true) (hmm : isMaxMin o.desc = false) :
    exec (.fast n k .none) s = answered s n t (edgeAt t e) b (
      let p := pheadOf (pkPayload b)
      let o' := (blocks32 (unpackElems fcS32 ((pkPayload b).drop 16) (32 * p.nblk)) p.nblk).zipIdx.foldl (fun o y =>
        addNode (p.elem / 32 + y.2) e p.status { level := p.level, node := p.node, status := p.status, vals := y.1 } o) (takeSlots t p o)
      advanceBlocks t (treePos t b) p o' (putOp o' u)) := by
  rw [Bool.not_eq_true] at hlink
  show execFast n k .none s = _
  rw [execFast, h.taken]
  simp only [hlink, hok, hspan, hlen, hfast, hmm, unitChecked, Bool.not_false, Bool.true_or, Bool.and_true, beq_self_eq_true,
    Bool.not_true, Bool.false_eq_true, if_false, reduceCtorEq]

theorem exec_fast_winners (hmm : isMaxMin o.desc = true) (hlevel : (pheadOf (pkPayload b)).level = 0)
    (hnode : (pheadOf (pkPayload b)).node = 0) :
    exec (.fast n k .none) s = answered s n t (edgeAt t e) b (
      let p := pheadOf (pkPayload b)
      let o' := (blocks32 (unpackElems fcS32 ((pkPayload b).drop 16) (32 * p.nblk)) p.nblk).zipIdx.foldl (fun q y =>
        addBest (p.elem / 32 + y.2) e p.status (y.1.map (maxMinVal o.desc)) q) (takeSlots t p o)
      advanceBlocks t (treePos t b) p o' (putOp o' u)) := by
  rw [Bool.not_eq_true] at hlink
  show execFast n k .none s = _
  rw [execFast, h.taken]
  simp only [hlink, hok, hspan, hlen, hmm, hlevel, hnode, unitChecked, Bool.not_false, Bool.or_true, Bool.and_true,
    beq_self_eq_true, Bool.not_true, Bool.false_eq_true, if_false, if_true, reduceCtorEq]

end Link
end Fast

/-! ### EXPONENT (08 R214) -/

/-- EXPONENT of unit 128 + n is met at RSE n. -/
theorem exec_exponent_rse (n : NodeNo) (up : Bool) (k : Known) (s : State) :
    exec (.exponent ⟨128 + n, by omega⟩ up k) s = .next (exponentAtRse n up k s) := by
  show execExponent _ up k s = _
  rw [execExponent, if_neg (Nat.not_lt.mpr (Nat.le_add_right 128 n)), Nat.add_sub_cancel_left]

/-- RESULT of unit 128 + n is met at RSE n. -/
theorem exec_result_rse (n : NodeNo) (k : Known) (s : State) : exec (.result ⟨128 + n, by omega⟩ k) s = .next (resultAtRse n k s) := by
  show execResult _ k s = _
  rw [execResult, if_neg (Nat.not_lt.mpr (Nat.le_add_right 128 n)), Nat.add_sub_cancel_left]

section Exponent
variable {s : State} {n : NodeNo} {k : Known} {b : List Byte} {t : Tree} {e : Nat} {o : RseOp} {u : State}

/-- What an EXPONENT packet from below comes to. -/
theorem exec_exponent_rises (h : Rises s n fmExponent k b t e o u) :
    exec (.exponent ⟨128 + n, by omega⟩ true k) s = answered s n t (edgeAt t e) b (
      let p := pheadOf (pkPayload b)
      let abs := (List.range p.nblk).map (p.elem / 256 + ·)
      if !(expOk o (pkPayload b) && (p.status == 0 || !(edgeAt t e).member)) then partialMalformed o b (putOp o u)
      else
        let o' := abs.zipIdx.foldl (fun o y => addExp y.1 e p.status (be (pkPayload b) (16 + y.2) 1) o) o
        abs.foldl (fun v a => advanceExp t (treePos t b) o'.node o'.cseq a v) (putOp o' u)) := by
  rw [exec_exponent_rse, exponentAtRse, if_pos rfl, intakeUp_rises s n fmExponent k b t e o u _ _ h]

theorem exec_exponent_malformed (h : Rises s n fmExponent k b t e o u) (hbad : expOk o (pkPayload b) = false) :
    exec (.exponent ⟨128 + n, by omega⟩ true k) s = answered s n t (edgeAt t e) b (partialMalformed o b (putOp o u)) := by
  rw [exec_exponent_rises h]
  simp only [hbad, Bool.false_and, Bool.not_false, if_true]

theorem exec_exponent_joins (h : Rises s n fmExponent k b t e o u) (hok : expOk o (pkPayload b) = true)
    (hstatus : (pheadOf (pkPayload b)).status = 0 ∨ ¬ (edgeAt t e).member = true) :
    exec (.exponent ⟨128 + n, by omega⟩ true k) s = answered s n t (edgeAt t e) b (
      let p := pheadOf (pkPayload b)
      let abs := (List.range p.nblk).map (p.elem / 256 + ·)
      let o' := abs.zipIdx.foldl (fun o y => addExp y.1 e p.status (be (pkPayload b) (16 + y.2) 1) o) o
      abs.foldl (fun v a => advanceExp t (treePos t b) o'.node o'.cseq a v) (putOp o' u)) := by
  have hgood : ((pheadOf (pkPayload b)).status == 0 || !(edgeAt t e).member) = true := by simpa using hstatus
  rw [exec_exponent_rises h]
  simp only [hok, hgood, Bool.and_true, Bool.not_true, Bool.false_eq_true, if_false]

/-- M of one anchor block that had no anchor comes down: it gives the anchor, and goes on to every edge. -/
theorem exec_exponent_falls (h : Falls s n fmExponent k b t o u) (hok : expOk o (pkPayload b) = true)
    (hone : (pheadOf (pkPayload b)).nblk = 1) (hnew : ∀ x ∈ o.anchors, x.1 ≠ (pheadOf (pkPayload b)).elem / 256) :
    exec (.exponent ⟨128 + n, by omega⟩ false k) s = answered s n t t.up b (sendDown (pkEpoch b) n t o.cseq (treePos t b) (2 ^ flMcast)
      (fun _ => true) (markDown o (pkPayload b))
      (putOp { o with anchors := o.anchors ++ [((pheadOf (pkPayload b)).elem / 256, (be (pkPayload b) 16 1 : Int) - 127)] } u)) := by
  have hnone : (o.anchors.any fun x => x.1 == (pheadOf (pkPayload b)).elem / 256) = false := by simpa using hnew
  rw [exec_exponent_rse, exponentAtRse, if_neg Bool.false_ne_true, intakeDown_falls s n fmExponent k b t o u _ h]
  simp [hok, hone, hnone]

end Exponent

/-! ### SCAN_OFFSET (08 R228) -/

/-- An element that replaces each one that passes its test is the first that passes it. -/
theorem find?_map_replace {α : Type} {p : α → Bool} {y : α} (hy : p y = true) {l : List α} (h : l.any p = true) :
    (l.map fun x => if p x then y else x).find? p = some y := by
  induction l with
  | nil => exact absurd h Bool.false_ne_true
  | cons x r ih =>
    rw [List.map_cons]
    by_cases hx : p x = true
    · rw [if_pos hx, List.find?_cons_of_pos hy]
    · rw [List.any_cons, Bool.or_eq_true, or_iff_right hx] at h
      rw [if_neg hx, List.find?_cons_of_neg hx, ih h]

/-- The operation that is put is found by its key. -/
theorem findOp_putOp_self (o : RseOp) (s : State) : findOp (putOp o s) o.node o.tree o.cseq = some o := by
  have hself : isOp o.node o.tree o.cseq o = true := by simp only [isOp, beq_self_eq_true, Bool.and_self]
  show List.find? _ (if _ then _ else _) = _
  split
  · next hheld => exact find?_map_replace hself hheld
  · next hnone =>
    rw [List.any_eq_true] at hnone
    have hfresh : s.net.ops.find? (isOp o.node o.tree o.cseq) = none :=
      List.find?_eq_none.mpr fun x hx hkey => hnone ⟨x, hx, hkey⟩
    rw [List.find?_append, hfresh, Option.none_or, List.find?_singleton, if_pos hself]

section Scan
variable {s : State} {n : NodeNo} {k : Known} {b : List Byte} {t : Tree} {o : RseOp} {u : State}
  (h : Falls s n fmScan k b t o u)
include h

theorem exec_scanOffset_unordered (hord : t.ordered = false) :
    exec (.scanOffset n k .none) s = answered s n t t.up b (rseMalformed o u) := by
  show execScanOffset n k .none s = _
  rw [execScanOffset, h.taken]
  simp only [hord, Bool.not_false, if_true]

/-- The offset of one block reaches it. -/
theorem exec_scanOffset_integer {xs : List Anch} {z : RBlock} (hord : t.ordered = true) (hscan : cdKind o.desc = kScan)
    (hok : pheadOk (pkPayload b) = true) (hspan : spanOk o (pheadOf (pkPayload b)) = true) (hone : (pheadOf (pkPayload b)).nblk = 1)
    (hint : intSum o.desc = true) (hblocks : decodeBlocks 1 ((pkPayload b).drop 16) = some [xs])
    (hfound : findOp u o.node o.tree o.cseq = some o)
    (hwaits : o.blocks.find? (fun z => z.blk == (pheadOf (pkPayload b)).elem / 32 && z.up) = some z) :
    exec (.scanOffset n k .none) s = answered s n t t.up b
      (scanDown t (treePos t b) xs { z with status := orStatus z.status (pheadOf (pkPayload b)).status } o (putOp o u)) := by
  show execScanOffset n k .none s = _
  rw [execScanOffset, h.taken]
  simp [hord, hscan, hok, hspan, hone, hint, hblocks, hfound, unitChecked, findOp_putOp_self, hwaits]

end Scan

/-! ### RESULT (10 R263, R268, R272) -/

/-- A RESULT of the right form goes on; another is malformed. -/
abbrev resultTaken (t : Tree) (place : Nat) (b : List Byte) (o : RseOp) (v : State) : State :=
  if resultOk o (pkPayload b) then passResult (pkEpoch b) t place (pkPayload b) o v else partialMalformed o b v

section Result
variable {s : State} {n : NodeNo} {k : Known} {b : List Byte} {t : Tree} {o : RseOp} {u : State}

theorem exec_result_falls (h : Falls s n fmResult k b t o u) (hedge : opRseDst b = false) :
    exec (.result ⟨128 + n, by omega⟩ k) s = answered s n t t.up b (resultTaken t (treePos t b) b o u) := by
  obtain ⟨g, hheld, hbytes, -⟩ := h.held
  rw [exec_result_rse, resultAtRse, hheld]
  simp only [hbytes, hedge, Bool.not_false, if_true, intakeDown_falls s n fmResult k b t o u _ h]

/-- Beyond one edge, a RESULT names its RSE, and has no record there. -/
theorem exec_result_beyond {g : Held} (hheld : rseHeld s n fmResult clCollDn = some g) (hbytes : g.bytes = b)
    (hbeyond : opRseDst b = true) (hcheck : pkCheckOk b = true) (htree : packetTree s b = some t)
    (hop : o = (findOp s n t.num (opCseq b)).getD (newOp s n t (opCseq b) k)) (hsound : o.bad = false) :
    exec (.result ⟨128 + n, by omega⟩ k) s = .next (resultTaken t (treePos t b) b o (takeHeld g s)) := by
  have hmet : (findOp (takeHeld g s) n t.num (opCseq b)).getD (newOp (takeHeld g s) n t (opCseq b) k) = o := hop.symm
  rw [exec_result_rse, resultAtRse, hheld]
  simp only [hbytes, hbeyond, hcheck, packetTree_takeHeld, htree, hmet, hsound, Bool.not_true, Bool.false_eq_true, if_false]

end Result

section Member
variable {s : State} {p : PierNo} {b : List Byte} {l : Landing} {u : State}

theorem exec_result_member (k : Known) (h : ReachesMember s p fmResult b l u) :
    exec (.result ⟨p, by omega⟩ k) s = .next (rxAccept (pierAnswers s (srCtx s (pkSr b)) p) b (landResult p l (pkPayload b) u)) := by
  show execResult _ k s = _
  rw [execResult, if_pos p.isLt, memberIntake_reaches s p fmResult b l u _ h]

theorem exec_exponent_member (k : Known) (h : ReachesMember s p fmExponent b l u) :
    exec (.exponent ⟨p, by omega⟩ false k) s =
      .next (rxAccept (pierAnswers s (srCtx s (pkSr b)) p) b (landExponents p l (pkPayload b) u)) := by
  show execExponent _ false k s = _
  rw [execExponent, if_pos p.isLt, memberIntake_reaches s p fmExponent b l u _ h]

end Member

/-! ### The statement of the reduction packets -/

/-- Settles O44, row by row: what a packet that its stream delivers comes to at its RSE, or at its member. -/
theorem reductionPackets : Obligations.ReductionPackets := by
  unfold Obligations.ReductionPackets
  intro s n k b t e o u
  dsimp only
  refine ⟨fun h => ⟨fun hbad => exec_native_malformed h fun hgood => hbad hgood.1, exec_native_passes h, exec_native_unsent h,
      fun hwhole hred hmember hno hno' => ?added⟩,
    fun h => ⟨exec_anchored_member h, fun bs hlink hred hfast hmm hok hspan hblocks => ?anchored⟩,
    fun h => ⟨exec_fast_member h, fun hlink hfast hmm hok hspan hlen => ?node, fun hlink hmm hlevel hnode hok hspan hlen => ?winners⟩,
    fun h => ⟨exec_exponent_malformed h, exec_exponent_joins h⟩, exec_exponent_falls,
    fun h => ⟨exec_scanOffset_unordered h, fun xs z hord hscan hok hspan hone hint hblocks hfound hwaits => ?offset⟩,
    ⟨exec_result_falls, fun g hheld hbytes hbeyond hcheck htree hop hsound => ?beyond⟩,
    fun p l => ⟨exec_result_member k, exec_exponent_member k⟩⟩
  case added =>
    have hadded := exec_native_added h hwhole hred hmember hno hno'
    exact ⟨fun hfast => by simp only [hadded, hfast, if_true],
      fun hfast hmm => by simp only [hadded, hfast, hmm, if_true, Bool.false_eq_true, if_false],
      fun hfast hmm => by simp only [hadded, hfast, hmm, Bool.false_eq_true, if_false]⟩
  case anchored => exact exec_anchored_added h hlink hred hfast hmm hok hspan hblocks
  case node => exact exec_fast_node h hlink hok hspan hlen hfast hmm
  case winners => exact exec_fast_winners h hlink hok hspan hlen hmm hlevel hnode
  case offset => exact exec_scanOffset_integer h hord hscan hok hspan hone hint hblocks hfound hwaits
  case beyond => exact exec_result_beyond hheld hbytes hbeyond hcheck htree hop hsound

end Sys2Proof.Machine
end

section
/-! SUPPORT. Instructions of a stage at the lane array (09 R243, R244, R251, Table 9.8): the one that is next is done, what one that
works on each record for itself leaves, and the NaNs that it may produce. -/

namespace Sys2Proof.Machine
open Sys2Proof

/-! ### The next instruction -/

/-- What the next instruction of a job works on. -/
def LaneJob.work (j : LaneJob) (o : StrmOp) (s : State) : Work := { o := o, stage := j.stage, recs := j.recs, s := s }

/-- The row of an opcode does the next instruction where it has that opcode. -/
theorem laneOp_atLane {s : State} {n : NodeNo} {j : LaneJob} {o : StrmOp} {x : SIns} (h : AtLane s n j o x) {op : Nat}
    (hop : x.op = op) : laneOp op n s = .next (laneMove n j (doIns x (j.work o s))) := by
  obtain ⟨hjob, hstarted, hfound, hnext⟩ := h
  have hsame : (x.op == op) = true := beq_iff_eq.mpr hop
  unfold laneOp laneStep
  simp only [hjob, hstarted, hfound, hnext, hsame, Bool.not_true, Bool.false_eq_true, if_false, if_true, LaneJob.work]

/-! ### NaNs that an instruction produces (R244; 07 R201-R203) -/

theorem nanFrame_trans {s u v : State} (h : nanFrame s u) (g : nanFrame u v) : nanFrame s v := by
  rw [g, h]

theorem nanFrame_wn {s u : State} (h : nanFrame s u) (a v : Nat) : nanFrame s (wn a v u) := by
  rw [wn_frame, h]

theorem nanFrame_raiseEvent {s u : State} (h : nanFrame s u) (e : EventId) : nanFrame s (raiseEvent e u) := by
  rw [raiseEvent_frame, h]

theorem nanFrame_raiseFault {s u : State} (h : nanFrame s u) (f : FaultId) : nanFrame s (raiseFault f u) := by
  rw [raiseFault_frame, h]

/-- A NaN writes its record, which is an event, and may be a fault. -/
theorem nanProduced_frame (n : NanAt) (s : State) : nanFrame s (nanProduced n s) := by
  unfold nanProduced
  dsimp only
  split
  · rfl
  · split
    · exact nanFrame_wn (u := s) rfl _ _
    · have hwords := nanFrame_wn (nanFrame_wn (nanFrame_wn (nanFrame_wn (nanFrame_wn (u := s) rfl (A.ctxNanUnit n.ctx) n.unit)
        (A.ctxNanTag n.ctx) n.tag) (A.ctxNanIdx n.ctx 1) (n.idx / 2 ^ 32 % 2 ^ 16)) (A.ctxNanIdx n.ctx 0) (n.idx % 2 ^ 32))
        (A.ctxNanStatus n.ctx) (2 ^ 31 + 2 ^ 16 * (n.sub % 8) + n.cause % 8)
      split
      · exact nanFrame_raiseFault (nanFrame_raiseEvent hwords _) _
      · exact nanFrame_raiseEvent hwords _

theorem nanFrame_foldl {α : Type} {f : State → α → State} (hf : ∀ s a, nanFrame s (f s a)) :
    ∀ (l : List α) (s : State), nanFrame s (l.foldl f s)
  | [], _ => rfl
  | a :: l, s => nanFrame_trans (hf s a) (nanFrame_foldl hf l (f s a))

theorem laneNans_frame (o : StrmOp) (per : Nat) (ns : List (Option Nat × Nat)) (s : State) : nanFrame s (laneNans o per ns s) :=
  nanFrame_foldl (fun _ _ => nanFrame_foldl (fun s n => nanProduced_frame n s) _ _) _ _

theorem mem_of_mem_chunks {α : Type} {n : Nat} {a : α} {c : List α} (hac : a ∈ c) :
    ∀ {k : Nat} {l : List α}, c ∈ chunks n k l → a ∈ l
  | k + 1, y :: l, hc => by
    rcases List.mem_cons.mp hc with rfl | hc
    · exact List.mem_of_mem_take hac
    · exact List.mem_of_mem_drop (mem_of_mem_chunks hac hc)
  | 0, _, hc => absurd hc List.not_mem_nil
  | _ + 1, [], hc => absurd hc List.not_mem_nil

/-- An instruction that gives no record a NaN changes no state. -/
theorem laneNans_none (o : StrmOp) (per : Nat) {ns : List (Option Nat × Nat)} (h : ∀ p ∈ ns, p.1 = none) (s : State) :
    laneNans o per ns s = s := by
  refine List.foldlRecOn (motive := (· = s)) _ _ rfl fun u hu c hc => ?_
  have hquiet : c.filterMap (fun p => p.1.map fun k => strmNan o k p.2) = [] :=
    List.filterMap_eq_nil_iff.mpr fun p hp => by rw [h p (mem_of_mem_chunks hp hc), Option.map_none]
  rw [hquiet, hu]
  rfl

/-! ### Instructions on the guarded records -/

section Guard
variable (x : SIns) (l : Work)

/-- An instruction on the guarded records changes these, and may produce NaNs. -/
theorem mapGuard_frame (f : Rec → Rec × Option Nat) : ∃ u, nanFrame l.s u ∧
    mapGuard x f l = { l with recs := l.recs.map fun r => if prd r x.pg then (f r).1 else r, s := u } := by
  refine ⟨(mapGuard x f l).s, laneNans_frame l.o 128 _ l.s, ?_⟩
  unfold mapGuard
  simp only [List.map_map]
  congr 1
  exact List.map_congr_left fun r _ => by rw [Function.comp_apply, apply_ite Prod.fst]

/-- An instruction on the guarded records that gives none of them a NaN changes these alone. -/
theorem mapGuard_quiet {f : Rec → Rec × Option Nat} {g : Rec → Rec} (hf : ∀ r, f r = (g r, none)) :
    mapGuard x f l = { l with recs := l.recs.map fun r => if prd r x.pg then g r else r } := by
  unfold mapGuard
  dsimp only
  rw [laneNans_none]
  · rw [List.map_map]
    congr 1
    exact List.map_congr_left fun r _ => by rw [Function.comp_apply, apply_ite Prod.fst, hf]
  · simp only [List.map_map, List.mem_map, forall_exists_index, and_imp, forall_apply_eq_imp_iff₂, Function.comp_apply]
    intro r _
    rw [apply_ite Prod.snd, hf]
    exact ite_self _

end Guard

/-! ### The rows of the instructions on each record (Table 9.8) -/

section Records
variable {s : State} {n : NodeNo} {j : LaneJob} {o : StrmOp} {x : SIns} (h : AtLane s n j o x)

/-- The state after an instruction has done f to the guarded records of the job. -/
abbrev recsDone (n : NodeNo) (j : LaneJob) (o : StrmOp) (x : SIns) (f : Rec → Rec) (u : State) : State :=
  laneMove n j { o := o, stage := j.stage, recs := guarded x j f, s := u }

theorem guarded_id (x : SIns) (j : LaneJob) : guarded x j id = j.recs := by simp [guarded]

include h

/-- The row of an opcode whose instruction leaves l. -/
theorem laneOp_leaves {op : Nat} (hop : x.op = op) {l : Work} (hdo : doIns x (j.work o s) = l) :
    laneOp op n s = .next (laneMove n j l) := by
  rw [laneOp_atLane h hop, hdo]

/-- The row of an opcode whose instruction gives no record a NaN. -/
theorem laneOp_quiet {op : Nat} (hop : x.op = op) {f : Rec → Rec × Option Nat} {g : Rec → Rec} (hf : ∀ r, f r = (g r, none))
    (hdo : doIns x (j.work o s) = mapGuard x f (j.work o s)) : laneOp op n s = .next (recsDone n j o x g s) :=
  laneOp_leaves h hop (hdo.trans (mapGuard_quiet x _ hf))

/-- The row of an opcode whose instruction may produce NaNs. -/
theorem laneOp_nans {op : Nat} (hop : x.op = op) {f : Rec → Rec × Option Nat} {g : Rec → Rec}
    (hdo : doIns x (j.work o s) = mapGuard x f (j.work o s)) (hf : ∀ r, (f r).1 = g r) :
    ∃ u, nanFrame s u ∧ laneOp op n s = .next (recsDone n j o x g u) := by
  obtain ⟨u, hu, hmap⟩ := mapGuard_frame x (j.work o s) f
  refine ⟨u, hu, laneOp_leaves h hop ?_⟩
  rw [hdo, hmap]
  simp only [hf]
  rfl

/-- An operation of two numbers by TYPE: FP32, S32, U32. -/
theorem laneOp_binary {op : Nat} (hop : x.op = op) (imm : Bool) {f : Nat → Nat → Nat} {g : Int → Int → Int}
    (hdo : doIns x (j.work o s) = binary x imm f g (j.work o s)) :
    let y (r : Rec) : Nat := if imm then x.imm else fld r x.b
    (x.ty = 0 → ∃ u, nanFrame s u ∧ laneOp op n s = .next (recsDone n j o x (fun r => setFld x.d (f (fld r x.a) (y r)) r) u)) ∧
    (x.ty = 1 → laneOp op n s =
      .next (recsDone n j o x (fun r => setFld x.d (ofInt 32 (g (toInt 32 (fld r x.a)) (toInt 32 (y r)))) r) s)) ∧
    (x.ty = 2 → laneOp op n s = .next (recsDone n j o x (fun r => setFld x.d (ofInt 32 (g (fld r x.a) (y r))) r) s)) := by
  refine ⟨fun hty => laneOp_nans h hop hdo fun r => ?_, fun hty => laneOp_quiet h hop (fun r => ?_) hdo,
    fun hty => laneOp_quiet h hop (fun r => ?_) hdo⟩ <;> rw [hty] <;> rfl

/-- A comparison by TYPE, of a condition that Table 9.8 names. -/
theorem laneOp_compare {op : Nat} (hop : x.op = op) (imm : Bool) (hdo : doIns x (j.work o s) = compare x imm (j.work o s)) :
    let y (r : Rec) : Nat := if imm then x.imm else fld r x.b
    x.sub % 8 < 7 →
      (x.ty = 0 → laneOp op n s = .next (recsDone n j o x (fun r => setPrd x.pd (fpCmp (x.sub % 8) (fld r x.a) (y r)) r) s)) ∧
      (x.ty = 1 → laneOp op n s = .next (recsDone n j o x (fun r => setPrd x.pd (condOf (x.sub % 8)
        (decide (toInt 32 (fld r x.a) < toInt 32 (y r))) (fld r x.a == y r) false) r) s)) ∧
      (x.ty = 2 → laneOp op n s = .next (recsDone n j o x (fun r => setPrd x.pd (condOf (x.sub % 8)
        (decide (fld r x.a < y r)) (fld r x.a == y r) false) r) s)) := by
  intro y hnamed
  have hc : ¬ 7 ≤ x.sub % 8 := Nat.not_le.mpr hnamed
  have hmap := hdo.trans (if_neg hc)
  refine ⟨fun hty => laneOp_quiet h hop (fun r => ?_) hmap, fun hty => laneOp_quiet h hop (fun r => ?_) hmap,
    fun hty => laneOp_quiet h hop (fun r => ?_) hmap⟩ <;> rw [cmpBit, if_neg hc, hty] <;> rfl

end Records

/-- No record's index is out of the table. -/
theorem tableOob_inside {x : SIns} {l : Work}
    (h : ∀ r ∈ l.recs, prd r x.pg = true → fld r x.a < pgTsize l.o.prog (x.sub % 4)) : tableOob x l = l := by
  have hnone : l.recs.filter (fun r => prd r x.pg && decide (pgTsize l.o.prog (x.sub % 4) ≤ fld r x.a)) = [] := by
    refine List.filter_eq_nil_iff.mpr fun r hr hout => ?_
    rw [Bool.and_eq_true, decide_eq_true_eq] at hout
    exact Nat.not_le.mpr (h r hr hout.1) hout.2
  unfold tableOob
  rw [hnone]
  rfl

/-! ### The statement of the instructions on each record -/

/-- Settles O47, instruction by instruction: each is a function of a record, applied to the guarded ones. -/
theorem recordInstructions : Obligations.RecordInstructions := by
  unfold Obligations.RecordInstructions
  intro s n j o x h
  refine ⟨fun hop => ?nop, fun hop => laneOp_binary h hop false ?add, fun hop => laneOp_binary h hop false ?min,
    fun hop => laneOp_binary h hop false ?max, fun hop => laneOp_binary h hop false ?mul, fun hop => laneOp_binary h hop true ?addi,
    fun hop => laneOp_binary h hop true ?muli, fun hop => laneOp_quiet h hop (fun _ => rfl) ?movi,
    fun hop => laneOp_quiet h hop (fun _ => rfl) ?movp, fun hop => laneOp_quiet h hop (fun _ => rfl) ?getid,
    fun hop => laneOp_compare h hop false ?cmp, fun hop => laneOp_compare h hop true ?cmpi,
    fun hop => laneOp_quiet h hop (fun _ => rfl) ?plog, fun hop => laneOp_quiet h hop (fun _ => rfl) ?sel,
    fun hop => ?cvt, fun hop hin => laneOp_quiet h hop (fun _ => rfl) ?gather⟩
  case nop =>
    refine laneOp_leaves h hop ?_
    rw [doIns, hop, guarded_id]
    rfl
  case cvt =>
    have hdo : doIns x (j.work o s) = doCvt x (j.work o s) := by
      rw [doIns, hop]
      rfl
    exact laneOp_nans h hop hdo fun _ => rfl
  case gather =>
    rw [doIns, hop]
    show doGather x _ = _
    rw [doGather, tableOob_inside hin]
    rfl
  all_goals
    rw [doIns, hop]
    rfl

end Sys2Proof.Machine
end

section
/-! SUPPORT. Instructions of a stage that take its records in their order (09 R243-R246, R251, Table 9.8): lists in the order of a
test, counts by key, and what an instruction adds to a table. -/

namespace Sys2Proof.Machine
open Sys2Proof

/-! ### Lists in the order of a test (R236, R245) -/

/-- A test orders any two elements, and consistently. -/
structure Orders {α : Type} (le : α → α → Bool) : Prop where
  total : ∀ a b, le a b = true ∨ le b a = true
  trans : ∀ a b c, le a b = true → le b c = true → le a c = true

section Ordering
variable {α : Type} (le : α → α → Bool)

theorem insertBy_eq_orderedInsert (a : α) : ∀ l : List α, insertBy le a l = l.orderedInsert (le · · = true) a
  | [] => rfl
  | b :: l => by rw [insertBy, List.orderedInsert_cons, insertBy_eq_orderedInsert a l]

theorem sortBy_eq_insertionSort : ∀ l : List α, sortBy le l = l.insertionSort (le · · = true)
  | [] => rfl
  | a :: l => by rw [sortBy, List.insertionSort_cons, sortBy_eq_insertionSort l, insertBy_eq_orderedInsert]

theorem sortBy_perm (l : List α) : (sortBy le l).Perm l := by
  rw [sortBy_eq_insertionSort]
  exact List.perm_insertionSort _ l

variable {le}

theorem sortBy_pairwise (h : Orders le) (l : List α) : (sortBy le l).Pairwise fun a b => le a b = true := by
  have : Std.Total fun a b => le a b = true := ⟨h.total⟩
  have : IsTrans α fun a b => le a b = true := ⟨h.trans⟩
  rw [sortBy_eq_insertionSort]
  exact List.pairwise_insertionSort _ l

/-- The first k of a list in order: none of the rest comes before one of them. -/
theorem sortBy_take (h : Orders le) (l : List α) (k : Nat) :
    ((sortBy le l).take k).length = min k l.length ∧
    (∃ rest, ((sortBy le l).take k ++ rest).Perm l ∧ ∀ a ∈ (sortBy le l).take k, ∀ b ∈ rest, le a b = true) ∧
    ((sortBy le l).take k).Pairwise fun a b => le a b = true := by
  have hperm := sortBy_perm le l
  have hsorted := sortBy_pairwise h l
  have hparts := List.take_append_drop k (sortBy le l)
  refine ⟨by rw [List.length_take, hperm.length_eq], ⟨(sortBy le l).drop k, by rwa [hparts], fun a ha b hb => ?_⟩, hsorted.take⟩
  rw [← hparts] at hsorted
  exact (List.pairwise_append.mp hsorted).2.2 a ha b hb

end Ordering

theorem idLe_iff (r q : Rec) : idLe r q = true ↔ r.rank < q.rank ∨ r.rank = q.rank ∧ r.idx ≤ q.idx := by simp [idLe]

theorem idLe_orders : Orders idLe where
  total r q := by simp only [idLe_iff]; omega
  trans r q p := by simp only [idLe_iff]; omega

/-- Order by key and then by identity. -/
theorem keyLe_iff (ty a : Nat) (desc : Bool) (r q : Rec) : keyLe ty a desc r q = true ↔
    (if desc = true then sortKey ty (fld q a) < sortKey ty (fld r a) else sortKey ty (fld r a) < sortKey ty (fld q a)) ∨
      sortKey ty (fld r a) = sortKey ty (fld q a) ∧ idLe r q = true := by
  cases desc <;> simp [keyLe]

theorem keyLe_orders (ty a : Nat) (desc : Bool) : Orders (keyLe ty a desc) where
  total r q := by
    simp only [keyLe_iff, idLe_iff]
    cases desc <;> simp only [reduceIte, Bool.false_eq_true] <;> omega
  trans r q p := by
    simp only [keyLe_iff, idLe_iff]
    cases desc <;> simp only [reduceIte, Bool.false_eq_true] <;> omega

/-! ### Counts by key -/

/-- Counts that are raised key by key: each key's rises by its number of elements. -/
theorem smGet_foldl_count {α : Type} (key : α → Nat) (k : Nat) : ∀ (l : List α) {d : List (Nat × Nat)},
    (d.Pairwise fun p q => p.1 < q.1) → smGet 0 (l.foldl (fun d a => smPut 0 d (key a) (smGet 0 d (key a) + 1)) d) k =
      smGet 0 d k + (l.filter fun a => key a == k).length
  | [], _, _ => rfl
  | a :: l, d, hd => by
    rw [List.foldl_cons, smGet_foldl_count key k l (smPut_pairwise _ _ _ _ hd)]
    by_cases hk : key a = k
    · rw [List.filter_cons_of_pos (p := fun a => key a == k) (beq_iff_eq.mpr hk), hk, smGet_put_same _ _ _ _ hd, List.length_cons]
      omega
    · rw [List.filter_cons_of_neg (p := fun a => key a == k) (mt beq_iff_eq.mp hk), smGet_put_other _ _ _ _ _ _ (Ne.symm hk) hd]

/-- Two folds agree whose steps agree on what the one keeps. -/
theorem foldl_eq_of_keeps {α β : Type} {P : β → Prop} {f g : β → α → β} : ∀ (l : List α) (b : β), P b →
    (∀ b, P b → ∀ a ∈ l, f b a = g b a ∧ P (g b a)) → l.foldl f b = l.foldl g b
  | [], _, _, _ => rfl
  | a :: l, b, hb, h => by
    obtain ⟨hfg, hP⟩ := h b hb a List.mem_cons_self
    rw [List.foldl_cons, List.foldl_cons, hfg]
    exact foldl_eq_of_keeps l _ hP fun c hc y hy => h c hc y (List.mem_cons_of_mem a hy)

/-! ### Tables (R246, R251) -/

section Tables
variable (t i v : Nat) (o : StrmOp)

theorem tableSet_table : (tableSet t i v o).tables.getD t [] = (o.tables.getD t []).set i (v % 2 ^ 32) := by
  unfold tableSet
  rw [List.getD_eq_getElem?_getD, List.getElem?_modify_eq, List.getD_eq_getElem?_getD]
  cases o.tables[t]? <;> rfl

theorem tableSet_table_other {q : Nat} (hq : q ≠ t) : (tableSet t i v o).tables.getD q [] = o.tables.getD q [] := by
  dsimp only [tableSet]
  rw [List.getD_eq_getElem?_getD, List.getElem?_modify_ne _ _ (Ne.symm hq), List.getD_eq_getElem?_getD]

theorem tableSet_mod : tableSet t i (v % 2 ^ 32) o = tableSet t i v o := by
  unfold tableSet
  rw [Nat.mod_mod]

/-- An entry of a table after an entry has been set. -/
theorem tableGet_tableSet {k : Nat} (hi : i < (o.tables.getD t []).length) :
    tableGet (tableSet t i v o) t k = if i = k then v % 2 ^ 32 else tableGet o t k := by
  unfold tableGet
  rw [tableSet_table]
  generalize o.tables.getD t [] = entries at hi ⊢
  rw [List.getD_eq_getElem?_getD, List.getElem?_set, List.getD_eq_getElem?_getD]
  split
  · rfl
  · rfl

/-- An operation has changed in one table alone, whose size stays. -/
structure TableOnly (o u : StrmOp) : Prop where
  frame : u = { o with tables := u.tables }
  others : ∀ q, q ≠ t → u.tables.getD q [] = o.tables.getD q []
  size : (u.tables.getD t []).length = (o.tables.getD t []).length

variable {t} in
theorem TableOnly.trans {o u w : StrmOp} (h : TableOnly t o u) (g : TableOnly t u w) : TableOnly t o w where
  frame := by rw [g.frame, h.frame]
  others q hq := (g.others q hq).trans (h.others q hq)
  size := g.size.trans h.size

theorem tableSet_only : TableOnly t o (tableSet t i v o) :=
  ⟨rfl, fun _ hq => tableSet_table_other t i v o hq, by rw [tableSet_table, List.length_set]⟩

/-- An entry of a table rises. -/
def addTo (t i v : Nat) (o : StrmOp) : StrmOp := tableSet t i (tableGet o t i + v) o

theorem tableGet_addTo {k : Nat} (hi : i < (o.tables.getD t []).length) :
    tableGet (addTo t i v o) t k % 2 ^ 32 = (tableGet o t k + if i = k then v else 0) % 2 ^ 32 := by
  rw [addTo, tableGet_tableSet t i _ o hi]
  split
  · next hk => rw [Nat.mod_mod, hk]
  · rfl

/-- The records raise the entries that they index, one after the other. -/
def addAll (t : Nat) (idx add : Rec → Nat) (rs : List Rec) (o : StrmOp) : StrmOp :=
  rs.foldl (fun o r => addTo t (idx r) (add r) o) o

theorem addAll_only (idx add : Rec → Nat) : ∀ (rs : List Rec) (o : StrmOp), TableOnly t o (addAll t idx add rs o)
  | [], _ => ⟨rfl, fun _ _ => rfl, rfl⟩
  | r :: rs, o => (tableSet_only t _ _ o).trans (addAll_only idx add rs (addTo t (idx r) (add r) o))

/-- Each entry rises by what the records that index it add, modulo 2^32. -/
theorem tableGet_addAll (idx add : Rec → Nat) (k : Nat) : ∀ {rs : List Rec} {o : StrmOp},
    (∀ r ∈ rs, idx r < (o.tables.getD t []).length) → tableGet (addAll t idx add rs o) t k % 2 ^ 32 =
      (tableGet o t k + ((rs.filter fun r => idx r == k).map add).sum) % 2 ^ 32
  | [], _, _ => rfl
  | r :: rs, o, hin => by
    have hr := hin r List.mem_cons_self
    have hsize : ((addTo t (idx r) (add r) o).tables.getD t []).length = (o.tables.getD t []).length := (tableSet_only t _ _ o).size
    have hrest := tableGet_addAll idx add k (rs := rs) (o := addTo t (idx r) (add r) o) fun q hq => by
      rw [hsize]
      exact hin q (List.mem_cons_of_mem r hq)
    rw [show addAll t idx add (r :: rs) o = addAll t idx add rs (addTo t (idx r) (add r) o) from rfl, hrest, Nat.add_mod,
      tableGet_addTo t _ _ o hr, ← Nat.add_mod]
    by_cases hk : idx r = k
    · rw [if_pos hk, List.filter_cons_of_pos (p := fun r => idx r == k) (beq_iff_eq.mpr hk), List.map_cons, List.sum_cons, Nat.add_assoc]
    · rw [if_neg hk, List.filter_cons_of_neg (p := fun r => idx r == k) (mt beq_iff_eq.mp hk), Nat.add_zero]

end Tables

/-! ### Instructions record by record -/

section InOrder
variable (x : SIns) (f : Rec → StrmOp → Rec × StrmOp × Option Nat)

/-- The records after an ordered table instruction. -/
def inOrder : List Rec → StrmOp → List Rec
  | [], _ => []
  | r :: rs, o => if prd r x.pg then (f r o).1 :: inOrder rs (f r o).2.1 else r :: inOrder rs o

theorem inOrder_length : ∀ (rs : List Rec) (o : StrmOp), (inOrder x f rs o).length = rs.length
  | [], _ => rfl
  | r :: rs, o => by
    rw [inOrder]
    split <;> rw [List.length_cons, List.length_cons, inOrder_length rs]

theorem inOrder_same (hf : ∀ r o, (f r o).1 = r) : ∀ (rs : List Rec) (o : StrmOp), inOrder x f rs o = rs
  | [], _ => rfl
  | r :: rs, o => by
    rw [inOrder]
    split
    · rw [hf, inOrder_same hf rs]
    · rw [inOrder_same hf rs]

/-- One record of an ordered table instruction. -/
def orderedStep (acc : List Rec × StrmOp × List (Option Nat × Nat)) (r : Rec) : List Rec × StrmOp × List (Option Nat × Nat) :=
  if prd r x.pg then
    let (r', o, c) := f r acc.2.1
    (acc.1 ++ [r'], o, acc.2.2 ++ [(c, r.idx)])
  else (acc.1 ++ [r], acc.2.1, acc.2.2 ++ [(none, r.idx)])

variable {f}

theorem foldl_orderedStep (hf : ∀ r o, (f r o).2.2 = none) : ∀ (rs seen : List Rec) (o : StrmOp) (ns : List (Option Nat × Nat)),
    (∀ p ∈ ns, p.1 = none) → ∃ ns', (∀ p ∈ ns', p.1 = none) ∧ rs.foldl (orderedStep x f) (seen, o, ns) =
      (seen ++ inOrder x f rs o, (rs.filter fun r => prd r x.pg).foldl (fun o r => (f r o).2.1) o, ns')
  | [], seen, o, ns, hns => ⟨ns, hns, by rw [inOrder, List.append_nil]; rfl⟩
  | r :: rs, seen, o, ns, hns => by
    have hmore : ∀ p ∈ ns ++ [(none, r.idx)], p.1 = none := fun p hp => (List.mem_append.mp hp).elim (hns p) fun hp => by
      rw [List.mem_singleton.mp hp]
    by_cases hg : prd r x.pg = true
    · obtain ⟨ns', hns', he⟩ := foldl_orderedStep hf rs (seen ++ [(f r o).1]) (f r o).2.1 _ hmore
      refine ⟨ns', hns', ?_⟩
      rw [List.foldl_cons, orderedStep, if_pos hg, inOrder, if_pos hg, List.filter_cons_of_pos (p := fun r => prd r x.pg) hg, List.foldl_cons,
        List.append_cons seen, ← he, ← hf r o]
    · obtain ⟨ns', hns', he⟩ := foldl_orderedStep hf rs (seen ++ [r]) o _ hmore
      refine ⟨ns', hns', ?_⟩
      rw [List.foldl_cons, orderedStep, if_neg hg, inOrder, if_neg hg, List.filter_cons_of_neg (p := fun r => prd r x.pg) hg,
        List.append_cons seen r (inOrder x f rs o), ← he]

/-- An ordered table instruction that produces no NaN changes records and the operation alone. -/
theorem eachInOrder_quiet (hf : ∀ r o, (f r o).2.2 = none) (l : Work) : eachInOrder x f l = { l with
    recs := inOrder x f l.recs l.o
    o := (l.recs.filter fun r => prd r x.pg).foldl (fun o r => (f r o).2.1) l.o } := by
  obtain ⟨ns, hns, he⟩ := foldl_orderedStep x hf l.recs [] l.o [] (fun _ hp => absurd hp List.not_mem_nil)
  have hdone : eachInOrder x f l = (fun q : List Rec × StrmOp × List (Option Nat × Nat) =>
    { l with recs := q.1, o := q.2.1, s := laneNans l.o 32 q.2.2 l.s }) (l.recs.foldl (orderedStep x f) ([], l.o, [])) := rfl
  rw [hdone, he]
  dsimp only
  rw [laneNans_none _ _ hns]
  rfl

end InOrder

/-- What an index test of the program's own table leaves, as long as the program stays. -/
theorem foldl_inside {f g : StrmOp → Rec → StrmOp} {rs : List Rec} {o : StrmOp}
    (h : ∀ u : StrmOp, u.prog = o.prog → ∀ r ∈ rs, f u r = g u r) (hg : ∀ u r, (g u r).prog = u.prog) :
    rs.foldl f o = rs.foldl g o :=
  foldl_eq_of_keeps (P := fun u => u.prog = o.prog) rs o rfl fun u hu r hr => ⟨h u hu r hr, (hg u r).trans hu⟩

end Sys2Proof.Machine
end

section
/-! SUPPORT. The ordered instructions and those that change which records there are, one by one (09 R243-R246, R251, Table 9.8). -/

namespace Sys2Proof.Machine
open Sys2Proof

/-! ### Instructions on tables -/

section Tables
variable {x : SIns} {l : Work}

/-- Index of the table that an instruction names. -/
abbrev SIns.table (x : SIns) : Nat := x.sub % 4

/-- The guarded records. -/
abbrev Work.guarded (x : SIns) (l : Work) : List Rec := l.recs.filter fun r => prd r x.pg

/-- FETCHADD of one record: it gets its entry, which rises; out of the table it gets all ones. -/
def fetchStep (x : SIns) (r : Rec) (o : StrmOp) : Rec × StrmOp × Option Nat :=
  if fld r x.a < pgTsize o.prog x.table then
    (setFld x.d (tableGet o x.table (fld r x.a)) r, addTo x.table (fld r x.a) x.imm o, none)
  else (setFld x.d 0xFFFFFFFF r, o, none)

theorem doFetchadd_eq (x : SIns) (l : Work) : doFetchadd x l = eachInOrder x (fetchStep x) (tableOob x l) := rfl

section Inside
variable (hin : ∀ r ∈ l.guarded x, fld r x.a < pgTsize l.o.prog x.table)
include hin

theorem tableOob_guarded : tableOob x l = l :=
  tableOob_inside fun r hr hg => hin r (List.mem_filter.mpr ⟨hr, hg⟩)

/-- SCATTER that stores. -/
theorem doScatter_stores (hmode : x.sub / 4 % 4 = 0) : doScatter x l =
    { l with o := (l.guarded x).foldl (fun o r => tableSet x.table (fld r x.a) (fld r x.b) o) l.o } := by
  unfold doScatter
  rw [tableOob_guarded hin, eachInOrder_quiet, inOrder_same]
  · congr 1
    exact foldl_inside (fun u hu r hr => by simp only [hu, hin r hr, if_true, scatterVal, hmode]) fun _ _ => rfl
  · intro r o
    split <;> rfl
  · intro r o
    split
    · simp only [scatterVal, hmode, if_true]
    · rfl

/-- SCATTER that adds, of TYPE U32. -/
theorem doScatter_adds (hmode : x.sub / 4 % 4 = 1) (hty : x.ty = 2) : doScatter x l =
    { l with o := addAll x.table (fun r => fld r x.a) (fun r => fld r x.b) (l.guarded x) l.o } := by
  have hval (old b : Nat) : scatterVal x old b = ((old + b) % 2 ^ 32, none) := by
    simp only [scatterVal, hmode, hty, arith, Nat.one_ne_zero, if_false, if_true, OfNat.ofNat_ne_zero, OfNat.ofNat_ne_one]
    rfl
  unfold doScatter
  rw [tableOob_guarded hin, eachInOrder_quiet, inOrder_same]
  · congr 1
    exact foldl_inside (fun u hu r hr => by simp only [hu, hin r hr, if_true, hval, tableSet_mod]; rfl) fun _ _ => rfl
  · intro r o
    split <;> rfl
  · intro r o
    split
    · rw [hval]
    · rfl

/-- FETCHADD: the table entries rise, and each record gets its entry as it finds it. -/
theorem doFetchadd_adds : ∃ rs, doFetchadd x l = { l with
      recs := rs, o := addAll x.table (fun r => fld r x.a) (fun _ => x.imm) (l.guarded x) l.o } ∧
    rs.length = l.recs.length ∧
    ∀ r, l.recs = [r] → prd r x.pg = true → rs = [setFld x.d (tableGet l.o x.table (fld r x.a)) r] := by
  have hquiet : ∀ r o, (fetchStep x r o).2.2 = none := fun r o => by
    unfold fetchStep
    split <;> rfl
  refine ⟨inOrder x (fetchStep x) l.recs l.o, ?_, inOrder_length x _ _ _, fun r hr hg => ?_⟩
  · rw [doFetchadd_eq, tableOob_guarded hin, eachInOrder_quiet x hquiet]
    congr 1
    exact foldl_inside (fun u hu r hr => by rw [fetchStep, hu, if_pos (hin r hr)]) fun _ _ => rfl
  · have hone : fld r x.a < pgTsize l.o.prog x.table := hin r (List.mem_filter.mpr ⟨hr ▸ List.mem_singleton_self r, hg⟩)
    rw [hr, inOrder, if_pos hg, fetchStep, if_pos hone]
    rfl

end Inside

/-- HIST counts each record in its bin. -/
theorem doHist_adds : doHist x l = { l with
    o := addAll x.table (fun r => min (fld r x.a / 2 ^ (x.imm % 32)) (pgTsize l.o.prog x.table - 1)) (fun _ => 1) (l.guarded x) l.o } := by
  unfold doHist
  rw [eachInOrder_quiet, inOrder_same]
  · congr 1
    exact foldl_inside (fun u hu r _ => by rw [hu]; rfl) fun _ _ => rfl
  · exact fun _ _ => rfl
  · exact fun _ _ => rfl

theorem doCount_adds : doCount x l = { l with o := addTo x.table x.imm (l.guarded x).length l.o } := rfl

end Tables

/-! ### PREV -/

theorem zipWith_prevVals {α : Type} (x : SIns) (f : Rec → Nat → α) : ∀ (rs : List Rec) (v : Nat),
    List.zipWith f rs (prevVals x v rs) = List.zipWith f rs (v :: rs.map fun r => fld r x.a)
  | [], _ => rfl
  | r :: rs, v => by
    rw [prevVals, List.zipWith_cons_cons, List.zipWith_cons_cons, zipWith_prevVals x f rs, List.map_cons]

/-! ### TOPK -/

/-- Of records of one group, the first k stay. -/
theorem keepFirst_oneGroup (k : Nat) {grp : Rec → Nat} {g : Nat} (hg : ∀ r, grp r = g) : ∀ (rs : List Rec) (n : Nat),
    keepFirst k grp n (some g) rs = rs.take (k - n)
  | [], _ => by rw [List.take_nil]; rfl
  | r :: rs, n => by
    unfold keepFirst
    simp only [hg, if_true]
    split
    · next hn =>
      rw [keepFirst_oneGroup k hg rs, show k - n = k - (n + 1) + 1 by omega, List.take_succ_cons]
    · next hn =>
      rw [keepFirst_oneGroup k hg rs, Nat.sub_eq_zero_of_le (Nat.not_lt.mp hn), List.take_zero, List.take_zero]

theorem keepFirst_start (k n : Nat) {grp : Rec → Nat} {g : Nat} (hg : ∀ r, grp r = g) (rs : List Rec) :
    keepFirst k grp n none rs = rs.take k := by
  cases rs with
  | nil => rw [List.take_nil]; rfl
  | cons r rs =>
    have h := keepFirst_oneGroup k hg (r :: rs) 0
    unfold keepFirst at h ⊢
    simpa [hg] using h

/-- TOPK over all records keeps the first IMM of them by key. -/
theorem doTopk_whole {x : SIns} (h : bit x.sub 1 = false) (l : Work) : doTopk x l =
    { l with recs := (sortBy (keyLe x.ty x.a (!bit x.sub 0)) l.recs).take x.imm } := by
  unfold doTopk
  simp only [h, Bool.false_eq_true, if_false, Nat.lt_irrefl, decide_false, Bool.false_or, beq_self_eq_true, Bool.true_and]
  rw [keepFirst_start x.imm 0 (g := 0) fun _ => rfl]

/-! ### DROP -/

/-- DROP counts the records that it drops, by rank and in RSE_STRM_CNT (R244). -/
theorem doDrop_spec (x : SIns) (l : Work) (hs : SmWf regReset l.s.regs) : ∃ u,
    doDrop x l = { l with
      recs := l.recs.filter fun r => !prd r x.table
      o := { l.o with drops := (l.recs.filter fun r => prd r x.table).foldl (fun d r => smPut 0 d r.rank (smGet 0 d r.rank + 1)) l.o.drops }
      s := u } ∧
    u = { l.s with regs := u.regs } ∧
    rn u (A.rseStrmCnt l.o.node 2) = min 0xFFFFFFFF (rn l.s (A.rseStrmCnt l.o.node 2) + (l.recs.filter fun r => prd r x.table).length) := by
  refine ⟨_, rfl, ?_⟩
  split
  · next hnone =>
    have hlt := rn_lt l.s (A.rseStrmCnt l.o.node 2)
    refine ⟨rfl, ?_⟩
    rw [hnone, List.length_nil]
    omega
  · exact ⟨rfl, rn_bump_same _ _ hs⟩

/-! ### The statement of the ordered instructions -/

/-- Settles O48, instruction by instruction. -/
theorem orderedInstructions : Obligations.OrderedInstructions := by
  unfold Obligations.OrderedInstructions
  intro s n j o x h
  dsimp only
  refine ⟨fun hsize => ⟨fun hin => ⟨fun hop hmode => ?store, fun hop hmode hty => ?scatter, fun hop => ?fetchadd⟩,
      fun hop hpos => ?hist, fun hop himm => ?count⟩,
    fun hop => ?prev, fun hop => ?sort, fun hop hall => ?topk, fun hop => ?filter, fun hop hdrops hs => ?drop⟩
  case store => exact laneOp_leaves h hop (by rw [doIns, hop]; exact doScatter_stores hin hmode)
  case scatter =>
    have honly := addAll_only x.table (fun r => fld r x.a) (fun r => fld r x.b) ((j.work o s).guarded x) o
    refine ⟨_, laneOp_leaves h hop (by rw [doIns, hop]; exact doScatter_adds hin hmode hty), ⟨honly.frame, honly.others⟩,
      fun i _ => tableGet_addAll _ _ _ i fun r hr => hsize ▸ hin r hr⟩
  case fetchadd =>
    obtain ⟨rs, hrs, hlen, hone⟩ := doFetchadd_adds (l := j.work o s) hin
    have honly := addAll_only x.table (fun r => fld r x.a) (fun _ => x.imm) ((j.work o s).guarded x) o
    refine ⟨rs, _, laneOp_leaves h hop (by rw [doIns, hop]; exact hrs), ⟨honly.frame, honly.others⟩, hlen, fun i hi => ?_, hone⟩
    rw [tableGet_addAll _ _ _ i fun r hr => hsize ▸ hin r hr, List.map_const', List.sum_replicate, smul_eq_mul, Nat.mul_comm]
    rfl
  case hist =>
    have honly := addAll_only x.table (fun r => min (fld r x.a / 2 ^ (x.imm % 32)) (pgTsize o.prog x.table - 1)) (fun _ => 1)
      ((j.work o s).guarded x) o
    refine ⟨_, laneOp_leaves h hop (by rw [doIns, hop]; exact doHist_adds), ⟨honly.frame, honly.others⟩, fun i _ => ?_⟩
    have hbin (v : Nat) : min v (pgTsize o.prog x.table - 1) < pgTsize o.prog x.table :=
      Nat.lt_of_le_of_lt (Nat.min_le_right ..) (Nat.sub_one_lt_of_lt hpos)
    rw [tableGet_addAll _ _ _ i fun r _ => lt_of_lt_of_eq (hbin _) hsize.symm, List.map_const', List.sum_replicate, smul_eq_mul, Nat.mul_one]
    rfl
  case count =>
    have honly := tableSet_only x.table x.imm (tableGet o x.table x.imm + ((j.work o s).guarded x).length) o
    refine ⟨_, laneOp_leaves h hop (by rw [doIns, hop]; exact doCount_adds), ⟨honly.frame, honly.others⟩, fun i _ =>
      (tableGet_addTo _ _ _ _ (hsize ▸ himm)).trans ?_⟩
    simp only [eq_comm (a := i)]
    rfl
  case prev =>
    exact laneOp_leaves h hop (by rw [doIns, hop, doPrev, zipWith_prevVals]; rfl)
  case sort =>
    exact ⟨_, laneOp_leaves h hop (by rw [doIns, hop]; rfl), sortBy_perm _ _, sortBy_pairwise (keyLe_orders _ _ _) _⟩
  case topk =>
    obtain ⟨hlen, hrest, hsorted⟩ := sortBy_take (keyLe_orders x.ty x.a (!bit x.sub 0)) j.recs x.imm
    exact ⟨_, laneOp_leaves h hop (by rw [doIns, hop]; exact doTopk_whole hall _), hlen, hrest, hsorted⟩
  case filter => exact laneOp_leaves h hop (by rw [doIns, hop]; rfl)
  case drop =>
    obtain ⟨u, hu, hframe, hcount⟩ := doDrop_spec x (j.work o s) hs
    refine ⟨_, u, laneOp_leaves h hop (by rw [doIns, hop]; exact hu), rfl, hframe, fun k => ?_, hcount⟩
    refine (smGet_foldl_count (fun r : Rec => r.rank) k _ hdrops).trans ?_
    rw [List.filter_filter]
    simp only [Bool.and_comm]
    rfl

end Sys2Proof.Machine
end

section
/-! SUPPORT. What a stage sends (09 R237, R247-R250): packets to homes and to members, and the counts of their ENDs. -/

namespace Sys2Proof.Machine
open Sys2Proof

/-! ### Packets that are sent -/

/-- Packets have been injected, and nothing else has changed. -/
def Injected (s u : State) : Prop := ∃ l, u = { s with fab := { s.fab with inject := s.fab.inject ++ l } }

theorem Injected.refl (s : State) : Injected s s := ⟨[], by rw [List.append_nil]⟩

theorem Injected.trans {s u v : State} (h : Injected s u) (g : Injected u v) : Injected s v := by
  obtain ⟨l, rfl⟩ := h
  obtain ⟨m, rfl⟩ := g
  exact ⟨l ++ m, by rw [← List.append_assoc]⟩

theorem injected_sendBeyond (o : StrmOp) (cls dst : Nat) (toRse : Bool) (payload : List Byte) (s : State) :
    Injected s (sendBeyond o cls dst toRse payload s) := ⟨_, rfl⟩

theorem injected_foldl {α : Type} {f : State → α → State} (hf : ∀ s a, Injected s (f s a)) :
    ∀ (l : List α) (s : State), Injected s (l.foldl f s)
  | [], s => .refl s
  | a :: l, s => (hf s a).trans (injected_foldl hf l (f s a))

/-- OUT packets have been sent and counted, with the landing entries of their records (R248, R249). -/
structure OutsSent (l w : Work) : Prop where
  op : w.o = { l.o with outs := w.o.outs }
  stage : w.stage = l.stage
  recs : w.recs = l.recs
  state : w.s = { l.s with fab := w.s.fab, net := { l.s.net with entries := w.s.net.entries } }
  fab : ∃ q, w.s.fab = { l.s.fab with inject := l.s.fab.inject ++ q }

namespace OutsSent
variable {l w : Work}

theorem refl (l : Work) : OutsSent l l := ⟨rfl, rfl, rfl, rfl, [], by rw [List.append_nil]⟩

theorem trans {v : Work} (h : OutsSent l w) (g : OutsSent w v) : OutsSent l v where
  op := by rw [g.op, h.op]
  stage := g.stage.trans h.stage
  recs := g.recs.trans h.recs
  state := by rw [g.state, h.state]
  fab := by
    obtain ⟨p, hp⟩ := h.fab
    obtain ⟨q, hq⟩ := g.fab
    exact ⟨p ++ q, by rw [hq, hp, List.append_assoc]⟩

theorem sendOut (rank : Nat) (es : List Nat) (pl : List Byte) (l : Work) : OutsSent l (sendOut rank es pl l) :=
  ⟨rfl, rfl, rfl, rfl, _, rfl⟩

theorem foldl {α : Type} {f : Work → α → Work} (hf : ∀ l a, OutsSent l (f l a)) : ∀ (as : List α) (l : Work), OutsSent l (as.foldl f l)
  | [], l => refl l
  | a :: as, l => (hf l a).trans (foldl hf as (f l a))

end OutsSent

/-! ### Packets of records (R237) -/

theorem chunks_nil {α : Type} (n k : Nat) : chunks n k ([] : List α) = [] := by cases k <;> rfl

theorem chunks_ne_nil {α : Type} (n : Nat) {l : List α} (h : l ≠ []) : chunks n l.length l ≠ [] := by
  cases l with
  | nil => exact absurd rfl h
  | cons a l => exact List.cons_ne_nil _ _

theorem recPackets_nil (kind : Nat) (o : StrmOp) (i w lbuf : Nat) : recPackets kind o i w lbuf false [] = [] := rfl

/-- Records are sent in at least one packet. -/
theorem recPackets_ne_nil (kind : Nat) (o : StrmOp) (i w lbuf : Nat) {rs : List Rec} {r : Rec} (hr : r ∈ rs) :
    recPackets kind o i w lbuf false rs ≠ [] := by
  unfold recPackets byBody
  have hbody : r.body ∈ (rs.map fun r => r.body).eraseDups := List.mem_eraseDups.mpr (List.mem_map_of_mem hr)
  have hgroup : rs.filter (fun q => q.body == r.body) ≠ [] :=
    List.ne_nil_of_mem (List.mem_filter.mpr ⟨hr, beq_self_eq_true _⟩)
  simp only [Bool.false_eq_true, if_false, ne_eq, List.flatMap_eq_nil_iff, List.map_eq_nil_iff]
  exact fun hnone => chunks_ne_nil _ hgroup (hnone _ (List.mem_map_of_mem hbody))

/-! ### HPART (R237, R247) -/

section Hpart
variable (x : SIns)

/-- A PART packet goes to the home of an index in the list, and is counted. -/
def sendHome (l : Work) (p : Nat × List Byte) : Work :=
  { l with o := { l.o with homes := smPut 0 l.o.homes p.1 (smGet 0 l.o.homes p.1 + 1) }
           s := sendBeyond l.o clCollUp (homeDst (l.o.list.getD p.1 0)) true p.2 l.s }

/-- PART packets to a home, with its index. -/
def packetsTo (l : Work) (k : Nat) : List (Nat × List Byte) :=
  (recPackets 0x11 l.o 0 (pgWmid l.o.prog) 0 false (l.recs.filter fun r => homeOf x l.o r == k)).map fun p => (k, p.2)

theorem foldl_sendHome : ∀ (ps : List (Nat × List Byte)) (l : Work), ps.foldl sendHome l = { l with
    o := { l.o with homes := ps.foldl (fun d p => smPut 0 d p.1 (smGet 0 d p.1 + 1)) l.o.homes }
    s := ps.foldl (fun s p => sendBeyond l.o clCollUp (homeDst (l.o.list.getD p.1 0)) true p.2 s) l.s }
  | [], _ => rfl
  | p :: ps, l => by
    rw [List.foldl_cons, foldl_sendHome ps]
    rfl

theorem foldl_packetsTo : ∀ (ks : List Nat) (l : Work),
    ks.foldl (fun l k => (packetsTo x l k).foldl sendHome l) l = (ks.flatMap (packetsTo x l)).foldl sendHome l
  | [], _ => rfl
  | k :: ks, l => by
    have hsame : packetsTo x ((packetsTo x l k).foldl sendHome l) = packetsTo x l := by
      rw [foldl_sendHome]
      rfl
    rw [List.foldl_cons, foldl_packetsTo ks, hsame, List.flatMap_cons, List.foldl_append]

/-- HPART sends the packets of every home, one after the other. -/
theorem doHpart_eq (l : Work) : doHpart x l = ((List.range l.o.list.length).flatMap (packetsTo x l)).foldl sendHome l := by
  rw [← foldl_packetsTo]
  unfold doHpart packetsTo
  simp only [List.foldl_map]
  rfl

/-- A home is sent a packet where it has a record. -/
theorem mem_packetsTo {l : Work} {k : Nat} (hk : k < l.o.list.length) :
    (∀ p ∈ (List.range l.o.list.length).flatMap (packetsTo x l), p.1 ≠ k) ↔ ∀ r ∈ l.recs, homeOf x l.o r ≠ k := by
  constructor
  · intro h r hr hhome
    obtain ⟨p, hp⟩ := List.exists_mem_of_ne_nil _ (recPackets_ne_nil 0x11 l.o 0 (pgWmid l.o.prog) 0
      (List.mem_filter (p := fun r => homeOf x l.o r == k).mpr ⟨hr, beq_iff_eq.mpr hhome⟩))
    exact h (k, p.2) (List.mem_flatMap.mpr ⟨k, List.mem_range.mpr hk, List.mem_map.mpr ⟨p, hp, rfl⟩⟩) rfl
  · intro h p hp hpk
    obtain ⟨k', -, hp⟩ := List.mem_flatMap.mp hp
    obtain ⟨q, hq, rfl⟩ := List.mem_map.mp hp
    have hnone : l.recs.filter (fun r => homeOf x l.o r == k') = [] :=
      List.filter_eq_nil_iff.mpr fun r hr hhome => h r hr ((beq_iff_eq.mp hhome).trans hpk)
    rw [hnone, recPackets_nil] at hq
    exact List.not_mem_nil hq

/-- HPART sends to a home where it has a record for it, and counts what it sends. -/
theorem doHpart_spec (l : Work) (hd : l.o.homes.Pairwise fun p q => p.1 < q.1) : ∃ h u,
    doHpart x l = { l with o := { l.o with homes := h }, s := u } ∧ Injected l.s u ∧
    ∀ k < l.o.list.length, (smGet 0 h k = smGet 0 l.o.homes k ↔ ∀ r ∈ l.recs, homeOf x l.o r ≠ k) := by
  refine ⟨_, _, (doHpart_eq x l).trans (foldl_sendHome _ l), injected_foldl (fun s p => injected_sendBeyond _ _ _ _ _ s) _ _,
    fun k hk => ?_⟩
  rw [← mem_packetsTo x hk, smGet_foldl_count Prod.fst k _ hd, Nat.add_eq_left, List.length_eq_zero_iff, List.filter_eq_nil_iff]
  simp only [beq_iff_eq, ne_eq]

end Hpart

/-! ### TEMIT (R249) -/

/-- The packets that a table takes. -/
theorem chunks_table_length {α : Type} : ∀ {k : Nat} {l : List α}, l.length ≤ k → (chunks 4092 k l).length = (l.length + 4091) / 4092
  | k, [], _ => by simp [chunks_nil]
  | 0, _ :: _, h => absurd h (Nat.not_succ_le_zero _)
  | k + 1, a :: l, h => by
    have hrest : ((a :: l).drop 4092).length ≤ k := by
      rw [List.length_drop]
      rw [List.length_cons] at h ⊢
      omega
    rw [chunks, List.length_cons, chunks_table_length hrest, List.length_drop]
    · rw [List.length_cons]
      omega
    · exact List.cons_ne_nil _ _

theorem outs_foldl_sendOut {α : Type} (i : Nat) (pl : Work → α → List Byte) : ∀ (cs : List α) (l : Work),
    (cs.foldl (fun l c => sendOut (cdParam l.o.desc i % 2 ^ 24) [] (pl l c) l) l).o.outs =
      cs.foldl (fun d _ => smPut 0 d (cdParam l.o.desc i % 2 ^ 24) (smGet 0 d (cdParam l.o.desc i % 2 ^ 24) + 1)) l.o.outs
  | [], _ => rfl
  | c :: cs, l => by
    rw [List.foldl_cons, outs_foldl_sendOut i pl cs]
    rfl

/-- TEMIT sends its table to one member, in as many packets as it takes. -/
theorem doTemit_sent (x : SIns) (l : Work) : OutsSent l (doTemit x l) := OutsSent.foldl (fun w _ => .sendOut _ _ _ w) _ l

theorem outs_doTemit (x : SIns) (l : Work) (hd : l.o.outs.Pairwise fun p q => p.1 < q.1) (k : Nat) :
    smGet 0 (doTemit x l).o.outs k = smGet 0 l.o.outs k +
      if cdParam l.o.desc (x.imm % 4) % 2 ^ 24 = k then ((l.o.tables.getD (x.sub % 4) []).length + 4091) / 4092 else 0 := by
  unfold doTemit
  rw [outs_foldl_sendOut, smGet_foldl_count (fun _ => cdParam l.o.desc (x.imm % 4) % 2 ^ 24) k _ hd]
  split
  · next hk => rw [List.filter_eq_self.mpr fun _ _ => beq_iff_eq.mpr hk, chunks_table_length (Nat.le_refl _)]
  · next hk => rw [List.filter_eq_nil_iff.mpr fun _ _ => mt beq_iff_eq.mp hk, List.length_nil]

/-! ### EMIT (R248) -/

/-- EMIT counts its records, and sends them, where each lands. -/
theorem doEmit_sent (x : SIns) (l : Work) (hs : SmWf regReset l.s.regs) (h : ∀ r ∈ l.guarded x, landsOk x l r = true) :
    ∃ u, OutsSent { l with s := u } (doEmit x l) ∧ u = { l.s with regs := u.regs } ∧
      rn u (A.rseStrmCnt l.o.node 1) = min 0xFFFFFFFF (rn l.s (A.rseStrmCnt l.o.node 1) + (l.guarded x).length) := by
  have hbad : (l.guarded x).filter (fun r => !landsOk x l r) = [] :=
    List.filter_eq_nil_iff.mpr fun r hr => by rw [h r hr]; exact Bool.false_ne_true
  have hall : (l.guarded x).filter (landsOk x l) = l.guarded x := List.filter_eq_self.mpr h
  have hsends (w : Work) : OutsSent w (((l.guarded x).map fun r => fld r x.a).eraseDups.foldl (fun (l' : Work) rank =>
      (recPackets 0x12 l'.o (x.sub / 4 % 8) (pgWout l'.o.prog (x.sub % 2)) (x.sub % 2) (bit x.sub 1)
        ((l.guarded x).filter fun r => fld r x.a == rank)).foldl
          (fun (l' : Work) p => sendOut rank (p.1.map fun r => fld r x.b) p.2 l') l') w) :=
    .foldl (fun w _ => .foldl (fun w _ => .sendOut _ _ _ w) _ w) _ w
  by_cases hnone : l.guarded x = []
  · refine ⟨l.s, ?_, rfl, ?_⟩
    · unfold doEmit
      simp only [hbad, hall]
      rw [if_pos hnone]
      exact hsends l
    · have hlt := rn_lt l.s (A.rseStrmCnt l.o.node 1)
      rw [hnone, List.length_nil]
      omega
  · refine ⟨bump (A.rseStrmCnt l.o.node 1) (l.guarded x).length l.s, ?_, rfl, rn_bump_same _ _ hs⟩
    unfold doEmit
    simp only [hbad, hall]
    rw [if_neg hnone]
    exact hsends _

/-! ### The statement of what a stage sends -/

theorem OutsSent.work {l w : Work} (h : OutsSent l w) : w = { o := w.o, stage := l.stage, recs := l.recs, s := w.s } := by
  rw [← h.stage, ← h.recs]

/-- Settles O49, instruction by instruction. -/
theorem sendingInstructions : Obligations.SendingInstructions := by
  unfold Obligations.SendingInstructions
  intro s n j o x h
  dsimp only
  refine ⟨fun hop houts => ?temit, fun hop hhomes => ?hpart, fun hop hland hs => ?emit⟩
  case temit =>
    have hsent := doTemit_sent x (j.work o s)
    have hcount := outs_doTemit x (j.work o s) houts
    exact ⟨_, _, laneOp_leaves h hop (by rw [doIns, hop]; exact hsent.work), hsent.op, hsent.state, hsent.fab,
      (hcount _).trans (congrArg _ (if_pos rfl)), fun k hk => (hcount k).trans (congrArg _ (if_neg (Ne.symm hk)))⟩
  case hpart =>
    obtain ⟨d, u, hu, ⟨l, hl⟩, hcount⟩ := doHpart_spec x (j.work o s) hhomes
    exact ⟨{ o with homes := d }, u, laneOp_leaves h hop (by rw [doIns, hop]; exact hu), rfl, by rw [hl]; rfl, ⟨l, by rw [hl]; rfl⟩, hcount⟩
  case emit =>
    obtain ⟨u, hsent, hu, hcount⟩ := doEmit_sent x (j.work o s) hs hland
    have hregs : (doEmit x (j.work o s)).s.regs = u.regs := by rw [hsent.state]
    obtain ⟨q, hq⟩ := hsent.fab
    refine ⟨_, _, laneOp_leaves h hop (by rw [doIns, hop]; exact hsent.work), hsent.op, ?_, ⟨q, ?_⟩, ?_⟩
    · rw [hregs]
      conv_lhs => rw [hsent.state]
      show ({ u with fab := _, net := _ } : State) = _
      rw [hu]
      rfl
    · rw [hq, hu]
      rfl
    · rw [rn, rd, hregs]
      exact hcount

end Sys2Proof.Machine
end

section
/-! SUPPORT. Stages at the lane array, and the stream packets that reach an RSE or a member (09 R236-R241, R248-R250). -/

namespace Sys2Proof.Machine
open Sys2Proof

/-! ### Stages (R233, R236, R243) -/

section Stages
variable (n : Nat) {j : LaneJob} {l : Work}

/-- A stage that has another instruction meets it. -/
theorem laneMove_next (h : j.pc + 1 < (stageIns l.o.prog j.stage).length) : laneMove n j l = onNet (fun m => { m with
    lane := m.lane.map fun i => if i = j then { j with pc := j.pc + 1, recs := l.recs } else i }) (putStrm l.o l.s) := if_pos h

theorem freeBody_none (o : StrmOp) (s : State) : freeBody none o s = s := by
  have hnone : o.bodies.find? (fun b => some b.num == none) = none := List.find?_eq_none.mpr fun _ _ => Bool.false_ne_true
  unfold freeBody
  rw [hnone]

/-- After its last instruction a gathered stage leaves the array, and has run. -/
theorem laneMove_ran (h : (stageIns l.o.prog j.stage).length ≤ j.pc + 1) (hbody : j.body = none)
    (hg : gathered l.o.prog j.stage = true) : laneMove n j l =
      stageRan j.stage l.o (onNet (fun m => { m with lane := m.lane.erase j }) (putStrm l.o l.s)) := by
  unfold laneMove
  rw [if_neg (Nat.not_lt.mpr h), hbody]
  dsimp only
  rw [freeBody_none, if_pos hg]

end Stages

section Gathered
variable {s : State} {n : NodeNo} {j : LaneJob} {o : StrmOp} (hjob : s.net.lane.find? (fun j => j.node == n.val) = some j)
  (hop : findStrm s n j.tree j.cseq = some o)
include hjob hop

/-- A word of the stage that cannot be corrected ends its operation (18 R450). -/
theorem exec_gatheredStage_faulty (step : Bool) :
    exec (.gatheredStage n step true) s = .next (strmFault o 0x120C (rseUnit n) (abandonStrm o s)) := by
  show execGatheredStage n step true s = _
  simp only [execGatheredStage, hjob, hop, if_true]

/-- A stage that has begun is not begun again. -/
theorem exec_gatheredStage_begun (hb : j.started = true) (step : Bool) : exec (.gatheredStage n step false) s = .next s := by
  show execGatheredStage n step false s = _
  simp only [execGatheredStage, hjob, hop, hb, Bool.false_eq_true, if_false, if_true]

/-- A stage begins with its records in ascending order of identity. -/
theorem exec_gatheredStage_begins (hb : j.started = false) : exec (.gatheredStage n true false) s = .next (onNet (fun m => { m with
    lane := m.lane.map fun i => if i = j then { j with started := true, recs := sortBy idLe (stageOf o j.stage).recs } else i }) s) := by
  show execGatheredStage n true false s = _
  simp only [execGatheredStage, hjob, hop, hb, Bool.false_eq_true, if_false, if_true]

end Gathered

/-! ### Packets that reach an RSE (R237-R241) -/

section Rse
variable {s : State} {n : NodeNo} {k : Known}

/-- Taking a packet from the buffer does not change the operation that it meets. -/
theorem metStrm_takeHeld (h : Held) (s : State) (n : Nat) (t : Tree) (c v : Nat) (k : Known) :
    (findStrm (takeHeld h s) n t.num c).getD (newStrm (takeHeld h s) n t c v k) = (findStrm s n t.num c).getD (newStrm s n t c v k) := rfl

/-- A member's packet that its stream delivers is taken, and answered. -/
theorem StreamRises.taken {kind : Nat} {b : List Byte} {t : Tree} {e : Nat} {o : StrmOp} {u : State}
    (h : StreamRises s n kind k b t e o u) (f : Tree → List Byte → StrmOp → State → State) :
    strmIntake n kind k f s = rxAccept (edgeAnswers s n t (t.down.getD e t.up)) b (f t b o u) := by
  obtain ⟨⟨g, v, hheld, rfl, hcheck, hmeet, hroom⟩, htree, hedge⟩ := h
  unfold strmIntake
  simp only [hheld, htree, hedge, metStrm_takeHeld, hroom, hcheck, hmeet, Bool.not_true, Bool.false_eq_true, if_false]

/-- The rows of END at an RSE. -/
theorem exec_endPkt_rse (n : NodeNo) (k : Known) (s : State) : exec (.endPkt ⟨128 + n, by omega⟩ k) s = .next (endAtRse n k s) := by
  show execEndPkt ⟨128 + n, _⟩ k s = _
  unfold execEndPkt
  rw [if_neg (by simp), Nat.add_sub_cancel_left]

/-- END of a member, while none of another RSE waits. -/
theorem exec_endPkt_rises {b : List Byte} {t : Tree} {e : Nat} {o : StrmOp} {u : State} (hnone : fromRse s n 0x13 = none)
    (h : StreamRises s n 0x13 k b t e o u) : exec (.endPkt ⟨128 + n, by omega⟩ k) s =
      .next (rxAccept (edgeAnswers s n t (t.down.getD e t.up)) b (takeEnd 0 (pkSrc b) (pkPayload b) o u)) := by
  rw [exec_endPkt_rse, endAtRse, hnone, Option.isSome_none, if_neg Bool.false_ne_true, h.taken]

section Part
variable {step : Bool} {h : Held} {t : Tree} (hfrom : fromRse s n 0x11 = some (h, some t)) (hok : pkCheckOk h.bytes = true)

/-- The version that a packet of an RSE shows. -/
abbrev shownVersion (h : Held) : Nat := b2n (bit (be h.bytes 40 1) 2)

/-- There is no room for a PART packet at its home. -/
abbrev partFull (s : State) (n : Nat) (k : Known) (h : Held) (t : Tree) : Bool :=
  strmNoRoom s ((findStrm s n t.num (opCseq h.bytes)).getD (newStrm s n t (opCseq h.bytes) (shownVersion h) k)) 1 (pkSrc h.bytes)
    (pkPayload h.bytes)

include hfrom hok

/-- A PART for which there is no room (R240). -/
theorem exec_part_refused (hfull : partFull s n k h t = true) : exec (.part n k step) s = .next (refuseBeyond h s) := by
  show execPart n k step s = _
  unfold execPart homeIntake
  simp only [hfrom, hok, hfull, Bool.not_true, Bool.false_eq_true, if_false, if_true]

/-- A PART that its home takes. -/
theorem exec_part_taken {o : StrmOp} {u : State} (hfull : partFull s n k h t = false)
    (hmeet : meetStrm n t (opCseq h.bytes) (shownVersion h) k (takeHeld h s) = (o, u)) : exec (.part n k step) s =
      .next (takeRecs 1 (pkSrc h.bytes) step (pkPayload h.bytes) (carryStatus (be h.bytes 40 1) o) u) := by
  show execPart n k step s = _
  unfold execPart homeIntake
  simp only [hfrom, hok, hfull, hmeet, Bool.not_true, Bool.false_eq_true, if_false]

end Part

end Rse

/-! ### Packets that reach a member (R248-R250) -/

section Member
variable {s : State} {p : PierNo} {a : Arrived} {kind : Nat}
  (harr : arrivedAt s p (fun b => pkOp b == opColl && pkClass b == clCollDn && be b 32 1 == kind) = some a)
  (hok : pkCheckOk a.bytes = true) (hlive : isExpired s p a.bytes = false)
include harr hok hlive

/-- A packet waits while no landing is armed for it (log entry 17). -/
theorem strmArrived_waits (hland : landOf s p a.bytes = none) (f : Landing → List Byte → State → State) : strmArrived p kind f s = s := by
  unfold strmArrived
  simp only [harr, hok, hlive, hland, Bool.not_true, Bool.false_eq_true, if_false]

theorem strmArrived_lands {l : Landing} (hland : landOf s p a.bytes = some l) (f : Landing → List Byte → State → State) :
    strmArrived p kind f s = f l a.bytes (takeArrived a s) := by
  unfold strmArrived
  simp only [harr, hok, hlive, hland, Bool.not_true, Bool.false_eq_true, if_false]

end Member

/-- An OUT packet whose RSE has noted no landing entries brings them. -/
theorem entriesOf_given {s : State} {l : Landing} {b : List Byte}
    (h : (s.net.entries.find? fun e => e.1 == [opTree b, opCseq b, pkSrc b, l.rank, smGet 0 l.cnts (pkSrc b)]) = none)
    (given : List Nat) : entriesOf l b given s = (given, s) := by
  unfold entriesOf
  simp only [h]

/-- An OUT packet of one record lands (R248). -/
theorem exec_outPkt_one {s : State} {p : PierNo} {a : Arrived}
    (harr : arrivedAt s p (fun b => pkOp b == opColl && pkClass b == clCollDn && be b 32 1 == 0x12) = some a)
    (hok : pkCheckOk a.bytes = true) (hlive : isExpired s p a.bytes = false) {l : Landing} (hland : landOf s p a.bytes = some l)
    (hw : 0 < (sheadOf (pkPayload a.bytes)).w) (hone : (sheadOf (pkPayload a.bytes)).nrec = 1)
    (hnone : (s.net.entries.find? fun e =>
      e.1 == [opTree a.bytes, opCseq a.bytes, pkSrc a.bytes, l.rank, smGet 0 l.cnts (pkSrc a.bytes)]) = none) (es : List Nat) :
    let b := a.bytes
    let h := sheadOf (pkPayload b)
    let m := 8 + 4 * h.w
    let q := landRecord p (h.lbuf % 2) h.w (slice (pkPayload b) 16 m) (slice (pkPayload b) (16 + m) h.blen) h.body (es.getD 0 (2 ^ 32))
      { l with status := orStatus l.status h.status, cnts := smPut 0 l.cnts (pkSrc b) (smGet 0 l.cnts (pkSrc b) + 1) } (takeArrived a s)
    exec (.outPkt p es) s = .next (testColl p l.id (putLand p q.1 q.2)) := by
  show execOutPkt p es s = _
  unfold execOutPkt
  rw [strmArrived_lands harr hok hlive hland, entriesOf_given (s := takeArrived a s) hnone]
  simp only [Nat.ne_of_gt hw, hone, if_false, List.range_one, List.foldl_cons, List.foldl_nil, Nat.mul_zero, Nat.add_zero, Nat.mul_one]

/-- An END of an RSE that has sent none yet reaches a member (R250). -/
theorem exec_endPkt_member {s : State} {p : PierNo} {a : Arrived}
    (harr : arrivedAt s p (fun b => pkOp b == opColl && pkClass b == clCollDn && be b 32 1 == 0x13) = some a)
    (hok : pkCheckOk a.bytes = true) (hlive : isExpired s p a.bytes = false) {l : Landing} (hland : landOf s p a.bytes = some l)
    (hfirst : ∀ x ∈ l.ends, x.1 ≠ pkSrc a.bytes) (k : Known) :
    let h := sheadOf (pkPayload a.bytes)
    exec (.endPkt ⟨p, by omega⟩ k) s = .next (testColl p l.id (putLand p
      { l with ends := l.ends ++ [(pkSrc a.bytes, h.count)]
               dropped := (l.dropped + h.idx) % 2 ^ 32
               status := orStatus l.status h.status } (takeArrived a s))) := by
  have hnew : (l.ends.any fun e => e.1 == pkSrc a.bytes) = false :=
    List.any_eq_false.mpr fun x hx => mt beq_iff_eq.mp (hfirst x hx)
  show execEndPkt ⟨p, _⟩ k s = _
  unfold execEndPkt endAtMember
  rw [if_pos p.isLt, strmArrived_lands harr hok hlive hland]
  simp only [hnew, Bool.false_eq_true, if_false]

/-! ### The statement of the stages -/

/-- Settles O50, command by command. -/
theorem streamStages : Obligations.StreamStages := by
  unfold Obligations.StreamStages
  intro s n
  refine ⟨fun j l => ⟨fun h => laneMove_next n h, fun h hbody hg => laneMove_ran n h hbody hg⟩,
    fun j o hjob hop => ⟨fun hb => ⟨_, sortBy_perm _ _, sortBy_pairwise idLe_orders _, exec_gatheredStage_begins hjob hop hb⟩,
      exec_gatheredStage_begun hjob hop, exec_gatheredStage_faulty hjob hop⟩,
    fun k step b t e o u h => ?inPkt, fun k b t e o u hnone h => exec_endPkt_rises hnone h,
    fun k step h t hfrom hok => ⟨exec_part_refused hfrom hok, fun o u hfull hmeet => exec_part_taken hfrom hok hfull hmeet⟩,
    fun p a k es hok hlive => ⟨fun harr => ⟨fun hland => ?waits,
      fun l hland hw hone hnone => exec_outPkt_one harr hok hlive hland hw hone hnone es⟩,
      fun harr l hland hfirst => exec_endPkt_member harr hok hlive hland hfirst k⟩⟩
  case inPkt =>
    show execInPkt n k step s = _
    rw [execInPkt, h.taken]
  case waits =>
    show execOutPkt p es s = _
    rw [execOutPkt, strmArrived_waits harr hok hlive hland]

end Sys2Proof.Machine
end

section
/-! SUPPORT. The program store (09 R253-R255): the writes of RSE_PLOAD, and the end of the check of a load. -/

namespace Sys2Proof.Machine
open Sys2Proof

/-! ### LOAD and CLEAR (R253, R255) -/

section Pload
variable {s : State} {p : GPort}

/-- A LOAD or CLEAR as it is written to RSE_PLOAD. -/
def ploadWord (slot : Fin 64) (op : Nat) : Word := BitVec.ofNat 32 (2 ^ 8 * slot + op)

theorem ploadWord_fields (slot : Fin 64) {op : Nat} (h : op < 16) :
    fget (ploadWord slot op) 3 0 = op ∧ fget (ploadWord slot op) 13 8 = slot := by
  have hslot := slot.isLt
  simp only [ploadWord, fget, bits, BitVec.toNat_ofNat]
  constructor <;> omega

/-- The state after RSE_PLOAD has been written. -/
abbrev ploadWritten (slot : Fin 64) (op : Nat) (s : State) : State := wn A.rsePload (2 ^ 8 * slot + op) s

/-- The state in which a slot's check has begun, of bytes b. -/
def loadBusy (slot : Fin 64) (op : Nat) (b : List Byte) (s : State) : State :=
  onNet (fun m => { m with progLoad := some (slot, b, oldLive s) }) (wf A.rsePstatus 0 0 1 (ploadWritten slot op s))

theorem loadBusy_frame (slot : Fin 64) (op : Nat) (b : List Byte) (s : State) : loadBusy slot op b s = { s with
    regs := (loadBusy slot op b s).regs, net := { s.net with progLoad := some (slot, b, oldLive s) } } := rfl

theorem rbit_loadBusy (hs : SmWf regReset s.regs) (slot : Fin 64) (op : Nat) (b : List Byte) :
    rbit (loadBusy slot op b s) A.rsePstatus 0 = true :=
  rbit_wf_same A.rsePstatus 1 (wn_canonical A.rsePload (2 ^ 8 * slot + op) hs) (by decide)

section Held
variable (hs : SmWf regReset s.regs) (hh : holds s p (dieOf A.rsePload) = true) (slot : Fin 64)
include hs hh

theorem writePload_load (hidle : rbit s A.rsePstatus 0 = false) :
    writePload p (ploadWord slot 1) s = (loadBusy slot 1 (cfgBytes s (A.rsePstage 0) 576) s, stOk) := by
  obtain ⟨hop, hslot⟩ := ploadWord_fields slot (op := 1) (by decide)
  have hstatus : rbit (ploadWritten slot 1 s) A.rsePstatus 0 = false := by
    rw [rbit_congr (rd_wn_other _ hs (by decide)), hidle]
  have hstage : cfgBytes (ploadWritten slot 1 s) (A.rsePstage 0) 576 = cfgBytes s (A.rsePstage 0) 576 :=
    cfgBytes_congr fun i hi => rd_wn_other _ hs (by simp only [A.rsePstage, A.rsePload]; omega)
  have hlive : oldLive (ploadWritten slot 1 s) = oldLive s := rbit_congr (rd_wn_other _ hs (by decide)) 1
  unfold writePload loadBusy
  simp only [hh, hop, hslot, hstatus, hstage, hlive, Bool.not_true, Bool.not_false, Bool.false_eq_true, if_false, if_true, true_or,
    and_self]

theorem writePload_clear (hidle : rbit s A.rsePstatus 0 = false) : writePload p (ploadWord slot 2) s = (loadBusy slot 2 [] s, stOk) := by
  obtain ⟨hop, hslot⟩ := ploadWord_fields slot (op := 2) (by decide)
  have hstatus : rbit (ploadWritten slot 2 s) A.rsePstatus 0 = false := by
    rw [rbit_congr (rd_wn_other _ hs (by decide)), hidle]
  have hlive : oldLive (ploadWritten slot 2 s) = oldLive s := rbit_congr (rd_wn_other _ hs (by decide)) 1
  unfold writePload loadBusy
  simp only [hh, hop, hslot, hstatus, hlive, Bool.not_true, Bool.not_false, Bool.false_eq_true, if_false, if_true, or_true,
    and_self, OfNat.ofNat_ne_one]

/-- While BUSY a write of RSE_PLOAD is ignored. -/
theorem writePload_busy {op : Nat} (ho : op < 16) (hbusy : rbit s A.rsePstatus 0 = true) :
    writePload p (ploadWord slot op) s = (ploadWritten slot op s, stIgnored) := by
  obtain ⟨hop, hslot⟩ := ploadWord_fields slot ho
  have hstatus : rbit (ploadWritten slot op s) A.rsePstatus 0 = true := by
    rw [rbit_congr (rd_wn_other _ hs (by decide)), hbusy]
  unfold writePload
  simp only [hh, hop, hslot, hstatus, Bool.not_true, Bool.false_eq_true, if_false, and_false]

end Held

section Ready
variable (hp : portReady s p = true) {slot : Fin 64} {t : State} {st : Nat}
include hp

theorem exec_progLoad_ready (h : writePload p (ploadWord slot 1) s = (t, st)) :
    exec (.progLoad p slot) s = .next (accessed p A.rsePload 0 st t) := by
  show execProgLoad p slot s = _
  unfold ploadWord at h
  rw [execProgLoad, wrRow_ready hp, h]

theorem exec_progClear_ready (h : writePload p (ploadWord slot 2) s = (t, st)) :
    exec (.progClear p slot) s = .next (accessed p A.rsePload 0 st t) := by
  show execProgClear p slot s = _
  unfold ploadWord at h
  rw [execProgClear, wrRow_ready hp, h]

end Ready

end Pload

/-! ### The end of the check (R254, R255) -/

section LoadEnd
variable {s : State} {slot : Nat} {b : List Byte} {e : Bool}

/-- The check of a load is over. -/
abbrev loadOver (s : State) : State := onNet (fun m => { m with progLoad := none }) s

/-- RSE_PSTATUS after a rejection. -/
def loadRejected (r i : Nat) (s : State) : State := wn A.rsePstatus (2 ^ 16 * i + 2 ^ 8 * r) (loadOver s)

/-- The slot of the version that is not in force has been written. -/
def slotWritten (slot cycles : Nat) (b : List Byte) (s : State) : State :=
  wn A.rsePstatus (0x7F * 2 ^ 16) (progRegs (otherEpoch s) (putProg (otherEpoch s) slot b (tstCharge actReconfig 16 cycles (loadOver s))))

theorem exec_progLoadEnd_none (h : s.net.progLoad = none) (cycles : Nat) : exec (.progLoadEnd cycles) s = .next s := by
  show execProgLoadEnd cycles s = _
  unfold execProgLoadEnd
  rw [h]

theorem rbit_loadRejected (hs : SmWf regReset s.regs) (r i : Nat) : rbit (loadRejected r i s) A.rsePstatus 0 = false := by
  have hword : rd (loadRejected r i s) A.rsePstatus = BitVec.ofNat 32 (2 ^ 16 * i + 2 ^ 8 * r) :=
    rd_wr_same A.rsePstatus _ (loadOver s) hs
  have hbit : fget (rd (loadRejected r i s) A.rsePstatus) 0 0 = 0 := by
    rw [hword]
    simp only [fget, bits, BitVec.toNat_ofNat]
    omega
  rw [rbit, rf, hbit]
  rfl

section Written
variable (slot cycles : Nat) (b : List Byte)

theorem net_slotWritten (s : State) : (slotWritten slot cycles b s).net = { s.net with
    progLoad := none, progs := smPut [] s.net.progs (64 * otherEpoch s + slot) (if allZero b then [] else b) } := by
  have hnet : (tstCharge actReconfig 16 cycles (loadOver s)).net = { s.net with progLoad := none } := by rw [tstCharge_frame]; rfl
  have hput : (slotWritten slot cycles b s).net = { (tstCharge actReconfig 16 cycles (loadOver s)).net with
    progs := smPut [] (tstCharge actReconfig 16 cycles (loadOver s)).net.progs (64 * otherEpoch s + slot) (if allZero b then [] else b) } := rfl
  rw [hput, hnet]

/-- What is written after a slot has been charged. -/
theorem putProg_words_frame (a v k slot : Nat) (b : List Byte) (c : State) : wn a v (progRegs k (putProg k slot b c)) = { c with
    regs := (wn a v (progRegs k (putProg k slot b c))).regs, net := (putProg k slot b c).net } := rfl

theorem regs_tst_net_frame {s c u : State} (hc : c = { loadOver s with regs := c.regs, tst := c.tst })
    (hu : u = { c with regs := u.regs, net := u.net }) : u = { s with regs := u.regs, tst := u.tst, net := u.net } := by
  have htst : u.tst = c.tst := by rw [hu]
  calc
    u = { c with regs := u.regs, net := u.net } := hu
    _ = { s with regs := u.regs, tst := c.tst, net := u.net } := by rw [hc]; rfl
    _ = { s with regs := u.regs, tst := u.tst, net := u.net } := by rw [htst]

theorem slotWritten_frame (s : State) : slotWritten slot cycles b s = { s with
    regs := (slotWritten slot cycles b s).regs, tst := (slotWritten slot cycles b s).tst
    net := { s.net with progLoad := none, progs := (slotWritten slot cycles b s).net.progs } } := by
  have hframe := regs_tst_net_frame (u := slotWritten slot cycles b s) (tstCharge_frame actReconfig 16 cycles (loadOver s))
    (putProg_words_frame ..)
  refine hframe.trans ?_
  rw [net_slotWritten]

theorem rn_slotWritten (hs : SmWf regReset s.regs) : rn (slotWritten slot cycles b s) A.rsePstatus = 0x7F * 2 ^ 16 := by
  have hcharged := tstCharge_canonical actReconfig 16 cycles (s := loadOver s) hs
  have hregs : SmWf regReset (progRegs (otherEpoch s)
      (putProg (otherEpoch s) slot b (tstCharge actReconfig 16 cycles (loadOver s)))).regs :=
    putCfg_wf _ _ _ (wn64_canonical _ _ (s := putProg _ slot b _) hcharged)
  exact rn_wn_same A.rsePstatus hregs (by decide)

end Written

section Checked
variable (h : s.net.progLoad = some (slot, b, e))
include h

theorem exec_progLoadEnd_rejected {r i : Nat} (hf : loadFault s b e = some (r, i)) (cycles : Nat) : exec (.progLoadEnd cycles) s =
    .next (raiseEvent { code := 0x0902, unit := rseUnit 0, detail := 2 ^ 8 * i + r } (loadRejected r i s)) := by
  show execProgLoadEnd cycles s = _
  unfold execProgLoadEnd
  rw [h]
  dsimp only
  rw [hf]
  rfl

theorem exec_progLoadEnd_written (hf : loadFault s b e = none) (hspent : tstSpent s actReconfig 16 = false) (cycles : Nat) :
    exec (.progLoadEnd cycles) s = .next (raiseEvent
      { code := 0x0901, unit := rseUnit 0, detail := 2 ^ 8 * slot + otherEpoch s } (slotWritten slot cycles b s)) := by
  show execProgLoadEnd cycles s = _
  unfold execProgLoadEnd
  rw [h]
  dsimp only
  rw [hf]
  dsimp only
  rw [hspent]
  rfl

end Checked

end LoadEnd

/-! ### The statement of the program store -/

/-- Settles O51, command by command: each write of the holder, and each end of a check. -/
theorem programStore : Obligations.ProgramStore := by
  unfold Obligations.ProgramStore
  intro s hs
  refine ⟨fun p slot hp hh => ⟨fun hidle => ⟨⟨_, exec_progLoad_ready hp (writePload_load hs hh slot hidle), rbit_loadBusy hs _ _ _, loadBusy_frame ..⟩,
      ⟨_, exec_progClear_ready hp (writePload_clear hs hh slot hidle), rbit_loadBusy hs _ _ _, loadBusy_frame ..⟩⟩,
    fun hbusy => ⟨⟨_, exec_progLoad_ready hp (writePload_busy hs hh slot (by decide) hbusy), rfl⟩,
      ⟨_, exec_progClear_ready hp (writePload_busy hs hh slot (by decide) hbusy), rfl⟩⟩⟩,
    fun cycles hnone => exec_progLoadEnd_none hnone cycles,
    fun slot b e cycles hload => ⟨fun r i hf => ⟨_, exec_progLoadEnd_rejected hload hf cycles, rfl, rbit_loadRejected hs r i⟩,
      fun hf hspent hprogs => ⟨_, exec_progLoadEnd_written hload hf hspent cycles, slotWritten_frame slot cycles b s, ?written,
        rn_slotWritten slot cycles b hs, fun k hk => ?others⟩⟩⟩
  case written =>
    rw [progAt, net_slotWritten]
    exact smGet_put_same _ _ _ _ hprogs
  case others =>
    rw [net_slotWritten]
    exact smGet_put_other _ _ _ _ _ _ hk hprogs

end Sys2Proof.Machine
end

section
/-! SUPPORT. Barriers at the tree logic and at piers (10 R280-R282): what their packets do to a barrier, what is sent again, and what
fires. -/

namespace Sys2Proof.Machine
open Sys2Proof

/-! ### What a packet on a tree's edge leaves -/

/-- A CTRL packet on an edge changes nothing but what waits to leave. -/
theorem ctrlOnEdge_frame (t : Tree) (x : Edge) (op c : Nat) (record : List Byte) (s : State) :
    ctrlOnEdge t x op c record s = { s with fab := (ctrlOnEdge t x op c record s).fab } := by
  unfold ctrlOnEdge
  split <;> rfl

@[simp] theorem findBar_ctrlOnEdge (t : Tree) (x : Edge) (op c : Nat) (record : List Byte) (s : State) (n m : Nat) :
    findBar (ctrlOnEdge t x op c record s) n m = findBar s n m := by
  rw [ctrlOnEdge_frame]
  rfl

theorem sendReleases_pr (t : Tree) (b : Barrier) (s : State) : (sendReleases t b s).pr = s.pr := by
  unfold sendReleases
  split
  · rfl
  · refine List.foldlRecOn (motive := fun v : State => v.pr = s.pr) _ _ rfl fun v hv e _ => ?_
    split
    · rw [ctrlOnEdge_frame]
      exact hv
    · exact hv

/-! ### Barrier packets (R280, R281) -/

section Packets
variable {s : State} {a : Arrived} {t : Tree} (hok : pkCheckOk a.bytes = true)
  (htree : packetTree (takeArrived a s) a.bytes = some t)
include hok htree

/-- A barrier packet that is whole and whose tree is VALID is taken, and acts on its tree. -/
theorem onBarrier_taken (f : Tree → State → State) : onBarrier a f s = f t (takeArrived a s) := by
  unfold onBarrier
  simp only [hok, htree, Bool.not_true, Bool.false_eq_true, if_false]

theorem exec_barrierArrive_first {e : Nat} (hat : barrierAt s 1 = some a) (hedge : downEdge t a = some e)
    (hnone : findBar (takeArrived a s) t.num (opCseq a.bytes) = none) (k : Known) :
    exec (.barrierArrive k) s = .next (advanceBar t { newBar t (opCseq a.bytes) with arrived := [e] }
      (knownHere (takeArrived a s) t.num (opCseq a.bytes) k).desc (takeArrived a s)) := by
  show execBarrierArrive k s = _
  unfold execBarrierArrive
  rw [hat]
  dsimp only
  rw [onBarrier_taken hok htree]
  simp only [hedge, hnone, Option.getD_none]
  rfl

theorem exec_barrierArrive_again {e : Nat} {b : Barrier} (hat : barrierAt s 1 = some a) (hedge : downEdge t a = some e)
    (hsome : findBar (takeArrived a s) t.num (opCseq a.bytes) = some b) (hfired : b.fired = false) (he : e ∈ b.arrived)
    (k : Known) : exec (.barrierArrive k) s = .next (putBar b (takeArrived a s)) := by
  show execBarrierArrive k s = _
  unfold execBarrierArrive
  rw [hat]
  dsimp only
  rw [onBarrier_taken hok htree]
  simp [hedge, hsome, hfired, he]

theorem exec_barrierRelease_first (hat : barrierAt s 2 = some a)
    (hnone : findBar (takeArrived a s) t.num (opCseq a.bytes) = none) : exec (.barrierRelease 128) s = .next
      (let r := pkPayload a.bytes
       released t { newBar t (opCseq a.bytes) with release := some (be r 8 8, be r 0x10 8, be r 0x18 1 % 64) }
        (ctrlOnEdge t t.up opBarrier (opCseq a.bytes) (barrierRecord 3 0 0 0) (takeArrived a s))) := by
  have hat : arrivedAt s (128 : Fin 129).val (fun b => pkOp b == opBarrier && brKind (pkPayload b) == 2) = some a := hat
  show execBarrierRelease 128 s = _
  unfold execBarrierRelease
  rw [hat]
  dsimp only
  rw [if_neg (by decide), onBarrier_taken hok htree, findBar_ctrlOnEdge, hnone]
  exact congrArg Host.Outcome.next (if_neg Bool.false_ne_true)

/-- A RELEASE at a pier is answered there. -/
theorem exec_barrierRelease_pier {q : Fin 129} (hq : q.val < 128)
    (hat : arrivedAt s q.val (fun b => pkOp b == opBarrier && brKind (pkPayload b) == 2) = some a) :
    exec (.barrierRelease q) s = .next (
      let c := opCseq a.bytes
      let u := takeArrived a s
      let v := (barLands u t.num c).foldl (fun s x => if x.1 = q.val then putLand q { x.2 with lasts := [1] } s else s) u
      let h : Hdr := { epoch := curEpoch v, cls := clCtrl, op := opBarrier, src := pierRank v t q.val, job := t.job,
                       oparg := collArg t.num c }
      inject { src := 700 + q.val, bytes := mkPacket h (barrierRecord 3 0 0 0) } v) := by
  show execBarrierRelease q s = _
  unfold execBarrierRelease
  rw [hat]
  dsimp only
  rw [if_pos hq, pierRelease, onBarrier_taken hok htree]

theorem exec_barrierReleaseAck_found {e : Nat} {b : Barrier} (hat : barrierAt s 3 = some a)
    (hsome : findBar (takeArrived a s) t.num (opCseq a.bytes) = some b) (hedge : downEdge t a = some e) :
    exec .barrierReleaseAck s = .next (if b.acked.contains e then takeArrived a s
      else putBar { b with acked := b.acked ++ [e] } (takeArrived a s)) := by
  show execBarrierReleaseAck s = _
  unfold execBarrierReleaseAck
  rw [hat]
  dsimp only
  rw [onBarrier_taken hok htree]
  simp only [hsome, hedge]

end Packets

/-! ### A module with one barrier, released (R280-R282) -/

section Released
variable {s : State} {b : Barrier} {step start frac : Nat} (hbar : s.net.barriers = [b]) (hrel : b.release = some (step, start, frac))
include hbar hrel

/-- What has not been answered is sent again: with no pier, the releases of the barrier. -/
theorem exec_barrierResend_released {t : Tree} (hpiers : s.pr.piers = []) (ht : treeAt s b.ver b.tree = some t) :
    exec .barrierResend s = .next (sendReleases t b s) := by
  have hresend : resendBar b s = sendReleases t b s := by simp [resendBar, ht, hrel]
  show execBarrierResend s = _
  unfold execBarrierResend
  simp [hbar, ht, hrel, hresend, sendReleases_pr, hpiers]

/-- A barrier that is not a step barrier fires on a module with no pier: it is FIRED, and nothing else changes. -/
theorem fireBar_plain (hpiers : s.pr.piers = []) (hplain : stepBarrier s b = false) :
    fireBar b s = { s with net := { s.net with barriers := [{ b with fired := true }] } } := by
  have hput : putBar { b with fired := true } s = { s with net := { s.net with barriers := [{ b with fired := true }] } } := by
    simp [putBar, onNet, hbar]
  unfold fireBar
  rw [hrel]
  simp only [hplain, Bool.false_eq_true, if_false]
  rw [← hrel, hput]
  simp only [barLands, hpiers, List.flatMap_nil, List.foldl_nil]

/-- The one barrier fires where it has not fired and its START has passed. -/
theorem exec_barrierFire_one : exec .barrierFire s = .next
    (if b.fired = false ∧ (pastStart s (startAt start frac)).isSome then fireBar b s else s) := by
  show execBarrierFire s = _
  unfold execBarrierFire
  rw [hbar]
  by_cases hdue : b.fired = false ∧ (pastStart s (startAt start frac)).isSome
  · rw [if_pos hdue]
    simp [hrel, hdue, sortBy, insertBy]
  · rw [if_neg hdue]
    simp [hrel, hdue, sortBy]

end Released

/-! ### The statement of barriers -/

/-- Settles O24: each packet by what it finds at its tree, and the one barrier of a module as it is sent again and fires. -/
theorem barrierCommands : Obligations.BarrierCommands := by
  unfold Obligations.BarrierCommands
  refine ⟨fun s a t hok htree => ⟨fun e k hat hedge hnone => exec_barrierArrive_first hok htree hat hedge hnone k,
      fun e k b hat hedge hsome hfired he => exec_barrierArrive_again hok htree hat hedge hsome hfired he k,
      fun hat hnone => exec_barrierRelease_first hok htree hat hnone,
      fun q hq hat => exec_barrierRelease_pier hok htree hq hat,
      fun e b hat hsome hedge => exec_barrierReleaseAck_found hok htree hat hsome hedge⟩,
    fun s b t step start frac hbar hpiers ht hrel => ⟨exec_barrierResend_released hbar hrel hpiers ht,
      fun hfired hpast hplain => ?plain, fun hfired hpast hstep => ?step, fun hfired => ?fired⟩⟩
  case plain =>
    rw [exec_barrierFire_one hbar hrel, if_pos ⟨hfired, Option.isSome_iff_exists.mpr hpast⟩,
      fireBar_plain hbar hrel hpiers hplain]
  case step => rw [exec_barrierFire_one hbar hrel, if_pos ⟨hfired, Option.isSome_iff_exists.mpr hpast⟩]
  case fired => rw [exec_barrierFire_one hbar hrel, if_neg (by simp [hfired])]

end Sys2Proof.Machine
end

section
/-! SUPPORT. Fabric time over links and at the source (10 R278, R279), and hints (10 R287; 16 R416). -/

namespace Sys2Proof.Machine
open Sys2Proof

/-! ### TIMESTAMP link packets (R278) -/

section Links
variable {s : State}

/-- A module that is not the source, with its parent's port UP and no REQ that waits, sends a REQ. -/
theorem exec_timestampTimer_sends (hgm : ftGm s = false) (hreq : s.net.lock.req = none) (hmissed : s.net.lock.missed < 4)
    (hparent : ftParent s < 512) (hup : portUp s (ftParent s) = true) : exec .timestampTimer s =
      .next (sendLane (ftParent s) (stampPacket 0 s.net.lock.tseq (s.ft % 2 ^ 64) 0 0)
        { s with net := { s.net with lock := { s.net.lock with
          tseq := (s.net.lock.tseq + 1) % 256, req := some (s.ft % 2 ^ 64), missed := s.net.lock.missed } } }) := by
  have hup (f : FtLock → FtLock) : portUp (onLock f s) (ftParent s) = true := hup
  show execTimestampTimer s = _
  unfold execTimestampTimer
  simp only [hgm, hreq, Option.isSome_none, Bool.false_eq_true, if_false, Nat.ne_of_lt hmissed, false_and, hparent, hup, and_self,
    if_true, Nat.min_eq_left hmissed.le]
  rfl

theorem exec_timestampReq_in {k : SlotNo} {bytes b : List Byte} (hin : stampIn s k 0 bytes = some b) :
    exec (.timestampReq k bytes) s =
      .next (sendLane k (stampPacket 1 (be b 3 1) (s.ft % 2 ^ 64) (be b 4 8) (stampRx s k)) s) := by
  show execTimestampReq k bytes s = _
  unfold execTimestampReq
  rw [hin]
  rfl

/-- The RSP of the REQ that waits gives the offset. -/
theorem exec_timestampRsp_in {k : SlotNo} {bytes b : List Byte} (hin : stampIn s k 1 bytes = some b) (hgm : ftGm s = false)
    (hparent : ftParent s = k.val) (hreq : s.net.lock.req = some (be b 0x0C 8)) (hseq : (be b 3 1 + 1) % 256 = s.net.lock.tseq) :
    exec (.timestampRsp k bytes) s = .next (useOffset
      (Int.tdiv (toInt 64 (ofInt 64 ((be b 0x14 8 : Int) - be b 0x0C 8 - (stampRx s k - be b 4 8)))) 2)
      { s with net := { s.net with lock := { s.net.lock with req := none, missed := 0 } } }) := by
  show execTimestampRsp k bytes s = _
  unfold execTimestampRsp
  rw [hin]
  dsimp only
  rw [if_neg (by simp [hgm, hparent, hreq, hseq])]
  rfl

end Links

/-! ### Offsets (R278, R279) -/

/-- A change of STATE changes nothing but registers and what the module sends. -/
theorem setFt_frame (st : Nat) (s : State) : setFt st s = { s with regs := (setFt st s).regs, out := (setFt st s).out } := by
  unfold setFt
  split
  · rfl
  · rw [raiseEvent_frame]
    rfl

/-- Setting STATE to what it is changes nothing. -/
theorem setFt_same {st : Nat} {s : State} (h : rf s A.dkFtStatus 31 30 = st) : setFt st s = s := if_pos h

/-- An offset above 1 µs is stepped at once. -/
theorem useOffset_steps {o : Int} (ho : 64000 < o.natAbs) (s : State) :
    (useOffset o s).ft = (((s.ft : Int) + o) % 2 ^ 70).toNat ∧
      (useOffset o s).net.lock = { s.net.lock with good := 0, slew := 0, slewLen := 0, slewAt := 0 } := by
  unfold useOffset
  dsimp only
  rw [if_pos ho, stepTime, setFt_frame]
  exact ⟨rfl, rfl⟩

/-- An offset that is shown leaves STATE. -/
theorem rf_showOffset_state {s : State} (hs : SmWf regReset s.regs) (o : Int) :
    rf (showOffset o s) A.dkFtStatus 31 30 = rf s A.dkFtStatus 31 30 :=
  rf_wf_above _ _ hs (by decide) (by decide) (by decide)

/-- An offset that begins a count leaves STATE. -/
theorem countOffset_first (o : Int) {s : State} (hgood : s.net.lock.good = 0) : countOffset o s =
    onLock (fun l => { l with good := (countOffset o s).net.lock.good }) s := by
  unfold countOffset
  rw [hgood]
  by_cases ho : o.natAbs < 16
  · simp [ho, onLock, onNet]
  · simp [ho, onLock, onNet]

/-- At a source in ACQUIRE that has counted no offset, time steps by the offset. -/
theorem coarseTime_acquire (o : Int) {s : State} (hs : SmWf regReset s.regs) (hstate : rf s A.dkFtStatus 31 30 = ftAcquire)
    (hgood : s.net.lock.good = 0) : coarseTime o s = { s with
      ft := (((s.ft : Int) + o) % 2 ^ 70).toNat, regs := (coarseTime o s).regs
      net := { s.net with lock := { s.net.lock with good := (coarseTime o s).net.lock.good } } } := by
  have hshown : rf (showOffset o s) A.dkFtStatus 31 30 = ftAcquire := (rf_showOffset_state hs o).trans hstate
  have hshifted : rf (shiftTime o (showOffset o s)) A.dkFtStatus 31 30 = ftAcquire := hshown
  have hcoarse : coarseTime o s = countOffset o (shiftTime o (showOffset o s)) := by
    have hlocked : ¬ rf (showOffset o s) A.dkFtStatus 31 30 = ftLocked := by
      rw [hshown]
      decide
    unfold coarseTime
    dsimp only
    rw [if_neg hlocked, setFt_same hshifted]
  rw [hcoarse, countOffset_first o (s := shiftTime o (showOffset o s)) hgood]
  rfl

/-! ### IEEE 1588 messages at the source (R279) -/

section Clock
variable {s : State} {p : GPort} {m : List Byte}

theorem exec_ptpMessage_atClock {type : Nat} (h : AtClock s p type m) : exec (.ptpMessage p m) s = .next (ptpMeet p m s) := by
  obtain ⟨⟨hgm, hptp⟩, ⟨hon, hport⟩, hdomain, ⟨hversion, htype⟩, hwhole⟩ := h
  show execPtpMessage p m s = _
  unfold execPtpMessage ptpTake
  rw [htype]
  simp [hgm, hptp, hon, hport, hdomain, hversion, hwhole]

theorem ptpMeet_sync (htype : ptpType m = 0) : ptpMeet p m s = if ptpTwoStep m then
    onPtp (fun q => { q with sync := some (ptpSource m, ptpSeq m, s.ft, ptpCorr m) }) s
    else syncKnown p (ptpSource m) (ptpStamp m + ptpCorr m) s.ft s := if_pos htype

theorem ptpMeet_followUp (htype : ptpType m = 8) {t2 : Nat} {c : Int}
    (hsync : s.net.ptp.sync = some (ptpSource m, ptpSeq m, t2, c)) :
    ptpMeet p m s = syncKnown p (ptpSource m) (ptpStamp m + c + ptpCorr m) t2 s := by
  unfold ptpMeet
  simp [htype, hsync]

theorem ptpMeet_delayResp (htype : ptpType m = 9) {t2 t3 : Nat} {t1 : Int} (hreq : s.net.ptp.req = some (ptpSeq m, t3))
    (htimes : s.net.ptp.times = some (ptpSource m, t1, t2)) (hself : slice m 44 10 = ptpSelf s p) :
    ptpMeet p m s = coarseTime (delayOffset t1 t2 t3 (ptpStamp m - ptpCorr m)) (onPtp (fun q => { q with req := none }) s) := by
  unfold ptpMeet
  simp [htype, hreq, htimes, hself]

end Clock

/-! ### Hints (10 R287; 16 R416) -/

section Hints
variable {s : State}

/-- A hint that is whole goes on at the tree logic to every other edge of its tree. -/
theorem exec_hint_tree {a : Arrived} {t : Tree} (hat : arrivedAt s 128 (fun b => pkOp b == opHint) = some a)
    (hok : pkCheckOk a.bytes = true) (htree : packetTree (takeArrived a s) a.bytes = some t) : exec (.hint 128) s =
      .next (useHint (pkPayload a.bytes) (raiseEvent
        { code := 0x0A07, ctx := t.ctx, unit := rtUnit, detail := be (pkPayload a.bytes) 0 8 }
        (hintOnTree t (opCseq a.bytes) (fun x => !fromEdge a x) (pkPayload a.bytes) (takeArrived a s)))) := by
  have hat : arrivedAt s (128 : Fin 129).val (fun b => pkOp b == opHint) = some a := hat
  show execHint 128 s = _
  unfold execHint
  rw [hat]
  dsimp only
  rw [if_pos (by decide), takeHint]
  simp only [hok, htree, Bool.not_true, Bool.false_eq_true, if_false]

/-- A member's pier only takes a hint. -/
theorem exec_hint_pier {u : Fin 129} (hu : u.val < 128) {a : Arrived}
    (hat : arrivedAt s u.val (fun b => pkOp b == opHint) = some a) : exec (.hint u) s = .next (takeArrived a s) := by
  show execHint u s = _
  unfold execHint
  rw [hat]
  dsimp only
  rw [if_neg hu.ne]

/-- SEND_HINT by the holder, with a hold in its range. -/
theorem writePwrCtrl_sendHint {p : GPort} (hh : s.ks.holder = some p) (hlow : 1 ≤ rf s A.pwrHintHold 16 0)
    (hhigh : rf s A.pwrHintHold 16 0 ≤ 100000) : writePwrCtrl p 2 s = (sendHint (wn A.pwrCtrl 2 s), stOk) := by
  have hold : holds s p (dieOf A.pwrCtrl) = true := holds_holder hh
  have hop : fget (2 : Word) 3 0 = 2 := rfl
  have hne : ¬ (2 : Nat) = 1 := by decide
  unfold writePwrCtrl
  simp only [hold, Bool.not_true, Bool.false_eq_true, if_false, hop, hne, hlow, hhigh, and_self, if_true]

theorem exec_sendHint_ready {p : GPort} (hp : portReady s p = true) {t : State} {st : Nat} (h : writePwrCtrl p 2 s = (t, st)) :
    exec (.sendHint p) s = .next (accessed p A.pwrCtrl 0 st t) := by
  show execSendHint p s = _
  rw [execSendHint, wrRow_ready hp, h]

theorem rf_showCap_hint {s : State} (hs : SmWf regReset s.regs) : rf (showCap s) A.pwrStatus 28 27 = rf s A.pwrStatus 28 27 := by
  unfold showCap
  dsimp only
  rw [rf_wf_below _ _ (wf_canonical _ _ _ _ hs) (by decide) (by decide) (by decide) (by decide),
    rf_wf_above _ _ hs (by decide) (by decide) (by decide)]

end Hints

/-! ### The statement of fabric time and hints -/

/-- Settles O25, command by command: the timer, a REQ and an RSP, an offset that is stepped, the four messages of 1588; a hint at
its unit, SEND_HINT, and the end of the hold. -/
theorem fabricTimeAndHints : Obligations.FabricTimeAndHints := by
  unfold Obligations.FabricTimeAndHints
  refine ⟨fun s k bytes b => ⟨exec_timestampTimer_sends, exec_timestampReq_in, fun o hin hgm hparent hreq hseq ho => ?rsp,
      fun o ho => ⟨_, rfl, useOffset_steps ho s⟩, fun p m t2 t3 t1 c => ⟨fun h hone => ?sync, fun h htwo => ?twoStep,
        fun h hsync => ?followUp, fun h hreq htimes hself hstate hgood hs => ?delayResp⟩⟩,
    fun s => ⟨fun a t => exec_hint_tree, fun u a hu hat => exec_hint_pier hu hat,
      fun p hp hh hlow hhigh => exec_sendHint_ready hp (writePwrCtrl_sendHint hh hlow hhigh),
      ⟨_, rfl, rfl, fun hs => ?holdEnd⟩⟩⟩
  case rsp =>
    subst ho
    exact exec_timestampRsp_in hin hgm hparent hreq hseq
  case sync =>
    rw [exec_ptpMessage_atClock h, ptpMeet_sync h.version.2, hone]
    rfl
  case twoStep =>
    rw [exec_ptpMessage_atClock h, ptpMeet_sync h.version.2, if_pos htwo]
    rfl
  case followUp =>
    rw [exec_ptpMessage_atClock h, ptpMeet_followUp h.version.2 hsync]
    rfl
  case delayResp =>
    rw [exec_ptpMessage_atClock h, ptpMeet_delayResp h.version.2 hreq htimes hself]
    exact ⟨_, rfl, coarseTime_acquire _ (s := onPtp _ s) hs hstate hgood⟩
  case holdEnd =>
    rw [rf_showCap_hint (wf_canonical _ _ _ _ hs), rf_wf_same _ _ _ _ _ hs (by decide) (by decide), Nat.zero_mod]

end Sys2Proof.Machine
end

section
/-! SUPPORT. Collectives at a member: the launch of COLL and MATMUL_SEND, and what the watchdogs end (10 R261, R262, R274, R284, R286;
11 R289, R300, R303). -/

namespace Sys2Proof.Machine
open Sys2Proof

/-! ### COLL (R261, R262; 11 R289, R300) -/

section Coll
variable {s : State} {p : PierNo} {r : RunCmd}

/-- A COLL of which no field is faulty, with nothing found as memory and stores are read, is launched. -/
theorem exec_coll_runs (h : Runs s p eTxe 0x32 r (collFaults r)) : exec (.coll p .none none) s = .next (launchColl p r s) := by
  show execColl p .none none s = _
  unfold execColl
  rw [runOp_runs h]
  simp only [meetEcc, ite_self]

/-- A descriptor that does not stand at a multiple of 64. -/
theorem launchColl_unaligned (h : le r.bytes 0x10 8 % 64 ≠ 0) : launchColl p r s = collBad p eTxe r 0 s := by
  unfold launchColl
  dsimp only
  rw [if_pos h]

section Aligned
variable (haligned : le r.bytes 0x10 8 % 64 = 0)
include haligned

theorem launchColl_faulty {o : Nat} (ho : descFault s r.ctx r.cflag r.desc = some o) :
    launchColl p r s = collBad p eTxe r (collDetail (cdTree r.desc) (cdCseq r.desc) o) s := by
  unfold launchColl
  simp only [haligned, ne_eq, not_true_eq_false, if_false, ho]

variable (hgood : descFault s r.ctx r.cflag r.desc = none)
include hgood

/-- A list or table that stands outside the stores. -/
theorem launchColl_auxOutside (hbad : rangeBad (cdAux r.desc, auxBytes r.desc) = true) (hsome : 0 < auxBytes r.desc) :
    launchColl p r s = malformed p eTxe 0x10 r s := by
  have houtside : (rangeBad (cdAux r.desc, auxBytes r.desc) && auxBytes r.desc != 0) = true := by simp [hbad, hsome.ne']
  unfold launchColl
  simp only [haligned, ne_eq, not_true_eq_false, if_false, hgood, houtside, if_true]

section Aux
variable (haux : rangeBad (cdAux r.desc, auxBytes r.desc) = true → auxBytes r.desc = 0)
include haux

theorem launchColl_noPlace (hfull : 256 ≤ armedCount s p) : launchColl p r s = s := by
  have hinside : (rangeBad (cdAux r.desc, auxBytes r.desc) && auxBytes r.desc != 0) = false := by simpa using haux
  unfold launchColl
  simp only [haligned, ne_eq, not_true_eq_false, if_false, hgood, hinside, Bool.false_eq_true, hfull, if_true]

/-- Once its list or table has been read, a COLL is malformed where a table or a range is bad, and is launched where none is. -/
theorem launchColl_fetched (hplace : armedCount s p < 256) {aux : List Byte} {u : State}
    (hfetch : fetch (r.by_ p eTxe) .rd (cdAux r.desc) (auxBytes r.desc) s = (some aux, u)) : launchColl p r s =
      if ((cdKind r.desc = kAlltoall ∨ cdKind r.desc = kAlltoallv) ∧
            (!a2aOk u r.ctx (memberRank u r.ctx p r.desc - cdRbase r.desc) r.desc aux) = true) ∨
          (descRanges (progAt u (curEpoch u) (cdSlot r.desc)) r.desc aux (memberRank u r.ctx p r.desc) false).any rangeBad = true
      then malformed p eTxe 0x10 r u
      else
        let l := newLanding (getPier u p).nextId r false (auxList r.desc aux) (r.cflag.getD 0) (memberRank u r.ctx p r.desc)
        launched p l aux (armLanding p l u) := by
  have hinside : (rangeBad (cdAux r.desc, auxBytes r.desc) && auxBytes r.desc != 0) = false := by simpa using haux
  unfold launchColl
  simp only [haligned, ne_eq, not_true_eq_false, if_false, hgood, hinside, Bool.false_eq_true, Nat.not_le.mpr hplace, hfetch]

end Aux

end Aligned

end Coll

/-! ### MATMUL_SEND (11 R303) -/

/-- A MATMUL_SEND of which no field is faulty, with a good descriptor and no error found, is malformed where its descriptor does not
suit it, waits for a place for its landing, and otherwise launches with its product. -/
theorem exec_matmulSend_runs {s : State} {p : PierNo} {g : GirdNo} {r : RunCmd} (h : Runs s p g 0x11 r (matmulSendFaults g r))
    (haligned : le r.bytes 0x38 8 % 64 = 0) (hgood : descFault s r.ctx r.cflag r.desc = none) :
    exec (.matmulSend p g .none) s = .next (
      let rank := memberRank s r.ctx p r.desc
      if fusedUnsuited r = true ∨ cdCarrier r.desc = 1 ∨ (descRanges [] r.desc [] rank true).any rangeBad = true then
        malformed p g 0x38 r s
      else if 256 ≤ armedCount s p then s
      else
        let l := newLanding (getPier s p).nextId r true [] (r.cflag.getD 0) rank
        let q := matProduct p g r (armLanding p l s)
        sendProduct p g l (mmN r.bytes) q.1 q.2.1 q.2.2) := by
  show execMatmulSend p g .none s = _
  unfold execMatmulSend
  rw [runOp_runs (faults := fun _ r => matmulSendFaults g r) h]
  simp only [haligned, ne_eq, not_true_eq_false, if_false, hgood, errFaults, Bool.false_eq_true, pierCorr]

/-! ### Watchdogs (R274, R284, R286) -/

/-- The step watchdog of a collective that a pier holds. -/
theorem exec_collWatchdog_found {s : State} {p : PierNo} {t : Fin 4096} {c : BitVec 16} {l : Landing}
    (h : (getPier s p).lands.find? (fun l => cdTree l.desc == t.val && cdCseq l.desc == c.toNat) = some l) :
    exec (.collWatchdog p t c) s = .next (if residentOn s l.run.ctx p then
      byFault (l.by_ p eTxe) 0x0A02 (collDetail t c.toNat 0) (endColl p l csTimeout
        (onPier p (fun q => { q with expired := q.expired.erase (t.val, c.toNat) ++ [(t.val, c.toNat)] }) s))
      else s) := by
  show execCollWatchdog p t c s = _
  unfold execCollWatchdog
  rw [h]
  dsimp only
  cases residentOn s l.run.ctx p with
  | false => rfl
  | true => rfl

/-- An operation has one key. -/
theorem isOp_iff {n t c : Nat} {o : RseOp} : isOp n t c o = true ↔ o.node = n ∧ o.tree = t ∧ o.cseq = c := by
  simp [isOp, and_assoc]

/-- An operation that is freed is found no more. -/
theorem findOp_dropOp_same (n t c : Nat) (s : State) : findOp (dropOp n t c s) n t c = none := by
  refine List.find?_eq_none.mpr fun o ho => ?_
  simpa using (List.mem_filter.mp ho).2

/-- Every other operation is found as before. -/
theorem findOp_dropOp_other {n t c n' t' c' : Nat} (h : (n', t', c') ≠ (n, t, c)) (s : State) :
    findOp (dropOp n t c s) n' t' c' = findOp s n' t' c' := by
  have hkept (o : RseOp) (ho : isOp n' t' c' o = true) : (!isOp n t c o) = true := by
    obtain ⟨rfl, rfl, rfl⟩ := isOp_iff.mp ho
    rw [Bool.not_eq_true', Bool.eq_false_iff]
    intro hsame
    obtain ⟨hn, ht, hc⟩ := isOp_iff.mp hsame
    exact h (by rw [hn, ht, hc])
  show (s.net.ops.filter fun x => !isOp n t c x).find? (isOp n' t' c') = s.net.ops.find? (isOp n' t' c')
  rw [List.find?_filter]
  congr 1
  funext o
  by_cases ho : isOp n' t' c' o = true
  · simp [ho, hkept o ho]
  · simp [ho]

/-- The watchdog of an RSE frees what it holds of a collective. -/
theorem exec_rseWatchdog_found {s : State} {n : NodeNo} {t : Fin 4096} {c : BitVec 16} {o : RseOp}
    (h : findOp s n t c.toNat = some o) : exec (.rseWatchdog n t c) s = .next (raiseEvent
      { code := 0x0A03, ctx := o.ctx, unit := rseUnit o.node, detail := collDetail o.tree o.cseq o.node }
      (dropOp n t c.toNat s)) := by
  obtain ⟨hn, ht, hc⟩ := isOp_iff.mp (List.find?_some h)
  show execRseWatchdog n t c s = _
  unfold execRseWatchdog
  rw [h]
  dsimp only
  rw [abandonOp, hn, ht, hc]

/-! ### The statement of collectives -/

/-- Settles O52, command by command: a COLL and a MATMUL_SEND by their checks, and each watchdog by what it finds. -/
theorem collectiveCommands : Obligations.CollectiveCommands := by
  unfold Obligations.CollectiveCommands
  intro s p r
  refine ⟨fun h hodd => ?unaligned, fun h haligned => ⟨fun o ho => ?faulty, fun hgood => ⟨fun hbad hsome => ?auxOutside,
      fun haux => ⟨fun hfull => ?noPlace, fun aux u hplace hfetch => ⟨fun hranges htable => ?launched, fun hbad => ?outside⟩⟩⟩⟩,
    fun g h haligned hgood => ⟨fun hbad => ?unsuited, fun hsuits hcarrier hranges =>
      ⟨fun hfull => ?waits, fun rows done u hplace hproduct => ?fused⟩⟩,
    fun t c => ⟨fun l hl => ⟨fun hout => ?pauses, fun hres => ?expires⟩,
      fun n o ho => ⟨_, exec_rseWatchdog_found ho, rfl, findOp_dropOp_same .., fun n' t' c' hne => findOp_dropOp_other hne s⟩⟩⟩
  case unaligned => rw [exec_coll_runs h, launchColl_unaligned hodd]
  case faulty => rw [exec_coll_runs h, launchColl_faulty haligned ho]
  case auxOutside => rw [exec_coll_runs h, launchColl_auxOutside haligned hgood hbad hsome]
  case noPlace => rw [exec_coll_runs h, launchColl_noPlace haligned hgood haux hfull]
  case launched =>
    rw [exec_coll_runs h, launchColl_fetched haligned hgood haux hplace hfetch, if_neg]
    rintro (⟨hkind, hbad⟩ | hbad)
    · simp [htable hkind] at hbad
    · simp [hranges] at hbad
  case outside =>
    rw [exec_coll_runs h, launchColl_fetched haligned hgood haux hplace hfetch, if_pos]
    obtain hrange | ⟨hkind, hbad⟩ := hbad
    · exact .inr (List.any_eq_true.mpr hrange)
    · exact .inl ⟨hkind, by rw [hbad]; rfl⟩
  case unsuited =>
    rw [exec_matmulSend_runs h haligned hgood]
    exact congrArg _ (if_pos (hbad.imp id (Or.imp id List.any_eq_true.mpr)))
  case waits =>
    rw [exec_matmulSend_runs h haligned hgood]
    simp [hsuits, hcarrier, hranges, hfull]
  case fused =>
    rw [exec_matmulSend_runs h haligned hgood]
    simp [hsuits, hcarrier, hranges, Nat.not_le.mpr hplace, hproduct]
  case pauses => rw [exec_collWatchdog_found hl, hout, if_neg Bool.false_ne_true]
  case expires => rw [exec_collWatchdog_found hl, if_pos hres]

end Sys2Proof.Machine
end

section
/-! SUPPORT. The machine's step, what every step keeps (17 R430, R431, R435), and the state after reset. -/

namespace Sys2Proof.Machine
open Sys2Proof

/-! ### The step -/

theorem step_pending_cons {c : Instr} {r : List Instr} {s : State} (h : s.pending = c :: r) :
    step s = exec c { s with pending := r } := by
  unfold step
  rw [h]

theorem step_pending_nil {s : State} (h : s.pending = []) : step s = .next (coreCycle s) := by
  unfold step
  rw [h]

/-- Settles O1: the two cases of the queue. -/
theorem stepRunsFront : Obligations.StepRunsFront :=
  ⟨fun _ _ _ h => step_pending_cons h, fun _ h => step_pending_nil h⟩

/-! ### What every step keeps -/

/-- Settles O7: every operation keeps what is fused, so a step does. -/
theorem signerSlotsOnlyBurn : Obligations.SignerSlotsOnlyBurn := by
  intro s t h
  obtain ⟨u, -, rfl, hkept⟩ := step_kept s t h
  exact hkept.otp

/-- Settles O8: every operation keeps the fuses, the queue and what was sent, so a step does. -/
theorem stepKeepsFusesQueueAndSent : Obligations.StepKeepsFusesQueueAndSent := by
  intro s t h
  obtain ⟨u, -, rfl, hkept⟩ := step_kept s t h
  exact ⟨hkept.fuses, hkept.pending, hkept.free, hkept.out⟩

/-! ### The state after reset -/

theorem reset_canonical : Canonical State.reset where
  hbm := ⟨List.Pairwise.nil, fun _ h => nomatch h⟩
  regs := fuseRegs_wf modelFuses modelOtp
  store := ⟨List.Pairwise.nil, fun _ h => nomatch h⟩

/-- Nobody holds the Keystone after reset, and nothing waits there. -/
theorem reset_ksInv : KsInv State.reset.ks where
  dies _ h := nomatch h
  off h := nomatch h
  wait h := absurd rfl h
  ticket := ⟨Nat.zero_le _, fun h => absurd rfl h⟩

/-- Settles O3: the fuses' registers are canonical, and the Keystone is free. -/
theorem resetIsSound : Obligations.ResetIsSound := ⟨reset_canonical, reset_ksInv⟩

end Sys2Proof.Machine
end

section
/-! SUPPORT. The power path (17 R426-R431; 19 R471, R474): the start sequencer row by row, what removes the rails, and a full reset
with its end. -/

namespace Sys2Proof.Machine
open Sys2Proof

/-! ### RESET_L (17 R431; 04 R101; 19 R477) -/

/-- RESET_L's own part of the power path and the test port, before the Causeway's pairs close. -/
def resetLLow (s : State) : State :=
  { s with pwr := { s.pwr with resetLow := true, inReset := true, resetDue := true, cwyDrive := false }
           jtag := { s.jtag with driving := s.jtag.ir == .extest } }

theorem exec_resetLAssert (s : State) : exec .resetLAssert s =
    .next ((List.range 8).foldl (fun s j => closePair j s) (resetLLow s)) := rfl

/-- A pair that closes changes only its own registers and the fabric. -/
theorem closePair_frame (j : Nat) (s : State) :
    closePair j s = { s with regs := (closePair j s).regs, fab := (closePair j s).fab } := by
  unfold closePair
  dsimp only
  split <;> rfl

theorem closePairs_frame (l : List Nat) (s : State) : l.foldl (fun s j => closePair j s) s =
    { s with regs := (l.foldl (fun s j => closePair j s) s).regs, fab := (l.foldl (fun s j => closePair j s) s).fab } := by
  induction l generalizing s with
  | nil => rfl
  | cons j l ih =>
    rw [List.foldl_cons, ih, closePair_frame]

/-- What a pair without its drive reads: OPEN is 0, and it is closed, or closing (04 R101). -/
def PairShut (s : State) (j : Nat) : Prop :=
  rbit s (A.cwyCtrl j) 0 = false ∧ (cwyState s j = cwClosed ∨ cwyState s j = cwClosing)

theorem PairShut.same {s t : State} {j : Nat} (h : PairShut s j) (hw : ∀ a, pairWord j a → rd t a = rd s a) : PairShut t j := by
  obtain ⟨hopen, hstate⟩ := h
  have hctrl := hw _ (.inl rfl)
  have hstatus := hw _ (.inr rfl)
  exact ⟨(rbit_congr hctrl 0).trans hopen, by rwa [cwyState_congr hstatus]⟩

theorem closePair_shut {s : State} (j : Nat) (hs : SmWf regReset s.regs) : PairShut (closePair j s) j := by
  have hshut := wf_canonical (A.cwyCtrl j) 0 0 0 hs
  have hopen : rbit (wf (A.cwyCtrl j) 0 0 0 s) (A.cwyCtrl j) 0 = false := rbit_wf_same _ _ hs (by decide)
  have hstatus : rd (wf (A.cwyCtrl j) 0 0 0 s) (A.cwyStatus j) = rd s (A.cwyStatus j) :=
    rd_wf_other _ _ _ hs (cwyCtrl_ne_cwyStatus j).symm
  by_cases hc : cwyState s j = cwClosed
  · rw [closePair_closed hs hc]
    exact ⟨hopen, .inl ((cwyState_congr hstatus).trans hc)⟩
  · rw [closePair_closes hs hc]
    exact ⟨(rbit_congr (rd_wf_other _ _ _ hshut (cwyCtrl_ne_cwyStatus j)) 0).trans hopen,
      .inr (cwyState_reached hshut (by decide))⟩

/-- As the pairs of a list close, one after the other, each pair that is shut stays so, and each of the list is shut in the end. -/
theorem closePairs_shut {j : Nat} (hj : j < 8) {l : List Nat} (hl : ∀ i ∈ l, i < 8) {s : State} (hs : SmWf regReset s.regs)
    (h : j ∈ l ∨ PairShut s j) : PairShut (l.foldl (fun s j => closePair j s) s) j := by
  induction l generalizing s with
  | nil => exact h.resolve_left List.not_mem_nil
  | cons i l ih =>
    obtain ⟨hi, hrest⟩ := List.forall_mem_cons.mp hl
    refine ih hrest (closePair_only hs).canonical ?_
    by_cases hne : i = j
    · exact .inr (hne ▸ closePair_shut i hs)
    · refine h.imp (fun hm => List.mem_of_ne_of_mem (Ne.symm hne) hm) fun hshut => hshut.same fun a ha => ?_
      exact (closePair_only hs).words a (not_pairWord_of_ne hi hj hne ha)

/-! ### The start sequencer (17 R426, R427; 19 R471, R474) -/

section Sequencer
variable {s : State}

theorem exec_housekeepingStart_off (h : s.pwr.housekeeping = false) : exec .housekeepingStart s = .next { s with pwr :=
    { housekeeping := true, seq := .off, railsUp := [], latched := false, cause := 0, pwrEn := s.pwr.pwrEn
      resetLow := s.pwr.resetLow, inReset := true, resetDue := false, cwyDrive := false, vin := 0, iinA := 0, iinB := 0 } } := by
  show execHousekeepingStart s = _
  exact if_neg (by simp [h])

theorem exec_sequencerStart_unlatched (hk : s.pwr.housekeeping = true) (hl : s.pwr.latched = false)
    (hq : s.pwr.seq = .off ∨ s.pwr.seq = .qualify) :
    exec .sequencerStart s = .next { s with pwr := { s.pwr with seq := .ramping, pwrEn := true, railsUp := [] } } := by
  show execSequencerStart s = _
  exact if_pos (by simp [hk, hl, hq])

theorem allRailsUp_iff (up : List Nat) : allRailsUp up = true ↔ ∀ g ∈ railOrder, ∀ j ∈ g, j ∈ up := by
  simp [allRailsUp]

theorem exec_railInWindow_started {k : Fin 18} (hq : s.pwr.seq = .ramping) (hk : k.val ∈ railsStarted s.pwr.railsUp) :
    exec (.railInWindow k) s = .next { s with pwr := { s.pwr with
      railsUp := s.pwr.railsUp ++ [k.val]
      seq := if ∀ g ∈ railOrder, ∀ j ∈ g, j ∈ s.pwr.railsUp ++ [k.val] then .powerGood else .ramping } } := by
  show execRailInWindow k s = _
  unfold execRailInWindow
  rw [if_pos (by simp [hq, hk])]
  simp only [allRailsUp_iff]

theorem exec_pllLock_powerGood (h : s.pwr.seq = .powerGood) : exec .pllLock s = .next (wr A.clkStatus 0xD0000000#32 s) := by
  show execPllLock s = _
  exact if_pos (by simp [h])

theorem exec_seqLatchClear_off (h : s.pwr.pwrEn = false) : exec .seqLatchClear s = .next { s with pwr := { s.pwr with
    latched := false, cause := 0, seq := if s.pwr.seq = .fault then .off else s.pwr.seq } } := by
  show execSeqLatchClear s = _
  unfold execSeqLatchClear
  simp only [h, beq_iff_eq, Bool.false_eq_true, if_false]

end Sequencer

/-- Settles O9: the rows of the start sequencer, and RESET_L by the pairs that close. -/
theorem powerUpCommands : Obligations.PowerUpCommands := by
  unfold Obligations.PowerUpCommands
  refine fun s => ⟨⟨_, exec_resetLAssert s, closePairs_frame _ (resetLLow s), fun hs j => ?_⟩, exec_housekeepingStart_off,
    exec_sequencerStart_unlatched, fun k => exec_railInWindow_started, exec_pllLock_powerGood, exec_seqLatchClear_off⟩
  exact closePairs_shut (s := resetLLow s) j.isLt (fun _ => List.mem_range.mp) hs (.inl (List.mem_range.mpr j.isLt))

/-! ### The rails are removed (17 R427-R429; 19 R474) -/

theorem exec_sequencerFault_running {s : State} (k : Fin 18) (h : s.pwr.seq = .ramping ∨ s.pwr.seq = .powerGood) :
    exec (.sequencerFault k) s = .next (let t := powerOff .fault s
      { t with pwr := { t.pwr with latched := true, cause := k } }) := by
  show execSequencerFault k s = _
  exact if_pos (by simp [h])

/-- What a full reset leaves stays as the power path alone changes. -/
theorem AfterFullReset.withPwr {s t : State} (h : AfterFullReset s t) (w : PowerPath) : AfterFullReset s { t with pwr := w } :=
  ⟨h.regs, h.hbm, h.resets, h.ks, h.prot, h.img, h.pc, h.fab, h.pr, h.mem, h.time, h.fw, h.stay⟩

/-- A row that removes the rails, and then changes the power path alone: what it leaves. -/
theorem powerOff_then (q : SeqState) (s : State) (f : PowerPath → PowerPath) :
    let t : State := { powerOff q s with pwr := f (powerOff q s).pwr }
    AfterFullReset s t ∧ rd t A.clkStatus = 0 ∧ t.pwr = f { s.pwr with
      seq := q, railsUp := [], inReset := true, resetDue := false, cwyDrive := false } :=
  ⟨(powerOff_after q s).1.withPwr _, (powerOff_after q s).2, congrArg f (powerOff_pwr q s)⟩

/-! ### The end of a full reset (17 R431; 03 R83) -/

/-- Steps that change only registers, one after the other, change only registers. -/
theorem foldl_regs_frame {α : Type} {f : State → α → State} (hf : ∀ s x, f s x = { s with regs := (f s x).regs }) (l : List α)
    (s : State) : l.foldl f s = { s with regs := (l.foldl f s).regs } := by
  induction l generalizing s with
  | nil => rfl
  | cons x l ih => rw [List.foldl_cons, ih, hf]

theorem firstVoltage_frame (s : State) : firstVoltage s = { s with regs := (firstVoltage s).regs } :=
  foldl_regs_frame (fun _ _ => rfl) (List.range 8) s

theorem startJournal_frame (s : State) : startJournal s =
    { s with regs := (startJournal s).regs, prot := { s.prot with jrnlSeq := 1 } } := rfl

theorem rn_startJournal_head {s : State} (hs : SmWf regReset s.regs) : rn (startJournal s) A.ksJrnlHead = 1 := by
  unfold startJournal writeJournal
  exact rn_wn_same _ (putCfg_wf _ _ _ hs) (by decide)

/-- The module leaves its full reset: what changes beside the registers. -/
def outOfReset (s : State) : State :=
  { s with pwr := { s.pwr with inReset := false, resetLow := false, cwyDrive := true }
           tst := []
           jtag := { s.jtag with driving := false } }

/-- The fuses' words, and the first voltage setting, in the registers. -/
def fusesLoaded (s : State) : State := firstVoltage ((fuseWords s.fuses s.otp).foldl (fun s w => wn w.1 w.2 s) (outOfReset s))

theorem exec_resetEnd_done {s : State} (hr : s.pwr.inReset = true) (hd : s.pwr.resetDue = false)
    (hl : rbit s A.clkStatus 31 = true) : exec .resetEnd s = .next (startJournal (fusesLoaded s)) := by
  show execResetEnd s = _
  exact if_pos (by simp [hr, hd, hl])

theorem fusesLoaded_frame (s : State) : fusesLoaded s = { outOfReset s with regs := (fusesLoaded s).regs } := by
  unfold fusesLoaded
  rw [firstVoltage_frame, foldl_regs_frame fun _ w => wn_frame w.1 w.2 _]

theorem fusesLoaded_canonical {s : State} (hs : SmWf regReset s.regs) : SmWf regReset (fusesLoaded s).regs := by
  unfold fusesLoaded firstVoltage
  have hwords : SmWf regReset ((fuseWords s.fuses s.otp).foldl (fun s w => wn w.1 w.2 s) (outOfReset s)).regs :=
    List.foldlRecOn (motive := fun v : State => SmWf regReset v.regs) _ _ hs fun _ hv _ _ => wn_canonical _ _ hv
  exact List.foldlRecOn (motive := fun v : State => SmWf regReset v.regs) _ _ hwords fun _ hv _ _ => wf_canonical _ _ _ _ hv

/-- Settles O10: each loss of the rails by what it does to the power path, a full reset, and its end by the journal's first entry. -/
theorem powerRemovalAndFullReset : Obligations.PowerRemovalAndFullReset := by
  unfold Obligations.PowerRemovalAndFullReset
  refine ⟨fun s => ⟨fun k h => ?fault, ?deassert, ?input, ?thermal, ?housekeeping⟩, fun s => ?reset, fun s hr hd hl => ?resetEnd⟩
  case fault => exact ⟨_, exec_sequencerFault_running k h, powerOff_then .fault s fun w => { w with latched := true, cause := k }⟩
  case deassert => exact ⟨_, rfl, powerOff_then _ s fun w => { w with pwrEn := false }⟩
  case input => exact ⟨_, rfl, powerOff_then _ s fun w => w⟩
  case thermal => exact ⟨_, rfl, powerOff_then .fault s fun w => { w with latched := true, cause := 0xFF }⟩
  case housekeeping =>
    exact ⟨_, rfl, powerOff_then .off s fun w =>
      { w with housekeeping := false, latched := false, cause := 0, vin := 0, iinA := 0, iinB := 0 }⟩
  case reset => exact ⟨_, rfl, fullReset_after s, fun _ => fullReset_clk s, fullReset_pwr s⟩
  case resetEnd =>
    refine ⟨_, exec_resetEnd_done hr hd hl, ?_, fun hs => rn_startJournal_head (fusesLoaded_canonical hs)⟩
    rw [startJournal_frame, fusesLoaded_frame]
    rfl

end Sys2Proof.Machine
end

section
/-! SUPPORT. The management bus and the test port (19 R475-R477): what a read over the bus answers, and what each instruction of the
port leaves. -/

namespace Sys2Proof.Machine
open Sys2Proof

/-! ### Reads over the bus (19 R475, R476) -/

/-- What a read over the bus leaves, of the bytes that it would answer. -/
theorem smbusRead_eq (c : Pec) (b : List Byte) (s : State) : smbusRead c b s =
    { s with out := s.out ++ [.smbus (if s.pwr.housekeeping = true ∧ c ≠ .bad then some b else none)] } := by
  unfold smbusRead emit
  simp only [Bool.and_eq_true, decide_eq_true_eq]

theorem latch_bit (b : Bool) : 2 ^ 15 * b2n b = if b then 2 ^ 15 else 0 := by cases b <;> rfl

section Samples
variable {s : State} (h : s.pwr.housekeeping = true) (c : Pec) (v : BitVec 16)
include h

/-! A sample of the input stays in its register, and is what the read answers. -/

theorem exec_vin_supplied : exec (.vin c v) s =
    .next (smbusRead c (leBytes 2 v.toNat) { s with pwr := { s.pwr with vin := v.toNat } }) := by
  show execVin c v s = _
  unfold execVin
  rw [if_pos h]

theorem exec_iinA_supplied : exec (.iinA c v) s =
    .next (smbusRead c (leBytes 2 v.toNat) { s with pwr := { s.pwr with iinA := v.toNat } }) := by
  show execIinA c v s = _
  unfold execIinA
  rw [if_pos h]

theorem exec_iinB_supplied : exec (.iinB c v) s =
    .next (smbusRead c (leBytes 2 v.toNat) { s with pwr := { s.pwr with iinB := v.toNat } }) := by
  show execIinB c v s = _
  unfold execIinB
  rw [if_pos h]

end Samples

/-- A word of Table 19.3 that the bus reads is answered as smbusRead answers it. -/
theorem exec_deviceId (c : Pec) (s : State) : exec (.deviceId c) s =
    .next (smbusRead c (leBytes 2 (if s.pwr.seq = .powerGood then rf s A.dkDeviceId 31 16 else 0)) s) := by
  show execDeviceId c s = _
  unfold execDeviceId
  simp only [beq_iff_eq]

/-- Settles O12: each read of the bus by what it answers, each instruction of the port by the state that it leaves. -/
theorem managementBusAndTestPort : Obligations.ManagementBusAndTestPort := by
  unfold Obligations.ManagementBusAndTestPort
  refine ⟨fun s c => ?bus, fun s => ⟨rfl, rfl, fun pins load => ⟨rfl, rfl⟩⟩⟩
  simp only [← smbusRead_eq, ← latch_bit]
  refine ⟨rfl, rfl, ?seqState, exec_deviceId c s, rfl,
    fun v h => ⟨?_, ?_, ?_⟩⟩
  case seqState =>
    show Host.Outcome.next (smbusRead c (leBytes 2 (SeqState.code s.pwr.seq)) s) = _
    cases s.pwr.seq <;> rfl
  · rw [exec_vin_supplied h, smbusRead_eq]
  · rw [exec_iinA_supplied h, smbusRead_eq]
  · rw [exec_iinB_supplied h, smbusRead_eq]

end Sys2Proof.Machine
end

section
/-! SUPPORT. LOAD and STORE as they run (11 R305; 13 R347-R349): the rows of a command, and a row that lies in one piece. -/

namespace Sys2Proof.Machine
open Sys2Proof

/-! ### Transfers -/

section Transfers
variable {s : State} {p : PierNo} {r : RunCmd}

/-- A transfer that meets no fault of memory is what its rows come to. -/
theorem transfer_runs {p e op : Nat} {mine : List Byte → Bool} {faults : List Byte → List Nat}
    (h : Runs s p e op r (faults r.bytes)) (hm : mine r.bytes = true) {f : By → RunCmd → State → Bool × State} {q : Bool × State}
    (hq : f (r.by_ p e) r s = q) :
    transfer p e op mine faults .none none f s = finish p e (if q.1 then csOk else csFaulted) 0 q.2 := by
  subst hq
  have hmet : meetReads (r.by_ p e) r.bytes .none none s = (true, s) := by
    unfold meetReads
    rw [show meetEcc .none (dmSrc r.bytes) (dmSpan r.bytes (dmSstride r.bytes)) s = s from rfl, ite_self]
  unfold transfer
  rw [h.1]
  simp only [hm, Bool.not_true, Bool.false_eq_true, if_false]
  rw [runOp_runs h, hmet]
  rfl

theorem exec_load_runs (h : Runs s p eDmi 0x20 r (loadFaults r.bytes)) (ht : dmStok r.bytes = 0) (hl : dmListin r.bytes = false)
    {q : Bool × State} (hq : copyListed (r.by_ p eDmi) r.bytes (List.range (dmRows r.bytes)) s = q) :
    exec (.load p .none none) s = .next (finish p eDmi (if q.1 then csOk else csFaulted) 0 q.2) := by
  show execLoad p .none none s = _
  unfold execLoad
  rw [transfer_runs h (by simp [ht, hl]) hq]

theorem exec_store_runs (h : Runs s p eDmo 0x21 r (storeFaults r.bytes)) {q : Bool × State}
    (hq : copyListed (r.by_ p eDmo) r.bytes (List.range (dmRows r.bytes)) s = q) :
    exec (.store p .none none) s = .next (finish p eDmo (if q.1 then csOk else csFaulted) 0 q.2) := by
  show execStore p .none none s = _
  unfold execStore
  rw [transfer_runs h rfl hq]

/-- A LOAD that scores rows copies those that it selects, and lists them. -/
theorem exec_loadRowSelection_runs (h : Runs s p eDmi 0x20 r (selectFaults r.bytes)) (ht : dmStok r.bytes ≠ 0)
    (hl : dmListin r.bytes = false) {rows : List Nat} {q : State}
    (hrows : rows = selectedRows r.bytes (readWords s r.ctx p (dmSel r.bytes) (dmStok r.bytes * dmRows r.bytes)))
    (hq : copyListed (r.by_ p eDmi) r.bytes rows s = (true, q)) : exec (.loadRowSelection p .none none) s =
      .next (finish p eDmi csOk 0 (auditLoad p r rows (writeList r.ctx p (dmList r.bytes) rows q))) := by
  show execLoadRowSelection p .none none s = _
  unfold execLoadRowSelection
  rw [transfer_runs h (by simp [ht, hl]) (q := (true, auditLoad p r rows (writeList r.ctx p (dmList r.bytes) rows q)))]
  · rfl
  · simp only [← hrows, hq, if_true]

/-- A LOAD with LISTIN copies the rows of a good list. -/
theorem exec_loadListin_runs (h : Runs s p eDmi 0x20 r (listinFaults r.bytes)) (hl : dmListin r.bytes = true) {n : Nat}
    {rows : List Nat} {q : Bool × State} (hn : n = ofLe (ctxLocRd s r.ctx p (dmList r.bytes) 4)) (hfew : n ≤ dmRows r.bytes)
    (hrows : rows = (List.range n).map fun i => ofLe (ctxLocRd s r.ctx p (dmList r.bytes + 4 * (i + 1)) 4))
    (hgood : badList (dmRows r.bytes) rows = none) (hq : copyListed (r.by_ p eDmi) r.bytes rows s = q) :
    exec (.loadListin p .none none) s = .next (finish p eDmi (if q.1 then csOk else csFaulted) 0 q.2) := by
  show execLoadListin p .none none s = _
  unfold execLoadListin
  rw [transfer_runs h hl (q := q)]
  simp only [Nat.mul_zero, Nat.add_zero, ← hn, if_neg (Nat.not_lt.mpr hfew), ← hrows, hgood]
  exact hq

end Transfers

/-! ### A row in one piece -/

/-- A range that no 4 KiB boundary cuts is one piece. -/
theorem piecesOf_one {a n : Nat} (hn : 0 < n) (h : a % 4096 + n ≤ 4096) : piecesOf a n = [(a, n)] := by
  obtain ⟨m, rfl⟩ := Nat.exists_eq_add_one_of_ne_zero hn.ne'
  have hmin : min (m + 1) (4096 - a % 4096) = m + 1 := by omega
  simp [piecesOf, pieces, hmin]

/-- Memory in one piece that a window allows is fetched as it stands. -/
theorem fetch_one {w : By} {a n : Nat} {s : State} (hl : isLocal a = false) (hn : 0 < n) (h : a % 4096 + n ≤ 4096)
    (hwin : winOk s w.ctx a n .rd = true) (hgood : badWord s a n = none) : fetch w .rd a n s = (some (hbmRd s a n), s) := by
  simp [fetch, hl, piecesOf_one hn h, readPieces, hwin, hgood]

/-- A row that goes to the local store of the pier where its context is resident. -/
theorem store_local {w : By} {d : Nat} (bs : List Byte) {s : State} (hl : isLocal d = true)
    (hres : residentOn s w.ctx w.pier = true) : store w d bs s = (true, locWr w.pier (d % 2 ^ 24) bs s) := by
  simp [store, hl, ctxLocWr, hres]

/-- A LOAD of one row from memory does not overlap its place in the store. -/
theorem not_overlaps {b : List Byte} (hs : isLocal (dmSrc b) = false) (hd : isLocal (dmDst b) = true) : overlaps b = false := by
  simp [overlaps, hs, hd]

/-- The only row of a LOAD that lies in one piece inside a readable window lands in the local store. -/
theorem copyListed_one {w : By} {b : List Byte} {s : State} {a d n : Nat} (hbytes : dmRbytes b = n) (hn : 0 < n)
    (hsrc : dmSrc b = a) (ha : a < 2 ^ 63) (h : a % 4096 + n ≤ 4096) (hdst : dmDst b = 2 ^ 63 + d) (hd : d + n ≤ 2 ^ 24)
    (hwin : winOk s w.ctx a n .rd = true) (hgood : badWord s a n = none) (hres : residentOn s w.ctx w.pier = true) :
    copyListed w b [0] s = (true, locWr w.pier d (hbmRd s a n) s) := by
  have hfrom : isLocal (dmSrc b) = false := by
    rw [Bool.eq_false_iff, ne_eq, isLocal_iff (by omega)]
    omega
  have hto : isLocal (dmDst b) = true := (isLocal_iff (by omega)).mpr (by omega)
  have hplace : dmDst b % 2 ^ 24 = d := by omega
  have hpairs : ([0].zipIdx.map fun y => rowPair b y.1 y.2) = [(dmSrc b, dmDst b)] := by simp [rowPair]
  have hrow : copyRows w n [(dmSrc b, dmDst b)] s = (true, locWr w.pier d (hbmRd s a n) s) := by
    rw [copyRows, hsrc, fetch_one (hsrc ▸ hfrom) hn h hwin hgood]
    dsimp only
    rw [store_local _ hto hres, hplace]
    rfl
  rw [copyListed, hpairs, hbytes, hrow]
  simp [not_overlaps hfrom hto]

theorem hbmRd_getD (s : State) (a n i : Nat) (h : i < n) : (hbmRd s a n).getD i 0 = hbmByte s (a + i) := by
  rw [hbmRd_eq_map, List.getD_eq_getElem?_getD, List.getElem?_map, List.getElem?_range h]
  rfl

/-- Settles O31: each transfer by the rows that it copies; and the one row of a LOAD from memory to the store. -/
theorem moveCommands : Obligations.MoveCommands := by
  unfold Obligations.MoveCommands
  refine ⟨fun s p r => ⟨fun h ht hl q => exec_load_runs h ht hl, fun h q => exec_store_runs h,
    fun h ht hl rows q => exec_loadRowSelection_runs h ht hl, fun h hl n rows q => exec_loadListin_runs h hl⟩, ?_⟩
  intro s p r a d n h ht hl hone hbytes hn hsrc ha hpage hdst hd hwin hgood hres hstore
  have hcopy := copyListed_one (w := r.by_ p eDmi) hbytes hn hsrc ha hpage hdst hd hwin hgood hres
  rw [← List.range_one, ← hone] at hcopy
  refine ⟨locWr p d (hbmRd s a n) s, exec_load_runs h ht hl hcopy, rfl, fun k => ?_⟩
  show smGet 0 (smPutAll (fun _ => 0) s.pr.store (2 ^ 24 * p.val + d) 1 (hbmRd s a n)) k = _
  rw [smGet_putAll (fun _ => (0 : Byte)) _ _ _ _ hstore.1, hbmRd_length]
  split
  · next hk => exact hbmRd_getD s a n _ (by omega)
  · rfl

end Sys2Proof.Machine
end

section
/-! SUPPORT. Engine queues (11 R298-R301; 12 R324, R333): the head of a queue and what holds it up, and a command's end; and the
commands that are malformed. -/

namespace Sys2Proof.Machine
open Sys2Proof

/-! ### The head of a queue -/

section Heads
variable {s : State} {p : PierNo} {e : Fin 8} {x : Nat} {h : QCmd}

/-- An engine that may take its head tests it. -/
theorem exec_commandDequeue_may (hres : (getPier s p).resident = some x) (hhead : headOf s p e = some h)
    (hmay : mayDequeue s p x = true) (hfree : engineFree s p e h.bytes = true) :
    exec (.commandDequeue p e) s = .next (dequeueHead p x e h s) := by
  show Host.Outcome.next (tryDequeue p e s) = _
  unfold tryDequeue
  rw [hres, hhead]
  simp [hmay, hfree]

theorem dequeueHead_at_once (hwait : waitsOn s p x e = none) (hbreak : breakCause s p x e h.bytes = none) :
    dequeueHead p x e h s = takeHead p x e h s := by
  unfold dequeueHead
  simp only [hwait, hbreak]

theorem dequeueHead_breaks {c : Nat} (hwait : waitsOn s p x e = none) (hbreak : breakCause s p x e h.bytes = some c) :
    dequeueHead p x e h s = breakHead p x e c h s := by
  unfold dequeueHead
  simp only [hwait, hbreak]

section Waiting
variable {k : Nat} (hwait : waitsOn s p x e = some k) (hseen : (getEng s p e).waits = some h.seq)
include hwait hseen

/-- A head that waits goes on waiting while its count is 0, or an older head waits on it. -/
theorem dequeueHead_waits (hnot : flagCount s p k = 0 ∨ oldestWaiter s p x e k = false) : dequeueHead p x e h s = s := by
  unfold dequeueHead
  simp only [hwait, hseen, if_true]
  exact if_pos (by simpa using hnot)

/-- The oldest head that waits on a count above 0 takes one from it, and is taken. -/
theorem dequeueHead_served (hcount : 0 < flagCount s p k) (hold : oldestWaiter s p x e k = true)
    (hbreak : breakCause s p x e h.bytes = none) : dequeueHead p x e h s = takeHead p x e h (traced
      { kind := 5, engine := e, pier := p, ctx := x, tag := cmTag h.bytes, seq := h.seq, flag := cmWaitf h.bytes,
        counter := k, count := flagCount s p k - 1 } (wf (A.pierFlag p k) 7 0 (flagCount s p k - 1) s)) := by
  unfold dequeueHead
  simp only [hwait, hseen, if_true]
  rw [if_neg (by simp [hold, hcount.ne']), hbreak]

end Waiting
end Heads

/-! ### Completion -/

section Completion
variable {s : State} {p : PierNo} {e : Fin 8}

theorem exec_commandComplete_ended {r : RunCmd} {st : Nat} (hrun : (getEng s p e).running = some r) (hst : r.status = some st) :
    exec (.commandComplete p e) s =
      .next (completeCmd p e r st r.detail (onEng p e (fun g => { g with running := none }) s)) := by
  show execCommandComplete p e s = _
  unfold execCommandComplete
  simp only [hrun, hst]
  rfl

theorem exec_commandComplete_settled {t : Tracked} {st : Nat} (hrun : (getEng s p e).running = none)
    (hst : firstSettled s (getEng s p e).track = some (t, st)) : exec (.commandComplete p e) s =
      .next (completeCmd p e t.run st 0 (onEng p e (fun g => { g with track := g.track.erase t }) s)) := by
  show execCommandComplete p e s = _
  unfold execCommandComplete
  simp only [hrun, hst]

theorem exec_sync_runs {r : RunCmd} (h : Runs s p e 0x01 r (noNumbers r.bytes ++ mustBeZero r.bytes 0x10 48)) :
    exec (.sync p e) s = .next (finish p e csOk 0 s) := by
  show execSync p e s = _
  unfold execSync
  rw [runOp_runs h]

end Completion

/-- Settles O35: a head by what it waits on and whether a break stops it, and a command that has ended. -/
theorem engineQueueCommands : Obligations.EngineQueueCommands := by
  unfold Obligations.EngineQueueCommands
  refine fun s p e x h => ⟨fun hres hhead hmay hfree => ?_, fun r st => exec_commandComplete_ended,
    fun t st => exec_commandComplete_settled, fun r => exec_sync_runs⟩
  rw [exec_commandDequeue_may hres hhead hmay hfree]
  refine ⟨fun hwait hbreak => ?_, fun c hwait hbreak => ?_, fun k hwait hseen => ⟨fun hnot => ?_, fun hcount hold hbreak => ?_⟩⟩
  · rw [dequeueHead_at_once hwait hbreak]
  · rw [dequeueHead_breaks hwait hbreak]
  · rw [dequeueHead_waits hwait hseen hnot]
  · rw [dequeueHead_served hwait hseen hcount hold hbreak]

/-! ### Malformed commands (11 R300; 00 R486) -/

/-- A command with a faulty field is malformed at its first. -/
theorem runOp_malformed {s : State} {p e op o : Nat} {r : RunCmd} {faults : State → RunCmd → List Nat}
    (hrun : runningOp s p e op = some r) (hbad : firstFault (cstatFault r.bytes ++ faults s r) = some o)
    (f : RunCmd → State → State) : runOp p e op faults f s = malformed p e o r s := by
  unfold runOp
  simp only [hrun, hbad]

/-- A fault record of an engine's command leaves memory, the stores and the fabric. -/
theorem malformed_keeps (p e o : Nat) (r : RunCmd) (s : State) : (malformed p e o r s).hbm = s.hbm ∧
    (malformed p e o r s).pr.store = s.pr.store ∧ (malformed p e o r s).fab = s.fab ∧ (malformed p e o r s).net = s.net := by
  unfold malformed byFault
  refine ⟨raiseFault_hbm _ s, ?_, raiseFault_fab _ s, raiseFault_net _ s⟩
  show (raiseFault _ s).pr.store = s.pr.store
  rw [raiseFault_pr]

section Malformed
variable {s : State} {p : PierNo} {r : RunCmd} {o : Nat}

theorem exec_matmul_malformed {g : GirdNo} (hrun : runningOp s p g 0x10 = some r)
    (hbad : firstFault (cstatFault r.bytes ++ mmFaults g false r.bytes) = some o) :
    exec (.matmul p g .none) s = .next (malformed p g o r s) := by
  show execMatmul p g .none s = _
  unfold execMatmul
  rw [runOp_malformed (faults := fun _ r => mmFaults g false r.bytes) hrun hbad]

theorem exec_sync_malformed {e : Fin 8} (hrun : runningOp s p e 0x01 = some r)
    (hbad : firstFault (cstatFault r.bytes ++ (noNumbers r.bytes ++ mustBeZero r.bytes 0x10 48)) = some o) :
    exec (.sync p e) s = .next (malformed p e o r s) := by
  show execSync p e s = _
  unfold execSync
  rw [runOp_malformed hrun hbad]

theorem exec_store_malformed (hrun : runningOp s p eDmo 0x21 = some r)
    (hbad : firstFault (cstatFault r.bytes ++ storeFaults r.bytes) = some o) (x : MemSeen) (sram : Option (BitVec 24)) :
    exec (.store p x sram) s = .next (malformed p eDmo o r s) := by
  show execStore p x sram s = _
  unfold execStore transfer
  rw [hrun]
  simp only [Bool.not_true, Bool.false_eq_true, if_false]
  rw [runOp_malformed hrun hbad]

end Malformed

/-- Settles O37: each command is malformed at its first faulty field, and a malformed command only ends and is reported. -/
theorem malformedCommands : Obligations.MalformedCommands := by
  unfold Obligations.MalformedCommands
  exact fun s p r o => ⟨fun g => exec_matmul_malformed, fun e => exec_sync_malformed,
    fun x sram hrun hbad => exec_store_malformed hrun hbad x sram, fun e => malformed_keeps p e o r s⟩

end Sys2Proof.Machine
end

section
/-! SUPPORT. The grants of an entry (11 R293): the cut of its tiles. -/

namespace Sys2Proof.Machine
open Sys2Proof

/-- A valid entry has tiles, in grants of at least one. -/
theorem wqValid_counts {b : List Byte} (h : wqValid b = true) : 1 ≤ wqGrant b ∧ 1 ≤ wqTcount b := by
  simp only [wqValid, Bool.and_eq_true, decide_eq_true_eq] at h
  exact ⟨h.1.1.1.1.2, h.1.1.2⟩

/-- The grants of a valid entry: as many as hold its tiles, with none to spare. -/
theorem wqTotal_spec {b : List Byte} (h : wqValid b = true) : wqTcount b ≤ wqTotal b * wqGrant b ∧
    ∀ g < wqTotal b, g * wqGrant b < wqTcount b := by
  obtain ⟨hgrant, -⟩ := wqValid_counts h
  have htotal : wqTotal b = (wqTcount b + wqGrant b - 1) / wqGrant b := if_pos h
  rw [htotal]
  refine ⟨?_, fun g hg => ?_⟩
  · have := Nat.lt_div_mul_add (a := wqTcount b + wqGrant b - 1) hgrant
    omega
  · have := (Nat.le_div_iff_mul_le hgrant).mp (Nat.succ_le_of_lt hg)
    rw [Nat.succ_mul] at this
    omega

/-- The tiles of the first k grants. -/
theorem grants_sum (w t : Nat) (k : Nat) : ((List.range k).map fun g => min w (t - g * w)).sum = min (k * w) t := by
  induction k with
  | zero => simp
  | succ k ih =>
    rw [List.range_succ, List.map_append, List.sum_append, ih, Nat.succ_mul]
    simp only [List.map_cons, List.map_nil, List.sum_cons, List.sum_nil]
    omega

/-- Settles O34: a grant before the last is full, and the grants hold the tiles with none to spare. -/
theorem grantsCutTheTiles : Obligations.GrantsCutTheTiles := by
  unfold Obligations.GrantsCutTheTiles
  intro x n b h
  obtain ⟨hgrant, -⟩ := wqValid_counts h
  obtain ⟨hholds, hnone⟩ := wqTotal_spec h
  refine ⟨fun g hg => ?_, ?_⟩
  · have hbefore := hnone g hg
    refine ⟨rfl, ?_, Nat.min_le_left _ _, fun hnext => ?_⟩
    · show 0 < min (wqGrant b) (wqTcount b - g * wqGrant b)
      omega
    · have hfull := hnone (g + 1) hnext
      show wqFtile b + (g + 1) * wqGrant b = wqFtile b + g * wqGrant b + min (wqGrant b) (wqTcount b - g * wqGrant b)
      rw [Nat.succ_mul] at hfull ⊢
      omega
  · exact (grants_sum (wqGrant b) (wqTcount b) (wqTotal b)).trans (Nat.min_eq_right hholds)

end Sys2Proof.Machine
end

section
/-! SUPPORT. The scheduler (11 R292-R294): entries that join a queue and that complete. -/

namespace Sys2Proof.Machine
open Sys2Proof

section Entries
variable {s : State} {x : CtxNo} {i : SpanNo}

/-- The queue of (x, i) with an entry more, which is numbered, and its grants handed out. -/
def entryJoins (x i : Nat) (b : List Byte) (status : Nat) (s u : State) : State :=
  handOut x i (putWq x i (wqAt s x i ++ [takenEntry (wqNextOf s x i) b status])
    { u with pr := { u.pr with wqNext := smPut 0 s.pr.wqNext (8 * x + i) ((wqNextOf s x i + 1) % 2 ^ 32) } })

theorem takenEntry_status (n : Nat) (b : List Byte) (status : Nat) : (takenEntry n b status).status = status := rfl

section Taken
variable {k : Nat} {b : List Byte} (hgroup : groupWith s x i = some k) (hmay : mayGrant s x i = true)
  (hmore : wqProd s x i ≠ wqNextOf s x i) (hread : readEntry x i (wqNextOf s x i) s = (some b, s))
include hgroup hmay hmore hread

theorem exec_wqEntry_valid (hb : wqValid b = true) : exec (.wqEntry x i) s = .next (entryJoins x i b csOk s s) := by
  show execWqEntry x i s = _
  unfold execWqEntry
  simp only [hgroup, hmay, hread, hb, Bool.not_true, Bool.false_or, beq_iff_eq, hmore, if_false, if_true,
    takenEntry_status]
  rw [if_neg (by decide)]
  rfl

/-- An entry that is not valid joins its queue too, and is reported. -/
theorem exec_wqEntry_malformed (hb : wqValid b = false) : exec (.wqEntry x i) s = .next (entryJoins x i b csMalformed s
    (raiseFault { code := 0x0B08, cls := .ctxf, ctx := x, unit := spanUnit i, tag := wqTag b,
                  detail := 2 ^ 32 * wqTag b + i } s)) := by
  have hpr (f : FaultId) : (raiseFault f s).pr.wqs = s.pr.wqs := congrArg Piers.wqs (raiseFault_pr f s)
  have hnext (f : FaultId) : (raiseFault f s).pr.wqNext = s.pr.wqNext := congrArg Piers.wqNext (raiseFault_pr f s)
  show execWqEntry x i s = _
  unfold execWqEntry
  simp only [hgroup, hmay, hread, hb, Bool.not_true, Bool.false_or, beq_iff_eq, hmore, if_false, if_true, Bool.false_eq_true,
    takenEntry_status, entryJoins, wqAt, hpr, hnext]
  rfl

end Taken

/-- A queue that has given all its entries gives none. -/
theorem exec_wqEntry_none (h : wqProd s x i = wqNextOf s x i) : exec (.wqEntry x i) s = .next s := by
  show execWqEntry x i s = _
  unfold execWqEntry
  dsimp only
  split
  · rfl
  · rw [if_pos (by simp [h])]

/-- The first entry whose tasks have all ended completes. -/
theorem exec_wqEntryComplete_ended {e : WqEntry} (h : (wqAt s x i).find? entryEnded = some e) :
    exec (.wqEntryComplete x i) s =
      .next (handOut x i (passEntries x i (onEntry x i e.num (fun e => { e with complete := true })
        (if wqDone e.bytes = 0 then s else spanWrite x i ((groupWith s x i).getD 0) (wqTag e.bytes) (wqDone e.bytes)
          (leBytes 8 (completionWord (wqTag e.bytes) e.status 0)) s)))) := by
  show execWqEntryComplete x i s = _
  unfold execWqEntryComplete
  simp only [h]

end Entries

/-! ### Tasks (11 R295, R296) -/

section Tasks
variable {s : State} {p : PierNo} {g : Grant}

/-- The core of a pier as a task starts. -/
def taskStarted (p : Nat) (g : Grant) (b : List Byte) (s : State) : State :=
  traced { kind := 6, engine := eCore, pier := p, ctx := g.ctx, tag := wqTag b } (onPier p (fun q => { q with
    grant := none, task := some g, svcTurn := true
    core := { pc := wqPc b, x := taskRegs b g p (positionOf s p), resv := none } }) s)

theorem exec_taskStart_granted {e : WqEntry} (hgrant : (getPier s p).grant = some g) (hidle : (getPier s p).task = none)
    (hready : pierReady s p = true) (hmay : mayGrant s g.ctx (p / 16) = true) (hfirst : serviceFirst s g.ctx p = false)
    (hentry : entryOf s p g = some e) :
    exec (.taskStart p) s = .next (handOut g.ctx (p.val / 16) (taskStarted p g e.bytes s)) := by
  show execTaskStart p s = _
  unfold execTaskStart
  simp only [hgrant, hidle, hready, hmay, hfirst, hentry, Option.isSome_none, Bool.not_true, Bool.or_false,
    Bool.false_eq_true, if_false]
  rfl

variable (hrun : runningTask s p = some g)
include hrun

theorem exec_taskEnd_ecall (h : coreNext s p g.ctx = .ecall) : exec (.taskEnd p false) s = .next (endTask p g false s) := by
  show execTaskEnd p false s = _
  unfold execTaskEnd
  simp only [hrun, h, Bool.false_eq_true, if_false]

theorem exec_taskEnd_traps {t : CoreTrap} (h : coreNext s p g.ctx = .traps t) :
    exec (.taskEnd p false) s = .next (trapTask p g t s) := by
  show execTaskEnd p false s = _
  unfold execTaskEnd
  simp only [hrun, h, Bool.false_eq_true, if_false]

theorem exec_taskEnd_sram : exec (.taskEnd p true) s = .next (trapTask p g (sramTrap s p g.ctx) s) := by
  show execTaskEnd p true s = _
  unfold execTaskEnd
  simp only [hrun, if_true]

theorem exec_queuePush_pushes {d : CoreDo} {e : Nat} (h : coreNext s p g.ctx = .does d) (hpush : pushesTo d = some e) :
    exec (.queuePush p) s = .next (pushStaged p e (coreDoes p d s)) := by
  show execQueuePush p s = _
  unfold execQueuePush
  simp only [hrun, h, hpush]

end Tasks

theorem pushStaged_full {p e : Nat} {s : State} (h : 256 ≤ (getEng s p e).queue.length) : pushStaged p e s =
    onPier p (fun x => { x with stalled := some (e, slice (getEng s p e).staging 0 64) }) s := if_pos h

theorem pushStaged_room {p e : Nat} {s : State} (h : (getEng s p e).queue.length < 256) : pushStaged p e s =
    pushCmd p e (slice (getEng s p e).staging 0 64) s := if_neg (Nat.not_le.mpr h)

end Sys2Proof.Machine
end

section
/-! SUPPORT. A core cycle of a task (11 R295, R296; 03 R74): what an instruction may store, and what the cycle leaves. -/

namespace Sys2Proof.Machine
open Sys2Proof

/-! ### What an instruction stores -/

/-- A store of the core that the windows and the stores' bounds let pass, where it goes to no port. -/
def StoreMay (s : State) (x : Nat) (d : CoreDo) : Prop :=
  ∀ a b, d.wr = some (a, b) → portOf a = none → ∃ cause, accessTrap s x a b.length .w false cause = none

theorem StoreMay.of_nothing {s : State} {x : Nat} {d : CoreDo} (h : d.wr = none) : StoreMay s x d := fun _ _ hd => by
  rw [h] at hd
  cases hd

/-- A store of n bytes that passes its check. -/
theorem StoreMay.of_checked {s : State} {x a n v cause : Nat} {d : CoreDo} (hd : d.wr = some (a, leBytes n v))
    (h : accessTrap s x a n .w false cause = none) : StoreMay s x d := fun _ _ he _ => by
  obtain ⟨rfl, rfl⟩ := Prod.mk.inj (Option.some.inj (hd.symm.trans he))
  exact ⟨cause, by rwa [leBytes_length]⟩

section Instructions
variable {s : State} {p x a n : Nat} {d : CoreDo}

theorem coreLoad_does {k : List Byte → CoreDo} (h : coreLoad s p x a n k = .does d) : ∃ b, d = k b := by
  unfold coreLoad at h
  split at h
  · cases h
  · split at h
    · cases h
    · exact ⟨_, (CoreNext.does.inj h).symm⟩

theorem coreStore_does {e : CoreDo} (h : coreStore s x a n e = .does d) :
    d = e ∧ accessTrap s x a n .w false causeStore = none := by
  unfold coreStore at h
  split at h
  · cases h
  · split at h
    · cases h
    · next hok => exact ⟨(CoreNext.does.inj h).symm, hok⟩

theorem coreAtomic_does {k : List Byte → CoreDo} (h : coreAtomic s p x a n k = .does d) :
    (∃ b, d = k b) ∧ accessTrap s x a n .w false causeStore = none := by
  unfold coreAtomic at h
  split at h
  · cases h
  · split at h
    · cases h
    · split at h
      · cases h
      · cases h
      · next hok => exact ⟨⟨_, (CoreNext.does.inj h).symm⟩, hok⟩

/-- What an instruction that completes stores has passed its check. -/
theorem coreIns_storeMay {len : Nat} {c : RvCore} {i : RvIns} (h : coreIns s p x len c i = .does d) : StoreMay s x d := by
  cases i with
  | write rd v =>
    obtain rfl := CoreNext.does.inj h
    exact .of_nothing rfl
  | jump rd t =>
    obtain rfl := CoreNext.does.inj h
    exact .of_nothing rfl
  | branch t a =>
    obtain rfl := CoreNext.does.inj h
    exact .of_nothing rfl
  | fence =>
    obtain rfl := CoreNext.does.inj h
    exact .of_nothing rfl
  | load rd a n sg =>
    dsimp only [coreIns] at h
    obtain ⟨b, rfl⟩ := coreLoad_does h
    exact .of_nothing rfl
  | lr rd a n =>
    dsimp only [coreIns] at h
    obtain ⟨b, rfl⟩ := coreLoad_does h
    exact .of_nothing rfl
  | store a n v =>
    dsimp only [coreIns] at h
    obtain ⟨rfl, hok⟩ := coreStore_does h
    exact .of_checked rfl hok
  | sc rd a n v =>
    dsimp only [coreIns] at h
    obtain ⟨⟨b, rfl⟩, hok⟩ := coreAtomic_does h
    split
    · exact .of_checked rfl hok
    · exact .of_nothing rfl
  | amo rd a n f v =>
    dsimp only [coreIns] at h
    obtain ⟨⟨b, rfl⟩, hok⟩ := coreAtomic_does h
    exact .of_checked rfl hok
  | ecall =>
    have hends : (if coreReg c 17 = 0 then CoreNext.ecall else .traps ⟨.plain, causeEcall, 0⟩) = .does d := h
    split at hends <;> cases hends
  | ebreak => cases h
  | illegal => cases h

theorem coreNext_storeMay (h : coreNext s p x = .does d) : StoreMay s x d := by
  unfold coreNext at h
  dsimp only at h
  split at h
  · cases h
  · exact coreIns_storeMay h

end Instructions

/-- A local store that passes its check lies in the low 2^22 bytes of its pier's stores. -/
theorem accessTrap_local {s : State} {x a n cause : Nat} (hl : isLocal a = true) (hport : portOf a = none)
    (h : accessTrap s x a n .w false cause = none) : a % 2 ^ 24 + n ≤ 2 ^ 24 := by
  have hreach : coreLocal a n = true := by
    simpa [accessTrap, hl, hport] using h
  simp only [coreLocal, Bool.and_eq_true] at hreach
  have := localOk_le hreach.2
  omega

/-- A store to memory that passes its check lies in a window with W. -/
theorem accessTrap_window {s : State} {x a n cause : Nat} (hl : isLocal a = false)
    (h : accessTrap s x a n .w false cause = none) : winOk s x a n .w = true := by
  simpa [accessTrap, hl] using h

/-! ### A core cycle -/

/-- A byte of memory that a write changes is one that it covers. -/
theorem hbmWr_changes {u : State} {a k : Nat} {b : List Byte} (hu : Memory.wf u.hbm)
    (h : hbmByte (hbmWr a b u) k ≠ hbmByte u k) : a ≤ k ∧ k < a + b.length := by
  by_contra hout
  exact h (by rw [hbmByte_hbmWr _ _ _ hu, if_neg fun hin => hout ⟨hin.1, hin.2.1⟩])

/-- What a core cycle of context x on pier p leaves: all but the pier and its stores, and bytes of memory in a window with W. -/
structure CoreOnly (s : State) (x p : Nat) (t : State) : Prop where
  frame : t = { s with hbm := t.hbm, mem := { s.mem with bad := t.mem.bad }
                       pr := { s.pr with piers := t.pr.piers, store := t.pr.store } }
  stores : ∀ k, (k < 2 ^ 24 * p ∨ 2 ^ 24 * (p + 1) ≤ k) → smGet 0 t.pr.store k = smGet 0 s.pr.store k
  bytes : ∀ a, hbmByte t a ≠ hbmByte s a → ∃ i, i < winCount s x ∧ winAllows s x i a 1 .w = true

theorem CoreOnly.refl (s : State) (x p : Nat) : CoreOnly s x p s := ⟨rfl, fun _ _ => rfl, fun _ hne => absurd rfl hne⟩

/-- An instruction that completes, and whose store has passed its check. -/
theorem coreDoes_only {s : State} {x p : Nat} {d : CoreDo} (hs : Canonical s) (hmay : StoreMay s x d) :
    CoreOnly s x p (coreDoes p d s) := by
  unfold coreDoes coreWr
  dsimp only
  split
  · exact ⟨rfl, fun _ _ => rfl, fun _ hne => absurd rfl hne⟩
  · next a b hwr =>
    split
    · exact ⟨rfl, fun _ _ => rfl, fun _ hne => absurd rfl hne⟩
    · next hport =>
      obtain ⟨cause, hok⟩ := hmay a b hwr hport
      split
      · next hl =>
        have hfit := accessTrap_local hl hport hok
        refine ⟨rfl, fun k hk => ?_, fun _ hne => absurd rfl hne⟩
        show smGet 0 (smPutAll (fun _ => 0) s.pr.store (2 ^ 24 * p + a % 2 ^ 24) 1 b) k = _
        rw [smGet_putAll (fun _ => (0 : Byte)) _ _ _ _ hs.store.1, if_neg (by omega)]
      · next hl =>
        obtain ⟨-, i, -, hcount, hwin⟩ := winOk_elim (accessTrap_window (by simpa using hl) hok)
        refine ⟨rfl, fun _ _ => rfl, fun k hne => ⟨i, hcount, ?_⟩⟩
        obtain ⟨hlo, hhi⟩ := hbmWr_changes (u := onPier p _ s) hs.hbm hne
        exact winAllows_byte hwin hlo hhi

section Cycles
variable {s : State} {p : Nat}

theorem tickCore_idle (h : runningTask s p = none) : tickCore s p = s := by
  unfold tickCore
  rw [h]

variable {g : Grant} (hrun : runningTask s p = some g)
include hrun

theorem tickCore_does {d : CoreDo} (h : coreNext s p g.ctx = .does d) (hpush : pushesTo d = none) :
    tickCore s p = coreDoes p d s := by
  unfold tickCore
  simp [hrun, h, hpush]

/-- An instruction that pushes, ends the task or traps waits for its row. -/
theorem tickCore_waits (h : ∀ d, coreNext s p g.ctx = .does d → pushesTo d ≠ none) : tickCore s p = s := by
  unfold tickCore
  rw [hrun]
  dsimp only
  split
  · next d hd => rw [if_pos (Option.isSome_iff_ne_none.mpr (h d hd))]
  · rfl

theorem tickCore_only (hs : Canonical s) : CoreOnly s g.ctx p (tickCore s p) := by
  by_cases h : ∀ d, coreNext s p g.ctx = .does d → pushesTo d ≠ none
  · rw [tickCore_waits hrun h]
    exact .refl s _ p
  · push Not at h
    obtain ⟨d, hd, hpush⟩ := h
    rw [tickCore_does hrun hd hpush]
    exact coreDoes_only hs (coreNext_storeMay hd)

end Cycles

end Sys2Proof.Machine
end

section
/-! SUPPORT. Switches of a group's context (11 R291, R317, R318), and the statement of queues, tasks and switches. -/

namespace Sys2Proof.Machine
open Sys2Proof

section Switches
variable {s : State} {i : SpanNo} {k : Fin 4}

section Start
variable {p : GPort} (hp : portReady s p = true) (hh : holds s p (dieOf (A.spnGroup i k)) = true)
include hp hh

/-- During a switch a write of SPN_GROUP is ignored. -/
theorem exec_residentSwitchStart_switching (h : groupSwitching s i k = true) (w : Word) :
    exec (.residentSwitchStart p i k w) s = .next (accessed p (A.spnGroup i k) 0 stIgnored s) := by
  show Host.Outcome.next (wrRow p (A.spnGroup i k) w (writeSpnGroup p i k) s) = _
  rw [wrRow_ready hp]
  simp [writeSpnGroup, hh, h]

/-- A group without a context is given one, and its piers begin to switch. -/
theorem exec_residentSwitchStart_begins (h : groupSwitching s i k = false) (hnone : groupCtx s i k = none) {w : Word}
    (hv : fget w 31 31 = 1) (hold : rf s (A.spnGroup i k) 31 31 = 0) (helse : ctxElsewhere s i k (groupCtxOf w) = false) :
    exec (.residentSwitchStart p i k w) s = .next (accessed p (A.spnGroup i k) 0 stOk ((groupPiers s i k).foldl beginSwitch
      (wf (A.spnGroup i k) 31 31 1 (wf (A.spnGroup i k) 28 23 (fget w 28 23) s)))) := by
  show Host.Outcome.next (wrRow p (A.spnGroup i k) w (writeSpnGroup p i k) s) = _
  rw [wrRow_ready hp]
  simp [writeSpnGroup, hh, h, hnone, hv, hold, helse]

end Start

/-- The piers of a group that is ready save and restore, and the switch has ended. -/
theorem exec_ctxSwitch_ready (hsome : groupPiers s i k ≠ []) (hready : ∀ q ∈ groupPiers s i k, switchReady s q = true)
    (hbudget : tstSpent s actCtxSave (8 + i) = false) (cycles : Nat) : exec (.ctxSwitch i k cycles) s = .next (
      let u := raiseEvent
        { code := 0x0B09, ctx := (groupCtx s i k).getD 0xFF, unit := spanUnit i, detail := i.val * 2 ^ 4 + k.val }
        ((groupPiers s i k).foldl (switchPier (groupCtx s i k)) (tstCharge actCtxSave (8 + i) cycles s))
      (groupCtx s i k).elim u fun x => handOut x i u) := by
  have hall : (groupPiers s i k).all (switchReady s) = true := List.all_eq_true.mpr hready
  show execCtxSwitch i k cycles s = _
  unfold execCtxSwitch
  dsimp only
  rw [if_neg (by simp [hsome, hall, hbudget])]
  cases groupCtx s i k <;> rfl

end Switches

/-- Settles O33: the scheduler's entries, the rows of a task, the cycle of its core, and the switch of a group. -/
theorem queuesTasksAndSwitches : Obligations.QueuesTasksAndSwitches := by
  unfold Obligations.QueuesTasksAndSwitches
  refine ⟨fun s x i => ⟨fun k b hgroup hmay hmore hread => ?taken, exec_wqEntry_none, fun e h hdone => ?plain,
      fun e h hdone => ?written⟩,
    fun s p g => ⟨fun e hgrant hidle hready hmay hfirst hentry => ?start, fun hrun => ⟨exec_taskEnd_ecall hrun,
      fun t => exec_taskEnd_traps hrun, exec_taskEnd_sram hrun, fun d e hdoes hpush => ?push⟩⟩,
    fun s t p hs ht => ?cycle,
    fun s p i k w => ⟨fun hp hh => ⟨fun h => exec_residentSwitchStart_switching hp hh h w,
        fun h hnone => exec_residentSwitchStart_begins hp hh h hnone⟩,
      fun cycles hsome hready hbudget hnone => ?leaves, fun cycles x hsome hready hbudget hctx => ?restores⟩⟩
  case taken => exact ⟨exec_wqEntry_valid hgroup hmay hmore hread, exec_wqEntry_malformed hgroup hmay hmore hread⟩
  case plain => rw [exec_wqEntryComplete_ended h, if_pos hdone]
  case written => rw [exec_wqEntryComplete_ended h, if_neg hdone]
  case start => exact ⟨_, exec_taskStart_granted hgrant hidle hready hmay hfirst hentry, rfl⟩
  case push =>
    dsimp only
    rw [exec_queuePush_pushes hrun hdoes hpush]
    refine ⟨fun hfull => ?_, fun hroom => ?_⟩
    · rw [pushStaged_full hfull]
    · rw [pushStaged_room hroom]
  case cycle =>
    subst ht
    refine ⟨?_, tickCore_idle, fun g hrun => ⟨fun d => tickCore_does hrun, tickCore_waits hrun,
      (tickCore_only hrun hs).stores, (tickCore_only hrun hs).bytes⟩⟩
    cases hrun : runningTask s p with
    | none => rw [tickCore_idle hrun]
    | some g => exact (tickCore_only hrun hs).frame
  case leaves =>
    rw [exec_ctxSwitch_ready hsome hready hbudget]
    rw [hnone]
    rfl
  case restores =>
    rw [exec_ctxSwitch_ready hsome hready hbudget]
    rw [hctx]
    rfl

end Sys2Proof.Machine
end

section
/-! SUPPORT. The zero-run form of a row read back: packed elements, entries of a block, blocks and rows (13 R339-R342). -/

namespace Sys2Proof.Machine
open Sys2Proof

/-! ### Packed elements (07 R175) -/

theorem fmtBits_le (c : Nat) : fmtBits c ≤ 32 := by
  by_cases h : c < 21
  · interval_cases c <;> decide
  · rw [fmtBits, List.getD_eq_default _ _ (by simpa using h)]
    exact Nat.zero_le _

theorem elemBytes_le (c : Nat) {n : Nat} (h : n ≤ 256) : elemBytes c n ≤ 1024 := by
  have hmul : n * fmtBits c ≤ 256 * 32 := Nat.mul_le_mul h (fmtBits_le c)
  unfold elemBytes
  omega

theorem packNat_lt (w : Nat) (ps : List Nat) : packNat w ps < 2 ^ (w * ps.length) := by
  induction ps with
  | nil => simp [packNat]
  | cons p r ih =>
    have hp : p % 2 ^ w < 2 ^ w := Nat.mod_lt _ (Nat.two_pow_pos w)
    calc packNat w (p :: r) = p % 2 ^ w + 2 ^ w * packNat w r := rfl
      _ < 2 ^ w + 2 ^ w * packNat w r := by omega
      _ = 2 ^ w * (packNat w r + 1) := by ring
      _ ≤ 2 ^ w * 2 ^ (w * r.length) := Nat.mul_le_mul_left _ ih
      _ = 2 ^ (w * (p :: r).length) := by rw [← pow_add, List.length_cons]; ring_nf

/-- Each pattern of a packed number lies at its bits. -/
theorem packNat_pattern (w : Nat) (ps : List Nat) (i : Nat) (h : i < ps.length) :
    packNat w ps / 2 ^ (w * i) % 2 ^ w = ps[i] % 2 ^ w := by
  induction ps generalizing i with
  | nil => simp at h
  | cons p r ih =>
    cases i with
    | zero => simp [packNat]
    | succ i =>
      have hshift : packNat w (p :: r) / 2 ^ (w * (i + 1)) = packNat w r / 2 ^ (w * i) := by
        rw [Nat.mul_succ, Nat.add_comm, pow_add, ← Nat.div_div_eq_div_mul, packNat,
          Nat.add_mul_div_left _ _ (Nat.two_pow_pos w), Nat.div_eq_of_lt (Nat.mod_lt _ (Nat.two_pow_pos w)), Nat.zero_add]
      rw [hshift]
      simpa using ih i (by simpa using h)

theorem packElems_length (c : Nat) (ps : List Nat) : (packElems c ps).length = elemBytes c ps.length := leBytes_length ..

theorem ofLe_packElems (c : Nat) (ps : List Nat) : ofLe (packElems c ps) = packNat (fmtBits c) ps := by
  have hroom : 2 ^ (fmtBits c * ps.length) ≤ 256 ^ elemBytes c ps.length := by
    rw [show (256 : Nat) = 2 ^ 8 from rfl, ← pow_mul, Nat.mul_comm (fmtBits c)]
    refine Nat.pow_le_pow_right (by decide) ?_
    unfold elemBytes
    omega
  rw [packElems, ofLe_leBytes, Nat.mod_eq_of_lt ((packNat_lt _ _).trans_le hroom)]

/-- Packed patterns of a format are unpacked as they were, whatever follows them. -/
theorem unpackElems_packElems (c : Nat) (ps : List Nat) (tail : List Byte) (h : ∀ p ∈ ps, p < 2 ^ fmtBits c) :
    unpackElems c (packElems c ps ++ tail) ps.length = ps := by
  have htake : (packElems c ps ++ tail).take (elemBytes c ps.length) = packElems c ps := by
    rw [← packElems_length, List.take_left]
  unfold unpackElems
  simp only [htake, ofLe_packElems]
  refine List.ext_getElem (by simp) fun i _ hi => ?_
  rw [List.getElem_map, List.getElem_range, packNat_pattern _ _ _ hi, Nat.mod_eq_of_lt (h _ (List.getElem_mem hi))]

/-! ### Entries of a block (13 R341, R342) -/

/-- What a place of a block holds, where entries give it: 0 where none does. -/
def entryAt (es : List (Nat × Nat)) (p : Nat) : Nat := ((es.find? fun e => e.1 == p).map Prod.snd).getD 0

theorem entryAt_head (p v : Nat) (es : List (Nat × Nat)) : entryAt ((p, v) :: es) p = v := by simp [entryAt]

theorem entryAt_tail {p q : Nat} (v : Nat) (es : List (Nat × Nat)) (h : p ≠ q) : entryAt ((p, v) :: es) q = entryAt es q := by
  simp [entryAt, h]

theorem entryAt_below {es : List (Nat × Nat)} {p : Nat} (h : ∀ e ∈ es, p < e.1) : entryAt es p = 0 := by
  have hnone : es.find? (fun e => e.1 == p) = none :=
    List.find?_eq_none.2 fun e he => by simpa using (h e he).ne'
  simp [entryAt, hnone]

theorem zrEntries_cons_skipped {x run : Nat} (r : List (Nat × Bool)) (h : run < 15) :
    zrEntries ((x, false) :: r) run = zrEntries r (run + 1) := by simp [zrEntries, h]

theorem zrEntries_cons_stored {x run : Nat} {must : Bool} (r : List (Nat × Bool)) (h : must = false → ¬ run < 15) :
    zrEntries ((x, must) :: r) run = (run, x) :: zrEntries r 0 := by
  have hguard : ¬ ((!must && decide (run < 15)) = true) := by simpa using h
  rw [zrEntries, if_neg hguard]

/-- Each entry's count fits 4 bits, and its pattern is one of the block's. -/
theorem mem_zrEntries (l : List (Nat × Bool)) (run : Nat) (hrun : run ≤ 15) :
    ∀ e ∈ zrEntries l run, e.1 < 16 ∧ ∃ x ∈ l, x.1 = e.2 := by
  induction l generalizing run with
  | nil => simp [zrEntries]
  | cons x r ih =>
    obtain ⟨x, must⟩ := x
    by_cases hskip : must = false ∧ run < 15
    · obtain ⟨rfl, hlt⟩ := hskip
      rw [zrEntries_cons_skipped r hlt]
      intro e he
      obtain ⟨hcount, y, hy, hyv⟩ := ih (run + 1) hlt e he
      exact ⟨hcount, y, List.mem_cons_of_mem _ hy, hyv⟩
    · rw [zrEntries_cons_stored r fun hm hlt => hskip ⟨hm, hlt⟩]
      intro e he
      rcases List.mem_cons.1 he with rfl | he
      · exact ⟨by simpa using Nat.lt_succ_of_le hrun, _, List.mem_cons_self, rfl⟩
      · obtain ⟨hcount, y, hy, hyv⟩ := ih 0 (by decide) e he
        exact ⟨hcount, y, List.mem_cons_of_mem _ hy, hyv⟩

theorem zrEntries_length_le (l : List (Nat × Bool)) (run : Nat) : (zrEntries l run).length ≤ l.length := by
  induction l generalizing run with
  | nil => simp [zrEntries]
  | cons x r ih =>
    obtain ⟨x, must⟩ := x
    by_cases hskip : must = false ∧ run < 15
    · obtain ⟨rfl, hlt⟩ := hskip
      rw [zrEntries_cons_skipped r hlt]
      exact (ih _).trans (Nat.le_succ _)
    · rw [zrEntries_cons_stored r fun hm hlt => hskip ⟨hm, hlt⟩]
      exact Nat.succ_le_succ (ih 0)

/-- The entries of elements, placed: each place from p + run on has its element, where those that are not stored are 0. -/
theorem zrPlace_zrEntries (len : Nat) (l : List (Nat × Bool)) (run p : Nat) (hfit : p + run + l.length ≤ len)
    (hzero : ∀ e ∈ l, e.2 = false → e.1 = 0) :
    ∃ es, zrPlace len (zrEntries l run) p = some es ∧ (∀ e ∈ es, p + run ≤ e.1) ∧
      ∀ i, entryAt es (p + run + i) = (l.map Prod.fst).getD i 0 := by
  induction l generalizing run p with
  | nil => exact ⟨[], rfl, by simp, by simp [entryAt]⟩
  | cons x r ih =>
    obtain ⟨x, must⟩ := x
    have hzeroTail : ∀ e ∈ r, e.2 = false → e.1 = 0 := fun e he => hzero e (List.mem_cons_of_mem _ he)
    rw [List.length_cons] at hfit
    by_cases hskip : must = false ∧ run < 15
    · obtain ⟨rfl, hlt⟩ := hskip
      obtain ⟨es, hplace, hfrom, hat⟩ := ih (run + 1) p (by omega) hzeroTail
      refine ⟨es, by rw [zrEntries_cons_skipped r hlt, hplace], fun e he => by have := hfrom e he; omega, fun i => ?_⟩
      cases i with
      | zero =>
        have hx : x = 0 := hzero _ List.mem_cons_self rfl
        simpa [hx] using entryAt_below fun e he => by have := hfrom e he; omega
      | succ i => simpa [Nat.add_assoc, Nat.add_comm 1 i] using hat i
    · obtain ⟨es, hplace, hfrom, hat⟩ := ih 0 (p + run + 1) (by omega) hzeroTail
      refine ⟨(p + run, x) :: es, ?_, ?_, fun i => ?_⟩
      · rw [zrEntries_cons_stored r fun hm hlt => hskip ⟨hm, hlt⟩, zrPlace, if_neg (by omega), hplace, Option.map_some]
      · intro e he
        rcases List.mem_cons.1 he with rfl | he
        · exact Nat.le_refl _
        · have := hfrom e he
          omega
      · cases i with
        | zero => simpa using entryAt_head (p + run) x es
        | succ i =>
          rw [entryAt_tail _ _ (by omega)]
          simpa [Nat.add_assoc, Nat.add_comm 1 i] using hat i

/-- What is trimmed need not be stored. -/
theorem zrTrim_append (l : List (Nat × Bool)) : ∃ r, l = zrTrim l ++ r ∧ ∀ e ∈ r, e.2 = false := by
  refine ⟨(l.reverse.takeWhile fun e => !e.2).reverse, ?_, fun e he => ?_⟩
  · rw [zrTrim, ← List.reverse_append, List.takeWhile_append_dropWhile, List.reverse_reverse]
  · simpa using List.mem_takeWhile_imp (List.mem_reverse.1 he)

theorem zrTrim_elements (l : List (Nat × Bool)) (hzero : ∀ e ∈ l, e.2 = false → e.1 = 0) (i : Nat) :
    ((zrTrim l).map Prod.fst).getD i 0 = (l.map Prod.fst).getD i 0 := by
  obtain ⟨r, hl, hr⟩ := zrTrim_append l
  have hrzero : ∀ x ∈ r.map Prod.fst, x = 0 := by
    intro x hx
    obtain ⟨e, he, rfl⟩ := List.mem_map.1 hx
    exact hzero e (by rw [hl]; exact List.mem_append_right _ he) (hr e he)
  conv_rhs => rw [hl, List.map_append]
  by_cases hi : i < ((zrTrim l).map Prod.fst).length
  · rw [List.getD_append _ _ _ _ hi]
  · push Not at hi
    rw [List.getD_append_right _ _ _ _ hi, List.getD_eq_default _ _ hi, List.getD_eq_getElem?_getD]
    cases hget : (r.map Prod.fst)[i - ((zrTrim l).map Prod.fst).length]? with
    | none => rfl
    | some x => exact (hrzero x (List.mem_of_getElem? hget)).symm

/-! ### A block (13 R339, R342) -/

/-- Elements with what must be stored: those marked, and those that are not 0. -/
def zrMarked (xs : List (Nat × Bool)) : List (Nat × Bool) := xs.map fun x => (x.1, x.2 || x.1 != 0)

theorem zrMarked_length (xs : List (Nat × Bool)) : (zrMarked xs).length = xs.length := List.length_map ..

theorem zrMarked_elements (xs : List (Nat × Bool)) : (zrMarked xs).map Prod.fst = xs.map Prod.fst := by
  simp [zrMarked]

theorem zrMarked_zero (xs : List (Nat × Bool)) : ∀ e ∈ zrMarked xs, e.2 = false → e.1 = 0 := by
  intro e he hnot
  obtain ⟨x, _, rfl⟩ := List.mem_map.1 he
  simpa using (Bool.or_eq_false_iff.1 hnot).2

/-- The entries of a block's elements. -/
def zrStored (xs : List (Nat × Bool)) : List (Nat × Nat) := zrEntries (zrTrim (zrMarked xs)) 0

theorem zrTrim_length_le (l : List (Nat × Bool)) : (zrTrim l).length ≤ l.length := by
  obtain ⟨r, hl, -⟩ := zrTrim_append l
  conv_rhs => rw [hl, List.length_append]
  exact Nat.le_add_right _ _

theorem zrStored_length_le (xs : List (Nat × Bool)) : (zrStored xs).length ≤ xs.length := by
  have htrim := zrTrim_length_le (zrMarked xs)
  rw [zrMarked_length] at htrim
  exact (zrEntries_length_le _ _).trans htrim

theorem zrStored_counts (xs : List (Nat × Bool)) : ∀ k ∈ (zrStored xs).map Prod.fst, k < 2 ^ fmtBits fcU4 := by
  intro k hk
  obtain ⟨e, he, rfl⟩ := List.mem_map.1 hk
  exact (mem_zrEntries _ 0 (by decide) e he).1

theorem zrStored_patterns (xs : List (Nat × Bool)) : ∀ v ∈ (zrStored xs).map Prod.snd, v ∈ xs.map Prod.fst := by
  intro v hv
  obtain ⟨e, he, rfl⟩ := List.mem_map.1 hv
  obtain ⟨-, x, hx, hxv⟩ := mem_zrEntries _ 0 (by decide) e he
  obtain ⟨r, hl, -⟩ := zrTrim_append (zrMarked xs)
  rw [← hxv, ← zrMarked_elements, hl]
  exact List.mem_map_of_mem (List.mem_append_left _ hx)

theorem zrStored_placed (xs : List (Nat × Bool)) :
    ∃ es, zrPlace xs.length (zrStored xs) 0 = some es ∧
      ((List.range xs.length).map fun p => (es.find? fun e => e.1 == p).map Prod.snd).map (fun y => y.getD 0) =
        xs.map Prod.fst := by
  have hfit : 0 + 0 + (zrTrim (zrMarked xs)).length ≤ xs.length := by
    have := zrTrim_length_le (zrMarked xs)
    rw [zrMarked_length] at this
    omega
  have htrimZero : ∀ e ∈ zrTrim (zrMarked xs), e.2 = false → e.1 = 0 := by
    obtain ⟨r, hl, -⟩ := zrTrim_append (zrMarked xs)
    exact fun e he => zrMarked_zero xs e (by rw [hl]; exact List.mem_append_left _ he)
  obtain ⟨es, hplace, -, hat⟩ := zrPlace_zrEntries xs.length _ 0 0 hfit htrimZero
  refine ⟨es, hplace, List.ext_getElem (by simp) fun i _ hi => ?_⟩
  have hvalue := hat i
  rw [zrTrim_elements _ (zrMarked_zero xs), zrMarked_elements, List.getD_eq_getElem _ _ hi] at hvalue
  simpa [entryAt] using hvalue

theorem roundUp4_le (a : Nat) : a ≤ roundUp a 4 ∧ roundUp a 4 ≤ a + 3 := by
  unfold roundUp
  omega

theorem slice_zero_pad (l : List Byte) (n : Nat) (h : l.length ≤ n) :
    slice l 0 n = l ++ List.replicate (n - l.length) 0 := by
  simp [slice, List.take_of_length_le h]

theorem le_header (v : Nat) (tail : List Byte) (h : v < 2 ^ 32) : le (leBytes 4 v ++ tail) 0 4 = v := by
  have hslice : slice (leBytes 4 v ++ tail) 0 4 = leBytes 4 v := by
    rw [slice_inside (by simp [leBytes_length])]
    exact List.take_left' (leBytes_length 4 v)
  rw [le, hslice, ofLe_leBytes]
  exact Nat.mod_eq_of_lt h

theorem zrEncode_dense {c : Nat} {xs : List (Nat × Bool)}
    (h : zrLen c xs.length 0 true ≤ zrLen c xs.length (zrStored xs).length false) :
    zrEncode c xs = slice (leBytes 4 (2 ^ 31 + zrLen c xs.length 0 true) ++ packElems c (xs.map Prod.fst)) 0
      (zrLen c xs.length 0 true) := if_pos h

theorem zrEncode_sparse {c : Nat} {xs : List (Nat × Bool)}
    (h : ¬ zrLen c xs.length 0 true ≤ zrLen c xs.length (zrStored xs).length false) :
    zrEncode c xs = slice (leBytes 4 (2 ^ 16 * (zrStored xs).length + zrLen c xs.length (zrStored xs).length false) ++
      packElems fcU4 ((zrStored xs).map Prod.fst) ++ packElems c ((zrStored xs).map Prod.snd)) 0
      (zrLen c xs.length (zrStored xs).length false) := if_neg h

theorem zrEncode_length_le (c : Nat) (xs : List (Nat × Bool)) : (zrEncode c xs).length ≤ zrLen c xs.length 0 true := by
  by_cases hform : zrLen c xs.length 0 true ≤ zrLen c xs.length (zrStored xs).length false
  · rw [zrEncode_dense hform, slice_length]
  · rw [zrEncode_sparse hform, slice_length]
    omega

theorem zrLen_dense_lt (c : Nat) {len : Nat} (h : len ≤ 256) : zrLen c len 0 true < 2 ^ 16 := by
  have hroom := roundUp4_le (4 + elemBytes c len)
  have helems := elemBytes_le c h
  simp only [zrLen, if_true]
  omega

/-- What a dense block's header and its elements read as. -/
theorem zrDecode_dense {c len n : Nat} {body : List Byte} (hn : n = zrLen c len 0 true) (hlt : n < 2 ^ 16)
    (hlen : n ≤ (leBytes 4 (2 ^ 31 + n) ++ body).length) :
    zrDecode c len (leBytes 4 (2 ^ 31 + n) ++ body) = some ((unpackElems c body len).map some, n) := by
  have hhead := le_header (2 ^ 31 + n) body (by omega)
  have hdrop : (leBytes 4 (2 ^ 31 + n) ++ body).drop 4 = body := List.drop_left' (leBytes_length 4 _)
  have hform : bit (2 ^ 31 + n) 31 = true := by simp only [bit, beq_iff_eq]; omega
  have hspare : bits (2 ^ 31 + n) 30 25 = 0 := by simp only [bits]; omega
  have hcount : bits (2 ^ 31 + n) 24 16 = 0 := by simp only [bits]; omega
  have hsize : bits (2 ^ 31 + n) 15 0 = n := by simp only [bits]; omega
  unfold zrDecode
  simp only [hhead, hform, hspare, hcount, hsize, hdrop, ← hn]
  rw [if_neg (by simpa using hlen)]
  rfl

/-- What a block's header, counts and patterns read as, where only entries are stored. -/
theorem zrDecode_sparse {c len nent n : Nat} {body : List Byte} {es : List (Nat × Nat)} (hn : n = zrLen c len nent false)
    (hlt : n < 2 ^ 16) (hnent : nent ≤ len) (hfew : len ≤ 256)
    (hlen : n ≤ (leBytes 4 (2 ^ 16 * nent + n) ++ body).length)
    (hplace : zrPlace len ((unpackElems fcU4 body nent).zip (unpackElems c (body.drop ((nent + 1) / 2)) nent)) 0 = some es) :
    zrDecode c len (leBytes 4 (2 ^ 16 * nent + n) ++ body) =
      some ((List.range len).map fun p => (es.find? fun e => e.1 == p).map Prod.snd, n) := by
  have hhead := le_header (2 ^ 16 * nent + n) body (by omega)
  have hdrop : (leBytes 4 (2 ^ 16 * nent + n) ++ body).drop 4 = body := List.drop_left' (leBytes_length 4 _)
  have hform : bit (2 ^ 16 * nent + n) 31 = false := by simp only [bit, beq_eq_false_iff_ne]; omega
  have hspare : bits (2 ^ 16 * nent + n) 30 25 = 0 := by simp only [bits]; omega
  have hcount : bits (2 ^ 16 * nent + n) 24 16 = nent := by simp only [bits]; omega
  have hsize : bits (2 ^ 16 * nent + n) 15 0 = n := by simp only [bits]; omega
  unfold zrDecode
  simp only [hhead, hform, hspare, hcount, hsize, ← List.drop_drop, hdrop, ← hn, hplace]
  rw [if_neg (by simpa [-List.length_append] using ⟨hnent, hlen⟩)]
  rfl

theorem elemBytes_counts (n : Nat) : elemBytes fcU4 n = (n + 1) / 2 := by
  simp only [elemBytes, show fmtBits fcU4 = 4 from rfl]
  omega

/-- Bytes of a block, cut or padded to a length that holds them, in front of others. -/
theorem slice_append_pad (v n : Nat) (body rest : List Byte) (h : (leBytes 4 v ++ body).length ≤ n) :
    ∃ tail, slice (leBytes 4 v ++ body) 0 n ++ rest = leBytes 4 v ++ (body ++ tail) ∧
      n ≤ (leBytes 4 v ++ (body ++ tail)).length := by
  have hbytes : slice (leBytes 4 v ++ body) 0 n ++ rest =
      leBytes 4 v ++ (body ++ (List.replicate (n - (leBytes 4 v ++ body).length) 0 ++ rest)) := by
    rw [slice_zero_pad _ _ h]
    simp only [List.append_assoc]
  refine ⟨_, hbytes, ?_⟩
  rw [← hbytes, List.length_append, slice_length]
  exact Nat.le_add_right _ _

/-- A block reads back as the elements that it was written from, whatever follows it. -/
theorem zrDecode_zrEncode {c : Nat} {xs : List (Nat × Bool)} (rest : List Byte) (hlen : xs.length ≤ 256)
    (hxs : ∀ x ∈ xs.map Prod.fst, x < 2 ^ fmtBits c) :
    ∃ ys, zrDecode c xs.length (zrEncode c xs ++ rest) = some (ys, (zrEncode c xs).length) ∧
      ys.map (fun y => y.getD 0) = xs.map Prod.fst := by
  have hlt := zrLen_dense_lt c hlen
  by_cases hform : zrLen c xs.length 0 true ≤ zrLen c xs.length (zrStored xs).length false
  · have hroom : (leBytes 4 (2 ^ 31 + zrLen c xs.length 0 true) ++ packElems c (xs.map Prod.fst)).length ≤
        zrLen c xs.length 0 true := by
      simp only [List.length_append, leBytes_length, packElems_length, List.length_map, zrLen, if_true]
      exact (roundUp4_le _).1
    obtain ⟨tail, hbytes, hlong⟩ := slice_append_pad _ _ _ rest hroom
    have hunpack := unpackElems_packElems c (xs.map Prod.fst) tail hxs
    rw [List.length_map] at hunpack
    refine ⟨(xs.map Prod.fst).map some, ?_, by simp⟩
    rw [zrEncode_dense hform, slice_length, hbytes, zrDecode_dense rfl hlt hlong, hunpack]
  · have hroom : (leBytes 4 (2 ^ 16 * (zrStored xs).length + zrLen c xs.length (zrStored xs).length false) ++
        (packElems fcU4 ((zrStored xs).map Prod.fst) ++ packElems c ((zrStored xs).map Prod.snd))).length ≤
        zrLen c xs.length (zrStored xs).length false := by
      simp only [List.length_append, leBytes_length, packElems_length, List.length_map, elemBytes_counts, zrLen,
        Bool.false_eq_true, if_false]
      exact (roundUp4_le _).1
    obtain ⟨tail, hbytes, hlong⟩ := slice_append_pad _ _ _ rest hroom
    obtain ⟨es, hplace, hread⟩ := zrStored_placed xs
    have hcounts := unpackElems_packElems fcU4 ((zrStored xs).map Prod.fst)
      (packElems c ((zrStored xs).map Prod.snd) ++ tail) (zrStored_counts xs)
    have hpatterns := unpackElems_packElems c ((zrStored xs).map Prod.snd) tail
      fun v hv => hxs v (zrStored_patterns xs v hv)
    rw [List.length_map] at hcounts hpatterns
    have hcountBytes : (packElems fcU4 ((zrStored xs).map Prod.fst)).length = ((zrStored xs).length + 1) / 2 := by
      rw [packElems_length, List.length_map, elemBytes_counts]
    refine ⟨_, ?_, hread⟩
    rw [zrEncode_sparse hform, slice_length, List.append_assoc, hbytes]
    refine zrDecode_sparse rfl (by omega) (zrStored_length_le xs) hlen hlong ?_
    rw [List.append_assoc, hcounts, List.drop_left' hcountBytes, hpatterns, List.zip_map', List.map_id'']
    · exact hplace
    · exact fun e => rfl

/-! ### A row (13 R340) -/

theorem zrBlocks_step {n : Nat} (h : 0 < n) : zrBlocks n = min 256 n :: zrBlocks (n - 256) := by
  have hcount : (n + 255) / 256 = (n - 256 + 255) / 256 + 1 := by omega
  unfold zrBlocks
  rw [hcount, List.range_succ_eq_map, List.map_cons, List.map_map]
  refine congrArg₂ _ (by omega) (List.map_congr_left fun b _ => ?_)
  simp only [Function.comp_apply]
  omega

/-- A row cut into blocks: the blocks' lengths, and that they make up the row. -/
theorem chop_blocks {α : Type} (k : Nat) (l : List α) (h : l.length ≤ 256 * k) :
    (chop 256 k l).map List.length = zrBlocks l.length ∧ (chop 256 k l).flatten = l := by
  induction k generalizing l with
  | zero =>
    obtain rfl : l = [] := List.length_eq_zero_iff.1 (Nat.le_zero.1 h)
    exact ⟨by simp [chop, zrBlocks], rfl⟩
  | succ k ih =>
    cases l with
    | nil => exact ⟨by simp [chop, zrBlocks], rfl⟩
    | cons x r =>
      have hpos : 0 < (x :: r).length := Nat.succ_pos _
      have hchop : chop 256 (k + 1) (x :: r) = (x :: r).take 256 :: chop 256 k ((x :: r).drop 256) := rfl
      obtain ⟨hlens, hflat⟩ := ih ((x :: r).drop 256) (by rw [List.length_drop]; omega)
      rw [hchop, zrBlocks_step hpos]
      refine ⟨?_, by rw [List.flatten_cons, hflat, List.take_append_drop]⟩
      rw [List.map_cons, hlens, List.length_take, List.length_drop]

theorem zrBlocks_le (n : Nat) : ∀ len ∈ zrBlocks n, len ≤ 256 := by
  intro len h
  obtain ⟨b, -, rfl⟩ := List.mem_map.1 h
  exact Nat.min_le_left _ _

/-- Blocks written one after the other read back as their elements in order. -/
theorem zrRow_zrEncode {c : Nat} (blocks : List (List (Nat × Bool))) (k : Nat) (rest : List Byte)
    (hlen : ∀ b ∈ blocks, b.length ≤ 256) (hxs : ∀ x ∈ blocks.flatten.map Prod.fst, x < 2 ^ fmtBits c) :
    ∃ ys, zrRow c (blocks.map List.length) k (blocks.flatMap (zrEncode c) ++ rest) = .ok ys ∧
      ys.map (fun y => y.getD 0) = blocks.flatten.map Prod.fst := by
  induction blocks generalizing k with
  | nil => exact ⟨[], rfl, rfl⟩
  | cons b r ih =>
    rw [List.flatten_cons, List.map_append] at hxs
    obtain ⟨ys, hfirst, hys⟩ := zrDecode_zrEncode (r.flatMap (zrEncode c) ++ rest) (hlen b List.mem_cons_self)
      fun x hx => hxs x (List.mem_append_left _ hx)
    obtain ⟨zs, hrest, hzs⟩ := ih (k + 1) (fun b hb => hlen b (List.mem_cons_of_mem _ hb))
      fun x hx => hxs x (List.mem_append_right _ hx)
    refine ⟨ys ++ zs, ?_, by rw [List.map_append, hys, hzs, List.flatten_cons, List.map_append]⟩
    rw [List.map_cons, List.flatMap_cons, List.append_assoc, zrRow, hfirst]
    simp only [List.drop_left, hrest]

theorem flatMap_zrEncode_length_le (c : Nat) (blocks : List (List (Nat × Bool))) :
    (blocks.flatMap (zrEncode c)).length ≤ ((blocks.map List.length).map fun l => zrLen c l 0 true).sum := by
  induction blocks with
  | nil => exact Nat.le_refl _
  | cons b r ih =>
    rw [List.flatMap_cons, List.length_append, List.map_cons, List.map_cons, List.sum_cons]
    exact Nat.add_le_add (zrEncode_length_le c b) ih

/-- A row's elements with whether their MX block has scale 0xFF, where there are no scales. -/
def unscaledElems (xs : List Nat) : List (Nat × Bool) :=
  xs.zipIdx.map fun y => (y.1, ([] : List Nat).getD (y.2 / 32) 0 == 0xFF)

theorem unscaledElems_length (xs : List Nat) : (unscaledElems xs).length = xs.length := by simp [unscaledElems]

theorem unscaledElems_elements (xs : List Nat) : (unscaledElems xs).map Prod.fst = xs := by
  rw [unscaledElems, List.map_map]
  exact List.zipIdx_map_fst 0 xs

/-- Settles O55: a row is written block by block, and each block, dense or of entries, decodes to its elements. -/
theorem zeroRunsReadBack : Obligations.ZeroRunsReadBack := by
  unfold Obligations.ZeroRunsReadBack
  intro c xs rest _ hxs
  obtain ⟨hlens, hflat⟩ := chop_blocks (xs.length / 256 + 1) (unscaledElems xs) (by rw [unscaledElems_length]; omega)
  rw [unscaledElems_length] at hlens
  have hwrite : zrWrite c xs [] = (chop 256 (xs.length / 256 + 1) (unscaledElems xs)).flatMap (zrEncode c) := rfl
  rw [hwrite, zrCapacity, ← hlens]
  refine ⟨flatMap_zrEncode_length_le c _, ?_⟩
  have hshort : ∀ b ∈ chop 256 (xs.length / 256 + 1) (unscaledElems xs), b.length ≤ 256 := fun b hb =>
    zrBlocks_le xs.length _ (hlens ▸ List.mem_map_of_mem hb)
  obtain ⟨ys, hread, hys⟩ := zrRow_zrEncode _ 0 rest hshort (by rwa [hflat, unscaledElems_elements])
  exact ⟨ys, hread, by rw [hys, hflat, unscaledElems_elements]⟩

end Sys2Proof.Machine
end

section
/-! SUPPORT. Entries of the index and pages of a store read back (14 R376, R378). -/

namespace Sys2Proof.Machine
open Sys2Proof

/-! ### Parts of a list of bytes -/

theorem slice_append_first (l r : List Byte) (n : Nat) (h : l.length = n) : slice (l ++ r) 0 n = l := by
  rw [slice_inside (by simp [h])]
  exact List.take_left' h

theorem slice_append_skip (l r : List Byte) (o n k : Nat) (h : l.length = k) : slice (l ++ r) (k + o) n = slice r o n := by
  simp only [slice, ← h, List.drop_append, List.drop_of_length_le (Nat.le_add_right l.length o), List.nil_append,
    Nat.add_sub_cancel_left]

/-- A field of bytes that begin with it. -/
theorem le_field (n v : Nat) (r : List Byte) (h : v < 256 ^ n) : le (leBytes n v ++ r) 0 n = v := by
  rw [le, slice_append_first _ _ _ (leBytes_length n v), ofLe_leBytes, Nat.mod_eq_of_lt h]

theorem le_skip (l r : List Byte) (o n k : Nat) (h : l.length = k) : le (l ++ r) (k + o) n = le r o n := by
  rw [le, slice_append_skip l r o n k h, le]

/-! ### Entries (14 Table 14.10) -/

theorem kvEncode_eq {e : KvEntry} (h : e.key.length = 16) : kvEncode e =
    e.key ++ (leBytes 4 e.slot ++ (leBytes 4 e.stamp ++ (leBytes 1 e.state ++ (leBytes 1 (b2n e.pin) ++ leBytes 6 0)))) := by
  simp only [kvEncode, slice_whole h, List.append_assoc]

theorem kvEncode_length (e : KvEntry) : (kvEncode e).length = 32 := by
  simp only [kvEncode, List.length_append, slice_length, leBytes_length]

/-- An entry of the index reads back as it was written. -/
theorem kvDecode_kvEncode {e : KvEntry} (hkey : e.key.length = 16) (hslot : e.slot < 2 ^ 32) (hstamp : e.stamp < 2 ^ 32)
    (hstate : e.state < 2 ^ 8) : kvDecode (kvEncode e) = e := by
  have hpin : b2n e.pin < 2 ^ 8 := by cases e.pin <;> decide
  have hbit : bit (b2n e.pin) 0 = e.pin := by cases e.pin <;> rfl
  obtain ⟨key, slot, stamp, state, pin⟩ := e
  rw [kvDecode, kvEncode_eq hkey, slice_append_first _ _ _ hkey]
  refine congr (congr (congrArg₂ (KvEntry.mk key) ?_ ?_) ?_) ?_
  · rw [le_skip _ _ 0 4 0x10 hkey, le_field _ _ _ hslot]
  · rw [le_skip _ _ 4 4 0x10 hkey, le_skip _ _ 0 4 4 (leBytes_length ..), le_field _ _ _ hstamp]
  · rw [le_skip _ _ 8 1 0x10 hkey, le_skip _ _ 4 1 4 (leBytes_length ..), le_skip _ _ 0 1 4 (leBytes_length ..),
      le_field _ _ _ hstate]
  · rw [le_skip _ _ 9 1 0x10 hkey, le_skip _ _ 5 1 4 (leBytes_length ..), le_skip _ _ 1 1 4 (leBytes_length ..),
      le_skip _ _ 0 1 1 (leBytes_length ..), le_field _ _ _ hpin, hbit]

/-! ### Pages (14 R378) -/

/-- A service write that is not denied writes its bytes. -/
theorem svcWrite_ok {w : SvcBy} {a : Nat} {bs : List Byte} {s t : State} (h : svcWrite w a bs s = (true, t)) : t = hbmWr a bs s := by
  unfold svcWrite at h
  split at h
  · exact absurd (congrArg Prod.fst h) Bool.false_ne_true
  · exact (congrArg Prod.snd h).symm

/-- A page that is stored as it is: its bytes are written to its slot, and then its entry. -/
theorem kvWritePage_plain {w : SvcBy} {v : KvStore} {i : Nat} {e : KvEntry} {page : List Byte} {s t : State} (hplain : v.recomp = 0)
    (h : kvWritePage w v i e page false s = (true, t)) :
    t = putStore v (hbmWr (v.ibase + 32 * i) (kvEncode e) (hbmWr (v.pbase + e.slot * v.psize) page s)) := by
  have hstored : kvStored v page = (page, []) := by simp [kvStored, hplain]
  have hslot : kvSsize v = v.psize := by simp [kvSsize, hplain]
  unfold kvWritePage at h
  simp only [hstored, hslot, List.map_nil, nansProduced, List.foldl_nil, if_true, kvStamped, Bool.false_eq_true, if_false,
    kvPutEntry] at h
  generalize hpage : svcWrite w (v.pbase + e.slot * v.psize) page s = q at h
  obtain ⟨_ | _, s1⟩ := q
  · exact absurd (congrArg Prod.fst h) Bool.false_ne_true
  · rw [← svcWrite_ok hpage]
    dsimp only at h
    generalize hentry : svcWrite w (v.ibase + 32 * i) (kvEncode e) s1 = q at h
    obtain ⟨_ | _, s2⟩ := q
    · exact absurd (congrArg Prod.fst h) Bool.false_ne_true
    · rw [← svcWrite_ok hentry]
      exact (congrArg Prod.snd h).symm

/-- Settles O58: the fields of an entry stand one after the other, and the page and its entry lie apart. -/
theorem pagesReadBack : Obligations.PagesReadBack := by
  unfold Obligations.PagesReadBack
  refine ⟨fun e hkey hslot hstamp hstate => ⟨kvEncode_length e, kvDecode_kvEncode hkey hslot hstamp hstate⟩, ?_⟩
  intro s t w v i e page hwf hgood hlen hplain _ hkey hslot hstamp hstate hapart hwrite
  have ht := kvWritePage_plain hplain hwrite
  set p := v.pbase + e.slot * v.psize
  set x := v.ibase + 32 * i
  have hwf1 : Memory.wf (hbmWr p page s).hbm := hbmWr_wf p page s hwf
  have hgood1 : anyFailed (hbmWr p page s) = false := hgood
  have hpage : hbmRd (hbmWr p page s) p v.psize = page := by
    have h := hbmRd_hbmWr_inside hwf hgood p (bs := page) (o := 0) (n := v.psize) (by omega)
    rwa [Nat.add_zero, slice_whole hlen] at h
  have hentry : hbmRd (hbmWr x (kvEncode e) (hbmWr p page s)) x 32 = kvEncode e := by
    have h := hbmRd_hbmWr_inside hwf1 hgood1 x (bs := kvEncode e) (o := 0) (n := 32) (by rw [kvEncode_length])
    rwa [Nat.add_zero, slice_whole (kvEncode_length e)] at h
  refine ⟨?_, ?_, fun a hbesidePage hbesideEntry => ?_⟩
  · rw [ht]
    refine (hbmRd_hbmWr_beside (n := v.psize) hwf1 ?_).trans hpage
    rw [kvEncode_length]
    exact hapart
  · rw [ht]
    exact (congrArg kvDecode hentry).trans (kvDecode_kvEncode hkey hslot hstamp (by omega))
  · rw [ht]
    refine (hbmByte_hbmWr x _ _ hwf1 a).trans ?_
    rw [if_neg (by rw [kvEncode_length]; omega), hbmByte_hbmWr p _ _ hwf, if_neg (by omega)]

end Sys2Proof.Machine
end

section
/-! SUPPORT. Rows of the services (14 R358-R363): what a row does with a request that it takes, on piers or of the agent, and with one
that it goes on with; and the first faulty field of a request. -/

namespace Sys2Proof.Machine
open Sys2Proof

/-! ### The first faulty field (14 R361) -/

theorem natBle_orders : Orders Nat.ble where
  total a b := by simpa only [Nat.ble_eq] using Nat.le_total a b
  trans a b c hab hbc := by
    rw [Nat.ble_eq] at *
    exact hab.trans hbc

/-- The first fault is the lowest offset. -/
theorem firstFault_least {l : List Nat} {o : Nat} (hmem : o ∈ l) (hleast : ∀ k ∈ l, o ≤ k) : firstFault l = some o := by
  have hperm := sortBy_perm Nat.ble l
  have hsorted := sortBy_pairwise natBle_orders l
  unfold firstFault
  cases hl : sortBy Nat.ble l with
  | nil => exact absurd (hperm.mem_iff.2 hmem) (by simp [hl])
  | cons k r =>
    rw [hl] at hperm hsorted
    have hk : o ≤ k := hleast k (hperm.mem_iff.1 List.mem_cons_self)
    have ho : k ≤ o := by
      rcases List.mem_cons.1 (hperm.mem_iff.2 hmem) with rfl | hr
      · exact Nat.le_refl _
      · exact Nat.le_of_ble_eq_true ((List.pairwise_cons.1 hsorted).1 o hr)
    rw [List.head?_cons, Nat.le_antisymm ho hk]

theorem mem_breaks {k o : Nat} {c : Bool} : k ∈ breaks c o ↔ c = true ∧ k = o := by
  cases c <;> simp [breaks]

theorem mem_mustBeZero {k o n : Nat} {b : List Byte} : k ∈ mustBeZero b o n ↔ (!allZero (slice b o n)) = true ∧ k = o := mem_breaks

/-- A request whose header is good is malformed at the lowest offset of its body's faults. -/
theorem reqFaulty_body {faults : State → SvcReq → List Nat} {r : SvcReq} {s : State} {o : Nat}
    (hheader : firstFault (reqFaults s r.ctx r.queue r.bytes) = none) (hmem : o ∈ faults s r) (hleast : ∀ k ∈ faults s r, o ≤ k) :
    reqFaulty faults r s = some o := by
  rw [reqFaulty, firstFault_none hheader, List.nil_append]
  exact firstFault_least hmem hleast

/-! ### Rows (14 R358-R363) -/

section
variable {s u w : State} {x op p o : Nat} {j : Fin 8} {k : Fin 16} {r q : SvcReq}

theorem svcRow_malformed (faults : State → SvcReq → List Nat) (run : SvcReq → State → State) (h : TakesAny s x j op r u)
    (hbad : reqFaulty faults r u = some o) : svcRow op x (.take j) faults run s = malformedReq r o u := by
  rw [svcRow_takes j.isLt h, hbad]

theorem svcRow_begins {faults : State → SvcReq → List Nat} (run : SvcReq → State → State) (h : Takes s x j op faults r u) :
    svcRow op x (.take j) faults run s = runReq run r u := by
  rw [svcRow_takes j.isLt h.toTakesAny, h.good]

/-- A request that is taken begins on a pier of its context's group. -/
theorem svcRow_begins_onPier {faults : State → SvcReq → List Nat} (run : SvcReq → State → State) (h : Takes s x j op faults r u)
    (hp : OnPier u r p w) (hg : usesGroup op = true) :
    svcRow op x (.take j) faults run s = run { r with pier := p } w := by
  have hstage := h.stage
  rw [svcRow_begins run h, runReq_onPier hp run (by rw [h.op, hg]) (by simp [awaitsMirror, hstage])]

/-- A request of the agent that starts no work on piers begins. -/
theorem svcRow_begins_agent {faults : State → SvcReq → List Nat} (run : SvcReq → State → State) (h : Takes s x j op faults r u)
    (hg : usesGroup op = false) : svcRow op x (.take j) faults run s = run r u := by
  rw [svcRow_begins run h, runReq_agent run (by rw [h.op, hg])]

theorem goesOn_op (h : GoesOn s x k op q) : rqOp q.bytes = op := by
  have hfound := List.find?_some h.1
  simp only [Bool.and_eq_true, beq_iff_eq] at hfound
  exact hfound.2

/-- A request that goes on, on the pier of its step. -/
theorem svcRow_goesOn_onPier (faults : State → SvcReq → List Nat) (run : SvcReq → State → State) (h : GoesOn s x k op q)
    (hp : OnPier s q p w) (hg : usesGroup op = true) (hm : awaitsMirror q = false) :
    svcRow op x (.go k) faults run s = run { q with pier := p } w := by
  rw [svcRow_goes k.isLt h, runReq_onPier hp run (by rw [goesOn_op h, hg]) hm]

end

end Sys2Proof.Machine
end

section
/-! SUPPORT. Key-value stores: opening and closing, batches and their ends, and remote pages (14 R375-R380). -/

namespace Sys2Proof.Machine
open Sys2Proof

/-! ### A store (14 R375) -/

/-- The store that a KV_OPEN opens. -/
def openedStore (r : SvcReq) : KvStore :=
  { ctx := r.ctx, store := kvStoreNo r.bytes, recomp := koRecomp r.bytes, policy := koPolicy r.bytes, psize := koPsize r.bytes,
    slots := koSlots r.bytes, pbase := koPbase r.bytes, ibase := koIbase r.bytes, stamp := 0 }

theorem kvOpenRun_opens {r : SvcReq} {s v : State}
    (h : svcWrite (svcBy r) (koIbase r.bytes) (List.replicate (32 * kvNb (openedStore r)) 0) s = (true, v)) :
    kvOpenRun r s = endReq r csOk { v with svc := { v.svc with stores := v.svc.stores ++ [openedStore r] } } := by
  unfold openedStore at *
  unfold kvOpenRun
  simp only [h]
  rfl

theorem kvOpenRun_denied {r : SvcReq} {s v : State}
    (h : svcWrite (svcBy r) (koIbase r.bytes) (List.replicate (32 * kvNb (openedStore r)) 0) s = (false, v)) :
    kvOpenRun r s = failReq r v := by
  unfold openedStore at *
  unfold kvOpenRun
  simp only [h]

/-! ### A batch (14 R377) -/

section
variable {r : SvcReq} {s v : State} {l : List KvDone}

theorem kvBatch_ends (hkeys : kvKeys r (kbN r.bytes) 0 s = (l, v)) (hlocal : kbRemote r.bytes = false) (hgood : ∀ d ∈ l, d.failed = false) :
    kvBatch r s = endReq { r with result := some (kvResult l) } (kvStatus l) v := by
  have hany : l.any KvDone.failed = false := by simpa [List.any_eq_false] using hgood
  unfold kvBatch
  simp only [hkeys, hany, hlocal, Bool.false_eq_true, false_and, if_false]

theorem kvBatch_fails (hkeys : kvKeys r (kbN r.bytes) 0 s = (l, v)) (hbad : ∃ d ∈ l, d.failed = true) :
    kvBatch r s = failReq { r with result := some (kvResult l) } v := by
  have hany : l.any KvDone.failed = true := List.any_eq_true.2 hbad
  unfold kvBatch
  simp only [hkeys, hany, if_true]

/-- The pages of a batch that are to be sent: the key and the slot of each. -/
def kvPages (l : List KvDone) : List (Nat × Nat) := (l.zipIdx.filter fun y => y.1.status == 0).map fun y => (y.2, y.1.slot)

theorem kvPages_ne_nil (h : ∃ d ∈ l, d.status = 0) : kvPages l ≠ [] := by
  obtain ⟨d, hd, hok⟩ := h
  obtain ⟨i, hi, rfl⟩ := List.getElem_of_mem hd
  refine List.ne_nil_of_mem (List.mem_map_of_mem (a := (l[i], i))
    (List.mem_filter.2 ⟨List.mem_zipIdx_iff_getElem?.2 (List.getElem?_eq_getElem hi), ?_⟩))
  simpa using hok

/-- A remote batch goes on with the pages of the keys that it found. -/
theorem kvBatch_remote (hkeys : kvKeys r (kbN r.bytes) 0 s = (l, v)) (hremote : kbRemote r.bytes = true)
    (hgood : ∀ d ∈ l, d.failed = false) (hfound : ∃ d ∈ l, d.status = 0) :
    kvBatch r s = putReq { r with result := some (kvResult l), stage := 1, pos := kvStatus l, todo := kvPages l } v := by
  have hany : l.any KvDone.failed = false := by simpa [List.any_eq_false] using hgood
  have hpages := kvPages_ne_nil hfound
  unfold kvPages at hpages
  unfold kvBatch
  simp only [hkeys, hany, hremote, Bool.false_eq_true, if_false, true_and, hpages, not_false_eq_true, ne_eq, if_true]
  rfl

end

theorem kvGetRun_begins {r : SvcReq} (h : r.stage = 0) (s : State) : kvGetRun r s = kvBatch r s := if_pos h

theorem kvGetRun_goesOn {r : SvcReq} {s : State} {v : KvStore} (h : r.stage ≠ 0) (hv : kvOf s r.ctx (kvStoreNo r.bytes) = some v) :
    kvGetRun r s = if r.stage = 1 then kvSendNext r v s else kvSent r v s := by
  rw [kvGetRun, if_neg h, hv]

/-! ### Requests on a store that is not as it must be -/

section
variable {s : State} {r : SvcReq}

theorem kvOpenFaults_open (h : kvOf s r.ctx (kvStoreNo r.bytes) ≠ none) :
    0x20 ∈ kvOpenFaults s r ∧ ∀ k ∈ kvOpenFaults s r, 0x20 ≤ k := by
  have hopen : (kvOf s r.ctx (kvStoreNo r.bytes)).isSome = true := Option.isSome_iff_ne_none.2 h
  simp only [kvOpenFaults, List.mem_append, mem_breaks, mem_mustBeZero, hopen, Bool.or_true, true_and, true_or]
  omega

theorem kvCloseFaults_shut (h : kvOf s r.ctx (kvStoreNo r.bytes) = none) :
    0x20 ∈ kvCloseFaults s r ∧ ∀ k ∈ kvCloseFaults s r, 0x20 ≤ k := by
  simp only [kvCloseFaults, List.mem_append, mem_breaks, mem_mustBeZero, h, Option.isNone_none, Bool.or_true, true_and, true_or]
  omega

theorem kvBatchFaults_shut (h : kvOf s r.ctx (kvStoreNo r.bytes) = none) :
    0x20 ∈ kvBatchFaults s r ∧ ∀ k ∈ kvBatchFaults s r, 0x20 ≤ k := by
  simp only [kvBatchFaults, kvBodyFaults, h, List.mem_append, mem_breaks, mem_mustBeZero, List.mem_singleton, or_true, true_and]
  omega

end

/-- The pier of a request does not move the store that it reads. -/
theorem svcTook_svc (ps : List Nat) (s : State) : (svcTook ps s).svc = s.svc := by
  unfold svcTook
  induction ps generalizing s with
  | nil => rfl
  | cons p r ih => exact ih _

/-- Service grants on a pier leave the stores. -/
theorem kvOf_onPier {s w : State} {r : SvcReq} {p : Nat} (h : OnPier s r p w) (x k : Nat) : kvOf w x k = kvOf s x k := by
  rw [h.took, kvOf, svcTook_svc, kvOf]

theorem kvGet_awaitsNoMirror {s : State} {x : Nat} {k : Fin 16} {q : SvcReq} (h : GoesOn s x k soKvGet q) :
    awaitsMirror q = false := by
  simp [awaitsMirror, goesOn_op h, isOptOp, soKvGet, soOptStep, soOptAccum, soSendState]

/-! ### The rows -/

section
variable (x : CtxNo) (w : SvcStep) (s : State)

theorem exec_kvOpen : exec (.kvOpen x w) s = .next (svcRow soKvOpen x w kvOpenFaults kvOpenRun s) := rfl
theorem exec_kvClose : exec (.kvClose x w) s = .next (svcRow soKvClose x w kvCloseFaults kvCloseRun s) := rfl
theorem exec_kvPut : exec (.kvPut x w) s = .next (svcRow soKvPut x w kvBatchFaults kvBatch s) := rfl
theorem exec_kvGet : exec (.kvGet x w) s = .next (svcRow soKvGet x w kvBatchFaults kvGetRun s) := rfl
theorem exec_kvDrop : exec (.kvDrop x w) s = .next (svcRow soKvDrop x w kvBatchFaults kvBatch s) := rfl
theorem exec_kvPin : exec (.kvPin x w) s = .next (svcRow soKvPin x w kvBatchFaults kvBatch s) := rfl

end

/-- A batch on a pier that is not remote: it ends, or it fails. -/
theorem svcRow_kvBatch {s u w v : State} {x op p : Nat} {j : Fin 8} {r : SvcReq} {l : List KvDone}
    {run : SvcReq → State → State} (hrun : run { r with pier := p } w = kvBatch { r with pier := p } w)
    (h : Takes s x j op kvBatchFaults r u) (hp : OnPier u r p w) (hg : usesGroup op = true) (hl : kbRemote r.bytes = false)
    (hkeys : kvKeys { r with pier := p } (kbN r.bytes) 0 w = (l, v)) :
    ((∀ d ∈ l, d.failed = false) → svcRow op x (.take j) kvBatchFaults run s =
      endReq { r with pier := p, result := some (kvResult l) } (kvStatus l) v) ∧
    ((∃ d ∈ l, d.failed = true) → svcRow op x (.take j) kvBatchFaults run s =
      failReq { r with pier := p, result := some (kvResult l) } v) := by
  rw [svcRow_begins_onPier run h hp hg, hrun]
  exact ⟨fun hgood => kvBatch_ends hkeys hl hgood, fun hbad => kvBatch_fails hkeys hbad⟩

/-- Settles O57: each row takes its request or goes on with it, and a batch handles its keys. -/
theorem keyValueCommands : Obligations.KeyValueCommands := by
  unfold Obligations.KeyValueCommands
  rintro s x j r r' u w p rfl
  simp only [exec_kvOpen, exec_kvClose, exec_kvPut, exec_kvGet, exec_kvDrop, exec_kvPin, Host.Outcome.next.injEq]
  refine ⟨fun hp => ⟨fun h => ⟨fun v hw => ?_, fun v hw => ?_⟩, fun h => ?_, fun l v hkeys => ⟨?_, ?_, ?_, ?_, ?_⟩⟩,
    fun h hhead hopen => ?_, fun h hhead hshut => ?_, fun h hhead hshut => ?_, fun o h hbad => ?_, fun k q v h hp hv => ?_⟩
  · rw [svcRow_begins_onPier kvOpenRun h hp rfl]
    exact kvOpenRun_opens hw
  · rw [svcRow_begins_onPier kvOpenRun h hp rfl]
    exact kvOpenRun_denied hw
  · rw [svcRow_begins_onPier kvCloseRun h hp rfl]
    rfl
  · exact fun h hl => svcRow_kvBatch (r := r) (w := w) (p := p) (run := kvBatch) rfl h hp rfl hl hkeys
  · exact fun h hl => svcRow_kvBatch (run := kvGetRun) (kvGetRun_begins (r := { r with pier := p }) h.stage w) h hp rfl hl hkeys
  · exact fun h hl => svcRow_kvBatch (r := r) (w := w) (p := p) (run := kvBatch) rfl h hp rfl hl hkeys
  · exact fun h hl => svcRow_kvBatch (r := r) (w := w) (p := p) (run := kvBatch) rfl h hp rfl hl hkeys
  · intro h hremote hgood hfound
    rw [svcRow_begins_onPier kvGetRun h hp rfl, kvGetRun_begins (r := { r with pier := p }) h.stage]
    exact kvBatch_remote hkeys hremote hgood hfound
  · obtain ⟨hmem, hleast⟩ := kvOpenFaults_open hopen
    exact svcRow_malformed kvOpenFaults kvOpenRun h (reqFaulty_body hhead hmem hleast)
  · obtain ⟨hmem, hleast⟩ := kvCloseFaults_shut hshut
    exact svcRow_malformed kvCloseFaults kvCloseRun h (reqFaulty_body hhead hmem hleast)
  · obtain ⟨hmem, hleast⟩ := kvBatchFaults_shut hshut
    exact svcRow_malformed kvBatchFaults kvBatch h (reqFaulty_body hhead hmem hleast)
  · exact svcRow_malformed kvBatchFaults kvGetRun h hbad
  · have hstore := (kvOf_onPier hp q.ctx (kvStoreNo q.bytes)).trans hv
    rw [svcRow_goesOn_onPier kvBatchFaults kvGetRun h hp rfl (kvGet_awaitsNoMirror h),
      kvGetRun_goesOn (r := { q with pier := p }) h.2 hstore]
    exact ⟨fun hstage => if_pos hstage, fun hstage => if_neg (by simp [hstage])⟩

end Sys2Proof.Machine
end

section
/-! SUPPORT. The optimizer, its mirrors and the sending of a shard (14 R367-R374, R385). -/

namespace Sys2Proof.Machine
open Sys2Proof

/-! ### The rows -/

section
variable (x : CtxNo) (j : Fin 8) (k : Fin 16) (n id : Nat) (s : State)

theorem exec_optStep_take : exec (.optStep x (.take j) n) s = .next (svcRow soOptStep x (.take j) optFaults optRun s) := rfl
theorem exec_optStep_go : exec (.optStep x (.go k) n) s = .next (svcRow soOptStep x (.go k) optFaults optRun s) := rfl
theorem exec_optStep_mirror : exec (.optStep x (.mirror id) n) s = .next (mirrorRow x id n s) := rfl
theorem exec_optAccum (w : SvcStep) : exec (.optAccum x w) s = .next (svcRow soOptAccum x w optFaults optRun s) := rfl
theorem exec_agtSendState_take :
    exec (.agtSendState x (.take j) n) s = .next (svcRow soSendState x (.take j) sendStateFaults sendStateRun s) := rfl
theorem exec_agtSendState_mirror : exec (.agtSendState x (.mirror id) n) s = .next (mirrorRow x id n s) := rfl

end

/-! ### A request begins -/

/-- The areas that an optimizer request reads first: its shard descriptor and the collective descriptors that it names. -/
def optAreas (b : List Byte) : List (Nat × Nat) :=
  [(opDesc b, 64)] ++ (if opRs b = 0 then [] else [(opRs b, 128)]) ++ (if opAg b = 0 then [] else [(opAg b, 128)])

section
variable {r : SvcReq} {s v : State}

theorem optRun_reads {l : List (List Byte)} (hstage : r.stage = 0) (h : svcReads (svcBy r) (optAreas r.bytes) s = (some l, v)) :
    optRun r s = putReq { r with desc := l.getD 0 [], stage := if opRs r.bytes = 0 then 3 else 1 } v := by
  unfold optAreas at h
  rw [optRun, if_pos hstage, optStart, h]
  rfl

theorem optRun_readFails (hstage : r.stage = 0) (h : svcReads (svcBy r) (optAreas r.bytes) s = (none, v)) :
    optRun r s = failReq r v := by
  unfold optAreas at h
  rw [optRun, if_pos hstage, optStart, h]

theorem sendStateRun_begins {d : List Byte} (hstage : r.stage = 0) (h : svcRead (svcBy r) (opDesc r.bytes) 64 s = (some d, v)) :
    sendStateRun r s = putReq { r with desc := d, stage := 1 } (startMirror { r with desc := d, stage := 1 } (asTsr r.bytes)
      (asTrank r.bytes) (asToff r.bytes) (asStep r.bytes) true v) := by
  rw [sendStateRun, if_pos hstage, h]

/-! ### The update -/

theorem optRun_updates (hstage : r.stage = 3) (s : State) : optRun r s = optUpdate r s := by
  simp [optRun, hstage, optUpdating]

theorem optUpdate_accum (hop : rqOp r.bytes = soOptAccum)
    (h : optChunks r (shPiers s r) ((shPcount r.desc + 2047) / 2048) 0 s = (true, v)) : optUpdate r s = endReq r csOk v := by
  simp only [optUpdate, h, hop, if_true]

/-- An OPT_STEP without a mirror goes on to its collective, or to its end. -/
theorem optUpdate_step (hop : rqOp r.bytes = soOptStep) (hmirror : opMirrorOn r.bytes = false)
    (h : optChunks r (shPiers s r) ((shPcount r.desc + 2047) / 2048) 0 s = (true, v)) :
    optUpdate r s = putReq (addResult { r with stage := if opAg r.bytes = 0 then 6 else 4 } 1) v := by
  have hne : rqOp r.bytes ≠ soOptAccum := by rw [hop]; decide
  simp only [optUpdate, h, if_neg hne, hmirror, Bool.false_eq_true, if_false]

theorem optUpdate_fails (h : optChunks r (shPiers s r) ((shPcount r.desc + 2047) / 2048) 0 s = (false, v)) :
    optUpdate r s = failReq r v := by
  simp only [optUpdate, h]

/-- A request that updates its shard waits for no mirror. -/
theorem updating_awaitsNoMirror (hstage : r.stage = 3) : awaitsMirror r = false := by
  simp [awaitsMirror, hstage]

end

/-! ### Mirrors (14 R373) -/

/-- The SEND of a mirror that has completed brings the next one. -/
theorem mirrorRow_next {s : State} {x id n d : Nat} {m : Mirror}
    (hfind : s.svc.mirrors.find? (fun m => m.id == id && m.ctx == x) = some m) (hres : m.result = none) (hsend : m.sending = true)
    (hleft : m.piece ≤ mirrorSends m) (hanswer : svcAnswer s m.ctx m.pier (mirrorPlace m) = some (csOk, d)) :
    mirrorRow x id n s = { s with svc := { s.svc with mirrors := s.svc.mirrors.map fun q =>
      if q.id = m.id then { m with piece := m.piece + 1, sending := false } else q } } := by
  have hmore : ¬ m.piece = mirrorSends m + 1 := by omega
  simp only [mirrorRow, hfind, stepMirror, hres, hsend, hanswer, hmore, Option.isSome_none, Bool.false_eq_true, if_false, if_true,
    ne_eq, not_true_eq_false]
  rfl

/-! ### One parameter (14 R369) -/

section
variable (b d : List Byte) (rnd : Rnd) (g w m v a : Nat)

/-- The gradient of an update: with plane A where it uses it, scaled. -/
def optGrad (b : List Byte) (g a : Nat) : Nat := fpMul (if opUseAcc b = true then fpAdd a g else g) (opF b 7)

theorem optElement_a : (optElement b d rnd g w m v a).a = if opUseAcc b = true then 0 else a := rfl

theorem optElement_out :
    (optElement b d rnd g w m v a).out = (convert (shOutfmt d) (val32 (optElement b d rnd g w m v a).w) rnd (bit (opNumctl b) 3)).1 :=
  rfl

variable {d}

/-- Momentum: M takes the gradient, V stays, and the weight goes by M. -/
theorem optElement_momentum (h : shAlgo d ≠ 0) :
    (optElement b d rnd g w m v a).m = fpFma (opF b 1) m (optGrad b g a) ∧ (optElement b d rnd g w m v a).v = v ∧
    (optElement b d rnd g w m v a).w =
      fpFma (fpNeg (opF b 0)) (fpFma (opF b 4) w (optElement b d rnd g w m v a).m) w := by
  simp only [optElement, optGrad, if_neg h, and_self]

/-- Adam: M and V take the gradient and its square, and the weight goes by their corrected quotient. -/
theorem optElement_adam (h : shAlgo d = 0) :
    (optElement b d rnd g w m v a).m = fpFma (opF b 1) m (fpMul (fpSub fpOne (opF b 1)) (optGrad b g a)) ∧
    (optElement b d rnd g w m v a).v =
      fpFma (opF b 2) v (fpMul (fpSub fpOne (opF b 2)) (fpMul (optGrad b g a) (optGrad b g a))) ∧
    (optElement b d rnd g w m v a).w = fpFma (fpNeg (opF b 0)) (fpFma (opF b 4) w
      (fpDiv (fpMul (optElement b d rnd g w m v a).m (opF b 5))
        (fpAdd (fpSqrt (fpMul (optElement b d rnd g w m v a).v (opF b 6))) (opF b 3)))) w := by
  simp only [optElement, optGrad, if_pos h, and_self]

end

/-- Settles O59: the rows of the optimizer and of the sending of shards, and one parameter of an update. -/
theorem optimizerCommands : Obligations.OptimizerCommands := by
  unfold Obligations.OptimizerCommands
  refine ⟨?_, fun b d rnd g w m v a => ⟨optElement_a b d rnd g w m v a, fun h => optElement_momentum b rnd g w m v a h,
    fun h => optElement_adam b rnd g w m v a h, optElement_out b d rnd g w m v a⟩⟩
  rintro s x j r r' u w p n rfl
  simp only [exec_optStep_take, exec_optStep_go, exec_optStep_mirror, exec_optAccum, exec_agtSendState_take,
    exec_agtSendState_mirror, Host.Outcome.next.injEq]
  refine ⟨fun hp => ⟨fun l v hread => ⟨fun h => ?_, fun h => ?_⟩, fun v hread => ⟨fun h => ?_, fun h => ?_⟩, fun d v h hread => ?_⟩,
    fun o hbad => ⟨fun h => svcRow_malformed optFaults optRun h hbad, fun h => svcRow_malformed optFaults optRun h hbad⟩,
    fun o hbad h => svcRow_malformed sendStateFaults sendStateRun h hbad, ?_, fun id m d hfind hres hsend hleft hanswer => ?_⟩
  · rw [svcRow_begins_onPier optRun h hp rfl]
    exact optRun_reads (r := { r with pier := p }) h.stage hread
  · rw [svcRow_begins_onPier optRun h hp rfl]
    exact optRun_reads (r := { r with pier := p }) h.stage hread
  · rw [svcRow_begins_onPier optRun h hp rfl]
    exact optRun_readFails (r := { r with pier := p }) h.stage hread
  · rw [svcRow_begins_onPier optRun h hp rfl]
    exact optRun_readFails (r := { r with pier := p }) h.stage hread
  · rw [svcRow_begins_onPier sendStateRun h hp rfl]
    exact sendStateRun_begins (r := { r with pier := p }) h.stage hread
  · rintro k q q' hp rfl hstage
    have hgoes : ∀ op, GoesOn s x k op q → usesGroup op = true →
        svcRow op x (.go k) optFaults optRun s = optUpdate { q with pier := p } w := by
      intro op h hg
      rw [svcRow_goesOn_onPier optFaults optRun h hp hg (updating_awaitsNoMirror hstage)]
      exact optRun_updates (r := { q with pier := p }) hstage w
    refine ⟨fun v hchunks => ⟨fun h => ?_, fun h hmirror => ?_⟩, fun v hchunks h => ?_⟩
    · rw [hgoes soOptAccum h rfl]
      exact optUpdate_accum (r := { q with pier := p }) (goesOn_op (q := q) h) hchunks
    · rw [hgoes soOptStep h rfl]
      exact optUpdate_step (r := { q with pier := p }) (goesOn_op (q := q) h) hmirror hchunks
    · rw [hgoes soOptStep h rfl]
      exact optUpdate_fails (r := { q with pier := p }) hchunks
  · exact ⟨mirrorRow_next hfind hres hsend hleft hanswer, mirrorRow_next hfind hres hsend hleft hanswer⟩

end Sys2Proof.Machine
end

section
/-! SUPPORT. Dispatch, combine and the agent, and the end of a request (14 R357-R361, R366, R381-R384). -/

namespace Sys2Proof.Machine
open Sys2Proof

/-! ### The rows -/

section
variable (x : CtxNo) (w : SvcStep) (n : Nat) (s : State)

theorem exec_dispatch : exec (.dispatch x w) s = .next (svcRow soDispatch x w dispatchFaults dispatchRun s) := rfl
theorem exec_combine : exec (.combine x w) s = .next (svcRow soCombine x w combineFaults combineRun s) := rfl
theorem exec_agtDigest : exec (.agtDigest x w n) s =
    .next (svcRow soDigest x w (fun _ r => breaks (agLen r.bytes % 64 != 0) 0x28 ++ mustBeZero r.bytes 0x38 72) (digestRun n) s) := rfl
theorem exec_agtQuiesce : exec (.agtQuiesce x w) s = .next (svcRow soQuiesce x w quiesceFaults quiesceRun s) := rfl
theorem exec_agtResume : exec (.agtResume x w) s = .next (svcRow soResume x w quiesceFaults resumeRun s) := rfl
theorem exec_agtCancel : exec (.agtCancel x w) s = .next (svcRow soCancel x w cancelFaults cancelRun s) := rfl

end

/-! ### DISPATCH and COMBINE (14 R382, R383) -/

section
variable {r : SvcReq} {s v : State} {d : List Byte} {n : Nat}

theorem streamStart_read (f : SvcReq → State → State) (h : svcRead (svcBy r) (xDesc r.bytes) 128 s = (some d, v)) :
    streamStart r f s = f { r with desc := d, ver := curEpoch v } v := by
  simp only [streamStart, h]

/-- A collective of a request that has ended OK: its sum of END IDX values is taken, and the request goes on. -/
theorem streamEnded_ok (f : SvcReq → State → State) (h : svcAnswer s r.ctx r.pier r.slot = some (csOk, n)) :
    streamEnded r f s = f { r with result := r.result.map fun _ => endSum s r }
      (onPier r.pier (fun y => { y with endIdx := smPut 0 y.endIdx r.seq 0 }) s) := by
  simp only [streamEnded, h, if_true]

theorem dispatchRun_begins (h : r.stage = 0) (s : State) : dispatchRun r s = streamStart r dispatchClear s := if_pos h

theorem dispatchRun_ended (h : r.stage = 2) (s : State) : dispatchRun r s = streamEnded r dispatchScan s := by
  simp [dispatchRun, h]

theorem combineRun_begins (h : r.stage = 0) (s : State) :
    combineRun r s = streamStart r (fun r s => putReq { r with stage := 1 } s) s := if_pos h

theorem combineRun_ended (h : r.stage = 2) (s : State) : combineRun r s = streamEnded r combineSums s := by
  simp [combineRun, h]

/-- A request whose collective has been pushed waits for no mirror. -/
theorem pushed_awaitsNoMirror (h : r.stage = 2) : awaitsMirror r = false := by simp [awaitsMirror, h]

theorem dispatchFaults_notStream (h : notStream s r = true) : 0x20 ∈ dispatchFaults s r ∧ ∀ k ∈ dispatchFaults s r, 0x20 ≤ k := by
  simp only [dispatchFaults, List.mem_append, mem_breaks, h, true_and, List.mem_flatMap, mem_mustBeZero, true_or]
  rintro k (((rfl | ⟨-, rfl⟩) | ⟨-, rfl⟩) | ⟨y, hy, -, rfl⟩)
  · exact Nat.le_refl _
  · decide
  · decide
  · revert y
    decide

theorem combineFaults_notStream (h : notStream s r = true) : 0x20 ∈ combineFaults s r ∧ ∀ k ∈ combineFaults s r, 0x20 ≤ k := by
  simp only [combineFaults, List.mem_append, mem_breaks, mem_mustBeZero, h, true_and, true_or]
  omega

/-! ### The agent (14 R384) -/

theorem digestRun_ok {m : List Byte} {w : State} (hspent : tstSpent s actMgmtDma 16 = false)
    (hread : svcRead (svcBy r) (agAddr r.bytes) (agLen r.bytes) (tstCharge actMgmtDma 16 n s) = (some m, v))
    (hwrite : svcWrite (svcBy r) (agOutd r.bytes) (sha3 m) v = (true, w)) : digestRun n r s = endReq r csOk w := by
  simp only [digestRun, hspent, hread, hwrite, Bool.false_eq_true, if_false]

/-- A context whose queues the agent has stopped. -/
def withQuiet (c : Nat) (s : State) : State :=
  { s with svc := { s.svc with quiet := if c ∈ s.svc.quiet then s.svc.quiet else s.svc.quiet ++ [c] } }

/-- A context that is quiesced: QUIESCED stands in its status, and is reported. -/
def setQuiesced (c : Nat) (s : State) : State :=
  raiseEvent { code := 0x0E05, ctx := c, detail := c } (wf (A.ctxSvcStatus c) 31 31 1 s)

theorem withQuiet_of_mem {c : Nat} (h : c ∈ s.svc.quiet) : withQuiet c s = s := by
  unfold withQuiet
  rw [if_pos h]

theorem quiesceRun_eq (r : SvcReq) (s : State) : quiesceRun r s =
    if (inProgress s (agCtx r.bytes)).any fun q => !sameReq q r then putReq { r with stage := 1 } (withQuiet (agCtx r.bytes) s)
    else endReq r csOk (setQuiesced (agCtx r.bytes) (withQuiet (agCtx r.bytes) s)) := by
  have hstop : onSvc (fun v => { v with
      quiet := if v.quiet.contains (agCtx r.bytes) then v.quiet else v.quiet ++ [agCtx r.bytes] }) s = withQuiet (agCtx r.bytes) s := by
    simp only [onSvc, withQuiet, List.contains_iff_mem]
  have hprogress : inProgress (withQuiet (agCtx r.bytes) s) (agCtx r.bytes) = inProgress s (agCtx r.bytes) := rfl
  unfold quiesceRun
  simp only [hstop, hprogress]
  rfl

theorem quiesceRun_waits (h : ∃ q ∈ inProgress s (agCtx r.bytes), sameReq q r = false) :
    quiesceRun r s = putReq { r with stage := 1 } (withQuiet (agCtx r.bytes) s) := by
  obtain ⟨q, hq, hother⟩ := h
  rw [quiesceRun_eq, if_pos (List.any_eq_true.2 ⟨q, hq, by simp [hother]⟩)]

theorem quiesceRun_done (h : ∀ q ∈ inProgress s (agCtx r.bytes), sameReq q r = true) :
    quiesceRun r s = endReq r csOk (setQuiesced (agCtx r.bytes) (withQuiet (agCtx r.bytes) s)) := by
  rw [quiesceRun_eq, if_neg]
  rw [Bool.not_eq_true, List.any_eq_false]
  exact fun q hq => by simp [h q hq]

theorem quiesceFaults_stranger (h : agStranger s r = true) : 0x20 ∈ quiesceFaults s r ∧ ∀ k ∈ quiesceFaults s r, 0x20 ≤ k := by
  simp only [quiesceFaults, List.mem_append, mem_breaks, mem_mustBeZero, h, true_and, true_or]
  omega

theorem cancelFaults_stranger (h : agStranger s r = true ∨ rbit s (A.ctxSvcStatus (agCtx r.bytes)) 31 = false) :
    0x20 ∈ cancelFaults s r ∧ ∀ k ∈ cancelFaults s r, 0x20 ≤ k := by
  have hfirst : (agStranger s r || !rbit s (A.ctxSvcStatus (agCtx r.bytes)) 31) = true := by simpa using h
  simp only [cancelFaults, List.mem_append, mem_breaks, mem_mustBeZero, hfirst, true_and, true_or]
  omega

end

/-! ### The end of a request (14 R360, R366) -/

/-- The first request of a queue that has ended and is not complete. -/
def endedReq (s : State) (x j : Nat) : Option SvcReq :=
  s.svc.reqs.find? fun r => r.ctx == x && r.queue == j && !r.complete && r.status.isSome

section
variable {s written : State} {x : CtxNo} {j : Fin 8} {r : SvcReq} {st st' v : Nat}

theorem exec_svcRequestComplete_ended (hfind : endedReq s x j = some r) (hst : r.status = some st) :
    exec (.svcRequestComplete x j) s = .next (completeReq r st s) := by
  show execSvcRequestComplete x j s = _
  unfold endedReq at hfind
  unfold execSvcRequestComplete
  rw [hfind]
  simp only [hst, Option.getD_some]

theorem exec_svcRequestComplete_none (hfind : endedReq s x j = none) :
    exec (.svcRequestComplete x j) s = .next (takeOther x j s) := by
  show execSvcRequestComplete x j s = _
  unfold endedReq at hfind
  unfold execSvcRequestComplete
  rw [hfind]

/-- A request completes: its chain rings its doorbell only where it ended OK. -/
theorem completeReq_eq (hres : r.result = some v) (hwrite : writeDone r st v s = (st', written)) : completeReq r st s =
    passReqs r.ctx r.queue (putReq { r with complete := true }
      (if st' = csOk ∧ rqChain r.bytes = true ∧ isOn written (fnCtx r.ctx) = true then
        (addDoorbell 0xFF r.ctx (rqChspan r.bytes) (rqChcount r.bytes) written).1 else written)) := by
  unfold completeReq
  simp only [hres, hwrite]

theorem writeDone_none (h : rqDone r.bytes = 0) : writeDone r st v s = (st, s) := if_pos h

theorem writeDone_some (h : rqDone r.bytes ≠ 0) (u : State) :
    (svcWrite (svcBy r) (rqDone r.bytes) (svcRecord r.bytes st v) s = (true, u) → writeDone r st v s = (st, u)) ∧
    (svcWrite (svcBy r) (rqDone r.bytes) (svcRecord r.bytes st v) s = (false, u) → writeDone r st v s = (csFaulted, svcFault r u)) := by
  rw [writeDone, if_neg h]
  exact ⟨fun hw => by rw [hw], fun hw => by rw [hw]⟩

/-- An entry whose OP no operation has is taken and is malformed. -/
theorem takeOther_unknown {b : List Byte} (hmay : takesFrom s x j = true) (hentry : peekEntry s x j (svcNext s x j) = some b)
    (hop : isSvcOp (rqOp b) = false) : takeOther x j s =
      malformedReq (takeReq x j b none (roundPast x j s)).1 0 (takeReq x j b none (roundPast x j s)).2 := by
  simp only [takeOther, hmay, hentry, hop, Bool.not_true, Bool.false_eq_true, if_false]

theorem takeOther_none (h : takesFrom s x j = false) : takeOther x j s = s := by
  simp only [takeOther, h, Bool.not_false, if_true]

theorem endedReq_none (h : ∀ r ∈ s.svc.reqs, r.ctx = x.val → r.queue = j.val → r.complete = false → r.status = none) :
    endedReq s x j = none := by
  refine List.find?_eq_none.2 fun r hr => ?_
  simp only [Bool.and_eq_true, beq_iff_eq, Bool.not_eq_true', not_and, Bool.not_eq_true, Option.isSome_eq_false_iff, and_imp]
  exact fun hx hj hc => by simp [h r hr hx hj hc]

end

/-- Settles O60: the rows of DISPATCH, COMBINE and the agent, and how a request completes. -/
theorem dispatchAgentAndCompletion : Obligations.DispatchAgentAndCompletion := by
  unfold Obligations.DispatchAgentAndCompletion
  refine ⟨?_, fun s x j => ⟨fun r st v st' written hfind hst hres hwrite => ?_, fun r st v => ⟨writeDone_none, writeDone_some⟩,
    fun b hfind hmay hentry hop => ?_, fun hnone hmay => ?_⟩⟩
  · rintro s x j r r' u w p n rfl
    simp only [exec_dispatch, exec_combine, exec_agtDigest, exec_agtQuiesce, exec_agtResume, exec_agtCancel,
      Host.Outcome.next.injEq]
    refine ⟨fun d v hp hread => ⟨fun h => ?_, fun h => ?_⟩, fun hhead hkind => ⟨fun h => ?_, fun h => ?_⟩,
      fun k q hp hstage hanswer => ⟨fun h => ?_, fun h => ?_⟩, fun h hspent m v w' hread hwrite => ?_,
      fun h => ⟨fun hother => ?_, fun halone => ?_⟩, fun k q h hquiet halone => ?_, fun h => ?_, fun h => ?_,
      fun hhead => ⟨fun hbad h => ?_, fun hbad h => ?_, fun hbad h => ?_⟩⟩
    · rw [svcRow_begins_onPier dispatchRun h hp rfl, dispatchRun_begins (r := { r with pier := p }) h.stage]
      exact streamStart_read (r := { r with pier := p }) _ hread
    · rw [svcRow_begins_onPier combineRun h hp rfl, combineRun_begins (r := { r with pier := p }) h.stage]
      exact streamStart_read (r := { r with pier := p }) _ hread
    · obtain ⟨hmem, hleast⟩ := dispatchFaults_notStream hkind
      exact svcRow_malformed dispatchFaults dispatchRun h (reqFaulty_body hhead hmem hleast)
    · obtain ⟨hmem, hleast⟩ := combineFaults_notStream hkind
      exact svcRow_malformed combineFaults combineRun h (reqFaulty_body hhead hmem hleast)
    · rw [svcRow_goesOn_onPier dispatchFaults dispatchRun h hp rfl (pushed_awaitsNoMirror hstage),
        dispatchRun_ended (r := { q with pier := p }) hstage]
      exact streamEnded_ok (r := { q with pier := p }) _ hanswer
    · rw [svcRow_goesOn_onPier combineFaults combineRun h hp rfl (pushed_awaitsNoMirror hstage),
        combineRun_ended (r := { q with pier := p }) hstage]
      exact streamEnded_ok (r := { q with pier := p }) _ hanswer
    · rw [svcRow_begins_agent (digestRun n) h rfl]
      exact digestRun_ok hspent hread hwrite
    · rw [svcRow_begins_agent quiesceRun h rfl]
      exact quiesceRun_waits hother
    · rw [svcRow_begins_agent quiesceRun h rfl]
      exact quiesceRun_done halone
    · rw [svcRow_goes k.isLt h, runReq_agent quiesceRun (by rw [goesOn_op h]; rfl), quiesceRun_done halone, withQuiet_of_mem hquiet]
      rfl
    · rw [svcRow_begins_agent resumeRun h rfl]
      rfl
    · rw [svcRow_begins_agent cancelRun h rfl]
      rfl
    · obtain ⟨hmem, hleast⟩ := quiesceFaults_stranger hbad
      exact svcRow_malformed quiesceFaults quiesceRun h (reqFaulty_body hhead hmem hleast)
    · obtain ⟨hmem, hleast⟩ := quiesceFaults_stranger hbad
      exact svcRow_malformed quiesceFaults resumeRun h (reqFaulty_body hhead hmem hleast)
    · obtain ⟨hmem, hleast⟩ := cancelFaults_stranger hbad
      exact svcRow_malformed cancelFaults cancelRun h (reqFaulty_body hhead hmem hleast)
  · rw [exec_svcRequestComplete_ended hfind hst, completeReq_eq hres hwrite]
    refine ⟨fun hquiet => ?_, fun hok hchain hon => ?_⟩
    · rw [if_neg]
      rintro ⟨hok, hchain, -⟩
      rcases hquiet with hst' | hno
      · exact hst' hok
      · exact Bool.false_ne_true (hno.symm.trans hchain)
    · rw [if_pos ⟨hok, hchain, hon⟩]
  · rw [exec_svcRequestComplete_none hfind, takeOther_unknown hmay hentry hop]
  · rw [exec_svcRequestComplete_none (endedReq_none hnone), takeOther_none hmay]

end Sys2Proof.Machine
end

section
/-! SUPPORT. The memory controllers: a controller's words beside what it reports, MEM_CTRL by its fields, free spares, and the
traffic generator (15 R396-R402). -/

namespace Sys2Proof.Machine
open Sys2Proof

/-! ### Words of a controller (15 Tables 15.5-15.9) -/

theorem memStatus_beside (st : Nat) : ¬ eventWord (A.memStatus st) ∧ (∀ c, A.memStatus st ≠ A.memChStatus st c) := by
  refine ⟨?_, fun c => ?_⟩
  · simp only [eventWord, A.memStatus, A.gulEvtSeq, A.evtLog]
    omega
  · simp only [A.memStatus, A.memChStatus]
    omega

theorem rbit_wn_other {a b : Nat} (v k : Nat) {s : State} (h : SmWf regReset s.regs) (hb : b ≠ a) :
    rbit (wn a v s) b k = rbit s b k := rbit_congr (rd_wn_other v h hb) k

theorem rbit_tstCharge_memChStatus (i n : Nat) {s : State} (h : SmWf regReset s.regs) {a : Nat} (ha : a ≤ actSentinel) (st c k : Nat) :
    rbit (tstCharge a i n s) (A.memChStatus st c) k = rbit s (A.memChStatus st c) k := by
  refine rbit_congr (rd_tstCharge_other a i n h ?_) k
  simp only [A.memChStatus, A.tstDefer, actSentinel] at *
  omega

/-- The state u is s but for what a controller reports and counts: memory, the Keystone and a word stay. -/
structure Reports (a : Nat) (s u : State) : Prop where
  hbm : u.hbm = s.hbm
  ks : u.ks = s.ks
  canonical : SmWf regReset u.regs
  word : rd u a = rd s a

namespace Reports
variable {a : Nat} {s u v : State}

theorem refl (h : SmWf regReset s.regs) : Reports a s s := ⟨rfl, rfl, h, rfl⟩

theorem trans (h : Reports a s u) (g : Reports a u v) : Reports a s v :=
  ⟨g.hbm.trans h.hbm, g.ks.trans h.ks, g.canonical, g.word.trans h.word⟩

theorem onMem (h : Reports a s u) (f : Mem → Mem) : Reports a s (onMem f u) := h.trans ⟨rfl, rfl, h.canonical, rfl⟩

theorem wf (h : Reports a s u) {k : Nat} (hk : a ≠ k) (hi lo n : Nat) : Reports a s (wf k hi lo n u) :=
  h.trans ⟨rfl, rfl, wf_canonical k hi lo n h.canonical, rd_wf_other hi lo n h.canonical hk⟩

theorem raiseEvent (h : Reports a s u) (ha : ¬ eventWord a) (e : EventId) : Reports a s (raiseEvent e u) :=
  h.trans ⟨raiseEvent_hbm e u, raiseEvent_ks e u, raiseEvent_canonical e h.canonical, rd_raiseEvent_beside e h.canonical ha⟩

theorem foldl {α : Type} {f : State → α → State} (l : List α) (h : Reports a s u)
    (hf : ∀ v x, Reports a s v → Reports a s (f v x)) : Reports a s (l.foldl f u) :=
  List.foldlRecOn l f h fun v hv x _ => hf v x hv

theorem hintOnTree (h : Reports a s u) (t : Tree) (cseq : Nat) (p : Edge → Bool) (record : List Byte) :
    Reports a s (hintOnTree t cseq p record u) := by
  unfold Machine.hintOnTree
  refine h.foldl _ fun v e hv => hv.trans ?_
  rw [ctrlOnEdge_frame]
  exact ⟨rfl, rfl, hv.canonical, rfl⟩

theorem slowHints (h : Reports a s u) (cause : Nat) : Reports a s (slowHints cause u) := by
  unfold Machine.slowHints
  refine h.foldl _ fun v t hv => ?_
  split
  · exact hv
  · exact (hv.trans (v := tookFree v) ⟨rfl, rfl, hv.canonical, rfl⟩).hintOnTree _ _ _ _

theorem enterStep (h : Reports a s u) (ha : ¬ eventWord a) {st : Nat} (hk : a ≠ A.memStatus st) (n : Nat) :
    Reports a s (enterStep st n u) := by
  unfold Machine.enterStep
  dsimp only
  split
  · exact h.wf hk _ _ _
  · exact ((h.wf hk _ _ _).raiseEvent ha _).slowHints _

theorem nextRetrain (h : Reports a s u) {st : Nat} (hk : ∀ c, a ≠ A.memChStatus st c) : Reports a s (nextRetrain st u) := by
  unfold Machine.nextRetrain
  split
  · exact (((h.onMem _).wf (hk _) _ _ _).wf (hk _) _ _ _).slowHints 4
  · exact h

theorem checkDrift (h : Reports a s u) {st : Nat} (hk : ∀ c, a ≠ A.memChStatus st c) (t c : Nat) :
    Reports a s (checkDrift st t c u) := by
  unfold Machine.checkDrift
  dsimp only
  split
  · exact h
  · split
    · exact h.onMem _
    · split
      · unfold dueRetrain
        dsimp only
        split
        · exact h
        · exact (h.onMem _).nextRetrain hk
      · exact h

end Reports

/-! ### Temperature (15 R400, R401) -/

section Temperature
variable {s : State} {st : Nat}

theorem bwStep_congr {u : State} (h : rd u (A.memStatus st) = rd s (A.memStatus st)) : bwStep u st = bwStep s st := rf_congr h 18 16

/-- A bandwidth step that a stack enters: its temperature stays. -/
theorem enterStep_reads (hs : SmWf regReset s.regs) {n : Nat} (hn : n < 8) :
    bwStep (enterStep st n s) st = n ∧ rf (enterStep st n s) (A.memStatus st) 31 24 = rf s (A.memStatus st) 31 24 ∧
    Reports (A.memStatus st) (wf (A.memStatus st) 18 16 n s) (enterStep st n s) := by
  have hwf := wf_canonical (A.memStatus st) 18 16 n hs
  have hrest : Reports (A.memStatus st) (wf (A.memStatus st) 18 16 n s) (enterStep st n s) := by
    unfold enterStep
    dsimp only
    split
    · exact .refl hwf
    · exact ((Reports.refl hwf).raiseEvent (memStatus_beside st).1 _).slowHints _
  refine ⟨?_, ?_, hrest⟩
  · rw [bwStep_congr hrest.word, bwStep, rf_wf_same _ _ _ _ _ hs (by decide) (by decide)]
    exact Nat.mod_eq_of_lt hn
  · rw [rf_congr hrest.word, rf_wf_above _ _ hs (by decide) (by decide) (by decide)]

/-- A sensor's reading stands in its word, with its counts. -/
def readingTaken (st t : Nat) (s : State) : State := onMem (countReading st t) (wf (A.memStatus st) 31 24 t s)

/-- The step that a reading makes a stack enter. -/
def readingStep (st t : Nat) (s : State) : State :=
  if 105 ≤ t then (if bwStep s st = 4 then s else enterStep st 4 s)
  else if 95 ≤ t ∧ bwStep s st = 0 then enterStep st 1 (onMem (fun m => { m with hot := smPut 0 m.hot st 0 }) s)
  else s

/-- A reading of a stack's sensor: its temperature stands, and a stack at 105 °C or above is in step 4. -/
theorem stackTempRead_reads (hs : SmWf regReset s.regs) {t : Nat} (ht : t < 256) :
    let u := readingStep st t (readingTaken st t s)
    rf u (A.memStatus st) 31 24 = t ∧ (105 ≤ t → bwStep u st = 4) ∧ (t < 95 → bwStep u st = bwStep s st) ∧
    u.hbm = s.hbm ∧ u.ks = s.ks ∧ SmWf regReset u.regs := by
  have hwf : SmWf regReset (readingTaken st t s).regs := wf_canonical (A.memStatus st) 31 24 t hs
  have htemp : rf (readingTaken st t s) (A.memStatus st) 31 24 = t :=
    (rf_wf_same (A.memStatus st) 31 24 t s hs (by decide) (by decide)).trans (Nat.mod_eq_of_lt ht)
  have hstep : bwStep (readingTaken st t s) st = bwStep s st :=
    rf_wf_below (A.memStatus st) t hs (by decide) (by decide) (by decide) (by decide)
  dsimp only
  unfold readingStep
  by_cases hhot : 105 ≤ t
  · rw [if_pos hhot]
    split
    · next h4 => exact ⟨htemp, fun _ => h4, fun h => by omega, rfl, rfl, hwf⟩
    · obtain ⟨hbw, hrf, hrest⟩ := enterStep_reads (st := st) hwf (n := 4) (by decide)
      exact ⟨hrf.trans htemp, fun _ => hbw, fun h => by omega, hrest.hbm, hrest.ks, hrest.canonical⟩
  · rw [if_neg hhot]
    split
    · next hwarm =>
      obtain ⟨-, hrf, hrest⟩ := enterStep_reads (st := st)
        (s := onMem (fun m => { m with hot := smPut 0 m.hot st 0 }) (readingTaken st t s)) hwf (n := 1) (by decide)
      exact ⟨hrf.trans htemp, fun h => absurd h hhot, fun h => by omega, hrest.hbm, hrest.ks, hrest.canonical⟩
    · exact ⟨htemp, fun h => absurd h hhot, fun _ => hstep, rfl, rfl, hwf⟩

end Temperature

/-! ### MEM_CTRL by its fields (15 Table 15.7) -/

section MemCtrl
variable {s : State} {p : GPort} {st : Nat}

/-- The word of MEM_CTRL with an operation, a pseudo-channel and an extent. -/
theorem memCtrl_fields {op pch ext : Nat} (hop : op < 16) (hpch : pch < 32) (hext : ext < 128) :
    fget (BitVec.ofNat 32 (2 ^ 16 * ext + 2 ^ 8 * pch + op)) 3 0 = op ∧
    fget (BitVec.ofNat 32 (2 ^ 16 * ext + 2 ^ 8 * pch + op)) 12 8 = pch ∧
    fget (BitVec.ofNat 32 (2 ^ 16 * ext + 2 ^ 8 * pch + op)) 22 16 = ext := by
  simp only [fget, bits, BitVec.toNat_ofNat]
  omega

/-- A write of MEM_CTRL by the holder with an operation that there is. -/
theorem writeMemCtrl_held {op pch ext : Nat} (hh : holds s p (dieOf (A.memCtrl st)) = true) (h1 : 1 ≤ op) (h3 : op ≤ 3)
    (hpch : pch < 32) (hext : ext ≤ 125) :
    writeMemCtrl p st (BitVec.ofNat 32 (2 ^ 16 * ext + 2 ^ 8 * pch + op)) s =
      (if op = 1 then dueRetrain st (pch / 2) (wn (A.memCtrl st) (2 ^ 16 * ext + 2 ^ 8 * pch + op) s)
       else if op = 2 then repairExtent st pch ext (wn (A.memCtrl st) (2 ^ 16 * ext + 2 ^ 8 * pch + op) s)
       else cancelRepair st (wn (A.memCtrl st) (2 ^ 16 * ext + 2 ^ 8 * pch + op) s), stOk) := by
  obtain ⟨hfop, hfpch, hfext⟩ := memCtrl_fields (op := op) (pch := pch) (ext := ext) (by omega) hpch (by omega)
  have hgood : ¬ (125 < ext ∨ op = 0 ∨ 3 < op) := by omega
  unfold writeMemCtrl
  simp only [hfop, hfpch, hfext, hh, if_neg hgood, Bool.not_true, Bool.false_eq_true, if_false]

theorem memCtrlRow_held {st : SpanNo} {op pch ext : Nat} (hp : portReady s p = true) (hh : holds s p (dieOf (A.memCtrl st)) = true)
    (h1 : 1 ≤ op) (h3 : op ≤ 3) (hpch : pch < 32) (hext : ext ≤ 125) : memCtrlRow p st op pch ext s =
      accessed p (A.memCtrl st) 0 stOk
        (if op = 1 then dueRetrain st (pch / 2) (wn (A.memCtrl st) (2 ^ 16 * ext + 2 ^ 8 * pch + op) s)
         else if op = 2 then repairExtent st pch ext (wn (A.memCtrl st) (2 ^ 16 * ext + 2 ^ 8 * pch + op) s)
         else cancelRepair st (wn (A.memCtrl st) (2 ^ 16 * ext + 2 ^ 8 * pch + op) s)) := by
  rw [memCtrlRow, wrRow_ready hp, writeMemCtrl_held hh h1 h3 hpch hext]

theorem memCtrl_ne_memChStatus (st c : Nat) : A.memChStatus st c ≠ A.memCtrl st := by
  simp only [A.memChStatus, A.memCtrl]
  omega

theorem retraining_wn_memCtrl (hs : SmWf regReset s.regs) (v : Nat) : retraining (wn (A.memCtrl st) v s) st = retraining s st := by
  unfold retraining
  simp only [rbit_wn_other v _ hs (memCtrl_ne_memChStatus st _)]

/-- A channel that is neither due nor under way nor FAILED becomes due. -/
theorem dueRetrain_adds {c : Nat} (hdue : 16 * st + c ∉ s.mem.due) (hidle : retraining s st ≠ some c)
    (hgood : rbit s (A.memChStatus st c) 2 = false) :
    dueRetrain st c s = nextRetrain st { s with mem := { s.mem with due := s.mem.due ++ [16 * st + c] } } := by
  have hnot : (s.mem.due.contains (16 * st + c) || retraining s st == some c || rbit s (A.memChStatus st c) 2) = false := by
    simp [hdue, hidle, hgood]
  unfold dueRetrain
  rw [if_neg (by rw [hnot]; exact Bool.false_ne_true)]
  rfl

/-- A repair takes its spare: registers and what the spare held change, and the repair is pending. -/
theorem repairExtent_takes {pch ext x : Nat} (hspare : spareFor s st pch = some x) (hnone : ∀ q ∈ s.mem.repairs, q.stack ≠ st) :
    ∃ t, repairExtent st pch ext s = t ∧ t = { s with regs := t.regs, mem := { s.mem with hidden := t.mem.hidden, repairs :=
      s.mem.repairs ++ [{ stack := st, pch := pch, extent := ext, spare := x, pending := true, copied := false }] } } := by
  have hpending : (s.mem.repairs.any fun q => q.stack == st && q.pending) = false := by
    simp only [List.any_eq_false, Bool.and_eq_true, beq_iff_eq, not_and]
    exact fun q hq h => absurd h (hnone q hq)
  have hrepaired : repaired s st pch ext = false := by
    simp only [repaired, List.any_eq_false, Bool.and_eq_true, beq_iff_eq, not_and, and_imp]
    exact fun q hq h => absurd h (hnone q hq)
  refine ⟨_, rfl, ?_⟩
  unfold repairExtent
  simp only [hspare, hpending, hrepaired, Bool.false_eq_true, if_false]
  rfl

/-- A pending repair that is cancelled: its spare keeps what it holds. -/
theorem cancelRepair_pending {q : Repair} (h : pendingOn s st = some q) : ∃ t, cancelRepair st s = t ∧
    t = { s with regs := t.regs, free := t.free, mem := { s.mem with
      hidden := memOf (s.mem.hidden ++ spareLeft s q)
      repairs := s.mem.repairs.filter fun q => !(q.stack == st && q.pending) } } := by
  refine ⟨_, rfl, ?_⟩
  unfold cancelRepair
  simp only [h]
  split <;> rfl

end MemCtrl

/-! ### Free spares and the traffic generator (15 R399, R402) -/

section Generator

/-- A word of a pseudo-channel that lies in its spare extents, as a place of the stack's storage. -/
theorem spare_place {k w : Nat} (hk : k < 32) (hlo : 126 * extentBytes ≤ 64 * w) (hhi : 64 * w < 0x30000000) :
    stackData ≤ stackLocal k (64 * w) ∧ stackLocal k (64 * w) < 64 * 2 ^ 29 ∧ stackLocal k (64 * w) % 64 = 0 := by
  simp only [extentBytes, stackData, stackLocal] at *
  omega

/-- A word of a spare extent that no repair holds serves no address. -/
theorem wordServes_freeSpare {s : State} {st sl : Nat} (hspare : stackData ≤ sl) (htop : sl < 64 * 2 ^ 29) (hword : sl % 64 = 0)
    (hfree : spareOf sl ∈ freeSpares s st) (writes : Bool) : wordServes s writes (wordKey st sl) = none := by
  have hstack : wordKey st sl / 2 ^ 29 = st := by simp only [wordKey]; omega
  have hplace : 64 * (wordKey st sl % 2 ^ 29) = sl := by simp only [wordKey]; omega
  have hheld := (List.mem_filter.1 hfree).2
  have hnone : (s.mem.repairs.find? fun q => q.stack == st && q.spare == spareOf sl && (writes || !q.pending)) = none := by
    refine List.find?_eq_none.2 fun q hq => ?_
    simp only [Bool.not_eq_true', List.any_eq_false] at hheld
    have hother := hheld q hq
    simp only [Bool.not_eq_true] at hother ⊢
    rw [hother, Bool.false_and]
  unfold wordServes
  simp only [hstack, hplace, if_neg (not_lt.2 hspare), hnone]

/-- The state u is s but for storage out of service, its check bits, and free values. -/
structure SpareOnly (s u : State) : Prop where
  frame : u = { s with free := u.free, mem := { s.mem with bad := u.mem.bad, hidden := u.mem.hidden } }

theorem SpareOnly.trans {s u v : State} (h : SpareOnly s u) (g : SpareOnly u v) : SpareOnly s v := ⟨by rw [g.frame, h.frame]⟩

/-- A write to a free spare extent reaches no address. -/
theorem storageWr_freeSpare {s : State} {st sl : Nat} (bs : List Byte) (hserves : ∀ writes, wordServes s writes (wordKey st sl) = none) :
    SpareOnly s (storageWr st sl bs s) := by
  unfold storageWr
  rw [hserves false, hserves true]
  split
  · exact ⟨rfl⟩
  · exact ⟨rfl⟩

/-- A run of a generator over spare storage alone changes nothing in service. -/
theorem tgWords_spareOnly {st k : Nat} (hk : k < 32) (n start : Nat) (s : State) : SpareOnly s (tgWords st k true start n s) := by
  induction n generalizing start s with
  | zero => exact ⟨rfl⟩
  | succ n ih =>
    refine SpareOnly.trans (u := if tgCovers s st k true start then
      storageWr st (stackLocal k (64 * start)) (leBytes 64 (freeBits 512 s)) (tookFree s) else s) ?_ (ih _ _)
    split
    · next hcover =>
      simp only [tgCovers, Bool.not_true, Bool.false_or, Bool.and_eq_true, decide_eq_true_eq, List.contains_iff_mem] at hcover
      obtain ⟨hhi, hlo, hfree⟩ := hcover
      obtain ⟨hspare, htop, hword⟩ := spare_place hk hlo hhi
      exact SpareOnly.trans (u := tookFree s) ⟨rfl⟩
        (storageWr_freeSpare _ fun writes => wordServes_freeSpare (s := tookFree s) hspare htop hword hfree writes)
    · exact ⟨rfl⟩

end Generator

/-! ### The rows -/

section Rows
variable {s : State} {st : SpanNo} {p : GPort}

theorem exec_scrub_clean {n : Nat} (hs : SmWf regReset s.regs) (hreset : s.pwr.inReset = false) (hspent : tstSpent s actScrub st = false)
    (hstep : bwStep s st ≠ 4) (hgood : 2 ^ 29 * st.val + smGet 0 s.mem.scrub st ∉ s.mem.bad)
    (hworks : storageFailed s st (64 * smGet 0 s.mem.scrub st) = false) : exec (.scrub st .none n) s =
      .next (scrubNext st (smGet 0 s.mem.scrub st) (tstCharge actScrub st n s)) := by
  have hmem : (tstCharge actScrub st n s).mem = s.mem := by rw [tstCharge_frame]
  have hclean : scrubWord st (smGet 0 s.mem.scrub st) .none (tstCharge actScrub st n s) = tstCharge actScrub st n s := by
    have hchannel : storageFailed (tstCharge actScrub st n s) st (64 * smGet 0 s.mem.scrub st) = false :=
      (rbit_tstCharge_memChStatus st n hs (by decide) _ _ _).trans hworks
    unfold scrubWord
    rw [hmem, hchannel, Bool.or_false, Bool.eq_false_iff.2 (fun h => hgood (List.contains_iff_mem.1 h))]
  show execScrub st .none n s = _
  unfold execScrub
  simp only [hreset, hspent, beq_eq_false_iff_ne.2 hstep, Bool.or_self, Bool.false_eq_true, if_false, hclean]

theorem exec_retrainEnd_ok {c n : Nat} (hs : SmWf regReset s.regs) (h : retraining s st = some c) :
    exec (.retrainEnd st true n) s = .next (nextRetrain st (wf (A.memChStatus st c) 1 0 1
      { tstCharge actRefresh st n s with mem := { s.mem with
        trained := smPut none s.mem.trained (16 * st.val + c) (some (rf s (A.memStatus st) 31 24)) } })) := by
  have htemp : rf (tstCharge actRefresh st n s) (A.memStatus st) 31 24 = rf s (A.memStatus st) 31 24 := by
    refine rf_congr (rd_tstCharge_other actRefresh st n hs ?_) 31 24
    simp only [A.memStatus, A.tstDefer, actRefresh]
    omega
  have hmem : (tstCharge actRefresh st n s).mem = s.mem := by rw [tstCharge_frame]
  show execRetrainEnd st true n s = _
  unfold execRetrainEnd
  simp only [h, Bool.true_or, if_true, htemp, onMem, hmem]

theorem exec_retrainEnd_failed {c n : Nat} (h : retraining s st = some c) (htries : 2 ≤ smGet 0 s.mem.tries (16 * st.val + c)) :
    exec (.retrainEnd st false n) s = .next (nextRetrain st
      (raiseEvent { code := 0x0F07, unit := memUnit st, detail := 2 ^ 8 * st.val + c }
        (wf (A.memChStatus st c) 2 0 4 (tstCharge actRefresh st n s)))) := by
  have hmem : (tstCharge actRefresh st n s).mem = s.mem := by rw [tstCharge_frame]
  have hthird : ¬ smGet 0 s.mem.tries (16 * st.val + c) + 1 < 3 := by omega
  show execRetrainEnd st false n s = _
  unfold execRetrainEnd
  simp only [h, decide_eq_true htries, Bool.or_true, if_true, Bool.false_eq_true, if_false, hmem, if_neg hthird]

theorem exec_stackTempRead_reads {t : BitVec 8} (hs : SmWf regReset s.regs) (hreset : s.pwr.inReset = false) :
    ∃ u, exec (.stackTempRead st t) s = .next u ∧ rf u (A.memStatus st) 31 24 = t.toNat ∧ (105 ≤ t.toNat → bwStep u st = 4) ∧
      (t.toNat < 95 → bwStep u st = bwStep s st) ∧ u.hbm = s.hbm ∧ u.ks = s.ks := by
  obtain ⟨htemp, hhot, hcool, hhbm, hks, hwf⟩ := stackTempRead_reads (s := s) (st := st) hs t.isLt
  set v := readingStep st t.toNat (readingTaken st t.toNat s)
  have hrest : Reports (A.memStatus st) v ((List.range 16).foldl (fun s c => checkDrift st t.toNat c s) (nextRetrain st v)) :=
    ((Reports.refl hwf).nextRetrain (memStatus_beside st).2).foldl _ fun u c hu => hu.checkDrift (memStatus_beside st).2 _ _
  refine ⟨_, if_neg (by rw [hreset]; exact Bool.false_ne_true), (rf_congr hrest.word 31 24).trans htemp, fun h => ?_, fun h => ?_,
    hrest.hbm.trans hhbm, hrest.ks.trans hks⟩
  · exact (bwStep_congr hrest.word).trans (hhot h)
  · exact (bwStep_congr hrest.word).trans (hcool h)

theorem exec_bwstepWindow_rises (h1 : 1 ≤ bwStep s st) (h3 : bwStep s st < 3) (hhot : 10 ≤ smGet 0 s.mem.hot st) :
    exec (.bwstepWindow st) s =
      .next (enterStep st (bwStep s st + 1) { s with mem := { s.mem with hot := smPut 0 s.mem.hot st 0 } }) := by
  show execBwstepWindow st s = _
  unfold execBwstepWindow
  dsimp only
  rw [if_neg (by omega), if_pos ⟨h1, h3, hhot⟩]
  rfl

theorem exec_bwstepWindow_falls (h1 : 1 ≤ bwStep s st) (h4 : bwStep s st < 4) (hhot : smGet 0 s.mem.hot st < 10)
    (hcold : 10 ≤ smGet 0 s.mem.cold st) : exec (.bwstepWindow st) s =
      .next (enterStep st (bwStep s st - 1) { s with mem := { s.mem with cold := smPut 0 s.mem.cold st 0 } }) := by
  show execBwstepWindow st s = _
  unfold execBwstepWindow
  dsimp only
  rw [if_neg (by omega), if_neg (by omega), if_pos ⟨h1, hcold⟩]
  rfl

theorem exec_repairCopyEnd_copied {q : Repair} {n : Nat} (h : pendingOn s st = some q) (hcopied : q.copied = false)
    (hspent : tstSpent s actScrub st = false) : exec (.repairCopyEnd st n) s =
      .next { tstCharge actScrub st n s with mem := { s.mem with
        bad := copiedMarks s q, repairs := s.mem.repairs.map fun x => if x = q then { q with copied := true } else x } } := by
  have hmem : (tstCharge actScrub st n s).mem = s.mem := by rw [tstCharge_frame]
  show execRepairCopyEnd st n s = _
  unfold execRepairCopyEnd
  simp only [h, hcopied, hspent, Bool.or_self, Bool.false_eq_true, if_false, onMem, hmem]

/-! The traffic generator's words. -/

theorem tgWords_distinct (st k : Nat) : A.tgStatus st k ≠ A.tgCtl st k ∧ A.tgStatus st k ≠ A.tgFirstErr st k ∧
    A.tgErrors st k ≠ A.tgCtl st k ∧ A.tgErrors st k ≠ A.tgFirstErr st k ∧ A.tgErrors st k ≠ A.tgStatus st k ∧
    A.tgFirstErr st k ≠ A.tgStatus st k := by
  simp only [A.tgStatus, A.tgCtl, A.tgFirstErr, A.tgErrors]
  omega

theorem dieOf_tgCtl (st : SpanNo) (k : Fin 32) : dieOf (A.tgCtl st k) = dieOf (A.memCtrl st) := by
  have hst := st.isLt
  have hk := k.isLt
  have htg : dieOf (A.tgCtl st k) = (A.tgCtl st k - 0x1000000) / 0x100000 / 4 := by
    unfold dieOf A.tgCtl
    rw [if_neg (by omega), if_neg (by omega), if_neg (by omega), if_neg (by omega), if_pos (by omega)]
  have hmem : dieOf (A.memCtrl st) = (A.memCtrl st - 0x1000000) / 0x100000 / 4 := by
    unfold dieOf A.memCtrl
    rw [if_neg (by omega), if_neg (by omega), if_neg (by omega), if_neg (by omega), if_pos (by omega)]
  rw [htg, hmem]
  simp only [A.tgCtl, A.memCtrl]
  omega

theorem tgStart_enabled (c : BitVec 9) : fget (BitVec.ofNat 32 (2 * c.toNat + 1)) 0 0 ≠ 0 := by
  have hc := c.isLt
  simp only [fget, bits, BitVec.toNat_ofNat]
  omega

/-- A generator that may start runs, and no error of it stands. -/
theorem exec_tgStart_runs {k : Fin 32} {c : BitVec 9} (hs : SmWf regReset s.regs) (hp : portReady s p = true)
    (hh : holds s p (dieOf (A.memCtrl st)) = true) (hmay : tgMay s st k (BitVec.ofNat 32 (2 * c.toNat + 1)) = true) :
    ∃ t, exec (.tgStart p st k c) s = .next (accessed p (A.tgCtl st k) 0 stOk t) ∧ t = { s with regs := t.regs } ∧
      rn t (A.tgStatus st k) = 1 ∧ rn t (A.tgFirstErr st k) = 0 := by
  obtain ⟨-, -, -, -, -, hne⟩ := tgWords_distinct st k
  have hctl := wr_wf (A.tgCtl st k) (fieldsOnly (A.tgCtl st k) (BitVec.ofNat 32 (2 * c.toNat + 1))) s hs
  have hfirst := wn_canonical (A.tgFirstErr st k) 0 hctl
  have hwrite : writeTgCtl p st k (BitVec.ofNat 32 (2 * c.toNat + 1)) s =
      (wn (A.tgStatus st k) 1 (wn (A.tgFirstErr st k) 0
        (wr (A.tgCtl st k) (fieldsOnly (A.tgCtl st k) (BitVec.ofNat 32 (2 * c.toNat + 1))) s)), stOk) := by
    unfold writeTgCtl
    simp only [dieOf_tgCtl, hh, if_neg (tgStart_enabled c), hmay, Bool.not_true, Bool.false_eq_true, if_false]
  refine ⟨_, ?_, rfl, rn_wn_same _ hfirst (by decide), ?_⟩
  · show execTgStart p st k c s = _
    unfold execTgStart
    rw [wrRow_ready hp, hwrite]
  · exact (congrArg BitVec.toNat (rd_wn_other 1 hfirst hne)).trans (rn_wn_same _ hctl (by decide))

/-- The state u is s but for registers, turnstile counts, storage out of service, its check bits, and free values. -/
structure GeneratorOnly (s u : State) : Prop where
  frame : u = { s with regs := u.regs, tst := u.tst, free := u.free, mem := { s.mem with bad := u.mem.bad, hidden := u.mem.hidden } }

theorem GeneratorOnly.trans {s u v : State} (h : GeneratorOnly s u) (g : GeneratorOnly u v) : GeneratorOnly s v :=
  ⟨by rw [g.frame, h.frame]⟩

namespace GeneratorOnly
variable {s u : State}

theorem wn (h : GeneratorOnly s u) (a v : Nat) : GeneratorOnly s (wn a v u) := h.trans ⟨rfl⟩
theorem wf (h : GeneratorOnly s u) (a hi lo v : Nat) : GeneratorOnly s (wf a hi lo v u) := h.trans ⟨rfl⟩
theorem bump (h : GeneratorOnly s u) (a n : Nat) : GeneratorOnly s (bump a n u) := h.trans ⟨rfl⟩

end GeneratorOnly

theorem SpareOnly.generatorOnly {s u : State} (h : SpareOnly s u) : GeneratorOnly s u := ⟨by rw [h.frame]⟩

/-- What a generator over spare storage has done when its run is over. -/
def tgRan (st k cycles : Nat) (s : State) : State :=
  if rf (tstCharge actSentinel st cycles s) (A.tgCtl st k) 9 8 = 1 then tstCharge actSentinel st cycles s
  else tgWords st k true (rn s (A.tgStart st k)) (rn s (A.tgLen st k)) (tstCharge actSentinel st cycles s)

theorem tgRan_spareOnly (s : State) (st k cycles : Nat) (hk : k < 32) :
    SpareOnly (tstCharge actSentinel st cycles s) (tgRan st k cycles s) := by
  unfold tgRan
  split
  · exact ⟨rfl⟩
  · exact tgWords_spareOnly hk _ _ _

/-- A run over spare storage that found no error: it is DONE, and its count of errors stays. -/
theorem exec_tgDone_clean {k : Fin 32} {n : Nat} (hs : SmWf regReset s.regs) (hrun : rbit s (A.tgStatus st k) 0 = true)
    (hspare : rbit s (A.tgCtl st k) 1 = true) :
    ∃ t, exec (.tgDone st k [] n) s = .next t ∧ rn t (A.tgStatus st k) = 2 ∧ rn t (A.tgErrors st k) = rn s (A.tgErrors st k) ∧
      t = { s with regs := t.regs, tst := t.tst, free := t.free, mem := { s.mem with bad := t.mem.bad, hidden := t.mem.hidden } } := by
  obtain ⟨hsc, hsf, hec, hef, hes, -⟩ := tgWords_distinct st k
  have hcharge := tstCharge_canonical actSentinel st n hs
  have hbeside : ∀ a, 0x1000000 ≤ a → rd (tstCharge actSentinel st n s) a = rd s a := fun a ha =>
    rd_tstCharge_other actSentinel st n hs (by simp only [A.tstDefer, actSentinel]; omega)
  have hctl : rbit (tstCharge actSentinel st n s) (A.tgCtl st k) 1 = true :=
    (rbit_congr (hbeside _ (by simp only [A.tgCtl]; omega)) 1).trans hspare
  have hran := tgRan_spareOnly s st k n k.isLt
  set v := tgRan st k n s with hv
  have hregs : v.regs = (tstCharge actSentinel st n s).regs := by rw [hran.frame]
  have hvs : SmWf regReset v.regs := hregs ▸ hcharge
  have herrors : rn v (A.tgErrors st k) = rn s (A.tgErrors st k) := by
    have hword : rd v (A.tgErrors st k) = rd (tstCharge actSentinel st n s) (A.tgErrors st k) :=
      congrArg (smGet _ · (A.tgErrors st k)) hregs
    exact congrArg BitVec.toNat (hword.trans (hbeside _ (by simp only [A.tgErrors]; omega)))
  have hb := bump_canonical (A.tgErrors st k) 0 hvs
  have hf := wn_canonical (A.tgFirstErr st k) 0 hb
  have hw := wf_canonical (A.tgCtl st k) 0 0 0 hf
  refine ⟨wn (A.tgStatus st k) 2 (wf (A.tgCtl st k) 0 0 0 (wn (A.tgFirstErr st k) 0 (bump (A.tgErrors st k) 0 v))), ?_, ?_, ?_, ?_⟩
  · show execTgDone st k [] n s = _
    unfold execTgDone
    simp only [hrun, hspare, hctl, Bool.not_true, Bool.false_eq_true, if_false, if_true, List.filter_nil, List.length_nil,
      List.getD_nil]
    rfl
  · exact rn_wn_same _ hw (by decide)
  · have hlt := rn_lt s (A.tgErrors st k)
    calc rn (wn (A.tgStatus st k) 2 _) (A.tgErrors st k)
        = rn (bump (A.tgErrors st k) 0 v) (A.tgErrors st k) := congrArg BitVec.toNat
          (((rd_wn_other 2 hw hes).trans (rd_wf_other 0 0 0 hf hec)).trans (rd_wn_other 0 hb hef))
      _ = min 0xFFFFFFFF (rn v (A.tgErrors st k) + 0) := rn_bump_same _ _ hvs
      _ = rn s (A.tgErrors st k) := by rw [herrors]; omega
  · have hcharged : GeneratorOnly s (tstCharge actSentinel st n s) := ⟨by rw [tstCharge_frame]⟩
    exact (hcharged.trans hran.generatorOnly).bump _ 0 |>.wn _ 0 |>.wf _ 0 0 0 |>.wn _ 2 |>.frame

end Rows

/-- Settles O42: each command of the controllers in the state that its case names. -/
theorem memoryControllerCommands : Obligations.MemoryControllerCommands := by
  unfold Obligations.MemoryControllerCommands
  intro s st p hs
  refine ⟨fun n hreset => ?_, fun n hreset hspent hstep hgood hworks => exec_scrub_clean hs hreset hspent hstep hgood hworks,
    fun k hheld hdue hidle hgood => ?_, fun c n h => ⟨exec_retrainEnd_ok hs h, fun htries => exec_retrainEnd_failed h htries⟩,
    fun t hreset => exec_stackTempRead_reads hs hreset, exec_bwstepWindow_rises, exec_bwstepWindow_falls,
    fun k e x hheld he hspare hnone => ?_, fun hheld q hq => ?_, fun q n h hcopied hspent => exec_repairCopyEnd_copied h hcopied hspent,
    fun k c hheld hmay => exec_tgStart_runs hs hheld.1 hheld.2 hmay, fun k n hrun hspare => exec_tgDone_clean hs hrun hspare⟩
  · exact congrArg _ (if_neg (by rw [hreset]; exact Bool.false_ne_true))
  · obtain ⟨hp, hh⟩ := hheld
    show Host.Outcome.next (memCtrlRow p st 1 k 0 s) = _
    rw [memCtrlRow_held hp hh (by decide) (by decide) k.isLt (by decide), if_pos rfl, dueRetrain_adds]
    · rw [Nat.mul_zero, Nat.zero_add]
      rfl
    · exact hdue
    · rw [retraining_wn_memCtrl hs]
      exact hidle
    · rw [rbit_wn_other _ _ hs (memCtrl_ne_memChStatus st _)]
      exact hgood
  · obtain ⟨hp, hh⟩ := hheld
    obtain ⟨t, ht, hframe⟩ := repairExtent_takes (s := wn (A.memCtrl st) (2 ^ 16 * e.val + 2 ^ 8 * k.val + 2) s) (ext := e) hspare hnone
    refine ⟨t, ?_, hframe⟩
    show Host.Outcome.next (memCtrlRow p st 2 k e s) = _
    rw [memCtrlRow_held hp hh (by decide) (by decide) k.isLt he, if_neg (by decide), if_pos rfl, ht]
  · obtain ⟨hp, hh⟩ := hheld
    obtain ⟨t, ht, hframe⟩ := cancelRepair_pending (s := wn (A.memCtrl st) 3 s) (st := st) hq
    refine ⟨t, ?_, hframe⟩
    show Host.Outcome.next (memCtrlRow p st 3 0 0 s) = _
    rw [memCtrlRow_held hp hh (by decide) (by decide) (by decide) (by decide), if_neg (by decide), if_neg (by decide)]
    exact congrArg (fun u => Host.Outcome.next (accessed p (A.memCtrl st) 0 stOk u)) ht

end Sys2Proof.Machine
end

section
/-! SUPPORT. Clocks and power (16 R405-R420): what the cap controller's acts change, the samples of rails and of temperatures, the
period of the turnstiles, and the levels that an allocation gives. -/

namespace Sys2Proof.Machine
open Sys2Proof

/-! ### Values keyed by a range -/

/-- Values put at the keys of a range read back, and other keys stay. -/
theorem smGet_foldl_put {β : Type} [DecidableEq β] (d : β) (v : Nat → β) (n : Nat) (m : List (Nat × β))
    (h : m.Pairwise fun x y => x.1 < y.1) :
    ((List.range n).foldl (fun m i => smPut d m i (v i)) m).Pairwise (fun x y => x.1 < y.1) ∧
    ∀ i, smGet d ((List.range n).foldl (fun m i => smPut d m i (v i)) m) i = if i < n then v i else smGet d m i := by
  induction n with
  | zero => exact ⟨h, fun i => rfl⟩
  | succ n ih =>
    obtain ⟨hsorted, hread⟩ := ih
    rw [List.range_succ, List.foldl_append, List.foldl_cons, List.foldl_nil]
    refine ⟨smPut_pairwise _ _ _ _ hsorted, fun i => ?_⟩
    by_cases hi : i = n
    · subst hi
      rw [smGet_put_same _ _ _ _ hsorted, if_pos (Nat.lt_succ_self i)]
    · rw [smGet_put_other _ _ _ _ _ _ hi hsorted, hread]
      exact if_congr (by omega) rfl rfl

/-! ### What the cap controller writes -/

/-- A register that the cap controller's acts write: PWR_STATUS, a span's word, or the event log. -/
def capWord (a : Nat) : Prop := a = A.pwrStatus ∨ (∃ i < 8, a = A.clkSpan i) ∨ eventWord a

theorem not_capWord_pwrRail {k : Nat} (hk : k < 18) : ¬ capWord (A.pwrRail k) := by
  rintro (h | ⟨i, hi, h⟩ | ⟨h, -⟩)
  · simp only [A.pwrRail, A.pwrStatus] at h
    omega
  · simp only [A.pwrRail, A.clkSpan] at h
    omega
  · simp only [A.pwrRail, A.evtLog] at h
    omega

theorem not_capWord_pwrDieTemp {d : Nat} (hd : d < 2) : ¬ capWord (A.pwrDieTemp d) := by
  rintro (h | ⟨i, hi, h⟩ | ⟨h, -⟩)
  · simp only [A.pwrDieTemp, A.pwrStatus] at h
    omega
  · simp only [A.pwrDieTemp, A.clkSpan] at h
    omega
  · simp only [A.pwrDieTemp, A.evtLog] at h
    omega

/-- The state u is s but for the cap controller's words, what the module sends, and its marks of moves and of divergence. -/
structure CapOnly (s u : State) : Prop where
  frame : u = { s with regs := u.regs, out := u.out, pc := { s.pc with moved := u.pc.moved, diverge := u.pc.diverge } }
  canonical : SmWf regReset u.regs
  words : ∀ a, ¬ capWord a → rd u a = rd s a

namespace CapOnly
variable {s u v : State}

theorem refl (h : SmWf regReset s.regs) : CapOnly s s := ⟨rfl, h, fun _ _ => rfl⟩

theorem trans (h : CapOnly s u) (g : CapOnly u v) : CapOnly s v where
  frame := by rw [g.frame, h.frame]
  canonical := g.canonical
  words a ha := (g.words a ha).trans (h.words a ha)

theorem wf (h : CapOnly s u) {a : Nat} (ha : capWord a) (hi lo n : Nat) : CapOnly s (wf a hi lo n u) :=
  h.trans ⟨rfl, wf_canonical a hi lo n h.canonical, fun _ hb => rd_wf_other hi lo n h.canonical fun e => hb (e ▸ ha)⟩

theorem raiseEvent (h : CapOnly s u) (e : EventId) : CapOnly s (raiseEvent e u) :=
  h.trans ⟨by rw [raiseEvent_frame], raiseEvent_canonical e h.canonical,
    fun _ hb => rd_raiseEvent_beside e h.canonical fun he => hb (.inr (.inr he))⟩

theorem noteMoved (h : CapOnly s u) (i : Nat) : CapOnly s (noteMoved i u) := h.trans ⟨rfl, h.canonical, fun _ _ => rfl⟩

theorem foldl {α : Type} {f : State → α → State} (l : List α) (h : CapOnly s u) (hf : ∀ v x, x ∈ l → CapOnly s v → CapOnly s (f v x)) :
    CapOnly s (l.foldl f u) :=
  List.foldlRecOn l f h fun v hv x hx => hf v x hx hv

section
variable {i : Nat} (hi : i < 8)
include hi

theorem clkSpan (h : CapOnly s u) (b lo n : Nat) : CapOnly s (Machine.wf (A.clkSpan i) b lo n u) := h.wf (.inr (.inl ⟨i, hi, rfl⟩)) _ _ _

theorem switchStep (h : CapOnly s u) (j : Nat) : CapOnly s (switchStep i j u) := by
  unfold Machine.switchStep
  split
  · exact h
  · exact (h.noteMoved i).clkSpan hi _ _ _

theorem setTarget (h : CapOnly s u) (j : Nat) : CapOnly s (setTarget i j u) := by
  have hstep := h.clkSpan hi 26 24 j
  unfold Machine.setTarget
  extract_lets a volts here lower aimed switched
  have hswitched : CapOnly s switched := by
    unfold switched
    split
    · exact hstep.switchStep hi j
    · exact hstep
  split
  · exact hswitched
  · exact (hswitched.clkSpan hi _ _ _).clkSpan hi _ _ _

theorem forceSpan (h : CapOnly s u) : CapOnly s (forceSpan i u) := by
  unfold Machine.forceSpan
  split
  · exact h.clkSpan hi _ _ _
  · exact (h.clkSpan hi _ _ _).setTarget hi 0

end

theorem excursion (h : CapOnly s u) (why : Nat) : CapOnly s (excursion why u) := by
  unfold Machine.excursion
  exact ((h.wf (.inl rfl) 30 30 1).foldl (List.range 8) fun v i hi hv => hv.forceSpan (List.mem_range.1 hi)).raiseEvent _

theorem divergeSample (h : CapOnly s u) (i : Nat) : CapOnly s (divergeSample i u) := by
  unfold Machine.divergeSample
  extract_lets d n pc v
  have hv : CapOnly s v := h.trans ⟨rfl, h.canonical, fun _ _ => rfl⟩
  split
  · exact (hv.wf (.inl rfl) 31 31 1).raiseEvent _
  · exact hv

theorem pc (h : CapOnly s u) : u.pc = { s.pc with moved := u.pc.moved, diverge := u.pc.diverge } := congrArg State.pc h.frame

theorem samples (h : CapOnly s u) : u.pc.samples = s.pc.samples := by rw [h.pc]
theorem measured (h : CapOnly s u) : u.pc.measured = s.pc.measured := by rw [h.pc]
theorem limit (h : CapOnly s u) : u.pc.limit = s.pc.limit := by rw [h.pc]
theorem hot (h : CapOnly s u) : u.pc.hot = s.pc.hot := by rw [h.pc]

/-- What only the controller changes keeps everything but registers, its own state, and what the module sends. -/
theorem beside (h : CapOnly s u) : u = { s with regs := u.regs, out := u.out, pc := u.pc } := by rw [h.frame]

end CapOnly

/-! ### The clock tree (16 R406) -/

section Clock
variable {s : State}

theorem clkStatus_beside : ¬ eventWord A.clkStatus := by
  simp only [eventWord, A.clkStatus, A.evtLog]
  omega

/-- The word CLK_STATUS of a state after an event. -/
theorem rbit_raiseEvent_clkStatus (e : EventId) (hs : SmWf regReset s.regs) (k : Nat) :
    rbit (raiseEvent e s) A.clkStatus k = rbit s A.clkStatus k := rbit_congr (rd_raiseEvent_beside e hs clkStatus_beside) k

theorem exec_referenceLost_locked (hs : SmWf regReset s.regs) (h31 : rbit s A.clkStatus 31 = true) (h30 : rbit s A.clkStatus 30 = true) :
    ∃ t, exec .referenceLost s = .next t ∧ t = { s with regs := t.regs, out := t.out, pc := { s.pc with slewing := false } } ∧
      rbit t A.clkStatus 29 = true ∧ rbit t A.clkStatus 30 = false ∧ rbit t A.clkStatus 31 = true := by
  have hlost := wf_canonical A.clkStatus 30 30 0 (s := { s with pc := { s.pc with slewing := false } }) hs
  have hheld := wf_canonical A.clkStatus 29 29 1 hlost
  refine ⟨_, if_pos (by rw [h31, h30]; rfl), ?_, ?_, ?_, ?_⟩
  · rw [raiseEvent_frame]
    rfl
  · rw [rbit_raiseEvent_clkStatus _ hheld, rbit_wf_same _ _ hlost (by decide)]
    rfl
  · rw [rbit_raiseEvent_clkStatus _ hheld, rbit_wf_above _ _ hlost (by decide) (by decide) (by decide)]
    exact rbit_wf_same A.clkStatus 0 (s := { s with pc := { s.pc with slewing := false } }) hs (by decide)
  · rw [rbit_raiseEvent_clkStatus _ hheld, rbit_wf_above _ _ hlost (by decide) (by decide) (by decide)]
    exact (rbit_wf_above A.clkStatus 0 (s := { s with pc := { s.pc with slewing := false } }) hs (by decide) (by decide)
      (by decide)).trans h31

theorem exec_referenceReturn_holdover (hs : SmWf regReset s.regs) (h29 : rbit s A.clkStatus 29 = true) :
    ∃ t, exec .referenceReturn s = .next t ∧ t = { s with regs := t.regs, pc := { s.pc with slewing := true } } ∧
      rbit t A.clkStatus 30 = true ∧ rbit t A.clkStatus 29 = true := by
  refine ⟨_, rfl, by rw [h29]; rfl, ?_, ?_⟩
  · exact rbit_wf_same A.clkStatus 1 (s := { s with pc := { s.pc with slewing := rbit s A.clkStatus 29 } }) hs (by decide)
  · exact (rbit_wf_below A.clkStatus 1 (s := { s with pc := { s.pc with slewing := rbit s A.clkStatus 29 } }) hs (by decide)
      (by decide) (by decide)).trans h29

theorem exec_relockEnd_slewing (hs : SmWf regReset s.regs) (hslew : s.pc.slewing = true) :
    ∃ t, exec .relockEnd s = .next t ∧ t = { s with regs := t.regs, out := t.out, pc := { s.pc with slewing := false } } ∧
      rbit t A.clkStatus 29 = false := by
  have hcleared := wf_canonical A.clkStatus 29 29 0 (s := { s with pc := { s.pc with slewing := false } }) hs
  refine ⟨_, if_pos hslew, ?_, ?_⟩
  · rw [raiseEvent_frame]
    rfl
  · rw [rbit_raiseEvent_clkStatus _ hcleared]
    exact rbit_wf_same A.clkStatus 0 (s := { s with pc := { s.pc with slewing := false } }) hs (by decide)

/-- A ramp that arrives switches the span's divider to its target. -/
theorem exec_rampEnd_arrives {i : SpanNo} (hs : SmWf regReset s.regs) (hramp : rbit s (A.clkSpan i) 31 = true) :
    ∃ t, exec (.rampEnd i) s = .next t ∧ t = { s with regs := t.regs, pc := { s.pc with moved := t.pc.moved } } ∧
      t.pc.moved = (if rf s (A.clkSpan i) 30 28 = rf s (A.clkSpan i) 26 24 then s.pc.moved else smPut false s.pc.moved i true) ∧
      rbit t (A.clkSpan i) 31 = false ∧ rf t (A.clkSpan i) 30 28 = rf s (A.clkSpan i) 26 24 ∧
      ∀ a, a ≠ A.clkSpan i → rd t a = rd s a := by
  have htarget : rf s (A.clkSpan i) 26 24 < 2 ^ (30 + 1 - 28) := Nat.mod_lt _ (by decide)
  refine ⟨wf (A.clkSpan i) 31 31 0 (switchStep i (rf s (A.clkSpan i) 26 24) s), if_pos hramp, ?_⟩
  unfold switchStep
  by_cases hthere : rf s (A.clkSpan i) 30 28 = rf s (A.clkSpan i) 26 24
  · rw [if_pos hthere, if_pos hthere]
    exact ⟨rfl, rfl, rbit_wf_same _ 0 hs (by decide),
      (rf_wf_below _ 0 hs (by decide) (by decide) (by decide) (by decide)).trans hthere, fun a ha => rd_wf_other _ _ _ hs ha⟩
  · rw [if_neg hthere, if_neg hthere]
    have hmoved : SmWf regReset (noteMoved i s).regs := hs
    have hstep := wf_canonical (A.clkSpan i) 30 28 (rf s (A.clkSpan i) 26 24) hmoved
    refine ⟨rfl, rfl, rbit_wf_same _ 0 hstep (by decide), ?_, fun a ha => ?_⟩
    · rw [rf_wf_below _ 0 hstep (by decide) (by decide) (by decide) (by decide), rf_wf_same _ _ _ _ _ hmoved (by decide) (by decide),
        Nat.mod_eq_of_lt htarget]
    · exact (rd_wf_other _ _ _ hstep ha).trans (rd_wf_other _ _ _ hmoved ha)

end Clock

/-! ### Forces and CLEAR_CONS (16 R413, R417, R418) -/

section Forces
variable {s : State}

theorem foldl_noteMoved (l : List Nat) (s : State) : l.foldl (fun s i => noteMoved i s) s =
    { s with pc := { s.pc with moved := l.foldl (fun m i => smPut false m i true) s.pc.moved } } := by
  induction l generalizing s with
  | nil => rfl
  | cons i r ih =>
    rw [List.foldl_cons, ih]
    rfl

theorem exec_forceEnd_ends (hs : SmWf regReset s.regs) :
    ∃ t, exec .forceEnd s = .next t ∧ t = { s with regs := t.regs, pc := { s.pc with moved := t.pc.moved } } ∧
      rbit t A.pwrStatus 30 = false ∧ (forced s = false → t.pc = s.pc) ∧
      (forced s = true → (s.pc.moved.Pairwise fun x y => x.1 < y.1) → ∀ i < 8, smGet false t.pc.moved i = true) := by
  refine ⟨wf A.pwrStatus 30 30 0 (if forced s then (List.range 8).foldl (fun s i => noteMoved i s) s else s), rfl, ?_⟩
  by_cases hf : forced s = true
  · rw [if_pos hf, foldl_noteMoved]
    refine ⟨rfl, rbit_wf_same A.pwrStatus 0
      (s := { s with pc := { s.pc with moved := (List.range 8).foldl (fun m i => smPut false m i true) s.pc.moved } }) hs (by decide),
      fun h => absurd hf (by rw [h]; exact Bool.false_ne_true), fun _ hsorted i hi => ?_⟩
    exact ((smGet_foldl_put false (fun _ => true) 8 s.pc.moved hsorted).2 i).trans (if_pos hi)
  · rw [if_neg hf]
    exact ⟨rfl, rbit_wf_same A.pwrStatus 0 hs (by decide), fun _ => rfl, fun h => absurd h hf⟩

theorem exec_clearCons_held {p : GPort} (hs : SmWf regReset s.regs) (hp : portReady s p = true) (hh : s.ks.holder = some p) :
    ∃ t, exec (.clearCons p) s = .next (accessed p A.pwrCtrl 0 stOk t) ∧
      t = { s with regs := t.regs, pc := { s.pc with diverge := [] } } ∧ rbit t A.pwrStatus 31 = false := by
  have hold : holds s p 0 = true := by simp [holds, hh]
  refine ⟨clearCons s, ?_, rfl, ?_⟩
  · show execClearCons p s = _
    unfold execClearCons
    rw [wrRow_ready hp, if_pos hold]
  · exact rbit_wf_same A.pwrStatus 0 (wn_canonical A.pwrCtrl 1 (s := { s with pc := { s.pc with diverge := [] } }) hs) (by decide)

end Forces

/-! ### Samples of the rails (16 R408) -/

section Rails
variable {s : State} (rails : List (BitVec 16 × BitVec 16)) (act : List Nat)

/-- A rail's voltage and current of a sample. -/
def railOf (k : Nat) : BitVec 16 × BitVec 16 := rails.getD k (0, 0)

/-- The word of a rail's sample. -/
def railWord (k : Nat) : Nat := 2 ^ 16 * (railOf rails k).2.toNat + (railOf rails k).1.toNat

theorem railWord_lt (k : Nat) : railWord rails k < 2 ^ 32 := by
  have hv := (railOf rails k).1.isLt
  have hi := (railOf rails k).2.isLt
  unfold railWord
  omega

/-- The words of the first rails. -/
def railsWritten (n : Nat) (s : State) : State := (List.range n).foldl (fun s k => wn (A.pwrRail k) (railWord rails k) s) s

theorem railsWritten_frame (n : Nat) (s : State) : railsWritten rails n s = { s with regs := (railsWritten rails n s).regs } :=
  foldl_regs_frame (fun _ _ => rfl) (List.range n) s

theorem railsWritten_reads (n : Nat) (hs : SmWf regReset s.regs) : SmWf regReset (railsWritten rails n s).regs ∧
    ∀ k < n, rn (railsWritten rails n s) (A.pwrRail k) = railWord rails k := by
  induction n with
  | zero => exact ⟨hs, fun k hk => absurd hk (Nat.not_lt_zero k)⟩
  | succ n ih =>
    obtain ⟨hwf, hread⟩ := ih
    have hnext : railsWritten rails (n + 1) s = wn (A.pwrRail n) (railWord rails n) (railsWritten rails n s) := by
      unfold railsWritten
      rw [List.range_succ, List.foldl_append, List.foldl_cons, List.foldl_nil]
    rw [hnext]
    refine ⟨wn_canonical _ _ hwf, fun k hk => ?_⟩
    by_cases hkn : k = n
    · subst hkn
      exact rn_wn_same _ hwf (railWord_lt rails k)
    · refine (congrArg BitVec.toNat (rd_wn_other _ hwf ?_)).trans (hread k (by omega))
      simp only [A.pwrRail]
      omega

/-- Samples above the cap in force, one after the other. -/
def overRun (s : State) : Nat :=
  if s.pc.section_ ≠ [] && 100000 * rf s A.pwrStatus 11 0 < samplePower (railOf rails 16) then s.pc.overCap + 1 else 0

/-- A sample of the rails as the controller keeps it. -/
def railsKept (s : State) : State :=
  { s with pc := { s.pc with
    samples := (samplePower (railOf rails 16) :: s.pc.samples).take 1000
    overCap := overRun rails s % 100
    measured := (List.range 8).foldl (fun m i => smPut 0 m i (samplePower (railOf rails i))) s.pc.measured
    activity := (List.range 8).foldl (fun m i => smPut 0 m i (act.getD i 0)) s.pc.activity } }

/-- A sample at or beyond a limit forces the spans. -/
def limitsChecked (pin run : Nat) (s : State) : State :=
  if 290000000 < pin then excursion 0 s else if run = 100 then excursion 1 s else s

theorem exec_railSample_eq (s : State) : exec (.railSample rails act) s = .next ((List.range 8).foldl (fun s i => divergeSample i s)
    (limitsChecked (samplePower (railOf rails 16)) (overRun rails (railsWritten rails 18 s))
      (railsKept rails act (railsWritten rails 18 s)))) := rfl

theorem railsKept_samples (s : State) :
    (railsKept rails act s).pc.samples = (samplePower (railOf rails 16) :: s.pc.samples).take 1000 := rfl

theorem railsKept_measured (s : State) : (railsKept rails act s).pc.measured =
    (List.range 8).foldl (fun m i => smPut 0 m i (samplePower (railOf rails i))) s.pc.measured := rfl

theorem railsKept_regs (s : State) : (railsKept rails act s).regs = s.regs := rfl

/-- A sample writes every rail's word and is kept; what the limits then do changes neither. -/
theorem exec_railSample_only (hs : SmWf regReset s.regs) : ∃ t, exec (.railSample rails act) s = .next t ∧
    CapOnly (railsKept rails act (railsWritten rails 18 s)) t := by
  refine ⟨_, exec_railSample_eq rails act s, ?_⟩
  have hkept : SmWf regReset (railsKept rails act (railsWritten rails 18 s)).regs := by
    rw [railsKept_regs]
    exact (railsWritten_reads rails 18 hs).1
  refine CapOnly.foldl _ ?_ fun v i _ hv => hv.divergeSample i
  unfold limitsChecked
  split
  · exact (CapOnly.refl hkept).excursion 0
  · split
    · exact (CapOnly.refl hkept).excursion 1
    · exact CapOnly.refl hkept

theorem exec_railSample_reads (hs : SmWf regReset s.regs) (hsorted : s.pc.measured.Pairwise fun x y => x.1 < y.1) :
    ∃ t, exec (.railSample rails act) s = .next t ∧ t = { s with regs := t.regs, out := t.out, pc := t.pc } ∧
      (∀ k < 18, rn t (A.pwrRail k) = railWord rails k) ∧
      t.pc.samples = (samplePower (railOf rails 16) :: s.pc.samples).take 1000 ∧
      ∀ i < 8, smGet 0 t.pc.measured i = samplePower (railOf rails i) := by
  obtain ⟨t, ht, honly⟩ := exec_railSample_only rails act hs
  have hwritten := railsWritten_frame rails 18 s
  have hpc : (railsWritten rails 18 s).pc = s.pc := by rw [hwritten]
  refine ⟨t, ht, ?_, fun k hk => ?_, by rw [honly.samples, railsKept_samples, hpc], fun i hi => ?_⟩
  · have hframe := honly.beside
    unfold railsKept at hframe
    rw [hwritten] at hframe
    rw [hframe]
  · have hkeep : rd (railsKept rails act (railsWritten rails 18 s)) (A.pwrRail k) = rd (railsWritten rails 18 s) (A.pwrRail k) :=
      congrArg (smGet _ · (A.pwrRail k)) (railsKept_regs rails act _)
    exact (congrArg BitVec.toNat ((honly.words _ (not_capWord_pwrRail hk)).trans hkeep)).trans ((railsWritten_reads rails 18 hs).2 k hk)
  · rw [honly.measured, railsKept_measured, hpc]
    exact ((smGet_foldl_put 0 (fun i => samplePower (railOf rails i)) 8 s.pc.measured hsorted).2 i).trans (if_pos hi)

end Rails

/-! ### Samples of the temperatures (16 R419, Table 16.6) -/

section Temperatures
variable {s : State} {d : Nat} (temp : BitVec 16)

/-- The die is limited, and its spans are forced, at a reading. -/
def dieLimited (d : Nat) (temp : BitVec 16) (s : State) : Bool :=
  decide (1600 ≤ temp.toInt ∨ (smGet false s.pc.limit d ∧ 1520 < temp.toInt))
def dieForced (d : Nat) (temp : BitVec 16) (s : State) : Bool :=
  decide (1760 ≤ temp.toInt ∨ (smGet false s.pc.hot d ∧ 1680 < temp.toInt))

/-- A reading stands in its word, and the spans of a die that was hot have moved. -/
def dieRead (d : Nat) (temp : BitVec 16) (s : State) : State :=
  if smGet false s.pc.hot d then (List.range 4).foldl (fun s i => noteMoved (4 * d + i) s) (wn (A.pwrDieTemp d) temp.toNat s)
  else wn (A.pwrDieTemp d) temp.toNat s

/-- The limits of the die after a reading. -/
def dieKept (d : Nat) (temp : BitVec 16) (s : State) : State :=
  { dieRead d temp s with pc := { (dieRead d temp s).pc with
    limit := smPut false (dieRead d temp s).pc.limit d (dieLimited d temp s)
    hot := smPut false (dieRead d temp s).pc.hot d (dieForced d temp s) } }

theorem dieRead_only (hs : SmWf regReset s.regs) : CapOnly (wn (A.pwrDieTemp d) temp.toNat s) (dieRead d temp s) := by
  have hwritten := CapOnly.refl (wn_canonical (A.pwrDieTemp d) temp.toNat hs)
  unfold dieRead
  split
  · exact hwritten.foldl _ fun v i _ hv => hv.noteMoved _
  · exact hwritten

theorem dieSample_only (hs : SmWf regReset s.regs) (hd : d < 2) : CapOnly (dieKept d temp s) (dieSample d temp s) := by
  have hkept : CapOnly (dieKept d temp s) (dieKept d temp s) := .refl (dieRead_only (d := d) temp hs).canonical
  have hshown := hkept.wf (a := A.pwrStatus) (.inl rfl) 26 26
    (b2n (smGet false (dieKept d temp s).pc.hot 0 || smGet false (dieKept d temp s).pc.hot 1))
  unfold dieSample
  extract_lets t written was limit hot read pc kept shown told
  have htold : CapOnly (dieKept d temp s) told := by
    unfold told
    split
    · exact hshown.raiseEvent _
    · exact hshown
  split
  · exact htold.foldl _ fun v i hi hv => hv.forceSpan (by have := List.mem_range.1 hi; omega)
  · exact htold

/-- A reading of a die's sensor: its word, the limits, and nothing of the other die's. -/
theorem dieSample_reads (hs : SmWf regReset s.regs) (hd : d < 2) :
    SmWf regReset (dieSample d temp s).regs ∧
    dieSample d temp s = { s with regs := (dieSample d temp s).regs, out := (dieSample d temp s).out, pc := (dieSample d temp s).pc } ∧
    rn (dieSample d temp s) (A.pwrDieTemp d) = temp.toNat ∧
    (∀ e < 2, e ≠ d → rn (dieSample d temp s) (A.pwrDieTemp e) = rn s (A.pwrDieTemp e)) ∧
    (dieSample d temp s).pc.limit = smPut false s.pc.limit d (dieLimited d temp s) ∧
    (dieSample d temp s).pc.hot = smPut false s.pc.hot d (dieForced d temp s) := by
  have hread := dieRead_only (d := d) temp hs
  have honly := dieSample_only temp hs hd
  have hword : ∀ e < 2, rn (dieSample d temp s) (A.pwrDieTemp e) = rn (wn (A.pwrDieTemp d) temp.toNat s) (A.pwrDieTemp e) :=
    fun e he => congrArg BitVec.toNat
      ((honly.words _ (not_capWord_pwrDieTemp he)).trans (hread.words _ (not_capWord_pwrDieTemp he)))
  refine ⟨honly.canonical, ?_, ?_, fun e he hne => ?_, ?_, ?_⟩
  · have hframe := honly.beside
    unfold dieKept at hframe
    rw [hread.beside] at hframe
    rw [hframe]
    rfl
  · have ht := temp.isLt
    rw [hword d hd, rn_wn_same _ hs (by omega)]
  · rw [hword e he]
    refine congrArg BitVec.toNat (rd_wn_other _ hs ?_)
    simp only [A.pwrDieTemp]
    omega
  · rw [honly.limit]
    exact congrArg (smPut false · d (dieLimited d temp s)) hread.limit
  · rw [honly.hot]
    exact congrArg (smPut false · d (dieForced d temp s)) hread.hot

theorem exec_dieTempSample_reads {t0 t1 : BitVec 16} (hs : SmWf regReset s.regs) (hlimit : s.pc.limit.Pairwise fun x y => x.1 < y.1)
    (hhot : s.pc.hot.Pairwise fun x y => x.1 < y.1) :
    ∃ t, exec (.dieTempSample t0 t1) s = .next t ∧ t = { s with regs := t.regs, out := t.out, pc := t.pc } ∧
      rn t (A.pwrDieTemp 0) = t0.toNat ∧ rn t (A.pwrDieTemp 1) = t1.toNat ∧
      (1760 ≤ t0.toInt → smGet false t.pc.hot 0 = true) ∧ (t0.toInt ≤ 1680 → smGet false t.pc.hot 0 = false) ∧
      (1600 ≤ t1.toInt → smGet false t.pc.limit 1 = true) ∧ (t1.toInt ≤ 1520 → smGet false t.pc.limit 1 = false) := by
  obtain ⟨hwf0, hframe0, hrn0, -, hlimit0, hhot0⟩ := dieSample_reads (d := 0) t0 hs (by decide)
  obtain ⟨-, hframe1, hrn1, hother1, hlimit1, hhot1⟩ := dieSample_reads (d := 1) t1 hwf0 (by decide)
  have hhotRead : smGet false (dieSample 1 t1 (dieSample 0 t0 s)).pc.hot 0 = dieForced 0 t0 s := by
    rw [hhot1, smGet_put_other _ _ _ _ _ _ (by decide) (by rw [hhot0]; exact smPut_pairwise _ _ _ _ hhot), hhot0,
      smGet_put_same _ _ _ _ hhot]
  have hlimitRead : smGet false (dieSample 1 t1 (dieSample 0 t0 s)).pc.limit 1 = dieLimited 1 t1 (dieSample 0 t0 s) := by
    rw [hlimit1, smGet_put_same _ _ _ _ (by rw [hlimit0]; exact smPut_pairwise _ _ _ _ hlimit)]
  refine ⟨dieSample 1 t1 (dieSample 0 t0 s), rfl, ?_, (hother1 0 (by decide) (by decide)).trans hrn0, hrn1, ?_⟩
  · rw [hframe1, hframe0]
  · rw [hhotRead, hlimitRead]
    simp only [dieForced, dieLimited, decide_eq_true_eq, decide_eq_false_iff_not]
    omega

end Temperatures

/-! ### The period of the turnstiles (16 R420, R424) -/

section Period
variable {s : State}

/-- The POWER section in force, in use. -/
def powerUsed (s : State) : State :=
  if sect s secPower = [] then s else showCap { s with pc := { s.pc with section_ := sect s secPower } }

theorem useSections_eq (s : State) : useSections s = powerUsed (if sect s secTurnstile = [] then s else
    (List.range 9).foldl (fun u a => wn (A.tstBudget a) (le (sect s secTurnstile) (4 + 2 * a) 2) u)
      (wn A.tstPeriod (le (sect s secTurnstile) 0 2) s)) := rfl

theorem powerUsed_frame (s : State) :
    powerUsed s = { s with regs := (powerUsed s).regs, pc := { s.pc with section_ := (powerUsed s).pc.section_ } } := by
  unfold powerUsed
  split <;> rfl

theorem useSections_frame (s : State) :
    useSections s = { s with regs := (useSections s).regs, pc := { s.pc with section_ := (useSections s).pc.section_ } } := by
  rw [useSections_eq, powerUsed_frame]
  split
  · rfl
  · rw [foldl_regs_frame fun _ _ => rfl]
    rfl

theorem traceDropAll_frame (s : State) : traceDropAll s = { s with regs := (traceDropAll s).regs, trc := [] } := by
  unfold traceDropAll
  rw [foldl_regs_frame fun _ _ => rfl]

theorem exec_turnstilePeriod_begins (s : State) : ∃ t, exec .turnstilePeriod s = .next t ∧ t.trc = [] ∧ t.snt.period = [] ∧
    t = { s with regs := t.regs, pc := { s.pc with section_ := t.pc.section_ }, tst := t.tst, trc := [], snt := t.snt } := by
  refine ⟨_, rfl, ?_, rfl, ?_⟩
  · show (traceDropAll _).trc = []
    rw [traceDropAll_frame]
  · unfold sentinelPeriod
    rw [traceDropAll_frame, useSections_frame]

end Period

/-! ### The levels of an allocation (16 R414) -/

section Levels
variable {s : State}

/-- Levels of the spans, each within its range: not below its minimum, and above it only up to its maximum. -/
def LevelsWithin (s : State) (t : List Nat) : Prop :=
  t.length = 8 ∧ ∀ i < 8, (levelRange s i).1 ≤ t.getD i 0 ∧ t.getD i 0 ≤ max (levelRange s i).1 (levelRange s i).2

/-- A span that the loop chooses may rise. -/
theorem pickSpan_may {t : List Nat} {cost : Nat → Int} {b : Int} {i : Nat} (h : pickSpan s t cost b = some i) :
    i < 8 ∧ t.getD i 0 < (levelRange s i).2 := by
  let cand := (List.range 8).filter fun i => t.getD i 0 < (levelRange s i).2 && cost i ≤ b
  have hmem : ∀ j, pickSpan s t cost b = some j → j ∈ cand := by
    unfold pickSpan
    refine List.foldlRecOn (motive := fun best : Option Nat => ∀ j, best = some j → j ∈ cand) cand _ (by simp) ?_
    rintro (_ | k) hbest j hj
    · rintro _ ⟨⟩
      exact hj
    · dsimp only
      split
      · rintro _ ⟨⟩
        exact hj
      · exact hbest
  obtain ⟨hrange, hless⟩ := List.mem_filter.1 (hmem i h)
  simp only [Bool.and_eq_true, decide_eq_true_eq] at hless
  exact ⟨List.mem_range.1 hrange, hless.1⟩

theorem levelsWithin_raise {t : List Nat} {i : Nat} (h : LevelsWithin s t) (hi : i < 8) (hless : t.getD i 0 < (levelRange s i).2) :
    LevelsWithin s (t.set i (t.getD i 0 + 1)) := by
  obtain ⟨hlen, hwithin⟩ := h
  refine ⟨by rw [List.length_set, hlen], fun j hj => ?_⟩
  have hat := hwithin j hj
  by_cases hij : i = j
  · subst hij
    rw [List.getD_eq_getElem _ _ (by rw [List.length_set]; omega), List.getElem_set_self]
    omega
  · have hsame : (t.set i (t.getD i 0 + 1)).getD j 0 = t.getD j 0 := by
      rw [List.getD_eq_getElem?_getD, List.getElem?_set_ne hij, ← List.getD_eq_getElem?_getD]
    rw [hsame]
    exact hat

/-- The loop keeps the levels within their ranges. -/
theorem raiseLevels_within (unit_ : Int) (n : Nat) (t : List Nat) (b : Int) (h : LevelsWithin s t) :
    LevelsWithin s (raiseLevels s unit_ n t b) := by
  induction n generalizing t b with
  | zero => exact h
  | succ n ih =>
    unfold raiseLevels
    dsimp only
    split
    · next i hpick =>
      obtain ⟨hi, hless⟩ := pickSpan_may hpick
      exact ih _ _ (levelsWithin_raise h hi hless)
    · exact h

theorem allocate_within (s : State) : LevelsWithin s (allocate s) := by
  refine raiseLevels_within _ _ _ _ ⟨by simp, fun i hi => ?_⟩
  rw [List.getD_eq_getElem _ _ (by simpa using hi), List.getElem_map, List.getElem_range]
  omega

end Levels

/-- Settles O41: the clock tree, ramps and forces, the samples and the periods, and the levels of the control period. -/
theorem clocksAndPower : Obligations.ClocksAndPower := by
  unfold Obligations.ClocksAndPower
  refine ⟨fun s hs => ⟨exec_referenceLost_locked hs, fun hno => ?_, exec_referenceReturn_holdover hs, exec_relockEnd_slewing hs,
    fun i => exec_rampEnd_arrives hs, exec_forceEnd_ends hs, fun p => exec_clearCons_held hs,
    fun rails act => exec_railSample_reads rails act hs, fun t0 t1 => exec_dieTempSample_reads hs, exec_turnstilePeriod_begins s⟩,
    fun s => ⟨fun hnone => if_pos hnone, fun hsome => if_neg hsome, (allocate_within s).1, (allocate_within s).2⟩⟩
  refine if_neg fun h => ?_
  obtain ⟨h31, h30⟩ := Bool.and_eq_true_iff.1 h
  rcases hno with h | h
  · exact Bool.false_ne_true (h.symm.trans h31)
  · exact Bool.false_ne_true (h.symm.trans h30)

end Sys2Proof.Machine
end

section
/-! SUPPORT. Signers and attestation reports (17 R435, R438). -/

namespace Sys2Proof.Machine
open Sys2Proof

section Signers
variable {s : State}

theorem bootServes_of_stage (h : stage s = stFwWait ∨ stage s = stFwCheck ∨ stage s = stRunning) : bootServes s = true := by
  simp only [bootServes, Bool.or_eq_true, beq_iff_eq]
  omega

/-- ENROLL by the holder takes the record of the enrollment area. -/
theorem writeBootCtrl_enrolls {p : GPort} (hh : holds s p 0 = true) (hserves : bootServes s = true) (hnone : s.mg.enroll = none) :
    writeBootCtrl p 2 s = ({ wn A.dkBootCtrl 2 s with
      mg := { s.mg with enroll := some (p.val, cfgBytes s (A.enrollArea 0) 7328) } }, stOk) := by
  have hop : fget (2 : Word) 3 0 = 2 := rfl
  have hne : ¬ (2 : Nat) = 1 := by decide
  unfold writeBootCtrl
  simp only [hop, hne, hh, hserves, hnone, Bool.not_true, Bool.false_eq_true, Option.isSome_none, if_false, if_true]
  rfl

theorem exec_enrollEnd_ends {k : Nat} {b : List Byte} (h : s.mg.enroll = some (k, b)) : exec .enrollEnd s = .next (
    if erCode s.fuses s.otp b = 0 then raiseEvent { code := 0x1104, port := k, detail := 2 ^ 8 * erSlot b + (erOp b - 1) }
      (wf A.dkBootStatus 31 24 0 { s with mg := { s.mg with enroll := none }, otp := erFuse b s.otp })
    else raiseEvent { code := 0x1105, port := k, detail := erCode s.fuses s.otp b }
      (wf A.dkBootStatus 31 24 (erCode s.fuses s.otp b) { s with mg := { s.mg with enroll := none } })) := by
  have hfuses : (onMg (fun m => { m with enroll := none }) s).fuses = s.fuses := rfl
  have hotp : (onMg (fun m => { m with enroll := none }) s).otp = s.otp := rfl
  show execEnrollEnd s = _
  unfold execEnrollEnd
  simp only [h, hfuses, hotp]
  split
  · rfl
  · rfl

/-- GO by the unit's own port takes the report's fields. -/
theorem writeAttCtrl_goes {p : GPort} (hidle : rbit s (A.dkAttCtrl p) 0 = false) : writeAttCtrl p p 1 s =
    ({ wn (A.dkAttCtrl p) 1 s with mg := { s.mg with att := smPut [] s.mg.att p.val (attFields p.val s) } }, stOk) := by
  have hgo : fget (1 : Word) 0 0 = 1 ∧ ¬ rbit s (A.dkAttCtrl p) 0 = true := ⟨rfl, by simp [hidle]⟩
  unfold writeAttCtrl
  rw [if_neg (fun h => h rfl), if_pos hgo]
  rfl

theorem exec_attestationDone_writes {n : GPort} {b : List Byte} (h : smGet [] s.mg.att n.val = b) (hne : b ≠ []) :
    exec (.attestationDone n) s = .next (wn (A.dkAttCtrl n) 2 (putCfg (A.attReport (0x800 * n))
      (b ++ slice (Config.mlDsaSign s.fuses.moduleSn (sha3 b) (ascii "IMDOR-ATT")) 0 4627 ++ List.replicate 45 0)
      { s with mg := { s.mg with att := smPut [] s.mg.att n.val [] } })) := by
  show execAttestationDone n s = _
  unfold execAttestationDone
  rw [h]
  cases b with
  | nil => exact absurd rfl hne
  | cons x r => rfl

end Signers

/-- Settles O13: ENROLL and its end, GO and the end of a report. -/
theorem signerAndAttestationCommands : Obligations.SignerAndAttestationCommands := by
  unfold Obligations.SignerAndAttestationCommands
  refine fun s => ⟨fun p hheld hstage hnone => ?_, fun k b h => exec_enrollEnd_ends h, fun p hp hidle => ?_,
    fun n b h hne => exec_attestationDone_writes h hne⟩
  · obtain ⟨hp, hholder, -⟩ := hheld
    show execEnroll p s = _
    rw [execEnroll, wrRow_ready hp, writeBootCtrl_enrolls (holds_holder hholder) (bootServes_of_stage hstage) hnone]
  · show execAttestationGo p p s = _
    rw [execAttestationGo, wrRow_ready hp, writeAttCtrl_goes hidle]

end Sys2Proof.Machine
end

section
/-! SUPPORT. Functions: ENABLE and DISABLE by DK_FUNC_CTRL, the ends of START and DRAIN, and their limits (17 R439-R441). -/

namespace Sys2Proof.Machine
open Sys2Proof

/-! ### A word that a fault leaves -/

/-- A register word between the module's fault words and its contexts' registers: no fault writes it. -/
def besideFaults (a : Nat) : Prop := A.dkFltCnt 4 ≤ a ∧ a < 0x100000

/-- The state u keeps the canonical form, and a word as s has it. -/
structure Stays (a : Nat) (s u : State) : Prop where
  canonical : SmWf regReset u.regs
  word : rd u a = rd s a

namespace Stays
variable {a : Nat} {s u v : State}

theorem refl (h : SmWf regReset s.regs) : Stays a s s := ⟨h, rfl⟩

theorem trans (h : Stays a s u) (g : Stays a u v) : Stays a s v := ⟨g.canonical, g.word.trans h.word⟩

theorem sameRegs (h : Stays a s u) (hr : v.regs = u.regs) : Stays a s v :=
  h.trans ⟨hr ▸ h.canonical, congrArg (smGet (regReset a) · a) hr⟩

theorem wn (h : Stays a s u) {k : Nat} (hk : a ≠ k) (n : Nat) : Stays a s (wn k n u) :=
  h.trans ⟨wn_canonical k n h.canonical, rd_wn_other n h.canonical hk⟩

theorem putCfg (h : Stays a s u) {k : Nat} (hk : a < k) (bs : List Byte) : Stays a s (putCfg k bs u) :=
  h.trans ⟨putCfg_wf k bs u h.canonical, rd_putCfg_out k a bs u h.canonical (.inl hk)⟩

variable (ha : besideFaults a)
include ha

theorem raiseEvent (h : Stays a s u) (e : EventId) : Stays a s (raiseEvent e u) := by
  obtain ⟨-, hhi⟩ := ha
  refine h.trans ⟨raiseEvent_canonical e h.canonical, rd_raiseEvent_beside e h.canonical ?_⟩
  simp only [eventWord, A.evtLog]
  omega

theorem faultEffect (h : Stays a s u) (f : FaultId) : Stays a s (faultEffect f u) := by
  have ⟨hlo, hhi⟩ := ha
  unfold Machine.faultEffect
  split
  · unfold Machine.stopCtx
    split
    · refine (h.wn ?_ _).raiseEvent ⟨hlo, hhi⟩ _
      simp only [A.ctxFltStatus]
      omega
    · exact h
  · split
    · exact h
    · refine h.wn ?_ _
      simp only [A.dkFltStatus, A.dkFltCnt] at *
      omega
  · exact h

theorem raiseFault (h : Stays a s u) (f : FaultId) : Stays a s (raiseFault f u) := by
  have ⟨hlo, hhi⟩ := ha
  have hcount : a ≠ A.dkFltCnt (FaultClass.code f.cls) := by
    have : FaultClass.code f.cls < 4 := by cases f.cls <;> decide
    simp only [A.dkFltCnt] at *
    omega
  have hseq : a ≠ A.dkFltSeq := by
    simp only [A.dkFltSeq, A.dkFltCnt] at *
    omega
  have hlog (n : Nat) : a < A.fltLog 0 + n := by
    simp only [A.fltLog]
    omega
  have hcounted : Stays a s (bump (A.dkFltCnt (FaultClass.code f.cls)) 1 u) := h.wn hcount _
  unfold Machine.raiseFault
  extract_lets counted last merged rep fseq logged numbered told shown
  have hnumbered : Stays a s numbered := (hcounted.putCfg (hlog _) _).wn hseq _
  have hshown : shown.regs = numbered.regs := by
    unfold shown told
    split <;> split <;> rfl
  split
  · exact hcounted.sameRegs rfl
  · exact ((hnumbered.sameRegs hshown).raiseEvent ha _).faultEffect ha f

end Stays

/-! ### The state of a function -/

section FuncState
variable {s : State} {f : Nat}

theorem fstate_setFstate {st : Nat} (hs : SmWf regReset s.regs) (hst : st < 8) : fstate (setFstate f st s) f = st :=
  (rf_wf_same _ 2 0 st s hs (by decide) (by decide)).trans (Nat.mod_eq_of_lt hst)

theorem fstate_setPending (b : Bool) (hs : SmWf regReset s.regs) : fstate (setPending f b s) f = fstate s f :=
  rf_wf_below _ _ hs (by decide) (by decide) (by decide) (by decide)

theorem funcPending_setPending (hs : SmWf regReset s.regs) : funcPending (setPending f true s) f = true :=
  rbit_wf_same _ _ hs (by decide)

theorem fstate_took {f : Nat} (v : Nat) (hs : SmWf regReset s.regs) : fstate (wn A.dkFuncCtrl v s) f = fstate s f := by
  refine rf_congr (rd_wn_other v hs ?_) 2 0
  simp only [A.dkFuncState, A.dkFuncCtrl]
  omega

theorem fstate_wedge {st : Nat} (hf : f < 354) (hs : SmWf regReset s.regs) : fstate (wedge f st s) f = fsWedged := by
  have hbeside : besideFaults (A.dkFuncState f) := by
    simp only [besideFaults, A.dkFuncState, A.dkFltCnt]
    omega
  have hwedged := wf_canonical (A.dkFuncState f) 2 0 fsWedged hs
  have hstays : Stays (A.dkFuncState f) (setPending f false (setFstate f fsWedged s)) (wedge f st s) :=
    (Stays.refl (wf_canonical _ _ _ _ hwedged)).raiseFault hbeside _
  exact (rf_congr hstays.word 2 0).trans ((fstate_setPending false hwedged).trans (fstate_setFstate hs (by decide)))

end FuncState

/-! ### DK_FUNC_CTRL (17 Table 17.13) -/

section FuncCtrl
variable {s : State} {p : GPort} {f : BitVec 9} {op : Nat}

theorem funcCtrl_fields (f : BitVec 9) (hop : op < 16) :
    fget (BitVec.ofNat 32 (f.toNat + 2 ^ 28 * op)) 8 0 = f.toNat ∧ fget (BitVec.ofNat 32 (f.toNat + 2 ^ 28 * op)) 31 28 = op := by
  have hf := f.isLt
  simp only [fget, bits, BitVec.toNat_ofNat]
  omega

/-- What the holder's write of DK_FUNC_CTRL does. -/
def funcTaken (p : GPort) (f op : Nat) (s : State) : State × Nat :=
  if !fnPresent s f || fstate s f == fsWedged then funcRefuse p f op s
  else if op = 1 then enableFunc p f s else disableFunc p f s

theorem funcOp_held (hp : portReady s p = true) (hh : s.ks.holder = some p) (hop : op = 1 ∨ op = 2) :
    funcOp p f op s = accessed p A.dkFuncCtrl 0 (funcTaken p f.toNat op s).2 (funcTaken p f.toNat op s).1 := by
  obtain ⟨hfun, hfop⟩ := funcCtrl_fields f (op := op) (by omega)
  have hwrite : writeFuncCtrl p (BitVec.ofNat 32 (f.toNat + 2 ^ 28 * op)) s = funcTaken p f.toNat op s := by
    have hthere : ¬ (op ≠ 1 ∧ op ≠ 2) := by omega
    unfold writeFuncCtrl
    simp only [hfun, hfop, holds_holder hh, if_neg hthere, Bool.not_true, Bool.false_eq_true, if_false]
    rfl
  rw [funcOp, wrRow_ready hp, hwrite]

theorem funcTaken_absent {f : Nat} (h : fnPresent s f = false) : funcTaken p f op s = funcRefuse p f op s := by
  simp only [funcTaken, h, Bool.not_false, Bool.true_or, if_true]

theorem funcTaken_present {f : Nat} (h : fnPresent s f = true) (hst : fstate s f ≠ fsWedged) :
    funcTaken p f op s = if op = 1 then enableFunc p f s else disableFunc p f s := by
  simp only [funcTaken, h, beq_eq_false_iff_ne.2 hst, Bool.not_true, Bool.or_self, Bool.false_eq_true, if_false]

/-- An ENABLE that is taken, before the function's own state moves. -/
def enableTook (f : Nat) (s : State) : State :=
  onMg (fun m => { m with gulDue := m.gulDue.filter (· != f) }) (wn A.dkFuncCtrl (f + 2 ^ 28) s)

theorem enableTook_canonical {f : Nat} (hs : SmWf regReset s.regs) : SmWf regReset (enableTook f s).regs :=
  wn_canonical A.dkFuncCtrl (f + 2 ^ 28) hs

section Enable
variable {f : Nat}

theorem enableFunc_shut (hst : fstate s f = fsOff) (hshut : pairShut s (funcOf f) = true) :
    enableFunc p f s = (cwyRefuse p (cwyPair f) s, stIgnored) := by
  simp [enableFunc, hst, hshut]

theorem enableFunc_refused (hst : fstate s f = fsOff) (hopen : pairShut s (funcOf f) = false) (hbad : enableBad p s (funcOf f) = true) :
    enableFunc p f s = funcRefuse p f 1 s := by
  simp [enableFunc, hst, hopen, hbad]

theorem enableFunc_off (hst : fstate s f = fsOff) (hopen : pairShut s (funcOf f) = false) (hgood : enableBad p s (funcOf f) = false) :
    enableFunc p f s = (beginStart (funcOf f) (setFstate f fsStart (enableTook f s)), stOk) := by
  simp [enableFunc, hst, hopen, hgood, enableTook, enterStart]

theorem enableFunc_drain (hst : fstate s f = fsDrain) (hopen : pairShut s (funcOf f) = false)
    (hgood : enableBad p s (funcOf f) = false) : enableFunc p f s = (setPending f true (enableTook f s), stOk) := by
  have hne : ¬ fsDrain = fsOff := by decide
  simp [enableFunc, hst, hopen, hgood, enableTook, hne]

theorem disableFunc_refused (hst : fstate s f = fsOn) (hbad : disableBad p s (funcOf f) = true) :
    disableFunc p f s = funcRefuse p f 2 s := by
  have hne : ¬ fsOn = fsDrain := by decide
  simp [disableFunc, hst, hbad, hne]

theorem disableFunc_on (hst : fstate s f = fsOn) (hgood : disableBad p s (funcOf f) = false) : disableFunc p f s =
    (beginDrain true (funcOf f) (setFstate f fsDrain (wn A.dkFuncCtrl (f + 2 * 2 ^ 28) s)), stOk) := by
  have hne : ¬ fsOn = fsDrain := by decide
  simp [disableFunc, hst, hgood, hne]

end Enable

end FuncCtrl

/-! ### The ends of START and DRAIN, and their limits -/

section Ends
variable {s : State} {k : Fin 354}

theorem exec_limitOverrun_drain (h : fstate s k = fsDrain) : exec (.limitOverrun k) s = .next (wedge k fsDrain s) := by
  have hnot : ¬ fsDrain = fsStart := by decide
  show execLimitOverrun k s = _
  unfold execLimitOverrun
  simp only [h, or_true, if_true, if_neg hnot]
  split <;> rfl

theorem exec_limitOverrun_start (h : fstate s k = fsStart) (hgul : ∀ n, funcOf k ≠ .gul n) :
    exec (.limitOverrun k) s = .next (wedge k fsStart s) := by
  show execLimitOverrun k s = _
  unfold execLimitOverrun
  simp only [h, true_or, if_true]

/-- A port without light is OFF, and due to be enabled again. -/
theorem noLight_eq (f : Nat) (s : State) :
    noLight f s = { enterState f fsOff s with mg := { s.mg with gulDue := s.mg.gulDue ++ [f] } } := by
  have hmg : (enterState f fsOff s).mg = s.mg := raiseEvent_mg _ _
  simp only [noLight, onMg, hmg]

theorem funcOf_fnGul (g : GPort) : funcOf (fnGul g) = .gul g := by
  fin_cases g <;> rfl

theorem exec_limitOverrun_gulane {g : GPort} (hk : k.val = fnGul g) (h : fstate s k = fsStart) :
    exec (.limitOverrun k) s = .next (noLight k s) := by
  have hfunc : funcOf k = .gul g := hk ▸ funcOf_fnGul g
  show execLimitOverrun k s = _
  unfold execLimitOverrun
  simp only [h, hfunc, true_or, if_true]

theorem exec_gulaneReenable_due {g : GPort} (hk : k.val = fnGul g) (hdue : s.mg.gulDue = [k.val]) (h : fstate s k = fsOff) :
    exec (.gulaneReenable g) s = .next (enterStart k { s with mg := { s.mg with gulDue := [] } }) := by
  have hcontains : s.mg.gulDue.contains k.val = true := by simp [hdue]
  have hleft : s.mg.gulDue.filter (· != k.val) = [] := by simp [hdue]
  have hoff : fstate { s with mg := { s.mg with gulDue := [] } } k = fsOff := h
  show execGulaneReenable g s = _
  unfold execGulaneReenable
  rw [← hk]
  simp only [hcontains, onMg, hleft, hoff, if_true]

end Ends

end Sys2Proof.Machine
end

section
/-! SUPPORT. Spare admission: the operations on a spare, and its watchdog (17 R443, R444). -/

namespace Sys2Proof.Machine
open Sys2Proof

section Spare
variable {s : State} {p : GPort}

/-- What the holder's write of DK_SPARE_CTRL does. -/
def spareTaken (op : Nat) (s : State) : State × Nat :=
  if op = 1 ∧ spareState s = spNone ∧ imgState s = imActive then (setSpare spStandby (wn A.dkSpareCtrl op s), stOk)
  else if op = 2 ∧ spareState s = spStandby then
    (checkPartner (setSpare spLoading (wf A.dkSpareStatus 15 0 (rf s A.dkSpareJob 15 0) (wn A.dkSpareCtrl op s))), stOk)
  else if op = 3 ∧ spareState s = spLoading then (setSpare spReady (wn A.dkSpareCtrl op s), stOk)
  else if op = 4 ∧ spareState s = spReady then (wn A.dkStepCtrl 1 (setSpare spArmed (wn A.dkSpareCtrl op s)), stOk)
  else if op = 5 ∧ spareState s = spLoading then (spareAbort 1 (wn A.dkSpareCtrl op s), stOk)
  else if op = 5 ∧ (spareState s = spReady ∨ spareState s = spArmed) then
    (spareAbort 1 (wn A.dkStepCtrl 0 (wn A.dkSpareCtrl op s)), stOk)
  else if op = 6 ∧ (spareState s = spStandby ∨ spareState s = spAdmitted) then (setSpare spNone (wn A.dkSpareCtrl op s), stOk)
  else (s, stIgnored)

theorem spareOp_held {op : Nat} (hp : portReady s p = true) (hh : s.ks.holder = some p) (hop : op < 16) :
    spareOp p op s = accessed p A.dkSpareCtrl 0 (spareTaken op s).2 (spareTaken op s).1 := by
  have hfield : fget (BitVec.ofNat 32 op) 3 0 = op := by
    simp only [fget, bits, BitVec.toNat_ofNat]
    omega
  have hwrite : writeSpareCtrl p (BitVec.ofNat 32 op) s = spareTaken op s := by
    unfold writeSpareCtrl
    simp only [hfield, holds_holder hh, Bool.not_true, Bool.false_eq_true, if_false]
    rfl
  rw [spareOp, wrRow_ready hp, hwrite]

theorem spareState_setSpare {st : Nat} (hs : SmWf regReset s.regs) (hst : st < 16) : spareState (setSpare st s) = st :=
  (rf_wf_same _ 31 28 st s hs (by decide) (by decide)).trans (Nat.mod_eq_of_lt hst)

/-- A spare that aborts stands empty, with its cause. -/
theorem spareAbort_reads {cause : Nat} (hs : SmWf regReset s.regs) (hcause : cause < 16) :
    spareAbort cause s = { s with regs := (spareAbort cause s).regs, out := (spareAbort cause s).out } ∧
    spareState (spareAbort cause s) = spStandby ∧ rf (spareAbort cause s) A.dkSpareStatus 27 24 = cause ∧
    rd (spareAbort cause s) A.dkStepCtrl = rd s A.dkStepCtrl := by
  have hset := wf_canonical A.dkSpareStatus 31 28 spStandby hs
  have hcaused := wf_canonical A.dkSpareStatus 27 24 cause hset
  have hevent : ∀ a, a < 0x1000 → rd (spareAbort cause s) a = rd (wf A.dkSpareStatus 27 24 cause (setSpare spStandby s)) a :=
    fun a ha => rd_raiseEvent_beside _ hcaused (by simp only [eventWord, A.evtLog]; omega)
  refine ⟨?_, ?_, ?_, ?_⟩
  · unfold spareAbort
    rw [raiseEvent_frame]
    rfl
  · exact ((rf_congr (hevent A.dkSpareStatus (by decide)) 31 28).trans
      (rf_wf_above A.dkSpareStatus cause hset (by decide) (by decide) (by decide))).trans (spareState_setSpare hs (by decide))
  · exact ((rf_congr (hevent A.dkSpareStatus (by decide)) 27 24).trans
      (rf_wf_same A.dkSpareStatus 27 24 cause _ hset (by decide) (by decide))).trans (Nat.mod_eq_of_lt hcause)
  · rw [hevent A.dkStepCtrl (by decide)]
    exact (rd_wf_other 27 24 cause hset (by decide)).trans (rd_wf_other 31 28 spStandby hs (by decide))

theorem rf_spareJob_setSpare {j st : Nat} (hs : SmWf regReset s.regs) (hj : j < 2 ^ 16) :
    rf (setSpare st (wf A.dkSpareStatus 15 0 j s)) A.dkSpareStatus 15 0 = j := by
  rw [setSpare, rf_wf_below _ _ (wf_canonical _ _ _ _ hs) (by decide) (by decide) (by decide) (by decide),
    rf_wf_same _ _ _ _ _ hs (by decide) (by decide), Nat.mod_eq_of_lt hj]

theorem exec_spareLoadWatchdog_loading (h : spareState s = spLoading) : exec .spareLoadWatchdog s = .next (spareAbort 3 s) := by
  show execSpareLoadWatchdog s = _
  rw [execSpareLoadWatchdog, if_pos h]

/-- An operation that no edge of Table 17.9 has from ARMED leaves the spare. -/
theorem spareTaken_armed {op : Nat} (h : spareState s = spArmed) (hop : op ≠ 5) : spareTaken op s = (s, stIgnored) := by
  simp [spareTaken, h, hop, spNone, spStandby, spLoading, spReady, spArmed, spAdmitted]

end Spare

/-! ### The statement -/

section
variable {s : State} {p : GPort}

/-- The first part of O40: ENABLE and DISABLE by the holder. -/
theorem exec_enable (f : BitVec 9) (hp : portReady s p = true) (hh : s.ks.holder = some p) : exec (.enable p f) s =
    .next (accessed p A.dkFuncCtrl 0 (funcTaken p f.toNat 1 s).2 (funcTaken p f.toNat 1 s).1) :=
  congrArg _ (funcOp_held hp hh (.inl rfl))

theorem exec_disable (f : BitVec 9) (hp : portReady s p = true) (hh : s.ks.holder = some p) : exec (.disable p f) s =
    .next (accessed p A.dkFuncCtrl 0 (funcTaken p f.toNat 2 s).2 (funcTaken p f.toNat 2 s).1) :=
  congrArg _ (funcOp_held hp hh (.inr rfl))

end

/-- ENABLE and DISABLE by the holder, in each of their cases. -/
theorem funcCtrl_cases {s : State} {p : GPort} (f : BitVec 9) (hp : portReady s p = true) (hh : s.ks.holder = some p)
    (hs : SmWf regReset s.regs) (hthere : fnPresent s f.toNat = true) :
    (fstate s f.toNat = fsOff → enableBad p s (funcOf f.toNat) = false → pairShut s (funcOf f.toNat) = false →
      ∃ t, exec (.enable p f) s = .next (accessed p A.dkFuncCtrl 0 stOk (beginStart (funcOf f.toNat) t)) ∧
        fstate t f.toNat = fsStart ∧
        t = { s with regs := t.regs, mg := { s.mg with gulDue := s.mg.gulDue.filter (· != f.toNat) } }) ∧
    (fstate s f.toNat = fsDrain → enableBad p s (funcOf f.toNat) = false → pairShut s (funcOf f.toNat) = false →
      ∃ t, exec (.enable p f) s = .next (accessed p A.dkFuncCtrl 0 stOk t) ∧ fstate t f.toNat = fsDrain ∧
        funcPending t f.toNat = true ∧
        t = { s with regs := t.regs, mg := { s.mg with gulDue := s.mg.gulDue.filter (· != f.toNat) } }) ∧
    (fstate s f.toNat = fsOn → disableBad p s (funcOf f.toNat) = false →
      ∃ t, exec (.disable p f) s = .next (accessed p A.dkFuncCtrl 0 stOk (beginDrain true (funcOf f.toNat) t)) ∧
        fstate t f.toNat = fsDrain ∧ t = { s with regs := t.regs }) := by
  have htook := enableTook_canonical (f := f.toNat) hs
  refine ⟨fun hst hgood hopen => ⟨setFstate f.toNat fsStart (enableTook f.toNat s), ?_, fstate_setFstate htook (by decide), rfl⟩,
    fun hst hgood hopen => ⟨setPending f.toNat true (enableTook f.toNat s), ?_, ?_, funcPending_setPending htook, rfl⟩,
    fun hst hgood => ⟨setFstate f.toNat fsDrain (wn A.dkFuncCtrl (f.toNat + 2 * 2 ^ 28) s), ?_,
      fstate_setFstate (wn_canonical _ _ hs) (by decide), rfl⟩⟩
  · rw [exec_enable f hp hh, funcTaken_present hthere (by rw [hst]; decide), if_pos rfl, enableFunc_off hst hopen hgood]
  · rw [exec_enable f hp hh, funcTaken_present hthere (by rw [hst]; decide), if_pos rfl, enableFunc_drain hst hopen hgood]
  · rw [fstate_setPending true htook]
    exact (fstate_took (f.toNat + 2 ^ 28) hs).trans hst
  · rw [exec_disable f hp hh, funcTaken_present hthere (by rw [hst]; decide), if_neg (by decide), disableFunc_on hst hgood]

/-- An operation on a spare by the holder. -/
theorem exec_spare_rows {s : State} {p : GPort} (hp : portReady s p = true) (hh : s.ks.holder = some p) :
    exec (.standby p) s = .next (accessed p A.dkSpareCtrl 0 (spareTaken 1 s).2 (spareTaken 1 s).1) ∧
    exec (.beginLoad p) s = .next (accessed p A.dkSpareCtrl 0 (spareTaken 2 s).2 (spareTaken 2 s).1) ∧
    exec (.loaded p) s = .next (accessed p A.dkSpareCtrl 0 (spareTaken 3 s).2 (spareTaken 3 s).1) ∧
    exec (.arm p) s = .next (accessed p A.dkSpareCtrl 0 (spareTaken 4 s).2 (spareTaken 4 s).1) ∧
    exec (.abort p) s = .next (accessed p A.dkSpareCtrl 0 (spareTaken 5 s).2 (spareTaken 5 s).1) ∧
    exec (.spareRelease p) s = .next (accessed p A.dkSpareCtrl 0 (spareTaken 6 s).2 (spareTaken 6 s).1) :=
  ⟨congrArg _ (spareOp_held hp hh (by decide)), congrArg _ (spareOp_held hp hh (by decide)),
    congrArg _ (spareOp_held hp hh (by decide)), congrArg _ (spareOp_held hp hh (by decide)),
    congrArg _ (spareOp_held hp hh (by decide)), congrArg _ (spareOp_held hp hh (by decide))⟩

/-- The edges of Table 17.9 that O40 names, as what the holder's write does. -/
theorem spareTaken_cases (s : State) :
    (spareState s = spNone → imgState s = imActive → spareTaken 1 s = (setSpare spStandby (wn A.dkSpareCtrl 1 s), stOk)) ∧
    (spareState s = spStandby → spareTaken 2 s = (checkPartner (setSpare spLoading
      (wf A.dkSpareStatus 15 0 (rf s A.dkSpareJob 15 0) (wn A.dkSpareCtrl 2 s))), stOk)) ∧
    (spareState s = spLoading → spareTaken 3 s = (setSpare spReady (wn A.dkSpareCtrl 3 s), stOk)) ∧
    (spareState s = spReady → spareTaken 4 s = (wn A.dkStepCtrl 1 (setSpare spArmed (wn A.dkSpareCtrl 4 s)), stOk)) ∧
    (spareState s = spReady ∨ spareState s = spArmed →
      spareTaken 5 s = (spareAbort 1 (wn A.dkStepCtrl 0 (wn A.dkSpareCtrl 5 s)), stOk)) ∧
    (spareState s = spAdmitted → spareTaken 6 s = (setSpare spNone (wn A.dkSpareCtrl 6 s), stOk)) := by
  refine ⟨fun h hact => ?_, fun h => ?_, fun h => ?_, fun h => ?_, fun h => ?_, fun h => ?_⟩
  · simp [spareTaken, h, hact]
  · simp [spareTaken, h]
  · simp [spareTaken, h]
  · simp [spareTaken, h]
  · have hnot : ¬ spareState s = spLoading := by rcases h with h | h <;> rw [h] <;> decide
    simp [spareTaken, h, hnot]
  · simp [spareTaken, h]

/-- A LOADING spare whose partner is there goes on. -/
theorem checkPartner_there {s : State} (h : partnerGone s = false) : checkPartner s = s := by
  simp [checkPartner, h]

/-- Settles O40: DK_FUNC_CTRL and the ends of START and DRAIN, and the edges of a spare's states. -/
theorem functionsAndSpares : Obligations.FunctionsAndSpares := by
  unfold Obligations.FunctionsAndSpares
  refine ⟨fun s p f hp hh hs => ⟨fun hthere => ?_, fun habsent => ?_, fun k => ?_⟩, fun s p hp hh hs => ?_⟩
  · obtain ⟨hoff, hdrain, hon⟩ := funcCtrl_cases f hp hh hs hthere
    refine ⟨hoff, hdrain, hon, fun hst hshut => ?_, fun hst hbad hopen => ?_, fun hst hbad => ?_⟩
    · rw [exec_enable f hp hh, funcTaken_present hthere (by rw [hst]; decide), if_pos rfl, enableFunc_shut hst hshut]
    · rw [exec_enable f hp hh, funcTaken_present hthere (by rw [hst]; decide), if_pos rfl, enableFunc_refused hst hopen hbad]
      rfl
    · rw [exec_disable f hp hh, funcTaken_present hthere (by rw [hst]; decide), if_neg (by decide), disableFunc_refused hst hbad]
      rfl
  · rw [exec_enable f hp hh, exec_disable f hp hh, funcTaken_absent habsent, funcTaken_absent habsent]
    exact ⟨rfl, rfl⟩
  · refine ⟨fun hst hready => if_pos ⟨hst, hready⟩, fun hst hready hpend => ?_, fun hst hready hpend => ?_,
      fun hopen => if_neg (by rw [hopen]; exact Bool.false_ne_true), exec_limitOverrun_drain,
      fun hst hgul => ⟨_, exec_limitOverrun_start hst hgul, fstate_wedge k.isLt hs⟩,
      fun g hk hst => (exec_limitOverrun_gulane hk hst).trans (congrArg _ (noLight_eq k s)), fun g hk hdue hst => exec_gulaneReenable_due hk hdue hst⟩
    · refine (if_pos ⟨hst, hready⟩).trans ?_
      rw [hpend]
      rfl
    · refine (if_pos ⟨hst, hready⟩).trans ?_
      rw [hpend]
      rfl
  · obtain ⟨hstandby, hbegin, hloaded, harm, habort, hrelease⟩ := exec_spare_rows hp hh
    obtain ⟨tstandby, tbegin, tloaded, tarm, tabort, trelease⟩ := spareTaken_cases s
    have htook := fun v => wn_canonical A.dkSpareCtrl v hs
    refine ⟨fun hst hact => ?_, fun hst hthere => ?_, fun hst => ?_, fun hst => ?_, fun hst => ?_, fun hst => ?_, fun hst => ?_,
      fun hst => ?_⟩
    · exact ⟨_, by rw [hstandby, tstandby hst hact], rfl, spareState_setSpare (htook 1) (by decide)⟩
    · have hjob : rf s A.dkSpareJob 15 0 < 2 ^ 16 := Nat.mod_lt _ (by decide)
      have hcopied := wf_canonical A.dkSpareStatus 15 0 (rf s A.dkSpareJob 15 0) (htook 2)
      exact ⟨_, by rw [hbegin, tbegin hst, checkPartner_there hthere], rfl, spareState_setSpare hcopied (by decide),
        rf_spareJob_setSpare (htook 2) hjob⟩
    · exact ⟨_, by rw [hloaded, tloaded hst], rfl, spareState_setSpare (htook 3) (by decide)⟩
    · have hset := wf_canonical A.dkSpareStatus 31 28 spArmed (htook 4)
      have hword : rn (wn A.dkStepCtrl 1 (setSpare spArmed (wn A.dkSpareCtrl 4 s))) A.dkStepCtrl = 1 := rn_wn_same _ hset (by decide)
      refine ⟨_, by rw [harm, tarm hst], rfl, ?_, ?_⟩
      · exact (rf_congr (rd_wn_other 1 hset (by decide)) 31 28).trans (spareState_setSpare (htook 4) (by decide))
      · rw [rbit, rf, fget, show (rd (wn A.dkStepCtrl 1 (setSpare spArmed (wn A.dkSpareCtrl 4 s))) A.dkStepCtrl).toNat = 1 from hword]
        rfl
    · have hstep := wn_canonical A.dkStepCtrl 0 (htook 5)
      obtain ⟨hframe, hstate, hcause, hword⟩ := spareAbort_reads (cause := 1) hstep (by decide)
      refine ⟨_, by rw [habort, tabort hst], ?_, hstate, hcause, ?_⟩
      · rw [hframe]
        rfl
      · have hzero : rn (wn A.dkStepCtrl 0 (wn A.dkSpareCtrl 5 s)) A.dkStepCtrl = 0 := rn_wn_same _ (htook 5) (by decide)
        rw [rbit_congr hword, rbit, rf, fget, show (rd (wn A.dkStepCtrl 0 (wn A.dkSpareCtrl 5 s)) A.dkStepCtrl).toNat = 0 from hzero]
        rfl
    · exact ⟨_, by rw [hrelease, trelease hst], rfl, spareState_setSpare (htook 6) (by decide)⟩
    · obtain ⟨hframe, hstate, hcause, -⟩ := spareAbort_reads (cause := 3) hs (by decide)
      exact ⟨_, exec_spareLoadWatchdog_loading hst, hframe, hstate, hcause⟩
    · rw [hstandby, hbegin, hloaded, harm, hrelease, spareTaken_armed hst (by decide), spareTaken_armed hst (by decide),
        spareTaken_armed hst (by decide), spareTaken_armed hst (by decide), spareTaken_armed hst (by decide)]
      exact ⟨rfl, rfl, rfl, rfl, rfl⟩

end Sys2Proof.Machine
end

section
/-! SUPPORT. No command stops the machine: every row of exec answers a next state in every state. -/

namespace Sys2Proof.Machine
open Sys2Proof

/-- The outcome is a next state. -/
def Answers (o : Host.Outcome State Fault Refusal) : Prop := ∃ t, o = .next t

theorem Answers.next (t : State) : Answers (.next t) := ⟨t, rfl⟩

/-- Each row of exec is a next state at once, acts where a condition or what it looks for allows it, or names its parts first; each
of its branches is a next state (log entry 59: where a row's condition does not hold, the state stays). -/
theorem exec_answers (c : Instr) (s : State) : Answers (exec c s) := by
  cases c with
  | resetLAssert | fullReset | inputOutOfRange | gulaneFrame | read | write | doorbell | latchedRead | renew | release |
  deviceReset | die1RecordUpdate | shadowWrite | commit | discard | imgLoad | imgAbort | imgDisarm | flip | retire | put |
  sendPacket | getReq | getRsp | ack | nack | evictNotice | cwyCtrlOpen | bpmMetaBaseWrite | toRing | toList | bpmReturn |
  nanClear | native | anchored | fast | scanOffset | inPkt | part | outPkt | progLoad | progClear | coll | ptpMessage |
  commandDequeue | sync | matmul | matmulSend | convert | elemwise | softmax | norm | lreduce | load | loadRowSelection |
  loadListin | store | send | get | srOpen | srClose | recvOneshot | recvStanding | recvExpose | recvCancel | lda | ldb | rdacc
  | vset | zacc | residentSwitchStart | pierFlagWrite | breakResume | breakStep | traceEnable | optAccum | kvOpen | kvClose |
  kvPut | kvGet | kvDrop | kvPin | dispatch | combine | agtDigest | agtQuiesce | agtResume | agtCancel | refresh | retrain |
  repair | memCancel | tgStart | referenceReturn | forceEnd | dieTempSample | clearCons | sendHint | hintHoldEnd | loadFw |
  enroll | attestationGo | enable | disable | standby | beginLoad | loaded | arm | abort | spareRelease | spareLoadWatchdog |
  kick | fwWatchdog | ctxResume | mgmtId | seqFault | seqState | deviceId | moduleSn | bypass | idcode | samplePreload | extest
  | nop | add | min | max | mul | addi | muli | movi | movp | getid | cmp | cmpi | plog | sel | cvt | gather | scatter |
  fetchadd | hist | count | prev | sort | topk | filter | drop | temit | hpart | emit =>
    exact .next _
  | resetEnd | viaductTraining | bootRom | housekeepingStart | sequencerStart | railInWindow | pllLock | sequencerFault |
  seqLatchClear | viaductFlit | holdOffEnd | protCheckEnd | protEpoch | auditPass | validationEnd | commitEnd | sampleTick |
  throttleWindow | linkPacketSend | trainingPhasePass | laneTrainTimeout | alignmentLost | fecDegrade | cwyMotionEnd |
  driveFault | bpmSwitchEnd | bpmRequest | exponent | result | endPkt | timestampTimer | stackTempRead | relockEnd |
  controlPeriod | fwCheckEnd | funcStartEnd | funcDrainEnd =>
    dsimp only [exec, execResetEnd, execViaductTraining, execBootRom, execHousekeepingStart, execSequencerStart, execRailInWindow, execPllLock,
      execSequencerFault, execSeqLatchClear, execViaductFlit, execHoldOffEnd, execProtCheckEnd, execProtEpoch, execAuditPass,
      execValidationEnd, execCommitEnd, execSampleTick, execThrottleWindow, execLinkPacketSend, execTrainingPhasePass,
      execLaneTrainTimeout, execAlignmentLost, execFecDegrade, execCwyMotionEnd, execDriveFault, execBpmSwitchEnd,
      execBpmRequest, execExponent, execResult, execEndPkt, execTimestampTimer, execStackTempRead, execRelockEnd,
      execControlPeriod, execFwCheckEnd, execFuncStartEnd, execFuncDrainEnd]
    repeat' split
    all_goals exact .next _
  | leaseExpire | resequencerRelease | ageDrop | credit | bpmWaitingServed | gatheredStage | progLoadEnd | collWatchdog |
  rseWatchdog | barrierArrive | barrierRelease | barrierReleaseAck | pierCopyEnd | rivetRetireApply | timestampReq |
  timestampRsp | hint | getWatchdog | tightrope | traceRecordWrite | optStep | agtSendState | svcRequestComplete | repairCopyEnd
  | enrollEnd | attestationDone =>
    dsimp only [exec, execLeaseExpire, execResequencerRelease, execAgeDrop, execCredit, execBpmWaitingServed, execGatheredStage,
      execProgLoadEnd, execCollWatchdog, execRseWatchdog, execBarrierArrive, execBarrierRelease, execBarrierReleaseAck,
      execPierCopyEnd, execRivetRetireApply, execTimestampReq, execTimestampRsp, execHint, execGetWatchdog, execTightrope,
      execTraceRecordWrite, execOptStep, execAgtSendState, execSvcRequestComplete, execRepairCopyEnd, execEnrollEnd,
      execAttestationDone]
    repeat' split
    all_goals exact .next _
  | pwrEnDeassert | thermalTrip | registerWrite | rcRead | ksAcquire | packetArrive | egressStart | ackTimer | retransmitTimeout
  | barrierResend | barrierFire | wqEntry | wqEntryComplete | taskStart | taskEnd | queuePush | commandComplete | microprogram |
  setx | addx | stc | mac | vop | vpopa | vpush | loop | uprogEnd | ctxSwitch | scrub | retrainEnd | bwstepWindow | tgDone |
  referenceLost | railSample | rampEnd | turnstilePeriod | limitOverrun | gulaneReenable | sentinelVector | sentinelRetest |
  retireRequest | vin | iinA | iinB | housekeepingSupplyOff | resendAfterRto | egressPacketEnd =>
    dsimp only [exec, execPwrEnDeassert, execThermalTrip, execRegisterWrite, execRcRead, execKsAcquire, execPacketArrive, execEgressStart,
      execAckTimer, execRetransmitTimeout, execBarrierResend, execBarrierFire, execWqEntry, execWqEntryComplete, execTaskStart,
      execTaskEnd, execQueuePush, execCommandComplete, execMicroprogram, execSetx, execAddx, execStc, execMac, execVop,
      execVpopa, execVpush, execLoop, execUprogEnd, execCtxSwitch, execScrub, execRetrainEnd, execBwstepWindow, execTgDone,
      execReferenceLost, execRailSample, execRampEnd, execTurnstilePeriod, execLimitOverrun, execGulaneReenable,
      execSentinelVector, execSentinelRetest, execRetireRequest, execVin, execIinA, execIinB, execHousekeepingSupplyOff,
      execResendAfterRto, execEgressPacketEnd]
    repeat' split
    all_goals exact .next _

/-- Settles O2: every row answers. -/
theorem noCommandStops : Obligations.NoCommandStops := exec_answers

end Sys2Proof.Machine
end

section
/-! SUPPORT. Microprograms (11 R312-R316): what each word of a stream does where its queue is ready, and what stops a program. -/

namespace Sys2Proof.Machine
open Sys2Proof

/-! ### A girder after a change -/

/-- What a map reads at a key just set, to anything but the default. -/
theorem smGet_put_written {β : Type} [DecidableEq β] {d x : β} (hx : x ≠ d) (a : Nat) :
    ∀ m : List (Nat × β), smGet d (smPut d m a x) a = x
  | [] => by simp [smPut, hx, smGet]
  | (k, v) :: m => by
    unfold smPut
    by_cases hlt : a < k
    · simp [hlt, hx, smGet]
    · by_cases heq : a = k
      · simp [heq, hx, smGet]
      · simp only [hlt, heq, if_false, smGet]
        exact smGet_put_written hx a m

/-- A girder whose change does not reset it has the change. -/
theorem getGird_onGird {s : State} {p g : Nat} {f : Girder → Girder} (h : f (getGird s p g) ≠ Girder.reset) :
    getGird (onGird p g f s) p g = f (getGird s p g) := by
  have hgird := smGet_put_written h g (getPier s p).girders
  have hpier : { getPier s p with girders := smPut Girder.reset (getPier s p).girders g (f (getGird s p g)) } ≠ Pier.reset := by
    intro e
    have hlist : smPut Girder.reset (getPier s p).girders g (f (getGird s p g)) = [] := congrArg Pier.girders e
    rw [hlist] at hgird
    exact h hgird.symm
  have hput : getPier (onGird p g f s) p =
      { getPier s p with girders := smPut Girder.reset (getPier s p).girders g (f (getGird s p g)) } :=
    smGet_put_written hpier p s.pr.piers
  exact (congrArg (fun q : Pier => smGet Girder.reset q.girders g) hput).trans hgird

/-- A girder with a word to issue runs a command. -/
theorem cmd_of_nextWord {s : State} {p g op : Nat} {side : Bool} {r : RunCmd} {w : GWord} (h : NextWord s p g side op r w) :
    (getGird s p g).cmd ≠ none := by
  unfold NextWord nextWord at h
  split at h
  · cases h
  · dsimp only at h
    split at h
    · next hcmd => simp [hcmd.1]
    · cases h

/-! ### The command -/

theorem exec_microprogram_begins {s : State} {p : PierNo} {g : GirdNo} {r : RunCmd} {prog : List Byte}
    (hrun : progCmd s p g = some r) (hnew : (getGird s p g).cmd ≠ some (r.ctx, r.seq))
    (hprog : gdProgram (sectV s secGirderprog r.ver) (progSlot r.bytes) = some prog)
    (hgood : firstFault (cstatFault r.bytes ++ progFaults (gpExecute prog) r.bytes) = none) : exec (.microprogram p g) s =
      .next (tookFree (onGird p g (fun _ => { Girder.reset with
        cmd := some (r.ctx, r.seq), acc := streamOf (gpAccess prog), exe := streamOf (gpExecute prog), base := s.free }) s)) := by
  show execMicroprogram p g s = _
  unfold execMicroprogram
  simp only [hrun, hnew, hprog, hgood, if_false]

/-! ### Words of the access stream -/

section Access
variable {s : State} {p : PierNo} {g : GirdNo} {r : RunCmd} {w : GWord}

theorem exec_setx_next (h : NextWord s p g false goSetx r w) : exec (.setx p g) s =
    .next (advanceStream p g false (onGird p g (setX w.fa (if w.fd = 0 then w.imm else progArg r w.imm)) s)) := by
  show execSetx p g s = _
  unfold execSetx
  simp only [h]

theorem exec_addx_next (h : NextWord s p g false goAddx r w) : exec (.addx p g) s =
    .next (advanceStream p g false (onGird p g (fun q => setX w.fa (getX q w.fb + w.imm) q) s)) := by
  show execAddx p g s = _
  unfold execAddx
  simp only [h]

section Loads
variable {op n queue : Nat} {len : Girder → Nat} {push : List Byte → Girder → Girder} (h : NextWord s p g false op r w)
include h

/-- A load with room in its queue brings the bytes, and its address rises. -/
theorem loadWord_brings (hroom : len (getGird s p g) < 32) (hlocal : localOk g (getX (getGird s p g) w.fa) n = true) :
    loadWord p g op n queue len push none s =
      stepX p g w (onGird p g (push (ctxLocRd s r.ctx p (getX (getGird s p g) w.fa) n)) s) := by
  unfold loadWord
  simp only [h, Nat.not_le.mpr hroom, hlocal, if_false, Bool.not_true, Bool.false_eq_true]

/-- A load whose queue is full waits. -/
theorem loadWord_waits (hfull : 32 ≤ len (getGird s p g)) (hgoes : (getGird s p g).exe.ended = false) :
    loadWord p g op n queue len push none s = s := by
  unfold loadWord
  simp only [h, hfull, if_true, queueWait, hgoes, Bool.false_eq_true, if_false]

end Loads

theorem exec_stc_takes {v : List Nat} {rest : List (List Nat)} (h : NextWord s p g false goStc r w)
    (hqueue : (getGird s p g).qc = v :: rest)
    (hlocal : localOk g (getX (getGird s p g) w.fa) (rowBytesC (cmFc r.bytes) 16) = true) :
    let c := convertRow (zrCode (cmFc r.bytes)) (cmNumctl r.bytes) (ctxJob s r.ctx) (progArg r 11) r.seed (getGird s p g).stored
      (v.map val32)
    exec (.stc p g) s = .next (stepX p g w (onGird p g (fun q => { q with qc := rest, stored := q.stored + 16 })
      (girderNans p g r c.2.2 (putRow r.ctx p (getX (getGird s p g) w.fa) (cmFc r.bytes) c.1 c.2.1 s)))) := by
  show execStc p g s = _
  unfold execStc
  simp only [h, hqueue, hlocal, Bool.not_true, Bool.false_eq_true, if_false]

end Access

/-! ### Words of the execute stream -/

section Execute
variable {s : State} {p : PierNo} {g : GirdNo} {r : RunCmd} {w : GWord} {op stall : Nat}

/-- The state after a word of the execute stream has issued, its effect being that of the state u. -/
def issued (p g : Nat) (r : RunCmd) (w : GWord) (cycle : Nat) (u : State) : State :=
  advanceStream p g true (onGird p g (wordIssued r.bytes w cycle) u)

/-- A word in time has its effect. -/
theorem issueExe_onTime (h : NextWord s p g true op r w)
    (htime : timingFault (getGird s p g) r.bytes w ((getGird s p g).cycle + stall) = none)
    (f : RunCmd → GWord → Girder → State → State) : issueExe p g op stall f s =
      issued p g r w ((getGird s p g).cycle + stall)
        (f r w { getGird s p g with cycle := (getGird s p g).cycle + stall } s) := by
  unfold issueExe
  simp only [h, htime, issued]

/-- A word too early, or whose write lands with another, stops the program. -/
theorem issueExe_mistimed {code d : Nat} (h : NextWord s p g true op r w)
    (htime : timingFault (getGird s p g) r.bytes w ((getGird s p g).cycle + stall) = some (code, d))
    (f : RunCmd → GWord → Girder → State → State) : issueExe p g op stall f s = stopFault p g r code d s := by
  unfold issueExe
  simp only [h, htime]

/-- A MAC waits for the queue that has nothing. -/
theorem exec_mac_waits (h : NextWord s p g true goMac r w) (hnone : (getGird s p g).qa = [] ∨ (getGird s p g).qb = [])
    (hgoes : (getGird s p g).acc.ended = false) : exec (.mac p g stall none) s = .next s := by
  show execMac p g stall none s = _
  unfold execMac
  simp only [h, queueWait, hgoes, Bool.false_eq_true, if_false]
  by_cases ha : (getGird s p g).qa = []
  · simp only [ha, if_true]
  · simp only [ha, hnone.resolve_left ha, if_true, if_false]

theorem exec_mac_issues (h : NextWord s p g true goMac r w) (ha : (getGird s p g).qa ≠ []) (hb : (getGird s p g).qb ≠ []) :
    exec (.mac p g stall none) s = .next (issueExe p g goMac stall (macWord p g) s) := by
  show execMac p g stall none s = _
  unfold execMac
  simp only [h, ha, hb, if_false]

theorem exec_vpopa_issues {a : List Byte} {rest : List (List Byte)} (h : NextWord s p g true goVpopa r w)
    (ha : (getGird s p g).qa = a :: rest) : exec (.vpopa p g stall) s = .next (issueExe p g goVpopa stall (fun _ w _ s =>
      onGird p g (fun q => setV w.fa (unpackElems fcFp32 a 16) { q with qa := rest }) s) s) := by
  show execVpopa p g stall s = _
  unfold execVpopa
  simp only [h, ha]

theorem exec_vpush_issues (h : NextWord s p g true goVpush r w) (hroom : (getGird s p g).qc.length < 32) :
    exec (.vpush p g stall) s = .next (issueExe p g goVpush stall (fun _ w q s =>
      onGird p g (fun x => { x with qc := x.qc ++ [getV q w.fa] }) s) s) := by
  show execVpush p g stall s = _
  unfold execVpush
  simp only [h, Nat.not_le.mpr hroom, if_false]

/-! ### ZACC -/

theorem writeTile_cycle (k cycle : Nat) (v : List Nat) (q : Girder) : (writeTile k cycle v q).cycle = q.cycle := by
  unfold writeTile
  split <;> rfl

/-- The cycle in which zeros land is that of the issue, whichever tile of the mask is written. -/
theorem zeroTiles_cycle (tile stall : Nat) {cycle : Nat} : ∀ (rs : List Nat) {q : Girder}, q.cycle = cycle →
    rs.foldl (fun q v => writeTile (8 * v + tile) (cycle + stall + 1) (List.replicate 16 0) q) q =
      rs.foldl (fun q v => writeTile (8 * v + tile) (q.cycle + stall + 1) (List.replicate 16 0) q) q
  | [], _, _ => rfl
  | v :: rs, q, hq => by
    rw [List.foldl_cons, List.foldl_cons, hq]
    exact zeroTiles_cycle tile stall rs ((writeTile_cycle _ _ _ q).trans hq)

/-- A change of a girder is what it makes of the girder as it is. -/
theorem onGird_congr {p g : Nat} {f k : Girder → Girder} {s : State} (h : f (getGird s p g) = k (getGird s p g)) :
    onGird p g f s = onGird p g k s := by
  unfold getGird at h
  simp only [onGird, onPier, h]

theorem exec_zacc_clears (h : NextWord s p g true goZacc r w)
    (htime : timingFault (getGird s p g) r.bytes w ((getGird s p g).cycle + stall) = none) : exec (.zacc p g stall) s =
      .next (issued p g r w ((getGird s p g).cycle + stall) (onGird p g (fun q => (rivetsOf w.imm).foldl
        (fun q v => writeTile (8 * v + w.fa) (q.cycle + stall + 1) (List.replicate 16 0) q) q) s)) :=
  congrArg Host.Outcome.next ((issueExe_onTime h htime _).trans
    (congrArg (issued p g r w _) (onGird_congr (zeroTiles_cycle w.fa stall (rivetsOf w.imm) rfl))))

/-! ### VOP -/

/-- The third operand matters to fma alone. -/
theorem eopApply_two {e : Nat} (he : e ≠ 3) (x y z : Nat) : eopApply e x y z = eopApply e x y 0 := by
  unfold eopApply
  simp only [he, if_false]

/-- The lanes of a VOP of two operands, 16 of them at most. -/
theorem vopLanes_vals {e : Nat} (he : e ≠ 3) (x y z : List Nat) : (vopLanes e x y z).map (fun v => v.val) =
    ((x.zip y).take z.length).map fun v => eopApply e v.1 v.2 0 := by
  unfold vopLanes
  rw [List.map_map]
  refine List.ext_getElem (by simp [Nat.min_comm]) fun i _ _ => ?_
  simp only [List.getElem_map, List.getElem_zip, List.getElem_take, Function.comp_apply]
  exact eopApply_two he _ _ _

theorem girderNans_frame (p g : Nat) (r : RunCmd) (ps : List (Nat × Nat)) (s : State) : nanFrame s (girderNans p g r ps s) :=
  nanFrame_foldl (fun s n => nanProduced_frame n s) _ s

/-- The NaNs of a word write their records, and their element indexes are free values. -/
theorem wordNans_frame (p g : Nat) (r : RunCmd) (n : Nat) (s : State) : wordNans p g r n s = { s with
    regs := (wordNans p g r n s).regs, out := (wordNans p g r n s).out, trc := (wordNans p g r n s).trc,
    corr := (wordNans p g r n s).corr, free := (wordNans p g r n s).free } := by
  unfold wordNans
  split
  · rfl
  · rw [girderNans_frame]
    rfl

theorem exec_vop_effect (h : NextWord s p g true goVop r w)
    (htime : timingFault (getGird s p g) r.bytes w ((getGird s p g).cycle + stall) = none) (hfd : w.fd ≠ 3) :
    ∃ u, exec (.vop p g stall) s = .next (issued p g r w ((getGird s p g).cycle + stall) u) ∧
      u = { onGird p g (setV w.fa ((((getV (getGird s p g) w.fb).zip (getV (getGird s p g) w.fc)).take 16).map
        fun v => eopApply w.fd v.1 v.2 0)) s with
          regs := u.regs, out := u.out, trc := u.trc, corr := u.corr, free := u.free } := by
  refine ⟨_, congrArg Host.Outcome.next (issueExe_onTime h htime _), ?_⟩
  dsimp only
  rw [vopLanes_vals hfd, List.length_map, List.length_range, if_neg hfd]
  exact wordNans_frame _ _ _ _ _

end Execute

/-! ### LOOP and END -/

section Ends
variable {s : State} {p : PierNo} {g : GirdNo} {r : RunCmd} {w : GWord} {side : Bool}

/-- The stream of a girder's side has reached END. -/
def girdAtEnd (side : Bool) (q : Girder) : Girder :=
  if side then { q with exe := { q.exe with ended := true } } else { q with acc := { q.acc with ended := true } }

theorem exec_loop_next (stall : Nat) (h : NextWord s p g side goLoop r w) : exec (.loop p g side stall) s = .next
    (let u := onStream p g side (fun t => { t with
        pc := (enterLoop t.loops t.pc (w.fb + 1) (loopTimes r w)).1,
        loops := (enterLoop t.loops t.pc (w.fb + 1) (loopTimes r w)).2 }) s
     if side = true then onGird p g (fun q => { q with cycle := q.cycle + stall + 1 }) u else u) := by
  show execLoop p g side stall s = _
  unfold execLoop
  simp only [h]

theorem exec_uprogEnd_left {k : Nat} (h : NextWord s p g side goEnd r w) (hleft : leftQueue (getGird s p g) side = some k) :
    exec (.uprogEnd p g side) s = .next (stopFault p g r 0x0B05 k s) := by
  show execUprogEnd p g side s = _
  unfold execUprogEnd
  simp only [h, hleft]

theorem leftQueue_none {q : Girder} (ha : q.qa = []) (hb : q.qb = []) (hc : q.qc = []) (side : Bool) :
    leftQueue q side = none := by
  simp [leftQueue, ha, hb, hc]

/-- The girder once a stream of it has reached END. -/
theorem getGird_ends (hcmd : (getGird s p g).cmd ≠ none) :
    getGird (onStream p g side (fun t => { t with ended := true }) s) p g = girdAtEnd side (getGird s p g) := by
  refine getGird_onGird (f := girdAtEnd side) fun e => hcmd ?_
  have hreset := congrArg Girder.cmd e
  cases side <;> exact hreset

/-- Both streams have ended once one has, where the other had. -/
theorem girdAtEnd_done {q : Girder} (ha : q.qa = []) (hb : q.qb = []) (hc : q.qc = []) (side : Bool) :
    ((girdAtEnd side q).acc.ended && (girdAtEnd side q).exe.ended && (girdAtEnd side q).qa == [] &&
      (girdAtEnd side q).qb == [] && (girdAtEnd side q).qc == []) = (q.stream (!side)).ended := by
  cases side <;> simp [girdAtEnd, Girder.stream, ha, hb, hc]

theorem exec_uprogEnd_empty (h : NextWord s p g side goEnd r w) (ha : (getGird s p g).qa = []) (hb : (getGird s p g).qb = [])
    (hc : (getGird s p g).qc = []) : exec (.uprogEnd p g side) s = .next (
      let u := onStream p g side (fun t => { t with ended := true }) s
      if ((getGird s p g).stream (!side)).ended = true then stopProg p g csOk u else u) := by
  show execUprogEnd p g side s = _
  unfold execUprogEnd
  simp only [h, leftQueue_none ha hb hc, getGird_ends (cmd_of_nextWord h), girdAtEnd_done ha hb hc]

end Ends

/-- Settles O56: the rows' lemmas above, word by word. -/
theorem microprogramWords : Obligations.MicroprogramWords := by
  unfold Obligations.MicroprogramWords
  intro s p g r w stall
  dsimp only
  refine ⟨fun prog hrun hnew hprog hgood => exec_microprogram_begins hrun hnew hprog hgood, exec_setx_next, exec_addx_next,
    fun h hroom hlocal => congrArg Host.Outcome.next (loadWord_brings h hroom hlocal),
    fun h hfull hgoes => congrArg Host.Outcome.next (loadWord_waits h hfull hgoes),
    fun h hroom hlocal => congrArg Host.Outcome.next (loadWord_brings h hroom hlocal),
    fun v rest h hqueue hlocal => exec_stc_takes h hqueue hlocal,
    fun h => ⟨exec_mac_waits h, fun ha hb htime => ?mac⟩,
    fun h htime hpair => ?rdacc,
    fun code d h htime => congrArg Host.Outcome.next (issueExe_mistimed h htime _),
    exec_vop_effect,
    fun a rest h ha htime => ?vpopa, fun h hroom htime => ?vpush,
    fun h htime => congrArg Host.Outcome.next (issueExe_onTime h htime _),
    exec_zacc_clears,
    fun side h => exec_loop_next stall h,
    fun side h => ⟨fun k hleft => exec_uprogEnd_left h hleft, exec_uprogEnd_empty h⟩⟩
  case mac =>
    rw [exec_mac_issues h ha hb, issueExe_onTime h htime]
    rfl
  case rdacc =>
    have hfloat : ((pairOf (zrCode (cmFa r.bytes)) (zrCode (cmFb r.bytes))).getD (1, false)).2 = false := by
      rcases hpair with hnone | ⟨k, hsome⟩
      · rw [hnone, Option.getD_none]
      · rw [hsome, Option.getD_some]
    refine congrArg Host.Outcome.next ((issueExe_onTime h htime _).trans ?_)
    simp only [hfloat, Bool.false_eq_true, if_false]
    rfl
  case vpopa =>
    rw [exec_vpopa_issues h ha, issueExe_onTime h htime]
    rfl
  case vpush =>
    rw [exec_vpush_issues h hroom, issueExe_onTime h htime]
    rfl

end Sys2Proof.Machine
end

section
/-! SUPPORT. A girder's own commands (07 R186-R196; 11 R302, R304; 13 R338-R344): what MATMUL and the vector commands leave, and
that a converted array fits the room of its destination. -/

namespace Sys2Proof.Machine
open Sys2Proof

/-! ### Room of a converted row (07 R175-R178; 13 R340) -/

theorem chop_step {α : Type} (n k : Nat) {l : List α} (h : l ≠ []) : chop n (k + 1) l = l.take n :: chop n k (l.drop n) := by
  rw [chop]
  exact h

theorem chop_nil {α : Type} (n k : Nat) : chop n k ([] : List α) = [] := by
  cases k <;> rfl

/-- The pieces of a list, where there is fuel for all of them, are the list. -/
theorem chop_flatten {α : Type} {n : Nat} (k : Nat) (l : List α) (h : l.length ≤ n * k) : (chop n k l).flatten = l := by
  induction k generalizing l with
  | zero =>
    obtain rfl : l = [] := List.length_eq_zero_iff.1 (Nat.le_zero.1 h)
    rfl
  | succ k ih =>
    by_cases hl : l = []
    · rw [hl, chop_nil, List.flatten_nil]
    · have hrest : (l.drop n).length ≤ n * k := by
        rw [List.length_drop]
        rw [Nat.mul_succ] at h
        omega
      rw [chop_step n k hl, List.flatten_cons, ih _ hrest, List.take_append_drop]

/-- A row of MX blocks has a block for each 32 elements begun. -/
theorem chop_length {α : Type} (k : Nat) (l : List α) (h : l.length ≤ 32 * k) :
    (chop 32 k l).length = (l.length + 31) / 32 := by
  induction k generalizing l with
  | zero =>
    obtain rfl : l = [] := List.length_eq_zero_iff.1 (Nat.le_zero.1 h)
    rw [chop_nil, List.length_nil, List.length_nil]
  | succ k ih =>
    by_cases hl : l = []
    · rw [hl, chop_nil, List.length_nil, List.length_nil]
    · have hpos : 0 < l.length := List.length_pos_of_ne_nil hl
      rw [chop_step 32 k hl, List.length_cons, ih _ (by rw [List.length_drop]; omega), List.length_drop]
      omega

theorem mxQuantize_length (c : Nat) (v : List Val) (rnd : Nat → Rnd) : (mxQuantize c v rnd).2.1.length = v.length := by
  unfold mxQuantize
  split <;> simp

/-- A converted row has a pattern for each value. -/
theorem convertRow_length (c numctl job tid seed idx : Nat) (vs : List Val) :
    (convertRow c numctl job tid seed idx vs).1.length = vs.length := by
  unfold convertRow
  by_cases hmx : isMx c = true
  · simp only [hmx, if_true, List.length_flatMap, List.map_map, Function.comp_def, List.length_take, mxQuantize_length,
      List.length_append, Nat.le_add_right, Nat.min_eq_left]
    have hpieces : (chop 32 (vs.length / 32 + 1) vs).zipIdx.map (fun y => y.1.length) =
        (chop 32 (vs.length / 32 + 1) vs).map List.length := by
      conv_rhs => rw [← List.zipIdx_map_fst 0 (chop 32 (vs.length / 32 + 1) vs), List.map_map]
      rfl
    rw [hpieces, ← List.length_flatten, chop_flatten _ _ (by omega)]
  · simp [hmx]

/-- A converted row has a scale byte for each MX block. -/
theorem convertRow_scales (c numctl job tid seed idx : Nat) (vs : List Val) :
    (convertRow c numctl job tid seed idx vs).2.1.length = scaleBytes c vs.length := by
  unfold convertRow scaleBytes
  by_cases hmx : isMx c = true
  · simp only [hmx, if_true, List.length_map, List.length_zipIdx]
    exact chop_length _ _ (by omega)
  · simp [hmx]

/-- The zero-run form fits its region, whatever its format and scales. -/
theorem zrWrite_length_le (c : Nat) (xs scales : List Nat) : (zrWrite c xs scales).length ≤ zrCapacity c xs.length := by
  have hlen : (xs.zipIdx.map fun y => (y.1, scales.getD (y.2 / 32) 0 == 0xFF)).length = xs.length := by simp
  obtain ⟨hblocks, -⟩ := chop_blocks (xs.length / 256 + 1) (xs.zipIdx.map fun y => (y.1, scales.getD (y.2 / 32) 0 == 0xFF))
    (by rw [hlen]; omega)
  rw [hlen] at hblocks
  unfold zrCapacity
  rw [← hblocks]
  exact flatMap_zrEncode_length_le c _

theorem rowOut_length_le (f : Nat) (pats scales : List Nat) : (rowOut f pats scales).length ≤ rowBytes f pats.length := by
  unfold rowOut rowBytes
  split
  · exact zrWrite_length_le _ _ _
  · exact Nat.le_of_eq (packElems_length _ _)

/-! ### Writes inside a room -/

/-- The state u differs from s in bytes of the local stores alone, whose keys lie from lo up to hi. -/
structure WritesRoom (lo hi : Nat) (s u : State) : Prop where
  rest : u = { s with pr := { s.pr with store := u.pr.store } }
  store : SmWf (fun _ => (0 : Byte)) u.pr.store
  outside : ∀ k, (k < lo ∨ hi ≤ k) → smGet 0 u.pr.store k = smGet 0 s.pr.store k

namespace WritesRoom
variable {lo hi : Nat} {s u : State}

theorem refl (h : SmWf (fun _ => (0 : Byte)) s.pr.store) : WritesRoom lo hi s s := ⟨rfl, h, fun _ _ => rfl⟩

/-- A write of a context that is resident, inside the room. -/
theorem ctxLocWr (h : WritesRoom lo hi s u) {x p a : Nat} {bs : List Byte} (hres : residentOn s x p = true)
    (hlo : lo ≤ 2 ^ 24 * p + a) (hhi : 2 ^ 24 * p + a + bs.length ≤ hi) : WritesRoom lo hi s (ctxLocWr x p a bs u) := by
  have hsame : residentOn u x p = true := by
    rw [h.rest]
    exact hres
  have hwrite : Machine.ctxLocWr x p a bs u = locWr p a bs u := if_pos hsame
  rw [hwrite]
  refine ⟨?_, smPutAll_wf (fun _ => 0) bs u.pr.store _ 1 h.store, fun k hk => ?_⟩
  · conv_lhs => rw [h.rest]
    rfl
  · refine (smGet_putAll_out (fun _ => 0) 0 bs u.pr.store _ 1 k (fun i hi => ?_) h.store.1).trans (h.outside k hk)
    omega

/-- A converted row stays in its room: its elements, and its scale bytes past them. -/
theorem putRow (h : WritesRoom lo hi s u) {x p a f : Nat} {pats scales : List Nat} (hres : residentOn s x p = true)
    (hscales : scales.length ≤ scaleBytes (zrCode f) pats.length) (hlo : lo ≤ 2 ^ 24 * p + a)
    (hhi : 2 ^ 24 * p + a + rowBytesC f pats.length ≤ hi) : WritesRoom lo hi s (putRow x p a f pats scales u) := by
  have hout := rowOut_length_le f pats scales
  unfold rowBytesC at hhi
  have helems := h.ctxLocWr (bs := rowOut f pats scales) hres hlo (by omega)
  unfold Machine.putRow
  dsimp only
  split
  · exact helems
  · exact helems.ctxLocWr hres (by omega) (by rw [List.length_map]; omega)

end WritesRoom

/-- NaNs' records beside a change of the local stores. -/
theorem nanFrame_store {s u v : State} (hu : u = { s with pr := { s.pr with store := u.pr.store } }) (hv : nanFrame u v) :
    v = { s with regs := v.regs, out := v.out, trc := v.trc, corr := v.corr, pr := { s.pr with store := v.pr.store } } := by
  have hstore : u.pr.store = v.pr.store := by rw [hv]
  rw [hstore] at hu
  exact hv.trans (congrArg (fun w : State => { w with regs := v.regs, out := v.out, trc := v.trc, corr := v.corr }) hu)

/-- What a vector command writes lies in its destination's room; of the rest, its NaNs' records alone may change. -/
theorem writeArray_keeps {s : State} {p g d tid : Nat} {r : RunCmd} {es : List Elem}
    (hstore : SmWf (fun _ => (0 : Byte)) s.pr.store) (hres : residentOn s r.ctx p = true) {t : State}
    (ht : writeArray p g r d tid es s = t) :
    t = { s with regs := t.regs, out := t.out, trc := t.trc, corr := t.corr, pr := { s.pr with store := t.pr.store } } ∧
      ∀ k, (k < 2 ^ 24 * p + d ∨ 2 ^ 24 * p + d + arrayBytes (cmFc r.bytes) es.length ≤ k) →
        smGet 0 t.pr.store k = smGet 0 s.pr.store k := by
  subst ht
  unfold writeArray arrayBytes
  dsimp only
  set q := convertRow (zrCode (cmFc r.bytes)) (cmNumctl r.bytes) (ctxJob s r.ctx) tid r.seed 0 (es.map fun e => val32 e.val)
    with hq
  have hpats : q.1.length = es.length := by rw [hq, convertRow_length, List.length_map]
  have hscales : q.2.1.length = scaleBytes (zrCode (cmFc r.bytes)) q.1.length := by
    rw [hpats, hq, convertRow_scales, List.length_map]
  have hroom : WritesRoom (2 ^ 24 * p + d) (2 ^ 24 * p + d + rowBytesC (cmFc r.bytes) es.length) s
      (putRow r.ctx p d (cmFc r.bytes) q.1 q.2.1 s) :=
    (WritesRoom.refl hstore).putRow hres hscales.le (Nat.le_refl _) (by rw [hpats])
  obtain ⟨hrest, -, houtside⟩ := hroom
  have hnans := girderNans_frame p g r (mergeProds (es.zipIdx.filterMap fun y =>
    if isNan32 y.1.val && !y.1.nanIn then some (y.2, cInvalid) else none) q.2.2) (putRow r.ctx p d (cmFc r.bytes) q.1 q.2.1 s)
  refine ⟨nanFrame_store hrest hnans, fun k hk => ?_⟩
  rw [hnans]
  exact houtside k hk

/-! ### MATMUL -/

section Product
variable {s : State} {p : PierNo} {g : GirdNo} {r : RunCmd}

theorem okRows_length_le {α : Type} (l : List (Except Nat α)) : (okRows l).length ≤ l.length := List.length_filterMap_le _ _

/-- A product whose blocks can all be read has every row, and ends OK. -/
theorem matProduct_whole (p g : Nat) (r : RunCmd) (s : State)
    (hb : firstBad ((List.range (mmN r.bytes)).map (colB s r.ctx p r.bytes)) 0 = none)
    (ha : firstBad ((List.range (mmM r.bytes)).map (rowA s r.ctx p r.bytes)) 0 = none) :
    let rows := (okRows ((List.range (mmM r.bytes)).map (rowA s r.ctx p r.bytes))).zipIdx.map fun y =>
      mmRow s p r (okRows ((List.range (mmN r.bytes)).map (colB s r.ctx p r.bytes))) y.2 y.1
    (matProduct p g r s).2.2 = finish p g csOk 0 (girderNans p g r (tiled (mmN r.bytes) (rows.flatMap MmRow.prods))
      (putRows p r rows s)) := by
  have hall : (okRows ((List.range (mmM r.bytes)).map (rowA s r.ctx p r.bytes))).length ≤ mmM r.bytes :=
    (okRows_length_le _).trans (by simp)
  unfold matProduct
  simp only [hb, ha, List.take_of_length_le hall]

theorem exec_matmul_runs (h : Runs s p g 0x10 r (mmFaults g false r.bytes)) :
    exec (.matmul p g .none) s = .next (matProduct p g r s).2.2 := by
  show execMatmul p g .none s = _
  unfold execMatmul
  rw [runOp_runs (faults := fun _ r => mmFaults g false r.bytes) h]
  rfl

theorem exec_matmul_sram (h : Runs s p g 0x10 r (mmFaults g false r.bytes)) (a : BitVec 24) :
    exec (.matmul p g (.sram a)) s = .next (finish p g csFaulted 0 (byFault (r.by_ p g) 0x120C a.toNat
      (freeRows p r (List.range (mmM r.bytes)) s))) := by
  show execMatmul p g (.sram a) s = _
  unfold execMatmul
  rw [runOp_runs (faults := fun _ r => mmFaults g false r.bytes) h]
  rfl

end Product

/-! ### Vector commands -/

section Vectors
variable {s : State} {p g op : Nat} {r : RunCmd} {faults : List Byte → List Nat} (h : Runs s p g op r (faults r.bytes))
include h

theorem vecOp_writes (d n tid : List Byte → Nat) (f : State → RunCmd → List Elem) : vecOp p g op none faults d n tid f s =
    finish p g csOk 0 (writeArray p g r (d r.bytes) (tid r.bytes) (f s r) s) := by
  unfold vecOp
  rw [runOp_runs (faults := fun _ r => faults r.bytes) h]

/-- A word of its operands that cannot be corrected leaves its destination undefined. -/
theorem vecOp_faulted (a : BitVec 24) (d n tid : List Byte → Nat) (f : State → RunCmd → List Elem) :
    vecOp p g op (some a) faults d n tid f s = finish p g csFaulted 0 (byFault (r.by_ p g) 0x120C a.toNat
      (tookFree (ctxLocWr r.ctx p (d r.bytes) (leBytes (arrayBytes (cmFc r.bytes) (n r.bytes))
        (freeBits (8 * arrayBytes (cmFc r.bytes) (n r.bytes)) s)) s))) := by
  unfold vecOp
  rw [runOp_runs (faults := fun _ r => faults r.bytes) h]

end Vectors

theorem elemOf_single (v : Nat) : elemOf v [v] = { val := v, nanIn := isNan32 v } := by simp [elemOf]

theorem eopElem_two {e : Nat} (he : eopArity e = 2) (x y z : Nat) :
    eopElem e x y z = { val := eopApply e x y 0, nanIn := isNan32 x || isNan32 y } := by
  have hfma : e ≠ 3 := by
    rintro rfl
    exact absurd he (by decide)
  simp [eopElem, elemOf, he, eopApply_two hfma x y z]

/-- An operation of two operands takes X and Y element by element. -/
theorem elemwiseElems_two {p : Nat} {s : State} {r : RunCmd} (he : eopArity (ewOp r.bytes) = 2) :
    elemwiseElems p s r = (readArray s r.ctx p (le r.bytes 0x10 4) (cmFa r.bytes) (ewN r.bytes)).zipWith (fun a c =>
      { val := eopApply (ewOp r.bytes) a c 0, nanIn := isNan32 a || isNan32 c }) (ewOperand s p r 0x14 0 0x28) := by
  unfold elemwiseElems
  have hthree : ¬ 3 ≤ 2 := by decide
  simp only [he, Nat.le_refl, hthree, if_true, if_false]
  refine List.ext_getElem (by simp) fun i _ _ => ?_
  simp only [List.getElem_map, List.getElem_zip, List.getElem_zipWith]
  exact eopElem_two he _ _ _

/-- Settles O53: the rows' lemmas above; a vector command's writes by the lengths of what it converts. -/
theorem girderCommands : Obligations.GirderCommands := by
  unfold Obligations.GirderCommands
  intro s p g r
  dsimp only
  refine ⟨fun h => ⟨fun hb ha => ?product, exec_matmul_sram h⟩, fun h => ?convert,
    fun h => congrArg Host.Outcome.next (vecOp_writes h _ _ _ _), elemwiseElems_two,
    fun h => congrArg Host.Outcome.next (vecOp_writes h _ _ _ _), fun h => congrArg Host.Outcome.next (vecOp_writes h _ _ _ _),
    fun h => congrArg Host.Outcome.next (vecOp_writes h _ _ _ _),
    fun a h => ⟨_, congrArg Host.Outcome.next (vecOp_faulted h a _ _ _ _), fun hres => ?faulted⟩,
    fun d tid es hs hres => ⟨_, rfl, writeArray_keeps hs.store hres rfl⟩⟩
  case product =>
    rw [exec_matmul_runs h]
    exact congrArg Host.Outcome.next (matProduct_whole p g r s hb ha)
  case convert =>
    refine congrArg Host.Outcome.next ((vecOp_writes h _ _ _ _).trans ?_)
    simp only [elemOf_single]
  case faulted =>
    rw [show ctxLocWr r.ctx p _ _ s = locWr p _ _ s from if_pos hres]
    rfl

end Sys2Proof.Machine
end
